-- ==== Sys2Proof/Word.lean ====
section
/-! DEFINITION. The word types of the manual and the plainest arithmetic on them
(`00_scope` R6, R7): bit 0 is the least significant bit and multi-byte fields are
little-endian. -/

namespace Sys2Proof

/-- One byte. -/
abbrev Byte := BitVec 8
/-- A 64-bit register or memory word (R7). -/
abbrev W64 := BitVec 64
/-- A 48-bit device address, context virtual address or program counter. -/
abbrev W48 := BitVec 48

/-- Bits `[hi:lo]` of a word, as a number (R6). -/
def fld {w : Nat} (x : BitVec w) (hi lo : Nat) : Nat := (x.toNat >>> lo) % 2 ^ (hi + 1 - lo)

/-- Bit `i` of a word. -/
def bit {w : Nat} (x : BitVec w) (i : Nat) : Bool := x.getLsbD i

/-- A number as a 64-bit word. -/
def w64 (n : Nat) : W64 := BitVec.ofNat 64 n

/-- A number placed at bit `lo` of a 64-bit word. -/
def at64 (n lo : Nat) : W64 := BitVec.ofNat 64 (n <<< lo)

/-- `1` for true and `0` for false. -/
def b2n (b : Bool) : Nat := if b then 1 else 0

/-- `n` is a multiple of `a`. -/
def aligned (n a : Nat) : Bool := n % a == 0

/-- Integer quotient rounded up. -/
def ceilDiv (a b : Nat) : Nat := (a + b - 1) / b

end Sys2Proof
end

