-- ==== Sys2Proof/Operand.lean ====
section
/-! DEFINITION. The operands of the commands: the fields of a core instruction as its
format lays them out (`06_instruction_encoding`), the records that cross the edge of the
block (memory requests, flits, messages, packets, mailbox calls) and the outcomes that an
event reports. -/

namespace Sys2Proof

/-- Where and how a core instruction is issued: the core it is reached on and the common
fields of its first word (`06` R132); `rsv` is whether a bit of its words that its format
marks RSV is set. -/
structure Issue where
  /-- Core number (`01` R14). -/
  core : Fin 512
  /-- Predicate flag. -/
  pred : BitVec 3 := 0
  /-- Sense: executes when the flag is 0. -/
  pneg : Bool := false
  /-- A reserved bit is set. -/
  rsv : Bool := false
  deriving DecidableEq, Repr

/-- Format VOP (`06` R142); SUB is the command. -/
structure VOp where
  /-- Destination slot, or predicate number. -/
  d : BitVec 11
  /-- Source slot A. -/
  a : BitVec 11
  /-- Source slot B, or a general register. -/
  b : BitVec 11
  /-- N−1. -/
  n1 : BitVec 8
  /-- A advances. -/
  incA : Bool
  /-- B advances. -/
  incB : Bool
  /-- B names a general register. -/
  breg : Bool
  /-- Type code. -/
  ty : BitVec 3
  /-- Signed, or RND. -/
  x : Bool
  /-- Saturate. -/
  sat : Bool
  deriving DecidableEq, Repr

/-- Format VUN (`06` R142). -/
structure VUn where
  /-- Destination slot. -/
  d : BitVec 11
  /-- Source slot. -/
  a : BitVec 11
  /-- N−1. -/
  n1 : BitVec 8
  /-- A advances. -/
  incA : Bool
  /-- Type code. -/
  ty : BitVec 3
  /-- Saturate. -/
  sat : Bool
  deriving DecidableEq, Repr

/-- Format V3 (`06` R142, R144). -/
structure V3 where
  /-- Destination slot. -/
  d : BitVec 11
  /-- Source slot A. -/
  a : BitVec 11
  /-- Source slot B, or a general register. -/
  b : BitVec 11
  /-- Source slot C. -/
  c : BitVec 11
  /-- Register that holds N. -/
  gn : BitVec 5
  /-- A advances. -/
  incA : Bool
  /-- B advances. -/
  incB : Bool
  /-- C advances. -/
  incC : Bool
  /-- RND. -/
  rnd : Bool
  /-- B names a general register. -/
  breg : Bool
  deriving DecidableEq, Repr

/-- Format VCVT (`06` R142, R145). -/
structure VCvt where
  /-- Destination slot. -/
  d : BitVec 11
  /-- Source slot. -/
  a : BitVec 11
  /-- N−1. -/
  n1 : BitVec 8
  /-- Source format code. -/
  sfmt : BitVec 4
  /-- Destination format code. -/
  dfmt : BitVec 4
  /-- RND. -/
  rnd : BitVec 2
  /-- Register that holds IDX. -/
  gidx : BitVec 5
  deriving DecidableEq, Repr

/-- Format VCVT.MX (`06` R142). -/
structure VMx where
  /-- Destination slot. -/
  d : BitVec 11
  /-- Source slot. -/
  a : BitVec 11
  /-- Scale slot. -/
  s : BitVec 11
  /-- N−1. -/
  n1 : BitVec 8
  /-- MX format code minus 5. -/
  fmx : BitVec 3
  /-- Scale rule: round-up. -/
  rule : Bool
  /-- Block code. -/
  blk : BitVec 2
  /-- RND. -/
  rnd : BitVec 2
  /-- Register that holds IDX. -/
  gidx : BitVec 5
  deriving DecidableEq, Repr

/-- Format VBX (`06` R142, R145). -/
structure VBx where
  /-- Destination slot. -/
  d : BitVec 11
  /-- Source slot. -/
  a : BitVec 11
  /-- Agreed-byte slot. -/
  s : BitVec 11
  /-- N−1. -/
  n1 : BitVec 8
  /-- Register that holds T. -/
  gt : BitVec 5
  deriving DecidableEq, Repr

/-- Format VRNG (`06` R142, R145). -/
structure VRng where
  /-- Destination slot. -/
  d : BitVec 11
  /-- N−1. -/
  n1 : BitVec 8
  /-- Register a. -/
  ga : BitVec 5
  /-- Register b. -/
  gb : BitVec 5
  deriving DecidableEq, Repr

/-- Formats RSUM and RSEL (`06` R146); RSUM leaves `gidx` zero. -/
structure RFmt where
  /-- First source slot. -/
  src : BitVec 11
  /-- N−1. -/
  n1 : BitVec 8
  /-- Destination slot. -/
  dst : BitVec 11
  /-- State slot. -/
  accs : BitVec 11
  /-- Start from the state in ACCS. -/
  init : Bool
  /-- Write the state to ACCS. -/
  save : Bool
  /-- Type code. -/
  ty : BitVec 3
  /-- Register that holds the index base. -/
  gidx : BitVec 5
  deriving DecidableEq, Repr

/-- Format RTOPK (`06` R146). -/
structure RTopk where
  /-- First source slot. -/
  src : BitVec 11
  /-- N−1. -/
  n1 : BitVec 8
  /-- Destination slot. -/
  dst : BitVec 11
  /-- State slot field. -/
  accs : BitVec 11
  /-- Earlier candidates are in DST. -/
  init : Bool
  /-- SAVE field. -/
  save : Bool
  /-- K−1. -/
  k1 : BitVec 6
  /-- Register that holds the index base. -/
  gidx : BitVec 5
  deriving DecidableEq, Repr

/-- Format LOADW (`06` R148). -/
structure LoadW where
  /-- Format code. -/
  fmt : BitVec 4
  /-- Scaled. -/
  scl : Bool
  /-- Block code. -/
  blk : BitVec 2
  /-- Register of the data base. -/
  gd : BitVec 5
  /-- Register of the scale base. -/
  gs : BitVec 5
  deriving DecidableEq, Repr

/-- First word of STREAM (`06` R148). -/
structure StreamF where
  /-- Streaming format. -/
  fmtA : BitVec 4
  /-- Scale stream present. -/
  sclA : Bool
  /-- Block code. -/
  blkA : BitVec 2
  /-- Register of BASE_A. -/
  ga : BitVec 5
  /-- Register of SBASE_A. -/
  gsa : BitVec 5
  /-- Ring. -/
  ring : BitVec 4
  /-- Mode. -/
  mode : BitVec 2
  /-- First accumulator entry. -/
  acc : BitVec 8
  /-- M−1. -/
  m1 : BitVec 20
  deriving DecidableEq, Repr

/-- Second word of STREAM and ACCOUT (`06` R148). -/
structure OutW where
  /-- Output format. -/
  fmt : BitVec 4
  /-- Scale rule. -/
  srule : BitVec 2
  /-- Block code. -/
  blk : BitVec 2
  /-- Destination. -/
  dst : BitVec 2
  /-- Register of OBASE. -/
  go : BitVec 5
  /-- Register of OSBASE. -/
  gos : BitVec 5
  /-- K0 code. -/
  k0 : BitVec 2
  /-- RND. -/
  rnd : BitVec 2
  /-- Register of IDX. -/
  gidx : BitVec 5
  deriving DecidableEq, Repr

/-- Fields of CSADV (`06` R149). -/
structure CsAdv where
  /-- The table is local. -/
  loc : Bool
  /-- Register of the base. -/
  gt : BitVec 5
  /-- Register of the count. -/
  gn : BitVec 5
  /-- Hold interval. -/
  h : BitVec 16
  deriving DecidableEq, Repr

/-- Fields of DMA.DESC (`06` R150). -/
structure DmaF where
  /-- Engine, 3 for the first that accepts. -/
  eng : BitVec 2
  /-- The first descriptor is local. -/
  loc : Bool
  /-- Register of the descriptor address. -/
  gd : BitVec 5
  /-- Signal a fence. -/
  fen : Bool
  /-- Fence. -/
  fid : BitVec 16
  /-- Register of the value. -/
  gv : BitVec 5
  deriving DecidableEq, Repr

/-- Fields of DMA.COPY (`06` R150). -/
structure DmaCopyF where
  /-- Register of the destination. -/
  gdst : BitVec 5
  /-- Register of the source. -/
  gsrc : BitVec 5
  /-- Register of the length. -/
  glen : BitVec 5
  /-- The destination is local. -/
  dl : Bool
  /-- The source is local. -/
  sl : Bool
  deriving DecidableEq, Repr

/-- Fields of FENCE (`06` R152). -/
structure FenceF where
  /-- Fence ID. -/
  fid : BitVec 16
  /-- The ID is in a register. -/
  idr : Bool
  /-- Register of the ID. -/
  gi : BitVec 5
  /-- Register of the value. -/
  gv : BitVec 5
  /-- Destination register. -/
  gd : BitVec 5
  /-- Destination predicate. -/
  pd : BitVec 3
  deriving DecidableEq, Repr

/-- What runs a descriptor: a DMA engine of a cluster, or the fill of a core's window. -/
inductive Mover
  /-- Engine `e` of a cluster. -/
  | engine (cluster : Fin 64) (e : Fin 3)
  /-- The fill of window `i` of a core. -/
  | window (core : Fin 512) (i : Fin 16)
  deriving DecidableEq, Repr

/-- What checking a stored line shows (`20` R459, `16` R386). -/
inductive Health
  /-- ECC and MAC good. -/
  | clean
  /-- ECC corrected, MAC good. -/
  | corrected
  /-- ECC uncorrectable. -/
  | uncorrectable
  /-- ECC clean or corrected and the MAC wrong. -/
  | macFail
  deriving DecidableEq, Repr

/-- A memory request reaching its target (`07` R168, `08` R193–R195). -/
structure MemOp where
  /-- Initiator ID (`07` R169). -/
  init : Fin 1024
  /-- Context that the request carries. -/
  ctx : Fin 4096
  /-- Device address. -/
  da : BitVec 48
  /-- Write. -/
  write : Bool
  /-- Walk read. -/
  walk : Bool
  /-- Bytes read. -/
  len : Nat
  /-- Bytes written. -/
  data : List Byte
  /-- State of the line addressed. -/
  health : Health
  /-- How many of the oldest requests that wait at its controller the controller has issued to DRAM before it
  arrives (`08` R195). -/
  issued : Nat
  /-- How many of the oldest requests out at DRAM there have had their data or acknowledgement returned before it (`08`
  R193). -/
  returned : Nat
  deriving DecidableEq, Repr

/-- A retry of a held request (`08` R195): how many of the oldest requests that wait at its controller have been issued to
DRAM before it, and what a check of its line shows. -/
structure RetryIn where
  /-- Requests issued. -/
  issued : Nat
  /-- Requests whose data or acknowledgement has returned. -/
  returned : Nat
  /-- State of the line addressed. -/
  health : Health
  deriving DecidableEq, Repr

/-- A bridle flit (`01` R18, R19): its traffic class (0 request, 1 response, 2 posted write, 3 management), the dies
between which its message travels, and the message that its source sends with it. -/
structure BridleIn where
  /-- Traffic class. -/
  cls : Fin 4
  /-- Source die: 0–7 C-dies, 8–11 M-dies, 12 the X-die. -/
  src : Fin 13
  /-- Destination die. -/
  dst : Fin 13
  /-- The message. -/
  w : BitVec 64
  deriving DecidableEq, Repr

/-- A QUOTE that another module presents, with what its certificate chain shows (`17` R413, R420, R421). -/
structure QuoteIn where
  /-- The response: CHD, the admitted bit, blocks 1 to 3, the contexts, the nonce and the signature. -/
  quote : List Byte := []
  /-- The chain verifies up to its root, and the signature under the alias key that it certifies. -/
  good : Bool := true
  /-- SM3 of the root public key of the chain. -/
  root : BitVec 256 := 0
  /-- The identity that the chain names, as a digest of its public key. -/
  ident : BitVec 256 := 0
  deriving DecidableEq, Repr

/-- What the peer of a link contributes to an SM2 key exchange: its attested alias key and its ephemeral key (`15` R372). -/
structure PeerKeys where
  /-- Alias public key. -/
  static : List Byte := []
  /-- Ephemeral public key. -/
  eph : List Byte := []
  deriving DecidableEq, Repr

/-- A mailbox command: the channel, the driver's tag and the argument words from W0
(`25` R565, R569). -/
structure MbxCall where
  /-- Channel. -/
  chan : Fin 8
  /-- SEQ. -/
  seq : BitVec 16
  /-- Argument words; words not given are zero. -/
  args : List W64
  /-- For HANDOFF.OPEN across modules, the QUOTE that the far module presents while the command runs (`17` R421). -/
  peer : QuoteIn := {}
  deriving DecidableEq, Repr

/-- A command packet read from a queue's ring (`14` R352). -/
structure Pkt where
  /-- Resident slot of its context. -/
  slot : Fin 48
  /-- Queue. -/
  queue : Fin 16
  /-- The eight words. -/
  w : List W64
  deriving DecidableEq, Repr

/-- A flit as received (`11` R259, R263): its 256 bytes, and what FEC shows. -/
structure FlitIn where
  /-- Port. -/
  port : Fin 16
  /-- Its payload is of the response class, which no header bit shows (log 27). -/
  resp : Bool
  /-- The bytes of the flit. -/
  wire : List Byte
  /-- The FEC codewords that end with this flit: how many symbols were corrected, or none where FEC cannot correct it. -/
  fec : List (Option (Fin 16))
  /-- Some of its bytes lie in a codeword that FEC cannot correct. -/
  lost : Bool
  deriving DecidableEq, Repr

/-- What an LCTL flit carries (`11` R273); the layout of its payload is not given (log 27). -/
structure LctlIn where
  /-- Cumulative ACK: the SEQ of the last DATA flit accepted. -/
  ack : BitVec 32
  /-- NAK, when one is due. -/
  nak : Option (BitVec 32)
  /-- FREED by class. -/
  freed : List (BitVec 32)
  deriving DecidableEq, Repr

/-- A part of an exchange of time stamps (`12` R307). -/
inductive TimeRole
  /-- The module asks its parent. -/
  | ask
  /-- A question has arrived from a child. -/
  | answer
  /-- The parent's answer has arrived. -/
  | done
  deriving DecidableEq, Repr

/-- A pool message received at a port (`11` R278). -/
structure PoolMsg where
  /-- Port. -/
  port : Fin 16
  /-- Requester's tag. -/
  tag : BitVec 14
  /-- Lines. -/
  nl : Nat
  /-- Node address. -/
  addr : BitVec 64
  /-- Requester's node. -/
  reqn : BitVec 16
  /-- PATOM operand. -/
  opnd : BitVec 64
  /-- A write on the state-stream virtual channel. -/
  strm : Bool
  /-- Lines, 144 B each with their metadata, or the operands of PATOM. -/
  data : List Byte
  /-- A line of the region is uncorrectable. -/
  bad : Bool
  deriving DecidableEq, Repr

/-- A park whose state has arrived (`09` R237). -/
structure BallastIn where
  /-- M-die. -/
  die : Fin 4
  /-- Record group. -/
  rg : BitVec 40
  deriving DecidableEq, Repr

/-- A member of a herd from which a message comes, and the membership epoch that the message carries (`12` R288). -/
structure HerdFrom where
  /-- Member index. -/
  m : Fin 4096
  /-- Epoch. -/
  epoch : BitVec 32
  deriving DecidableEq, Repr

/-- A generation as a member hears of it, with the epoch that the message carries (`12` R288, `19` R448, R449). -/
structure GenFrom where
  /-- Generation. -/
  g : BitVec 64
  /-- Epoch. -/
  epoch : BitVec 32
  deriving DecidableEq, Repr

/-- What a consumer's module returns of a handoff channel across modules (`10` R248, R250, R251). -/
structure CreditIn where
  /-- The highest record for which its sink ring has a free slot. -/
  upTo : BitVec 64
  /-- The highest record that is visible in its sink ring. -/
  arrived : BitVec 64
  /-- The cause code with which its end of the channel has broken. -/
  cause : Option (BitVec 8)
  deriving DecidableEq, Repr

/-- A herd message (`12` R297, R299, R304): header, the descriptor fields compared
across members and the payload. -/
structure CollMsg where
  /-- OPC: 0x20 EXPMAX, 0x21 RSUM, 0x22 AGATHER, 0x23 scalar or ALLSUM, 0x30–0x35 control; 0x40–0x4A stand for messages
  whose code the manual does not list (log 29). -/
  opc : Nat := 0
  /-- Channel. -/
  ch : Nat := 0
  /-- Round. -/
  rnd : Nat := 0
  /-- Sending member. -/
  src : Nat := 0
  /-- Membership epoch. -/
  mep : Nat := 0
  /-- t for LRN, otherwise the descriptor number. -/
  step : Nat := 0
  /-- Unit; of a control message the member that it is for (log 29). -/
  unit : Nat := 0
  /-- Sequence to this successor. -/
  seq : Nat := 0
  /-- LRN of the descriptor, or a unit of the learning shard. -/
  lrn : Bool := false
  /-- First unit of the descriptor. -/
  u0 : Nat := 0
  /-- Unit count of the descriptor. -/
  ucnt : Nat := 0
  /-- Program label of the descriptor. -/
  tag : W64 := 0
  /-- The owner's result on its way round the ring. -/
  back : Bool := false
  /-- Payload: 4 exponent bytes, 772 B, sum windows, or what a control message holds. -/
  data : List Byte := []
  deriving DecidableEq, Repr

/-- An exact sum of FP32 values (`05` R122, `12` R303): in units of 2⁻¹⁴⁹ while every value is finite, an infinity once
one is met, and NaN once a NaN or both infinities are. -/
inductive LossSum
  /-- Finite. -/
  | fin (a : Int)
  /-- An infinity, negative or not. -/
  | inf (neg : Bool)
  /-- Not a number. -/
  | nan
  deriving DecidableEq, Repr

/-- The gate record of a step (`09` R213, R217, `12` R302, R303). -/
structure GateRec where
  /-- Step stamp. -/
  t : Nat := 0
  /-- Replay round. -/
  round : Nat := 0
  /-- Membership epoch. -/
  epoch : Nat := 0
  /-- N_nf: non-finite blocks. -/
  nnf : Nat := 0
  /-- W_all, a wide sum: 1,024 bits with LSB 2⁻⁵¹². -/
  wall : Nat := 0
  /-- W_clip, a wide sum. -/
  wclip : Nat := 0
  /-- W_self of each counted contributor: member index and wide sum, in index order. -/
  wself : List (Nat × Nat) := []
  /-- ΣL: the exact sum of the losses. -/
  sumL : LossSum := .fin 0
  /-- N_c: contributors counted. -/
  nc : Nat := 0
  /-- T_S: when the herd's last shard became complete. -/
  ts : Nat := 0
  /-- T_G: when the record was formed. -/
  tg : Nat := 0
  deriving DecidableEq, Repr

/-- A membership record (`12` R288). -/
structure MemRec where
  /-- Epoch, 32 bits. -/
  epoch : Nat := 0
  /-- Live members, ascending. -/
  live : List Nat := []
  /-- Link map: (member, port, member). -/
  links : List (Nat × Nat × Nat) := []
  /-- Bellwether index. -/
  bell : Nat := 0
  /-- Swap instant, Tether ns. -/
  swap : Nat := 0
  /-- Carry-over: (lost owner, directed ring, highest unit received) (R316). -/
  high : List (Nat × Nat × Nat) := []
  /-- The gate record of the step in flight, when a survivor holds it (R316). -/
  gate : Option GateRec := none
  /-- Of a record that arrives: the epoch of the record under which it was sent (R288). -/
  mep : Nat := 0
  deriving DecidableEq, Repr

/-- A Tether beacon (`12` R306). -/
structure Beacon where
  /-- Port it arrived on. -/
  port : Fin 16
  /-- Time domain. -/
  tdom : BitVec 16
  /-- Master's node. -/
  node : BitVec 16
  /-- Master's herd. -/
  hid : BitVec 32
  /-- Hops. -/
  hops : Nat
  deriving DecidableEq, Repr

/-- How a PCIe completion ends a request (`13` R331). -/
inductive CplStatus
  /-- Successful Completion. -/
  | ok
  /-- Unsupported Request. -/
  | ur
  /-- Completer Abort. -/
  | ca
  /-- Poisoned. -/
  | poisoned
  /-- Malformed payload. -/
  | malformed
  deriving DecidableEq, Repr

/-- A firmware image as transferred, by the results of its checks (`22` R504, R505). -/
structure ImageIn where
  /-- MAGIC, VER, IMGLEN and the zero fields are as R504 states. -/
  formOk : Bool
  /-- KEYIDX. -/
  key : Fin 4
  /-- SM3(PUB) equals the digest of KEYIDX. -/
  pubOk : Bool
  /-- MINROM is not above the ROM version. -/
  romOk : Bool
  /-- SVN. -/
  svn : BitVec 8
  /-- BDIG equals SM3 of the body. -/
  bodyOk : Bool
  /-- SIG verifies. -/
  sigOk : Bool
  /-- FWM. -/
  fwm : BitVec 256
  deriving DecidableEq, Repr

/-- What a start finds (`22` R498–R510, `15` R366, R380). -/
structure StartIn where
  /-- The lockstep self-check passes. -/
  selfOk : Bool
  /-- Fuse triplets with disagreeing fuses, over all dies. -/
  trip : Nat
  /-- One of four PUF reads matches the check value; in an enrolment, the bank written verifies. -/
  pufOk : Bool
  /-- Reads of the PUF that fail before the one that matches (`15` R367). -/
  pufBad : Fin 4 := 0
  /-- The start has not ended: a pending transition has done this many of its steps so far (`18` R433–R436). -/
  cut : Option (Fin 6) := none
  /-- SPI NOR answers, and every read of the image succeeds. -/
  norOk : Bool
  /-- The factory record verifies. -/
  factoryOk : Bool
  /-- The entropy source passes its start-up test. -/
  trngOk : Bool
  /-- A copy of the sealed training record verifies. -/
  trainOk : Bool
  /-- Temperatures lie within ±20 °C of those of the training record. -/
  tempOk : Bool
  /-- Channels and interfaces whose warm verify fails. -/
  fallback : Nat
  /-- LPDDR6 channels (true) and D-stacks (false) that cannot be trained or fail their test. -/
  bad : List (Bool × Nat)
  /-- LPDDR6 data rate chosen, MT/s. -/
  rate : Nat
  /-- A copy of the sealed user calibration record verifies. -/
  calOk : Bool
  /-- Milliseconds from step 1 to Ready. -/
  ms : Nat
  deriving DecidableEq, Repr

/-- A record of the field test that a unit fails, or whose version the device does not have, with what its signature shows
(`20` R474, R478, `04` R113). -/
structure FailRec where
  /-- VER of the record. -/
  ver : BitVec 16
  /-- UKIND: 0 core, 1 array, 2 vector lane, 3 reduction unit, 6 update unit, 7 collective engine. -/
  ukind : Nat
  /-- UIDX: the core, M-die or engine. -/
  uidx : Nat
  /-- Conformance CASE number. -/
  test : Nat
  /-- Array K-row; 0xFFFF when not known. -/
  row : Nat
  /-- Array N-column or lane; 0xFFFF when not known. -/
  col : Nat
  /-- Expected 8 B of the first differing word. -/
  expect : W64
  /-- Obtained 8 B. -/
  got : W64
  /-- Expected and obtained flag words. -/
  flags : BitVec 32 × BitVec 32
  deriving DecidableEq, Repr

/-- One reading of every temperature sensor, hottest of its group, in 0.125 °C
(`23` R520). -/
structure TempIn where
  /-- C-die junctions 0–7. -/
  tj : List (BitVec 16)
  /-- Hottest D-die of each stack. -/
  td : List (BitVec 16)
  /-- M-die junctions 0–3. -/
  mtj : List (BitVec 16)
  /-- X-die junction. -/
  xtj : BitVec 16
  /-- Coolant inlet. -/
  inlet : BitVec 16
  /-- LPDDR6 packages 0–31. -/
  lp : List (BitVec 16)
  deriving DecidableEq, Repr

/-- How the write of a generation ends (`19` R449, R450). -/
inductive CkptEnd
  /-- Every entry and signature is here, and CUR went from G − 1 to G. -/
  | ok
  /-- A member held no CKPT.WRITE. -/
  | missing
  /-- The membership epoch changed. -/
  | member
  /-- A stray, or no majority. -/
  | digest
  /-- A store request failed. -/
  | store
  /-- The compare-and-swap of CUR failed. -/
  | race
  /-- No flip in time. -/
  | timeout
  /-- The shards reach the manifest area. -/
  | space
  /-- An extent was unmapped or denied. -/
  | extent
  deriving DecidableEq, Repr

/-- What a restore reads from the store (`19` R456): what verifies, and the plaintext. -/
structure RestoreIn where
  /-- The manifest of CUR verifies. -/
  manifest : Bool
  /-- Every shard of CUR verifies. -/
  shards : Bool
  /-- The failing shards of CUR can be rolled forward under step 2 of the restore order. -/
  rolls : Bool
  /-- The manifest of CUR − 1 and every shard of it verify. -/
  prev : Bool
  /-- Step, chained digest and herd-common plaintext of CUR, rolled forward if need be. -/
  cur : Nat × BitVec 256 × List Byte
  /-- The same of CUR − 1. -/
  old : Nat × BitVec 256 × List Byte
  /-- Plaintext of the member record, or of the snapshot. -/
  memberRec : List Byte
  deriving DecidableEq, Repr

end Sys2Proof
end

