-- ==== Sys2Proof/Syntax.lean ====
section
/-! DEFINITION. The commands of the module: one constructor per row of the table of
operations and events, core instructions first. -/

namespace Sys2Proof

/-- A command: a core instruction issued, a mailbox command, a packet, a register or
configuration access, or an event (`95_what_each_step_holds`). -/
inductive Instr
  /-- ADD (R137). Scalar ADD writes g[RD] = g[RA] + g[RB] modulo 2^64. -/
  | add (h : Issue) (rd : BitVec 5) (ra : BitVec 5) (rb : BitVec 5)
  /-- SUB (R137). Scalar SUB writes g[RD] = g[RA] − g[RB] modulo 2^64. -/
  | sub (h : Issue) (rd : BitVec 5) (ra : BitVec 5) (rb : BitVec 5)
  /-- AND (R137). Scalar bitwise AND of two registers. -/
  | and (h : Issue) (rd : BitVec 5) (ra : BitVec 5) (rb : BitVec 5)
  /-- OR (R137). Scalar bitwise OR of two registers. -/
  | or (h : Issue) (rd : BitVec 5) (ra : BitVec 5) (rb : BitVec 5)
  /-- XOR (R137). Scalar bitwise XOR of two registers. -/
  | xor (h : Issue) (rd : BitVec 5) (ra : BitVec 5) (rb : BitVec 5)
  /-- ANDN (R137). Scalar a AND NOT b. -/
  | andn (h : Issue) (rd : BitVec 5) (ra : BitVec 5) (rb : BitVec 5)
  /-- SHL (R137). Scalar left shift by b[5:0]. -/
  | shl (h : Issue) (rd : BitVec 5) (ra : BitVec 5) (rb : BitVec 5)
  /-- SHR (R137). Scalar logical right shift by b[5:0]. -/
  | shr (h : Issue) (rd : BitVec 5) (ra : BitVec 5) (rb : BitVec 5)
  /-- SRA (R137). Scalar arithmetic right shift by b[5:0]. -/
  | sra (h : Issue) (rd : BitVec 5) (ra : BitVec 5) (rb : BitVec 5)
  /-- MIN (R137). Scalar signed minimum. -/
  | min (h : Issue) (rd : BitVec 5) (ra : BitVec 5) (rb : BitVec 5)
  /-- MINU (R137). Scalar unsigned minimum. -/
  | minu (h : Issue) (rd : BitVec 5) (ra : BitVec 5) (rb : BitVec 5)
  /-- MAX (R137). Scalar signed maximum. -/
  | max (h : Issue) (rd : BitVec 5) (ra : BitVec 5) (rb : BitVec 5)
  /-- MAXU (R137). Scalar unsigned maximum. -/
  | maxu (h : Issue) (rd : BitVec 5) (ra : BitVec 5) (rb : BitVec 5)
  /-- MUL (R137). Scalar multiply, low 64 bits. -/
  | mul (h : Issue) (rd : BitVec 5) (ra : BitVec 5) (rb : BitVec 5)
  /-- MULH (R137). Scalar signed multiply, high 64 bits. -/
  | mulh (h : Issue) (rd : BitVec 5) (ra : BitVec 5) (rb : BitVec 5)
  /-- MULHU (R137). Scalar unsigned multiply, high 64 bits. -/
  | mulhu (h : Issue) (rd : BitVec 5) (ra : BitVec 5) (rb : BitVec 5)
  /-- DIV (R137). Scalar signed division truncated toward zero; divide by zero gives all ones. -/
  | div (h : Issue) (rd : BitVec 5) (ra : BitVec 5) (rb : BitVec 5)
  /-- DIVU (R137). Scalar unsigned division; divide by zero gives all ones. -/
  | divu (h : Issue) (rd : BitVec 5) (ra : BitVec 5) (rb : BitVec 5)
  /-- SALUI (R137). Scalar ALU operation (ADDI to MAXUI) with a sign-extended 32-bit immediate. -/
  | salui (h : Issue) (sub : BitVec 6) (rd : BitVec 5) (ra : BitVec 5) (imm : BitVec 32)
  /-- MOVI (R138). Writes a sign-extended 32-bit immediate to a general register. -/
  | movi (h : Issue) (rd : BitVec 5) (imm : BitVec 32)
  /-- MOVHI (R138). Writes a 32-bit immediate to bits [63:32] of a general register. -/
  | movhi (h : Issue) (rd : BitVec 5) (imm : BitVec 32)
  /-- CMP (R138). Compares two registers and writes a predicate. -/
  | cmp (h : Issue) (cond : BitVec 6) (pd : BitVec 3) (ra : BitVec 5) (rb : BitVec 5)
  /-- CMPI (R138). Compares a register with an immediate and writes a predicate. -/
  | cmpi (h : Issue) (cond : BitVec 6) (pd : BitVec 3) (ra : BitVec 5) (imm : BitVec 32)
  /-- PAND (R138). Predicate AND. -/
  | pand (h : Issue) (pd : BitVec 3) (pa : BitVec 3) (pb : BitVec 3)
  /-- POR (R138). Predicate OR. -/
  | por (h : Issue) (pd : BitVec 3) (pa : BitVec 3) (pb : BitVec 3)
  /-- PXOR (R138). Predicate XOR. -/
  | pxor (h : Issue) (pd : BitVec 3) (pa : BitVec 3) (pb : BitVec 3)
  /-- PANDN (R138). Predicate AND NOT. -/
  | pandn (h : Issue) (pd : BitVec 3) (pa : BitVec 3) (pb : BitVec 3)
  /-- PMOV (R138). Predicate move. -/
  | pmov (h : Issue) (pd : BitVec 3) (pa : BitVec 3) (pb : BitVec 3)
  /-- PNOT (R138). Predicate inverse. -/
  | pnot (h : Issue) (pd : BitVec 3) (pa : BitVec 3) (pb : BitVec 3)
  /-- LD (R139). Scalar load from context memory or, with LOC, from the local stores. -/
  | ld (h : Issue) (loc : Bool) (sx : Bool) (size : BitVec 2) (rd : BitVec 5) (ra : BitVec 5) (imm : BitVec 32)
  /-- ST (R139). Scalar store to context memory or, with LOC, to the local stores. -/
  | st (h : Issue) (loc : Bool) (sx : Bool) (size : BitVec 2) (rs : BitVec 5) (ra : BitVec 5) (imm : BitVec 32)
  /-- SCALAR_LOAD_RETURN (R33). A scalar load from context memory returns its data to the destination register and frees its in-flight entry. -/
  | scalarLoadReturn (core : Fin 512) (i : Fin 16)
  /-- BR (R140). PC-relative branch. -/
  | br (h : Issue) (rd : BitVec 5) (imm : BitVec 32)
  /-- BRL (R140). PC-relative branch that writes the link register. -/
  | brl (h : Issue) (rd : BitVec 5) (imm : BitVec 32)
  /-- BRR (R140). Branch to a register target. -/
  | brr (h : Issue) (rd : BitVec 5) (ra : BitVec 5)
  /-- BRRL (R140). Branch to a register target that writes the link register. -/
  | brrl (h : Issue) (rd : BitVec 5) (ra : BitVec 5)
  /-- VADD (R118). Vector add over a run of slots, integer or float. -/
  | vadd (h : Issue) (f : VOp)
  /-- VSUB (R118). Vector subtract over a run of slots, integer or float. -/
  | vsub (h : Issue) (f : VOp)
  /-- VMUL_LO (R118). Vector integer multiply, low half. -/
  | vmulLo (h : Issue) (f : VOp)
  /-- VMUL_HI (R118). Vector integer multiply, high half. -/
  | vmulHi (h : Issue) (f : VOp)
  /-- VMUL (R118). Vector float multiply rounded once. -/
  | vmul (h : Issue) (f : VOp)
  /-- VMIN (R118). Vector minimum, integer or float. -/
  | vmin (h : Issue) (f : VOp)
  /-- VMAX (R118). Vector maximum, integer or float. -/
  | vmax (h : Issue) (f : VOp)
  /-- VSHL (R118). Vector left shift. -/
  | vshl (h : Issue) (f : VOp)
  /-- VSHR (R118). Vector logical right shift. -/
  | vshr (h : Issue) (f : VOp)
  /-- VSHRA (R118). Vector arithmetic right shift. -/
  | vshra (h : Issue) (f : VOp)
  /-- VAND (R118). Vector bitwise AND. -/
  | vand (h : Issue) (f : VOp)
  /-- VOR (R118). Vector bitwise OR. -/
  | vor (h : Issue) (f : VOp)
  /-- VXOR (R118). Vector bitwise XOR. -/
  | vxor (h : Issue) (f : VOp)
  /-- VANDN (R118). Vector bitwise a AND NOT b. -/
  | vandn (h : Issue) (f : VOp)
  /-- VCMP_EQ (R118). Vector compare equal, all ones or zeros per element. -/
  | vcmpEq (h : Issue) (f : VOp)
  /-- VCMP_NE (R118). Vector compare not equal. -/
  | vcmpNe (h : Issue) (f : VOp)
  /-- VCMP_LT (R118). Vector compare less than. -/
  | vcmpLt (h : Issue) (f : VOp)
  /-- VCMP_LE (R118). Vector compare less or equal. -/
  | vcmpLe (h : Issue) (f : VOp)
  /-- VANY (R118). Writes a predicate set if any element over all iterations is non-zero. -/
  | vany (h : Issue) (f : VOp)
  /-- VALL (R118). Writes a predicate set if all elements over all iterations are non-zero. -/
  | vall (h : Issue) (f : VOp)
  /-- VABS (R118). Vector absolute value. -/
  | vabs (h : Issue) (f : VUn)
  /-- VNEG (R118). Vector float negate. -/
  | vneg (h : Issue) (f : VUn)
  /-- VNOT (R118). Vector bitwise NOT. -/
  | vnot (h : Issue) (f : VUn)
  /-- VMOV (R118). Vector move of 32-bit lanes. -/
  | vmov (h : Issue) (f : VUn)
  /-- VEXP2 (R120). Vector 2^x with the conformance-set results. -/
  | vexp2 (h : Issue) (f : VUn)
  /-- VLOG2 (R120). Vector log2 with the conformance-set results. -/
  | vlog2 (h : Issue) (f : VUn)
  /-- VRCP (R120). Vector reciprocal. -/
  | vrcp (h : Issue) (f : VUn)
  /-- VRSQ (R120). Vector reciprocal square root. -/
  | vrsq (h : Issue) (f : VUn)
  /-- VTANH (R120). Vector hyperbolic tangent. -/
  | vtanh (h : Issue) (f : VUn)
  /-- VFMA (R118). Vector fused multiply-add a × b + c rounded once. -/
  | vfma (h : Issue) (ty : Fin 3) (f : V3)
  /-- VDOT2 (R118). Vector two-term dot product plus accumulator into FP32. -/
  | vdot2 (h : Issue) (fp16 : Bool) (f : V3)
  /-- VSEL (R118). Vector select by the sign bit of c. -/
  | vsel (h : Issue) (w : Fin 3) (f : V3)
  /-- VCVT (R119). Vector conversion between float and integer formats. -/
  | vcvt (h : Issue) (f : VCvt)
  /-- VCVT_MX (R119). Converts FP32 to an MX format with fresh block scales. -/
  | vcvtMx (h : Issue) (f : VMx)
  /-- VCVT_MXD (R119). Converts an MX format with scales to FP32. -/
  | vcvtMxd (h : Issue) (f : VMx)
  /-- VBX_EXP (R119). Computes the local BFX48 exponent byte of each 32-element block. -/
  | vbxExp (h : Issue) (f : VBx)
  /-- VBX_CVT (R119). Converts FP32 to BFX48 blocks under agreed exponent bytes into the tile store. -/
  | vbxCvt (h : Issue) (f : VBx)
  /-- VBX_DEC (R119). Decodes BFX48 blocks from the tile store to FP32. -/
  | vbxDec (h : Issue) (f : VBx)
  /-- VRNG (R127). Each lane draws F, writes 32 bits and advances its counter. -/
  | vrng (h : Issue) (f : VRng)
  /-- VRNG_U (R127). Each lane draws F and writes a uniform FP32 value in [0, 1). -/
  | vrngU (h : Issue) (f : VRng)
  /-- VRNG_SETC (R127). Sets every lane generator counter from two registers. -/
  | vrngSetc (h : Issue) (f : VRng)
  /-- VRNG_GETC (R127). Writes the 64 lane counters to two slots. -/
  | vrngGetc (h : Issue) (f : VRng)
  /-- VRNG_T (R129). Fills slots with bits from the TRNG-fed sampling DRBG. -/
  | vrngT (h : Issue) (f : VRng)
  /-- RSUM (R123). Exact sum of a slot run rounded once into FP32. -/
  | rsum (h : Issue) (f : RFmt)
  /-- RSSQ (R123). Exact sum of squares rounded once into FP32. -/
  | rssq (h : Issue) (f : RFmt)
  /-- RISUM (R123). Exact INT32 sum with saturated and 64-bit results. -/
  | risum (h : Issue) (f : RFmt)
  /-- RPSUM_I (R123). Inclusive prefix sums, each rounded once. -/
  | rpsumI (h : Issue) (f : RFmt)
  /-- RPSUM_E (R123). Exclusive prefix sums, each rounded once. -/
  | rpsumE (h : Issue) (f : RFmt)
  /-- RMAX (R123). Maximum of a slot run. -/
  | rmax (h : Issue) (f : RFmt)
  /-- RMIN (R123). Minimum of a slot run. -/
  | rmin (h : Issue) (f : RFmt)
  /-- RARGMAX (R123). Lowest index and value of the maximum. -/
  | rargmax (h : Issue) (f : RFmt)
  /-- RARGMIN (R123). Lowest index and value of the minimum. -/
  | rargmin (h : Issue) (f : RFmt)
  /-- RTOPK (R123). The k greatest values and their indices. -/
  | rtopk (h : Issue) (i32 : Bool) (f : RTopk)
  /-- LOADW (R63). Fills the inactive stationary bank from the tile store. -/
  | loadw (h : Issue) (f : LoadW)
  /-- LOADW_COMPLETE (R64). A LOADW finishes writing every K-row and scale of its bank. -/
  | loadwComplete (core : Fin 512)
  /-- SWAP (R66). Toggles the active stationary bank at a row boundary. -/
  | swap (h : Issue)
  /-- STREAM (R67). Streams M rows of an operand through the array against the active bank. -/
  | stream (h : Issue) (f : StreamF) (o : OutW)
  /-- STREAM_ROW_RESULT (R82). A streamed row leaves the array and its result is written to an accumulator entry or the output. -/
  | streamRowResult (core : Fin 512)
  /-- ACCOUT (R77). Reads accumulator entries and writes them as output rows. -/
  | accout (h : Issue) (e0 : BitVec 8) (j1 : BitVec 8) (o : OutW)
  /-- CSADV (R102). Advances a carried-scale table entry by entry. -/
  | csadv (h : Issue) (f : CsAdv)
  /-- DMA_DESC (R190). Dispatches a descriptor chain to a DMA engine. -/
  | dmaDesc (h : Issue) (f : DmaF)
  /-- DMA_DESCRIPTOR_RUN (R190). A DMA engine reads a descriptor and runs it. -/
  | dmaDescriptorRun (m : Mover)
  /-- DMA_CHAIN_COMPLETE (R150). Every write of a chain is visible and its completion fence is signalled. -/
  | dmaChainComplete (cluster : Fin 64) (e : Fin 3)
  /-- DMA_COPY (R150). Copies a length of bytes between addresses on a DMA engine. -/
  | dmaCopy (h : Issue) (f : DmaCopyF)
  /-- RING_ADV (R151). Adds Q to the core's FILL count after earlier tile-store writes complete. -/
  | ringAdv (h : Issue) (q : BitVec 8)
  /-- RING_RST (R151). Resets FILL and USE once no ring STREAM is unfinished. -/
  | ringRst (h : Issue) (q : BitVec 8)
  /-- WIN_RESV (R198). Reserves a layer window from a window descriptor. -/
  | winResv (h : Issue) (gw : BitVec 5)
  /-- WIN_REL (R203). Releases a window, cancelling an unfinished fill. -/
  | winRel (h : Issue) (gw : BitVec 5)
  /-- WINDOW_RELEASE_COMPLETE (R203). Every reader of a released window has finished and the release completes. -/
  | windowReleaseComplete (core : Fin 512) (i : Fin 16)
  /-- WINDOW_FILL_BEGIN (R199). A reserved window's fill begins once its wait fence is satisfied. -/
  | windowFillBegin (core : Fin 512) (i : Fin 16)
  /-- WINDOW_ARRIVAL (R200). Every write of a fill is visible and AFID is signalled to AVAL. -/
  | windowArrival (core : Fin 512) (i : Fin 16)
  /-- WINDOW_LATE (R201). A core stalls on a window's arrival fence before arrival, raising its priority to 8. -/
  | windowLate (core : Fin 512) (i : Fin 16)
  /-- RING_QUARTER_FILLED (R202). Every write of an R-window quarter is visible and FILL advances. -/
  | ringQuarterFilled (core : Fin 512) (i : Fin 16)
  /-- RUN_AHEAD_FETCH (R204). The streaming engine fetches the first descriptor source of the NEXTW window into the run-ahead buffer. -/
  | runAheadFetch (core : Fin 512) (i : Fin 16)
  /-- RUN_AHEAD_EXPIRED (R204). A run-ahead entry unused 50 µs after its fetch is dropped. -/
  | runAheadExpired (die : Fin 8) (i : Nat)
  /-- TASK_BEGIN (R38). Reads the task header and opens a task. -/
  | taskBegin (h : Issue) (gh : BitVec 5)
  /-- TASK_INPUT_SATISFIED (R40). Every input fence reaches its value and a stalled TASK.BEGIN proceeds with acquire order. -/
  | taskInputSatisfied (core : Fin 512)
  /-- TASK_END (R41). Ends the task, which becomes completing. -/
  | taskEnd (h : Issue)
  /-- TASK_OUTPUT_SIGNAL (R41). Once every store of a completing task is visible, its output fences are signalled in index order. -/
  | taskOutputSignal (core : Fin 512) (i : Fin 8)
  /-- SPECULATIVE_RESOLVE (R47). A resolving signal on the verdict fence commits or discards a speculative task. -/
  | speculativeResolve (core : Fin 512) (i : Fin 8)
  /-- VERDICT_TIMEOUT (R48). VTO microseconds pass without a resolving signal and the task is discarded. -/
  | verdictTimeout (core : Fin 512) (i : Fin 8)
  /-- PADDOCK_DRAIN (R49). A committed task's paddock entries drain to memory in allocation order and held signals are released. -/
  | paddockDrain (core : Fin 512) (i : Fin 8)
  /-- FENCE_SIGNAL (R152). Signals a fence to a register value with release order, or holds it in a speculative task. -/
  | fenceSignal (h : Issue) (f : FenceF)
  /-- FENCE_SIGNAL_I (R152). Signals a fence to an immediate 64-bit value. -/
  | fenceSignalI (h : Issue) (fid : BitVec 16) (val : W64)
  /-- FENCE_READ (R152). Reads a fence's value and status into a register and predicate. -/
  | fenceRead (h : Issue) (f : FenceF)
  /-- FENCE_WAIT (R152). Stalls issue until a fence reaches a value. -/
  | fenceWait (h : Issue) (f : FenceF)
  /-- FENCE_WAIT_SATISFIED (R357). A waited fence reaches the value and the stalled FENCE.WAIT proceeds. -/
  | fenceWaitSatisfied (core : Fin 512)
  /-- SYS_NOP (R153). No operation. -/
  | sysNop (h : Issue) (gd : BitVec 5) (ga : BitVec 5)
  /-- SYS_IFLUSH (R153). Waits for stores to be visible and invalidates the instruction buffer. -/
  | sysIflush (h : Issue) (gd : BitVec 5) (ga : BitVec 5)
  /-- SYS_SRKEY (R153). Sets the core's SR step. -/
  | sysSrkey (h : Issue) (gd : BitVec 5) (ga : BitVec 5)
  /-- SYS_FLAGS (R154). Reads and clears the sticky status word after earlier arithmetic completes. -/
  | sysFlags (h : Issue) (gd : BitVec 5) (ga : BitVec 5)
  /-- SYS_ID (R153). Writes the core number and context ID to a register. -/
  | sysId (h : Issue) (gd : BitVec 5) (ga : BitVec 5)
  /-- SYS_TIME (R153). Writes Tether time in nanoseconds to a register. -/
  | sysTime (h : Issue) (gd : BitVec 5) (ga : BitVec 5)
  /-- UNASSIGNED_MAJOR_OPCODE (R135). An instruction word whose major opcode is unassigned is reached in program order and the context is lost with cause code 0x01. -/
  | unassignedMajorOpcode (h : Issue) (op : BitVec 6)
  /-- FENCE_SIGNAL_APPLY (R356). The fence unit applies a signal that raises a fence's value and status. -/
  | fenceSignalApply
  /-- MEMORY_REQUEST (R168). A memory request reaches its target and is checked against the access table and served. -/
  | memoryRequest (r : MemOp)
  /-- TRANSLATION_WALK (R164). A TLB miss walks the page tables of the context. -/
  | translationWalk (core : Fin 512) (va : W48) (acc : Fin 3)
  /-- REQUEST_RETRY (R195). A refused request is retried on room or 128 ns after refusal. -/
  | requestRetry (i : Nat) (r : RetryIn)
  /-- ACCESS_TABLE_SWAP (R171). A target makes its shadow access tables active between two checks. -/
  | accessTableSwap (t : Fin 256)
  /-- TARGET_DRAINED (R171). Every access admitted under the old table completes and the target reports DRAINED. -/
  | targetDrained (t : Fin 256)
  /-- DRAIN_TIMEOUT (R171). DRAINED is not reported 100 µs after a swap and the target's unit is reset. -/
  | drainTimeout (t : Fin 256)
  /-- KV_PROMOTION (R184). An access to a pool page outside the D-pool posts a promotion to the accessing C-die. -/
  | kvPromotion (ctx : Fin 4096) (vpn : BitVec 32) (die : Fin 8)
  /-- POOL_MOVE (R185). A pool mover moves a 64 KiB page between tiers. -/
  | poolMove (mover : Fin 12) (ctx : Fin 4096) (vpn : BitVec 32)
  /-- POOL_MOVE_COMPLETE (R185). A page move ends and the new entry is written with MOV clear. -/
  | poolMoveComplete (i : Nat) (health : Health)
  /-- POOL_MOVE_ABORT (R185). A page move not ended within 2 ms is aborted and the entry returns to the source. -/
  | poolMoveAbort (i : Nat) (readable : Bool)
  /-- BRIDLE_FLIT (R19). A bridle flit is received, checked by CRC and retried on failure. -/
  | bridleFlit (link : Fin 18) (dir : Bool) (f : BridleIn) (crc : Bool)
  /-- QUERY (R365). Mailbox command returning the quantity a query code names. -/
  | query (c : MbxCall)
  /-- CTX_CREATE (R345). Mailbox command creating a context under a charter. -/
  | ctxCreate (c : MbxCall)
  /-- CTX_DESTROY (R362). Mailbox command starting the abort of a context. -/
  | ctxDestroy (c : MbxCall)
  /-- ABORT (R362). The abort sequence of a lost or destroyed context runs to the release of its clusters. -/
  | abort (ctx : Fin 4096)
  /-- ABORT_DRAINED (R362). Every target reports DRAINED for the context and CSTAT.DRAINED is set. -/
  | abortDrained (ctx : Fin 4096)
  /-- GRANULE_SCRUB (R403). A granule leaving its owner is scrubbed and returned FREE. -/
  | granuleScrub (granule : Nat)
  /-- SLOT_IN (R347). Mailbox command giving a resident slot to an IDLE context. -/
  | slotIn (c : MbxCall)
  /-- SLOT_OUT (R347). Mailbox command removing a context from its resident slot. -/
  | slotOut (c : MbxCall)
  /-- QUEUE_CREATE (R350). Mailbox command creating a command queue. -/
  | queueCreate (c : MbxCall)
  /-- CTX_WDT (R491). Mailbox command setting the context's progress watchdog period. -/
  | ctxWdt (c : MbxCall)
  /-- CTX_REKEY (R401). Mailbox command queueing a context rekey. -/
  | ctxRekey (c : MbxCall)
  /-- FENCE_ALLOC (R355). Mailbox command allocating a fence to a context. -/
  | fenceAlloc (c : MbxCall)
  /-- FENCE_RESET (R357). Mailbox command returning a fence to value 0 and status OK. -/
  | fenceReset (c : MbxCall)
  /-- FENCE_SHARE (R358). Mailbox command granting rights on a fence. -/
  | fenceShare (c : MbxCall)
  /-- FENCE_UNSHARE (R358). Mailbox command withdrawing a fence grant. -/
  | fenceUnshare (c : MbxCall)
  /-- DEVEVT_SET (R360). Mailbox command setting the device event ring. -/
  | devevtSet (c : MbxCall)
  /-- CNT_READ (R423). Mailbox command returning counters as profiling rights permit. -/
  | cntRead (c : MbxCall)
  /-- GRANT (R187). Mailbox command granting granules to a context, filling D-tier granules first. -/
  | grant (c : MbxCall)
  /-- MAP (R166). Mailbox command mapping pages in a context's page tables. -/
  | map (c : MbxCall)
  /-- UNMAP (R167). Mailbox command removing mappings. -/
  | unmap (c : MbxCall)
  /-- PROTECT (R167). Mailbox command changing page permissions. -/
  | protect (c : MbxCall)
  /-- MAP_REQUEST_COMPLETE (R167). A pending UNMAP or PROTECT completes once TLBs, admitted accesses and speculative tasks have finished. -/
  | mapRequestComplete (chan : Fin 8)
  /-- HWIN_SET (R177). Mailbox command setting or removing an H-tier window. -/
  | hwinSet (c : MbxCall)
  /-- POOLMAP_SET (R179). Mailbox command setting a pool-map entry. -/
  | poolmapSet (c : MbxCall)
  /-- DONATE (R180). Mailbox command donating or ending a donated L-tier region. -/
  | donate (c : MbxCall)
  /-- KVPOOL_SIZE (R181). Mailbox command sizing a D-pool or L-pool. -/
  | kvpoolSize (c : MbxCall)
  /-- KV_REGION (R182). Mailbox command admitting a context's KV region with floors and ceilings. -/
  | kvRegion (c : MbxCall)
  /-- APERTURE_MAP (R327). Mailbox command setting a BAR4 aperture window. -/
  | apertureMap (c : MbxCall)
  /-- CLUSTER_MOVE (R253). Mailbox command moving clusters between contexts once their cores are idle. -/
  | clusterMove (c : MbxCall)
  /-- PROGRAM_LOAD (R409). Mailbox command binding a context to a charter entry by image digest. -/
  | programLoad (c : MbxCall)
  /-- LEARN_BIND (R207). Mailbox command binding the module's learning context. -/
  | learnBind (c : MbxCall)
  /-- LEARN_SEAL (R207). Mailbox command writing STEP 0 and DIG into every record-group header. -/
  | learnSeal (c : MbxCall)
  /-- HANDOFF_OPEN (R247). Mailbox command opening a handoff channel end. -/
  | handoffOpen (c : MbxCall)
  /-- HANDOFF_CLOSE (R250). Mailbox command closing a handoff channel. -/
  | handoffClose (c : MbxCall)
  /-- PARTITION_SET (R422). Mailbox command setting strict partition. -/
  | partitionSet (c : MbxCall)
  /-- NODE_SET (R260). Mailbox command setting the module's node ID. -/
  | nodeSet (c : MbxCall)
  /-- ADMIT_SET (R261). Mailbox command setting an admission-list entry. -/
  | admitSet (c : MbxCall)
  /-- PORT_RESET (R479). Mailbox command resetting a link port. -/
  | portReset (c : MbxCall)
  /-- HERD_FORM (R285). Mailbox command forming a herd under a plan. -/
  | herdForm (c : MbxCall)
  /-- HERD_JOIN (R317). Mailbox command joining a running herd. -/
  | herdJoin (c : MbxCall) (reserved : Bool) (covered : Bool)
  /-- COLL_BIND (R292). Mailbox command binding or unbinding a collective channel. -/
  | collBind (c : MbxCall)
  /-- COLL_SWAP (R295). Mailbox command requesting a slot-table swap at a Tether instant. -/
  | collSwap (c : MbxCall)
  /-- CHARTER_LOAD (R408). Mailbox command admitting a charter after its checks. -/
  | charterLoad (c : MbxCall) (image : List Byte)
  /-- CHARTER_UNLOAD (R408). Mailbox command removing an admitted charter. -/
  | charterUnload (c : MbxCall)
  /-- KSLOT_QUERY (R373). Mailbox command returning a key slot descriptor. -/
  | kslotQuery (c : MbxCall)
  /-- SEC_STAT (R384). Mailbox command returning entropy and key-store health. -/
  | secStat (c : MbxCall)
  /-- OBJ_IMPORT (R417). Mailbox command importing an owner object into a context. -/
  | objImport (c : MbxCall)
  /-- OBJ_IMPORT_COMPLETE (R417). An import ends or stops and its fence is signalled OK or ERROR. -/
  | objImportComplete (i : Nat) (size : Nat)
  /-- OBJ_EXPORT (R418). Mailbox command exporting a listed range as an object. -/
  | objExport (c : MbxCall)
  /-- LC_QUERY (R437). Mailbox command returning the life-cycle status word. -/
  | lcQuery (c : MbxCall)
  /-- LC_RETIRE (R435). Mailbox command starting the End-of-life transition. -/
  | lcRetire (c : MbxCall)
  /-- FW_REVOKE (R506). Mailbox command revoking a firmware key. -/
  | fwRevoke (c : MbxCall)
  /-- CAL_WRITE (R509). Mailbox command writing and sealing a user calibration item. -/
  | calWrite (c : MbxCall)
  /-- CAL_READ (R509). Mailbox command reading user and factory calibration values. -/
  | calRead (c : MbxCall)
  /-- CKPT_STORE (R439). Mailbox command binding a checkpoint store. -/
  | ckptStore (c : MbxCall)
  /-- CKPT_WRITE (R447). Mailbox command requesting a model checkpoint at a step. -/
  | ckptWrite (c : MbxCall)
  /-- CKPT_RESTORE (R456). Mailbox command restoring a model checkpoint into a learning binding. -/
  | ckptRestore (c : MbxCall) (r : RestoreIn)
  /-- SNAP_WRITE (R454). Mailbox command writing a context snapshot. -/
  | snapWrite (c : MbxCall)
  /-- SNAP_RESTORE (R455). Mailbox command restoring a context snapshot. -/
  | snapRestore (c : MbxCall) (r : RestoreIn)
  /-- FIELDTEST (R472). Mailbox command running the on-demand field test. -/
  | fieldtest (c : MbxCall)
  /-- FIELDTEST_LIMIT (R473). The field test's phase-4 time limit expires and unfinished units fail as hung. -/
  | fieldtestLimit (hung : List (Nat × Nat))
  /-- UNIT_RESET (R479). Mailbox command resetting a core, cluster, C-die or M-die. -/
  | unitReset (c : MbxCall)
  /-- MAILBOX_BAD_COMMAND (R566). A CMD write with an unknown code or while the channel is ACTIVE is refused or ignored and counted. -/
  | mailboxBadCommand (chan : Fin 8) (cmd : W64)
  /-- NOP (R352). Command packet that completes when it starts. -/
  | nop (p : Pkt)
  /-- LAUNCH (R352). Command packet starting named cores at a PC. -/
  | launch (p : Pkt)
  /-- STOP (R352). Command packet returning named cores to IDLE. -/
  | stop (p : Pkt)
  /-- COPY (R352). Command packet copying bytes on the X-die copy engine. -/
  | copy (p : Pkt)
  /-- STAMP (R352). Command packet writing Tether time to a context address. -/
  | stamp (p : Pkt)
  /-- PACKET_COMPLETE (R353). A packet completes, signalling SFID and writing a PACKET event if asked. -/
  | packetComplete (slot : Fin 48) (queue : Fin 16) (i : Fin 4)
  /-- QUEUE_TIMEOUT (R354). The oldest uncompleted packet exceeds QTO and the context is lost. -/
  | queueTimeout (slot : Fin 48) (queue : Fin 16)
  /-- TAIL (R351). Doorbell write advancing a queue's TAIL count. -/
  | tail (slot : Fin 48) (queue : Fin 16) (size : Fin 9) (val : W64)
  /-- FSIGV (R359). Doorbell write signalling fence FID from the host with status FSTAT. -/
  | fsigv (slot : Fin 48) (size : Fin 9) (val : W64)
  /-- EVHEAD (R360). Doorbell write recording event records consumed, freeing ring space. -/
  | evhead (slot : Fin 48) (size : Fin 9) (val : W64)
  /-- MSIX_MESSAGE (R361). An MSI-X message covering the records written so far is sent, at most one per vector per µs. -/
  | msixMessage (vector : Fin 2048)
  /-- STEP_OPEN (R209). OFID signalled to t opens a training step and the update units snapshot the SCB. -/
  | stepOpen (t : W64)
  /-- EXPMAX (R296). Collective descriptor taking the unsigned maximum of exponent bytes over members. -/
  | expmax (ch : Fin 16)
  /-- COLLECTIVE_RSUM (R296). Collective descriptor reduce-scattering BFX48 units into owned sums. -/
  | collectiveRsum (ch : Fin 16)
  /-- AGATHER (R300). Collective descriptor all-gathering owned units. -/
  | agather (ch : Fin 16)
  /-- ALLSUM (R296). Collective descriptor summing FP32 values exactly over members. -/
  | allsum (ch : Fin 16)
  /-- COLLECTIVE_MESSAGE (R299). A collective message is received, added or forwarded along its chain. -/
  | collectiveMessage (m : CollMsg)
  /-- COLLECTIVE_ACKNOWLEDGEMENT (R301). A cumulative acknowledgement frees messages from the send hold. -/
  | collectiveAcknowledgement (ch : Fin 16) (succ : HerdFrom) (seq : W64)
  /-- SCALAR_RECORD (R303). A member's scalar record reaches its parent and is combined and forwarded. -/
  | scalarRecord (ch : Fin 16) (src : Fin 4096) (rec : GateRec)
  /-- GATE_RECORD (R217). A member receives the gate record and computes the verdict. -/
  | gateRecord (rec : GateRec)
  /-- GATE_QUERY (R218). No gate record 2.2 ms after T_rs, then every 1 ms, sends a gate query to the Bellwether. -/
  | gateQuery
  /-- GATE_TIMEOUT (R218). The gate timer expires 20 ms after T_rs; the member takes SKIP and withdraws. -/
  | gateTimeout
  /-- BLOCK_ARRIVAL (R223). A reduced block reaches the update unit, which allocates a slot and computes speculatively. -/
  | blockArrival (block : BitVec 40) (data : List Byte)
  /-- RECORD_GROUP_READ (R232). The update unit's read of a record group returns and is checked and computed. -/
  | recordGroupRead (m : Fin 4) (i : Fin 32768)
  /-- SLOT_DRAIN (R224). Paddock slots drain in allocation order on COMMIT or are recomputed on CLIP. -/
  | slotDrain (m : Fin 4)
  /-- RECORD_GROUP_WRITTEN (R486). A record-group write is acknowledged, advancing SWEEP and sending its difference-stream entry. -/
  | recordGroupWritten (m : Fin 4)
  /-- BALLAST_PARK (R237). State of an H- or P-tier record group arrives and its parked blocks are computed. -/
  | ballastPark (p : BallastIn)
  /-- GROUP_FENCE (R234). Every record group and working-copy element of a group is visible and its fence is signalled. -/
  | groupFence (g : Fin 256)
  /-- FACTOR_FINALISE (R228). A rule-7 factor table is finalised after its group's last commit. -/
  | factorFinalise (g : Fin 256)
  /-- COMMIT_FENCE (R234). All groups, factor tables and leaf digests are done and CFID is signalled. -/
  | commitFence
  /-- ROOT_DIGEST (R311). The X-die forms root_t and the chained digest and sends it every K steps. -/
  | rootDigest (hid : BitVec 32)
  /-- DIGEST_DECIDE (R312). The Bellwether decides the herd's digest once all values arrive or 1 s passes. -/
  | digestDecide (hid : BitVec 32) (vals : List (HerdFrom × BitVec 256))
  /-- HERD_ANNOUNCE (R287). A member's announcement with its quote reaches the Bellwether. -/
  | herdAnnounce (hid : BitVec 32) (m : HerdFrom) (quote : QuoteIn) (peers : List (Nat × Nat))
  /-- FORMATION_TIMEOUT (R287). Formation fails when fewer than NMIN have been heard 10 s after HERD.FORM. -/
  | formationTimeout (hid : BitVec 32)
  /-- MEMBERSHIP_RECORD (R288). A membership record is received with a new epoch, maps and swap instant. -/
  | membershipRecord (hid : BitVec 32) (rec : MemRec)
  /-- MEMBERSHIP_SWAP (R314). At the swap instant members switch routes, rings, owners and slot table. -/
  | membershipSwap (hid : BitVec 32)
  /-- LIVENESS_REPORT (R290). A member sends or receives its 1 ms liveness report. -/
  | livenessReport (hid : BitVec 32) (src : Option HerdFrom)
  /-- MEMBER_MISSING (R290). A member missing from 3 consecutive liveness reports leaves the live map. -/
  | memberMissing (hid : BitVec 32) (m : Fin 4096)
  /-- WITHDRAW (R290). A member's WITHDRAW reaches the Bellwether. -/
  | withdraw (hid : BitVec 32) (m : HerdFrom)
  /-- HERD_BEACON (R291). The Bellwether sends or a member forwards the 1 ms herd beacon. -/
  | herdBeacon (hid : BitVec 32) (recv : Option (BitVec 32 × Fin 4096))
  /-- BELLWETHER_TAKEOVER (R291). A candidate with no herd beacon for 5 ms takes over with a new record. -/
  | bellwetherTakeover (hid : BitVec 32) (reached : List Nat)
  /-- JOIN_TRANSFER (R318). Donors send state to a joiner, which checks root and is admitted or abandoned. -/
  | joinTransfer (hid : BitVec 32) (m : HerdFrom) (root : Option (BitVec 256))
  /-- JOIN_ABANDON (R318). A join hold lasting 60 s is abandoned. -/
  | joinAbandon (hid : BitVec 32)
  /-- SLOT_TABLE_SWAP (R295). The shadow slot table becomes active at its Tether instant. -/
  | slotTableSwap
  /-- TETHER_BEACON (R306). A Tether beacon is sent every 125 µs or received and forwarded. -/
  | tetherBeacon (recv : Option Beacon)
  /-- TIME_EXCHANGE (R307). Every 1 ms four stamps are exchanged with the parent and the rate is slewed. -/
  | timeExchange (role : TimeRole) (port : Fin 16) (t2 : Nat) (t3 : Nat) (asym : Int)
  /-- HOLDOVER_EXPIRY (R308). A module holding over 10 ms without a new parent leaves LOCKED. -/
  | holdoverExpiry
  /-- MASTER_LOSS (R308). A master silent for 1 ms is replaced by the next eligible Bellwether. -/
  | masterLoss
  /-- UNLOCKED_WITHDRAWAL (R308). A member not LOCKED for 100 ms stops collective flits and withdraws. -/
  | unlockedWithdrawal
  /-- SYNC_IN (R310). A rising SYNC_IN edge is stamped on the master. -/
  | syncIn (wide : Bool)
  /-- SYNC_IN_MISSING (R310). No SYNC_IN pulse for 3 s is counted and the master free-runs. -/
  | syncInMissing
  /-- SYNC_OUT (R310). A LOCKED module drives SYNC_OUT high for 1 µs at each Tether second. -/
  | syncOut
  /-- PTM_DIALOG (R336). Every 10 ms a PTM dialog latches a host and Tether time pair. -/
  | ptmDialog (ok : Bool) (host : W64)
  /-- HANDOFF_RECORD (R248). The handoff mover takes a posted record, re-encrypts it into the sink ring and signals AFID and SFID. -/
  | handoffRecord (ch : Fin 256) (recv : Option (List Byte))
  /-- RFID_RETURN (R251). A consumer release returns to the producer's module as a credit. -/
  | rfidReturn (ch : Fin 256) (q : CreditIn)
  /-- TRAIN (R260). PMD training, FEC and alignment lock of a port complete. -/
  | train (port : Fin 16) (ok : Bool)
  /-- HELLO (R260). Exchange of version, mode and node IDs completes. -/
  | hello (port : Fin 16) (same : Bool) (peer : BitVec 16)
  /-- ATTEST (R261). Mutual SPDM attestation completes and the peer is admitted or refused. -/
  | attest (port : Fin 16) (ok : Bool) (root : BitVec 256) (fwm : BitVec 256) (ident : BitVec 256)
  /-- KEYX (R260). SM2 key exchange confirms the first keys and the port goes UP. -/
  | keyx (port : Fin 16) (ok : Bool) (peer : PeerKeys)
  /-- BRING_UP_TIMEOUT (R260). A bring-up state's bound expires and the port returns to DOWN. -/
  | bringUpTimeout (port : Fin 16)
  /-- PORT_RETRY (R260). A DOWN port retries bring-up after its backoff interval. -/
  | portRetry (port : Fin 16)
  /-- BRING_UP (R262). A bring-up flit is received or resent after 100 µs without answer. -/
  | bringUp (port : Fin 16) (recv : Option (List Byte))
  /-- FLIT_TRANSMIT (R271). The transmitter chooses and sends the next flit. -/
  | flitTransmit (port : Fin 16)
  /-- DATA (R272). A DATA flit is received and accepted in SEQ order or discarded with a NAK. -/
  | data (f : FlitIn)
  /-- LCTL (R273). An LCTL flit carrying ACK, NAK and FREED is received. -/
  | lctl (f : FlitIn) (l : LctlIn)
  /-- IDLE (R266). An IDLE flit is received as progress. -/
  | idle (f : FlitIn)
  /-- LCTL_TIMER (R273). An LCTL flit is sent at least every 1 µs while UP. -/
  | lctlTimer (port : Fin 16)
  /-- ACKNOWLEDGEMENT_TIMER (R274). The 2 µs acknowledgement timer expires and the port replays. -/
  | acknowledgementTimer (port : Fin 16)
  /-- RETRAIN_TIMER (R274). The 4 µs retrain timer expires and a fast retrain starts. -/
  | retrainTimer (port : Fin 16)
  /-- FAST_RETRAIN_COMPLETE (R274). A fast retrain ends and replay follows. -/
  | fastRetrainComplete (port : Fin 16)
  /-- PEER_DOWN (R276). The 50 µs progress timer expires; the port discards its state and restarts bring-up. -/
  | peerDown (port : Fin 16)
  /-- REKEY (R277). A SEQ count or 3,600 s threshold starts a link rekey. -/
  | rekey (port : Fin 16)
  /-- REKEY_SWITCH (R277). Both ends confirm and the old epoch is acknowledged; the sender switches epoch. -/
  | rekeySwitch (port : Fin 16) (rx : Bool) (peer : PeerKeys)
  /-- REKEY_TIMEOUT (R277). A rekey exchange not complete within 1 s puts the port down. -/
  | rekeyTimeout (port : Fin 16)
  /-- PRD (R278). Pool read request of 1–16 lines, served by this module as a pool node. -/
  | prd (m : PoolMsg)
  /-- PBRD (R278). Pool bulk read request served by this module. -/
  | pbrd (m : PoolMsg)
  /-- PWR (R278). Pool write request served by this module. -/
  | pwr (m : PoolMsg)
  /-- PBWR (R278). Pool bulk write request served by this module. -/
  | pbwr (m : PoolMsg)
  /-- PATOM (R279). Pool atomic request on the coordination region. -/
  | patom (m : PoolMsg)
  /-- POOL_RESPONSE (R281). A pool response arrives at the requesting X-die. -/
  | poolResponse (tag : BitVec 14) (stat : BitVec 4) (data : List Byte) (health : Health)
  /-- POOL_RESPONSE_TIMEOUT (R281). A pool request without response 2 ms after issue loses its context. -/
  | poolResponseTimeout (tag : BitVec 14)
  /-- CONFIGURATION_REQUEST (R323). A PCIe configuration read or write. -/
  | configurationRequest (write : Bool) (off : BitVec 12) (be : BitVec 4) (val : BitVec 32)
  /-- BAR0_ACCESS (R325). A BAR0 request split into 8 B register accesses. -/
  | bar0Access (write : Bool) (off : BitVec 26) (len : Nat) (data : List Byte)
  /-- REGISTER_WRITE (R8). A write to a register with no row of its own, under its access codes. -/
  | registerWrite (bar2 : Bool) (off : BitVec 26) (size : Fin 9) (val : W64)
  /-- BAD_REGISTER_ACCESS (R9). A misaligned or unmapped register access completes without effect and is counted. -/
  | badRegisterAccess (write : Bool) (off : BitVec 26) (len : Nat)
  /-- COUNTER_CLR (R551). Writing CLR clears every counter of a block or region. -/
  | counterClr (off : BitVec 26) (val : W64)
  /-- DUMPACK (R561). Writing ACK empties the crash-dump region unless a dump is being written. -/
  | dumpack (val : W64)
  /-- LOG_DATA (R560). A read of XLOG.DATA returns 8 B at ADDR and advances ADDR. -/
  | logData
  /-- TETHER_NS_READ (R556). A read of XTET.NS latches the fraction into FRAC. -/
  | tetherNsRead
  /-- PTMH_READ (R556). A read of XTET.PTMH latches the paired Tether time into PTMT. -/
  | ptmhRead
  /-- PORT_CFG_WRITE (R557). A write to XLNK.CFG sets mode and weights or locks them. -/
  | portCfgWrite (port : Fin 16) (val : W64)
  /-- MSIX_TABLE_ACCESS (R333). An access to the MSI-X table or PBA; unmasking sends pending messages. -/
  | msixTableAccess (write : Bool) (off : BitVec 24) (size : Nat) (val : W64)
  /-- BAR2_RESERVED_ACCESS (R326). An access to a reserved BAR2 range is dropped and counted. -/
  | bar2ReservedAccess (write : Bool) (off : BitVec 24) (size : Nat)
  /-- APERTURE_ACCESS (R328). A BAR4 read or write through an aperture window. -/
  | apertureAccess (write : Bool) (off : BitVec 36) (len : Nat) (data : List Byte)
  /-- COMPLETION (R331). A PCIe completion for an H-tier request arrives. -/
  | completion (tag : BitVec 14) (status : CplStatus) (data : List Byte)
  /-- COMPLETION_TIMEOUT (R331). An H-tier request's completion timer expires and the request ends with an error. -/
  | completionTimeout (tag : BitVec 14)
  /-- PERST (R335). PERST# asserted for at least 10 µs causes a package reset. -/
  | perst (long : Bool)
  /-- HOT_RESET (R335). A PCIe Hot Reset causes a package reset. -/
  | hotReset
  /-- DL_DOWN (R335). The PCIe data link goes down, causing a package reset. -/
  | dlDown
  /-- DOE_OBJECT (R337). A DOE data object is served by the SPDM responder. -/
  | doeObject (proto : BitVec 8) (object : List Byte)
  /-- GET_MEASUREMENTS (R412). SPDM request returning the signed measurement blocks. -/
  | getMeasurements (index : BitVec 8)
  /-- KEY_EXCHANGE (R337). SPDM KEY_EXCHANGE opening a secured session. -/
  | keyExchange (doe : Bool) (peer : List Byte)
  /-- QUOTE (R413). Owner operation returning a signed quote of a charter's contexts. -/
  | quote (chd : BitVec 256) (nonce : BitVec 256) (first : BitVec 16)
  /-- KR_BEGIN (R414). Owner operation filling an EPHEM slot and returning its public key and nonce. -/
  | krBegin (session : Bool) (chd : BitVec 256) (keyid : Fin 256) (nonce : BitVec 256)
  /-- KR_WRAP (R414). Owner operation unwrapping an owner key into an OWNER slot. -/
  | krWrap (session : Bool) (chd : BitVec 256) (keyid : Fin 256) (nonce : BitVec 256) (wrapped : List Byte) (sig : List Byte)
  /-- NONCE (R413). Owner operation returning a fresh device nonce. -/
  | nonce (session : Bool) (chd : BitVec 256)
  /-- REVOKE (R416). Owner operation invalidating a released key, optionally killing contexts. -/
  | revoke (session : Bool) (chd : BitVec 256) (keyid : Fin 256) (kill : Bool) (nonce : BitVec 256) (sig : List Byte)
  /-- REPORT (R424). Owner operation returning full counters. -/
  | report (session : Bool) (chd : BitVec 256) (owner : Fin 16) (nonce : BitVec 256) (sig : List Byte)
  /-- K_SET_GO (R338). IDE_KM message activating a new IDE key set. -/
  | kSetGo (session : Bool) (stream : Fin 4) (set : Bool)
  /-- IDE_FAILURE (R339). An IDE stream fails an integrity or sequence check and becomes Insecure. -/
  | ideFailure (stream : Fin 4)
  /-- MCTP_CONTROL (R341). An MCTP control message for discovery and assignment. -/
  | mctpControl (pcie : Bool) (cmd : Fin 256) (eid : BitVec 8) (mtu : Nat)
  /-- PLDM_SENSOR (R341). A PLDM Type 2 sensor request. -/
  | pldmSensor (pcie : Bool) (typ : BitVec 8) (sensor : Fin 256)
  /-- REQUEST_UPDATE (R342). PLDM RequestUpdate takes the single update agent. -/
  | requestUpdate (pcie : Bool)
  /-- UPDATE_AGENT_IDLE (R342). The update agent sees no request for 120 s and is released. -/
  | updateAgentIdle
  /-- IMAGE_WRITE (R507). A transferred image that passes its checks is written to the SPI NOR slot and read back. -/
  | imageWrite (img : ImageIn) (ends : Bool)
  /-- KEY_REMASK (R379). Every 10 ms the key store re-masks every share. -/
  | keyRemask
  /-- REMASK_RETRY (R379). A sweep that could not start is retried every 1 ms. -/
  | remaskRetry
  /-- REMASK_STARVATION (R379). 1 s without a completed sweep causes an integrity halt. -/
  | remaskStarvation
  /-- SLOT_SWEEP (R377). Every 2 µs the sweeper orphans VALID slots that fail the chain check. -/
  | slotSweep (slot : Fin 64)
  /-- EPHEM_EXPIRY (R378). An EPHEM slot is invalidated 60 s after it was filled. -/
  | ephemExpiry (slot : Fin 64)
  /-- DRBG_RESEED (R381). A DRBG reseeds from the TRNG after 2^20 requests or 1 s. -/
  | drbgReseed (sampling : Bool)
  /-- ENTROPY_FAILURE (R380). An entropy-source health test fails and the source is marked FAILED. -/
  | entropyFailure
  /-- REKEY_LINE (R401). The rekey engine moves the line at its boundary from epoch e to e + 1. -/
  | rekeyLine (t : Fin 13) (health : Health)
  /-- REKEY_JOB_COMPLETE (R401). Every job of a context's rekey ends and e + 1 becomes its epoch. -/
  | rekeyJobComplete (t : Fin 13)
  /-- PATROL (R462). The patrol checks a line against its ECC and corrects or reports it. -/
  | patrol (da : W48) (health : Health)
  /-- INTEGRITY_HALT (R464). A trigger reaches the X-die and the device halts into Sentinel mode. -/
  | integrityHalt (cls : BitVec 8) (ukind : BitVec 8) (uidx : BitVec 16)
  /-- SLOT_REBUILD (R461). An uncorrectable paddock slot or park asks its owner to resend the unit. -/
  | slotRebuild (m : Fin 4) (i : Fin 32768) (park : Bool)
  /-- RESEND_TIMEOUT (R461). A resent unit not arrived 1 ms after the request loses the context. -/
  | resendTimeout (m : Fin 4)
  /-- REDUNDANCY_MISMATCH (R470). A core pair compares a differing output and the context is lost. -/
  | redundancyMismatch (core : Fin 512) (field : BitVec 64)
  /-- CORE_RESET (R483). A core reset clears the core and writes creation state. -/
  | coreReset (core : Fin 512)
  /-- CLUSTER_RESET (R483). A cluster reset clears its cores, TLB, walker and DMA engines. -/
  | clusterReset (cluster : Fin 64)
  /-- CDIE_RESET (R484). A C-die reset places its D-stack in self-refresh and resets its units. -/
  | cdieReset (die : Fin 8)
  /-- MDIE_RESET (R485). An M-die reset writes back the integrity cache, resets and retrains. -/
  | mdieReset (m : Fin 4)
  /-- RESET_FENCE_EXPIRY (R480). 10 µs after a reset fence, outstanding requests receive RESET responses. -/
  | resetFenceExpiry (kind : Fin 4) (i : Fin 512)
  /-- UNIT_READY (R481). A reset unit reports ready and held requests are reissued. -/
  | unitReady (kind : Fin 4) (i : Fin 512)
  /-- MDIE_READY (R487). A reset M-die is ready and requests every unit of the open step again. -/
  | mdieReady (m : Fin 4)
  /-- RESET_ESCALATION (R482). A reset not complete within its bound escalates to the next unit or a halt. -/
  | resetEscalation (kind : Fin 4) (i : Fin 512)
  /-- INTEGRITY_WRITEBACK_TIMEOUT (R485). The integrity write-back of an M-die reset exceeds 50 µs and causes an integrity halt. -/
  | integrityWritebackTimeout (m : Fin 4)
  /-- PROGRESS_WATCHDOG (R491). A core issues nothing for its watchdog period and the context is lost. -/
  | progressWatchdog (core : Fin 512)
  /-- NO_PROGRESS (R492). An engine holding work completes nothing for 10 ms and its unit is reset. -/
  | noProgress (kind : Fin 5) (i : Fin 192)
  /-- HEARTBEAT (R493). Yorek writes a changed heartbeat word to Sheepdog. -/
  | heartbeat (word : W64)
  /-- HEARTBEAT_MISSED (R494). 5 ms without a heartbeat trips Sheepdog into Sentinel mode. -/
  | heartbeatMissed
  /-- LOCKSTEP_MISMATCH (R494). A Yorek lockstep mismatch trips Sheepdog. -/
  | lockstepMismatch
  /-- START (R498). A start runs the seven start-up steps to Ready. -/
  | start (i : StartIn)
  /-- START_TIMER_EXPIRY (R499). Step 7 not ended 60 s after step 1 puts the device in boot hold. -/
  | startTimerExpiry
  /-- TRAINING_RECORD_SEAL (R510). A new training record is sealed within 2 s of Ready after a cold start. -/
  | trainingRecordSeal
  /-- LC_ADVANCE (R432). Test access port instruction starting the Test-to-Production transition. -/
  | lcAdvance
  /-- MAIN_SUPPLY_RISE (R511). The 54 V input rises through 40.0 V and the power stages turn on. -/
  | mainSupplyRise
  /-- SUPPLY_FAULT (R513). Overcurrent or a turn-off threshold turns off every 54 V-derived rail. -/
  | supplyFault (cause : Fin 4) (vin : BitVec 16) (iin : BitVec 16)
  /-- AUX_SUPPLY_RISE (R511). The 3.3 V auxiliary supply rises through 3.0 V. -/
  | auxSupplyRise
  /-- AUX_SUPPLY_FALL (R511). The 3.3 V auxiliary supply falls through 2.9 V. -/
  | auxSupplyFall
  /-- POWER_CAP_TICK (R517). Every 1 ms the controller compares average power with the cap and adjusts points or duty. -/
  | powerCapTick (p : BitVec 16)
  /-- OPERATING_POINT_CHANGE (R516). A C-die finishes changing its operating point. -/
  | operatingPointChange (die : Fin 8)
  /-- PWR_BRAKE_ASSERT (R519). A falling PWR_BRAKE# edge halves the cap and sets D to at most 16. -/
  | pwrBrakeAssert (long : Bool)
  /-- PWR_BRAKE_DEASSERT (R519). A rising PWR_BRAKE# edge restores the full cap. -/
  | pwrBrakeDeassert
  /-- THERMAL_SAMPLE (R520). Every 100 µs the sensors are read and limits applied. -/
  | thermalSample (t : TempIn)
  /-- THERMAL_THROTTLE_TICK (R521). At millisecond or 10 ms boundaries a throttled die lowers or raises its point. -/
  | thermalThrottleTick
  /-- THERMAL_HALT (R524). A shutdown threshold stops clocks, removes power and halts into Sentinel mode. -/
  | thermalHalt (die : Fin 13)
  /-- FAB_REFCLK_LOSS (R528). FAB_REFCLK leaves ±200 ppm or stops and every port goes DOWN. -/
  | fabRefclkLoss
  /-- FAB_REFCLK_RECOVERY (R528). FAB_REFCLK within ±50 ppm for 10 ms lets bring-up resume. -/
  | fabRefclkRecovery
  /-- CHECKPOINT_CAPTURE (R448). At CFID = s each member writes its common shards and member record. -/
  | checkpointCapture (g : GenFrom)
  /-- CHECKPOINT_FLIP (R449). The Bellwether writes the manifest and sets CUR to G. -/
  | checkpointFlip (g : GenFrom) (how : CkptEnd)
  /-- CHECKPOINT_TIMEOUT (R450). No flip 300 s after s abandons the write with TIMEOUT. -/
  | checkpointTimeout
  /-- STREAM_SEGMENT (R452). A member writes the difference-stream segment of a step and its header. -/
  | streamSegment (ok : Bool)
  /-- INSTRUCTION_FETCH_FAULT (R131). An instruction whose word cannot be fetched, is denied, or has a misaligned PC is reached and the context is lost with cause code 0x03. -/
  | instructionFetchFault (core : Fin 512)
  /-- PCIE_LINK_UP (R321). The PCIe link finishes training at its negotiated speed and width, LSTAT is recorded and a degraded-link event is raised below 64 GT/s x16. -/
  | pcieLinkUp (speed : Fin 7) (width : Fin 17) (flit : Bool)
  /-- TEST_ACCESS_PORT_INSTRUCTION (R428). An IEEE 1149.1 instruction at a die's test access port, including the tester's Blank-to-Test transition, is accepted or replaced by BYPASS according to the life-cycle state. -/
  | testAccessPortInstruction (die : Fin 13) (instr : Fin 8) (perst : Bool)
  /-- CORRECTED_ERROR_HOUR (R463). At each hour boundary every unit's hourly corrected-error count restarts and it may write a threshold signature again. -/
  | correctedErrorHour
  /-- OBJ_EXPORT_COMPLETE (R418). An export's object becomes visible at its destination, or fails, and its fence is signalled OK or ERROR. -/
  | objExportComplete (i : Nat) (ok : Bool)
  /-- CLUSTER_MOVE_TIMEOUT (R253). The departing context's cores are not idle 1 ms after CLUSTER.MOVE and Yorek refuses the command with BUSY. -/
  | clusterMoveTimeout (chan : Fin 8)
  /-- SLOT_OUT_TIMEOUT (R347). Packets in progress have not completed 200 µs after SLOT.OUT, which is refused with BUSY and service resumes. -/
  | slotOutTimeout (chan : Fin 8)
  /-- FIELD_TEST_COMPLETE (R474). Every unit finishes its field-test records, cores are restored and resume, and the result word is returned, letting a held herd expel failures or resume. -/
  | fieldTestComplete (fails : List FailRec) (members : List Nat)
  /-- REFRESH_INTERVAL_BOUNDARY (R522). At a refresh interval boundary a D-stack applies a pending change between normal and doubled refresh. -/
  | refreshIntervalBoundary (die : Fin 8)
  deriving DecidableEq, Repr

end Sys2Proof
end

