-- ==== Sys2Proof/Decode.lean ====
section
/-! DEFINITION. The words of core instructions (`06_instruction_encoding`): the fields of
each format from the most significant down, the decoder over the two words at a program
counter, the encoder, and the decoder of table words, which is empty because the table of
commands gives no row any bits. -/

namespace Sys2Proof

/-- The command that a word spells by the table's bits: no row has any. -/
def decodeTableWord (_nbits _w : Nat) : Option Instr := none

/-- Fields of the given widths, most significant first, of the low bits of a word. -/
def unpack : List Nat → Nat → List Nat
  | [], _ => []
  | w :: ws, n => n / 2 ^ ws.sum % 2 ^ w :: unpack ws n

/-- The word whose fields of the given widths, most significant first, are the values. -/
def pack : List Nat → List Nat → Nat
  | w :: ws, f :: fs => f % 2 ^ w * 2 ^ ws.sum + pack ws fs
  | _, _ => 0

/-- A field as a bit vector. -/
abbrev bv (w n : Nat) : BitVec w := BitVec.ofNat w n
/-- A 1-bit field. -/
abbrev bb (n : Nat) : Bool := n == 1

/-! ### Formats (R136, R142, R146, R148–R153), bits [53:0] unless a word 2 is named -/

/-- SALU. -/
def fSalu : List Nat := [6, 5, 5, 5, 33]
/-- SALUI. -/
def fSalui : List Nat := [6, 5, 5, 6, 32]
/-- MOVI and BR. -/
def fMovi : List Nat := [6, 5, 11, 32]
/-- CMP. -/
def fCmp : List Nat := [6, 3, 2, 5, 5, 33]
/-- CMPI. -/
def fCmpi : List Nat := [6, 3, 2, 5, 6, 32]
/-- PLOG. -/
def fPlog : List Nat := [6, 3, 3, 3, 39]
/-- MEM. -/
def fMem : List Nat := [2, 1, 1, 2, 5, 5, 6, 32]
/-- BRR. -/
def fBrr : List Nat := [6, 5, 5, 5, 33]
/-- VOP. -/
def fVop : List Nat := [11, 11, 11, 8, 1, 1, 1, 5, 3, 1, 1]
/-- VUN. -/
def fVun : List Nat := [11, 11, 11, 8, 1, 2, 5, 3, 1, 1]
/-- V3. -/
def fV3 : List Nat := [11, 11, 11, 11, 5, 1, 1, 1, 1, 1]
/-- VCVT. -/
def fVcvt : List Nat := [11, 11, 8, 4, 4, 2, 5, 9]
/-- VCVT.MX. -/
def fVmx : List Nat := [11, 11, 11, 8, 3, 1, 2, 2, 5]
/-- VBX. -/
def fVbx : List Nat := [2, 11, 11, 11, 8, 5, 6]
/-- VRNG. -/
def fVrng : List Nat := [3, 11, 8, 5, 5, 22]
/-- RSUM. -/
def fRsum : List Nat := [11, 8, 11, 11, 1, 1, 3, 3, 5]
/-- RSEL. -/
def fRsel : List Nat := [11, 8, 11, 11, 1, 1, 3, 2, 5, 1]
/-- RTOPK. -/
def fRtopk : List Nat := [11, 8, 11, 11, 1, 1, 6, 5]
/-- LOADW. -/
def fLoadw : List Nat := [4, 1, 2, 5, 5, 37]
/-- Word 1 of STREAM. -/
def fStream : List Nat := [4, 1, 2, 5, 5, 4, 2, 8, 20, 3]
/-- Word 2 of STREAM and ACCOUT, 64 bits. -/
def fOut : List Nat := [4, 2, 2, 2, 5, 5, 2, 2, 5, 35]
/-- Word 1 of ACCOUT. -/
def fAccout : List Nat := [8, 8, 38]
/-- CSADV. -/
def fCsadv : List Nat := [1, 5, 5, 16, 27]
/-- Word 1 of DMA.DESC. -/
def fDma1 : List Nat := [2, 1, 5, 46]
/-- Word 2 of DMA.DESC, 64 bits. -/
def fDma2 : List Nat := [1, 16, 5, 42]
/-- DMA.COPY. -/
def fCopy : List Nat := [5, 5, 5, 1, 1, 37]
/-- RING. -/
def fRing : List Nat := [1, 8, 45]
/-- WIN. -/
def fWin : List Nat := [1, 5, 48]
/-- TASK.BEGIN. -/
def fTask : List Nat := [5, 49]
/-- FENCE. -/
def fFence : List Nat := [2, 16, 1, 5, 5, 5, 3, 17]
/-- FENCE.SIGNAL.I. -/
def fFenceI : List Nat := [16, 38]
/-- SYS. -/
def fSys : List Nat := [6, 5, 5, 38]

/-! ### Decoding: `h` makes the common fields from whether an illegal bit is set; a SUB code
that names no operation decodes to the format's first operation with that mark, since both
lose the context with cause code 0x02 (R157). -/

/-- SALU (R137). -/
def dSalu (h : Bool → Issue) (x : Nat) : Option Instr :=
  match unpack fSalu x with
  | [sub, rd, ra, rb, r] =>
      some (([.add, .sub, .and, .or, .xor, .andn, .shl, .shr, .sra, .min, .minu, .max, .maxu, .mul, .mulh, .mulhu, .div, .divu] :
        List (Issue → BitVec 5 → BitVec 5 → BitVec 5 → Instr)).getD sub .add
        (h (r != 0 || 17 < sub)) (bv 5 rd) (bv 5 ra) (bv 5 rb))
  | _ => none

/-- SALUI (R137). -/
def dSalui (h : Bool → Issue) (x : Nat) : Option Instr :=
  match unpack fSalui x with
  | [sub, rd, ra, r, imm] =>
      some (.salui (h (r != 0)) (bv 6 sub) (bv 5 rd) (bv 5 ra) (bv 32 imm))
  | _ => none

/-- MOVI (R138). -/
def dMovi (h : Bool → Issue) (x : Nat) : Option Instr :=
  match unpack fMovi x with
  | [sub, rd, r, imm] =>
      some ((if sub = 1 then Instr.movhi else .movi) (h (r != 0 || 1 < sub)) (bv 5 rd) (bv 32 imm))
  | _ => none

/-- CMP (R138). -/
def dCmp (h : Bool → Issue) (x : Nat) : Option Instr :=
  match unpack fCmp x with
  | [c, pd, r, ra, rb, r2] =>
      some (.cmp (h (r != 0 || r2 != 0)) (bv 6 c) (bv 3 pd) (bv 5 ra) (bv 5 rb))
  | _ => none

/-- CMPI (R138). -/
def dCmpi (h : Bool → Issue) (x : Nat) : Option Instr :=
  match unpack fCmpi x with
  | [c, pd, r, ra, r2, imm] =>
      some (.cmpi (h (r != 0 || r2 != 0)) (bv 6 c) (bv 3 pd) (bv 5 ra) (bv 32 imm))
  | _ => none

/-- PLOG (R138). -/
def dPlog (h : Bool → Issue) (x : Nat) : Option Instr :=
  match unpack fPlog x with
  | [sub, pd, pa, pb, r] =>
      some (([.pand, .por, .pxor, .pandn, .pmov, .pnot] :
        List (Issue → BitVec 3 → BitVec 3 → BitVec 3 → Instr)).getD sub .pand
        (h (r != 0 || 5 < sub)) (bv 3 pd) (bv 3 pa) (bv 3 pb))
  | _ => none

/-- LD (R139). -/
def dLd (h : Bool → Issue) (x : Nat) : Option Instr :=
  match unpack fMem x with
  | [r, loc, sx, size, rd, ra, r2, imm] =>
      some (.ld (h (r != 0 || r2 != 0)) (bb loc) (bb sx) (bv 2 size) (bv 5 rd) (bv 5 ra) (bv 32 imm))
  | _ => none

/-- ST (R139). -/
def dSt (h : Bool → Issue) (x : Nat) : Option Instr :=
  match unpack fMem x with
  | [r, loc, sx, size, rs, ra, r2, imm] =>
      some (.st (h (r != 0 || r2 != 0)) (bb loc) (bb sx) (bv 2 size) (bv 5 rs) (bv 5 ra) (bv 32 imm))
  | _ => none

/-- BR (R140). -/
def dBr (h : Bool → Issue) (x : Nat) : Option Instr :=
  match unpack fMovi x with
  | [sub, rd, r, imm] =>
      some ((if sub = 1 then Instr.brl else .br) (h (r != 0 || 1 < sub)) (bv 5 rd) (bv 32 imm))
  | _ => none

/-- BRR (R140). -/
def dBrr (h : Bool → Issue) (x : Nat) : Option Instr :=
  match unpack fBrr x with
  | [sub, rd, ra, r, r2] =>
      some ((if sub = 1 then Instr.brrl else .brr) (h (r != 0 || r2 != 0 || 1 < sub)) (bv 5 rd) (bv 5 ra))
  | _ => none

/-- VOP (R143). -/
def dVop (h : Bool → Issue) (x : Nat) : Option Instr :=
  match unpack fVop x with
  | [d, a, b, n, ia, ib, br, sub, ty, x1, sat] =>
      some ((if sub = 2 then (if 3 ≤ ty ∧ ty ≤ 5 then .vmul else .vmulLo) else
        ([.vadd, .vsub, .vadd, .vmulHi, .vmin, .vmax, .vshl, .vshr, .vshra, .vand, .vor, .vxor, .vandn, .vcmpEq, .vcmpNe, .vcmpLt, .vcmpLe, .vany, .vall] :
          List (Issue → VOp → Instr)).getD sub .vadd) (h (18 < sub))
        { d := bv 11 d, a := bv 11 a, b := bv 11 b, n1 := bv 8 n, incA := bb ia, incB := bb ib,
          breg := bb br, ty := bv 3 ty, x := bb x1, sat := bb sat })
  | _ => none

/-- VUN (R143). -/
def dVun (h : Bool → Issue) (x : Nat) : Option Instr :=
  match unpack fVun x with
  | [d, a, r, n, ia, r2, sub, ty, r3, sat] =>
      some (([.vabs, .vneg, .vnot, .vmov, .vexp2, .vlog2, .vrcp, .vrsq, .vtanh] : List (Issue → VUn → Instr)).getD sub .vabs
        (h (r != 0 || r2 != 0 || r3 != 0 || 8 < sub))
        { d := bv 11 d, a := bv 11 a, n1 := bv 8 n, incA := bb ia, ty := bv 3 ty, sat := bb sat })
  | _ => none

/-- The fields of V3 (R144). -/
def v3Of (x : Nat) : Option V3 :=
  match unpack fV3 x with
  | [d, a, b, c, gn, ia, ib, ic, rnd, br] =>
      some { d := bv 11 d, a := bv 11 a, b := bv 11 b, c := bv 11 c, gn := bv 5 gn,
             incA := bb ia, incB := bb ib, incC := bb ic, rnd := bb rnd, breg := bb br }
  | _ => none

/-- VCVT (R145). -/
def dVcvt (h : Bool → Issue) (x : Nat) : Option Instr :=
  match unpack fVcvt x with
  | [d, a, n, sf, df, rnd, g, r] =>
      some (.vcvt (h (r != 0))
        { d := bv 11 d, a := bv 11 a, n1 := bv 8 n, sfmt := bv 4 sf,
          dfmt := bv 4 df, rnd := bv 2 rnd, gidx := bv 5 g })
  | _ => none

/-- The fields of VCVT.MX (R142). -/
def vmxOf (x : Nat) : Option VMx :=
  match unpack fVmx x with
  | [d, a, s, n, f, rule, blk, rnd, g] =>
      some { d := bv 11 d, a := bv 11 a, s := bv 11 s, n1 := bv 8 n, fmx := bv 3 f,
             rule := bb rule, blk := bv 2 blk, rnd := bv 2 rnd, gidx := bv 5 g }
  | _ => none

/-- VBX (R145). -/
def dVbx (h : Bool → Issue) (x : Nat) : Option Instr :=
  match unpack fVbx x with
  | [sub, d, a, s, n, g, r] =>
      some (([.vbxExp, .vbxCvt, .vbxDec] : List (Issue → VBx → Instr)).getD sub .vbxExp
        (h (r != 0 || 2 < sub)) { d := bv 11 d, a := bv 11 a, s := bv 11 s, n1 := bv 8 n, gt := bv 5 g })
  | _ => none

/-- VRNG (R145). -/
def dVrng (h : Bool → Issue) (x : Nat) : Option Instr :=
  match unpack fVrng x with
  | [sub, d, n, ga, gb, r] =>
      some (([.vrng, .vrngU, .vrngSetc, .vrngGetc, .vrngT] : List (Issue → VRng → Instr)).getD sub
        .vrng (h (r != 0 || 4 < sub)) { d := bv 11 d, n1 := bv 8 n, ga := bv 5 ga, gb := bv 5 gb })
  | _ => none

/-- RSUM (R146). -/
def dRsum (h : Bool → Issue) (x : Nat) : Option Instr :=
  match unpack fRsum x with
  | [src, n, dst, ac, i, sv, ty, sub, r] =>
      some (([.rsum, .rssq, .risum, .rpsumI, .rpsumE] : List (Issue → RFmt → Instr)).getD sub
        .rsum (h (r != 0 || 4 < sub))
        { src := bv 11 src, n1 := bv 8 n, dst := bv 11 dst,
          accs := bv 11 ac, init := bb i, save := bb sv, ty := bv 3 ty, gidx := 0 })
  | _ => none

/-- RSEL (R146). -/
def dRsel (h : Bool → Issue) (x : Nat) : Option Instr :=
  match unpack fRsel x with
  | [src, n, dst, ac, i, sv, ty, sub, g, r] =>
      some (([.rmax, .rmin, .rargmax, .rargmin] : List (Issue → RFmt → Instr)).getD sub
        .rmax (h (r != 0))
        { src := bv 11 src, n1 := bv 8 n, dst := bv 11 dst, accs := bv 11 ac,
          init := bb i, save := bb sv, ty := bv 3 ty, gidx := bv 5 g })
  | _ => none

/-- The fields of RTOPK (R146). -/
def rtopkOf (x : Nat) : Option RTopk :=
  match unpack fRtopk x with
  | [src, n, dst, ac, i, sv, k, g] =>
      some { src := bv 11 src, n1 := bv 8 n, dst := bv 11 dst, accs := bv 11 ac, init := bb i,
             save := bb sv, k1 := bv 6 k, gidx := bv 5 g }
  | _ => none

/-- LOADW (R148). -/
def dLoadw (h : Bool → Issue) (x : Nat) : Option Instr :=
  match unpack fLoadw x with
  | [f, scl, blk, gd, gs, r] =>
      some (.loadw (h (r != 0))
        { fmt := bv 4 f, scl := bb scl, blk := bv 2 blk, gd := bv 5 gd, gs := bv 5 gs })
  | _ => none

/-- Word 2 of STREAM and ACCOUT, and its reserved bits (R148). -/
def outOf (y : Nat) : Option (OutW × Nat) :=
  match unpack fOut y with
  | [f, sr, blk, dst, go, gos, k0, rnd, g, r] =>
      some ({ fmt := bv 4 f, srule := bv 2 sr, blk := bv 2 blk, dst := bv 2 dst, go := bv 5 go,
              gos := bv 5 gos, k0 := bv 2 k0, rnd := bv 2 rnd, gidx := bv 5 g }, r)
  | _ => none

/-- STREAM (R148). -/
def dStream (h : Bool → Issue) (x : Nat) (y : Nat) : Option Instr :=
  match unpack fStream x with
  | [f, scl, blk, ga, gsa, ring, mode, acc, m, r] =>
      (outOf y).map fun o => .stream (h (r != 0 || o.2 != 0))
        { fmtA := bv 4 f, sclA := bb scl, blkA := bv 2 blk, ga := bv 5 ga, gsa := bv 5 gsa,
          ring := bv 4 ring, mode := bv 2 mode, acc := bv 8 acc, m1 := bv 20 m } o.1
  | _ => none

/-- ACCOUT (R148). -/
def dAccout (h : Bool → Issue) (x : Nat) (y : Nat) : Option Instr :=
  match unpack fAccout x with
  | [e, j, r] =>
      (outOf y).map fun o => .accout (h (r != 0 || o.2 != 0)) (bv 8 e) (bv 8 j) o.1
  | _ => none

/-- CSADV (R149). -/
def dCsadv (h : Bool → Issue) (x : Nat) : Option Instr :=
  match unpack fCsadv x with
  | [loc, gt, gn, hh, r] =>
      some (.csadv (h (r != 0)) { loc := bb loc, gt := bv 5 gt, gn := bv 5 gn, h := bv 16 hh })
  | _ => none

/-- DMA.DESC (R150). -/
def dDma (h : Bool → Issue) (x y : Nat) : Option Instr :=
  match unpack fDma1 x, unpack fDma2 y with
  | [e, loc, gd, r], [fen, fid, gv, r2] =>
      some (.dmaDesc (h (r != 0 || r2 != 0))
        { eng := bv 2 e, loc := bb loc, gd := bv 5 gd, fen := bb fen, fid := bv 16 fid, gv := bv 5 gv })
  | _, _ => none

/-- DMA.COPY (R150). -/
def dCopy (h : Bool → Issue) (x : Nat) : Option Instr :=
  match unpack fCopy x with
  | [gd, gs, gl, dl, sl, r] =>
      some (.dmaCopy (h (r != 0))
        { gdst := bv 5 gd, gsrc := bv 5 gs, glen := bv 5 gl, dl := bb dl, sl := bb sl })
  | _ => none

/-- RING (R150). -/
def dRing (h : Bool → Issue) (x : Nat) : Option Instr :=
  match unpack fRing x with
  | [sub, q, r] =>
      some ((if sub = 1 then Instr.ringRst else .ringAdv) (h (r != 0)) (bv 8 q))
  | _ => none

/-- WIN (R150). -/
def dWin (h : Bool → Issue) (x : Nat) : Option Instr :=
  match unpack fWin x with
  | [sub, g, r] =>
      some ((if sub = 1 then Instr.winRel else .winResv) (h (r != 0)) (bv 5 g))
  | _ => none

/-- TASK.BEGIN (R152). -/
def dTask (h : Bool → Issue) (x : Nat) : Option Instr :=
  match unpack fTask x with
  | [g, r] =>
      some (.taskBegin (h (r != 0)) (bv 5 g))
  | _ => none

/-- FENCE (R152). -/
def dFence (h : Bool → Issue) (x : Nat) : Option Instr :=
  match unpack fFence x with
  | [sub, fid, idr, gi, gv, gd, pd, r] =>
      some (([.fenceSignal, .fenceRead, .fenceWait] : List (Issue → FenceF → Instr)).getD sub .fenceSignal
        (h (r != 0 || sub == 3))
        { fid := bv 16 fid, idr := bb idr, gi := bv 5 gi, gv := bv 5 gv, gd := bv 5 gd,
          pd := bv 3 pd })
  | _ => none

/-- FENCE.SIGNAL.I (R152). -/
def dFenceI (h : Bool → Issue) (x : Nat) (y : Nat) : Option Instr :=
  match unpack fFenceI x with
  | [fid, r] =>
      some (.fenceSignalI (h (r != 0)) (bv 16 fid) (bv 64 y))
  | _ => none

/-- SYS (R153). -/
def dSys (h : Bool → Issue) (x : Nat) : Option Instr :=
  match unpack fSys x with
  | [sub, gd, ga, r] =>
      some (([.sysNop, .sysIflush, .sysSrkey, .sysFlags, .sysId, .sysTime] :
        List (Issue → BitVec 5 → BitVec 5 → Instr)).getD sub .sysNop (h (r != 0 || 5 < sub)) (bv 5 gd) (bv 5 ga))
  | _ => none

/-- Whether a first word's format bits, all reserved, hold anything. -/
def rsvAll (x : Nat) : Bool := x % 2 ^ 54 != 0

/-- The instruction of a major opcode over its format bits and second word (R135). -/
def decodeOp (h : Bool → Issue) (op x y : Nat) : Option Instr :=
  match op with
  | 0x00 => dSalu h x
  | 0x01 => dSalui h x
  | 0x02 => dMovi h x
  | 0x03 => dCmp h x
  | 0x04 => dCmpi h x
  | 0x05 => dPlog h x
  | 0x06 => dLd h x
  | 0x07 => dSt h x
  | 0x08 => dBr h x
  | 0x09 => dBrr h x
  | 0x10 => dVop h x
  | 0x11 => dVun h x
  | 0x12 => dVcvt h x
  | 0x13 => (vmxOf x).map fun f => .vcvtMx (h false) f
  | 0x14 => (vmxOf x).map fun f => .vcvtMxd (h false) f
  | 0x15 => dVbx h x
  | 0x16 => dVrng h x
  | 0x17 => (v3Of x).map fun f => .vfma (h false) 0 f
  | 0x18 => (v3Of x).map fun f => .vfma (h false) 1 f
  | 0x19 => (v3Of x).map fun f => .vfma (h false) 2 f
  | 0x1A => (v3Of x).map fun f => .vdot2 (h false) false f
  | 0x1B => (v3Of x).map fun f => .vdot2 (h false) true f
  | 0x1C => (v3Of x).map fun f => .vsel (h false) 0 f
  | 0x1D => (v3Of x).map fun f => .vsel (h false) 1 f
  | 0x1E => (v3Of x).map fun f => .vsel (h false) 2 f
  | 0x20 => dRsum h x
  | 0x21 => dRsel h x
  | 0x22 => (rtopkOf x).map fun f => .rtopk (h false) false f
  | 0x23 => (rtopkOf x).map fun f => .rtopk (h false) true f
  | 0x28 => dLoadw h x
  | 0x29 => some (.swap (h (rsvAll x)))
  | 0x2A => dStream h x y
  | 0x2B => dAccout h x y
  | 0x2C => dCsadv h x
  | 0x30 => dDma h x y
  | 0x31 => dCopy h x
  | 0x32 => dRing h x
  | 0x33 => dWin h x
  | 0x38 => dTask h x
  | 0x39 => some (.taskEnd (h (rsvAll x)))
  | 0x3A => dFence h x
  | 0x3B => dFenceI h x y
  | 0x3C => dSys h x
  | _ => some (.unassignedMajorOpcode (h false) (bv 6 op))

/-- The instruction that the words at a core's program counter spell (R131, R132). -/
def decodeWord (core : Fin 512) (w0 w1 : Nat) : Option Instr :=
  match unpack [6, 3, 1, 54] w0 with
  | [op, pred, pneg, x] =>
      decodeOp (fun r => { core := core, pred := bv 3 pred, pneg := bb pneg, rsv := r }) op x w1
  | _ => none

/-! ### Encoding -/

/-- A first word from its opcode, common fields and format fields; an instruction whose
reserved bits are set is not encoded. -/
def enc (op : Nat) (h : Issue) (ws fs : List Nat) (w1 : Nat := 0) : Option (Nat × Nat) :=
  if h.rsv then none
  else some (pack [6, 3, 1, 54] [op, h.pred.toNat, b2n h.pneg, pack ws fs], w1)

/-- VOP with its SUB. -/
def encVop (h : Issue) (sub : Nat) (f : VOp) : Option (Nat × Nat) :=
  enc 0x10 h fVop [f.d.toNat, f.a.toNat, f.b.toNat, f.n1.toNat, b2n f.incA, b2n f.incB,
    b2n f.breg, sub, f.ty.toNat, b2n f.x, b2n f.sat]
/-- VUN with its SUB. -/
def encVun (h : Issue) (sub : Nat) (f : VUn) : Option (Nat × Nat) :=
  enc 0x11 h fVun [f.d.toNat, f.a.toNat, 0, f.n1.toNat, b2n f.incA, 0, sub, f.ty.toNat, 0,
    b2n f.sat]
/-- V3 with its opcode. -/
def encV3 (h : Issue) (op : Nat) (f : V3) : Option (Nat × Nat) :=
  enc op h fV3 [f.d.toNat, f.a.toNat, f.b.toNat, f.c.toNat, f.gn.toNat, b2n f.incA,
    b2n f.incB, b2n f.incC, b2n f.rnd, b2n f.breg]
/-- VCVT.MX with its opcode. -/
def encVmx (h : Issue) (op : Nat) (f : VMx) : Option (Nat × Nat) :=
  enc op h fVmx [f.d.toNat, f.a.toNat, f.s.toNat, f.n1.toNat, f.fmx.toNat, b2n f.rule,
    f.blk.toNat, f.rnd.toNat, f.gidx.toNat]
/-- VBX with its SUB. -/
def encVbx (h : Issue) (sub : Nat) (f : VBx) : Option (Nat × Nat) :=
  enc 0x15 h fVbx [sub, f.d.toNat, f.a.toNat, f.s.toNat, f.n1.toNat, f.gt.toNat, 0]
/-- VRNG with its SUB. -/
def encVrng (h : Issue) (sub : Nat) (f : VRng) : Option (Nat × Nat) :=
  enc 0x16 h fVrng [sub, f.d.toNat, f.n1.toNat, f.ga.toNat, f.gb.toNat, 0]
/-- RSUM with its SUB. -/
def encRsum (h : Issue) (sub : Nat) (f : RFmt) : Option (Nat × Nat) :=
  enc 0x20 h fRsum [f.src.toNat, f.n1.toNat, f.dst.toNat, f.accs.toNat, b2n f.init,
    b2n f.save, f.ty.toNat, sub, 0]
/-- RSEL with its SUB. -/
def encRsel (h : Issue) (sub : Nat) (f : RFmt) : Option (Nat × Nat) :=
  enc 0x21 h fRsel [f.src.toNat, f.n1.toNat, f.dst.toNat, f.accs.toNat, b2n f.init,
    b2n f.save, f.ty.toNat, sub, f.gidx.toNat, 0]
/-- RTOPK with its opcode. -/
def encRtopk (h : Issue) (op : Nat) (f : RTopk) : Option (Nat × Nat) :=
  enc op h fRtopk [f.src.toNat, f.n1.toNat, f.dst.toNat, f.accs.toNat, b2n f.init,
    b2n f.save, f.k1.toNat, f.gidx.toNat]
/-- Word 2 of STREAM and ACCOUT. -/
def encOut (o : OutW) : Nat :=
  pack fOut [o.fmt.toNat, o.srule.toNat, o.blk.toNat, o.dst.toNat, o.go.toNat, o.gos.toNat,
    o.k0.toNat, o.rnd.toNat, o.gidx.toNat, 0]
/-- FENCE with its SUB. -/
def encFence (h : Issue) (sub : Nat) (f : FenceF) : Option (Nat × Nat) :=
  enc 0x3A h fFence [sub, f.fid.toNat, b2n f.idr, f.gi.toNat, f.gv.toNat, f.gd.toNat,
    f.pd.toNat, 0]
/-- SALU with its SUB. -/
def encSalu (h : Issue) (sub : Nat) (rd ra rb : BitVec 5) : Option (Nat × Nat) :=
  enc 0x00 h fSalu [sub, rd.toNat, ra.toNat, rb.toNat, 0]
/-- PLOG with its SUB. -/
def encPlog (h : Issue) (sub : Nat) (pd pa pb : BitVec 3) : Option (Nat × Nat) :=
  enc 0x05 h fPlog [sub, pd.toNat, pa.toNat, pb.toNat, 0]
/-- SYS with its SUB. -/
def encSys (h : Issue) (sub : Nat) (gd ga : BitVec 5) : Option (Nat × Nat) :=
  enc 0x3C h fSys [sub, gd.toNat, ga.toNat, 0]

/-- The words of a core instruction; none for the other commands and for an instruction with
an illegal bit. -/
def encodeWord (i : Instr) : Option (Nat × Nat) :=
  match i with
  | .add h rd ra rb => encSalu h 0 rd ra rb
  | .sub h rd ra rb => encSalu h 1 rd ra rb
  | .and h rd ra rb => encSalu h 2 rd ra rb
  | .or h rd ra rb => encSalu h 3 rd ra rb
  | .xor h rd ra rb => encSalu h 4 rd ra rb
  | .andn h rd ra rb => encSalu h 5 rd ra rb
  | .shl h rd ra rb => encSalu h 6 rd ra rb
  | .shr h rd ra rb => encSalu h 7 rd ra rb
  | .sra h rd ra rb => encSalu h 8 rd ra rb
  | .min h rd ra rb => encSalu h 9 rd ra rb
  | .minu h rd ra rb => encSalu h 10 rd ra rb
  | .max h rd ra rb => encSalu h 11 rd ra rb
  | .maxu h rd ra rb => encSalu h 12 rd ra rb
  | .mul h rd ra rb => encSalu h 13 rd ra rb
  | .mulh h rd ra rb => encSalu h 14 rd ra rb
  | .mulhu h rd ra rb => encSalu h 15 rd ra rb
  | .div h rd ra rb => encSalu h 16 rd ra rb
  | .divu h rd ra rb => encSalu h 17 rd ra rb
  | .salui h sub rd ra imm => enc 0x01 h fSalui [sub.toNat, rd.toNat, ra.toNat, 0, imm.toNat]
  | .movi h rd imm => enc 0x02 h fMovi [0, rd.toNat, 0, imm.toNat]
  | .movhi h rd imm => enc 0x02 h fMovi [1, rd.toNat, 0, imm.toNat]
  | .cmp h c pd ra rb => enc 0x03 h fCmp [c.toNat, pd.toNat, 0, ra.toNat, rb.toNat, 0]
  | .cmpi h c pd ra imm => enc 0x04 h fCmpi [c.toNat, pd.toNat, 0, ra.toNat, 0, imm.toNat]
  | .pand h pd pa pb => encPlog h 0 pd pa pb
  | .por h pd pa pb => encPlog h 1 pd pa pb
  | .pxor h pd pa pb => encPlog h 2 pd pa pb
  | .pandn h pd pa pb => encPlog h 3 pd pa pb
  | .pmov h pd pa pb => encPlog h 4 pd pa pb
  | .pnot h pd pa pb => encPlog h 5 pd pa pb
  | .ld h loc sx size rd ra imm =>
      enc 0x06 h fMem [0, b2n loc, b2n sx, size.toNat, rd.toNat, ra.toNat, 0, imm.toNat]
  | .st h loc sx size rs ra imm =>
      enc 0x07 h fMem [0, b2n loc, b2n sx, size.toNat, rs.toNat, ra.toNat, 0, imm.toNat]
  | .br h rd imm => enc 0x08 h fMovi [0, rd.toNat, 0, imm.toNat]
  | .brl h rd imm => enc 0x08 h fMovi [1, rd.toNat, 0, imm.toNat]
  | .brr h rd ra => enc 0x09 h fBrr [0, rd.toNat, ra.toNat, 0, 0]
  | .brrl h rd ra => enc 0x09 h fBrr [1, rd.toNat, ra.toNat, 0, 0]
  | .vadd h f => encVop h 0 f
  | .vsub h f => encVop h 1 f
  | .vmulHi h f => encVop h 3 f
  | .vmin h f => encVop h 4 f
  | .vmax h f => encVop h 5 f
  | .vshl h f => encVop h 6 f
  | .vshr h f => encVop h 7 f
  | .vshra h f => encVop h 8 f
  | .vand h f => encVop h 9 f
  | .vor h f => encVop h 10 f
  | .vxor h f => encVop h 11 f
  | .vandn h f => encVop h 12 f
  | .vcmpEq h f => encVop h 13 f
  | .vcmpNe h f => encVop h 14 f
  | .vcmpLt h f => encVop h 15 f
  | .vcmpLe h f => encVop h 16 f
  | .vany h f => encVop h 17 f
  | .vall h f => encVop h 18 f
  | .vmulLo h f => encVop h 2 f
  | .vmul h f => encVop h 2 f
  | .vabs h f => encVun h 0 f
  | .vneg h f => encVun h 1 f
  | .vnot h f => encVun h 2 f
  | .vmov h f => encVun h 3 f
  | .vexp2 h f => encVun h 4 f
  | .vlog2 h f => encVun h 5 f
  | .vrcp h f => encVun h 6 f
  | .vrsq h f => encVun h 7 f
  | .vtanh h f => encVun h 8 f
  | .vfma h ty f => encV3 h (0x17 + ty.val) f
  | .vdot2 h fp16 f => encV3 h (0x1A + b2n fp16) f
  | .vsel h w f => encV3 h (0x1C + w.val) f
  | .vcvt h f => enc 0x12 h fVcvt [f.d.toNat, f.a.toNat, f.n1.toNat, f.sfmt.toNat, f.dfmt.toNat,
      f.rnd.toNat, f.gidx.toNat, 0]
  | .vcvtMx h f => encVmx h 0x13 f
  | .vcvtMxd h f => encVmx h 0x14 f
  | .vbxExp h f => encVbx h 0 f
  | .vbxCvt h f => encVbx h 1 f
  | .vbxDec h f => encVbx h 2 f
  | .vrng h f => encVrng h 0 f
  | .vrngU h f => encVrng h 1 f
  | .vrngSetc h f => encVrng h 2 f
  | .vrngGetc h f => encVrng h 3 f
  | .vrngT h f => encVrng h 4 f
  | .rsum h f => encRsum h 0 f
  | .rssq h f => encRsum h 1 f
  | .risum h f => encRsum h 2 f
  | .rpsumI h f => encRsum h 3 f
  | .rpsumE h f => encRsum h 4 f
  | .rmax h f => encRsel h 0 f
  | .rmin h f => encRsel h 1 f
  | .rargmax h f => encRsel h 2 f
  | .rargmin h f => encRsel h 3 f
  | .rtopk h i32 f => encRtopk h (0x22 + b2n i32) f
  | .loadw h f => enc 0x28 h fLoadw [f.fmt.toNat, b2n f.scl, f.blk.toNat, f.gd.toNat, f.gs.toNat, 0]
  | .swap h => enc 0x29 h [] []
  | .stream h f o => enc 0x2A h fStream [f.fmtA.toNat, b2n f.sclA, f.blkA.toNat, f.ga.toNat,
      f.gsa.toNat, f.ring.toNat, f.mode.toNat, f.acc.toNat, f.m1.toNat, 0] (encOut o)
  | .accout h e j o => enc 0x2B h fAccout [e.toNat, j.toNat, 0] (encOut o)
  | .csadv h f => enc 0x2C h fCsadv [b2n f.loc, f.gt.toNat, f.gn.toNat, f.h.toNat, 0]
  | .dmaDesc h f => enc 0x30 h fDma1 [f.eng.toNat, b2n f.loc, f.gd.toNat, 0]
      (pack fDma2 [b2n f.fen, f.fid.toNat, f.gv.toNat, 0])
  | .dmaCopy h f => enc 0x31 h fCopy [f.gdst.toNat, f.gsrc.toNat, f.glen.toNat, b2n f.dl,
      b2n f.sl, 0]
  | .ringAdv h q => enc 0x32 h fRing [0, q.toNat, 0]
  | .ringRst h q => enc 0x32 h fRing [1, q.toNat, 0]
  | .winResv h g => enc 0x33 h fWin [0, g.toNat, 0]
  | .winRel h g => enc 0x33 h fWin [1, g.toNat, 0]
  | .taskBegin h g => enc 0x38 h fTask [g.toNat, 0]
  | .taskEnd h => enc 0x39 h [] []
  | .fenceSignal h f => encFence h 0 f
  | .fenceRead h f => encFence h 1 f
  | .fenceWait h f => encFence h 2 f
  | .fenceSignalI h fid val => enc 0x3B h fFenceI [fid.toNat, 0] val.toNat
  | .sysNop h gd ga => encSys h 0 gd ga
  | .sysIflush h gd ga => encSys h 1 gd ga
  | .sysSrkey h gd ga => encSys h 2 gd ga
  | .sysFlags h gd ga => encSys h 3 gd ga
  | .sysId h gd ga => encSys h 4 gd ga
  | .sysTime h gd ga => encSys h 5 gd ga
  | _ => none

/-- A command whose operands its words can spell: SUB 2 of VOP is VMUL for a float type and VMUL.LO otherwise (R143), and
RSUM has no gIDX (R146). -/
def Instr.spelt (i : Instr) : Bool :=
  match i with
  | .vmul _ f => 3 ≤ f.ty.toNat && f.ty.toNat ≤ 5
  | .vmulLo _ f => !(3 ≤ f.ty.toNat && f.ty.toNat ≤ 5)
  | .rsum _ f => f.gidx == 0
  | .rssq _ f => f.gidx == 0
  | .risum _ f => f.gidx == 0
  | .rpsumI _ f => f.gidx == 0
  | .rpsumE _ f => f.gidx == 0
  | _ => true

end Sys2Proof
end

