-- ==== Sys2Proof/Config.lean ====
section
/-! DEFINITION. What the manual leaves to an implementation, to another standard or to
a published file: opaque constants with no body, so that nothing can be proved of their
values. Each is named in the assumption log. -/

namespace Sys2Proof

/-- A free value of `w` bits: the machine applies it to the counter `freeCtr` of its state,
which it advances at every use (log entry 1). -/
opaque Config.freeValue : (w : Nat) → Nat → BitVec w

/-- The bank of an L-tier offset within its channel, which the manual does not place (`08` R195; log entry 20). -/
opaque Config.lBank : Nat → BitVec 16

/-- Results of the published conformance set for a transcendental function of `05` R120:
function number (4 VEXP2, 5 VLOG2, 6 VRCP, 7 VRSQ, 8 VTANH) and FP32 input (log entry 2). -/
opaque Config.conformance : Nat → BitVec 32 → BitVec 32

/-- The SM3 hash of a byte string, as 32 bytes (`15` R369, `17` R406; log entry 3). -/
opaque Config.sm3 : List Byte → BitVec 256

/-- The SM4 block cipher: key and plaintext block (`16` R387; log entry 3). -/
opaque Config.sm4 : BitVec 128 → BitVec 128 → BitVec 128
/-- The SM4 inverse cipher: key and ciphertext block (`16` R387; log entry 3). -/
opaque Config.sm4inv : BitVec 128 → BitVec 128 → BitVec 128

/-- Whether an SM2 signature over a message verifies: public key, distinguishing identifier, message and
signature (`17` R407; log entry 3). -/
opaque Config.sm2verify : List Byte → List Byte → List Byte → List Byte → Bool
/-- The SM2 signature of a message: private scalar, distinguishing identifier and message (`17` R413;
log entry 3). -/
opaque Config.sm2sign : BitVec 256 → List Byte → List Byte → List Byte
/-- Whether 64 B are a point of the SM2 curve (`17` R408; log entry 3). -/
opaque Config.sm2point : List Byte → Bool
/-- SM2 encryption to a public key: the random scalar and the message; C1 ‖ C3 ‖ C2 (`17` R418;
log entry 3). -/
opaque Config.sm2encrypt : List Byte → BitVec 256 → List Byte → List Byte
/-- The SM2 public key of a private scalar (`15` R371; log entry 3). -/
opaque Config.sm2public : BitVec 256 → List Byte
/-- The shared value of an SM2 key agreement: private scalar and peer key (`15` R372;
log entry 3). -/
opaque Config.sm2agree : BitVec 256 → List Byte → BitVec 256
/-- SM4-GCM opening: key, IV, additional data, ciphertext and tag; none when the tag fails (`17` R417;
log entry 3). -/
opaque Config.gcmOpen : BitVec 128 → List Byte → List Byte → List Byte → Option (List Byte)
/-- SM4-GCM sealing: key, IV, additional data and plaintext; the ciphertext and its 16 B tag (`17` R418;
log entry 3). -/
opaque Config.gcmSeal : BitVec 128 → List Byte → List Byte → List Byte → List Byte

/-- The device root K_R that the PUF and its helper data give (`15` R366; log entry 4). -/
opaque Config.deviceRoot : BitVec 256
/-- The 3 KiB of helper data that an enrolment writes into bank A (false) or B (true) (`15` R366; log entry 4). -/
opaque Config.pufHelper : Bool → BitVec 24576
/-- The shared secret Z of the SM2 key exchange: this end's static and ephemeral scalars, and the peer's static and ephemeral
public keys (`15` R372, GB/T 32918.3; log entry 3). -/
opaque Config.sm2exchange : BitVec 256 → BitVec 256 → List Byte → List Byte → BitVec 256
/-- The 8 B unit number UID in OTP (`15` R371; log entry 4). -/
opaque Config.uid : BitVec 64
/-- SM3 of the module's production root public key (`17` R408; log entry 4). -/
opaque Config.rootDigest : BitVec 256
/-- The ROM version of measurement block 2 (`17` R412; log entry 4). -/
opaque Config.romVersion : BitVec 32
/-- The Damyel life-cycle public key, x then y, whose digest OTP holds (`18` R432, R435; log entry 4). -/
opaque Config.lifeKey : List Byte
/-- Word `i` of the crash dump with a number (`20` R476; log entry 4). -/
opaque Config.dumpWord : Nat → Nat → BitVec 64
/-- Bytes of the crash dump with a number (`20` R476; log entry 4). -/
opaque Config.dumpLen : Nat → Nat
/-- Silicon revision, `XGLB.ID.REV` (`25` R553; log entry 4). -/
opaque Config.revision : BitVec 8
/-- The order n of the SM2 base point (`15` R370; log entry 3). -/
opaque Config.sm2order : Nat
/-- The factory calibration value of an item and lane or sensor (`22` R508; log entry 4). -/
opaque Config.factoryCal : Nat → Nat → BitVec 64
/-- The digest of the public key that verifies a firmware image slot (`22` R504; log entry 4). -/
opaque Config.fwKeyDigest : Nat → BitVec 256
/-- The set of an M-die's integrity cache, of 2,048, in which a unit lies: the manual does not state it (`16` R396; log entry
57). -/
opaque Config.integSet : Nat → Nat
/-- The 8 B of ECC over the first 136 bytes of a line on the wire (`16` R389; log entry 4). -/
opaque Config.lineEcc : List Byte → BitVec 64

/-- The fixed latency of a port's transmitter or receiver by which its Tether stamps are corrected, in 2⁻¹⁶ ns (`11` R271,
`22` R508; log entry 4). -/
opaque Config.portDelay : Nat → Bool → BitVec 32
/-- The calibrated asymmetry of a port, signed, in 2⁻¹⁶ ns (`12` R307, `22` R508; log entry 4). -/
opaque Config.portAsym : Nat → BitVec 32

end Sys2Proof
end

