-- ==== Sys2Proof/Machine/StateCore.lean ====
section
/-! DEFINITION. The state of a core, a cluster and the movers of a C-die
(`02_core_programming_model`, `03_matrix_array`, `05_vector_and_reduction`,
`08_streaming_engine`). -/

namespace Sys2Proof.Machine

/-- A core is IDLE or RUNNING (`14` R348). -/
inductive CoreRun | idle | running
  deriving DecidableEq, Repr

/-- A verdict on a speculative task (`02` R47). -/
inductive Verdict | none | commit | discard
  deriving DecidableEq, Repr

/-- A task header as latched by TASK.BEGIN (`02` R38). -/
structure TaskHdr where
  /-- Verdict fence ID (16 bits). -/
  vfid : Nat := 0
  /-- Verdict timeout in microseconds (16 bits). -/
  vto : Nat := 0
  /-- Program-chosen tag (16 bits). -/
  tag : Nat := 0
  /-- Propagation mask over the input fences (4 bits). -/
  prop : Nat := 0
  /-- The task is speculative. -/
  spec : Bool := false
  /-- Resolve value T. -/
  t : W64 := 0
  /-- Commit value C. -/
  c : W64 := 0
  /-- The input fences below NIN: ID and value. -/
  ins : List (Nat × W64) := []
  /-- The output fences below NOUT: ID and value. -/
  outs : List (Nat × W64) := []
  deriving DecidableEq, Repr

/-- An entry of the task table (`02` R29, R42, R47–R52). -/
structure Task where
  /-- The model's own serial number of the task on its core: program order. -/
  id : Nat := 0
  /-- The header. -/
  hdr : TaskHdr := {}
  /-- Still open: TASK.END has not issued. -/
  isOpen : Bool := true
  /-- The verdict, as acted on. -/
  verdict : Verdict := .none
  /-- The first resolving signal seen and not yet acted on (R47). -/
  first : Option W64 := none
  /-- The serials of older tasks whose held bytes the task has read (R51). -/
  bound : List Nat := []
  /-- Tether time of TASK.BEGIN (R48, `07` R183). -/
  began : W64 := 0
  /-- A committed task whose entries and held signals have drained (R49). -/
  drained : Bool := false
  deriving DecidableEq, Repr

/-- A paddock entry: a 64 B line, the bytes under its mask and its task (`02` R46). -/
structure PadEntry where
  /-- Device address of the line, divided by 64. -/
  line : Nat := 0
  /-- The bytes held, by offset in the line: the listed offsets are the mask. -/
  bytes : Tab (Option Byte) := []
  /-- Serial of the task that stored them. -/
  task : Nat := 0
  deriving DecidableEq, Repr

/-- A signal a speculative task holds back (`02` R44, R46). -/
structure HeldSig where
  /-- Fence. -/
  fid : Nat := 0
  /-- Value. -/
  val : W64 := 0
  /-- Serial of the task. -/
  task : Nat := 0
  /-- The core's dispatch number at the FENCE.SIGNAL: chains of the task with a lower one
  precede it (R49). -/
  after : Nat := 0
  deriving DecidableEq, Repr

/-- A FENCE.SIGNAL that waits for earlier DMA writes to be visible (`02` R41, R43). -/
structure RelSig where
  /-- Fence. -/
  fid : Nat := 0
  /-- Value. -/
  val : W64 := 0
  /-- Serial of its task; none outside every task. -/
  task : Option Nat := none
  /-- The core's dispatch number at the FENCE.SIGNAL. -/
  after : Nat := 0
  deriving DecidableEq, Repr

/-- A scalar load from context memory, or a FENCE.READ, in flight (`02` R33, `06` R155). -/
structure Load where
  /-- Destination register. -/
  rd : Nat := 0
  /-- The value that returns. -/
  val : W64 := 0
  /-- Destination predicate of a FENCE.READ and the value it takes. -/
  pred : Option (Nat × Bool) := none
  /-- Context of a load from memory. -/
  ctx : Nat := 0
  /-- Its virtual address. -/
  va : Nat := 0
  /-- Its device address. -/
  da : Nat := 0
  /-- Its bytes; 0 for a FENCE.READ. -/
  len : Nat := 0
  /-- The pool of its C-die whose tag it holds until its data return (`08` R193); 0 none. -/
  tag : Nat := 0
  /-- The number it went out under (`State.reqNum`). -/
  num : Nat := 0
  deriving DecidableEq, Repr

/-- What a core's issue waits for (`02` R40, `06` R152). -/
inductive Stall
  /-- Nothing. -/
  | no
  /-- FENCE.WAIT on a fence for a value. -/
  | fence (fid : Nat) (val : W64)
  /-- TASK.BEGIN with its header latched; once its inputs have reached their values, whether one
  named in PROP then carried discard status (R48). -/
  | task (hdr : TaskHdr) (met : Option Bool)
  deriving DecidableEq, Repr

/-- A stationary bank of the array (`03` R62, R63). -/
structure Bank where
  /-- Format code held with the bank. -/
  fmt : Nat := 11
  /-- Whether the bank has block scales. -/
  scl : Bool := false
  /-- Block size along K. -/
  blk : Nat := 32
  /-- Element encodings, element (k, n) under key 64k + n. -/
  elem : Tab (BitVec 16) := []
  /-- Scale bytes, block q of column n under key 16n + q. -/
  scale : Tab Byte := []
  deriving DecidableEq, Repr

/-- What a DMA engine does next in a chain (`06` R150). -/
inductive DescRef
  /-- The descriptor at an address, a local offset when `loc`. -/
  | at_ (a : W64) (loc : Bool)
  /-- The copy of a DMA.COPY, whose registers were read at its dispatch. -/
  | copy (dst src len : W64) (dl sl : Bool)
  deriving DecidableEq, Repr

/-- Local ranges, offset and length, that unfinished work still reads and writes (`02` R36). -/
structure Ext where
  /-- Ranges read. -/
  r : List (Nat × Nat) := []
  /-- Ranges written. -/
  w : List (Nat × Nat) := []
  deriving DecidableEq, Repr

/-- An instruction in the queue of a unit, not begun (`06` R155): it is performed with the register
values of its dispatch (`06` R136). -/
structure Dispatched where
  /-- Dispatch number on its core. -/
  num : Nat
  /-- Its address. -/
  pc : W48
  /-- The instruction. -/
  ins : Instr
  /-- The general registers at its dispatch. -/
  g : Tab W64
  /-- The SR step at its dispatch (`06` R154). -/
  srstep : BitVec 32
  /-- Serial of the task open at its dispatch. -/
  task : Option Nat
  /-- What it reads and writes in the stores. -/
  ext : Ext
  /-- The predicate that VANY or VALL will write. -/
  pd : Option Nat
  /-- What DMA.DESC or DMA.COPY will hand to an engine. -/
  cur : Option DescRef
  deriving DecidableEq, Repr

/-- The output fields of STREAM and ACCOUT with their register values (`03` R67, R77). -/
structure OutF where
  /-- Output format code. -/
  fmt : Nat := 0
  /-- Output scale rule: 0 none, 1 OCP, 2 round-up, 3 carried. -/
  srule : Nat := 0
  /-- Output block size. -/
  blk : Nat := 16
  /-- Destination: 0 natural, 1 skewed, 2 operand cache. -/
  dst : Nat := 0
  /-- Output data base. -/
  obase : Nat := 0
  /-- Output scale base or carried-scale table. -/
  osbase : Nat := 0
  /-- First K-element of a skewed output row. -/
  k0 : Nat := 0
  /-- Rounding code. -/
  rnd : Nat := 0
  /-- Element-index base. -/
  idx : W64 := 0
  /-- SR step captured at dispatch (`06` R154). -/
  srstep : BitVec 32 := 0
  deriving DecidableEq, Repr

/-- A matrix instruction dispatched and not finished (`03` R63–R71). -/
inductive MxOp
  /-- LOADW of a bank (false: bank 0) from a data and a scale base. -/
  | loadw (bank : Bool) (fmt : Nat) (scl : Bool) (blk base sbase : Nat)
  /-- STREAM against a bank: `row` is the next row, `use0` is USE at its start once it has
  started, and `buf` holds the steps from `row` on that it has read, each with its scale
  record. -/
  | stream (bank : Bool) (fmt : Nat) (scl : Bool) (blk base sbase ring mode acc m : Nat)
      (out : OutF) (row : Nat) (use0 : Option (BitVec 32)) (buf : List (List Byte × List Byte))
  /-- ACCOUT of `j` entries from entry `e0` on (`03` R77). -/
  | accout (e0 j : Nat) (out : OutF)
  /-- SWAP: the instructions dispatched after it name the other bank (`03` R66). -/
  | swap
  /-- CSADV of `n` entries at `base`, a local offset when `loc` (`06` R149); `pc` is its address. -/
  | csadv (loc : Bool) (base n h : Nat) (task : Option Nat) (pc : W48)
  deriving DecidableEq, Repr

/-- The matrix array of a core (`03` R62, R71, R76). -/
structure Matrix where
  /-- Bank 0. -/
  bank0 : Bank := {}
  /-- Bank 1. -/
  bank1 : Bank := {}
  /-- The active bank: false is bank 0. -/
  active : Bool := false
  /-- Accumulator entries: entry e of column n under key 64e + n, each an ACC60 word
  (sign, 11-bit exponent, 48-bit significand). -/
  acc : Tab (BitVec 60) := []
  /-- Ring count FILL. -/
  fill : BitVec 32 := 0
  /-- Ring count USE. -/
  use : BitVec 32 := 0
  /-- Matrix instructions dispatched and not finished, at most 8 (`06` R155), oldest first, with
  their dispatch numbers. -/
  ops : List (Nat × MxOp) := []
  deriving DecidableEq, Repr

/-- A layer window (`08` R197–R203). -/
structure Window where
  /-- Local offset of the descriptor it was reserved from. -/
  off : Nat := 0
  /-- 0 D, 1 T, 2 R. -/
  kind : Nat := 0
  /-- Priority 0–7. -/
  pri : Nat := 0
  /-- The fill waits on WFID. -/
  wv : Bool := false
  /-- CHAIN is a local offset. -/
  cloc : Bool := false
  /-- Run-ahead of NEXTW permitted. -/
  ra : Bool := false
  /-- log₂ of the ring steps. -/
  ring : Nat := 0
  /-- LAYER label. -/
  layer : Nat := 0
  /-- Arrival fence. -/
  afid : Nat := 0
  /-- Wait fence. -/
  wfid : Nat := 0
  /-- Arrival value. -/
  aval : W64 := 0
  /-- Wait value. -/
  wval : W64 := 0
  /-- First descriptor of the fill. -/
  chain : W64 := 0
  /-- Base address. -/
  base : Nat := 0
  /-- Size in bytes. -/
  size : Nat := 0
  /-- Descriptor expected next. -/
  nextw : Nat := 0
  /-- Scale ring base. -/
  sbase : Nat := 0
  /-- The chain also writes scale records. -/
  scl : Bool := false
  /-- Stream number. -/
  stream : Nat := 0
  /-- The fill has begun. -/
  filling : Bool := false
  /-- The next descriptor of the fill; none at the end. -/
  cur : Option DescRef := none
  /-- Descriptors of an R window's fill that have been read, 64 B each, in chain order. -/
  descs : List (List Byte) := []
  /-- Every write of the fill is visible and AFID is signalled. -/
  arrived : Bool := false
  /-- The window is late: effective priority 8 (R201). -/
  late : Bool := false
  /-- WIN.REL has been processed: the release is in progress (R203). -/
  rel : Bool := false
  /-- The core's dispatch number when WIN.REL was processed. -/
  relNum : Nat := 0
  /-- Quarters of the R window written (R202). -/
  quarters : Nat := 0
  /-- Tether time of the reservation (R206). -/
  resv : W64 := 0
  /-- Dispatch number of its WIN.RESV on its core. -/
  num : Nat := 0
  /-- Number of the first request made after WIN.REL was processed (`State.reqNum`, R203). -/
  relReq : Nat := 0
  /-- For a D window, the dispatch numbers that the cores of the C-die had reached when WIN.REL was
  processed, in core order: what was queued before it (R203). -/
  relAt : List Nat := []
  deriving DecidableEq, Repr

/-- A translation held in a cluster TLB (`07` R165). -/
structure TlbEntry where
  /-- Virtual page number: VA / 64 KiB, or VA / 2 MiB. -/
  vpn : Nat := 0
  /-- A 2 MiB page. -/
  big : Bool := false
  /-- Device address of the page. -/
  da : Nat := 0
  /-- R, W and X. -/
  r : Bool := false
  /-- Write permission. -/
  w : Bool := false
  /-- Fetch permission. -/
  x : Bool := false
  /-- A KV pool page. -/
  pool : Bool := false
  deriving DecidableEq, Repr

/-- The architectural state of one core and the work it has in flight (`02` R29). -/
structure Core where
  /-- The core has been taken from its context by a reset (`21` R483). Reset: false. -/
  out : Bool := false
  /-- A LAUNCH has acted and the core has not issued its first instruction (`14` R352). Reset: false. -/
  fresh : Bool := false
  /-- A STOP waits for the core (`14` R352). Reset: false. -/
  stopReq : Bool := false
  /-- IDLE or RUNNING (`14` R348). Reset: IDLE. -/
  run : CoreRun := .idle
  /-- g0–g31, 64 bits each; g0 reads as zero (`02` R29). Reset: DESIGN CHOICE 0, log 5. -/
  g : Tab W64 := []
  /-- p1–p7, 1 bit each; p0 reads as 1 (`02` R29). Reset: DESIGN CHOICE 0, log 5. -/
  p : Tab Bool := []
  /-- Program counter, 48 bits (`02` R29). Reset: DESIGN CHOICE 0, log 5. -/
  pc : W48 := 0
  /-- Tile store and operand cache by local offset 0–0x47_FFFF (`02` R34). Reset: zeros
  (`21` R483). -/
  store : Tab Byte := []
  /-- Paddock entries in allocation order, at most 8,192 (`02` R46). Reset: empty. -/
  pad : List PadEntry := []
  /-- Held FENCE.SIGNALs, at most 64, in program order (`02` R46). Reset: empty. -/
  held : List HeldSig := []
  /-- FENCE.SIGNALs that wait for earlier DMA writes (`02` R41, R43). Reset: empty. -/
  rel : List RelSig := []
  /-- The task table, at most 8 entries, in program order (`02` R42). Reset: empty. -/
  tasks : List Task := []
  /-- The model's own serial of the next task. Reset: 0. -/
  nextTask : Nat := 0
  /-- Scalar loads in flight, at most 16 (`02` R33). Reset: empty. -/
  loads : List Load := []
  /-- What issue waits for (`02` R40). Reset: nothing. -/
  stall : Stall := .no
  /-- The matrix array (`03` R62). Reset: zeros in INT8, bank 0 active (R62). -/
  mx : Matrix := {}
  /-- Lane generator counters, 64 × 64 bits (`05` R127). Reset: 0 (R127). -/
  lane : Tab W64 := []
  /-- Sticky status word, 16 bits (`03` R81, `05` R121). Reset: 0 (`21` R483). -/
  flags : BitVec 16 := 0
  /-- SR step set by SYS.SRKEY, 32 bits (`04` R109). Reset: DESIGN CHOICE 0, log 5. -/
  srstep : BitVec 32 := 0
  /-- WIN.RESVs that had to wait on a release (`08` R206), and the dispatch number of the last one
  counted. Reset: 0 and none. -/
  resvWaits : W64 := 0
  /-- Dispatch number of the WIN.RESV whose wait was counted last. -/
  resvLast : Option Nat := none
  /-- Layer windows of the core in reservation order (`08` R198). Reset: empty. -/
  wins : List Window := []
  /-- The model's own number of the next instruction dispatched to a unit: program order for
  the interlock of `02` R36. Reset: 0. -/
  disp : Nat := 0
  /-- Queues of the vector unit (1), the reduction unit (2) and the DMA and streaming unit (3): at
  most 16, 8 and 16 instructions, oldest first (`06` R155). Reset: empty. -/
  units : Tab (List Dispatched) := []
  /-- Serials of discarded tasks that left the table while work dispatched in them was unfinished:
  its effects are dropped (`02` R48, R58). Reset: none. -/
  dropped : List Nat := []
  /-- The micro-TLB, at most 64 entries (`07` R165). Reset: empty. -/
  utlb : List TlbEntry := []
  /-- The instruction buffer was invalidated since the last store of code (`02` R30): counts
  SYS.IFLUSHes. Reset: 0. -/
  iflush : Nat := 0
  deriving DecidableEq, Repr

/-- A descriptor chain queued on a DMA engine (`06` R150, `08` R190). -/
structure Chain where
  /-- Issuing core. -/
  core : Nat := 0
  /-- Its dispatch number on that core. -/
  num : Nat := 0
  /-- Context on whose behalf it runs. -/
  ctx : Nat := 0
  /-- What comes next; none once the last descriptor has run. -/
  cur : Option DescRef := none
  /-- Completion fence and value (FEN). -/
  fence : Option (Nat × W64) := none
  /-- Serial of the task that dispatched it, if any. -/
  task : Option Nat := none
  deriving DecidableEq, Repr

/-- A cluster (`25` R562 CCLU, `07` R165). -/
structure Cluster where
  /-- Held by a context (CSTAT.HELD). Reset: 0. -/
  held : Bool := false
  /-- Holding context (CSTAT.CTX). Reset: 0. -/
  ctx : Nat := 0
  /-- Redundancy mode (CSTAT.RED, `20` R469). Reset: 0. -/
  red : Bool := false
  /-- LOSTCAUSE register (`02` R58). Reset: 0. -/
  lost : W64 := 0
  /-- The cluster TLB (`07` R165), at most 8,192 entries. Reset: empty. -/
  tlb : List TlbEntry := []
  /-- The walker's cache of the last 256 level 1 to 3 entries read: (context, address of the
  entry, entry) (`07` R165). Reset: empty. -/
  walked : List (Nat × Nat × Nat) := []
  /-- The chains of DMA engines 0–2, oldest first (`08` R190). Reset: empty. -/
  dma : Tab (List Chain) := []
  deriving DecidableEq, Repr

/-- A run-ahead entry of a C-die (`08` R204). -/
structure RunAhead where
  /-- Context it was fetched for. -/
  ctx : Nat := 0
  /-- Core whose window named it. -/
  core : Nat := 0
  /-- The NEXTW offset it was fetched from. -/
  off : Nat := 0
  /-- First device address and length of the bytes held. -/
  da : Nat := 0
  /-- Length in bytes. -/
  len : Nat := 0
  /-- The bytes fetched, by device address; invalidated lines are absent. -/
  data : Tab (Option Byte) := []
  /-- A fill has begun to serve itself from the entry, which is not counted as expired. -/
  used : Bool := false
  deriving DecidableEq, Repr

end Sys2Proof.Machine
end

