-- ==== Sys2Proof/Machine/StateFabric.lean ====
section
/-! DEFINITION. The Acnor Link ports, the collective engine, Tether, the herds and the
handoff channels (`10` R247–R252, `11_acnor_link`, `12_collectives_tether_herd`). -/

namespace Sys2Proof.Machine

/-- State of a port (`11` R260, `25` XLNK.STAT.STATE). -/
inductive PortState | down | train | hello | attest | keyx | up | admitFail | absent
  deriving DecidableEq, Repr

/-- A flit as sent or received (`11` R263, R264). -/
structure Flit where
  /-- 0 IDLE, 1 DATA, 2 LCTL, 3 BRING-UP; 4–15 illegal. -/
  kind : Nat := 0
  /-- Virtual channel. -/
  vc : Nat := 0
  /-- Response class of the virtual channel (R268). -/
  resp : Bool := false
  /-- Start of message. -/
  som : Bool := false
  /-- End of message. -/
  eom : Bool := false
  /-- Valid payload bytes. -/
  plen : Nat := 0
  /-- Reserved header bits. -/
  rsv : Nat := 0
  /-- Key epoch modulo 256. -/
  kep : Nat := 0
  /-- Sequence number. -/
  seq : Nat := 0
  /-- Sender's node. -/
  srcn : Nat := 0
  /-- Receiver's node. -/
  dstn : Nat := 0
  /-- Payload in clear. -/
  data : List Byte := []
  /-- The 256 bytes as sent, which a replay sends again (R272). -/
  wire : List Byte := []
  deriving DecidableEq, Repr

/-- One direction's key state of a port (`11` R262, R277). -/
structure LinkKey where
  /-- Epoch count, 32 bits. -/
  epoch : Nat := 0
  /-- Current direction key. -/
  key : BitVec 128 := 0
  /-- Next key, during a rekey. -/
  next : Option (BitVec 128) := none
  /-- A rekey exchange is in progress. -/
  rekeying : Bool := false
  /-- This end's ephemeral scalar of the exchange in progress (`15` R372). -/
  eph : BitVec 256 := 0
  deriving DecidableEq, Repr

/-- A link port (`11_acnor_link`). -/
structure Port where
  /-- Bring-up state. Reset: DOWN (`25` XLNK.STAT). -/
  st : PortState := .down
  /-- Mode in use: false copper, true optical. Reset: 0. -/
  mode : Bool := false
  /-- Mode for the next bring-up (CFG.MODE). Reset: 0. -/
  cfgMode : Bool := false
  /-- CFG.LOCK. Reset: 0. -/
  lock : Bool := false
  /-- Weights: collective, pool read, pool write, state stream, handoff, management.
  Reset: 8, 2, 2, 2, 1, 1. -/
  weights : List Nat := [8, 2, 2, 2, 1, 1]
  /-- Peer node ID bound at admission (`11` R261). Reset: 0. -/
  peer : Nat := 0
  /-- Identity of the peer, as a digest of its public key, bound at admission (`11` R261). Reset: 0. -/
  ident : BitVec 256 := 0
  /-- Consecutive bring-up failures: the retry interval is 100 ms × 2ⁿ up to 10 s (R260).
  Reset: 0. -/
  fails : Nat := 0
  /-- Transmit keys (TXEP). Reset: epoch 0, no key. -/
  tx : LinkKey := {}
  /-- Receive keys (RXEP). Reset: epoch 0, no key. -/
  rx : LinkKey := {}
  /-- The mask of the port's key registers: share s₂ of each, whose share s₁ is the key XOR the mask (`15` R379). Reset: 0. -/
  kmask : BitVec 128 := 0
  /-- Next DATA SEQ to send. Reset: 0. -/
  txSeq : Nat := 0
  /-- Next LCTL SEQ to send. Reset: 0. -/
  txCtl : Nat := 0
  /-- Next DATA SEQ expected. Reset: 0. -/
  rxSeq : Nat := 0
  /-- SEQ of the last LCTL flit received in this epoch. Reset: none. -/
  rxCtl : Option Nat := none
  /-- SEQ that the last NAK named, and its Tether time (R272). Reset: none. -/
  nakked : Option (Nat × W64) := none
  /-- A NAK is due in the next LCTL flit (R273). Reset: false. -/
  nakDue : Bool := false
  /-- The replay buffer: DATA flits sent and not acknowledged, oldest first, at most 2,048
  (R272). Reset: empty. -/
  replay : List Flit := []
  /-- How many flits at the front of the replay buffer are to be sent again. Reset: 0. -/
  replayAt : Nat := 0
  /-- How many of them remain to be sent. Reset: 0. -/
  replayN : Nat := 0
  /-- DATA flits ready to send, by virtual channel and class (key 2·vc + class). Reset: empty. -/
  txQ : Tab (List Flit) := []
  /-- SENT per class (R270). Reset: 0. -/
  sent : Tab Nat := []
  /-- FREED reported by the peer per class. Reset: 0. -/
  freed : Tab Nat := []
  /-- FREED of this port's own receive buffers per class. Reset: 0. -/
  freedOwn : Tab Nat := []
  /-- FREED of the collective virtual channel as last reported: it stands still while credits are withheld (`09` R225).
  Reset: 0. -/
  freedTold : Nat := 0
  /-- The unfinished message per class: its flits and payload bytes (R269). Reset: empty. -/
  rxPart : Tab (Nat × List Byte) := []
  /-- Whole messages delivered per class, each with its flits (R269). Those of the collective channel and pool requests
  stay in the receive buffer until they are taken (R268); of another class the last one stands here. Reset: empty. -/
  rxMsg : Tab (List (Nat × List Byte)) := []
  /-- Pool requests received before the port went down and not yet served (R276): class and message. Reset: none. -/
  old : List (Nat × List Byte) := []
  /-- DATA flits held and not acknowledged since the last LCTL sent (R273). Reset: 0. -/
  unacked : Nat := 0
  /-- Weighted round robin: credits left in the current round, by virtual channel (R271).
  Reset: none. -/
  wrr : Tab Nat := []
  /-- Retraining: a fast retrain is in progress (R274). Reset: false. -/
  retraining : Bool := false
  /-- The last flit sent. Reset: none. -/
  out : Option Flit := none
  /-- The bring-up message last sent (R262). Reset: none. -/
  bring : Option (List Byte) := none
  /-- It awaits its answer. Reset: false. -/
  bringWait : Bool := false
  /-- The bring-up message last received. Reset: none. -/
  bringIn : Option (List Byte) := none
  /-- The message in progress per virtual channel: 1 + its class, or 0 (R269). Reset: none. -/
  sending : Tab Nat := []
  /-- The collective channel of the message in progress on the collective virtual channel (`12` R294). Reset: 0. -/
  collCh : Nat := 0
  /-- An LCTL flit is due behind replayed flits (R271, R273). Reset: false. -/
  lctlDue : Bool := false
  /-- Stamp of the last time flit that left, in 2⁻¹⁶ ns (R271). Reset: 0. -/
  tOut : Nat := 0
  /-- Stamp of the last time flit that arrived. Reset: 0. -/
  tIn : Nat := 0
  /-- Stamp of this module's last question to its parent (`12` R307). Reset: none. -/
  tAsk : Option Nat := none
  deriving DecidableEq, Repr

/-- Where a request of the checkpoint writer goes (`19` R439). -/
structure StoreDest where
  /-- Pool node. -/
  node : Nat := 0
  /-- Ports that may carry it. -/
  pmask : Nat := 0
  /-- Class of its write: 0, 1 or 2. -/
  cls : Nat := 0
  /-- Snapshot name or HID of its write. -/
  name : W64 := 0
  /-- Step of a stream segment. -/
  t : Nat := 0
  /-- Of the reservation of a join: its herd and member index (`12` R317). -/
  join : Option (Nat × Nat) := none
  deriving DecidableEq, Repr

/-- A pool request outstanding at this module (`11` R278–R281). -/
structure PoolReq where
  /-- Fabric tag. -/
  tag : Nat := 0
  /-- Operation code. -/
  opc : Nat := 0
  /-- Port it was issued on. -/
  port : Nat := 0
  /-- Initiator ID. -/
  init : Nat := 0
  /-- Context. -/
  ctx : Nat := 0
  /-- Device address. -/
  da : Nat := 0
  /-- Node address. -/
  addr : Nat := 0
  /-- Lines. -/
  nl : Nat := 0
  /-- Lines written, or the data of a PATOM. -/
  data : List Byte := []
  /-- Operand of a PATOM. -/
  opnd : W64 := 0
  /-- 0 issued; 1 it holds its tag and waits for its port; 2 it waits for its order or a tag, and holds none (R279). -/
  waits : Nat := 0
  /-- It has been reissued after a peer-down (R276). -/
  reissued : Bool := false
  /-- It has ended without its response, which still holds the tag (R281). -/
  dead : Bool := false
  /-- A request of the checkpoint writer (`19` R439). -/
  store : Option StoreDest := none
  /-- The pool of its C-die whose tag it holds (`08` R193). -/
  pool : Nat := 0
  /-- The number it was admitted under (`State.reqNum`). -/
  num : Nat := 0
  /-- An access of an instruction, a chain or a fill, which waits for its data and does not wait for a write. -/
  own : Bool := false
  deriving DecidableEq, Repr

/-- Where a herd stands on this module (`12` R287, R317, R318). -/
inductive HerdPhase | forming | live | joining | holding | ended
  deriving DecidableEq, Repr

/-- A change of membership that the Bellwether prepares while survivors report what they have received (`12` R316). -/
structure Shrink where
  /-- The members of the record to come. -/
  live : List Nat := []
  /-- Its links. -/
  links : List (Nat × Nat × Nat) := []
  /-- Survivors that have not reported. -/
  asked : List Nat := []
  /-- The highest unit that any survivor has received, by lost owner and directed ring. -/
  high : List (Nat × Nat × Nat) := []
  /-- The gate record of the step in flight, when a survivor holds it. -/
  gate : Option GateRec := none
  deriving DecidableEq, Repr

/-- A herd this module belongs to (`12` R285–R318). -/
structure Herd where
  /-- Herd ID. -/
  hid : Nat := 0
  /-- Context that formed it. -/
  ctx : Nat := 0
  /-- Time domain. -/
  tdom : Nat := 0
  /-- Rings. -/
  rcnt : Nat := 1
  /-- Digest interval. -/
  k : Nat := 4
  /-- Shrink policy. -/
  pol : Bool := false
  /-- Fewest live members. -/
  nmin : Nat := 1
  /-- Slot-table entries it may use. -/
  slots : List Nat := []
  /-- Charter digest. -/
  chd : BitVec 256 := 0
  /-- Node ID of each member index. -/
  nodes : List Nat := []
  /-- INIT members. -/
  inits : List Nat := []
  /-- The rings. -/
  rings : List (List Nat) := []
  /-- SM3 of the plan. -/
  planDig : BitVec 256 := 0
  /-- Own member index. -/
  self : Nat := 0
  /-- Phase. -/
  phase : HerdPhase := .forming
  /-- Members heard during formation (R287). -/
  heard : List Nat := []
  /-- Peers that members reported at their ports: member, port and node (R287). -/
  peers : List (Nat × Nat × Nat) := []
  /-- The membership record in force. -/
  rcd : MemRec := {}
  /-- A record received and waiting for its swap instant. -/
  next : Option MemRec := none
  /-- Children missing from consecutive liveness reports: member and count (R290). -/
  missing : Tab Nat := []
  /-- Herd beacons received since formation (R291). -/
  beacons : Nat := 0
  /-- Bellwether's digest values of the current exchange: member, KCOUNT and value (R312). -/
  digests : List (Nat × Nat × BitVec 256) := []
  /-- The chain C (R311). -/
  chain : BitVec 256 := 0
  /-- root_t of the last step. -/
  root : BitVec 256 := 0
  /-- The step of that root (R311). -/
  rootT : Nat := 0
  /-- The exponent pass is held for a field test or a join (R312, R318). -/
  hold : Bool := false
  /-- The member being joined and the join step (R318). -/
  join : Option (Nat × Nat) := none
  /-- The donors of that join, in index order (R318). -/
  donors : List Nat := []
  /-- The links between the joiner and live members. -/
  joinLinks : List (Nat × Nat × Nat) := []
  /-- A change that waits for the survivors' reports (R316). -/
  shrink : Option Shrink := none
  /-- Messages of another epoch dropped (R288). -/
  staleMsgs : Nat := 0
  deriving DecidableEq, Repr

/-- A collective descriptor in progress (`12` R296). -/
structure CollDesc where
  /-- Descriptor number. -/
  q : Nat := 0
  /-- Operation 0–3. -/
  op : Nat := 0
  /-- RSUM of the learning binding. -/
  lrn : Bool := false
  /-- First unit. -/
  u0 : Nat := 0
  /-- Units. -/
  ucnt : Nat := 0
  /-- Source VA. -/
  src : Nat := 0
  /-- Destination VA. -/
  dst : Nat := 0
  /-- Completion fence. -/
  fid : Nat := 0
  /-- Completion value. -/
  fval : W64 := 0
  /-- Program label. -/
  tag : W64 := 0
  /-- Units whose chain has passed this member; for ALLSUM, the members of its subtree combined. -/
  done : List Nat := []
  /-- Units whose result this member holds at DST. -/
  back : List Nat := []
  /-- It has been completed, and runs again for units of a lost owner (R316). -/
  again : Bool := false
  /-- Running sums of ALLSUM: a window of 40 B per value. -/
  acc : List Byte := []
  deriving DecidableEq, Repr

/-- A collective channel (`12` R292, R296). -/
structure Coll where
  /-- Bound. Reset: 0. -/
  bound : Bool := false
  /-- Stopped herd-wide. Reset: 0. -/
  stop : Bool := false
  /-- Bound context. Reset: 0. -/
  ctx : Nat := 0
  /-- Herd. Reset: 0. -/
  hid : Nat := 0
  /-- Queue VA. Reset: 0. -/
  qva : Nat := 0
  /-- Producer fence. Reset: 0. -/
  pf : Nat := 0
  /-- Descriptors taken. Reset: 0. -/
  taken : Nat := 0
  /-- Descriptors in progress, in order, at most 8. Reset: empty. -/
  prog : List CollDesc := []
  /-- Messages waiting in the 512 KiB receive buffer (R294). Reset: empty. -/
  rxBuf : List CollMsg := []
  /-- The 8 MiB send hold: (successor, message), oldest first (R301). Reset: empty. -/
  hold : List (Nat × CollMsg) := []
  /-- Next SEQ per successor. Reset: 0. -/
  txSeq : Tab Nat := []
  /-- Next SEQ expected per predecessor. Reset: 0. -/
  rxSeq : Tab Nat := []
  /-- Members whose scalar records are combined in this round (R303). Reset: none. -/
  scalHeard : List Nat := []
  /-- The running record (R303). Reset: none. -/
  scal : GateRec := {}
  /-- Completed LRN descriptors of the open round (R316). Reset: none. -/
  past : List CollDesc := []
  /-- Owned units of the learning shard that are complete in the open round, on this channel (`09` R212). Reset: none. -/
  shard : List Nat := []
  /-- Owned units of the learning shard that wait to be sent round their rings, ascending (R300). Reset: none. -/
  ag : List Nat := []
  deriving DecidableEq, Repr

/-- Lock state of Tether (`12` R307, `25` XTET.STAT.STATE). -/
inductive TetState | unset | locked | holdover | unlocked
  deriving DecidableEq, Repr

/-- Tether (`12` R305–R310, `25` XTET). -/
structure Tether where
  /-- Tether time, ns, 64 bits. Reset: 0. -/
  ns : W64 := 0
  /-- Fraction, 16 bits, in 2⁻¹⁶ ns. Reset: 0. -/
  frac : BitVec 16 := 0
  /-- FRAC register: the fraction latched by the last read of NS. Reset: 0. -/
  fracL : BitVec 16 := 0
  /-- Lock state. Reset: UNSET. -/
  st : TetState := .unset
  /-- The module has locked since start. Reset: false. -/
  everLocked : Bool := false
  /-- The module has mastered a domain. Reset: false. -/
  everMaster : Bool := false
  /-- Parent port. Reset: 0. -/
  pport : Nat := 0
  /-- A parent is known. Reset: false. -/
  hasParent : Bool := false
  /-- Hops to the master. Reset: 0. -/
  hops : Nat := 0
  /-- This module masters its domain. Reset: 0. -/
  mast : Bool := false
  /-- Last offset θ, signed, 2⁻¹⁶ ns. Reset: 0. -/
  theta : BitVec 32 := 0
  /-- Consecutive exchanges with |θ| ≤ 2 ns. Reset: 0. -/
  good : Nat := 0
  /-- Rate slew in force, parts per 10⁹, signed (R307). Reset: 0. -/
  slew : Int := 0
  /-- Offset found at the first exchange before the first lock, in 2⁻¹⁶ ns (R309, log 32). Reset: none. -/
  off : Option Int := none
  /-- XTET.BASE. Reset: 0. -/
  base : W64 := 0
  /-- XTET.CFG.TDOM as written. Reset: 0. -/
  tdomCfg : BitVec 16 := 0
  /-- TDOM in force since the first beacon accepted after start. Reset: none. -/
  tdom : Option Nat := none
  /-- The best beacon seen: HID, hops, peer node, port. Reset: none. -/
  best : Option (Nat × Nat × Nat × Nat) := none
  /-- PTMH: host time of the newest pair. Reset: 0. -/
  ptmH : W64 := 0
  /-- Tether time of the newest pair. Reset: 0. -/
  ptmT : W64 := 0
  /-- PTMT register: latched by the read of PTMH. Reset: 0. -/
  ptmTL : W64 := 0
  /-- Phase φ of SYNC_IN once fixed. Reset: none. -/
  phi : Option Nat := none
  /-- Missing SYNC_IN pulses counted. Reset: 0. -/
  syncMiss : Nat := 0
  /-- SYNC_OUT pin is high. Reset: false. -/
  syncOut : Bool := false
  deriving DecidableEq, Repr

/-- A handoff channel (`10` R247–R251). -/
structure Handoff where
  /-- Open. -/
  isOpen : Bool := false
  /-- Broken, with its cause code. -/
  broken : Option Nat := none
  /-- This module holds the producer's end. -/
  prodEnd : Bool := true
  /-- This module holds the consumer's end. -/
  consEnd : Bool := true
  /-- Producer context. -/
  prod : Nat := 0
  /-- Consumer context. -/
  cons : Nat := 0
  /-- Charter channel entry. -/
  entry : Nat := 0
  /-- Peer node, 0 on one module. -/
  peer : Nat := 0
  /-- The port that carries a channel across modules. -/
  port : Nat := 0
  /-- Record size. -/
  rsize : Nat := 64
  /-- Source ring VA. -/
  srcVa : Nat := 0
  /-- Sink ring VA. -/
  dstVa : Nat := 0
  /-- log₂ NS. -/
  ns : Nat := 1
  /-- log₂ NK. -/
  nk : Nat := 1
  /-- Posted fence. -/
  pfid : Nat := 0
  /-- Source-freed fence. -/
  sfid : Nat := 0
  /-- Arrived fence. -/
  afid : Nat := 0
  /-- Released fence. -/
  rfid : Nat := 0
  /-- LAST: the highest record delivered; on a producer's module, as far as its consumer's has reported. -/
  last : Nat := 0
  /-- The highest record that the mover has taken. -/
  sent : Nat := 0
  /-- The highest record for which the sink ring has a free slot, as a consumer on another module has returned it (R251). -/
  credit : Nat := 0
  /-- The producer is lost: the last record that it posted, up to which records are still delivered (R250). -/
  ending : Option Nat := none
  deriving DecidableEq, Repr

end Sys2Proof.Machine
end

