-- ==== Sys2Proof/Machine/StateHost.lean ====
section
/-! DEFINITION. Contexts, queues, fences, events, the Yorek mailbox and the PCIe function
(`13_pcie_function`, `14_contexts_queues_fences`, `25_register_reference` R565–R571). -/

namespace Sys2Proof.Machine

/-- State of a context; `free` is an ID that names no context (`14` R346). -/
inductive CtxState | free | idle | resident | lost | aborting
  deriving DecidableEq, Repr

/-- A packet in progress (`14` R353). -/
structure Packet where
  /-- Packet number. -/
  n : Nat := 0
  /-- Operation code. -/
  opc : Nat := 0
  /-- Signal fence and value, when SV is 1. -/
  sig : Option (Nat × W64) := none
  /-- Raise a PACKET event. -/
  ev : Bool := false
  /-- Cookie. -/
  cookie : W64 := 0
  /-- Words 4–7. -/
  w : List W64 := []
  /-- Cores that a LAUNCH or STOP names and that have not yet acted. -/
  cores : List Nat := []
  deriving DecidableEq, Repr

/-- A command queue (`14` R350). -/
structure Queue where
  /-- The queue exists. -/
  v : Bool := false
  /-- log₂ of the ring. -/
  qlog : Nat := 0
  /-- Priority. -/
  pri : Nat := 0
  /-- Timeout in ms, 0 for none. -/
  qto : Nat := 0
  /-- Ring host address. -/
  ring : W64 := 0
  /-- HEAD: packets taken, 32 bits. -/
  head : BitVec 32 := 0
  /-- TAIL: packets written, 32 bits. -/
  tail : BitVec 32 := 0
  /-- Packets in progress, at most 4. -/
  prog : List Packet := []
  /-- The packet at HEAD has been read and cannot start yet. -/
  waiting : Bool := false
  /-- The fence for which it waits. -/
  waitF : Option Nat := none
  /-- The value for which it waits at that fence. -/
  waitV : W64 := 0
  /-- It also waits for every earlier packet (BAR). -/
  waitB : Bool := false
  /-- Tether time at which a packet became the oldest uncompleted one (R354). -/
  since : Option W64 := none
  deriving DecidableEq, Repr

/-- An event ring (`14` R360). -/
structure Ring where
  /-- The ring exists. -/
  v : Bool := false
  /-- Host address. -/
  base : W64 := 0
  /-- log₂ of the records. -/
  log : Nat := 0
  /-- MSI-X vector. -/
  vec : Nat := 0
  /-- Records written: the next record's number n. -/
  n : BitVec 32 := 0
  /-- EVHEAD: records consumed. -/
  head : BitVec 32 := 0
  /-- Records waiting on the X-die, oldest first, at most 64: four words without SEQ. -/
  wait : List (List W64) := []
  /-- Records dropped and not yet reported. -/
  dropped : Nat := 0
  deriving DecidableEq, Repr

/-- A context's KV region and limits (`07` R182). -/
structure KvRegion where
  /-- The region is admitted. -/
  v : Bool := false
  /-- First VA. -/
  va : Nat := 0
  /-- Pages. -/
  pages : Nat := 0
  /-- D floor. -/
  df : Nat := 0
  /-- D ceiling. -/
  dc : Nat := 0
  /-- L floor. -/
  lf : Nat := 0
  /-- L ceiling. -/
  lc : Nat := 0
  /-- H spill pages. -/
  hs : Nat := 0
  deriving DecidableEq, Repr

/-- A context (`14` R345–R363). -/
structure Ctx where
  /-- State. Reset: no context. -/
  st : CtxState := .free
  /-- Charter digest (CHD). -/
  chd : BitVec 256 := 0
  /-- Context seed. -/
  cseed : W64 := 0
  /-- Job seed. -/
  jseed : W64 := 0
  /-- Loss scale exponent: LS = 2^ls (`04` R110). -/
  ls : Nat := 16
  /-- Clean-step counter. -/
  clean : Nat := 0
  /-- Clean-step interval D. -/
  lsd : Nat := 2000
  /-- Halvings at 2⁰ counted (`04` R110). -/
  lsFloor : Nat := 0
  /-- DCOOKIE. -/
  dcookie : W64 := 0
  /-- Event ring. -/
  ring : Ring := {}
  /-- Resident slot, when it holds one. -/
  slot : Option Nat := none
  /-- First cause code, once lost. -/
  cause : Nat := 0
  /-- Core that raised it; none is the NC bit. -/
  core : Option Nat := none
  /-- PC recorded with it. -/
  lpc : W48 := 0
  /-- Steps of the abort sequence done: 0 none, 3 swapped out, 4 drained, 5 fences set, 6 released (R362). -/
  abort : Nat := 0
  /-- Stale signals counted. -/
  stale : Nat := 0
  /-- Doorbell writes ignored and counted (R351, R359). -/
  ignored : Nat := 0
  /-- Skipped status-area writes counted. -/
  skipped : Nat := 0
  /-- A write of the status area waits, for a move of its page or for room at a controller (R349). -/
  statusDue : Bool := false
  /-- Root page-table address, when one exists (`07` R162). -/
  root : Option Nat := none
  /-- Page tables that Yorek has placed in its TBL granules: address and bytes (`07` R166). -/
  tables : List (Nat × Nat) := []
  /-- Charter entry the context is bound to (`17` R409). -/
  entry : Option Nat := none
  /-- Bound image: BASE and LEN. -/
  image : Nat × Nat := (0, 0)
  /-- The mapping chain of R166 and R411. -/
  mapChain : BitVec 256 := 0
  /-- Queues 0–15. -/
  queues : Tab Queue := []
  /-- FID field of the doorbell page. -/
  fid : Nat := 0
  /-- FSTAT field of the doorbell page. -/
  fstat : Nat := 0
  /-- Progress watchdog period, ms (`21` R491). -/
  wdt : Nat := 100
  /-- Key epoch e (`15` R371). -/
  epoch : Nat := 0
  /-- A rekey is running or queued, and the targets whose job has not ended. -/
  rekey : Option (List Nat) := none
  /-- JOBMEM slot of the context key entry and its GEN; none once invalidated (`15` R376). -/
  keySlot : Option (Nat × Nat) := none
  /-- H_base in units of 2⁴⁰ (`16` R400). -/
  hbase : Nat := 0
  /-- KV region. -/
  kv : KvRegion := {}
  /-- Tether time at which its last phase closed (`17` R424). -/
  phase : W64 := 0
  /-- Its counters as they stood then: core counter i under key i, and the counter of a kind and
  stream under key 1000 + 256·kind + stream, and the time of its tasks under 65,536 + TAG (`17` R423, R424). -/
  snap : Tab W64 := []
  /-- Time that its tasks have taken, in ns, by their TAG (`17` R423). Reset: 0. -/
  tagTime : Tab W64 := []
  deriving DecidableEq, Repr

/-- A grant on a fence (`14` R355). -/
structure FGrant where
  /-- Grantee context. -/
  ctx : Nat := 0
  /-- Wait and read. -/
  w : Bool := false
  /-- Signal. -/
  s : Bool := false
  deriving DecidableEq, Repr

/-- A fence (`14` R355). -/
structure Fence where
  /-- Allocated. Reset: false. -/
  v : Bool := false
  /-- VALUE, 64 bits. Reset: 0. -/
  val : W64 := 0
  /-- STAT: 0 OK, 1 DISCARD, 2 ERROR. Reset: 0. -/
  stat : Nat := 0
  /-- Owner; none once the owner is destroyed. Reset: none. -/
  owner : Option Nat := none
  /-- HOST mark. Reset: false. -/
  host : Bool := false
  /-- Up to 4 grants. Reset: none. -/
  grants : List FGrant := []
  deriving DecidableEq, Repr

/-- A signal on its way to the fence unit (`14` R356). -/
structure Sig where
  /-- Fence. -/
  fid : Nat := 0
  /-- Value. -/
  val : W64 := 0
  /-- Status. -/
  stat : Nat := 0
  deriving DecidableEq, Repr

/-- What a mailbox command in progress waits to complete. -/
inductive MbxWait
  /-- Nothing: not taken, or finished at its take. -/
  | no
  /-- Waits for an earlier command on the same object (`25` R567). -/
  | queued
  /-- CTX.CREATE and other commands whose completion is a later event, by kind and
  parameters. -/
  | slotOut (ctx : Nat)
  /-- UNMAP, PROTECT or the removal of a window of a context: the speculative tasks it waits for, by
  core and serial, the pool pages it frees, and the number of the first request that was admitted after the
  TLBs had dropped the translation (`07` R167). -/
  | map (ctx : Nat) (tasks : List (Nat × Nat)) (free : List Nat) (num : Nat)
  /-- PROGRAM.LOAD of a context, its entry, BASE and LEN, waiting likewise (`17` R409). -/
  | bind (ctx entry base len : Nat) (tasks : List (Nat × Nat)) (num : Nat)
  /-- CLUSTER.MOVE waiting for cores to be idle (`10` R253). -/
  | move
  /-- HERD.FORM forming. -/
  | herd (hid : Nat)
  /-- HERD.JOIN joining. -/
  | join (hid : Nat)
  /-- DONATE END scrubbing. -/
  | donate (region : Nat)
  /-- FIELDTEST running. -/
  | fieldtest
  /-- UNIT.RESET of a unit kind and index. -/
  | unit (kind index : Nat)
  /-- CKPT.RESTORE or SNAP.RESTORE waiting on its store. -/
  | restore (ctx : Nat)
  deriving DecidableEq, Repr

/-- A mailbox channel (`25` R565). -/
structure MbxChan where
  /-- OPC of the last command. Reset: 0. -/
  opc : Nat := 0
  /-- SEQ of the last command. Reset: 0. -/
  seq : BitVec 16 := 0
  /-- STATUS. Reset: 0. -/
  status : Nat := 0
  /-- DONE. Reset: 0. -/
  done : Bool := false
  /-- ACTIVE. Reset: 0. -/
  active : Bool := false
  /-- DETAIL. Reset: 0. -/
  detail : Nat := 0
  /-- ARG words 0–31. Reset: 0. -/
  arg : Tab W64 := []
  /-- RES words 0–63. Reset: 0. -/
  res : Tab W64 := []
  /-- What an ACTIVE command waits for. Reset: nothing. -/
  wait : MbxWait := .no
  /-- Objects the command names: (kind, index) with kind 0 context, 1 fence, 2 window,
  3 channel, 4 herd, 5 store. Reset: none. -/
  names : List (Nat × Nat) := []
  deriving DecidableEq, Repr

/-- An MSI-X table entry (`13` R326, R333). -/
structure MsixEntry where
  /-- Message address. Reset: 0. -/
  addr : W64 := 0
  /-- Message data. Reset: 0. -/
  data : BitVec 32 := 0
  /-- Unmasked. Reset: false (the vector control mask bit resets to 1, PRESUMED, log 6). -/
  unmasked : Bool := false
  /-- Pending bit. Reset: 0. -/
  pend : Bool := false
  /-- A message is due on the vector: a record was written or an interrupt bit set since the
  last message (`14` R361, `25` R554). Reset: false. -/
  due : Bool := false
  deriving DecidableEq, Repr

/-- State of an IDE stream (`13` R338, R339). -/
structure Ide where
  /-- The stream is secure. Reset: false. -/
  secure : Bool := false
  /-- The stream is Insecure after a failure. Reset: false. -/
  insecure : Bool := false
  /-- Key set in use. Reset: 0. -/
  keyset : Nat := 0
  /-- K_SET_GOs taken. Reset: 0. -/
  gos : Nat := 0
  /-- Failures counted. Reset: 0. -/
  fails : Nat := 0
  /-- Keys programmed, by the key set, direction and sub-stream that KEY_PROG names. Reset: none. -/
  keys : Tab (Option (BitVec 256)) := []
  deriving DecidableEq, Repr

/-- An SPDM session (`13` R337). -/
structure Session where
  /-- Session ID. -/
  id : Nat := 0
  /-- Over DOE; otherwise over MCTP, counted separately (R341). -/
  doe : Bool := true
  /-- The shared secret of its key exchange, from which its keys follow (`15` R372). -/
  secret : BitVec 256 := 0
  deriving DecidableEq, Repr

/-- An H-tier request outstanding at the host (`13` R330, R331). -/
structure HostReq where
  /-- Host tag. -/
  tag : Nat := 0
  /-- Initiator. -/
  init : Nat := 0
  /-- Context. -/
  ctx : Nat := 0
  /-- H-tier window. -/
  win : Nat := 0
  /-- First device address. -/
  da : Nat := 0
  /-- Host address. -/
  host : Nat := 0
  /-- Bytes. -/
  len : Nat := 0
  /-- No Snoop and Relaxed Ordering, as its window asks (`07` R177). -/
  ns : Bool := false
  /-- Relaxed Ordering. -/
  ro : Bool := false
  /-- The pool of its C-die whose tag it holds (`08` R193). -/
  pool : Nat := 0
  /-- The number it was admitted under (`State.reqNum`). -/
  num : Nat := 0
  /-- The request timed out and its tag is still held. -/
  dead : Bool := false
  /-- Bytes that its completions have brought (`13` R330). -/
  recv : Nat := 0
  /-- An access of an instruction, a chain or a fill, which waits for its data. -/
  own : Bool := false
  /-- The IDE stream and key set that it was sent under; none in clear (`13` R338). -/
  ide : Option (Nat × Nat) := none
  /-- It was dropped on an Insecure stream (`13` R339). -/
  lost : Bool := false
  deriving DecidableEq, Repr

/-- The PCIe function (`13_pcie_function`). -/
structure Pcie where
  /-- The data link is up. Reset: false (LSTAT reads 0). -/
  up : Bool := false
  /-- Negotiated speed 1–6. Reset: 0. -/
  speed : Nat := 0
  /-- Negotiated width. Reset: 0. -/
  width : Nat := 0
  /-- Flit mode. Reset: false. -/
  flit : Bool := false
  /-- Current width under L0p (`13` R334). Reset: 0. -/
  l0pw : Nat := 0
  /-- Writable configuration bytes, by offset, each as its difference (XOR) from its reset value, which R331 and the
  PCIe Base Specification give (PRESUMED, log 6). Reset: no difference. -/
  cfg : Tab Byte := []
  /-- In D3hot, with the link in L1 (`13` R334). Reset: D0. -/
  d3hot : Bool := false
  /-- AER status: uncorrectable error bits logged. Reset: 0. -/
  aerU : BitVec 32 := 0
  /-- AER status: correctable error bits logged. Reset: 0. -/
  aerC : BitVec 32 := 0
  /-- AER header log, four DWORDs, the first in the low bits. Reset: 0. -/
  hdrLog : BitVec 128 := 0
  /-- AER TLP prefix log, four DWORDs. Reset: 0. -/
  prefLog : BitVec 128 := 0
  /-- AER First Error Pointer. Reset: 0. -/
  fep : Nat := 0
  /-- Device Status: correctable, non-fatal and fatal error and Unsupported Request detected. Reset: 0. -/
  devSta : BitVec 4 := 0
  /-- Error messages sent, newest first: 0 ERR_COR, 1 ERR_NONFATAL, 2 ERR_FATAL. Reset: none. -/
  errMsgs : List Nat := []
  /-- Configuration requests answer Request Retry Status (R335). Reset: true. -/
  rrs : Bool := true
  /-- MSI-X enabled. Reset: false. -/
  msixEn : Bool := false
  /-- MSI-X function mask. Reset: false. -/
  msixMask : Bool := false
  /-- MSI-X table and PBA. Reset: masked, nothing pending. -/
  msix : Tab MsixEntry := []
  /-- Messages sent, newest first: vector. Reset: none. -/
  sentMsgs : List Nat := []
  /-- H-tier requests outstanding, at most 8,192. Reset: none. -/
  reqs : List HostReq := []
  /-- Reads of instructions, chains and fills that the host has answered and that their work has not yet taken. Reset: none. -/
  got : List HostReq := []
  /-- PTM Enable is set. Reset: false. -/
  ptmEn : Bool := false
  /-- PTM dialogs that failed (R336). Reset: 0. -/
  ptmFail : Nat := 0
  /-- IDE streams 0–3. Reset: not set up. -/
  ide : Tab Ide := []
  /-- SPDM sessions. Reset: none. -/
  sessions : List Session := []
  /-- DWORDs written to the DOE write mailbox, oldest first. Reset: none. -/
  doeIn : List (BitVec 32) := []
  /-- DOE objects that the mailbox has accepted, oldest first: protocol and bytes. The first is in service. Reset: none. -/
  doeWait : List (BitVec 8 × List Byte) := []
  /-- DWORDs of the response in the DOE read mailbox. Reset: none. -/
  doeOut : List (BitVec 32) := []
  /-- DOE Error: an object broke its format. Reset: false. -/
  doeErr : Bool := false
  /-- The last response of the SPDM responder. Reset: empty. -/
  resp : List Byte := []
  /-- MCTP endpoint IDs: I3C and PCIe. Reset: 0, unassigned. -/
  eid : Tab Nat := []
  /-- The dynamic address that the I3C bus controller has given. Reset: none. -/
  i3cAddr : Option (BitVec 7) := none
  /-- Negotiated MTU per binding (64 by default). Reset: 64. -/
  mtu : Tab Nat := []
  /-- The binding that holds the update agent (0 I3C, 1 PCIe). Reset: none. -/
  agent : Option Nat := none
  /-- The last read response of a configuration, BAR or management access. Reset: 0. -/
  rdata : W64 := 0
  /-- Further units of a BAR0 or BAR4 read response, in order. Reset: empty. -/
  rbytes : List Byte := []
  /-- How the last request was completed: 0 successful, 1 Unsupported Request, 2 Completer Abort, 3 Request Retry Status
  (R325, R335). Reset: 0. -/
  rstat : Nat := 0
  /-- Uncorrectable Internal Error has been sent since the last reset (R332). Reset: false. -/
  uie : Bool := false
  deriving DecidableEq, Repr

end Sys2Proof.Machine
end

