-- ==== Sys2Proof/Machine/StateLearn.lean ====
section
/-! DEFINITION. The learning binding, the gate and the update units of the M-dies
(`09_training_step_update`). -/

namespace Sys2Proof.Machine

/-- A parameter-group entry as copied at step open (`09` R210). -/
structure Group where
  /-- Update rule 0–8. -/
  rule : Nat := 0
  /-- Working-copy format code. -/
  wfmt : Nat := 5
  /-- MX block of the working copy, in elements. -/
  wblk : Nat := 32
  /-- Moments in BF16. -/
  mbf : Bool := false
  /-- Stochastic rounding of the working copy and of BF16 moments. -/
  wsr : Bool := false
  /-- Takes part in clipping. -/
  clip : Bool := true
  /-- Bias correction. -/
  bc : Bool := true
  /-- Momentum of rule 6. -/
  mom : Bool := false
  /-- Working-copy scale rule: false OCP, true round-up. -/
  sruleUp : Bool := true
  /-- First parameter. -/
  pfirst : Nat := 0
  /-- Group progress fence, when GFV is 1. -/
  gfid : Option Nat := none
  /-- Parameters. -/
  pcount : Nat := 0
  /-- FP32 η. -/
  lr : BitVec 32 := 0
  /-- FP32 λ. -/
  wd : BitVec 32 := 0
  /-- FP32 β1. -/
  b1 : BitVec 32 := 0
  /-- FP32 β2. -/
  b2 : BitVec 32 := 0
  /-- FP32 ε. -/
  eps : BitVec 32 := 0
  /-- Rule 7 rows. -/
  frows : Nat := 0
  /-- VA of the working copy. -/
  wbase : Nat := 0
  /-- VA of its scales. -/
  wsbase : Nat := 0
  /-- VA of the factor table. -/
  fbase : Nat := 0
  deriving DecidableEq, Repr

/-- The SCB fields copied at step open (`09` R208). -/
structure Scb where
  /-- Open fence. -/
  ofid : Nat := 0
  /-- Verdict fence. -/
  vfid : Nat := 0
  /-- Commit fence. -/
  cfid : Nat := 0
  /-- Loss fence. -/
  lfid : Nat := 0
  /-- Replay fence. -/
  rfid : Nat := 0
  /-- Fewest contributors for the outlier test. -/
  outMin : Nat := 4
  /-- Recompute rounds. -/
  rpMax : Nat := 1
  /-- Monitor weight exponent. -/
  lmA : Nat := 6
  /-- G4 action. -/
  lmAct : Nat := 0
  /-- Divide by the contributor count. -/
  gdiv : Bool := true
  /-- Emit the difference stream. -/
  ds : Bool := true
  /-- FP32 CLIP_NORM. -/
  clipNorm : BitVec 32 := 0x7F800000
  /-- FP32 SKIP_NORM. -/
  skipNorm : BitVec 32 := 0x7F800000
  /-- FP32 upper outlier ratio. -/
  outHi : BitVec 32 := 0x41000000
  /-- FP32 lower outlier ratio. -/
  outLo : BitVec 32 := 0
  /-- FP32 spike threshold. -/
  lmK : BitVec 32 := 0x40C00000
  /-- Committed steps before G4 can fail. -/
  lmWarm : Nat := 100
  /-- VA of the group table. -/
  gtbl : Nat := 0
  /-- VA of record group 0. -/
  stateVa : Nat := 0
  /-- VA of the staging area. -/
  stage : Nat := 0
  /-- Ballast size in MiB. -/
  bmib : Nat := 0
  /-- VA of the ballast area. -/
  bbase : Nat := 0
  deriving DecidableEq, Repr

/-- The verdict code of SCB word 11 (`09` R208). -/
inductive VCode | vopen | commit | clip | skip | replay
  deriving DecidableEq, Repr

/-- An update paddock slot of an M-die (`09` R222). -/
structure Slot where
  /-- Record group index. -/
  rg : Nat := 0
  /-- The reduced blocks received: block 2rg and 2rg + 1, 193 B each. -/
  b0 : Option (List Byte) := none
  /-- The second block. -/
  b1 : Option (List Byte) := none
  /-- The result record group, once computed. -/
  result : Option (List Byte) := none
  /-- XOR of the new and the old masters (256 B). -/
  xorW : List Byte := []
  /-- Computed under the assumption COMMIT, c = 1, before the verdict. -/
  spec : Bool := true
  /-- The record group carried STEP = t and is skipped (R232). -/
  skip : Bool := false
  /-- Its write has been issued and awaits its acknowledgement. -/
  writing : Bool := false
  /-- State DA: where the first byte of its record group lies, as STATE was translated when the slot was taken. -/
  da : Nat := 0
  deriving DecidableEq, Repr

/-- A ballast park, whose blocks lie in the ballast area (`09` R237). -/
structure Park where
  /-- Record group index. -/
  rg : Nat := 0
  /-- Its place among the 512 B parks of the ballast area. -/
  place : Nat := 0
  /-- The first block is there. -/
  has0 : Bool := false
  /-- The second block is there. -/
  has1 : Bool := false
  deriving DecidableEq, Repr

/-- An update unit (`09` R222, `25` R562 MUPD). -/
structure Upd where
  /-- Paddock slots in allocation order, at most 32,768. Reset: empty. -/
  slots : List Slot := []
  /-- Ballast parks in arrival order. Reset: empty. -/
  parks : List Park := []
  /-- SWEEP: record groups of the open step written and acknowledged (`21` R486). Reset: 0. -/
  sweep : Nat := 0
  deriving DecidableEq, Repr

/-- The learning binding of the module and its open step (`09` R207–R239). -/
structure Learn where
  /-- A binding exists. Reset: false. -/
  bound : Bool := false
  /-- Bound context. Reset: 0. -/
  ctx : Nat := 0
  /-- VA of the SCB. Reset: 0. -/
  scbVa : Nat := 0
  /-- LEARN.SEAL has run. Reset: false. -/
  sealed : Bool := false
  /-- A restore into this binding has completed (`19` R457). Reset: false. -/
  restored : Bool := false
  /-- The SCB snapshot of the open or last step. -/
  scb : Scb := {}
  /-- The group-table snapshot. -/
  groups : List Group := []
  /-- TSTEP: stamp of the open or last step, 60 bits. Reset: 0. -/
  t : Nat := 0
  /-- VCODE (4 bits). Reset: 0. -/
  vcode : VCode := .vopen
  /-- FAIL bits. Reset: 0. -/
  fail : Nat := 0
  /-- Replay round 0–7. Reset: 0. -/
  round : Nat := 0
  /-- Rounds that a change of membership began, which do not count against RP_MAX (`12` R315). Reset: 0. -/
  uncounted : Nat := 0
  /-- SELF: this member was flagged. Reset: false. -/
  selfFlag : Bool := false
  /-- TMO: timeout SKIP. Reset: false. -/
  tmo : Bool := false
  /-- FP32 clip factor. Reset: 0. -/
  clipc : BitVec 32 := 0
  /-- KCOUNT: steps committed or clipped since the binding. Reset: 0. -/
  kcount : Nat := 0
  /-- FP32 monitor mean. Reset: 0. -/
  mu : BitVec 32 := 0
  /-- FP32 monitor variance. Reset: 0. -/
  sig2 : BitVec 32 := 0
  /-- The monitor has learnt from a step (R215). Reset: false. -/
  monInit : Bool := false
  /-- FP32 global norm. Reset: 0. -/
  nall : BitVec 32 := 0
  /-- FP32 norm over clipping groups. Reset: 0. -/
  nclip : BitVec 32 := 0
  /-- Contributors flagged (16 bits). Reset: 0. -/
  nflag : Nat := 0
  /-- N_c (16 bits). Reset: 0. -/
  nc : Nat := 0
  /-- FP32 herd mean loss. Reset: 0. -/
  lbar : BitVec 32 := 0
  /-- LS of the open step: its exponent. Reset: 0. -/
  ls : Nat := 0
  /-- The step has its final verdict. Reset: true (no step is open). -/
  final : Bool := true
  /-- The loss of the open step, SCB word 9 as it stood when LFID reached the step (R209). Reset: none. -/
  loss : Option (BitVec 32) := none
  /-- The value to which OFID was last raised, and when (R239). Reset: 0. -/
  ofidAt : W64 × W64 := (0, 0)
  /-- The loss of the step after it and when it was read, when LFID has already reached that step. Reset: none. -/
  lossNext : Option (BitVec 32 × W64) := none
  /-- T_rs of the current round (marker 3), 0 before. Reset: 0. -/
  trs : Nat := 0
  /-- Membership epoch at T_rs, for the gate timer (R218). Reset: 0. -/
  trsEpoch : Nat := 0
  /-- Gate queries sent in this round (R218). Reset: 0. -/
  queries : Nat := 0
  /-- The gate record before it, for queries that come late (R218). Reset: none. -/
  gateOld : Option GateRec := none
  /-- The X-die's all-gather buffer of 16 MiB: blocks and their bytes, oldest first (R225). Reset: empty. -/
  agBuf : List (Nat × List Byte) := []
  /-- Blocks of this member's shard that the update units have not taken yet. Reset: none. -/
  ownDue : List Nat := []
  /-- The gate record of the open round, once it is here (R217). Reset: none. -/
  gate : Option GateRec := none
  /-- Highest unit plus 1 received in the open round's all-gather, by owner and directed ring, under key
  16·owner + ring (`12` R316). Reset: 0. -/
  got : Tab Nat := []
  /-- Units received in the open round's all-gather, by which a unit that comes again is dropped (`12` R301). Reset: none. -/
  seen : List Nat := []
  /-- The reduce-scatter of a replay round waits for the round's exponent pass (R220). Reset: false. -/
  expDue : Bool := false
  /-- Members excluded from the current round (R217 row 4). Reset: none. -/
  excluded : List Nat := []
  /-- The member's own statistics of the open round as it adds its shard (R213). -/
  stat : GateRec := {}
  /-- Groups whose fence or completion is done in this step (R234). Reset: none. -/
  groupsDone : List Nat := []
  /-- Rule-7 groups whose factor table is finalised in this step (R228). Reset: none. -/
  factorsDone : List Nat := []
  /-- CFID has been signalled for the open or last step. Reset: true. -/
  committed : Bool := true
  /-- Leaf hashes formed in this step, by leaf index (R235). Reset: none. -/
  leaves : Tab (BitVec 256) := []
  /-- Record groups written and hashed in this step, by index: their bytes. -/
  written : Tab (List Byte) := []
  /-- Record group at which a check of R232 failed: first parameter index. Reset: none. -/
  torn : Option Nat := none
  /-- Blocks received in the open round (R239). Reset: 0. -/
  blocksIn : Nat := 0
  /-- Record groups acknowledged in this step, by group (R234). Reset: 0. -/
  acks : Tab Nat := []
  /-- The next step, opened while the last one still drains: its stamp, SCB, groups and loss scale
  (R209). Reset: none. -/
  nextOpen : Option (Nat × Scb × List Group × Nat) := none
  /-- root_t of a committed step whose chained digest is still to be formed: step, KCOUNT and root
  (`12` R311). Reset: none. -/
  rootDue : Option (Nat × Nat × BitVec 256) := none
  /-- Steps whose difference-stream segment is due, and whether it is complete (`19` R452, `21` R488).
  Reset: none. -/
  segDue : List (Nat × Bool) := []
  /-- A written record group of the open step has lost its difference entry (`21` R488). Reset: false. -/
  gap : Bool := false
  deriving DecidableEq, Repr

end Sys2Proof.Machine
end

