-- ==== Sys2Proof/Machine/StateMem.lean ====
section
/-! DEFINITION. Device memory, access tables, windows onto the host and the fabric pool,
the KV pool and inline protection metadata (`07_memory_tiers`, `16_inline_crypto`). -/

namespace Sys2Proof.Machine

/-- An entry of a target's initiator table (`07` R170). -/
structure InitEntry where
  /-- Entry valid. -/
  v : Bool := false
  /-- Reads admitted. -/
  r : Bool := false
  /-- Writes admitted. -/
  w : Bool := false
  /-- Any granule admitted: Yorek and the pool movers only. -/
  any : Bool := false
  /-- Context. -/
  ctx : Nat := 0
  deriving DecidableEq, Repr

/-- The access tables of one target (`07` R168, R171). -/
structure Target where
  /-- Active initiator table, by initiator ID. Reset: no entry valid. -/
  initA : Tab InitEntry := []
  /-- Shadow initiator table. Reset: no entry valid. -/
  initS : Tab InitEntry := []
  /-- Active granule owner words, 16 bits, by granule. Reset: FREE (0x8000). -/
  ownA : Tab (BitVec 16) := []
  /-- Shadow granule owner words. Reset: FREE (0x8000). -/
  ownS : Tab (BitVec 16) := []
  /-- A swap has happened and DRAINED is not reported yet (R171). Reset: false. -/
  draining : Bool := false
  /-- Number of the first request admitted after the last swap (R171, the model's own count,
  `State.reqNum`). Reset: 0. -/
  swapNum : Nat := 0
  /-- Denials counted at the target (R172). Reset: 0. -/
  denials : W64 := 0
  deriving DecidableEq, Repr

/-- A memory request as it reaches its target (`07` R168, `08` R193). -/
structure MemReq where
  /-- Initiator ID (R169). -/
  init : Nat := 0
  /-- Context the request carries, for an initiator that serves several (R170). -/
  ctx : Nat := 0
  /-- Device address. -/
  da : Nat := 0
  /-- A write. -/
  write : Bool := false
  /-- A walk read (R165). -/
  walk : Bool := false
  /-- Bytes read, for a read. -/
  len : Nat := 0
  /-- Bytes written, for a write. -/
  data : List Byte := []
  /-- The context that the request acts for. -/
  acts : Nat := 0
  /-- The pool of its C-die whose tag it holds: 1 the reserve of its cluster, 2 the streaming
  reserve, 3 the shared pool; 0 none (`08` R193). -/
  tag : Nat := 0
  /-- The number it was made under (`State.reqNum`). -/
  num : Nat := 0
  deriving DecidableEq, Repr

/-- A request held in the issue queue of its requester: it waits for a tag or behind an older one, or a
target has refused it (`08` R193–R196). -/
structure Refused where
  /-- The request. -/
  req : MemReq := {}
  /-- Times refused. -/
  n : Nat := 0
  /-- Its place in its bank's queue of tickets, once it holds one. -/
  ticket : Option Nat := none
  /-- An access that an instruction, a chain or a fill makes itself: its own work tries it again. -/
  own : Bool := false
  deriving DecidableEq, Repr

/-- An H-tier window: its two words (`07` R177). -/
structure HWin where
  /-- Word 0. -/
  w0 : W64 := 0
  /-- Word 1. -/
  w1 : W64 := 0
  deriving DecidableEq, Repr

/-- A pool-map entry (`07` R179). -/
structure PoolMap where
  /-- Entry valid. -/
  v : Bool := false
  /-- Context. -/
  ctx : Nat := 0
  /-- log₂ of the size. -/
  size : Nat := 0
  /-- Base device address. -/
  base : Nat := 0
  /-- Node ID. -/
  node : Nat := 0
  /-- Ports that may carry its traffic (16 bits). -/
  ports : Nat := 0
  /-- Base in the node's address space (48 bits). -/
  nbase : Nat := 0
  deriving DecidableEq, Repr

/-- A donated region (`07` R180). -/
structure Donation where
  /-- The region exists. -/
  v : Bool := false
  /-- M-die. -/
  m : Nat := 0
  /-- Reads granted. -/
  r : Bool := false
  /-- Writes granted. -/
  w : Bool := false
  /-- First granule of the M-die. -/
  first : Nat := 0
  /-- Granules. -/
  n : Nat := 0
  /-- Node IDs admitted. -/
  nodes : List Nat := []
  deriving DecidableEq, Repr

/-- A KV pool page (`07` R181): the owner entry, the page's virtual page and its stamp. -/
structure PoolPage where
  /-- Owning context; none when free. -/
  owner : Option Nat := none
  /-- Virtual page (VA / 64 KiB) of the owner. -/
  vpn : Nat := 0
  /-- Last-access stamp: Tether time bits [59:16]; below 0 once Tether has been set back (`12` R309). -/
  stamp : Int := 0
  deriving DecidableEq, Repr

/-- A page move planned or in progress (`07` R184, R185). -/
structure PoolMove where
  /-- Context. -/
  ctx : Nat := 0
  /-- Virtual page. -/
  vpn : Nat := 0
  /-- Source page number (DA / 64 KiB). -/
  src : Nat := 0
  /-- Destination page number. -/
  dst : Nat := 0
  /-- The mover that runs it, 0–11; none while it is only planned (`07` R184). -/
  mover : Option Nat := none
  /-- Number of the first request admitted after MOV was set (`07` R185, `State.reqNum`). -/
  num : Nat := 0
  /-- The stream whose access posted the promotion (`10` R256). -/
  stream : Nat := 0
  deriving DecidableEq, Repr

/-- A rekey job of one target (`16` R401, `25` R562 MCRY.REKEY). -/
structure RekeyJob where
  /-- Job running. -/
  act : Bool := false
  /-- Context. -/
  ctx : Nat := 0
  /-- Boundary device address. -/
  b : Nat := 0
  deriving DecidableEq, Repr

end Sys2Proof.Machine
end

