-- ==== Sys2Proof/Machine/StateSec.lean ====
section
/-! DEFINITION. Keys, charters, checkpoints, life cycle, failure records, start-up, power
and temperature (`15_keys`, `17_charters_attestation`–`23_power_thermal_clocks`). -/

namespace Sys2Proof.Machine

/-- State of a key slot (`15` R373). -/
inductive KState | empty | valid | orphan | retired
  deriving DecidableEq, Repr

/-- A key slot: the descriptor and the key value as two shares (`15` R373, R379). -/
structure KSlot where
  /-- STATE. Reset: EMPTY. -/
  st : KState := .empty
  /-- KIND 0–7. Reset: 0. -/
  kind : Nat := 0
  /-- PARENT. Reset: 0. -/
  parent : Nat := 0
  /-- PGEN. Reset: 0. -/
  pgen : Nat := 0
  /-- GEN. Reset: 0. -/
  gen : Nat := 0
  /-- USE bits. Reset: 0. -/
  use : Nat := 0
  /-- CTX. Reset: 0. -/
  ctx : Nat := 0
  /-- DEV. Reset: 0. -/
  dev : Bool := false
  /-- Share s₁. Reset: 0. -/
  s1 : BitVec 256 := 0
  /-- Share s₂. Reset: 0. -/
  s2 : BitVec 256 := 0
  /-- Charter whose slot it is (JOBMEM, EPHEM, OWNER). Reset: 0. -/
  chd : BitVec 256 := 0
  /-- Key index of an OWNER or EPHEM slot. Reset: 0. -/
  keyid : Nat := 0
  deriving DecidableEq, Repr

/-- A nonce the device has issued and that is still valid (`17` R413). -/
structure Nonce where
  /-- Its value. -/
  val : BitVec 256 := 0
  /-- Charter it was asked for. -/
  chd : BitVec 256 := 0
  /-- Tether time of issue. -/
  t : W64 := 0
  /-- EPHEM slot and key index, for one issued by KR_BEGIN. -/
  eph : Option (Nat × Nat) := none
  /-- GEN of that slot when it was filled. -/
  gen : Nat := 0
  deriving DecidableEq, Repr

/-- A DRBG (`15` R381, R382). -/
structure Drbg where
  /-- Requests since the last reseed. Reset: 0. -/
  reqs : Nat := 0
  /-- Reseeds made. Reset: 0. -/
  reseeds : Nat := 0
  /-- A reseed is due and the source is FAILED: requests are refused. Reset: false. -/
  stuck : Bool := false
  deriving DecidableEq, Repr

/-- The key store and entropy (`15_keys`). -/
structure KeyStore where
  /-- Slots 0–63. Reset: EMPTY until a start fills slots 0–4. -/
  slots : Tab KSlot := []
  /-- The entropy source is FAILED. Reset: false. -/
  failed : Bool := false
  /-- The key DRBG. -/
  key : Drbg := {}
  /-- The sampling DRBG. -/
  samp : Drbg := {}
  /-- Completed re-masking sweeps. Reset: 0. -/
  sweeps : Nat := 0
  /-- Failed sweep starts. Reset: 0. -/
  failedSweeps : Nat := 0
  /-- Refused requests. Reset: 0. -/
  refusals : Nat := 0
  /-- Nonces outstanding. Reset: none. -/
  nonces : List Nonce := []
  /-- Transport keys of the bridle by link and direction, under key 2·link + direction (R376, `16` R390). Reset: 0, before
  a start draws them. -/
  bridleKey : Tab (BitVec 128) := []
  /-- What each C-die (0–7) and M-die (8–11) inline engine has cached, the newest first, at most 64: context, epoch, slot and
  GEN of a K_CTX (R376). Reset: none. -/
  cache : Tab (List (Nat × Nat × Nat × Nat)) := []
  /-- The mask under which each engine's cached keys stand, by the same numbers: share s₂ of each (R379). Reset: 0. -/
  cacheMask : Tab (BitVec 128) := []
  /-- The alias certificate that d_ID has signed at this start (R371). Reset: none. -/
  cert : List Byte := []
  /-- Exports made under charters that are not admitted now: digest and count (`17` R418). Reset: none. -/
  exported : List (BitVec 256 × Nat) := []
  deriving DecidableEq, Repr

/-- An admitted charter: its whole image and digest (`17` R406–R408). -/
structure Charter where
  /-- CHD. -/
  chd : BitVec 256 := 0
  /-- The image, as loaded. -/
  image : List Byte := []
  /-- Exports made on this module (R418). -/
  exports : Nat := 0
  deriving DecidableEq, Repr

/-- An import or an export in progress (`17` R417, R418). -/
structure Xfer where
  /-- Export; otherwise import. -/
  exp : Bool := false
  /-- Context. -/
  ctx : Nat := 0
  /-- Key index. -/
  keyid : Nat := 0
  /-- Source VA. -/
  src : Nat := 0
  /-- Destination VA. -/
  dst : Nat := 0
  /-- Length of an export. -/
  len : Nat := 0
  /-- OBJID of an export. -/
  objid : W64 := 0
  /-- Fence. -/
  fid : Nat := 0
  /-- Fence value. -/
  val : W64 := 0
  deriving DecidableEq, Repr

/-- A checkpoint store binding (`19` R439). -/
structure Store where
  /-- Charter digest. -/
  chd : BitVec 256 := 0
  /-- Class: 0 model, 1 snapshot. -/
  cls : Nat := 0
  /-- HID or snapshot name. -/
  name : W64 := 0
  /-- Pool node. -/
  node : Nat := 0
  /-- Ports. -/
  pmask : Nat := 0
  /-- Stream segment slots per lane. -/
  segn : Nat := 0
  /-- Bases of slots 0–2. -/
  sbase : List Nat := []
  /-- Bytes per slot. -/
  ssz : Nat := 0
  /-- Stream region base. -/
  strm : Nat := 0
  /-- Stream region bytes. -/
  strmsz : Nat := 0
  /-- Coordination words. -/
  coord : Nat := 0
  deriving DecidableEq, Repr

/-- A checkpoint, snapshot or stream segment write in progress (`19` R447–R454). -/
structure CkptWrite where
  /-- Context. -/
  ctx : Nat := 0
  /-- Class: 0 model, 1 snapshot; 2 for a stream segment. -/
  cls : Nat := 0
  /-- Snapshot name or HID. -/
  name : W64 := 0
  /-- Narrowed moments. -/
  narrow : Bool := false
  /-- Step asked for; the step of a segment. -/
  t : Nat := 0
  /-- Capture fence and value. -/
  fid : Nat := 0
  /-- Capture value. -/
  val : W64 := 0
  /-- Program extents: VA and length. -/
  extents : List (Nat × Nat) := []
  /-- Generation announced. -/
  g : Nat := 0
  /-- Capture step, once it is known. -/
  s : Option Nat := none
  /-- Membership epoch at the capture. -/
  epoch : Nat := 0
  /-- The bytes have been read and formed. -/
  formed : Bool := false
  /-- The capture has been made: the next reduce-scatter is no longer held. -/
  captured : Bool := false
  /-- Store requests not yet sent: node address and lines. -/
  todo : List (Nat × List Byte) := []
  /-- How many of them, at the end, belong to the member record. -/
  rest : Nat := 0
  /-- This member's shard entries, 64 B each (R446). -/
  entries : List (List Byte) := []
  /-- This member's member entry, 160 B (R446). -/
  member : List Byte := []
  /-- Common or snapshot shards of the generation. -/
  nsh : Nat := 0
  /-- Its entries have gone to the Bellwether. -/
  reported : Bool := false
  /-- The compare-and-swap of CUR is on its way (`19` R449). -/
  flip : Bool := false
  deriving DecidableEq, Repr

/-- What a bank of OTP holds of helper data and its check value (`15` R366, `18` R430, R434, R436). -/
inductive HelperBank
  /-- No bit is set. -/
  | blank
  /-- Enrolment into it has begun and not been verified. -/
  | begun
  /-- The 3 KiB of helper data and the 16 B check value of an enrolment. -/
  | written
  /-- Every bit reads 1. -/
  | erased
  deriving DecidableEq, Repr

/-- Life-cycle state of the unit (`18` R429–R437). -/
structure LifeCycle where
  /-- OTP word LCM. Reset: Production, as the field unit is (DESIGN CHOICE, log 7). -/
  lcm : W64 := 0x00000000FFFFFFFF
  /-- LCSTAT.CODE. Reset: 0xFF. -/
  code : BitVec 8 := 0xFF
  /-- Progress flags, by index of LCSTAT.LCP. Reset: the Production transition done. -/
  lcp : BitVec 11 := 0b00001001111
  /-- Fuse codes of the thirteen logic dies, 4 bits each, die 0 lowest. Reset: Production (0b0011) on all. -/
  dies : BitVec 52 := 0x3333333333333
  /-- Fuse triplets with disagreeing fuses. Reset: 0. -/
  trip : Nat := 0
  /-- Signed requests refused (R435). Reset: 0. -/
  refused : Nat := 0
  /-- The instruction selected at each die's test access port; 0 is BYPASS (`18` R428). Reset: BYPASS. -/
  tap : Tab Nat := []
  /-- Helper bank A. Reset: written, as the field unit's is (DESIGN CHOICE, log 7). -/
  bankA : HelperBank := .written
  /-- Helper bank B. Reset: blank (DESIGN CHOICE, log 7). -/
  bankB : HelperBank := .blank
  /-- The 8 KiB PUF array (`15` R366, R368). Reset: 0, as a start leaves it before firmware runs. -/
  puf : BitVec 65536 := 0
  /-- Reads of the PUF that the last start has made (`15` R367). Reset: 0. -/
  pufReads : Nat := 0
  /-- Every read of the PUF has failed in this start (`15` R367). Reset: false. -/
  pufFailed : Bool := false
  /-- LC.ADVANCE has been taken and a package reset is to run the transition. Reset: false. -/
  advance : Bool := false
  /-- LC.RETIRE has been accepted and its package reset follows. Reset: false. -/
  retire : Bool := false
  deriving DecidableEq, Repr

/-- A failure signature of the log store (`20` R476–R478). -/
structure Cper where
  /-- Record ID. -/
  id : Nat := 0
  /-- CLASS. -/
  cls : Nat := 0
  /-- OUTCOME. -/
  outcome : Nat := 0
  /-- UKIND. -/
  ukind : Nat := 0
  /-- FLAGS. -/
  flags : Nat := 0
  /-- UIDX. -/
  uidx : Nat := 0
  /-- TEST. -/
  test : Nat := 0
  /-- SYND, 16 B. -/
  synd : BitVec 128 := 0
  /-- STEP. -/
  step : Nat := 0
  /-- TETHER. -/
  tether : W64 := 0
  /-- DA. -/
  da : Nat := 0
  /-- CTX, 0xFFFF for none. -/
  ctx : Nat := 0xFFFF
  /-- CAUSE. -/
  cause : Nat := 0
  /-- ROW; 0xFFFF when not known. -/
  row : Nat := 0xFFFF
  /-- COL; 0xFFFF when not known. -/
  col : Nat := 0xFFFF
  /-- COUNT. -/
  count : Nat := 0
  /-- FLGX and FLGG. -/
  flg : BitVec 64 := 0
  deriving DecidableEq, Repr

/-- Device state (`23` R514, `13` R344, `22` R502). -/
inductive Dev | off | auxOnly | starting | bootHold | sentinel | ready
  deriving DecidableEq, Repr

/-- A reset in progress of a unit (`21` R479–R482). -/
structure UnitReset where
  /-- Kind: 0 core, 1 cluster, 2 C-die, 3 M-die. -/
  kind : Nat := 0
  /-- Index. -/
  idx : Nat := 0
  /-- The fence of R480 is up and requests in the unit may still complete. -/
  fence : Bool := true
  deriving DecidableEq, Repr

/-- Errors, resets and the log store (`20`, `21`). -/
structure Ras where
  /-- Signatures in the log store ring, by slot (id mod 2,048). Reset: empty at first
  power-on. -/
  log : Tab (Option Cper) := []
  /-- NEXTID. Reset: 0 at first power-on. -/
  nextId : W64 := 0
  /-- XLOG.CETHR. Reset: 256. -/
  cethr : BitVec 32 := 256
  /-- XLOG.ADDR, as a byte offset of 8 B steps. Reset: 0. -/
  addr : BitVec 22 := 0
  /-- Dumps written since power-on: the dump held is the last; its words are
  `Config.dumpWord` of this number (`20` R476, log 4). Reset: 0. -/
  dumpNo : Nat := 0
  /-- DUMPSTAT.PRES. Reset: 0. -/
  dumpPres : Bool := false
  /-- DUMPSTAT.BUSY. Reset: 0. -/
  dumpBusy : Bool := false
  /-- DUMPSTAT.LEN. Reset: 0. -/
  dumpLen : Nat := 0
  /-- Corrected errors of the hour, by unit (UKIND × 2¹⁶ + UIDX). Reset: 0. -/
  ceHour : Tab Nat := []
  /-- Units that wrote their threshold signature this hour. Reset: none. -/
  ceSigned : List Nat := []
  /-- Unit resets in progress. Reset: none. -/
  resets : List UnitReset := []
  /-- RSTSTAT.PKG. Reset: 0. -/
  pkg : Nat := 0
  /-- RSTSTAT.SENT. Reset: 0. -/
  sent : Nat := 0
  /-- RSTSTAT.PKGCNT. Reset: 0. -/
  pkgCnt : Nat := 0
  /-- RSTSTAT.UNITCNT. Reset: 0. -/
  unitCnt : Nat := 0
  /-- SENT cause recorded in this start, shown after the next package reset. Reset: 0. -/
  sentNow : Nat := 0
  /-- Short PERST# pulses, counted after the next Ready (`24` R539). Reset: 0. -/
  perstShort : Nat := 0
  /-- Sheepdog: the last heartbeat word. Reset: 0. -/
  beat : W64 := 0
  /-- Sheepdog holds Yorek in reset (R495). Reset: false. -/
  yorekHeld : Bool := false
  /-- Sheepdog has tripped in this start. Reset: false. -/
  tripped : Bool := false
  /-- The field test: phase 0 not running, 1 running on every unit. Reset: 0. -/
  fieldTest : Nat := 0
  /-- Units that failed the running or last field test: (UKIND, UIDX). Reset: none. -/
  ftFail : List (Nat × Nat) := []
  /-- The test was required by R312 and holds the herd. Reset: none. -/
  ftHerd : Option Nat := none
  /-- Records of a later version than the device's that field tests have skipped (`04` R113). Reset: 0. -/
  ftSkipped : Nat := 0
  /-- Patrol: lines checked. Reset: 0. -/
  patrolled : Nat := 0
  /-- Requested resends not yet arrived: (M-die, record group) (`20` R461). Reset: none. -/
  resend : List (Nat × Nat) := []
  /-- Retention store: record groups of each M-die whose write was in flight at its reset
  (`21` R486 ISSUED). Reset: none. -/
  issued : Tab (List Nat) := []
  /-- Bridle retry counter by receiving die (`01` R19). Reset: 0. -/
  bridleRetry : Tab Nat := []
  /-- Consecutive retries of a flit on a link, under key 2¹⁰·(2·link + direction) + 2⁸·class + 16·source + destination (`01`
  R19). Reset: 0. -/
  bridleRun : Tab Nat := []
  /-- The flit count under which a flit that is asked for again was encrypted, by the same key: it is resent unchanged
  (`16` R390). Reset: 0. -/
  bridleSent : Tab Nat := []
  /-- Flit count of each bridle link and direction, under key 2·link + direction (`16` R390).
  Reset: 0. -/
  bridleOk : Tab Nat := []
  /-- The payload of the last flit on each bridle link and direction as it crossed the link, encrypted, by the same key
  (`16` R390). Reset: 0. -/
  bridleWire : Tab W64 := []
  deriving DecidableEq, Repr

/-- Start-up, firmware image and calibration (`22`). -/
structure Boot where
  /-- BOOTSTAT.STEP. Reset: 0. -/
  step : Nat := 0
  /-- BOOTSTAT.CAUSE. Reset: 0. -/
  cause : Nat := 0
  /-- BOOTSTAT.WARM. Reset: 0. -/
  warm : Bool := false
  /-- BOOTSTAT.RECOV. Reset: 0. -/
  recov : Bool := false
  /-- SVN of the running image. Reset: 0. -/
  svn : Nat := 0
  /-- Rollback counter. Reset: DESIGN CHOICE 0, log 7. -/
  ctr : Nat := 0
  /-- Firmware key of the running image. Reset: 0. -/
  keyidx : Nat := 0
  /-- Revoked keys, bit i. Reset: 0. -/
  revoked : BitVec 4 := 0
  /-- Channels and interfaces that fell back. Reset: 0. -/
  fallbk : Nat := 0
  /-- CALOK. Reset: 0. -/
  calok : Bool := false
  /-- TSTART in ms. Reset: 0. -/
  tstart : Nat := 0
  /-- FWM of the running image. Reset: 0. -/
  fwm : BitVec 256 := 0
  /-- LPDDR6 data rate, MT/s. Reset: 0. -/
  rate : Nat := 0
  /-- The image in SPI NOR: header fields KEYIDX, SVN and FWM, and the CAUSE that its check
  gives. Reset: DESIGN CHOICE a good image of SVN 0 under key 0, log 7. -/
  imgKey : Nat := 0
  /-- SVN of the stored image. -/
  imgSvn : Nat := 0
  /-- FWM of the stored image. -/
  imgFwm : BitVec 256 := 0
  /-- CAUSE that the check of the stored image gives; 0 for none. -/
  imgCause : Nat := 0
  /-- An image write is running (R507). Reset: false. -/
  writing : Bool := false
  /-- Sealed training record: FWM and rate it was written under. Reset: none. -/
  train : Option (BitVec 256 × Nat) := none
  /-- User calibration record: item × 2¹² + lane or sensor. Reset: no value. -/
  cal : Tab W64 := []
  /-- Sequence number of the newest sealed record. Reset: 0. -/
  seq : Nat := 0
  /-- The sealed records as SPI NOR holds them, by 2·record + copy, record 0 training and 1 user calibration: sequence
  number, ciphertext and HMAC (R510). Reset: none. -/
  nor : Tab (Nat × List Byte × BitVec 256) := []
  /-- Seal verifications that failed (R510). Reset: 0. -/
  calFail : Nat := 0
  /-- A new training record is to be sealed (R510). Reset: false. -/
  sealDue : Bool := false
  deriving DecidableEq, Repr

/-- Power, temperature and clocks (`23`). -/
structure Power where
  /-- The 54 V input is on. Reset: DESIGN CHOICE true, log 7. -/
  main : Bool := true
  /-- The auxiliary supply is on. Reset: DESIGN CHOICE true, log 7. -/
  aux : Bool := true
  /-- XPWR.FAULT. Reset: 0. -/
  fault : W64 := 0
  /-- The supply-fault word of the auxiliary island, shown after the next start. Reset: 0. -/
  islandFault : W64 := 0
  /-- Average input power of the last millisecond, W. Reset: 0. -/
  pwr : Nat := 0
  /-- The cap written, W. Reset: 2,600. -/
  cap : Nat := 2600
  /-- A cap written and not yet in force. Reset: none. -/
  capNext : Option Nat := none
  /-- Target point 1–6 of every C-die. Reset: 1. -/
  tgt : Nat := 1
  /-- Duty D, 8–64. Reset: 64. -/
  duty : Nat := 64
  /-- PWR_BRAKE# asserted. Reset: false. -/
  brake : Bool := false
  /-- Milliseconds in a row below 0.95 of the cap. Reset: 0. -/
  below : Nat := 0
  /-- CAPLIM. Reset: 0. -/
  caplim : Bool := false
  /-- THLIM. Reset: 0. -/
  thlim : Bool := false
  /-- THERM_ALERT# asserted. Reset: 0. -/
  alert : Bool := false
  /-- Admission of every controller halved by the brake. Reset: false. -/
  admHalf : Bool := false
  /-- Operating point of each C-die (`23` R515). Reset: 1. -/
  op : Tab Nat := []
  /-- Highest-clocked point that temperature allows each C-die (`23` R516, R521). Reset: 1. -/
  heatOp : Tab Nat := []
  /-- C-dies that a throttle is lowering: from above 105 °C to 103 °C (`23` R521). Reset: none. -/
  hot : Tab Bool := []
  /-- D has been lowered for temperature and has not returned (`23` R521, R523). Reset: false. -/
  heatDuty : Bool := false
  /-- C-die temperatures TJ, signed, 0.125 °C. Reset: 0. -/
  tj : Tab (BitVec 16) := []
  /-- Hottest D-die of each stack. Reset: 0. -/
  td : Tab (BitVec 16) := []
  /-- D-stack throttle (STHR). Reset: 0. -/
  sthr : Tab Bool := []
  /-- Refresh doubled (DBL). Reset: 0. -/
  dbl : Tab Bool := []
  /-- Refresh doubling pending for the next interval boundary. Reset: none. -/
  dblNext : Tab (Option Bool) := []
  /-- M-die temperatures. Reset: 0. -/
  mtj : Tab (BitVec 16) := []
  /-- M-die throttle. Reset: 0. -/
  mthr : Tab Bool := []
  /-- X-die temperature. Reset: 0. -/
  xtj : BitVec 16 := 0
  /-- Coolant inlet. Reset: 0. -/
  inlet : BitVec 16 := 0
  /-- LPDDR6 package temperatures. Reset: 0. -/
  lp : Tab (BitVec 16) := []
  /-- Milliseconds counted for the 10 ms boundary of R521. Reset: 0. -/
  tick : Nat := 0
  /-- FAB_REFCLK is within bounds. Reset: true. -/
  fabClk : Bool := true
  /-- Strict partition on (`17` R422). Reset: false. -/
  strict : Bool := false
  /-- Operating point fixed by PARTITION.SET. Reset: 0. -/
  sPoint : Nat := 0
  /-- STATIC duty. Reset: false. -/
  sStatic : Bool := false
  /-- Operator duty. Reset: 64. -/
  sDuty : Nat := 64
  /-- Bit 16 of measurement block 3: a thermal duty reduction since the mode was set.
  Reset: 0. -/
  sThermal : Bool := false
  deriving DecidableEq, Repr

end Sys2Proof.Machine
end

