-- ==== Sys2Proof/Machine/State.lean ====
section
/-! DEFINITION. The state of the module, and its state right after a package reset with
power applied, before the start-up steps run. Every field of a part is described, with its
reset value, in the file of that part. -/

namespace Sys2Proof.Machine

/-- Why a step stops with a fault. Nothing in the manual stops the module as a block: every
command has an effect, if only to leave the state as it is. -/
inductive Fault
  /-- Raised by no command. Safe: a stop that never happens. -/
  | never
  deriving DecidableEq, Repr

/-- Why a step is refused. -/
inductive Refusal
  /-- Raised by an arm of `exec` whose command has no meaning yet. Safe: the step stops. -/
  | notModelled (mnemonic : String)
  deriving DecidableEq, Repr

/-- The ordering codes of the module (`01` R25); the last names its disabled C-die. -/
inductive OrdCode
  /-- STR-S8-2T0-F16. -/
  | s8x2t0f16
  /-- STR-S8-1T0-F16. -/
  | s8x1t0f16
  /-- STR-S8-2T0-F08. -/
  | s8x2t0f08
  /-- STR-S7-2T0-F16. -/
  | s7x2t0f16 (disabled : Fin 8)
  deriving DecidableEq, Repr

/-- The state of one Strelno S8 module. -/
structure State where
  /-- Commands waiting, first in, first out (the block's queue, DESIGN CHOICE, log 8).
  Reset: empty. -/
  pending : List Instr
  /-- Uses made of `Config.freeValue` (the model's own, log 1). Reset: DESIGN CHOICE 0. -/
  freeCtr : Nat
  /-- Ordering code of the unit, which no command changes (`01` R25). Reset: DESIGN CHOICE
  STR-S8-2T0-F16, the code that the manual describes (`00` R1), log 4. -/
  code : OrdCode
  /-- Device state (`23` R514). Reset: starting. -/
  dev : Dev
  /-- Cores 0–511 (`01` R14). Reset: every core in its creation state. -/
  cores : Tab Core
  /-- Clusters 0–63 (`01` R14). Reset: held by no context. -/
  clusters : Tab Cluster
  /-- Run-ahead entries of each C-die, oldest first (`08` R204). Reset: empty. -/
  runAhead : Tab (List RunAhead)
  /-- D- and L-tier bytes by device address, in clear (`07` R158, log 9). Reset: zeros
  (`22` R501, `16` R388). -/
  mem : Tab Byte
  /-- Protection metadata of L-tier pages: the major counter, by DA / 4 KiB (`16` R392).
  Reset: 0. -/
  major : Tab Nat
  /-- Minor counters of the lines of the L- and H-tier, by DA / 128 (`16` R392). Reset: 0. -/
  lines : Tab Nat
  /-- Versions of counter lines and tree nodes of each M-die, and of each H-tier window w as unit 0x1000 + w: (unit, level,
  index) under key unit·2⁶⁴ + level·2⁴⁰ + index, 56 bits each (`16` R393, R400). Reset: 0. -/
  versions : Tab Nat
  /-- Stored units of the M-dies' trees, each line of them with its MAC field and its ECC: counter-line mirrors and tree copies
  in the integrity areas of the D-stacks, by C-die·2³⁴ + offset in the area, and counter lines in the integrity regions, by
  2⁴⁸ + DA (`16` R392, R394). Reset: none written. -/
  integ : Tab (List Byte)
  /-- Dirty units of each M-die's integrity cache: level·2⁴⁰ + index (`16` R396). Reset: none. -/
  dirty : Tab (List Nat)
  /-- Units of levels 0 to 4 that each M-die's integrity cache holds, the last used first, at most 16 of a set (`16` R396).
  Reset: none. -/
  intCache : Tab (List Nat)
  /-- Access tables of each target (`07` R168). Reset: no initiator valid, granules FREE. -/
  targets : Tab Target
  /-- Refused requests held by their requesters, oldest first (`08` R195). Reset: none. -/
  retry : List Refused
  /-- Requests admitted by a controller that it has not issued to DRAM, oldest first, without their bytes
  (`08` R195). Reset: none. -/
  dramQ : List MemReq
  /-- Requests issued to DRAM whose data or acknowledgements have not returned, oldest first (`08` R193). Reset: none. -/
  dramOut : List MemReq
  /-- The model's own number of the next request that leaves the module (`07` R167, R171, R185). Reset: 0. -/
  reqNum : Nat
  /-- Accesses stalled on MOV: initiator, context and virtual page (`07` R185). Reset: none. -/
  movWaits : List (Nat × Nat × Nat)
  /-- The route table: the next die from a die to a die under key 16·source + destination (`01` R16, R17).
  Reset: empty; a start loads it. -/
  routes : Tab Nat
  /-- Bridle messages under way, oldest first: class, source die, destination die, the die that holds it, and the
  message (`01` R18). Reset: none. -/
  bridle : List (Nat × Nat × Nat × Nat × W64)
  /-- The last response: data of a memory read, or a status (`07` R172). Reset: empty. -/
  resp : List Byte
  /-- H-tier windows 0–4,095 (`07` R177). Reset: invalid. -/
  hwins : Tab HWin
  /-- The host-page cache: page-list entries by their device address, the newest first, at most 16,384 (`07` R177).
  Reset: DESIGN CHOICE empty, log 56. -/
  hostPages : List (Nat × Nat)
  /-- B_w of each H-tier window in units of 2⁴⁰ (`16` R400). Reset: 0. -/
  hwBase : Tab Nat
  /-- Pool map entries 0–255 (`07` R179). Reset: invalid. -/
  poolMap : Tab PoolMap
  /-- Donated regions 0–15 (`07` R180). Reset: none. -/
  donations : Tab Donation
  /-- Coordination region of this module as a pool node, by node address (`11` R279).
  Reset: DESIGN CHOICE zeros, log 9. -/
  coord : Tab Byte
  /-- Metadata of lines, 16 B each: donated lines by DA / 128 and coordination lines by 2⁶⁰ + node address / 128, which
  this module holds as a pool node (`16` R389), and counter lines by DA / 128 (`16` R392). Reset: DESIGN CHOICE zeros, log 9. -/
  lineMeta : Tab (List Byte)
  /-- KV pool pages by DA / 64 KiB (`07` R181). Reset: free. -/
  pages : Tab PoolPage
  /-- Granules of each D-pool (0–7) and L-pool (8–11) (`07` R181). Reset: 0. -/
  poolSize : Tab Nat
  /-- KV page moves planned and in progress (`07` R184, R185). Reset: none. -/
  moves : List PoolMove
  /-- KV promotions posted and not yet made: (context, virtual page, C-die), and the stream whose access posted it
  (`07` R184, `10` R256). Reset: none. -/
  promos : List ((Nat × Nat × Nat) × Nat)
  /-- Promotions without a victim, counted as pool pressure (`07` R184). Reset: 0. -/
  pressure : Nat
  /-- Rekey jobs of each target (`16` R401). Reset: none. -/
  rekeyJobs : Tab RekeyJob
  /-- Rekey jobs queued: (target, context) (`16` R401). Reset: none. -/
  rekeyQ : List (Nat × Nat)
  /-- Granules waiting for their scrub: the granule, and the context that leaves it, 0x1000 for none or
  0x2000 + r for donated region r (`16` R403). Reset: none. -/
  scrubQ : List (Nat × Nat)
  /-- Aperture windows 0–63: context and DA base (`13` R327). Reset: unset. -/
  aperture : Tab (Option (Nat × Nat))
  /-- Host memory as it stands on the host: what the device has written or received, by host bus address; the data of
  H-tier windows as ciphertext, with their MACs and counter lines behind (`16` R385, R400, log 9). Reset: DESIGN CHOICE zeros. -/
  hostMem : Tab Byte
  /-- Fabric pool memory behind the pool nodes, in clear, by node·2⁴⁸ + node address
  (`07` R179, log 9). Reset: DESIGN CHOICE zeros. -/
  poolMem : Tab Byte
  /-- Contexts 0–4,095 (`14` R345). Reset: none. -/
  ctxs : Tab Ctx
  /-- Resident slots 0–47: the context that holds it (`14` R347). Reset: free. -/
  slots : Tab (Option Nat)
  /-- Fences 0–65,535 (`14` R355). Reset: not allocated. -/
  fences : Tab Fence
  /-- Signals on their way to the fence unit, oldest first (`14` R356). Reset: none. -/
  sigQ : List Sig
  /-- Of each queue priority, 1 + 16·context + queue of the queue served last (`14` R353). Reset: DESIGN CHOICE 0, log 25. -/
  turn : Tab Nat
  /-- Device event ring (`14` R360). Reset: unset. -/
  devRing : Ring
  /-- Mailbox channels 0–7 (`25` R565). Reset: idle. -/
  mbx : Tab MbxChan
  /-- Mailbox channels with a submitted command not yet taken, oldest first (`25` R566).
  Reset: none. -/
  mbxQ : List Nat
  /-- Registers and counters held as plain words, by BAR0 offset (`25`): counters reset to 0,
  IRQ to 0, HWERR to 0. -/
  regs : Tab W64
  /-- Counters per context and stream, by (kind, context, stream) (`08` R206, `10` R256,
  `17` R423). Reset: 0. -/
  ctxCnt : Tab W64
  /-- The PCIe function (`13`). -/
  pcie : Pcie
  /-- The learning binding (`09`). -/
  learn : Learn
  /-- The update units of M-dies 0–3 (`09` R222). -/
  upd : Tab Upd
  /-- Phase markers: (row, marker) under key 64·row + marker (`09` R239). Reset: 0. -/
  markers : Tab W64
  /-- Link ports 0–15 (`11`). -/
  ports : Tab Port
  /-- The module's node ID; 0 for none (`11` R260). Reset: 0. -/
  node : Nat
  /-- Admission list: entry, kind and digest (`11` R261). Reset: none. -/
  admitList : Tab (Option (Bool × BitVec 256))
  /-- Pool requests outstanding, oldest first (`11` R279). Reset: none. -/
  poolReqs : List PoolReq
  /-- Pool reads of instructions, chains and fills that have been answered and that their work has not yet taken (`11` R279).
  Reset: none. -/
  poolGot : List PoolReq
  /-- Collective channels 0–15 (`12` R292). -/
  colls : Tab Coll
  /-- Active slot table (`12` R293). Reset: 0x1F, idle, in every entry (`25` XCOL.SLOT). -/
  slotTab : Tab Nat
  /-- Shadow slot table. Reset: idle. -/
  slotShadow : Tab Nat
  /-- XCOL.SWAP: the Tether instant of a pending swap, or 0 (`12` R295). Reset: 0. -/
  slotSwap : Nat
  /-- Tether (`12` R305). -/
  tet : Tether
  /-- Herds the module belongs to, at most 4 (`12` R285). Reset: none. -/
  herds : List Herd
  /-- Control messages that the peer of a port has not acknowledged, oldest first: the port on which they were sent, or 16 while
  they wait for a route, the member that they are for, and the message (`12` R301). Reset: none. -/
  ctlOut : List (Nat × Nat × CollMsg)
  /-- Handoff channels 0–255 (`10` R247). Reset: closed. -/
  handoffs : Tab Handoff
  /-- The key store (`15`). -/
  keys : KeyStore
  /-- Admitted charters in admission order, at most 32 (`17` R408). Reset: none. -/
  charters : List Charter
  /-- Imports and exports in progress (`17` R417). Reset: none. -/
  xfers : List Xfer
  /-- Checkpoint stores bound (`19` R439). Reset: none. -/
  stores : List Store
  /-- Checkpoint and snapshot writes in progress (`19` R447). Reset: none. -/
  ckpts : List CkptWrite
  /-- Difference-stream entries not yet sent, in drain order: step, first parameter and XOR
  (`19` R451). Reset: none. -/
  dstream : List (Nat × Nat × List Byte)
  /-- Life-cycle state (`18`). -/
  lc : LifeCycle
  /-- Errors, resets, the log store and Sheepdog (`20`, `21`). -/
  ras : Ras
  /-- Start-up and calibration (`22`). -/
  boot : Boot
  /-- Power, temperature and clocks (`23`). -/
  pw : Power
  deriving DecidableEq, Repr

/-- The module right after a package reset with both supplies on, before start-up step 1
(`21` R490, `22` R498). -/
def State.reset : State where
  pending := []
  freeCtr := 0
  code := .s8x2t0f16
  dev := .starting
  cores := []
  clusters := []
  runAhead := []
  mem := []
  major := []
  lines := []
  versions := []
  integ := []
  dirty := []
  intCache := []
  targets := []
  retry := []
  dramQ := []
  dramOut := []
  reqNum := 0
  movWaits := []
  routes := []
  bridle := []
  resp := []
  hwins := []
  hostPages := []
  hwBase := []
  poolMap := []
  donations := []
  coord := []
  lineMeta := []
  pages := []
  poolSize := []
  moves := []
  promos := []
  pressure := 0
  rekeyJobs := []
  rekeyQ := []
  scrubQ := []
  aperture := []
  hostMem := []
  poolMem := []
  ctxs := []
  slots := []
  fences := []
  sigQ := []
  turn := []
  devRing := {}
  mbx := []
  mbxQ := []
  regs := []
  ctxCnt := []
  pcie := {}
  learn := {}
  upd := []
  markers := []
  ports := []
  node := 0
  admitList := []
  poolReqs := []
  poolGot := []
  colls := []
  slotTab := []
  slotShadow := []
  slotSwap := 0
  tet := {}
  herds := []
  ctlOut := []
  handoffs := []
  keys := {}
  charters := []
  xfers := []
  stores := []
  ckpts := []
  dstream := []
  lc := {}
  ras := {}
  boot := {}
  pw := {}

end Sys2Proof.Machine
end

