-- ==== Sys2Proof/Machine/Ops.lean ====
section
/-! DEFINITION. The named operations of the state: parts by number, bytes, registers of a
core, counters, events, interrupts, fences and signals. -/

namespace Sys2Proof.Machine

/-- What a command answers. -/
abbrev Out := Host.Outcome State Fault Refusal

/-! ### Parts of the state -/

/-- Core `n` (`01` R14). -/
def State.core (s : State) (n : Nat) : Core := Tab.get {} s.cores n
/-- The state with core `n` set. -/
def State.setCore (s : State) (n : Nat) (k : Core) : State :=
  { s with cores := Tab.set {} s.cores n k }
/-- The state with core `n` changed. -/
def State.updCore (s : State) (n : Nat) (f : Core → Core) : State := s.setCore n (f (s.core n))
/-- Cluster `n`, 8·die + k (`01` R14). -/
def State.cluster (s : State) (n : Nat) : Cluster := Tab.get {} s.clusters n
/-- The state with cluster `n` changed. -/
def State.updCluster (s : State) (n : Nat) (f : Cluster → Cluster) : State :=
  { s with clusters := Tab.upd {} s.clusters n f }
/-- Context `c` (`14` R345). -/
def State.ctx (s : State) (c : Nat) : Ctx := Tab.get {} s.ctxs c
/-- The state with context `c` changed. -/
def State.updCtx (s : State) (c : Nat) (f : Ctx → Ctx) : State :=
  { s with ctxs := Tab.upd {} s.ctxs c f }
/-- Fence `f` (`14` R355). -/
def State.fence (s : State) (f : Nat) : Fence := Tab.get {} s.fences f
/-- The state with fence `i` changed. -/
def State.updFence (s : State) (i : Nat) (f : Fence → Fence) : State :=
  { s with fences := Tab.upd {} s.fences i f }
/-- Target `t` (`07` R168). -/
def State.target (s : State) (t : Nat) : Target := Tab.get {} s.targets t
/-- The state with target `t` changed. -/
def State.updTarget (s : State) (t : Nat) (f : Target → Target) : State :=
  { s with targets := Tab.upd {} s.targets t f }
/-- Port `p` (`11` R260). -/
def State.port (s : State) (p : Nat) : Port := Tab.get {} s.ports p
/-- The state with port `p` changed. -/
def State.updPort (s : State) (p : Nat) (f : Port → Port) : State :=
  { s with ports := Tab.upd {} s.ports p f }
/-- Collective channel `c` (`12` R292). -/
def State.coll (s : State) (c : Nat) : Coll := Tab.get {} s.colls c
/-- The state with collective channel `c` changed. -/
def State.updColl (s : State) (c : Nat) (f : Coll → Coll) : State :=
  { s with colls := Tab.upd {} s.colls c f }
/-- Handoff channel `c` (`10` R247). -/
def State.handoff (s : State) (c : Nat) : Handoff := Tab.get {} s.handoffs c
/-- The state with handoff channel `c` changed. -/
def State.updHandoff (s : State) (c : Nat) (f : Handoff → Handoff) : State :=
  { s with handoffs := Tab.upd {} s.handoffs c f }
/-- Mailbox channel `c` (`25` R565). -/
def State.chan (s : State) (c : Nat) : MbxChan := Tab.get {} s.mbx c
/-- The state with mailbox channel `c` changed. -/
def State.updChan (s : State) (c : Nat) (f : MbxChan → MbxChan) : State :=
  { s with mbx := Tab.upd {} s.mbx c f }
/-- The update unit of M-die `m` (`09` R222). -/
def State.unit (s : State) (m : Nat) : Upd := Tab.get {} s.upd m
/-- The state with the update unit of M-die `m` changed. -/
def State.updUnit (s : State) (m : Nat) (f : Upd → Upd) : State :=
  { s with upd := Tab.upd {} s.upd m f }
/-- Key slot `k` (`15` R373). -/
def State.kslot (s : State) (k : Nat) : KSlot := Tab.get {} s.keys.slots k
/-- The state with key slot `k` changed. -/
def State.updKslot (s : State) (k : Nat) (f : KSlot → KSlot) : State :=
  { s with keys := { s.keys with slots := Tab.upd {} s.keys.slots k f } }
/-- The herd with ID `hid`, when the module belongs to it (`12` R285). -/
def State.herd? (s : State) (hid : Nat) : Option Herd := s.herds.find? fun h => h.hid == hid
/-- The state with herd `hid` changed. -/
def State.updHerd (s : State) (hid : Nat) (f : Herd → Herd) : State :=
  { s with herds := s.herds.map fun h => if h.hid = hid then f h else h }
/-- Queue `q` of a context (`14` R350). -/
def Ctx.queue (c : Ctx) (q : Nat) : Queue := Tab.get {} c.queues q
/-- The context with queue `q` changed. -/
def Ctx.updQueue (c : Ctx) (q : Nat) (f : Queue → Queue) : Ctx :=
  { c with queues := Tab.upd {} c.queues q f }
/-- Tether time in ns (`12` R305). -/
def State.now (s : State) : W64 := s.tet.ns
/-- The next free value of `w` bits, and the state that has used it (log entry 1). -/
def State.free (s : State) (w : Nat) : BitVec w × State :=
  (Config.freeValue w s.freeCtr, { s with freeCtr := s.freeCtr + 1 })

/-- The context that holds the cluster of core `n`, if one does. -/
def State.coreCtx (s : State) (n : Nat) : Option Nat :=
  if (s.cluster (n / 8)).held && !(s.core n).out then some (s.cluster (n / 8)).ctx else none
/-- The clusters that a context holds. -/
def State.ctxClusters (s : State) (c : Nat) : List Nat :=
  (Tab.keys s.clusters).filter fun k => (s.cluster k).held && (s.cluster k).ctx == c
/-- The cores that a context holds. -/
def State.ctxCores (s : State) (c : Nat) : List Nat :=
  ((s.ctxClusters c).flatMap fun k => (List.range 8).map fun i => 8 * k + i).filter fun n =>
    !(s.core n).out
/-- A context exists. -/
def State.ctxLive (s : State) (c : Nat) : Bool := (s.ctx c).st != .free
/-- A context is RESIDENT. -/
def State.resident (s : State) (c : Nat) : Bool := (s.ctx c).st == .resident
/-- The lowest-numbered C-die, M-die and port exist on the unit's ordering code (`01` R25). -/
def State.dieFitted (s : State) (d : Nat) : Bool :=
  d < 8 && match s.code with | .s7x2t0f16 x => x.val != d | _ => true
/-- Port `p` is fitted (`01` R25). -/
def State.portFitted (s : State) (p : Nat) : Bool :=
  p < (match s.code with | .s8x2t0f08 => 8 | _ => 16)

/-! ### Bytes -/

/-- `n` bytes of a memory from address `a`. -/
def bytesAt (t : Tab Byte) (a n : Nat) : List Byte := (List.range n).map fun i => Tab.get 0 t (a + i)
/-- A memory with bytes written from address `a`. -/
def putBytes (t : Tab Byte) : Nat → List Byte → Tab Byte
  | _, [] => t
  | a, b :: bs => putBytes (Tab.set 0 t a b) (a + 1) bs
/-- The number of a little-endian byte string (`00` R6). -/
def leNat : List Byte → Nat
  | [] => 0
  | b :: bs => b.toNat + 256 * leNat bs
/-- `n` as `k` bytes, little-endian. -/
def leBytes : Nat → Nat → List Byte
  | 0, _ => []
  | k + 1, n => BitVec.ofNat 8 n :: leBytes k (n / 256)
/-- Word `i` (8 B) of a byte string; bytes past its end read as 0. -/
def wordAt (b : List Byte) (i : Nat) : W64 := w64 (leNat ((b.drop (8 * i)).take 8))
/-- Field of a byte string: `n` bytes from byte `o`, little-endian. -/
def leAt (b : List Byte) (o n : Nat) : Nat := leNat ((b.drop o).take n)
/-- Words as a byte string. -/
def wordBytes (ws : List W64) : List Byte := ws.flatMap fun w => leBytes 8 w.toNat
/-- A number in 32 bytes, most significant first, as digests are written (`17` R406). -/
def beBytes (k n : Nat) : List Byte := (leBytes k n).reverse
/-- A byte string, most significant first, as a number. -/
def beNat (b : List Byte) : Nat := leNat b.reverse
/-- The 32 bytes of a digest in memory order. -/
def digBytes (d : BitVec 256) : List Byte := beBytes 32 d.toNat
/-- A digest from its bytes in memory order. -/
def digOf (b : List Byte) : BitVec 256 := BitVec.ofNat 256 (beNat (b.take 32))
/-- Argument word `i`, zero when not given. -/
def argAt (a : List W64) (i : Nat) : W64 := a.getD i 0

/-! ### Registers of a core (`02` R29) -/

/-- General register `r`; g0 reads as zero. -/
def Core.rd (k : Core) (r : BitVec 5) : W64 := if r = 0 then 0 else Tab.get 0 k.g r.toNat
/-- A write to register `r`; writes to g0 are ignored. -/
def Core.wr (k : Core) (r : BitVec 5) (v : W64) : Core :=
  if r = 0 then k else { k with g := Tab.set 0 k.g r.toNat v }
/-- Predicate `p`; p0 reads as 1. -/
def Core.pr (k : Core) (p : BitVec 3) : Bool := if p = 0 then true else Tab.get false k.p p.toNat
/-- A write to predicate `p`; writes to p0 are ignored. -/
def Core.pw (k : Core) (p : BitVec 3) (v : Bool) : Core :=
  if p = 0 then k else { k with p := Tab.set false k.p p.toNat v }
/-- Sets sticky status bits (`05` R121). -/
def Core.raise (k : Core) (f : BitVec 16) : Core := { k with flags := k.flags ||| f }
/-- The open task, if one is (`02` R38). -/
def Core.openTask (k : Core) : Option Task := k.tasks.find? fun t => t.isOpen
/-- A task by its serial, while the table holds it. -/
def Core.taskAt (k : Core) (id : Nat) : Option Task := k.tasks.find? fun t => t.id == id
/-- The generation stream of a task: that of its verdict fence, when it is speculative, and otherwise stream 0 (`10` R256,
log 24). -/
def streamFor (t : Option Task) : Nat :=
  match t with
  | some t => if t.hdr.spec then t.hdr.vfid % 256 else 0
  | none => 0
/-- The chain that a DMA engine, an initiator from 512 to 703, runs. -/
def State.chainAt (s : State) (init : Nat) : Option Chain :=
  (Tab.get [] (s.cluster ((init - 512) / 3)).dma ((init - 512) % 3)).head?
/-- The generation stream that an initiator works for: that of the task open on a core, or of the task that dispatched the
chain of a DMA engine. -/
def State.streamOf (s : State) (init : Nat) : Nat :=
  streamFor (if init < 512 then (s.core init).openTask
    else if init < 704 then (s.chainAt init).bind fun ch => ch.task.bind (s.core ch.core).taskAt else none)
/-- A task is speculative and unresolved (`02` R42). -/
def Task.unresolved (t : Task) : Bool := t.hdr.spec && t.verdict == .none
/-- Changes the task with serial `id`. -/
def Core.updTask (k : Core) (id : Nat) (f : Task → Task) : Core :=
  { k with tasks := k.tasks.map fun t => if t.id = id then f t else t }

/-! ### Registers and counters of BAR0 (`25`) -/

/-- Register block of port `p`. -/
def regPort (p : Nat) : Nat := 0x100000 + p * 0x10000
/-- MDDR of M-die `m`. -/
def regMddr (m : Nat) : Nat := 0x1000000 + m * 0x400000
/-- MUPD of M-die `m`. -/
def regMupd (m : Nat) : Nat := regMddr m + 0x100000
/-- MCRY of M-die `m`. -/
def regMcry (m : Nat) : Nat := regMddr m + 0x200000
/-- CCLU of cluster `n`. -/
def regCclu (n : Nat) : Nat := 0x2000000 + n / 8 * 0x400000 + n % 8 * 0x40000
/-- CDST of C-die `d`. -/
def regCdst (d : Nat) : Nat := 0x2000000 + d * 0x400000 + 0x200000
/-- Counter region of core `n` (`25` R564). -/
def regCore (n : Nat) : Nat := regCclu (n / 8) + 0x10000 + 0x2000 * (n % 8)
/-- Collective registers. -/
def regXcol : Nat := 0x40000
/-- PCIe registers. -/
def regXhif : Nat := 0x10000
/-- The mailbox. -/
def regYmbx : Nat := 0x230000

/-- A register held as a plain word. -/
def State.reg (s : State) (off : Nat) : W64 := Tab.get 0 s.regs off
/-- The state with such a register set. -/
def State.setReg (s : State) (off : Nat) (v : W64) : State :=
  { s with regs := Tab.set 0 s.regs off v }
/-- Adds `n` to the counter at `off` of the region whose CTL is at `ctl`. It wraps to zero
and sets CTL.WRAP (`25` R551, `08` R206). -/
def State.bumpAt (s : State) (ctl off n : Nat) : State :=
  let v := (s.reg off).toNat + n
  let s := s.setReg off (w64 v)
  if v < 2 ^ 64 then s else s.setReg ctl (s.reg ctl ||| 1)
/-- Adds `n` to counter `i` of a region that has its counters at +0x100 (`25`). -/
def State.bump (s : State) (base i n : Nat) : State := s.bumpAt base (base + 0x100 + 8 * i) n
/-- Adds `n` to counter `i` of core `c` (`25` R564). -/
def State.bumpCore (s : State) (c i n : Nat) : State := s.bump (regCore c) i n
/-- Adds 1 to a half of XGLB.ERRCNT, which wraps at its width (`25` R553): BADACC in the low
half, RSVW in the high half. -/
def State.badAcc (s : State) : State :=
  let v := (s.reg 0x10).toNat
  s.setReg 0x10 (w64 (v / 2 ^ 32 * 2 ^ 32 + (v + 1) % 2 ^ 32))
/-- Counts a non-zero write to an RSV field (`00` R8). -/
def State.rsvWrite (s : State) : State := s.setReg 0x10 (s.reg 0x10 + 0x100000000#64)
/-- Key of a counter kept per kind, context and stream. Kind 63 is the wrap bit of a context's counters. -/
def cntKey (kind ctx stream : Nat) : Nat := (kind * 4096 + ctx) * 256 + stream
/-- Adds to a counter kept per kind, context and stream; one that wraps sets the wrap bit of the context's counters
(`08` R206, `10` R256, log 53). -/
def State.bumpCtx (s : State) (kind ctx stream n : Nat) : State :=
  let v := (Tab.get 0 s.ctxCnt (cntKey kind ctx stream)).toNat + n
  let t := Tab.set 0 s.ctxCnt (cntKey kind ctx stream) (w64 v)
  { s with ctxCnt := if v < 2 ^ 64 then t else Tab.set 0 t (cntKey 63 ctx 0) 1 }

/-! ### Phases and markers (`09` R239, `17` R423, R424) -/

/-- The counters of a context as they stand: those of its cores summed, those kept for it by kind and stream, and the time of
its tasks by their TAG under key 65,536 + TAG. -/
def State.countersOf (s : State) (c : Nat) : Tab W64 :=
  let cores := (List.range 24).foldl (fun t i =>
    Tab.set 0 t i (((s.ctxCores c).map fun n => s.reg (regCore n + 0x100 + 8 * i)).sum)) ([] : Tab W64)
  let all := (s.ctxCnt.filter fun e => e.1 / 256 % 4096 == c && e.1 / 2 ^ 20 < 63).foldl (fun t e =>
    Tab.set 0 t (1000 + e.1 / 2 ^ 20 * 256 + e.1 % 256) e.2) cores
  (s.ctx c).tagTime.foldl (fun t e => Tab.set 0 t (65536 + e.1) e.2) all
/-- A marker ends a phase of a context, once it has lasted 1 ms (R424). -/
def State.closePhase (s : State) (c : Nat) : State :=
  if (s.now - (s.ctx c).phase).toNat < 1000000 then s
  else
    let snap := s.countersOf c
    s.updCtx c fun k => { k with phase := s.now, snap := snap }
/-- Phase marker `i` of step t takes a time, while the row of t is kept: the earliest time of its event (R239). -/
def State.markAt (s : State) (t i : Nat) (w : W64) : State :=
  let key := 64 * (t % 16) + i
  if Tab.get 0 s.markers key ≠ 0 || (t != s.learn.t && Tab.get 0 s.markers (1024 + t % 16) != w64 t) then s
  else ({ s with markers := Tab.set 0 s.markers key w }).closePhase s.learn.ctx
/-- Phase marker `i` of step t now. -/
def State.markOf (s : State) (t i : Nat) : State := s.markAt t i s.now
/-- The row of a step: rewritten when the step opens (`25` R563). -/
def State.startRow (s : State) (t : Nat) : State :=
  let row := t % 16
  if Tab.get 0 s.markers (1024 + row) = w64 t then s
  else { s with markers := Tab.set 0 (Tab.drop s.markers fun k => k / 64 == row) (1024 + row) (w64 t) }
/-- The step that the program works on: one that has been opened while the last one drains, or the open one (`09` R209). -/
def Learn.latestT (l : Learn) : Nat := match l.nextOpen with | some x => x.1 | none => l.t
/-- Phase marker `i` of the open step. -/
def State.mark (s : State) (i : Nat) : State := s.markOf s.learn.t i
/-- A task of a context begins whose TAG is that of a program marker, 0xFFE0 to 0xFFFF (R239). -/
def State.programMark (s : State) (c tag : Nat) : State :=
  if tag < 0xFFE0 then s
  else if s.learn.bound && s.learn.ctx == c then s.markOf s.learn.latestT (32 + (tag - 0xFFE0))
  else s.closePhase c

/-! ### IDE streams of the function's own requests (`13` R338, R339) -/

/-- A DWORD of configuration space that holds its difference from its reset value (log 6). -/
def Pcie.cfgVal (p : Pcie) (o init : Nat) : Nat := init ^^^ leNat (bytesAt p.cfg o 4)
/-- First register of selective IDE stream `i` (log 6). -/
def ideRegs (i : Nat) : Nat := 0x28C + 0x44 * i
/-- Address block `j` of an IDE stream holds an address. -/
def Pcie.ideHolds (p : Pcie) (a i j : Nat) : Bool :=
  let b := ideRegs i + 20 + 12 * j
  let x := p.cfgVal b 0
  x.testBit 0 && p.cfgVal (b + 8) 0 * 2 ^ 32 + x / 2 ^ 8 % 2 ^ 12 * 2 ^ 20 ≤ a &&
    a ≤ p.cfgVal (b + 4) 0 * 2 ^ 32 + x / 2 ^ 20 * 2 ^ 20 + 0xFFFFF
/-- The IDE stream on which a request to a host address is sent: the lowest enabled one whose association it matches; none in
clear. -/
def Pcie.ideFor (p : Pcie) (a : Nat) : Option Nat :=
  (List.range 4).find? fun i => (p.cfgVal (ideRegs i + 4) 0).testBit 0 && (List.range 4).any (p.ideHolds a i)
/-- A request to a host address is dropped: its stream is Insecure. -/
def Pcie.dropped (p : Pcie) (a : Nat) : Bool :=
  match p.ideFor a with
  | some i => (Tab.get {} p.ide i).insecure
  | none => false

/-! ### Interrupts and events -/

/-- Marks a message due on an MSI-X vector (`14` R361, `25` R554). -/
def State.msgDue (s : State) (vec : Nat) : State :=
  { s with pcie := { s.pcie with
      msix := Tab.upd {} s.pcie.msix vec fun e => { e with due := true } } }
/-- Sets a bit of XGLB.IRQ, 0 SENT to 3 MGMT, which sends a message on the vector of the
same number (`25` R553, R554). -/
def State.irq (s : State) (b : Nat) : State :=
  (s.setReg 0x28 (s.reg 0x28 ||| at64 1 b)).msgDue b

/-- Records that a ring can take now (`14` R360). -/
def Ring.space (r : Ring) : Bool := (r.n - r.head).toNat < 2 ^ r.log
/-- One record written to host memory, its SEQ filled in (`14` R360). -/
def Ring.put (r : Ring) (host : Tab Byte) (e : List W64) : Ring × Tab Byte :=
  let e' := [argAt e 0, argAt e 1 ||| w64 r.n.toNat, argAt e 2, argAt e 3]
  ({ r with n := r.n + 1 },
    putBytes host (r.base.toNat + 32 * (r.n.toNat % 2 ^ r.log)) (wordBytes e'))
/-- Writes waiting records, oldest first, while the ring has space. -/
def Ring.drain : List (List W64) → Ring → Tab Byte → Ring × Tab Byte
  | [], r, h => ({ r with wait := [] }, h)
  | e :: es, r, h =>
      if r.space then (match r.put h e with | (r', h') => Ring.drain es r' h')
      else ({ r with wait := e :: es }, h)
/-- Drains the ring; once waiting room has returned, one OVERFLOW record with the count
dropped goes before any later record (`14` R360). -/
def Ring.flush (r : Ring) (h : Tab Byte) (ovf : List W64) : Ring × Tab Byte :=
  match Ring.drain r.wait r h with
  | (r, h) =>
      if r.dropped = 0 ∨ 64 ≤ r.wait.length then (r, h)
      else Ring.drain (r.wait ++ [ovf.set 2 (w64 r.dropped)]) { r with dropped := 0 } h
/-- Adds a record: up to 64 wait, and further ones are dropped and counted (`14` R360). -/
def Ring.push (r : Ring) (h : Tab Byte) (e ovf : List W64) : Ring × Tab Byte :=
  if !r.v then (r, h)
  else Ring.flush (if r.wait.length < 64 ∧ r.dropped = 0 then { r with wait := r.wait ++ [e] }
    else if r.wait.length < 64 then { r with wait := r.wait ++ [ovf.set 2 (w64 r.dropped), e], dropped := 0 }
    else { r with dropped := r.dropped + 1 }) h ovf

/-- Words of an event record, SEQ left zero (`14` R360). -/
def evRec (cookie : W64) (ctx kind : Nat) (data time : W64) : List W64 :=
  [cookie, at64 ctx 52 ||| at64 kind 32, data, time]
/-- Stores a context's ring and marks its vector due when a record was written. -/
def State.putRing (s : State) (c : Nat) (old : Ring) (r : Ring × Tab Byte) : State :=
  let s := ({ s with hostMem := if s.pcie.dropped old.base.toNat then s.hostMem else r.2 }).updCtx c fun k => { k with ring := r.1 }
  if r.1.n = old.n then s else s.msgDue r.1.vec
/-- An event on a context's ring (`14` R360). In Sentinel mode no record is written (`20` R464). -/
def State.event (s : State) (c kind : Nat) (cookie data : W64) : State :=
  let r := (s.ctx c).ring
  if s.dev == .sentinel then s
  else s.putRing c r (r.push s.hostMem (evRec cookie c kind data s.now)
    (evRec (s.ctx c).dcookie c 4 0 s.now))
/-- The event with the context's DCOOKIE. -/
def State.ctxEvent (s : State) (c kind : Nat) (data : W64) : State :=
  s.event c kind (s.ctx c).dcookie data
/-- Stores the device ring. -/
def State.putDevRing (s : State) (r : Ring × Tab Byte) : State :=
  let old := s.devRing
  let s := { s with hostMem := if s.pcie.dropped old.base.toNat then s.hostMem else r.2, devRing := r.1 }
  if r.1.n = old.n then s else s.msgDue r.1.vec
/-- A device-level event (`14` R360). In Sentinel mode no record is written (`20` R464). -/
def State.devEvent (s : State) (kind : Nat) (data : W64) : State :=
  if s.dev == .sentinel then s
  else s.putDevRing (s.devRing.push s.hostMem (evRec 0 0 kind data s.now) (evRec 0 0 4 0 s.now))
/-- A LINK event, which also sets XGLB.IRQ.LINK (`14` R360, `25` R553); port 0xFF is PCIe. -/
def State.linkEvent (s : State) (port : Nat) : State := (s.devEvent 0x41 (at64 port 56)).irq 2

/-! ### Fences (`14` R355–R359) -/

/-- A context may wait on and read a fence (R358). -/
def State.mayWait (s : State) (c f : Nat) : Bool :=
  let k := s.fence f
  k.v && (k.owner == some c || k.grants.any fun g => g.ctx == c && g.w)
/-- A context may signal a fence (R358). -/
def State.maySignal (s : State) (c f : Nat) : Bool :=
  let k := s.fence f
  k.v && (k.owner == some c || k.grants.any fun g => g.ctx == c && g.s)
/-- A context owns a fence. -/
def State.owns (s : State) (c f : Nat) : Bool := (s.fence f).v && (s.fence f).owner == some c
/-- A fence whose owner is gone returns to the free pool with its last grant (R362). -/
def Fence.reap (k : Fence) : Fence := if k.v && k.owner.isNone && k.grants.isEmpty then {} else k
/-- A fence holds at least a value, compared unsigned (R357). -/
def State.reached (s : State) (f : Nat) (v : W64) : Bool := v.toNat ≤ (s.fence f).val.toNat
/-- A signal leaves for the fence unit (R356): status 0 OK, 1 DISCARD, 2 ERROR. -/
def State.signal (s : State) (f : Nat) (v : W64) (stat : Nat) : State :=
  { s with sigQ := s.sigQ ++ [{ fid := f, val := v, stat := stat }] }

/-! ### Failure records (`20` R476) -/

/-- Writes a signature to the next slot of the log store (`20` R476, `25` R561). -/
def State.logSig (s : State) (e : Cper) : State :=
  let r := s.ras
  { s with ras := { r with
      log := Tab.set none r.log (r.nextId.toNat % 2048)
        (some { e with id := r.nextId.toNat, tether := s.now })
      nextId := r.nextId + 1 } }

end Sys2Proof.Machine
end

