-- ==== Sys2Proof/Machine/Mem.lean ====
section
/-! DEFINITION. Device addresses, context translation, the access tables and the service of
reads and writes in every tier (`07_memory_tiers`, `16_inline_crypto`). -/

namespace Sys2Proof.Machine

/-- How an access ends: with a value, with the loss of its context under a cause code, or
not yet, when it has to wait. -/
inductive Res (α : Type)
  /-- It is done. -/
  | ok (s : State) (a : α)
  /-- The context is lost with this cause code. -/
  | lost (s : State) (cause : Nat)
  /-- It waits; what it has counted is in the state. -/
  | wait (s : State)

/-- Continues with a value. -/
def Res.bind {α β : Type} (r : Res α) (f : State → α → Res β) : Res β :=
  match r with
  | .ok s a => f s a
  | .lost s c => .lost s c
  | .wait s => .wait s

/-! ### The device address map (R158–R160) -/

/-- What a device address names. -/
inductive Space
  /-- The D-stack of a C-die. -/
  | d (die : Nat)
  /-- The L-tier range of an M-die. -/
  | l (m : Nat)
  /-- The H-tier. -/
  | h
  /-- The P-tier. -/
  | p
  /-- A core's stores, by core and local offset. -/
  | sram (core off : Nat)
  /-- Internal registers. -/
  | regs
  /-- Nothing. -/
  | none
  deriving DecidableEq, Repr

/-- Bytes of an M-die's populated range (R160). -/
def State.lSize (s : State) : Nat := match s.code with | .s8x1t0f16 => 2 ^ 38 | _ => 2 ^ 39
/-- Bytes of its integrity region (`16` R392). -/
def State.iSize (s : State) : Nat := match s.code with | .s8x1t0f16 => 2 ^ 32 | _ => 2 ^ 33

/-- The space of a device address (R158–R160, `02` R34). -/
def State.space (s : State) (da : Nat) : Space :=
  if da < 0xC000000000 then
    (if s.dieFitted (da / 0x1800000000) then .d (da / 0x1800000000) else .none)
  else if 0x100000000000 ≤ da ∧ da < 0x120000000000 then
    (if da % 2 ^ 39 < s.lSize then .l ((da - 0x100000000000) / 2 ^ 39) else .none)
  else if 0x400000000000 ≤ da ∧ da < 0x800000000000 then .h
  else if 0x800000000000 ≤ da ∧ da < 0xC00000000000 then .p
  else if 0xF00000000000 ≤ da ∧ da < 0xF00100000000 then
    .sram ((da - 0xF00000000000) / 0x800000) (da % 0x800000)
  else if 0xFF0000000000 ≤ da ∧ da < 0x1000000000000 then .regs
  else .none

/-- Fields of an H-tier window's first word (R177). -/
def HWin.v (w : HWin) : Bool := bit w.w0 63
/-- Paged. -/
def HWin.paged (w : HWin) : Bool := bit w.w0 62
/-- log₂ of the size. -/
def HWin.size (w : HWin) : Nat := fld w.w0 59 54
/-- Owning context. -/
def HWin.ctx (w : HWin) : Nat := fld w.w0 53 42
/-- First device address. -/
def HWin.base (w : HWin) : Nat := fld w.w0 31 0 * 2 ^ 16
/-- A window covers a device address. -/
def HWin.covers (w : HWin) (da : Nat) : Bool :=
  w.v && w.base ≤ da && da < w.base + 2 ^ w.size

/-- The valid window that covers an H-tier address. -/
def State.hwinAt (s : State) (da : Nat) : Option Nat :=
  (Tab.keys s.hwins).find? fun w => (Tab.get {} s.hwins w).covers da
/-- The valid pool-map entry that covers a P-tier address (R179). -/
def State.pmapAt (s : State) (da : Nat) : Option PoolMap :=
  ((s.poolMap.map Prod.snd).find? fun e => e.v && e.base ≤ da && da < e.base + 2 ^ e.size)
/-- The port that carries P-tier traffic of an entry: the lowest of its ports that is UP. -/
def State.egress (s : State) (e : PoolMap) : Option Nat :=
  (List.range 16).find? fun p => e.ports.testBit p && (s.port p).st == .up
/-- The entry of a page list at a device address: from the host-page cache, or read (R177). -/
def State.listEntry (s : State) (a : Nat) : Nat :=
  match s.hostPages.find? fun e => e.1 == a with
  | some e => e.2
  | none => leNat (bytesAt s.mem a 8)
/-- The page-list entry of an H-tier address in a paged window joins the host-page cache of 16,384 entries (R177). -/
def State.keepHost (s : State) (da : Nat) : State :=
  match s.hwinAt da with
  | none => s
  | some w =>
      let win := Tab.get {} s.hwins w
      let a := win.w1.toNat + 8 * ((da - win.base) / 4096)
      if !win.paged || s.hostPages.any fun e => e.1 == a then s
      else { s with hostPages := ((a, s.listEntry a) :: s.hostPages).take 16384 }
/-- Cached entries of a page list that a write covers are dropped (log 56). -/
def State.dropHost (s : State) (da n : Nat) : State :=
  if s.hostPages.isEmpty then s
  else { s with hostPages := s.hostPages.filter fun e => !(e.1 < da + n && da < e.1 + 8) }
/-- Host bus address of byte `x` of a window and the metadata area behind its data, when its page is mapped (R177, `16`
R400). -/
def State.hostAt (s : State) (w x : Nat) : Option Nat :=
  let win := Tab.get {} s.hwins w
  if !win.paged then some (win.w1.toNat + x)
  else
    let e := s.listEntry (win.w1.toNat + 8 * (x / 4096))
    if e % 2 = 1 then some (e / 4096 * 4096 + x % 4096) else none
/-- Host bus address of an H-tier address in its window, when its page is mapped (R177). -/
def State.hostAddr (s : State) (da : Nat) : Option Nat :=
  (s.hwinAt da).bind fun w => s.hostAt w (da - (Tab.get {} s.hwins w).base)
/-- Key of a P-tier address in the pool's memory: node and node address (R179). -/
def State.poolAddr (s : State) (da : Nat) : Option Nat :=
  (s.pmapAt da).map fun e => e.node * 2 ^ 48 + (e.nbase + (da - e.base)) % 2 ^ 48

/-- A device address that a page may name (R161): mapped, and no internal register. -/
def State.pageable (s : State) (da : Nat) : Bool :=
  match s.space da with
  | .none => false
  | .regs => false
  | .h => (s.hostAddr da).isSome
  | .p => (s.pmapAt da).isSome
  | _ => true

/-! ### Targets and access tables (R168–R172) -/

/-- The register block of a BAR0 offset, in the order of *BAR0 block map*: XGLB, XHIF, XSEC, XTET, XCOL, XPWR, XTHM,
XLOG, YMBX, the M-dies, the C-dies and the ports; none between them (`25` R547, R548). -/
def regBlock (x : Nat) : Option Nat :=
  if x < 0x50000 then some (x / 0x10000)
  else if 0x100000 ≤ x ∧ x < 0x200000 then some (21 + (x - 0x100000) / 0x10000)
  else if 0x200000 ≤ x ∧ x < 0x240000 then some (5 + (x - 0x200000) / 0x10000)
  else if 0x1000000 ≤ x ∧ x < 0x2000000 then some (9 + (x - 0x1000000) / 0x400000)
  else if 0x2000000 ≤ x ∧ x < 0x4000000 then some (13 + (x - 0x2000000) / 0x400000)
  else none
/-- BAR0 offset of an address in the internal-register space, which starts at 0xFF00_0000_0000 (`25` R547). -/
def regOff (da : Nat) : Nat := da % 2 ^ 40
/-- Targets: 0–7 bonded-DRAM controllers, 8–11 LPDDR6 controllers, 12–75 alias ports of clusters, 76–79 update units,
80 the PCIe egress, 81–96 fabric egresses, 97–133 the register blocks (R168). -/
def targetCount : Nat := 134
/-- The target of a device address; an update unit is reached by the blocks sent to it and not by an address. A P-tier
address with no pool-map entry, or none of whose ports is UP, is refused and counted at egress 0 (DESIGN CHOICE, log 10). -/
def State.targetOf (s : State) (da : Nat) : Option Nat :=
  match s.space da with
  | .d c => some c
  | .l m => some (8 + m)
  | .sram c _ => some (12 + c / 8)
  | .h => some 80
  | .p => some (81 + ((s.pmapAt da).bind s.egress).getD 0)
  | .regs => (regBlock (regOff da)).map (97 + ·)
  | .none => none

/-- The owner word of FREE granules. -/
def ownFree : BitVec 16 := 0x8000

/-- The owner word that a target's active table gives for an address (R168); that of an alias port is the context
that holds its cluster. None where a window or a pool-map entry is missing. -/
def State.ownerAt (s : State) (da : Nat) : Option (BitVec 16) :=
  match s.space da with
  | .d c => some (Tab.get ownFree (s.target c).ownA (da / 0x200000))
  | .l m => some (Tab.get ownFree (s.target (8 + m)).ownA (da / 0x200000))
  | .sram c _ => some (if (s.cluster (c / 8)).held then BitVec.ofNat 16 (s.cluster (c / 8)).ctx else ownFree)
  | .h => (s.hwinAt da).map fun w => BitVec.ofNat 16 (Tab.get {} s.hwins w).ctx
  | .p => (s.pmapAt da).map fun e => BitVec.ofNat 16 e.ctx
  | .regs => some ownFree
  | .none => none

/-- Initiators whose requests carry the context they are made for (R170), and the PCIe function,
whose aperture windows each name one (`13` R327). -/
def carries (init : Nat) : Bool :=
  init == 724 || init == 726 || (739 ≤ init && init ≤ 748)

/-- The context under which a request is checked. -/
def State.reqCtx (s : State) (t init ctx : Nat) : Nat :=
  if carries init then ctx else (Tab.get {} (s.target t).initA init).ctx

/-- A donated region covers a device address (R180). -/
def Donation.covers (d : Donation) (da : Nat) : Bool :=
  let g := da / 0x200000
  let base := (0x100000000000 + d.m * 2 ^ 39) / 0x200000 + d.first
  d.v && base ≤ g && g < base + d.n
/-- The donation of a granule grants an access (R170, R180). -/
def State.donGrants (s : State) (da : Nat) (write : Bool) : Bool :=
  s.donations.any fun e => e.2.covers da && if write then e.2.w else e.2.r
/-- Whether a target admits an access (R170). The nodes of a donation are checked where the request names
its node (`11` R282). A link port, whose entry
has no context of its own, reaches granules marked DON and no others. ANY stands above the page owner of a POOL granule,
and a POOL or DON granule has its own owner in place of CTX (DEDUCED, log 10). -/
def State.admits (s : State) (init ctx da : Nat) (write walk : Bool) : Bool :=
  match s.targetOf da, s.ownerAt da with
  | some t, some own =>
      let e := Tab.get {} (s.target t).initA init
      let c := s.reqCtx t init ctx
      let pool := bit own 14
      let don := bit own 12
      e.v && (if write then e.w else e.r) &&
        (e.any || (!bit own 15 && (pool || don || fld own 11 0 == c))) &&
        (!pool || e.any || (Tab.get {} s.pages (da / 0x10000)).owner == some c) &&
        (!bit own 13 || walk || init == 725) &&
        (don == (708 ≤ init && init ≤ 723)) && (!don || s.donGrants da write)
  | _, _ => false

/-- A denial counted at its target (R172, `25` R558, R562). -/
def State.denied (s : State) (da : Nat) : State :=
  match s.targetOf da with
  | none => s
  | some t =>
      let s := s.updTarget t fun k => { k with denials := k.denials + 1 }
      if t < 8 then s.bumpAt (regCdst t) (regCdst t + 0x840) 1
      else if 81 ≤ t ∧ t < 97 then s.bump (regPort (t - 81)) 14 1
      else s

/-! ### Keys of a context (`15` R374, R376, R378) -/

/-- A slot is usable: VALID, and its parent usable with the GEN it recorded, over at most
three links (`15` R374). -/
def State.usable (s : State) : Nat → Nat → Bool
  | 0, _ => false
  | k + 1, i =>
      let x := s.kslot i
      x.st == .valid &&
        (i == 0 || i == 3 || ((s.kslot x.parent).gen == x.pgen && State.usable s k x.parent))
/-- A request of the key engine that names slot `i` is served: its chain holds, and its USE bit is set: 0 derive, 1 memory,
2 sign, 3 unwrap (`15` R374). -/
def State.serves (s : State) (i use : Nat) : Bool := s.usable 4 i && (s.kslot i).use.testBit use
/-- The keys of a context can be derived: a memory request that names its JOBMEM slot is served (`15` R374, R376). -/
def State.keyOk (s : State) (c : Nat) : Bool :=
  match (s.ctx c).keySlot with
  | none => false
  | some (i, g) => (s.kslot i).gen == g && s.usable 3 i && (s.kslot i).use.testBit 1

/-! ### Service (R174, `16` R385–R398) -/

/-- Pseudo-channel of a D-stack offset (R173). -/
def dPc (o : Nat) : Nat := (o / 2 ^ 8 % 64) ^^^ (o / 2 ^ 14 % 64) ^^^ (o / 2 ^ 20 % 64) ^^^ (o / 2 ^ 26 % 64)
/-- Layer-bank of a D-stack offset (R173). -/
def dBank (o : Nat) : Nat := (o / 2 ^ 14 % 64) ^^^ (o / 2 ^ 23 % 64) ^^^ (o / 2 ^ 32 % 32)
/-- Row of a D-stack offset in its bank, 0 to 12,287 (R173). -/
def dRow (o : Nat) : Nat := o / 2 ^ 23 % 2 ^ 14
/-- Unit of 256 B of a D-stack offset within its row of 2 KiB (R173). -/
def dUnit (o : Nat) : Nat := o / 2 ^ 20 % 8
/-- Channel of an L-tier offset (R176). -/
def lChan (o : Nat) : Nat :=
  (o / 2 ^ 8 % 16) ^^^ (o / 2 ^ 12 % 16) ^^^ (o / 2 ^ 16 % 16) ^^^ (o / 2 ^ 20 % 16)

/-! ### Rekey jobs (`16` R398, R401) -/

/-- The owner word of a granule that a context holds by itself, and neither in a pool nor donated. -/
def ownedBy (own : BitVec 16) (c : Nat) : Bool :=
  !bit own 15 && !bit own 14 && !bit own 12 && fld own 11 0 == c
/-- Ranges of device addresses that a context holds at a controller: 0–7 D-stacks, 8–11 M-dies, 12 the
H-tier. -/
def State.rangesAt (s : State) (c t : Nat) : List (Nat × Nat) :=
  if t < 12 then
    ((s.target t).ownA.filter fun e => ownedBy e.2 c).map (fun e => (2 ^ 21 * e.1, 2 ^ 21)) ++
      (s.pages.filter fun e => e.2.owner == some c && s.targetOf (2 ^ 16 * e.1) == some t).map
        fun e => (2 ^ 16 * e.1, 2 ^ 16)
  else (s.hwins.filter fun e => e.2.v && e.2.ctx == c).map fun e => (e.2.base, 2 ^ e.2.size)
/-- The first address at or above `b` that a context holds at a controller. -/
def State.nextHeld (s : State) (c t b : Nat) : Option Nat :=
  (((s.rangesAt c t).filter fun r => b < r.1 + r.2).map fun r => max b r.1).min?
/-- The next job queued on a controller begins, when it runs none. -/
def State.startJob (s : State) (t : Nat) : State :=
  if (Tab.get {} s.rekeyJobs t).act then s
  else match s.rekeyQ.find? fun q => q.1 == t with
    | none => s
    | some (_, c) =>
        { s with
          rekeyQ := s.rekeyQ.erase (t, c)
          rekeyJobs := Tab.set {} s.rekeyJobs t
            { act := true, ctx := c, b := (s.nextHeld c t 0).getD (2 ^ 48) } }
/-- A refused request of the key engine, counted (`15` R384). -/
def State.keyRefused (s : State) : State :=
  { s with keys := { s.keys with refusals := s.keys.refusals + 1 } }
/-- A context is queued for a rekey at every controller where it holds memory; a context at epoch
2³² − 1 is refused and counted, and one whose rekey runs is not queued again (`15` R371, log 21). -/
def State.queueRekey (s : State) (c : Nat) : State :=
  let k := s.ctx c
  if k.rekey.isSome then s
  else if 2 ^ 32 - 1 ≤ k.epoch then s.keyRefused
  else
    let ts := (List.range 13).filter fun t => !(s.rangesAt c t).isEmpty
    if ts.isEmpty then s.updCtx c fun k => { k with epoch := k.epoch + 1 }
    else
      let s := { s.updCtx c (fun k => { k with rekey := some ts }) with
        rekeyQ := s.rekeyQ ++ ts.map fun t => (t, c) }
      ts.foldl State.startJob s

/-! ### Counters of lines (`16` R388, R397, R398) -/

/-- The context that holds the granule of a device address: its owner, or in a pool the owner of the page. -/
def State.holderAt (s : State) (da : Nat) : Option Nat :=
  match s.ownerAt da with
  | none => none
  | some w => if bit w 15 || bit w 12 then none
      else if bit w 14 then (Tab.get {} s.pages (da / 2 ^ 16)).owner else some (fld w 11 0)
/-- The major counter of the page of a device address: in the H-tier it stands above the base B_w of its window (R392, R400,
log 11), and where a rekey moves the page it is 0 below the boundary (R401). -/
def State.majorAt (s : State) (da : Nat) : Nat :=
  let t := match s.space da with | .l m => 8 + m | _ => 12
  let j := Tab.get {} s.rekeyJobs t
  (match s.space da with
    | .h => 2 ^ 40 * ((s.hwinAt da).map fun w => Tab.get 0 s.hwBase w).getD 0
    | _ => 0) + if j.act && da < j.b && j.b / 4096 == da / 4096 then 0 else Tab.get 0 s.major (da / 4096)
/-- The end of the major counters of a tier, in the H-tier above B_w (R398). -/
def majorLimit (m : Option Nat) : Nat := match m with | some _ => 2 ^ 64 - 1 | none => 2 ^ 40 - 1
/-- A major counter that has reached its end queues the owning context for a rekey (R398). -/
def State.majorDue (s : State) (page : Nat) (m : Option Nat) : State :=
  if Tab.get 0 s.major page != majorLimit m then s
  else match s.holderAt (4096 * page) with
    | some c => s.queueRekey c
    | none => s
/-- Writes of one line of counter mode: the minor counter is raised, and at 127 the page is
re-encrypted under the next major counter, within the step (`16` R388, R397, log 41). The major counter of an H-tier
page is held above its window's B_w (log 11). -/
def State.countLine (s : State) (line : Nat) (m : Option Nat) : State :=
  let n := Tab.get 0 s.lines line
  if n < 127 then { s with lines := Tab.set 0 s.lines line (n + 1) }
  else
    let page := line / 32
    let s := { s with
      major := Tab.upd 0 s.major page (· + 1)
      lines := (List.range 32).foldl (fun t i =>
        Tab.upd 0 t (32 * page + i) fun x => if x = 0 then 0 else 1) s.lines }
    (match m with
    | some m => s.bump (regMcry m) 3 1
    | none => s).majorDue page m
/-- Counts the writes of every line that `n` bytes at `da` touch. -/
def State.countLines (s : State) (da n : Nat) (m : Option Nat) : State :=
  (List.range ((da + n + 127) / 128 - da / 128)).foldl
    (fun s i => s.countLine (da / 128 + i) m) s
/-- A write of the range would overflow a minor counter under a major counter at its end
(`16` R398). -/
def State.majorEnd (s : State) (da n limit : Nat) : Bool :=
  (List.range ((da + n + 127) / 128 - da / 128)).any fun i =>
    Tab.get 0 s.lines (da / 128 + i) == 127 &&
      Tab.get 0 s.major ((da / 128 + i) / 32) == limit

/-- Run-ahead lines of a C-die that a write invalidates (`08` R204). -/
def State.dropRun (s : State) (da n : Nat) : State :=
  if s.runAhead.isEmpty then s
  else { s with runAhead := s.runAhead.map fun e =>
    (e.1, e.2.map fun x => { x with
      data := Tab.drop x.data fun a => da / 64 ≤ a / 64 && a / 64 ≤ (da + n - 1) / 64 }) }

/-! ### Requests outside the module (R178, `11` R279, R280, `13` R330) -/

/-- A write of an H-tier line waits while a read of it has not ended (R178). -/
def State.hostBusy (s : State) (da n : Nat) (write : Bool) : Bool :=
  write && s.pcie.reqs.any fun r => da / 64 ≤ (r.da + r.len - 1) / 64 && r.da / 64 ≤ (da + n - 1) / 64
/-- The pool node that a request goes to (`11` R278, `19` R439). -/
def State.reqNode (s : State) (r : PoolReq) : Option Nat :=
  match r.store with
  | some d => some d.node
  | none => (s.pmapAt r.da).map (·.node)
/-- A request of one line range waits for an earlier one that has not been answered: a read for a write of a
line, a write for a read or a write of it (`11` R280). -/
def State.poolBusy (s : State) (node addr nl : Nat) (write : Bool) : Bool :=
  s.poolReqs.any fun r =>
    (write || r.opc == 0x03 || r.opc == 0x04 || r.opc == 0x05) &&
      s.reqNode r == some node &&
      addr / 128 < r.addr / 128 + max 1 r.nl && r.addr / 128 < addr / 128 + max 1 nl
/-- The fabric tags that a context may hold: all 16,384, or under strict partition its share by
clusters (`11` R279, `08` R196). -/
def State.tagShare (s : State) (c : Nat) : Nat :=
  if s.pw.strict then
    16384 * (s.ctxClusters c).length / max 1 (s.clusters.filter fun e => e.2.held).length
  else 16384
/-- The fabric tag that a request takes, the lowest free one; none when it has to wait (`11` R279). -/
def State.poolTag (s : State) (port c : Nat) : Option Nat :=
  let held := s.poolReqs.filter fun r => r.waits != 2
  if 4096 ≤ (held.filter fun r => r.port == port && r.waits == 0).length then none
  else if s.tagShare c ≤ (held.filter fun r => r.ctx == c).length then none
  else ((held.map (·.tag)).foldl (fun (l : List Nat) t => l.erase t) (List.range 16384)).head?
/-- The host tag that a request takes, the lowest free one; none when it has to wait (`13` R330). -/
def State.hostTag (s : State) : Option Nat :=
  ((s.pcie.reqs.map (·.tag)).foldl (fun (l : List Nat) t => l.erase t) (List.range 8192)).head?

end Sys2Proof.Machine
end

