-- ==== Sys2Proof/Machine/Integ.lean ====
section
/-! DEFINITION. MACs, and the counter lines and tree nodes of an M-die: what they hold, and where they are stored
(`15` R379, `16` R386, R391–R396). -/

namespace Sys2Proof.Machine

/-! ### MACs (R386) -/

/-- The key value that a slot holds: the XOR of its shares (R379). -/
def KSlot.value (k : KSlot) : BitVec 256 := k.s1 ^^^ k.s2
/-- A block as 16 bytes, byte 0 in the most significant place. -/
def cipherBlock (b : List Byte) : BitVec 128 := BitVec.ofNat 128 (beNat ((b ++ List.replicate 16 0).take 16))
/-- The 16 bytes of a block. -/
def cipherBytes (x : BitVec 128) : List Byte := beBytes 16 x.toNat
/-- Doubling in the CMAC subkey derivation (NIST SP 800-38B). -/
def cmacDbl (x : BitVec 128) : BitVec 128 := if x.msb then x <<< 1 ^^^ 0x87 else x <<< 1
/-- SM4-CMAC of whole blocks, their number not zero (R386). -/
def cmac (k : BitVec 128) (m : List Byte) : BitVec 128 :=
  let n := m.length / 16
  let k1 := cmacDbl (Config.sm4 k 0)
  (List.range n).foldl (fun x i =>
    let b := cipherBlock (m.drop (16 * i))
    Config.sm4 k (x ^^^ (if i + 1 = n then b ^^^ k1 else b))) 0
/-- The MAC of a unit: 8 B over its header and its stored bytes (R386). -/
def macOf (k : BitVec 128) (addr ctr min tier : Nat) (stored : List Byte) : List Byte :=
  (cipherBytes (cmac k (leBytes 8 addr ++ leBytes 8 ctr ++ leBytes 1 min ++ leBytes 1 tier ++ List.replicate 14 0 ++
    stored))).take 8

/-! ### Units of the integrity structures (R392–R396) -/

/-- Key of a version: unit, level (0 a counter line) and index (`16` R393). -/
def versionKey (m lvl i : Nat) : Nat := 2 ^ 64 * m + 2 ^ 40 * lvl + i
/-- Counter lines of an M-die: one for two pages of its protected data (R392). -/
def State.cntLines (s : State) : Nat := (s.lSize - s.iSize) / 8192
/-- Units of a level of a tree over `n` counter lines: these at level 0, and above it a node for every 8 units below (R393). -/
def nodesOf (n : Nat) : Nat → Nat
  | 0 => n
  | l + 1 => ceilDiv (nodesOf n l) 8
/-- The index of node (ℓ, i) in a copy of the tree: S_ℓ + i (R394). -/
def nodeIdx (n lvl i : Nat) : Nat := ((List.range (lvl - 1)).map fun j => nodesOf n (j + 1)).sum + i
/-- The level of a tree whose node count is at most 8: its versions are the root's (R393). -/
def treeTop (n : Nat) : Nat := ((List.range 9).find? fun l => 1 ≤ l && nodesOf n l ≤ 8).getD 8
/-- The page whose counter block comes first in a unit's tree: of an M-die, or of H-tier window w as unit 0x1000 + w (R386). -/
def State.firstPage (s : State) (u : Nat) : Nat :=
  (if u < 0x1000 then 0x100000000000 + 2 ^ 39 * u else (Tab.get {} s.hwins (u - 0x1000)).base) / 4096
/-- The C-die whose D-stack has the integrity area of an M-die: the lower-numbered enabled one of the two bridled to it
(R394). -/
def State.integDie (s : State) (m : Nat) : Nat := if s.dieFitted (2 * m) then 2 * m else 2 * m + 1
/-- First device address of the integrity region of an M-die (R392). -/
def State.regionBase (s : State) (m : Nat) : Nat := 0x100000000000 + 2 ^ 39 * m + (s.lSize - s.iSize)
/-- The counter block of a page, by DA / 4 KiB (*Counter block*). -/
def State.counterBlock (s : State) (page : Nat) : List Byte :=
  leBytes 8 (s.majorAt (4096 * page)) ++
    leBytes 28 ((List.range 32).map fun n => Tab.get 0 s.lines (32 * page + n) * 2 ^ (7 * n)).sum ++ List.replicate 28 0
/-- The contents of a unit: a counter line of two blocks, or a node of 8 versions of 56 bits (R392, R393). -/
def State.unitBytes (s : State) (m lvl i : Nat) : List Byte :=
  if lvl = 0 then
    let p := s.firstPage m + 2 * i
    s.counterBlock p ++ s.counterBlock (p + 1)
  else ((List.range 8).flatMap fun c => leBytes 7 (Tab.get 0 s.versions (versionKey m (lvl - 1) (8 * i + c)))) ++ List.replicate 8 0
/-- The MAC of a unit that holds `b`, under bits [255:128] of K_MR and its version in its parent (R386, R391). -/
def State.unitMac (s : State) (m lvl i : Nat) (b : List Byte) : List Byte :=
  macOf (BitVec.ofNat 128 ((s.kslot 3).value.toNat / 2 ^ 128))
    (if lvl = 0 then s.regionBase m + 128 * i else 2 ^ 63 + 2 ^ 48 * m + 2 ^ 40 * lvl + i)
    (Tab.get 0 s.versions (versionKey m lvl i)) 0 (if lvl = 0 then 5 else 6) b
/-- Tree copies A and B of an integrity area (R394). -/
def copyA : Nat := 0x1F8000000
/-- Tree copy B. -/
def copyB : Nat := 0x21C000000
/-- Key of a unit in the integrity area of a C-die's D-stack: its offset there, under 2³⁴ for each die. -/
def integKey (d off : Nat) : Nat := 2 ^ 34 * d + off
/-- A stored line with its MAC field and its ECC (R394, `20` R459). -/
def areaLine (b t : List Byte) : List Byte := b ++ t ++ leBytes 8 (Config.lineEcc (b ++ t)).toNat
/-- Key of a primary counter line in the integrity region of an M-die, which no request reaches: its DA above 2⁴⁸ (R392). -/
def regionKey (a : Nat) : Nat := 2 ^ 48 + a
/-- A unit is written in both copies with its MAC in the sideband: a counter line in the L-tier and in its mirror, where the
MAC stands in both fields of its 128 B; a node in copies A and B (R394, R395). -/
def State.storeUnit (s : State) (m lvl i : Nat) : State :=
  let b := s.unitBytes m lvl i
  let t := s.unitMac m lvl i b
  let d := s.integDie m
  if lvl = 0 then
    { s with
      integ := Tab.set [] (Tab.set [] s.integ (regionKey (s.regionBase m + 128 * i)) (areaLine b t)) (integKey d (128 * i))
        (areaLine (b.take 64) t ++ areaLine (b.drop 64) t) }
  else
    let x := nodeIdx s.cntLines lvl i
    { s with
      integ := Tab.set [] (Tab.set [] s.integ (integKey d (copyA + 64 * x)) (areaLine b t)) (integKey d (copyB + 64 * x))
        (areaLine b t) }
/-- The mirror copy of a counter line, which must pass its check under the version in its parent, takes the place of a primary
copy that its ECC reports uncorrectable; the repair is counted. None where the check fails: the device then makes an integrity
halt. A counter line of version 0 is not read (R393, R395). -/
def State.repairUnit (s : State) (m i : Nat) : Option State :=
  if Tab.get 0 s.versions (versionKey m 0 i) = 0 then some s
  else
    let x := Tab.get [] s.integ (integKey (s.integDie m) (128 * i))
    let b := x.take 64 ++ (x.drop 80).take 64
    let t := s.unitMac m 0 i b
    if (x.drop 64).take 8 != t then none
    else
      some (({ s with integ := Tab.set [] s.integ (regionKey (s.regionBase m + 128 * i)) (areaLine b t) } : State).bump
        (regMcry m) 0 1)

/-! ### The integrity cache of an M-die (R396) -/

/-- The parent of a unit, as the cache names units: level·2⁴⁰ + index. -/
def parentUnit (u : Nat) : Nat := (u / 2 ^ 40 + 1) * 2 ^ 40 + u % 2 ^ 40 / 8
/-- The write-back of a dirty unit: its version is raised in its parent, which becomes dirty, its MAC is formed anew, and both
copies are written (R395, R396). -/
def State.writeBack (s : State) (m u : Nat) : State :=
  let lvl := u / 2 ^ 40
  let i := u % 2 ^ 40
  State.storeUnit { s with
    versions := Tab.upd 0 s.versions (versionKey m lvl i) (· + 1)
    dirty := Tab.upd [] s.dirty m fun l =>
      let l := l.filter (· != u)
      if lvl < 8 && !l.contains (parentUnit u) then l ++ [parentUnit u] else l } m lvl i
/-- The least recently used unit of a full set, which gives way to a unit (log 57). -/
def State.victim (s : State) (m u : Nat) : Option Nat :=
  let l := Tab.get [] s.intCache m
  if l.length < 16 then none
  else
    let mine := l.filter fun v => Config.integSet v % 2048 == Config.integSet u % 2048
    if mine.length < 16 then none else mine.getLast?
/-- A unit is used in the cache. One that it does not hold is a miss: its parent is present first, and it takes the place of
the least recently used unit of its set, which is written back when it is dirty. Levels 5 to 8 stay resident (R396). -/
def State.holdUnit (m : Nat) : Nat → State → Nat → State
  | 0, s, _ => s
  | k + 1, s, u =>
      if 5 ≤ u / 2 ^ 40 then s
      else if (Tab.get [] s.intCache m).contains u then
        { s with intCache := Tab.upd [] s.intCache m fun l => u :: l.erase u }
      else
        let s := (State.holdUnit m k s (parentUnit u)).bump (regMcry m) 4 1
        match s.victim m u with
        | none => { s with intCache := Tab.upd [] s.intCache m (u :: ·) }
        | some v =>
            let t : State := { s with intCache := Tab.upd [] s.intCache m fun l => u :: l.erase v }
            if (Tab.get [] t.dirty m).contains v then (State.holdUnit m k t (parentUnit v)).writeBack m v else t
/-- The counter lines of the pages that an access at an offset of an M-die touches are used: unit k of level 0 holds pages 2k
and 2k + 1 (R392). -/
def State.holdLines (s : State) (m o n : Nat) : State :=
  (List.range ((o + n - 1) / 8192 + 1 - o / 8192)).foldl (fun s i => State.holdUnit m 8 s (o / 8192 + i)) s
/-- The counter lines of the pages that a write touches become dirty in the cache (R392, R396). -/
def State.markDirty (s : State) (m o n : Nat) : State :=
  let s := s.holdLines m o n
  { s with dirty := Tab.upd [] s.dirty m fun l =>
      (List.range ((o + n - 1) / 8192 + 1 - o / 8192)).foldl (fun l i =>
        if l.contains (o / 8192 + i) then l else l ++ [o / 8192 + i]) l }

end Sys2Proof.Machine
end

