-- ==== Sys2Proof/Machine/Cipher.lean ====
section
/-! DEFINITION. Derivation of keys, and the stored form of a line: its ciphertext, its MAC and the
144 B that a pool line takes on the wire (`15` R369–R371, `16` R385–R389). -/

namespace Sys2Proof.Machine

/-! ### Derivation (R369–R371) -/

/-- The ASCII bytes of a label. -/
def ascii (t : String) : List Byte := t.toList.map fun c => BitVec.ofNat 8 c.toNat
/-- HMAC-SM3 (R369): a key of 32 B is padded with zeros to the 64 B block of SM3. -/
def hmac (key : BitVec 256) (m : List Byte) : BitVec 256 :=
  let k := digBytes key ++ List.replicate 32 0
  Config.sm3 (k.map (fun b => b ^^^ 0x5C) ++ digBytes (Config.sm3 (k.map (fun b => b ^^^ 0x36) ++ m)))
/-- KDF(K, label, context, L) of R369, as a number of L bits. -/
def kdf (key : BitVec 256) (label : String) (ctx : List Byte) (l : Nat) : Nat :=
  let n := ceilDiv l 256
  let out := (List.range n).foldl (fun a i => a * 2 ^ 256 +
    (hmac key (beBytes 4 (i + 1) ++ ascii label ++ [0] ++ ctx ++ beBytes 4 l)).toNat) 0
  out / 2 ^ (256 * n - l)
/-- An SM2 scalar from a 320-bit output (R370). -/
def sm2scalar (x : Nat) : BitVec 256 := BitVec.ofNat 256 (x % (Config.sm2order - 1) + 1)

/-- The four parts of K_CTX of a context at an epoch: XTS data key, XTS tweak key, counter-mode key and
MAC key (R371). -/
def State.ctxKey (s : State) (c e : Nat) : BitVec 128 × BitVec 128 × BitVec 128 × BitVec 128 :=
  let k := match (s.ctx c).keySlot with
    | some (i, _) => (s.kslot i).value
    | none => 0
  let x := kdf k "STRELNO CTX MEM" (beBytes 2 c ++ beBytes 4 e) 512
  (BitVec.ofNat 128 (x / 2 ^ 384), BitVec.ofNat 128 (x / 2 ^ 256), BitVec.ofNat 128 (x / 2 ^ 128),
    BitVec.ofNat 128 x)
/-! ### Key wrapping (`17` R414, `19` R444): KW of NIST SP 800-38F with SM4 -/

/-- The 6n steps of KW over A and the semiblocks R₁ to R_n, from step t on. -/
def kwSteps (k : BitVec 128) : Nat → Nat → BitVec 64 → List (BitVec 64) → BitVec 64 × List (BitVec 64)
  | 0, _, a, r => (a, r)
  | n + 1, t, a, r =>
      let x := Config.sm4 k (a ++ r.headD 0)
      kwSteps k n (t + 1) ((x >>> 64).setWidth 64 ^^^ w64 t) (r.tail ++ [x.setWidth 64])
/-- The steps backwards, from step t down. -/
def kwBack (k : BitVec 128) : Nat → BitVec 64 → List (BitVec 64) → BitVec 64 × List (BitVec 64)
  | 0, a, r => (a, r)
  | t + 1, a, r =>
      let x := Config.sm4inv k ((a ^^^ w64 (t + 1)) ++ r.getLastD 0)
      kwBack k t ((x >>> 64).setWidth 64) (x.setWidth 64 :: r.dropLast)
/-- Semiblocks of a byte string, most significant byte first. -/
def semiblocks (b : List Byte) : List (BitVec 64) :=
  (List.range (b.length / 8)).map fun i => w64 (beNat ((b.drop (8 * i)).take 8))
/-- The initial value of KW. -/
def kwIcv : BitVec 64 := 0xA6A6A6A6A6A6A6A6
/-- A wrapped key. -/
def kwWrap (k : BitVec 128) (b : List Byte) : List Byte :=
  let r := semiblocks b
  let x := kwSteps k (6 * r.length) 1 kwIcv r
  (x.1 :: x.2).flatMap fun w => beBytes 8 w.toNat
/-- An unwrapped key; none when its check fails. -/
def kwUnwrap (k : BitVec 128) (b : List Byte) : Option (List Byte) :=
  match semiblocks b with
  | [] => none
  | a :: r =>
      let x := kwBack k (6 * r.length) a r
      if x.1 = kwIcv then some (x.2.flatMap fun w => beBytes 8 w.toNat) else none

/-! ### Lines as they are stored (`16` R385–R389) -/

/-- The key epoch that protects a device address of a context: e + 1 where the context's rekey has
passed (`16` R401). -/
def State.epochAt (s : State) (c da : Nat) : Nat :=
  let k := s.ctx c
  let t := match s.space da with | .d i => i | .l m => 8 + m | .h => 12 | _ => 13
  match k.rekey with
  | none => k.epoch
  | some l =>
      let j := Tab.get {} s.rekeyJobs t
      if 12 < t then k.epoch
      else if !l.contains t then k.epoch + 1
      else if j.act && j.ctx == c && da < j.b then k.epoch + 1
      else k.epoch
/-- Multiplication by α of an XTS tweak, whose byte 0 is the least significant (IEEE 1619). -/
def xtsAlpha (t : Nat) : Nat := if t < 2 ^ 127 then 2 * t else (2 * t) % 2 ^ 128 ^^^ 0x87
/-- SM4-XTS of whole blocks under a data key, from the tweak of block 0 (R387, IEEE 1619). -/
def xtsBlocks (k : BitVec 128) : Nat → Nat → List Byte → List Byte
  | 0, _, _ => []
  | n + 1, t, b =>
      let m := cipherBlock (leBytes 16 t)
      cipherBytes (Config.sm4 k (cipherBlock (b.take 16) ^^^ m) ^^^ m) ++ xtsBlocks k n (xtsAlpha t) (b.drop 16)
/-- XTS ciphertext of a line: the tweak value has the line number from bit 0 and the epoch from
bit 64. -/
def xtsLine (k1 k2 : BitVec 128) (line e : Nat) (b : List Byte) : List Byte :=
  let t := Config.sm4 k2 (cipherBlock (leBytes 16 (line + e % 2 ^ 32 * 2 ^ 64)))
  xtsBlocks k1 (b.length / 16) (leNat (cipherBytes t)) b
/-- Counter-mode ciphertext of a line of the L- or H-tier (R388). -/
def ctrLine (k : BitVec 128) (da maj min : Nat) (b : List Byte) : List Byte :=
  let ks := (List.range 8).flatMap fun j =>
    cipherBytes (Config.sm4 k (BitVec.ofNat 128 (da / 128 * 2 ^ 87 + maj % 2 ^ 64 * 2 ^ 23 + 2 ^ 16 * min + 2 ^ 13 * j)))
  List.zipWith (· ^^^ ·) b ks
/-- The stored bytes of the line of a context that holds a device address, from its plaintext
(R387–R389). -/
def State.sealLine (s : State) (c da : Nat) (b : List Byte) : List Byte :=
  let e := s.epochAt c da
  let k := s.ctxKey c e
  match s.space da with
  | .d _ => xtsLine k.1 k.2.1 (da / 64) e b
  | .p => xtsLine k.1 k.2.1 (da / 128) e b
  | _ => ctrLine k.2.2.1 (da / 128 * 128) (s.majorAt da) (Tab.get 0 s.lines (da / 128)) b
/-- The MAC of the line of a context that holds a device address, over its stored bytes (R386, *MAC header*). -/
def State.lineMac (s : State) (c da : Nat) (stored : List Byte) : List Byte :=
  let e := s.epochAt c da
  let k := (s.ctxKey c e).2.2.2
  match s.space da with
  | .d _ => macOf k da e 0 0x01 stored
  | .l _ => macOf k da (s.majorAt da) (Tab.get 0 s.lines (da / 128)) 0x02 stored
  | .h => macOf k da (s.majorAt da) (Tab.get 0 s.lines (da / 128)) 0x03 stored
  | _ => macOf k da e 0 0x04 stored
/-- The 144 B of a P-tier line on the wire: ciphertext, MAC and ECC (R389). -/
def State.wireLine (s : State) (c da : Nat) (b : List Byte) : List Byte :=
  let ct := s.sealLine c da b
  let m := s.lineMac c da ct
  ct ++ m ++ leBytes 8 (Config.lineEcc (ct ++ m)).toNat
/-- The lines of a range, 128 B each. -/
def State.wireLines (s : State) (c da : Nat) : Nat → List Byte → List Byte
  | 0, _ => []
  | n + 1, b => s.wireLine c da (b.take 128) ++ s.wireLines c (da + 128) n (b.drop 128)

end Sys2Proof.Machine
end

