-- ==== Sys2Proof/Machine/Wire.lean ====
section
/-! DEFINITION. Requests that leave the module: messages of a link port, pool requests and H-tier
requests (`11` R268–R271, R278–R280, `13` R330). -/

namespace Sys2Proof.Machine

/-! ### Messages of a port (`11` R268, R269) -/

/-- Credits of a class: key 2·vc + 1 for responses (*Virtual channels*). -/
def creditsOf (cls : Nat) : Nat :=
  ([1536, 0, 128, 768, 640, 64, 384, 32, 128, 0, 32, 0, 320, 0, 64, 0] : List Nat).getD cls 0
/-- The DATA flits of a message, 224 B of payload each. -/
def segment (vc : Nat) (resp : Bool) : Nat → Bool → List Byte → List Flit
  | 0, _, _ => []
  | n + 1, som, b =>
      { kind := 1, vc := vc, resp := resp, som := som, eom := b.length ≤ 224, plen := min 224 b.length
        data := b.take 224 } :: (if b.length ≤ 224 then [] else segment vc resp n false (b.drop 224))
/-- A message joins the flits that wait to be sent on a virtual channel and class. -/
def Port.enqueue (p : Port) (vc : Nat) (resp : Bool) (b : List Byte) : Port :=
  { p with txQ := Tab.upd [] p.txQ (2 * vc + b2n resp) fun q =>
      q ++ segment vc resp (b.length / 224 + 1) true b }
/-- A message is given to a port. -/
def State.sendMsg (s : State) (p vc : Nat) (resp : Bool) (b : List Byte) : State :=
  s.updPort p fun k => k.enqueue vc resp b
/-- The header of a pool message (`11` R278). -/
def poolHdr (opc tag stat nl addr reqn : Nat) (opnd : W64) : List Byte :=
  wordBytes [at64 opc 56 ||| at64 tag 36 ||| at64 stat 32 ||| w64 (nl % 2 ^ 32), w64 addr, at64 reqn 48, opnd]

/-! ### Pool requests (`11` R279, R280) -/

/-- A pool request leaves on its port, numbered among the requests that leave the module. -/
def State.admitPool (s : State) (r : PoolReq) : State :=
  { s with poolReqs := s.poolReqs ++ [{ r with num := s.reqNum }], reqNum := s.reqNum + 1 }
/-- Lines of the checkpoint writer, each with its ECC and a zero MAC field (`19` R444). -/
def storeLines : Nat → List Byte → List Byte
  | 0, _ => []
  | n + 1, b =>
      let x := b.take 128 ++ List.replicate 8 0
      x ++ leBytes 8 (Config.lineEcc x).toNat ++ storeLines n (b.drop 128)
/-- The virtual channel of a pool request: store requests go on the state stream, but for a PATOM (`11` R278, `19` R439). -/
def PoolReq.vc (r : PoolReq) : Nat :=
  if r.opc = 0x05 then 2 else if r.store.isSome then 3 else if r.opc = 0x03 || r.opc = 0x04 then 2 else 1
/-- The message of a pool request on its port. -/
def State.poolSend (s : State) (r : PoolReq) : State :=
  let body := if r.opc = 0x05 then r.data
    else if !(r.opc = 0x03 || r.opc = 0x04) then []
    else if r.store.isSome then storeLines r.nl r.data
    else s.wireLines r.ctx (r.da / 128 * 128) r.nl r.data
  (s.bump (regPort r.port) 39 1).sendMsg r.port r.vc false (poolHdr r.opc r.tag 0 r.nl r.addr s.node r.opnd ++ body)
/-- A P-tier request leaves on the lowest port of its entry that is UP (`07` R179, `11` R278). A partial
line of a write is merged into its whole line (`07` R174). -/
def State.issuePool (s : State) (q : MemReq) (ctx : Nat) (own : Bool := false) : Option State :=
  match s.pmapAt q.da with
  | none => none
  | some e => match s.egress e with
    | none => none
    | some port =>
        let n := if q.write then q.data.length else q.len
        let first := q.da / 128 * 128
        let nl := (q.da + n + 127) / 128 - q.da / 128
        let addr := (e.nbase + (first - e.base)) % 2 ^ 48
        if s.poolBusy e.node addr nl q.write then none
        else (s.poolTag port ctx).map fun tag =>
          let old := bytesAt s.poolMem (2 ^ 48 * e.node + addr) (128 * nl)
          let o := q.da - first
          let r : PoolReq := {
            tag := tag, port := port, init := q.init, ctx := ctx, da := q.da, addr := addr, nl := nl
            opc := if q.write then (if nl ≤ 16 then 0x03 else 0x04) else (if nl ≤ 16 then 0x01 else 0x02)
            data := if q.write then old.take o ++ q.data ++ old.drop (o + n) else [], pool := q.tag, own := own }
          (s.admitPool r).poolSend r
/-- A write of a pool line that an initiator has made, and does not wait for: its whole lines leave in their order, once they
find a tag (R279, R280). -/
def State.postPool (s : State) (da n : Nat) : State :=
  match s.pmapAt da with
  | none => s
  | some e =>
      let first := da / 128 * 128
      let nl := (da + n + 127) / 128 - da / 128
      let addr := (e.nbase + (first - e.base)) % 2 ^ 48
      s.admitPool {
        port := (s.egress e).getD 0, init := 1023, ctx := e.ctx, da := da, addr := addr, nl := nl
        opc := if nl ≤ 16 then 0x03 else 0x04, data := bytesAt s.poolMem (2 ^ 48 * e.node + addr) (128 * nl)
        waits := 2, own := true }

/-! ### Store requests (`19` R439, R450) -/

/-- The port that takes a store request: of those of PMASK that are UP, the one with the fewest requests
outstanding, the lowest of them (log 34). -/
def State.storePort (s : State) (pmask : Nat) : Option Nat :=
  let ups := (List.range 16).filter fun p => pmask.testBit p && (s.port p).st == .up
  let load (p : Nat) : Nat := (s.poolReqs.filter fun r => r.port == p).length
  (ups.mergeSort fun a b => load a < load b || (load a == load b && a ≤ b)).head?
/-- A store request of whole lines leaves; none while it has to wait for a port, a tag or an earlier request. -/
def State.issueStore (s : State) (d : StoreDest) (ctx addr : Nat) (b : List Byte) : Option State :=
  match s.storePort d.pmask with
  | none => none
  | some port =>
      let nl := ceilDiv b.length 128
      if s.poolBusy d.node addr nl true then none
      else (s.poolTag port ctx).map fun tag =>
        let r : PoolReq := {
          tag := tag, port := port, init := 725, ctx := ctx, addr := addr, nl := nl, opc := if nl ≤ 16 then 0x03 else 0x04
          data := b ++ List.replicate (128 * nl - b.length) 0, store := some d }
        (s.admitPool r).poolSend r
/-- The store of a charter, class and name. -/
def State.store? (s : State) (chd : BitVec 256) (cls : Nat) (name : W64) : Option Store :=
  s.stores.find? fun x => x.chd == chd && x.cls == cls && x.name == name
/-- A coordination word as the module knows it. -/
def State.coordWord (s : State) (x : Store) (i : Nat) : Nat :=
  leNat (bytesAt s.poolMem (2 ^ 48 * x.node + x.coord + 8 * i) 8)
/-- What the module learns of a coordination word. -/
def State.knowCoord (s : State) (node addr n : Nat) : State :=
  { s with poolMem := putBytes s.poolMem (2 ^ 48 * node + addr) (leBytes 8 n) }
/-- A request that waits has an earlier one to its lines before it (R280). -/
def State.inOrder (s : State) (r : PoolReq) : Bool :=
  !State.poolBusy { s with poolReqs := s.poolReqs.takeWhile (· != r) } (s.reqNode r |>.getD 0) r.addr r.nl true
/-- The tag under which a request that waits may leave, by its port, its order and the tags (`11` R279, R280). -/
def State.leaveTag (s : State) (r : PoolReq) : Option Nat :=
  if r.waits = 1 then
    (if 4096 ≤ (s.poolReqs.filter fun x => x.port == r.port && x.waits == 0).length then none else some r.tag)
  else if !s.inOrder r then none
  else s.poolTag r.port r.ctx
/-- Requests that wait for a tag, their port or their order leave, oldest first; one that its order does not hold back and that
finds no tag is counted (R279). -/
def State.unpark (s : State) : State :=
  (s.poolReqs.filter fun r => r.waits != 0).foldl (fun s r => match s.leaveTag r with
    | some tag =>
        let r' : PoolReq := { r with tag := tag, waits := 0 }
        ({ s with poolReqs := s.poolReqs.map fun x => if x = r then r' else x }).poolSend r'
    | none => if r.waits == 2 && s.inOrder r then s.bumpCtx 27 r.ctx 0 1 else s) s
/-- A PATOM of Yorek for a coordination word of a store: a compare-and-swap from `old` to `new` (`11` R278, R279). With no
port of PMASK that is UP it is not issued. -/
def State.patom (s : State) (x : Store) (d : StoreDest) (ctx i old new : Nat) : State :=
  match s.storePort x.pmask with
  | none => s
  | some port =>
      let r : PoolReq := { port := port, init := 725, ctx := ctx, opc := 0x05, addr := x.coord + 8 * i, opnd := w64 old
                           data := leBytes 8 2 ++ leBytes 8 new, store := some d, waits := 2 }
      (s.admitPool r).unpark
/-- The reservation of a member index by a PATOM compare-and-swap in the coordination region of the pool node that holds the
job's checkpoints (`12` R317, `19` R440): bit m of the map that begins at word 2, which stood at `old`. -/
def State.reserve (s : State) (x : Store) (ctx hid m old : Nat) : State :=
  let b := old &&& (2 ^ 64 - 1 - 2 ^ (m % 64))
  s.patom x { node := x.node, pmask := x.pmask, name := w64 hid, join := some (hid, m) } ctx (2 + m / 64) b (b + 2 ^ (m % 64))
/-- FLOOR is raised to t, and never lowered (`19` R452). -/
def State.raiseFloor (s : State) (x : Store) (ctx t : Nat) : State :=
  if s.coordWord x 1 < t then
    s.patom x { node := x.node, pmask := x.pmask, cls := 2, name := x.name, t := t } ctx 1 (s.coordWord x 1) t
  else s

/-! ### H-tier requests (`13` R330) -/

/-- Max_Read_Request_Size in bytes, from bits [14:12] of the Device Control register, whose reset value is 512 B. -/
def State.mrrs (s : State) : Nat :=
  2 ^ (7 + ((Tab.get 0 s.pcie.cfg 0x59).toNat / 16 % 8 ^^^ 2))
/-- Pieces of a read that each lie in one 4 KiB host page and have at most `z` bytes: address and length. -/
def hostPieces (z : Nat) : Nat → Nat → Nat → List (Nat × Nat)
  | 0, _, _ => []
  | k + 1, da, n =>
      if n = 0 then []
      else
        let m := min n (min z (4096 - da % 4096))
        (da, m) :: hostPieces z k (da + m) (n - m)
/-- The pieces in which a range of the H-tier is read, by whole lines of 128 B, merged: those that hold a line that has been
written (`16` R388). -/
def State.hostReads (s : State) (da n : Nat) : List (Nat × Nat) :=
  let first := da / 128 * 128
  let size := (da + n + 127) / 128 * 128 - first
  (hostPieces s.mrrs (size / 128 + 2) first size).filter fun p =>
    (List.range (p.2 / 128)).any fun i => Tab.get 0 s.lines (p.1 / 128 + i) != 0
/-- A read of the H-tier leaves with its host tag, with the attributes of its window (`07` R177), and on its IDE stream, under the
key set then in force (`13` R338). -/
def State.admitHost (s : State) (q : MemReq) (ctx t w a : Nat) (own : Bool) (p : Nat × Nat) : State :=
  let win := Tab.get {} s.hwins w
  let r : HostReq := { tag := t, init := q.init, ctx := ctx, win := w, da := p.1, host := a, len := p.2
                       ns := bit win.w0 61, ro := bit win.w0 60, pool := q.tag, num := s.reqNum, own := own
                       ide := (s.pcie.ideFor a).map fun i => (i, (Tab.get {} s.pcie.ide i).keyset), lost := s.pcie.dropped a }
  { s with pcie := { s.pcie with reqs := s.pcie.reqs ++ [r] }, reqNum := s.reqNum + 1 }
/-- Pieces of a read leave as non-posted requests, each with the lowest free of 8,192 host tags; none when no tag is free. -/
def State.issuePieces (s : State) (q : MemReq) (ctx : Nat) (own : Bool) (ps : List (Nat × Nat)) : Option State :=
  ps.foldl (fun r p => r.bind fun s =>
    match s.hostTag, s.hwinAt p.1, s.hostAddr p.1 with
    | some t, some w, some a => some (s.admitHost q ctx t w a own p)
    | _, _, _ => none) (some s)
/-- A read of the H-tier leaves, but for lines that have not been written, which read as zeros (`16` R388). -/
def State.issueHost (s : State) (q : MemReq) (ctx : Nat) : Option State :=
  s.issuePieces q ctx false (s.hostReads q.da q.len)

end Sys2Proof.Machine
end

