-- ==== Sys2Proof/Machine/Access.lean ====
section
/-! DEFINITION. Reads and writes of device memory in every tier, the checks of an access, translation, and the access of an
initiator's own work (`07` R162–R178, `08` R193–R196, `11` R279, R280, `13` R330, `16` R385–R400). -/

namespace Sys2Proof.Machine

/-! ### Lines of the H-tier (`16` R385–R388, R400) -/

/-- The lines of 128 B that a range touches, by their addresses. -/
def linesOver (da n : Nat) : List Nat := (List.range ((da + n + 127) / 128 - da / 128)).map fun i => 128 * (da / 128 + i)
/-- The context of the window that covers an H-tier address. -/
def State.hostCtx (s : State) (da : Nat) : Nat := ((s.hwinAt da).map fun w => (Tab.get {} s.hwins w).ctx).getD 0
/-- The stored bytes of an H-tier line as host memory holds them. -/
def State.hostLine (s : State) (l : Nat) : List Byte :=
  match s.hostAddr l with
  | some a => bytesAt s.hostMem a 128
  | none => List.replicate 128 0
/-- The plaintext of an H-tier line: zeros where it has not been written since its page's major counter last changed, and
otherwise the stored bytes under its key stream (R388). -/
def State.plainLine (s : State) (l : Nat) : List Byte :=
  if Tab.get 0 s.lines (l / 128) = 0 then List.replicate 128 0 else s.sealLine (s.hostCtx l) l (s.hostLine l)
/-- The host address of the MAC of an H-tier line: 8 B for each line, in line order, behind the window's data (R400). -/
def State.macAddr (s : State) (l : Nat) : Option Nat :=
  (s.hwinAt l).bind fun w =>
    let win := Tab.get {} s.hwins w
    s.hostAt w (2 ^ win.size + (l - win.base) / 128 * 8)
/-- The offset of unit i of a level of a window's tree behind the window's data: counter lines, and after them a single copy of
the nodes (R400). -/
def HWin.unitOff (w : HWin) (lvl i : Nat) : Nat :=
  2 ^ w.size + 2 ^ w.size / 16 +
    if lvl = 0 then 128 * i else 2 ^ w.size / 64 + 64 * nodeIdx (2 ^ w.size / 8192) lvl i
/-- The units above an H-tier line in its window's tree: window, level and index, the counter line first (R393, R400). -/
def State.hostUnits (s : State) (l : Nat) : List (Nat × Nat × Nat) :=
  match s.hwinAt l with
  | none => []
  | some w =>
      let win := Tab.get {} s.hwins w
      (List.range (treeTop (2 ^ win.size / 8192) + 1)).map fun v => (w, v, (l - win.base) / 8192 / 8 ^ v)
/-- A unit of a window's tree is as host memory holds it; one of version 0 is not read, and none is checked while a rekey job
changes the counters (R393, R401, log 9). -/
def State.hostUnitGood (s : State) (x : Nat × Nat × Nat) : Bool :=
  Tab.get 0 s.versions (versionKey (0x1000 + x.1) x.2.1 x.2.2) == 0 || (Tab.get {} s.rekeyJobs 12).act ||
    match s.hostAt x.1 ((Tab.get {} s.hwins x.1).unitOff x.2.1 x.2.2) with
    | some a => bytesAt s.hostMem a (if x.2.1 = 0 then 128 else 64) == s.unitBytes (0x1000 + x.1) x.2.1 x.2.2
    | none => false
/-- The stored bytes of an H-tier line have its MAC, and the units above it pass; one that has not been written is not checked
(R386, R388, R400). -/
def State.hostGood (s : State) (l : Nat) : Bool :=
  Tab.get 0 s.lines (l / 128) == 0 || ((s.hostUnits l).all s.hostUnitGood && match s.macAddr l with
    | some a => bytesAt s.hostMem a 8 == s.lineMac (s.hostCtx l) l (s.hostLine l)
    | none => false)
/-- Bytes of the H-tier in clear. -/
def State.readHost (s : State) (da n : Nat) : List Byte :=
  (((linesOver da n).flatMap s.plainLine).drop (da % 128)).take n
/-- Bytes put at a host address, where there is one and its IDE stream is not Insecure (`13` R339). -/
def State.putHost (s : State) (a : Option Nat) (b : List Byte) : State :=
  match a with
  | some a => if s.pcie.dropped a then s else { s with hostMem := putBytes s.hostMem a b }
  | none => s
/-- The counter line of an H-tier line and the nodes above it are written to the host, the version of each raised in its
parent; the root is the X-die's (R393, R400, log 57). -/
def State.putUnits (s : State) (l : Nat) : State :=
  let us := s.hostUnits l
  let s := us.foldl (fun s x =>
    { s with versions := Tab.upd 0 s.versions (versionKey (0x1000 + x.1) x.2.1 x.2.2) (· + 1) }) s
  us.foldl (fun s x =>
    s.putHost (s.hostAt x.1 ((Tab.get {} s.hwins x.1).unitOff x.2.1 x.2.2)) (s.unitBytes (0x1000 + x.1) x.2.1 x.2.2)) s
/-- The counter line of an H-tier line has been written. -/
def State.unitsWritten (s : State) (l : Nat) : Bool :=
  (s.hostUnits l).head?.any fun x => Tab.get 0 s.versions (versionKey (0x1000 + x.1) x.2.1 x.2.2) != 0
/-- A line's ciphertext, its MAC and the units above it are written to the host (R388, R392, R400). -/
def State.putLine (s : State) (l : Nat) (b : List Byte) : State :=
  let ct := s.sealLine (s.hostCtx l) l b
  let m := s.lineMac (s.hostCtx l) l ct
  ((s.putHost (s.hostAddr l) ct).putHost (s.macAddr l) m).putUnits l
/-- The bytes of a line with those of a write at `da` laid over. -/
def overLine (l da : Nat) (old b : List Byte) : List Byte :=
  old.zipIdx.map fun p => if da ≤ l + p.2 then b.getD (l + p.2 - da) p.1 else p.1
/-- A write of the H-tier: every line whose counters change is encrypted again under them, the lines written and, where a
minor counter has overflowed, those of the page that have been written (R388, R397). -/
def State.writeHost (s : State) (da : Nat) (b : List Byte) : State :=
  let n := b.length
  let t := s.countLines da n none
  let pages := linesOver (da / 4096 * 4096) ((da + n + 4095) / 4096 * 4096 - da / 4096 * 4096)
  let ls := pages.filter fun l =>
    s.majorAt l != t.majorAt l && Tab.get 0 t.lines (l / 128) != 0 || Tab.get 0 s.lines (l / 128) != Tab.get 0 t.lines (l / 128)
  ls.foldl (fun t l => t.putLine l (overLine l da (s.plainLine l) b)) t

/-! ### Reads and writes in every tier (`07` R174) -/

/-- Bytes read at a device address that lies in one page, in clear; a line of the H-tier that has not
been written reads as zeros (`16` R388). -/
def State.readDa (s : State) (da n : Nat) : List Byte :=
  match s.space da with
  | .d _ => bytesAt s.mem da n
  | .l _ => bytesAt s.mem da n
  | .sram c o => bytesAt (s.core c).store o n
  | .h => s.readHost da n
  | .p => match s.poolAddr da with
      | some a => bytesAt s.poolMem a n
      | none => List.replicate n 0
  | _ => List.replicate n 0

/-- The lines of `z` B that a write covers only in part, by their first address: its first and its last line at
most (R174). -/
def partLines (da n z : Nat) : List Nat :=
  let a := da / z * z
  let b := (da + n - 1) / z * z
  if a = b then (if aligned da z && n == z then [] else [a])
  else (if aligned da z then [] else [a]) ++ (if aligned (da + n) z then [] else [b])
/-- Bytes written at a device address that lies in one page (R174): each line that a D-tier write covers only in
part is counted at its stack, and each that an L-tier write covers only in part at its own channel. -/
def State.writeDa (s : State) (da : Nat) (b : List Byte) : State :=
  let n := b.length
  if n = 0 then s else
  match s.space da with
  | .d c =>
      let s := (({ s with mem := putBytes s.mem da b }).dropRun da n).dropHost da n
      (partLines da n 64).foldl (fun s _ => s.bumpAt (regCdst c) (regCdst c + 0x810) 1) s
  | .l m =>
      let s := ((({ s with mem := putBytes s.mem da b }).dropRun da n).dropHost da n).countLines da n (some m)
      let s := s.markDirty m (da % 2 ^ 39) n
      (partLines da n 128).foldl
        (fun s a => s.bumpAt (regMddr m) (regMddr m + 0x100 + 0x40 * lChan (a % 2 ^ 39) + 0x20) 1) s
  | .sram c o => (s.dropRun da n).updCore c fun k => { k with store := putBytes k.store o b }
  | .h => (s.writeHost da b).dropRun da n
  | .p => match s.poolAddr da with
      | some a => (({ s with poolMem := putBytes s.poolMem a b }).dropRun da n).postPool da n
      | none => s
  | _ => s

/-- The bytes of `n` granules from `g` on at zero (`16` R403, R404). -/
def State.wipeBytes (s : State) (g n : Nat) : State :=
  { (s.dropRun (2 ^ 21 * g) (2 ^ 21 * n)).dropHost (2 ^ 21 * g) (2 ^ 21 * n) with
    mem := Tab.drop s.mem fun a => g ≤ a / 2 ^ 21 && a / 2 ^ 21 < g + n }

/-- The inline engine that a device address passes: 0–7 of a C-die, 8–11 of an M-die (`16` R385). -/
def inlineEngine : Space → Option Nat
  | .d c => some c
  | .l m => some (8 + m)
  | _ => none
/-- The engine of a device address has derived the keys of a context at the epoch that protects it, and caches them: 64 of them,
the last to come first (R376; which one gives way is log 23). -/
def State.cacheKey (s : State) (ctx da : Nat) : State :=
  match inlineEngine (s.space da), (s.ctx ctx).keySlot with
  | some e, some (i, g) =>
      let x := (ctx, s.epochAt ctx da, i, g)
      if !s.keyOk ctx || (Tab.get [] s.keys.cache e).contains x then s
      else { s with keys := { s.keys with cache := Tab.upd [] s.keys.cache e fun l => (x :: l).take 64 } }
  | _, _ => s
/-- The checks of an access at its target: outside every range it is denied; a local offset
at or above 0x48_0000 is cause 0x07; a denial is cause 0x09; keys that are gone are cause
0x15; a P-tier request with no port UP is completed DOWN, cause 0x09
(R161, R168–R172, `02` R35, `15` R378, `11` R281). -/
def State.check (s : State) (init ctx da n : Nat) (write walk : Bool) : Res Unit :=
  if !s.admits init ctx da write walk then .lost (s.denied da) 0x09
  else match s.space da with
  | .sram _ o => if 0x480000 < o + n then .lost s 0x07 else .ok s ()
  | .d _ => if s.keyOk ctx || init == 725 then .ok (s.cacheKey ctx da) () else .lost s.keyRefused 0x15
  | .l m =>
      if !(s.keyOk ctx || init == 725) then .lost s.keyRefused 0x15
      else if write && s.majorEnd da n (2 ^ 64 - 1) then .wait (s.queueRekey ctx)
      else .ok ((s.cacheKey ctx da).holdLines m (da % 2 ^ 39) n) ()
  | .h =>
      if !s.keyOk ctx then .lost s.keyRefused 0x15
      else if (s.hostAddr da).isNone then .lost (s.denied da) 0x09
      else if write && s.majorEnd da n (2 ^ 40 - 1) then .wait (s.queueRekey ctx)
      else .ok s ()
  | .p =>
      if !s.keyOk ctx then .lost s.keyRefused 0x15
      else if ((s.pmapAt da).bind s.egress).isNone then .lost s 0x09
      else .ok s ()
  | _ => .ok s ()

/-! ### Initiators (R169) -/

/-- The cluster whose TLB and C-die an initiator uses: cores and DMA engines (R165, R169). -/
def initCluster (init : Nat) : Option Nat :=
  if init < 512 then some (init / 8)
  else if init < 704 then some ((init - 512) / 3)
  else none
/-- The C-die from which an initiator accesses memory (R169). -/
def initDie (init : Nat) : Option Nat :=
  if 739 ≤ init ∧ init ≤ 746 then some (init - 739) else (initCluster init).map (· / 8)

/-! ### Tags of the C-dies (`08` R193, R196, `01` R11, R20, R25) -/

/-- The C-die whose tags the requests of an initiator hold: cores, DMA engines, the streaming engine and the pool
mover of the die. -/
def tagDie (init : Nat) : Option Nat :=
  if 727 ≤ init ∧ init ≤ 734 then some (init - 727) else initDie init
/-- The requests that hold a tag of a C-die: initiator, context and pool; a load in flight holds its own until its data
return (R193). -/
def State.tagged (s : State) : List (Nat × Nat × Nat) :=
  s.retry.map (fun r => (r.req.init, r.req.acts, r.req.tag)) ++
    (s.dramQ ++ s.dramOut).map (fun r => (r.init, r.acts, r.tag)) ++
    s.pcie.reqs.map (fun r => (r.init, r.ctx, r.pool)) ++ s.poolReqs.map (fun r => (r.init, r.ctx, r.pool)) ++
    s.cores.flatMap fun e => e.2.loads.map fun l => (e.1, l.ctx, l.tag)
/-- Tags of a pool of a C-die in use; under strict partition those of one context. -/
def State.tagsUsed (s : State) (d c pool : Nat) : Nat :=
  (s.tagged.filter fun x => x.2.2 == pool && tagDie x.1 == some d && (!s.pw.strict || x.2.1 == c)).length
/-- Of a pool of a C-die, what a context may use: under strict partition a share proportional to its clusters there,
rounded down; otherwise all of it (R196). -/
def State.share (s : State) (die c total : Nat) : Nat :=
  let held := (List.range 8).filter fun i => (s.cluster (8 * die + i)).held
  if !s.pw.strict then total
  else total * (held.filter fun i => (s.cluster (8 * die + i)).ctx == c).length / held.length
/-- A tag of a pool of a C-die with `n` tags is free for a context. -/
def State.tagFree (s : State) (d c pool n : Nat) : Bool := s.tagsUsed d c pool < s.share d c n
/-- A tag of the cluster reserve, of 512, is free. -/
def State.reserveFree (s : State) (k : Nat) : Bool :=
  (s.tagged.filter fun x => x.2.2 == 1 && initCluster x.1 == some k).length < 512
/-- The pool whose tag a request takes (*Tag pools of a C-die*): its own reserve first, then the shared pool; 0 for an
initiator outside the C-dies, and none where it has to wait. -/
def State.takeTag (s : State) (init c : Nat) : Option Nat :=
  match tagDie init with
  | none => some 0
  | some d =>
      if !s.dieFitted d then none
      else if (match initCluster init with
        | some k => s.reserveFree k
        | none => false) then some 1
      else if 739 ≤ init && s.tagFree d c 2 2048 then some 2
      else if s.tagFree d c 3 2048 then some 3
      else none
/-- A request that finds no tag waits in its issue queue, and the wait is counted at its pools (R196, R206). -/
def State.tagWait (s : State) (init c : Nat) : State :=
  match tagDie init with
  | none => s
  | some d =>
      let s := match initCluster init with
        | some k => (s.bump (regCclu k) 3 1).bumpCtx 24 c 0 1
        | none => if 739 ≤ init then (s.bumpAt (regCdst d) (regCdst d + 0x820) 1).bumpCtx 25 c 0 1 else s
      (s.bumpAt (regCdst d) (regCdst d + 0x828) 1).bumpCtx 26 c 0 1

/-! ### An access outside the module (`07` R178, `11` R279, R280, `13` R330) -/

/-- Initiators whose own reads outside the module are requests that they wait for: cores, DMA engines and streaming engines.
Those of any other are answered at once (log 53). -/
def asks (init : Nat) : Bool := init < 704 || (739 ≤ init && init ≤ 746)
/-- A request of this module that a write of pool lines waits for: all but the writes that leave before it in their order. -/
def State.poolHeld (s : State) (node addr nl : Nat) : Bool :=
  State.poolBusy { s with poolReqs := s.poolReqs.filter fun r => !(r.own && (r.opc == 0x03 || r.opc == 0x04)) } node addr nl true
/-- An initiator's own read of pool lines: it takes the answer to its request, or makes the request and waits for it. One that
finds no tag is counted. -/
def State.poolRead (s : State) (init ctx da n node addr nl : Nat) : Res Unit :=
  let mine (r : PoolReq) : Bool := r.own && r.init == init && r.da == da && r.nl == nl
  match s.poolGot.find? mine with
  | some r => .ok { s with poolGot := s.poolGot.erase r } ()
  | none =>
      if s.poolReqs.any mine || s.poolBusy node addr nl false then .wait s
      else match s.issuePool { init := init, ctx := ctx, da := da, len := n, tag := (s.takeTag init ctx).getD 0 } ctx true with
        | some t => .wait t
        | none => .wait (s.bumpCtx 27 ctx 0 1)
/-- An access of pool lines that an initiator makes itself (log 53). -/
def State.poolAccess (s : State) (init ctx da n : Nat) (write : Bool) : Res Unit :=
  match s.pmapAt da, (s.pmapAt da).bind s.egress with
  | some e, some port =>
      let addr := (e.nbase + (da / 128 * 128 - e.base)) % 2 ^ 48
      let nl := (da + n + 127) / 128 - da / 128
      if write then (if s.poolHeld e.node addr nl then .wait s else .ok s ())
      else if asks init then s.poolRead init ctx da n e.node addr nl
      else if s.poolBusy e.node addr nl false then .wait s
      else if (s.poolTag port ctx).isNone then .wait (s.bumpCtx 27 ctx 0 1)
      else .ok ((s.bump (regPort port) 39 1).bump (regPort port) 41 1) ()
  | _, _ => .lost s 0x09
/-- A host request is an initiator's own read of a piece. -/
def HostReq.reads (init : Nat) (p : Nat × Nat) (r : HostReq) : Bool := r.own && r.init == init && r.da == p.1 && r.len == p.2
/-- An initiator's own read of the H-tier: it takes the answers to its requests, or makes those that it has not made and waits
for them. One that finds no host tag is counted. -/
def State.hostRead (s : State) (init ctx da n : Nat) : Res Unit :=
  let ps := s.hostReads da n
  if ps.all fun p => s.pcie.got.any (HostReq.reads init p) then
    .ok { s.keepHost da with pcie := { s.pcie with got := ps.foldl (fun l p => l.eraseP (HostReq.reads init p)) s.pcie.got } } ()
  else
    let new := ps.filter fun p => !s.pcie.got.any (HostReq.reads init p) && !s.pcie.reqs.any (HostReq.reads init p)
    match s.issuePieces { init := init, ctx := ctx, tag := (s.takeTag init ctx).getD 0 } ctx true new with
    | some t => .wait (t.keepHost da)
    | none => .wait (s.bumpCtx 28 ctx 0 1)
/-- An access of the H-tier that an initiator makes itself (log 53). -/
def State.hostAccess (s : State) (init ctx da n : Nat) (write : Bool) : Res Unit :=
  if s.hostBusy da n write then .wait s
  else if !write && asks init then s.hostRead init ctx da n
  else if !write && s.hostTag.isNone then .wait (s.bumpCtx 28 ctx 0 1)
  else .ok (s.keepHost da) ()
/-- What an initiator's own access adds to the checks of its target: the tags and the order of the requests that leave the
module, and their answers. -/
def State.outside (s : State) (init ctx da n : Nat) (write : Bool) : Res Unit :=
  match s.space da with
  | .h => s.hostAccess init ctx da n write
  | .p => s.poolAccess init ctx da n write
  | _ => .ok s ()

/-! ### Translation (R162–R165) -/

/-- What an access needs of a page. -/
inductive Acc
  /-- Instruction fetch: X. -/
  | fetch
  /-- Load or DMA read: R. -/
  | read
  /-- Store or DMA write: W. -/
  | write
  /-- The device's own write of the status area: a valid leaf alone (`14` R349). -/
  | device
  deriving DecidableEq, Repr

/-- How a walk ends. -/
inductive Walk
  /-- A leaf. -/
  | page (e : TlbEntry)
  /-- A fault of R164. -/
  | fault
  /-- A walk read that its target denies (R172). -/
  | denied
  /-- A leaf with MOV set: the access stalls (R185). -/
  | moving
  deriving DecidableEq, Repr

/-- Fields of a page-table entry (R163). -/
def pteAddr (e : Nat) : Nat := e / 2 ^ 8 % 2 ^ 40 * 2 ^ 8

/-- The entry at an address in the walker's cache of a cluster (R165). -/
def Cluster.cached (k : Cluster) (ctx a : Nat) : Option Nat :=
  (k.walked.find? fun w => w.1 == ctx && w.2.1 == a).map fun w => w.2.2
/-- A level 1 to 3 entry joins the walker's cache of 256 entries (R165). -/
def Cluster.walkKeep (k : Cluster) (ctx a e : Nat) : Cluster := { k with walked := ((ctx, a, e) :: k.walked).take 256 }
/-- The walk read of a table entry: it counts as a read by the initiator whose access missed, and none is answered
when its target denies it (R165, R172). -/
def State.walkRead (s : State) (init ctx a : Nat) : Option Nat × State :=
  if s.admits init ctx a false true then (some (leNat (s.readDa a 8)), s) else (none, s.denied a)
/-- A level 1 to 3 entry: from the walker's cache of a cluster, or read (R165). -/
def State.walkEntry (s : State) (cl : Option Nat) (init ctx a : Nat) : Option Nat × State :=
  match cl with
  | none => s.walkRead init ctx a
  | some k => match (s.cluster k).cached ctx a with
    | some e => (some e, s)
    | none => match s.walkRead init ctx a with
      | (some e, s) => (some e, s.updCluster k fun x => x.walkKeep ctx a e)
      | (none, s) => (none, s)

/-- An entry that breaks R164 at its level: `leaf` is whether it maps a page, `mask` the low
address bits that must be zero, and `pool` whether POOL is legal. -/
def State.pteBad (s : State) (e mask : Nat) (leaf pool : Bool) : Bool :=
  !e.testBit 0 || 2 ^ 48 ≤ e || e.testBit 2 || (e.testBit 1 != leaf) ||
    (e.testBit 6 && !pool) || pteAddr e % mask != 0 || !s.pageable (pteAddr e)

/-- The leaf of an entry. -/
def pteLeaf (e vpn : Nat) (big : Bool) : Walk :=
  if e.testBit 7 then .moving
  else .page { vpn := vpn, big := big, da := pteAddr e, r := e.testBit 3, w := e.testBit 4,
               x := e.testBit 5, pool := e.testBit 6 }

/-- The last level of a walk (R162–R164). -/
def State.walk4 (s : State) (init ctx table va : Nat) : Walk × State :=
  match s.walkRead init ctx (table + 8 * (va / 2 ^ 16 % 32)) with
  | (none, s) => (.denied, s)
  | (some e, s) => (if s.pteBad e (2 ^ 16) true true then .fault else pteLeaf e (va / 2 ^ 16) false, s)
/-- The third level, which may map a page of 2 MiB. -/
def State.walk3 (s : State) (cl : Option Nat) (init ctx table va : Nat) : Walk × State :=
  match s.walkEntry cl init ctx (table + 8 * (va / 2 ^ 21 % 512)) with
  | (none, s) => (.denied, s)
  | (some e, s) =>
      if e.testBit 0 && e.testBit 1 then
        (if s.pteBad e (2 ^ 21) true false then .fault else pteLeaf e (va / 2 ^ 21) true, s)
      else if s.pteBad e 256 false false then (.fault, s)
      else s.walk4 init ctx (pteAddr e) va
/-- The second level. -/
def State.walk2 (s : State) (cl : Option Nat) (init ctx table va : Nat) : Walk × State :=
  match s.walkEntry cl init ctx (table + 8 * (va / 2 ^ 30 % 512)) with
  | (none, s) => (.denied, s)
  | (some e, s) => if s.pteBad e 4096 false false then (.fault, s) else s.walk3 cl init ctx (pteAddr e) va
/-- The walk of a context's tables for a virtual address, in the walker of a cluster when the initiator has one
(R162–R165). -/
def State.walk (s : State) (cl : Option Nat) (init ctx va : Nat) : Walk × State :=
  match (s.ctx ctx).root with
  | none => (.fault, s)
  | some root => match s.walkEntry cl init ctx (root + 8 * (va / 2 ^ 39 % 512)) with
    | (none, s) => (.denied, s)
    | (some e, s) => if s.pteBad e 4096 false false then (.fault, s) else s.walk2 cl init ctx (pteAddr e) va

/-- A TLB entry that translates a virtual address. -/
def TlbEntry.hits (e : TlbEntry) (va : Nat) : Bool :=
  e.vpn == (if e.big then va / 2 ^ 21 else va / 2 ^ 16)
/-- The device address that an entry gives. -/
def TlbEntry.at (e : TlbEntry) (va : Nat) : Nat :=
  e.da + (if e.big then va % 2 ^ 21 else va % 2 ^ 16)
/-- The entry carries the permission an access needs. -/
def TlbEntry.permits (e : TlbEntry) : Acc → Bool
  | .fetch => e.x
  | .read => e.r
  | .write => e.w
  | .device => true

/-- The cause code of a fault of an access (R164). -/
def Acc.cause : Acc → Nat
  | .fetch => 0x03
  | _ => 0x09

/-- An entry added to a cluster's TLB of 8,192 entries (R165). -/
def Cluster.fill (k : Cluster) (e : TlbEntry) : Cluster :=
  { k with tlb := (e :: k.tlb).take 8192 }

/-- An entry added to a core's micro-TLB of 64 entries (R165). -/
def Core.fill (k : Core) (e : TlbEntry) : Core := { k with utlb := (e :: k.utlb).take 64 }
/-- The micro-TLB of an initiator: a core has one (R165). -/
def State.micro (s : State) (init : Nat) : List TlbEntry := if init < 512 then (s.core init).utlb else []
/-- A translation joins the micro-TLB of a core. -/
def State.fillMicro (s : State) (init : Nat) (e : TlbEntry) : State :=
  if init < 512 then s.updCore init fun k => k.fill e else s
/-- An access with its translation: a missing permission loses the context (R164). -/
def State.permitted (s : State) (e : TlbEntry) (a : Acc) : Res TlbEntry :=
  if e.permits a then .ok s e else .lost s a.cause
/-- An access stalls on MOV until the move ends; the stall is counted once (R185). -/
def State.movStall (s : State) (init ctx va : Nat) : State :=
  let x := (init, ctx, va / 2 ^ 16)
  if s.movWaits.contains x then s else { s.bumpCtx 19 ctx 0 1 with movWaits := s.movWaits ++ [x] }
/-- Translation by a walk. Its reads hold a tag one after another, as the initiator's own (R165, `08` R193); while none is
free it waits. -/
def State.xwalk (s : State) (init ctx : Nat) (cl : Option Nat) (va : Nat) (a : Acc) : Res TlbEntry :=
  if (s.takeTag init ctx).isNone then .wait (s.tagWait init ctx)
  else match s.walk cl init ctx va with
  | (.page e, s) =>
      let s := match cl with
        | some k => (s.updCluster k fun x => x.fill e).fillMicro init e
        | none => s
      s.permitted e a
  | (.fault, s) => .lost s a.cause
  | (.denied, s) => .lost s a.cause
  | (.moving, s) => .wait (s.movStall init ctx va)
/-- Translation of an access (R162–R165): through the micro-TLB of the core, then the TLB of the cluster, when the
initiator has them, and else by a walk. A fault or a missing permission loses the context; MOV stalls. -/
def State.xlate (s : State) (init ctx : Nat) (cl : Option Nat) (va : Nat) (a : Acc) :
    Res TlbEntry :=
  if 2 ^ 48 ≤ va then .lost s a.cause else
  match cl with
  | none => s.xwalk init ctx none va a
  | some k => match (s.micro init).find? fun e => e.hits va with
    | some e => s.permitted e a
    | none => match (s.cluster k).tlb.find? fun e => e.hits va with
      | some e => ((s.bump (regCclu k) 0 1).fillMicro init e).permitted e a
      | none => ((s.bump (regCclu k) 1 1).bump (regCclu k) 2 1).xwalk init ctx (some k) va a

/-- A last-access stamp: Tether time bits [59:16], which saturate at their end (R181). -/
def State.pageStamp (s : State) : Nat := min (s.now.toNat / 2 ^ 16) (2 ^ 44 - 1)
/-- The owner's access to a pool page stamps it, and outside the D-pool posts its promotion
to the accessing C-die (R181, R184). -/
def State.touchPool (s : State) (init ctx va da : Nat) : State :=
  let page := da / 0x10000
  let s := { s with pages := Tab.upd {} s.pages page fun p =>
    { p with stamp := s.pageStamp } }
  match s.space da, initDie init with
  | .d _, _ => s
  | _, some d =>
      let x := (ctx, va / 2 ^ 16, d)
      let k := s.streamOf init
      let s := s.bumpCtx 18 ctx k 1
      if s.promos.any fun p => p.1 == x then s else { s with promos := s.promos ++ [(x, k)] }
  | _, none => s


/-! ### Admission at a controller (`08` R194–R196) -/

/-- The pseudo-channel of a D-tier address, or the channel of an L-tier one, with its controller (`07` R173, R176). -/
def State.chanOf (s : State) (da : Nat) : Option Nat :=
  match s.space da with
  | .d c => some (64 * c + dPc (da % 0x1800000000))
  | .l m => some (64 * (8 + m) + lChan (da % 2 ^ 39))
  | _ => none
/-- The bank of an address: a layer-bank of a pseudo-channel, or a bank of an LPDDR6 channel, whose place the manual does
not give (`Config.lBank`, log 20). -/
def State.dramBank (s : State) (da : Nat) : Option Nat :=
  match s.space da with
  | .d c => some (2 ^ 16 * (64 * c + dPc (da % 0x1800000000)) + dBank (da % 0x1800000000))
  | .l m => some (2 ^ 16 * (64 * (8 + m) + lChan (da % 2 ^ 39)) + (Config.lBank (da % 2 ^ 39)).toNat)
  | _ => none
/-- The counters of a request's pseudo-channel or channel: 0 quota refusals, 1 ticketed admissions
(`25` R562). -/
def State.bumpQuota (s : State) (da i : Nat) : State :=
  match s.space da with
  | .d c => s.bumpAt (regCdst c) (regCdst c + 0x100 + 0x10 * dPc (da % 0x1800000000) + 8 * i) 1
  | .l m => s.bumpAt (regMddr m) (regMddr m + 0x100 + 0x40 * lChan (da % 2 ^ 39) + 8 * i) 1
  | _ => s
/-- Requests with a ticket of the same bank are admitted in ticket order before any other. -/
def State.blocked (s : State) (r : Refused) : Bool :=
  s.retry.any fun o => o.ticket.isSome && s.dramBank o.req.da == s.dramBank r.req.da &&
    match r.ticket, o.ticket with
    | some a, some b => b < a
    | none, some _ => true
    | _, none => false
/-- Contexts that own granules on a controller. -/
def State.ownersOn (s : State) (t : Nat) : List Nat :=
  ((s.target t).ownA.filterMap fun e =>
    if bit e.2 15 || bit e.2 14 || bit e.2 12 then none else some (fld e.2 11 0)).eraseDups
/-- What a context may have waiting of a quota of `n`: under strict partition an equal share of the contexts that own
granules on the controller, and at least one request (R196, log 20). -/
def State.quota (s : State) (t n : Nat) : Nat := if s.pw.strict then max 1 (n / max 1 (s.ownersOn t).length) else n
/-- Requests that wait at a controller and answer to `p`; under strict partition those of one context. -/
def State.waiting (s : State) (c : Nat) (p : MemReq → Bool) : Nat :=
  (s.dramQ.filter fun r => p r && (!s.pw.strict || r.acts == c)).length
/-- The controller of an address: 0–7 a D-stack, 8–11 an M-die. -/
def State.controller (s : State) (da : Nat) : Option Nat :=
  match s.space da with
  | .d c => some c
  | .l m => some (8 + m)
  | _ => none
/-- Requests that controllers have admitted and whose data or acknowledgements have not returned: initiator and address. -/
def State.inDram (s : State) : List (Nat × Nat) :=
  ((s.dramQ ++ s.dramOut).map fun r => (r.init, r.da)) ++
    s.cores.flatMap fun e => (e.2.loads.filter (·.len != 0)).map fun l => (e.1, l.da)
/-- A tag of an M-die is free for a request that arrives: 1,024 are the update unit's, and 3,072 take requests from other
dies (R194); the M-die's own pool mover needs none (log 53). -/
def State.arrivalTag (s : State) (r : MemReq) : Bool :=
  match s.space r.da with
  | .l m =>
      let held (p : Nat → Bool) : Nat := (s.inDram.filter fun x => s.controller x.2 == some (8 + m) && p x.1).length
      if r.init = 704 + m then held (· == 704 + m) < 1024
      else if r.init = 735 + m then true
      else held (fun i => i != 704 + m && i != 735 + m) < 3072
  | _ => true
/-- A controller has room for a request: no ticket comes before it, a tag of the M-die is free, and the waiting requests
of its pseudo-channel or channel and of its bank are below their quotas (R194–R196). -/
def State.room (s : State) (x : Refused) : Bool :=
  match s.controller x.req.da with
  | none => true
  | some t =>
      !s.blocked x && s.arrivalTag x.req &&
        s.waiting x.req.acts (fun r => s.chanOf r.da == s.chanOf x.req.da) < s.quota t 256 &&
        s.waiting x.req.acts (fun r => s.dramBank r.da == s.dramBank x.req.da) < s.quota t 32
/-- A request is refused once more: counted, and after four refusals it takes a ticket while its
bank's queue holds fewer than 8. -/
def State.refuse (s : State) (r : Refused) : State × Refused :=
  let s := s.bumpQuota r.req.da 0
  let mine := s.retry.filter fun o => o.ticket.isSome && s.dramBank o.req.da == s.dramBank r.req.da
  let next := (s.retry.map fun o => o.ticket.getD 0).foldl max 0 + 1
  (s, { r with
    n := r.n + 1
    ticket := if r.ticket.isNone && 4 ≤ r.n + 1 && mine.length < 8 && (s.dramBank r.req.da).isSome then some next
      else r.ticket })
/-- Requests that an initiator's issue queue holds. -/
def State.queued (s : State) (init : Nat) : Nat := (s.retry.filter fun r => r.req.init == init).length
/-- An access that an initiator's own work makes at a controller: it is refused while a ticket stands before it, no tag of the
M-die is free or a quota is reached, and then holds a place in the initiator's issue queue of 64 entries until its work
tries again (R194–R196). -/
def State.admission (s : State) (init ctx da n : Nat) (write : Bool) : Res Unit :=
  if (s.controller da).isNone then .ok s ()
  else
    let mine (r : Refused) : Bool := r.own && r.req.init == init && r.req.da == da
    let x := (s.retry.find? mine).getD
      { req := { init := init, ctx := ctx, da := da, write := write, len := n, acts := ctx }, own := true }
    let t : State := { s with retry := s.retry.filter fun r => !mine r }
    if t.room x then .ok t ()
    else if 64 ≤ t.queued init then .wait t
    else .wait { (t.refuse x).1 with retry := t.retry ++ [(t.refuse x).2] }

/-- Pieces of a range that lie in one 64 KiB page each: address and length. -/
def pieces : Nat → Nat → Nat → List (Nat × Nat)
  | 0, _, _ => []
  | k + 1, va, n =>
      if n = 0 then []
      else
        let m := min n (0x10000 - va % 0x10000)
        (va, m) :: pieces k (va + m) (n - m)
/-- The pieces of a range. -/
def piecesOf (va n : Nat) : List (Nat × Nat) := pieces (n / 0x10000 + 2) va n

/-- The access stores. -/
def Acc.stores (a : Acc) : Bool := a == .write || a == .device
/-- A tag for an access that an instruction makes itself; it returns with the access, in the same step (log 53). -/
def State.withTag (s : State) (init ctx : Nat) : Res Unit :=
  if (s.takeTag init ctx).isNone then .wait (s.tagWait init ctx) else .ok s ()
/-- One piece of an access: translated, checked, with its tags and in its order, and its device address given. -/
def State.aim (s : State) (init ctx va n : Nat) (a : Acc) : Res Nat :=
  (s.xlate init ctx (initCluster init) va a).bind fun s e =>
    (s.check init ctx (e.at va) n a.stores false).bind fun s _ =>
      (s.withTag init ctx).bind fun s _ =>
        (s.admission init ctx (e.at va) n a.stores).bind fun s _ =>
          (s.outside init ctx (e.at va) n a.stores).bind fun s _ => .ok s (e.at va)
/-- An access that is made touches the pool page in which it lies, when the context owns it (R181). -/
def State.touched (s : State) (init ctx va da : Nat) : State :=
  if (Tab.get {} s.pages (da / 2 ^ 16)).owner = some ctx then s.touchPool init ctx va da else s
/-- One piece of an access that is then made. -/
def State.locate (s : State) (init ctx va n : Nat) (a : Acc) : Res Nat :=
  (s.aim init ctx va n a).bind fun s da => .ok (s.touched init ctx va da) da

/-- Device addresses of a range of context memory, piece by piece (R164). -/
def State.locateAll (s : State) (init ctx : Nat) (a : Acc) :
    List (Nat × Nat) → Res (List (Nat × Nat))
  | [] => .ok s []
  | (va, n) :: ps =>
      (s.locate init ctx va n a).bind fun s da =>
        (s.locateAll init ctx a ps).bind fun s l => .ok s ((da, n) :: l)

/-- Reads a range of context memory. -/
def State.readVa (s : State) (init ctx va n : Nat) : Res (List Byte) :=
  (s.locateAll init ctx .read (piecesOf va n)).bind fun s l =>
    .ok s (l.flatMap fun p => s.readDa p.1 p.2)

/-- Writes bytes over pieces of device memory. -/
def State.writePieces (s : State) : List (Nat × Nat) → List Byte → State
  | [], _ => s
  | (da, n) :: l, b => (s.writeDa da (b.take n)).writePieces l (b.drop n)

/-- Writes a range of context memory; every page is translated and checked before the first
byte is written (log 12). -/
def State.writeVa (s : State) (init ctx va : Nat) (b : List Byte) (a : Acc := .write) :
    Res Unit :=
  (s.locateAll init ctx a (piecesOf va b.length)).bind fun s l => .ok (s.writePieces l b) ()

end Sys2Proof.Machine
end

