-- ==== Sys2Proof/Machine/Owners.lean ====
section
/-! DEFINITION. The fields of a charter image, the charter and entry of a context, the two DRBGs, and the
end of a key slot (`15` R375–R383, `17` R406). -/

namespace Sys2Proof.Machine

/-! ### Sections of a charter image (`17` R406) -/

/-- Byte `o` of an image. -/
def imgByte (c : List Byte) (o : Nat) : Nat := (c.getD o 0).toNat
/-- NOWN. -/
def chNown (c : List Byte) : Nat := imgByte c 4
/-- NCTX. -/
def chNctx (c : List Byte) : Nat := imgByte c 5
/-- NCHN. -/
def chNchn (c : List Byte) : Nat := imgByte c 6
/-- NMEAS. -/
def chNmeas (c : List Byte) : Nat := imgByte c 7
/-- NROOT. -/
def chNroot (c : List Byte) : Nat := imgByte c 8
/-- Offset of owner entry `j`. -/
def chOwner (_ : List Byte) (j : Nat) : Nat := 64 + 72 * j
/-- Offset of key entry `k`. -/
def chKey (c : List Byte) (k : Nat) : Nat := 64 + 72 * chNown c + 8 * k
/-- Offset of context entry `i`. -/
def chEntry (c : List Byte) (i : Nat) : Nat := chKey c 8 + 128 * i
/-- Offset of channel entry `i`. -/
def chChan (c : List Byte) (i : Nat) : Nat := chEntry c (chNctx c) + 48 * i
/-- Offset of the policies. -/
def chPol (c : List Byte) : Nat := chChan c (chNchn c)
/-- Offset of measurement `i`. -/
def chMeas (c : List Byte) (i : Nat) : Nat := chPol c + 32 + 32 * i
/-- Offset of root `i`. -/
def chRoot (c : List Byte) (i : Nat) : Nat := chMeas c (chNmeas c) + 32 * i
/-- Offset of signature `j`: the digested part ends at signature 0 (R407). -/
def chSig (c : List Byte) (j : Nat) : Nat := chRoot c (chNroot c) + 64 * j
/-- The charter digest (R407). -/
def chDigest (c : List Byte) : BitVec 256 := Config.sm3 (c.take (chSig c 0))

/-- The admitted charter with a digest. -/
def State.charter? (s : State) (chd : BitVec 256) : Option Charter := s.charters.find? fun c => c.chd == chd
/-- The image of the charter of a context; empty when it has none. -/
def State.charterOf (s : State) (c : Nat) : List Byte :=
  match s.charter? (s.ctx c).chd with
  | some x => x.image
  | none => []
/-- Byte `o` of the charter entry that a context is bound to; 0 when it is bound to none. -/
def State.entryByte (s : State) (c o : Nat) : Nat :=
  match (s.ctx c).entry with
  | some i => imgByte (s.charterOf c) (chEntry (s.charterOf c) i + o)
  | none => 0
/-- The entry of a context has CONF set. -/
def State.confidential (s : State) (c : Nat) : Bool := (s.entryByte c 97).testBit 0
/-- The entry of a context has NONDET set. -/
def State.nondet (s : State) (c : Nat) : Bool := (s.entryByte c 97).testBit 1
/-- Bit `b` of PROF of a context's charter: 0 PCTX, 1 PSTREAM, 2 PMARK, 3 FULL (`17` R423). -/
def State.prof (s : State) (c b : Nat) : Bool := (imgByte (s.charterOf c) (chPol (s.charterOf c) + 16)).testBit b
/-- The operator sees everything of a context: it is not confidential, or its charter grants FULL
(`17` R411, R423). -/
def State.full (s : State) (c : Nat) : Bool := !s.confidential c || s.prof c 3
/-- Role bit `b` of the entry of a context: 0 policy, 1 reward, 2 learner. -/
def State.role (s : State) (c b : Nat) : Bool := (s.entryByte c 96).testBit b

/-! ### The DRBGs (`15` R381–R383) -/

/-- One request of a DRBG, which reseeds after 2²⁰ of them; with the source FAILED a reseed
that falls due leaves it refusing. -/
def Drbg.request (d : Drbg) (failed : Bool) : Drbg :=
  if d.reqs + 1 < 2 ^ 20 then { d with reqs := d.reqs + 1 }
  else if failed then { d with reqs := d.reqs + 1, stuck := true }
  else { d with reqs := 0, reseeds := d.reseeds + 1 }
/-- A reseed falls due (R381–R383). -/
def Drbg.reseed (d : Drbg) (failed : Bool) : Drbg :=
  if failed then { d with stuck := true } else { d with reqs := 0, reseeds := d.reseeds + 1 }
/-- A draw of `w` bits from the key DRBG: a free value (log 1); none when it refuses. -/
def State.drawKey (s : State) (w : Nat) : Option (BitVec w × State) :=
  if s.keys.key.stuck then none
  else some (({ s with keys := { s.keys with key := s.keys.key.request s.keys.failed } }).free w)
/-- A draw of `w` bits from the key DRBG with prediction resistance: it reseeds from the source first. None when the source
is FAILED or the DRBG refuses (R381, R383). -/
def State.drawFresh (s : State) (w : Nat) : Option (BitVec w × State) :=
  if s.keys.failed then none
  else ({ s with keys := { s.keys with key := s.keys.key.reseed false } } : State).drawKey w
/-- The mask under which a key's shares are first stored: from the key DRBG, and a free value while that refuses (R379, R381,
log 23). -/
def State.mask (s : State) (w : Nat) : BitVec w × State := (s.drawKey w).getD (s.free w)
/-- A draw of one slot of 2,048 bits from the sampling DRBG; none when it refuses. -/
def State.drawSample (s : State) : Option (BitVec 2048 × State) :=
  if s.keys.samp.stuck then none
  else some (({ s with keys := { s.keys with samp := s.keys.samp.request s.keys.failed } }).free 2048)

/-! ### Slots of keys (`15` R375–R378) -/

/-- Cached keys of the engines that meet `p` of context, epoch, slot and GEN are purged (R376, R378). -/
def State.purge (s : State) (p : Nat × Nat × Nat × Nat → Bool) : State :=
  { s with keys := { s.keys with cache := s.keys.cache.map fun e => (e.1, e.2.filter fun x => !p x) } }
/-- A slot is invalidated: EMPTY, its shares cleared and its GEN raised; one whose GEN would pass
2²⁴ − 1 is RETIRED. Every engine cache purges the keys derived from it (R377, R378). -/
def State.invalidate (s : State) (i : Nat) : State :=
  (s.purge fun x => x.2.2.1 == i).updKslot i fun k =>
    if k.gen + 1 ≤ 2 ^ 24 - 1 then { gen := k.gen + 1 } else { st := .retired, gen := k.gen }
/-- The usable slot of a kind and charter, and for an owner key of a key index. -/
def State.slotOf (s : State) (kind : Nat) (chd : BitVec 256) (keyid : Nat) : Option Nat :=
  ((List.range 59).map (· + 5)).find? fun i =>
    let k := s.kslot i
    k.st == .valid && k.kind == kind && k.chd == chd && k.keyid == keyid && s.usable 4 i
/-- The JOBMEM slot of a charter (R375). -/
def State.jobSlot (s : State) (chd : BitVec 256) : Option Nat := s.slotOf 5 chd 0
/-- The JOBMEM slot of a charter is invalidated once its last context on the module is gone (R378). -/
def State.dropJob (s : State) (chd : BitVec 256) : State :=
  if s.ctxs.any fun e => e.2.st != .free && e.2.chd == chd then s
  else match s.jobSlot chd with
    | some i => s.invalidate i
    | none => s

end Sys2Proof.Machine
end

