-- ==== Sys2Proof/Machine/Num.lean ====
section
/-! DEFINITION. The numbers of the machine: formats, exact values, rounding and conversion
(`04_number_formats`). -/

namespace Sys2Proof.Machine

/-- An exact value: NaN, an infinity or ±m·2^e, with a signed zero. -/
inductive FVal
  /-- NaN. -/
  | nan
  /-- ∞, negative or not. -/
  | inf (neg : Bool)
  /-- ±m·2^e. -/
  | fin (neg : Bool) (m : Nat) (e : Int)
  deriving DecidableEq, Repr

/-- Positive zero. -/
def FVal.zero : FVal := .fin false 0 0
/-- The value is a zero. -/
def FVal.isZero : FVal → Bool
  | .fin _ m _ => m == 0
  | _ => false
/-- The value is finite. -/
def FVal.isFin : FVal → Bool
  | .fin _ _ _ => true
  | _ => false
/-- The value is NaN. -/
def FVal.isNan : FVal → Bool
  | .nan => true
  | _ => false
/-- The sign. -/
def FVal.neg? : FVal → Bool
  | .nan => false
  | .inf n => n
  | .fin n _ _ => n

/-- 2^(i) for a non-negative exponent. -/
def pow2 (i : Int) : Nat := 2 ^ i.toNat

/-- An integer times 2^e. -/
def ofInt (i : Int) (e : Int := 0) : FVal := .fin (i < 0) i.natAbs e

/-- Order of the magnitudes m·2^e and n·2^f. -/
def magLt (m : Nat) (e : Int) (n : Nat) (f : Int) : Bool :=
  let k := min e f
  m * pow2 (e - k) < n * pow2 (f - k)
/-- m·2^e ≤ n·2^f. -/
def magLe (m : Nat) (e : Int) (n : Nat) (f : Int) : Bool := !magLt n f m e

/-- A value times 2^x, exactly. -/
def FVal.scale (v : FVal) (x : Int) : FVal :=
  match v with
  | .fin n m e => .fin n m (e + x)
  | v => v
/-- The magnitude. -/
def FVal.abs : FVal → FVal
  | .fin _ m e => .fin false m e
  | .inf _ => .inf false
  | .nan => .nan
/-- The value with its sign inverted. -/
def FVal.negate : FVal → FVal
  | .fin n m e => .fin (!n) m e
  | .inf n => .inf (!n)
  | .nan => .nan

/-- Exact product; 0 × ∞ is NaN (`03` R75). -/
def FVal.mul (a b : FVal) : FVal :=
  match a, b with
  | .nan, _ => .nan
  | _, .nan => .nan
  | .inf s, .inf t => .inf (s != t)
  | .inf s, .fin t m _ => if m = 0 then .nan else .inf (s != t)
  | .fin s m _, .inf t => if m = 0 then .nan else .inf (s != t)
  | .fin s m e, .fin t n f => .fin (s != t) (m * n) (e + f)
/-- Exact sum; an exact zero is +0 unless both are −0, and ∞ − ∞ is NaN (`03` R75). -/
def FVal.add (a b : FVal) : FVal :=
  match a, b with
  | .nan, _ => .nan
  | _, .nan => .nan
  | .inf s, .inf t => if s = t then .inf s else .nan
  | .inf s, _ => .inf s
  | _, .inf t => .inf t
  | .fin s m e, .fin t n f =>
      let k := min e f
      let x : Int := (m * pow2 (e - k) : Nat)
      let y : Int := (n * pow2 (f - k) : Nat)
      let r := (if s then -x else x) + (if t then -y else y)
      if r = 0 then .fin (s && t) 0 0 else .fin (r < 0) r.natAbs k
/-- Exact difference. -/
def FVal.sub (a b : FVal) : FVal := a.add b.negate

/-- a < b over numbers and infinities; false when either is NaN. -/
def FVal.lt (a b : FVal) : Bool :=
  match a, b with
  | .nan, _ => false
  | _, .nan => false
  | .inf s, .inf t => s && !t
  | .inf s, _ => s
  | _, .inf t => !t
  | .fin s m e, .fin t n f =>
      if s && !t then m != 0 || n != 0
      else if !s && t then false
      else if s then magLt n f m e
      else magLt m e n f
/-- a = b as numbers: −0 equals +0; false when either is NaN. -/
def FVal.eqv (a b : FVal) : Bool := !a.isNan && !b.isNan && !a.lt b && !b.lt a
/-- The total order of `05` R118 and R123 below NaN: −0 orders below +0. -/
def FVal.below (a b : FVal) : Bool :=
  a.lt b || (a.isZero && b.isZero && a.neg? && !b.neg?)

/-! ### Formats (R89) -/

/-- How a float format encodes its specials. -/
inductive Specials
  /-- Exponent all ones: ∞ with mantissa 0, NaN otherwise. -/
  | ieee
  /-- Exponent and mantissa all ones: NaN; no ∞. -/
  | e4m3
  /-- None. -/
  | none
  deriving DecidableEq, Repr

/-- A format: a float layout, or two's complement with a weight. -/
inductive Fmt
  /-- Exponent bits, mantissa bits, bias, specials. -/
  | flt (eb mb : Nat) (bias : Int) (sp : Specials)
  /-- Width and exponent of the weight of bit 0. -/
  | int (w : Nat) (e : Int)
  deriving DecidableEq, Repr

/-- The format of a code 0–14 (R89); 15, BFX48, is no element format. -/
def fmtOf (code : Nat) : Fmt :=
  match code with
  | 0 => .flt 8 23 127 .ieee
  | 1 => .flt 8 7 127 .ieee
  | 2 => .flt 5 10 15 .ieee
  | 3 => .flt 4 3 7 .e4m3
  | 4 => .flt 5 2 15 .ieee
  | 5 => .flt 4 3 7 .e4m3
  | 6 => .flt 5 2 15 .ieee
  | 7 => .flt 3 2 3 .none
  | 8 => .flt 2 3 1 .none
  | 9 => .flt 2 1 1 .none
  | 10 => .int 8 (-6)
  | 11 => .int 8 0
  | 12 => .int 4 0
  | 13 => .int 16 0
  | _ => .int 32 0

/-- Bits of an element (R89). -/
def Fmt.width : Fmt → Nat
  | .flt eb mb _ _ => 1 + eb + mb
  | .int w _ => w
/-- Width of a format code. -/
def fmtWidth (code : Nat) : Nat := (fmtOf code).width
/-- A code names an MX element format (R89). -/
def isMx (code : Nat) : Bool := 5 ≤ code && code ≤ 10
/-- A code names an integer format without scale. -/
def isInt (code : Nat) : Bool := 11 ≤ code && code ≤ 14

/-- A two's-complement number of `w` bits. -/
def toInt (w x : Nat) : Int :=
  if x % 2 ^ w < 2 ^ (w - 1) then (x % 2 ^ w : Nat) else (x % 2 ^ w : Nat) - (2 ^ w : Nat)
/-- The two's-complement bits of an integer. -/
def ofIntBits (w : Nat) (i : Int) : Nat := (i % (2 ^ w : Nat)).toNat

/-- The value that bits encode (R89, R90). -/
def Fmt.value (f : Fmt) (x : Nat) : FVal :=
  match f with
  | .int w e => ofInt (toInt w x) e
  | .flt eb mb bias sp =>
      let neg := x.testBit (eb + mb)
      let ex := x / 2 ^ mb % 2 ^ eb
      let man := x % 2 ^ mb
      let top := 2 ^ eb - 1
      let ordinary : FVal :=
        if ex = 0 then .fin neg man (1 - bias - mb)
        else .fin neg (2 ^ mb + man) (ex - bias - mb)
      match sp with
      | .ieee => if ex = top then (if man = 0 then .inf neg else .nan) else ordinary
      | .e4m3 => if ex = top ∧ man = 2 ^ mb - 1 then .nan else ordinary
      | .none => ordinary
/-- The value of an element of a format code. -/
def valueOf (code x : Nat) : FVal := (fmtOf code).value x

/-- Largest finite magnitude of a float format: significand and exponent. -/
def Fmt.largest : Fmt → Nat × Int
  | .flt eb mb bias .ieee => (2 ^ (mb + 1) - 1, (2 ^ eb - 2 : Nat) - bias - mb)
  | .flt eb mb bias .e4m3 => (2 ^ (mb + 1) - 2, (2 ^ eb - 1 : Nat) - bias - mb)
  | .flt eb mb bias .none => (2 ^ (mb + 1) - 1, (2 ^ eb - 1 : Nat) - bias - mb)
  | .int w e => (2 ^ (w - 1) - 1, e)
/-- The format has ∞. -/
def Fmt.hasInf : Fmt → Bool
  | .flt _ _ _ .ieee => true
  | _ => false
/-- The default NaN, 0 in a format without one (R89). -/
def Fmt.nanBits : Fmt → Nat
  | .flt eb mb _ .ieee => (2 ^ eb - 1) * 2 ^ mb + 2 ^ (mb - 1)
  | .flt eb mb _ .e4m3 => (2 ^ eb - 1) * 2 ^ mb + (2 ^ mb - 1)
  | _ => 0
/-- The encoding of ∞. -/
def Fmt.infBits (f : Fmt) (neg : Bool) : Nat :=
  match f with
  | .flt eb mb _ _ => b2n neg * 2 ^ (eb + mb) + (2 ^ eb - 1) * 2 ^ mb
  | _ => 0
/-- The encoding of the largest finite value of a sign; two's-complement formats with a
weight are symmetric (R91). -/
def Fmt.maxBits (f : Fmt) (neg : Bool) : Nat :=
  match f with
  | .flt eb mb _ .ieee =>
      b2n neg * 2 ^ (eb + mb) + ((2 ^ eb - 2) * 2 ^ mb + (2 ^ mb - 1))
  | .flt eb mb _ .e4m3 =>
      b2n neg * 2 ^ (eb + mb) + ((2 ^ eb - 1) * 2 ^ mb + (2 ^ mb - 2))
  | .flt eb mb _ .none => b2n neg * 2 ^ (eb + mb) + (2 ^ (eb + mb) - 1)
  | .int w _ => if neg then ofIntBits w (-(2 ^ (w - 1) - 1 : Nat)) else 2 ^ (w - 1) - 1

/-! ### Rounding (R107, R108) -/

/-- A rounding mode; SR carries its 16 random bits. -/
inductive Rnd
  /-- To nearest even. -/
  | rne
  /-- Toward zero. -/
  | rz
  /-- Toward +∞. -/
  | ru
  /-- Stochastic. -/
  | sr (u : Nat)
  deriving DecidableEq, Repr

/-- Rounding of m / 2^k to an integer magnitude, and whether it was inexact. -/
def roundShift (r : Rnd) (neg : Bool) (m k : Nat) : Nat × Bool :=
  let t := m / 2 ^ k
  let rem := m % 2 ^ k
  if rem = 0 then (t, false)
  else
    let up : Bool := match r with
      | .rne => decide (2 ^ k < 2 * rem) || (decide (2 * rem = 2 ^ k) && t % 2 == 1)
      | .rz => false
      | .ru => !neg
      | .sr u =>
          let bits := if 16 ≤ k then m / 2 ^ (k - 16) % 2 ^ 16 else m * 2 ^ (16 - k) % 2 ^ 16
          decide (2 ^ 16 ≤ bits + u)
    (if up then t + 1 else t, true)

/-- Rounding of m·2^e to a multiple of 2^q: the multiple, and whether it was inexact. -/
def roundTo (r : Rnd) (neg : Bool) (m : Nat) (e q : Int) : Nat × Bool :=
  if q ≤ e then (m * pow2 (e - q), false) else roundShift r neg m (q - e).toNat

/-- ⌊log₂ (m·2^e)⌋ for a non-zero m. -/
def ilog2 (m : Nat) (e : Int) : Int := (Nat.log2 m : Int) + e

/-- A value overflows a format under a mode (R95): under RNE from the largest finite value
plus half its ulp, otherwise above the largest finite value. -/
def Fmt.over (f : Fmt) (r : Rnd) (m : Nat) (e : Int) : Bool :=
  let l := f.largest
  match r with
  | .rne => magLe (2 * l.1 + 1) (l.2 - 1) m e
  | _ => magLt l.1 l.2 m e

/-! ### Flags of a conversion, in the places of the matrix flags (`03` R81) -/

/-- NV. -/
def fNV : Nat := 1
/-- OF. -/
def fOF : Nat := 2
/-- UF. -/
def fUF : Nat := 4
/-- NX. -/
def fNX : Nat := 8
/-- SAT. -/
def fSAT : Nat := 16
/-- CF. -/
def fCF : Nat := 32

/-- The encoding of a float that rounds to t·2^q, with q its quantum. -/
def Fmt.enc (f : Fmt) (neg : Bool) (t : Nat) (q : Int) : Nat :=
  match f with
  | .int w _ => ofIntBits w (if neg then -(t : Int) else t)
  | .flt eb mb bias _ =>
      let s := b2n neg * 2 ^ (eb + mb)
      if t < 2 ^ mb then s + t
      else if t < 2 ^ (mb + 1) then s + ((q + mb + bias).toNat * 2 ^ mb + (t - 2 ^ mb))
      else s + ((q + 1 + mb + bias).toNat * 2 ^ mb + (t / 2 - 2 ^ mb))

/-- Conversion of an exact value into a float format, or of v / 2^X into an MX element
format (R95): bits and flags. `mx` is whether the destination is an MX element format. A NaN
block is decided before (R99). MXI8 has no smallest normal, so no value sets UF there (DESIGN CHOICE, log 50). -/
def convFloat (f : Fmt) (mx : Bool) (r : Rnd) (v : FVal) : Nat × Nat :=
  match v with
  | .nan => (f.nanBits, 0)
  | .inf s => if f.hasInf then (f.infBits s, 0) else (f.nanBits, fNV)
  | .fin neg m e =>
      if m = 0 then
        (match f with | .int _ _ => 0 | _ => f.enc neg 0 0, 0)
      else if f.over r m e then
        if mx || !f.hasInf then (f.maxBits neg, fOF + fNX + fSAT)
        else match r with
          | .rz => (f.maxBits neg, fOF + fNX)
          | .ru => (if neg then f.maxBits neg else f.infBits neg, fOF + fNX)
          | _ => (f.infBits neg, fOF + fNX)
      else
        match f with
        | .int _ ew =>
            let (t, nx) := roundTo r neg m e ew
            (f.enc neg t 0, if nx then fNX else 0)
        | .flt _ mb bias _ =>
            let q := max (ilog2 m e) (1 - bias) - mb
            let (t, nx) := roundTo r neg m e q
            (f.enc neg t q,
              if nx then fNX + (if magLt m e 1 (1 - bias) then fUF else 0) else 0)

/-- Conversion into INT4, INT8, INT16 or INT32 (R96). `fromInt` is whether the source is an
integer format. -/
def convInt (w : Nat) (fromInt : Bool) (r : Rnd) (v : FVal) : Nat × Nat :=
  let hi : Int := (2 ^ (w - 1) : Nat) - 1
  let lo : Int := -(2 ^ (w - 1) : Nat)
  match v with
  | .nan => (0, fNV)
  | .inf s => (ofIntBits w (if s then lo else hi), fNV + fSAT)
  | .fin neg m e =>
      let (t, nx) := roundTo r neg m e 0
      let i : Int := if neg then -(t : Int) else t
      let sat := if fromInt then fSAT else fSAT + fNX
      if hi < i then (ofIntBits w hi, sat)
      else if i < lo then (ofIntBits w lo, sat)
      else (ofIntBits w i, if nx then fNX else 0)

/-- Conversion of a value into a format code 0–4 or 11–14 (R95, R96). -/
def convert (code : Nat) (fromInt : Bool) (r : Rnd) (v : FVal) : Nat × Nat :=
  if isInt code then convInt (fmtWidth code) fromInt r v else convFloat (fmtOf code) false r v

/-- The FP32 encoding of a value rounded to nearest even, and its flags. -/
def toF32 (v : FVal) : Nat × Nat := convFloat (fmtOf 0) false .rne v
/-- FP32 encoding as a value. -/
def ofF32 (x : BitVec 32) : FVal := valueOf 0 x.toNat

/-! ### Scale bytes (R93, R94) -/

/-- Exponent of a scale byte; none for 0xFF. -/
def scaleExp (b : Nat) : Option Int := if b = 0xFF then none else some ((b : Int) - 127)
/-- An element under its scale byte (R94). -/
def scaled (v : FVal) (b : Nat) : FVal :=
  match scaleExp b with
  | none => .nan
  | some x => v.scale x

/-! ### Fresh block scales (R97–R99) -/

/-- Largest normal exponent of an element format (R98). -/
def emaxOf (code : Nat) : Int :=
  match fmtOf code with
  | .flt _ mb _ _ => (fmtOf code).largest.2 + mb
  | .int _ _ => 0

/-- The greatest finite magnitude of a block; none when no element is finite and non-zero. -/
def amax : List FVal → Option (Nat × Int)
  | [] => none
  | v :: vs =>
      match v, amax vs with
      | .fin _ m e, none => if m = 0 then none else some (m, e)
      | .fin _ m e, some (n, f) => if magLt n f m e then some (m, e) else some (n, f)
      | _, r => r

/-- Clamps a scale exponent to −127 … 127. -/
def clampX (x : Int) : Int := max (-127) (min 127 x)

/-- The least X with m·2^e ≤ n·2^(f + X). -/
def leastX (m : Nat) (e : Int) (n : Nat) (f : Int) : Int :=
  let x := ilog2 m e - ilog2 n f
  if magLe m e n (f + x) then x else x + 1

/-- Scale exponent of a block under a rule: 1 OCP (R97), 2 round-up (R98). -/
def freshX (code rule : Nat) (a : Nat × Int) : Int :=
  if rule = 1 then clampX (ilog2 a.1 a.2 - emaxOf code)
  else clampX (leastX a.1 a.2 (fmtOf code).largest.1 (fmtOf code).largest.2)

/-- A block under a fresh scale rule: its scale byte, elements and flags (R97–R99). `rs` is
the rounding of each element. -/
def freshBlock (code rule : Nat) (rs : List Rnd) (vs : List FVal) : Nat × List Nat × Nat :=
  let f := fmtOf code
  let bad := vs.any fun v => v.isNan || (!v.isFin && !f.hasInf)
  if bad then
    (0xFF, vs.map fun _ => 0,
      if vs.any fun v => !v.isFin && !v.isNan && !f.hasInf then fNV else 0)
  else match amax vs with
  | none => (0x7F, vs.map fun v => (convFloat f true .rne v).1, 0)
  | some a =>
      let x := freshX code rule a
      let r := (vs.zip rs).map fun p => convFloat f true p.2 (p.1.scale (-x))
      ((x + 127).toNat, r.map (·.1), r.foldl (fun a p => a ||| p.2) 0)

/-! ### Carried scales (R100–R102) -/

/-- A block in carried mode under an entry: elements, entry and flags (R101). -/
def carriedBlock (code : Nat) (entry : BitVec 32) (rs : List Rnd) (vs : List FVal) :
    List Nat × BitVec 32 × Nat :=
  let f := fmtOf code
  let b := fld entry 7 0
  match scaleExp b with
  | none => (vs.map fun _ => f.nanBits, entry ||| 0x400, fNV)
  | some x =>
      let one (v : FVal) (r : Rnd) : Nat × Nat × Bool × Bool :=
        match v.scale (-x) with
        | .fin neg m e =>
            let hi := magLe (2 * f.largest.1) (f.largest.2 - 2) m e
            if m ≠ 0 && f.over r m e then
              (f.maxBits neg, fSAT + fOF + fNX + fCF, true, true)
            else
              let c := convFloat f false r (.fin neg m e)
              (c.1, c.2, false, hi)
        | w => let c := convFloat f false r w; (c.1, c.2, false, false)
      let l := (vs.zip rs).map fun p => one p.1 p.2
      let ovf := l.any fun e => e.2.2.1
      let hi := l.any fun e => e.2.2.2
      (l.map (·.1),
        entry ||| 0x400 ||| (if ovf then 0x100 else 0) ||| (if hi then 0x200 else 0),
        l.foldl (fun a e => a ||| e.2.1) 0)

/-- One entry of CSADV with hold interval `h` (R102). -/
def csAdvance (h : Nat) (e : BitVec 32) : BitVec 32 :=
  let scale := fld e 7 0
  let run := fld e 31 16
  let put (scale run : Nat) : BitVec 32 :=
    (e &&& 0xF800) ||| BitVec.ofNat 32 scale ||| BitVec.ofNat 32 (run % 65536 * 65536)
  if !bit e 10 then e
  else if bit e 8 then put (if scale < 0xFE then scale + 1 else scale) 0
  else if bit e 9 then put scale 0
  else if h ≤ run + 1 then put (if 0 < scale then scale - 1 else scale) 0
  else put scale (run + 1)

/-! ### BFX48 (R103–R106) -/

/-- The local exponent byte of a block (R104). -/
def bfxLocal (vs : List FVal) : Nat :=
  if vs.any fun v => !v.isFin then 0xFF
  else match amax vs with
  | none => 0
  | some a => (max 0 (min 0xFE (ilog2 a.1 a.2 + 127))).toNat

/-- An element under an agreed byte, with its flags: 48-bit two's complement, clamped to
±(2³⁵ − 1) with SAT; a NaN or ∞ is 0 and sets NV (R105). An element that rounds inexactly sets NX, as `05` R121
says of a result; R105 itself names SAT and NV alone (DEDUCED, log 45). -/
def bfxElem (b : Nat) (v : FVal) : Nat × Nat :=
  match v with
  | .fin neg m e =>
      let r := roundTo .rne neg m (e + 34 - ((b : Int) - 127)) 0
      let sat := decide (2 ^ 35 ≤ r.1)
      let t := if sat then 2 ^ 35 - 1 else r.1
      (ofIntBits 48 (if neg then -(t : Int) else t), (if sat then fSAT else 0) + if r.2 then fNX else 0)
  | _ => (0, fNV)

/-- The 193 bytes of a block under an agreed byte, with its flags (R103, R105). A contributor
whose own block is non-finite under 0xFF sends zero integers. -/
def bfxBlock (b : Nat) (vs : List FVal) : List Byte × Nat :=
  if b = 0xFF then (BitVec.ofNat 8 0xFF :: List.replicate 192 0, 0)
  else
    let es := vs.map (bfxElem b)
    (BitVec.ofNat 8 b :: es.flatMap (fun e =>
        [BitVec.ofNat 8 e.1, BitVec.ofNat 8 (e.1 / 2 ^ 8), BitVec.ofNat 8 (e.1 / 2 ^ 16),
         BitVec.ofNat 8 (e.1 / 2 ^ 24), BitVec.ofNat 8 (e.1 / 2 ^ 32),
         BitVec.ofNat 8 (e.1 / 2 ^ 40)]),
      es.foldl (fun a e => a ||| e.2) 0)

/-- Element `j` of a block as an exact value: NaN when its exponent byte is 0xFF (R103). -/
def bfxValue (blk : List Byte) (j : Nat) : FVal :=
  let b := (blk.getD 0 0).toNat
  if b = 0xFF then .nan
  else
    let i := (List.range 6).foldl (fun a k => a + (blk.getD (1 + 6 * j + k) 0).toNat * 256 ^ k) 0
    ofInt (toInt 48 i) ((b : Int) - 127 - 34)

/-! ### ACC60 (`03` R74) -/

/-- A value rounded to nearest even into 48 bits of precision, and whether it overflowed. -/
def acc60 (v : FVal) : FVal × Bool :=
  match v with
  | .fin neg m e =>
      if m = 0 then (.fin neg 0 0, false)
      else
        let q := ilog2 m e - 47
        let t := (roundTo .rne neg m e q).1
        if magLt (2 ^ 48 - 1) (1023 - 47) t q then (.inf neg, true) else (.fin neg t q, false)
  | v => (v, false)

/-- An ACC60 word as a value. -/
def accValue (x : BitVec 60) : FVal :=
  let s := bit x 59
  let ex := fld x 58 48
  let sig := fld x 47 0
  if ex = 0x7FF then (if sig = 0 then .inf s else .nan)
  else .fin s sig ((ex : Int) - 1023 - 47)

/-- The ACC60 word of a rounded value. A NaN is positive with significand 2⁴⁷ and a zero has exponent field 0: R74 gives
neither (DESIGN CHOICE, log 50). -/
def accBits (v : FVal) : BitVec 60 :=
  match v with
  | .nan => BitVec.ofNat 60 (0x7FF * 2 ^ 48 + 2 ^ 47)
  | .inf s => BitVec.ofNat 60 (b2n s * 2 ^ 59 + 0x7FF * 2 ^ 48)
  | .fin s m e =>
      if m = 0 then BitVec.ofNat 60 (b2n s * 2 ^ 59)
      else
        -- the significand with its leading bit at bit 47
        let k := 47 - (Nat.log2 m : Int)
        let sig := if 0 ≤ k then m * pow2 k else m / pow2 (-k)
        let ex := (ilog2 m e + 1023).toNat
        BitVec.ofNat 60 (b2n s * 2 ^ 59 + ex * 2 ^ 48 + sig % 2 ^ 48)

/-! ### The bit function (`05` R125) -/

/-- 32-bit left rotation. -/
def rotl (x : BitVec 32) (n : Nat) : BitVec 32 := x.rotateLeft n

/-- One round of F on (x0, x1, x2, x3). -/
def fRound (k : List (BitVec 32)) (x : BitVec 32 × BitVec 32 × BitVec 32 × BitVec 32) (r : Nat) :
    BitVec 32 × BitVec 32 × BitVec 32 × BitVec 32 :=
  let (x0, x1, x2, x3) := x
  let x0 := x0 + x1 + k.getD r 0
  let x3 := rotl (x3 ^^^ x0) 16
  let x2 := x2 + x3 + k.getD ((r + 1) % 4) 0
  let x1 := rotl (x1 ^^^ x2) 12
  let x0 := x0 + x1
  let x3 := rotl (x3 ^^^ x0) 8 ^^^ BitVec.ofNat 32 r
  let x2 := x2 + x3
  let x1 := rotl (x1 ^^^ x2) 7
  (x0, x1, x2, x3)

/-- F of a key, a lane word and a counter. -/
def bitF (k : List (BitVec 32)) (l : BitVec 32) (c : BitVec 64) : BitVec 32 :=
  let s0 := c.truncate 32
  let r := [0, 1, 2, 3].foldl (fRound k) (s0, (c >>> 32).truncate 32, l, 0x9E3779B9)
  (r.1 + s0) ^^^ (r.2.2.1 + l)

/-- A draw of a lane generator (`05` R126). -/
def laneDraw (seed : W64) (lane : Nat) (c : W64) : BitVec 32 :=
  bitF [seed.truncate 32, (seed >>> 32).truncate 32, 0, 1] (BitVec.ofNat 32 lane) c
/-- The 16 bits of stochastic rounding for an element index (R109, `05` R126). -/
def srBits (jseed : W64) (step : BitVec 32) (x : W64) : Nat :=
  (bitF [jseed.truncate 32, (jseed >>> 32).truncate 32, step, 2] 0 x).toNat % 65536

end Sys2Proof.Machine
end

