-- ==== Sys2Proof/Machine/Flags.lean ====
section
/-! DEFINITION. The sticky status word of a core: matrix flags in bits [5:0], vector and
reduction flags in bits [15:8] (`03` R81, `05` R121). -/

namespace Sys2Proof.Machine

/-- Matrix flags of a conversion (`03` R81). -/
def mxFlags (f : Nat) : BitVec 16 := BitVec.ofNat 16 (f % 64)
/-- Vector flags of a conversion: NV, OF, UF, NX and SAT in bits 8–12 (`05` R121). -/
def vFlags (f : Nat) : BitVec 16 := BitVec.ofNat 16 (f % 32 * 256)
/-- VDZ. -/
def flVDZ : BitVec 16 := 0x2000
/-- RNX. -/
def flRNX : BitVec 16 := 0x4000
/-- GWR. -/
def flGWR : BitVec 16 := 0x8000

/-- Matrix flags of a list of conversions. -/
def joinFlags (l : List Nat) : Nat := l.foldl (fun a f => a ||| f) 0

/-- SYS.FLAGS: the status word after the bits of `m` outside [7:6] are cleared (`06` R153,
R154). -/
def clearFlags (f : BitVec 16) (m : W64) : BitVec 16 := f &&& ~~~(m.truncate 16 &&& 0xFF3F)

end Sys2Proof.Machine
end

