-- ==== Sys2Proof/Machine/Lost.lean ====
section
/-! DEFINITION. Losing a context, its status area, and the issue of a core instruction: the
order of checks, the predicate and the program counter (`02` R32, R58, `06` R131–R134, R156,
`14` R349). -/

namespace Sys2Proof.Machine

/-- Code of a context's state (`14` R346). -/
def CtxState.code : CtxState → Nat
  | .free => 0
  | .idle => 1
  | .resident => 2
  | .lost => 3
  | .aborting => 4

/-- FP32 encoding of the loss scale 2^ls (`04` R110). -/
def lsBits (ls : Nat) : Nat := (127 + ls) * 2 ^ 23

/-- The herd of a context that runs the learning binding (`14` R349, `12` R285). -/
def State.learnHerd (s : State) (c : Nat) : Option Herd :=
  if s.learn.bound && s.learn.ctx == c then
    s.herds.find? fun h => h.ctx == c && (h.phase == .live || h.phase == .holding)
  else none

/-- A member's rank: its place among the live members in index order (`12` R289). -/
def Herd.rank (h : Herd) (m : Nat) : Nat := (h.rcd.live.filter (· < m)).length

/-- The 1,024 bytes of a context's status area (`14` R349). -/
def State.statusArea (s : State) (c : Nat) : List Byte :=
  let k := s.ctx c
  let w0 := at64 (lsBits k.ls) 32 ||| at64 (k.clean % 65536) 16 ||| w64 (k.lsd % 65536)
  let w1 := at64 k.st.code 60 ||| at64 (c % 4096) 48
  let (w3, w4, live) : W64 × W64 × List Byte := match s.learnHerd c with
    | none => (0, 0, List.replicate 512 0)
    | some h =>
        (at64 (h.rcd.epoch % 2 ^ 32) 32 ||| at64 (h.rank h.self) 20 |||
          at64 (h.rcd.live.length - 1) 8, w64 h.hid,
         (List.range 512).map fun i => BitVec.ofNat 8 (((List.range 8).map fun b =>
            if h.rcd.live.contains (8 * i + b) then 2 ^ b else 0).sum))
  wordBytes [w0, w1, s.now, w3, w4] ++ List.replicate 24 0 ++ live ++ List.replicate 448 0

/-- The device writes a context's status area as initiator 725; while the area is unmapped, the skip is counted (`14` R349). A
write that a move of its page or a full controller holds back waits, and is made with the area as it then is. -/
def State.putStatus (s : State) (c : Nat) : State :=
  match s.writeVa 725 c 0 (s.statusArea c) .device with
  | .ok s' _ => s'.updCtx c fun k => { k with statusDue := false }
  | .wait s' => s'.updCtx c fun k => { k with statusDue := true }
  | _ => s.updCtx c fun k => { k with skipped := k.skipped + 1, statusDue := false }
/-- A write of the status area that has waited is tried again. -/
def State.statusAgain (s : State) (c : Nat) : State := if (s.ctx c).statusDue then s.putStatus c else s

/-- The word of CCLU.LOSTCAUSE (`25` C-die registers). -/
def lostWord (cause : Nat) (core : Option Nat) (pc : W48) : W64 :=
  match core with
  | some n => at64 cause 56 ||| at64 n 47 ||| w64 (pc.toNat / 8)
  | none => at64 cause 56 ||| at64 1 46

/-- A task past its TASK.END that holds no effect back: its output fences are still signalled when its context is
lost, while no open task signals any (`02` R58; DEDUCED, log 43). -/
def Task.closing (t : Task) : Bool := !t.isOpen && (t.verdict == .discard || !t.hdr.spec || t.drained)
/-- A task whose later effects are held or dropped. -/
def Task.withheld (t : Task) : Bool := t.verdict == .discard || (t.hdr.spec && !t.drained)
/-- Core state that a loss clears: paddock, held signals and tasks, without draining. What its work in flight would
still hold for a task that is gone is dropped (`02` R58). -/
def Core.stopped (k : Core) : Core :=
  { k with pad := [], held := [], tasks := k.tasks.filter Task.closing, stall := .no
           dropped := k.dropped ++ (k.tasks.filter fun t => !t.closing && t.withheld).map (·.id) }

/-- Places in issue queues that accesses of instructions, chains or fills held are given up, and answers that they have not
taken. -/
def State.dropOwn (s : State) (p : MemReq → Bool) : State :=
  { s with
    retry := s.retry.filter fun r => !(r.own && p r.req)
    poolGot := s.poolGot.filter fun r => !p { init := r.init, ctx := r.ctx, acts := r.ctx, da := r.da }
    pcie := { s.pcie with got := s.pcie.got.filter fun r => !p { init := r.init, ctx := r.ctx, acts := r.ctx, da := r.da } } }
/-- The first condition of `02` R58 makes a context LOST: its cores stop, their paddocks and
held signals are cleared, the cause is recorded in CCLU.LOSTCAUSE, and the LOST event is
raised. A context already LOST or ABORTING keeps its record. LOSTCAUSE and the event show the PC
as 0 for a confidential context without FULL (`17` R411). -/
def State.lose (s : State) (c cause : Nat) (core : Option Nat := none) (pc : W48 := 0) : State :=
  let k := s.ctx c
  if k.st = .idle ∨ k.st = .resident then
    let pc : W48 := if core.isSome then pc else 0
    let shown : W48 := if s.full c then pc else 0
    let w := lostWord cause core shown
    let at_ : List Nat := match core with
      | some n => [n / 8]
      | none => s.ctxClusters c
    let s := s.updCtx c fun k => { k with st := .lost, cause := cause, core := core, lpc := pc }
    let s := at_.foldl (fun s i => s.updCluster i fun x =>
      if x.lost = 0 then { x with lost := w } else x) s
    let s := (s.ctxCores c).foldl (fun s n => s.updCore n Core.stopped) s
    let s := s.dropOwn fun r => r.acts == c
    let s := s.ctxEvent c 3 (at64 cause 56 ||| at64 (b2n core.isNone) 48 |||
      at64 (core.getD 0) 32 ||| w64 (shown.toNat % 2 ^ 32))
    s.putStatus c
  else s

/-- Ends an access made for a context by an engine: what is done stands, a loss is taken. -/
def State.settle {α : Type} (c : Nat) (r : Res α) (f : State → α → State) : State :=
  match r with
  | .ok s a => f s a
  | .lost s cause => s.lose c cause
  | .wait s => s

/-! ### Resets and stops that reach a core (`21` R479–R481, `20` R472) -/

/-- A unit is resetting: kind 0 core, 1 cluster, 2 C-die, 3 M-die. -/
def State.resetting (s : State) (kind i : Nat) : Bool :=
  s.ras.resets.any fun r => r.kind == kind && r.idx == i
/-- A core, its cluster or its C-die is resetting. -/
def State.coreDown (s : State) (n : Nat) : Bool :=
  s.resetting 0 n || s.resetting 1 (n / 8) || s.resetting 2 (n / 64)

/-- A core issues: the device is Ready, its context RESIDENT, the core RUNNING and not
waiting, no field test runs, and it is no follower of a redundant pair
(`14` R348, `20` R469, R472). -/
def State.issues (s : State) (n c : Nat) : Bool :=
  s.dev == .ready && s.resident c && (s.core n).run == .running && (s.core n).stall == .no &&
    !s.coreDown n && s.ras.fieldTest == 0 && !((s.cluster (n / 8)).red && n % 2 == 1)

/-- The unfinished DMA chains that a core dispatched. -/
def State.coreChains (s : State) (c : Nat) : List Chain :=
  ((List.range 3).flatMap fun e => Tab.get [] (s.cluster (c / 8)).dma e).filter (·.core == c)

/-- A core has no open task and every instruction dispatched on it has completed (`14` R352, `10`
R253). -/
def State.quietCore (s : State) (n : Nat) : Bool :=
  let k := s.core n
  k.openTask.isNone && k.mx.ops.isEmpty && k.loads.isEmpty && k.units.isEmpty && (s.coreChains n).isEmpty
/-- A core becomes IDLE; a stall outside a task is abandoned (`14` R352). -/
def State.idleCore (s : State) (n : Nat) : State :=
  (s.dropOwn fun r => r.init == n).updCore n fun k => { k with run := .idle, stall := .no, stopReq := false, fresh := false }
/-- A STOP acts on a core once it has reached its point (`14` R352). -/
def State.tryStop (s : State) (n : Nat) : State :=
  if (s.core n).stopReq && s.quietCore n then s.idleCore n else s

/-- The general registers and predicates that an instruction reads or writes when it
executes: it waits for a load in flight to one of them (`02` R32, R33). -/
structure Uses where
  /-- General registers. -/
  regs : List (BitVec 5) := []
  /-- Predicates. -/
  preds : List (BitVec 3) := []

/-- A load in flight will write a register. -/
def Core.awaits (k : Core) (r : BitVec 5) : Bool := r != 0 && k.loads.any fun l => l.rd == r.toNat
/-- A FENCE.READ in flight, or a VANY or VALL in the vector unit's queue, will write a predicate. -/
def Core.awaitsP (k : Core) (p : BitVec 3) : Bool :=
  p != 0 && ((k.loads.any fun l => match l.pred with
    | some (i, _) => i == p.toNat
    | none => false) || k.units.any fun u => u.2.any fun d => d.pd == some p.toNat)
/-- Nothing that an instruction uses is in flight. -/
def Core.ready (k : Core) (u : Uses) : Bool := !(u.regs.any k.awaits) && !(u.preds.any k.awaitsP)

/-- The cause of an illegal encoding (`06` R156 step 4). -/
def ill (b : Bool) : Option Nat := if b then some 0x02 else none

/-- An instruction issued on a core: `words` is its length, `fenceOp` whether its opcode is
0x38–0x3B, `bad` the cause of an encoding that is illegal beside its reserved bits, `u` what it
uses,
and `body` what it does when its predicate is true; the body answers the next program counter
of a branch. On a core that does not issue, the command does nothing (log 13). Checks are made
in the order of `06` R156, steps 1, 3 and 4 whatever the predicate. -/
def issue (h : Issue) (words : Nat) (fenceOp : Bool) (bad : Option Nat) (u : Uses) (s : State)
    (body : Nat → State → Res (Option W48)) : State :=
  let n := h.core.val
  match s.coreCtx n with
  | none => s
  | some c =>
    let k := s.core n
    if !s.issues n c then s
    else if k.stopReq && s.quietCore n then s.idleCore n
    else if k.pc.toNat % 8 ≠ 0 then s.lose c 0x03 (some n) k.pc
    else if fenceOp && (h.pred != 0 || h.pneg) then s.lose c 0x0A (some n) k.pc
    else if h.rsv || bad.isSome then s.lose c (if h.rsv then 0x02 else bad.getD 0x02) (some n) k.pc
    else if k.awaitsP h.pred then s
    else
      let next := k.pc + BitVec.ofNat 48 (8 * words)
      let retire (s : State) (t : Option W48) : State :=
        (s.bumpCore n 0 1).updCore n fun k => { k with pc := t.getD next, fresh := false }
      if k.pr h.pred == h.pneg then retire s none
      else if !k.ready u then s
      else match body c s with
        | .ok s t => retire s t
        | .lost s cause => s.lose c cause (some n) (s.core n).pc
        | .wait s => s

/-- A body that changes its core alone. -/
def onCore (n : Nat) (f : Core → Core) (s : State) : Res (Option W48) := .ok (s.updCore n f) none

end Sys2Proof.Machine
end

