-- ==== Sys2Proof/Machine/Quote.lean ====
section
/-! DEFINITION. Measurements, device signatures and quotes, and the checks of another module's quote (`17` R412, R413,
R420, R421). -/

namespace Sys2Proof.Machine

/-- Bytes of an image. -/
def sliceOf (c : List Byte) (o n : Nat) : List Byte := (c.drop o).take n
/-- FLAGS bit `b` of a charter: 0 JSF, 1 STRICT, 2 STATIC (`17` R406). -/
def chFlag (c : List Byte) (b : Nat) : Bool := (imgByte c 16).testBit b

/-! ### Measurements (R412) -/

/-- Subsystem ID (`13` R322): the ordering code of measurement block 3 and of `XGLB.ID.ORD` (`25` R553). -/
def OrdCode.subsystem : OrdCode → Nat
  | .s8x2t0f16 => 1
  | .s8x1t0f16 => 2
  | .s8x2t0f08 => 3
  | .s7x2t0f16 _ => 4
/-- Measurement block 3. -/
def State.configWord (s : State) : Nat :=
  b2n s.pw.strict + 2 * b2n s.pw.sStatic + 16 * (if s.pw.strict then s.pw.sPoint else 0) + 256 * s.code.subsystem +
    65536 * b2n s.pw.sThermal
/-- A DMTF measurement block in its raw bit-stream form: index, specification 1, size, value type with bit 7, size of the value,
and the value (PRESUMED, DSP0274; the value types are log 35). -/
def dmtfBlock (index type : Nat) (b : List Byte) : List Byte :=
  leBytes 1 index ++ [1] ++ leBytes 2 (b.length + 3) ++ leBytes 1 (128 + type) ++ leBytes 2 b.length ++ b
/-- Measurement blocks 1 to 4. -/
def State.measure (s : State) : Nat → List Byte
  | 1 => dmtfBlock 1 1 (digBytes s.boot.fwm)
  | 2 => dmtfBlock 2 0 (leBytes 4 Config.romVersion.toNat ++ leBytes 1 s.lc.code.toNat)
  | 3 => dmtfBlock 3 3 (leBytes 4 s.configWord)
  | 4 => dmtfBlock 4 3 (s.charters.flatMap fun c => digBytes c.chd)
  | _ => []

/-! ### Signatures and quotes (R413) -/

/-- A device signature: SM2 by d_AL over SM3 of the request and the response (R413). -/
def State.devSig (s : State) (req resp : List Byte) : List Byte :=
  Config.sm2sign (s.kslot 4).value (ascii "STRELNO DEVICE") (digBytes (Config.sm3 (req ++ resp)))
/-- What VENDOR_DEFINED messages of the owner operations begin with: StandardID PCI-SIG (3), the length 2 of a vendor ID, and
vendor ID 0x1F5C (R413; the layout is SPDM's, log 35). -/
def vendorHead : List Byte := leBytes 2 3 ++ [2] ++ leBytes 2 0x1F5C
/-- A request of an owner operation: its header, its code and its operands (R413). -/
def ownerReq (code : Nat) (b : List Byte) : List Byte := vendorHead ++ leBytes 1 code ++ b
/-- Contexts bound under a charter, from an ID on, at most 64. -/
def State.boundFrom (s : State) (chd : BitVec 256) (first : Nat) : List Nat :=
  ((Tab.keys s.ctxs).filter fun c => first ≤ c && s.ctxLive c && (s.ctx c).chd == chd && (s.ctx c).entry.isSome).take 64
/-- What a quote says of a context: ID, entry, state, DIG and chain. -/
def State.quoteCtx (s : State) (c : Nat) : List Byte :=
  let e := (s.ctx c).entry.getD 0
  leBytes 2 c ++ leBytes 1 e ++ leBytes 1 (s.ctx c).st.code ++ sliceOf (s.charterOf c) (chEntry (s.charterOf c) e) 32 ++
    digBytes (s.ctx c).mapChain
/-- The request of a quote. -/
def quoteReq (chd nonce : BitVec 256) (first : Nat) : List Byte :=
  ownerReq 1 (digBytes chd ++ digBytes nonce ++ leBytes 2 first)
/-- A quote before its signature. -/
def State.quoteBody (s : State) (chd nonce : BitVec 256) (first : Nat) : List Byte :=
  vendorHead ++ digBytes chd ++ leBytes 1 (b2n (s.charter? chd).isSome) ++ s.measure 1 ++ s.measure 2 ++ s.measure 3 ++
    ((s.boundFrom chd first).flatMap s.quoteCtx) ++ digBytes nonce
/-- The QUOTE that this module presents to another: its nonce, which the manual does not give, is 0 (log 29). -/
def State.ownQuote (s : State) (chd : BitVec 256) : List Byte :=
  let b := s.quoteBody chd 0 0
  b ++ s.devSig (quoteReq chd 0 0) b

/-! ### The quote of another module (R420, R421) -/

/-- A charter accepts the measurement and the root that a quote shows (R406). -/
def acceptsUnit (img : List Byte) (fwm root : BitVec 256) : Bool :=
  ((List.range (chNmeas img)).any fun i => digOf (sliceOf img (chMeas img i) 32) == fwm) &&
    (List.range (chNroot img)).any fun i => digOf (sliceOf img (chRoot img i) 32) == root
/-- A quote shows a charter digest admitted, under a measurement and a root that a charter accepts. -/
def quoteShows (q : QuoteIn) (img : List Byte) (chd : BitVec 256) : Bool :=
  let b := q.quote.drop 5
  q.good && digOf (b.take 32) == chd && imgByte b 32 == 1 && acceptsUnit img (digOf (sliceOf b 40 32)) q.root
/-- The configuration word of a quote satisfies FLAGS: strict partition under STRICT, and static duty under STATIC. -/
def quoteFlags (q : QuoteIn) (img : List Byte) : Bool :=
  let b := q.quote.drop 5
  (!chFlag img 1 || (imgByte b 91).testBit 0) && (!chFlag img 2 || (imgByte b 91).testBit 1)
/-- Every port that is UP to a node has bound the identity that a quote's chain names (`11` R261). -/
def State.knows (s : State) (node : Nat) (ident : BitVec 256) : Bool :=
  (List.range 16).all fun p => (s.port p).st != .up || (s.port p).peer != node || (s.port p).ident == ident
/-- The checks of an announcement's quote, from the module of a node, against the charter of its herd (R420). -/
def State.quoteGood (s : State) (chd : BitVec 256) (node : Nat) (q : QuoteIn) : Bool :=
  match s.charter? chd with
  | none => false
  | some c => quoteShows q c.image chd && quoteFlags q c.image && s.knows node q.ident

end Sys2Proof.Machine
end

