-- ==== Sys2Proof/Machine/Operands.lean ====
section
/-! DEFINITION. Operand forms of core instructions: immediates, local offsets, slots and their
elements, and rounding fields (`02` R34, R35, `05` R114, R115, `06` R136–R146). -/

namespace Sys2Proof.Machine

/-- IMM32, sign-extended (`06` R136). -/
def imm32 (i : BitVec 32) : W64 := i.signExtend 64

/-- The first local offset that names no store (`02` R34). -/
def localEnd : Nat := 0x480000
/-- The first local offset above the tile store. -/
def tileEnd : Nat := 0x400000
/-- Local offset of slot `i` (`02` R34). -/
def slotOff (i : Nat) : Nat := tileEnd + 256 * i

/-- A local range that must lie below 0x48_0000: cause 0x07 otherwise (`02` R35). -/
def localCause (off n : Nat) : Option Nat := if localEnd < off + n then some 0x07 else none
/-- Regions that must lie in the tile store: one that reaches 0x48_0000 is cause 0x07, one
that only passes 0x3F_FFFF cause 0x02 (`02` R35). Empty regions name nothing. -/
def tileCause (l : List (Nat × Nat)) : Option Nat :=
  let l := l.filter fun r => r.2 != 0
  if l.any fun r => localEnd < r.1 + r.2 then some 0x07
  else if l.any fun r => tileEnd < r.1 + r.2 then some 0x02
  else none
/-- A run of slots that must not pass slot 2,047 (`02` R35, `05` R130). -/
def slotCause (l : List (Nat × Nat)) : Option Nat :=
  if l.any fun r => 2048 < r.1 + r.2 then some 0x07 else none

/-- Bytes of a core's stores. -/
def Core.bytes (k : Core) (off n : Nat) : List Byte := bytesAt k.store off n
/-- A core with bytes written to its stores. -/
def Core.put (k : Core) (off : Nat) (b : List Byte) : Core :=
  { k with store := putBytes k.store off b }

/-- Elements of `w` bits of a byte string, as packed (`05` R114, `04` R93). -/
def elems (w : Nat) (b : List Byte) : List Nat :=
  let n := leNat b
  (List.range (8 * b.length / w)).map fun i => n / 2 ^ (w * i) % 2 ^ w
/-- Elements packed into bytes; the last byte is padded with zero bits. -/
def packElems (w : Nat) (l : List Nat) : List Byte :=
  leBytes ((w * l.length + 7) / 8)
    ((l.zipIdx).foldl (fun a p => a + p.1 % 2 ^ w * 2 ^ (w * p.2)) 0)

/-- Elements of `w` bits of a slot. -/
def Core.slot (k : Core) (w i : Nat) : List Nat := elems w (k.bytes (slotOff i) 256)
/-- A slot written with elements of `w` bits. -/
def Core.putSlot (k : Core) (w i : Nat) (l : List Nat) : Core :=
  k.put (slotOff i) (packElems w l)

/-- Width of a type code: I8, I16, I32, FP32, BF16×2, FP16×2 (`06` R141). -/
def tyWidth (ty : Nat) : Nat := if ty = 0 then 8 else if ty = 1 || ty = 4 || ty = 5 then 16 else 32
/-- Format code of a float type code. -/
def tyFmt (ty : Nat) : Nat := if ty = 4 then 1 else if ty = 5 then 2 else 0
/-- A type code names a float type. -/
def tyFloat (ty : Nat) : Bool := ty = 3 || ty = 4 || ty = 5

/-- The broadcast operand of a register: its low element in every element (`05` R115). -/
def broadcast (w : Nat) (v : W64) : List Nat := List.replicate (2048 / w) (v.toNat % 2 ^ w)

/-- A 1-bit rounding field (`06` R141). -/
def rnd1 (b : Bool) : Rnd := if b then .rz else .rne
/-- A 2-bit rounding field; the bits of SR for an element index (`06` R141, `04` R109). -/
def rnd2 (r : Nat) (jseed : W64) (step : BitVec 32) (x : W64) : Rnd :=
  match r with
  | 0 => .rne
  | 1 => .rz
  | 2 => .ru
  | _ => .sr (srBits jseed step x)

/-- The context's seed and job seed for a core (`04` R109, `05` R126). -/
def State.jseed (s : State) (c : Nat) : W64 := (s.ctx c).jseed

end Sys2Proof.Machine
end

