-- ==== Sys2Proof/Machine/Layout.lean ====
section
/-! DEFINITION. The layouts of array operands in the stores, DMA descriptors, and the interlock
of a core's units over its stores (`02` R36, `03` R59–R71, R84, `08` R190–R192). -/

namespace Sys2Proof.Machine

/-! ### Array operand classes (`03` R59) -/

/-- A format code of an array operand class. -/
def isArray (f : Nat) : Bool := 1 ≤ f && f ≤ 12
/-- Width group of an array format: 16, 8, or 4 for the narrow classes (R60). -/
def grpOf (f : Nat) : Nat := if f = 1 || f = 2 then 16 else if f = 7 || f = 8 || f = 9 || f = 12 then 4 else 8
/-- The format is an integer class (R59). -/
def intClass (f : Nat) : Bool := f = 10 || f = 11 || f = 12
/-- K-elements per row (R59). -/
def kOf (f : Nat) : Nat := if grpOf f = 16 then 64 else if grpOf f = 8 then 128 else 256
/-- First K-row of element k (R59). -/
def rOf (f k : Nat) : Nat := if grpOf f = 16 then 2 * k else if grpOf f = 8 then k else k / 2
/-- Bytes of a skew step (R59). -/
def stepBytes (f : Nat) : Nat := if f = 7 || f = 8 then 192 else 128
/-- Bytes of the stationary data region (R63). -/
def statBytes (f : Nat) : Nat := if f = 7 || f = 8 then 12288 else 8192
/-- Two formats pair (R60). -/
def pairs (a w : Nat) : Bool := grpOf a == grpOf w && intClass a == intClass w
/-- Whether scales may, must or must not be present (R67): none for either. -/
def sclRule (f : Nat) : Option Bool :=
  if isMx f then some true else if f = 3 || f = 4 then none else some false
/-- The scaled field of a format is legal. -/
def sclLegal (f : Nat) (scl : Bool) : Bool := match sclRule f with | none => true | some b => b == scl
/-- Block size of a BLK code (`06` R142). -/
def blkOf (b : Nat) : Nat := 16 * 2 ^ b

/-! ### Bits of a store -/

/-- `w` bits (at most 32) from bit `b` of a store. -/
def bitsAt (t : Tab Byte) (b w : Nat) : Nat :=
  leNat (bytesAt t (b / 8) 5) / 2 ^ (b % 8) % 2 ^ w
/-- `w` bits (at most 32) written at bit `b`: the other bits of the bytes keep their values. -/
def putBits (t : Tab Byte) (b w x : Nat) : Tab Byte :=
  let n := (b % 8 + w + 7) / 8
  let old := leNat (bytesAt t (b / 8) n)
  let lo := old % 2 ^ (b % 8)
  let hi := old / 2 ^ (b % 8 + w)
  putBytes t (b / 8) (leBytes n (lo + x % 2 ^ w * 2 ^ (b % 8) + hi * 2 ^ (b % 8 + w)))

/-- Bit position of stationary element (k, n) in its region (R63). -/
def statBit (f k n : Nat) : Nat :=
  if grpOf f = 16 then 8 * (128 * k + 2 * n)
  else if grpOf f = 8 then 8 * (64 * k + n)
  else if fmtWidth f = 4 then 8 * (64 * (k / 2) + n) + 4 * (k % 2)
  else 8 * 96 * (k / 2) + 12 * n + 6 * (k % 2)

/-- Step position in a linear region or a ring of 2^RING steps (R71, `08` R191). -/
def stepPos (ring s : Nat) : Nat := if ring = 0 then s else s % 2 ^ ring
/-- Bit position of streaming element (m, k) from a base, in skew layout (R68, R71). -/
def skewBit (f ring base m k : Nat) : Nat :=
  8 * (base + stepPos ring (m + rOf f k) * stepBytes f) + fmtWidth f * k
/-- Offset of the scale of the block that starts at element k of row m (R70). -/
def skewScale (f ring sbase blk m k : Nat) : Nat :=
  sbase + 16 * stepPos ring (m + rOf f k) + k / blk

/-! ### DMA descriptors (`08` R190) -/

/-- A descriptor as read. -/
structure Desc where
  /-- KIND. -/
  kind : Nat
  /-- FMT. -/
  fmt : Nat
  /-- RING. -/
  ring : Nat
  /-- SRC is a local offset. -/
  sloc : Bool
  /-- DST is a local offset. -/
  dloc : Bool
  /-- NEXT is a local offset. -/
  nloc : Bool
  /-- LAST. -/
  last : Bool
  /-- Block size of SKEWSCL. -/
  blk : Nat
  /-- Rows. -/
  rows : Nat
  /-- M0. -/
  m0 : Nat
  /-- NEXT. -/
  next : W64
  /-- SRC, or the pattern. -/
  src : W64
  /-- DST. -/
  dst : W64
  /-- K0. -/
  k0 : Nat
  /-- KN. -/
  kn : Nat
  /-- LEN. -/
  len : Nat
  /-- SSTRIDE. -/
  sstride : W64
  /-- DSTRIDE. -/
  dstride : W64
  /-- Every reserved bit is zero. -/
  clean : Bool
  deriving DecidableEq, Repr

/-- The descriptor in 64 bytes (R190). -/
def descOf (b : List Byte) : Desc :=
  let w := wordAt b
  { kind := fld (w 0) 63 60, fmt := fld (w 0) 59 56, ring := fld (w 0) 55 52,
    sloc := bit (w 0) 51, dloc := bit (w 0) 50, nloc := bit (w 0) 49, last := bit (w 0) 48,
    blk := blkOf (fld (w 0) 46 45), rows := fld (w 0) 39 20 + 1, m0 := fld (w 0) 19 0,
    next := w 1, src := w 2, dst := w 3, k0 := fld (w 4) 47 40, kn := fld (w 4) 39 32 + 1,
    len := fld (w 4) 31 0, sstride := w 5, dstride := w 6,
    clean := fld (w 0) 44 40 == 0 && fld (w 4) 63 48 == 0 && w 7 == 0 }

/-- Rows that a descriptor moves, with the bytes of each: LINEAR and FILL have one. -/
def Desc.rowCount (d : Desc) : Nat := if d.kind = 0 || d.kind = 4 then 1 else d.rows
/-- Source bytes of one row. -/
def Desc.rowBytes (d : Desc) : Nat :=
  if d.kind = 2 then (d.kn * fmtWidth d.fmt + 7) / 8
  else if d.kind = 3 then d.kn / d.blk
  else d.len
/-- Source address of row r. -/
def Desc.srcAt (d : Desc) (r : Nat) : Nat := (d.src + d.sstride * w64 r).toNat
/-- Destination address of row r. -/
def Desc.dstAt (d : Desc) (r : Nat) : Nat := (d.dst + d.dstride * w64 r).toNat

/-- How far before the end of a row its last placed item begins: an element, or for SKEWSCL a block. -/
def Desc.tail (d : Desc) : Nat := if d.kind = 2 then 1 else d.blk
/-- The local range that SKEW or SKEWSCL writes: steps or records (R191, `03` R70). -/
def Desc.skewRange (d : Desc) : Nat × Nat :=
  let unit := if d.kind = 2 then stepBytes d.fmt else 16
  if d.ring ≠ 0 then (d.dst.toNat, 2 ^ d.ring * unit)
  else
    let lo := d.m0 + rOf d.fmt d.k0
    let hi := d.m0 + (d.rows - 1) + rOf d.fmt (d.k0 + d.kn - d.tail)
    (d.dst.toNat + lo * unit, (hi + 1 - lo) * unit)

/-- Local ranges that a descriptor reads and writes, as one interval each. -/
def Desc.reads (d : Desc) : List (Nat × Nat) :=
  if !d.sloc || d.kind = 4 then []
  else (List.range d.rowCount).map fun r => (d.srcAt r, d.rowBytes)
/-- Local ranges that it writes under the interlock: ring regions are ordered by the ring counts
alone (`03` R71). -/
def Desc.writes (d : Desc) : List (Nat × Nat) :=
  if !d.dloc then []
  else if d.kind = 2 || d.kind = 3 then (if d.ring ≠ 0 then [] else [d.skewRange])
  else (List.range d.rowCount).map fun r => (d.dstAt r, d.len)

/-! ### The interlock (`02` R36, `03` R84) -/

/-- The unit of interlock of a local offset: 16 KiB of the tile store, or a slot (R36). -/
def lockUnit (off : Nat) : Nat := if off < tileEnd then off / 0x4000 else 256 + (off - tileEnd) / 256
/-- Two ranges share a unit. -/
def meets (a b : Nat × Nat) : Bool :=
  a.2 != 0 && b.2 != 0 && lockUnit a.1 ≤ lockUnit (b.1 + b.2 - 1) &&
    lockUnit b.1 ≤ lockUnit (a.1 + a.2 - 1)
/-- Some range of one list meets some range of the other. -/
def anyMeets (a b : List (Nat × Nat)) : Bool := a.any fun x => b.any fun y => meets x y
/-- A younger access waits for older work (R36). -/
def Ext.conflicts (older younger : Ext) : Bool :=
  anyMeets older.w younger.r || anyMeets older.w younger.w || anyMeets older.r younger.w

/-- Bytes of an output row (`03` R78). -/
def outRowBytes (f : Nat) : Nat := 8 * fmtWidth f
/-- The regions that `n` output rows from row `m` write: data, then scales (`03` R78, R79). -/
def OutF.regions (o : OutF) (m n : Nat) : List (Nat × Nat) :=
  if o.dst = 1 then
    let hi := rOf o.fmt (o.k0 + 63)
    let lo := rOf o.fmt o.k0
    let sb := stepBytes o.fmt
    [(o.obase + (m + lo) * sb, (n - 1 + hi - lo + 1) * sb)] ++
      (if o.srule = 1 || o.srule = 2 then
        [(o.osbase + 16 * (m + lo), 16 * (n - 1 + rOf o.fmt (o.k0 + 64 - o.blk) - lo + 1))]
      else if o.srule = 3 then [(o.osbase + 4 * (m * 64 / o.blk), 4 * (n * 64 / o.blk))] else [])
  else
    [(o.obase + m * outRowBytes o.fmt, n * outRowBytes o.fmt)] ++
      (if o.srule = 1 || o.srule = 2 then [(o.osbase + 4 * m, 4 * n)]
      else if o.srule = 3 then [(o.osbase + 4 * (m * 64 / o.blk), 4 * (n * 64 / o.blk))] else [])

/-- What a matrix operation still reads and writes; ring regions are ordered by the ring
counts alone (`03` R71, R84). -/
def MxOp.ext : MxOp → Ext
  | .loadw _ f scl _ base sbase =>
      { r := (base, statBytes f) :: (if scl then [(sbase, 1024)] else []) }
  | .stream _ f scl _ base sbase ring mode _ m out row _ buf =>
      let s := row + buf.length
      { r := if ring ≠ 0 then [] else
          (base + s * stepBytes f, (m + 127 - s) * stepBytes f) ::
            (if scl then [(sbase + 16 * s, 16 * (m + 127 - s))] else [])
        w := if mode = 0 then out.regions row (m - row) else [] }
  | .accout _ j out => { w := out.regions 0 j }
  | .swap => {}
  | .csadv loc base n _ _ _ => if loc then { r := [(base, 4 * n)], w := [(base, 4 * n)] } else {}

/-- Everything in a core's stores. -/
def Ext.all : Ext := { r := [(0, localEnd)], w := [(0, localEnd)] }

/-- The descriptor that a DMA.COPY stands for: LINEAR, and the last of its chain (`06` R150). -/
def copyDesc (dst src len : W64) (dl sl : Bool) : Desc where
  kind := 0
  fmt := 0
  ring := 0
  sloc := sl
  dloc := dl
  nloc := false
  last := true
  blk := 16
  rows := 1
  m0 := 0
  next := 0
  src := src
  dst := dst
  k0 := 0
  kn := 1
  len := len.toNat
  sstride := 0
  dstride := 0
  clean := true
/-- A descriptor read for the interlock alone: as it stands now, if it can be read. -/
def State.peekDesc (s : State) (c ctx : Nat) : DescRef → Option Desc
  | .copy dst src len dl sl => some (copyDesc dst src len dl sl)
  | .at_ a true => some (descOf ((s.core c).bytes a.toNat 64))
  | .at_ a false => match s.readVa c ctx a.toNat 64 with
    | .ok _ b => some (descOf b)
    | _ => none
/-- What follows a descriptor in its chain. -/
def Desc.after (d : Desc) : Option DescRef := if d.last then none else some (.at_ d.next d.nloc)
/-- The descriptors of the rest of a chain, at most `fuel` of them; none when one cannot be read or more
follow. -/
def State.chainDescs (s : State) (c ctx : Nat) : Nat → Option DescRef → Option (List (DescRef × Desc))
  | _, none => some []
  | 0, _ => none
  | n + 1, some p => match s.peekDesc c ctx p with
    | none => none
    | some d => (s.chainDescs c ctx n d.after).map fun l => (p, d) :: l
/-- The place of a descriptor in the stores or in context memory. -/
def DescRef.place (loc : Bool) : DescRef → List (Nat × Nat)
  | .at_ a l => if l == loc then [(a.toNat, 64)] else []
  | .copy _ _ _ _ _ => []
/-- Ranges of context memory that a descriptor reads. -/
def Desc.sources (d : Desc) : List (Nat × Nat) :=
  if d.sloc || d.kind = 4 then [] else (List.range d.rowCount).map fun r => (d.srcAt r, d.rowBytes)
/-- Ranges of context memory that a descriptor writes. -/
def Desc.remote (d : Desc) : List (Nat × Nat) :=
  if d.dloc then [] else (List.range d.rowCount).map fun r => (d.dstAt r, d.len)
/-- What the rest of a chain reads and writes in the issuing core's stores; a chain longer than 64
descriptors, or unreadable, is taken to touch everything. -/
def State.chainExt (s : State) (c ctx : Nat) (cur : Option DescRef) : Ext :=
  match s.chainDescs c ctx 64 cur with
  | none => Ext.all
  | some l => { r := l.flatMap fun x => x.1.place true ++ x.2.reads, w := l.flatMap fun x => x.2.writes }
/-- What it reads and writes in context memory, by virtual address. -/
def State.chainMem (s : State) (c ctx : Nat) (cur : Option DescRef) : Ext :=
  match s.chainDescs c ctx 64 cur with
  | none => { r := [(0, 2 ^ 48)], w := [(0, 2 ^ 48)] }
  | some l => { r := l.flatMap fun x => x.1.place false ++ x.2.sources, w := l.flatMap fun x => x.2.remote }

/-- Chains of core `c` that were dispatched before number `num` and are unfinished: those of the engines, and those
that stand in the unit's queue. -/
def State.chainsOf (s : State) (c num : Nat) : List (Nat × Option DescRef) :=
  (((s.coreChains c).filter fun k => k.num < num).map fun k => (k.ctx, k.cur)) ++
    ((Tab.get [] (s.core c).units 3).filter fun d => d.num < num && d.cur.isSome).map fun d =>
      ((s.coreCtx c).getD 0, d.cur)
/-- Instructions in the queues of core `c` that were dispatched before number `num`. -/
def Core.queued (k : Core) (num : Nat) : List Dispatched :=
  (k.units.flatMap Prod.snd).filter fun d => d.num < num
/-- Work of core `c` dispatched before number `num` and unfinished conflicts with an access
(R36). -/
def State.locked (s : State) (c num : Nat) (e : Ext) : Bool :=
  !(e.r.isEmpty && e.w.isEmpty) &&
  (((s.core c).mx.ops.any fun o => o.1 < num && o.2.ext.conflicts e) ||
    ((s.core c).queued num).any (fun d => d.ext.conflicts e) ||
    (s.chainsOf c num).any fun k => (s.chainExt c k.1 k.2).conflicts e)
/-- The same for an instruction that is reached now. -/
def State.lockedNow (s : State) (c : Nat) (e : Ext) : Bool := s.locked c (s.core c).disp e

/-- Two ranges of context memory share a 64 B line. -/
def lineMeets (a b : Nat × Nat) : Bool :=
  a.2 != 0 && b.2 != 0 && a.1 / 64 ≤ (b.1 + b.2 - 1) / 64 && b.1 / 64 ≤ (a.1 + a.2 - 1) / 64
/-- Some range of one list shares a line with some range of the other. -/
def anyLine (a b : List (Nat × Nat)) : Bool := a.any fun x => b.any fun y => lineMeets x y
/-- A younger access to context memory stays behind an older one to the same line (`02` R43). -/
def Ext.lineConflicts (older younger : Ext) : Bool :=
  anyLine older.w younger.r || anyLine older.w younger.w || anyLine older.r younger.w
/-- What a matrix operation reads and writes in context memory, by virtual address: a CSADV on a table there. -/
def MxOp.mem : MxOp → Ext
  | .csadv false base n _ _ _ => { r := [(base, 4 * n)], w := [(base, 4 * n)] }
  | _ => {}
/-- An access of core `c` to context memory stays behind the chains, and the tables of CSADV, that the core dispatched
before number `num` (`02` R43). -/
def State.lineLocked (s : State) (c num : Nat) (e : Ext) : Bool :=
  !(e.r.isEmpty && e.w.isEmpty) &&
    (((s.core c).mx.ops.any fun o => o.1 < num && o.2.mem.lineConflicts e) ||
      (s.chainsOf c num).any fun k => (s.chainMem c k.1 k.2).lineConflicts e)

/-- The lost cause of a body, or what follows. -/
def orLost (s : State) (c : Option Nat) (k : Res (Option W48)) : Res (Option W48) :=
  match c with
  | some cause => .lost s cause
  | none => k
/-- Waits on the interlock, or what follows. -/
def interlocked (s : State) (c : Nat) (e : Ext) (k : Res (Option W48)) : Res (Option W48) :=
  if s.lockedNow c e then .wait s else k

end Sys2Proof.Machine
end

