-- ==== Sys2Proof/Machine/Pad.lean ====
section
/-! DEFINITION. The paddock of a core: stores of speculative tasks, what later reads of the core
see of them, and the waits on lines that it holds (`02` R43–R54). -/

namespace Sys2Proof.Machine

/-- How the core's open task treats its effects on memory (R44, R48, R50). -/
inductive Hold
  /-- Effects take place. -/
  | through
  /-- Effects are held for the task with this serial. -/
  | held (task : Nat)
  /-- Effects are dropped: the task is discarded. -/
  | dropped
  deriving DecidableEq, Repr

/-- How a task treats its effects. A committed task is non-speculative once its entries have
drained (R50, R52); a task that is not speculative is discarded by R48's propagation alone. -/
def Task.hold (t : Task) : Hold :=
  if t.verdict = .discard then .dropped
  else if !t.hdr.spec || t.drained then .through
  else .held t.id
/-- How the work that a core issues now treats its effects. -/
def Core.hold (k : Core) : Hold := match k.openTask with | some t => t.hold | none => .through
/-- How the work dispatched in a task treats its effects; a task that has left the table has
been resolved, and was discarded when it is listed as dropped. -/
def Core.holdOf (k : Core) (task : Option Nat) : Hold :=
  match task with
  | none => .through
  | some i => match k.tasks.find? fun t => t.id == i with
    | some t => t.hold
    | none => if k.dropped.contains i then .dropped else .through

/-- The peak number of paddock entries used since its counter was cleared (R55). -/
def State.peakPad (s : State) (c : Nat) : State :=
  let off := regCore c + 0x100 + 8 * 9
  if (s.reg off).toNat < (s.core c).pad.length then s.setReg off (w64 (s.core c).pad.length) else s

/-- Work of this task reads over the paddock (R51): a speculative task's, until it has drained. -/
def Core.sees (k : Core) (task : Option Nat) : Bool :=
  match task with
  | none => false
  | some i => k.tasks.any fun t => t.id == i && t.hdr.spec && !t.drained

/-- Bytes of one line, by offset in it, as a paddock entry holds them. -/
def lineBytes (off : Nat) (b : List Byte) : Tab (Option Byte) :=
  (b.zipIdx).map fun p => (off + p.2, some p.1)
/-- Later bytes win under the byte mask (R46). -/
def mergeBytes (old : Tab (Option Byte)) (new : Tab (Option Byte)) : Tab (Option Byte) :=
  new.foldl (fun t p => Tab.set none t p.1 p.2) old

/-- One line stored by a speculative task: merged into the task's entry for the line, or into
a new entry; none when all 8,192 entries are used (R46, R53). An entry names its task by the task's
serial, in place of a 2-bit index: that more than four tasks, some unresolved and some committed and
waiting under R52, hold entries at once is allowed (DESIGN CHOICE, log 44). -/
def Core.padLine (k : Core) (task line off : Nat) (b : List Byte) : Option Core :=
  if k.pad.any fun e => e.task == task && e.line == line then
    some { k with pad := k.pad.map fun e =>
      if e.task = task ∧ e.line = line then
        { e with bytes := mergeBytes e.bytes (lineBytes off b) } else e }
  else if k.pad.length < 8192 then
    some { k with pad := k.pad ++ [{ line := line, bytes := lineBytes off b, task := task }] }
  else none

/-- Pieces of a device range by 64 B line: line, offset, length. -/
def linePieces : Nat → Nat → Nat → List (Nat × Nat × Nat)
  | 0, _, _ => []
  | k + 1, da, n =>
      if n = 0 then []
      else
        let m := min n (64 - da % 64)
        (da / 64, da % 64, m) :: linePieces k (da + m) (n - m)

/-- Bytes stored by a speculative task over pieces of lines. -/
def Core.padPieces (k : Core) (task : Nat) : List (Nat × Nat × Nat) → List Byte → Option Core
  | [], _ => some k
  | (l, o, n) :: ps, b =>
      match k.padLine task l o (b.take n) with
      | some k => k.padPieces task ps (b.drop n)
      | none => none
/-- Bytes stored by a speculative task at a device address. -/
def Core.padStore (k : Core) (task da : Nat) (b : List Byte) : Option Core :=
  k.padPieces task (linePieces (b.length / 64 + 2) da b.length) b

/-- The byte that the paddock holds for a reader in task `v`, and the task that holds it: the
youngest value of that task and older ones (R51). -/
def Core.padByte (k : Core) (v da : Nat) : Option (Byte × Nat) :=
  k.pad.foldl (fun a e =>
    if e.line = da / 64 ∧ e.task ≤ v then
      match Tab.get none e.bytes (da % 64), a with
      | some b, some (_, t) => if t ≤ e.task then some (b, e.task) else a
      | some b, none => some (b, e.task)
      | none, _ => a
    else a) none

/-- Bytes read over the paddock, and the other tasks whose bytes were read (R51). -/
def Core.padOver (k : Core) (v da : Nat) (b : List Byte) : List Byte × List Nat :=
  let l := b.zipIdx.map fun p => match k.padByte v (da + p.2) with
    | some (x, t) => (x, [t])
    | none => (p.1, [])
  (l.map (·.1), ((l.flatMap (·.2)).filter (· != v)).eraseDups)

/-- A paddock entry holds a line in a range, of a task for which `p` holds. -/
def Core.padLines (k : Core) (da n : Nat) (p : Nat → Bool) : Bool :=
  n != 0 && k.pad.any fun e => da / 64 ≤ e.line && e.line ≤ (da + n - 1) / 64 && p e.task
/-- The entry's task has been committed. -/
def Core.committed (k : Core) (t : Nat) : Bool :=
  match k.tasks.find? fun x => x.id == t with
  | some x => x.verdict == .commit
  | none => true

/-- The space of an address is one whose stores a speculative task holds (R44). -/
def State.holds (s : State) (da : Nat) : Bool :=
  match s.space da with
  | .sram _ _ => false
  | .regs => false
  | _ => true

/-- A read at a device address for work of core `c` in task `task` (none: outside every
task): what it sees, and the wait on a committed line that has not landed (R51, R54). -/
def State.readHeld (s : State) (c : Nat) (task : Option Nat) (da n : Nat) : Res (List Byte) :=
  let k := s.core c
  let b := s.readDa da n
  if !k.sees task then
    if k.padLines da n k.committed then .wait (s.bumpCore c 8 1) else .ok s b
  else
    let v := task.getD 0
    let r := k.padOver v da b
    .ok (s.updCore c fun k => k.updTask v fun t =>
      { t with bound := (t.bound ++ r.2).eraseDups }) r.1

/-- A full paddock stalls work of a task: counted for the core, and for the stream of a draft task (R55, `10` R256). A
stall-cycle counter of the model rises by one at each attempt that meets the stall (DESIGN CHOICE, log 41). -/
def State.padFull (s : State) (n : Nat) (task : Option Nat) : State :=
  let s := s.bumpCore n 7 1
  match s.coreCtx n, task.bind (s.core n).taskAt with
  | some c, some t => if t.hdr.spec then s.bumpCtx 16 c (streamFor (some t)) 1 else s
  | _, _ => s

/-- A write at a device address for work of core `c` in a task: held, dropped or made, with
the waits of R53 and R54. -/
def State.writeHeld (s : State) (c : Nat) (task : Option Nat) (da : Nat) (b : List Byte) :
    Res Unit :=
  let k := s.core c
  if !s.holds da then .ok (s.writeDa da b) ()
  else match k.holdOf task with
  | .through =>
      if k.padLines da b.length fun _ => true then .wait (s.bumpCore c 8 1)
      else .ok (s.writeDa da b) ()
  | .dropped => .ok s ()
  | .held t => match k.padStore t da b with
      | some k => .ok ((s.setCore c k).peakPad c) ()
      | none => .wait (s.padFull c task)

/-- A list of reads, in order. -/
def State.readsHeld (s : State) (c : Nat) (task : Option Nat) :
    List (Nat × Nat) → Res (List Byte)
  | [] => .ok s []
  | (da, n) :: l => (s.readHeld c task da n).bind fun s b =>
      (s.readsHeld c task l).bind fun s bs => .ok s (b ++ bs)
/-- A list of writes, in order. -/
def State.writesHeld (s : State) (c : Nat) (task : Option Nat) :
    List (Nat × Nat) → List Byte → Res Unit
  | [], _ => .ok s ()
  | (da, n) :: l, b => (s.writeHeld c task da (b.take n)).bind fun s _ =>
      s.writesHeld c task l (b.drop n)

/-- The serial of the task that a core has open. -/
def Core.taskNow (k : Core) : Option Nat := k.openTask.map (·.id)

/-! ### What an attempt that waits leaves (`02` R55, `08` R195, R196, `10` R256) -/

/-- Counters of a context that count waits: reservations, paddock-full stalls, MOV stalls and tag waits. -/
def waitKinds : List Nat := [7, 16, 19, 24, 25, 26, 27, 28, 63]
/-- A table of counters with those that count waits taken from another. -/
def takeWaits (new old : Tab W64) : Tab W64 :=
  ((Tab.keys new).filter fun k => waitKinds.contains (k / 2 ^ 20)).foldl (fun t k => Tab.set 0 t k (Tab.get 0 new k)) old
/-- The registers that count the waits of an initiator's work for core `n`: paddock-full and address-match stalls, and tag
waits at its cluster and its C-die, and pool requests sent, with the wrap bits of their regions. -/
def waitRegs (init n : Nat) : List Nat :=
  let k := (initCluster init).getD (n / 8)
  let d := (initDie init).getD (n / 64)
  [regCore n, regCore n + 0x100 + 8 * 7, regCore n + 0x100 + 8 * 8, regCclu k, regCclu k + 0x100 + 8 * 3, regCdst d,
    regCdst d + 0x820, regCdst d + 0x828] ++ (List.range 16).flatMap fun p => [regPort p, regPort p + 0x100 + 8 * 39]
/-- What an attempt that waits leaves of what it did: the waits it has counted, its place in the issue queue, the reads that it
has sent out of the module, what waits on MOV, and a rekey that it has queued (`16` R398). All else is done again. -/
def State.countStalls (s s' : State) (n init : Nat) : State :=
  { (waitRegs init n).foldl (fun s o => s.setReg o (s'.reg o)) s with
    ctxCnt := takeWaits s'.ctxCnt s.ctxCnt, retry := s'.retry, movWaits := s'.movWaits
    poolReqs := s.poolReqs ++ (s'.poolReqs.drop s.poolReqs.length).filter fun r => r.opc == 0x01 || r.opc == 0x02
    ports := s'.ports, pcie := { s.pcie with reqs := s'.pcie.reqs }, reqNum := s'.reqNum
    ctxs := s'.ctxs, rekeyQ := s'.rekeyQ, rekeyJobs := s'.rekeyJobs }

/-! ### Signals behind earlier writes (`02` R41, R43, R49) -/

/-- Work that writes context memory, dispatched on core `n` in task `task` before number `num`, is unfinished: a
chain of an engine or of the unit's queue, or a CSADV. -/
def State.chainBefore (s : State) (n : Nat) (task : Option Nat) (num : Nat) : Bool :=
  let k := s.core n
  ((s.coreChains n).any fun ch => ch.task == task && ch.num < num) ||
    ((Tab.get [] k.units 3).any fun d => d.cur.isSome && d.task == task && d.num < num) ||
    k.mx.ops.any fun o => match o.2 with
      | .csadv loc _ _ _ t _ => !loc && t == task && o.1 < num
      | _ => false
/-- FENCE.SIGNALs of a core whose earlier writes are all visible leave for the fence unit, in program order. -/
def State.flushRel (s : State) (n : Nat) : State :=
  let k := s.core n
  let go := k.rel.filter fun r => !s.chainBefore n r.task r.after
  go.foldl (fun s r => s.signal r.fid r.val 0) (s.updCore n fun k =>
    { k with rel := k.rel.filter fun r => s.chainBefore n r.task r.after })

end Sys2Proof.Machine
end

