-- ==== Sys2Proof/Machine/Unit.lean ====
section
/-! DEFINITION. Dispatch to the vector, reduction and DMA and streaming units: an instruction is performed at its
dispatch when its unit is idle and nothing earlier conflicts with it, and waits in its unit's queue otherwise (`02`
R31, R36, `06` R136, R155). -/

namespace Sys2Proof.Machine

/-- The queue of a unit: 1 vector, 2 reduction, 3 DMA and streaming. -/
def Core.unit (k : Core) (u : Nat) : List Dispatched := Tab.get [] k.units u
/-- The depth of a unit's queue (R155). -/
def unitDepth (u : Nat) : Nat := if u = 1 ∨ u = 3 then 16 else 8
/-- What an instruction hands to its unit: what it reads and writes in the stores, the predicate it will write,
and the chain it will hand to an engine. -/
structure Work where
  /-- Local ranges. -/
  ext : Ext := {}
  /-- Predicate that VANY or VALL writes. -/
  pd : Option Nat := none
  /-- Chain of DMA.DESC or DMA.COPY. -/
  cur : Option DescRef := none

/-- A core with the register values that an instruction had at its dispatch. -/
def Core.asDispatched (k : Core) (d : Dispatched) : Core := { k with g := d.g, srstep := d.srstep }
/-- How a unit performs an instruction: its number, core and context, the instruction as dispatched, and the state. -/
abbrev Perform := (n c : Nat) → Dispatched → State → Res Unit
/-- The next dispatch number of a core is used. -/
def Core.numbered (k : Core) : Core := { k with disp := k.disp + 1 }
/-- An instruction as it is dispatched now on core `n`. -/
def State.dispatched (s : State) (n : Nat) (i : Instr) (w : Work) : Dispatched :=
  let k := s.core n
  { num := k.disp, pc := k.pc, ins := i, g := k.g, srstep := k.srstep, task := k.taskNow
    ext := w.ext, pd := w.pd, cur := w.cur }
/-- An instruction put into its unit's queue; a full queue stalls issue, which is counted (R155). -/
def State.enqueue (s : State) (n u : Nat) (d : Dispatched) : Res (Option W48) :=
  if unitDepth u ≤ ((s.core n).unit u).length then .wait (s.bumpCore n (20 + u) 1)
  else .ok (s.updCore n fun k => { k with units := Tab.upd [] k.units u fun l => l ++ [d] }.numbered) none
/-- An instruction dispatched to unit `u` of core `n` (R31, R155). -/
def dispatch (u : Nat) (i : Instr) (w : Work) (f : Perform) (n c : Nat) (s : State) : Res (Option W48) :=
  let d := s.dispatched n i w
  if ((s.core n).unit u).isEmpty && !s.locked n d.num w.ext then
    match f n c d s with
    | .ok s _ => .ok (s.updCore n Core.numbered) none
    | .lost s x => .lost s x
    | .wait s => s.enqueue n u d
  else s.enqueue n u d

/-- A unit performs the first instruction of its queue, once nothing earlier conflicts with it. One that is illegal
in the state that it then finds is recorded with its own address (`02` R58). -/
def State.unitStep (f : Instr → Perform) (u n c : Nat) (s : State) : State :=
  match (s.core n).unit u with
  | [] => s
  | d :: _ =>
      if s.locked n d.num d.ext then s
      else
        let pop (s : State) : State := s.updCore n fun k => { k with units := Tab.upd [] k.units u (·.drop 1) }
        match f d.ins n c d s with
        | .ok s _ => pop s
        | .lost s x => (pop s).lose c x (some n) d.pc
        | .wait s => s

end Sys2Proof.Machine
end

