-- ==== Sys2Proof/Machine/Vector.lean ====
section
/-! DEFINITION. Vector arithmetic and the transcendental functions (`05` R114–R121, `06`
R141–R144). An element answers its bits and its flags in the places of the status word. -/

namespace Sys2Proof.Machine

/-- Conversion flags in the places of the vector flags (R121). -/
def vfl (f : Nat) : Nat := f % 32 * 256
/-- The status bits of a list of elements. -/
def allFlags (l : List (Nat × Nat)) : BitVec 16 := BitVec.ofNat 16 (joinFlags (l.map Prod.snd))

/-! ### Integer elements (R117, R118) -/

/-- An element read as signed or unsigned. -/
def readInt (sg : Bool) (w x : Nat) : Int := if sg then toInt w x else x
/-- A sum or difference: wrapped, or clamped to the type's range (R117). -/
def intSat (sg sat : Bool) (w : Nat) (x : Int) : Nat × Nat :=
  let lo : Int := if sg then -(2 ^ (w - 1) : Nat) else 0
  let hi : Int := if sg then (2 ^ (w - 1) : Nat) - 1 else (2 ^ w : Nat) - 1
  if sat && x < lo then (ofIntBits w lo, vfl fSAT)
  else if sat && hi < x then (ofIntBits w hi, vfl fSAT)
  else (ofIntBits w x, 0)
/-- All ones or all zeros (R118). -/
def mask (w : Nat) (b : Bool) : Nat := if b then 2 ^ w - 1 else 0

/-! ### Float elements (R118) -/

/-- A result rounded once into a float type: NaN is the default NaN, with VNV unless an operand
is NaN. -/
def fltRes (code : Nat) (r : Rnd) (nanIn : Bool) (v : FVal) : Nat × Nat :=
  if v.isNan then ((fmtOf code).nanBits, if nanIn then 0 else vfl fNV)
  else let c := convFloat (fmtOf code) false r v; (c.1, vfl c.2)
/-- An operation of two floats. -/
def flt2 (f : FVal → FVal → FVal) (code : Nat) (r : Rnd) (a b : Nat) : Nat × Nat :=
  let x := valueOf code a
  let y := valueOf code b
  fltRes code r (x.isNan || y.isNan) (f x y)
/-- VMIN or VMAX of two floats: `pick x y` says that the first is taken. -/
def fltPick (pick : FVal → FVal → Bool) (code a b : Nat) : Nat × Nat :=
  let x := valueOf code a
  let y := valueOf code b
  (if x.isNan && y.isNan then (fmtOf code).nanBits
   else if x.isNan then b else if y.isNan then a else if pick x y then a else b, 0)
/-- A compare of two floats: `onNan` is its truth with a NaN, `sig` whether that sets VNV. -/
def fltCmp (f : FVal → FVal → Bool) (onNan sig : Bool) (code a b : Nat) : Nat × Nat :=
  let x := valueOf code a
  let y := valueOf code b
  if x.isNan || y.isNan then (mask (fmtWidth code) onNan, if sig then vfl fNV else 0)
  else (mask (fmtWidth code) (f x y), 0)

/-! ### Two-source instructions (VOP) -/

/-- How an operation of VOP works on an element: its type, SG or RND bit and SAT. -/
abbrev Elem2 := (ty : Nat) → (x sat : Bool) → Nat → Nat → Nat × Nat

/-- The run of a source: N slots, or one. -/
def runOf (a : Nat) (adv : Bool) (n : Nat) : Nat × Nat := (a, if adv then n else 1)
/-- The range of a run in the stores. -/
def slotRange (r : Nat × Nat) : Nat × Nat := (slotOff r.1, 256 * r.2)
/-- Slot `i` of a source. -/
def srcSlot (a : Nat) (adv : Bool) (i : Nat) : Nat := if adv then a + i else a
/-- Source B: a slot or the broadcast register, as `r` holds it (R115). -/
def srcB (w : Nat) (breg adv : Bool) (b i : Nat) (r k : Core) : List Nat :=
  if breg then broadcast w (r.rd (BitVec.ofNat 5 b)) else k.slot w (srcSlot b adv i)
/-- Iterations in ascending order (R115). -/
def iterate (n : Nat) (f : Nat → Core → Core) (k : Core) : Core := (List.range n).foldl (fun k i => f i k) k

/-- A slot written with element results, and their flags raised. -/
def Core.result (k : Core) (w d : Nat) (l : List (Nat × Nat)) : Core :=
  (k.putSlot w d (l.map (·.1))).raise (allFlags l)

/-- VOP's encoding is illegal for an operation with the types for which `tys` holds (R130,
R157). -/
def vopBad (tys : Nat → Bool) (satOk xOk : Bool) (f : VOp) : Bool :=
  5 < f.ty.toNat || !tys f.ty.toNat || (f.sat && !(satOk && f.ty.toNat ≤ 2)) ||
    (f.breg && 31 < f.b.toNat) || (!xOk && 3 ≤ f.ty.toNat && f.x)
/-- VOP's cause by its encoding: an illegal one, or else a run that passes slot 2,047; the manual does not order the two
(DESIGN CHOICE, log 50). -/
def vopCause (tys : Nat → Bool) (satOk xOk : Bool) (f : VOp) : Option Nat :=
  if vopBad tys satOk xOk f then some 0x02
  else slotCause ([(f.d.toNat, f.n1.toNat + 1), runOf f.a.toNat f.incA (f.n1.toNat + 1)] ++
    if f.breg then [] else [runOf f.b.toNat f.incB (f.n1.toNat + 1)])

/-- What an instruction of format VOP reads and writes. -/
def vopWork (f : VOp) : Work :=
  let n := f.n1.toNat + 1
  { ext := { r := (slotRange (runOf f.a.toNat f.incA n)) ::
               (if f.breg then [] else [slotRange (runOf f.b.toNat f.incB n)])
             w := [slotRange (f.d.toNat, n)] } }
/-- An instruction of format VOP performed. -/
def vopRun (op : Elem2) (f : VOp) : Perform := fun n _ d s =>
  let w := tyWidth f.ty.toNat
  let r := (s.core n).asDispatched d
  .ok (s.updCore n fun k => iterate (f.n1.toNat + 1) (fun i k =>
    k.result w (f.d.toNat + i)
      (((k.slot w (srcSlot f.a.toNat f.incA i)).zip (srcB w f.breg f.incB f.b.toNat i r k)).map fun p =>
        op f.ty.toNat f.x f.sat p.1 p.2)) k) ()
/-- An instruction of format VOP. -/
def vop (op : Elem2) (tys : Nat → Bool) (satOk xOk : Bool) (i : Instr) (h : Issue) (f : VOp) (s : State) : Out :=
  .next (issue h 1 false (vopCause tys satOk xOk f)
    { regs := if f.breg then [BitVec.ofNat 5 f.b.toNat] else [] } s fun c s =>
    dispatch 1 i (vopWork f) (vopRun op f) h.core c s)

/-- Every type. -/
def tyAll (_ : Nat) : Bool := true
/-- Integer types. -/
def tyInt (t : Nat) : Bool := t ≤ 2
/-- 32-bit lanes. -/
def tyLane (t : Nat) : Bool := t == 2

/-- An operation of integer and float types. -/
def elem2 (i : (sg sat : Bool) → (w a b : Nat) → Nat × Nat) (f : (code : Nat) → (r : Rnd) → (a b : Nat) → Nat × Nat) :
    Elem2 := fun ty x sat a b =>
  if tyFloat ty then f (tyFmt ty) (rnd1 x) a b else i x sat (tyWidth ty) a b
/-- An operation on the bits of an element. -/
def elemBits (g : (w a b : Nat) → Nat) : Elem2 := fun ty _ _ a b => (g (tyWidth ty) a b % 2 ^ tyWidth ty, 0)

/-- An element of VADD (R118). -/
def opVadd : Elem2 :=
  elem2 (fun sg sat w a b => intSat sg sat w (readInt sg w a + readInt sg w b)) (flt2 FVal.add)
/-- VADD (R118). -/
def execVadd (h : Issue) (f : VOp) (s : State) : Out := vop opVadd tyAll true true (.vadd h f) h f s
/-- An element of VSUB (R118). -/
def opVsub : Elem2 :=
  elem2 (fun sg sat w a b => intSat sg sat w (readInt sg w a - readInt sg w b)) (flt2 FVal.sub)
/-- VSUB (R118). -/
def execVsub (h : Issue) (f : VOp) (s : State) : Out := vop opVsub tyAll true true (.vsub h f) h f s
/-- An element of VMUL.LO (R118). -/
def opVmulLo : Elem2 :=
  elemBits fun _ a b => a * b
/-- VMUL.LO (R118). -/
def execVmulLo (h : Issue) (f : VOp) (s : State) : Out := vop opVmulLo tyInt false true (.vmulLo h f) h f s
/-- An element of VMUL.HI (R118). -/
def opVmulHi : Elem2 :=
  fun ty x _ a b =>
  let w := tyWidth ty
  (ofIntBits w (readInt x w a * readInt x w b / (2 ^ w : Nat)), 0)
/-- VMUL.HI (R118). -/
def execVmulHi (h : Issue) (f : VOp) (s : State) : Out := vop opVmulHi tyInt false true (.vmulHi h f) h f s
/-- An element of VMUL (R118). -/
def opVmul : Elem2 :=
  fun ty x _ a b => flt2 FVal.mul (tyFmt ty) (rnd1 x) a b
/-- VMUL (R118). -/
def execVmul (h : Issue) (f : VOp) (s : State) : Out := vop opVmul tyFloat false true (.vmul h f) h f s
/-- An element of VMIN (R118). -/
def opVmin : Elem2 :=
  elem2 (fun sg _ w a b => (if readInt sg w a ≤ readInt sg w b then a else b, 0))
  (fun code _ a b => fltPick (fun x y => !y.below x) code a b)
/-- VMIN (R118). -/
def execVmin (h : Issue) (f : VOp) (s : State) : Out := vop opVmin tyAll false false (.vmin h f) h f s
/-- An element of VMAX (R118). -/
def opVmax : Elem2 :=
  elem2 (fun sg _ w a b => (if readInt sg w b ≤ readInt sg w a then a else b, 0))
  (fun code _ a b => fltPick (fun x y => !x.below y) code a b)
/-- VMAX (R118). -/
def execVmax (h : Issue) (f : VOp) (s : State) : Out := vop opVmax tyAll false false (.vmax h f) h f s
/-- An element of VSHL (R118). -/
def opVshl : Elem2 :=
  elemBits fun w a b => a * 2 ^ (b % w)
/-- VSHL (R118). -/
def execVshl (h : Issue) (f : VOp) (s : State) : Out := vop opVshl tyInt false true (.vshl h f) h f s
/-- An element of VSHR (R118). -/
def opVshr : Elem2 :=
  elemBits fun w a b => a / 2 ^ (b % w)
/-- VSHR (R118). -/
def execVshr (h : Issue) (f : VOp) (s : State) : Out := vop opVshr tyInt false true (.vshr h f) h f s
/-- An element of VSHRA (R118). -/
def opVshra : Elem2 :=
  elemBits fun w a b => ofIntBits w (toInt w a / (2 ^ (b % w) : Nat))
/-- VSHRA (R118). -/
def execVshra (h : Issue) (f : VOp) (s : State) : Out := vop opVshra tyInt false true (.vshra h f) h f s
/-- An element of VAND (R118). -/
def opVand : Elem2 :=
  elemBits fun _ a b => a &&& b
/-- VAND (R118). -/
def execVand (h : Issue) (f : VOp) (s : State) : Out := vop opVand tyLane false true (.vand h f) h f s
/-- An element of VOR (R118). -/
def opVor : Elem2 :=
  elemBits fun _ a b => a ||| b
/-- VOR (R118). -/
def execVor (h : Issue) (f : VOp) (s : State) : Out := vop opVor tyLane false true (.vor h f) h f s
/-- An element of VXOR (R118). -/
def opVxor : Elem2 :=
  elemBits fun _ a b => a ^^^ b
/-- VXOR (R118). -/
def execVxor (h : Issue) (f : VOp) (s : State) : Out := vop opVxor tyLane false true (.vxor h f) h f s
/-- An element of VANDN (R118). -/
def opVandn : Elem2 :=
  elemBits fun w a b => a &&& (2 ^ w - 1 - b)
/-- VANDN (R118). -/
def execVandn (h : Issue) (f : VOp) (s : State) : Out := vop opVandn tyLane false true (.vandn h f) h f s

/-- An element of a compare: its integer and float forms (R118). -/
def opVcmp (i : Int → Int → Bool) (g : FVal → FVal → Bool) (onNan sig : Bool) : Elem2 :=
  elem2 (fun sg _ w a b => (mask w (i (readInt sg w a) (readInt sg w b)), 0))
    (fun code _ a b => fltCmp g onNan sig code a b)
/-- An element of VCMP.EQ (R118). -/
def opVcmpEq : Elem2 := opVcmp (fun a b => a == b) FVal.eqv false false
/-- VCMP.EQ (R118). -/
def execVcmpEq (h : Issue) (f : VOp) (s : State) : Out := vop opVcmpEq tyAll false false (.vcmpEq h f) h f s
/-- An element of VCMP.NE (R118). -/
def opVcmpNe : Elem2 := opVcmp (fun a b => a != b) (fun a b => !a.eqv b) true false
/-- VCMP.NE (R118). -/
def execVcmpNe (h : Issue) (f : VOp) (s : State) : Out := vop opVcmpNe tyAll false false (.vcmpNe h f) h f s
/-- An element of VCMP.LT (R118). -/
def opVcmpLt : Elem2 := opVcmp (fun a b => a < b) FVal.lt false true
/-- VCMP.LT (R118). -/
def execVcmpLt (h : Issue) (f : VOp) (s : State) : Out := vop opVcmpLt tyAll false false (.vcmpLt h f) h f s
/-- An element of VCMP.LE (R118). -/
def opVcmpLe : Elem2 := opVcmp (fun a b => a ≤ b) (fun a b => !b.lt a) false true
/-- VCMP.LE (R118). -/
def execVcmpLe (h : Issue) (f : VOp) (s : State) : Out := vop opVcmpLe tyAll false false (.vcmpLe h f) h f s

/-- An element is non-zero: by value for a float type, by its bits otherwise (R118). -/
def nonZero (ty x : Nat) : Bool := if tyFloat ty then !(valueOf (tyFmt ty) x).isZero else x != 0
/-- The elements of every iteration of source A. -/
def runElems (w a : Nat) (adv : Bool) (n : Nat) (k : Core) : List Nat :=
  (List.range n).flatMap fun i => k.slot w (srcSlot a adv i)
/-- What VANY and VALL read and write. -/
def vpredWork (f : VOp) : Work :=
  { ext := { r := [slotRange (runOf f.a.toNat f.incA (f.n1.toNat + 1))] }, pd := some f.d.toNat }
/-- VANY or VALL performed: a predicate from every element of A (R118). -/
def vpredRun (q : (Nat → Bool) → List Nat → Bool) (f : VOp) : Perform := fun n _ _ s =>
  .ok (s.updCore n fun k => k.pw (BitVec.ofNat 3 f.d.toNat)
    (q (nonZero f.ty.toNat) (runElems (tyWidth f.ty.toNat) f.a.toNat f.incA (f.n1.toNat + 1) k))) ()
/-- VANY or VALL (R118, `06` R143). -/
def vpred (q : (Nat → Bool) → List Nat → Bool) (i : Instr) (h : Issue) (f : VOp) (s : State) : Out :=
  .next (issue h 1 false
    (if 7 < f.d.toNat || f.b != 0 || f.incB || f.breg || f.sat || 5 < f.ty.toNat then some 0x02
     else slotCause [runOf f.a.toNat f.incA (f.n1.toNat + 1)]) { preds := [BitVec.ofNat 3 f.d.toNat] } s fun c s =>
    dispatch 1 i (vpredWork f) (vpredRun q f) h.core c s)
/-- Some element of a list is non-zero. -/
def anyOf (p : Nat → Bool) (l : List Nat) : Bool := l.any p
/-- Every element of a list is non-zero. -/
def allOf (p : Nat → Bool) (l : List Nat) : Bool := l.all p
/-- VANY (R118). -/
def execVany (h : Issue) (f : VOp) (s : State) : Out := vpred anyOf (.vany h f) h f s
/-- VALL (R118). -/
def execVall (h : Issue) (f : VOp) (s : State) : Out := vpred allOf (.vall h f) h f s

/-! ### One-source instructions (VUN) -/

/-- An operation of VUN on an element: type, SAT and bits. -/
abbrev Elem1 := Nat → Bool → Nat → Nat × Nat
/-- What an instruction of format VUN reads and writes. -/
def vunWork (f : VUn) : Work :=
  let n := f.n1.toNat + 1
  { ext := { r := [slotRange (runOf f.a.toNat f.incA n)], w := [slotRange (f.d.toNat, n)] } }
/-- An instruction of format VUN performed. -/
def vunRun (op : Elem1) (f : VUn) : Perform := fun n _ _ s =>
  let w := tyWidth f.ty.toNat
  .ok (s.updCore n fun k => iterate (f.n1.toNat + 1) (fun i k =>
    k.result w (f.d.toNat + i) ((k.slot w (srcSlot f.a.toNat f.incA i)).map fun x => op f.ty.toNat f.sat x)) k) ()
/-- An instruction of format VUN. -/
def vun (op : Elem1) (tys : Nat → Bool) (satOk : Bool) (i : Instr) (h : Issue) (f : VUn) (s : State) : Out :=
  .next (issue h 1 false
    (if 5 < f.ty.toNat || !tys f.ty.toNat || (f.sat && !(satOk && f.ty.toNat ≤ 2)) then some 0x02
     else slotCause [(f.d.toNat, f.n1.toNat + 1), runOf f.a.toNat f.incA (f.n1.toNat + 1)]) {} s fun c s =>
    dispatch 1 i (vunWork f) (vunRun op f) h.core c s)

/-- A float operation on the sign: a NaN gives the default NaN without a flag. -/
def fltSign (g : (w x : Nat) → Nat) (ty x : Nat) : Nat × Nat :=
  (if (valueOf (tyFmt ty) x).isNan then (fmtOf (tyFmt ty)).nanBits else g (tyWidth ty) x, 0)
/-- An element of VABS (R118): integers are signed, and the least value wraps or saturates. -/
def opVabs : Elem1 := fun ty sat x =>
  if tyFloat ty then fltSign (fun w x => x % 2 ^ (w - 1)) ty x
  else intSat true sat (tyWidth ty) (toInt (tyWidth ty) x).natAbs
/-- VABS (R118). -/
def execVabs (h : Issue) (f : VUn) (s : State) : Out := vun opVabs tyAll true (.vabs h f) h f s
/-- An element of VNEG (R118). -/
def opVneg : Elem1 := fun ty _ x => fltSign (fun w x => x ^^^ 2 ^ (w - 1)) ty x
/-- VNEG (R118). -/
def execVneg (h : Issue) (f : VUn) (s : State) : Out := vun opVneg tyFloat false (.vneg h f) h f s
/-- An element of VNOT (R118). -/
def opVnot : Elem1 := fun _ _ x => (2 ^ 32 - 1 - x, 0)
/-- VNOT (R118). -/
def execVnot (h : Issue) (f : VUn) (s : State) : Out := vun opVnot tyLane false (.vnot h f) h f s
/-- An element of VMOV (R118). -/
def opVmov : Elem1 := fun _ _ x => (x, 0)
/-- VMOV (R118). -/
def execVmov (h : Issue) (f : VUn) (s : State) : Out := vun opVmov tyLane false (.vmov h f) h f s

/-! ### Transcendental functions (R120): a result of the conformance set is free among the FP32 values that the
function's error bound leaves (log 2). The exact value is enclosed in an interval computed with 128 fraction bits. -/

/-- The conformance-set result as a free number. -/
def conf (fn x : Nat) : Nat := (Config.conformance fn (BitVec.ofNat 32 x)).toNat
/-- Default NaN of FP32. -/
def nan32 : Nat := 0x7FC00000
/-- ∞ of FP32. -/
def inf32 : Nat := 0x7F800000
/-- FP32 bits of a value that FP32 holds. -/
def f32 (v : FVal) : Nat := (toF32 v).1
/-- VDZ. -/
def vDZ : Nat := flVDZ.toNat
/-- VNX. -/
def vNX : Nat := vfl fNX
/-- A free encoding between two of one sign. -/
def between (lo hi c : Nat) : Nat := lo + c % (hi - lo + 1)

/-- FP32 encoding of the greatest value not above `m`·2^`e` in magnitude, and whether it is equal to it. -/
def f32Down (m : Nat) (e : Int) : Nat × Bool :=
  let c := convFloat (fmtOf 0) false .rz (.fin false m e)
  (c.1, c.2 = 0)
/-- The FP32 encodings in the order of their values, −0 just below +0. -/
def ordKey (neg : Bool) (b : Nat) : Int := if neg then -1 - (b : Int) else b
/-- The encoding with a key. -/
def ofKey (k : Int) : Nat := if k < 0 then 2 ^ 31 + (-1 - k).toNat else k.toNat
/-- Key of the greatest FP32 value not above `i`·2^`e`. -/
def keyDown (i e : Int) : Int :=
  let d := f32Down i.natAbs e
  if i < 0 then ordKey true (if d.2 then d.1 else d.1 + 1) else ordKey false d.1
/-- Key of the least FP32 value not below `i`·2^`e`. -/
def keyUp (i e : Int) : Int :=
  let d := f32Down i.natAbs e
  if i < 0 then ordKey true d.1 else ordKey false (if d.2 then d.1 else d.1 + 1)
/-- A free FP32 value from `lo`·2^−128 to `hi`·2^−128, the ends included. -/
def confine (lo hi : Int) (c : Nat) : Nat :=
  let a := keyUp lo (-128)
  let b := keyDown hi (-128)
  ofKey (a + (c % ((b - a).toNat + 1) : Nat))
/-- The distance of neighbouring FP32 values at `v`·2^−128, a positive value, in units of 2^−128. -/
def ulp32 (v : Nat) : Nat := 2 ^ (max (ilog2 v (-128)) (-126) - 23 + 128).toNat

/-- 2^(2^−i) with 128 fraction bits, rounded down, by i square roots of 2. -/
def rootTwo : Nat → Nat
  | 0 => 2 ^ 129
  | i + 1 => Nat.sqrt (rootTwo i * 2 ^ 128)
/-- 2^f for a fraction f of `n` bits, with 128 fraction bits: the true value lies at most 2^12 units above. -/
def expFrac (f : Nat) : Nat → Nat
  | 0 => 2 ^ 128
  | i + 1 => let y := expFrac f i; if f.testBit (127 - i) then y * rootTwo (i + 1) / 2 ^ 128 else y
/-- log₂ of a significand from 1 to 2, given with 160 fraction bits: `n` bits of it, by repeated squaring. -/
def logFrac : Nat → Nat → Nat
  | _, 0 => 0
  | y, n + 1 =>
      let z := y * y / 2 ^ 160
      if z < 2 ^ 161 then logFrac z n else 2 ^ n + logFrac (z / 2) n
/-- The slack of the enclosures, in units of 2^−128. -/
def slack : Int := 2 ^ 40

/-- The integer that a value is, when it is one. -/
def FVal.int? : FVal → Option Int
  | .fin neg m e =>
      if m % pow2 (-e) ≠ 0 then none
      else some ((if neg then -1 else 1) * ((m * pow2 e / pow2 (-e) : Nat) : Int))
  | _ => none
/-- ⌊v·2^k⌋ of a finite value. -/
def FVal.floorAt (k : Int) : FVal → Int
  | .fin neg m e => ((if neg then -1 else 1) * ((m * pow2 (e + k) : Nat) : Int)) / (pow2 (-e - k) : Nat)
  | _ => 0
/-- The exponent of a power of two, when a positive value is one. -/
def FVal.pow? : FVal → Option Int
  | .fin _ m e => if m ≠ 0 ∧ m = 2 ^ Nat.log2 m then some (ilog2 m e) else none
  | _ => none

/-- 2^x (R120): within 1 ulp, or 2⁻¹⁴⁹ of a subnormal result. A value below 2¹²⁸ gives a finite result. -/
def exp2Elem (x : Nat) : Nat × Nat :=
  match valueOf 0 x with
  | .nan => (nan32, 0)
  | .inf s => (if s then 0 else inf32, 0)
  | v =>
      let n := v.floorAt 0
      if v.lt (ofInt (-150)) then (0, vfl fUF + vNX)
      else if !(v.lt (ofInt 128)) then (inf32, vfl fOF + vNX)
      else if v.int?.isSome && -149 ≤ n then (f32 (.fin false 1 n), 0)
      else
        let y := expFrac (v.floorAt 128 % (2 ^ 128 : Nat)).toNat 128
        let q : Int := max n (-126) - 23
        -- units of 2^(n − 128): one step of the result is 2^q
        let u : Int := (pow2 (q - n + 128) : Nat)
        let lo := keyUp (y - u) (n - 128)
        let hi := min (keyDown (y + u + slack) (n - 128)) 0x7F7FFFFF
        (ofKey (max lo 0 + (conf 4 x % ((hi - max lo 0).toNat + 1) : Nat)), vNX + if n < -126 then vfl fUF else 0)
/-- log₂ x (R120): within 1 ulp outside [0.5, 2], and within 2⁻²⁴ inside. -/
def log2Elem (x : Nat) : Nat × Nat :=
  match valueOf 0 x with
  | .nan => (nan32, 0)
  | .inf s => if s then (nan32, vfl fNV) else (inf32, 0)
  | .fin s m e =>
      if m = 0 then (inf32 + 2 ^ 31, vDZ)
      else if s then (nan32, vfl fNV)
      else match (FVal.fin s m e).pow? with
      | some n => (f32 (ofInt n), 0)
      | none =>
          let n := ilog2 m e
          let v : Int := n * (2 ^ 128 : Nat) + (logFrac (m * 2 ^ 160 / 2 ^ Nat.log2 m) 96 * 2 ^ 32 : Nat)
          let u : Int := if n = 0 ∨ n = -1 then 2 ^ 104 else ulp32 v.natAbs
          (confine (v - u - slack) (v + u + slack) (conf 5 x), vNX)
/-- 1/x (R120): one of the two values next to the exact quotient. -/
def rcpElem (x : Nat) : Nat × Nat :=
  match valueOf 0 x with
  | .nan => (nan32, 0)
  | .inf s => (b2n s * 2 ^ 31, 0)
  | .fin s m e =>
      if m = 0 then (b2n s * 2 ^ 31 + inf32, vDZ)
      else
        -- |1/x| in units of 2^q
        let q : Int := max (-(ilog2 m e) - 1) (-126) - 23
        let num := pow2 (-q - e)
        let t := num / (m * pow2 (q + e))
        let exact := num % (m * pow2 (q + e)) == 0
        if magLe 1 128 1 (-(ilog2 m e)) && m == 2 ^ Nat.log2 m || magLe 1 128 1 (-(ilog2 m e) - 1) then
          (b2n s * 2 ^ 31 + inf32, vfl fOF + vNX)
        else if exact && (-126 ≤ -(ilog2 m e)) && m == 2 ^ Nat.log2 m then
          ((fmtOf 0).enc s t q, 0)
        else
          let r := between t (t + 1) (conf 6 x)
          ((fmtOf 0).enc s r q,
            if exact && r == t then 0 else vNX + if magLt 1 126 m e then vfl fUF else 0)
/-- 1/√x (R120): one of the two values next to the exact one. -/
def rsqElem (x : Nat) : Nat × Nat :=
  match valueOf 0 x with
  | .nan => (nan32, 0)
  | .inf s => if s then (nan32, vfl fNV) else (0, 0)
  | .fin s m e =>
      if m = 0 then (b2n s * 2 ^ 31 + inf32, vDZ)
      else if s then (nan32, vfl fNV)
      else
        -- x = m'·2^e' with e' even; 1/√x lies in [2^r, 2^(r + 1)) and is t steps of 2^(r − 23)
        let m' := if e % 2 = 0 then m else 2 * m
        let e' := if e % 2 = 0 then e else e - 1
        let sq (q : Int) : Nat := Nat.sqrt (pow2 (-e' - 2 * q) / (m' * pow2 (e' + 2 * q)))
        let r : Int := -((ilog2 m e + 1) / 2)
        let q := if 2 ^ 24 ≤ sq (r - 24) then r - 23 else r - 24
        match (FVal.fin s m e).pow? with
        | some n =>
            if n % 2 = 0 then (f32 (.fin false 1 (-(n / 2))), 0)
            else ((fmtOf 0).enc false (between (sq q) (sq q + 1) (conf 7 x)) q, vNX)
        | none => ((fmtOf 0).enc false (between (sq q) (sq q + 1) (conf 7 x)) q, vNX)
/-- log₂ e with 160 fraction bits, rounded down. -/
def log2e : Nat := 2108501164428393954197770173035669514763056903505
/-- tanh x (R120): within 2 ulp, from (2^2y − 1) / (2^2y + 1) with y = |x|·log₂ e. At |x| = 2⁻¹²⁶ the result is the smallest
normal, and VNX is set without VUF (DESIGN CHOICE, log 2). -/
def tanhElem (x : Nat) : Nat × Nat :=
  match valueOf 0 x with
  | .nan => (nan32, 0)
  | .inf s => (b2n s * 2 ^ 31 + 0x3F800000, 0)
  | .fin s m e =>
      if m = 0 then (x, 0)
      else if magLe m e 1 (-12) then (x, vNX + if magLt m e 1 (-126) then vfl fUF else 0)
      else if magLe 91 0 (10 * m) e then (b2n s * 2 ^ 31 + 0x3F800000, vNX)
      else
        let y := m * log2e * pow2 (e + 1 - 32) / pow2 (32 - e - 1)
        let p := expFrac (y % 2 ^ 128) 128 * 2 ^ (y / 2 ^ 128)
        let v : Int := ((p - 2 ^ 128) * 2 ^ 128 / (p + 2 ^ 128) : Nat)
        let u : Int := 2 * ulp32 v.natAbs
        (b2n s * 2 ^ 31 + min (confine (v - u - slack) (v + u + slack) (conf 8 x)) 0x3F800000, vNX)

/-- FP32. -/
def tyF32 (t : Nat) : Bool := t == 3
/-- An element of VEXP2. -/
def opVexp2 : Elem1 := fun _ _ x => exp2Elem x
/-- VEXP2 (R120). -/
def execVexp2 (h : Issue) (f : VUn) (s : State) : Out := vun opVexp2 tyF32 false (.vexp2 h f) h f s
/-- An element of VLOG2. -/
def opVlog2 : Elem1 := fun _ _ x => log2Elem x
/-- VLOG2 (R120). -/
def execVlog2 (h : Issue) (f : VUn) (s : State) : Out := vun opVlog2 tyF32 false (.vlog2 h f) h f s
/-- An element of VRCP. -/
def opVrcp : Elem1 := fun _ _ x => rcpElem x
/-- VRCP (R120). -/
def execVrcp (h : Issue) (f : VUn) (s : State) : Out := vun opVrcp tyF32 false (.vrcp h f) h f s
/-- An element of VRSQ. -/
def opVrsq : Elem1 := fun _ _ x => rsqElem x
/-- VRSQ (R120). -/
def execVrsq (h : Issue) (f : VUn) (s : State) : Out := vun opVrsq tyF32 false (.vrsq h f) h f s
/-- An element of VTANH. -/
def opVtanh : Elem1 := fun _ _ x => tanhElem x
/-- VTANH (R120). -/
def execVtanh (h : Issue) (f : VUn) (s : State) : Out := vun opVtanh tyF32 false (.vtanh h f) h f s

/-! ### Three-source instructions (V3, `06` R144) -/

/-- An operation of V3: slot results from the elements of the three sources. -/
abbrev Elem3 := Rnd → List Nat → List Nat → List Nat → List (Nat × Nat)
/-- What an instruction of format V3 of `n` slots reads and writes. -/
def v3Work (f : V3) (n : Nat) : Work :=
  { ext := { r := ([runOf f.a.toNat f.incA n, runOf f.c.toNat f.incC n] ++
               if f.breg then [] else [runOf f.b.toNat f.incB n]).map slotRange
             w := [slotRange (f.d.toNat, n)] } }
/-- An instruction of format V3 performed: `w` is the width of A and B, `wc` that of C and D. -/
def v3Run (w wc : Nat) (op : Elem3) (f : V3) : Perform := fun n _ d s =>
  let r := (s.core n).asDispatched d
  .ok (s.updCore n fun k => iterate (r.rd f.gn).toNat (fun i k =>
    k.result wc (f.d.toNat + i)
      (op (rnd1 f.rnd) (k.slot w (srcSlot f.a.toNat f.incA i)) (srcB w f.breg f.incB f.b.toNat i r k)
        (k.slot wc (srcSlot f.c.toNat f.incC i)))) k) ()
/-- An instruction of format V3. -/
def v3 (w wc : Nat) (op : Elem3) (rndOk : Bool) (i : Instr) (h : Issue) (f : V3) (s : State) : Out :=
  .next (issue h 1 false (ill ((f.breg && 31 < f.b.toNat) || (f.rnd && !rndOk)))
    { regs := f.gn :: if f.breg then [BitVec.ofNat 5 f.b.toNat] else [] } s fun c s =>
    let n := ((s.core h.core).rd f.gn).toNat
    orLost s (if n = 0 || 256 < n then some 0x02
        else slotCause ([(f.d.toNat, n), runOf f.a.toNat f.incA n, runOf f.c.toNat f.incC n] ++
          if f.breg then [] else [runOf f.b.toNat f.incB n]))
      (dispatch 1 i (v3Work f n) (v3Run w wc op f) h.core c s))

/-- a × b + c of three encodings, rounded once (R118). -/
def fmaElem (code : Nat) (r : Rnd) (a b c : Nat) : Nat × Nat :=
  let x := valueOf code a
  let y := valueOf code b
  let z := valueOf code c
  fltRes code r (x.isNan || y.isNan || z.isNan) ((x.mul y).add z)
/-- Three lists, element by element. -/
def zip3 (f : Nat → Nat → Nat → Nat × Nat) (a b c : List Nat) : List (Nat × Nat) :=
  ((a.zip b).zip c).map fun p => f p.1.1 p.1.2 p.2
/-- VFMA on slots. -/
def opVfma (code : Nat) : Elem3 := fun r a b c => zip3 (fmaElem code r) a b c
/-- VFMA (R118). -/
def execVfma (h : Issue) (ty : Fin 3) (f : V3) (s : State) : Out :=
  v3 (fmtWidth ty.val) (fmtWidth ty.val) (opVfma ty.val) true (.vfma h ty f) h f s
/-- a₀b₀ + a₁b₁ + c rounded once into FP32 (R118). -/
def dotElem (code : Nat) (r : Rnd) (a b : List Nat) (i c : Nat) : Nat × Nat :=
  let v (l : List Nat) (j : Nat) : FVal := valueOf code (l.getD (2 * i + j) 0)
  let z := valueOf 0 c
  fltRes 0 r ((v a 0).isNan || (v b 0).isNan || (v a 1).isNan || (v b 1).isNan || z.isNan)
    ((((v a 0).mul (v b 0)).add ((v a 1).mul (v b 1))).add z)
/-- The source format of VDOT2. -/
def dotCode (fp16 : Bool) : Nat := if fp16 then 2 else 1
/-- VDOT2 on slots. -/
def opVdot2 (code : Nat) : Elem3 := fun r a b c => c.zipIdx.map fun p => dotElem code r a b p.2 p.1
/-- VDOT2 (R118). -/
def execVdot2 (h : Issue) (fp16 : Bool) (f : V3) (s : State) : Out :=
  v3 16 32 (opVdot2 (dotCode fp16)) true (.vdot2 h fp16 f) h f s
/-- Element width of VSEL. -/
def selWidth (w : Fin 3) : Nat := 8 * 2 ^ w.val
/-- VSEL on slots. -/
def opVsel (w : Nat) : Elem3 := fun _ a b c => zip3 (fun a b c => (if c.testBit (w - 1) then a else b, 0)) a b c
/-- VSEL (R118): its RND must be zero. -/
def execVsel (h : Issue) (w : Fin 3) (f : V3) (s : State) : Out :=
  v3 (selWidth w) (selWidth w) (opVsel (selWidth w)) false (.vsel h w f) h f s

end Sys2Proof.Machine
end

