-- ==== Sys2Proof/Machine/Reduce.lean ====
section
/-! DEFINITION. The reduction unit: exact sums, extremes, selection and prefix sums (`05`
R122–R124, `06` R146, R147). -/

namespace Sys2Proof.Machine

/-- The exact state of a reduction (R122): ACC, COUNT and SPEC. -/
structure Red where
  /-- ACC. -/
  acc : Int := 0
  /-- COUNT. -/
  count : Nat := 0
  /-- SPEC. -/
  spec : Nat := 0

/-- WIN: the weight of ACC's bit 0. -/
def winExp (win : Nat) : Int := if win = 0 then -149 else if win = 1 then -146 else 0
/-- The state in the first 64 bytes of a slot. -/
def redOf (b : List Byte) : Red :=
  { acc := toInt 320 (leAt b 0 40), count := leAt b 40 8, spec := leAt b 49 1 }
/-- The bytes of a state. -/
def Red.bytes (r : Red) (win : Nat) : List Byte :=
  leBytes 40 (ofIntBits 320 r.acc) ++ leBytes 8 r.count ++ leBytes 1 win ++ leBytes 1 r.spec ++
    List.replicate 14 0

/-- The element widened to a value (R122). -/
def redElem (ty x : Nat) : FVal := if ty = 2 then ofInt (toInt 32 x) else valueOf (tyFmt ty) x
/-- A special of a term: NaN, +∞ or −∞. -/
def specOf : FVal → Nat
  | .nan => 1
  | .inf false => 2
  | .inf true => 4
  | _ => 0
/-- A finite value in units of 2^w, truncated toward zero. -/
def inUnits (w : Int) : FVal → Int
  | .fin neg m e => (if neg then -1 else 1) * ((m * pow2 (e - w) / pow2 (w - e) : Nat) : Int)
  | _ => 0
/-- A term of a sum under a window, with the RNX bit of a square that is truncated (R123). The square of −∞ is +∞, and is
recorded as that (DEDUCED, log 50). -/
def redTerm (win : Nat) (v : FVal) : FVal × BitVec 16 :=
  if win = 1 then
    (match v with
     | .inf _ => .inf false
     | v => v.mul v,
     match v with
     | .fin _ m e => if m ≠ 0 && magLt m e 1 (-50) then flRNX else 0
     | _ => 0)
  else (v, 0)
/-- One term added. -/
def Red.add (r : Red) (win : Nat) (v : FVal) : Red :=
  { acc := r.acc + inUnits (winExp win) v, count := r.count + 1, spec := r.spec ||| specOf v }
/-- The result of a state is the default NaN: a NaN, both infinities, or the term limit. -/
def Red.nan (r : Red) : Bool := r.spec.testBit 0 || (r.spec.testBit 1 && r.spec.testBit 2) || r.spec.testBit 3
/-- The FP32 result of a state, rounded once (R123). -/
def Red.f32 (r : Red) (win : Nat) : Nat × Nat :=
  if r.nan then (nan32, if r.spec.testBit 1 && r.spec.testBit 2 then vfl fNV else 0)
  else if r.spec.testBit 1 then (inf32, 0)
  else if r.spec.testBit 2 then (inf32 + 2 ^ 31, 0)
  else let c := toF32 (ofInt r.acc (winExp win)); (c.1, vfl c.2)
/-- An integer saturated to `w` bits. -/
def satInt (w : Nat) (x : Int) : Nat × Nat := intSat true true w x

/-- The fields that RSUM-format instructions share (R130, R147): `dn` destination slots; 0x02 before 0x07 (DESIGN CHOICE, log
50). -/
def rsumCause (tys : List Nat) (dn : Nat) (pre : Bool) (f : RFmt) : Option Nat :=
  let n := f.n1.toNat + 1
  let src := f.src.toNat
  let dst := f.dst.toNat
  let a := f.accs.toNat
  let inside (x lo m : Nat) : Bool := lo ≤ x && x < lo + m
  if !tys.contains f.ty.toNat || f.gidx != 0 || (!f.init && !f.save && a != 2047) ||
      ((f.init || f.save) && (inside a src n || inside a dst dn)) ||
      (pre && dst != src && dst < src + n && src < dst + n) then some 0x02
  else slotCause [(src, n), (dst, dn)]

/-- The slots that a reduction reads and writes. -/
def redExt (f : RFmt) (dn : Nat) : Ext :=
  { r := slotRange (f.src.toNat, f.n1.toNat + 1) :: if f.init then [slotRange (f.accs.toNat, 1)] else []
    w := slotRange (f.dst.toNat, dn) :: if f.save then [slotRange (f.accs.toNat, 1)] else [] }

/-- The window of a type. -/
def winOf (sq : Bool) (ty : Nat) : Nat := if ty = 2 then 2 else if sq then 1 else 0

/-- The state a reduction starts from; none when the window of ACCS is another (R130). -/
def redStart (f : RFmt) (win : Nat) (k : Core) : Option Red :=
  if f.init then
    let b := k.bytes (slotOff f.accs.toNat) 64
    if leAt b 48 1 = win then some (redOf b) else none
  else some {}

/-- The elements of slot `i` of a run. -/
def redSlot (ty : Nat) (k : Core) (i : Nat) : List FVal := (k.slot (tyWidth ty) i).map (redElem ty)

/-- The elements of `n` slots in order. -/
def redAll (f : RFmt) (k : Core) (n : Nat) : List FVal :=
  (List.range n).flatMap fun i => redSlot f.ty.toNat k (f.src.toNat + i)
/-- The state written to ACCS, when SAVE is 1. -/
def redSave (f : RFmt) (win : Nat) (r : Red) (k : Core) : Core :=
  if f.save then k.put (slotOff f.accs.toNat) (r.bytes win) else k

/-- The term limit is passed (R124): SPEC bit 3 and VNV are set, and what ACC and COUNT then
hold is free (log 1). -/
def redLimit (r : Red) (s : State) : Red × State :=
  let x := s.free 384
  ({ acc := toInt 320 (fld x.1 319 0), count := fld x.1 383 320, spec := r.spec ||| 8 }, x.2)

/-- A sum of squares that ACC no longer holds: at least one square was 2¹²⁸ or more, so every result of the state is
+∞ with VOF (R124), and what ACC then holds is free among the values that give it (log 46). -/
def redWide (win : Nat) (r : Red) (s : State) : Red × State :=
  if win = 1 ∧ 2 ^ 319 ≤ r.acc then
    let x := s.free 318
    ({ r with acc := 2 ^ 274 + (x.1.toNat % 2 ^ 318 : Nat) }, x.2)
  else (r, s)
/-- The terms of a sum added to a state, with the flags of the squares; past the term limit, what `redLimit`
leaves (R124): the elements of the instruction that passes it then set neither SPEC bits 0–2 nor RNX (DESIGN
CHOICE, log 47: the manual names bit 3 and VNV alone). -/
def redRun (win : Nat) (r : Red) (vs : List FVal) (s : State) : Red × State × BitVec 16 :=
  if 2 ^ 42 < r.count + vs.length then
    let x := redLimit r s
    (x.1, x.2, BitVec.ofNat 16 (vfl fNV))
  else
    let ts := vs.map (redTerm win)
    let x := redWide win (ts.foldl (fun r t => r.add win t.1) r) s
    (x.1, x.2, ts.foldl (fun a t => a ||| t.2) 0)
/-- The bits of an integer result that has no value: past the term limit it has no default NaN to take, and
is free (log 1). -/
def redFree (int : Bool) (r : Red) (s : State) : BitVec 96 × State :=
  if int && r.spec.testBit 3 then s.free 96 else (0, s)
/-- What a sum leaves in DST: from the bits of a result without a value, the state, WIN and the core. -/
abbrev Finish := BitVec 96 → Red → Nat → Core → Core
/-- A sum performed: the state in ACCS is read, and its WIN checked, once the slots are free (R122, R130). -/
def redSumRun (sq int : Bool) (fin : Finish) (f : RFmt) : Perform := fun n _ _ s =>
  let k := s.core n
  let win := winOf sq f.ty.toNat
  match redStart f win k with
  | none => .lost s 0x02
  | some r0 =>
      let x := redRun win r0 (redAll f k (f.n1.toNat + 1)) s
      let y := redFree int x.1 x.2.1
      .ok (y.2.updCore n fun k => redSave f win x.1 (fin y.1 x.1 win (k.raise x.2.2))) ()
/-- A sum: `fin` writes the result of a state to DST. -/
def redSum (sq int : Bool) (tys : List Nat) (fin : Finish) (i : Instr) (h : Issue) (f : RFmt) (s : State) : Out :=
  .next (issue h 1 false (rsumCause tys 1 false f) {} s fun c s =>
    dispatch 2 i { ext := redExt f 1 } (redSumRun sq int fin f) h.core c s)

/-- The FP32 result to lane 0. -/
def finF32 (f : RFmt) (_ : BitVec 96) (r : Red) (win : Nat) (k : Core) : Core :=
  let c := r.f32 win
  (k.put (slotOff f.dst.toNat) (leBytes 4 c.1)).raise (BitVec.ofNat 16 c.2)
/-- The integer result: INT32 to lane 0 and INT64 to lanes 1 and 2, both saturated. -/
def finInt (f : RFmt) (x : BitVec 96) (r : Red) (_ : Nat) (k : Core) : Core :=
  if r.spec.testBit 3 then k.put (slotOff f.dst.toNat) (leBytes 12 x.toNat)
  else
    let a := satInt 32 r.acc
    let b := satInt 64 r.acc
    (k.put (slotOff f.dst.toNat) (leBytes 4 a.1 ++ leBytes 8 b.1)).raise (allFlags [a, b])

/-- RSUM (R123). -/
def execRsum (h : Issue) (f : RFmt) (s : State) : Out := redSum false false [3, 4, 5] (finF32 f) (.rsum h f) h f s
/-- RSSQ (R123). -/
def execRssq (h : Issue) (f : RFmt) (s : State) : Out := redSum true false [3, 4, 5] (finF32 f) (.rssq h f) h f s
/-- RISUM (R123). -/
def execRisum (h : Issue) (f : RFmt) (s : State) : Out := redSum false true [2] (finInt f) (.risum h f) h f s

/-- One slot of prefix sums: the outputs and the state after them. -/
def prefixSlot (incl int : Bool) (win : Nat) (r : Red) (vs : List FVal) : List (Nat × Nat) × Red :=
  vs.foldl (fun a v =>
    let r' := a.2.add win v
    let x := if incl then r' else a.2
    (a.1 ++ [if int then satInt 32 x.acc else x.f32 win], r')) ([], r)
/-- Prefix sums over N slots, in ascending order. -/
def prefixRun (incl int : Bool) (win src dst : Nat) : Nat → Nat → Red → Core → Red × Core
  | _, 0, r, k => (r, k)
  | i, n + 1, r, k =>
      let x := prefixSlot incl int win r (redSlot (if int then 2 else 3) k (src + i))
      prefixRun incl int win src dst (i + 1) n x.2 (k.result 32 (dst + i) x.1)
/-- N slots past the term limit: default NaNs, or free integers (log 1). -/
def prefixLimit (int : Bool) : Nat → State → List (List Byte) × State
  | 0, s => ([], s)
  | n + 1, s =>
      if int then
        let x := s.free 2048
        let y := prefixLimit int n x.2
        (leBytes 256 x.1.toNat :: y.1, y.2)
      else
        let y := prefixLimit int n s
        (packElems 32 (List.replicate 64 nan32) :: y.1, y.2)
/-- Slots written with whole bytes, from slot `d` on. -/
def Core.putSlots (k : Core) (d : Nat) (l : List (List Byte)) : Core :=
  l.zipIdx.foldl (fun k e => k.put (slotOff (d + e.2)) e.1) k
/-- RPSUM performed: running sums, each rounded once (R123); past the term limit an FP32 element has no value, and sets VNV
once both infinities are recorded, as in `Red.f32`. -/
def rpsumRun (incl : Bool) (f : RFmt) : Perform := fun n _ _ s =>
  let m := f.n1.toNat + 1
  let k := s.core n
  let int := f.ty == 2
  let win := winOf false f.ty.toNat
  match redStart f win k with
  | none => .lost s 0x02
  | some r0 =>
      if 2 ^ 42 < r0.count + 64 * m || (int && r0.spec.testBit 3) then
        let x := redRun win r0 (redAll f k m) s
        let y := prefixLimit int m x.2.1
        .ok (y.2.updCore n fun k => redSave f win x.1 ((k.raise x.2.2).putSlots f.dst.toNat y.1)) ()
      else
        .ok (s.updCore n fun k =>
          let x := prefixRun incl int win f.src.toNat f.dst.toNat 0 m r0 k
          redSave f win x.1 x.2) ()
/-- RPSUM (R123). -/
def rpsum (incl : Bool) (i : Instr) (h : Issue) (f : RFmt) (s : State) : Out :=
  let m := f.n1.toNat + 1
  .next (issue h 1 false (rsumCause [2, 3] m true f) {} s fun c s =>
    dispatch 2 i { ext := redExt f m } (rpsumRun incl f) h.core c s)
/-- RPSUM.I (R123). -/
def execRpsumI (h : Issue) (f : RFmt) (s : State) : Out := rpsum true (.rpsumI h f) h f s
/-- RPSUM.E (R123). -/
def execRpsumE (h : Issue) (f : RFmt) (s : State) : Out := rpsum false (.rpsumE h f) h f s

/-! ### Extremes and selection -/

/-- An element with its index in the run, as a candidate. -/
abbrev Cand := Nat × Nat
/-- `a` comes before `b` in descending order: NaN above +∞, −0 below +0, ties by the lower
index (R123). -/
def cAbove (int : Bool) (a b : Cand) : Bool :=
  let x := redElem (if int then 2 else 3) a.1
  let y := redElem (if int then 2 else 3) b.1
  if x.isNan && y.isNan then a.2 < b.2
  else if x.isNan then true else if y.isNan then false
  else if y.below x then true else if x.below y then false else a.2 < b.2
/-- `a` comes before `b` in ascending order, a NaN first. -/
def cBelow (int : Bool) (a b : Cand) : Bool :=
  let x := redElem (if int then 2 else 3) a.1
  let y := redElem (if int then 2 else 3) b.1
  if x.isNan && y.isNan then a.2 < b.2
  else if x.isNan then true else if y.isNan then false
  else if x.below y then true else if y.below x then false else a.2 < b.2
/-- The first of a list under an order. -/
def firstBy (lt : Cand → Cand → Bool) : List Cand → Cand
  | [] => (0, 0)
  | c :: cs => cs.foldl (fun a b => if lt b a then b else a) c
/-- The elements of a run with their indices. -/
def candidates (k : Core) (src n : Nat) : List Cand := ((List.range n).flatMap fun i => k.slot 32 (src + i)).zipIdx
/-- The value of an element as a result: every NaN is the default NaN. -/
def candBits (int : Bool) (x : Nat) : Nat := if !int && (valueOf 0 x).isNan then nan32 else x

/-- RSEL's cause by its encoding (R147). -/
def rselCause (f : RFmt) : Option Nat :=
  if f.accs != 2047 || f.save || f.init || (f.ty != 2 && f.ty != 3) then some 0x02
  else slotCause [(f.src.toNat, f.n1.toNat + 1)]
/-- The lanes that an instruction of format RSEL writes, from 0 on: the type, the index base and the candidate. -/
abbrev Lanes := Bool → W64 → Cand → List Nat
/-- What an instruction of format RSEL reads and writes. -/
def rselWork (f : RFmt) : Work :=
  { ext := { r := [slotRange (f.src.toNat, f.n1.toNat + 1)], w := [slotRange (f.dst.toNat, 1)] } }
/-- An instruction of format RSEL performed. -/
def rselRun (lt : Bool → Cand → Cand → Bool) (out : Lanes) (f : RFmt) : Perform := fun n _ d s =>
  let base := ((s.core n).asDispatched d).rd f.gidx
  let int := f.ty == 2
  .ok (s.updCore n fun k => k.put (slotOff f.dst.toNat)
    (packElems 32 (out int base (firstBy (lt int) (candidates k f.src.toNat (f.n1.toNat + 1)))))) ()
/-- An instruction of format RSEL. -/
def rsel (idx : Bool) (lt : Bool → Cand → Cand → Bool) (out : Lanes) (i : Instr) (h : Issue) (f : RFmt)
    (s : State) : Out :=
  .next (issue h 1 false (rselCause f) { regs := if idx then [f.gidx] else [] } s fun c s =>
    dispatch 2 i (rselWork f) (rselRun lt out f) h.core c s)
/-- The value alone. -/
def outVal (int : Bool) (_ : W64) (c : Cand) : List Nat := [candBits int c.1]
/-- The index with its base, then the value. -/
def outIdx (int : Bool) (base : W64) (c : Cand) : List Nat := [(base.toNat + c.2) % 2 ^ 32, candBits int c.1]
/-- RMAX (R123). -/
def execRmax (h : Issue) (f : RFmt) (s : State) : Out := rsel false cAbove outVal (.rmax h f) h f s
/-- RMIN (R123). -/
def execRmin (h : Issue) (f : RFmt) (s : State) : Out := rsel false cBelow outVal (.rmin h f) h f s
/-- RARGMAX (R123). -/
def execRargmax (h : Issue) (f : RFmt) (s : State) : Out := rsel true cAbove outIdx (.rargmax h f) h f s
/-- RARGMIN (R123). -/
def execRargmin (h : Issue) (f : RFmt) (s : State) : Out := rsel true cBelow outIdx (.rargmin h f) h f s

/-- A candidate put into a list that is in order. -/
def insertBy (lt : Cand → Cand → Bool) (c : Cand) : List Cand → List Cand
  | [] => [c]
  | d :: ds => if lt c d then c :: d :: ds else d :: insertBy lt c ds
/-- The `n` first of a list under an order. -/
def topBy (lt : Cand → Cand → Bool) (n : Nat) (l : List Cand) : List Cand :=
  l.foldl (fun a c => (insertBy lt c a).take n) []
/-- What RTOPK reads and writes. -/
def rtopkWork (f : RTopk) : Work :=
  { ext := { r := slotRange (f.src.toNat, f.n1.toNat + 1) :: (if f.init then [slotRange (f.dst.toNat, 2)] else [])
             w := [slotRange (f.dst.toNat, 2)] } }
/-- RTOPK performed. -/
def rtopkRun (i32 : Bool) (f : RTopk) : Perform := fun n _ d s =>
  let base := ((s.core n).asDispatched d).rd f.gidx
  let kk := f.k1.toNat + 1
  let dst := f.dst.toNat
  .ok (s.updCore n fun k =>
    let old := if f.init then ((k.slot 32 dst).zip (k.slot 32 (dst + 1))).take kk else []
    let new := (candidates k f.src.toNat (f.n1.toNat + 1)).map fun c => (c.1, (base.toNat + c.2) % 2 ^ 32)
    let top := topBy (cAbove i32) kk (old ++ new)
    (k.put (slotOff dst) (packElems 32 (top.map fun c => candBits i32 c.1))).put (slotOff (dst + 1))
      (packElems 32 (top.map (·.2)))) ()
/-- RTOPK (R123): 0x02 before 0x07 (DESIGN CHOICE, log 50). -/
def execRtopk (h : Issue) (i32 : Bool) (f : RTopk) (s : State) : Out :=
  let n := f.n1.toNat + 1
  let src := f.src.toNat
  let dst := f.dst.toNat
  .next (issue h 1 false
    (if f.accs != 2047 || f.save || (src ≤ dst && dst < src + n) || (src ≤ dst + 1 && dst + 1 < src + n) then some 0x02
     else slotCause [(src, n), (dst, 2)]) { regs := [f.gidx] } s fun c s =>
    dispatch 2 (.rtopk h i32 f) (rtopkWork f) (rtopkRun i32 f) h.core c s)

end Sys2Proof.Machine
end

