-- ==== Sys2Proof/Machine/Fp32.lean ====
section
/-! DEFINITION. FP32 operations of the gate and the update units, each rounded once to nearest even
(`09` R215, R227). -/

namespace Sys2Proof.Machine

/-- FP32 1. -/
def one32 : BitVec 32 := 0x3F800000
/-- The rounding of a value. -/
def rne32 (v : FVal) : BitVec 32 := BitVec.ofNat 32 (toF32 v).1
/-- −x. -/
def neg32 (a : BitVec 32) : BitVec 32 := a ^^^ 0x80000000
/-- Fused multiply-add. -/
def fma32 (a b c : BitVec 32) : BitVec 32 := rne32 (((ofF32 a).mul (ofF32 b)).add (ofF32 c))
/-- Product. -/
def mul32 (a b : BitVec 32) : BitVec 32 := rne32 ((ofF32 a).mul (ofF32 b))
/-- Sum. -/
def add32 (a b : BitVec 32) : BitVec 32 := rne32 ((ofF32 a).add (ofF32 b))
/-- Difference. -/
def sub32 (a b : BitVec 32) : BitVec 32 := rne32 ((ofF32 a).sub (ofF32 b))
/-- a < b. -/
def lt32 (a b : BitVec 32) : Bool := (ofF32 a).lt (ofF32 b)
/-- The value is a number and no infinity. -/
def fin32 (a : BitVec 32) : Bool := (ofF32 a).isFin

/-- m·2^e / d for a non-zero d, as a value that rounds as the exact quotient does: at least 64 significant
bits, and a last bit that stands for the rest. -/
def ratio (neg : Bool) (m d : Nat) (e : Int) : FVal :=
  let k := 66 + Nat.log2 d
  let n := m * 2 ^ k
  .fin neg (2 * (n / d) + (if n % d = 0 then 0 else 1)) (e - k - 1)
/-- The greatest r < 2^k (beyond `r`) with r² ≤ n, bit by bit. -/
def isqrtFrom : Nat → Nat → Nat → Nat
  | 0, _, r => r
  | k + 1, n, r => isqrtFrom k n (if (r + 2 ^ k) * (r + 2 ^ k) ≤ n then r + 2 ^ k else r)
/-- ⌊√n⌋. -/
def isqrt (n : Nat) : Nat := isqrtFrom (Nat.log2 n / 2 + 1) n 0
/-- √(m·2^e) / d for a non-zero d, as a value that rounds as the exact one does. -/
def sqrtRatio (m d : Nat) (e : Int) : FVal :=
  let (m, e) := if e % 2 = 0 then (m, e) else (2 * m, e - 1)
  let k := 66 + Nat.log2 d
  let r := isqrt (m * 2 ^ (2 * k))
  let exact := r * r = m * 2 ^ (2 * k) ∧ r % d = 0
  .fin false (2 * (r / d) + (if exact then 0 else 1)) (e / 2 - k - 1)
/-- Quotient. -/
def div32 (a b : BitVec 32) : BitVec 32 :=
  match ofF32 a, ofF32 b with
  | .nan, _ => rne32 .nan
  | _, .nan => rne32 .nan
  | .inf _, .inf _ => rne32 .nan
  | .inf s, .fin t _ _ => rne32 (.inf (s != t))
  | .fin s _ _, .inf t => rne32 (.fin (s != t) 0 0)
  | .fin s m e, .fin t n f =>
      if n = 0 then (if m = 0 then rne32 .nan else rne32 (.inf (s != t)))
      else if m = 0 then rne32 (.fin (s != t) 0 0)
      else rne32 (ratio (s != t) m n (e - f))
/-- Square root. -/
def sqrt32 (a : BitVec 32) : BitVec 32 :=
  match ofF32 a with
  | .nan => rne32 .nan
  | .inf s => if s then rne32 .nan else rne32 (.inf false)
  | .fin s m e => if m = 0 then a else if s then rne32 .nan else rne32 (sqrtRatio m 1 e)
/-- a^k, exact and rounded once. -/
def pow32 (a : BitVec 32) (k : Nat) : BitVec 32 :=
  match ofF32 a with
  | .fin s m e => rne32 (.fin (s && k % 2 = 1) (m ^ k) (e * k))
  | v => rne32 v
/-- 2^i. -/
def two32 (i : Int) : BitVec 32 := rne32 (.fin false 1 i)
/-- sign(x): ±1, or +0 for a zero. -/
def sign32 (a : BitVec 32) : BitVec 32 :=
  match ofF32 a with
  | .nan => rne32 .nan
  | .inf s => if s then neg32 one32 else one32
  | .fin s m _ => if m = 0 then 0 else if s then neg32 one32 else one32

end Sys2Proof.Machine
end

