-- ==== Sys2Proof/Machine/Mbx.lean ====
section
/-! DEFINITION. The Yorek mailbox: submission, take, holds on named objects and completion
(`25` R565–R571). -/

namespace Sys2Proof.Machine

/-! ### Statuses (R566) -/

/-- OK. -/
def stOk : Nat := 0
/-- PENDING. -/
def stPending : Nat := 1
/-- BUSY. -/
def stBusy : Nat := 2
/-- FULL. -/
def stFull : Nat := 3
/-- LOST. -/
def stLost : Nat := 4
/-- REFUSED. -/
def stRefused : Nat := 5
/-- BADCMD. -/
def stBadcmd : Nat := 6
/-- NOCTX. -/
def stNoctx : Nat := 7
/-- ABORTED. -/
def stAborted : Nat := 8
/-- AUTH. -/
def stAuth : Nat := 9
/-- NOCOVER. -/
def stNocover : Nat := 10
/-- NOCKPT. -/
def stNockpt : Nat := 11
/-- UNAVAIL. -/
def stUnavail : Nat := 12

/-- What a command answers at once. -/
inductive Reply
  /-- It completes, with result words. -/
  | done (status : Nat) (res : List W64)
  /-- It is refused by check number `detail` of its rule (R571). -/
  | refused (detail : Nat)
  /-- It completes at a later event. -/
  | wait (w : MbxWait)

/-- Completion with OK. -/
def ok : Reply := .done stOk []
/-- Result words as the RES registers hold them. -/
def resTab (l : List W64) : Tab W64 := (l.zipIdx).foldl (fun t p => Tab.set 0 t p.2 p.1) []

/-- A command completes: RES and STAT are written, ACTIVE cleared, DONE set, and `XGLB.IRQ.MBX`
set (R566). -/
def State.complete (s : State) (ch status detail : Nat) (res : List W64) : State :=
  (s.updChan ch fun k => { k with
    status := status, detail := detail, res := resTab res, active := false, done := true
    wait := .no, names := [] }).irq 1
/-- Every channel whose command waits for an event of this kind completes. -/
def State.completeAll (s : State) (p : MbxWait → Bool) (status : Nat) (res : List W64) : State :=
  (List.range 8).foldl (fun s c => if (s.chan c).active && p (s.chan c).wait then s.complete c status 0 res
    else s) s

/-- Objects held by commands taken earlier on other channels (R567). -/
def State.held (s : State) (ch : Nat) (names : List (Nat × Nat)) : Bool :=
  (List.range 8).any fun c => c != ch && (s.chan c).active && (s.chan c).wait != .no &&
    (s.chan c).wait != .queued && (s.chan c).names.any fun n => names.contains n

/-- A bit is set in an argument word outside the fields of the command, which `masks` gives word by
word (R569). -/
def argRsv (a : List W64) (masks : List W64) : Bool :=
  (List.range 32).any fun i => (argAt a i &&& ~~~(masks.getD i 0)) != 0
/-- Bits `[n-1:0]` of an argument word. -/
def lowMask (n : Nat) : W64 := w64 (2 ^ n - 1)
/-- All bits of an argument word. -/
def allMask : W64 := BitVec.allOnes 64

/-- How the mailbox treats a command. -/
structure Cmd where
  /-- Its code. -/
  opc : Nat
  /-- Bits of the argument words that fields cover. -/
  masks : List W64
  /-- Objects it names: (kind, index) with kind 0 context, 1 fence, 2 window, 3 channel, 4 herd,
  5 store. -/
  names : List (Nat × Nat)
  /-- The contexts whose state it obeys; each must exist. -/
  ctxs : List Nat
  /-- Taken in boot hold and Sentinel mode (R568). -/
  always : Bool
  /-- Its arguments are out of range. -/
  bad : Bool
  /-- It waits for no other command and obeys no context state: QUERY and CTX.DESTROY. -/
  free : Bool

/-- The command's answer, by the order of checks: UNAVAIL, BADCMD, the holds of R567, then the
state of the contexts it names (R363, R567, R568). -/
def State.answer (s : State) (ch : Nat) (args : List W64) (k : Cmd) (body : State → State × Reply) :
    State × Reply :=
  if s.dev != .ready && !k.always then (s, .done stUnavail [])
  else if argRsv args k.masks || k.bad then (s, .done stBadcmd [])
  else if k.opc ≠ 0x03 && s.held ch k.names then (s, .wait .queued)
  else if !k.free && (k.ctxs.any fun c => (s.ctx c).st == .free) then (s, .done stNoctx [])
  else if !k.free && (k.ctxs.any fun c => (s.ctx c).st == .lost) then (s, .done stLost [])
  else if !k.free && (k.ctxs.any fun c => (s.ctx c).st == .aborting) then (s, .done stAborted [])
  else body s

/-- A command is taken and answered. -/
def State.take (s : State) (ch : Nat) (args : List W64) (k : Cmd) (body : State → State × Reply) : State :=
  match s.answer ch args k body with
  | (s, .done st res) => s.complete ch st 0 res
  | (s, .refused d) => s.complete ch stRefused d []
  | (s, .wait w) => s.updChan ch fun x => { x with wait := w, names := k.names }

/-- The mailbox answers: a start has reached firmware that serves it, Sheepdog does not hold
Yorek in reset, and the function takes the write of BAR0 that is the command (R568, `21` R495, `13` R334). -/
def State.mailboxUp (s : State) : Bool :=
  (s.dev == .ready || s.dev == .bootHold || s.dev == .sentinel) && !s.ras.yorekHeld && !s.pcie.d3hot
/-- A channel's command as submitted, not yet taken. -/
def State.submitted (s : State) (ch opc : Nat) (seq : BitVec 16) (args : List W64) : State :=
  { s.updChan ch fun k => { k with
      opc := opc, seq := seq, status := stPending, done := false, active := true, detail := 0
      arg := resTab args, wait := .no, names := [] } with mbxQ := s.mbxQ ++ [ch] }
/-- The argument words of a channel. -/
def MbxChan.args (k : MbxChan) : List W64 := (List.range 32).map fun i => Tab.get 0 k.arg i

/-- A mailbox command (R566): on an idle channel it is submitted; submitted commands are taken in
the order in which they arrived; a command held under R567, and a CLUSTER.MOVE that waits for
cores, is taken up when its row is reached again (log 19); a write to a channel that holds another command is ignored and counted. -/
def mailbox (c : MbxCall) (k : List W64 → Cmd) (body : List W64 → State → State × Reply) (s : State) : State :=
  let ch := c.chan.val
  let opc := (k c.args).opc
  if !s.mailboxUp then s
  else
    let s := if (s.chan ch).active then s else s.submitted ch opc c.seq c.args
    let x := s.chan ch
    if x.opc != opc || x.seq != c.seq then s.setReg (regYmbx + 0x8000) (s.reg (regYmbx + 0x8000) + 1)
    else if s.mbxQ.head? == some ch then
      ({ s with mbxQ := s.mbxQ.tail }).take ch x.args (k x.args) (body x.args)
    else if x.wait == .queued || x.wait == .move then s.take ch x.args (k x.args) (body x.args)
    else if s.mbxQ.contains ch then s
    else s.setReg (regYmbx + 0x8000) (s.reg (regYmbx + 0x8000) + 1)

/-- Codes of *Mailbox commands*. -/
def knownOpc (o : Nat) : Bool :=
  (0x01 ≤ o && o ≤ 0x0E) || (0x10 ≤ o && o ≤ 0x19) || (0x20 ≤ o && o ≤ 0x26) || (0x30 ≤ o && o ≤ 0x36) ||
    (0x40 ≤ o && o ≤ 0x4A) || (0x50 ≤ o && o ≤ 0x56)
/-- MAILBOX_BAD_COMMAND (R566): a CMD write with an unknown code or a reserved bit completes with
BADCMD; a write to an ACTIVE channel is ignored and counted. A reserved bit counts in RSVW in either case (`00` R8;
DEDUCED, log 42). -/
def execMailboxBadCommand (chan : Fin 8) (cmd : W64) (s : State) : Out :=
  .next (if !s.mailboxUp then s
    else
      let s := if fld cmd 39 0 = 0 then s else s.rsvWrite
      if (s.chan chan).active then s.setReg (regYmbx + 0x8000) (s.reg (regYmbx + 0x8000) + 1)
      else
      let x := s.submitted chan (fld cmd 63 56) (BitVec.ofNat 16 (fld cmd 55 40)) (s.chan chan).args
      if knownOpc (fld cmd 63 56) && fld cmd 39 0 == 0 then x
      else ({ x with mbxQ := s.mbxQ }).complete chan
        (if s.dev = Dev.ready then stBadcmd else stUnavail) 0 [])

end Sys2Proof.Machine
end

