-- ==== Sys2Proof/Machine/Convert.lean ====
section
/-! DEFINITION. Vector conversions and the lane generators (`05` R119, R125–R129, `06` R142,
R145). -/

namespace Sys2Proof.Machine

/-! ### VCVT -/

/-- A code that VCVT accepts (R145). -/
def cvtCode (c : Nat) : Bool := c ≤ 4 || isInt c
/-- Source and destination slots of VCVT: N counts the wider side (R119). -/
def cvtSlots (sf df n : Nat) : Nat × Nat :=
  let ws := fmtWidth sf
  let wd := fmtWidth df
  if wd ≤ ws then (n, ceilDiv (n * wd) ws) else (ceilDiv (n * ws) wd, n)
/-- VCVT's cause by its encoding: 0x02 before 0x07 (DESIGN CHOICE, log 50). -/
def vcvtCause (f : VCvt) : Option Nat :=
  let sf := f.sfmt.toNat
  let df := f.dfmt.toNat
  if !cvtCode sf || !cvtCode df || (f.rnd != 3 && f.gidx != 0) then some 0x02
  else
    let c := cvtSlots sf df (f.n1.toNat + 1)
    slotCause [(f.a.toNat, c.1), (f.d.toNat, c.2)]
/-- Iteration `i` of VCVT: the elements of one slot of the wider format (R119). -/
def cvtStep (sf df : Nat) (rnd : Nat) (js : W64) (step : BitVec 32) (idx : W64) (a d i : Nat) (k : Core) : Core :=
  let ws := fmtWidth sf
  let wd := fmtWidth df
  let e := 2048 / max ws wd
  let src := elems ws (k.bytes (slotOff a + i * (e * ws / 8)) (e * ws / 8))
  let l := src.zipIdx.map fun p =>
    let c := convert df (isInt sf) (rnd2 rnd js step (idx + w64 (i * e + p.2))) (valueOf sf p.1)
    (c.1, vfl c.2)
  (k.put (slotOff d + i * (e * wd / 8)) (packElems wd (l.map (·.1)))).raise (allFlags l)
/-- The element-index base of an instruction that rounds under SR (R119). -/
def idxOf (rnd : BitVec 2) (g : BitVec 5) (r : Core) : W64 := if rnd == 3 then r.rd g else 0
/-- What VCVT reads and writes. -/
def vcvtWork (f : VCvt) : Work :=
  let sl := cvtSlots f.sfmt.toNat f.dfmt.toNat (f.n1.toNat + 1)
  { ext := { r := [slotRange (f.a.toNat, sl.1)], w := [slotRange (f.d.toNat, sl.2)] } }
/-- VCVT performed. -/
def vcvtRun (f : VCvt) : Perform := fun n c d s =>
  let r := (s.core n).asDispatched d
  .ok (s.updCore n (iterate (f.n1.toNat + 1) (cvtStep f.sfmt.toNat f.dfmt.toNat f.rnd.toNat (s.jseed c) r.srstep
    (idxOf f.rnd f.gidx r) f.a.toNat f.d.toNat))) ()
/-- VCVT (R119). -/
def execVcvt (h : Issue) (f : VCvt) (s : State) : Out :=
  .next (issue h 1 false (vcvtCause f) { regs := if f.rnd == 3 then [f.gidx] else [] } s fun c s =>
    dispatch 1 (.vcvt h f) (vcvtWork f) (vcvtRun f) h.core c s)

/-! ### VCVT.MX and VCVT.MXD -/

/-- Slots of the packed elements and of the scale bytes (R119). -/
def mxSlots (f : VMx) : Nat × Nat :=
  let n := f.n1.toNat + 1
  (ceilDiv (n * fmtWidth (f.fmx.toNat + 5)) 32, ceilDiv (64 * n) (256 * blkOf f.blk.toNat))
/-- Iteration `i` of VCVT.MX: one FP32 slot, in whole blocks. Where the element and the scale run overlap, the
elements of an iteration are written before its scale bytes (DESIGN CHOICE, log 48: the manual orders the
iterations alone). -/
def mxStep (f : VMx) (js : W64) (step : BitVec 32) (idx : W64) (i : Nat) (k : Core) : Core :=
  let code := f.fmx.toNat + 5
  let blk := blkOf f.blk.toNat
  let vs := (k.slot 32 (f.a.toNat + i)).map (valueOf 0)
  let rs : List Rnd := (List.range 64).map fun j =>
    rnd2 f.rnd.toNat js step (idx + w64 (64 * i + j))
  let bs := (List.range (64 / blk)).map fun q =>
    freshBlock code (if f.rule then 2 else 1) ((rs.drop (q * blk)).take blk) ((vs.drop (q * blk)).take blk)
  let k := k.put (slotOff f.d.toNat + i * (8 * fmtWidth code)) (packElems (fmtWidth code) (bs.flatMap (·.2.1)))
  let k := k.put (slotOff f.s.toNat + i * (64 / blk)) (bs.map fun b => BitVec.ofNat 8 b.1)
  k.raise (BitVec.ofNat 16 (joinFlags (bs.map fun b => vfl b.2.2)))
/-- What VCVT.MX reads and writes. -/
def vcvtMxWork (f : VMx) : Work :=
  let m := mxSlots f
  { ext := { r := [slotRange (f.a.toNat, f.n1.toNat + 1)]
             w := [slotRange (f.d.toNat, m.1), slotRange (f.s.toNat, m.2)] } }
/-- VCVT.MX performed. -/
def vcvtMxRun (f : VMx) : Perform := fun n c d s =>
  let r := (s.core n).asDispatched d
  .ok (s.updCore n (iterate (f.n1.toNat + 1) (mxStep f (s.jseed c) r.srstep (idxOf f.rnd f.gidx r)))) ()
/-- VCVT.MX (R119). -/
def execVcvtMx (h : Issue) (f : VMx) (s : State) : Out :=
  let n := f.n1.toNat + 1
  let m := mxSlots f
  .next (issue h 1 false
    (if 5 < f.fmx.toNat || f.blk == 3 || f.rnd == 2 || (f.rnd != 3 && f.gidx != 0) then some 0x02
     else slotCause [(f.s.toNat, m.2), (f.a.toNat, n), (f.d.toNat, m.1)])
    { regs := if f.rnd == 3 then [f.gidx] else [] } s fun c s =>
    dispatch 1 (.vcvtMx h f) (vcvtMxWork f) (vcvtMxRun f) h.core c s)

/-- Iteration `i` of VCVT.MXD: one FP32 slot from 64 packed elements and their scales. -/
def mxdStep (f : VMx) (i : Nat) (k : Core) : Core :=
  let code := f.fmx.toNat + 5
  let w := fmtWidth code
  let blk := blkOf f.blk.toNat
  let src := elems w (k.bytes (slotOff f.a.toNat + i * (8 * w)) (8 * w))
  let sc := k.bytes (slotOff f.s.toNat + i * (64 / blk)) (64 / blk)
  k.result 32 (f.d.toNat + i) (src.zipIdx.map fun p =>
    let c := toF32 (scaled (valueOf code p.1) (sc.getD (p.2 / blk) 0).toNat)
    (c.1, vfl c.2))
/-- What VCVT.MXD reads and writes. -/
def vcvtMxdWork (f : VMx) : Work :=
  let m := mxSlots f
  { ext := { r := [slotRange (f.a.toNat, m.1), slotRange (f.s.toNat, m.2)]
             w := [slotRange (f.d.toNat, f.n1.toNat + 1)] } }
/-- VCVT.MXD performed. -/
def vcvtMxdRun (f : VMx) : Perform := fun n _ _ s =>
  .ok (s.updCore n (iterate (f.n1.toNat + 1) (mxdStep f))) ()
/-- VCVT.MXD (R119): RULE, RND and gIDX are unused. -/
def execVcvtMxd (h : Issue) (f : VMx) (s : State) : Out :=
  let n := f.n1.toNat + 1
  let m := mxSlots f
  .next (issue h 1 false
    (if 5 < f.fmx.toNat || f.blk == 3 || f.rule || f.rnd != 0 || f.gidx != 0 then some 0x02
     else slotCause [(f.s.toNat, m.2), (f.a.toNat, m.1), (f.d.toNat, n)]) {} s fun c s =>
    dispatch 1 (.vcvtMxd h f) (vcvtMxdWork f) (vcvtMxdRun f) h.core c s)

/-! ### BFX48 (R119, `04` R103–R106) -/

/-- Slots of N slots' exponent bytes. -/
def bxSlots (n : Nat) : Nat := ceilDiv (2 * n) 256
/-- The two blocks of an FP32 slot. -/
def bxBlocks (k : Core) (a i : Nat) : List (List FVal) :=
  let vs := (k.slot 32 (a + i)).map (valueOf 0)
  [vs.take 32, vs.drop 32]
/-- What VBX.EXP reads and writes. -/
def vbxExpWork (f : VBx) : Work :=
  let n := f.n1.toNat + 1
  { ext := { r := [slotRange (f.a.toNat, n)], w := [slotRange (f.d.toNat, bxSlots n)] } }
/-- VBX.EXP performed. -/
def vbxExpRun (f : VBx) : Perform := fun n _ _ s =>
  .ok (s.updCore n (iterate (f.n1.toNat + 1) fun i k =>
    k.put (slotOff f.d.toNat + 2 * i) ((bxBlocks k f.a.toNat i).map fun b => BitVec.ofNat 8 (bfxLocal b)))) ()
/-- VBX.EXP (R119): S and gT are unused. -/
def execVbxExp (h : Issue) (f : VBx) (s : State) : Out :=
  .next (issue h 1 false
    (if f.s != 0 || f.gt != 0 then some 0x02
     else slotCause [(f.a.toNat, f.n1.toNat + 1), (f.d.toNat, bxSlots (f.n1.toNat + 1))]) {} s fun c s =>
    dispatch 1 (.vbxExp h f) (vbxExpWork f) (vbxExpRun f) h.core c s)
/-- The cause of a tile-store range of BFX48 blocks (R130). -/
def bxCause (t n : Nat) : Option Nat := tileCause [(t, 386 * n)]
/-- What VBX.CVT at tile-store offset `t` reads and writes. -/
def vbxCvtWork (f : VBx) (t : Nat) : Work :=
  let n := f.n1.toNat + 1
  { ext := { r := [slotRange (f.a.toNat, n), slotRange (f.s.toNat, bxSlots n)], w := [(t, 386 * n)] } }
/-- VBX.CVT performed. -/
def vbxCvtRun (f : VBx) : Perform := fun n _ d s =>
  let t := (((s.core n).asDispatched d).rd f.gt).toNat
  .ok (s.updCore n (iterate (f.n1.toNat + 1) fun i k =>
    let l := (bxBlocks k f.a.toNat i).zip (k.bytes (slotOff f.s.toNat + 2 * i) 2) |>.map fun p => bfxBlock p.2.toNat p.1
    (k.put (t + 386 * i) (l.flatMap (·.1))).raise
      (BitVec.ofNat 16 (joinFlags (l.map fun x => vfl x.2))))) ()
/-- VBX.CVT (R119): D is unused. -/
def execVbxCvt (h : Issue) (f : VBx) (s : State) : Out :=
  let n := f.n1.toNat + 1
  .next (issue h 1 false
    (if f.d != 0 then some 0x02 else slotCause [(f.a.toNat, n), (f.s.toNat, bxSlots n)]) { regs := [f.gt] } s fun c s =>
    let t := ((s.core h.core).rd f.gt).toNat
    orLost s (bxCause t n) (dispatch 1 (.vbxCvt h f) (vbxCvtWork f t) (vbxCvtRun f) h.core c s))
/-- What VBX.DEC at tile-store offset `t` reads and writes. -/
def vbxDecWork (f : VBx) (t : Nat) : Work :=
  let n := f.n1.toNat + 1
  { ext := { r := [(t, 386 * n)], w := [slotRange (f.d.toNat, n)] } }
/-- VBX.DEC performed. -/
def vbxDecRun (f : VBx) : Perform := fun n _ d s =>
  let t := (((s.core n).asDispatched d).rd f.gt).toNat
  .ok (s.updCore n (iterate (f.n1.toNat + 1) fun i k =>
    let b := k.bytes (t + 386 * i) 386
    k.result 32 (f.d.toNat + i) ((List.range 64).map fun j =>
      let c := toF32 (bfxValue (b.drop (193 * (j / 32))) (j % 32))
      (c.1, vfl c.2)))) ()
/-- VBX.DEC (R119): A and S are unused. -/
def execVbxDec (h : Issue) (f : VBx) (s : State) : Out :=
  let n := f.n1.toNat + 1
  .next (issue h 1 false
    (if f.a != 0 || f.s != 0 then some 0x02 else slotCause [(f.d.toNat, n)]) { regs := [f.gt] } s fun c s =>
    let t := ((s.core h.core).rd f.gt).toNat
    orLost s (bxCause t n) (dispatch 1 (.vbxDec h f) (vbxDecWork f t) (vbxDecRun f) h.core c s))

/-! ### Lane generators (R125–R129) -/

/-- The counter of a lane. -/
def Core.laneOf (k : Core) (i : Nat) : W64 := Tab.get 0 k.lane i
/-- The core after one draw of every lane, and the draws (R127, R128). -/
def Core.drawLanes (seed : W64) (k : Core) : List Nat × Core :=
  ((List.range 64).map fun i => (laneDraw seed i (k.laneOf i)).toNat,
    { k with lane := (List.range 64).foldl (fun t i => Tab.upd 0 t i (· + 1)) k.lane }.raise
      (if (List.range 64).any fun i => k.laneOf i == BitVec.allOnes 64 then flGWR else 0))
/-- The slots that a lane-generator instruction writes. -/
def vrngWork (f : VRng) (n : Nat) : Work := { ext := { w := [slotRange (f.d.toNat, n)] } }
/-- VRNG or VRNG.U performed: each iteration draws once in every lane. -/
def vrngRun (g : Nat → Nat) (f : VRng) : Perform := fun n c _ s =>
  let m := f.n1.toNat + 1
  .ok ((s.bumpCore n 19 (64 * m)).updCore n (iterate m fun i k =>
    let r := k.drawLanes (s.ctx c).cseed
    r.2.putSlot 32 (f.d.toNat + i) (r.1.map g))) ()
/-- VRNG or VRNG.U; gA and gB are unused. -/
def vrngDraw (g : Nat → Nat) (i : Instr) (h : Issue) (f : VRng) (s : State) : Out :=
  let n := f.n1.toNat + 1
  .next (issue h 1 false
    (if f.ga != 0 || f.gb != 0 then some 0x02 else slotCause [(f.d.toNat, n)]) {} s fun c s =>
    dispatch 1 i (vrngWork f n) (vrngRun g f) h.core c s)
/-- VRNG (R127). -/
def execVrng (h : Issue) (f : VRng) (s : State) : Out := vrngDraw id (.vrng h f) h f s
/-- A draw as VRNG.U writes it: (draw >> 8) × 2⁻²⁴ (R127). -/
def unitDraw (x : Nat) : Nat := f32 (.fin false (x / 2 ^ 8) (-24))
/-- VRNG.U (R127). -/
def execVrngU (h : Issue) (f : VRng) (s : State) : Out := vrngDraw unitDraw (.vrngU h f) h f s
/-- VRNG.SETC performed. -/
def vrngSetcRun (f : VRng) : Perform := fun n _ d s =>
  let r := (s.core n).asDispatched d
  .ok (s.updCore n fun k => { k with lane := (List.range 64).foldl (fun t i =>
    Tab.set 0 t i (r.rd f.ga + w64 i * r.rd f.gb)) k.lane }) ()
/-- VRNG.SETC (R127): D and N are unused. -/
def execVrngSetc (h : Issue) (f : VRng) (s : State) : Out :=
  .next (issue h 1 false (ill (f.d != 0 || f.n1 != 0)) { regs := [f.ga, f.gb] } s fun c s =>
    dispatch 1 (.vrngSetc h f) {} (vrngSetcRun f) h.core c s)
/-- VRNG.GETC performed. -/
def vrngGetcRun (f : VRng) : Perform := fun n _ _ s =>
  .ok (s.updCore n fun k =>
    (k.putSlot 32 f.d.toNat ((List.range 64).map fun i => fld (k.laneOf i) 31 0)).putSlot 32 (f.d.toNat + 1)
      ((List.range 64).map fun i => fld (k.laneOf i) 63 32)) ()
/-- VRNG.GETC (R127): N, gA and gB are unused. -/
def execVrngGetc (h : Issue) (f : VRng) (s : State) : Out :=
  .next (issue h 1 false
    (if f.n1 != 0 || f.ga != 0 || f.gb != 0 then some 0x02 else slotCause [(f.d.toNat, 2)]) {} s fun c s =>
    dispatch 1 (.vrngGetc h f) (vrngWork f 2) (vrngGetcRun f) h.core c s)

/-- Slots filled from the sampling DRBG; none when it refuses. -/
def sampleSlots (n : Nat) : Nat → Nat → State → Option State
  | _, 0, s => some s
  | d, j + 1, s =>
      match s.drawSample with
      | none => none
      | some (x, s) => sampleSlots n (d + 1) j (s.updCore n fun k => k.put (slotOff d) (leBytes 256 x.toNat))
/-- VRNG.T performed: the bits are free values (log 1). -/
def vrngTRun (f : VRng) : Perform := fun n _ _ s =>
  match sampleSlots n f.d.toNat (f.n1.toNat + 1) s with
  | some s => .ok s ()
  | none => .lost s.keyRefused 0x15
/-- VRNG.T (R129, `15` R382, R383). That its context permits nondeterministic sampling is checked when the
instruction executes, that is with a true predicate: R130 calls it illegal when "issued" elsewhere, and the check
depends on the context, not on the encoding (DEDUCED, log 49). -/
def execVrngT (h : Issue) (f : VRng) (s : State) : Out :=
  let n := f.n1.toNat + 1
  .next (issue h 1 false
    (if f.ga != 0 || f.gb != 0 then some 0x02 else slotCause [(f.d.toNat, n)]) {} s fun c s =>
    if !s.nondet c then .lost s 0x02
    else dispatch 1 (.vrngT h f) (vrngWork f n) (vrngTRun f) h.core c s)

end Sys2Proof.Machine
end

