-- ==== Sys2Proof/Machine/Matrix.lean ====
section
/-! DEFINITION. Matrix instructions: the stationary banks, streams, accumulators, output rows
and carried-scale tables (`03_matrix_array`, `04` R97–R102, `06` R148, R149). -/

namespace Sys2Proof.Machine

/-- The context on whose behalf the units of a core work, when they do: the device is Ready, no
field test runs and no reset is in progress (`20` R472, `21` R479). -/
def State.works (s : State) (n : Nat) : Option Nat :=
  if s.dev == .ready && !s.coreDown n && s.ras.fieldTest == 0 then s.coreCtx n else none

/-- The cause of regions of the tile store given as offset, bytes and alignment: one that
reaches 0x48_0000 is cause 0x07, one that is misaligned or passes 0x3F_FFFF cause 0x02 (R88). Where one region does
the first and another the second, 0x07 is taken, in LOADW, STREAM and ACCOUT alike: R88 does not order the two (DESIGN
CHOICE, log 50). -/
def regionCause (l : List (Nat × Nat × Nat)) : Option Nat :=
  if l.any fun r => localEnd < r.1 + r.2.1 then some 0x07
  else if l.any fun r => r.1 % r.2.2 ≠ 0 || tileEnd < r.1 + r.2.1 then some 0x02
  else none

/-! ### LOADW and SWAP (R63–R66) -/

/-- LOADW's encoding is illegal (R88, R157). -/
def loadwBad (f : LoadW) : Bool :=
  !isArray f.fmt.toNat || !sclLegal f.fmt.toNat f.scl || (!f.scl && (f.blk != 0 || f.gs != 0))

/-- A core's matrix operation dispatched. -/
def Core.dispatch (k : Core) (o : MxOp) : Core :=
  { k with mx := { k.mx with ops := k.mx.ops ++ [(k.disp, o)] }, disp := k.disp + 1 }
/-- A matrix instruction dispatched on core `n`. Its queue holds 8 instructions, each until it is finished (DESIGN
CHOICE, log 43: a full queue changes timing only, `06` R155); a full queue stalls issue, which is counted. -/
def mxDispatch (n : Nat) (o : MxOp) (s : State) : Res (Option W48) :=
  if 8 ≤ (s.core n).mx.ops.length then .wait (s.bumpCore n 20 1)
  else .ok (s.updCore n fun k => k.dispatch o) none

/-- LOADW (R63): dispatched to the bank that is inactive after the SWAPs before it. -/
def execLoadw (h : Issue) (f : LoadW) (s : State) : Out :=
  .next (issue h 1 false (ill (loadwBad f)) { regs := f.gd :: (if f.scl then [f.gs] else []) } s fun _ s =>
    let k := s.core h.core
    let base := (k.rd f.gd).toNat
    let sbase := if f.scl then (k.rd f.gs).toNat else 0
    orLost s (regionCause ((base, statBytes f.fmt.toNat, 128) ::
        (if f.scl then [(sbase, 1024, 128)] else [])))
      (mxDispatch h.core (.loadw (!k.mx.active) f.fmt.toNat f.scl (blkOf f.blk.toNat) base sbase) s))

/-- The bank that a LOADW fills from the stores (R63). -/
def bankOf (st : Tab Byte) (fmt : Nat) (scl : Bool) (blk base sbase : Nat) : Bank where
  fmt := fmt
  scl := scl
  blk := blk
  elem := (List.range (64 * kOf fmt)).filterMap fun i =>
    let x : BitVec 16 := BitVec.ofNat 16 (bitsAt st (8 * base + statBit fmt (i / 64) (i % 64)) (fmtWidth fmt))
    if x = 0 then none else some (i, x)
  scale := if scl then (List.range 1024).filterMap fun i =>
      let b := Tab.get 0 st (sbase + i)
      if b = 0 then none else some (i, b)
    else []

/-- An operation of the load sequencer: LOADW and CSADV (`06` R149). -/
def MxOp.isLoad : MxOp → Bool
  | .loadw _ _ _ _ _ _ => true
  | .csadv _ _ _ _ _ _ => true
  | _ => false
/-- An operation of the array itself, in dispatch order: STREAM and ACCOUT. -/
def MxOp.isRows : MxOp → Bool
  | .stream _ _ _ _ _ _ _ _ _ _ _ _ _ _ => true
  | .accout _ _ _ => true
  | _ => false
/-- An operation is a LOADW of a bank. -/
def MxOp.loads (bank : Bool) : MxOp → Bool
  | .loadw b _ _ _ _ _ => b == bank
  | _ => false
/-- An operation is a STREAM against a bank. -/
def MxOp.uses (bank : Bool) : MxOp → Bool
  | .stream b _ _ _ _ _ _ _ _ _ _ _ _ _ => b == bank
  | _ => false
/-- A bank. -/
def Matrix.bank (m : Matrix) (b : Bool) : Bank := if b then m.bank1 else m.bank0
/-- A matrix with a bank set. -/
def Matrix.setBank (m : Matrix) (b : Bool) (x : Bank) : Matrix :=
  if b then { m with bank1 := x } else { m with bank0 := x }

/-- The first LOADW of a core is finished, once no CSADV stands before it, no earlier STREAM uses its bank (R65)
and no earlier work conflicts with its regions (`02` R36). -/
def State.loadBank (s : State) (n : Nat) : State :=
  let k := s.core n
  match k.mx.ops.find? fun o => o.2.isLoad with
  | some (num, .loadw bank fmt scl blk base sbase) =>
      if k.mx.ops.any fun o => o.1 < num && o.2.uses bank then s.bumpCore n 11 1
      else if s.locked n num (MxOp.ext (.loadw bank fmt scl blk base sbase)) then s
      else s.updCore n fun k => { k with mx :=
        { k.mx.setBank bank (bankOf k.store fmt scl blk base sbase) with
          ops := k.mx.ops.filter fun o => o.1 != num } }
  | _ => s

/-! ### Output fields (R67, R77–R80) -/

/-- Output fields whose encoding is illegal (R88, R148, R157). -/
def outBad (o : OutW) : Bool :=
  let f := o.fmt.toNat
  let sr := o.srule.toNat
  let k0 := 64 * o.k0.toNat
  f == 15 || o.blk == 3 || o.dst == 3 || o.rnd == 2 ||
    ((sr == 1 || sr == 2) && !isMx f) || (sr == 3 && f != 3 && f != 4) ||
    (sr == 0 && (isMx f || o.gos != 0)) || (o.dst != 1 && o.k0 != 0) ||
    (o.rnd != 3 && o.gidx != 0) || (o.dst == 2 && 2 < f) ||
    (o.dst == 1 && (!isArray f || kOf f < k0 + 64))
/-- Registers that the output fields read. -/
def outRegs (o : OutW) : List (BitVec 5) :=
  o.go :: ((if o.srule != 0 then [o.gos] else []) ++ if o.rnd == 3 then [o.gidx] else [])
/-- The output fields with their values on a core. -/
def outRead (o : OutW) (k : Core) : OutF where
  fmt := o.fmt.toNat
  srule := o.srule.toNat
  blk := blkOf o.blk.toNat
  dst := o.dst.toNat
  obase := (k.rd o.go).toNat
  osbase := if o.srule != 0 then (k.rd o.gos).toNat else 0
  k0 := 64 * o.k0.toNat
  rnd := o.rnd.toNat
  idx := if o.rnd == 3 then k.rd o.gidx else 0
  srstep := k.srstep

/-- The cause of an output of `n` rows by its bases (R78, R79, R88). Under DST 2 an OBASE below 0x40_0000 names no
slot: it is taken as a misplaced OBASE, cause 0x02, though the table lists no condition for it; and where one base
reaches 0x48_0000 and another is misaligned or past the tile store, 0x07 is taken (DESIGN CHOICE, log 50). -/
def OutF.cause (o : OutF) (n : Nat) : Option Nat :=
  if o.dst = 2 then
    if localEnd < o.obase + n * outRowBytes o.fmt then some 0x07
    else if o.obase < tileEnd || o.obase % 256 ≠ 0 then some 0x02 else none
  else
    let rs := o.regions 0 n
    if rs.any fun r => localEnd < r.1 + r.2 then some 0x07
    else if (rs.any fun r => tileEnd < r.1 + r.2) || o.obase % (if o.dst = 1 then 128 else 16) ≠ 0 ||
        (o.srule ≠ 0 && o.osbase % (if o.dst = 1 && o.srule ≠ 3 then 128 else 4) ≠ 0) then some 0x02
    else none

/-- The values of block `q`. -/
def blockOf {α : Type} (blk q : Nat) (l : List α) : List α := (l.drop (q * blk)).take blk
/-- Offset of the carried-scale entry of block `q` of output row `m` (`04` R100). -/
def OutF.entryAt (o : OutF) (m q : Nat) : Nat := o.osbase + 4 * (m * 64 / o.blk + q)
/-- One converted output row: elements, scale bytes, changed table entries and flags. -/
structure RowOut where
  /-- Element encodings. -/
  els : List Nat
  /-- Scale bytes of a fresh rule. -/
  scales : List Nat
  /-- Table entries of the carried rule: offset and value. -/
  entries : List (Nat × BitVec 32)
  /-- Flags. -/
  fl : Nat

/-- The conversion of row `m` under the output fields (R79, R80, `04` R95–R101). -/
def OutF.conv (o : OutF) (js : W64) (st : Tab Byte) (m : Nat) (vs : List FVal) : RowOut :=
  let rs : List Rnd := (List.range 64).map fun n => rnd2 o.rnd js o.srstep (o.idx + w64 (64 * m + n))
  if o.srule = 0 then
    let l := (vs.zip rs).map fun p => convert o.fmt false p.2 p.1
    { els := l.map (·.1), scales := [], entries := [], fl := joinFlags (l.map (·.2)) }
  else if o.srule = 3 then
    let l := (List.range (64 / o.blk)).map fun q =>
      let a := o.entryAt m q
      (a, carriedBlock o.fmt (BitVec.ofNat 32 (leNat (bytesAt st a 4))) (blockOf o.blk q rs) (blockOf o.blk q vs))
    { els := l.flatMap (·.2.1), scales := [], entries := l.map fun x => (x.1, x.2.2.1)
      fl := joinFlags (l.map (·.2.2.2)) }
  else
    let l := (List.range (64 / o.blk)).map fun q =>
      freshBlock o.fmt o.srule (blockOf o.blk q rs) (blockOf o.blk q vs)
    { els := l.flatMap (·.2.1), scales := l.map (·.1), entries := [], fl := joinFlags (l.map (·.2.2)) }

/-- The stores with row `m` written (R78, R79). -/
def OutF.write (o : OutF) (m : Nat) (x : RowOut) (st : Tab Byte) : Tab Byte :=
  let w := fmtWidth o.fmt
  let st := if o.dst = 1 then
      x.els.zipIdx.foldl (fun t p => putBits t (skewBit o.fmt 0 o.obase m (o.k0 + p.2)) w p.1) st
    else putBytes st (o.obase + m * outRowBytes o.fmt) (packElems w x.els)
  let st := x.entries.foldl (fun t e => putBytes t e.1 (leBytes 4 e.2.toNat)) st
  if x.scales.isEmpty then st
  else if o.dst = 1 then
    x.scales.zipIdx.foldl (fun t p =>
      Tab.set 0 t (skewScale o.fmt 0 o.osbase o.blk m (o.k0 + p.2 * o.blk)) (BitVec.ofNat 8 p.1)) st
  else putBytes st (o.osbase + 4 * m) ((x.scales ++ [0, 0, 0, 0]).take 4 |>.map (BitVec.ofNat 8))

/-- A core with output row `m` written and its flags raised (R77–R81). -/
def OutF.emit (o : OutF) (js : W64) (m : Nat) (vs : List FVal) (k : Core) : Core :=
  let x := o.conv js k.store m vs
  { k with store := o.write m x k.store }.raise (mxFlags x.fl)

/-! ### STREAM (R67–R76) -/

/-- STREAM's encoding is illegal (R88, R148, R157). -/
def streamBad (f : StreamF) (o : OutW) : Bool :=
  let a := f.fmtA.toNat
  !isArray a || !sclLegal a f.sclA || (!f.sclA && (f.blkA != 0 || f.gsa != 0)) ||
    (1 ≤ f.ring.toNat && f.ring.toNat ≤ 7) || f.mode == 3 ||
    (if f.mode == 0 then f.acc != 0 || outBad o
     else 256 < f.acc.toNat + (f.m1.toNat + 1) ||
      o != { fmt := 0, srule := 0, blk := 0, dst := 0, go := 0, gos := 0, k0 := 0, rnd := 0, gidx := 0 })

/-- The format of the bank that a STREAM dispatched now meets: that of the last LOADW of the
active bank that is not finished, else the one held with it (R67). -/
def Matrix.fmtNow (m : Matrix) : Nat :=
  m.ops.foldl (fun a o => match o.2 with
    | .loadw b fmt _ _ _ _ => if b == m.active then fmt else a
    | _ => a) (m.bank m.active).fmt

/-- STREAM (R67). Where one region reaches 0x48_0000 and another condition fails too, such as a misaligned region or
a bad pairing, cause 0x07 is taken: R88 does not order the two (DESIGN CHOICE, log 50). -/
def execStream (h : Issue) (f : StreamF) (o : OutW) (s : State) : Out :=
  .next (issue h 2 false (ill (streamBad f o)) { regs := f.ga :: ((if f.sclA then [f.gsa] else []) ++
      if f.mode == 0 then outRegs o else []) } s fun _ s =>
    let k := s.core h.core
    let a := f.fmtA.toNat
    let m := f.m1.toNat + 1
    let ring := f.ring.toNat
    let steps := if ring = 0 then m + 127 else 2 ^ ring
    let base := (k.rd f.ga).toNat
    let sbase := if f.sclA then (k.rd f.gsa).toNat else 0
    let out := if f.mode == 0 then outRead o k else {}
    let rc := regionCause ((base, steps * stepBytes a, 128) ::
      (if f.sclA then [(sbase, 16 * steps, 128)] else []))
    let oc := if f.mode == 0 then out.cause m else none
    orLost s (if rc == some 0x07 || oc == some 0x07 then some 0x07
        else if !pairs a k.mx.fmtNow then some 0x02 else rc.orElse fun _ => oc)
      (mxDispatch h.core (.stream k.mx.active a f.sclA (blkOf f.blkA.toNat) base
        sbase ring f.mode.toNat f.acc.toNat m out 0 none []) s))

/-- Element `k` of the row whose steps stand in `buf` from its first step on (R68). -/
def bufElem (fmt : Nat) (buf : List (List Byte × List Byte)) (k : Nat) : FVal :=
  let w := fmtWidth fmt
  let d := (buf.getD (rOf fmt k) ([], [])).1
  valueOf fmt (leNat ((d.drop (w * k / 8)).take 3) / 2 ^ (w * k % 8) % 2 ^ w)
/-- The scale byte of the block of element `k` of that row; 0x7F when unscaled (R70). -/
def bufScale (fmt : Nat) (scl : Bool) (blk : Nat) (buf : List (List Byte × List Byte)) (k : Nat) : Nat :=
  if scl then ((buf.getD (rOf fmt (k / blk * blk)) ([], [])).2.getD (k / blk) 0).toNat else 0x7F
/-- Element (k, n) of a bank. -/
def Bank.value (b : Bank) (k n : Nat) : FVal := valueOf b.fmt (Tab.get 0 b.elem (64 * k + n)).toNat
/-- The scale byte of element (k, n) of a bank; 0x7F when unscaled. -/
def Bank.scaleOf (b : Bank) (k n : Nat) : Nat :=
  if b.scl then (Tab.get 0 b.scale (16 * n + k / b.blk)).toNat else 0x7F

/-- Segment length: 1 in the 16-bit class, 32 when neither operand is scaled, otherwise the
least of 32 and the block sizes of the scaled operands (R72, R73). -/
def segLen (fmt : Nat) (scl : Bool) (blk : Nat) (b : Bank) : Nat :=
  if grpOf fmt = 16 then 1
  else min 32 (min (if scl then blk else 32) (if b.scl then b.blk else 32))

/-- The sum of products of a segment, exactly, under its scales (R72, R75). -/
def segSum (ps : List (FVal × FVal)) (sa sw : Nat) : FVal :=
  match scaleExp sa, scaleExp sw with
  | some a, some w => (ps.foldl (fun (t : FVal) p => t.add (p.1.mul p.2)) (.fin true 0 0)).scale (a + w)
  | _, _ => .nan

/-- Segments added in order into an ACC60 value, each with one rounding; whether one
overflowed (R72–R74). -/
def accumulate (start : FVal) (segs : List FVal) : FVal × Bool :=
  segs.foldl (fun a x => let r := acc60 (a.1.add x); (r.1, a.2 || r.2)) (start, false)

/-- The result of one row and column n, with its flags: NV when a NaN arises from operands
none of which is NaN (R72–R75, R81). -/
def colResult (fmt : Nat) (scl : Bool) (blk : Nat) (buf : List (List Byte × List Byte)) (b : Bank)
    (start : FVal) (n : Nat) : FVal × Nat :=
  let sl := segLen fmt scl blk b
  let term (k : Nat) : FVal × FVal := (bufElem fmt buf k, b.value k n)
  let seg (i : Nat) : List Nat := (List.range sl).map fun j => i * sl + j
  let is := List.range (kOf fmt / sl)
  let r := accumulate start (is.map fun i =>
    segSum ((seg i).map term) (bufScale fmt scl blk buf (i * sl)) (b.scaleOf (i * sl) n))
  let dirty := start.isNan || (List.range (kOf fmt)).any fun k =>
    (term k).1.isNan || (term k).2.isNan || bufScale fmt scl blk buf k == 0xFF || b.scaleOf k n == 0xFF
  (r.1, (if r.1.isNan && !dirty then fNV else 0) ||| if r.2 then fOF else 0)

/-- Ring quarters that are wholly read after `n` of `total` steps; the end of the stream ends
its last quarter (R71). -/
def quartersRead (ring total n : Nat) : Nat :=
  let q := 2 ^ (ring - 2)
  if n = total then ceilDiv total q else n / q

/-- Steps `lo` to `hi − 1` of a stream with their scale records (R68, R70, R71). -/
def readSteps (st : Tab Byte) (fmt : Nat) (scl : Bool) (base sbase ring lo hi : Nat) :
    List (List Byte × List Byte) :=
  (List.range (hi - lo)).map fun i =>
    let p := stepPos ring (lo + i)
    (bytesAt st (base + p * stepBytes fmt) (stepBytes fmt),
      if scl then bytesAt st (sbase + 16 * p) 16 else [])

/-- The core after row `row` of a stream has left the array (R72–R82). -/
def Core.streamRow (js : W64) (num : Nat) (bank : Bool) (fmt : Nat) (scl : Bool)
    (blk base sbase ring mode acc m : Nat) (out : OutF) (row : Nat) (u0 : BitVec 32)
    (buf : List (List Byte × List Byte)) (k : Core) : Core :=
  let lo := row + buf.length
  let buf := buf ++ readSteps k.store fmt scl base sbase ring lo (row + 128)
  let b := k.mx.bank bank
  let key (n : Nat) := 64 * (acc + row) + n
  let rs : List (FVal × Nat) := (List.range 64).map fun n =>
    colResult fmt scl blk buf b
      (if mode = 2 then accValue (Tab.get 0 k.mx.acc (key n)) else FVal.zero) n
  let use := if ring = 0 then k.mx.use
    else u0 + BitVec.ofNat 32 (quartersRead ring (m + 127) (row + 128))
  let ops := if row + 1 = m then k.mx.ops.filter fun o => o.1 != num
    else k.mx.ops.map fun o => if o.1 = num then
      (num, MxOp.stream bank fmt scl blk base sbase ring mode acc m out (row + 1) (some u0) (buf.drop 1))
      else o
  let k := { k with mx := { k.mx with ops := ops, use := use } }.raise
    (mxFlags (joinFlags (rs.map Prod.snd)))
  if mode = 0 then out.emit js row (rs.map (·.1)) k
  else { k with mx := { k.mx with
    acc := rs.zipIdx.foldl (fun t (p : (FVal × Nat) × Nat) => Tab.set 0 t (key p.2) (accBits p.1.1)) k.mx.acc } }

/-- What the steps from `lo` on to row `row` of a STREAM read in the stores; ring regions are ordered by the ring
counts alone (R71). -/
def stepReads (fmt : Nat) (scl : Bool) (base sbase ring row lo : Nat) : List (Nat × Nat) :=
  if ring ≠ 0 then [] else (base + lo * stepBytes fmt, (row + 128 - lo) * stepBytes fmt) ::
    (if scl then [(sbase + 16 * lo, 16 * (row + 128 - lo))] else [])
/-- The next row of the first STREAM of a core, when no ACCOUT stands before it (R85), its bank is loaded (R66), its
ring holds the quarters it reads (R71) and no earlier work conflicts with what it reads and writes (R84). Waits on
the bank, the ring and the output are counted once at each attempt (R87; DESIGN CHOICE, log 41). -/
def State.streamRow (s : State) (n c : Nat) : State :=
  let k := s.core n
  match k.mx.ops.find? fun o => o.2.isRows with
  | some (num, .stream bank fmt scl blk base sbase ring mode acc m out row use0 buf) =>
      let lo := row + buf.length
      let u0 := use0.getD k.mx.use
      let reads := stepReads fmt scl base sbase ring row lo
      let writes := if mode = 0 then out.regions row 1 else []
      if k.mx.ops.any fun o => o.1 < num && o.2.loads bank then s.bumpCore n 12 1
      else if ring ≠ 0 && (k.mx.fill - u0).toNat < (row + 127) / 2 ^ (ring - 2) + 1 then
        s.bumpCore n 14 1
      else if s.locked n num { r := reads } then s
      else if s.locked n num { w := writes } then s.bumpCore n 15 1
      else (s.bumpCore n 10 1).updCore n
        (Core.streamRow (s.jseed c) num bank fmt scl blk base sbase ring mode acc m out row u0 buf)
  | _ => s

/-! ### ACCOUT (R77, R85) -/

/-- ACCOUT's encoding is illegal (R88). -/
def accoutBad (e0 j1 : BitVec 8) (o : OutW) : Bool := outBad o || 256 < e0.toNat + (j1.toNat + 1)
/-- The rows of ACCOUT from row `r` on. -/
def accRows (o : OutF) (js : W64) (e0 : Nat) : Nat → Nat → Core → Core
  | _, 0, k => k
  | r, j + 1, k =>
      accRows o js e0 (r + 1) j (o.emit js r ((List.range 64).map fun n =>
        accValue (Tab.get 0 k.mx.acc (64 * (e0 + r) + n))) k)

/-! ### CSADV (`04` R102, `06` R149) -/

/-- A table advanced entry by entry. -/
def csTable (h : Nat) (b : List Byte) : List Byte :=
  (List.range (b.length / 4)).flatMap fun i =>
    leBytes 4 (csAdvance h (BitVec.ofNat 32 (leAt b (4 * i) 4))).toNat
/-- The cause of CSADV by its registers: a count above 32 bits, a range of the stores, a misaligned base. Where several
fail, they are taken in the order count, 0x07, 0x02: the manual does not order them (DESIGN CHOICE, log 50). -/
def csCause (loc : Bool) (base n : Nat) : Option Nat :=
  if 2 ^ 32 ≤ n then some 0x02
  else if loc && n ≠ 0 && localEnd < base + 4 * n then some 0x07
  else if base % 4 ≠ 0 || (loc && n ≠ 0 && tileEnd < base + 4 * n) then some 0x02
  else none
/-- A table advanced in the stores, or in context memory, where the writes of a speculative task are held as its
other stores are (`02` R43, R44; DEDUCED, log 51). -/
def State.advanceTable (s : State) (n c num : Nat) (loc : Bool) (base cnt h : Nat) (task : Option Nat) : Res Unit :=
  if loc then .ok (s.updCore n fun k => k.put base (csTable h (k.bytes base (4 * cnt)))) ()
  else if cnt ≠ 0 && s.lineLocked n num { w := [(base, 4 * cnt)] } then .wait s
  else (s.locateAll n c .read (piecesOf base (4 * cnt))).bind fun s l =>
    (s.readsHeld n task l).bind fun s b =>
      (s.locateAll n c .write (piecesOf base (4 * cnt))).bind fun s l =>
        s.writesHeld n task l (csTable h b)
/-- The SWAPs of a queue that stand at a row boundary leave it: no row of an earlier STREAM is left (R66). -/
def swapsDone : List (Nat × MxOp) → List (Nat × MxOp)
  | [] => []
  | o :: l => match o.2 with
    | .swap => swapsDone l
    | .stream _ _ _ _ _ _ _ _ _ _ _ _ _ _ => o :: l
    | _ => o :: swapsDone l
/-- A core whose array has come to a row boundary. -/
def Core.atBoundary (k : Core) : Core := { k with mx := { k.mx with ops := swapsDone k.mx.ops } }
/-- The first matrix instruction of a core, when it is an ACCOUT or a CSADV, is performed whole once no earlier work
conflicts with it (`02` R31, R36). -/
def State.mxFirst (s : State) (n c : Nat) : State :=
  match (s.core n).mx.ops with
  | (num, o) :: _ =>
      if s.locked n num o.ext then s
      else
        let pop (s : State) : State := s.updCore n fun k => { k with mx := { k.mx with ops := k.mx.ops.drop 1 } }
        match o with
        | .accout e0 j out => (pop s).updCore n (accRows out (s.jseed c) e0 0 j)
        | .csadv loc base cnt h task pc => match s.advanceTable n c num loc base cnt h task with
          | .ok s _ => (pop s).flushRel n
          | .lost s x => (pop s).lose c x (some n) pc
          | .wait s' => s.countStalls s' n n
        | _ => s
  | [] => s
/-- The matrix queue of a core goes on: SWAPs at a row boundary are finished, and an ACCOUT or a CSADV that is the first
is performed. -/
def State.mxStep (s : State) (n c : Nat) : State := (s.updCore n Core.atBoundary).mxFirst n c
/-- A matrix instruction dispatched that is performed at once when it is the first. -/
def mxBegin (n c : Nat) (o : MxOp) (s : State) : Res (Option W48) :=
  (mxDispatch n o s).bind fun s t => .ok (s.mxStep n c) t
/-- SWAP (R66): STREAMs dispatched before it keep the bank they name; it takes its place in the matrix queue (`06`
R155). -/
def execSwap (h : Issue) (s : State) : Out :=
  .next (issue h 1 false none {} s fun c s =>
    mxBegin h.core c .swap s |>.bind fun s t =>
      .ok (s.updCore h.core fun k => { k with mx := { k.mx with active := !k.mx.active } }) t)
/-- ACCOUT (R77): it is performed in dispatch order, once every earlier matrix instruction has finished, which
meets the per-entry order of R85. -/
def execAccout (h : Issue) (e0 j1 : BitVec 8) (o : OutW) (s : State) : Out :=
  .next (issue h 2 false (ill (accoutBad e0 j1 o)) { regs := outRegs o } s fun c s =>
    let j := j1.toNat + 1
    let out := outRead o (s.core h.core)
    orLost s (out.cause j) (mxBegin h.core c (.accout e0.toNat j out) s))
/-- CSADV (`06` R149): a count of 0 completes without effect. -/
def execCsadv (h : Issue) (f : CsAdv) (s : State) : Out :=
  .next (issue h 1 false (ill (f.h == 0)) { regs := [f.gt, f.gn] } s fun c s =>
    let k := s.core h.core
    let base := (k.rd f.gt).toNat
    let n := (k.rd f.gn).toNat
    orLost s (csCause f.loc base n) (mxBegin h.core c (.csadv f.loc base n f.h.toNat k.taskNow k.pc) s))

end Sys2Proof.Machine
end

