-- ==== Sys2Proof/Machine/Stream.lean ====
section
/-! DEFINITION. DMA descriptors, ring counts, layer windows and run-ahead (`06` R150, R151,
`08` R190–R206). -/

namespace Sys2Proof.Machine

/-! ### Descriptors (R190–R192) -/

/-- A descriptor that R190–R192 call illegal, ranges apart. -/
def Desc.bad (d : Desc) : Bool :=
  4 < d.kind || !d.clean ||
    (if d.kind = 2 || d.kind = 3 then
      (1 ≤ d.ring && d.ring ≤ 7) || !isArray d.fmt || !d.dloc || d.dst.toNat % 128 ≠ 0 ||
        d.src.toNat % 16 ≠ 0 || d.sstride.toNat % 16 ≠ 0 || kOf d.fmt < d.k0 + d.kn ||
        (d.kind = 3 && (grpOf d.fmt = 16 || d.k0 % d.blk ≠ 0 || d.kn % d.blk ≠ 0))
    else
      d.dst.toNat % 16 ≠ 0 || d.len % 16 ≠ 0 || (d.kind ≠ 4 && d.src.toNat % 16 ≠ 0) ||
        (d.kind = 1 && (d.sstride.toNat % 16 ≠ 0 || d.dstride.toNat % 16 ≠ 0)))
/-- Local ranges that a descriptor writes, rings included. -/
def Desc.local_ (d : Desc) : List (Nat × Nat) :=
  if !d.dloc then []
  else if d.kind = 2 || d.kind = 3 then [d.skewRange]
  else (List.range d.rowCount).map fun r => (d.dstAt r, d.len)
/-- The cause of a descriptor by its fields and local ranges (R192). -/
def Desc.cause (d : Desc) : Option Nat :=
  if d.bad then some 0x02
  else if (d.reads ++ d.local_).any fun r => r.2 != 0 && localEnd < r.1 + r.2 then some 0x07
  else if (d.kind = 2 || d.kind = 3) && tileEnd < d.skewRange.1 + d.skewRange.2 then some 0x02
  else none

/-- Who moves bytes: the initiator, the core whose stores are local, the context, and for a DMA
engine the task under which its effects are held. -/
structure Actor where
  /-- Initiator ID. -/
  init : Nat
  /-- Core. -/
  core : Nat
  /-- Context. -/
  ctx : Nat
  /-- A window fill, whose effects no task holds (R199). -/
  fill : Bool
  /-- Task. -/
  task : Option Nat
  /-- Stream of the window that is filled, for its counters (R206). -/
  stream : Nat := 0
  /-- Bytes of a run-ahead entry that serve the reads of a fill (R204). -/
  ahead : Tab (Option Byte)

/-- Bytes of device memory as a fill reads them, over its run-ahead entry: those of the SRAM alias are read again, since a
core of the C-die may have written them since the fetch (R204). -/
def State.readAhead (s : State) (t : Tab (Option Byte)) (da n : Nat) : List Byte :=
  match s.space da with
  | .sram _ _ => s.readDa da n
  | _ => (s.readDa da n).zipIdx.map fun p => (Tab.get none t (da + p.2)).getD p.1
/-- Tier of a source: 0 D, 1 L, 2 H, 3 P; none for the SRAM alias. -/
def State.tierOf (s : State) (da : Nat) : Option Nat :=
  match s.space da with
  | .d _ => some 0
  | .l _ => some 1
  | .h => some 2
  | .p => some 3
  | _ => none
/-- Fill bytes counted by their source tier (R206). -/
def State.countFill (s : State) (c stream : Nat) (l : List (Nat × Nat)) : State :=
  l.foldl (fun s p => match s.tierOf p.1 with
    | some t => s.bumpCtx (2 + t) c stream p.2
    | none => s) s
/-- A read of a mover. -/
def Actor.read (a : Actor) (s : State) (loc : Bool) (at_ n : Nat) : Res (List Byte) :=
  if loc then .ok s ((s.core a.core).bytes at_ n)
  else (s.locateAll a.init a.ctx .read (piecesOf at_ n)).bind fun s l =>
    if a.fill then .ok s (l.flatMap fun p => s.readAhead a.ahead p.1 p.2)
    else s.readsHeld a.core a.task l
/-- A read of the data that a mover moves: the bytes of a fill are counted. -/
def Actor.load (a : Actor) (s : State) (loc : Bool) (at_ n : Nat) : Res (List Byte) :=
  if loc || !a.fill then a.read s loc at_ n
  else (s.locateAll a.init a.ctx .read (piecesOf at_ n)).bind fun s l =>
    .ok (s.countFill a.ctx a.stream l) (l.flatMap fun p => s.readAhead a.ahead p.1 p.2)
/-- A write of a mover. -/
def Actor.write (a : Actor) (s : State) (loc : Bool) (at_ : Nat) (b : List Byte) : Res Unit :=
  if loc then .ok (s.updCore a.core fun k => k.put at_ b) ()
  else (s.locateAll a.init a.ctx .write (piecesOf at_ b.length)).bind fun s l =>
    if a.fill then .ok (s.writePieces l b) () else s.writesHeld a.core a.task l b

/-- The elements or scales of one source row placed in skew layout, where `p` admits their step
(R191). -/
def Desc.place (d : Desc) (p : Nat → Bool) (r : Nat) (row : List Byte) (st : Tab Byte) : Tab Byte :=
  let m := d.m0 + r
  if d.kind = 2 then
    (elems (fmtWidth d.fmt) row).take d.kn |>.zipIdx.foldl (fun t e =>
      let k := d.k0 + e.2
      if p (m + rOf d.fmt k) then
        putBits t (skewBit d.fmt d.ring d.dst.toNat m k) (fmtWidth d.fmt) e.1 else t) st
  else
    row.zipIdx.foldl (fun t e =>
      let k := d.k0 + e.2 * d.blk
      if p (m + rOf d.fmt k) then Tab.set 0 t (skewScale d.fmt d.ring d.dst.toNat d.blk m k) e.1 else t) st

/-- The pattern of FILL repeated (R190). -/
def Desc.pattern (d : Desc) : List Byte :=
  (List.range d.len).map fun i => BitVec.ofNat 8 (d.src.toNat / 2 ^ (8 * (i % 8)))

/-- Rows of a descriptor from `r` on, one by one (R190). -/
def Desc.rowsFrom (d : Desc) (a : Actor) : Nat → Nat → State → Res Unit
  | _, 0, s => .ok s ()
  | r, n + 1, s =>
      ((if d.kind = 4 then Res.ok s d.pattern else a.load s d.sloc (d.srcAt r) d.rowBytes).bind fun s b =>
        if d.kind = 2 || d.kind = 3 then
          Res.ok (s.updCore a.core fun k => { k with store := d.place (fun _ => true) r b k.store }) ()
        else a.write s d.dloc (d.dstAt r) b).bind fun s _ => d.rowsFrom a (r + 1) n s
/-- A descriptor runs. -/
def Desc.run (d : Desc) (a : Actor) (s : State) : Res Unit := d.rowsFrom a 0 d.rowCount s
/-- Bytes that a descriptor moves. -/
def Desc.moved (d : Desc) : Nat := d.rowCount * d.rowBytes

/-- A descriptor is read at its address: misaligned cause 0x02, a local range beyond the stores
0x07 (R190, `02` R35). A DMA.COPY needs none. -/
def Actor.desc (a : Actor) (s : State) : DescRef → Res Desc
  | .copy dst src len dl sl => .ok s (copyDesc dst src len dl sl)
  | .at_ p loc =>
      if p.toNat % 64 ≠ 0 then .lost s 0x02
      else if loc && localEnd < p.toNat + 64 then .lost s 0x07
      else (a.read s loc p.toNat 64).bind fun s b => .ok s (descOf b)

/-! ### DMA engines (`06` R150) -/

/-- Chains of engine `e` of a cluster. -/
def State.chains (s : State) (cl e : Nat) : List Chain := Tab.get [] (s.cluster cl).dma e
/-- The chains of an engine changed. -/
def State.updChains (s : State) (cl e : Nat) (f : List Chain → List Chain) : State :=
  s.updCluster cl fun k => { k with dma := Tab.upd [] k.dma e f }
/-- Initiator ID of a DMA engine (`07` R169). -/
def dmaInit (cl e : Nat) : Nat := 512 + 3 * cl + e
/-- The first engine that accepts a chain: one with the fewest chains (DESIGN CHOICE, log 15). -/
def State.engine (s : State) (cl : Nat) : Nat :=
  let l (e : Nat) := (s.chains cl e).length
  if l 0 ≤ l 1 ∧ l 0 ≤ l 2 then 0 else if l 1 ≤ l 2 then 1 else 2

/-- A chain accepted by an engine (`06` R150): it keeps the dispatch number and the task of its instruction. -/
def acceptChain (e : State → Nat → Nat) (fence : Core → Option (Nat × W64)) : Perform := fun n c d s =>
  let r := (s.core n).asDispatched d
  .ok (s.updChains (n / 8) (e s (n / 8)) fun l => l ++ [{
    core := n, num := d.num, ctx := c, cur := d.cur, fence := fence r, task := d.task }]) ()
/-- The engine that a DMA.DESC names; 3 is the first that accepts (`06` R150). -/
def engineOf (eng : BitVec 2) (s : State) (cl : Nat) : Nat := if eng = 3 then s.engine cl else eng.toNat
/-- DMA.DESC performed. -/
def dmaDescRun (f : DmaF) : Perform :=
  acceptChain (engineOf f.eng) fun r => if f.fen then some (f.fid.toNat, r.rd f.gv) else none
/-- DMA.DESC (`06` R150): the address, its range and the fence are checked here. -/
def execDmaDesc (h : Issue) (f : DmaF) (s : State) : Out :=
  .next (issue h 2 false (ill (!f.fen && (f.fid != 0 || f.gv != 0)))
    { regs := f.gd :: if f.fen then [f.gv] else [] } s fun c s =>
    let a := (s.core h.core).rd f.gd
    if a.toNat % 64 ≠ 0 then .lost s 0x02
    else if f.loc && localEnd < a.toNat + 64 then .lost s 0x07
    else if f.fen && !s.maySignal c f.fid.toNat then .lost s 0x06
    else dispatch 3 (.dmaDesc h f) { cur := some (.at_ a f.loc) } (dmaDescRun f) h.core c s)

/-- The next descriptor of an engine's first chain: its address, what it moves, and the chain
that follows; a fault or an illegal descriptor is raised by no core (`02` R58; DEDUCED, log 15). The accesses of one
core to a 64 B line stay in program order (`02` R43). A DMA.COPY is no descriptor, and is not counted as one. -/
def State.runDesc (s : State) (cl e : Nat) : State :=
  match s.chains cl e with
  | [] => s
  | ch :: rest =>
      match ch.cur with
      | none => s
      | some p =>
          let act : Actor := { init := dmaInit cl e, core := ch.core, ctx := ch.ctx, fill := false
                               task := ch.task, ahead := [] }
          let r : Res Unit :=
            if s.locked ch.core ch.num { r := p.place true } || s.lineLocked ch.core ch.num { r := p.place false } then
              .wait s
            else (act.desc s p).bind fun s d =>
              match d.cause with
              | some c => .lost s c
              | none =>
                  if s.locked ch.core ch.num { r := d.reads, w := d.writes } ||
                      s.lineLocked ch.core ch.num { r := d.sources, w := d.remote } then .wait s
                  else (d.run act s).bind fun s _ =>
                    let s := s.bump (regCclu cl) (4 + 2 * e) d.moved
                    let s := match p with
                      | .at_ _ _ => s.bump (regCclu cl) (5 + 2 * e) 1
                      | .copy _ _ _ _ _ => s
                    .ok (s.updChains cl e fun _ => { ch with cur := d.after } :: rest) ()
          match r with
          | .ok s _ => s
          | .lost s cause => s.lose ch.ctx cause
          | .wait s' => s.countStalls s' ch.core act.init

/-- A signal of a task's work that waits for the chains dispatched before number `num`: released,
held or dropped (`02` R44, R48, R53); none when the queue of 64 held signals is full. -/
def State.signalHeld (s : State) (n : Nat) (task : Option Nat) (fid : Nat) (v : W64) (num : Nat) :
    Option State :=
  let k := s.core n
  match k.holdOf task with
  | .through => some ((s.updCore n fun k =>
      { k with rel := k.rel ++ [{ fid := fid, val := v, task := task, after := num }] }).flushRel n)
  | .dropped => some s
  | .held t =>
      if 64 ≤ k.held.length then none
      else some (s.updCore n fun k =>
        { k with held := k.held ++ [{ fid := fid, val := v, task := t, after := num }] })

/-- The first chain of an engine is complete (`06` R150). -/
def State.chainDone (s : State) (cl e : Nat) : State :=
  match s.chains cl e with
  | [] => s
  | ch :: rest =>
      if ch.cur.isSome then s
      else
        let done (s : State) : State := (s.updChains cl e fun _ => rest).flushRel ch.core
        match ch.fence with
        | none => done s
        | some (fid, v) => match s.signalHeld ch.core ch.task fid v 0 with
          | some s => done s
          | none => s.padFull ch.core ch.task

/-- DMA.COPY's cause by its registers (`06` R150). A local address that is both misaligned and past 0x47_FFFF takes
cause 0x02: the manual does not order the two for DMA (DESIGN CHOICE, log 50). -/
def copyCause (f : DmaCopyF) (dst src len : Nat) : Option Nat :=
  if dst % 64 ≠ 0 || src % 64 ≠ 0 || len % 64 ≠ 0 then some 0x02
  else if len ≠ 0 && ((f.dl && localEnd < dst + len) || (f.sl && localEnd < src + len)) then some 0x07
  else none
/-- DMA.COPY performed: a chain of one copy on the first engine that accepts it. -/
def dmaCopyRun : Perform := acceptChain State.engine fun _ => none
/-- DMA.COPY (`06` R150): a length of 0 completes without effect; a fault is raised by no core. -/
def execDmaCopy (h : Issue) (f : DmaCopyF) (s : State) : Out :=
  .next (issue h 1 false none { regs := [f.gdst, f.gsrc, f.glen] } s fun c s =>
    let k := s.core h.core
    let dst := k.rd f.gdst
    let src := k.rd f.gsrc
    let len := k.rd f.glen
    orLost s (copyCause f dst.toNat src.toNat len.toNat) (
      if len = 0 then .ok s none
      else dispatch 3 (.dmaCopy h f) { cur := some (.copy dst src len f.dl f.sl) } dmaCopyRun h.core c s))

/-! ### Ring counts (`06` R151) -/

/-- A range of context memory reaches the tile store of core `n` through the SRAM alias (`02` R34). -/
def State.aliasTile (s : State) (n c : Nat) (r : Nat × Nat) : Bool :=
  (piecesOf r.1 r.2).any fun p => match (s.walk none n c p.1).1 with
    | .page e => s.space (e.at p.1) == .sram n ((e.at p.1) % 0x800000) && (e.at p.1) % 0x800000 < tileEnd
    | _ => false
/-- A chain still writes the tile store of its core: its descriptors cannot be read, or some row of those left does, at a
local offset or through the SRAM alias. -/
def State.chainTile (s : State) (c ctx : Nat) (cur : Option DescRef) : Bool :=
  match s.chainDescs c ctx 64 cur with
  | none => true
  | some l => l.any fun x =>
      x.2.local_.any (fun r => r.2 != 0 && r.1 < tileEnd) || x.2.remote.any (s.aliasTile c ctx)
/-- The core has a live R window. -/
def Core.ringWin (k : Core) : Bool := k.wins.any fun w => w.kind == 2
/-- RING.ADV performed: a live R window makes it illegal, and it waits for the DMA writes of the core into the tile
store that were dispatched before it. -/
def ringAdvRun (q : BitVec 8) : Perform := fun n _ d s =>
  if (s.core n).ringWin then .lost s 0x02
  else if (s.chainsOf n d.num).any fun ch => s.chainTile n ch.1 ch.2 then .wait s
  else .ok (s.updCore n fun k => { k with mx := { k.mx with fill := k.mx.fill + q.setWidth 32 } }) ()
/-- RING.ADV (`06` R151, `08` R202). -/
def execRingAdv (h : Issue) (q : BitVec 8) (s : State) : Out :=
  .next (issue h 1 false (ill (q == 0)) {} s fun c s => dispatch 3 (.ringAdv h q) {} (ringAdvRun q) h.core c s)
/-- An unfinished ring-mode STREAM. -/
def MxOp.rings : MxOp → Bool
  | .stream _ _ _ _ _ _ ring _ _ _ _ _ _ _ => ring != 0
  | _ => false
/-- RING.RST performed: it waits until the core has no live R window and no ring-mode STREAM dispatched and unfinished. -/
def ringRstRun : Perform := fun n _ _ s =>
  let k := s.core n
  if k.ringWin || k.mx.ops.any fun o => o.2.rings then .wait s
  else .ok (s.updCore n fun k => { k with mx := { k.mx with fill := 0, use := 0 } }) ()
/-- RING.RST (`06` R151, `08` R202); it leaves Q unused. -/
def execRingRst (h : Issue) (q : BitVec 8) (s : State) : Out :=
  .next (issue h 1 false (ill (q != 0)) {} s fun c s => dispatch 3 (.ringRst h q) {} ringRstRun h.core c s)

/-! ### Layer windows (R197–R203) -/

/-- A window from its descriptor of 64 B (R197). -/
def windowOf (off : Nat) (b : List Byte) (now : W64) : Window :=
  let w := wordAt b
  { off := off, kind := fld (w 0) 63 62, pri := fld (w 0) 61 59, wv := bit (w 0) 58, cloc := bit (w 0) 57
    ra := bit (w 0) 56, ring := fld (w 0) 55 52, layer := fld (w 0) 47 32, afid := fld (w 0) 31 16
    wfid := fld (w 0) 15 0, aval := w 1, wval := w 2, chain := w 3, base := (w 4).toNat
    size := fld (w 5) 39 0, nextw := (w 6).toNat, sbase := fld (w 7) 41 20, scl := bit (w 7) 19
    stream := fld (w 7) 5 0, resv := now }
/-- Reserved bits of a window descriptor are zero. -/
def windowClean (b : List Byte) : Bool :=
  let w := wordAt b
  fld (w 0) 51 48 == 0 && fld (w 5) 63 40 == 0 && fld (w 7) 63 42 == 0 && fld (w 7) 18 6 == 0
/-- The regions of a window: context memory for a D window, the stores otherwise. -/
def Window.regions (w : Window) : List (Nat × Nat) :=
  (w.base, w.size) :: if w.kind = 2 && w.scl then [(w.sbase, 16 * 2 ^ w.ring)] else []
/-- The cause of an illegal window field (R198, `02` R35). -/
def Window.cause (w : Window) : Option Nat :=
  let n := 2 ^ w.ring
  if w.kind = 3 || (if w.kind = 2 then w.ring < 8 else w.ring ≠ 0) then some 0x02
  else if w.kind = 0 then (if w.base % 64 ≠ 0 then some 0x02 else none)
  else if w.base % 128 ≠ 0 || (w.kind = 1 && w.size % 128 ≠ 0) ||
      (w.kind = 2 && w.size ≠ n * 128 && w.size ≠ n * 192) ||
      (w.kind = 2 && w.scl && w.sbase % 128 ≠ 0) then some 0x02
  else tileCause w.regions
/-- Two ranges overlap. -/
def overlap (a b : Nat × Nat) : Bool := a.1 < b.1 + b.2 && b.1 < a.1 + a.2
/-- Two windows of the same space conflict (R198). -/
def Window.conflicts (a b : Window) : Bool :=
  !(a.kind = 2 && b.kind = 2) && a.regions.any fun x => b.regions.any fun y => overlap x y

/-- The cores of a C-die. -/
def dieCores (d : Nat) : List Nat := (List.range 64).map fun i => 64 * d + i
/-- Live D windows of a C-die: context and window. -/
def State.dWins (s : State) (d : Nat) : List (Nat × Window) :=
  (dieCores d).flatMap fun n => match s.coreCtx n with
    | none => []
    | some c => ((s.core n).wins.filter fun w => w.kind == 0).map fun w => (c, w)
/-- The live windows that a new one is compared with (R198). -/
def State.rivals (s : State) (n c : Nat) (w : Window) : List Window :=
  if w.kind = 0 then ((s.dWins (n / 64)).filter fun x => x.1 == c).map (·.2)
  else (s.core n).wins.filter fun x => x.kind != 0
/-- What becomes of a reservation: some cause, a wait, or it is taken (R198). -/
inductive Admit | take | wait | lost
  deriving DecidableEq, Repr
/-- The outcome of R198 for a legal window. -/
def State.admitWin (s : State) (n c : Nat) (w : Window) : Admit :=
  let hits := (s.rivals n c w).filter fun x => x.conflicts w
  let own := (s.core n).wins
  let die := (s.dWins (n / 64)).map (·.2)
  let full := (if 16 ≤ own.length then own else []) ++ if w.kind = 0 && 256 ≤ die.length then die else []
  if hits.any fun x => !x.rel then .lost
  else if !hits.isEmpty then .wait
  else if full.isEmpty then .take
  else if full.any fun x => x.rel then .wait else .lost

/-- The descriptor offset of WIN.RESV and WIN.REL must lie in the tile store (R197). -/
def winOffset (s : State) (n : Nat) (gw : BitVec 5) : Nat × Option Nat :=
  let a := ((s.core n).rd gw).toNat
  (a, tileCause [(a, 64)])
/-- The cores of a C-die at their dispatch numbers, in core order (R203). -/
def State.dieAt (s : State) (d : Nat) : List Nat := (dieCores d).map fun n => (s.core n).disp
/-- A reservation that waits on a release is counted once, with the wrap bit of the core's block (R206). -/
def State.resvWait (s : State) (n num : Nat) : State :=
  if (s.core n).resvLast = some num then s
  else
    let t := s.updCore n fun k => { k with resvWaits := k.resvWaits + 1, resvLast := some num }
    if (s.core n).resvWaits.toNat = 2 ^ 64 - 1 then t.setReg (regCore n) (s.reg (regCore n) ||| 1) else t
/-- WIN.RESV performed (R198): it reads the descriptor and checks its fields. A reservation that waits on a release
is counted once (R206). -/
def winResvRun (gw : BitVec 5) : Perform := fun n c d s =>
  let a := (((s.core n).asDispatched d).rd gw).toNat
  let b := (s.core n).bytes a 64
  let w := { windowOf a b s.now with num := d.num }
  if !windowClean b then .lost s 0x02
  else match w.cause with
    | some x => .lost s x
    | none =>
        if !s.owns c w.afid || (w.wv && !s.owns c w.wfid) then .lost s 0x06
        else match s.admitWin n c w with
        | .lost => .lost s 0x02
        | .wait => .wait (s.resvWait n d.num)
        | .take => .ok (s.updCore n fun k => { k with wins := k.wins ++ [w] }) ()
/-- WIN.RESV (R198): it waits on releases in the queue of its unit, and issue goes on. -/
def execWinResv (h : Issue) (gw : BitVec 5) (s : State) : Out :=
  .next (issue h 1 false none { regs := [gw] } s fun c s =>
    let (a, bad) := winOffset s h.core gw
    orLost s bad (dispatch 3 (.winResv h gw) { ext := { r := [(a, 64)] } } (winResvRun gw) h.core c s))
/-- The oldest live window reserved from an offset and not yet released (R203). -/
def Core.winFrom (k : Core) (off : Nat) : Option Nat := k.wins.findIdx? fun w => w.off == off && !w.rel
/-- Window `i` of a core changed. -/
def Core.updWin (k : Core) (i : Nat) (f : Window → Window) : Core := { k with wins := k.wins.modify i f }
/-- WIN.REL performed: a fill that has not arrived is cancelled, and what its C-die's streaming engine had refused for its
context waits no more. -/
def winRelRun (gw : BitVec 5) : Perform := fun n c d s =>
  let a := (((s.core n).asDispatched d).rd gw).toNat
  match (s.core n).winFrom a with
  | none => .lost s 0x02
  | some i => .ok ((s.dropOwn fun r => r.init == 739 + n / 64 && r.acts == c).updCore n fun k => k.updWin i fun w =>
      { w with rel := true, relNum := d.num, cur := none, relReq := s.reqNum
               relAt := if w.kind = 0 then s.dieAt (n / 64) else [] }) ()
/-- WIN.REL (R203). -/
def execWinRel (h : Issue) (gw : BitVec 5) (s : State) : Out :=
  .next (issue h 1 false none { regs := [gw] } s fun c s =>
    let (_, bad) := winOffset s h.core gw
    orLost s bad (dispatch 3 (.winRel h gw) {} (winRelRun gw) h.core c s))

/-- A window's fill still reads a range of context memory: what it has yet to gather, what is left of its chain, or
all of its chain when it has not begun. -/
def State.fillReads (s : State) (n c : Nat) (w : Window) (r : Nat × Nat) : Bool :=
  let rest := if w.filling then w.cur else some (.at_ w.chain w.cloc)
  !w.rel && !w.arrived && ((s.chainMem n c rest).r.any (overlap r) ||
    (w.descs.map descOf).any fun d => d.sources.any (overlap r))
/-- A range of context memory has a byte in a range of device addresses. -/
def State.maps (s : State) (n c : Nat) (r : Nat × Nat) (da size : Nat) : Bool :=
  (piecesOf r.1 r.2).any fun p => match (s.walk none n c p.1).1 with
    | .page e => overlap (e.at p.1, p.2) (da, size)
    | _ => false
/-- Requests made before WIN.REL whose data or acknowledgements have not returned, as they stand in the issue queues and at
the controllers (R203). -/
def State.older (s : State) (w : Window) : List MemReq :=
  (s.retry.map (·.req) ++ s.dramQ ++ s.dramOut).filter fun r => r.num < w.relReq
/-- Loads, DMA and fills of a C-die that were queued when a D window's release was processed still read its range (R203). -/
def State.dieReads (s : State) (d c : Nat) (w : Window) : Bool :=
  ((s.older w).any fun r => !r.write && r.acts == c && tagDie r.init == some d &&
      s.maps (64 * d) c (w.base, w.size) r.da (max 1 r.len)) ||
  (dieCores d).any fun n =>
    let before := w.relAt.getD (n % 64) 0
    s.coreCtx n == some c &&
      (((s.core n).loads.any fun l => l.len != 0 && l.num < w.relReq && overlap (l.va, l.len) (w.base, w.size)) ||
        ((s.chainsOf n before).any fun ch => (s.chainMem n c ch.2).r.any (overlap (w.base, w.size))) ||
        (s.core n).wins.any fun x => x.num < before && s.fillReads n c x (w.base, w.size))
/-- Requests of a fill that was cancelled are still in flight: those of its streaming engine for its context (R203). -/
def State.fillFlies (s : State) (n c : Nat) (w : Window) : Bool :=
  !w.arrived && (s.older w).any fun r => r.init == 739 + n / 64 && r.acts == c
/-- Every reader of a window released has finished with it (R203). -/
def State.winFree (s : State) (n c : Nat) (w : Window) : Bool :=
  if s.fillFlies n c w then false
  else if w.kind = 0 then !s.dieReads (n / 64) c w
  else !s.locked n w.relNum { w := w.regions } &&
    !(w.kind == 2 && (s.core n).mx.ops.any fun o => o.1 < w.relNum && o.2.rings)
/-- A release whose readers have finished completes; a cancelled fill signals AFID with discard status (R203). -/
def State.winRelease (s : State) (n c i : Nat) : State :=
  match (s.core n).wins[i]? with
  | none => s
  | some w =>
      if !w.rel || !s.winFree n c w then s
      else
        let s := s.updCore n fun k => { k with wins := k.wins.eraseIdx i }
        if w.arrived then s else s.signal w.afid w.aval 1

/-- WINDOW_FILL_BEGIN (R199, R202). -/
def execWindowFillBegin (core : Fin 512) (i : Fin 16) (s : State) : Out :=
  .next (match s.works core, (s.core core).wins[i.val]? with
    | some _, some w =>
        let k := s.core core
        if w.filling || w.rel || (w.wv && !s.reached w.wfid w.wval) ||
            (w.kind == 2 && k.mx.fill != k.mx.use) then s
        else s.updCore core fun k => k.updWin i fun w =>
          { w with filling := true, cur := some (.at_ w.chain w.cloc) }
    | _, _ => s)

/-- Every address that a descriptor writes falls inside the window (R197). -/
def Window.holds (w : Window) (d : Desc) : Bool :=
  let inside (l : List (Nat × Nat)) : Bool :=
    l.all fun r => r.2 == 0 || w.regions.any fun x => x.1 ≤ r.1 && r.1 + r.2 ≤ x.1 + x.2
  if w.kind = 0 then !d.dloc && inside d.remote else d.dloc && inside d.local_
/-- The run-ahead entry that serves the first descriptor of a window's fill: fetched for the core, from the window's
own offset (R204). -/
def State.aheadOf (s : State) (n c : Nat) (w : Window) : Option (Nat × RunAhead) :=
  let l := Tab.get [] s.runAhead (n / 64)
  (l.findIdx? fun e => e.ctx == c && e.core == n && e.off == w.off).bind fun i => (l[i]?).map fun e => (i, e)
/-- A run-ahead entry dropped. -/
def State.dropAhead (s : State) (die i : Nat) : State :=
  { s with runAhead := Tab.upd [] s.runAhead die fun l => l.eraseIdx i }
/-- A fill begins to use a run-ahead entry: the bytes that it still holds are counted (R206). -/
def State.useAhead (s : State) (n c : Nat) (a : Option (Nat × RunAhead)) : State :=
  match a with
  | some (i, e) =>
      if e.used then s
      else { s.bumpCtx 9 c 0 e.data.length with
        runAhead := Tab.upd [] s.runAhead (n / 64) fun l => l.modify i fun e => { e with used := true } }
  | none => s
/-- The entry that a window's fill used is dropped, once the fill has ended. -/
def State.endAhead (s : State) (n c : Nat) (w : Window) : State :=
  match s.aheadOf n c w with
  | some (i, e) => if e.used then s.dropAhead (n / 64) i else s
  | none => s

/-- The streaming engine as it fills window `w` of core `n` for context `c`. -/
def fillActor (n c : Nat) (w : Window) (ahead : Option (Nat × RunAhead)) : Actor where
  init := 739 + n / 64
  core := n
  ctx := c
  fill := true
  task := none
  stream := w.stream
  ahead := match ahead with | some (_, e) => e.data | none => []

/-- The next descriptor of a window's fill (R199). Those of an R window are read first, and written quarter by
quarter (R202). -/
def State.runFill (s : State) (n c i : Nat) (w : Window) : State :=
  match w.cur with
  | none => s
  | some p =>
      let ahead := if p = .at_ w.chain w.cloc then s.aheadOf n c w else none
      let act := fillActor n c w ahead
      let next (s : State) (d : Desc) (b : Option (List Byte)) : State :=
        (s.useAhead n c ahead).updCore n fun k => k.updWin i fun w =>
          { w with cur := d.after, descs := w.descs ++ b.toList }
      let r : Res Unit :=
        (act.desc s p).bind fun s d =>
          match d.cause with
          | some x => .lost s x
          | none =>
              if !w.holds d then .lost s 0x02
              else if w.kind = 2 then
                match p with
                | .at_ a loc => (act.read s loc a.toNat 64).bind fun s b => .ok (next s d (some b)) ()
                | .copy _ _ _ _ _ => .ok s ()
              else if s.locked n w.num { r := d.reads, w := d.writes } then .wait s
              else (d.run act s).bind fun s _ =>
                let s := next s d none
                .ok (if p = .at_ w.chain w.cloc then s.endAhead n c w else s) ()
      match r with
      | .ok s _ => s
      | .lost s x => s.lose c x
      | .wait s' => s.countStalls s' n act.init

/-- The step of an R window at which a local offset lies: a data step, or a scale record (R202). -/
def Window.stepAt (w : Window) (a : Nat) : Nat :=
  if w.scl && w.sbase ≤ a && a < w.sbase + 16 * 2 ^ w.ring then (a - w.sbase) / 16
  else (a - w.base) / (w.size / 2 ^ w.ring)
/-- A descriptor counts its steps as the window's ring does. -/
def Window.ringed (w : Window) (d : Desc) : Bool := (d.kind = 2 || d.kind = 3) && d.ring == w.ring
/-- The local ranges that row `r` of a descriptor writes. -/
def Desc.rowRange (d : Desc) (r : Nat) : Nat × Nat :=
  if d.kind = 2 || d.kind = 3 then ({ d with m0 := d.m0 + r, rows := 1 } : Desc).skewRange else (d.dstAt r, d.len)
/-- The stores with row `r` of a descriptor written. -/
def Desc.putRow (d : Desc) (r : Nat) (b : List Byte) (st : Tab Byte) : Tab Byte :=
  if d.kind = 2 || d.kind = 3 then d.place (fun _ => true) r b st else putBytes st (d.dstAt r) b
/-- Bytes of a range taken from a table where `p` admits their offset. -/
def mergeRange (p : Nat → Bool) (new : Tab Byte) (r : Nat × Nat) (old : Tab Byte) : Tab Byte :=
  (List.range r.2).foldl (fun t i => if p (r.1 + i) then Tab.set 0 t (r.1 + i) (Tab.get 0 new (r.1 + i)) else t) old
/-- Steps of an R window that row `r` of a descriptor reaches: the first, and the one after the last. -/
def Window.rowSteps (w : Window) (d : Desc) (r : Nat) : Nat × Nat :=
  if w.ringed d then (d.m0 + r + rOf d.fmt d.k0, d.m0 + r + rOf d.fmt (d.k0 + d.kn - d.tail) + 1)
  else
    let x := d.rowRange r
    (w.stepAt x.1, w.stepAt (x.1 + x.2 - 1) + 1)
/-- The steps of an R window's fill: up to the last that any row of its descriptors reaches (R202). -/
def Window.steps (w : Window) (ds : List Desc) : Nat :=
  (ds.flatMap fun d => (List.range d.rowCount).map fun r => (w.rowSteps d r).2).foldl max 0
/-- The quarters of an R window's fill; the last may be partial. -/
def Window.total (w : Window) : Nat := ceilDiv (w.steps (w.descs.map descOf)) (2 ^ (w.ring - 2))
/-- The stores with what row `r` of a descriptor puts into a range of steps. -/
def Window.putSteps (w : Window) (d : Desc) (lo hi r : Nat) (b : List Byte) (st : Tab Byte) : Tab Byte :=
  if w.ringed d then d.place (fun x => lo ≤ x && x < hi) r b st
  else mergeRange (fun o => lo ≤ w.stepAt o && w.stepAt o < hi) (d.putRow r b st) (d.rowRange r) st
/-- The rows of a descriptor that contribute to a range of steps, gathered (R202); a row's bytes are counted in the first
range that it reaches (R206). -/
def Desc.gather (d : Desc) (w : Window) (a : Actor) (lo hi : Nat) : Nat → Nat → State → Res Unit
  | _, 0, s => .ok s ()
  | r, n + 1, s =>
      let x := w.rowSteps d r
      (if x.2 ≤ lo || hi ≤ x.1 then Res.ok s ()
       else (if d.kind = 4 then Res.ok s d.pattern
        else if x.1 < lo then a.read s d.sloc (d.srcAt r) d.rowBytes else a.load s d.sloc (d.srcAt r) d.rowBytes).bind fun s b =>
         Res.ok (s.updCore a.core fun k => { k with store := w.putSteps d lo hi r b k.store }) ()).bind
        fun s _ => d.gather w a lo hi (r + 1) n s
/-- The descriptors of a fill gathered over a range of steps. -/
def gatherAll (w : Window) (a : Actor) (lo hi : Nat) : List Desc → State → Res Unit
  | [], s => .ok s ()
  | d :: ds, s => (d.gather w a lo hi 0 d.rowCount s).bind fun s _ => gatherAll w { a with ahead := [] } lo hi ds s
/-- RING_QUARTER_FILLED (R202): the run-ahead entry serves the first descriptor (R204). -/
def execRingQuarterFilled (core : Fin 512) (i : Fin 16) (s : State) : Out :=
  .next (match s.works core, (s.core core).wins[i.val]? with
    | some c, some w =>
        let n := core.val
        let k := s.core n
        let q := 2 ^ (w.ring - 2)
        if w.kind != 2 || !w.filling || w.rel || w.cur.isSome || w.total ≤ w.quarters ||
            4 ≤ (k.mx.fill - k.mx.use).toNat then s
        else
          match gatherAll w (fillActor n c w (s.aheadOf n c w)) (w.quarters * q) ((w.quarters + 1) * q) (w.descs.map descOf) s with
          | .ok s _ =>
              let s := if w.quarters + 1 = w.total then s.endAhead n c w else s
              s.updCore n fun k =>
                ({ k with mx := { k.mx with fill := k.mx.fill + 1 } }).updWin i fun w =>
                  { w with quarters := w.quarters + 1 }
          | .lost s x => s.lose c x
          | .wait s' => s.countStalls s' n (739 + n / 64)
    | _, _ => s)

/-- WINDOW_ARRIVAL (R200). -/
def execWindowArrival (core : Fin 512) (i : Fin 16) (s : State) : Out :=
  .next (match s.works core, (s.core core).wins[i.val]? with
    | some c, some w =>
        if !w.filling || w.arrived || w.rel || w.cur.isSome || (w.kind == 2 && w.quarters < w.total) then s
        else ((s.bumpCtx 6 c w.stream (s.now - w.resv).toNat).updCore core fun k =>
          k.updWin i fun w => { w with arrived := true, late := false }).signal w.afid w.aval 0
    | _, _ => s)

/-- A core stalls on a fence that has not reached a value not above `v` (R201). -/
def State.waitsOn (s : State) (n f : Nat) (v : W64) : Bool :=
  match (s.core n).stall with
  | .no => false
  | .fence fid x => fid == f && x.toNat ≤ v.toNat && !s.reached fid x
  | .task h none => h.ins.any fun e => e.1 == f && e.2.toNat ≤ v.toNat && !s.reached e.1 e.2
  | .task _ (some _) => false
/-- The first ring-mode STREAM of a core finds its ring empty (`03` R71). -/
def Core.ringEmpty (k : Core) : Bool :=
  match k.mx.ops.find? fun o => o.2.isRows with
  | some (_, .stream _ _ _ _ _ _ ring _ _ _ _ row use0 _) =>
      ring != 0 && (k.mx.fill - use0.getD k.mx.use).toNat < (row + 127) / 2 ^ (ring - 2) + 1
  | _ => false
/-- WINDOW_LATE (R201). -/
def execWindowLate (core : Fin 512) (i : Fin 16) (s : State) : Out :=
  .next (match s.works core, (s.core core).wins[i.val]? with
    | some c, some w =>
        if w.arrived || w.late || !((s.ctxCores c).any fun n => s.waitsOn n w.afid w.aval) &&
            !(w.kind == 2 && w.filling && (s.core core).ringEmpty) then s
        else (s.bumpCtx 0 c w.stream 1).updCore core fun k => k.updWin i fun w => { w with late := true }
    | _, _ => s)

/-! ### Run-ahead (R204, R205) -/

/-- Device bytes as a table by device address. -/
def State.heldBytes (s : State) (l : List (Nat × Nat)) : Tab (Option Byte) :=
  l.foldl (fun t p => (s.readDa p.1 p.2).zipIdx.foldl (fun t b => Tab.set none t (p.1 + b.2) (some b.1)) t) []
/-- Device addresses of ranges of context memory. -/
def State.locateRanges (s : State) (init c : Nat) : List (Nat × Nat) → Res (List (Nat × Nat))
  | [] => .ok s []
  | (va, n) :: l => (s.locateAll init c .read (piecesOf va n)).bind fun s a =>
      (s.locateRanges init c l).bind fun s b => .ok s (a ++ b)
/-- Bytes held in the run-ahead buffer of a C-die, for one context under strict partition. -/
def State.aheadBytes (s : State) (die c : Nat) : Nat :=
  (((Tab.get [] s.runAhead die).filter fun e => !s.pw.strict || e.ctx == c).map (·.len)).sum
/-- The fetch for the window at NEXTW of a window that is filling: the source of the first descriptor of its chain.
A loss here is none of the context's: the fetch is dropped without a fault (R205), and so is one that finds no tag, of
its share of the 512 of the shared pool that run-ahead may hold (R193, R196), and one that the buffer of 8 MiB cannot
take (log 15). Its tags return as it ends, in the same step (log 53). -/
def State.aheadEntry (s : State) (n c : Nat) (w : Window) : Res RunAhead :=
  let die := n / 64
  let x := windowOf w.nextw ((s.core n).bytes w.nextw 64) s.now
  let act := fillActor n c x none
  if s.share die c 512 = 0 || !s.tagFree die c 3 2048 then .wait s
  else (act.desc s (.at_ x.chain x.cloc)).bind fun s d =>
    if d.cause.isSome || s.share die c (2 ^ 23) < s.aheadBytes die c + d.moved then .wait s
    else (s.locateRanges act.init c d.sources).bind fun s l =>
      .ok s { ctx := c, core := n, off := w.nextw, da := (l.headD (0, 0)).1, len := (l.map Prod.snd).sum
              data := s.heldBytes l }
/-- RUN_AHEAD_FETCH (R204, R205): a denial is counted at its target too (`07` R172). -/
def execRunAheadFetch (core : Fin 512) (i : Fin 16) (s : State) : Out :=
  .next (match s.works core, (s.core core).wins[i.val]? with
    | some c, some w =>
        let n := core.val
        let x := windowOf w.nextw ((s.core n).bytes w.nextw 64) s.now
        if !w.ra || !w.filling || w.rel || tileEnd < w.nextw + 64 || (x.wv && !s.reached x.wfid x.wval) then s
        else match s.aheadEntry n c w with
        | .ok s e =>
            { s.bumpCtx 8 c 0 e.len with runAhead := Tab.upd [] s.runAhead (n / 64) fun l => l ++ [e] }
        | .lost s' _ => s'.bumpCtx 11 c 0 1
        | .wait _ => s.bumpCtx 11 c 0 1
    | _, _ => s)
/-- RUN_AHEAD_EXPIRED (R204): 50 µs after its fetch an entry serves no more; one that was not used is counted. -/
def execRunAheadExpired (die : Fin 8) (i : Nat) (s : State) : Out :=
  .next (match (Tab.get [] s.runAhead die)[i]? with
    | some e => (if e.used then s else s.bumpCtx 10 e.ctx 0 1).dropAhead die i
    | none => s)

end Sys2Proof.Machine
end

