-- ==== Sys2Proof/Machine/Units.lean ====
section
/-! DEFINITION. The units of a core at work: how each performs an instruction of its queue, and the events of the
movers, after which the units go on (`02` R31, R36, `06` R150, R155). -/

namespace Sys2Proof.Machine

/-- An instruction that no unit performs; none stands in a queue. -/
def noWork : Perform := fun _ _ _ s => .ok s ()
/-- How the vector unit performs an instruction. -/
def vectorWork (i : Instr) : Perform :=
  match i with
  | .vadd _ f => vopRun opVadd f
  | .vsub _ f => vopRun opVsub f
  | .vmulLo _ f => vopRun opVmulLo f
  | .vmulHi _ f => vopRun opVmulHi f
  | .vmul _ f => vopRun opVmul f
  | .vmin _ f => vopRun opVmin f
  | .vmax _ f => vopRun opVmax f
  | .vshl _ f => vopRun opVshl f
  | .vshr _ f => vopRun opVshr f
  | .vshra _ f => vopRun opVshra f
  | .vand _ f => vopRun opVand f
  | .vor _ f => vopRun opVor f
  | .vxor _ f => vopRun opVxor f
  | .vandn _ f => vopRun opVandn f
  | .vcmpEq _ f => vopRun opVcmpEq f
  | .vcmpNe _ f => vopRun opVcmpNe f
  | .vcmpLt _ f => vopRun opVcmpLt f
  | .vcmpLe _ f => vopRun opVcmpLe f
  | .vany _ f => vpredRun anyOf f
  | .vall _ f => vpredRun allOf f
  | .vabs _ f => vunRun opVabs f
  | .vneg _ f => vunRun opVneg f
  | .vnot _ f => vunRun opVnot f
  | .vmov _ f => vunRun opVmov f
  | .vexp2 _ f => vunRun opVexp2 f
  | .vlog2 _ f => vunRun opVlog2 f
  | .vrcp _ f => vunRun opVrcp f
  | .vrsq _ f => vunRun opVrsq f
  | .vtanh _ f => vunRun opVtanh f
  | .vfma _ ty f => v3Run (fmtWidth ty.val) (fmtWidth ty.val) (opVfma ty.val) f
  | .vdot2 _ b f => v3Run 16 32 (opVdot2 (dotCode b)) f
  | .vsel _ w f => v3Run (selWidth w) (selWidth w) (opVsel (selWidth w)) f
  | .vcvt _ f => vcvtRun f
  | .vcvtMx _ f => vcvtMxRun f
  | .vcvtMxd _ f => vcvtMxdRun f
  | .vbxExp _ f => vbxExpRun f
  | .vbxCvt _ f => vbxCvtRun f
  | .vbxDec _ f => vbxDecRun f
  | .vrng _ f => vrngRun id f
  | .vrngU _ f => vrngRun unitDraw f
  | .vrngSetc _ f => vrngSetcRun f
  | .vrngGetc _ f => vrngGetcRun f
  | .vrngT _ f => vrngTRun f
  | _ => noWork
/-- How the reduction unit performs an instruction. -/
def reductionWork (i : Instr) : Perform :=
  match i with
  | .rsum _ f => redSumRun false false (finF32 f) f
  | .rssq _ f => redSumRun true false (finF32 f) f
  | .risum _ f => redSumRun false true (finInt f) f
  | .rpsumI _ f => rpsumRun true f
  | .rpsumE _ f => rpsumRun false f
  | .rmax _ f => rselRun cAbove outVal f
  | .rmin _ f => rselRun cBelow outVal f
  | .rargmax _ f => rselRun cAbove outIdx f
  | .rargmin _ f => rselRun cBelow outIdx f
  | .rtopk _ i f => rtopkRun i f
  | _ => noWork
/-- How the DMA and streaming unit performs an instruction. -/
def dmaWork (i : Instr) : Perform :=
  match i with
  | .dmaDesc _ f => dmaDescRun f
  | .dmaCopy _ _ => dmaCopyRun
  | .ringAdv _ q => ringAdvRun q
  | .ringRst _ _ => ringRstRun
  | .winResv _ g => winResvRun g
  | .winRel _ g => winRelRun g
  | _ => noWork

/-- Instructions that a core's units hold. -/
def Core.work (k : Core) : Nat := k.mx.ops.length + (k.units.map fun u => u.2.length).sum
/-- Each unit of a core performs the first instruction of its queue, when it can. -/
def State.unitsOnce (n c : Nat) (s : State) : State :=
  State.unitStep dmaWork 3 n c (State.unitStep reductionWork 2 n c (State.unitStep vectorWork 1 n c (s.mxStep n c)))
/-- The units of a core go on until none of them can, at most `fuel` times: they run beside the scalar unit (`02`
R31). -/
def State.unitsGo (n c : Nat) : Nat → State → State
  | 0, s => s
  | k + 1, s =>
      let t := s.unitsOnce n c
      if (t.core n).work < (s.core n).work then State.unitsGo n c k t else t
/-- The queues of a core hold at most 48 instructions. -/
def State.unitsRun (s : State) (n c : Nat) : State := s.unitsGo n c 48

/-- The units of every core of a C-die go on: a window that has gone was in the way of any of them (`08` R198). -/
def State.dieRun (s : State) (d : Nat) : State :=
  (List.range 64).foldl (fun s i => match s.works (64 * d + i) with
    | some c => s.unitsRun (64 * d + i) c
    | none => s) s

/-- LOADW_COMPLETE (`03` R64). -/
def execLoadwComplete (core : Fin 512) (s : State) : Out :=
  .next (match s.works core with
    | some c => (s.loadBank core).unitsRun core c
    | none => s)
/-- STREAM_ROW_RESULT (`03` R82). -/
def execStreamRowResult (core : Fin 512) (s : State) : Out :=
  .next (match s.works core with
    | some c => (s.streamRow core c).unitsRun core c
    | none => s)
/-- DMA_DESCRIPTOR_RUN (`08` R190): of a DMA engine's chain, or of a window's fill. -/
def execDmaDescriptorRun (m : Mover) (s : State) : Out :=
  .next (match m with
    | .engine cluster e => match s.chains cluster e with
      | [] => s
      | ch :: _ => match s.works ch.core with
        | some c => (s.runDesc cluster e).unitsRun ch.core c
        | none => s
    | .window core i => match s.works core, (s.core core).wins[i.val]? with
      | some c, some w => s.runFill core c i w
      | _, _ => s)
/-- DMA_CHAIN_COMPLETE (`06` R150). -/
def execDmaChainComplete (cluster : Fin 64) (e : Fin 3) (s : State) : Out :=
  .next (match s.chains cluster e with
    | [] => s
    | ch :: _ => match s.works ch.core with
      | some c => (s.chainDone cluster e).unitsRun ch.core c
      | none => s)
/-- WINDOW_RELEASE_COMPLETE (`08` R203). -/
def execWindowReleaseComplete (core : Fin 512) (i : Fin 16) (s : State) : Out :=
  .next (match s.works core, (s.core core).wins[i.val]? with
    | some c, some w =>
        if !w.rel || !s.winFree core c w then s else ((s.endAhead core c w).winRelease core c i).dieRun (core / 64)
    | _, _ => s)

end Sys2Proof.Machine
end

