-- ==== Sys2Proof/Machine/Tasks.lean ====
section
/-! DEFINITION. Tasks, verdicts and the paddock's drain, the fence unit, and the FENCE and SYS
instructions (`02` R38–R55, `06` R152–R155, `14` R355–R357). -/

namespace Sys2Proof.Machine

/-! ### Task headers (R38, R39) -/

/-- Four fence IDs of a header word. -/
def hdrIds (w : W64) : List Nat := (List.range 4).map fun i => fld w (16 * i + 15) (16 * i)
/-- A header from its 128 bytes. -/
def hdrOf (b : List Byte) : TaskHdr :=
  let w := wordAt b
  let c := w 0
  { vfid := fld c 63 48, vto := fld c 47 32, tag := fld c 31 16, prop := fld c 11 8, spec := bit c 7
    t := w 1, c := w 2
    ins := ((hdrIds (w 3)).zip [w 5, w 6, w 7, w 8]).take (fld c 2 0)
    outs := ((hdrIds (w 4)).zip [w 9, w 10, w 11, w 12]).take (fld c 6 4) }
/-- The 128 bytes of a header. -/
def hdrBytes (h : TaskHdr) : List Byte :=
  let id (l : List (Nat × W64)) (i : Nat) : Nat := (l.getD i (0, 0)).1
  let ids (l : List (Nat × W64)) : W64 := at64 (id l 3) 48 ||| at64 (id l 2) 32 ||| at64 (id l 1) 16 ||| w64 (id l 0)
  let vals (l : List (Nat × W64)) : List W64 := (List.range 4).map fun i => (l.getD i (0, 0)).2
  wordBytes ([at64 h.vfid 48 ||| at64 h.vto 32 ||| at64 h.tag 16 ||| at64 h.prop 8 ||| at64 (b2n h.spec) 7 |||
    at64 h.outs.length 4 ||| w64 h.ins.length, h.t, h.c, ids h.ins, ids h.outs] ++ vals h.ins ++ vals h.outs ++ [0, 0, 0])
/-- The header is malformed: cause code 0x05 (R39). -/
def hdrBad (b : List Byte) : Bool :=
  let w := wordAt b
  let c := w 0
  4 < fld c 2 0 || 4 < fld c 6 4 || fld c 15 12 != 0 || bit c 3 || w 13 != 0 || w 14 != 0 || w 15 != 0 ||
    (bit c 7 && (w 2).toNat < (w 1).toNat)
/-- A context may use every fence of a header (R39). -/
def State.hdrRights (s : State) (c : Nat) (h : TaskHdr) : Bool :=
  h.ins.all (fun e => s.mayWait c e.1) && (!h.spec || s.mayWait c h.vfid) &&
    h.outs.all fun e => s.maySignal c e.1

/-! ### Beginning a task (R40, R42, R47, R48) -/

/-- Every input fence has reached its value. -/
def State.inputsReached (s : State) (h : TaskHdr) : Bool := h.ins.all fun e => s.reached e.1 e.2
/-- The task table has room for a task (R42). -/
def Core.room (k : Core) (h : TaskHdr) : Bool :=
  k.tasks.length < 8 && (!h.spec || (k.tasks.filter Task.unresolved).length < 4)
/-- An input fence named in PROP carries discard status (R48). -/
def State.propDiscard (s : State) (h : TaskHdr) : Bool :=
  h.ins.zipIdx.any fun e => h.prop.testBit e.2 && (s.fence e.1.1).stat == 1
/-- The verdict that a task has when it opens (R47, R48): `prop` is whether an input named in PROP carried discard
status when the wait of R40 was satisfied. -/
def State.verdict0 (s : State) (h : TaskHdr) (prop : Bool) : Verdict :=
  if prop then .discard
  else if h.spec && s.reached h.vfid h.t then
    (if h.c.toNat ≤ (s.fence h.vfid).val.toNat then .commit else .discard)
  else .none
/-- A speculative task that resolves counts for the stream of its verdict fence: a draft position evaluated; the task of
draft position 1, C = T + 1, counts its pass and the verified position as well (`10` R240, R256; log 24). -/
def State.countDraft (s : State) (n : Nat) (h : TaskHdr) : State :=
  match s.coreCtx n with
  | none => s
  | some c =>
      let k := h.vfid % 256
      let s := s.bumpCtx 13 c k 1
      if h.c = h.t + 1 then (s.bumpCtx 12 c k 1).bumpCtx 13 c k 1 else s
/-- The end of a draft token: accepted as its task drains, or discarded (`10` R256; log 24). -/
def State.countToken (s : State) (n : Nat) (h : TaskHdr) (accepted : Bool) : State :=
  match s.coreCtx n with
  | none => s
  | some c => s.bumpCtx (if accepted then 14 else 15) c (h.vfid % 256) 1
/-- The task opens. -/
def State.openTask (s : State) (n : Nat) (h : TaskHdr) (prop : Bool) : State :=
  let v := s.verdict0 h prop
  let s := match s.coreCtx n with
    | some c => s.programMark c h.tag
    | none => s
  let s := if h.spec && v != .none then s.countDraft n h else s
  let s := if h.spec && v == .discard then s.countToken n h false else s
  let s := if h.spec then s.bumpCore n 2 1 else s
  let s := if h.spec && v == .discard then s.bumpCore n 4 1 else s
  s.updCore n fun k => { k with
    tasks := k.tasks ++ [{ id := k.nextTask, hdr := h, verdict := v, began := s.now }]
    nextTask := k.nextTask + 1, stall := .no }
/-- A stalled instruction of one word issues. -/
def State.advance (s : State) (n : Nat) : State :=
  (s.bumpCore n 0 1).updCore n fun k => { k with pc := k.pc + 8, stall := .no, fresh := false }

/-- The place of a task header: below 0x48_0000, cause code 0x07 otherwise; a line of the tile
store, cause code 0x05 otherwise (R35, R38). -/
def hdrCause (a : Nat) : Option Nat :=
  if localEnd < a + 128 then some 0x07 else if a % 128 ≠ 0 ∨ tileEnd < a + 128 then some 0x05 else none
/-- TASK.BEGIN (R38–R42): the header is read once; a task that has to wait stalls issue with its
header latched. Inside an open task cause 0x04 is taken before what the header would give: the manual does not order
it (DESIGN CHOICE, log 52). -/
def execTaskBegin (h : Issue) (gh : BitVec 5) (s : State) : Out :=
  .next (issue h 1 true none { regs := [gh] } s fun c s =>
    let n := h.core.val
    let k := s.core n
    let a := (k.rd gh).toNat
    if k.openTask.isSome then .lost s 0x04
    else orLost s (hdrCause a) (interlocked s n { r := [(a, 128)] } (
      let b := k.bytes a 128
      let x := hdrOf b
      if hdrBad b then .lost s 0x05
      else if !s.hdrRights c x then .lost s 0x06
      else if !s.inputsReached x then
        .wait ((s.bumpCore n 1 1).updCore n fun k => { k with stall := .task x none })
      else if k.room x then .ok (s.openTask n x (s.propDiscard x)) none
      else .wait (s.updCore n fun k => { k with stall := .task x (some (s.propDiscard x)) }))))
/-- TASK_INPUT_SATISFIED (R40): the stalled TASK.BEGIN proceeds. -/
def execTaskInputSatisfied (core : Fin 512) (s : State) : Out :=
  .next (match s.works core, (s.core core).stall with
    | some _, .task x met =>
        if (s.core core).stopReq && s.quietCore core then s.idleCore core
        else if s.inputsReached x && (s.core core).room x then
          (s.openTask core x (met.getD (s.propDiscard x))).advance core
        else s
    | _, _ => s)
/-- TASK.END (R41, R42). -/
def execTaskEnd (h : Issue) (s : State) : Out :=
  .next (issue h 1 true none {} s fun _ s =>
    let n := h.core.val
    match (s.core n).openTask with
    | none => .lost s 0x04
    | some t => onCore n (fun k => k.updTask t.id fun t => { t with isOpen := false }) s)

/-- A completing task may signal its output fences (R41, R48, R49). -/
def State.outputsDue (s : State) (n : Nat) (t : Task) : Bool :=
  !t.isOpen && (t.verdict == .discard || ((!t.hdr.spec || t.drained) &&
    !s.chainBefore n (some t.id) (s.core n).disp))
/-- A task leaves the table: what is unfinished of a discarded one is still dropped (R48). -/
def Core.leave (k : Core) (t : Task) : Core :=
  { k with tasks := k.tasks.filter fun x => x.id != t.id
           dropped := if t.verdict = .discard then k.dropped ++ [t.id] else k.dropped }
/-- The time that a task has taken, from its TASK.BEGIN to its end, counts for its TAG (`17` R423, log 24). -/
def State.countTask (s : State) (c : Nat) (t : Task) : State :=
  s.updCtx c fun k => { k with tagTime := Tab.upd 0 k.tagTime t.hdr.tag (· + (s.now - t.began)) }
/-- TASK_OUTPUT_SIGNAL (R41, R48): the output fences of a completing task in index order, with
discard status for a discarded one; the task leaves the table. -/
def execTaskOutputSignal (core : Fin 512) (i : Fin 8) (s : State) : Out :=
  .next (match s.works core, (s.core core).tasks[i.val]? with
    | some c, some t =>
        if !s.outputsDue core t then s
        else
          let stat := b2n (t.verdict == .discard)
          t.hdr.outs.foldl (fun s o => s.signal o.1 o.2 stat)
            ((s.countTask c t).updCore core fun k => k.leave t)
    | _, _ => s)

/-! ### Verdicts (R47–R52) -/

/-- Serials of the tasks that a discard takes with it: those bound to a discarded task, in
program order (R51). -/
def dependents : List Task → List Nat → List Nat
  | [], d => d
  | t :: ts, d =>
      dependents ts (if t.verdict != .discard && !t.drained && t.bound.any d.contains then d ++ [t.id] else d)
/-- A task is discarded, and the tasks bound to it: their entries and held signals are cleared
(R48, R49, R51, R55). -/
def State.discardTask (s : State) (n id : Nat) : State :=
  let k := s.core n
  let d := dependents k.tasks [id]
  let s := (k.tasks.filter fun t => d.contains t.id && t.hdr.spec).foldl (fun s t =>
    (if t.verdict == .none then s.countDraft n t.hdr else s).countToken n t.hdr false) s
  ((s.bumpCore n 4 d.length).bumpCore n 6 (d.length - 1)).updCore n fun k => { k with
    tasks := k.tasks.map fun t => if d.contains t.id then { t with verdict := .discard } else t
    pad := k.pad.filter fun e => !d.contains e.task
    held := k.held.filter fun e => !d.contains e.task }
/-- SPECULATIVE_RESOLVE (R47): the first resolving signal decides. What waited for room in the paddock goes on. -/
def execSpeculativeResolve (core : Fin 512) (i : Fin 8) (s : State) : Out :=
  .next (match s.works core, (s.core core).tasks[i.val]? with
    | some c, some t => match t.unresolved, t.first with
      | true, some v =>
          if t.hdr.c.toNat ≤ v.toNat then
            (s.countDraft core t.hdr).updCore core fun k => k.updTask t.id fun t =>
              { t with verdict := .commit }
          else (s.discardTask core t.id).unitsRun core c
      | _, _ => s
    | _, _ => s)
/-- VERDICT_TIMEOUT (R48): VTO is not zero and no resolving signal has come. -/
def execVerdictTimeout (core : Fin 512) (i : Fin 8) (s : State) : Out :=
  .next (match s.works core, (s.core core).tasks[i.val]? with
    | some c, some t =>
        if t.unresolved && t.first.isNone && t.hdr.vto != 0 then
          ((s.bumpCore core 5 1).discardTask core t.id).unitsRun core c
        else s
    | _, _ => s)

/-- Runs of adjacent bytes under a mask: offset and bytes. -/
def maskRuns : Tab (Option Byte) → List (Nat × List Byte)
  | [] => []
  | (o, b) :: t => match maskRuns t with
    | (x, bs) :: rs => if x = o + 1 then (o, b.getD 0 :: bs) :: rs else (o, [b.getD 0]) :: (x, bs) :: rs
    | [] => [(o, [b.getD 0])]
/-- The bytes of an entry written to memory. -/
def State.landEntry (s : State) (e : PadEntry) : State :=
  (maskRuns e.bytes).foldl (fun s r => s.writeDa (64 * e.line + r.1) r.2) s
/-- The order of requests that leave the module lets a line of the paddock be written (`07` R178, `11` R280). -/
def State.landable (s : State) (e : PadEntry) : Bool :=
  match s.space (64 * e.line) with
  | .h => !s.hostBusy (64 * e.line) 64 true
  | .p => (match s.pmapAt (64 * e.line) with
      | some w => !s.poolHeld w.node ((w.nbase + (64 * e.line / 128 * 128 - w.base)) % 2 ^ 48) 1
      | none => true)
  | _ => true
/-- A committed task drains once every older speculative task has resolved and drained
(R49, R52). -/
def Core.drains (k : Core) (t : Task) : Bool :=
  t.hdr.spec && t.verdict == .commit && !t.drained &&
    k.tasks.all fun u => t.id ≤ u.id || !u.hdr.spec || u.drained || u.verdict == .discard
/-- A core whose task has drained: its entries are gone and its held signals wait only for the DMA
writes before them. -/
def Core.drainTask (k : Core) (id : Nat) : Core :=
  { k with
    tasks := k.tasks.map fun t => if t.id == id then { t with drained := true } else t
    pad := k.pad.filter fun e => e.task != id
    rel := k.rel ++ ((k.held.filter fun e => e.task == id).map fun e =>
      { fid := e.fid, val := e.val, task := some e.task, after := e.after })
    held := k.held.filter fun e => e.task != id }
/-- PADDOCK_DRAIN (R49–R52): the entries of the task in allocation order, then its held signals in
program order, each once the DMA writes before it are visible. A line outside the module waits for its order (`11` R280). -/
def execPaddockDrain (core : Fin 512) (i : Fin 8) (s : State) : Out :=
  .next (match s.works core, (s.core core).tasks[i.val]? with
    | some c, some t =>
        let k := s.core core
        if !k.drains t || !((k.pad.filter fun e => e.task == t.id).all s.landable) then s
        else
          let s := (k.pad.filter fun e => e.task == t.id).foldl State.landEntry s
          ((((s.countToken core t.hdr true).bumpCore core 3 1).updCore core fun k => k.drainTask t.id).flushRel core).unitsRun core c
    | _, _ => s)

/-! ### FENCE instructions (`06` R152) -/

/-- Fields of FENCE that are unused and not zero: the ID's other place, and by operation the
destination, or the value register. -/
def fenceBad (f : FenceF) (read : Bool) : Bool :=
  (if f.idr then f.fid != 0 else f.gi != 0) || if read then f.gv != 0 else f.gd != 0 || f.pd != 0
/-- The fence that an instruction names. -/
def fenceId (f : FenceF) (k : Core) : Nat := if f.idr then (k.rd f.gi).toNat % 65536 else f.fid.toNat
/-- What a FENCE instruction uses. -/
def fenceUses (f : FenceF) (read : Bool) : Uses :=
  { regs := (if f.idr then [f.gi] else []) ++ [if read then f.gd else f.gv], preds := if read then [f.pd] else [] }

/-- A FENCE.SIGNAL of core `n` (R41, R43, R44, R53). A queue of 64 held signals that is full stalls it as a full paddock
does, and counts in the paddock-full counter: the manual names no counter for it (DESIGN CHOICE, log 41). -/
def signalBody (n c fid : Nat) (v : W64) (s : State) : Res (Option W48) :=
  if !s.maySignal c fid then .lost s 0x06
  else match s.signalHeld n (s.core n).taskNow fid v (s.core n).disp with
    | some s => .ok s none
    | none => .wait (s.padFull n (s.core n).taskNow)
/-- FENCE.SIGNAL (R152). -/
def execFenceSignal (h : Issue) (f : FenceF) (s : State) : Out :=
  .next (issue h 1 true (ill (fenceBad f false)) (fenceUses f false) s fun c s =>
    signalBody h.core c (fenceId f (s.core h.core)) ((s.core h.core).rd f.gv) s)
/-- FENCE.SIGNAL.I (R152). -/
def execFenceSignalI (h : Issue) (fid : BitVec 16) (val : W64) (s : State) : Out :=
  .next (issue h 2 true none {} s fun c s => signalBody h.core c fid.toNat val s)
/-- A value taken at issue that reaches its registers as a load from context memory does, one of
the 16 in flight (`02` R33, `06` R155). -/
def inFlight (n : Nat) (l : Load) (s : State) : Res (Option W48) :=
  if 16 ≤ (s.core n).loads.length then .wait s
  else onCore n (fun k => { k with loads := k.loads ++ [l] }) s
/-- FENCE.READ (R152). -/
def execFenceRead (h : Issue) (f : FenceF) (s : State) : Out :=
  .next (issue h 1 true (ill (fenceBad f true)) (fenceUses f true) s fun c s =>
    let x := fenceId f (s.core h.core)
    if !s.mayWait c x then .lost s 0x06
    else inFlight h.core { rd := f.gd.toNat, val := (s.fence x).val
                           pred := some (f.pd.toNat, (s.fence x).stat != 0) } s)
/-- FENCE.WAIT (R152). -/
def execFenceWait (h : Issue) (f : FenceF) (s : State) : Out :=
  .next (issue h 1 true (ill (fenceBad f false)) (fenceUses f false) s fun c s =>
    let n := h.core.val
    let x := fenceId f (s.core n)
    let v := (s.core n).rd f.gv
    if !s.mayWait c x then .lost s 0x06
    else if s.reached x v then .ok s none
    else .wait ((s.bumpCore n 1 1).updCore n fun k => { k with stall := .fence x v }))
/-- FENCE_WAIT_SATISFIED (`14` R357). -/
def execFenceWaitSatisfied (core : Fin 512) (s : State) : Out :=
  .next (match s.works core, (s.core core).stall with
    | some _, .fence x v =>
        if (s.core core).stopReq && s.quietCore core then s.idleCore core
        else if s.reached x v then s.advance core else s
    | _, _ => s)

/-! ### The fence unit (`14` R355, R356) -/

/-- A task records the first signal that resolves it (`02` R47). -/
def Task.note (t : Task) (fid : Nat) (v : W64) : Task :=
  if t.unresolved && t.first.isNone && t.hdr.vfid == fid && t.hdr.t.toNat ≤ v.toNat then
    { t with first := some v } else t
/-- A TASK.BEGIN that waits for its inputs notes, when the last reaches its value, whether one named in PROP carries
discard status (`02` R40, R48). -/
def State.noteInputs (s : State) (k : Core) : Stall :=
  match k.stall with
  | .task h none => if s.inputsReached h then .task h (some (s.propDiscard h)) else .task h none
  | x => x
/-- Tasks of every core note a signal. -/
def State.noteSignal (s : State) (fid : Nat) (v : W64) : State :=
  (Tab.keys s.cores).foldl (fun s n => s.updCore n fun k =>
    { k with tasks := k.tasks.map (fun t => t.note fid v), stall := s.noteInputs k }) s
/-- The control block that the update units hold last: that of a step that waits to open, or of the open one. -/
def Learn.lastScb (l : Learn) : Scb := match l.nextOpen with | some x => x.2.1 | none => l.scb
/-- SCB word 9 as it stands (`09` R209). -/
def State.readLoss (s : State) (f : State → BitVec 32 → State) : State :=
  State.settle s.learn.ctx (s.readVa 704 s.learn.ctx (s.learn.scbVa + 72) 4) fun s b => f s (BitVec.ofNat 32 (leNat b))
/-- A signal of the binding's fences: OFID gives the time of marker 0, and LFID is marker 4 of the step that it reaches,
whose loss is SCB word 9 at that moment (`09` R209, R239). -/
def State.lossMark (s : State) (fid : Nat) (v : W64) : State :=
  let l := s.learn
  if !l.bound then s
  else
    let s : State := if fid == l.lastScb.ofid then { s with learn := { l with ofidAt := (v, s.now) } } else s
    if fid != l.lastScb.lfid then s
    else s.readLoss fun s x =>
      let t := s.learn.t
      let now := t != 0 && !s.learn.committed && decide (t ≤ v.toNat)
      let s : State := if now && s.learn.loss.isNone then { s with learn := { s.learn with loss := some x } } else s
      let s := if now then s.mark 4 else s
      if t < v.toNat then { s with learn := { s.learn with lossNext := s.learn.lossNext.orElse fun _ => some (x, s.now) } } else s
/-- A signal applied: it raises VALUE and sets STAT when it is above VALUE, unsigned; any other is
counted as stale with the owner; a fence without an owner takes no signal (R356, R362). -/
def State.applySig (s : State) (g : Sig) : State :=
  let f := s.fence g.fid
  match f.v, f.owner with
  | true, some o =>
      if f.val.toNat < g.val.toNat then
        ((s.updFence g.fid fun f => { f with val := g.val, stat := g.stat }).noteSignal g.fid g.val).lossMark g.fid g.val
      else s.updCtx o fun k => { k with stale := k.stale + 1 }
  | _, _ => s
/-- FENCE_SIGNAL_APPLY (R356): signals are applied one at a time, in the order in which they
arrived. -/
def execFenceSignalApply (s : State) : Out :=
  .next (match s.sigQ with
    | [] => s
    | g :: rest => ({ s with sigQ := rest }).applySig g)

/-! ### SYS (`06` R153, R154) -/

/-- SYS.NOP. -/
def execSysNop (h : Issue) (gd ga : BitVec 5) (s : State) : Out :=
  .next (issue h 1 false (ill (gd != 0 || ga != 0)) {} s fun _ s => .ok s none)
/-- SYS.IFLUSH: it waits until no store of the core is held (DEDUCED, log 16). -/
def execSysIflush (h : Issue) (gd ga : BitVec 5) (s : State) : Out :=
  .next (issue h 1 false (ill (gd != 0 || ga != 0)) {} s fun _ s =>
    if !(s.core h.core).pad.isEmpty then .wait s
    else onCore h.core (fun k => { k with iflush := k.iflush + 1 }) s)
/-- SYS.SRKEY. -/
def execSysSrkey (h : Issue) (gd ga : BitVec 5) (s : State) : Out :=
  .next (issue h 1 false (ill (gd != 0)) { regs := [ga] } s fun _ s =>
    onCore h.core (fun k => { k with srstep := (k.rd ga).truncate 32 }) s)
/-- SYS.FLAGS: it waits until every earlier matrix, vector and reduction instruction has completed. -/
def execSysFlags (h : Issue) (gd ga : BitVec 5) (s : State) : Out :=
  .next (issue h 1 false none { regs := [gd, ga] } s fun _ s =>
    if !((s.core h.core).mx.ops.isEmpty && ((s.core h.core).unit 1).isEmpty && ((s.core h.core).unit 2).isEmpty) then
      .wait s
    else onCore h.core (fun k =>
      ({ k with flags := clearFlags k.flags (k.rd ga) }).wr gd (k.flags.setWidth 64)) s)
/-- SYS.ID. -/
def execSysId (h : Issue) (gd ga : BitVec 5) (s : State) : Out :=
  .next (issue h 1 false (ill (ga != 0)) { regs := [gd] } s fun c s =>
    onCore h.core (fun k => k.wr gd (at64 c 12 ||| w64 h.core.val)) s)
/-- SYS.TIME. -/
def execSysTime (h : Issue) (gd ga : BitVec 5) (s : State) : Out :=
  .next (issue h 1 false (ill (ga != 0)) { regs := [gd] } s fun _ s =>
    inFlight h.core { rd := gd.toNat, val := s.now } s)

end Sys2Proof.Machine
end

