-- ==== Sys2Proof/Machine/Halt.lean ====
section
/-! DEFINITION. Failure signatures, corrected and uncorrectable errors, unit resets, the integrity
halt, Sheepdog and the entry into Sentinel mode (`20_silent_errors_ras`, `21_reset_recovery`). -/

namespace Sys2Proof.Machine

/-! ### Failure signatures (`20` R463, R476, R478) -/

/-- A failure signature, which raises event kind 0x45 with its record ID, except in Sentinel
mode. -/
def State.record (s : State) (e : Cper) : State :=
  let id := s.ras.nextId
  (s.logSig { e with step := if s.learn.bound then s.learn.t else 0 }).devEvent 0x45 id

/-- A unit as signatures name it: UKIND and UIDX. -/
structure UnitId where
  /-- UKIND. -/
  kind : Nat
  /-- UIDX. -/
  idx : Nat

/-- The unit that holds a line in device memory: a D-stack, an LPDDR6 channel (16·m + n), a core,
or a structure of the X-die. -/
def State.unitAt (s : State) (da : Nat) : UnitId :=
  match s.space da with
  | .d c => ⟨4, c⟩
  | .l m => ⟨5, 16 * m + lChan (da % 2 ^ 39)⟩
  | .sram c _ => ⟨0, c⟩
  | _ => ⟨10, 0⟩

/-- A corrected error of a unit counted within the hour: the first above `XLOG.CETHR` writes one
signature of outcome 0 (R463). -/
def State.corrected (s : State) (u : UnitId) : State :=
  let k := 2 ^ 16 * u.kind + u.idx
  let n := Tab.get 0 s.ras.ceHour k + 1
  let s := { s with ras := { s.ras with ceHour := Tab.set 0 s.ras.ceHour k n } }
  if s.ras.cethr.toNat < n ∧ !s.ras.ceSigned.contains k then
    ({ s with ras := { s.ras with ceSigned := k :: s.ras.ceSigned } }).record
      { cls := 0x01, outcome := 0, ukind := u.kind, uidx := u.idx, count := n }
  else s
/-- The counters of a line's controller: 0 corrected, 1 uncorrectable, 3 patrol corrections
(`25` R562, C-die registers). -/
def State.bumpLine (s : State) (da i : Nat) : State :=
  match s.space da with
  | .d c => s.bumpAt (regCdst c) (regCdst c + 0x800 + 8 * i) 1
  | .l m => s.bumpAt (regMddr m)
      (regMddr m + 0x100 + 0x40 * lChan (da % 2 ^ 39) + 8 * (if i = 3 then 5 else 2 + i)) 1
  | _ => s
/-- A corrected line. -/
def State.lineFixed (s : State) (da : Nat) : State := (s.bumpLine da 0).corrected (s.unitAt da)

/-- ROW and COL of a signature about a line: its DRAM row and its layer-bank in a D-stack; the manual places no row of
an LPDDR6 channel (R478, `07` R173). -/
def State.dramPlace (s : State) (da : Nat) : Nat × Nat :=
  match s.space da with
  | .d _ => (dRow (da % 0x1800000000), dBank (da % 0x1800000000))
  | _ => (0xFFFF, 0xFFFF)
/-- A context lost by an error, with its signature (R460, R475). -/
def State.loseErr (s : State) (c cause cls : Nat) (u : UnitId) (da : Nat) (core : Option Nat := none) :
    State :=
  (s.lose c cause core (match core with | some n => (s.core n).pc | none => 0)).record
    { cls := cls, outcome := 2, ukind := u.kind, uidx := u.idx, da := da, ctx := c, cause := cause
      row := (s.dramPlace da).1, col := (s.dramPlace da).2 }

/-- An uncorrectable line (R460): the outcome is decided by the owner word of its granule. -/
def State.lineLost (s : State) (da : Nat) : State :=
  let s := s.bumpLine da 1
  let u := s.unitAt da
  match s.space da with
  | .sram n _ => match s.coreCtx n with
      | some c => s.loseErr c 0x0B 0x02 u da (some n)
      | none => s
  | _ => match s.ownerAt da with
    | none => s
    | some own =>
        if bit own 15 then
          (if s.scrubQ.any fun e => e.1 == da / 2 ^ 21 then s
           else { s with scrubQ := s.scrubQ ++ [(da / 2 ^ 21, 0x1000)] })
        else if bit own 12 then s
        else if bit own 14 then (match (Tab.get {} s.pages (da / 2 ^ 16)).owner with
          | some c => s.loseErr c 0x17 0x02 u da
          | none => s)
        else s.loseErr (fld own 11 0) 0x17 0x02 u da

/-! ### The end of every context (R464, R494) -/

/-- Every context is LOST with a cause that no core raised; no abort runs and no record is
written (R464). -/
def State.loseAll (s : State) (cause : Nat) : State :=
  (Tab.keys s.ctxs).foldl (fun s c =>
    if (s.ctx c).st = .idle ∨ (s.ctx c).st = .resident then
      let s := (s.ctxClusters c).foldl (fun s k => s.updCluster k fun x =>
        if x.lost = 0 then { x with lost := lostWord cause none 0 } else x) s
      s.updCtx c fun k => { k with st := .lost, cause := cause, core := none, lpc := 0 }
    else s) s
/-- The key store clears every slot other than 0–2. -/
def KeyStore.clear (k : KeyStore) : KeyStore :=
  { k with slots := Tab.drop k.slots (2 < ·), nonces := [], cache := [], cacheMask := [] }
/-- A port whose transmitter falls quiet and whose keys are destroyed. -/
def Port.quiet (p : Port) : Port :=
  { cfgMode := p.cfgMode, lock := p.lock, weights := p.weights, mode := p.mode, fails := p.fails, old := p.old }
/-- Every port falls quiet. -/
def State.quietPorts (s : State) : State := { s with ports := s.ports.map fun e => (e.1, e.2.quiet) }
/-- The crash dump, when the region is empty. -/
def State.writeDump (s : State) (len : Nat → Nat) : State :=
  if s.ras.dumpPres then s
  else { s with ras := { s.ras with
      dumpPres := true, dumpNo := s.ras.dumpNo + 1, dumpLen := len (s.ras.dumpNo + 1) } }
/-- An error outside the Correctable class is logged and reported (`13` R332): its AER bits `u` and, for an advisory error, `c`;
the header log and the First Error Pointer, while no earlier error that is not masked is logged; the Device Status bits; and the
message that its severity, the masks and the enables of Device Control or SERR# Enable ask for (the places of these bits are
PRESUMED, log 6). `always` fixes the severity as fatal. -/
def Pcie.logError (p : Pcie) (u c : BitVec 32) (hdr : BitVec 128) (always : Bool) : Pcie :=
  let open_ := ~~~BitVec.ofNat 32 (p.cfgVal 0x108 0)
  let fatal := always || (u &&& BitVec.ofNat 32 (p.cfgVal 0x10C 0x462030)) != 0
  let kind : Nat := if fatal then 2 else if c = 0 then 1 else 0
  let first := (p.aerU &&& open_) == 0 && (u &&& open_) != 0
  let masked := if kind = 0 then (c &&& ~~~BitVec.ofNat 32 (p.cfgVal 0x114 0x2000)) == 0 else (u &&& open_) == 0
  let on := (p.cfgVal 0x058 0x2810).testBit kind || (kind != 0 && (p.cfgVal 0x004 0x100000).testBit 8)
  { p with
    aerU := p.aerU ||| u, aerC := p.aerC ||| (if fatal then 0 else c)
    hdrLog := if first then hdr else p.hdrLog, prefLog := if first then 0 else p.prefLog
    fep := if first then ((List.range 32).find? fun i => u.getLsbD i).getD 0 else p.fep
    devSta := if u = 0 then p.devSta else p.devSta ||| (1 <<< kind) ||| (if u.getLsbD 20 then 8 else 0)
    errMsgs := if u = 0 || masked || !on then p.errMsgs else kind :: p.errMsgs }
/-- The function sends Uncorrectable Internal Error once, with the reason in the header log's first
word, and its signature is written (`13` R332). -/
def State.internalError (s : State) (reason : Nat) : State :=
  if s.pcie.uie then s
  else
    let h := BitVec.ofNat 128 reason
    match ({ s with pcie := { s.pcie.logError 0x400000 0 h true with uie := true, hdrLog := h } } : State).free 8 with
    | (k, s) => s.record { cls := k.toNat, outcome := 4, ukind := 10, synd := h }
/-- The entry into Sentinel mode with the code of RSTSTAT.SENT (R490, R496). -/
def State.sentinel (s : State) (code : Nat) : State :=
  let s := State.internalError { s with dev := .sentinel } code
  ({ s with pcie := { s.pcie with rrs := false }, ras := { s.ras with sentNow := code } } : State).irq 0

/-- The integrity halt (R464): a trigger after the first is recorded and changes nothing else. -/
def State.halt (s : State) (cls ukind uidx : Nat) : State :=
  let sig : Cper := { cls := cls, outcome := 4, ukind := ukind, uidx := uidx }
  if s.dev == .sentinel then s.record sig
  else
    let s := { s with dev := .sentinel, keys := s.keys.clear }
    (((s.quietPorts.record sig).writeDump Config.dumpLen).loseAll 0x19).sentinel 1
/-- INTEGRITY_HALT (R464). -/
def execIntegrityHalt (cls ukind : BitVec 8) (uidx : BitVec 16) (s : State) : Out :=
  .next (if s.dev == .ready || s.dev == .sentinel then s.halt cls.toNat ukind.toNat uidx.toNat else s)

/-! ### Health of a line that is read (`16` R386–R389, `20` R459, R460) -/

/-- The lines of the L- and H-tier that have not been written since their page's major counter last
changed are not read, and no MAC is checked (`16` R388). -/
def State.virgin (s : State) (da : Nat) : Bool :=
  match s.space da with
  | .l _ => Tab.get 0 s.lines (da / 128) == 0
  | .h => Tab.get 0 s.lines (da / 128) == 0
  | _ => false
/-- What checking a line shows: whether its data may be used, and the effects. -/
def State.checkLine (s : State) (da ctx : Nat) (h : Health) : Bool × State :=
  if s.virgin da then (true, s)
  else match h, s.space da with
  | .clean, _ => (true, s)
  | .corrected, _ => (true, s.lineFixed da)
  | .macFail, .d c => (false, s.halt 0x03 4 c)
  | .macFail, .l m => (false, s.halt 0x03 5 (16 * m + lChan (da % 2 ^ 39)))
  | .macFail, .h => (false, s.loseErr ctx 0x16 0x04 ⟨10, 0⟩ da)
  | .macFail, .p => (false, s.loseErr ctx 0x16 0x04 ⟨10, 0⟩ da)
  | .macFail, _ => (true, s)
  | .uncorrectable, .h => (false, s.loseErr ctx 0x16 0x04 ⟨10, 0⟩ da)
  | .uncorrectable, _ => (false, s.lineLost da)
/-- A line of the integrity region of an M-die holds a counter line: the M-die and the counter line (`16` R392). -/
def State.cntLineAt (s : State) (da : Nat) : Option (Nat × Nat) :=
  match s.space da with
  | .l m => if s.regionBase m ≤ da && (da - s.regionBase m) / 128 < s.cntLines then some (m, (da - s.regionBase m) / 128)
      else none
  | _ => none
/-- The patrol of one line: it checks stored bytes against their ECC alone, and counts a line that
it corrects as a patrol correction and a corrected error (R462; DEDUCED, log 17). A counter line that it cannot correct is
repaired from its mirror, or halts the device (R459, `16` R395). -/
def State.patrolLine (s : State) (da : Nat) (h : Health) : State :=
  match h with
  | .corrected => (s.bumpLine da 3).lineFixed da
  | .uncorrectable => match s.cntLineAt da with
    | some (m, i) => (match s.repairUnit m i with
      | some t => t
      | none => s.halt 0x03 5 (16 * m + lChan (da % 2 ^ 39)))
    | none => s.lineLost da
  | _ => s
/-- PATROL (R462). -/
def execPatrol (da : W48) (h : Health) (s : State) : Out :=
  .next (if s.dev != .ready then s
    else match s.space da.toNat with
    | .d _ => s.patrolLine da.toNat h
    | .l _ => s.patrolLine da.toNat h
    | _ => s)
/-- CORRECTED_ERROR_HOUR (R463). -/
def execCorrectedErrorHour (s : State) : Out :=
  .next { s with ras := { s.ras with ceHour := [], ceSigned := [] } }

/-! ### Unit resets (`21` R479–R489) -/

/-- Kinds of unit: 0 core, 1 cluster, 2 C-die, 3 M-die; a unit of that kind and number exists. -/
def State.unitFitted (s : State) (kind i : Nat) : Bool :=
  match kind with
  | 0 => i < 512 && s.dieFitted (i / 64)
  | 1 => i < 64 && s.dieFitted (i / 8)
  | 2 => i < 8 && s.dieFitted i
  | _ => i < 4
/-- A context owns a granule or a pool page of a D-stack. -/
def State.ownsOn (s : State) (c d : Nat) : Bool :=
  ((s.target d).ownA.any fun e => !bit e.2 15 && !bit e.2 12 && !bit e.2 14 && fld e.2 11 0 == c) ||
    s.pages.any fun e => s.space (2 ^ 16 * e.1) == .d d && e.2.owner == some c
/-- The contexts that a reset of a unit loses with cause code 0x1A (*Reset units*). -/
def State.resetLoses (s : State) (kind i : Nat) : List Nat :=
  match kind with
  | 1 => if (s.cluster i).held then [(s.cluster i).ctx] else []
  | 2 => (Tab.keys s.ctxs).filter fun c => (s.ctxClusters c).any (fun k => k / 8 == i) || s.ownsOn c i
  | _ => []
/-- A core after its reset: the creation state, held by no context (R483). -/
def State.clearCore (s : State) (n : Nat) : State := s.setCore n { out := (s.cluster (n / 8)).held }
/-- A cluster after its reset: its cores, TLB and DMA engines are cleared, and no context holds it. -/
def State.clearCluster (s : State) (k : Nat) : State :=
  (List.range 8).foldl (fun s i => s.setCore (8 * k + i) {})
    ((s.updCluster k fun _ => {}).updTarget (12 + k) fun t => { t with draining := false })
/-- Registers of a range of BAR0 at their reset values (`25` R549). -/
def State.dropRegs (s : State) (base n : Nat) : State :=
  { s with regs := Tab.drop s.regs fun a => base ≤ a && a < base + n }
/-- Page-table word of the leaf that maps a virtual address, by a walk that checks nothing. -/
def State.leafAt (s : State) (ctx va : Nat) : Option Nat :=
  let next (table i : Nat) : Option Nat :=
    let e := leNat (s.readDa (table + 8 * i) 8)
    if e.testBit 0 && !e.testBit 1 then some (pteAddr e) else none
  (((s.ctx ctx).root.bind fun t => next t (va / 2 ^ 39 % 512)).bind fun t => next t (va / 2 ^ 30 % 512)).bind
    fun t => (next t (va / 2 ^ 21 % 512)).map fun t => t + 8 * (va / 2 ^ 16 % 32)
/-- The walkers' caches drop the entry at an address (`07` R165, R167). -/
def State.dropWalked (s : State) (a : Nat) : State :=
  (Tab.keys s.clusters).foldl (fun s k => s.updCluster k fun x => { x with walked := x.walked.filter fun w => w.2.1 != a }) s
/-- A page-table word written by Yorek or a pool mover. -/
def State.putPte (s : State) (a e : Nat) : State := (s.writeDa a (leBytes 8 e)).dropWalked a
/-- A page move that ends without effect: the entry returns to the source (`07` R185). -/
def State.cancelMove (s : State) (m : PoolMove) : State :=
  match m.mover, s.leafAt m.ctx (2 ^ 16 * m.vpn) with
  | some _, some a =>
      let e := leNat (s.readDa a 8)
      if e.testBit 7 then s.putPte a (e - 128) else s
  | _, _ => s
/-- Page moves for which `p` holds end without effect, and so do the planned moves that wait for
their source pages. -/
def State.dropMoves (s : State) (p : PoolMove → Bool) : State :=
  let gone := s.moves.filter p
  let s := gone.foldl State.cancelMove s
  let s := { s with
    moves := s.moves.filter fun m => !p m && !(m.mover.isNone && gone.any fun g => g.src == m.dst)
    movWaits := s.movWaits.filter fun w => !gone.any fun m => m.ctx == w.2.1 && m.vpn == w.2.2 }
  gone.foldl (fun s m => s.statusAgain m.ctx) s
/-- A C-die after its reset (R484). -/
def State.clearDie (s : State) (d : Nat) : State :=
  let s := (List.range 8).foldl (fun s k => s.clearCluster (8 * d + k)) s
  let s := (s.dropMoves fun m => m.mover == some d).updTarget d fun t => { t with draining := false }
  { s.dropRegs (0x2000000 + d * 0x400000) 0x400000 with
    runAhead := Tab.set [] s.runAhead d []
    rekeyJobs := Tab.set {} s.rekeyJobs d {}
    retry := s.retry.filter fun r => initDie r.req.init != some d
    dramQ := s.dramQ.filter fun r => initDie r.init != some d && s.targetOf r.da != some d
    dramOut := s.dramOut.filter fun r => initDie r.init != some d && s.targetOf r.da != some d }

/-- The write-back of one level of an M-die's integrity cache (`16` R396). -/
def State.flushLevel (s : State) (m lvl : Nat) : State :=
  ((Tab.get [] s.dirty m).filter fun u => u / 2 ^ 40 == lvl).foldl (fun s u => s.writeBack m u) s
/-- The whole write-back, bottom level first, before the cache is reset. -/
def State.flushTree (s : State) (m : Nat) : State :=
  let s := (List.range 9).foldl (fun s l => s.flushLevel m l) s
  { s with intCache := Tab.set [] s.intCache m [] }
/-- A version has passed its end (`16` R399). -/
def State.versionEnd (s : State) : Bool := s.versions.any fun e => 2 ^ 56 - 1 < e.2

/-- An M-die after its reset (R485, R486): slots and parks are lost, and the retention store keeps
SWEEP and the record groups whose write was in flight. -/
def State.clearMdie (s : State) (m : Nat) : State :=
  let s := s.flushTree m
  let u := s.unit m
  let s := (s.dropMoves fun x => x.mover == some (8 + m)).updUnit m fun u => { u with slots := [], parks := [] }
  let s := (s.updTarget (8 + m) fun t => { t with draining := false }).updTarget (76 + m) fun t =>
    { t with draining := false }
  { s.dropRegs (regMddr m) 0x400000 with
    dramQ := s.dramQ.filter fun r => s.targetOf r.da != some (8 + m)
    dramOut := s.dramOut.filter fun r => s.targetOf r.da != some (8 + m)
    ras := { s.ras with issued := Tab.set [] s.ras.issued m ((u.slots.filter (·.writing)).map (·.rg)) } }

/-- A reset of a unit begins: its fence, its loss of contexts and what it clears (R480, R483–R486). -/
def State.resetUnit (s : State) (kind i : Nat) : State :=
  if s.dev != .ready || !s.unitFitted kind i || s.resetting kind i then s
  else
    let s := (s.resetLoses kind i).foldl (fun s c => s.lose c 0x1A) s
    let s := { s with ras := { s.ras with
      resets := s.ras.resets ++ [UnitReset.mk kind i true], unitCnt := min 65535 (s.ras.unitCnt + 1) } }
    match kind with
    | 0 => s.clearCore i
    | 1 => s.clearCluster i
    | 2 => s.clearDie i
    | _ =>
        let s := s.clearMdie i
        if s.versionEnd then s.halt 0x03 11 i else s
/-- CORE_RESET (R483): the reset of a core whose context is lost, or that holds none. -/
def execCoreReset (core : Fin 512) (s : State) : Out := .next (s.resetUnit 0 core)
/-- CLUSTER_RESET (R483). -/
def execClusterReset (cluster : Fin 64) (s : State) : Out := .next (s.resetUnit 1 cluster)
/-- CDIE_RESET (R484). -/
def execCdieReset (die : Fin 8) (s : State) : Out := .next (s.resetUnit 2 die)
/-- MDIE_RESET (R485). -/
def execMdieReset (m : Fin 4) (s : State) : Out := .next (s.resetUnit 3 m)

/-- RESET_FENCE_EXPIRY (R480): no request is left in the unit; a D-stack or the LPDDR6 of an M-die is
in self-refresh from here to the end of the reset. -/
def execResetFenceExpiry (kind : Fin 4) (i : Fin 512) (s : State) : Out :=
  .next { s with ras := { s.ras with resets := s.ras.resets.map fun r =>
    if r.kind = kind.val ∧ r.idx = i.val then { r with fence := false } else r } }

/-- The X-die asks the owner of every unit of the open step whose record groups lie on an M-die to send
it again (R461, R487): each record group of the step that is not yet written. -/
def State.askAgain (s : State) (m : Nat) (rgs : List Nat) : State :=
  { s with ras := { s.ras with resend := s.ras.resend ++ rgs.map fun r => (m, r) } }
/-- A unit is ready again: held requests may be reissued, and UNIT.RESET completes (R481). -/
def State.unitReady (s : State) (kind i : Nat) : State :=
  if !s.resetting kind i then s
  else
    let s := { s with ras := { s.ras with resets := s.ras.resets.filter fun r =>
      !(r.kind == kind && r.idx == i) } }
    s.completeAll (fun w => w == .unit kind i) stOk []
/-- UNIT_READY (R481). -/
def execUnitReady (kind : Fin 4) (i : Fin 512) (s : State) : Out :=
  .next (if kind = 3 then s else s.unitReady kind i)

/-- RESET_ESCALATION (R482): the class of the signature is a free value (log 17). -/
def execResetEscalation (kind : Fin 4) (i : Fin 512) (s : State) : Out :=
  .next (if !s.resetting kind i then s
    else
      let f := s.free 8
      let sig (u : UnitId) (s : State) : State :=
        s.record { cls := f.1.toNat, outcome := 2, ukind := u.kind, uidx := u.idx }
      let drop (s : State) : State := { s with ras := { s.ras with
        resets := s.ras.resets.filter fun r => !(r.kind == kind.val && r.idx == i.val) } }
      match kind.val with
      | 0 => (drop (sig ⟨0, i⟩ f.2)).resetUnit 1 (i / 8)
      | 1 => (drop (sig ⟨0, 8 * i⟩ f.2)).resetUnit 2 (i / 8)
      | 2 => (sig ⟨4, i⟩ f.2).halt 0x03 4 i
      | _ => (sig ⟨11, i⟩ f.2).halt 0x03 11 i)
/-- INTEGRITY_WRITEBACK_TIMEOUT (R485). -/
def execIntegrityWritebackTimeout (m : Fin 4) (s : State) : Out :=
  .next (if s.resetting 3 m then s.halt 0x03 11 m else s)

/-! ### Hang detection (R491–R495) -/

/-- PROGRESS_WATCHDOG (R491): suspended during the field test. -/
def execProgressWatchdog (core : Fin 512) (s : State) : Out :=
  .next (match s.works core with
    | some c => if (s.core core).run == .running then s.lose c 0x0C (some core.val) (s.core core).pc else s
    | none => s)
/-- An engine holds work: 0 a DMA engine, 1 a streaming engine, 2 a cluster walker, 3 an update unit,
4 a pool mover (R492). -/
def State.engineBusy (s : State) (kind i : Nat) : Bool :=
  match kind with
  | 0 => i < 192 && !(s.chains (i / 3) (i % 3)).isEmpty
  | 1 => i < 8 && (dieCores i).any fun n => (s.core n).wins.any fun w => w.filling && !w.arrived
  | 2 => i < 64 && (s.cluster i).held
  | 3 => i < 4 && (!(s.unit i).slots.isEmpty || !(s.unit i).parks.isEmpty)
  | _ => i < 12 && s.moves.any fun m => m.mover == some i
/-- NO_PROGRESS (R492): the engine's unit is reset. -/
def execNoProgress (kind : Fin 5) (i : Fin 192) (s : State) : Out :=
  .next (if s.dev != .ready || !s.engineBusy kind i then s
    else match kind.val with
    | 0 => s.resetUnit 1 (i / 3)
    | 1 => s.resetUnit 2 i
    | 2 => s.resetUnit 1 i
    | 3 => s.resetUnit 3 i
    | _ => if i.val < 8 then s.resetUnit 2 i else s.resetUnit 3 (i - 8))

/-- The module is powered: its main rails are up. -/
def State.powered (s : State) : Bool := s.dev != .off && s.dev != .auxOnly
/-- Yorek runs. -/
def State.yorekRuns (s : State) : Bool := s.dev != .off && !s.ras.yorekHeld
/-- HEARTBEAT (R493): only a write that changes the word counts. -/
def execHeartbeat (word : W64) (s : State) : Out :=
  .next (if s.yorekRuns then { s with ras := { s.ras with beat := word } } else s)
/-- Sheepdog trips (R494): a trip by its own Sentinel service holds Yorek in reset until the next
package reset (R495). -/
def State.trip (s : State) (code : Nat) : State :=
  if !s.yorekRuns || s.dev == .auxOnly then s
  else if s.ras.tripped then { s with ras := { s.ras with yorekHeld := true } }
  else
    let s := { s with dev := .sentinel, keys := s.keys.clear, ras := { s.ras with tripped := true } }
    (((s.quietPorts.record { cls := 0x0C, outcome := 4, ukind := 12 }).writeDump fun _ => 65536).loseAll
      0x1B).sentinel code
/-- HEARTBEAT_MISSED (R493, R494). -/
def execHeartbeatMissed (s : State) : Out := .next (s.trip 2)
/-- LOCKSTEP_MISMATCH (R493, R494). -/
def execLockstepMismatch (s : State) : Out := .next (s.trip 3)

end Sys2Proof.Machine
end

