-- ==== Sys2Proof/Machine/Memory.lean ====
section
/-! DEFINITION. The events of the memory system: requests at their targets, walks, swaps of access
tables, the KV pool, the bridle, scrubs and rekey jobs (`01` R15–R19, `07` R168–R187, `08` R193–R196,
`16` R397–R404). -/

namespace Sys2Proof.Machine

/-! ### Refusals and retries (`08` R194, R195, `21` R481) -/

/-- A target lies in a unit that resets: requests to it are held. -/
def State.targetDown (s : State) (t : Nat) : Bool :=
  if t < 8 then s.resetting 2 t
  else if t < 12 then s.resetting 3 (t - 8)
  else if t < 76 then s.resetting 1 (t - 12) || s.resetting 2 ((t - 12) / 8)
  else t < 80 && s.resetting 3 (t - 76)
/-- The target of an address lies in a unit that resets. -/
def State.downAt (s : State) (da : Nat) : Bool := ((s.targetOf da).map s.targetDown).getD false
/-- Two accesses touch a line of 64 B in common. -/
def sameLine (a n b m : Nat) : Bool := a / 64 ≤ (b + m - 1) / 64 && b / 64 ≤ (a + n - 1) / 64
/-- Bytes of a request. -/
def MemReq.size (r : MemReq) : Nat := if r.write then r.data.length else r.len
/-- A request stays in its issue queue behind an older one of its initiator to the same line (`02` R43) or to the same
bank: younger requests issue past it to other pseudo-channels and banks only (R195). -/
def State.behind (s : State) (older : List Refused) (r : Refused) : Bool :=
  older.any fun o => o.req.init == r.req.init &&
    (sameLine o.req.da o.req.size r.req.da r.req.size || ((s.dramBank r.req.da).isSome && s.dramBank o.req.da == s.dramBank r.req.da))
/-- A list without the first `n` of those that answer to `p`. -/
def dropFirst {α : Type} (p : α → Bool) : Nat → List α → List α
  | 0, l => l
  | _ + 1, [] => []
  | n + 1, x :: l => if p x then dropFirst p n l else x :: dropFirst p (n + 1) l
/-- A controller has issued the oldest `n` of its waiting requests to DRAM: they wait no more, and keep their tags (R193,
R195). -/
def State.issueDram (s : State) (da n : Nat) : State :=
  let p (r : MemReq) : Bool := s.controller r.da == s.controller da
  { s with dramQ := dropFirst p n s.dramQ, dramOut := s.dramOut ++ (s.dramQ.filter p).take n }
/-- The data or the acknowledgements of the oldest `n` requests of a controller that are out at DRAM have returned: they give
their tags back (R193). -/
def State.returnDram (s : State) (da n : Nat) : State :=
  { s with dramOut := dropFirst (fun r => s.controller r.da == s.controller da) n s.dramOut }
/-- An admitted request waits at its controller, counted by it. -/
def State.await (s : State) (x : Refused) : State :=
  match s.controller x.req.da with
  | none => s
  | some _ => { (if x.ticket.isSome then s.bumpQuota x.req.da 1 else s) with
      dramQ := s.dramQ ++ [{ x.req with len := x.req.size, data := [] }] }
/-- A request goes back to its place in its requester's issue queue. -/
def State.holdAt (s : State) (i : Nat) (x : Refused) : State := { s with retry := s.retry.insertIdx i x }
/-! ### A request at its target (`07` R168–R172) -/

/-- Window and offset of an aperture access that carries a context (`13` R327). -/
def State.apertureAt (s : State) (ctx da : Nat) : Nat × Nat :=
  match s.aperture.find? fun e => match e.2 with
      | some (c, b) => c == ctx && b ≤ da && da < b + 2 ^ 30
      | none => false with
  | some (w, _) => (w, da % 2 ^ 30)
  | none => (0, da % 2 ^ 30)
/-- An aperture access that reaches nothing: counted, with an event to the driver (`13` R329). -/
def State.apertureFail (s : State) (w off : Nat) : State :=
  (s.bumpAt regXhif (regXhif + 0x10) 1).devEvent 0x42 (at64 w 58 ||| w64 (off % 2 ^ 58))
/-- The context that an initiator of a context acts for: that of its entry, or of the cluster or the
learning binding that it belongs to where the address has no target. -/
def State.initCtx (s : State) (init ctx da : Nat) : Option Nat :=
  if carries init then some ctx
  else match s.targetOf da with
    | some t => let e := Tab.get {} (s.target t).initA init
        if e.v then some e.ctx else none
    | none => if init < 704 then (match initCluster init with
          | some k => if (s.cluster k).held then some (s.cluster k).ctx else none
          | none => none)
        else if init < 708 ∧ s.learn.bound then some s.learn.ctx else none
/-- The outcome of a denied access, by the kind of its initiator (R172). -/
def State.denyOutcome (s : State) (init ctx da : Nat) : State :=
  let s := s.denied da
  if 708 ≤ init ∧ init ≤ 723 then { s.bump (regPort (init - 708)) 14 1 with resp := [1] }
  else if init = 724 then s.apertureFail (s.apertureAt ctx da).1 (s.apertureAt ctx da).2
  else if init < 708 ∨ carries init then
    (match s.initCtx init ctx da with
    | some c => s.lose c 0x09 (if init < 512 then some init else none) (s.core init).pc
    | none => s)
  else s
/-- Bytes of a line in the tier of an address. -/
def State.lineSize (s : State) (da : Nat) : Nat := match s.space da with | .d _ => 64 | .sram _ _ => 64 | _ => 128
/-- The bytes of a line of context `c` as they are stored: ciphertext; zeros where the line has not been written
(`16` R385–R388). -/
def State.storedLine (s : State) (c line n : Nat) : List Byte :=
  if s.virgin line then List.replicate n 0 else s.sealLine c line (s.readDa line n)
/-- `n` stored bytes from a device address, without their MACs (`13` R328). -/
def State.storedBytes (s : State) (c da n : Nat) : List Byte :=
  let z := s.lineSize da
  (((List.range ((da + n + z - 1) / z - da / z)).flatMap fun i => s.storedLine c ((da / z + i) * z) z).drop (da % z)).take n
/-- An access through the aperture for a confidential context (`13` R328). -/
def State.veiled (s : State) (r : MemReq) : Bool := r.init == 724 && s.confidential r.ctx
/-- An access through the aperture waits while a move holds its page (`13` R329). -/
def State.moving (s : State) (r : MemReq) : Bool :=
  r.init == 724 && s.moves.any fun m => m.mover.isSome && m.src == r.da / 2 ^ 16
/-- A request is served: a read answers its bytes, a write is made; the owner's access to a pool page
stamps it and may post its promotion (R181, R184). -/
def State.serve (s : State) (r : MemReq) (c : Option Nat) : State :=
  let s := if r.write then { s.writeDa r.da r.data with resp := [] }
    else { s with resp := if s.veiled r then s.storedBytes r.ctx r.da r.len else s.readDa r.da r.len }
  let p := Tab.get {} s.pages (r.da / 2 ^ 16)
  if p.owner.isSome && p.owner == c && !r.walk then s.touchPool r.init (c.getD 0) (2 ^ 16 * p.vpn) r.da
  else s
/-- The request needs stored bytes: a read, or a write of part of a line (R174). -/
def State.needsLine (s : State) (r : MemReq) : Bool :=
  !r.write || !aligned r.da (s.lineSize r.da) || !aligned r.data.length (s.lineSize r.da)
/-- An admitted request checks its line and is served. -/
def State.access (s : State) (r : MemReq) (h : Health) : State :=
  let c := s.initCtx r.init r.ctx r.da
  if s.needsLine r then
    (match s.checkLine r.da (c.getD 0) h with
    | (true, s) => s.serve r c
    | (false, s) => { s with resp := [] })
  else s.serve r c
/-- No earlier request holds a request of the P-tier back (`11` R280). -/
def State.poolOrdered (s : State) (r : MemReq) : Bool :=
  match s.pmapAt r.da with
  | none => false
  | some e => !s.poolBusy e.node ((e.nbase + (r.da / 128 * 128 - e.base)) % 2 ^ 48)
      ((r.da + r.size + 127) / 128 - r.da / 128) r.write
/-- An admitted request of the P-tier, and a read of the H-tier, leave the module and end with their
response; one that finds no tag waits, and the wait is counted; any other is served (`11` R278, R279, `13` R330). -/
def State.leave (s : State) (x : Refused) (h : Health) (i : Nat) : State :=
  let r := x.req
  match s.space r.da with
  | .p => (match s.issuePool r r.acts with
      | some s => { s with resp := [] }
      | none => (if s.poolOrdered r then s.bumpCtx 27 r.acts 0 1 else s).holdAt i x)
  | .h =>
      if r.write then s.access r h
      else (match s.issueHost r r.acts with
        | some s' => if s'.pcie.reqs.length = s.pcie.reqs.length then s.access r h else { s'.keepHost r.da with resp := [] }
        | none => (s.bumpCtx 28 r.acts 0 1).holdAt i x)
  | _ => (s.await x).access r h
/-- A request of a link port comes from a node that the donation of its granule lists (`07` R180, `11` R282). -/
def State.listed (s : State) (r : MemReq) : Bool :=
  !(708 ≤ r.init && r.init ≤ 723) || s.donations.all fun e =>
    !e.2.covers r.da || e.2.nodes.contains (s.port (r.init - 708)).peer
/-- A request whose check loses its context. -/
def State.requestLost (s : State) (r : MemReq) (h : Health) (cause : Nat) : State :=
  if r.init = 724 then s.apertureFail (s.apertureAt r.ctx r.da).1 (s.apertureAt r.ctx r.da).2
  else if r.init < 708 ∨ carries r.init then
    (match s.initCtx r.init r.ctx r.da with
    | some c => s.lose c cause (if r.init < 512 then some r.init else none) (s.core r.init).pc
    | none => s)
  else s.access r h
/-- A request waits at its H-tier or pool line for an earlier one from this module (`07` R178, `11` R280). -/
def State.ordered (s : State) (r : MemReq) : Bool :=
  match s.space r.da with
  | .h => !s.hostBusy r.da r.size r.write
  | _ => true
/-- The context of an aperture access is LOST or ABORTING: its windows reach nothing (`14` R362 step 1). -/
def State.severed (s : State) (r : MemReq) : Bool :=
  r.init == 724 && ((s.ctx r.ctx).st == .lost || (s.ctx r.ctx).st == .aborting)
/-- A request at its target; one that has to wait goes to place `i` of the issue queues. A write through the aperture for a
confidential context is dropped and counted, in XHIF.DENYCNT (`13` R328, log 36). The access table comes first, then the
quotas of the controller, then the keys of the context (`15` R378) and the counters of `16` R398. -/
def State.atTarget (s : State) (x : Refused) (h : Health) (i : Nat) : State :=
  let r := x.req
  if s.severed r then s.apertureFail (s.apertureAt r.ctx r.da).1 (s.apertureAt r.ctx r.da).2
  else if s.downAt r.da || s.moving r || !s.ordered r then s.holdAt i x
  else if s.veiled r && r.write then s.bumpAt regXhif (regXhif + 0x10) 1
  else if !s.admits r.init r.ctx r.da r.write r.walk || !s.listed r then s.denyOutcome r.init r.ctx r.da
  else if !s.room x then (s.refuse x).1.holdAt i (s.refuse x).2
  else match s.check r.init r.acts r.da r.size r.write r.walk with
    | .ok s () => s.leave x h i
    | .lost s cause => s.requestLost r h cause
    | .wait s => s.holdAt i x
/-- A request takes a tag of its C-die, unless it holds one, and goes to its target; it waits in the issue queue while no
tag is free, or while an older request holds it back (`08` R193, R195, R196). -/
def State.launch (s : State) (x : Refused) (older : List Refused) (h : Health) (i : Nat) : State :=
  if s.behind older x then s.holdAt i x
  else if x.req.tag != 0 then s.atTarget x h i
  else match s.takeTag x.req.init x.req.acts with
    | none => (s.tagWait x.req.init x.req.acts).holdAt i x
    | some p => s.atTarget { x with req := { x.req with tag := p } } h i
/-- A fetch of the word at a virtual address is one that the core has reached in program order (`06` R131). -/
def State.fetches (s : State) (n c : Nat) (va : Nat) : Bool := s.issues n c && va / 8 == (s.core n).pc.toNat / 8
/-- TRANSLATION_WALK (`07` R162–R165): `acc` is 0 fetch, 1 read, 2 write. A fetch ahead of the program counter that faults has
no effect (`06` R131). -/
def execTranslationWalk (core : Fin 512) (va : W48) (acc : Fin 3) (s : State) : Out :=
  .next (match s.works core with
    | none => s
    | some c =>
        let a : Acc := if acc = 0 then .fetch else if acc = 1 then .read else .write
        match s.xlate core c (some (core / 8)) va.toNat a with
        | .ok s _ => s
        | .lost t cause => if acc = 0 && !s.fetches core c va.toNat then s else t.lose c cause (some core.val) (s.core core).pc
        | .wait s => s)

/-! ### Swaps of access tables (R171) -/

/-- The shadow copy of a target becomes active between two checks, and is then copied back; accesses admitted before
have numbers below `num`. -/
def Target.swap (k : Target) (num : Nat) : Target :=
  { k with initA := k.initS, ownA := k.ownS, draining := true, swapNum := num }
/-- ACCESS_TABLE_SWAP (R171). -/
def execAccessTableSwap (t : Fin 256) (s : State) : Out :=
  .next (if t.val < targetCount then s.updTarget t fun k => k.swap s.reqNum else s)
/-- An access that a target admitted before its last swap has not completed: a host read at the PCIe egress, a pool
request at a fabric egress. Any other access completes in the step that admits it. -/
def State.undrained (s : State) (t : Nat) : Bool :=
  if t = 80 then s.pcie.reqs.any fun r => r.num < (s.target t).swapNum
  else if 81 ≤ t ∧ t < 97 then s.poolReqs.any fun r => r.port == t - 81 && r.num < (s.target t).swapNum
  else false
/-- TARGET_DRAINED (R171): reported once every access admitted under the old table has completed. -/
def execTargetDrained (t : Fin 256) (s : State) : Out :=
  .next (if s.undrained t then s else s.updTarget t fun k => { k with draining := false })
/-- The unit that holds a target is reset: a C-die, an M-die or a cluster; an egress has none. -/
def State.resetTarget (s : State) (t : Nat) : State :=
  if t < 8 then s.resetUnit 2 t
  else if t < 12 then s.resetUnit 3 (t - 8)
  else if t < 76 then s.resetUnit 1 (t - 12)
  else if t < 80 then s.resetUnit 3 (t - 76)
  else s
/-- DRAIN_TIMEOUT (R171): the event, and the reset of the unit. -/
def execDrainTimeout (t : Fin 256) (s : State) : Out :=
  .next (if (s.target t).draining then (s.devEvent 0x44 (w64 t)).resetTarget t else s)

/-! ### The KV pool (R181–R186) -/

/-- Pages of the pool granules of a target. -/
def State.poolPages (s : State) (t : Nat) : List Nat :=
  ((s.target t).ownA.filter fun e => bit e.2 14 && !bit e.2 15).flatMap fun e =>
    (List.range 32).map fun i => 32 * e.1 + i
/-- Spill frames of a context: the 64 KiB pages of its H-tier windows, at most HS of them in use
(R182, log 18). -/
def State.spillPages (s : State) (c : Nat) : List Nat :=
  (s.hwins.filter fun e => e.2.v && e.2.ctx == c).flatMap fun e =>
    (List.range (2 ^ e.2.size / 2 ^ 16)).map fun i => e.2.base / 2 ^ 16 + i
/-- A page frame that holds nothing and to which no page is on its way. -/
def State.pageFree (s : State) (p : Nat) : Bool :=
  (Tab.get {} s.pages p).owner.isNone && !(s.moves.any fun m => m.dst == p) &&
    !s.scrubQ.any fun e => e.1 == p / 32
/-- Whether a page frame lies in a tier: 0 D, 1 L, 2 H. -/
def State.pageTier (s : State) (p : Nat) : Nat :=
  match s.space (2 ^ 16 * p) with
  | .d _ => 0
  | .l _ => 1
  | _ => 2
/-- The tier in which a page stands once the moves planned and running have landed. -/
def State.endTier (s : State) (p : Nat) : Nat :=
  match s.moves.find? fun m => m.src == p with
  | some m => s.pageTier m.dst
  | none => s.pageTier p
/-- Pages that a context holds in a tier; a page that moves counts where it goes, so that a ceiling and a floor hold for
promotions decided before an earlier one has landed (R184, log 18). -/
def State.holdsIn (s : State) (c tier : Nat) : Nat :=
  (s.pages.filter fun e => e.2.owner == some c && s.endTier e.1 == tier).length
/-- A time of the past as a number; one from before the count, which Tether has been set back from, is negative. -/
def State.past (s : State) (t : W64) : Int := if s.now.toNat < t.toNat then (t.toNat : Int) - 2 ^ 64 else t.toNat
/-- A page is untouched by unresolved work (R183): its stamp is older than the beginning of every unresolved speculative
task of its context. -/
def State.settled (s : State) (p : Nat) : Bool :=
  let x := Tab.get {} s.pages p
  match x.owner with
  | none => false
  | some c => (s.ctxCores c).all fun n => (s.core n).tasks.all fun t => !t.unresolved || x.stamp < s.past t.began / 2 ^ 16
/-- A page may be chosen for a move: none of it is planned or running, and R183 allows it. -/
def State.movable (s : State) (p : Nat) : Bool := !(s.moves.any fun m => m.src == p) && s.settled p
/-- The oldest page of a list: the lowest stamp, then the lowest page index (R183). -/
def State.oldest (s : State) (ps : List Nat) : Option Nat :=
  ps.foldl (fun b p => match b with
    | none => some p
    | some q => let x := (Tab.get {} s.pages p).stamp
        let y := (Tab.get {} s.pages q).stamp
        if x < y ∨ (x = y ∧ p < q) then some p else some q) none
/-- A page that moves, as planned. -/
def State.plan (s : State) (src dst : Nat) : PoolMove :=
  let x := Tab.get {} s.pages src
  { ctx := x.owner.getD 0, vpn := x.vpn, src := src, dst := dst }
/-- The lowest free spill frame of a context that still has spill pages (R182). -/
def State.freeSpill (s : State) (c : Nat) : Option Nat :=
  if (s.ctx c).kv.hs ≤ s.holdsIn c 2 then none else (s.spillPages c).find? fun p => s.pageFree p
/-- Where a page demoted from stack `d` goes: a free page of the nearest M-die, or the place of the
oldest eligible page there of a context above its floor with a free spill page. A context at its L
ceiling takes its own oldest page there (log 18), and so does a confidential context under strict partition (R186). The page
`keep` that is being promoted is no victim, and leaves its tier. Answers the frame and the move that frees it. -/
def State.demotion (s : State) (d c keep : Nat) : Option (Nat × List PoolMove) :=
  let frames := s.poolPages (8 + d / 2)
  let own := b2n ((Tab.get {} s.pages keep).owner == some c && s.endTier keep == 1)
  let full := (s.ctx c).kv.lc ≤ s.holdsIn c 1 - own
  match (if full then none else frames.find? fun p => s.pageFree p) with
  | some p => some (p, [])
  | none =>
      let ok (p : Nat) : Bool := match (Tab.get {} s.pages p).owner with
        | none => false
        | some o => p != keep && s.movable p && (s.freeSpill o).isSome &&
            if full || (s.pw.strict && s.confidential c) then o == c else (s.ctx o).kv.lf < s.holdsIn o 1
      (s.oldest (frames.filter ok)).bind fun p =>
        (s.freeSpill ((Tab.get {} s.pages p).owner.getD 0)).map fun h => (p, [s.plan p h])
/-- The moves of a promotion of page frame `p` of context `c` to stack `d` (R184, R186); none when it
has no victim. -/
def State.promotion (s : State) (c p d : Nat) : Option (List PoolMove) :=
  let frames := s.poolPages d
  let exchange (ok : Nat → Bool) : Option (List PoolMove) :=
    (s.oldest (frames.filter fun q => s.movable q && ok ((Tab.get {} s.pages q).owner.getD 0))).bind fun v =>
      (s.demotion d ((Tab.get {} s.pages v).owner.getD 0) p).map fun x => x.2 ++ [s.plan v x.1, s.plan p v]
  if (s.ctx c).kv.dc ≤ s.holdsIn c 0 then exchange fun o => o == c
  else match frames.find? fun q => s.pageFree q with
    | some q => some [s.plan p q]
    | none =>
        if s.pw.strict && s.confidential c then none
        else exchange fun o => (s.ctx o).kv.df < s.holdsIn o 0
/-- KV_PROMOTION (R184): a posted promotion is decided; a page that may not move keeps it posted. -/
def execKvPromotion (ctx : Fin 4096) (vpn : BitVec 32) (die : Fin 8) (s : State) : Out :=
  let x := (ctx.val, vpn.toNat, die.val)
  .next (match s.dev == .ready, s.promos.find? fun p => p.1 == x with
    | true, some (_, k) =>
      let done : State := { s with promos := s.promos.filter fun p => p.1 != x }
      (match s.pages.find? fun e => e.2.owner == some ctx.val && e.2.vpn == vpn.toNat with
      | none => done
      | some (p, _) =>
          if s.pageTier p = 0 then done
          else if !s.movable p then s
          else match s.promotion ctx p die with
            | none => { done with pressure := s.pressure + 1 }
            | some ms => { done with moves := s.moves ++ ms.map fun m => { m with stream := k } })
    | _, _ => s)
/-- The translations of a page leave the TLBs of a context's clusters and the micro-TLBs of their cores. -/
def State.dropTlb (s : State) (c : Nat) (p : TlbEntry → Bool) : State :=
  let s := (s.ctxClusters c).foldl (fun s k => s.updCluster k fun x => { x with tlb := x.tlb.filter fun e => !p e }) s
  (s.ctxCores c).foldl (fun s n => s.updCore n fun k => { k with utlb := k.utlb.filter fun e => !p e }) s
/-- A move begins: MOV is set and the TLBs drop the page (R185 step 1). -/
def State.startMove (s : State) (i a mover : Nat) (m : PoolMove) : State :=
  let e := leNat (s.readDa a 8)
  let s := (s.dropOwn fun r => r.da / 2 ^ 16 == m.src)
  let s := { s with moves := s.moves.set i { m with mover := some mover, num := s.reqNum } }
  (if e.testBit 7 then s else s.putPte a (e + 128)).dropTlb m.ctx fun x => !x.big && x.vpn == m.vpn
/-- POOL_MOVE (R185 step 1): a planned move begins once its destination is free and R183 still allows it, on a mover
with fewer than 4 moves. -/
def execPoolMove (mover : Fin 12) (ctx : Fin 4096) (vpn : BitVec 32) (s : State) : Out :=
  .next (match s.moves.findIdx? fun m => m.mover.isNone && m.ctx == ctx.val && m.vpn == vpn.toNat with
    | none => s
    | some i => match s.moves[i]? with
      | none => s
      | some m =>
        if s.dev != .ready || (Tab.get {} s.pages m.dst).owner.isSome || !s.settled m.src ||
            4 ≤ (s.moves.filter fun x => x.mover == some mover.val).length then s
        else match s.leafAt m.ctx (2 ^ 16 * m.vpn) with
          | none => s
          | some a => s.startMove i a mover m)
/-- An access to a page admitted before its move began has not completed (R185 step 2): a host read of a spill page, or a
committed paddock entry that has not drained. -/
def State.pageInUse (s : State) (m : PoolMove) : Bool :=
  (s.pcie.reqs.any fun r => r.num < m.num && r.da / 2 ^ 16 == m.src) ||
    (s.ctxCores m.ctx).any fun n => (s.core n).pad.any fun e => e.line / 1024 == m.src
/-- A move ends at its destination (R185 steps 3–5). -/
def State.landMove (s : State) (i : Nat) (m : PoolMove) : State :=
  let x := Tab.get {} s.pages m.src
  let up := s.pageTier m.dst = 0
  let s := s.writeDa (2 ^ 16 * m.dst) (s.readDa (2 ^ 16 * m.src) (2 ^ 16))
  let s := { s with
    pages := Tab.set {} (Tab.set {} s.pages m.dst x) m.src {}
    moves := s.moves.eraseIdx i
    movWaits := s.movWaits.filter fun w => !(w.2.1 == m.ctx && w.2.2 == m.vpn) }
  let s := match s.leafAt m.ctx (2 ^ 16 * m.vpn) with
    | none => s
    | some a =>
        let e := leNat (s.readDa a 8)
        s.putPte a (2 ^ 16 * m.dst + e % 128)
  (if up then s.bumpCtx 17 m.ctx m.stream 1 else s).statusAgain m.ctx
/-- POOL_MOVE_COMPLETE (R185): what checking the source's lines shows. -/
def execPoolMoveComplete (i : Nat) (health : Health) (s : State) : Out :=
  .next (match s.moves[i]? with
    | none => s
    | some m =>
        if s.dev != .ready || m.mover.isNone || s.pageInUse m then s
        else if s.majorEnd (2 ^ 16 * m.dst) (2 ^ 16) (if s.pageTier m.dst = 2 then 2 ^ 40 - 1 else 2 ^ 64 - 1) then s.queueRekey m.ctx
        else match s.checkLine (2 ^ 16 * m.src) m.ctx health with
          | (true, s) => s.landMove i m
          | (false, s) => s.dropMoves fun x => x == m)
/-- POOL_MOVE_ABORT (R185): a move that does not end within 2 ms. -/
def execPoolMoveAbort (i : Nat) (readable : Bool) (s : State) : Out :=
  .next (match s.moves[i]? with
    | none => s
    | some m =>
        if m.mover.isNone then s
        else
          let s := s.dropMoves fun x => x == m
          if readable then s else s.lineLost (2 ^ 16 * m.src))

/-! ### The bridle (`01` R15–R19, `16` R390) -/

/-- The dies of a bridle link, in the order of *Bridle links*: 0–7 C-dies, 8–11 M-dies, 12 the
X-die. -/
def bridleEnds (link : Nat) : Nat × Nat :=
  ([(0, 4), (1, 5), (2, 6), (3, 7), (1, 2), (5, 6), (0, 8), (1, 8), (2, 9), (3, 9), (4, 10), (5, 10), (6, 11),
    (7, 11), (12, 0), (12, 4), (12, 8), (12, 10)]).getD link (0, 0)
/-- Dies linked to a die; the X-die only where `x` holds (R15, R17). -/
def bridleNbrs (x : Bool) (a : Nat) : List Nat :=
  ((List.range 18).filterMap fun l =>
    let e := bridleEnds l
    if e.1 = a then some e.2 else if e.2 = a then some e.1 else none).filter fun b => x || b != 12
/-- Dies within `k` crossings of a die, by paths that end in the X-die at most where `x` holds. -/
def bridleReach (x : Bool) : Nat → Nat → List Nat
  | 0, a => [a]
  | k + 1, a => let r := bridleReach x k a
      (r ++ (r.filter fun b => b != 12 || b == a).flatMap (bridleNbrs x)).eraseDups
/-- Crossings of the shortest path from a die to another that does not pass through the X-die (R17). -/
def bridleDist (a b : Nat) : Nat := ((List.range 13).find? fun k => (bridleReach (b == 12) k a).contains b).getD 13
/-- The next die on the route from die `a` to die `b` (R17): on a shortest path; of equally short ones the path that
leaves a C-die across its own column, then the one to the lower-numbered C-die. -/
def bridleHop (a b : Nat) : Nat :=
  let ns := bridleNbrs (b == 12) a
  let best := ((ns.map fun n => bridleDist n b).min?).getD 13
  let l := ns.filter fun n => bridleDist n b == best
  if a < 8 && l.contains ((a + 4) % 8) then (a + 4) % 8 else (l.min?).getD b
/-- The route table that firmware loads at start (R17, log 54). -/
def bridleRoutes : Tab Nat :=
  (List.range 13).flatMap fun a => ((List.range 13).filter (· != a)).map fun b => (16 * a + b, bridleHop a b)
/-- A bridle message under way: class, source, destination, the die that holds it, and the message. -/
abbrev BridleMsg := Nat × Nat × Nat × Nat × W64
/-- The message is of a class, a source and a destination, and stands at a die. -/
def bridleAt (f : BridleIn) (die : Nat) (m : BridleMsg) : Bool :=
  m.1 == f.cls.val && m.2.1 == f.src.val && m.2.2.1 == f.dst.val && m.2.2.2.1 == die
/-- What a flit carries away from a die: the oldest message of its class, source and destination there, so that messages of
one class and pair stay in order (R18), and at its source the message sent, once none waits. -/
def State.bridleFront (s : State) (f : BridleIn) (die : Nat) : Option W64 :=
  match s.bridle.find? (bridleAt f die) with
  | some m => some m.2.2.2.2
  | none => if f.src.val = die then some f.w else none
/-- A message has crossed a link: it leaves the sending die, and waits at the receiving one unless it has arrived. Each
class has queues of its own, so that a response never waits behind a request (R18). -/
def State.bridleMove (s : State) (f : BridleIn) (send recv : Nat) (w : W64) : State :=
  { s with bridle := s.bridle.eraseP (bridleAt f send) ++ if recv = f.dst.val then [] else [(f.cls.val, f.src.val, f.dst.val, recv, w)] }
/-- A message whose flit failed stays at the sending die, to be asked for again. -/
def State.bridleKeep (s : State) (f : BridleIn) (send : Nat) (w : W64) : State :=
  if s.bridle.any (bridleAt f send) then s
  else { s with bridle := s.bridle ++ [(f.cls.val, f.src.val, f.dst.val, send, w)] }
/-- The payload of a flit on a link: under the keystream of the link, the direction and the flit count (`16` R390). -/
def State.bridleSeal (s : State) (link : Nat) (dir : Bool) (count : Nat) (w : W64) : W64 :=
  w ^^^ (Config.sm4 (Tab.get 0 s.keys.bridleKey (2 * link + b2n dir))
    (BitVec.ofNat 128 (link * 2 ^ 120 + b2n dir * 2 ^ 119 + count % 2 ^ 64)) >>> 64).setWidth 64
/-- Key of a flit on a link and direction, by its class, source and destination: of these one message at a time crosses. -/
def bridleKeyOf (link : Nat) (dir : Bool) (f : BridleIn) : Nat :=
  2 ^ 10 * (2 * link + b2n dir) + 2 ^ 8 * f.cls.val + 16 * f.src.val + f.dst.val
/-- The count of a flit on its first sending is the next of its link and direction; on a retry it keeps its own (`16`
R390). -/
def State.bridleCount (s : State) (link : Nat) (dir : Bool) (f : BridleIn) : Nat :=
  if Tab.get 0 s.ras.bridleRun (bridleKeyOf link dir f) = 0 then Tab.get 0 s.ras.bridleOk (2 * link + b2n dir)
  else Tab.get 0 s.ras.bridleSent (bridleKeyOf link dir f)
/-- A flit is on its link: its encrypted payload, and its count, which is taken on its first sending. -/
def State.bridleSend (s : State) (link : Nat) (dir : Bool) (f : BridleIn) (w : W64) : State :=
  let key := 2 * link + b2n dir
  let n := s.bridleCount link dir f
  let first := Tab.get 0 s.ras.bridleRun (bridleKeyOf link dir f) == 0
  { s with ras := { s.ras with
    bridleWire := Tab.set 0 s.ras.bridleWire key (s.bridleSeal link dir n w)
    bridleSent := Tab.set 0 s.ras.bridleSent (bridleKeyOf link dir f) n
    bridleOk := if first then Tab.set 0 s.ras.bridleOk key (n + 1) else s.ras.bridleOk } }
/-- The consecutive retries of a flit. -/
def State.setRun (s : State) (key n : Nat) : State :=
  { s with ras := { s.ras with bridleRun := Tab.set 0 s.ras.bridleRun key n } }
/-- BRIDLE_FLIT (R18, R19, `16` R390): `dir` false goes from the first die of the link to the second. Only a flit on its route
that has a message to carry travels. One with a bad CRC is asked for again and counted; one that fails after 8 retries halts
the module, and so does a flit count at its end. -/
def execBridleFlit (link : Fin 18) (dir : Bool) (f : BridleIn) (crc : Bool) (s : State) : Out :=
  let key := bridleKeyOf link dir f
  let send := if dir then (bridleEnds link).2 else (bridleEnds link).1
  let recv := if dir then (bridleEnds link).1 else (bridleEnds link).2
  let n := Tab.get 0 s.ras.bridleRun key
  .next (match s.bridleFront f send with
  | none => s
  | some w =>
    if s.dev != .ready || Tab.get 13 s.routes (16 * send + f.dst) != recv then s
    else if 2 ^ 64 - 1 ≤ s.bridleCount link dir f then s.halt 0x03 8 link
    else if crc then ((s.bridleSend link dir f w).setRun key 0).bridleMove f send recv w
    else if n < 8 then
      let t := ((s.bridleSend link dir f w).setRun key (n + 1)).bridleKeep f send w
      { t with ras := { t.ras with bridleRetry := Tab.upd 0 t.ras.bridleRetry recv (· + 1) } }
    else s.halt 0x03 8 link)

/-! ### Ownership and scrubs (`14` R362, `16` R403) -/

/-- Yorek swaps a target whose shadow it has written; DRAINED is awaited while an access admitted before is under way
(`07` R171). -/
def State.swapIn (s : State) (t : Nat) : State :=
  let s := s.updTarget t fun k => k.swap s.reqNum
  s.updTarget t fun k => { k with draining := s.undrained t }
/-- Owner words of a run of granules of a controller, written to its shadow table and swapped in (`07` R171). -/
def State.ownRun (s : State) (granule n : Nat) (own : BitVec 16) : State :=
  match s.controller (2 ^ 21 * granule) with
  | some t => (s.updTarget t fun k => { k with
      ownS := (List.range n).foldl (fun x i => Tab.set ownFree x (granule + i) own) k.ownS }).swapIn t
  | none => s
/-- Owner word of a granule. -/
def State.setOwn (s : State) (granule : Nat) (own : BitVec 16) : State := s.ownRun granule 1 own
/-- The entries of initiators at every target, written to the shadow tables and swapped in (`07` R170, R171). -/
def State.setInits (s : State) (is : List Nat) (e : InitEntry) : State :=
  (List.range targetCount).foldl (fun s t => (s.updTarget t fun k => { k with
    initS := is.foldl (fun x i => Tab.set {} x i e) k.initS }).swapIn t) s
/-- Granules that a context owns by itself, with their owner words. -/
def State.granulesOf (s : State) (c : Nat) : List (Nat × BitVec 16) :=
  (List.range 12).flatMap fun t => (s.target t).ownA.filter fun e => ownedBy e.2 c
/-- Every grant that a context holds on a fence ends (`14` R358). -/
def State.dropGrants (s : State) (c : Nat) : State :=
  (Tab.keys s.fences).foldl (fun s f =>
    if (s.fence f).grants.any fun g => g.ctx == c then
      s.updFence f fun k => ({ k with grants := k.grants.filter fun g => g.ctx != c } : Fence).reap
    else s) s
/-- A context whose abort has ended and whose last granule is FREE leaves its ID and the last of its grants, and the last of a
charter its JOBMEM slot (`14` R362 step 7, `15` R378). -/
def State.ctxGone (s : State) (c : Nat) : State :=
  if (s.ctx c).st == .aborting && (s.ctx c).abort == 6 && (s.granulesOf c).isEmpty then
    let chd := (s.ctx c).chd
    ({ s.dropGrants c with ctxs := Tab.set {} s.ctxs c {} } : State).dropJob chd
  else s
/-- The lines of a granule at zero, and in the L-tier every major counter raised and every minor
counter cleared, in counter lines that become dirty (R396). The MACs under the throwaway key are not kept: the metadata of
its lines reads as at reset (log 9). -/
def State.wipeGranule (s : State) (g : Nat) : State :=
  let s := s.wipeBytes g 1
  let s := { s with lineMeta := Tab.drop s.lineMeta fun l => l / 2 ^ 14 == g }
  match s.space (2 ^ 21 * g) with
  | .d c => s.bumpAt (regCdst c) (regCdst c + 0x838) (2 ^ 15)
  | .l m =>
      (({ s with
        major := (List.range 512).foldl (fun t i => Tab.upd 0 t (512 * g + i) (· + 1)) s.major
        lines := Tab.drop s.lines fun l => l / 2 ^ 14 == g }).markDirty m (2 ^ 21 * g % 2 ^ 39) (2 ^ 21)).bump (regMcry m) 6 (2 ^ 14)
  | _ => s
/-- A donated region whose last granule is FREE has ended (`07` R180). -/
def State.donationGone (s : State) (r : Nat) : State :=
  if s.scrubQ.any fun e => e.2 == 0x2000 + r then s
  else ({ s with donations := Tab.set {} s.donations r {} }).completeAll (fun w => w == MbxWait.donate r) stOk []
/-- GRANULE_SCRUB (R403): under a throwaway key, which the key DRBG must give. -/
def execGranuleScrub (granule : Nat) (s : State) : Out :=
  .next (match s.scrubQ.find? fun e => e.1 == granule with
    | none => s
    | some e =>
        if s.dev != .ready then s
        else match s.drawKey 128 with
          | none => s.keyRefused
          | some (_, s) =>
              let s := (s.wipeGranule granule).setOwn granule ownFree
              let s := { s with scrubQ := s.scrubQ.filter fun x => x.1 != granule }
              if e.2 < 4096 then s.ctxGone e.2
              else if 0x2000 ≤ e.2 then s.donationGone (e.2 - 0x2000)
              else s)

/-! ### Rekey (`16` R401) -/

/-- A line that the engine moves to epoch e + 1: one of the H-tier is stored again, under the counters and the key that it
then has (`putLine`). -/
def State.moveLine (s : State) (t da : Nat) : State :=
  if t < 8 then s.bumpAt (regCdst t) (regCdst t + 0x830) 1
  else
    let s := { s with
      lines := Tab.upd 0 s.lines (da / 128) fun x => if x = 0 then 0 else 1
      major := if da / 128 % 32 = 31 then Tab.set 0 s.major (da / 4096) 0 else s.major }
    if t < 12 then (s.markDirty (t - 8) (da % 2 ^ 39) 1).bump (regMcry (t - 8)) 5 1 else s
/-- REKEY_LINE (R401): the line at the boundary; the boundary passes a line that cannot be read. -/
def execRekeyLine (t : Fin 13) (health : Health) (s : State) : Out :=
  let j := Tab.get {} s.rekeyJobs t
  .next (if s.dev != .ready || !j.act || 2 ^ 48 ≤ j.b then s
    else
      let size := if t.val < 8 then 64 else 128
      let old := if t.val = 12 then s.plainLine j.b else []
      let x := match s.checkLine j.b j.ctx health with
        | (true, s) => (true, s.moveLine t j.b)
        | (false, s) => (false, s)
      let b := (x.2.nextHeld j.ctx t (j.b + size)).getD (2 ^ 48)
      let s := { x.2 with rekeyJobs := Tab.set {} x.2.rekeyJobs t ({ j with b := b } : RekeyJob) }
      if !(x.1 && t.val == 12) then s
      else if Tab.get 0 s.lines (j.b / 128) != 0 then s.putLine j.b old
      else if s.unitsWritten j.b then s.putUnits j.b else s)
/-- REKEY_JOB_COMPLETE (R401): a job whose boundary has passed the context's last line ends; with the
last of them the context takes its next epoch, and the engines drop the keys of the old one. -/
def execRekeyJobComplete (t : Fin 13) (s : State) : Out :=
  let j := Tab.get {} s.rekeyJobs t
  .next (if !j.act || j.b < 2 ^ 48 then s
    else
      let s := { s with rekeyJobs := Tab.set {} s.rekeyJobs t {} }
      let s := s.updCtx j.ctx fun k => match k.rekey with
        | none => k
        | some l =>
            let l := l.filter (· != t.val)
            if l.isEmpty then { k with rekey := none, epoch := k.epoch + 1 } else { k with rekey := some l }
      let k := s.ctx j.ctx
      (if k.rekey.isNone then s.purge fun x => x.1 == j.ctx && x.2.1 < k.epoch else s).startJob t)

end Sys2Proof.Machine
end

