-- ==== Sys2Proof/Machine/Keys.lean ====
section
/-! DEFINITION. The key ladder, the key slots, masking and the DRBGs (`15_keys`). -/

namespace Sys2Proof.Machine

/-! ### Slots (R373–R378) -/

/-- USE bits: derive, memory, sign, unwrap (R373). The bits of each kind are named in log 23. -/
def useDerive : Nat := 1
/-- Memory. -/
def useMemory : Nat := 2
/-- Sign. -/
def useSign : Nat := 4
/-- Unwrap. -/
def useUnwrap : Nat := 8

/-- Slot `i` is filled: PGEN is the parent's GEN, GEN stays, and the value is stored as two shares
under a fresh mask (R375, R379). -/
def State.fillSlot (s : State) (i : Nat) (k : KSlot) (value : BitVec 256) : State :=
  match s.mask 256 with
  | (r, s) => s.updKslot i fun old => { k with
      st := .valid, gen := old.gen, pgen := (if k.parent = i then old else s.kslot k.parent).gen
      s1 := r, s2 := value ^^^ r }
/-- The lowest EMPTY slot of those that Yorek allocates, 5–63 (R373, R375). -/
def State.emptySlot (s : State) : Option Nat :=
  ((List.range 59).map (· + 5)).find? fun i => (s.kslot i).st == .empty
/-- The JOBMEM slot of a charter, filled when it has none: K_JOB of R371. None when no slot is EMPTY, or the key engine refuses
to derive from slot 3 (R374). -/
def State.takeJob (s : State) (chd : BitVec 256) : Option (Nat × State) :=
  match s.jobSlot chd with
  | some i => some (i, s)
  | none => if !s.serves 3 0 then none else s.emptySlot.map fun i =>
      (i, s.fillSlot i { kind := 5, parent := 3, use := useDerive + useMemory, dev := true, chd := chd }
        (BitVec.ofNat 256 (kdf (s.kslot 3).value "STRELNO JOB MEM"
          (digBytes chd ++ beBytes 1 i ++ beBytes 3 (s.kslot i).gen) 256)))
/-- The words of a key slot's descriptor (R373). -/
def KSlot.words (k : KSlot) : List W64 :=
  let st := match k.st with | .empty => 0 | .valid => 1 | .orphan => 2 | .retired => 3
  [at64 st 62 ||| at64 k.kind 58 ||| at64 k.parent 52 ||| at64 k.pgen 28 ||| at64 k.gen 4 ||| w64 k.use,
   at64 k.ctx 52 ||| at64 (b2n k.dev) 51]
/-- KSLOT.QUERY (R373). -/
def execKslotQuery (c : MbxCall) (s : State) : Out :=
  .next (mailbox c (fun _ => { opc := 0x42, masks := [lowMask 6], names := [], ctxs := [], always := false
                               bad := false, free := true })
    (fun a s => (s, .done stOk (s.kslot (fld (argAt a 0) 5 0)).words)) s)
/-- SEC.STAT (R379–R384): source state, reseeds, sweeps, failed sweep starts, refusals. -/
def execSecStat (c : MbxCall) (s : State) : Out :=
  .next (mailbox c (fun _ => { opc := 0x43, masks := [], names := [], ctxs := [], always := false
                               bad := false, free := true })
    (fun _ s => (s, .done stOk [w64 (b2n s.keys.failed), w64 (s.keys.key.reseeds + s.keys.samp.reseeds),
      w64 s.keys.sweeps, w64 s.keys.failedSweeps, w64 s.keys.refusals])) s)

/-! ### Masking (R379) -/

/-- The shares of a slot take a fresh mask; the key stays. -/
def KSlot.remask (k : KSlot) (r : BitVec 256) : KSlot :=
  if k.st = .valid then { k with s1 := k.s1 ^^^ r, s2 := k.s2 ^^^ r } else k
/-- A sweep: the words of every slot, of every engine cache and of every port's key registers take a fresh mask from the key
DRBG, one draw for each of them; one that the DRBG gives no mask cannot be made and is counted. -/
def State.remask (s : State) : State :=
  let slots := (Tab.keys s.keys.slots).foldl (fun (r : Option State) i => r.bind fun s =>
    (s.drawKey 256).map fun d => d.2.updKslot i fun k => k.remask d.1) (some s)
  let caches := (List.range 12).foldl (fun (r : Option State) i => r.bind fun s =>
    (s.drawKey 128).map fun d =>
      { d.2 with keys := { d.2.keys with cacheMask := Tab.upd 0 d.2.keys.cacheMask i (· ^^^ d.1) } }) slots
  match (List.range 16).foldl (fun (r : Option State) p => r.bind fun s =>
      (s.drawKey 128).map fun d => d.2.updPort p fun k => { k with kmask := k.kmask ^^^ d.1 }) caches with
  | none => { s with keys := { s.keys with failedSweeps := s.keys.failedSweeps + 1 } }
  | some s => { s with keys := { s.keys with sweeps := s.keys.sweeps + 1 } }
/-- The key store runs: from the start that fills it to the end of power. -/
def State.keysUp (s : State) : Bool := s.dev == .ready || s.dev == .bootHold || s.dev == .starting
/-- KEY_REMASK (R379). -/
def execKeyRemask (s : State) : Out := .next (if s.keysUp then s.remask else s)
/-- REMASK_RETRY (R379): a sweep that could not start is tried again after 1 ms. -/
def execRemaskRetry (s : State) : Out := .next (if s.keysUp then s.remask else s)
/-- REMASK_STARVATION (R379): 1 s without a completed sweep. The signature names an X-die structure
(DEDUCED, log 17). -/
def execRemaskStarvation (s : State) : Out := .next (if s.dev == .ready then s.halt 0x03 10 0 else s)

/-! ### The sweeper, expiry and the DRBGs (R377–R383) -/

/-- SLOT_SWEEP (R377): a VALID slot whose chain fails becomes ORPHAN and then EMPTY with its GEN
raised. -/
def execSlotSweep (slot : Fin 64) (s : State) : Out :=
  .next (if (s.kslot slot).st == .valid && !s.usable 4 slot then s.invalidate slot else s)
/-- EPHEM_EXPIRY (R378): 60 s after an EPHEM slot was filled. -/
def execEphemExpiry (slot : Fin 64) (s : State) : Out :=
  .next (if (s.kslot slot).st == .valid && (s.kslot slot).kind == 6 then
      let s := s.invalidate slot
      { s with keys := { s.keys with nonces := s.keys.nonces.filter fun n => match n.eph with
          | some (i, _) => i != slot.val
          | none => true } }
    else s)
/-- DRBG_RESEED (R381, R382): 1 s since the last reseed. -/
def execDrbgReseed (sampling : Bool) (s : State) : Out :=
  let k := s.keys
  .next (if sampling then { s with keys := { k with samp := k.samp.reseed k.failed } }
    else { s with keys := { k with key := k.key.reseed k.failed } })
/-- ENTROPY_FAILURE (R380): the source is FAILED until the next start; the failure is logged, with a
class that the manual does not give (log 17), and raised as a device event. -/
def execEntropyFailure (s : State) : Out :=
  .next (if s.dev == .off || s.dev == .auxOnly || s.keys.failed then s
    else
      match ({ s with keys := { s.keys with failed := true } } : State).free 8 with
      | (f, s) => s.record { cls := f.toNat, outcome := 1, ukind := 10 })

end Sys2Proof.Machine
end

