-- ==== Sys2Proof/Machine/Contexts.lean ====
section
/-! DEFINITION. The mailbox commands on contexts, slots, queues, fences, events and counters, and the
queries (`14_contexts_queues_fences`, `25` R569, R571). -/

namespace Sys2Proof.Machine

/-- The first number from `i` on, at most `n` of them, for which `p` holds. -/
def firstOf (p : Nat → Bool) : Nat → Nat → Option Nat
  | 0, _ => none
  | n + 1, i => if p i then some i else firstOf p n (i + 1)
/-- CTX of argument word `w`, bits [11:0]. -/
def argCtx (a : List W64) (w : Nat) : Nat := fld (argAt a w) 11 0

/-! ### Creation and slots (R345–R347, `17` R422) -/

/-- The CHD of argument words W0–W3. -/
def argDig (a : List W64) (w : Nat) : BitVec 256 := digOf ((wordBytes ((a.drop w).take 4) ++ List.replicate 32 0).take 32)
/-- A context as CTX.CREATE makes it. -/
def newCtx (a : List W64) (img : List Byte) (key : Nat × Nat) (now : W64) : Ctx :=
  { st := .idle, chd := argDig a 0, cseed := argAt a 4
    jseed := if chFlag img 0 then wordAt img 3 else argAt a 5
    ls := fld (argAt a 6) 5 0, lsd := fld (argAt a 6) 21 6, dcookie := argAt a 8
    ring := { v := true, base := argAt a 7, log := fld (argAt a 6) 26 22, vec := fld (argAt a 6) 37 27 }
    keySlot := some key, phase := now }
/-- CTX.CREATE (R345): an argument out of range is BADCMD; the charter digest, the vector and the
charter's demand of strict partition are checked by Yorek; the ID is the lowest free one (log 22). -/
def execCtxCreate (c : MbxCall) (s : State) : Out :=
  .next (mailbox c (fun a => { opc := 0x02, masks := [allMask, allMask, allMask, allMask, allMask, allMask, lowMask 38, allMask, allMask]
                               names := [], ctxs := [], always := false, free := false
                               bad := 32 < fld (argAt a 6) 5 0 || fld (argAt a 6) 21 6 == 0 || fld (argAt a 6) 26 22 < 6 ||
                                 16 < fld (argAt a 6) 26 22 || !aligned (argAt a 7).toNat 4096 })
    (fun a s => match s.charter? (argDig a 0) with
      | none => (s, .refused 0)
      | some x =>
          if fld (argAt a 6) 37 27 < 16 then (s, .refused 0)
          else if (chFlag x.image 1 && !s.pw.strict) || (chFlag x.image 2 && !s.pw.sStatic) then (s, .refused 0)
          else match firstOf (fun i => !s.ctxLive i) 4096 0, s.takeJob x.chd with
            | some i, some (k, s) =>
                ({ s with ctxs := Tab.set {} s.ctxs i (newCtx a x.image (k, (s.kslot k).gen) s.now) }, .done stOk [w64 i])
            | _, _ => (s, .done stFull [])) s)
/-- A context's state changes: the status area is written (R349). -/
def State.setCtxState (s : State) (c : Nat) (st : CtxState) : State :=
  (s.updCtx c fun k => { k with st := st }).putStatus c
/-- SLOT.IN (R347): the lowest free slot (log 22). -/
def execSlotIn (c : MbxCall) (s : State) : Out :=
  .next (mailbox c (fun a => { opc := 0x04, masks := [lowMask 12], names := [(0, argCtx a 0)], ctxs := [argCtx a 0]
                               always := false, bad := false, free := false })
    (fun a s =>
      let i := argCtx a 0
      if (s.ctx i).st != .idle then (s, .refused 0)
      else match firstOf (fun j => (Tab.get none s.slots j).isNone) 48 0 with
        | none => (s, .done stFull [])
        | some j =>
            (({ s with slots := Tab.set none s.slots j (some i) }.updCtx i fun k => { k with slot := some j }).setCtxState i
              .resident, .done stOk [w64 j])) s)
/-- A context gives its slot up. -/
def State.freeSlot (s : State) (c : Nat) : State :=
  match (s.ctx c).slot with
  | some j => { s with slots := Tab.set none s.slots j none }.updCtx c fun k => { k with slot := none }
  | none => s
/-- Packets of a context are in progress. -/
def State.packetsOpen (s : State) (c : Nat) : Bool := (s.ctx c).queues.any fun q => !q.2.prog.isEmpty
/-- A context leaves its slot (R347). -/
def State.slotLeave (s : State) (c : Nat) : State := (s.freeSlot c).setCtxState c .idle
/-- A SLOT.OUT that waits on a context's packets, which have completed, ends. -/
def State.slotOutCheck (s : State) (c : Nat) : State :=
  if ((List.range 8).any fun h => (s.chan h).active && (s.chan h).wait == MbxWait.slotOut c) && !s.packetsOpen c then
    (s.slotLeave c).completeAll (fun w => w == MbxWait.slotOut c) stOk []
  else s
/-- SLOT.OUT is waiting: the queue processor takes no packet of the context (R347). -/
def State.leaving (s : State) (c : Nat) : Bool :=
  (List.range 8).any fun h => (s.chan h).active && (s.chan h).wait == MbxWait.slotOut c
/-- What holds a context in its slot: a cluster, the learning binding, a collective channel or an open
handoff channel (R347). -/
def State.tied (s : State) (c : Nat) : Bool :=
  !(s.ctxClusters c).isEmpty || (s.learn.bound && s.learn.ctx == c) ||
    (s.colls.any fun e => e.2.bound && e.2.ctx == c) ||
    s.handoffs.any fun e => e.2.isOpen && ((e.2.prodEnd && e.2.prod == c) || (e.2.consEnd && e.2.cons == c))
/-- SLOT.OUT (R347). -/
def execSlotOut (c : MbxCall) (s : State) : Out :=
  .next (mailbox c (fun a => { opc := 0x05, masks := [lowMask 12], names := [(0, argCtx a 0)], ctxs := [argCtx a 0]
                               always := false, bad := false, free := false })
    (fun a s =>
      let i := argCtx a 0
      if (s.ctx i).st != .resident then (s, .refused 0)
      else if s.tied i then (s, .done stBusy [])
      else if s.packetsOpen i then (s, .wait (.slotOut i))
      else (s.slotLeave i, .done stOk [])) s)
/-- SLOT_OUT_TIMEOUT (R347): the packets have not completed within 200 µs. -/
def execSlotOutTimeout (chan : Fin 8) (s : State) : Out :=
  .next (match (s.chan chan).active, (s.chan chan).wait with
    | true, .slotOut _ => s.complete chan stBusy 0 []
    | _, _ => s)

/-! ### Queues, watchdogs and rekeys (R350, `21` R491, `16` R401) -/

/-- QUEUE.CREATE (R350). -/
def execQueueCreate (c : MbxCall) (s : State) : Out :=
  .next (mailbox c (fun a => { opc := 0x06, masks := [lowMask 39, allMask], names := [(0, argCtx a 0)], ctxs := [argCtx a 0]
                               always := false, free := false
                               bad := fld (argAt a 0) 20 16 < 4 || 16 < fld (argAt a 0) 20 16 ||
                                 !aligned (argAt a 1).toNat 4096 })
    (fun a s =>
      let w := argAt a 0
      if ((s.ctx (argCtx a 0)).queue (fld w 15 12)).v then (s, .refused 0)
      else (s.updCtx (argCtx a 0) fun k => k.updQueue (fld w 15 12) fun _ =>
        { v := true, qlog := fld w 20 16, pri := fld w 22 21, qto := fld w 38 23, ring := argAt a 1 }, ok)) s)
/-- CTX.WDT (`21` R491): 1 to 65,535 ms. -/
def execCtxWdt (c : MbxCall) (s : State) : Out :=
  .next (mailbox c (fun a => { opc := 0x07, masks := [lowMask 28], names := [(0, argCtx a 0)], ctxs := [argCtx a 0]
                               always := false, bad := fld (argAt a 0) 27 12 == 0, free := false })
    (fun a s => (s.updCtx (argCtx a 0) fun k => { k with wdt := fld (argAt a 0) 27 12 }, ok)) s)
/-- CTX.REKEY (`16` R401): completes when queued; refused and counted at the last epoch (`15` R371). -/
def execCtxRekey (c : MbxCall) (s : State) : Out :=
  .next (mailbox c (fun a => { opc := 0x08, masks := [lowMask 12], names := [(0, argCtx a 0)], ctxs := [argCtx a 0]
                               always := false, bad := false, free := false })
    (fun a s => if 2 ^ 32 - 1 ≤ (s.ctx (argCtx a 0)).epoch then (s.keyRefused, .refused 0)
      else (s.queueRekey (argCtx a 0), ok)) s)

/-! ### Fences (R355–R358) -/

/-- The lowest fence that is not allocated; fence 0 never is (log 22). -/
def State.freeFence (s : State) : Option Nat := firstOf (fun i => !(s.fence i).v) 65535 1
/-- FENCE.ALLOC (R355). -/
def execFenceAlloc (c : MbxCall) (s : State) : Out :=
  .next (mailbox c (fun a => { opc := 0x09, masks := [lowMask 13], names := [(0, argCtx a 0)], ctxs := [argCtx a 0]
                               always := false, bad := false, free := false })
    (fun a s => match s.freeFence with
      | none => (s, .done stFull [])
      | some i => (s.updFence i fun _ => { v := true, owner := some (argCtx a 0), host := bit (argAt a 0) 12 },
          .done stOk [w64 i])) s)
/-- Something waits on a fence: a core, a window, a packet or a channel (R357). -/
def State.waited (s : State) (f : Nat) : Bool :=
  (s.cores.any fun e =>
    (match e.2.stall with
      | .no => false
      | .fence i _ => i == f
      | .task h _ => h.ins.any fun x => x.1 == f) ||
    (e.2.tasks.any fun t => t.unresolved && t.hdr.vfid == f) ||
    e.2.wins.any fun w => w.wv && !w.filling && w.wfid == f) ||
  (s.ctxs.any fun e => e.2.queues.any fun q => q.2.waitF == some f) ||
  (s.colls.any fun e => e.2.bound && e.2.pf == f) ||
  s.handoffs.any fun e => e.2.isOpen && ((e.2.prodEnd && e.2.pfid == f) || (e.2.consEnd && e.2.rfid == f))
/-- The owner of a fence as a list, for the states that its commands obey. -/
def State.fenceOwner (s : State) (f : Nat) : List Nat :=
  match (s.fence f).v, (s.fence f).owner with
  | true, some c => [c]
  | _, _ => []
/-- FENCE.RESET (R357). -/
def execFenceReset (c : MbxCall) (s : State) : Out :=
  .next (mailbox c (fun a => { opc := 0x0A, masks := [lowMask 16]
                               names := (1, fld (argAt a 0) 15 0) :: (s.fenceOwner (fld (argAt a 0) 15 0)).map fun i => (0, i)
                               ctxs := s.fenceOwner (fld (argAt a 0) 15 0), always := false, bad := false, free := false })
    (fun a s =>
      let f := fld (argAt a 0) 15 0
      if (s.fenceOwner f).isEmpty then (s, .done stNoctx [])
      else if s.waited f then (s, .done stBusy [])
      else (s.updFence f fun k => { k with val := 0, stat := 0 }, ok)) s)
/-- A channel entry of one charter names another in PEER with a record size (`17` R406, R421). -/
def peerEntries (img : List Byte) (peer : BitVec 256) : List Nat :=
  ((List.range (chNchn img)).filter fun i => digOf ((img.drop (chChan img i + 8)).take 32) == peer).map fun i =>
    leAt img (chChan img i + 4) 4
/-- Two charters declare a channel between them: each names the other with the same RSIZE (R358,
`17` R421). -/
def State.declared (s : State) (a b : BitVec 256) : Bool :=
  match s.charter? a, s.charter? b with
  | some x, some y => (peerEntries x.image b).any fun r => (peerEntries y.image a).contains r
  | _, _ => false
/-- FENCE.SHARE (R358): up to 4 grants; a grant to a context that holds one replaces it (log 22). -/
def execFenceShare (c : MbxCall) (s : State) : Out :=
  .next (mailbox c (fun a => { opc := 0x0B, masks := [lowMask 30]
                               names := (1, fld (argAt a 0) 15 0) :: (0, fld (argAt a 0) 27 16) ::
                                 (s.fenceOwner (fld (argAt a 0) 15 0)).map fun i => (0, i)
                               ctxs := s.fenceOwner (fld (argAt a 0) 15 0), always := false, bad := false, free := false })
    (fun a s =>
      let w := argAt a 0
      let f := fld w 15 0
      let g := fld w 27 16
      match s.fenceOwner f with
      | [] => (s, .done stNoctx [])
      | o :: _ =>
          if !s.ctxLive g then (s, .done stNoctx [])
          else if (s.ctx o).chd != (s.ctx g).chd && !s.declared (s.ctx o).chd (s.ctx g).chd then (s, .refused 0)
          else
            let others := (s.fence f).grants.filter fun x => x.ctx != g
            if 4 ≤ others.length then (s, .done stFull [])
            else (s.updFence f fun k => { k with grants := others ++ [{ ctx := g, w := bit w 28, s := bit w 29 }] }, ok)) s)
/-- FENCE.UNSHARE (R358): whether or not the owner still exists. -/
def execFenceUnshare (c : MbxCall) (s : State) : Out :=
  .next (mailbox c (fun a => { opc := 0x0C, masks := [lowMask 28]
                               names := [(1, fld (argAt a 0) 15 0), (0, fld (argAt a 0) 27 16)], ctxs := []
                               always := false, bad := false, free := false })
    (fun a s =>
      let f := fld (argAt a 0) 15 0
      let g := fld (argAt a 0) 27 16
      if !(s.fence f).v || !((s.fence f).grants.any fun x => x.ctx == g) then (s, .done stNoctx [])
      else (s.updFence f fun k => ({ k with grants := k.grants.filter fun x => x.ctx != g } : Fence).reap, ok)) s)

/-! ### Events and counters (R360, `17` R423) -/

/-- DEVEVT.SET (R360): the rings of contexts give the range of EVLOG (log 22). -/
def execDevevtSet (c : MbxCall) (s : State) : Out :=
  .next (mailbox c (fun a => { opc := 0x0D, masks := [lowMask 9, allMask], names := [], ctxs := [], always := false, free := false
                               bad := fld (argAt a 0) 8 4 < 6 || 16 < fld (argAt a 0) 8 4 || !aligned (argAt a 1).toNat 4096 })
    (fun a s => ({ s with devRing :=
        { v := true, base := argAt a 1, log := fld (argAt a 0) 8 4, vec := fld (argAt a 0) 3 0 } }, ok)) s)
/-- The counters of a context as the operator may see them (`17` R423, R424): those of a confidential
context without FULL stand as its last phase left them. -/
def State.shown (s : State) (c : Nat) : Tab W64 := if s.full c then s.countersOf c else (s.ctx c).snap
/-- The contexts over which the operator's counters are summed: the context's charter, unless it is not
confidential or its charter grants PCTX or FULL. -/
def State.summed (s : State) (c : Nat) : List Nat :=
  if s.full c || s.prof c 0 then [c]
  else (Tab.keys s.ctxs).filter fun i => s.ctxLive i && (s.ctx i).chd == (s.ctx c).chd
/-- One counter of a stream or channel, summed over every stream of the contexts where the operator may
not see streams (PSTREAM); the records of a channel are always its own (R423, `10` R252). -/
def State.cntOf (s : State) (c kind stream : Nat) : W64 :=
  let one (t : Tab W64) : W64 :=
    if s.full c || s.prof c 1 || kind == 20 || kind == 40 then Tab.get 0 t (1000 + 256 * kind + stream)
    else ((List.range 256).map fun i => Tab.get 0 t (1000 + 256 * kind + i)).sum
  ((s.summed c).map fun i => one (s.shown i)).sum
/-- CNT.READ (`17` R423): sets 0 cores, 1 window streams, 2 generation streams, 3 channels, in the order
of `25` R564, `08` R206, `10` R256 and `10` R252. -/
def execCntRead (c : MbxCall) (s : State) : Out :=
  .next (mailbox c (fun a => { opc := 0x0E, masks := [lowMask 24], names := [(0, argCtx a 0)], ctxs := [argCtx a 0]
                               always := false, bad := 3 < fld (argAt a 0) 15 12, free := false })
    (fun a s =>
      let i := argCtx a 0
      let k := fld (argAt a 0) 23 16
      (s, .done stOk (match fld (argAt a 0) 15 12 with
        | 0 => (List.range 24).map fun n => ((s.summed i).map fun j => Tab.get 0 (s.shown j) n).sum
        | 1 => (List.range 7).map fun n => s.cntOf i n k
        | 2 => (List.range 7).map fun n => s.cntOf i (12 + n) k
        | _ => (List.range 3).map fun n =>
            s.cntOf i (20 + n) k + if (s.summed i).length ≤ 1 then s.cntOf i (40 + n) k else 0))) s)

/-! ### Queries (R365): the order of the result words is log 22 -/

/-- Result words that the operator may see; the baseline of *Profiling rights* does not grant those of a fence or a queue of a
confidential context, which then read zero (`17` R423, log 22). -/
def granted (seen : Bool) (l : List W64) : List W64 := if seen then l else l.map fun _ => 0
/-- Core clock of an operating point in MHz (`23` R515). -/
def opMhz (n : Nat) : Nat := ([0, 1100, 1000, 900, 800, 700, 600] : List Nat).getD n 0
/-- Operating point of a C-die; 0 for the disabled one. -/
def State.opOf (s : State) (d : Nat) : Nat := if s.dieFitted d then Tab.get 1 s.pw.op d else 0
/-- A signed temperature as a word. -/
def tempWord (t : BitVec 16) : W64 := t.signExtend 64
/-- Temperatures in their order: C-dies, D-stacks, M-dies, X-die and inlet. -/
def State.temps (s : State) : List W64 :=
  ((List.range 8).map fun i => tempWord (Tab.get 0 s.pw.tj i)) ++
    ((List.range 8).map fun i => tempWord (Tab.get 0 s.pw.td i)) ++
    ((List.range 4).map fun i => tempWord (Tab.get 0 s.pw.mtj i)) ++ [tempWord s.pw.xtj, tempWord s.pw.inlet]
/-- Lock state of Tether as a code (`12` R307). -/
def TetState.code : TetState → Nat
  | .unset => 0
  | .locked => 1
  | .holdover => 2
  | .unlocked => 3
/-- Granules of a context at a unit, and its bytes in windows (`07` R187). -/
def State.ledger (s : State) (c : Nat) : List W64 :=
  let kv := (s.ctx c).kv
  let pool (t : Nat) : W64 := if s.full c then w64 (s.pages.filter fun e => e.2.owner == some c && s.pageTier e.1 == t).length
    else 0
  ((List.range 12).map fun t => w64 ((s.target t).ownA.filter fun e => ownedBy e.2 c).length) ++
    [w64 kv.df, w64 kv.dc, pool 0, w64 kv.lf, w64 kv.lc, pool 1, w64 kv.hs, pool 2,
     w64 ((s.hwins.filter fun e => e.2.v && e.2.ctx == c).map fun e => 2 ^ e.2.size).sum,
     w64 ((s.poolMap.filter fun e => e.2.v && e.2.ctx == c).map fun e => 2 ^ e.2.size).sum]
/-- Bytes of STAGE for P parameters and NMIN members: ⌈U / NMIN⌉ units of 772 B, rounded up to 2 MiB,
with U units of 128 parameters (`12` R298). -/
def stageBytes (p nmin : Nat) : Nat := ceilDiv (ceilDiv (ceilDiv p 128) nmin * 772) (2 ^ 21) * 2 ^ 21
/-- A fence's words. -/
def Fence.words (k : Fence) : List W64 :=
  [k.val, w64 k.stat, match k.owner with | some c => w64 c | none => 0xFFFF, w64 (b2n k.host)] ++
    k.grants.map fun g => w64 g.ctx ||| at64 (b2n g.w) 12 ||| at64 (b2n g.s) 13
/-- A queue's words: HEAD, TAIL, packets in progress and the milliseconds of its timer. -/
def Queue.words (q : Queue) (now : W64) : List W64 :=
  [w64 q.head.toNat, w64 q.tail.toNat, w64 q.prog.length,
   match q.since with | some t => w64 ((now - t).toNat / 1000000) | none => 0]
/-- The answer of QUERY. Rail currents are free values (log 1). -/
def State.query (s : State) (code obj : Nat) (w1 w2 : W64) : State × Reply :=
  match code with
  | 0x01 => (s, .done stOk (((List.range 8).map fun d => w64 (s.opOf d)) ++
      ((List.range 8).map fun d => w64 (opMhz (s.opOf d))) ++ [w64 s.boot.rate, 2000]))
  | 0x02 => (s, .done stOk (s.temps ++ [w64 (((List.range 8).map fun d =>
      if Tab.get false s.pw.dbl d then 2 ^ d else 0).sum)]))
  | 0x03 => match s.free 64 with
      | (r, s) => (s, .done stOk [w64 s.pw.pwr, w64 s.pw.cap, r])
  | 0x04 => (s, .done stOk [s.now, w64 s.tet.st.code, s.tet.ptmH, s.tet.ptmT])
  | 0x05 => (s, .done stOk [w64 (4096 - (s.ctxs.filter fun e => e.2.st != .free).length),
      w64 (48 - (s.slots.filter fun e => e.2.isSome).length), w64 (65535 - (s.fences.filter fun e => e.2.v).length),
      w64 (256 - (s.handoffs.filter fun e => e.2.isOpen).length), w64 (4 - s.herds.length),
      w64 (4096 - (s.hwins.filter fun e => e.2.v).length),
      match s.code with | .s7x2t0f16 d => w64 d.val | _ => 0xF, w64 (3 * 2 ^ 30)])
  | 0x06 => (s, if s.ctxLive obj then .done stOk (s.ledger obj) else .done stNoctx [])
  | 0x07 =>
      let k := s.ctx obj
      let seen (x : W64) : W64 := if s.full obj then x else 0
      (s, if !s.ctxLive obj then .done stNoctx [] else .done stOk
        [w64 k.st.code, match k.slot with | some j => w64 j | none => 0xFFFF, w64 k.cause, w64 (k.core.getD 0),
         seen (w64 k.lpc.toNat), w64 (b2n (4 ≤ k.abort)), seen (w64 k.stale), seen (w64 k.skipped),
         w64 (b2n (k.core.isNone && k.cause != 0))])
  | 0x08 => (s, if w2.toNat < 1 ∨ 4096 < w2.toNat then .done stBadcmd [] else .done stOk [w64 (stageBytes w1.toNat w2.toNat)])
  | 0x09 =>
      let h := s.handoff obj
      (s, if !h.isOpen && h.broken.isNone then .done stNoctx []
        else .done stOk [if h.broken.isSome then 2 else 1, w64 h.last, w64 (h.broken.getD 0)])
  | 0x0A =>
      let f := s.fence (fld w1 15 0)
      (s, if f.v then .done stOk (granted (f.owner.all s.full) f.words) else .done stNoctx [])
  | _ =>
      let q := (s.ctx obj).queue (fld w1 3 0)
      (s, if s.ctxLive obj && q.v then .done stOk (granted (s.full obj) (q.words s.now)) else .done stNoctx [])
/-- QUERY (R365). -/
def execQuery (c : MbxCall) (s : State) : Out :=
  .next (mailbox c (fun a =>
    let code := fld (argAt a 0) 7 0
    { opc := 0x01, masks := [0x0FFF00FF, allMask, allMask], ctxs := [], always := code ≤ 5, free := true
      names := if code = 6 ∨ code = 7 ∨ code = 0x0B then [(0, fld (argAt a 0) 27 16)]
        else if code = 9 then [(3, fld (argAt a 0) 27 16)]
        else if code = 0x0A then [(1, fld (argAt a 1) 15 0)] else []
      bad := code == 0 || 0x0B < code })
    (fun a s => s.query (fld (argAt a 0) 7 0) (fld (argAt a 0) 27 16) (argAt a 1) (argAt a 2)) s)

end Sys2Proof.Machine
end

