-- ==== Sys2Proof/Machine/Packets.lean ====
section
/-! DEFINITION. Command packets, doorbells and MSI-X messages (`13` R333, `14` R350–R354, R359–R363). -/

namespace Sys2Proof.Machine

/-! ### The queue processor (R350–R354, R363) -/

/-- The context that holds a resident slot. -/
def State.slotCtx (s : State) (slot : Nat) : Option Nat := Tab.get none s.slots slot
/-- The host may signal a fence through a context (R359). -/
def State.hostSignal (s : State) (c f : Nat) : Bool := (s.fence f).host && s.maySignal c f
/-- The checks of R354 on a packet's words: `unused` are the operands that must be zero. -/
def State.packetBad (s : State) (c opc : Nat) (w : List W64) (unused : List Nat) : Bool :=
  let w0 := argAt w 0
  fld w0 63 56 != opc || fld w0 51 32 != 0 || (unused.any fun i => argAt w i != 0) ||
    (bit w0 55 && !s.mayWait c (fld w0 31 16)) || (bit w0 54 && !s.hostSignal c (fld w0 15 0))
/-- Packets that wait in a queue. -/
def Queue.ready (q : Queue) : Bool := q.v && q.head != q.tail && q.prog.length < 4
/-- A snapshot of a context is being written: its packets wait, and no core starts (`19` R454). -/
def State.snapping (s : State) (c : Nat) : Bool := s.ckpts.any fun w => w.cls == 1 && w.ctx == c
/-- The packet at the HEAD of a queue can be taken: it has not been found to wait, or what it waited for has come. -/
def State.startable (s : State) (c : Nat) (q : Queue) : Bool :=
  q.ready && (!q.waiting || ((q.waitF.all fun f => s.reached f q.waitV) && (!q.waitB || q.prog.isEmpty) && !s.snapping c))
/-- The place of a queue in the turn of its priority, behind the queue served last (R353; the order of the turn is a DESIGN
CHOICE, log 25). -/
def turnOf (last c qn : Nat) : Nat := (16 * c + qn + 65536 - last) % 65536
/-- A queue of a resident context goes before queue `qn` of context `c`: one of a higher priority, or one of its own whose turn
comes first, with a packet that can be taken (R353). -/
def State.outranked (s : State) (c qn : Nat) : Bool :=
  let pri := ((s.ctx c).queue qn).pri
  let last := Tab.get 0 s.turn pri
  s.ctxs.any fun e => e.2.st == .resident && !s.leaving e.1 && e.2.queues.any fun q =>
    s.startable e.1 q.2 && (pri < q.2.pri || (q.2.pri == pri && turnOf last e.1 q.1 < turnOf last c qn))
/-- The packet at HEAD may not start yet: it waits for its fence, or for every earlier packet (R353). -/
def State.packetWaits (s : State) (q : Queue) (w0 w1 : W64) : Bool :=
  (bit w0 55 && !s.reached (fld w0 31 16) w1) || (bit w0 52 && !q.prog.isEmpty)
/-- The packet of a LOST context is consumed without effect (R363). -/
def State.consume (s : State) (c qn : Nat) (w : List W64) : State :=
  let w0 := argAt w 0
  let n := ((s.ctx c).queue qn).head
  let s := s.updCtx c fun k => k.updQueue qn fun q => { q with head := q.head + 1, waiting := false, waitF := none }
  let f := s.fence (fld w0 15 0)
  let s := if bit w0 54 && f.v && f.owner.isSome && f.owner != some c then s.signal (fld w0 15 0) (argAt w 2) 2 else s
  if bit w0 53 then s.event c 2 (argAt w 3) (at64 qn 60 ||| w64 n.toNat) else s
/-- A packet is taken and starts: HEAD moves, and the packet is in progress. -/
def State.begin (s : State) (c qn opc : Nat) (w : List W64) (cores : List Nat) : State :=
  let w0 := argAt w 0
  ({ s with turn := Tab.set 0 s.turn ((s.ctx c).queue qn).pri (16 * c + qn + 1) } : State).updCtx c fun k => k.updQueue qn fun q => { q with
    head := q.head + 1, waiting := false, waitF := none
    since := if q.prog.isEmpty && q.since.isNone then some s.now else q.since
    prog := q.prog ++ [{ n := q.head.toNat, opc := opc, sig := if bit w0 54 then some (fld w0 15 0, argAt w 2) else none
                         ev := bit w0 53, cookie := argAt w 3, w := w.drop 4, cores := cores }] }
/-- A packet that the queue processor reads at the HEAD of a queue. The context is that of the slot; a
malformed packet loses it with cause code 0x13 (R354), and `bad` adds the checks of its operation. -/
def packet (p : Pkt) (opc : Nat) (unused : List Nat) (bad : Nat → State → Bool)
    (start : Nat → State → State) (s : State) : State :=
  match s.slotCtx p.slot with
  | none => s
  | some c =>
    let q := (s.ctx c).queue p.queue
    if s.dev != .ready || !q.v || q.head == q.tail then s
    else if (s.ctx c).st = .lost then s.consume c p.queue p.w
    else if !s.resident c || s.leaving c || 4 ≤ q.prog.length || s.outranked c p.queue then s
    else if s.packetBad c opc p.w unused || bad c s then s.lose c 0x13
    else if s.packetWaits q (argAt p.w 0) (argAt p.w 1) || s.snapping c then
      s.updCtx c fun k => k.updQueue p.queue fun q => { q with
        waiting := true, waitF := if bit (argAt p.w 0) 55 then some (fld (argAt p.w 0) 31 16) else none
        waitV := argAt p.w 1, waitB := bit (argAt p.w 0) 52 }
    else start c s
/-- The oldest uncompleted packet of a queue has a new timer, when there is one (R354): a packet counts
once TAIL announces it (log 25). -/
def Queue.retime (q : Queue) (now : W64) : Queue :=
  { q with since := if q.prog.isEmpty && q.head == q.tail then none else some now }
/-- Packet `i` in progress completes: the signal, the PACKET event, and a SLOT.OUT that waited (R353). -/
def State.packetDone (s : State) (c qn i : Nat) (x : Packet) : State :=
  let s := s.updCtx c fun k => k.updQueue qn fun q =>
    let r := { q with prog := q.prog.eraseIdx i, waiting := false }
    if i = 0 then Queue.retime r s.now else r
  let s := match x.sig with
    | some (f, v) => s.signal f v 0
    | none => s
  let s := if x.ev then s.event c 1 x.cookie (at64 qn 60 ||| w64 x.n) else s
  s.slotOutCheck c
/-- NOP (R352): completes when it starts. -/
def execNop (p : Pkt) (s : State) : Out :=
  .next (packet p 0x00 [4, 5, 6, 7] (fun _ _ => false) (fun c s =>
    let i := ((s.ctx c).queue p.queue).prog.length
    let s := s.begin c p.queue 0 p.w []
    match ((s.ctx c).queue p.queue).prog[i]? with
    | some x => s.packetDone c p.queue i x
    | none => s) s)
/-- Clusters of a mask. -/
def maskBits (w : W64) : List Nat := (List.range 64).filter fun k => bit w k
/-- A follower of a redundant pair, which the leader stands for (`20` R469). -/
def State.follower (s : State) (n : Nat) : Bool := (s.cluster (n / 8)).red && n % 2 == 1
/-- Cores that a mask names: those that a reset has not taken from the context, and of a redundant pair
the leader. -/
def State.maskCores (s : State) (w : W64) : List Nat :=
  ((maskBits w).flatMap fun k => (List.range 8).map fun i => 8 * k + i).filter fun n =>
    !(s.core n).out && !s.follower n
/-- A mask names a cluster that a context does not hold. -/
def State.maskBad (s : State) (c : Nat) (w : W64) : Bool :=
  (maskBits w).any fun k => !((s.cluster k).held && (s.cluster k).ctx == c)
/-- A PC is an entry point of the charter entry of a context (`17` R406, R410). -/
def State.entryPoint (s : State) (c : Nat) (pc : W64) : Bool :=
  match (s.ctx c).entry with
  | none => false
  | some i => pc != 0 && ((List.range 8).any fun j =>
      leAt (s.charterOf c) (chEntry (s.charterOf c) i + 32 + 8 * j) 8 == pc.toNat)
/-- A core is launched (R352). -/
def Core.launch (k : Core) (w : List W64) : Core :=
  { (k.wr 1 (argAt w 5)).wr 2 (argAt w 6) with
    pc := BitVec.ofNat 48 (argAt w 4).toNat, run := .running, stall := .no, fresh := true, stopReq := false }
/-- LAUNCH (R352, R354). -/
def execLaunch (p : Pkt) (s : State) : Out :=
  .next (packet p 0x01 [] (fun c s =>
      let w := argAt p.w 7
      s.maskBad c w || (s.maskCores w).any (fun n => (s.core n).run == .running) || 2 ^ 48 ≤ (argAt p.w 4).toNat ||
        (s.confidential c && !s.entryPoint c (argAt p.w 4)))
    (fun c s =>
      let ns := s.maskCores (argAt p.w 7)
      (ns.foldl (fun s n => s.updCore n fun k => k.launch p.w) s).begin c p.queue 1 p.w ns) s)
/-- STOP (R352, R354): every named core is asked to stop; those that have reached their point stop. -/
def execStop (p : Pkt) (s : State) : Out :=
  .next (packet p 0x02 [4, 5, 6] (fun c s => s.maskBad c (argAt p.w 7))
    (fun c s =>
      let ns := s.maskCores (argAt p.w 7)
      (ns.foldl (fun s n => if (s.core n).run = .running then
        (s.updCore n fun k => { k with stopReq := true }).tryStop n else s) s).begin c p.queue 2 p.w ns) s)
/-- COPY (R352, R354): source, destination and length are multiples of 64 (log 25). -/
def execCopy (p : Pkt) (s : State) : Out :=
  .next (packet p 0x03 [7] (fun _ _ =>
      !aligned (argAt p.w 4).toNat 64 || !aligned (argAt p.w 5).toNat 64 || !aligned (argAt p.w 6).toNat 64)
    (fun c s => s.begin c p.queue 3 p.w []) s)
/-- STAMP (R352, R354). -/
def execStamp (p : Pkt) (s : State) : Out :=
  .next (packet p 0x04 [5, 6, 7] (fun _ _ => !aligned (argAt p.w 4).toNat 8)
    (fun c s => s.begin c p.queue 4 p.w []) s)
/-- The copy of a COPY packet by the copy engine, initiator 747: a confidential context may not copy
into the D- or L-tier (`17` R411). -/
def State.doCopy (s : State) (c src dst n : Nat) : Res Unit :=
  (s.locateAll 747 c .write (piecesOf dst n)).bind fun s l =>
    if s.confidential c && (l.any fun p => match s.space p.1 with | .d _ => true | .l _ => true | _ => false) then
      .lost s 0x13
    else (s.readVa 747 c src n).bind fun s b => .ok (s.writePieces l b) ()
/-- The work of packet `x` is done, or what it does at its completion; none while it must wait. -/
def State.packetEnd (s : State) (c : Nat) (x : Packet) : Option (Res Unit) :=
  match x.opc with
  | 1 => if x.cores.all fun n => !(s.core n).fresh then some (.ok s ()) else none
  | 2 => if x.cores.all fun n => (s.core n).run != .running then some (.ok s ()) else none
  | 3 => some (s.doCopy c (argAt x.w 0).toNat (argAt x.w 1).toNat (argAt x.w 2).toNat)
  | _ => some (s.writeVa 748 c (argAt x.w 0).toNat (leBytes 8 s.now.toNat))
/-- PACKET_COMPLETE (R352, R353): packet `i` in progress completes, when its work is done. -/
def execPacketComplete (slot : Fin 48) (queue : Fin 16) (i : Fin 4) (s : State) : Out :=
  .next (match s.slotCtx slot with
    | none => s
    | some c => match ((s.ctx c).queue queue).prog[i.val]? with
      | none => s
      | some x =>
          if s.dev != .ready || !s.resident c then s
          else
          let s := if x.opc = 2 then x.cores.foldl State.tryStop s else s
          match s.packetEnd c x with
            | none => s
            | some r => State.settle c r fun s _ => s.packetDone c queue i x)
/-- QUEUE_TIMEOUT (R354): QTO has passed since a packet became the oldest uncompleted one. -/
def execQueueTimeout (slot : Fin 48) (queue : Fin 16) (s : State) : Out :=
  .next (match s.slotCtx slot with
    | none => s
    | some c =>
        let q := (s.ctx c).queue queue
        if s.dev == .ready && q.v && q.qto != 0 && q.since.isSome then s.lose c 0x14 else s)

/-! ### Doorbells (R351, R359, R360) -/

/-- A doorbell write that is ignored and counted. -/
def State.ignoredWrite (s : State) (c : Nat) : State := s.updCtx c fun k => { k with ignored := k.ignored + 1 }
/-- An 8 B access, or a 4 B access to the low half, of a register that takes both; anything else has no
effect and is counted (R351). Reserved high bits that are not zero are counted (`00` R8). -/
def State.doorbell (s : State) (slot size : Nat) (val : W64) (f : Nat → BitVec 32 → State → State) : State :=
  if !(size == 8 || size == 4) then s.badAcc
  else match s.slotCtx slot with
    | none => s
    | some c =>
        if s.dev != .ready || !s.resident c then s
        else f c (BitVec.ofNat 32 val.toNat) (if size = 8 && fld val 63 32 != 0 then s.rsvWrite else s)
/-- TAIL (R351): a write that does not advance TAIL is ignored and counted; one beyond the ring, or of a
queue that does not exist, loses the context with cause code 0x13. -/
def execTail (slot : Fin 48) (queue : Fin 16) (size : Fin 9) (val : W64) (s : State) : Out :=
  .next (s.doorbell slot size val fun c v s =>
    let q := (s.ctx c).queue queue
    if !q.v then s.lose c 0x13
    else if v = q.tail then s.ignoredWrite c
    else if 2 ^ q.qlog < (v - q.head).toNat then s.lose c 0x13
    else if (v - q.head).toNat < (q.tail - q.head).toNat then s.ignoredWrite c
    else s.updCtx c fun k => k.updQueue queue fun q => { q with
      tail := v, since := if q.since.isNone then some s.now else q.since })
/-- FSIGV (R351, R356, R359): only an 8 B write signals; one that the host may not make is ignored and
counted. -/
def execFsigv (slot : Fin 48) (size : Fin 9) (val : W64) (s : State) : Out :=
  .next (if size ≠ 8 then s.badAcc
    else match s.slotCtx slot with
      | none => s
      | some c =>
          if s.dev != .ready || !s.resident c then s
          else if s.hostSignal c (s.ctx c).fid then s.signal (s.ctx c).fid val (s.ctx c).fstat
          else s.ignoredWrite c)
/-- EVHEAD (R360): waiting records are written as space returns. -/
def execEvhead (slot : Fin 48) (size : Fin 9) (val : W64) (s : State) : Out :=
  .next (s.doorbell slot size val fun c v s =>
    let r := { (s.ctx c).ring with head := v }
    s.putRing c r (r.flush s.hostMem (evRec (s.ctx c).dcookie c 4 0 s.now)))
/-- MSIX_MESSAGE (`13` R333, R344, R361): a due or pending vector sends its message, or records its pending
bit while it is masked or MSI-X is off; in Sentinel mode only vectors 0–15 fire. -/
def execMsixMessage (vector : Fin 2048) (s : State) : Out :=
  let e := Tab.get {} s.pcie.msix vector
  .next (if !(e.due || e.pend) then s
    else if s.pcie.msixEn && !s.pcie.msixMask && e.unmasked && !(s.dev == .sentinel && decide (16 ≤ vector.val)) then
      { s with pcie := { s.pcie with
          msix := Tab.set {} s.pcie.msix vector { e with due := false, pend := false }
          sentMsgs := vector :: s.pcie.sentMsgs } }
    else { s with pcie := { s.pcie with
        msix := Tab.set {} s.pcie.msix vector { e with due := false, pend := true } } })

end Sys2Proof.Machine
end

