-- ==== Sys2Proof/Machine/Tables.lean ====
section
/-! DEFINITION. The mailbox commands on memory: grants, page tables, windows, the pool map, donations,
the KV pool and the aperture; cluster moves, program binding and strict partition (`07` R160–R187, `10`
R253, `13` R327, `17` R409, R410, R422, `20` R469). -/

namespace Sys2Proof.Machine

/-! ### Grants (R187) -/

/-- Granules of a unit that may be granted: the first one and the one past the last. The integrity
region and the field-test reserve lie above it (R160). -/
def State.grantable (s : State) (unit : Nat) : Nat × Nat :=
  if unit < 8 then (unit * 49152, (unit + 1) * 49152)
  else
    let lo := (0x100000000000 + (unit - 8) * 2 ^ 39) / 2 ^ 21
    (lo, lo + (s.lSize - s.iSize) / 2 ^ 21 - 384)
/-- A granule is FREE and no scrub of it is due. -/
def State.granuleFree (s : State) (unit g : Nat) : Bool :=
  bit (Tab.get ownFree (s.target unit).ownA g) 15 && !s.scrubQ.any fun e => e.1 == g
/-- The lowest run of `n` FREE granules of a unit (log 26). -/
def State.freeRun (s : State) (unit n : Nat) : Option Nat :=
  let (lo, hi) := s.grantable unit
  let busy := (((s.target unit).ownA.filter fun e => !bit e.2 15).map (·.1)) ++ s.scrubQ.map (·.1)
  let fits (a : Nat) : Bool := lo ≤ a && a + n ≤ hi && !busy.any fun b => a ≤ b && b < a + n
  ((lo :: busy.map (· + 1)).filter fits).min?
/-- GRANT (R187, `16` R404, `25` R571): a run of a D-stack is filled with zeros under the new owner. -/
def execGrant (c : MbxCall) (s : State) : Out :=
  .next (mailbox c (fun a => { opc := 0x10, masks := [lowMask 17, allMask], names := [(0, argCtx a 0)], ctxs := [argCtx a 0]
                               always := false, free := false, bad := 11 < fld (argAt a 0) 15 12 || argAt a 1 == 0 })
    (fun a s =>
      let u := fld (argAt a 0) 15 12
      if u < 8 && !s.dieFitted u then (s, .refused 0)
      else match s.freeRun u (argAt a 1).toNat with
        | none => (s, .done stFull [])
        | some g =>
            let n := (argAt a 1).toNat
            ((if u < 8 then s.wipeBytes g n else s).ownRun g n (BitVec.ofNat 16 (argCtx a 0 + if bit (argAt a 0) 16 then 0x2000 else 0)),
              .done stOk [w64 (2 ^ 21 * g)])) s)

/-! ### Page tables (R162–R167) -/

/-- The leaf that maps a virtual address, by a walk that checks nothing: where it stands, the entry, and
whether it maps 2 MiB. -/
def State.rawLeaf (s : State) (c va : Nat) : Option (Nat × Nat × Bool) :=
  let word (a : Nat) : Nat := leNat (s.readDa a 8)
  let next (t i : Nat) : Option Nat := let e := word (t + 8 * i)
    if e.testBit 0 then some (pteAddr e) else none
  (((s.ctx c).root.bind fun t => next t (va / 2 ^ 39 % 512)).bind fun t => next t (va / 2 ^ 30 % 512)).bind fun t =>
    let a := t + 8 * (va / 2 ^ 21 % 512)
    let e := word a
    if !e.testBit 0 then none
    else if e.testBit 1 then some (a, e, true)
    else
      let a4 := pteAddr e + 8 * (va / 2 ^ 16 % 32)
      if (word a4).testBit 0 then some (a4, word a4, false) else none
/-- Bytes of a page. -/
def pageSize (big : Bool) : Nat := if big then 2 ^ 21 else 2 ^ 16
/-- Pages of a request. -/
def pagesOf (va n : Nat) (big : Bool) : List Nat := (List.range n).map fun i => va + i * pageSize big
/-- A valid leaf of either size lies in a page. -/
def State.mapped (s : State) (c : Nat) (big : Bool) (va : Nat) : Bool :=
  if big then (List.range 32).any fun i => (s.rawLeaf c (va + 2 ^ 16 * i)).isSome else (s.rawLeaf c va).isSome
/-- A page is mapped by a leaf of the size named. -/
def State.mappedAs (s : State) (c : Nat) (big : Bool) (va : Nat) : Bool :=
  match s.rawLeaf c va with
  | some (_, _, b) => b == big
  | none => false
/-- A context may map a range of device addresses: granules it owns that hold no tables, its windows and
pool-map entries, and the stores of its clusters (R161, R166). -/
def State.mayMap (s : State) (c da n : Nat) : Bool :=
  match s.space da with
  | .d t => let own := Tab.get ownFree (s.target t).ownA (da / 2 ^ 21)
      ownedBy own c && !bit own 13
  | .l m => let own := Tab.get ownFree (s.target (8 + m)).ownA (da / 2 ^ 21)
      ownedBy own c && !bit own 13
  | .h => match s.hwinAt da with
      | some w => let x := Tab.get {} s.hwins w
          x.ctx == c && da + n ≤ x.base + 2 ^ x.size && (s.hostAddr da).isSome
      | none => false
  | .p => match s.pmapAt da with
      | some e => e.ctx == c && da + n ≤ e.base + 2 ^ e.size
      | none => false
  | .sram k _ => (s.cluster (k / 8)).held && (s.cluster (k / 8)).ctx == c
  | _ => false
/-- What Yorek refuses of a confidential context (`17` R410): permissions W and X of a page as asked, X
as it stands, and whether the page is to be unmapped. -/
def State.confBad (s : State) (c va n : Nat) (w x cur unmap : Bool) : Bool :=
  s.confidential c &&
    let b := (s.ctx c).image
    if unmap then va < b.1 + b.2 && b.1 < va + n
    else (w && (x || cur)) || (x && !(b.1 ≤ va && va + n ≤ b.1 + b.2))
/-- Ranges of page lists of a context's paged windows, with the entries of the metadata area (R177,
`16` R400). -/
def State.pageLists (s : State) (c : Nat) : List (Nat × Nat) :=
  (s.hwins.filter fun e => e.2.v && e.2.paged && e.2.ctx == c).map fun e =>
    (e.2.w1.toNat, 8 * ((2 ^ e.2.size + 2 ^ e.2.size / 8) / 4096))
/-- Two ranges overlap. -/
def clash (a n b m : Nat) : Bool := a < b + m && b < a + n
/-- A table of a size in the context's TBL granules: the lowest free place (log 26). -/
def State.newTable (s : State) (c size : Nat) : Option (Nat × State) :=
  let taken := (s.ctx c).tables ++ s.pageLists c
  let gs := ((s.granulesOf c).filter fun e => bit e.2 13).map (·.1)
  let place (g : Nat) : Option Nat :=
    (firstOf (fun i => !taken.any fun t => clash (2 ^ 21 * g + i * size) size t.1 t.2) (2 ^ 21 / size) 0).map
      fun i => g * 2 ^ 21 + i * size
  (gs.filterMap place).head?.map fun a => (a, (s.writeDa a (List.replicate size 0)).updCtx c fun k => { k with tables := k.tables ++ [(a, size)] })
/-- The table that an entry points to, made when there is none. -/
def State.tableAt (s : State) (c a size : Nat) : Option (Nat × State) :=
  let e := leNat (s.readDa a 8)
  if e.testBit 0 then some (pteAddr e, s)
  else (s.newTable c size).map fun x => (x.1, x.2.putPte a (x.1 + 1))
/-- The place of the leaf of a page, with the tables it needs; the space of a level-4 table without
valid leaf that a 2 MiB page replaces is freed. None when the TBL granules have no room. -/
def State.leafSlot (s : State) (c va : Nat) (big : Bool) : Option (Nat × State) :=
  let root : Option (Nat × State) := match (s.ctx c).root with
    | some r => some (r, s)
    | none => (s.newTable c 4096).map fun x => (x.1, x.2.updCtx c fun k => { k with root := some x.1 })
  ((root.bind fun x => x.2.tableAt c (x.1 + 8 * (va / 2 ^ 39 % 512)) 4096).bind fun x =>
    x.2.tableAt c (x.1 + 8 * (va / 2 ^ 30 % 512)) 4096).bind fun x =>
      let a := x.1 + 8 * (va / 2 ^ 21 % 512)
      if big then
        let e := leNat (x.2.readDa a 8)
        some (a, if e.testBit 0 then x.2.updCtx c fun k => { k with tables := k.tables.filter (·.1 != pteAddr e) }
          else x.2)
      else (x.2.tableAt c a 256).map fun y => (y.1 + 8 * (va / 2 ^ 16 % 32), y.2)
/-- Leaves written one after the other: virtual page and entry. None when room runs out. -/
def State.putLeaves (c : Nat) (big : Bool) : List (Nat × Nat) → State → Option State
  | [], s => some s
  | (va, e) :: l, s => (s.leafSlot c va big).bind fun x => State.putLeaves c big l (x.2.putPte x.1 e)
/-- Permission bits of a request: R, W and X at bits 13, 14 and 15 of W0. -/
def permBits (w0 : W64) : Nat := fld w0 15 13 * 8
/-- The mapping chain advances over an accepted request (R166, `17` R411): its argument words (log 26). -/
def State.chain (s : State) (c : Nat) (a : List W64) (n : Nat) : State :=
  let req := wordBytes ((List.range n).map fun i => argAt a i)
  s.updCtx c fun k => { k with mapChain := Config.sm3 (digBytes k.mapChain ++ req) }
/-- Speculative tasks of a context that are unresolved, or committed and not drained, by core and serial
(R167). -/
def State.specTasks (s : State) (c : Nat) : List (Nat × Nat) :=
  (s.ctxCores c).flatMap fun n => ((s.core n).tasks.filter fun t =>
    t.hdr.spec && t.verdict != .discard && !t.drained).map fun t => (n, t.id)
/-- Those tasks have committed and drained, or been discarded. -/
def State.tasksDone (s : State) (l : List (Nat × Nat)) : Bool :=
  l.all fun p => match (s.core p.1).tasks.find? fun t => t.id == p.2 with
    | none => true
    | some t => t.verdict == .discard || t.drained
/-- Pool pages leave their owner. -/
def State.freePages (s : State) (l : List Nat) : State :=
  { s with pages := l.foldl (fun t p => Tab.set {} t p {}) s.pages }
/-- An access of a context that was admitted before request number `num` has not completed at its target (R167). Requests
of the checkpoint writer use no translation. -/
def State.admittedBefore (s : State) (c num : Nat) : Bool :=
  (s.pcie.reqs.any fun r => r.ctx == c && r.num < num && !r.dead) ||
    s.poolReqs.any fun r => r.ctx == c && r.num < num && !r.dead && r.store.isNone
/-- An accepted removal: it completes at once, or waits for tasks and for accesses admitted before (R167). -/
def State.removal (s : State) (c : Nat) (free : List Nat) : State × Reply :=
  if (s.specTasks c).isEmpty && !s.admittedBefore c s.reqNum then (s.freePages free, ok)
  else (s, .wait (.map c (s.specTasks c) free s.reqNum))
/-- The translations of every TLB of a context that a page covers are dropped. -/
def State.dropPages (s : State) (c : Nat) (big : Bool) (vs : List Nat) : State :=
  s.dropTlb c fun e => e.big == big && vs.any fun v => e.vpn == v / pageSize big

/-! ### The KV region (R182) -/

/-- Virtual pages of a context's KV region. -/
def State.inKv (s : State) (c va : Nat) : Bool :=
  let k := (s.ctx c).kv
  k.v && k.va ≤ va && va < k.va + 2 ^ 16 * k.pages
/-- A free frame of the D-pools, the L-pools or the spill, within the floors of the context. -/
def State.kvFrame (s : State) (c : Nat) : Option Nat :=
  let kv := (s.ctx c).kv
  let find (ts : List Nat) : Option Nat := (ts.flatMap fun t => s.poolPages t).find? fun p => s.pageFree p
  let d := if s.holdsIn c 0 < kv.df then find (List.range 8) else none
  let l := if s.holdsIn c 1 < kv.lf then find [8, 9, 10, 11] else none
  match d, l with
  | some p, _ => some p
  | none, some p => some p
  | none, none => s.freeSpill c
/-- A pool page is placed and written as zeros under its owner's key. -/
def State.placePage (s : State) (c vpn p : Nat) : State :=
  let s := { s with pages := Tab.set {} s.pages p { owner := some c, vpn := vpn, stamp := s.pageStamp } }
  s.writeDa (2 ^ 16 * p) (List.replicate (2 ^ 16) 0)
/-- Pages of the KV region mapped one after the other. -/
def State.mapKv (c perms : Nat) : List Nat → State → Option State
  | [], s => some s
  | va :: l, s => (s.kvFrame c).bind fun p =>
      (State.putLeaves c false [(va, 2 ^ 16 * p + perms + 0x43)] (s.placePage c (va / 2 ^ 16) p)).bind fun s =>
        State.mapKv c perms l s

/-! ### MAP, UNMAP and PROTECT (R166, R167, R349) -/

/-- The status area is written once when a MAP makes VA 0 valid (`14` R349). -/
def State.mapStatus (old s : State) (c : Nat) : State :=
  if (old.rawLeaf c 0).isNone && (s.rawLeaf c 0).isSome then s.putStatus c else s
/-- A range of virtual addresses is misaligned or passes the end of the address space. -/
def rangeBad (va n : Nat) (big : Bool) : Bool := !aligned va (pageSize big) || 2 ^ 48 < va + n * pageSize big
/-- MAP. Pages of the KV region are placed in the pool (R182; DEDUCED, log 26). -/
def execMap (c : MbxCall) (s : State) : Out :=
  .next (mailbox c (fun a => { opc := 0x11, masks := [lowMask 16, allMask, allMask, allMask], names := [(0, argCtx a 0)]
                               ctxs := [argCtx a 0], always := false, free := false, bad := argAt a 3 == 0 })
    (fun a s =>
      let i := argCtx a 0
      let big := bit (argAt a 0) 12
      let va := (argAt a 1).toNat
      let da := (argAt a 2).toNat
      let n := (argAt a 3).toNat
      let vs := pagesOf va n big
      let w := bit (argAt a 0) 14
      let x := bit (argAt a 0) 15
      if rangeBad va n big || (vs.any fun v => s.mapped i big v) || (vs.any fun v => s.confBad i v (pageSize big) w x false false) then
        (s, .refused 0)
      else if vs.any fun v => s.inKv i v then
        (if big || !(vs.all fun v => s.inKv i v) then (s, .refused 0)
        else match State.mapKv i (permBits (argAt a 0)) vs s with
          | none => (s, .done stFull [])
          | some s' => (s.mapStatus (s'.chain i a 4) i, ok))
      else if !aligned da (pageSize big) || !((pagesOf da n big).all fun d => s.mayMap i d (pageSize big)) then (s, .refused 0)
      else match State.putLeaves i big (vs.zip ((pagesOf da n big).map fun d => d + permBits (argAt a 0) + 3)) s with
        | none => (s, .done stFull [])
        | some s' => (s.mapStatus (s'.chain i a 4) i, ok)) s)
/-- Pool pages that a list of virtual pages of a context occupies. -/
def State.poolFrames (s : State) (c : Nat) (vs : List Nat) : List Nat :=
  (s.pages.filter fun e => e.2.owner == some c && vs.any fun v => v / 2 ^ 16 == e.2.vpn).map (·.1)
/-- UNMAP. -/
def execUnmap (c : MbxCall) (s : State) : Out :=
  .next (mailbox c (fun a => { opc := 0x12, masks := [lowMask 13, allMask, allMask], names := [(0, argCtx a 0)]
                               ctxs := [argCtx a 0], always := false, free := false, bad := argAt a 2 == 0 })
    (fun a s =>
      let i := argCtx a 0
      let big := bit (argAt a 0) 12
      let vs := pagesOf (argAt a 1).toNat (argAt a 2).toNat big
      if rangeBad (argAt a 1).toNat (argAt a 2).toNat big || !(vs.all fun v => s.mappedAs i big v) ||
          (vs.any fun v => s.confBad i v (pageSize big) false false false true) then (s, .refused 0)
      else
        let free := if big then [] else s.poolFrames i vs
        let s := s.dropMoves fun m => m.ctx == i && free.contains m.src
        let s := vs.foldl (fun s v => match s.rawLeaf i v with
          | some (e, _, _) => s.putPte e 0
          | none => s) s
        ((s.dropPages i big vs).chain i a 3).removal i free) s)
/-- Entries of pages with their permissions replaced. -/
def State.setPerms (s : State) (c perms : Nat) (vs : List Nat) : State :=
  vs.foldl (fun s v => match s.rawLeaf c v with
    | some (a, e, _) => s.putPte a (e - (e / 8 % 8) * 8 + perms)
    | none => s) s
/-- PROTECT. -/
def execProtect (c : MbxCall) (s : State) : Out :=
  .next (mailbox c (fun a => { opc := 0x13, masks := [lowMask 16, allMask, 0, allMask], names := [(0, argCtx a 0)]
                               ctxs := [argCtx a 0], always := false, free := false, bad := argAt a 3 == 0 })
    (fun a s =>
      let i := argCtx a 0
      let big := bit (argAt a 0) 12
      let vs := pagesOf (argAt a 1).toNat (argAt a 3).toNat big
      let p := permBits (argAt a 0)
      let cur (v : Nat) : Nat := match s.rawLeaf i v with
        | some (_, e, _) => e / 8 % 8
        | none => 0
      if rangeBad (argAt a 1).toNat (argAt a 3).toNat big || !(vs.all fun v => s.mappedAs i big v) ||
          (vs.any fun v => s.confBad i v (pageSize big) (bit (argAt a 0) 14) (bit (argAt a 0) 15) ((cur v).testBit 2) false) then
        (s, .refused 0)
      else
        let s' := ((s.setPerms i p vs).dropPages i big vs).chain i a 4
        if vs.any fun v => cur v &&& (7 - p / 8) != 0 then s'.removal i [] else (s', ok)) s)

/-! ### Programs (`17` R409, R410) -/

/-- Bytes of a context's memory read by Yorek, page by page without a check of permissions. -/
def State.yorekRead (s : State) (c va n : Nat) : List Byte :=
  (piecesOf va n).flatMap fun p => match s.rawLeaf c p.1 with
    | some (_, e, big) => s.readDa (pteAddr e / pageSize big * pageSize big + p.1 % pageSize big) p.2
    | none => List.replicate p.2 0
/-- The digest of an image is compared and, on a match, the context is bound (R409 step 3). -/
def State.bindImage (s : State) (c entry base len : Nat) : State × Reply :=
  let img := s.charterOf c
  let dig := Config.sm3 (leBytes 8 base ++ leBytes 8 len ++ s.yorekRead c base len)
  if dig = digOf ((img.drop (chEntry img entry)).take 32) then
    (s.updCtx c fun k => { k with entry := some entry, image := (base, len) }, ok)
  else (s, .refused 0)
/-- PROGRAM.LOAD. -/
def execProgramLoad (c : MbxCall) (s : State) : Out :=
  .next (mailbox c (fun a => { opc := 0x21, masks := [lowMask 20, allMask, allMask], names := [(0, argCtx a 0)]
                               ctxs := [argCtx a 0], always := false, free := false
                               bad := argAt a 2 == 0 || !aligned (argAt a 2).toNat (2 ^ 16) })
    (fun a s =>
      let i := argCtx a 0
      let e := fld (argAt a 0) 19 12
      let base := (argAt a 1).toNat
      let len := (argAt a 2).toNat
      let img := s.charterOf i
      let vs := pagesOf (base / 2 ^ 16 * 2 ^ 16) ((base + len + 0xFFFF) / 2 ^ 16 - base / 2 ^ 16) false
      let x (v : Nat) : Bool := match s.rawLeaf i v with
        | some (_, e, _) => e.testBit 5
        | none => false
      if chNctx img ≤ e then (s, .done stBadcmd [])
      else if (s.ctx i).entry.isSome || ((s.ctxCores i).any fun n => (s.core n).run == .running) then (s, .refused 0)
      else if imgByte img (chEntry img e + 99) ≤ (s.ctxs.filter fun k => k.2.st != .free && k.2.chd == (s.ctx i).chd &&
          k.2.entry == some e).length then (s, .done stFull [])
      else if 2 ^ 48 < base + len || !(vs.all x) then (s, .refused 0)
      else
        let s := vs.foldl (fun s v => match s.rawLeaf i v with
          | some (p, q, _) => if q.testBit 4 then s.putPte p (q - 16) else s
          | none => s) s
        let s := (s.dropPages i false vs).dropPages i true vs
        if (s.specTasks i).isEmpty && !s.admittedBefore i s.reqNum then s.bindImage i e base len
        else (s, .wait (.bind i e base len (s.specTasks i) s.reqNum))) s)
/-- MAP_REQUEST_COMPLETE (R167): the tasks and the accesses that a pending request waits for have ended. -/
def execMapRequestComplete (chan : Fin 8) (s : State) : Out :=
  .next (match (s.chan chan).active, (s.chan chan).wait with
    | true, .map c l free num =>
        if s.tasksDone l && !s.admittedBefore c num then (s.freePages free).complete chan stOk 0 [] else s
    | true, .bind i e base len l num =>
        if s.tasksDone l && !s.admittedBefore i num then
          (match s.bindImage i e base len with
          | (s, .done st r) => s.complete chan st 0 r
          | (s, _) => s.complete chan stRefused 0 [])
        else s
    | _, _ => s)

/-! ### Windows, the pool map and donations (R177–R180, `16` R400) -/

/-- Every address of a range lies in a TBL granule of a context. -/
def State.tblRange (s : State) (c a n : Nat) : Bool :=
  (List.range ((a + n + 0x1FFFFF) / 2 ^ 21 - a / 2 ^ 21)).all fun i =>
    (s.granulesOf c).any fun e => e.1 == a / 2 ^ 21 + i && bit e.2 13
/-- Counters of the lines and pages of a window's range leave with it: a new window reads as zeros
(`16` R400). -/
def State.clearWindow (s : State) (w : HWin) : State :=
  if !w.v then s
  else { s with
    lines := Tab.drop s.lines fun l => w.base ≤ 128 * l && 128 * l < w.base + 2 ^ w.size
    major := Tab.drop s.major fun p => w.base ≤ 4096 * p && 4096 * p < w.base + 2 ^ w.size
    versions := Tab.drop s.versions fun v => match s.hwinAt w.base with
      | some i => v / 2 ^ 64 == 0x1000 + i
      | none => false }
/-- What Yorek refuses of a window (R177, `16` R400). -/
def State.hwinBad (s : State) (i : Nat) (w : HWin) : Bool :=
  !aligned w.base (2 ^ w.size) || w.base < 0x400000000000 || 0x800000000000 < w.base + 2 ^ w.size ||
    (s.hwins.any fun e => e.1 != i && e.2.v && clash e.2.base (2 ^ e.2.size) w.base (2 ^ w.size)) ||
    2 ^ 24 - 1 < (s.ctx w.ctx).hbase + 1 ||
    if w.paged then !aligned w.w1.toNat 8 ||
      !s.tblRange w.ctx w.w1.toNat (8 * ((2 ^ w.size + 2 ^ w.size / 8) / 4096)) ||
      (s.ctx w.ctx).tables.any fun t => clash t.1 t.2 w.w1.toNat (8 * ((2 ^ w.size + 2 ^ w.size / 8) / 4096))
    else !aligned w.w1.toNat 4096
/-- HWIN.SET. -/
def execHwinSet (c : MbxCall) (s : State) : Out :=
  .next (mailbox c (fun a =>
    let w : HWin := { w0 := argAt a 1, w1 := argAt a 2 }
    let i := fld (argAt a 0) 11 0
    let old := Tab.get {} s.hwins i
    { opc := 0x14, masks := [lowMask 12, allMask, allMask], always := false, free := false
      names := (2, i) :: if w.v then [(0, w.ctx)] else if old.v then [(0, old.ctx)] else []
      ctxs := if w.v then [w.ctx] else []
      bad := w.v && (fld w.w0 41 32 != 0 || w.size < (if w.paged then 21 else 16) || 36 < w.size) })
    (fun a s =>
      let w : HWin := { w0 := argAt a 1, w1 := argAt a 2 }
      let i := fld (argAt a 0) 11 0
      let old := Tab.get {} s.hwins i
      if !w.v then
        let s := { s.clearWindow old with hwins := Tab.set {} s.hwins i {}, hwBase := Tab.set 0 s.hwBase i 0, hostPages := [] }
        (if old.v then s.removal old.ctx [] else (s, ok))
      else if s.hwinBad i w then (s, .refused 0)
      else
        let b := (s.ctx w.ctx).hbase
        let s := ((s.clearWindow old).clearWindow w).updCtx w.ctx fun k => { k with hbase := b + 1 }
        ({ s with hwins := Tab.set {} s.hwins i w, hwBase := Tab.set 0 s.hwBase i b, hostPages := [] }, ok)) s)
/-- POOLMAP.SET (R179). -/
def execPoolmapSet (c : MbxCall) (s : State) : Out :=
  .next (mailbox c (fun a =>
    let v := bit (argAt a 0) 58
    { opc := 0x15, masks := [lowMask 59, allMask, allMask], names := if v then [(0, fld (argAt a 0) 19 8)] else []
      ctxs := if v then [fld (argAt a 0) 19 8] else [], always := false, free := false
      bad := v && (fld (argAt a 0) 25 20 < 30 || 46 < fld (argAt a 0) 25 20 || 2 ^ 48 ≤ (argAt a 2).toNat) })
    (fun a s =>
      let w := argAt a 0
      let e : PoolMap := { v := true, ctx := fld w 19 8, size := fld w 25 20, base := (argAt a 1).toNat, node := fld w 41 26
                           ports := fld w 57 42, nbase := (argAt a 2).toNat }
      if !bit w 58 then ({ s with poolMap := Tab.set {} s.poolMap (fld w 7 0) {} }, ok)
      else if !aligned e.base (2 ^ e.size) || e.base < 0x800000000000 || 0xC00000000000 < e.base + 2 ^ e.size ||
          s.poolMap.any (fun x => x.1 != fld w 7 0 && x.2.v && clash x.2.base (2 ^ x.2.size) e.base (2 ^ e.size)) then
        (s, .refused 0)
      else ({ s with poolMap := Tab.set {} s.poolMap (fld w 7 0) e }, ok)) s)
/-- DONATE (R180): the first granule is counted from the base of the M-die (log 26). -/
def execDonate (c : MbxCall) (s : State) : Out :=
  .next (mailbox c (fun a => { opc := 0x16, masks := [lowMask 9, allMask, allMask, allMask], names := [], ctxs := []
                               always := false, free := false, bad := !bit (argAt a 0) 8 && argAt a 2 == 0 })
    (fun a s =>
      let w := argAt a 0
      let r := fld w 3 0
      let m := fld w 5 4
      let d := Tab.get {} s.donations r
      let lo := (s.grantable (8 + m)).1
      let g := lo + (argAt a 1).toNat
      let n := (argAt a 2).toNat
      if bit w 8 then
        (if !d.v then (s, .done stNoctx [])
        else
          let base := (s.grantable (8 + d.m)).1 + d.first
          let new := ((List.range d.n).map fun i => (base + i, 0x2000 + r)).filter fun e => !s.scrubQ.any fun x => x.1 == e.1
          ({ s with scrubQ := s.scrubQ ++ new }, .wait (.donate r)))
      else if d.v || (s.grantable (8 + m)).2 < g + n || !((List.range n).all fun i => s.granuleFree (8 + m) (g + i)) then
        (s, .refused 0)
      else
        let s := s.ownRun g n 0x1000
        let x : Donation := { v := true, m := m, r := bit w 6, w := bit w 7, first := (argAt a 1).toNat, n := n
                              nodes := ((List.range 4).map fun i => fld (argAt a 3) (16 * i + 15) (16 * i)).filter (· != 0) }
        ({ s with donations := Tab.set {} s.donations r x }, ok)) s)

/-! ### The KV pool and the aperture (R181, R182, `13` R327) -/

/-- Pages of the D-pools (tier 0) or the L-pools (tier 1). -/
def State.poolTotal (s : State) (tier : Nat) : Nat :=
  32 * (((List.range 12).filter fun t => (t < 8) == (tier == 0)).map fun t => Tab.get 0 s.poolSize t).sum
/-- Floors of every KV region but a context's. -/
def State.floors (s : State) (c tier : Nat) : Nat :=
  ((s.ctxs.filter fun e => e.1 != c && e.2.kv.v).map fun e => if tier = 0 then e.2.kv.df else e.2.kv.lf).sum
/-- Pool granules of a unit whose pages are all free and to which no page is on its way. -/
def State.idleGranules (s : State) (u : Nat) : List Nat :=
  (((s.target u).ownA.filter fun e => bit e.2 14 && !bit e.2 15).map (·.1)).filter fun g =>
    (List.range 32).all fun i => s.pageFree (32 * g + i)
/-- KVPOOL.SIZE. -/
def execKvpoolSize (c : MbxCall) (s : State) : Out :=
  .next (mailbox c (fun a => { opc := 0x17, masks := [lowMask 4, allMask], names := [], ctxs := [], always := false, free := false
                               bad := 11 < fld (argAt a 0) 3 0 ||
                                 (if fld (argAt a 0) 3 0 < 8 then 16384 else 32768) < (argAt a 1).toNat })
    (fun a s =>
      let u := fld (argAt a 0) 3 0
      let n := (argAt a 1).toNat
      let old := Tab.get 0 s.poolSize u
      let s' := { s with poolSize := Tab.set 0 s.poolSize u n }
      if u < 8 && !s.dieFitted u then (s, .refused 0)
      else if old ≤ n then
        let (lo, hi) := s.grantable u
        let gs := ((List.range (hi - lo)).map (· + lo)).filter fun g => s.granuleFree u g
        (if gs.length < n - old then (s, .done stFull [])
        else ((gs.take (n - old)).foldl (fun s g => s.setOwn g 0x4000) s', ok))
      else
        let tier := if u < 8 then 0 else 1
        let gs := s.idleGranules u
        (if gs.length < old - n || s'.poolTotal tier < s.floors 4096 tier then (s, .refused 0)
        else ({ s' with scrubQ := s.scrubQ ++ (gs.take (old - n)).map fun g => (g, 0x1000) }, ok))) s)
/-- A region that R182 does not allow. -/
def State.kvBad (s : State) (i : Nat) (k : KvRegion) : Bool :=
  k.dc < k.df || k.lc < k.lf || s.poolTotal 0 < s.floors i 0 + k.df || s.poolTotal 1 < s.floors i 1 + k.lf ||
    k.df + k.lf + k.hs < k.pages || (s.spillPages i).length < k.hs ||
    (s.pw.strict && s.confidential i && (k.df != k.dc || k.lf != k.lc))
/-- KV.REGION: W3 holds DF in its low half and DC in its high half, and W4 likewise LF and LC (log 26).
A region that holds pages keeps its range. -/
def execKvRegion (c : MbxCall) (s : State) : Out :=
  .next (mailbox c (fun a => { opc := 0x18, masks := [lowMask 12, allMask, allMask, allMask, allMask, allMask]
                               names := [(0, argCtx a 0)], ctxs := [argCtx a 0], always := false, free := false
                               bad := !aligned (argAt a 1).toNat (2 ^ 16) ||
                                 2 ^ 48 < (argAt a 1).toNat + (argAt a 2).toNat * 2 ^ 16 })
    (fun a s =>
      let i := argCtx a 0
      let k : KvRegion := { v := argAt a 2 != 0, va := (argAt a 1).toNat, pages := (argAt a 2).toNat
                            df := fld (argAt a 3) 31 0, dc := fld (argAt a 3) 63 32
                            lf := fld (argAt a 4) 31 0, lc := fld (argAt a 4) 63 32, hs := (argAt a 5).toNat }
      let old := (s.ctx i).kv
      let used := s.pages.any fun e => e.2.owner == some i
      if (used && (k.va != old.va || k.pages != old.pages)) || s.kvBad i k then (s, .refused 0)
      else (s.updCtx i fun x => { x with kv := k }, ok)) s)
/-- APERTURE.MAP (`13` R327). -/
def execApertureMap (c : MbxCall) (s : State) : Out :=
  .next (mailbox c (fun a =>
    let v := bit (argAt a 0) 18
    { opc := 0x19, masks := [lowMask 19, allMask], names := if v then [(0, fld (argAt a 0) 17 6)] else []
      ctxs := if v then [fld (argAt a 0) 17 6] else [], always := false, free := false, bad := false })
    (fun a s =>
      let w := fld (argAt a 0) 5 0
      let i := fld (argAt a 0) 17 6
      let base := (argAt a 1).toNat
      let tierOk := match s.space base with | .d _ => true | .l _ => true | _ => false
      if !bit (argAt a 0) 18 then ({ s with aperture := Tab.set none s.aperture w none }, ok)
      else if !aligned base (2 ^ 30) || !tierOk || !((List.range 512).all fun j =>
          (s.granulesOf i).any fun e => e.1 == base / 2 ^ 21 + j) then (s, .refused 0)
      else ({ s with aperture := Tab.set none s.aperture w (some (i, base)) }, ok)) s)

/-! ### Cluster moves and strict partition (`10` R253, `20` R469, `17` R422) -/

/-- Initiators of a cluster: its cores and DMA engines (`07` R169). -/
def clusterInits (k : Nat) : List Nat := ((List.range 8).map fun i => 8 * k + i) ++ (List.range 3).map fun e => 512 + 3 * k + e
/-- The entries of a cluster's initiators at every target (`07` R170, R171). -/
def State.grantCluster (s : State) (k : Nat) (e : InitEntry) : State :=
  s.setInits (clusterInits k) e
/-- A cluster in the state of a new context, held by none (R253 steps 2–4). -/
def State.wipeCluster (s : State) (k : Nat) : State :=
  (List.range 8).foldl (fun s i => s.setCore (8 * k + i) {}) (s.updCluster k fun x => { lost := x.lost })
/-- A cluster is given to a context, or to none. -/
def State.giveCluster (s : State) (ctx : Option Nat) (red : Bool) (k : Nat) : State :=
  let s := s.wipeCluster k
  match ctx with
  | none => (s.updCluster k fun _ => {}).grantCluster k {}
  | some c => (s.updCluster k fun _ => { held := true, ctx := c, red := red }).grantCluster k
      { v := true, r := true, w := true, ctx := c }
/-- The cores of a departing cluster are idle: no open task, nothing dispatched and unfinished, and no
live window (R253). -/
def State.clusterIdle (s : State) (k : Nat) : Bool :=
  !(s.cluster k).held || (List.range 8).all fun i => s.quietCore (8 * k + i) && (s.core (8 * k + i)).wins.isEmpty
/-- CLUSTER.MOVE (R253, `20` R469). -/
def execClusterMove (c : MbxCall) (s : State) : Out :=
  .next (mailbox c (fun a =>
    let v := !bit (argAt a 1) 13
    { opc := 0x20, masks := [allMask, lowMask 14], names := if v then [(0, fld (argAt a 1) 11 0)] else []
      ctxs := if v then [fld (argAt a 1) 11 0] else [], always := false, free := false, bad := argAt a 0 == 0 })
    (fun a s =>
      let ks := maskBits (argAt a 0)
      let i := fld (argAt a 1) 11 0
      let free := bit (argAt a 1) 13
      let red := bit (argAt a 1) 12
      if ks.any fun k => !s.dieFitted (k / 8) then (s, .refused 0)
      else if !free && ((s.ctx i).st != .resident || (s.ctxClusters i).any fun k => (s.cluster k).red != red) then (s, .refused 0)
      else if ks.all s.clusterIdle then
        (ks.foldl (fun s k => s.giveCluster (if free then none else some i) red k) s, ok)
      else (s, .wait .move)) s)
/-- CLUSTER_MOVE_TIMEOUT (R253): the cores are not idle after 1 ms. -/
def execClusterMoveTimeout (chan : Fin 8) (s : State) : Out :=
  .next (if (s.chan chan).active && (s.chan chan).wait == MbxWait.move then s.complete chan stBusy 0 [] else s)
/-- A confidential context has a KV region that strict partition does not allow (`07` R186). -/
def State.kvLoose (s : State) : Bool :=
  (Tab.keys s.ctxs).any fun c => let k := (s.ctx c).kv
    k.v && s.confidential c && (k.df != k.dc || k.lf != k.lc)
/-- D as PARTITION.SET leaves it: the operator's duty, or less while the brake or the temperature holds it lower (`17` R422,
`23` R517–R521). -/
def Power.dutyFrom (p : Power) (d : Nat) : Nat := if p.brake || p.heatDuty then min p.duty d else d
/-- PARTITION.SET (`17` R422): only while no context holds a cluster, and while no confidential context has a KV region with
a floor below its ceiling (`07` R186). Turning the mode off leaves no fixed point. -/
def execPartitionSet (c : MbxCall) (s : State) : Out :=
  .next (mailbox c (fun a => { opc := 0x26, masks := [lowMask 12], names := [], ctxs := [], always := false, free := false
                               bad := bit (argAt a 0) 0 && (fld (argAt a 0) 3 1 < 1 || 6 < fld (argAt a 0) 3 1 ||
                                 (bit (argAt a 0) 4 && (fld (argAt a 0) 11 5 < 8 || 64 < fld (argAt a 0) 11 5))) })
    (fun a s =>
      let w := argAt a 0
      if s.clusters.any fun e => e.2.held then (s, .refused 0)
      else if bit w 0 && s.kvLoose then (s, .refused 0)
      else if !bit w 0 then ({ s with pw := { s.pw with strict := false, sPoint := 0, sStatic := false, sDuty := 64, sThermal := false
                                                        duty := s.pw.dutyFrom 64 } }, ok)
      else
        let d := if bit w 4 then fld w 11 5 else 64
        ({ s with pw := { s.pw with strict := true, sPoint := fld w 3 1, sStatic := bit w 4, sDuty := d, sThermal := false
                                    duty := s.pw.dutyFrom d } }, ok)) s)

end Sys2Proof.Machine
end

