-- ==== Sys2Proof/Machine/Herds.lean ====
section
/-! DEFINITION. A herd as its members hold it: routes, the slot table, new membership records, and leaving
(`12` R288–R295, R314). -/

namespace Sys2Proof.Machine

/-! ### Abandoned writes (`19` R450, R452) -/

/-- The status of a CKPT event. -/
def ckptCode : CkptEnd → Nat
  | .ok => 0
  | .missing => 1
  | .member => 2
  | .digest => 3
  | .store => 4
  | .race => 5
  | .timeout => 6
  | .space => 7
  | .extent => 8
/-- A CKPT event of a write. -/
def State.ckptEvent (s : State) (w : CkptWrite) (how : CkptEnd) : State :=
  s.ctxEvent w.ctx 8 (at64 (ckptCode how) 56 ||| w64 (w.g % 2 ^ 48))
/-- The writes for which `p` holds end with a status. A stream segment that ends is not completed: FLOOR is raised to
its step (R452). -/
def State.dropCkpts (s : State) (p : CkptWrite → Bool) (how : CkptEnd) : State :=
  let gone := s.ckpts.filter p
  gone.foldl (fun s w =>
    if w.cls < 2 then s.ckptEvent w how
    else match s.store? (s.ctx w.ctx).chd 0 w.name with
      | some x => s.raiseFloor x w.ctx w.t
      | none => s) { s with ckpts := s.ckpts.filter fun w => !p w }

/-! ### Leaving a herd (`12` R288, R290) -/

/-- Yorek writes the initiator entries of the update units at every target (`07` R169, R170). -/
def State.grantUpdate (s : State) (e : InitEntry) : State :=
  s.setInits [704, 705, 706, 707] e
/-- The learning binding ends, with its step, its slots and its parks. The markers stay (R239). -/
def State.endBinding (s : State) : State :=
  { s.grantUpdate {} with learn := {}, upd := [], dstream := [], ras := { s.ras with resend := [], issued := [] } }
/-- A member leaves a herd: every context of the job is lost with cause 0x12, the learning binding ends, and the
driver has an event. -/
def State.leaveHerd (s : State) (hid : Nat) : State :=
  match s.herd? hid with
  | none => s
  | some h =>
      let job := (Tab.keys s.ctxs).filter fun c => s.ctxLive c && (s.ctx c).chd == h.chd
      let s := job.foldl (fun s c => s.lose c 0x12) s
      let s := s.dropCkpts (fun w => w.cls != 1 && w.name == w64 hid) .member
      let s := if s.learn.bound && (s.ctx s.learn.ctx).chd == h.chd then s.endBinding else s
      let s : State := { s with
        herds := s.herds.filter fun x => x.hid != hid
        ctlOut := s.ctlOut.filter fun e => e.1 != 16 || leAt e.2.2.data 0 8 != hid
        slotTab := Tab.drop s.slotTab h.slots.contains, slotShadow := Tab.drop s.slotShadow h.slots.contains }
      let s := s.completeAll (fun w => w == MbxWait.herd hid || w == MbxWait.join hid) stRefused []
      s.ctxEvent h.ctx 7 (at64 h.rcd.epoch 32 ||| 1)

/-! ### Routes (R289) -/

/-- The members joined to a member by a link between live members. -/
def hopBeside (r : MemRec) (m : Nat) : List Nat :=
  ((r.links.filter fun l => l.1 == m && r.live.contains l.2.2).map fun l => l.2.2)
/-- Members by the number of hops to `dst`: each round adds those beside the last. -/
def hopSpread (r : MemRec) : Nat → List Nat → Tab Nat → Nat → Tab Nat
  | 0, _, seen, _ => seen
  | n + 1, edge, seen, d =>
      let next := ((edge.flatMap (hopBeside r)).eraseDups).filter fun m => Tab.get 0 seen m == 0
      if next.isEmpty then seen
      else hopSpread r n next (next.foldl (fun t m => Tab.set 0 t m (d + 1)) seen) (d + 1)
/-- Hops to `dst` plus 1, by member; 0 where no route remains. -/
def hopsTo (r : MemRec) (dst : Nat) : Tab Nat := hopSpread r r.live.length [dst] [(dst, 1)] 1
/-- The next hop of a member toward another: the lowest member one hop nearer. -/
def nextHop (r : MemRec) (m dst : Nat) : Option Nat :=
  let d := hopsTo r dst
  ((hopBeside r m).filter fun x => Tab.get 0 d x + 1 == Tab.get 0 d m && Tab.get 0 d x != 0).min?
/-- The lowest port on which a member reaches a neighbour. -/
def hopPort (r : MemRec) (m x : Nat) : Option Nat :=
  ((r.links.filter fun l => l.1 == m && l.2.2 == x).map fun l => l.2.1).min?
/-- The parent of a member in the tree. -/
def treeParent (r : MemRec) (m : Nat) : Option Nat := if m = r.bell then none else nextHop r m r.bell
/-- The children of a member. -/
def treeChildren (r : MemRec) (m : Nat) : List Nat := r.live.filter fun x => treeParent r x == some m
/-- The members below a member in the tree. -/
def treeBelow (r : MemRec) : Nat → Nat → List Nat
  | 0, _ => []
  | n + 1, m => (treeChildren r m).flatMap fun x => x :: treeBelow r n x
/-- The next live member after `m` in the order of a ring (R289). -/
def nextOn (ring live : List Nat) (m : Nat) : Nat :=
  let i := ring.idxOf m
  (((ring.drop (i + 1)) ++ ring.take (i + 1)).find? fun x => live.contains x).getD m
/-- Directed ring d: ring ⌊d/2⌋, against its order when d is odd (R298). -/
def Herd.ringOf (h : Herd) (d : Nat) : List Nat :=
  let r := h.rings.getD (d / 2) []
  if d % 2 = 0 then r else r.reverse
/-- The successor of a member on a directed ring. -/
def Herd.succ (h : Herd) (d m : Nat) : Nat := nextOn (h.ringOf d) h.rcd.live m

/-- The port on which a member sends toward another: that of its next hop. -/
def routePort (r : MemRec) (m dst : Nat) : Option Nat := (nextHop r m dst).bind (hopPort r m)
/-- The owner of a unit (R298). -/
def Herd.owner (h : Herd) (u : Nat) : Nat := h.rcd.live.getD (u % max 1 h.rcd.live.length) h.self
/-- The place of a unit among those of its owner: ⌊u / N′⌋. -/
def Herd.place (h : Herd) (u : Nat) : Nat := u / max 1 h.rcd.live.length
/-- The directed ring of a unit. -/
def Herd.ringOfUnit (h : Herd) (u : Nat) : Nat := h.place u % (2 * max 1 h.rcnt)

/-! ### Messages (R288, R289, R303, R304) -/

/-- A message of the collective virtual channel: those of a channel's work, and a unit that is sent again (`20` R461). -/
def onColl (m : CollMsg) : Bool := m.opc < 0x24 || m.opc == 0x47
/-- The 32 B header of a message and its payload. A message of a descriptor ends with what is compared across members:
OP, LRN and U0, then UCNT and TAG; their place is not given (log 29). -/
def collBytes (m : CollMsg) : List Byte :=
  wordBytes [at64 (m.opc % 256) 56 ||| at64 (m.ch % 16) 52 ||| at64 (m.rnd % 16) 48 ||| at64 (m.src % 4096) 36 ||| w64 (m.mep % 2 ^ 32),
    w64 m.step, at64 m.unit 24, w64 m.seq] ++ m.data ++
  if onColl m then
    wordBytes [at64 (m.opc % 16) 60 ||| at64 (b2n m.lrn) 59 ||| at64 (b2n m.back) 58 ||| w64 (m.u0 % 2 ^ 40), w64 m.ucnt, m.tag]
  else []
/-- The member that a message from another is for: along a ring the sender's successor, up or down the tree a member
beside it, and for a control message the one that it names. -/
def Herd.forWhom (h : Herd) (m : CollMsg) : Nat :=
  if m.opc < 0x23 then nextOn (h.ringOf (h.ringOfUnit m.unit)) h.rcd.live m.src
  else if m.opc = 0x23 then h.self
  else m.unit
/-- The record by which messages to a member are routed: the one in force, and, toward a joiner, with its links (R318). -/
def Herd.routes (h : Herd) (dst : Nat) : MemRec :=
  match h.join with
  | some (j, _) => if j = dst then { h.rcd with live := h.rcd.live ++ [j], links := h.rcd.links ++ h.joinLinks } else h.rcd
  | none => h.rcd
/-- The port on which this member sends toward another, when it is UP. -/
def State.wayTo (s : State) (h : Herd) (dst : Nat) : Option Nat :=
  (routePort (h.routes dst) h.self dst).filter fun p => (s.port p).st == .up
/-- A control message leaves on a port, and stays with this module until its flits are acknowledged; with no port it waits for
a route (R301). -/
def State.ctlSend (s : State) (port : Option Nat) (dst : Nat) (m : CollMsg) : State :=
  match port with
  | some p => State.sendMsg { s with ctlOut := s.ctlOut ++ [(p, dst, m)] } p 4 false (collBytes m)
  | none => { s with ctlOut := s.ctlOut ++ [(16, dst, m)] }
/-- A message leaves toward a member on the collective or the control virtual channel, whole (R289). With no route left a
collective message stays in the send hold of its sender. -/
def State.onRoute (s : State) (h : Herd) (dst : Nat) (m : CollMsg) : State :=
  if onColl m then
    (match s.wayTo h dst with
    | some p => s.sendMsg p 0 false (collBytes m)
    | none => s)
  else s.ctlSend (s.wayTo h dst) dst m
/-- A control message of this member as it is sent: it names its herd, sender, receiver and epoch (log 29). -/
def Herd.sign (h : Herd) (dst : Nat) (m : CollMsg) : CollMsg :=
  { m with src := h.self, mep := h.rcd.epoch, unit := dst, data := leBytes 8 h.hid ++ m.data }
/-- A control message to a member. -/
def State.toMember (s : State) (h : Herd) (dst : Nat) (m : CollMsg) : State := s.onRoute h dst (h.sign dst m)
/-- The first `n` control messages of a port leave the list. -/
def dropCtl (p : Nat) : Nat → List (Nat × Nat × CollMsg) → List (Nat × Nat × CollMsg)
  | 0, l => l
  | _ + 1, [] => []
  | n + 1, e :: l => if e.1 = p then dropCtl p n l else e :: dropCtl p (n + 1) l
/-- The peer of a port has acknowledged the last flits of `n` control messages. -/
def State.ctlAcked (s : State) (p n : Nat) : State := { s with ctlOut := dropCtl p n s.ctlOut }
/-- A port is down: its control messages wait for a route, while the module belongs to their herd. -/
def State.ctlLost (s : State) (p : Nat) : State :=
  { s with ctlOut := s.ctlOut.filterMap fun e =>
      if e.1 != p then some e else (s.herd? (leAt e.2.2.data 0 8)).map fun _ => (16, e.2) }
/-- Control messages of a herd that are not acknowledged are sent again on the routes of a new record, to members that live,
under its epoch. The copies that a port still holds count until they are acknowledged. -/
def State.ctlAgain (s : State) (h : Herd) : State :=
  let ours (e : Nat × Nat × CollMsg) : Bool := leAt e.2.2.data 0 8 == h.hid && e.2.1 != h.self
  let l := s.ctlOut.filter fun e => ours e && h.rcd.live.contains e.2.1
  let kept := (s.ctlOut.filter fun e => !(ours e && e.1 == 16)).map fun e => (e.1, if ours e then h.self else e.2.1, e.2.2)
  l.foldl (fun s e => s.onRoute h e.2.1 { e.2.2 with mep := h.rcd.epoch }) { s with ctlOut := kept }
/-- The all-gather buffer of the X-die, 16 MiB, has no room for a unit (R300, `09` R225). -/
def Learn.agFull (l : Learn) : Bool := decide (16777216 < 193 * l.agBuf.length + 772)
/-- A member withdraws: WITHDRAW goes to the Bellwether, and the member stops. -/
def State.quitHerd (s : State) (hid : Nat) : State :=
  match s.herd? hid with
  | none => s
  | some h => (if h.rcd.bell = h.self then s else s.toMember h h.rcd.bell { opc := 0x35 }).leaveHerd hid

/-- The window of a sum: 320 bits, in units of 2⁻¹⁴⁹. Values that no finite sum reaches stand for the infinities and NaN
(log 31). -/
def LossSum.window : LossSum → Int
  | .fin a => a
  | .inf false => (2 : Int) ^ 318
  | .inf true => -(2 : Int) ^ 318
  | .nan => -(2 : Int) ^ 319
/-- The sum that a window holds. -/
def LossSum.ofWindow (a : Int) : LossSum :=
  if a = -(2 : Int) ^ 319 then .nan
  else if (2 : Int) ^ 318 ≤ a then .inf false
  else if a ≤ -(2 : Int) ^ 318 then .inf true else .fin a
/-- Two sums added exactly. -/
def LossSum.add : LossSum → LossSum → LossSum
  | .fin a, .fin b => .fin (a + b)
  | .fin _, b => b
  | a, .fin _ => a
  | .inf a, .inf b => if a = b then .inf a else .nan
  | _, _ => .nan
/-- The bytes of a sum (R303). -/
def LossSum.bytes (l : LossSum) : List Byte := leBytes 40 (ofIntBits 320 (LossSum.window l))
/-- A scalar record (R303). -/
def GateRec.scalarBytes (r : GateRec) : List Byte :=
  leBytes 8 r.nnf ++ leBytes 128 r.wall ++ leBytes 128 r.wclip ++ LossSum.bytes r.sumL ++ leBytes 8 r.nc ++ leBytes 8 r.ts ++
    r.wself.flatMap fun e => leBytes 2 e.1 ++ leBytes 128 e.2
/-- A gate record: T_G, then the totals (`09` R213). -/
def GateRec.bytes (r : GateRec) : List Byte := leBytes 8 r.tg ++ GateRec.scalarBytes r
/-- A gate record from its bytes, with its step, round and epoch. -/
def GateRec.ofBytes (t round epoch : Nat) (b : List Byte) : GateRec :=
  { t := t, round := round, epoch := epoch, tg := leAt b 0 8, nnf := leAt b 8 8, wall := leAt b 16 128, wclip := leAt b 144 128
    sumL := LossSum.ofWindow (toInt 320 (leAt b 272 40)), nc := leAt b 312 8, ts := leAt b 320 8
    wself := (List.range ((b.length - 328) / 130)).map fun i => (leAt b (328 + 130 * i) 2, leAt b (330 + 130 * i) 128) }
/-- A gate record as a message: its step and round stand in the header. -/
def GateRec.msg (r : GateRec) : CollMsg := { opc := 0x30, rnd := r.round, step := r.t, data := GateRec.bytes r }

/-! ### The slot table (R293, R294) -/

/-- The channels bound to a herd, ascending. -/
def State.chansOf (s : State) (hid : Nat) : List Nat :=
  (List.range 16).filter fun i => (s.coll i).bound && (s.coll i).hid == hid
/-- Every herd's slots go to its channels in turn; every other entry is idle. -/
def State.slotFill (s : State) : Tab Nat :=
  s.herds.foldl (fun t h =>
    let cs := s.chansOf h.hid
    if cs.isEmpty then t
    else (h.slots.zipIdx).foldl (fun t e => Tab.set 0x1F t e.1 (cs.getD (e.2 % cs.length) 0x1F)) t) []
/-- The entry that owns a Tether time: those of a period of 65,536 ns own 256 ns each. -/
def slotEntry (t : Nat) : Nat := t / 256 % 256
/-- The channel that owns the present entry, or idle (0x1F). -/
def State.slotNow (s : State) : Nat := Tab.get 0x1F s.slotTab (slotEntry s.now.toNat)
/-- Nanoseconds that the present entry still has. -/
def State.slotLeft (s : State) : Nat := 256 - s.now.toNat % 256
/-- Yorek writes the shadow table (R295). -/
def State.fillShadow (s : State) : State := { s with slotShadow := s.slotFill }

/-! ### New records (R288, R290, R291, R314) -/

/-- More than half of the members of a record, or exactly half with the lowest of them (R291). -/
def quorum (old reached : List Nat) : Bool :=
  let n := (old.filter reached.contains).length
  old.length < 2 * n || (old.length == 2 * n && (match old with | m :: _ => reached.contains m | [] => false))
/-- A set of members as a map of 4,096 bits. -/
def liveMap (live : List Nat) : Nat := (live.map fun m => 2 ^ m).sum
/-- A membership record as a message (R288): epoch, Bellwether, swap instant, live map, link map, and the carry-over. -/
def recMsg (r : MemRec) : CollMsg :=
  { opc := 0x32
    data := leBytes 4 r.epoch ++ leBytes 2 r.bell ++ leBytes 8 r.swap ++ leBytes 512 (liveMap r.live) ++
      leBytes 4 r.links.length ++ (r.links.flatMap fun l => leBytes 2 l.1 ++ leBytes 1 l.2.1 ++ leBytes 2 l.2.2) ++
      leBytes 4 r.high.length ++ (r.high.flatMap fun e => leBytes 2 e.1 ++ leBytes 1 e.2.1 ++ leBytes 5 e.2.2) ++
      match r.gate with
      | some g => leBytes 8 g.t ++ leBytes 1 g.round ++ GateRec.bytes g
      | none => [] }
/-- A member announces itself, the peers of its ports that are UP, and its QUOTE for CHD (R287, `17` R420); the code and the
layout of the message are log 29. -/
def announceMsg (peers : List (Nat × Nat)) (quote : List Byte) : CollMsg :=
  { opc := 0x41, data := leBytes 1 peers.length ++ (peers.flatMap fun e => leBytes 1 e.1 ++ leBytes 2 e.2) ++ quote }
/-- The peers of this module's ports that are UP: port and node (R287). -/
def State.portPeers (s : State) : List (Nat × Nat) :=
  ((List.range 16).filter fun p => (s.port p).st == .up).map fun p => (p, (s.port p).peer)
/-- The herd ends on every member: the Bellwether tells them by a record without members (log 29), and leaves. -/
def State.endHerd (s : State) (hid : Nat) : State :=
  match s.herd? hid with
  | none => s
  | some h =>
      let r : MemRec := { h.rcd with live := [], links := [] }
      ((h.rcd.live.filter (· != h.self)).foldl (fun s m => s.toMember h m (recMsg r)) s).leaveHerd hid
/-- The last record that the Bellwether has issued: the one waiting for its instant, or the one in force. -/
def Herd.issued (h : Herd) : MemRec := h.next.getD h.rcd
/-- The record that changes build on: the one being prepared, or the last one issued. -/
def Herd.latest (h : Herd) : MemRec :=
  match h.shrink with
  | some x => { h.issued with live := x.live, links := x.links, bell := x.live.headD h.self }
  | none => h.issued
/-- The learning binding of this module is that of a herd, and has opened a step. -/
def State.teaches (s : State) (h : Herd) : Bool := s.learn.bound && (s.ctx s.learn.ctx).chd == h.chd && s.learn.t != 0
/-- What this member has received of the members that a record loses: the highest unit of each, by directed ring, and the
gate record of the step in flight (R316). -/
def State.carry (s : State) (h : Herd) (lost : List Nat) : List (Nat × Nat × Nat) × Option GateRec :=
  if s.teaches h then
    (lost.flatMap fun o => (List.range (2 * h.rcnt)).filterMap fun d =>
      match Tab.get 0 s.learn.got (16 * o + d) with
      | 0 => none
      | n + 1 => some (o, d, n), s.learn.gate)
  else ([], none)
/-- The higher unit of two reports, for every owner and directed ring (R316). -/
def mergeHigh (a b : List (Nat × Nat × Nat)) : List (Nat × Nat × Nat) :=
  ((a ++ b).map fun e => (e.1, e.2.1)).eraseDups.map fun k =>
    (k.1, k.2, (((a ++ b).filter fun e => e.1 == k.1 && e.2.1 == k.2).map fun e => e.2.2).foldl max 0)
/-- The bytes of a survivor's report; their order is log 29. -/
def reportBytes (r : List (Nat × Nat × Nat) × Option GateRec) : List Byte :=
  leBytes 2 r.1.length ++ (r.1.flatMap fun e => leBytes 2 e.1 ++ leBytes 1 e.2.1 ++ leBytes 5 e.2.2) ++
    match r.2 with
    | some g => leBytes 8 g.t ++ leBytes 1 g.round ++ GateRec.bytes g
    | none => []
/-- A report from its bytes. -/
def reportOf (epoch : Nat) (b : List Byte) : List (Nat × Nat × Nat) × Option GateRec :=
  let n := leAt b 0 2
  let x := b.drop (2 + 8 * n)
  ((List.range n).map fun i => (leAt b (2 + 8 * i) 2, leAt b (4 + 8 * i) 1, leAt b (5 + 8 * i) 5),
    if x.isEmpty then none else some (GateRec.ofBytes (leAt x 0 8) (leAt x 8 1) epoch (x.drop 9)))
/-- The members of a set that this module reaches over links among them. -/
def Herd.reached (h : Herd) (set : List Nat) (links : List (Nat × Nat × Nat)) : List Nat :=
  let d := hopsTo { live := set, links := links } h.self
  set.filter fun m => Tab.get 0 d m != 0
/-- The Bellwether issues a record, to the members in force and to one that it admits. The swap instant lies 5 to 50 ms ahead,
and is otherwise free (log 29). -/
def State.issueRecord (s : State) (hid : Nat) (x : Shrink) : State :=
  match s.herd? hid with
  | none => s
  | some h => match s.free 32 with
    | (f, s) =>
      let r : MemRec := { h.issued with
        live := x.live, links := x.links, bell := x.live.headD h.self, epoch := h.issued.epoch + 1
        swap := s.now.toNat + 5000000 + f.toNat % 45000001, high := x.high, gate := x.gate }
      let dsts := h.rcd.live ++ x.live.filter fun m => !h.rcd.live.contains m
      let s := (dsts.filter (· != h.self)).foldl (fun s m => s.toMember h m (recMsg r)) s
      if x.live.contains h.self then s.updHerd hid fun h => { h with next := some r, shrink := none } else s.leaveHerd hid
/-- The Bellwether changes the record to the members `live` and the link map `links`; `heard` lists the members that still
answer it. Without a quorum of the previous record among those that it reaches it withdraws; below NMIN, or past the last
epoch, the herd ends. When a step is open and members are lost, the survivors report first what they have received (R316);
the codes of the two messages are log 29. -/
def State.newRecord (s : State) (hid : Nat) (live heard : List Nat) (links : List (Nat × Nat × Nat)) : State :=
  match s.herd? hid with
  | none => s
  | some h =>
      let links := links.filter fun l => live.contains l.1 && live.contains l.2.2
      let d := hopsTo { live := live, links := links } (live.headD h.self)
      let kept := live.filter fun m => Tab.get 0 d m != 0
      let lost := h.rcd.live.filter fun m => !kept.contains m
      let own := s.carry h lost
      let x : Shrink := {
        live := kept, links := links, high := own.1, gate := own.2
        asked := if lost.isEmpty || !s.teaches h then [] else kept.filter fun m => m != h.self && h.rcd.live.contains m }
      if !quorum h.issued.live heard then s.quitHerd hid
      else if kept.length < h.nmin || 2 ^ 32 - 1 ≤ h.issued.epoch then s.endHerd hid
      else if x.asked.isEmpty then s.issueRecord hid x
      else x.asked.foldl (fun s m => s.toMember { h with rcd := { h.rcd with live := kept, links := links } } m
          { opc := 0x4B, data := lost.flatMap (leBytes 2) }) (s.updHerd hid fun h => { h with shrink := some x })
/-- A survivor has reported: the Bellwether takes the maximum, and issues the record once every survivor has (R316). -/
def State.heardReport (s : State) (h : Herd) (m : CollMsg) : State :=
  match h.shrink with
  | none => s
  | some x =>
      let r := reportOf m.mep (m.data.drop 8)
      let y : Shrink := { x with
        asked := x.asked.filter (· != m.src), high := mergeHigh x.high r.1, gate := x.gate.orElse fun _ => r.2 }
      if y.asked.isEmpty then s.issueRecord h.hid y else s.updHerd h.hid fun h => { h with shrink := some y }
/-- A survivor tells the Bellwether what it has received of the lost members that a query names (R316). -/
def State.answerShrink (s : State) (h : Herd) (m : CollMsg) : State :=
  let b := m.data.drop 8
  s.toMember h m.src { opc := 0x4C, data := reportBytes (s.carry h ((List.range (b.length / 2)).map fun i => leAt b (2 * i) 2)) }
/-- A member that is silent or stops leaves the live map (R290). -/
def State.dropMember (s : State) (hid m : Nat) : State :=
  match s.herd? hid with
  | none => s
  | some h =>
      let live := h.latest.live.filter (· != m)
      s.newRecord hid live (h.reached live h.latest.links) h.latest.links
/-- Members that the Bellwether still reaches leave the live map: strays, and those that fail the field test (R312). -/
def State.expel (s : State) (hid : Nat) (kept : List Nat) : State :=
  match s.herd? hid with
  | none => s
  | some h => s.newRecord hid kept (h.reached h.latest.live h.latest.links) h.latest.links
/-- The link map changes (R290). -/
def State.newLinks (s : State) (hid : Nat) (links : List (Nat × Nat × Nat)) : State :=
  match s.herd? hid with
  | none => s
  | some h => s.newRecord hid h.latest.live (h.reached h.latest.live links) links
/-- A herd that did not form, or a join that did not end, is gone; its command is refused. -/
def State.unform (s : State) (hid : Nat) : State :=
  ({ s with herds := s.herds.filter fun x => x.hid != hid }).completeAll
    (fun w => w == MbxWait.herd hid || w == MbxWait.join hid) stRefused []
/-- A herd that runs. -/
def Herd.runs (h : Herd) : Bool := h.phase == .live || h.phase == .holding
/-- The links of a herd once a member has reported the members at its ports: its own are replaced, and those of others
toward it stay while it still reports them. -/
def Herd.relink (h : Herd) (m : Nat) (ends : List (Nat × Nat)) : List (Nat × Nat × Nat) :=
  (h.latest.links.filter fun l => l.1 != m && (l.2.2 != m || ends.any fun e => e.2 == l.1)) ++ ends.map fun e => (m, e.1, e.2)
/-- The members at the ports that a member reports, among the live ones: port and member. -/
def Herd.ends (h : Herd) (peers : List (Nat × Nat)) : List (Nat × Nat) :=
  (peers.map fun e => (e.1, h.nodes.idxOf e.2)).filter fun e => h.latest.live.contains e.2
/-- A port of this module has gone down (R290): the Bellwether issues a record of the changed link map, and another
member reports its ports to it. -/
def State.linkLost (s : State) (p : Nat) : State :=
  (s.herds.filter Herd.runs).foldl (fun s h =>
    if !h.latest.links.any fun l => l.1 == h.self && l.2.1 == p then s
    else if h.latest.bell == h.self then s.newLinks h.hid (h.relink h.self (h.ends s.portPeers))
    else s.toMember h h.latest.bell (announceMsg s.portPeers (s.ownQuote h.chd))) s

end Sys2Proof.Machine
end

