-- ==== Sys2Proof/Machine/Flit.lean ====
section
/-! DEFINITION. A flit on the wire: its layout, its CRC and its seal (`11` R263–R266). -/

namespace Sys2Proof.Machine

/-- The first `n` bytes of a list, with zeros behind its end. -/
def fitTo (n : Nat) (b : List Byte) : List Byte := (b ++ List.replicate n 0).take n
/-- Two byte strings combined bit by bit. -/
def xorBytes (a b : List Byte) : List Byte := List.zipWith (· ^^^ ·) a b

/-! ### The CRC (R265) -/

/-- One bit of the CRC: the polynomial of ECMA-182, reflected, since bits are taken least significant first. -/
def crcBit (c : W64) : W64 := if bit c 0 then (c >>> 1) ^^^ 0xC96C5795D7870F42 else c >>> 1
/-- One byte of the CRC. -/
def crcByte (c : W64) (b : Byte) : W64 := (List.range 8).foldl (fun c _ => crcBit c) (c ^^^ b.zeroExtend 64)
/-- The CRC of a byte string: from all ones, inverted at the end. -/
def crc64 (b : List Byte) : W64 := ~~~(b.foldl crcByte (BitVec.allOnes 64))
/-- A flit closed by its CRC, little-endian. -/
def closeFlit (b : List Byte) : List Byte := b ++ leBytes 8 (crc64 b).toNat
/-- The CRC over bytes 0–247 of a flit is good. -/
def crcGood (w : List Byte) : Bool := leAt w 248 8 == (crc64 (w.take 248)).toNat

/-! ### The header (R264) -/

/-- Word 0 of the header. -/
def Flit.word0 (f : Flit) : W64 :=
  at64 (f.kind % 16) 60 ||| at64 (f.vc % 8) 57 ||| at64 (b2n f.som) 56 ||| at64 (b2n f.eom) 55 ||| at64 (f.plen % 256) 47 |||
    at64 (f.kep % 256) 32 ||| w64 (f.seq % 2 ^ 32)
/-- Word 1 of the header. -/
def Flit.word1 (f : Flit) : W64 := at64 (f.srcn % 65536) 48 ||| at64 (f.dstn % 65536) 32
/-- Bytes 0–15 of a flit. -/
def Flit.head (f : Flit) : List Byte := wordBytes [f.word0, f.word1]
/-- The header of a flit as received, with its reserved bits; the payload is not yet read. -/
def Flit.ofWire (resp : Bool) (w : List Byte) : Flit :=
  let a := wordAt w 0
  let b := wordAt w 1
  { kind := fld a 63 60, vc := fld a 59 57, resp := resp, som := bit a 56, eom := bit a 55, plen := fld a 54 47
    rsv := fld a 46 40 * 2 ^ 32 + fld b 31 0, kep := fld a 39 32, seq := fld a 31 0, srcn := fld b 63 48, dstn := fld b 47 32
    wire := w }

/-! ### The seal (R266) -/

/-- The domain of a sealed flit: 0 for DATA and 1 for LCTL. -/
def Flit.dom (f : Flit) : Nat := b2n (f.kind == 2)
/-- The IV: EPOCH ‖ DOM ‖ SEQ, each 32 bits and big-endian. -/
def Flit.iv (f : Flit) (epoch : Nat) : List Byte := beBytes 4 epoch ++ beBytes 4 f.dom ++ beBytes 4 f.seq
/-- The key stream of a flit: what SM4-GCM makes of 224 zeros, as the mode is a stream cipher (log 3). -/
def flitStream (key : BitVec 128) (iv aad : List Byte) : List Byte :=
  fitTo 224 (Config.gcmSeal key iv aad (List.replicate 224 0))
/-- The first 8 B of the GCM tag of a plaintext of 224 B. -/
def flitTag (key : BitVec 128) (iv aad plain : List Byte) : List Byte :=
  fitTo 8 ((Config.gcmSeal key iv aad plain).drop 224)
/-- A DATA or LCTL flit sealed under a key and its epoch: 256 bytes. -/
def Flit.sealed (f : Flit) (key : BitVec 128) (epoch : Nat) : List Byte :=
  let plain := fitTo 224 f.data
  let iv := f.iv epoch
  closeFlit (f.head ++ xorBytes plain (flitStream key iv f.head) ++ flitTag key iv f.head plain)
/-- A flit that is not sealed, IDLE or BRING-UP: its tag is zero (R262, R263). -/
def Flit.open256 (f : Flit) : List Byte := closeFlit (f.head ++ fitTo 224 f.data ++ List.replicate 8 0)
/-- The plaintext of a sealed flit as received; none where its tag fails. -/
def Flit.unseal (f : Flit) (key : BitVec 128) (epoch : Nat) : Option (List Byte) :=
  let head := f.wire.take 16
  let iv := f.iv epoch
  let plain := xorBytes (fitTo 224 (f.wire.drop 16)) (flitStream key iv head)
  if flitTag key iv head plain == fitTo 8 (f.wire.drop 240) then some plain else none
/-- A flit with its bytes as sent under a key and its epoch. -/
def Flit.send (f : Flit) (key : BitVec 128) (epoch : Nat) : Flit := { f with wire := f.sealed key epoch }
/-- A flit that is not sealed, with its bytes as sent. -/
def Flit.bare (f : Flit) : Flit := { f with wire := f.open256 }
/-- The values of an IDLE flit (R264). -/
def Flit.idle : Flit := Flit.bare {}

/-! ### Messages in a queue (R269) -/

/-- The messages of a queue of flits, each a run that ends with EOM. -/
def messages : List Flit → List (List Flit)
  | [] => []
  | f :: fs => if f.eom then [f] :: messages fs else
      match messages fs with
      | [] => [[f]]
      | m :: ms => (f :: m) :: ms
/-- The collective channel of a message, from its header (`12` *Collective message header*). -/
def msgChan : List Flit → Nat
  | [] => 0
  | f :: _ => fld (wordAt f.data 0) 55 52

end Sys2Proof.Machine
end

