-- ==== Sys2Proof/Machine/Link.lean ====
section
/-! DEFINITION. The Acnor Link ports: bring-up, flits, credits, replay, timers and rekey (`11`). -/

namespace Sys2Proof.Machine

/-! ### The end of a channel (`10` R250) -/

/-- A message about a handoff channel across modules, on the handoff virtual channel: its entry, a cause code once it has
broken, the credit of R251 and the last record that is visible (log 28). -/
def State.sendCredit (s : State) (h : Handoff) (upTo arrived : Nat) (cause : Option Nat) : State :=
  if h.peer = 0 || (s.port h.port).st != .up then s
  else s.sendMsg h.port 6 false (wordBytes [at64 h.entry 56 ||| at64 (b2n cause.isSome) 55 ||| w64 (cause.getD 0), w64 upTo, w64 arrived])
/-- A handoff channel breaks: AFID and SFID go to 2⁶² with error status, each context here has an event, and the far end
of a channel across modules is told. The manual lists no cause codes, so the code is a free value (log 1), or the one
that the far end tells. -/
def State.breakChannel (s : State) (ch : Nat) (told : Option (BitVec 8) := none) : State :=
  let h := s.handoff ch
  if !h.isOpen then s
  else
    match (match told with | some c => (c, s) | none => s.free 8 : BitVec 8 × State) with
    | (f, s) =>
      let s := s.updHandoff ch fun h => { h with isOpen := false, broken := some f.toNat, ending := none }
      let s := if told.isNone then s.sendCredit h 0 h.last (some f.toNat) else s
      let s := if h.consEnd then s.signal h.afid (at64 1 62) 2 else s
      let s := if h.prodEnd then s.signal h.sfid (at64 1 62) 2 else s
      let data := at64 ch 56 ||| at64 f.toNat 48 ||| w64 (h.last % 2 ^ 48)
      let s := if h.prodEnd then s.ctxEvent h.prod 5 data else s
      if h.consEnd && !(h.prodEnd && h.prod == h.cons) then s.ctxEvent h.cons 5 data else s
/-! ### Ports (R260–R262) -/

/-- Ports run: firmware serves them, and the fabric clock is good (`22` R498, `23` R528). -/
def State.portsRun (s : State) : Bool := (s.dev == .ready || s.dev == .starting) && s.pw.fabClk
/-- The pool requests that a port holds, received and not yet served: class and message. -/
def Port.unserved (p : Port) : List (Nat × List Byte) :=
  p.old ++ ([2, 4, 6] : List Nat).flatMap fun cls => (Tab.get [] p.rxMsg cls).map fun m => (cls, m.2)
/-- A port after its reset: node ID, mode and equaliser settings survive (`21` R479), and the pool requests received are
still served, without their responses (R276). -/
def Port.down (p : Port) : Port := { mode := p.cfgMode, cfgMode := p.cfgMode, fails := p.fails, old := p.unserved }
/-- A reset of the port as a unit returns its registers to their reset values, before what caused it is counted
(`21` R479, `25` R549). -/
def State.portReset (s : State) (p : Nat) : State := s.dropRegs (regPort p) 0x10000
/-- A bring-up failure: the port goes DOWN, its keys are destroyed, and the failure is counted (R260). -/
def State.portFail (s : State) (p : Nat) (st : PortState) : State :=
  ((if st = .admitFail then s.portReset p else s).bump (regPort p) 10 1).updPort p fun k =>
    if st = .admitFail then
      { k.down with st := st, fails := k.fails + 1, peer := k.peer, ident := k.ident }
    else { k.quiet with st := st, mode := k.cfgMode, fails := k.fails + 1 }
/-- NODE.SET (R260): 0x0000 and 0xFFFF are reserved. -/
def execNodeSet (c : MbxCall) (s : State) : Out :=
  .next (mailbox c (fun a => { opc := 0x30, masks := [lowMask 16], names := [], ctxs := [], always := false, free := false
                               bad := fld (argAt a 0) 15 0 == 0 || fld (argAt a 0) 15 0 == 0xFFFF })
    (fun a s =>
      if (List.range 16).all fun p =>
          !s.portFitted p || (s.port p).st == .down || (s.port p).st == .admitFail || (s.port p).st == .absent then
        ({ s with node := fld (argAt a 0) 15 0 }, ok)
      else (s, .done stBusy [])) s)
/-- ADMIT.SET (R261): an entry of the admission list, a root or a firmware measurement. -/
def execAdmitSet (c : MbxCall) (s : State) : Out :=
  .next (mailbox c (fun _ => { opc := 0x31, masks := [lowMask 8, allMask, allMask, allMask, allMask], names := [], ctxs := []
                               always := false, free := false, bad := false })
    (fun a s =>
      let w := argAt a 0
      let e := if bit w 7 then some (bit w 6, argDig a 1) else none
      ({ s with admitList := Tab.set none s.admitList (fld w 5 0) e }, ok)) s)
/-- A digest of a kind is in the admission list. -/
def State.admitted (s : State) (kind : Bool) (d : BitVec 256) : Bool :=
  s.admitList.any fun e => e.2 == some (kind, d)
/-- A bring-up message as a flit, which has no key, no SEQ and a zero tag (R262), between two nodes (R264). -/
def bringFlit (src dst : Nat) (b : List Byte) : Flit :=
  Flit.bare { kind := 3, plen := min 224 b.length, srcn := src, dstn := dst, data := b.take 224 }
/-- The node ID of the peer as a port in bring-up knows it: that of this bring-up's HELLO, and 0 before (R264, log 27). -/
def Port.known (k : Port) : Nat := if k.st = .attest ∨ k.st = .keyx then k.peer else 0
/-- A port that enters a state of its bring-up sends its own message of that state, and waits for an answer (R262). -/
def State.bringSay (s : State) (p : Nat) (b : List Byte) : State :=
  s.updPort p fun k => { k with bring := some b, bringWait := true, out := some (bringFlit s.node k.known b) }
/-- A message of the SPDM attestation or of the key exchange: the manual does not give its bytes (log 1). -/
def State.bringFree (s : State) (p : Nat) : State :=
  match s.free 1792 with
  | (f, s) => s.bringSay p (leBytes 224 f.toNat)
/-- The message of HELLO: protocol version, which the manual does not give (log 1), mode and node ID. -/
def State.sayHello (s : State) (p : Nat) : State :=
  match s.free 16 with
  | (f, s) => s.bringSay p (leBytes 2 f.toNat ++ leBytes 1 (b2n (s.port p).mode) ++ leBytes 2 s.node)
/-- TRAIN (R260). -/
def execTrain (port : Fin 16) (ok : Bool) (s : State) : Out :=
  .next (if (s.port port).st != .train then s
    else if ok then (s.updPort port fun k => { k with st := .hello }).sayHello port
    else s.portFail port .down)
/-- HELLO (R260): `same` is whether protocol version and mode agree. -/
def execHello (port : Fin 16) (same : Bool) (peer : BitVec 16) (s : State) : Out :=
  .next (if (s.port port).st != .hello then s
    else if same && peer != 0 && peer != 0xFFFF then
      (s.updPort port fun k => { k with st := .attest, peer := peer.toNat }).bringFree port
    else s.portFail port .down)
/-- A peer's node ID differs from the module's own and from that of every other port that is UP, unless
both ports reach the same peer (R261). -/
def State.peerFree (s : State) (port : Nat) (ident : BitVec 256) : Bool :=
  let n := (s.port port).peer
  n != s.node && (List.range 16).all fun p =>
    p == port || (s.port p).st != .up || (s.port p).peer != n || (s.port p).ident == ident
/-- ATTEST (R261): `ok` is whether the peer's chain and signatures verify, `ident` its identity. A refused
peer leaves the port in ADMIT_FAIL, counted as a failure; its node ID and identity are bound to the port too. -/
def execAttest (port : Fin 16) (ok : Bool) (root fwm ident : BitVec 256) (s : State) : Out :=
  .next (if (s.port port).st != .attest then s
    else if ok && s.admitted false root && s.admitted true fwm && s.peerFree port ident then
      (s.updPort port fun k => { k with st := .keyx, ident := ident }).bringFree port
    else (s.updPort port fun k => { k with ident := ident }).portFail port .admitFail)
/-- The key of a direction at an epoch (`15` R371, R372): DIR is 0 from the lower node ID. -/
def State.linkKey (s : State) (port epoch : Nat) (tx : Bool) (z : BitVec 256) : BitVec 128 :=
  let n := s.node
  let m := (s.port port).peer
  let lo := min n m
  let dir := if tx then b2n (n != lo) else b2n (m != lo)
  BitVec.ofNat 128 (kdf z "STRELNO LINK" (beBytes 2 lo ++ beBytes 2 (max n m) ++ beBytes 4 epoch ++ beBytes 1 dir) 128)
/-- The shared secret Z of a link: the SM2 key exchange of the two alias keys with an ephemeral of each end (`15` R372). -/
def State.linkSecret (s : State) (d : BitVec 256) (p : PeerKeys) : BitVec 256 :=
  Config.sm2exchange (s.kslot 4).value d p.static p.eph
/-- KEYX (R260): the exchange needs an ephemeral from the key DRBG (`15` R381, R383); `ok` is whether S1 and S2 confirm it. The
first keys are those of epoch 0, and credits start at zero. -/
def execKeyx (port : Fin 16) (ok : Bool) (peer : PeerKeys) (s : State) : Out :=
  .next (if (s.port port).st != .keyx then s
    else match s.drawFresh 256 with
      | none => s.keyRefused.portFail port .down
      | some (d, s) =>
          if !ok then s.portFail port .down
          else s.updPort port fun k => { k.quiet with
            st := .up, fails := 0, peer := k.peer, ident := k.ident
            tx := { key := s.linkKey port 0 true (s.linkSecret d peer) }
            rx := { key := s.linkKey port 0 false (s.linkSecret d peer) } })
/-- A state of a bring-up in progress. -/
def PortState.rising : PortState → Bool
  | .train => true
  | .hello => true
  | .attest => true
  | .keyx => true
  | _ => false
/-- BRING_UP_TIMEOUT (R260). -/
def execBringUpTimeout (port : Fin 16) (s : State) : Out :=
  .next (if (s.port port).st.rising then s.portFail port .down else s)
/-- A fitted port of a module with a node ID enters TRAIN (R260). -/
def State.startPort (s : State) (p : Nat) : State :=
  if s.portsRun && s.portFitted p && s.node != 0 && (s.port p).st == .down then
    s.updPort p fun k => { k with st := .train, mode := k.cfgMode }
  else s
/-- PORT_RETRY (R260). -/
def execPortRetry (port : Fin 16) (s : State) : Out := .next (s.startPort port)
/-- The message last sent leaves once more, the same bytes. -/
def Port.sayAgain (k : Port) (node : Nat) : Port := match k.bring with
  | some b => { k with out := some (bringFlit node k.known b) }
  | none => k
/-- BRING_UP (R262): a flit of 256 bytes arrives; one with a bad CRC is discarded and counted. It answers the message
that waits; where none waits, the peer has not heard the answer, and the port sends its last message again. With no flit
within 100 µs, the message that waits is sent again. -/
def execBringUp (port : Fin 16) (recv : Option (List Byte)) (s : State) : Out :=
  .next (if !(s.port port).st.rising then s
    else match recv with
      | some w =>
          let f := Flit.ofWire false w
          if !crcGood w then s.bump (regPort port) 3 1
          else if f.kind != 3 then s
          else s.updPort port fun k =>
            let k : Port := { k with bringIn := some ((w.drop 16).take (min 224 f.plen)) }
            if k.bringWait then { k with bringWait := false } else k.sayAgain s.node
      | none => s.updPort port fun k => if k.bringWait then k.sayAgain s.node else k)

/-! ### Peer-down (R276) -/

/-- A pool request that is completed without its response loses its context (R281): DOWN, or none within
2 ms. Requests of Yorek and the collective engine end without that; one of the checkpoint writer abandons its
write (`19` R450). -/
def State.poolLost (s : State) (r : PoolReq) : State :=
  match r.store with
  | some d => match d.join with
    | some (hid, _) => s.unform hid
    | none => s.dropCkpts (fun w => w.ctx == r.ctx && w.cls == d.cls && w.name == d.name && (d.cls != 2 || w.t == d.t)) .store
  | none =>
  if r.init = 725 || r.init = 726 then s
  else s.lose r.ctx 0x09 (if r.init < 512 then some r.init else none) (s.core r.init).pc
/-- A request of a port that went down: reissued once on the lowest other port of its entry that is UP, or
completed with status DOWN. -/
def State.reissue (s : State) (r : PoolReq) : State :=
  let drop : State := { s with poolReqs := s.poolReqs.erase r }
  let port : Option Nat := match r.store with
    | some d => (List.range 16).find? fun p => d.pmask.testBit p && (s.port p).st == .up
    | none => (s.pmapAt r.da).bind s.egress
  match r.dead, r.reissued, port with
  | true, _, _ => drop
  | false, false, some q =>
      let full := 4096 ≤ (s.poolReqs.filter fun x => x.port == q && x.waits == 0).length
      let r' : PoolReq := { r with port := q, reissued := true, waits := if r.waits = 2 then 2 else b2n full }
      let s : State := { s with poolReqs := s.poolReqs.map fun x => if x = r then r' else x }
      if r'.waits = 0 then s.poolSend r' else s
  | false, _, _ => drop.poolLost r
/-- Tether loses a parent whose port goes down: a LOCKED module holds over (`12` R308). -/
def Tether.lostPort (t : Tether) (p : Nat) : Tether :=
  if t.hasParent && t.pport == p then
    { t with hasParent := false, best := none, st := if t.st = .locked then .holdover else t.st }
  else t
/-- The port goes down as at a peer-down, and its traffic has the outcomes of R276. -/
def State.dropPort (s : State) (p : Nat) : State :=
  let s := (s.updPort p fun k => { k.down with fails := 0 }).linkEvent p
  let s := ((List.range 256).filter fun c => (s.handoff c).isOpen && (s.handoff c).peer != 0 &&
      (s.handoff c).port == p).foldl (fun s c => s.breakChannel c) s
  let s := (s.poolReqs.filter fun r => r.port == p).foldl State.reissue s
  (State.ctlLost { s with tet := s.tet.lostPort p } p).linkLost p
/-- Peer-down, counted. -/
def State.peerDown (s : State) (p : Nat) : State := ((s.portReset p).bump (regPort p) 8 1).dropPort p
/-- A protocol error: counted, and the port goes down as at a peer-down (R267). -/
def State.protocolError (s : State) (p : Nat) : State := ((s.portReset p).bump (regPort p) 9 1).dropPort p
/-- PEER_DOWN (R274, R276): 50 µs without progress. -/
def execPeerDown (port : Fin 16) (s : State) : Out :=
  .next (if (s.port port).st = .up then s.peerDown port else s)
/-- PORT.RESET (`21` R479): the outcomes of R276 for a port that is UP; bring-up follows. -/
def execPortReset (c : MbxCall) (s : State) : Out :=
  .next (mailbox c (fun _ => { opc := 0x32, masks := [lowMask 4], names := [], ctxs := [], always := false
                               bad := false, free := false })
    (fun a s =>
      let p := fld (argAt a 0) 3 0
      let s := s.portReset p
      (if (s.port p).st = .up then s.dropPort p else s.updPort p fun k => { k.down with fails := 0 }, ok)) s)

/-! ### Sending (R264–R273) -/

/-- Flits of a class may be sent within its credits (R270). -/
def Port.credit (p : Port) (cls : Nat) : Bool :=
  (Tab.get 0 p.sent cls + 2 ^ 32 - Tab.get 0 p.freed cls) % 2 ^ 32 < creditsOf cls
/-- The flits of a class in the order in which they may leave. On the collective virtual channel only flits of the channel
of the present slot entry leave, and a message begins only if its last flit, at 2.56 ns each, leaves before the entry
ends (`12` R294): `slot` is that channel and the nanoseconds that its entry still has. -/
def Port.queue (p : Port) (slot : Nat × Nat) (cls : Nat) : List Flit :=
  let q := Tab.get [] p.txQ cls
  if cls != 0 then q
  else if Tab.get 0 p.sending 0 != 0 then (if p.collCh = slot.1 then q else [])
  else match (messages q).find? fun m => msgChan m == slot.1 with
    | some m => if 256 * m.length ≤ 100 * slot.2 then m ++ ((messages q).erase m).flatten else []
    | none => []
/-- A flit of a class waits to leave. -/
def Port.waits (p : Port) (slot : Nat × Nat) (cls : Nat) : Bool := !(p.queue slot cls).isEmpty
/-- The classes of a virtual channel that may send its next flit: that of the message in progress, or else both, the
response first (R269). -/
def Port.turns (p : Port) (vc : Nat) : List Nat := match Tab.get 0 p.sending vc with
  | 0 => [2 * vc + 1, 2 * vc]
  | n + 1 => [n]
/-- The class of a virtual channel that can send. -/
def Port.sendable (p : Port) (slot : Nat × Nat) (vc : Nat) : Option Nat :=
  (p.turns vc).find? fun cls => p.waits slot cls && p.credit cls
/-- The virtual channels of the round robin, in the order of their weights (R271). -/
def wrrVcs : List Nat := [0, 1, 2, 3, 6, 7]
/-- The weight of a virtual channel; 0 is applied as 1 (`25` R557). -/
def Port.weight (p : Port) (vc : Nat) : Nat := max 1 (p.weights.getD (wrrVcs.idxOf vc) 1)
/-- The choice of the round robin: the first channel with something to send and turns left in the round; a
round with none begins anew. -/
def Port.choose (p : Port) (slot : Nat × Nat) : Option (Nat × Port) :=
  let ready := wrrVcs.filter fun vc => (p.sendable slot vc).isSome
  match ready.find? fun vc => Tab.get 0 p.wrr vc != 0 with
  | some vc => some (vc, { p with wrr := Tab.upd 0 p.wrr vc (· - 1) })
  | none => ready.head?.map fun vc =>
      let w := wrrVcs.foldl (fun t v => Tab.set 0 t v (p.weight v)) ([] : Tab Nat)
      (vc, { p with wrr := Tab.upd 0 w vc (· - 1) })
/-- The next virtual channel: time, control, then the round robin. -/
def Port.nextVc (p : Port) (slot : Nat × Nat) : Option (Nat × Port) :=
  if (p.sendable slot 5).isSome then some (5, p)
  else if (p.sendable slot 4).isSome then some (4, p)
  else p.choose slot
/-- The channel of the present slot entry and the time that it still has (`12` R293). -/
def State.slot (s : State) : Nat × Nat := (s.slotNow, s.slotLeft)
/-- Flits that wait for credit are counted by virtual channel. -/
def State.countWaits (s : State) (p : Nat) : State :=
  (List.range 8).foldl (fun s vc =>
    if ((s.port p).turns vc).any ((s.port p).waits s.slot) && ((s.port p).sendable s.slot vc).isNone then
      s.bump (regPort p) (15 + vc) 1 else s) s
/-- What an LCTL flit carries: the SEQ of the last flit accepted, which before any is 2³² − 1, the SEQ that a NAK names,
whether one is due, and FREED of each class; of the collective virtual channel as told. Its layout is not given (log 27). -/
def Port.lctlBody (k : Port) : List Byte :=
  leBytes 4 (k.rxSeq + 2 ^ 32 - 1) ++ leBytes 4 k.rxSeq ++ leBytes 1 (b2n k.nakDue) ++
    (List.range 16).flatMap fun i => leBytes 4 (if i = 0 then k.freedTold else Tab.get 0 k.freedOwn i)
/-- Every port reports what it has freed of the collective virtual channel, unless the all-gather buffer is full: the X-die
then withholds those credits (`09` R225). -/
def State.tellFreed (s : State) (p : Nat) : State :=
  if s.learn.agFull then s else s.updPort p fun k => { k with freedTold := Tab.get 0 k.freedOwn 0 }
/-- An LCTL flit leaves: ACK, the NAK that is due and FREED (R273). -/
def State.sendLctl (s : State) (p : Nat) : State :=
  let s := s.tellFreed p
  let k := s.port p
  if 2 ^ 32 - 1 ≤ k.txCtl then s.peerDown p
  else
    let s := if k.nakDue then s.bump (regPort p) 4 1 else s
    s.updPort p fun k => { k with
      txCtl := k.txCtl + 1, unacked := 0, nakDue := false, lctlDue := false
      nakked := if k.nakDue then some (k.rxSeq, s.now) else k.nakked
      out := some (Flit.send { kind := 2, plen := k.lctlBody.length, kep := k.tx.epoch % 256, seq := k.txCtl, srcn := s.node,
                               dstn := k.peer, data := k.lctlBody } k.tx.key k.tx.epoch) }
/-- The Tether time in 2⁻¹⁶ ns. -/
def Tether.time (t : Tether) : Nat := t.ns.toNat * 65536 + t.frac.toNat
/-- The stamp of a time flit that leaves, corrected by the fixed latency of the transmitter (R271). -/
def State.stampOut (s : State) (p : Nat) : Nat := s.tet.time + (Config.portDelay p true).toNat
/-- The stamp of a time flit that arrives, corrected by the fixed latency of the receiver (R271). -/
def State.stampIn (s : State) (p : Nat) : Nat := s.tet.time - (Config.portDelay p false).toNat
/-- A parent's answer of an exchange (`12` R307): t2 and t3, whole nanoseconds and then fractions (log 32). -/
def answerBytes (t2 t3 : Nat) : List Byte :=
  wordBytes [w64 (t2 / 65536), w64 (t3 / 65536), at64 (t2 % 65536) 16 ||| w64 (t3 % 65536)]
/-- What a time flit carries as it leaves at a stamp: an answer, the one message of 24 B, takes that stamp as its t3. -/
def stamped (b : List Byte) (t : Nat) : List Byte :=
  if b.length = 24 then answerBytes (leAt b 0 8 * 65536 + leAt b 18 2) t else b
/-- A port notes the stamp of a time flit that leaves; a question to the parent is the one message of 8 B. -/
def Port.leaves (k : Port) (cls len t : Nat) : Port :=
  if cls != 10 then k else { k with tOut := t, tAsk := if len = 8 then some t else k.tAsk }
/-- The flit at the head of a class is sent for the first time (R272), sealed under the key of its epoch (R266). -/
def State.sendData (s : State) (p cls : Nat) (f : Flit) (rest : List Flit) : State :=
  let k := s.port p
  let t := s.stampOut p
  let f' := Flit.send { f with kep := k.tx.epoch % 256, seq := k.txSeq, srcn := s.node, dstn := k.peer
                               data := if cls = 10 then stamped f.data t else f.data } k.tx.key k.tx.epoch
  (s.bump (regPort p) (23 + cls / 2) 1).updPort p fun k => { k.leaves cls f.data.length t with
    txQ := Tab.set [] k.txQ cls rest, txSeq := k.txSeq + 1, replay := k.replay ++ [f'], out := some f'
    sending := Tab.set 0 k.sending (cls / 2) (if f.eom then 0 else cls + 1)
    collCh := if cls = 0 && f.som then msgChan [f] else k.collCh
    sent := Tab.upd 0 k.sent cls fun n => (n + 1) % 2 ^ 32 }
/-- A new DATA flit, or IDLE (R271): none while the replay buffer is full, or while a rekey waits for the old
epoch's acknowledgement (R277). Pool requests that wait for a tag or their order leave first, when they can (R279, R280). -/
def State.sendNew (s : State) (p : Nat) : State :=
  let idle (s : State) : State := s.updPort p fun k => { k with out := some Flit.idle }
  let s := s.unpark
  let k := s.port p
  let s := s.countWaits p
  if k.tx.next.isSome then idle s
  else if 2048 ≤ k.replay.length then
    idle (if k.txQ.isEmpty then s else s.bump (regPort p) 12 1)
  else match k.nextVc s.slot with
    | none => idle s
    | some (vc, k') => match k'.sendable s.slot vc with
      | none => idle s
      | some cls => match k'.queue s.slot cls with
        | [] => idle s
        | f :: rest =>
            if 2 ^ 32 - 1 ≤ k.txSeq then s.peerDown p
            else (s.updPort p fun _ => k').sendData p cls f rest
/-- FLIT_TRANSMIT (R271). -/
def execFlitTransmit (port : Fin 16) (s : State) : Out :=
  let p := port.val
  let k := s.port p
  .next (if k.st != .up || k.retraining then s
    else match k.replayN, k.replay[k.replayAt]? with
      | n + 1, some f => (s.bump (regPort p) 5 1).updPort p fun k =>
          { k.leaves (2 * f.vc + b2n f.resp) f.data.length (s.stampOut p) with
          replayN := n, replayAt := if n = 0 then 0 else k.replayAt + 1, out := some f }
      | _, _ =>
          if k.nakDue || k.lctlDue || 64 ≤ k.unacked then s.sendLctl p else s.sendNew p)
/-- LCTL_TIMER (R273): an LCTL flit is sent, behind the flits that are to be replayed (R271). -/
def execLctlTimer (port : Fin 16) (s : State) : Out :=
  .next (if (s.port port).st != .up || (s.port port).retraining then s
    else if (s.port port).replayN = 0 then s.sendLctl port
    else s.updPort port fun k => { k with lctlDue := true })

/-! ### Timers (R274) -/

/-- Replay from the oldest unacknowledged flit. -/
def Port.replayAll (p : Port) : Port := { p with replayAt := 0, replayN := p.replay.length }
/-- ACKNOWLEDGEMENT_TIMER (R274). -/
def execAcknowledgementTimer (port : Fin 16) (s : State) : Out :=
  .next (if (s.port port).st != .up || (s.port port).replay.isEmpty then s
    else (s.bump (regPort port) 6 1).updPort port Port.replayAll)
/-- RETRAIN_TIMER (R274). -/
def execRetrainTimer (port : Fin 16) (s : State) : Out :=
  .next (if (s.port port).st != .up || (s.port port).replay.isEmpty then s
    else (s.bump (regPort port) 7 1).updPort port fun k => { k with retraining := true })
/-- FAST_RETRAIN_COMPLETE (R274). -/
def execFastRetrainComplete (port : Fin 16) (s : State) : Out :=
  .next (if (s.port port).st != .up || !(s.port port).retraining then s
    else s.updPort port fun k => { k.replayAll with retraining := false })

/-! ### Receiving (R265–R273) -/

/-- A NAK for the SEQ expected falls due, unless one was sent within 2 µs (R272). -/
def Port.askNak (p : Port) (now : W64) : Port :=
  match p.nakked with
  | some (q, t) => if q = p.rxSeq ∧ (now - t).toNat < 2000 then p else { p with nakDue := true }
  | none => { p with nakDue := true }
/-- The key and the full epoch of a flit by its KEP: those that the receiver holds, or the next ones during a rekey
(R267, R277). -/
def Port.rxKey (p : Port) (kep : Nat) : Option (BitVec 128 × Nat) :=
  if kep = p.rx.epoch % 256 then some (p.rx.key, p.rx.epoch)
  else match p.rx.next with
    | some key => if kep = (p.rx.epoch + 1) % 256 then some (key, p.rx.epoch + 1) else none
    | none => none
/-- The first flit of the new epoch destroys the old key and restarts the counts (R277). -/
def Port.enterEpoch (p : Port) (kep : Nat) : Port :=
  match p.rx.next with
  | some key =>
      if kep = p.rx.epoch % 256 then p
      else { p with rx := { epoch := p.rx.epoch + 1, key := key }, rxSeq := 0, rxCtl := none, nakked := none }
  | none => p
/-- FEC counts of a flit's codewords: symbols corrected, codewords corrected, and those that cannot be corrected
(R259, R283). -/
def State.countFec (s : State) (p : Nat) (fec : List (Option (Fin 16))) : State :=
  fec.foldl (fun s c => match c with
    | some n => if n.val = 0 then s else (s.bump (regPort p) 0 n.val).bump (regPort p) 1 1
    | none => s.bump (regPort p) 2 1) s
/-- The checks of every received flit (R259, R265–R267), then what its kind does with it: `k` has the flit, with its
payload in clear. -/
def State.receive (s : State) (f : FlitIn) (k : Flit → State → State) : State :=
  let p := f.port.val
  let h := Flit.ofWire f.resp f.wire
  let x := s.port p
  if x.st != .up then s
  else
    let s := s.countFec p f.fec
    if f.lost || !crcGood f.wire then (s.bump (regPort p) 3 1).updPort p fun k => k.askNak s.now
    else if h.kind = 3 then s
    else if h.kind = 0 then (if h.rsv != 0 || h.srcn != 0 || h.dstn != 0 then s.protocolError p else k h s)
    else if 3 < h.kind then s.protocolError p
    else match x.rxKey h.kep with
      | none => s.protocolError p
      | some (key, epoch) => match h.unseal key epoch with
        | none => s.halt 0x03 9 p
        | some b =>
            if h.rsv != 0 || h.srcn != x.peer || h.dstn != s.node then s.protocolError p
            else k { h with data := b } (s.updPort p fun k => k.enterEpoch h.kep)
/-- The header of a pool message is bad (R278): an operation that is not of its virtual channel, an NL outside its range, a
reserved bit, a STAT where a request has none, or fewer than 32 bytes; each is taken as a protocol error (log 27). -/
def poolHdrBad (cls : Nat) (b : List Byte) : Bool :=
  let w := wordAt b 0
  let nl := fld w 31 0
  let ok := match fld w 63 56 with
    | 0x01 => cls / 2 == 1 && 1 ≤ nl && nl ≤ 16
    | 0x02 => cls / 2 == 1 && 17 ≤ nl && nl ≤ 8192
    | 0x03 => cls / 2 != 1 && 1 ≤ nl && nl ≤ 16
    | 0x04 => cls / 2 != 1 && 17 ≤ nl && nl ≤ 8192
    | 0x05 => cls / 2 == 2 && nl == 0
    | _ => false
  b.length < 32 || !ok || fld w 55 50 != 0 || fld (wordAt b 2) 47 0 != 0 || (if cls % 2 = 0 then fld w 35 32 != 0 else 3 < fld w 35 32)
/-- Messages of the class stay in the receive buffer until they are taken: those of the collective channel, whose credit
the collective engine withholds (`09` R225), and pool requests (R268, R270). -/
def heldClass (cls : Nat) : Bool := cls == 0 || cls == 2 || cls == 4 || cls == 6
/-- Receive buffer of a class freed: FREED rises by the flits (R270). -/
def Port.freeFlits (k : Port) (cls n : Nat) : Port := { k with freedOwn := Tab.upd 0 k.freedOwn cls fun x => (x + n) % 2 ^ 32 }
/-- A flit is accepted in its class: its bytes join the message, which EOM ends (R269). A message longer than the credits of
its class frees its flits as they arrive once it would hold all of them, since credits cannot deadlock (R270, log 27). -/
def Port.accept (k : Port) (cls : Nat) (f : Flit) : Port :=
  let x := if f.som then (0, []) else Tab.get (0, []) k.rxPart cls
  let long := decide (creditsOf cls ≤ x.1 + 1)
  let m : Nat × List Byte := (if heldClass cls && long then x.1 else x.1 + 1, x.2 ++ f.data.take f.plen)
  let k := if heldClass cls && !long then k else k.freeFlits cls 1
  { k with
    rxSeq := k.rxSeq + 1, unacked := k.unacked + 1, nakDue := false
    rxPart := Tab.set (0, []) k.rxPart cls (if f.eom then (0, []) else m)
    rxMsg := if f.eom then Tab.upd [] k.rxMsg cls fun l => if heldClass cls then l ++ [m] else [m] else k.rxMsg }
/-- The message whose last flit has been accepted in a class. -/
def Port.newest (k : Port) (cls : Nat) : List Byte := ((Tab.get [] k.rxMsg cls).getLast?.getD (0, [])).2
/-- DATA (R269, R272): accepted in SEQ order; a duplicate is discarded, and a gap is answered with a NAK. A
PLEN outside 1–224 is taken as a protocol error (DESIGN CHOICE, log 27), and so is a bad header of a pool message (R278).
The stamp of a time flit is noted (R271). -/
def execData (f : FlitIn) (s : State) : Out :=
  .next (s.receive f fun h s =>
    let p := f.port.val
    let k := s.port p
    let cls := 2 * h.vc + b2n h.resp
    if h.kind != 1 then s
    else if h.plen = 0 || 224 < h.plen then s.protocolError p
    else if h.seq = k.rxSeq then
      let s := (s.bump (regPort p) (31 + h.vc) 1).updPort p fun k =>
        if cls = 10 then { k.accept cls h with tIn := s.stampIn p } else k.accept cls h
      if h.eom && 2 ≤ cls && cls < 8 && poolHdrBad cls ((s.port p).newest cls) then s.protocolError p else s
    else if h.seq < k.rxSeq then s
    else s.updPort p fun k => k.askNak s.now)
/-- A message of a class leaves the receive buffer of a port, and its credit returns. -/
def Port.take (k : Port) (cls : Nat) (b : List Byte) : Port :=
  match (Tab.get [] k.rxMsg cls).find? fun m => m.2 == b with
  | some m => { k.freeFlits cls m.1 with rxMsg := Tab.upd [] k.rxMsg cls fun l => l.erase m }
  | none => k
/-- A collective message leaves the receive buffer of the port that holds it. -/
def State.takeRx (s : State) (vc : Nat) (b : List Byte) : State :=
  match (List.range 16).find? fun p => (Tab.get [] (s.port p).rxMsg (2 * vc)).any fun m => m.2 == b with
  | some p => s.updPort p fun k => k.take (2 * vc) b
  | none => s
/-- The acknowledgement of every flit up to a SEQ; a SEQ that has not been sent acknowledges nothing. -/
def Port.acked (p : Port) (ack : Nat) : Port :=
  if p.txSeq ≤ ack then p
  else
    let n := (p.replay.filter fun f => f.seq ≤ ack).length
    { p with replay := p.replay.drop n, replayAt := p.replayAt - n
             replayN := min p.replayN (p.replay.length - n) }
/-- A NAK: replay from the SEQ that it names (R272). -/
def Port.nakFrom (p : Port) (q : Nat) : Port :=
  let i := (p.replay.filter fun f => f.seq < q).length
  { p with replayAt := i, replayN := p.replay.length - i }
/-- FREED of a class: a lower report changes nothing (R270). -/
def Port.freedTo (p : Port) (cls n : Nat) : Port :=
  let old := Tab.get 0 p.freed cls
  if (n + 2 ^ 32 - old) % 2 ^ 32 < 2 ^ 31 then { p with freed := Tab.set 0 p.freed cls n } else p
/-- What an LCTL flit does at the transmitter: ACK, then NAK, then FREED. -/
def Port.heed (k : Port) (l : LctlIn) : Port :=
  let k := k.acked l.ack.toNat
  let k := match l.nak with | some q => k.nakFrom q.toNat | none => k
  (l.freed.zipIdx.take 16).foldl (fun k e => k.freedTo e.2 e.1.toNat) k
/-- Control messages whose last flit stands in a replay buffer. -/
def ctlEnds (l : List Flit) : Nat := (l.filter fun f => f.vc == 4 && f.eom).length
/-- What an LCTL flit does at the module: the port heeds it, and control messages that it acknowledges are kept no longer. -/
def State.heedLctl (s : State) (p : Nat) (l : LctlIn) : State :=
  (s.updPort p fun k => k.heed l).ctlAcked p (ctlEnds (s.port p).replay - ctlEnds ((s.port p).heed l).replay)
/-- LCTL (R267, R270, R273): its SEQ exceeds that of the last LCTL flit of the epoch. -/
def execLctl (f : FlitIn) (l : LctlIn) (s : State) : Out :=
  .next (s.receive f fun h s =>
    let p := f.port.val
    if h.kind != 2 then s
    else if (match (s.port p).rxCtl with | some q => decide (h.seq ≤ q) | none => false) then s.protocolError p
    else (s.updPort p fun k => { k with rxCtl := some h.seq }).heedLctl p l)
/-- IDLE (R266): progress, and nothing else. -/
def execIdle (f : FlitIn) (s : State) : Out := .next (s.receive f fun _ s => s)

/-! ### Rekey (R277) -/

/-- REKEY (R277, `15` R383): the sender starts an exchange; without an ephemeral the port goes down. -/
def execRekey (port : Fin 16) (s : State) : Out :=
  .next (if (s.port port).st != .up || (s.port port).tx.rekeying then s
    else match s.drawFresh 256 with
      | none => s.keyRefused.peerDown port
      | some (d, s) => (s.updPort port fun k => { k with tx := { k.tx with rekeying := true, eph := d } }).sendMsg port 7 false
          (Config.sm2public d))
/-- REKEY_SWITCH (R277): both ends have confirmed the next key of one direction, from a new exchange (`15` R372). The receiver
answers the sender's ephemeral with its own, which the key DRBG must give (`15` R383), and holds the key beside the old one.
The sender stops new DATA flits, and switches once every DATA flit of the old epoch is acknowledged; at the end of the epoch
count the port goes down. -/
def execRekeySwitch (port : Fin 16) (rx : Bool) (peer : PeerKeys) (s : State) : Out :=
  let p := port.val
  let k := s.port p
  .next (if k.st != .up then s
    else if rx then
      (match s.drawFresh 256 with
      | none => s.keyRefused
      | some (d, s) => (s.updPort p fun k => { k with rx := { k.rx with
          next := some (s.linkKey p (k.rx.epoch + 1) false (s.linkSecret d peer)) } }).sendMsg p 7 false (Config.sm2public d))
    else if !k.tx.rekeying then s
    else if 2 ^ 32 - 1 ≤ k.tx.epoch then s.peerDown p
    else
      let key := k.tx.next.getD (s.linkKey p (k.tx.epoch + 1) true (s.linkSecret k.tx.eph peer))
      if !k.replay.isEmpty then s.updPort p fun k => { k with tx := { k.tx with next := some key } }
      else (s.bump (regPort p) 11 1).updPort p fun k => { k with
        tx := { epoch := k.tx.epoch + 1, key := key }, txSeq := 0, txCtl := 0 })
/-- REKEY_TIMEOUT (R277): the exchange has not completed within 1 s; once the next key stands, it has. -/
def execRekeyTimeout (port : Fin 16) (s : State) : Out :=
  .next (if (s.port port).st == .up && (s.port port).tx.rekeying && (s.port port).tx.next.isNone then s.peerDown port else s)

end Sys2Proof.Machine
end

