-- ==== Sys2Proof/Machine/Pool.lean ====
section
/-! DEFINITION. Pool transactions: the requests that this module serves as a pool node, and the responses
to its own (`11` R278–R282). -/

namespace Sys2Proof.Machine

/-! ### Serving (R282) -/

/-- Where a node address leads. -/
inductive Place
  /-- A donated region, and the device address of the byte. -/
  | region (r da : Nat)
  /-- The coordination region. -/
  | coord
  /-- No region. -/
  | none
  deriving DecidableEq, Repr

/-- First node address of the coordination region (R279). -/
def coordBase : Nat := 0xFFFF00000000
/-- The place of `n` bytes at a node address: region n holds addresses n × 2⁴⁰ + x (`07` R180). -/
def State.place (s : State) (addr n : Nat) : Place :=
  let r := addr / 2 ^ 40
  let d := Tab.get {} s.donations r
  if 2 ^ 48 ≤ addr then .none
  else if coordBase ≤ addr ∧ addr + n ≤ 2 ^ 48 then .coord
  else if r < 16 ∧ d.v ∧ addr % 2 ^ 40 + n ≤ d.n * 2 ^ 21 then
    .region r (((s.grantable (8 + d.m)).1 + d.first) * 2 ^ 21 + addr % 2 ^ 40)
  else .none
/-- A request for a region is admitted: the region lists the requester's node and grants the access, and
the initiator table of its target admits the port (R282, `07` R170). -/
def State.donated (s : State) (p : PoolMsg) (r da : Nat) (write : Bool) : Bool :=
  let d := Tab.get {} s.donations r
  d.nodes.contains p.reqn.toNat && (if write then d.w else d.r) && s.admits (708 + p.port.val) 0 da write false
/-- A request as the message that brought it. -/
def PoolMsg.bytes (p : PoolMsg) (opc : Nat) : List Byte :=
  poolHdr opc p.tag.toNat 0 p.nl p.addr.toNat p.reqn.toNat p.opnd ++ p.data
/-- The response of a request leaves on the virtual channel that brought it (*Pool operations*). -/
def State.respond (s : State) (p : PoolMsg) (opc vc stat : Nat) (data : List Byte) : State :=
  (s.bump (regPort p.port) 40 1).sendMsg p.port vc true
    (poolHdr opc p.tag.toNat stat p.nl p.addr.toNat p.reqn.toNat 0 ++ data)
/-- A request at a port that is UP is taken out of its receive buffer and served by `f`. One that came before the port
went down is completed here, and its response dropped (R276). -/
def State.servePool (s : State) (p : PoolMsg) (opc vc : Nat) (f : State → State × Nat × List Byte) : State :=
  let key := (2 * vc, PoolMsg.bytes p opc)
  if s.dev != .ready then s
  else if (s.port p.port).old.contains key then (f (s.updPort p.port fun k => { k with old := k.old.erase key })).1
  else if (s.port p.port).st != .up then s
  else
    let x := f (s.updPort p.port fun k => k.take key.1 key.2)
    x.1.respond p opc vc x.2.1 x.2.2
/-- The key of a line's metadata (`16` R389). -/
def metaKey (coord : Bool) (a : Nat) : Nat := if coord then 2 ^ 60 + a / 128 else a / 128
/-- Lines as they travel: 128 B and 16 B of metadata each. -/
def State.linesOut (s : State) (coord : Bool) : Nat → Nat → List Byte
  | 0, _ => []
  | n + 1, a =>
      let b := if coord then bytesAt s.coord a 128 else bytesAt s.mem a 128
      b ++ Tab.get (List.replicate 16 0) s.lineMeta (metaKey coord a) ++ s.linesOut coord n (a + 128)
/-- Lines written as they arrived. -/
def State.linesIn (s : State) (coord : Bool) : Nat → Nat → List Byte → State
  | 0, _, _ => s
  | n + 1, a, b =>
      let line := (b ++ List.replicate 128 0).take 128
      let tail := ((b.drop 128) ++ List.replicate 16 0).take 16
      let s := { s with lineMeta := Tab.set (List.replicate 16 0) s.lineMeta (metaKey coord a) tail }
      let s : State := if coord then { s with coord := putBytes s.coord a line } else s.writeDa a line
      s.linesIn coord n (a + 128) (b.drop 144)
/-- What a request of lines does, with the status and the data of its response (R278, R282): an address in no region, or one
that is not a whole line, is UNMAPPED; a refused one is DENIED and counted. -/
def State.poolLines (s : State) (p : PoolMsg) (write : Bool) : State × Nat × List Byte :=
  let a := p.addr.toNat
  if !aligned a 128 then (s, 2, [])
  else match s.place a (128 * p.nl) with
    | .none => (s, 2, [])
    | .coord => if write then (s.linesIn true p.nl a p.data, 0, []) else (s, 0, s.linesOut true p.nl a)
    | .region r da =>
        if !s.donated p r da write then
          ((s.bump (regPort p.port) 14 1).updTarget (8 + (Tab.get {} s.donations r).m) fun t =>
            { t with denials := t.denials + 1 }, 1, [])
        else if p.bad then (s.lineLost da, 3, [])
        else if write then (s.linesIn false p.nl da p.data, 0, [])
        else (s, 0, s.linesOut false p.nl da)
/-- A request of lines at a port: an NL outside its range is a protocol error of a port that is UP (R278). -/
def State.serveLines (s : State) (p : PoolMsg) (opc vc lo hi : Nat) (write : Bool) : State :=
  if p.nl < lo || hi < p.nl then (if s.dev == .ready && (s.port p.port).st == .up then s.protocolError p.port else s)
  else s.servePool p opc vc fun s => s.poolLines p write
/-- PRD. -/
def execPrd (m : PoolMsg) (s : State) : Out := .next (s.serveLines m 0x01 1 1 16 false)
/-- PBRD. -/
def execPbrd (m : PoolMsg) (s : State) : Out := .next (s.serveLines m 0x02 1 17 8192 false)
/-- PWR. -/
def execPwr (m : PoolMsg) (s : State) : Out :=
  .next (s.serveLines m 0x03 (if m.strm then 3 else 2) 1 16 true)
/-- PBWR. -/
def execPbwr (m : PoolMsg) (s : State) : Out :=
  .next (s.serveLines m 0x04 (if m.strm then 3 else 2) 17 8192 true)
/-- What a PATOM does (R278, R279): on the coordination region alone. The first data word chooses fetch-add, swap or
compare-and-swap, whose new value is in the next word. -/
def State.atom (s : State) (m : PoolMsg) : State × Nat × List Byte :=
  let a := m.addr.toNat
  let op := (wordAt m.data 0).toNat
  if !aligned a 8 then (s, 2, [])
  else match s.place a 8 with
    | .none => (s, 2, [])
    | .region _ _ => (s.bump (regPort m.port) 14 1, 1, [])
    | .coord =>
        let old := w64 (leNat (bytesAt s.coord a 8))
        if 2 < op then (s, 3, [])
        else
          let new := if op = 0 then old + m.opnd else if op = 1 then m.opnd
            else if old = m.opnd then wordAt m.data 1 else old
          ({ s with coord := putBytes s.coord a (leBytes 8 new.toNat) }, 0, leBytes 8 old.toNat)
/-- PATOM (R278, R279): an NL other than 0 is a protocol error. -/
def execPatom (m : PoolMsg) (s : State) : Out :=
  .next (if m.nl != 0 then (if s.dev == .ready && (s.port m.port).st == .up then s.protocolError m.port else s)
    else s.servePool m 0x05 2 fun s => s.atom m)

/-! ### Responses (R281) -/

/-- An outstanding request ends with its response: a read answers its lines, to the work that waits for them, and a write is
durable. -/
def State.poolDone (s : State) (r : PoolReq) (data : List Byte) : State :=
  let at_ : Option Nat := match r.store with
    | some d => some (2 ^ 48 * d.node + r.addr)
    | none => s.poolAddr (r.da / 128 * 128)
  match at_ with
  | none => s
  | some a =>
      if r.opc = 0x01 ∨ r.opc = 0x02 then
        { s with poolMem := putBytes s.poolMem a ((data ++ bytesAt s.poolMem (a + data.length) (128 * r.nl - data.length)).take (128 * r.nl))
                 resp := data.take (128 * r.nl)
                 poolGot := if r.own && s.resident r.ctx then s.poolGot ++ [r] else s.poolGot }
      else if r.own then s
      else { s with poolMem := putBytes s.poolMem a (r.data.take (128 * r.nl)), resp := [] }
/-- A store request is durable. Once every line of a write is, a member reports its entries to the Bellwether, and a
stream segment is complete (`19` R448, R452); the header code of the report is not given (log 34). -/
def State.storeDone (s : State) (d : StoreDest) (ctx : Nat) : State :=
  let mine (w : CkptWrite) : Bool := w.ctx == ctx && w.cls == d.cls && w.name == d.name && (d.cls != 2 || w.t == d.t)
  match s.ckpts.find? mine with
  | none => s
  | some w =>
      if !w.formed || w.reported || !w.todo.isEmpty || s.poolReqs.any fun r => r.store == some d && !r.dead then s
      else if w.cls = 2 then ({ s with ckpts := s.ckpts.filter fun x => !mine x }).markOf w.t 13
      else
        let s := { s with ckpts := s.ckpts.map fun x => if mine x then { x with reported := true } else x }
        match s.herds.find? fun h => w.cls == 0 && w64 h.hid == w.name && h.rcd.bell != h.self with
        | some h => s.toMember h h.rcd.bell { opc := 0x48, step := w.g }
        | none => s
/-- A PATOM has been answered with the old value. The reservation of a join fails where the bit was set, and is tried again
where another bit changed (`12` R317). Where it was the value expected the word has its new value: CUR is
then G and the write has ended (`19` R449); where it was not, the write has lost the race (R450), and FLOOR is raised
from the value found (R452). -/
def State.atomDone (s : State) (r : PoolReq) (d : StoreDest) (data : List Byte) : State :=
  let old := leAt data 0 8
  let won := w64 old == r.opnd
  let s := s.knowCoord d.node r.addr (if won then leAt r.data 8 8 else old)
  match d.join with
  | some (hid, m) =>
      if won then s
      else if old.testBit (m % 64) then s.unform hid
      else (match s.store? (s.ctx r.ctx).chd 0 d.name with
        | some x => s.reserve x r.ctx hid m old
        | none => s.unform hid)
  | none =>
  if d.cls < 2 then
    s.dropCkpts (fun w => w.flip && w.ctx == r.ctx && w.cls == d.cls && w.name == d.name) (if won then .ok else .race)
  else if won then s
  else match s.store? (s.ctx r.ctx).chd 0 d.name with
    | some x => s.raiseFloor x r.ctx d.t
    | none => s
/-- POOL_RESPONSE (R281): `data` holds the lines in clear, and `health` what their check shows. The tag is free, and
requests that wait may leave (R279). -/
def execPoolResponse (tag : BitVec 14) (stat : BitVec 4) (data : List Byte) (health : Health) (s : State) : Out :=
  .next (match s.poolReqs.find? fun r => r.tag == tag.toNat && r.waits == 0 with
    | none => s.bump (regPort 0) 13 1
    | some r =>
        let s := { s with poolReqs := s.poolReqs.erase r }
        let s :=
          if r.dead then s.bump (regPort r.port) 13 1
          else
            let s := if stat.toNat < 4 then s.bump (regPort r.port) (41 + stat.toNat) 1 else s
            if stat != 0 then s.poolLost r
            else if r.opc = 0x01 ∨ r.opc = 0x02 then
              (match s.checkLine r.da r.ctx health with
              | (true, s) => s.poolDone r data
              | (false, s) => s)
            else match r.store with
              | some d => if r.opc = 0x05 then s.atomDone r d data else (s.poolDone r data).storeDone d r.ctx
              | none => s.poolDone r data
        s.unpark)
/-- POOL_RESPONSE_TIMEOUT (R281): the tag stays held until the response ends (R279). -/
def execPoolResponseTimeout (tag : BitVec 14) (s : State) : Out :=
  .next (match s.poolReqs.find? fun r => r.tag == tag.toNat && r.waits == 0 && !r.dead with
    | none => s
    | some r =>
        ({ s with poolReqs := s.poolReqs.map fun x => if x = r then { r with dead := true } else x }).poolLost r)

end Sys2Proof.Machine
end

