-- ==== Sys2Proof/Machine/Handoff.lean ====
section
/-! DEFINITION. Handoff channels (`10` R247–R252, `17` R421). -/

namespace Sys2Proof.Machine

/-! ### Opening and closing (R247, R250, R251) -/

/-- Field of channel entry `i` of an image: PCTX, CCTX, RSIZE and PEER (`17` R406). -/
def chanProd (c : List Byte) (i : Nat) : Nat := imgByte c (chChan c i)
/-- CCTX. -/
def chanCons (c : List Byte) (i : Nat) : Nat := imgByte c (chChan c i + 1)
/-- RSIZE. -/
def chanSize (c : List Byte) (i : Nat) : Nat := leAt c (chChan c i + 4) 4
/-- PEER. -/
def chanPeer (c : List Byte) (i : Nat) : BitVec 256 := digOf ((c.drop (chChan c i + 8)).take 32)
/-- A context is bound to the entry that a channel entry names for an end. -/
def State.endIs (s : State) (c e : Nat) : Bool := (s.ctx c).entry == some e
/-- The channel entry matches both contexts of a channel on one module: both ends in one charter, or the far
ends in two charters that declare each other with one record size (`17` R421). -/
def State.localMatch (s : State) (p c i : Nat) : Bool :=
  let img := s.charterOf p
  if (s.ctx p).chd == (s.ctx c).chd then
    chanPeer img i == 0 && s.endIs p (chanProd img i) && s.endIs c (chanCons img i)
  else
    let jmg := s.charterOf c
    chanPeer img i == (s.ctx c).chd && s.endIs p (chanProd img i) && chanCons img i == 0xFF &&
      (List.range (chNchn jmg)).any fun j =>
        chanPeer jmg j == (s.ctx p).chd && s.endIs c (chanCons jmg j) && chanProd jmg j == 0xFF &&
          chanSize jmg j == chanSize img i
/-- An entry of the peer charter, where that is admitted here, names a charter in PEER with the same RSIZE, and its own end of
the channel where this charter has the far one (`17` R421). Where it is not, the far module makes the check. -/
def State.peerNames (s : State) (peer chd : BitVec 256) (prodHere : Bool) (size : Nat) : Bool :=
  match s.charter? peer with
  | none => true
  | some x => (List.range (chNchn x.image)).any fun j =>
      chanPeer x.image j == chd && chanSize x.image j == size &&
        (if prodHere then chanProd x.image j else chanCons x.image j) == 0xFF
/-- Across modules, the QUOTE of the far module shows the digest that the channel entry names for its end admitted, under a
measurement and a root that both charters accept, and the entry places the far end where it lies (`17` R421). -/
def State.farMatch (s : State) (h : Handoff) (q : QuoteIn) : Bool :=
  let c := if h.prodEnd then h.prod else h.cons
  let img := s.charterOf c
  let peer := chanPeer img h.entry
  let far := if h.prodEnd then chanCons img h.entry else chanProd img h.entry
  let chd := if peer = 0 then (s.ctx c).chd else peer
  (decide (peer = 0) != (far == 0xFF)) && quoteShows q img chd && s.knows h.peer q.ident &&
    (match s.charter? peer with
    | some x => quoteShows q x.image chd
    | none => true) &&
    (peer == 0 || s.peerNames peer (s.ctx c).chd h.prodEnd (chanSize img h.entry))
/-- The lowest port that is UP and reaches a node. -/
def State.portTo (s : State) (node : Nat) : Option Nat :=
  (List.range 16).find? fun p => (s.port p).st == .up && (s.port p).peer == node
/-- A channel as HANDOFF.OPEN gives it. -/
def openArgs (a : List W64) (port size : Nat) : Handoff :=
  let w := argAt a 0
  let remote := fld w 47 32 != 0
  { isOpen := true, prodEnd := !remote || !bit w 48, consEnd := !remote || bit w 48
    prod := fld w 11 0, cons := fld w 23 12, entry := fld w 31 24, peer := fld w 47 32, port := port, rsize := size
    srcVa := (argAt a 1).toNat, dstVa := (argAt a 2).toNat, ns := fld (argAt a 3) 4 0, nk := fld (argAt a 3) 9 5
    pfid := fld (argAt a 4) 15 0, sfid := fld (argAt a 4) 31 16, afid := fld (argAt a 4) 47 32, rfid := fld (argAt a 4) 63 48 }
/-- The contexts whose end of a channel lies on this module. -/
def Handoff.ctxs (h : Handoff) : List Nat :=
  (if h.prodEnd then [h.prod] else []) ++ (if h.consEnd then [h.cons] else [])
/-- An open is refused: the entry or the far module's QUOTE does not match, or a fence of an end on this module is not its context's
own (R247). -/
def State.openBad (s : State) (h : Handoff) (q : QuoteIn) : Bool :=
  let img := s.charterOf (if h.prodEnd then h.prod else h.cons)
  chNchn img ≤ h.entry ||
    (if h.prodEnd && h.consEnd then !s.localMatch h.prod h.cons h.entry
     else if h.prodEnd then !s.endIs h.prod (chanProd img h.entry) || !s.farMatch h q
     else !s.endIs h.cons (chanCons img h.entry) || !s.farMatch h q) ||
    (h.prodEnd && !(s.owns h.prod h.pfid && s.owns h.prod h.sfid)) ||
    (h.consEnd && !(s.owns h.cons h.afid && s.owns h.cons h.rfid))
/-- HANDOFF.OPEN (R247, R251, `17` R421): on the lowest free channel (log 28); across modules a port to the peer must be UP,
and the peer presents its QUOTE. -/
def execHandoffOpen (c : MbxCall) (s : State) : Out :=
  .next (mailbox c (fun a =>
      let h := openArgs a 0 0
      { opc := 0x24, masks := [lowMask 49, allMask, allMask, lowMask 10, allMask], names := h.ctxs.map fun i => (0, i)
        ctxs := h.ctxs, always := false, free := false
        bad := (h.prodEnd && (h.ns == 0 || decide (16 < h.ns))) || (h.consEnd && (h.nk == 0 || decide (16 < h.nk))) })
    (fun a s =>
      let h := openArgs a 0 0
      let port := s.portTo h.peer
      if s.openBad h c.peer || (h.peer != 0 && port.isNone) then (s, .refused 0)
      else match firstOf (fun i => !(s.handoff i).isOpen) 256 0 with
        | none => (s, .done stFull [])
        | some i =>
            let img := s.charterOf (if h.prodEnd then h.prod else h.cons)
            (s.updHandoff i fun _ => openArgs a (port.getD 0) (chanSize img h.entry), .done stOk [w64 i])) s)
/-- HANDOFF.CLOSE (R250). -/
def execHandoffClose (c : MbxCall) (s : State) : Out :=
  .next (mailbox c (fun a => { opc := 0x25, masks := [lowMask 8], names := [(3, fld (argAt a 0) 7 0)], ctxs := []
                               always := false, bad := false, free := false })
    (fun a s =>
      let i := fld (argAt a 0) 7 0
      if (s.handoff i).isOpen then (s.breakChannel i, ok) else (s, .done stNoctx [])) s)

/-! ### The mover (R248, R249) -/

/-- The mover of a channel: the pool mover of the die that holds the first byte of its source ring, or of its
sink ring on a consumer's module; another tier leaves it to mover 0 (log 28). -/
def State.moverOf (s : State) (h : Handoff) : Nat :=
  let va := if h.prodEnd then h.srcVa else h.dstVa
  match (s.walk none 727 (if h.prodEnd then h.prod else h.cons) va).1 with
  | .page e => (match s.space (e.at va) with
      | .d c => 727 + c
      | .l m => 735 + m
      | _ => 727)
  | _ => 727
/-- The header of a record is wrong: CHAN, SEQ, LEN or a reserved field (R250). -/
def headerBad (h : Handoff) (ch : Option Nat) (q : Nat) (b : List Byte) : Bool :=
  let w := wordAt b
  (match ch with | some c => fld (w 0) 63 56 != c | none => false) || fld (w 0) 55 32 != 0 ||
    h.rsize < fld (w 0) 31 0 || (w 1).toNat != q || w 6 != 0 || w 7 != 0
/-- A record as the mover takes it: the payload padded with zeros, TSEND and DIG filled in. -/
def recordOf (h : Handoff) (now : W64) (b : List Byte) : List Byte :=
  let n := fld (wordAt b 0) 31 0
  let pay := ((b.drop 64).take n ++ List.replicate h.rsize 0).take h.rsize
  b.take 24 ++ leBytes 8 now.toNat ++ (digBytes (Config.sm3 (b.take 24 ++ pay))).take 16 ++ List.replicate 16 0 ++ pay
/-- The place of record q in a ring of 2ⁿ slots. -/
def slotVa (base n size q : Nat) : Nat := base + q % 2 ^ n * (size + 64)
/-- Why the mover does not take record q: it is not posted, or the sink ring is full. -/
inductive Bar
  /-- Nothing holds it. -/
  | clear
  /-- PFID is below q, or was when the producer was lost (R250). -/
  | unposted
  /-- The sink ring is full. -/
  | full
  deriving DecidableEq, Repr
/-- The highest record for which the sink ring has a free slot (R248). -/
def State.sinkFree (s : State) (h : Handoff) : Nat :=
  2 ^ h.nk + min (s.fence h.rfid).val.toNat (s.fence h.afid).val.toNat
/-- What holds record q of a channel back (R248, R251). -/
def State.barred (s : State) (h : Handoff) (q : Nat) : Bar :=
  if (h.ending.getD (s.fence h.pfid).val.toNat) < q then .unposted
  else if (if h.consEnd then s.sinkFree h else h.credit) < q then .full else .clear
/-- Counts of a channel (R252), for the contexts that are here. A channel between two contexts of one charter is counted
once for the charter: what its consumer counts stands apart, under kinds 40 to 42. -/
def State.countChan (s : State) (ch i : Nat) : State :=
  let h := s.handoff ch
  let s := if h.prodEnd then s.bumpCtx i h.prod ch 1 else s
  if !h.consEnd || (h.prodEnd && h.prod == h.cons) then s
  else if h.prodEnd && (s.ctx h.prod).chd == (s.ctx h.cons).chd then s.bumpCtx (i + 20) h.cons ch 1
  else s.bumpCtx i h.cons ch 1
/-- A record is delivered into the sink ring, and once it is visible there AFID is signalled. -/
def State.deliver (s : State) (ch q : Nat) (b : List Byte) : Res Unit :=
  let h := s.handoff ch
  (s.writeVa (s.moverOf h) h.cons (slotVa h.dstVa h.nk h.rsize q) b).bind fun s _ =>
    .ok ((s.updHandoff ch fun h => { h with last := q, sent := q }).signal h.afid (w64 q) 0) ()
/-- The mover takes record q, which nothing holds back: into the sink ring here, or onto the handoff virtual
channel, from where the consumer's module reports it (RFID_RETURN). -/
def State.takeRecord (s : State) (ch q : Nat) : State :=
  let h := s.handoff ch
  match s.readVa (s.moverOf h) h.prod (slotVa h.srcVa h.ns h.rsize q) (64 + h.rsize) with
  | .wait s => s
  | .lost s _ => s.breakChannel ch
  | .ok s b =>
      if headerBad h (some ch) q b then s.breakChannel ch
      else
        let r := recordOf h s.now b
        if h.consEnd then
          (match s.deliver ch q r with
          | .ok s _ => (s.signal h.sfid (w64 q) 0).countChan ch 20
          | .lost s _ => s.breakChannel ch
          | .wait s => s)
        else ((s.sendMsg h.port 6 false r).updHandoff ch fun h => { h with sent := q }).countChan ch 20
/-- A channel whose producer is lost breaks once every record that it posted is delivered (R250). -/
def State.endIfDone (s : State) (ch : Nat) : State :=
  match (s.handoff ch).ending with
  | some q => if q ≤ (s.handoff ch).last then s.breakChannel ch else s
  | none => s
/-- HANDOFF_RECORD (R248–R251): the mover of the producer's module takes the next record, or a record of a
channel across modules arrives. -/
def execHandoffRecord (ch : Fin 256) (recv : Option (List Byte)) (s : State) : Out :=
  let h := s.handoff ch
  let q := if h.prodEnd then h.sent + 1 else h.last + 1
  .next (if s.dev != .ready || !h.isOpen then s
    else if 2 ^ 62 ≤ q then s.breakChannel ch
    else match recv with
      | none =>
          if !h.prodEnd then s
          else (match s.barred h q with
            | .clear => (s.takeRecord ch q).endIfDone ch
            | .unposted => s.countChan ch 21
            | .full => s.countChan ch 22)
      | some b =>
          if h.prodEnd then s
          else if headerBad h none q b then s.breakChannel ch
          else (match s.deliver ch q ((b ++ List.replicate (64 + h.rsize) 0).take (64 + h.rsize)) with
            | .ok s _ => (s.countChan ch 20).sendCredit h (s.sinkFree h) q none
            | .lost s _ => s.breakChannel ch
            | .wait s => s))
/-- RFID_RETURN (R248, R251): a consumer's module returns its releases as a credit, with the last record that is visible,
which the producer's module takes: SFID follows the record's arrival. A far end that has broken breaks this one. -/
def execRfidReturn (ch : Fin 256) (q : CreditIn) (s : State) : Out :=
  let h := s.handoff ch
  .next (if s.dev != .ready || !h.isOpen || (h.prodEnd && h.consEnd) then s
    else match q.cause with
      | some c => s.breakChannel ch (some c)
      | none =>
          if !h.prodEnd then s.sendCredit h (s.sinkFree h) h.last none
          else
            let n := min h.sent q.arrived.toNat
            let s := s.updHandoff ch fun h => { h with credit := max h.credit q.upTo.toNat, last := max h.last n }
            (if h.last < n then s.signal h.sfid (w64 n) 0 else s).endIfDone ch)
/-- A producer is lost: the records that it posted are delivered as the sink ring takes them, and the channel breaks
(R250). -/
def State.endChannel (s : State) (ch : Nat) : Nat → State
  | 0 => s.endIfDone ch
  | n + 1 =>
      let h := s.handoff ch
      if h.isOpen && h.prodEnd && (s.barred h (h.sent + 1) == Bar.clear) then (s.takeRecord ch (h.sent + 1)).endChannel ch n
      else s.endIfDone ch
/-- The end of a channel whose producer is lost begins. -/
def State.loseProducer (s : State) (ch : Nat) : State :=
  let h := s.handoff ch
  (s.updHandoff ch fun k => { k with ending := some (s.fence h.pfid).val.toNat }).endChannel ch 65536

end Sys2Proof.Machine
end

