-- ==== Sys2Proof/Machine/Gate.lean ====
section
/-! DEFINITION. The verdict of a step: the step control block, the gate's conditions and its
outcomes (`09` R208–R221, `04` R110). -/

namespace Sys2Proof.Machine

/-! ### The step control block (R208, R219) -/

/-- Code of a verdict. -/
def VCode.code : VCode → Nat
  | .vopen => 0
  | .commit => 1
  | .clip => 2
  | .skip => 3
  | .replay => 4
/-- Words 10–15. -/
def Learn.words (l : Learn) : List W64 :=
  [w64 l.t,
   at64 l.vcode.code 60 ||| at64 (l.fail % 16) 56 ||| at64 (l.round % 8) 53 ||| at64 (b2n l.selfFlag) 52 |||
     at64 (b2n l.tmo) 51 ||| w64 l.clipc.toNat,
   w64 l.kcount, at64 l.mu.toNat 32 ||| w64 l.sig2.toNat, at64 l.nall.toNat 32 ||| w64 l.nclip.toNat,
   at64 (l.nflag % 65536) 48 ||| at64 (l.nc % 65536) 32 ||| w64 l.lbar.toNat]
/-- The update units write words 10–15; those of M-die 0 make the write (log 30). -/
def State.putScb (s : State) : State :=
  State.settle s.learn.ctx (s.writeVa 704 s.learn.ctx (s.learn.scbVa + 80) (wordBytes s.learn.words)) fun s _ => s
/-- The learning binding changed. -/
def State.updLearn (s : State) (f : Learn → Learn) : State := { s with learn := f s.learn }

/-! ### The conditions (R214–R216) -/

/-- The herd whose members run the learning binding. -/
def State.bindHerd (s : State) : Option Herd := if s.learn.bound then s.learnHerd s.learn.ctx else none

/-- The outlier test: contributors whose W_self lies outside the ratios of M, the ⌈N_c / 2⌉-th smallest. The
scale that all of them share is left out (`12` R302). -/
def flagged (b : Scb) (r : GateRec) : List Nat :=
  let q := (r.wself.map Prod.snd).mergeSort (fun a b => a ≤ b)
  let m := ofInt ((q.getD ((r.nc + 1) / 2 - 1) 0 : Nat) : Int)
  let bound (x : BitVec 32) : FVal := ((ofF32 x).mul (ofF32 x)).mul m
  if r.nc < b.outMin then []
  else (r.wself.filter fun p =>
    let v := ofInt (p.2 : Int)
    (bound b.outHi).lt v || (FVal.zero.lt (ofF32 b.outLo) && v.lt (bound b.outLo))).map Prod.fst
/-- ρ(sum / n). -/
def LossSum.mean (l : LossSum) (n : Nat) : BitVec 32 :=
  match l with
  | .fin a => rne32 (ratio (a < 0) a.natAbs n (-149))
  | .inf neg => rne32 (.inf neg)
  | .nan => rne32 .nan
/-- L̄ (R215): a sum that is not finite gives the signed infinity or the default NaN (`04` R90). Without contributors the
manual states no result, and the value is free (log 30). -/
def State.meanLoss (s : State) (r : GateRec) : BitVec 32 × State :=
  if r.nc = 0 then s.free 32 else (LossSum.mean r.sumL r.nc, s)
/-- The step spikes (R215). -/
def Learn.spikes (l : Learn) (lbar : BitVec 32) : Bool :=
  !fin32 lbar || (l.scb.lmWarm ≤ l.kcount && lt32 (mul32 l.scb.lmK (sqrt32 l.sig2)) (sub32 lbar l.mu))
/-- The monitor learns from L̄ (R215). -/
def Learn.learnLoss (l : Learn) (lbar : BitVec 32) : Learn :=
  if !l.monInit then { l with monInit := true, mu := lbar, sig2 := 0 }
  else
    let a := two32 (-(l.scb.lmA : Int))
    let d := sub32 lbar l.mu
    { l with mu := fma32 a d l.mu, sig2 := mul32 (sub32 one32 a) (fma32 a (mul32 d d) l.sig2) }
/-- A global norm, ρ(√W / (LS × D)) (`12` R302). -/
def Learn.norm (l : Learn) (w nc : Nat) : BitVec 32 :=
  rne32 (sqrtRatio w (2 ^ l.ls * (if l.scb.gdiv then max 1 nc else 1)) (-512))

/-! ### The tree of digests (`12` R311) -/

/-- One level of a tree of digests: each node is SM3 of up to 256 children. -/
def treeUp : Nat → List (BitVec 256) → List (BitVec 256)
  | 0, _ => []
  | n + 1, l => if l.isEmpty then [] else Config.sm3 ((l.take 256).flatMap digBytes) :: treeUp n (l.drop 256)
/-- The node in which the tree ends. -/
def treeRoot : Nat → List (BitVec 256) → BitVec 256
  | 0, l => l.headD 0
  | n + 1, l => match l with
    | [] => 0
    | [x] => x
    | l => treeRoot n (treeUp l.length l)

/-! ### The outcomes (R217–R221) -/

/-- A verdict of *Verdict order*. -/
inductive Ruling
  /-- COMMIT. -/
  | commit
  /-- CLIP with its factor. -/
  | clip (c : BitVec 32)
  /-- SKIP, because of a non-finite gradient or not. -/
  | skip (nonfinite : Bool)
  /-- REPLAY; the flagged contributors are excluded or not. -/
  | replay (exclude : Bool)
  deriving DecidableEq, Repr
/-- The verdict of R217, by its rows. -/
def Learn.judge (l : Learn) (r : GateRec) (flags : List Nat) (lbar nall nclip : BitVec 32) : Ruling :=
  let round := l.round - l.uncounted
  let g4 := !l.spikes lbar
  if r.ts + 2000000 < r.tg then .skip false
  else if r.nnf ≠ 0 then .skip true
  else if !flags.isEmpty then
    (if 7 ≤ l.round then .skip false
     else if round < l.scb.rpMax then .replay false
     else if round = l.scb.rpMax then .replay true else .skip false)
  else if !g4 && l.scb.lmAct == 2 && decide (round < l.scb.rpMax) && decide (l.round < 7) then .replay false
  else if (!g4 && l.scb.lmAct != 0) || !fin32 lbar then .skip false
  else if lt32 l.scb.skipNorm nall then .skip false
  else if lt32 l.scb.clipNorm nclip then .clip (div32 l.scb.clipNorm nclip)
  else .commit
/-- Every slot and park of the open step is dropped, with what was formed from them (R220, R221). -/
def State.dropStep (s : State) : State :=
  let s := s.updLearn fun l => { l with
    leaves := [], written := [], groupsDone := [], factorsDone := [], blocksIn := 0, acks := [], agBuf := [], ownDue := [] }
  { s with upd := (List.range 4).foldl (fun u m => Tab.upd {} u m fun x => { x with slots := [], parks := [], sweep := 0 }) s.upd
           ras := { s.ras with resend := [], issued := [] } }
/-- The loss scale after a SKIP for a non-finite gradient (`04` R110). -/
def Ctx.halve (k : Ctx) : Ctx :=
  if k.ls = 0 then { k with clean := 0, lsFloor := k.lsFloor + 1 } else { k with clean := 0, ls := k.ls - 1 }
/-- The loss scale after a COMMIT or a CLIP (`04` R110). -/
def Ctx.cleanStep (k : Ctx) : Ctx :=
  if k.clean + 1 < k.lsd then { k with clean := k.clean + 1 } else { k with clean := 0, ls := min 32 (k.ls + 1) }
/-- The loss scale or the counter of the learning context changes, and its status area with it. -/
def State.scaleStep (s : State) (f : Ctx → Ctx) : State := (s.updCtx s.learn.ctx f).putStatus s.learn.ctx
/-- First address of the accumulators of a rule-7 factor table: after FR, FC and FB, padded to 64 B (R228). -/
def Group.accAt (g : Group) : Nat := g.fbase + ceilDiv (4 * (g.frows + g.pcount / max 1 g.frows + 1)) 64 * 64
/-- Accumulators of a factor table. -/
def Group.accCount (g : Group) : Nat := g.frows + g.pcount / max 1 g.frows
/-- The initiator of the accesses to a factor table: the update unit of the M-die where it lies, or that is bridled to
its C-die (log 30). -/
def State.factorInit (s : State) (g : Group) : Nat :=
  704 + (match (s.walk none 704 s.learn.ctx g.fbase).1 with
    | .page e => (match s.space (e.at g.fbase) with
        | .l m => m
        | .d d => d / 2
        | _ => 0)
    | _ => 0)
/-- The accumulators of every rule-7 group are cleared on SKIP and REPLAY (R228). -/
def State.clearFactors (s : State) : State :=
  (s.learn.groups.filter fun g => g.rule == 7).foldl (fun s g =>
    State.settle s.learn.ctx (s.writeVa (s.factorInit g) s.learn.ctx g.accAt (List.replicate (40 * g.accCount) 0)) fun s _ => s) s
/-- A verdict that reaches the update units more than 50 µs after T_rs is counted as late (R225). -/
def State.countLate (s : State) : State :=
  if s.learn.trs ≠ 0 ∧ s.learn.trs + 50000 < s.now.toNat then
    (List.range 4).foldl (fun s m => s.bump (regMupd m) 2 1) s else s
/-- The step ends as a SKIP (R219, R221): VFID goes to 2t, and the fences of groups and CFID to t with discard
status. -/
def State.skipStep (s : State) (tmo : Bool) : State :=
  let s := (s.dropStep.clearFactors.updLearn fun l => { l with vcode := .skip, final := true, tmo := tmo, clipc := 0, committed := true }).mark 6
  let l := s.learn
  let s := s.putScb.signal l.scb.vfid (w64 (2 * l.t)) 0
  let s := l.groups.foldl (fun s g => match g.gfid with
    | some f => s.signal f (w64 l.t) 1
    | none => s) s
  let s := if l.scb.ds then s.updLearn fun l => { l with segDue := l.segDue ++ [(l.t, true)] } else s
  s.signal l.scb.cfid (w64 l.t) 1
/-- A round of REPLAY begins (R219, R220): RFID goes to 8t + r, and what the channels hold of earlier rounds of
the step is dropped. It runs again from the exponent pass, which the program of each member begins once its contribution
stands: computed anew, or kept. `free` is whether the round is left out of RP_MAX. -/
def State.replayStep (s : State) (self free : Bool) (excluded : List Nat) : State :=
  let r := s.learn.round + 1
  let s := s.dropStep.clearFactors.updLearn fun l => { l with
    vcode := .replay, round := r, selfFlag := self, trs := 0, gate := none, got := [], seen := [], queries := 0, stat := {}, excluded := excluded
    gateOld := l.gate.orElse fun _ => l.gateOld, expDue := true
    uncounted := l.uncounted + b2n free }
  let l := s.learn
  let old (m : CollMsg) : Bool := m.lrn && m.step == l.t && m.rnd != r
  let again (k : Coll) : Coll :=
    if k.bound && k.ctx == l.ctx then
      { k with prog := k.prog.map (fun d => if d.lrn then { d with done := [] } else d)
               rxBuf := k.rxBuf.filter fun m => !old m
               hold := k.hold.filter fun e => !old e.2
               scalHeard := [], scal := {}, ag := [], shard := [], past := [] }
    else k
  let s := { s with colls := (List.range 16).foldl (fun t i => Tab.upd {} t i again) s.colls }
  (s.putScb.signal l.scb.rfid (w64 (8 * l.t + r)) 0).mark 14
/-- The group of a record group: its index and entry (R211). -/
def Learn.groupOf (l : Learn) (rg : Nat) : Option (Nat × Group) :=
  (l.groups.zipIdx.find? fun e => e.1.pfirst ≤ 64 * rg && 64 * rg < e.1.pfirst + e.1.pcount).map fun e => (e.2, e.1)
/-- The contributors that a speculative result counts on: the live members that are not excluded (log 30). -/
def State.countedOn (s : State) : Nat :=
  match s.bindHerd with
  | some h => (h.rcd.live.filter fun m => !s.learn.excluded.contains m).length
  | none => 1
/-- The step commits, with its clip factor (R219, R224): results that assumed c = 1, or another N_c (R238), are
dropped from the slots. -/
def State.commitStep (s : State) (clipped : Bool) (c lbar : BitVec 32) (g4 : Bool) : State :=
  let sameN := s.countedOn == s.learn.nc
  let s := (s.updLearn fun l =>
    let l : Learn := if g4 then l.learnLoss lbar else l
    { l with vcode := if clipped then .clip else .commit, final := true, clipc := c, kcount := l.kcount + 1 }).mark 6
  let s := s.scaleStep Ctx.cleanStep
  let l := s.learn
  let again (k : Slot) : Slot :=
    if !sameN || (clipped && (l.groupOf k.rg).any fun e => e.2.clip) then { k with result := none, xorW := [], spec := false }
    else k
  let s := { s with upd := (List.range 4).foldl (fun u m => Tab.upd {} u m fun x => { x with slots := x.slots.map again }) s.upd }
  s.putScb.signal l.scb.vfid (w64 (2 * l.t + 1)) 0
/-- What the verdict of a gate record does (R216, R217). -/
def State.judged (s : State) (self spike late : Bool) (flags : List Nat) (lbar : BitVec 32) : Ruling → State
  | .skip nonfinite => (if nonfinite then s.scaleStep Ctx.halve else s).skipStep late
  | .replay ex => s.replayStep self false (if ex then flags else [])
  | .clip c => s.commitStep true c lbar (!spike)
  | .commit => s.commitStep false one32 lbar (!spike)
/-- A member that is flagged writes a signature (`20` R466); its unit kind is a free value (log 17). -/
def State.flagSelf (s : State) (h : Herd) (r : GateRec) : State :=
  let x := s.free 8
  let w := ((r.wself.find? fun e => e.1 == h.self).map Prod.snd).getD 0
  x.2.record { cls := 0x06, outcome := 1, ukind := x.1.toNat, synd := BitVec.ofNat 128 (w / 2 ^ 896) }
/-- The gate record of the open step's round is taken, and the verdict computed (R216, R217). -/
def State.judgeStep (s : State) (h : Herd) (r : GateRec) : State :=
  let s := ((s.updLearn fun l => { l with gate := some r }).mark 5).countLate
  let x := s.meanLoss r
  let lbar := x.1
  let l := x.2.learn
  let flags := flagged l.scb r
  let nall := l.norm r.wall r.nc
  let nclip := l.norm r.wclip r.nc
  let spike := l.spikes lbar
  let self := flags.contains h.self
  let fail := b2n (r.nnf != 0) + 2 * b2n (lt32 l.scb.skipNorm nall) + 4 * b2n (!flags.isEmpty) + 8 * b2n spike
  let s := x.2.updLearn fun l => { l with
    fail := fail, selfFlag := self, nall := nall, nclip := nclip, nflag := flags.length, nc := r.nc, lbar := lbar }
  let s := if self then s.flagSelf h r else s
  let s := if spike && l.scb.lmAct == 0 then s.ctxEvent l.ctx 6 (w64 l.t) else s
  s.judged self spike (decide (r.ts + 2000000 < r.tg)) flags lbar (l.judge r flags lbar nall nclip)
/-- A gate record reaches this member: one of another epoch is dropped and counted (`12` R288), and one of another
step or round changes nothing. -/
def State.takeGate (s : State) (r : GateRec) : State :=
  match s.bindHerd with
  | none => s
  | some h =>
      if r.epoch != h.rcd.epoch then s.updHerd h.hid fun h => { h with staleMsgs := h.staleMsgs + 1 }
      else if s.learn.final || r.t != s.learn.t || r.round != s.learn.round then s
      else s.judgeStep h r
/-- A gate record goes down the tree to the children (`12` R303). -/
def State.gateDown (s : State) (r : GateRec) : State :=
  match s.bindHerd with
  | none => s
  | some h =>
      if r.epoch != h.rcd.epoch then s
      else (treeChildren h.rcd h.self).foldl (fun s m => s.toMember h m (GateRec.msg r)) s
/-- GATE_RECORD (R217): forwarded down the tree, and taken. -/
def execGateRecord (r : GateRec) (s : State) : Out := .next (if s.dev != .ready then s else (s.gateDown r).takeGate r)
/-- A round of the open step waits for its gate record. -/
def State.gateOpen (s : State) : Bool := s.dev == .ready && s.learn.bound && !s.learn.final && s.learn.trs != 0
/-- GATE_QUERY (R218): the query names the step and the round; its header code is not given (log 30). -/
def execGateQuery (s : State) : Out :=
  .next (match s.gateOpen, s.bindHerd with
    | true, some h => (s.updLearn fun l => { l with queries := l.queries + 1 }).toMember h h.rcd.bell
        { opc := 0x40, rnd := s.learn.round, step := s.learn.t }
    | _, _ => s)
/-- The Bellwether answers a query with the gate record, once it is formed, and sends nothing before (R218). -/
def State.answerQuery (s : State) (h : Herd) (m : CollMsg) : State :=
  match (s.learn.gate.toList ++ s.learn.gateOld.toList).find? fun g => g.t == m.step && g.round == m.rnd with
  | some g => if h.rcd.bell = h.self then s.toMember h m.src (GateRec.msg g) else s
  | none => s
/-- GATE_TIMEOUT (R218): unless a record of a later epoch has arrived since T_rs, SKIP with TMO, an event, and the
member withdraws. -/
def execGateTimeout (s : State) : Out :=
  .next (match s.gateOpen, s.bindHerd with
    | true, some h =>
        if h.next.isSome || h.rcd.epoch != s.learn.trsEpoch then s
        else ((s.countLate.skipStep true).ctxEvent s.learn.ctx 6 (w64 s.learn.t)).quitHerd h.hid
    | _, _ => s)

end Sys2Proof.Machine
end

