-- ==== Sys2Proof/Machine/Herd.lean ====
section
/-! DEFINITION. Herd plans, formation, membership, digests, shrinking and growing (`12` R285–R291, R311–R318,
`17` R420, `19` R458). -/

namespace Sys2Proof.Machine

/-! ### Plans (R285, R286) -/

/-- A plan as its bytes give it, for a context. -/
def planHerd (ctx : Nat) (b memb ring : List Byte) : Herd :=
  let w := fun i => wordAt b i
  let n := fld (w 1) 63 52 + 1
  let rc := fld (w 0) 15 12
  { hid := fld (w 0) 63 32, ctx := ctx, tdom := fld (w 0) 31 16, rcnt := rc, k := fld (w 0) 11 5, pol := bit (w 0) 4
    nmin := fld (w 1) 51 40 + 1
    slots := (List.range 256).filter fun i => bit (w (2 + i / 64)) (i % 64)
    chd := digOf ((b.drop 48).take 32)
    nodes := (List.range n).map fun i => leAt memb (8 * i) 2
    inits := (List.range n).filter fun i => bit (wordAt memb i) 16
    rings := (List.range rc).map fun r => (List.range n).map fun i => leAt ring (2 * (r * n + i)) 2
    planDig := Config.sm3 b }
/-- A plan is refused (R286), or a field lies outside the range that *Herd plan* gives. -/
def State.planBad (s : State) (h : Herd) (b memb : List Byte) : Bool :=
  let w := fun i => wordAt b i
  let n := h.nodes.length
  let mine := h.nodes.filter (· == s.node)
  fld (w 0) 3 0 != 0 || fld (w 1) 39 0 != 0 || w 12 != 0 || w 13 != 0 || w 14 != 0 || w 15 != 0 ||
    ((List.range n).any fun i => (wordAt memb i) >>> 17 != 0) ||
    h.hid == 0 || h.rcnt == 0 || 8 < h.rcnt || h.k == 0 || 64 < h.k || n < h.nmin ||
    mine.length != 1 || !h.nodes.Nodup || h.nodes.contains 0 || h.nodes.contains 0xFFFF ||
    (h.rings.any fun r => !r.Nodup || r.any fun m => n ≤ m) ||
    (s.herds.any fun x => x.hid == h.hid || x.slots.any h.slots.contains) ||
    (match s.tet.tdom with | some d => d != h.tdom | none => false) ||
    !((Tab.keys s.ctxs).any fun c => s.ctxLive c && (s.ctx c).chd == h.chd)
/-- Reads a plan, its member table and its rings; a fault loses the context. -/
def State.readPlan (s : State) (ctx va : Nat) : Res (Herd × List Byte × List Byte) :=
  (s.readVa 725 ctx va 128).bind fun s b =>
    let n := fld (wordAt b 1) 63 52 + 1
    (s.readVa 725 ctx (wordAt b 10).toNat (8 * n)).bind fun s memb =>
      (s.readVa 725 ctx (wordAt b 11).toNat (2 * n * fld (wordAt b 0) 15 12)).bind fun s ring =>
        .ok s (planHerd ctx b memb ring, b, memb)

/-! ### Formation (R285, R287, `17` R420) -/

/-- The lowest INIT member: the Bellwether of a herd that forms. -/
def Herd.firstBell (h : Herd) : Nat := h.inits.headD 0
/-- The links among live members that their announcements report. -/
def Herd.linkMap (h : Herd) (live : List Nat) : List (Nat × Nat × Nat) :=
  h.peers.filterMap fun e =>
    let m := h.nodes.idxOf e.2.2
    if live.contains e.1 && live.contains m then some (e.1, e.2.1, m) else none
/-- The chain before the first step: C₀ = SM3(HID ‖ SM3 of the plan), HID as 4 B little-endian (R311, log 29). -/
def Herd.chain0 (h : Herd) : BitVec 256 := Config.sm3 (leBytes 4 h.hid ++ digBytes h.planDig)
/-- A first record comes into force at once, and HERD.FORM completes (log 29). -/
def State.formed (s : State) (hid : Nat) (r : MemRec) : State :=
  let s := s.updHerd hid fun h => { h with phase := .live, rcd := r, chain := h.chain0, missing := [] }
  let s := { s with slotShadow := s.slotFill, slotTab := s.slotFill }
  let s := s.completeAll (fun w => w == MbxWait.herd hid) stOk []
  match s.herd? hid with
  | some h => (s.ctxEvent h.ctx 7 (at64 r.epoch 32)).putStatus h.ctx
  | none => s
/-- Ports that lead toward a member of a plan while no record gives routes: the lowest whose peer it is, or else every one
whose peer is a member (log 29). -/
def State.formPorts (s : State) (h : Herd) (dst : Nat) : List Nat :=
  let ups := (List.range 16).filter fun p => (s.port p).st == .up && h.nodes.contains (s.port p).peer
  match ups.find? fun p => (s.port p).peer == h.nodes.getD dst 0 with
  | some p => [p]
  | none => ups
/-- A control message for a member of a plan leaves on the ports that lead toward it. -/
def State.formSend (s : State) (h : Herd) (dst : Nat) (m : CollMsg) : State :=
  (s.formPorts h dst).foldl (fun s p => s.ctlSend (some p) dst m) s
/-- The announcement of a member and of the peers at its ports, which members that hear it pass on toward the Bellwether
(R287, log 29). -/
def State.announce (s : State) (h : Herd) (src : Nat) (peers : List (Nat × Nat)) (quote : List Byte) : State :=
  s.formSend h h.firstBell { h.sign h.firstBell (announceMsg peers quote) with src := src }
/-- The Bellwether broadcasts the first record, over the members heard, on the routes that it gives. -/
def State.firstRecord (s : State) (hid : Nat) : State :=
  match s.herd? hid with
  | none => s
  | some h =>
      let live := h.inits.filter h.heard.contains
      let r : MemRec := { epoch := 0, live := live, links := h.linkMap live, bell := h.self, swap := s.now.toNat }
      ((live.filter (· != h.self)).foldl (fun s m => s.toMember { h with rcd := r } m (recMsg r)) s).formed hid r
/-- The Bellwether has heard a member. -/
def State.hear (s : State) (hid m : Nat) (peers : List (Nat × Nat)) : State :=
  let s := s.updHerd hid fun h => { h with
    heard := (h.heard.filter (· != m)) ++ [m]
    peers := (h.peers.filter fun e => e.1 != m) ++ peers.map fun e => (m, e.1, e.2) }
  match s.herd? hid with
  | some h => if h.inits.all h.heard.contains then s.firstRecord hid else s
  | none => s
/-- HERD.FORM (R285–R287). The announcement's header code is not given (log 29). -/
def execHerdForm (c : MbxCall) (s : State) : Out :=
  .next (mailbox c (fun a => { opc := 0x33, masks := [lowMask 12, allMask], names := [(0, argCtx a 0)], ctxs := [argCtx a 0]
                               always := false, bad := false, free := false })
    (fun a s => match s.readPlan (argCtx a 0) (argAt a 1).toNat with
      | .lost s cause => (s.lose (argCtx a 0) cause, .done stLost [])
      | .wait s => (s, .wait .queued)
      | .ok s (h, b, memb) =>
          if s.planBad h b memb then (s, .refused 0)
          else if 4 ≤ s.herds.length then (s, .done stFull [])
          else
            let self := h.nodes.idxOf s.node
            let h := { h with self := self }
            let s := { s with herds := s.herds ++ [h] }
            if h.firstBell = self && h.inits.contains self then
              let s := s.hear h.hid self s.portPeers
              (s, match s.herd? h.hid with
                | some x => if x.phase = .live then ok else .wait (.herd h.hid)
                | none => .wait (.herd h.hid))
            else (s.announce h self s.portPeers (s.ownQuote h.chd), .wait (.herd h.hid))) s)
/-- A message of a herd is of the epoch in force; another is dropped and counted (R288). -/
def State.ofEpoch (s : State) (h : Herd) (epoch : Nat) (k : State → State) : State :=
  if epoch == h.rcd.epoch then k s else s.updHerd h.hid fun h => { h with staleMsgs := h.staleMsgs + 1 }
/-- A live member reports its ports to the Bellwether, which issues a record when the link map has changed (R290). -/
def State.portReport (s : State) (h : Herd) (m : Nat) (peers : List (Nat × Nat)) : State :=
  let ends := h.ends peers
  let known := (h.latest.links.filter fun l => l.1 == m).map fun l => l.2
  if h.latest.bell != h.self || !h.latest.live.contains m || (ends.all known.contains && known.all ends.contains) then s
  else s.newLinks h.hid (h.relink m ends)
/-- A member that is not live announces itself, to join: the Bellwether keeps its links, and another member passes the
announcement on, once (R318). -/
def State.hearJoiner (s : State) (h : Herd) (m : Nat) (peers : List (Nat × Nat)) (quote : List Byte) : State :=
  let s := s.updHerd h.hid fun h => { h with
    heard := (h.heard.filter (· != m)) ++ [m]
    peers := (h.peers.filter fun e => e.1 != m) ++ peers.map fun e => (m, e.1, e.2) }
  if h.latest.bell = h.self ∨ h.heard.contains m then s
  else s.onRoute h h.latest.bell { h.sign h.latest.bell (announceMsg peers quote) with src := m }
/-- The node of a member of a plan. -/
def Herd.nodeOf (h : Herd) (m : Nat) : Nat := h.nodes.getD m 0
/-- HERD_ANNOUNCE (R287, R290, `17` R420): a member whose quote fails a check is absent. A member that is not the Bellwether
passes an announcement on, once. In a herd that runs it reports the ports of a member whose links have changed, or those of
one that joins. -/
def execHerdAnnounce (hid : BitVec 32) (m : HerdFrom) (quote : QuoteIn) (peers : List (Nat × Nat)) (s : State) : Out :=
  .next (match s.herd? hid.toNat with
    | some h =>
        if s.dev != .ready || !s.quoteGood h.chd (h.nodeOf m.m) quote then s
        else if h.phase == .forming && h.self == h.firstBell && h.inits.contains m.m.val then
          s.hear hid.toNat m.m peers
        else if h.phase == .forming && h.self != h.firstBell && m.m.val != h.self && !h.heard.contains m.m.val then
          (s.updHerd h.hid fun h => { h with heard := h.heard ++ [m.m.val] }).announce h m.m peers quote.quote
        else if h.runs then
          (if h.latest.live.contains m.m.val || decide (h.nodes.length ≤ m.m.val) then s.ofEpoch h m.epoch.toNat fun s => s.portReport h m.m peers
          else s.hearJoiner h m.m peers quote.quote)
        else s
    | none => s)
/-- FORMATION_TIMEOUT (R287): with NMIN heard, INIT members not heard are absent. -/
def execFormationTimeout (hid : BitVec 32) (s : State) : Out :=
  .next (match s.herd? hid.toNat with
    | some h =>
        if s.dev != .ready || h.phase != .forming then s
        else if h.self == h.firstBell && decide (h.nmin ≤ h.heard.length) then s.firstRecord hid.toNat
        else s.unform hid.toNat
    | none => s)

/-! ### Membership (R288–R291, R314–R316) -/

/-- MEMBERSHIP_RECORD (R288, R314): the first one comes into force at once; a later one, sent under the epoch in force, waits
for its instant. A joiner takes one of any epoch. A member that it leaves out is expelled, and one that it reaches too late withdraws. A record with fewer than NMIN live
members, or the one without members that tells the end (log 29), ends the herd. -/
def execMembershipRecord (hid : BitVec 32) (r : MemRec) (s : State) : Out :=
  .next (match s.herd? hid.toNat with
    | none => s
    | some h =>
        if s.dev != .ready then s
        else if h.phase == .forming then
          (if r.live.contains h.self then s.formed hid.toNat { r with mep := 0 } else s.unform hid.toNat)
        else if h.phase != .joining && r.live.isEmpty && r.mep == h.rcd.epoch && r.epoch == h.rcd.epoch then s.leaveHerd hid.toNat
        else if h.phase != .joining && (r.mep != h.rcd.epoch || decide (r.epoch ≤ h.rcd.epoch)) then
          s.updHerd hid.toNat fun h => { h with staleMsgs := h.staleMsgs + 1 }
        else if !r.live.contains h.self then (if h.phase == .joining then s else s.leaveHerd hid.toNat)
        else if r.live.length < h.nmin then s.leaveHerd hid.toNat
        else if r.swap < s.now.toNat + 1000000 then s.quitHerd hid.toNat
        else s.updHerd hid.toNat fun h => { h with next := some { r with mep := 0 } })
/-- The units of a lost owner above the highest that reached the survivors are done again (R316): the first
member does not count them as done. -/
def patched (h : Herd) (old : List Nat) (r : MemRec) (u : Nat) : Bool :=
  let n := max 1 old.length
  let o := old.getD (u % n) 0
  let d := u / n % (2 * max 1 h.rcnt)
  !r.live.contains o && (match r.high.find? fun e => e.1 == o && e.2.1 == d with
    | some e => decide (e.2.2 < u)
    | none => true)
/-- A message of the send hold under a new record: one whose successor is lost goes to the next live member, in the order
of its ring or up the tree, under that successor's numbers (R289, R301). -/
def Coll.redirect (k : Coll) (h : Herd) (r : MemRec) (e : Nat × CollMsg) : Coll :=
  let m : CollMsg := { e.2 with mep := r.epoch }
  if r.live.contains e.1 then { k with hold := k.hold ++ [(e.1, m)] }
  else
    let d := if m.opc < 0x23 then nextOn (h.ringOf (h.ringOfUnit m.unit)) r.live h.self else (treeParent r h.self).getD h.self
    let n := Tab.get 0 k.txSeq d
    if d = h.self then k
    else { k with hold := k.hold ++ [(d, { m with seq := n })], txSeq := Tab.set 0 k.txSeq d (n + 1) }
/-- The channels of a herd take up the routes of a new record (R301, R314). What was received stays; scalar records are
combined anew, over the new tree. -/
def Coll.reroute (k : Coll) (h : Herd) (old : List Nat) (r : MemRec) (carried : Bool) : Coll :=
  if !k.bound || k.hid != h.hid then k
  else
    let ended := k.past.filter fun d => d.done.any fun u => patched h old r u
    let all : List CollDesc := k.prog ++ ended.map fun d => { d with again := true }
    let again : List CollDesc := all.map fun d => { d with done := d.done.filter fun u => !patched h old r u }
    let k' : Coll := { k with scalHeard := [], scal := {}, hold := [], past := if carried then [] else k.past
                              prog := if carried then again else k.prog }
    (k.hold.filter fun e => e.2.opc != 0x23 || !e.2.lrn).foldl (fun k e => k.redirect h r e) k'
/-- Unacknowledged messages of a herd's channels, and its unacknowledged control messages, are sent again on the new routes
(R301). -/
def State.resendHold (s : State) (hid : Nat) : State :=
  match s.herd? hid with
  | none => s
  | some h => State.ctlAgain (h := h) <| (s.chansOf hid).foldl (fun s ch => (s.coll ch).hold.foldl (fun s e => s.onRoute h e.1 e.2) s) s
/-- The step in flight at a change of the live members (R315, R316): a record that carries its gate record gives the
verdict; otherwise the step replays, or is skipped past round 7. What a survivor contributes under POL is its program's
doing: the status area shows it the members that are left (`14` R349). -/
def State.changeStep (s : State) (hid : Nat) : State :=
  match s.bindHerd with
  | none => s
  | some h =>
      if h.hid != hid || s.learn.final then s
      else match h.rcd.gate.filter fun g => g.t == s.learn.t && g.round == s.learn.round with
        | some g => s.judgeStep h g
        | none => if 7 ≤ s.learn.round then s.countLate.skipStep false else s.countLate.replayStep false true []
/-- MEMBERSHIP_SWAP (R314): slot table, routes, ranks and owners change at the instant. A hold for a field test lasts until
the Bellwether ends it (R312). -/
def execMembershipSwap (hid : BitVec 32) (s : State) : Out :=
  .next (match s.herd? hid.toNat with
    | none => s
    | some h => match s.dev == .ready, h.next with
      | true, some r =>
          let old := h.rcd.live
          let joined := h.phase == .joining
          let s := s.dropCkpts (fun w => w.cls == 0 && w.name == w64 h.hid && w.s.isSome && w.epoch != r.epoch) .member
          let held := h.hold && h.join.isNone && !joined
          let s := s.updHerd h.hid fun h => { h with
            rcd := r, next := none, phase := if held then .holding else .live, hold := held, join := none, donors := [], joinLinks := []
            missing := Tab.drop h.missing fun m => !r.live.contains m
            digests := h.digests.filter fun d => r.live.contains d.1 }
          let carried := r.gate.isSome
          let s := { s with colls := (List.range 16).foldl (fun t i => Tab.upd {} t i fun k => k.reroute h old r carried) s.colls }
          let s : State := { s with slotShadow := s.slotFill, slotTab := s.slotFill }
          let s := s.resendHold h.hid
          let s := if joined then s.completeAll (fun w => w == MbxWait.join h.hid) stOk [] else s
          let s := if r.live = old || joined then s else s.changeStep h.hid
          (s.ctxEvent h.ctx 7 (at64 r.epoch 32)).putStatus h.ctx
      | _, _ => s)
/-- LIVENESS_REPORT (R290): the member reports its live descendants to its parent, or a report that it receives
lists a member. -/
def execLivenessReport (hid : BitVec 32) (src : Option HerdFrom) (s : State) : Out :=
  .next (match s.herd? hid.toNat with
    | none => s
    | some h =>
        if s.dev != .ready || !h.runs then s
        else match src with
          | some m => s.ofEpoch h m.epoch.toNat fun s => s.updHerd h.hid fun h => { h with missing := Tab.set 0 h.missing m.m 0 }
          | none =>
              let below := treeBelow h.rcd h.rcd.live.length h.self
              let s := s.updHerd h.hid fun h => { h with missing := below.foldl (fun t m => Tab.upd 0 t m (· + 1)) h.missing }
              match treeParent h.rcd h.self with
              | none => s
              | some p => s.toMember h p
                  { opc := 0x31, data := leBytes 512 (liveMap (h.self :: below.filter fun m => Tab.get 0 h.missing m == 0)) })
/-- MEMBER_MISSING (R290): missing from 3 consecutive reports at the Bellwether. -/
def execMemberMissing (hid : BitVec 32) (m : Fin 4096) (s : State) : Out :=
  .next (match s.herd? hid.toNat with
    | some h =>
        if s.dev == .ready && h.runs && h.latest.bell == h.self && m.val != h.self && h.latest.live.contains m.val &&
            decide (3 ≤ Tab.get 0 h.missing m) then s.dropMember hid.toNat m
        else s
    | none => s)
/-- WITHDRAW (R290). -/
def execWithdraw (hid : BitVec 32) (m : HerdFrom) (s : State) : Out :=
  .next (match s.herd? hid.toNat with
    | some h =>
        if s.dev == .ready && h.runs && h.latest.bell == h.self && m.m.val != h.self && h.latest.live.contains m.m.val then
          s.ofEpoch h m.epoch.toNat fun s => s.dropMember hid.toNat m.m
        else s
    | none => s)
/-- The herd beacon goes down the tree; its header code is not given (log 29). -/
def State.beaconDown (s : State) (h : Herd) : State :=
  (treeChildren h.rcd h.self).foldl (fun s m => s.toMember h m { opc := 0x42, data := leBytes 2 h.rcd.bell }) s
/-- HERD_BEACON (R291): the Bellwether sends it, or a member counts it and forwards it. -/
def execHerdBeacon (hid : BitVec 32) (recv : Option (BitVec 32 × Fin 4096)) (s : State) : Out :=
  .next (match s.herd? hid.toNat with
    | none => s
    | some h =>
        if s.dev != .ready || !h.runs then s
        else match recv with
          | none => if h.rcd.bell = h.self then s.beaconDown h else s
          | some (e, b) => s.ofEpoch h e.toNat fun s =>
              if b.val != h.rcd.bell || h.rcd.bell == h.self then s
              else (s.updHerd h.hid fun h => { h with beacons := h.beacons + 1 }).beaconDown h)
/-- BELLWETHER_TAKEOVER (R291): `reached` lists the live members that the candidate reaches, all of them above it. -/
def execBellwetherTakeover (hid : BitVec 32) (reached : List Nat) (s : State) : Out :=
  .next (match s.herd? hid.toNat with
    | some h =>
        if s.dev != .ready || !h.runs || h.rcd.bell == h.self || reached.any fun m => m < h.self then s
        else
          let live := h.latest.live.filter fun m => m == h.self || reached.contains m
          s.newRecord hid.toNat live live h.latest.links
    | none => s)

/-! ### Digests (R311–R313) -/

/-- ROOT_DIGEST (R311): root_t, and the chain; every K committed steps the value goes to the Bellwether. -/
def execRootDigest (hid : BitVec 32) (s : State) : Out :=
  .next (match s.bindHerd, s.learn.rootDue with
    | some h, some (t, kc, root) =>
        if s.dev != .ready || h.hid != hid.toNat then s
        else
          let c := Config.sm3 (digBytes h.chain ++ digBytes root ++ leBytes 8 t)
          let s := (s.updHerd h.hid fun h => { h with root := root, rootT := t, chain := c }).updLearn fun l => { l with rootDue := none }
          if kc % h.k ≠ 0 then s
          else
            let s := s.markOf t 15
            if h.rcd.bell = h.self then
              s.updHerd h.hid fun h => { h with digests := (h.digests.filter fun d => d.1 != h.self) ++ [(h.self, kc, c)] }
            else s.toMember h h.rcd.bell { opc := 0x33, step := t, data := leBytes 8 kc ++ digBytes c }
    | _, _ => s)
/-- A value that more than half of the live members hold. -/
def majority (n : Nat) (vals : List (Nat × BitVec 256)) : Option (BitVec 256) :=
  (vals.map Prod.snd).find? fun v => n < 2 * (vals.filter fun e => e.2 == v).length
/-- Every core stops for the field test that R312 requires; the test ends at FIELD_TEST_COMPLETE. -/
def State.fieldTestBegin (s : State) (herd : Option Nat) : State :=
  { s with ras := { s.ras with fieldTest := 1, ftFail := [], ftHerd := herd } }
/-- The exchange of a step found a stray, or no majority: a model checkpoint of that step is abandoned, and at a stray
FLOOR is raised to it (`19` R450, R453; the step is that of the last root, log 34). -/
def State.strayStep (s : State) (h : Herd) (stray : Bool) : State :=
  let s := s.dropCkpts (fun w => w.cls == 0 && w.name == w64 h.hid && w.s == some h.rootT) .digest
  match stray, s.store? h.chd 0 (w64 h.hid) with
  | true, some x => s.raiseFloor x s.learn.ctx h.rootT
  | _, _ => s
/-- The values that arrived for an exchange, each with its member and the epoch it carried: those of another epoch are
dropped, and counted (R288). -/
def State.digestVals (s : State) (h : Herd) (vals : List (HerdFrom × BitVec 256)) : State :=
  s.updHerd h.hid fun x => { x with
    staleMsgs := x.staleMsgs + (vals.filter fun e => e.1.epoch.toNat != h.rcd.epoch).length }
/-- DIGEST_DECIDE (R312, R313): members without a value are lost, and those with another value than the majority's
are strays; one that a record admits and that is not live yet has no value to give. Without a majority the herd holds its next exponent pass, and every member runs the field test; the
header code of that message is not given (log 29). -/
def execDigestDecide (hid : BitVec 32) (vals : List (HerdFrom × BitVec 256)) (s : State) : Out :=
  .next (match s.herd? hid.toNat with
    | none => s
    | some h =>
        if s.dev != .ready || !h.runs || h.rcd.bell != h.self || h.digests.all (fun d => d.1 != h.self) then s
        else
          let own := ((h.digests.filter fun d => d.1 == h.self).map fun d => d.2.2).headD 0
          let s := s.digestVals h vals
          let got := (vals.filter fun e => e.1.epoch.toNat == h.rcd.epoch).map fun e => (e.1.m.val, e.2)
          let vals := (h.self, own) :: got.filter fun e => e.1 != h.self && h.rcd.live.contains e.1
          let s := s.updHerd h.hid fun h => { h with digests := [] }
          match majority h.rcd.live.length vals with
          | some v =>
              let kept := h.latest.live.filter fun m => vals.contains (m, v) || !h.rcd.live.contains m
              if kept = h.latest.live then s
              else if vals.any fun e => e.2 != v then (s.strayStep h true).expel h.hid kept
              else s.newRecord h.hid kept (h.reached kept h.latest.links) h.latest.links
          | none =>
              let kept := h.latest.live.filter fun m => (vals.any fun e => e.1 == m) || !h.rcd.live.contains m
              let s := s.strayStep h false
              let s := if kept = h.latest.live then s
                else s.newRecord h.hid kept (h.reached kept h.latest.links) h.latest.links
              let s := (kept.filter (· != h.self)).foldl (fun s m => s.toMember h m { opc := 0x44 }) s
              (s.updHerd h.hid fun h => { h with
                hold := true, phase := .holding, digests := vals.map fun e => (e.1, s.learn.kcount, e.2) }).fieldTestBegin (some h.hid))

/-! ### Growing (R317, R318, `19` R458) -/

/-- HERD.JOIN (R317): `covered` is whether the stream covers what the joiner needs. The reservation is a pool request, whose
answer decides (POOL_RESPONSE), so nothing depends on what the operand `reserved` says. The joiner announces itself. -/
def execHerdJoin (c : MbxCall) (reserved covered : Bool) (s : State) : Out :=
  let _ := reserved
  .next (mailbox c (fun a => { opc := 0x34, masks := [lowMask 12, allMask, lowMask 12], names := [(0, argCtx a 0)]
                               ctxs := [argCtx a 0], always := false, bad := false, free := false })
    (fun a s => match s.readPlan (argCtx a 0) (argAt a 1).toNat with
      | .lost s cause => (s.lose (argCtx a 0) cause, .done stLost [])
      | .wait s => (s, .wait .queued)
      | .ok s (h, b, memb) =>
          let m := fld (argAt a 2) 11 0
          if s.planBad h b memb || h.nodes.idxOf s.node != m || h.inits.contains m then (s, .refused 0)
          else if 4 ≤ s.herds.length then (s, .done stFull [])
          else if !covered then (s, .done stNocover [])
          else match (s.store? h.chd 0 (w64 h.hid)).filter fun x => (s.storePort x.pmask).isSome with
            | none => (s, .refused 0)
            | some x =>
                let h : Herd := { h with self := m, phase := .joining, chain := h.chain0 }
                let s : State := { s with herds := s.herds ++ [h] }
                ((s.reserve x h.ctx h.hid m (s.coordWord x (2 + m / 64))).announce h m s.portPeers (s.ownQuote h.chd), .wait (.join h.hid))) s)
/-- The links between a joiner and live members: those that its announcement reports, and this module's own ports (R318). -/
def State.linksTo (s : State) (h : Herd) (j : Nat) : List (Nat × Nat × Nat) :=
  let said := (h.linkMap (j :: h.latest.live)).filter fun l => l.1 == j || l.2.2 == j
  let own := (s.portPeers.filter fun e => e.2 == h.nodes.getD j 0).flatMap fun e => [(h.self, e.1, j), (j, 0, h.self)]
  let back := said.filterMap fun l => if l.1 = j && !(said.any fun k => k.1 == l.2.2) then some (l.2.2, l.2.1, j) else none
  said ++ back ++ own
/-- The donors of a join: up to 16 live members nearest the joiner by route, ties to the lower index. -/
def Herd.donorsOf (h : Herd) (j : Nat) (links : List (Nat × Nat × Nat)) : List Nat :=
  let d := hopsTo { h.rcd with live := h.rcd.live ++ [j], links := h.rcd.links ++ links } j
  ((h.rcd.live.filter fun m => Tab.get 0 d m != 0).mergeSort fun a b =>
    Tab.get 0 d a < Tab.get 0 d b || (Tab.get 0 d a == Tab.get 0 d b && a ≤ b)).take 16
/-- The join step is named: this member holds the exponent pass after it, and knows the donors and the joiner's links. -/
def State.nameJoin (s : State) (hid j t : Nat) (donors : List Nat) (links : List (Nat × Nat × Nat)) : State :=
  s.updHerd hid fun h => { h with hold := true, phase := .holding, join := some (j, t), donors := donors, joinLinks := links }
/-- The order of the Bellwether that names a join step; its code and bytes are log 29. -/
def joinOrder (h : Herd) (j t : Nat) : CollMsg :=
  { opc := 0x4F, step := t
    data := leBytes 2 j ++ leBytes 2 h.donors.length ++ h.donors.flatMap (leBytes 2) ++
      h.joinLinks.flatMap fun l => leBytes 2 l.1 ++ leBytes 1 l.2.1 ++ leBytes 2 l.2.2 }
/-- A member takes that order. -/
def State.heedJoin (s : State) (h : Herd) (m : CollMsg) : State :=
  let b := m.data.drop 8
  let n := leAt b 2 2
  let l := b.drop (4 + 2 * n)
  if m.src != h.rcd.bell then s
  else s.nameJoin h.hid (leAt b 0 2) m.step ((List.range n).map fun i => leAt b (4 + 2 * i) 2)
    ((List.range (l.length / 5)).map fun i => (leAt l (5 * i) 2, leAt l (5 * i + 2) 1, leAt l (5 * i + 3) 2))
/-- The join is over without the joiner: the hold ends. -/
def State.dropJoin (s : State) (hid : Nat) : State :=
  s.updHerd hid fun h => { h with hold := false, phase := .live, join := none, donors := [], joinLinks := [] }
/-- The Bellwether ends a join that fails, and tells the members. -/
def State.endJoin (s : State) (h : Herd) : State :=
  let s := if h.rcd.bell = h.self then
      (h.rcd.live.filter (· != h.self)).foldl (fun s m => s.toMember h m { opc := 0x49 }) s
    else s
  s.dropJoin h.hid
/-- JOIN_ABANDON (R318). -/
def execJoinAbandon (hid : BitVec 32) (s : State) : Out :=
  .next (match s.herd? hid.toNat with
    | none => s
    | some h =>
        if s.dev != .ready then s
        else if h.phase == .joining then s.unform hid.toNat
        else if h.join.isSome then s.endJoin h
        else s)

end Sys2Proof.Machine
end

