-- ==== Sys2Proof/Machine/Binding.lean ====
section
/-! DEFINITION. The learning binding, its step control block and group table, and the opening of a step
(`09` R207–R211, R230). -/

namespace Sys2Proof.Machine

/-! ### The structures in memory (R208, R210) -/

/-- A step control block as its words 0–9 give it. -/
def scbOf (b : List Byte) : Scb :=
  let w := fun i => wordAt b i
  let f := fun i hi lo => BitVec.ofNat 32 (fld (w i) hi lo)
  { ofid := fld (w 0) 63 48, vfid := fld (w 0) 47 32, cfid := fld (w 0) 31 16, lfid := fld (w 0) 15 0
    rfid := fld (w 1) 63 48, outMin := fld (w 1) 47 36, rpMax := fld (w 1) 26 24, lmA := fld (w 1) 23 16
    lmAct := fld (w 1) 15 14, gdiv := bit (w 1) 13, ds := bit (w 1) 12
    clipNorm := f 2 63 32, skipNorm := f 2 31 0, outHi := f 3 63 32, outLo := f 3 31 0, lmK := f 4 63 32
    lmWarm := fld (w 4) 31 16, gtbl := (w 5).toNat, stateVa := (w 6).toNat, stage := (w 7).toNat
    bmib := fld (w 8) 63 48, bbase := fld (w 8) 47 0 }
/-- GCOUNT. -/
def scbGroups (b : List Byte) : Nat := fld (wordAt b 1) 35 27
/-- A field of an SCB lies outside R208. -/
def scbBad (b : List Byte) : Bool :=
  let w := fun i => wordAt b i
  let c := scbOf b
  c.outMin < 3 || scbGroups b == 0 || 256 < scbGroups b || c.rpMax == 7 || c.lmA == 0 || 16 < c.lmA || c.lmAct == 3 ||
    fld (w 1) 11 0 != 0 || fld (w 4) 15 0 != 0 || fld (w 9) 63 32 != 0 || !aligned c.gtbl 64 || !aligned c.stateVa 128 ||
    !aligned c.stage (2 ^ 21) || !aligned c.bbase (2 ^ 21)
/-- A parameter-group entry. -/
def groupOfBytes (b : List Byte) : Group :=
  let w := fun i => wordAt b i
  let f := fun i hi lo => BitVec.ofNat 32 (fld (w i) hi lo)
  { rule := fld (w 0) 63 60, wfmt := fld (w 0) 59 56, wblk := 16 * 2 ^ fld (w 0) 55 54, mbf := bit (w 0) 53, wsr := bit (w 0) 52
    clip := bit (w 0) 51, bc := bit (w 0) 50, mom := bit (w 0) 49, sruleUp := bit (w 0) 48, pfirst := fld (w 0) 39 0
    gfid := if bit (w 1) 47 then some (fld (w 1) 63 48) else none, pcount := fld (w 1) 39 0
    lr := f 2 63 32, wd := f 2 31 0, b1 := f 3 63 32, b2 := f 3 31 0, eps := f 4 63 32, frows := fld (w 4) 31 0
    wbase := (w 5).toNat, wsbase := (w 6).toNat, fbase := (w 7).toNat }
/-- An FP32 number that is finite and not negative. -/
def nonneg32 (x : BitVec 32) : Bool := fin32 x && !lt32 x 0
/-- An entry lies outside R210 or R211. -/
def groupBad (b : List Byte) : Bool :=
  let g := groupOfBytes b
  8 < g.rule || !([1, 5, 6, 7, 8, 9] : List Nat).contains g.wfmt || g.wblk == 128 || fld (wordAt b 0) 47 40 != 0 ||
    fld (wordAt b 1) 46 40 != 0 || !aligned g.pfirst 128 || g.pcount == 0 || !aligned g.pcount 128 ||
    !(nonneg32 g.b1 && lt32 g.b1 one32) || !(nonneg32 g.b2 && lt32 g.b2 one32) ||
    !nonneg32 g.lr || !nonneg32 g.wd || !nonneg32 g.eps ||
    (if g.rule = 7 then g.frows == 0 || g.pcount % g.frows != 0 || !aligned g.fbase 64 else g.frows != 0)
/-- The groups cover 0 to P − 1 in order, without gaps (R211). -/
def coverFrom : Nat → List Group → Bool
  | _, [] => true
  | p, g :: gs => g.pfirst == p && coverFrom (p + g.pcount) gs
/-- P. -/
def Learn.params (l : Learn) : Nat := (l.groups.map (·.pcount)).sum
/-- The bytes of a record group (R230). -/
def Group.recSize (g : Group) : Nat := if g.mbf then 576 else 832
/-- Offset of record group rg from STATE (R230). -/
def recOffset : List Group → Nat → Nat
  | [], _ => 0
  | g :: gs, rg => if 64 * rg < g.pfirst + g.pcount then g.recSize * (rg - g.pfirst / 64)
      else g.recSize * (g.pcount / 64) + recOffset gs rg
/-- VA of a record group. -/
def Learn.recVa (l : Learn) (rg : Nat) : Nat := l.scb.stateVa + recOffset l.groups rg
/-- The space that a VA of a context leads to. -/
def State.spaceOf (s : State) (init c va : Nat) : Option Space :=
  match (s.walk none init c va).1 with
  | .page e => some (s.space (e.at va))
  | _ => none
/-- STATE, STAGE or BBASE lies in a tier that R208 excludes. -/
def State.scbTiers (s : State) (c : Nat) (b : Scb) : Bool :=
  (match s.spaceOf 704 c b.stage with | some (.l _) => false | _ => true) ||
    (match s.spaceOf 704 c b.stateVa with
      | some (.l _) => false
      | some (.d _) => false
      | some .h => b.bmib == 0
      | some .p => b.bmib == 0
      | _ => true) ||
    (b.bmib != 0 && (match s.spaceOf 704 c b.bbase with | some (.d _) => false | _ => true))
/-- The SCB and the group table, read and checked (R209); none when they break R208 or R211 or are not mapped. -/
def State.readScb (s : State) : Option (Scb × List Group) × State :=
  let c := s.learn.ctx
  match s.readVa 704 c s.learn.scbVa 128 with
  | .ok s b =>
      if scbBad b || s.scbTiers c (scbOf b) then (none, s)
      else match s.readVa 704 c (scbOf b).gtbl (64 * scbGroups b) with
        | .ok s g =>
            let es := (List.range (scbGroups b)).map fun i => (g.drop (64 * i)).take 64
            if es.any groupBad || !coverFrom 0 (es.map groupOfBytes) then (none, s)
            else (some (scbOf b, es.map groupOfBytes), s)
        | _ => (none, s)
  | _ => (none, s)

/-! ### Binding (R207) -/

/-- LEARN.BIND (R207): refused for a context without the learner role of its entry (`17` R406, R410). The status area of the
context shows its herd from then on (`14` R349). -/
def execLearnBind (c : MbxCall) (s : State) : Out :=
  .next (mailbox c (fun a => { opc := 0x22, masks := [lowMask 12, allMask], names := [(0, argCtx a 0)], ctxs := [argCtx a 0]
                               always := false, bad := !aligned (argAt a 1).toNat 64, free := false })
    (fun a s =>
      let i := argCtx a 0
      if s.learn.bound || !s.role i 2 then (s, .refused 0)
      else (({ s.grantUpdate { v := true, r := true, w := true, ctx := i } with
        learn := { bound := true, ctx := i, scbVa := (argAt a 1).toNat }, upd := [] } : State).putStatus i, ok)) s)
/-- Bytes with others in the place from `o` on. -/
def splice (b : List Byte) (o : Nat) (x : List Byte) : List Byte := b.take o ++ x ++ b.drop (o + x.length)
/-- DIG of a record group: the first 16 B of SM3(bytes 0–31 ‖ bytes 64 to end) (R230). -/
def recDig (b : List Byte) : List Byte := (digBytes (Config.sm3 (b.take 32 ++ b.drop 64))).take 16
/-- A record group with its STEP and DIG set. -/
def resealRec (t : Nat) (b : List Byte) : List Byte :=
  let x := splice b 0 (leBytes 8 t)
  splice x 32 (recDig x)
/-- Every pair of record groups is sealed with STEP 0, from record group `rg` on. -/
def State.sealPairs (s : State) (l : Learn) : Nat → Nat → Res Unit
  | 0, _ => .ok s ()
  | n + 1, rg =>
      let size := match l.groupOf rg with | some e => e.2.recSize | none => 0
      (s.readVa 704 l.ctx (l.recVa rg) (2 * size)).bind fun s b =>
        (s.writeVa 704 l.ctx (l.recVa rg) (resealRec 0 (b.take size) ++ resealRec 0 (b.drop size))).bind fun s _ =>
          State.sealPairs s l n (rg + 2)
/-- LEARN.SEAL (R207): STEP = 0 and a valid DIG in every record-group header. The next step is 1 (R209). -/
def execLearnSeal (c : MbxCall) (s : State) : Out :=
  .next (mailbox c (fun a => { opc := 0x23, masks := [lowMask 12], names := [(0, argCtx a 0)], ctxs := [argCtx a 0]
                               always := false, bad := false, free := false })
    (fun a s =>
      if !s.learn.bound || s.learn.ctx != argCtx a 0 || !s.learn.committed then (s, .refused 0)
      else match s.readScb with
        | (none, s) => (s, .refused 0)
        | (some (b, g), s) =>
            let l : Learn := { s.learn with scb := b, groups := g }
            match s.sealPairs l (l.params / 128) 0 with
            | .ok s _ => (s.updLearn fun x => { x with scb := b, groups := g, sealed := true, t := 0, final := true }, ok)
            | .lost s cause => (s.lose l.ctx cause, .done stLost [])
            | .wait s => (s, .wait .queued)) s)

/-! ### Opening a step (R209, R239) -/

/-- The fences of an SCB and its groups that the context may not wait on or signal (`14` R358). -/
def State.fencesBad (s : State) (b : Scb) (g : List Group) : Bool :=
  let c := s.learn.ctx
  !s.mayWait c b.ofid || !s.mayWait c b.lfid || !s.maySignal c b.vfid || !s.maySignal c b.cfid || !s.maySignal c b.rfid ||
    g.any fun x => match x.gfid with | some f => !s.maySignal c f | none => false
/-- A fence of the binding carries the HOST mark, which makes the open illegal (`14` R359). -/
def State.fencesHost (s : State) (b : Scb) : Bool :=
  [b.ofid, b.vfid, b.cfid, b.lfid, b.rfid].any fun f => (s.fence f).host
/-- The row of markers of a step that opens is rewritten, and marker 0 takes the time at which OFID was signalled. -/
def State.stampOpen (s : State) (t : Nat) : State :=
  let a := s.learn.ofidAt
  (s.startRow t).markAt t 0 (if a.1 = w64 t then a.2 else s.now)
/-- Step t opens with its snapshot. A loss whose LFID came before the open is the one read then, or is read now. -/
def State.openStep (s : State) (t : Nat) (b : Scb) (g : List Group) (ls : Nat) : State :=
  let early := s.learn.lossNext
  let s := s.dropStep.updLearn fun l => { l with
    scb := b, groups := g, t := t, ls := ls, vcode := .vopen, fail := 0, round := 0, uncounted := 0, selfFlag := false
    tmo := false, clipc := 0, final := false, loss := l.lossNext.map Prod.fst, lossNext := none, trs := 0, queries := 0, excluded := []
    expDue := false
    stat := {}, gate := none, gateOld := l.gate.orElse fun _ => l.gateOld, got := [], seen := [], committed := false, torn := none
    nextOpen := none, gap := false }
  let s : State := { s with colls := (List.range 16).foldl (fun c i => Tab.upd {} c i fun k => { k with
    ag := [], shard := [], past := [], rxBuf := k.rxBuf.filter fun m => !m.lrn || t ≤ m.step }) s.colls }
  let s := s.stampOpen t
  let s := match early with | some e => s.markAt t 4 e.2 | none => s
  if s.learn.loss.isNone && decide (t ≤ (s.fence b.lfid).val.toNat) then
    s.readLoss fun s x => (s.updLearn fun l => { l with loss := some x }).mark 4
  else s
/-- STEP_OPEN (R209): OFID has reached t. An illegal open, or a broken or unmapped SCB or table, loses the context with
cause 0x11; a fence that the context may not use is cause 0x06. While the last step drains, the snapshot waits. -/
def execStepOpen (t : W64) (s : State) : Out :=
  let l := s.learn
  let n := t.toNat
  .next (if s.dev != .ready || !l.bound || (s.ctx l.ctx).st != .resident then s
    else match s.readScb with
      | (none, s) => s.lose l.ctx 0x11
      | (some (b, g), s) =>
          if (s.fence b.ofid).val.toNat < n || (l.nextOpen.isSome && n == l.latestT) then s
          else if 2 ^ 60 ≤ n || l.nextOpen.isSome ||
              !((n == 1 && l.t == 0 && l.sealed) || (0 < l.t && n == l.t + 1 && l.final)) || s.fencesHost b then s.lose l.ctx 0x11
          else if s.fencesBad b g then s.lose l.ctx 0x06
          else if l.committed then s.openStep n b g (s.ctx l.ctx).ls
          else (s.updLearn fun l => { l with nextOpen := some (n, b, g, (s.ctx l.ctx).ls) }).stampOpen n)

end Sys2Proof.Machine
end

