-- ==== Sys2Proof/Machine/Update.lean ====
section
/-! DEFINITION. The update units: blocks, slots and parks, the update arithmetic, what a commit writes, and the
fences of a step (`09` R222–R237, `20` R461, `21` R486–R488). -/

namespace Sys2Proof.Machine

/-! ### Where record groups live (R223, R237) -/

/-- The M-die that serves a pair of record groups, and whether its state comes through ballast: that of the first L-tier
line of the pair (R231); for the D-tier the one bridled to the C-die; for the H- and P-tier the one bridled to the C-die
of the ballast area (log 30). -/
def State.homeOf (s : State) (rg : Nat) : Option (Nat × Bool) :=
  let l := s.learn
  match s.spaceOf 704 l.ctx (l.recVa (rg / 2 * 2)) with
  | some (.l m) => some (m, false)
  | some (.d c) => some (c / 2, false)
  | some .h => (match s.spaceOf 704 l.ctx l.scb.bbase with | some (.d c) => some (c / 2, true) | _ => none)
  | some .p => (match s.spaceOf 704 l.ctx l.scb.bbase with | some (.d c) => some (c / 2, true) | _ => none)
  | _ => none
/-- Record groups of the step. -/
def Learn.recs (l : Learn) : Nat := l.params / 64
/-- The open step takes blocks: it is open, and has no SKIP. -/
def State.stepRuns (s : State) : Bool :=
  s.dev == .ready && s.learn.bound && s.learn.t != 0 && !s.learn.committed && s.learn.vcode != .skip &&
    (s.ctx s.learn.ctx).st == .resident
/-- The verdict is COMMIT or CLIP. -/
def Learn.taken (l : Learn) : Bool := l.final && (l.vcode == .commit || l.vcode == .clip)
/-- k: KCOUNT + 1 at the opening of the step. -/
def Learn.kNow (l : Learn) : Nat := if l.taken then l.kcount else l.kcount + 1

/-! ### Arrival (R222–R225, R237) -/

/-- A block into its half of a pair; one that is there stays. -/
def halfIn (second : Bool) (b : List Byte) (b0 b1 : Option (List Byte)) : Option (List Byte) × Option (List Byte) :=
  if second then (b0, b1.orElse fun _ => some b) else (b0.orElse fun _ => some b, b1)
/-- A block joins its slot, or takes a new one, whose state lies at `da`; none when no slot is free. -/
def Upd.slotIn (u : Upd) (rg da : Nat) (second : Bool) (b : List Byte) : Option Upd :=
  if u.slots.any (·.rg == rg) then
    some { u with slots := u.slots.map fun k => if k.rg = rg then
      (match halfIn second b k.b0 k.b1 with | (x, y) => { k with b0 := x, b1 := y }) else k }
  else if 32768 ≤ u.slots.length then none
  else some { u with slots := u.slots ++ [match halfIn second b none none with | (x, y) => { rg := rg, b0 := x, b1 := y, da := da }] }
/-- A half of a park. -/
def Park.take (k : Park) (second : Bool) : Park := { k with has0 := k.has0 || !second, has1 := k.has1 || second }
/-- A block joins its park, or takes a new one at a place of the ballast area. -/
def Upd.parkIn (u : Upd) (rg place : Nat) (second : Bool) : Upd :=
  if u.parks.any (·.rg == rg) then { u with parks := u.parks.map fun k => if k.rg = rg then k.take second else k }
  else { u with parks := u.parks ++ [({ rg := rg, place := place } : Park).take second] }
/-- The lowest place of the ballast area without a park; the four update units share the area (R237, log 30). -/
def State.parkPlace (s : State) : Option Nat :=
  let used := (List.range 4).flatMap fun m => (s.unit m).parks.map (·.place)
  firstOf (fun p => !used.contains p) (2048 * s.learn.scb.bmib) 0
/-- VA of a park. -/
def Learn.parkVa (l : Learn) (place : Nat) : Nat := l.scb.bbase + 512 * place
/-- Where STATE leads for the first byte of a record group (R222, R223). -/
def State.stateDa (s : State) (rg : Nat) : Nat :=
  let va := s.learn.recVa rg
  match (s.walk none 704 s.learn.ctx va).1 with
  | .page e => e.at va
  | _ => 0
/-- The X-die no longer holds a block that it has delivered (R225). -/
def Learn.sent (l : Learn) (j : Nat) : Learn := { l with agBuf := l.agBuf.eraseP (·.1 == j), ownDue := l.ownDue.erase j }
/-- Block j has been taken: it is counted, and markers 7 and 9 with it; a resent pair is no longer waited for. -/
def State.blockTaken (s : State) (m j : Nat) (b : List Byte) : State :=
  let rg := j / 2
  let s := (s.updLearn fun l => { l.sent j with blocksIn := l.blocksIn + 1 }).mark 7
  let s := if s.learn.blocksIn = 2 * s.learn.recs then s.mark 9 else s
  let s := match b.headD 0 == 0xFF, s.learn.groupOf rg with
    | true, some (g, _) => s.bumpAt (regMupd m) (regMupd m + 0x1800 + 8 * g) 1
    | _, _ => s
  let whole := (s.unit m).slots.any (fun k => k.rg == rg && k.b0.isSome && k.b1.isSome) ||
    (s.unit m).parks.any fun k => k.rg == rg && k.has0 && k.has1
  if whole then { s with ras := { s.ras with resend := s.ras.resend.filter (· != (m, rg)) } } else s
/-- The place of a unit among those of its owner in the binding's herd. -/
def State.unitPlace (s : State) (u : Nat) : Nat :=
  match s.bindHerd with
  | some h => h.place u
  | none => u
/-- The bytes of a block that the X-die has to send: those in the all-gather buffer, or, of a unit of this member's own
shard, those in STAGE (R212, R223, R225). -/
def State.heldBlock (s : State) (j : Nat) : Res (Option (List Byte)) :=
  let l := s.learn
  match l.agBuf.find? fun e => e.1 == j with
  | some e => .ok s (some e.2)
  | none =>
      if l.ownDue.contains j then
        (s.readVa 726 l.ctx (l.scb.stage + 772 * s.unitPlace (j / 4) + 193 * (j % 4)) 193).bind fun s b => .ok s (some b)
      else .ok s none
/-- The update unit of an M-die admits the collective engine: a target of its own (`07` R168, R170). -/
def State.updAdmits (s : State) (m : Nat) : Bool :=
  let e := Tab.get {} (s.target (76 + m)).initA 726
  e.v && e.w
/-- A block for the paddock of an M-die: it waits when no slot is free, which is counted (R225). -/
def State.slotBlock (s : State) (m j : Nat) (b : List Byte) : State :=
  match (s.unit m).slotIn (j / 2) (s.stateDa (j / 2)) (j % 2 == 1) b with
  | none => s.bump (regMupd m) 3 1
  | some u =>
      let s := (s.updUnit m fun _ => u).blockTaken m j b
      if u.slots.length = 32768 then s.mark 8 else s
/-- A block is parked in the ballast area; it waits when the area is full, which is counted (R237). -/
def State.parkBlock (s : State) (m j : Nat) (b : List Byte) : State :=
  let l := s.learn
  let second := j % 2 == 1
  let put (place : Nat) (fresh : Bool) : State :=
    State.settle l.ctx (s.writeVa (704 + m) l.ctx (l.parkVa place + 193 * b2n second) b) fun s _ =>
      let s := (s.updUnit m fun u => u.parkIn (j / 2) place second).blockTaken m j b
      if fresh then s.bump (regMupd m) 0 1 else s
  match (s.unit m).parks.find? fun k => k.rg == j / 2 with
  | some k => put k.place false
  | none => match s.parkPlace with
    | some p => put p true
    | none => s.bump (regMupd m) 1 1
/-- A block reaches the update unit that serves its record group. -/
def State.blockTo (s : State) (j : Nat) (b : List Byte) : State :=
  match s.homeOf (j / 2) with
  | none => s.lose s.learn.ctx 0x09
  | some (m, park) =>
      if !s.updAdmits m then (s.updTarget (76 + m) fun t => { t with denials := t.denials + 1 }).lose s.learn.ctx 0x09
      else if park then s.parkBlock m j b else s.slotBlock m j b
/-- BLOCK_ARRIVAL (R223, R225, R237): block j is half of record group ⌊j / 2⌋. The X-die sends what it holds of the block;
other bytes are no block that it sends, and change nothing (log 30). -/
def execBlockArrival (block : BitVec 40) (data : List Byte) (s : State) : Out :=
  let j := block.toNat
  .next (if !s.stepRuns || decide (s.learn.recs ≤ j / 2) then s
    else State.settle s.learn.ctx (s.heldBlock j) fun s held =>
      if held = some data then s.blockTo j data else s)
/-- BALLAST_PARK (R237): the state of a park arrives, and the park follows R223 in a slot. -/
def execBallastPark (p : BallastIn) (s : State) : Out :=
  let l := s.learn
  let m := p.die.val
  .next (match s.stepRuns, (s.unit m).parks.find? fun k => k.rg == p.rg.toNat with
    | true, some k =>
        if !k.has0 || !k.has1 || decide (32768 ≤ (s.unit m).slots.length) then s
        else
          let size := match l.groupOf k.rg with | some e => e.2.recSize | none => 0
          State.settle l.ctx (s.readVa (704 + m) l.ctx (l.parkVa k.place) 386) fun s b =>
            State.settle l.ctx (s.readVa (704 + m) l.ctx (l.recVa k.rg) size) fun s _ =>
              let slot : Slot := { rg := k.rg, b0 := some (b.take 193), b1 := some (b.drop 193), da := s.stateDa k.rg }
              let s := s.updUnit m fun u => { u with parks := u.parks.erase k, slots := u.slots ++ [slot] }
              if (s.unit m).slots.length = 32768 then s.mark 8 else s
    | _, _ => s)

/-! ### Update arithmetic (R226–R229) -/

/-- The constants of a group in a step (R227). -/
structure RuleConst where
  /-- −LR. -/
  nl : BitVec 32
  /-- −(LR × WD). -/
  nwd : BitVec 32
  /-- 1 − B1. -/
  b1c : BitVec 32
  /-- 1 − B2. -/
  b2c : BitVec 32
  /-- Bias correction of the first moment. -/
  r1 : BitVec 32
  /-- Bias correction of the second moment. -/
  r2 : BitVec 32
/-- The constants at step open, with k = KCOUNT + 1. -/
def Group.consts (g : Group) (k : Nat) : RuleConst :=
  let corr (b : BitVec 32) : BitVec 32 :=
    if g.bc && (g.rule == 3 || g.rule == 4) then div32 one32 (sub32 one32 (pow32 b k)) else one32
  { nl := neg32 g.lr, nwd := neg32 (mul32 g.lr g.wd), b1c := sub32 one32 g.b1, b2c := sub32 one32 g.b2
    r1 := corr g.b1, r2 := corr g.b2 }
/-- An FP32 number is not zero. -/
def nonzero32 (x : BitVec 32) : Bool := !(ofF32 x).isZero
/-- One parameter (R227): `vh` is the factored second moment of rule 7. Answers w, m and v. -/
def Group.update (g : Group) (c : RuleConst) (w m v grad vh : BitVec 32) : BitVec 32 × BitVec 32 × BitVec 32 :=
  let gr := if g.rule != 4 && g.rule != 8 && nonzero32 g.wd then fma32 g.wd w grad else grad
  let second := fma32 g.b2 v (mul32 c.b2c (mul32 gr gr))
  match g.rule with
  | 0 => (fma32 c.nl gr w, m, v)
  | 1 =>
      let m := fma32 g.b1 m gr
      (fma32 c.nl m w, m, v)
  | 2 =>
      let m := fma32 g.b1 m gr
      (fma32 c.nl (fma32 g.b1 m gr) w, m, v)
  | 5 =>
      let v := fma32 gr gr v
      (fma32 c.nl (div32 gr (add32 (sqrt32 v) g.eps)) w, m, v)
  | 6 =>
      let u := div32 gr (add32 (sqrt32 second) g.eps)
      if g.mom then
        let m := fma32 g.b1 m u
        (fma32 c.nl m w, m, second)
      else (fma32 c.nl u w, m, second)
  | 7 =>
      let u := div32 gr (add32 (sqrt32 vh) g.eps)
      if nonzero32 g.b1 then
        let m := fma32 g.b1 m u
        (fma32 c.nl m w, m, v)
      else (fma32 c.nl u w, m, v)
  | 8 =>
      let w := fma32 c.nwd w w
      let d := fma32 g.b1 m (mul32 c.b1c gr)
      (fma32 c.nl (sign32 d) w, fma32 g.b2 m (mul32 c.b2c gr), v)
  | _ =>
      let w := if g.rule = 4 then fma32 c.nwd w w else w
      let m := fma32 g.b1 m (mul32 c.b1c gr)
      let u := div32 (mul32 m c.r1) (add32 (sqrt32 (mul32 second c.r2)) g.eps)
      (fma32 c.nl u w, m, second)
/-- A rule writes first moments. -/
def Group.usesM (g : Group) : Bool :=
  ([1, 2, 3, 4, 8] : List Nat).contains g.rule || (g.rule == 6 && g.mom) || (g.rule == 7 && nonzero32 g.b1)
/-- A rule writes second moments. -/
def Group.usesV (g : Group) : Bool := ([3, 4, 5, 6] : List Nat).contains g.rule
/-- g = ρ(S × 2^(E−34) × c′ / (LS × D)), with c′ = c for a clipped group of a CLIP step (R226). -/
def State.grad (s : State) (g : Group) (b : List Byte) (j : Nat) : BitVec 32 :=
  let l := s.learn
  let c := if g.clip && l.taken && l.vcode == .clip then l.clipc else one32
  let d := if l.scb.gdiv then max 1 (if l.taken then l.nc else s.countedOn) else 1
  match (bfxValue b j).mul (ofF32 c) with
  | .fin neg m e => if m = 0 then rne32 (.fin neg 0 0) else rne32 (ratio neg m d (e - l.ls))
  | v => rne32 v
/-- Word `i` of 32 bits of a byte string. -/
def word32 (b : List Byte) (o : Nat) : BitVec 32 := BitVec.ofNat 32 (leAt b o 4)
/-- A moment as stored (R227, R230). -/
def moment (g : Group) (b : List Byte) (second : Bool) (e : Nat) : BitVec 32 :=
  if g.mbf then BitVec.ofNat 32 (leAt b ((if second then 448 else 320) + 2 * e) 2 * 65536)
  else word32 b ((if second then 576 else 320) + 4 * e)
/-- The bytes of a moment; BF16 under RNE, or under SR with its element index. -/
def momentOut (g : Group) (jseed : W64) (t p : Nat) (second : Bool) (x : BitVec 32) : List Byte :=
  if g.mbf then
    let r : Rnd := if g.wsr then .sr (srBits jseed (BitVec.ofNat 32 t) (w64 (p + 2 ^ (if second then 41 else 40)))) else .rne
    leBytes 2 (convFloat (fmtOf 1) false r (ofF32 x)).1
  else leBytes 4 x.toNat
/-- Columns of a rule-7 group. -/
def Group.cols (g : Group) : Nat := g.pcount / max 1 g.frows
/-- FP32 words at addresses of context memory. -/
def State.readF32 (s : State) (init c : Nat) : List Nat → Res (List (BitVec 32))
  | [] => .ok s []
  | va :: l => (s.readVa init c va 4).bind fun s b => (s.readF32 init c l).bind fun s r => .ok s (word32 b 0 :: r)
/-- The factored second moments of a record group (rule 7): FR[i] × FC[j] / FB from the table, or g² at k = 1. -/
def State.factored (s : State) (init : Nat) (g : Group) (k p0 : Nat) (grads : List (BitVec 32)) : Res (List (BitVec 32)) :=
  if g.rule != 7 then .ok s grads
  else if k = 1 then .ok s (grads.map fun x => mul32 x x)
  else
    let o := fun e => p0 + e - g.pfirst
    let es := List.range 64
    (s.readF32 init s.learn.ctx (es.map fun e => g.fbase + 4 * (o e / g.cols))).bind fun s fr =>
      (s.readF32 init s.learn.ctx (es.map fun e => g.fbase + 4 * (g.frows + o e % g.cols))).bind fun s fc =>
        (s.readF32 init s.learn.ctx [g.fbase + 4 * (g.frows + g.cols)]).bind fun s fb =>
          .ok s ((fr.zip fc).map fun e => div32 (mul32 e.1 e.2) (fb.headD 0))
/-- The weight-decayed gradient that rule 7 squares. -/
def Group.decayed (g : Group) (w grad : BitVec 32) : BitVec 32 :=
  if g.rule != 4 && g.rule != 8 && nonzero32 g.wd then fma32 g.wd w grad else grad
/-- The result of a record group: its bytes with the new header, and the XOR of the new and the old masters. -/
def State.recResult (s : State) (gi : Nat) (g : Group) (rg : Nat) (old : List Byte) (grads vh : List (BitVec 32)) : List Byte × List Byte :=
  let l := s.learn
  let c := g.consts l.kNow
  let js := (s.ctx l.ctx).jseed
  let out := (List.range 64).map fun e =>
    g.update c (word32 old (64 + 4 * e)) (moment g old false e) (moment g old true e) (grads.getD e 0) (vh.getD e 0)
  let bad := out.any fun x => !fin32 x.1 || (g.usesM && !fin32 x.2.1) || (g.usesV && !fin32 x.2.2)
  let w := out.flatMap fun x => leBytes 4 x.1.toNat
  let half := if g.mbf then 128 else 256
  let ms := if g.usesM then (out.zipIdx.flatMap fun x => momentOut g js l.t (64 * rg + x.2) false x.1.2.1) else (old.drop 320).take half
  let vs := if g.usesV then (out.zipIdx.flatMap fun x => momentOut g js l.t (64 * rg + x.2) true x.1.2.2)
    else (old.drop (320 + half)).take half
  let clipped := g.clip && l.taken && l.vcode == .clip
  let flg := b2n g.mbf + 2 * b2n clipped + 4 * b2n bad
  let head := leBytes 8 l.t ++ leBytes 2 gi ++ leBytes 1 g.rule ++ leBytes 1 flg ++ leBytes 4 0 ++ leBytes 8 (64 * rg) ++ leBytes 8 0
  let b := head ++ List.replicate 32 0 ++ w ++ ms ++ vs
  (splice b 32 (recDig b), List.zipWith (· ^^^ ·) w ((old.drop 64).take 256))
/-- The gradients of a record group from its two blocks, weight decay included where rule 7 squares it. -/
def State.recGrads (s : State) (g : Group) (b0 b1 : List Byte) : List (BitVec 32) :=
  ((List.range 32).map fun j => s.grad g b0 j) ++ (List.range 32).map fun j => s.grad g b1 j

/-! ### Reading a record group (R223, R232, `21` R487) -/

/-- What a read record group shows. -/
inductive RecCheck
  /-- STEP < t, and its header and DIG match. -/
  | good
  /-- STEP = t: it has been written in this step. -/
  | written
  /-- Torn or stale. -/
  | torn
  deriving DecidableEq, Repr
/-- The check of R232. -/
def recCheck (t gi rg : Nat) (b : List Byte) : RecCheck :=
  if leAt b 8 2 != gi || leAt b 16 8 != 64 * rg || (b.drop 32).take 16 != recDig b then .torn
  else if leAt b 0 8 = t then .written
  else if leAt b 0 8 < t then .good else .torn
/-- A slot of a unit changed. -/
def State.updSlot (s : State) (m i : Nat) (f : Slot → Slot) : State :=
  s.updUnit m fun u => { u with slots := u.slots.modify i f }
/-- An accumulator of squares, in the units of 2⁻¹⁴⁶ that ACC has for a sum of squares, with one more square (`05` R122,
R123). A sum that 320 bits do not hold, or that has met a value that is not finite, is free (log 30). -/
def State.accSum (s : State) (a : Int) (x : BitVec 32) : Nat × State :=
  let out : Nat × State := match s.free 320 with | (f, s) => (f.toNat, s)
  match ofF32 x with
  | .fin _ m e =>
      let r := a + ((m * m * pow2 (2 * e + 146) / pow2 (-(2 * e + 146)) : Nat) : Int)
      if r < (2 : Int) ^ 319 then (ofIntBits 320 r, s) else out
  | _ => out
/-- A square joins accumulator `i` of a factor table (R228). -/
def State.addAcc (s : State) (init : Nat) (g : Group) (i : Nat) (x : BitVec 32) : Res Unit :=
  (s.readVa init s.learn.ctx (g.accAt + 40 * i) 40).bind fun s b =>
    match s.accSum (toInt 320 (leAt b 0 40)) x with
    | (r, s) => s.writeVa init s.learn.ctx (g.accAt + 40 * i) (leBytes 40 r)
/-- The squares of a record group join the accumulators of their rows and columns. -/
def State.addSquares (s : State) (init : Nat) (g : Group) : List (Nat × BitVec 32) → Res Unit
  | [] => .ok s ()
  | e :: es => (s.addAcc init g (e.1 / g.cols) e.2).bind fun s _ =>
      (s.addAcc init g (g.frows + e.1 % g.cols) e.2).bind fun s _ => s.addSquares init g es
/-- The rule-7 contribution of a record group to the accumulators, added when its write is acknowledged (R228,
`21` R486). -/
def State.addFactors (s : State) (init : Nat) (g : Group) (rg : Nat) (old b0 b1 : List Byte) : Res Unit :=
  if g.rule != 7 then .ok s ()
  else s.addSquares init g ((s.recGrads g b0 b1).zipIdx.map fun e =>
    (64 * rg + e.2 - g.pfirst, g.decayed (word32 old (64 + 4 * e.2)) e.1))
/-- Where the record group of a slot lies: its first page at the slot's state DA, what follows by translation. -/
def State.slotPieces (s : State) (m : Nat) (k : Slot) (n : Nat) (a : Acc) : Res (List (Nat × Nat)) :=
  let c := s.learn.ctx
  match piecesOf (s.learn.recVa k.rg) n with
  | [] => .ok s []
  | p :: ps => (s.check (704 + m) c k.da p.2 a.stores false).bind fun s _ =>
      (s.outside (704 + m) c k.da p.2 a.stores).bind fun s _ =>
        (s.locateAll (704 + m) c a ps).bind fun s l => .ok s ((k.da, p.2) :: l)
/-- The record group of a slot is read. -/
def State.readSlot (s : State) (m : Nat) (k : Slot) (n : Nat) : Res (List Byte) :=
  (s.slotPieces m k n .read).bind fun s l => .ok s (l.flatMap fun p => s.readDa p.1 p.2)
/-- A record group whose write is acknowledged joins SWEEP, its group's count and the leaf that it completes (R234,
R235, `21` R486). -/
def State.recAcked (s : State) (m gi rg : Nat) (b : List Byte) : State :=
  let s := (s.updUnit m fun u => { u with sweep := u.sweep + 1 }).bump (regMupd m) 6 1
  let s := s.updLearn fun l => { l with
    acks := Tab.upd 0 l.acks gi (· + 1), written := Tab.set [] l.written rg b }
  let l := s.learn
  let j := rg / 64
  let rs := (List.range (min 64 (l.recs - 64 * j))).map fun i => 64 * j + i
  let s := if rs.all fun r => !(Tab.get [] l.written r).isEmpty then
      s.updLearn fun l => { l with
        leaves := Tab.set 0 l.leaves j (Config.sm3 (leBytes 8 l.t ++ leBytes 8 j ++ rs.flatMap fun r => Tab.get [] l.written r))
        written := Tab.drop l.written fun r => r / 64 == j }
    else s
  if (l.acks.map Prod.snd).sum = l.recs then (s.mark 10).mark 11 else s
/-- RECORD_GROUP_READ (R223, R232): a slot with both blocks reads its record group, checks it, and computes under the
verdict, or under COMMIT with c = 1 before it. A record group written in this step is skipped; one whose write was in
flight at a reset of the M-die adds its rule-7 contribution, and its difference entry is lost (`21` R487, R488). -/
def execRecordGroupRead (m : Fin 4) (i : Fin 32768) (s : State) : Out :=
  let l := s.learn
  .next (match s.stepRuns && !s.resetting 3 m, (s.unit m).slots[i.val]? with
    | true, some k => (match k.b0, k.b1, l.groupOf k.rg with
      | some b0, some b1, some (gi, g) =>
          if k.result.isSome || k.skip || k.writing then s
          else State.settle l.ctx (s.readSlot m k g.recSize) fun s old =>
            match recCheck l.t gi k.rg old with
            | .torn => (s.updLearn fun l => { l with torn := some (64 * k.rg) }).lose l.ctx 0x10
            | .written =>
                let flight := (Tab.get [] s.ras.issued m).contains k.rg
                let s := s.updSlot m i fun k => { k with skip := true }
                if !flight then s
                else
                  let s := { s with ras := { s.ras with issued := Tab.upd [] s.ras.issued m fun r => r.erase k.rg } }
                  State.settle l.ctx (s.addFactors (704 + m.val) g k.rg old b0 b1) fun s _ =>
                    (s.recAcked m gi k.rg old).updLearn fun l => { l with gap := l.gap || l.scb.ds }
            | .good =>
                let grads := s.recGrads g b0 b1
                let dec := (grads.zipIdx.map fun e => g.decayed (word32 old (64 + 4 * e.2)) e.1)
                State.settle l.ctx (s.factored (704 + m.val) g l.kNow (64 * k.rg) dec) fun s vh =>
                  let r := s.recResult gi g k.rg old grads vh
                  s.updSlot m i fun k => { k with result := some r.1, xorW := r.2, spec := !l.taken }
      | _, _, _ => s)
    | _, _ => s)

/-! ### Draining (R224, R229, R231, R233, R236) -/

/-- Elements of `w` bits packed from bit 0 up (`04` R93). -/
def packBits (w : Nat) (l : List Nat) : List Byte :=
  leBytes (l.length * w / 8) (l.foldr (fun x a => x % 2 ^ w + a * 2 ^ w) 0)
/-- Lists of `n` elements. -/
def chunks {α : Type} (n : Nat) : Nat → List α → List (List α)
  | 0, _ => []
  | k + 1, l => if l.isEmpty then [] else l.take n :: chunks n k (l.drop n)
/-- The working copy of a record group's masters: its element bytes and its scale bytes (R233). -/
def workCopy (g : Group) (jseed : W64) (t p0 : Nat) (ws : List (BitVec 32)) : List Byte × List Byte :=
  let vs := ws.zipIdx.map fun e =>
    ((ofF32 e.1, if g.wsr then Rnd.sr (srBits jseed (BitVec.ofNat 32 t) (w64 (p0 + e.2))) else Rnd.rne) : FVal × Rnd)
  if g.wfmt = 1 then (packBits 16 (vs.map fun e => (convFloat (fmtOf 1) false e.2 e.1).1), [])
  else
    let bs := (chunks g.wblk 64 vs).map fun b =>
      freshBlock g.wfmt (if g.sruleUp then 2 else 1) (b.map Prod.snd) (b.map Prod.fst)
    (packBits (fmtWidth g.wfmt) (bs.flatMap fun b => b.2.1), bs.map fun b => BitVec.ofNat 8 b.1)
/-- The working copy of a record group is written to WBASE and WSBASE (R233). -/
def State.putWork (s : State) (init : Nat) (g : Group) (rg : Nat) (b : List Byte) : Res Unit :=
  let l := s.learn
  let p := 64 * rg - g.pfirst
  let wc := workCopy g (s.ctx l.ctx).jseed l.t (64 * rg) ((List.range 64).map fun e => word32 b (64 + 4 * e))
  (s.writeVa init l.ctx (g.wbase + p * fmtWidth g.wfmt / 8) wc.1).bind fun s _ =>
    if g.wfmt = 1 then .ok s () else s.writeVa init l.ctx (g.wsbase + p / g.wblk) wc.2
/-- The writes of a pair of record groups: the state in one run (R231), then their working copies. -/
def State.putPair (s : State) (m : Nat) (g : Group) : List Slot → Res Unit
  | [] => .ok s ()
  | k :: ks =>
      let bytes := (k :: ks).flatMap fun x => x.result.getD []
      (s.slotPieces m k bytes.length .write).bind fun s l =>
        (k :: ks).foldl (fun (r : Res Unit) x => r.bind fun s _ => s.putWork (704 + m) g x.rg (x.result.getD []))
          (.ok (s.writePieces l bytes) ())
/-- The slots of the pair of the oldest slot that still has to drain, in order; none until both can (R231). -/
def Upd.drainable (u : Upd) : Option (List Slot) :=
  match u.slots.find? fun k => !k.writing with
  | none => none
  | some f =>
      let ps := ((u.slots.filter fun k => k.rg / 2 == f.rg / 2 && !k.writing)).mergeSort fun a b => a.rg ≤ b.rg
      if ps.length = 2 && ps.all fun k => k.skip || k.result.isSome then some ps else none
/-- This member owns the unit of a record group in the step's all-gather (`12` R298, `19` R451). -/
def State.ownsUnit (s : State) (rg : Nat) : Bool :=
  match s.bindHerd with
  | some h => h.rcd.live.getD (rg / 2 % max 1 h.rcd.live.length) 0 == h.self && !h.rcd.live.isEmpty
  | none => true
/-- The state-stream virtual channel has credit on a port that leads to the pool of the herd's checkpoints (R236, log 34);
without such a port that is UP, or without a store, nothing waits for credit. -/
def State.streamCredit (s : State) : Bool :=
  match s.bindHerd.bind fun h => s.store? h.chd 0 (w64 h.hid) with
  | none => true
  | some x =>
      let ups := (List.range 16).filter fun p => x.pmask.testBit p && (s.port p).st == .up
      ups.isEmpty || ups.any fun p => (s.port p).credit 6
/-- SLOT_DRAIN (R224, R231, R233, R236): after COMMIT or CLIP the oldest pair of slots makes its writes; slots that are
skipped are freed. While the state stream has no credit for the entries of the pair, the drain waits, which is counted. -/
def execSlotDrain (m : Fin 4) (s : State) : Out :=
  let l := s.learn
  .next (if !s.stepRuns || !l.taken || s.resetting 3 m then s
    else match (s.unit m).drainable with
      | none => s
      | some ps => match ps.filter fun k => !k.skip with
        | [] => s.updUnit m fun u => { u with slots := u.slots.filter fun k => !ps.contains k }
        | k :: ks => match l.groupOf k.rg with
          | none => s
          | some (_, g) =>
            if l.scb.ds && ((k :: ks).any fun x => s.ownsUnit x.rg) && !s.streamCredit then s.bump (regMupd m) 5 1
            else State.settle l.ctx (s.putPair m g (k :: ks)) fun s _ =>
              let rs := (k :: ks).map (·.rg)
              let s := s.updUnit m fun u => { u with
                slots := (u.slots.filter fun x => !(x.skip && ps.contains x)).map fun x =>
                  if rs.contains x.rg then { x with writing := true } else x }
              { s with ras := { s.ras with issued := Tab.upd [] s.ras.issued m fun r => r ++ rs } })
/-- RECORD_GROUP_WRITTEN (R224, R229, R236, `21` R486): the oldest write is acknowledged and its slot freed; the
difference entry of a unit that this member owns follows. -/
def execRecordGroupWritten (m : Fin 4) (s : State) : Out :=
  let l := s.learn
  .next (match s.stepRuns && l.taken, (s.unit m).slots.find? (·.writing) with
    | true, some k => (match k.result, l.groupOf k.rg with
      | some b, some (gi, g) =>
          let s := s.updUnit m fun u => { u with slots := u.slots.erase k }
          let s := { s with ras := { s.ras with issued := Tab.upd [] s.ras.issued m fun r => r.erase k.rg } }
          let s := if (b.getD 11 0).getLsbD 2 then s.bumpAt (regMupd m) (regMupd m + 0x1000 + 8 * gi) 1 else s
          let old := List.replicate 64 0 ++ List.zipWith (· ^^^ ·) ((b.drop 64).take 256) k.xorW
          State.settle l.ctx (s.addFactors (704 + m.val) g k.rg old (k.b0.getD []) (k.b1.getD [])) fun s _ =>
            let s : State := if l.scb.ds && s.ownsUnit k.rg then { s with dstream := s.dstream ++ [(l.t, 64 * k.rg, k.xorW)] } else s
            s.recAcked m gi k.rg b
      | _, _ => s)
    | _, _ => s)

/-! ### The end of a step (R228, R234, R235) -/

/-- Every record group of a group is written. -/
def Learn.groupSwept (l : Learn) (gi : Nat) : Bool :=
  match l.groups[gi]? with
  | some g => Tab.get 0 l.acks gi * 64 == g.pcount
  | none => false
/-- ρ(A / n) of an accumulator in units of 2⁻¹⁴⁶. -/
def accMean (a : Int) (n : Nat) : BitVec 32 :=
  if a = 0 then 0 else rne32 (ratio (a < 0) a.natAbs (max 1 n) (-146))
/-- ρ((exact sum of FR) / R). -/
def factorMean (fr : List (BitVec 32)) : BitVec 32 :=
  match fr.foldl (fun (a : FVal) x => a.add (ofF32 x)) FVal.zero with
  | .fin neg m e => if m = 0 then rne32 (.fin neg 0 0) else rne32 (ratio neg m (max 1 fr.length) e)
  | v => rne32 v
/-- FACTOR_FINALISE (R228): the table is rewritten from the accumulators, which are cleared, and its trailer takes t. -/
def execFactorFinalise (g : Fin 256) (s : State) : Out :=
  let l := s.learn
  .next (match s.stepRuns && l.taken && l.groupSwept g && !l.factorsDone.contains g.val, l.groups[g.val]? with
    | true, some x =>
        if x.rule != 7 then s
        else
          let r := x.frows
          let c := x.cols
          let init := s.factorInit x
          let k := x.consts l.kNow
          let addrs := (List.range (r + c)).map fun i => x.fbase + 4 * i
          State.settle l.ctx (if l.kNow = 1 then .ok s (List.replicate (r + c) 0) else s.readF32 init l.ctx addrs) fun s old =>
           State.settle l.ctx (s.readVa init l.ctx x.accAt (40 * (r + c))) fun s acc =>
            let next := (List.range (r + c)).map fun i =>
              let mean := accMean (toInt 320 (leAt acc (40 * i) 40)) (if i < r then c else r)
              fma32 x.b2 (old.getD i 0) (mul32 k.b2c mean)
            let first := (next ++ [factorMean (next.take r)]).flatMap fun v => leBytes 4 v.toNat
            let pad := List.replicate ((64 - first.length % 64) % 64) 0
            let accs := List.replicate (40 * (r + c)) 0
            State.settle l.ctx (s.writeVa init l.ctx x.fbase (first ++ pad ++ accs)) fun s _ =>
              let tr := x.fbase + (first ++ pad).length + 40 * (r + c)
              State.settle l.ctx (s.writeVa init l.ctx tr (leBytes 8 l.t ++ List.replicate 56 0)) fun s _ =>
                s.updLearn fun l => { l with factorsDone := l.factorsDone ++ [g.val] }
    | _, _ => s)
/-- GROUP_FENCE (R234): after the factor table of a rule-7 group. -/
def execGroupFence (g : Fin 256) (s : State) : Out :=
  let l := s.learn
  .next (match s.stepRuns && l.taken && l.groupSwept g && !l.groupsDone.contains g.val, l.groups[g.val]? with
    | true, some x =>
        if x.rule == 7 && !l.factorsDone.contains g.val then s
        else
          let s := s.updLearn fun l => { l with groupsDone := l.groupsDone ++ [g.val] }
          (match x.gfid with | some f => s.signal f (w64 l.t) 0 | none => s)
    | _, _ => s)
/-- The capture step of model checkpoints that wait for one: the first at or after t with KCOUNT mod K = 0
(`19` R447). -/
def State.ckptStep (s : State) : State :=
  let l := s.learn
  match s.bindHerd with
  | none => s
  | some h =>
      if l.kcount % max 1 h.k ≠ 0 then s
      else { s with ckpts := s.ckpts.map fun w =>
        if w.cls = 0 && w.ctx = l.ctx && w.s.isNone && decide (w.t ≤ l.t) then { w with s := some l.t, epoch := h.rcd.epoch } else w }
/-! ### Joining (`12` R318) -/

/-- Record groups in memory, one after another. -/
def State.recsAt (s : State) (init : Nat) : List Nat → Res (List Byte)
  | [] => .ok s []
  | rg :: l =>
      let n := match s.learn.groupOf rg with | some e => e.2.recSize | none => 0
      (s.readVa init s.learn.ctx (s.learn.recVa rg) n).bind fun s b => (s.recsAt init l).bind fun s x => .ok s (b ++ x)
/-- The leaves of a step over the state in memory, leaf by leaf (R235). -/
def State.leavesOf (s : State) (t : Nat) : List Nat → Res (List (BitVec 256))
  | [] => .ok s []
  | j :: js =>
      (s.recsAt 725 ((List.range (min 64 (s.learn.recs - 64 * j))).map (64 * j + ·))).bind fun s b =>
        (s.leavesOf t js).bind fun s l => .ok s (Config.sm3 (leBytes 8 t ++ leBytes 8 j ++ b) :: l)
/-- The root of a step over the state in memory. -/
def State.rootOf (s : State) (t : Nat) : Res (BitVec 256) :=
  (s.leavesOf t (List.range (ceilDiv s.learn.recs 64))).bind fun s l => .ok s (treeRoot (l.length + 1) l)
/-- Part i of n of a range, in index order. -/
def shareOf (n i total : Nat) : List Nat := ((List.range total).drop (total * i / n)).take (total * (i + 1) / n - total * i / n)
/-- A donor sends the moments of record groups, each with its header. -/
def State.sendMoments (s : State) (h : Herd) (j : Nat) : List Nat → State
  | [] => s
  | rg :: l =>
      State.sendMoments (State.settle s.learn.ctx (s.recsAt 725 [rg]) fun s b =>
        s.toMember h j { opc := 0x43, step := s.learn.t, data := [1] ++ leBytes 5 rg ++ b.take 64 ++ b.drop 320 }) h j l
/-- A donor sends the factor tables of groups. -/
def State.sendFactors (s : State) (h : Herd) (j : Nat) : List (Group × Nat) → State
  | [] => s
  | (g, i) :: l =>
      State.sendFactors (State.settle s.learn.ctx (s.readVa 725 s.learn.ctx g.fbase (4 * (g.frows + g.cols + 1))) fun s b =>
        s.toMember h j { opc := 0x43, step := s.learn.t, data := [2] ++ leBytes 2 i ++ b }) h j l
/-- At the join step a donor sends the loss scale and its counter, the monitor and the chain, and the moments and factor tables
of its range; the code and the bytes of the messages are not given (log 29). -/
def State.joinSend (s : State) : State :=
  match s.bindHerd with
  | none => s
  | some h => match h.join with
    | none => s
    | some (m, t) =>
        let l := s.learn
        let k := s.ctx l.ctx
        if t != l.t || !h.donors.contains h.self then s
        else
          let range := shareOf h.donors.length (h.donors.idxOf h.self) l.recs
          let s := s.toMember h m
            { opc := 0x43, step := t
              data := [0] ++ leBytes 1 k.ls ++ leBytes 2 k.clean ++ leBytes 4 l.mu.toNat ++ leBytes 4 l.sig2.toNat ++ leBytes 8 l.kcount ++
                digBytes h.chain }
          (s.sendMoments h m range).sendFactors h m ((l.groups.zipIdx).filter fun e => e.1.rule == 7 && range.contains (e.1.pfirst / 64))
/-- The joiner takes what a donor sends. Moments and headers join the masters in its record groups. -/
def State.joinTake (s : State) (h : Herd) (m : CollMsg) : State :=
  let b := m.data.drop 8
  let x := b.drop 1
  let c := s.learn.ctx
  let s := s.updHerd h.hid fun h => { h with rcd := { h.rcd with epoch := m.mep } }
  if !s.learn.bound || h.phase != .joining || m.opc != 0x43 then s
  else match (b.headD 0).toNat with
    | 0 =>
        ((s.updCtx c fun k => { k with ls := leAt x 0 1, clean := leAt x 1 2 }).updLearn fun l => { l with
          mu := word32 x 3, sig2 := word32 x 7, monInit := true, kcount := leAt x 11 8, t := m.step }).updHerd h.hid fun h =>
            { h with chain := digOf ((x.drop 19).take 32) }
    | 1 =>
        let rg := leAt x 0 5
        State.settle c (s.recsAt 725 [rg]) fun s old =>
          State.settle c (s.writeVa 725 c (s.learn.recVa rg) ((x.drop 5).take 64 ++ (old.drop 64).take 256 ++ x.drop 69)) fun s _ => s
    | 2 => (match s.learn.groups[leAt x 0 2]? with
        | some g => State.settle c (s.writeVa 725 c g.fbase (x.drop 2)) fun s _ => s
        | none => s)
    | _ => s
/-- JOIN_TRANSFER (R318). Without a root, the joiner m has reported its masters current: the herd names the join step, the
next to reach CFID, and holds the exponent pass after it; the Bellwether tells the members and the joiner. With the root that
the joiner formed, the join is admitted by a new record of the Bellwether, or abandoned. At the joiner itself it makes the
report, or forms that root over its state and sends it; the codes of these messages are log 29. -/
def execJoinTransfer (hid : BitVec 32) (m : HerdFrom) (root : Option (BitVec 256)) (s : State) : Out :=
  .next (match s.herd? hid.toNat with
    | none => s
    | some h =>
        if s.dev != .ready then s
        else if h.phase == .joining then
          (match root with
          | some _ => State.settle h.ctx (s.rootOf s.learn.t) fun s r =>
              (s.updHerd h.hid fun h => { h with root := r }).formSend h h.firstBell
                (h.sign h.firstBell { opc := 0x4D, step := s.learn.t, data := digBytes r })
          | none => s.formSend h h.firstBell (h.sign h.firstBell { opc := 0x4E }))
        else match root, h.join with
          | none, none =>
              if !h.runs || h.latest.live.contains m.m.val || decide (h.nodes.length ≤ m.m.val) then s
              else s.ofEpoch h m.epoch.toNat fun s =>
                let t := s.learn.t + b2n s.learn.committed
                let links := s.linksTo h m.m
                let s := s.nameJoin h.hid m.m t (h.donorsOf m.m links) links
                if h.rcd.bell = h.self then
                  (match s.herd? h.hid with
                  | some x => ((x.rcd.live.filter (· != x.self)) ++ [m.m.val]).foldl (fun s d => s.toMember x d (joinOrder x m.m t)) s
                  | none => s)
                else s
          | some r, some (j, _) =>
              if j != m.m.val then s
              else s.ofEpoch h m.epoch.toNat fun s => if r == h.root then
                (if h.rcd.bell = h.self then
                  s.newRecord h.hid ((List.range h.nodes.length).filter fun x => x == j || h.latest.live.contains x)
                    (h.reached h.latest.live h.latest.links) (h.latest.links ++ s.linksTo h j)
                else s)
              else s.endJoin h
          | _, _ => s)
/-- COMMIT_FENCE (R234, R235): every group is done and every leaf delivered. The root and the segment of the step
fall due, donors of a join send, and a step that was opened meanwhile takes its snapshot. -/
def execCommitFence (s : State) : Out :=
  let l := s.learn
  .next (if !s.stepRuns || !l.taken || l.groupsDone.length != l.groups.length || l.leaves.length != ceilDiv l.recs 64 ||
      !s.ras.resend.isEmpty then s
    else
      let root := treeRoot (l.leaves.length + 1) (l.leaves.map Prod.snd)
      let s := s.updLearn fun l => { l with
        committed := true, rootDue := some (l.t, l.kcount, root)
        segDue := if l.scb.ds then l.segDue ++ [(l.t, !l.gap)] else l.segDue }
      let s := ((s.signal l.scb.cfid (w64 l.t) 0).mark 12).joinSend.ckptStep
      match l.nextOpen with
      | some (t, b, g, ls) => s.openStep t b g ls
      | none => s)

/-! ### Blocks that are lost (`20` R461, `21` R487) -/

/-- The owner of a record group's unit is asked to send it again; the header code is not given (log 30). A unit of this
member's own shard is sent again from STAGE. -/
def State.askOwner (s : State) (m rg : Nat) : State :=
  let s := s.askAgain m [rg]
  match s.bindHerd with
  | some h =>
      if h.owner (rg / 2) = h.self then
        s.updLearn fun l => { l with ownDue := l.ownDue ++ ([2 * rg, 2 * rg + 1].filter fun j => !l.ownDue.contains j) }
      else s.toMember h (h.owner (rg / 2)) { opc := 0x45, rnd := s.learn.round, step := s.learn.t, data := leBytes 5 (rg / 2) }
  | none => s
/-- SLOT_REBUILD (`20` R461): an uncorrectable slot or park loses its blocks and results, which is counted and
recorded. -/
def execSlotRebuild (m : Fin 4) (i : Fin 32768) (park : Bool) (s : State) : Out :=
  let u := s.unit m
  let rg := if park then (u.parks[i.val]?).map (·.rg) else ((u.slots[i.val]?).filter fun k => !k.writing).map (·.rg)
  .next (match s.stepRuns, rg with
    | true, some rg =>
        let s := s.updUnit m fun u =>
          if park then { u with parks := u.parks.modify i fun k => { k with has0 := false, has1 := false } }
          else { u with slots := u.slots.modify i fun k => { rg := k.rg, da := k.da } }
        ((s.bump (regMupd m) 4 1).askOwner m rg).record { cls := 0x02, outcome := 1, ukind := 6, uidx := m.val }
    | _, _ => s)
/-- RESEND_TIMEOUT (`20` R461): the context is lost with cause 0x17, and the member withdraws. -/
def execResendTimeout (m : Fin 4) (s : State) : Out :=
  .next (if !s.stepRuns || !(s.ras.resend.any fun e => e.1 == m.val) then s
    else match s.bindHerd with
      | some h => (s.lose s.learn.ctx 0x17).quitHerd h.hid
      | none => s.lose s.learn.ctx 0x17)
/-- MDIE_READY (`21` R481, R487): a reset M-die asks again for every unit of the open step on it. -/
def execMdieReady (m : Fin 4) (s : State) : Out :=
  .next (if !s.resetting 3 m then s
    else
      let s := s.unitReady 3 m
      if !s.stepRuns then s
      else ((List.range s.learn.recs).filter fun rg => match s.homeOf rg with | some (d, _) => d == m.val | none => false).foldl
        (fun s rg => s.askOwner m rg) s)

end Sys2Proof.Machine
end

