-- ==== Sys2Proof/Machine/Coll.lean ====
section
/-! DEFINITION. The collective engine: channels, the slot table's swap, descriptors, chains, acknowledgements and
the scalar records of a step (`12` R292–R304). -/

namespace Sys2Proof.Machine

/-! ### Channels and the slot table (R292, R295) -/

/-- COLL.BIND (R292): the context runs under the herd's charter, and the channel is free. -/
def execCollBind (c : MbxCall) (s : State) : Out :=
  .next (mailbox c (fun a =>
    let v := bit (argAt a 0) 16
    { opc := 0x35, masks := [lowMask 17, lowMask 32, allMask, lowMask 16]
      names := (3, fld (argAt a 0) 3 0) :: if v then [(0, fld (argAt a 0) 15 4)] else []
      ctxs := if v then [fld (argAt a 0) 15 4] else [], always := false, bad := false, free := false })
    (fun a s =>
      let ch := fld (argAt a 0) 3 0
      let c := fld (argAt a 0) 15 4
      if !bit (argAt a 0) 16 then ((s.updColl ch fun _ => {}).fillShadow, ok)
      else match s.herd? (argAt a 1).toNat with
        | none => (s, .done stNoctx [])
        | some h =>
            if (s.coll ch).bound || h.chd != (s.ctx c).chd then (s, .refused 0)
            else ((s.updColl ch fun _ =>
              { bound := true, ctx := c, hid := h.hid, qva := (argAt a 2).toNat, pf := fld (argAt a 3) 15 0 }).fillShadow, ok)) s)
/-- COLL.SWAP (R295): at least 1 ms ahead. -/
def execCollSwap (c : MbxCall) (s : State) : Out :=
  .next (mailbox c (fun _ => { opc := 0x36, masks := [allMask], names := [], ctxs := [], always := false, bad := false, free := false })
    (fun a s =>
      if (argAt a 0).toNat < s.now.toNat + 1000000 then (s, .refused 0)
      else ({ s.fillShadow with slotSwap := (argAt a 0).toNat }, ok)) s)
/-- SLOT_TABLE_SWAP (R295). -/
def execSlotTableSwap (s : State) : Out :=
  .next (if s.dev != .ready || s.slotSwap == 0 then s else { s with slotTab := s.slotShadow, slotSwap := 0 })

/-! ### Units and messages (R298, R299) -/

/-- The member after this one on a unit's directed ring. -/
def Herd.succOf (h : Herd) (u : Nat) : Nat := h.succ (h.ringOfUnit u) h.self
/-- This member starts the chain of a unit: it comes after the owner. -/
def Herd.starts (h : Herd) (u : Nat) : Bool := h.succ (h.ringOfUnit u) (h.owner u) == h.self
/-- The sum of two units: 48-bit two's complement, element by element (`04` R106). -/
def addUnits (a b : List Byte) : List Byte :=
  (List.range 4).flatMap fun i =>
    let x := (a.drop (193 * i)).take 193
    let y := (b.drop (193 * i)).take 193
    (x.getD 0 0) :: (List.range 32).flatMap fun j => leBytes 6 (leAt x (1 + 6 * j) 6 + leAt y (1 + 6 * j) 6)
/-- The same unit with every integer zero: what an excluded member starts a chain with (`09` R220). -/
def zeroUnit (a : List Byte) : List Byte :=
  (List.range 4).flatMap fun i => (a.getD (193 * i) 0) :: List.replicate 192 (0 : Byte)
/-- The bytewise unsigned maximum. -/
def maxBytes (a b : List Byte) : List Byte := List.zipWith (fun x y => if x.toNat < y.toNat then y else x) a b
/-- The sum of squares of the finite blocks of a unit, with LSB 2⁻⁵¹² (R302). -/
def unitSquares (a : List Byte) : Nat :=
  ((List.range 4).map fun i =>
    let x := (a.drop (193 * i)).take 193
    let b := (x.getD 0 0).toNat
    if b = 0xFF then 0
    else ((List.range 32).map fun j => (toInt 48 (leAt x (1 + 6 * j) 6)).natAbs ^ 2).sum * 2 ^ (2 * b + 190)).sum
/-- Blocks of a unit with B = 0xFF. -/
def unitNonfinite (a : List Byte) : Nat := ((List.range 4).filter fun i => a.getD (193 * i) 0 == 0xFF).length
/-- The herd of a channel that runs. -/
def State.collHerd (s : State) (ch : Nat) : Option Herd :=
  if s.dev == .ready && (s.coll ch).bound && !(s.coll ch).stop && (s.ctx (s.coll ch).ctx).st == .resident then
    (s.herd? (s.coll ch).hid).filter Herd.runs
  else none
/-- Adds 1 to a counter of a channel: 0 messages sent, 1 received, 2 units added (`25` XCOL). -/
def State.bumpColl (s : State) (ch i : Nat) : State := s.bumpAt regXcol (regXcol + 0x400 + 0x20 * ch + 8 * i) 1
/-- The 8 MiB send hold of the X-die, which the channels share, has room for messages of `n` bytes, or for another one of a
unit (R301). -/
def State.holdRoom (s : State) (n : Nat := 856) : Bool :=
  ((List.range 16).flatMap fun i => (s.coll i).hold.map fun e => (collBytes e.2).length).sum + n ≤ 8388608
/-- The step of an exponent pass of the learning context: the newest one opened, whether or not it has its snapshot (R239). -/
def State.passStep (s : State) : Nat := if s.learn.expDue then s.learn.t else s.learn.latestT
/-- A message to a member, kept in the send hold and sent on the route (R289, R301). The first contribution of the
learning context to a step is marker 1. -/
def State.collSend (s : State) (ch : Nat) (h : Herd) (dst : Nat) (m : CollMsg) : State :=
  if dst = h.self then s
  else
    let n := Tab.get 0 (s.coll ch).txSeq dst
    let m : CollMsg := { m with ch := ch, src := h.self, mep := h.rcd.epoch, seq := n }
    let s := (s.updColl ch fun k => { k with hold := k.hold ++ [(dst, m)], txSeq := Tab.set 0 k.txSeq dst (n + 1) }).bumpColl ch 0
    let s := if s.learn.bound && s.learn.ctx == (s.coll ch).ctx && m.opc < 0x22 && !m.back then
        s.markOf (if m.lrn then s.learn.t else s.passStep) 1 else s
    s.onRoute h dst m
/-- Code of a descriptor's messages. -/
def opCode (op : Nat) : Nat := 0x20 + op
/-- A message of a descriptor. -/
def State.descMsg (s : State) (d : CollDesc) (u : Nat) (back : Bool) (b : List Byte) : CollMsg :=
  { opc := opCode d.op, rnd := if d.lrn then s.learn.round else 0, step := if d.lrn then s.learn.t else d.q, unit := u
    lrn := d.lrn, u0 := d.u0, ucnt := d.ucnt, tag := d.tag, back := back, data := b }
/-- A descriptor in progress changed. -/
def State.updDesc (s : State) (ch q : Nat) (f : CollDesc → CollDesc) : State :=
  s.updColl ch fun k => { k with prog := k.prog.map fun d => if d.q = q then f d else d }
/-- A descriptor in progress. -/
def State.desc? (s : State) (ch q : Nat) : Option CollDesc := (s.coll ch).prog.find? fun d => d.q == q
/-- A channel stops herd-wide: the context bound to it is lost (R297); the header code is not given (log 31). -/
def State.collStop (s : State) (ch : Nat) (h : Herd) : State :=
  let s := (h.rcd.live.filter (· != h.self)).foldl (fun s m => s.toMember h m { opc := 0x46, ch := ch }) s
  (s.updColl ch fun k => { k with stop := true }).lose (s.coll ch).ctx 0x12

/-! ### Chains (R299, R302) -/

/-- Bytes of a unit of an operation. -/
def unitLen (op : Nat) : Nat := if op = 0 then 4 else 772
/-- This member is excluded from the round (`09` R220). -/
def State.excludedNow (s : State) (ch : Nat) (h : Herd) : Bool :=
  s.learn.bound && s.learn.ctx == (s.coll ch).ctx && s.learn.excluded.contains h.self
/-- This member's contribution to a unit. -/
def State.contribution (s : State) (ch : Nat) (h : Herd) (d : CollDesc) (u : Nat) : Res (List Byte) :=
  (s.readVa 726 (s.coll ch).ctx (d.src + unitLen d.op * (u - d.u0)) (unitLen d.op)).bind fun s b =>
    .ok s (if s.excludedNow ch h then (if d.op = 0 then List.replicate 4 0 else zeroUnit b) else b)
/-- Where an owned unit goes: STAGE for the learning shard, otherwise DST (R298). -/
def State.ownVa (s : State) (h : Herd) (d : CollDesc) (u : Nat) : Nat :=
  if d.lrn then s.learn.scb.stage + 772 * h.place u else d.dst + 772 * (h.place u - h.place d.u0)
/-- The statistics of an owned unit that is complete (R302); those of a unit that is patched are not formed again (R316). -/
def State.ownStats (s : State) (d : CollDesc) (u : Nat) (b : List Byte) : State :=
  if !d.lrn || s.learn.trs != 0 then s
  else
    let clip := match s.learn.groupOf (2 * u) with | some e => e.2.clip | none => false
    let w := unitSquares b
    s.updLearn fun l => { l with stat := { l.stat with
      nnf := l.stat.nnf + unitNonfinite b, wall := l.stat.wall + w, wclip := l.stat.wclip + if clip then w else 0 } }
/-- The square of this member's own contribution (R302). -/
def State.selfStats (s : State) (h : Herd) (d : CollDesc) (b : List Byte) : State :=
  if !d.lrn then s
  else
    let old := ((s.learn.stat.wself.find? fun e => e.1 == h.self).map Prod.snd).getD 0
    s.updLearn fun l => { l with stat := { l.stat with wself := [(h.self, old + unitSquares b)] } }
/-- The four blocks of a unit. -/
def unitBlocks (u : Nat) : List Nat := (List.range 4).map (4 * u + ·)
/-- Complete units of the shard begin their all-gather: they wait to go round their rings, or, in a herd of one, go to the
update units at once (R300). -/
def State.gather (s : State) (ch : Nat) (h : Herd) (us : List Nat) : State :=
  if h.rcd.live.length ≤ 1 then s.updLearn fun l => { l with ownDue := l.ownDue ++ us.flatMap unitBlocks }
  else s.updColl ch fun k => { k with ag := k.ag ++ us }
/-- An owned unit of the learning shard is complete; one that is patched is gathered at once. -/
def State.ownUnit (s : State) (ch : Nat) (h : Herd) (d : CollDesc) (u : Nat) : State :=
  if !d.lrn then s
  else if s.learn.trs = 0 then s.updColl ch fun k => { k with shard := k.shard ++ [u] }
  else s.gather ch h [u]
/-- The chain of a unit passes this member: `acc` is what arrived, none at the start. The owner ends it; another
member forwards it. -/
def State.passUnit (s : State) (ch : Nat) (h : Herd) (q u : Nat) (acc : Option (List Byte)) : State :=
  match s.desc? ch q with
  | none => s
  | some d =>
      let c := (s.coll ch).ctx
      State.settle c (s.contribution ch h d u) fun s own =>
        let s := if d.op = 1 && !s.excludedNow ch h then s.selfStats h d own else s
        let b := match acc with
          | none => own
          | some a => if d.op = 0 then maxBytes a own else if s.excludedNow ch h then a else addUnits a own
        let s := s.updDesc ch q fun d => { d with done := d.done ++ [u] }
        let s := if acc.isSome && d.op == 1 && !s.excludedNow ch h then s.bumpColl ch 2 else s
        if h.owner u != h.self then s.collSend ch h (h.succOf u) (s.descMsg d u false b)
        else if d.op = 0 then
          State.settle c (s.writeVa 726 c (d.dst + 4 * (u - d.u0)) b) fun s _ =>
            (s.updDesc ch q fun d => { d with back := d.back ++ [u] }).collSend ch h (h.succOf u) (s.descMsg d u true b)
        else
          State.settle c (s.writeVa 726 c (s.ownVa h d u) b) fun s _ => (s.ownStats d u b).ownUnit ch h d u
/-- The result of a unit on its way round the ring: kept, and forwarded unless the owner comes next (R299, R300). -/
def State.takeBack (s : State) (ch : Nat) (h : Herd) (q u : Nat) (b : List Byte) : State :=
  match s.desc? ch q with
  | none => s
  | some d =>
      let c := (s.coll ch).ctx
      let s := if h.succOf u = h.owner u then s else s.collSend ch h (h.succOf u) (s.descMsg d u true b)
      State.settle c (s.writeVa 726 c (d.dst + unitLen d.op * (u - d.u0)) b) fun s _ =>
        s.updDesc ch q fun d => { d with back := d.back ++ [u] }

/-! ### Sums over the tree (R303) -/

/-- A running sum of ALLSUM: the window at a place of 40 B. -/
def sumAt (b : List Byte) (i : Nat) : LossSum := LossSum.ofWindow (toInt 320 (leAt b (40 * i) 40))
/-- The sum of one FP32 value. -/
def LossSum.ofF32 (x : BitVec 32) : LossSum :=
  match Sys2Proof.Machine.ofF32 x with
  | .fin n m e => .fin ((if n then -1 else 1) * ((m * pow2 (e + 149) : Nat) : Int))
  | .inf n => .inf n
  | .nan => .nan
/-- Two lists of running sums, value by value. -/
def addSums (n : Nat) (a b : List Byte) : List Byte :=
  (List.range n).flatMap fun i => LossSum.bytes (LossSum.add (sumAt a i) (sumAt b i))
/-- The FP32 results, rounded once. -/
def roundSums (n : Nat) (b : List Byte) : List Byte :=
  (List.range n).flatMap fun i => leBytes 4 (LossSum.mean (sumAt b i) 1).toNat
/-- ALLSUM goes on once this member and its children are combined: up to the parent, or, at the Bellwether, rounded
and down the tree. -/
def State.allsumStep (s : State) (ch : Nat) (h : Herd) (q : Nat) : State :=
  match s.desc? ch q with
  | none => s
  | some d =>
      let need := h.self :: treeChildren h.rcd h.self
      if !need.all d.done.contains || !d.back.isEmpty then s
      else match treeParent h.rcd h.self with
        | some p => s.collSend ch h p (s.descMsg d 0 false d.acc)
        | none =>
            let b := roundSums d.ucnt d.acc
            State.settle (s.coll ch).ctx (s.writeVa 726 (s.coll ch).ctx d.dst b) fun s _ =>
              let s := s.updDesc ch q fun d => { d with back := [0] }
              (treeChildren h.rcd h.self).foldl (fun s m => s.collSend ch h m (s.descMsg d 0 true b)) s
/-- The sums of a member join the running ones. -/
def State.allsumAdd (s : State) (ch : Nat) (h : Herd) (q m : Nat) (b : List Byte) : State :=
  (s.updDesc ch q fun d => { d with
    acc := if d.acc.isEmpty then b else addSums d.ucnt d.acc b
    done := d.done ++ [m] }).allsumStep ch h q

/-! ### Descriptors (R296, R297) -/

/-- A descriptor of 64 B. -/
def collDesc (q : Nat) (b : List Byte) : CollDesc :=
  let w := fun i => wordAt b i
  { q := q, op := fld (w 0) 63 60, lrn := bit (w 0) 59, u0 := fld (w 0) 39 0, ucnt := fld (w 1) 39 0, src := (w 2).toNat
    dst := (w 3).toNat, fid := fld (w 4) 63 48, fval := w 5, tag := w 6 }
/-- A descriptor breaks R297. -/
def State.collBad (s : State) (ctx : Nat) (d : CollDesc) (b : List Byte) : Bool :=
  let w := fun i => wordAt b i
  3 < d.op || d.ucnt == 0 || (d.op == 3 && decide (4096 < d.ucnt)) || fld (w 0) 58 40 != 0 || fld (w 1) 63 40 != 0 ||
    fld (w 4) 47 0 != 0 || w 7 != 0 || (d.lrn && (d.op != 1 || !s.learn.bound || s.learn.ctx != ctx))
/-- Units of a descriptor. -/
def CollDesc.units (d : CollDesc) : List Nat := (List.range d.ucnt).map (d.u0 + ·)
/-- Every unit of a descriptor is done on this member. -/
def CollDesc.finished (d : CollDesc) : Bool :=
  match d.op with
  | 1 => d.done.length == d.ucnt
  | 3 => !d.back.isEmpty
  | _ => d.back.length == d.ucnt
/-- The channels of the learning binding. -/
def State.learnChans (s : State) : List Nat :=
  (List.range 16).filter fun i => s.learn.bound && (s.coll i).bound && (s.coll i).ctx == s.learn.ctx
/-- The learning shard is complete once every unit of the parameters that this member owns is, over all descriptors and
channels: T_rs and marker 3; its units wait for their all-gather (R300, `09` R212). -/
def State.shardCheck (s : State) (ch : Nat) (h : Herd) : State :=
  let chans := s.learnChans
  let own := (List.range (s.learn.params / 128)).filter fun u => h.owner u == h.self
  let has := chans.flatMap fun i => (s.coll i).shard
  if !chans.contains ch || s.learn.t = 0 || s.learn.final || s.learn.trs ≠ 0 || !own.all has.contains ||
      !(chans.any fun i => (s.coll i).prog.any (·.lrn)) then s
  else
    let s := (s.updLearn fun l => { l with
      trs := s.now.toNat, trsEpoch := h.rcd.epoch
      stat := { l.stat with nc := b2n !(s.excludedNow ch h), ts := s.now.toNat } }).mark 3
    chans.foldl (fun s i => s.gather i h ((s.coll i).shard.mergeSort fun a b => a ≤ b)) s
/-- Completion fences are signalled in descriptor order (R296); a completed exponent pass of the learning context is
marker 2. -/
def State.finishDescs (s : State) (ch : Nat) : Nat → State
  | 0 => s
  | n + 1 => match (s.coll ch).prog with
      | [] => s
      | d :: ds =>
          if !d.finished then s
          else
            let s := s.updColl ch fun k => { k with prog := ds, past := if d.lrn then k.past ++ [{ d with again := false }] else k.past }
            let s := if d.again then s else s.signal d.fid d.fval 0
            let s := if d.op = 0 && s.learn.bound && s.learn.ctx == (s.coll ch).ctx then s.markOf s.passStep 2 else s
            State.finishDescs s ch n
/-- After progress on a channel. -/
def State.collSettle (s : State) (ch : Nat) (h : Herd) : State := (s.shardCheck ch h).finishDescs ch 8
/-- Own work of a descriptor that can be sent: chains that start here, and owned units of an all-gather. -/
def State.startUnits (s : State) (ch : Nat) (h : Herd) (q : Nat) : List Nat → State
  | [] => s
  | u :: us => match s.desc? ch q with
      | none => s
      | some d =>
          if !s.holdRoom || (d.lrn && s.learn.expDue) then s
          else if d.op ≤ 1 then
            let s := if h.starts u && !d.done.contains u then s.passUnit ch h q u none else s
            State.startUnits s ch h q us
          else if h.owner u != h.self || d.done.contains u then State.startUnits s ch h q us
          else
            let c := (s.coll ch).ctx
            let s := State.settle c ((s.readVa 726 c (d.src + 772 * (h.place u - h.place d.u0)) 772).bind fun s b =>
                (s.writeVa 726 c (d.dst + 772 * (u - d.u0)) b).bind fun s _ => .ok s b) fun s b =>
              (s.updDesc ch q fun d => { d with done := d.done ++ [u], back := d.back ++ [u] }).collSend ch h (h.succOf u)
                (s.descMsg d u true b)
            State.startUnits s ch h q us
/-- The own sums of an ALLSUM. -/
def State.startSums (s : State) (ch : Nat) (h : Herd) (d : CollDesc) : State :=
  let c := (s.coll ch).ctx
  State.settle c (s.readVa 726 c d.src (4 * d.ucnt)) fun s b =>
    s.allsumAdd ch h d.q h.self ((List.range d.ucnt).flatMap fun i => LossSum.bytes (LossSum.ofF32 (word32 b (4 * i))))
/-- What a message names, among the descriptors in progress: one of the learning shard by t, the round and its unit, and
another by number. While the exponent pass of a round is due, its shard waits. -/
def State.named (s : State) (ch : Nat) (m : CollMsg) : Option CollDesc :=
  (s.coll ch).prog.find? fun d =>
    if m.lrn then d.lrn && !s.learn.expDue && m.step == s.learn.t && m.rnd == s.learn.round && decide (d.u0 ≤ m.unit) &&
      decide (m.unit < d.u0 + d.ucnt)
    else m.step == d.q
/-- A message meets its descriptor: a mismatch stops the channel; a unit that has passed is a duplicate. -/
def State.meet (s : State) (ch : Nat) (h : Herd) (d : CollDesc) (m : CollMsg) : State :=
  if m.opc != opCode d.op || m.lrn != d.lrn || m.u0 != d.u0 || m.ucnt != d.ucnt || m.tag != d.tag then s.collStop ch h
  else if d.op = 3 then
    (if m.back then
      (if !d.back.isEmpty then s
       else
        let s := (treeChildren h.rcd h.self).foldl (fun s x => s.collSend ch h x (s.descMsg d 0 true m.data)) s
        State.settle (s.coll ch).ctx (s.writeVa 726 (s.coll ch).ctx d.dst (m.data.take (4 * d.ucnt))) fun s _ =>
          s.updDesc ch d.q fun d => { d with back := [0] })
     else if d.done.contains m.src then s else s.allsumAdd ch h d.q m.src m.data)
  else
    let b := (m.data ++ List.replicate 772 0).take (unitLen d.op)
    if m.back || d.op = 2 then (if d.back.contains m.unit then s else s.takeBack ch h d.q m.unit b)
    else if d.done.contains m.unit then s else s.passUnit ch h d.q m.unit (some b)
/-- The send hold has room for what a message makes this member send: one unit, or the sums of a descriptor to the members
beside it in the tree (R301). -/
def State.meetRoom (s : State) (d : CollDesc) : Bool := s.holdRoom (if d.op = 3 then 16 * (64 + 40 * d.ucnt) else 856)
/-- Messages that waited for a descriptor meet it, while the send hold has room. -/
def State.meetWaiting (s : State) (ch : Nat) (h : Herd) : List CollMsg → State
  | [] => s
  | m :: ms => match (s.named ch m).filter s.meetRoom with
      | some d => State.meetWaiting ((s.updColl ch fun k => { k with rxBuf := k.rxBuf.erase m }).meet ch h d m) ch h ms
      | none => State.meetWaiting s ch h ms
/-- The exponent pass of the learning context is held (R312, R318). -/
def State.expHeld (s : State) (ch : Nat) (h : Herd) : Bool :=
  h.hold && s.learn.bound && s.learn.ctx == (s.coll ch).ctx && (match h.join with | some (_, t) => decide (t < s.learn.t) | none => true)
/-- The reduce-scatter of the next step waits for the lines of a capture (`19` R448). -/
def State.captureHeld (s : State) : Bool :=
  s.ckpts.any fun w => w.cls == 0 && w.ctx == s.learn.ctx && w.s.isSome && !w.captured
/-- A descriptor of the learning shard whose parameters the open step has already given to another: it is the next step's,
which waits for CFID (R212). -/
def State.nextStep (s : State) (d : CollDesc) : Bool :=
  s.learnChans.any fun i => ((s.coll i).prog ++ (s.coll i).past).any fun e =>
    e.lrn && decide (d.u0 < e.u0 + e.ucnt) && decide (e.u0 < d.u0 + d.ucnt)
/-- In an entry of the channel (R294), messages that wait and descriptors in progress do what they can; then the next
descriptor is taken, when its OP is the row's, its producer fence has reached it and 8 are not in progress (R296). An
illegal descriptor is cause 0x02. -/
def State.takeDesc (s : State) (ch op : Nat) : State :=
  match (s.collHerd ch).filter fun _ => s.slotNow == ch with
  | none => s
  | some h =>
      let s := s.meetWaiting ch h (s.coll ch).rxBuf
      let s := (s.coll ch).prog.foldl (fun s d => if d.op = 3 then s else s.startUnits ch h d.q d.units) s
      let k := s.coll ch
      let q := k.taken + 1
      if 8 ≤ k.prog.length then s.collSettle ch h
      else if !s.mayWait k.ctx k.pf then s.lose k.ctx 0x06
      else if (s.fence k.pf).val.toNat < q then s.collSettle ch h
      else State.settle k.ctx (s.readVa 726 k.ctx (k.qva + 64 * (q % 256)) 64) fun s b =>
        let d := collDesc q b
        if s.collBad k.ctx d b then s.lose k.ctx 0x02
        else if d.op != op || (op == 0 && s.expHeld ch h) then s.collSettle ch h
        else if d.lrn && (s.learn.t == 0 || s.learn.final || s.nextStep d || s.learn.expDue || s.captureHeld) then s.collSettle ch h
        else if !s.maySignal k.ctx d.fid then s.lose k.ctx 0x06
        else if !s.meetRoom d then s.collSettle ch h
        else
          let s := s.updColl ch fun k => { k with taken := q, prog := k.prog ++ [d] }
          let s := if op = 0 && s.learn.bound && s.learn.ctx == k.ctx then s.updLearn fun l => { l with expDue := false } else s
          let s := if op = 3 then s.startSums ch h d else s.startUnits ch h q d.units
          (s.meetWaiting ch h (s.coll ch).rxBuf).collSettle ch h
/-- EXPMAX. -/
def execExpmax (ch : Fin 16) (s : State) : Out := .next (s.takeDesc ch 0)
/-- COLLECTIVE_RSUM. -/
def execCollectiveRsum (ch : Fin 16) (s : State) : Out := .next (s.takeDesc ch 1)
/-- Units of the learning shard go round their rings, in ascending order, while the send hold has room, and then on to this
member's update units (R300). -/
def State.sendShard (s : State) (ch : Nat) (h : Herd) : List Nat → State
  | [] => s
  | u :: us =>
      if !s.holdRoom then s
      else
        let c := (s.coll ch).ctx
        let s := State.settle c (s.readVa 726 c (s.learn.scb.stage + 772 * h.place u) 772) fun s b =>
          ((s.updColl ch fun k => { k with ag := k.ag.erase u }).collSend ch h (h.succOf u)
            { opc := 0x22, rnd := s.learn.round, step := s.learn.t, unit := u, lrn := true, back := true, data := b }).updLearn
            fun l => { l with ownDue := l.ownDue ++ unitBlocks u }
        State.sendShard s ch h us
/-- AGATHER: the learning shard first, then descriptors. -/
def execAgather (ch : Fin 16) (s : State) : Out :=
  .next (match s.collHerd ch with
    | none => s
    | some h => (s.sendShard ch h (s.coll ch).ag).takeDesc ch 2)
/-- ALLSUM. -/
def execAllsum (ch : Fin 16) (s : State) : Out := .next (s.takeDesc ch 3)

/-! ### Messages (R294, R297–R301) -/

/-- A unit of the learning all-gather, of the open step's round. -/
def State.isShard (s : State) (ch : Nat) (m : CollMsg) : Bool :=
  m.opc == 0x22 && m.lrn && s.learn.bound && s.learn.ctx == (s.coll ch).ctx && m.step == s.learn.t && m.rnd == s.learn.round
/-- Blocks of a unit join the all-gather buffer. -/
def Learn.agPut (l : Learn) (js : List Nat) (b : List Byte) : Learn :=
  { l with agBuf := l.agBuf ++ js.map fun j => (j, ((b.drop (193 * (j % 4))) ++ List.replicate 193 0).take 193) }
/-- A unit of the learning all-gather is forwarded unless its owner comes next, and joins the all-gather buffer, from where
its blocks reach the update units (BLOCK_ARRIVAL). One that comes again, by another predecessor after a change of route, is
dropped (R301). -/
def State.shardUnit (s : State) (ch : Nat) (h : Herd) (m : CollMsg) : State :=
  if s.learn.seen.contains m.unit then s else
  let o := h.owner m.unit
  let s := s.updLearn fun l => { l with
    seen := l.seen ++ [m.unit]
    got := Tab.upd 0 l.got (16 * o + h.ringOfUnit m.unit) fun x => max x (m.unit + 1) }
  let s := if h.succOf m.unit = o then s else s.collSend ch h (h.succOf m.unit) m
  s.updLearn fun l => l.agPut (unitBlocks m.unit) m.data
/-- A message is accepted: it is counted, and acknowledged to its sender; its flits leave the receive buffer (R301,
`11` R270). -/
def State.collTake (s : State) (h : Herd) (m : CollMsg) : State :=
  (((s.takeRx 0 (collBytes m)).updColl m.ch fun k => { k with rxSeq := Tab.set 0 k.rxSeq m.src (m.seq + 1) }).bumpColl m.ch 1).toMember
    h m.src { opc := 0x34, ch := m.ch, seq := m.seq }
/-- The 512 KiB receive buffer of a channel has room for a message (R294). -/
def State.waitRoom (s : State) (ch : Nat) (m : CollMsg) : Bool :=
  ((s.coll ch).rxBuf.map fun x => (collBytes x).length).sum + (collBytes m).length ≤ 524288
/-- A unit that was sent again: the blocks that this member waits for join the all-gather buffer. -/
def State.takeResent (s : State) (m : CollMsg) : State :=
  let l := s.learn
  let js := (unitBlocks (leAt m.data 0 5)).filter fun j =>
    (s.ras.resend.any fun e => e.2 == j / 2) && !(l.agBuf.any fun e => e.1 == j)
  if !l.bound || m.step != l.t || m.rnd != l.round then s else s.updLearn fun l => l.agPut js (m.data.drop 5)
/-- A message of a channel for this member: a duplicate is dropped by its SEQ; a unit of the learning shard is gathered, and
one sent again joins the all-gather buffer; another message meets its descriptor, in an entry of the channel (R294), or waits
in the 512 KiB buffer. What finds no room stays in the receive buffer, and so does a scalar record, which SCALAR_RECORD
takes. -/
def State.collArrive (s : State) (h : Herd) (m : CollMsg) : State :=
  let ch := m.ch
  if m.seq < Tab.get 0 (s.coll ch).rxSeq m.src then s.takeRx 0 (collBytes m)
  else if m.opc = 0x23 then s
  else if m.opc = 0x47 then (if s.learn.agFull then s else (s.collTake h m).takeResent m)
  else if s.isShard ch m then (if s.learn.agFull || !s.holdRoom then s else (s.collTake h m).shardUnit ch h m)
  else match (s.named ch m).filter fun _ => s.slotNow == ch with
    | some d => if !s.meetRoom d then s else ((s.collTake h m).meet ch h d m).collSettle ch h
    | none =>
        if s.waitRoom ch m then (s.collTake h m).updColl ch fun k => { k with rxBuf := k.rxBuf ++ [m] } else s
/-- The owner of a unit sends it again, from its staging shard, to the member that asked: on the collective virtual channel of
a channel of the learning binding, by the send hold (`20` R461, R301). A hold without room leaves the request to be repeated
(log 30). -/
def State.resendUnit (s : State) (h : Herd) (m : CollMsg) : State :=
  let l := s.learn
  let u := leAt m.data 8 5
  match s.learnChans.head? with
  | none => s
  | some ch =>
      if l.ctx != h.ctx || m.step != l.t || m.rnd != l.round || l.trs = 0 || h.owner u != h.self || !s.holdRoom then s
      else State.settle l.ctx (s.readVa 726 l.ctx (l.scb.stage + 772 * h.place u) 772) fun s b =>
        s.collSend ch h m.src { opc := 0x47, rnd := m.rnd, step := m.step, lrn := true, unit := m.src, data := leBytes 5 u ++ b }
/-- What a control message without a row of its own does at its receiver: a gate query, the order of a field test and the
end of a hold, the stop of a channel, the request for a unit, what a change of membership needs to know, and the order of a
join. -/
def State.control (s : State) (h : Herd) (m : CollMsg) : State :=
  match m.opc with
  | 0x40 => s.answerQuery h m
  | 0x44 =>
      if m.src != h.rcd.bell || h.rcd.bell == h.self then s
      else (s.updHerd h.hid fun h => { h with hold := true, phase := .holding }).fieldTestBegin (some h.hid)
  | 0x45 => s.resendUnit h m
  | 0x46 =>
      if !(s.coll m.ch).bound || (s.coll m.ch).hid != h.hid then s
      else (s.updColl m.ch fun k => { k with stop := true }).lose (s.coll m.ch).ctx 0x12
  | 0x49 =>
      if m.src != h.rcd.bell then s else (s.updHerd h.hid fun h => { h with digests := [] }).dropJoin h.hid
  | 0x4B => s.answerShrink h m
  | 0x4C => s.heardReport h m
  | 0x4F => s.heedJoin h m
  | _ => s
/-- The herd of a message: that of its channel, or the one that it names. -/
def State.msgHerd (s : State) (m : CollMsg) : Option Herd :=
  if s.dev != .ready then none
  else if onColl m then (if (s.coll m.ch).bound then (s.herd? (s.coll m.ch).hid).filter Herd.runs else none)
  else (s.herd? (leAt m.data 0 8)).filter fun h => h.runs || h.phase == .joining
/-- COLLECTIVE_MESSAGE (R288, R289, R297–R301): a message of another epoch is dropped and counted; one for another member is
forwarded whole; one of a channel that does not run changes nothing. -/
def execCollectiveMessage (m : CollMsg) (s : State) : Out :=
  .next (match s.msgHerd m with
    | none => s
    | some h =>
        if h.phase == .joining then s.joinTake h m
        else s.ofEpoch h m.mep fun s =>
          if h.forWhom m != h.self then (s.takeRx (if onColl m then 0 else 4) (collBytes m)).onRoute h (h.forWhom m) m
          else if onColl m then (if (s.collHerd m.ch).isSome then s.collArrive h m else s)
          else s.control h m)
/-- COLLECTIVE_ACKNOWLEDGEMENT (R288, R301). -/
def execCollectiveAcknowledgement (ch : Fin 16) (succ : HerdFrom) (seq : W64) (s : State) : Out :=
  .next (match if (s.coll ch).bound then s.herd? (s.coll ch).hid else none with
    | none => s
    | some h => s.ofEpoch h succ.epoch.toNat fun s => s.updColl ch fun k => { k with
        hold := k.hold.filter fun e => e.1 != succ.m.val || decide (seq.toNat < e.2.seq) })

/-! ### Scalar records (R303) -/

/-- Two scalar records combined: exact sums, the later T_rs, and the pairs in index order. -/
def joinRec (a b : GateRec) : GateRec :=
  { a with
    nnf := a.nnf + b.nnf, wall := a.wall + b.wall, wclip := a.wclip + b.wclip
    wself := (a.wself ++ b.wself).mergeSort fun x y => x.1 ≤ y.1
    sumL := LossSum.add a.sumL b.sumL
    nc := a.nc + b.nc, ts := max a.ts b.ts }
/-- This member's own record, once it has T_rs and LFID has reached t, with the loss as it stood then (`09` R209). -/
def Learn.ownRecord (l : Learn) (h : Herd) : Option GateRec :=
  let out := l.excluded.contains h.self
  match l.trs, l.loss with
  | n + 1, some x => some { l.stat with
      t := l.t, round := l.round, epoch := h.rcd.epoch, sumL := if out then .fin 0 else LossSum.ofF32 x, nc := b2n !out
      wself := if out then [] else l.stat.wself, ts := n + 1 }
  | _, _ => none
/-- A record joins the running one; with those of this member and all its children it goes to the parent, or the
Bellwether forms the gate record, sends it down the tree and takes it. -/
def State.addRecord (s : State) (ch : Nat) (h : Herd) (src : Nat) (r : GateRec) : State :=
  let s := s.updColl ch fun k => { k with
    scal := if k.scalHeard.isEmpty then r else joinRec k.scal r
    scalHeard := k.scalHeard ++ [src] }
  let k := s.coll ch
  if !(h.self :: treeChildren h.rcd h.self).all k.scalHeard.contains then s
  else
    let s := s.updColl ch fun k => { k with scalHeard := [], scal := {} }
    match treeParent h.rcd h.self with
    | some p => s.collSend ch h p { opc := 0x23, rnd := k.scal.round, step := k.scal.t, lrn := true, data := GateRec.scalarBytes k.scal }
    | none =>
        let g : GateRec := { k.scal with t := s.learn.t, round := s.learn.round, epoch := h.rcd.epoch, tg := s.now.toNat }
        (s.gateDown g).takeGate g
/-- SCALAR_RECORD (R303): this member's own record (`src` is itself) falls due, or that of a child arrives. The engine adds
records in an entry of the channel only; outside it a child's record waits in the receive buffer (R294), and the row comes
again (log 31). While the send hold has no room for a record, the channel waits (R301). -/
def execScalarRecord (ch : Fin 16) (src : Fin 4096) (r : GateRec) (s : State) : Out :=
  .next (match s.collHerd ch with
    | none => s
    | some h =>
        let l := s.learn
        if !l.bound || l.ctx != (s.coll ch).ctx || l.t == 0 || l.final || (s.coll ch).scalHeard.contains src.val ||
          !s.holdRoom (512 + 130 * h.nodes.length) then s
        else if src.val = h.self then
          (match l.ownRecord h with
          | none => s
          | some own => if s.slotNow == ch.val then s.addRecord ch h h.self own else s)
        else s.ofEpoch h r.epoch fun s =>
          if r.t != l.t || r.round != l.round || !(treeChildren h.rcd h.self).contains src.val then s
          else match (s.coll ch).rxBuf.find? fun m => m.opc == 0x23 && m.src == src.val && m.step == r.t && m.rnd == r.round with
            | some m =>
                if s.slotNow == ch.val then (s.updColl ch fun k => { k with rxBuf := k.rxBuf.erase m }).addRecord ch h src r else s
            | none =>
                let n := Tab.get 0 (s.coll ch).rxSeq src
                let m : CollMsg := { opc := 0x23, ch := ch, rnd := r.round, src := src, mep := r.epoch, step := r.t, seq := n, lrn := true
                                     data := GateRec.scalarBytes r }
                if s.slotNow == ch.val then (s.collTake h m).addRecord ch h src r
                else if s.waitRoom ch m then (s.collTake h m).updColl ch fun k => { k with rxBuf := k.rxBuf ++ [m] } else s)

end Sys2Proof.Machine
end

