-- ==== Sys2Proof/Machine/Time.lean ====
section
/-! DEFINITION. Tether: beacons, exchanges, lock states, the sync pins and PTM (`12` R305–R310, `13` R336). -/

namespace Sys2Proof.Machine

/-! ### The count (R305, R309) -/

/-- Tether runs from the end of start-up (R309). -/
def State.tetherRuns (s : State) : Bool := s.dev == .ready || s.dev == .sentinel
/-- The count after a nanosecond of the module's clock under the slew in force; at 2⁶⁴ − 1 it saturates. -/
def Tether.advance (t : Tether) : Tether :=
  let x := t.ns.toNat * 65536 + t.frac.toNat + (65536 + (65536 * t.slew) / 1000000000).toNat
  let t := if x < 2 ^ 80 then { t with ns := w64 (x / 65536), frac := BitVec.ofNat 16 (x % 65536) }
    else { t with ns := BitVec.allOnes 64, frac := BitVec.allOnes 16 }
  { t with syncOut := t.syncOut && t.ns.toNat % 1000000000 < 1000 }
/-- What a step does with no command waiting: a nanosecond passes (log 8). -/
def State.tick (s : State) : State := if s.tetherRuns then { s with tet := s.tet.advance } else s

/-- A number of nanoseconds added to a time. -/
def shiftTime (d : Int) (t : W64) : W64 := BitVec.ofInt 64 (t.toNat + d)
/-- The times that a core keeps, shifted. Those of its tasks move by whole units of the stamps that they are compared with. -/
def Core.shift (k : Core) (d : Int) : Core :=
  { k with
    tasks := k.tasks.map fun t => { t with began := shiftTime (d / 65536 * 65536) t.began }
    wins := k.wins.map fun w => { w with resv := shiftTime d w.resv } }
/-- Tether is set once, by a number of 2⁻¹⁶ ns, and with it the stamps of the KV pool and the beginnings that they and the
timers are compared with, so that order and spans are kept (R309, log 32). -/
def State.setTether (s : State) (d : Int) : State :=
  let t : Int := s.tet.time + d
  let n := d / 65536
  let f := shiftTime n
  { s with
    tet := { s.tet with ns := BitVec.ofInt 64 (t / 65536), frac := BitVec.ofInt 16 (t % 65536) }
    pages := s.pages.map fun e => (e.1, if e.2.owner.isSome then { e.2 with stamp := min (e.2.stamp + n / 65536) (2 ^ 44 - 1) } else e.2)
    cores := s.cores.map fun e => (e.1, e.2.shift n)
    ctxs := s.ctxs.map fun e => (e.1, { e.2 with
      phase := f e.2.phase
      queues := e.2.queues.map fun q => (q.1, { q.2 with since := q.2.since.map f }) })
    keys := { s.keys with nonces := s.keys.nonces.map fun n => { n with t := f n.t } }
    ports := s.ports.map fun e => (e.1, { e.2 with nakked := e.2.nakked.map fun x => (x.1, f x.2) }) }

/-! ### The master and its beacons (R306, R308, R309) -/

/-- The time domain of the module: that of the first beacon accepted since start, or the one written. -/
def Tether.domain (t : Tether) : Nat := t.tdom.getD t.tdomCfg.toNat
/-- The herd whose Bellwether this module is and by which it masters its domain: the live herd of the domain with the
lowest HID, among the module's own and those whose beacons it hears. -/
def State.masterHerd (s : State) : Option Herd :=
  let mine := s.herds.filter fun h => h.runs && h.tdom == s.tet.domain
  match (mine.map (·.hid)).min? with
  | none => none
  | some lo =>
      match s.tet.best with
      | some (hid, _) => if hid < lo then none else mine.find? fun h => h.hid == lo && h.rcd.bell == h.self
      | none => mine.find? fun h => h.hid == lo && h.rcd.bell == h.self
/-- The bytes of a beacon; their order is log 32. -/
def beaconBytes (tdom node hid hops : Nat) : List Byte := wordBytes [at64 tdom 48 ||| at64 node 32 ||| w64 hid, w64 hops]
/-- A beacon leaves on the time virtual channel of every UP port but one. -/
def State.beaconOut (s : State) (but : Option Nat) (b : List Byte) : State :=
  ((List.range 16).filter fun p => (s.port p).st == .up && some p != but).foldl (fun s p => s.sendMsg p 5 false b) s
/-- The module masters its domain. A master that has never locked starts domain time at the larger of BASE and its
own count; a master counts as LOCKED (R308–R310, log 32). -/
def State.becomeMaster (s : State) : State :=
  if s.tet.mast then s
  else
    let first := !s.tet.everLocked && !s.tet.everMaster
    let s := if first && s.tet.ns.toNat < s.tet.base.toNat then s.setTether ((s.tet.base.toNat - s.tet.ns.toNat : Int) * 65536) else s
    { s with tet := { s.tet with
        mast := true, everMaster := true, everLocked := true, st := .locked, hasParent := false, hops := 0, best := none
        off := none, tdom := some s.tet.domain } }
/-- The module no longer masters its domain, and holds over (R308). -/
def Tether.resign (t : Tether) : Tether :=
  if t.mast then { t with mast := false, phi := none, st := if t.st = .locked then .holdover else t.st } else t
/-- A beacon's place in the order of preference: HID, hops, peer node. -/
def better (a b : Nat × Nat × Nat × Nat) : Bool :=
  a.1 < b.1 || (a.1 == b.1 && (a.2.1 < b.2.1 || (a.2.1 == b.2.1 && a.2.2.1 < b.2.2.1)))
/-- A beacon of the module's domain is taken, when it is better than the parent's or comes from the parent, and is
forwarded below 16 hops. -/
def State.heedBeacon (s : State) (b : Beacon) : State :=
  let x := (b.hid.toNat, b.hops, (s.port b.port).peer, b.port.val)
  let t := s.tet
  let take := match t.best with
    | none => true
    | some y => better x y || y.2.2.2 == b.port.val
  let s := { s with tet := { t with tdom := some t.domain } }
  if !take then s
  else
    let t := s.tet.resign
    let s := { s with tet := { t with
        best := some x, hasParent := true, pport := b.port, hops := (b.hops + 1) % 32
        st := if t.st = .holdover then .locked else t.st } }
    if 16 ≤ b.hops then s
    else s.beaconOut (some b.port) (beaconBytes b.tdom.toNat b.node.toNat b.hid.toNat (b.hops + 1))
/-- TETHER_BEACON (R306): a beacon that is due is sent by the master; one that arrives is taken and forwarded. A
master heeds only the beacons of a herd with a lower HID. -/
def execTetherBeacon (recv : Option Beacon) (s : State) : Out :=
  .next (if s.dev != .ready then s
    else match recv with
      | none => match s.masterHerd with
        | some h =>
            let s := s.becomeMaster
            s.beaconOut none (beaconBytes s.tet.domain s.node h.hid 0)
        | none => { s with tet := s.tet.resign }
      | some b =>
          if (s.port b.port).st != .up || b.tdom.toNat != s.tet.domain then s
          else match s.tet.mast, s.masterHerd with
            | true, some h => if b.hid.toNat < h.hid then s.heedBeacon b else s
            | _, _ => s.heedBeacon b)
/-- HOLDOVER_EXPIRY (R308). -/
def execHoldoverExpiry (s : State) : Out :=
  .next (if s.dev == .ready && s.tet.st == .holdover then { s with tet := { s.tet with st := .unlocked, good := 0 } } else s)
/-- MASTER_LOSS (R308): the silent master is forgotten; the next eligible Bellwether takes over from its own LOCKED
time, and another module holds over. -/
def execMasterLoss (s : State) : Out :=
  .next (if s.dev != .ready || s.tet.mast || s.tet.best.isNone then s
    else
      let t := s.tet
      let s := { s with tet := { t with
        best := none, hasParent := false, st := if t.st = .locked then .holdover else t.st } }
      if (s.tet.st == .locked || s.tet.st == .holdover) && s.masterHerd.isSome then s.becomeMaster else s)
/-- UNLOCKED_WITHDRAWAL (R308): a member not LOCKED for 100 ms leaves every herd of its domain. -/
def execUnlockedWithdrawal (s : State) : Out :=
  .next (if s.dev != .ready || s.tet.st == .locked || s.tet.st == .holdover then s
    else ((s.herds.filter Herd.runs).map (·.hid)).foldl State.quitHerd s)

/-! ### Exchanges (R307, R309) -/

/-- The rate that removes an offset: its sign is that of the offset, and its size, at most 200 ppm, is free (log 32). -/
def State.slewFor (s : State) (theta : Int) : State :=
  match s.free 32 with
  | (f, s) =>
      let r : Int := f.toNat % 200001
      { s with tet := { s.tet with slew := if theta = 0 then 0 else if 0 < theta then r else -r } }
/-- An offset is small: at most `n` ns, in 2⁻¹⁶ ns. -/
def within (theta : Int) (n : Nat) : Bool := theta.natAbs ≤ n * 65536
/-- An exchange is good: its offset is at most 2 ns, or, before the first lock, lies that near the offset of the
first exchange (log 32). -/
def Tether.goodAt (t : Tether) (theta : Int) : Bool :=
  within theta 2 || (!t.everLocked && match t.off with | some o => within (theta - o) 2 | none => true)
/-- The first lock sets Tether to domain time (R309). -/
def State.firstLock (s : State) (theta : Int) : State :=
  let s := s.setTether theta
  { s with tet := { s.tet with everLocked := true, off := none } }
/-- An exchange with the parent: LOCKED after 16 good ones in a row, and no longer beyond 10 ns. -/
def State.exchange (s : State) (theta : Int) : State :=
  let t := s.tet
  let good := if t.goodAt theta then t.good + 1 else 0
  let off := if t.everLocked then none else if t.goodAt theta then some (t.off.getD theta) else some theta
  let s := { s with tet := { t with theta := BitVec.ofInt 32 theta, good := min good 16, off := off } }
  let s := if t.everLocked then s.slewFor theta else s
  if 16 ≤ good && t.st != .locked then
    let s := if t.everLocked then s else s.firstLock theta
    { s with tet := { s.tet with st := .locked } }
  else if t.st = .locked && !within theta 10 then { s with tet := { s.tet with st := .unlocked, good := 0 } }
  else s
/-- TIME_EXCHANGE (R307): the module asks its parent; it answers a child with the stamp at which the question arrived, and
the answer's own stamp joins it as it leaves; or its parent's answer has arrived, with t2 and t3. t1 and t4 are the port's
stamps of the question and of the answer (R271). The stamps and the port's asymmetry are in 2⁻¹⁶ ns. The asymmetry is the
port's calibrated one (`22` R508): nothing depends on what the operand `asym` says. -/
def execTimeExchange (role : TimeRole) (port : Fin 16) (t2 t3 : Nat) (asym : Int) (s : State) : Out :=
  let _ := asym
  let k := s.port port
  let parent := !s.tet.mast && s.tet.hasParent && s.tet.pport == port.val
  .next (if s.dev != .ready || k.st != .up then s
    else match role with
      | .ask => if parent then s.sendMsg port 5 false (wordBytes [0]) else s
      | .answer => s.sendMsg port 5 false (answerBytes k.tIn 0)
      | .done => match parent, k.tAsk with
        | true, some t1 =>
            (s.updPort port fun k => { k with tAsk := none }).exchange
              ((((t2 : Int) - (t1 : Int)) - ((k.tIn : Int) - (t3 : Int))) / 2 - (Config.portAsym port).toInt)
        | _, _ => s)

/-! ### The pins and PTM (R310, `13` R336, `24` R539) -/

/-- A second of Tether, in ns. -/
def second : Nat := 1000000000
/-- SYNC_IN (R310): a pulse shorter than 100 ns is not stamped. -/
def execSyncIn (wide : Bool) (s : State) : Out :=
  .next (if s.dev != .ready || !wide || !s.tet.mast then s
    else match s.tet.phi with
      | none => { s with tet := { s.tet with phi := some (s.now.toNat % second) } }
      | some p =>
          let d : Int := ((p + second - s.now.toNat % second) % second : Nat)
          s.slewFor (if d < second / 2 then d else d - second))
/-- SYNC_IN_MISSING (R310). -/
def execSyncInMissing (s : State) : Out :=
  .next (if s.dev == .ready && s.tet.mast then { s with tet := { s.tet with syncMiss := s.tet.syncMiss + 1, slew := 0 } } else s)
/-- SYNC_OUT (R310): high for 1 µs from each multiple of 10⁹ ns while the module counts as LOCKED. -/
def execSyncOut (s : State) : Out :=
  .next { s with tet := { s.tet with
    syncOut := s.dev == .ready && (s.tet.st == .locked || s.tet.st == .holdover) && s.now.toNat % second < 1000 } }
/-- PTM_DIALOG (R336). -/
def execPtmDialog (ok : Bool) (host : W64) (s : State) : Out :=
  .next (if s.dev != .ready || !s.pcie.up || !s.pcie.ptmEn then s
    else if ok then { s with tet := { s.tet with ptmH := host, ptmT := s.now } }
    else { s with pcie := { s.pcie with ptmFail := s.pcie.ptmFail + 1 } })

end Sys2Proof.Machine
end

