-- ==== Sys2Proof/Machine/Ckpt.lean ====
section
/-! DEFINITION. Checkpoints, context snapshots and the difference stream as a module writes them (`19` R438–R454). -/

namespace Sys2Proof.Machine

/-! ### Stores (R439, R440) -/

/-- Bytes from one shard of a slot to the next (R440). -/
def shardStep : Nat := 2 ^ 30 + 2 ^ 21
/-- A store as its descriptor gives it (R439). -/
def storeOf (chd : BitVec 256) (cls : Nat) (name : W64) (b : List Byte) : Store :=
  let w := fun i => (wordAt b i)
  { chd := chd, cls := cls, name := name, node := fld (w 0) 63 48, pmask := fld (w 0) 47 32, segn := fld (w 0) 31 16
    sbase := [(w 1).toNat, (w 2).toNat, (w 3).toNat], ssz := (w 4).toNat, strm := (w 5).toNat, strmsz := (w 6).toNat
    coord := (w 7).toNat }
/-- A descriptor breaks R439. -/
def storeBad (x : Store) (b : List Byte) : Bool :=
  fld (wordAt b 0) 15 0 != 0 || (if x.cls = 0 then x.segn == 0 else x.segn != 0) || !aligned x.ssz (2 ^ 21) ||
    (x.sbase.any fun a => !aligned a (2 ^ 21)) || !aligned x.strm (2 ^ 21) || !aligned x.coord 4096 ||
    x.coord < 0xFFFF00000000
/-- CKPT.STORE (R439). A descriptor that is illegal or not mapped is refused (log 34). -/
def execCkptStore (c : MbxCall) (s : State) : Out :=
  .next (mailbox c (fun a => { opc := 0x50, masks := [lowMask 13, allMask, allMask], names := [(0, argCtx a 0)]
                               ctxs := [argCtx a 0], always := false, bad := false, free := false })
    (fun a s => match s.readVa 725 (argCtx a 0) (argAt a 2).toNat 64 with
      | .ok s b =>
          let x := storeOf (s.ctx (argCtx a 0)).chd (b2n (bit (argAt a 0) 12)) (argAt a 1) b
          if storeBad x b then (s, .refused 0)
          else ({ s with stores := (s.stores.filter fun y => !(y.chd == x.chd && y.cls == x.cls && y.name == x.name)) ++ [x] }, ok)
      | .lost s _ => (s, .refused 0)
      | .wait s => (s, .wait .queued)) s)
/-- CKEY and bit `b` of CKFL of a charter (`17` R406). -/
def chCkey (img : List Byte) : Nat := imgByte img (chPol img + 12)
/-- Narrowed moments are bit 0, snapshots bit 1. -/
def chCkfl (img : List Byte) (b : Nat) : Bool := (imgByte img (chPol img + 13)).testBit b
/-- A key of the key table that the entry of a context may use (`17` R410, R414). -/
def State.mayUse (s : State) (c k : Nat) : Bool :=
  let img := s.charterOf c
  match (s.ctx c).entry with
  | none => false
  | some e => k < 8 && (leAt img (chKey img k + 4) 4).testBit e
/-- The value of an owner key that a context may use, when the module holds it. A 128-bit key stands in bits
[255:128]. -/
def State.ownerKey (s : State) (c k : Nat) : Option (BitVec 256) :=
  if s.mayUse c k then ((s.slotOf 7 (s.ctx c).chd k).filter fun i => (s.kslot i).use.testBit 0).map fun i => (s.kslot i).value
  else none
/-- A context names a key that the key engine refuses: it is lost (`15` R374, R378, R384). -/
def State.loseKey (s : State) (c : Nat) : State := s.keyRefused.lose c 0x15
/-- The policies of a context's charter on exports: OMODE, OKEY, ORCP, OSRC and EXPMAX (`17` R406). -/
def chExport (img : List Byte) : Nat × Nat × Nat × Nat × Nat :=
  let p := chPol img
  (imgByte img p, imgByte img (p + 1), leAt img (p + 2) 2, leAt img (p + 4) 4, leAt img (p + 8) 4)
/-- Once the EXPMAX-th export under a charter has ended, however it has, the policy ends: OKEY is invalidated (`15` R378, `17`
R418). -/
def State.endExports (s : State) (chd : BitVec 256) : State :=
  match s.charter? chd with
  | some ch =>
      let x := chExport ch.image
      if x.1 == 1 && x.2.2.2.2 ≤ ch.exports && !(s.xfers.any fun x => x.exp && (s.ctx x.ctx).chd == chd) then
        (match s.slotOf 7 chd x.2.1 with
        | some i => s.invalidate i
        | none => s)
      else s
  | none => s
/-- The context may write checkpoints under its charter: the charter has CKEY, and its entry may use it (R419). -/
def State.mayCkpt (s : State) (c : Nat) : Bool := s.mayUse c (chCkey (s.charterOf c))
/-- CKEY of a context. -/
def State.ckey (s : State) (c : Nat) : Option (BitVec 256) := s.ownerKey c (chCkey (s.charterOf c))
/-- The wrapping key: bits [255:128] (R444). -/
def wrapKey (k : BitVec 256) : BitVec 128 := (k >>> 128).setWidth 128

/-! ### Shards (R444, R445) -/

/-- The fields of a shard header. -/
structure ShardHead where
  /-- G. -/
  g : Nat := 0
  /-- STEP. -/
  step : Nat := 0
  /-- SIDX. -/
  sidx : Nat := 0
  /-- CLASS. -/
  cls : Nat := 0
  /-- KIND. -/
  kind : Nat := 0
  /-- WRITER. -/
  writer : Nat := 0
  /-- MEP. -/
  mep : Nat := 0
  /-- RANK. -/
  rank : Nat := 0
  /-- NL. -/
  nl : Nat := 0
  deriving DecidableEq, Repr
/-- *Shard header*: 64 B. -/
def headBytes (h : ShardHead) (plen : Nat) (wkey : List Byte) : List Byte :=
  leBytes 8 h.g ++ leBytes 8 h.step ++ leBytes 4 h.sidx ++ leBytes 1 h.cls ++ leBytes 1 h.kind ++ leBytes 2 h.writer ++
    leBytes 8 plen ++ wkey ++ leBytes 4 h.mep ++ leBytes 2 h.rank ++ leBytes 2 h.nl
/-- Chunk i and those after it, each ciphertext with its tag. -/
def sealChunks (key : BitVec 128) (head : List Byte) : Nat → Nat → List Byte → List (List Byte)
  | 0, _, _ => []
  | n + 1, i, b =>
      if b.isEmpty then []
      else Config.gcmSeal key (List.replicate 8 0 ++ beBytes 4 i) head (b.take 65536) ::
        sealChunks key head n (i + 1) (b.drop 65536)
/-- ROOT of a shard: SM3 of its header and the top of its tree (R445). -/
def shardRoot (head : List Byte) (cs : List (List Byte)) : BitVec 256 :=
  Config.sm3 (head ++ digBytes (treeRoot (cs.length + 1) (cs.map Config.sm3)))
/-- A shard as it is written, and its ROOT. None when the DRBG refuses the shard key. -/
def State.sealShard (s : State) (ckey : BitVec 256) (h : ShardHead) (b : List Byte) : Option ((List Byte × BitVec 256) × State) :=
  (s.drawKey 128).map fun r =>
    let head := headBytes h b.length (kwWrap (wrapKey ckey) (beBytes 16 r.1.toNat))
    let cs := sealChunks r.1 head (b.length / 65536 + 1) 0 b
    ((head ++ cs.flatten, shardRoot head cs), r.2)
/-- PDIG: the first 16 B of SM3 over the plaintext. -/
def pdig (b : List Byte) : List Byte := (digBytes (Config.sm3 b)).take 16
/-- A shard entry of the manifest: 64 B (R446). -/
def shardEntry (root : BitVec 256) (b : List Byte) (sidx writer : Nat) : List Byte :=
  digBytes root ++ pdig b ++ leBytes 4 sidx ++ leBytes 2 writer ++ [0, 0] ++ leBytes 8 b.length
/-- The alias public key (`15` R371). -/
def State.aliasPub (s : State) : List Byte := Config.sm2public (s.kslot 4).value
/-- A member entry of the manifest: 160 B. -/
def State.memberEntry (s : State) (m plen : Nat) (root : List Byte) : List Byte :=
  leBytes 2 m ++ leBytes 2 s.node ++ List.replicate 4 0 ++ leBytes 8 plen ++ root ++ digBytes s.boot.fwm ++
    (s.aliasPub ++ List.replicate 64 0).take 64 ++ List.replicate 16 0
/-- A range cut into store requests of at most 8,192 lines. -/
def cutLines : Nat → Nat → List Byte → List (Nat × List Byte)
  | 0, _, _ => []
  | n + 1, a, b => if b.isEmpty then [] else (a, b.take 1048576) :: cutLines n (a + 1048576) (b.drop 1048576)
/-- The requests of a range. -/
def linesOf (a : Nat) (b : List Byte) : List (Nat × List Byte) := cutLines (b.length / 1048576 + 1) a b
/-- The parts of a stream: 1 GiB each, the last one shorter. -/
def shardsOf : Nat → List Byte → List (List Byte)
  | 0, _ => []
  | n + 1, b => if b.isEmpty then [] else b.take (2 ^ 30) :: shardsOf n (b.drop (2 ^ 30))

/-! ### The common stream of a model checkpoint (R441, R442) -/

/-- A group-table entry (`09` R210). -/
def groupBytes (g : Group) : List Byte :=
  wordBytes [
    at64 g.rule 60 ||| at64 g.wfmt 56 ||| at64 (Nat.log2 (g.wblk / 16)) 54 ||| at64 (b2n g.mbf) 53 ||| at64 (b2n g.wsr) 52 |||
      at64 (b2n g.clip) 51 ||| at64 (b2n g.bc) 50 ||| at64 (b2n g.mom) 49 ||| at64 (b2n g.sruleUp) 48 ||| w64 g.pfirst,
    at64 (g.gfid.getD 0) 48 ||| at64 (b2n g.gfid.isSome) 47 ||| w64 g.pcount,
    at64 g.lr.toNat 32 ||| w64 g.wd.toNat, at64 g.b1.toNat 32 ||| w64 g.b2.toNat,
    at64 g.eps.toNat 32 ||| w64 g.frows, w64 g.wbase, w64 g.wsbase, w64 g.fbase]
/-- Bytes with zeros up to a length. -/
def padTo (n : Nat) (b : List Byte) : List Byte := b ++ List.replicate (n - b.length) 0
/-- The header section; its numbers take 8 B each (log 34). -/
def State.ckptHead (s : State) (h : Herd) : List Byte :=
  let l := s.learn
  let k := s.ctx l.ctx
  let words := ([l.t, l.kcount, l.params, l.groups.length, lsBits k.ls, k.clean, k.lsd, l.mu.toNat, l.sig2.toNat] : List Nat).flatMap
    (leBytes 8)
  padTo 65536 (padTo 1024 (words ++ digBytes h.chain ++ leBytes 8 k.jseed.toNat ++ digBytes h.planDig) ++ l.groups.flatMap groupBytes)
/-- The bytes of the factor table of a rule-7 group (`09` R228): factors, accumulators and trailer. -/
def Group.factorLen (g : Group) : Nat :=
  let n := 4 * (g.frows + g.cols + 1)
  ceilDiv n 64 * 64 + 40 * (g.frows + g.cols) + 64
/-- FP32 moments under RNE as BF16 (R442). -/
def narrowed : Nat → List Byte → List Byte
  | 0, _ => []
  | n + 1, b => leBytes 2 (convFloat (fmtOf 1) false .rne (ofF32 (word32 b 0))).1 ++ narrowed n (b.drop 4)
/-- Every record group from `rg` on: its masters and its moments. -/
def State.readRecs (s : State) (narrow : Bool) : Nat → Nat → Res (List Byte × List Byte)
  | 0, _ => .ok s ([], [])
  | n + 1, rg =>
      let l := s.learn
      match l.groupOf rg with
      | none => .ok s ([], [])
      | some (_, g) =>
          (s.readVa 725 l.ctx (l.recVa rg) g.recSize).bind fun s b =>
            let m := b.drop 320
            (s.readRecs narrow n (rg + 1)).bind fun s x =>
              .ok s ((b.drop 64).take 256 ++ x.1, (if narrow && !g.mbf then narrowed 128 m else m) ++ x.2)
/-- Factor tables of the groups, in order. -/
def State.readFactors (s : State) : List Group → Res (List Byte)
  | [] => .ok s []
  | g :: gs =>
      (if g.rule = 7 then s.readVa 725 s.learn.ctx g.fbase g.factorLen else .ok s []).bind fun s b =>
        (s.readFactors gs).bind fun s x => .ok s (b ++ x)
/-- The herd-common stream. -/
def State.ckptStream (s : State) (h : Herd) (narrow : Bool) : Res (List Byte) :=
  (s.readRecs narrow s.learn.recs 0).bind fun s x =>
    (s.readFactors s.learn.groups).bind fun s f => .ok s (s.ckptHead h ++ x.1 ++ x.2 ++ f)

/-! ### Member records (R443) -/

/-- The extents of a member record, one after the other. -/
def State.readExtents (s : State) (c : Nat) : List (Nat × Nat) → Res (List Byte)
  | [] => .ok s []
  | (va, n) :: l => (s.readVa 725 c va n).bind fun s b => (s.readExtents c l).bind fun s x => .ok s (b ++ x)
/-- The counters of a core's 64 lanes: 512 B. -/
def laneBytes (k : Core) : List Byte := (List.range 64).flatMap fun i => leBytes 8 (Tab.get 0 k.lane i).toNat
/-- A member record: CSEED, n and x, the SR step of each core, and zeros to a multiple of 64 B; then the lane counters,
the extent list and the extents (the widths are the model's, log 34). -/
def State.memberRec (s : State) (c : Nat) (es : List (Nat × Nat)) (data : List Byte) : List Byte :=
  let cores := s.ctxCores c
  let head := leBytes 8 (s.ctx c).cseed.toNat ++ leBytes 4 cores.length ++ leBytes 4 es.length ++
    cores.flatMap fun n => leBytes 4 (s.core n).srstep.toNat
  padTo (ceilDiv head.length 64 * 64) head ++ (cores.flatMap fun n => laneBytes (s.core n)) ++
    (es.flatMap fun e => leBytes 8 e.1 ++ leBytes 8 e.2) ++ data

/-! ### Requesting a write (R447, R454, `17` R419) -/

/-- The 16 extent entries; one of length 0 is unused. -/
def extentsOf (b : List Byte) : List (Nat × Nat) :=
  ((List.range 16).map fun i => ((wordAt b (2 * i)).toNat, (wordAt b (2 * i + 1)).toNat)).filter fun e => e.2 != 0
/-- CKPT.WRITE (R447): for the learning context of a herd whose store is bound, under a charter that permits it. -/
def execCkptWrite (c : MbxCall) (s : State) : Out :=
  .next (mailbox c (fun a => { opc := 0x51, masks := [lowMask 29, allMask, allMask, allMask], names := [(0, argCtx a 0)]
                               ctxs := [argCtx a 0], always := false, bad := false, free := false })
    (fun a s =>
      let i := argCtx a 0
      let fid := fld (argAt a 0) 28 13
      let narrow := bit (argAt a 0) 12
      match s.bindHerd with
      | none => (s, .refused 0)
      | some h =>
          if s.learn.ctx != i || (s.store? (s.ctx i).chd 0 (w64 h.hid)).isNone || !s.mayCkpt i ||
              (narrow && !chCkfl (s.charterOf i) 0) || !s.maySignal i fid then (s, .refused 0)
          else if (s.ckey i).isNone then (s.loseKey i, .done stLost [])
          else match s.readVa 725 i (argAt a 3).toNat 256 with
            | .lost s _ => (s, .refused 0)
            | .wait s => (s, .wait .queued)
            | .ok s b =>
                let es := extentsOf b
                if 2 ^ 26 < (es.map Prod.snd).sum then (s, .refused 0)
                else ({ s with ckpts := s.ckpts ++ [{ ctx := i, cls := 0, name := w64 h.hid, narrow := narrow, t := (argAt a 1).toNat
                                                      fid := fid, val := argAt a 2, extents := es }] }, ok)) s)
/-- A context is too busy for a snapshot (R454). -/
def State.snapBusy (s : State) (c : Nat) : Bool :=
  ((s.ctxCores c).any fun n => (s.core n).run == .running || !(s.core n).wins.isEmpty) || s.snapping c ||
    (s.learn.bound && s.learn.ctx == c) ||
    (s.handoffs.any fun e => e.2.isOpen && ((e.2.prodEnd && e.2.prod == c) || (e.2.consEnd && e.2.cons == c))) ||
    (List.range 8).any fun ch => (s.chan ch).active && (match (s.chan ch).wait with
      | .map x _ _ _ => x == c
      | .bind x _ _ _ _ _ => x == c
      | _ => false)
/-- SNAP.WRITE (R454). -/
def execSnapWrite (c : MbxCall) (s : State) : Out :=
  .next (mailbox c (fun a => { opc := 0x53, masks := [lowMask 12, allMask], names := [(0, argCtx a 0)], ctxs := [argCtx a 0]
                               always := false, bad := false, free := false })
    (fun a s =>
      let i := argCtx a 0
      if (s.store? (s.ctx i).chd 1 (argAt a 1)).isNone || !s.mayCkpt i || !chCkfl (s.charterOf i) 1 then (s, .refused 0)
      else if (s.ckey i).isNone then (s.loseKey i, .done stLost [])
      else if s.snapBusy i then (s, .done stBusy [])
      else ({ s with ckpts := s.ckpts ++ [{ ctx := i, cls := 1, name := argAt a 1 }] }, ok)) s)

/-! ### The contents of a snapshot (R454); the layout is the model's (log 34) -/

/-- The leaves of a context's page tables, in VA order: virtual address, entry, and whether it maps 2 MiB. -/
def State.leaves (s : State) (c : Nat) : List (Nat × Nat × Bool) :=
  let word (a : Nat) : Nat := leNat (s.readDa a 8)
  let down (t n : Nat) (f : Nat → Nat → List (Nat × Nat × Bool)) : List (Nat × Nat × Bool) :=
    (List.range n).flatMap fun i =>
      let e := word (t + 8 * i)
      if e.testBit 0 then f i e else []
  match (s.ctx c).root with
  | none => []
  | some root =>
      down root 512 fun i e => down (pteAddr e) 512 fun j e => down (pteAddr e) 512 fun k e =>
        let va := (i * 512 + j) * 2 ^ 30 + 2 ^ 21 * k
        if e.testBit 1 then [(va, e, true)]
        else down (pteAddr e) 32 fun m e => [(va + 2 ^ 16 * m, e, false)]
/-- The contents of a page are part of a snapshot: it lies in the D- or L-tier, or is a KV page. -/
def State.snapHolds (s : State) (e : Nat) : Bool :=
  e.testBit 6 || (match s.space (pteAddr e) with | .d _ => true | .l _ => true | _ => false)
/-- An entry of the mapping list: VA, then bit 0 2 MiB, bits 3–5 R, W and X, bit 6 POOL, bit 8 contents held. -/
def State.leafBytes (s : State) (x : Nat × Nat × Bool) : List Byte :=
  leBytes 8 x.1 ++ leBytes 8 (b2n x.2.2 + x.2.1 / 8 % 16 * 8 + 256 * b2n (s.snapHolds x.2.1))
/-- Bytes of a table with keys below `n`, `w` B each. -/
def tabBytes {α : Type} (n w : Nat) (d : α) (f : α → Nat) (t : Tab α) : List Byte :=
  (List.range n).flatMap fun i => leBytes w (f (Tab.get d t i))
/-- A stationary bank: 16 B of format, scales and block, 2 B for each of 256 × 64 elements, and 1 KiB of scales. -/
def bankBytes (b : Bank) : List Byte :=
  padTo 16 (leBytes 1 b.fmt ++ leBytes 1 (b2n b.scl) ++ leBytes 2 b.blk) ++ tabBytes 16384 2 0 BitVec.toNat b.elem ++
    tabBytes 1024 1 0 BitVec.toNat b.scale
/-- Bytes of `bankBytes`. -/
def bankLen : Nat := 16 + 32768 + 1024
/-- Code of a verdict. -/
def Verdict.code : Verdict → Nat
  | .none => 0
  | .commit => 1
  | .discard => 2
/-- An entry of the task table, 256 B: the header, the serial, the verdict, and the tasks of the table that it is
bound to. -/
def taskBytes (ids : List Nat) (t : Task) : List Byte :=
  let b := t.bound.filter ids.contains
  padTo 256 (hdrBytes t.hdr ++ leBytes 8 t.id ++ leBytes 1 t.verdict.code ++ leBytes 1 (b2n t.drained) ++
    leBytes 1 (b2n t.first.isSome) ++ leBytes 5 b.length ++ leBytes 8 (t.first.getD 0).toNat ++ leBytes 8 t.began.toNat ++
    b.flatMap (leBytes 8))
/-- The virtual address of a device address, from the leaves of a context. -/
def vaOf (ls : List (Nat × Nat × Bool)) (da : Nat) : Nat :=
  match ls.find? fun x => pteAddr x.2.1 ≤ da && da < pteAddr x.2.1 + pageSize x.2.2 with
  | some x => x.1 + (da - pteAddr x.2.1)
  | none => 0
/-- A paddock entry, 88 B: the virtual address of its line, its task, its mask and its bytes. -/
def padEntryBytes (ls : List (Nat × Nat × Bool)) (e : PadEntry) : List Byte :=
  leBytes 8 (vaOf ls (64 * e.line)) ++ leBytes 8 e.task ++
    leBytes 8 ((e.bytes.map fun p => 2 ^ p.1).sum) ++
    (List.range 64).map fun i => (Tab.get none e.bytes i).getD 0
/-- The task table, the paddock and the held signals of a core: counts, then the entries that there can be. -/
def specBytes (ls : List (Nat × Nat × Bool)) (k : Core) : List Byte :=
  let ids := k.tasks.map (·.id)
  [k.nextTask, k.tasks.length, k.pad.length, k.held.length].flatMap (leBytes 8) ++
    padTo 2048 (k.tasks.flatMap (taskBytes ids)) ++ padTo 720896 (k.pad.flatMap (padEntryBytes ls)) ++
    padTo 1536 (k.held.flatMap fun x => leBytes 8 x.fid ++ leBytes 8 x.val.toNat ++ leBytes 8 x.task)
/-- Bytes of `specBytes`. -/
def specLen : Nat := 32 + 2048 + 720896 + 1536
/-- The architectural state of an idle core (`02` R29), with the tasks that are still completing and the paddock
entries and signals held for them. -/
def coreBytes (ls : List (Nat × Nat × Bool)) (k : Core) : List Byte :=
  tabBytes 32 8 0 BitVec.toNat k.g ++ tabBytes 8 1 false b2n k.p ++ leBytes 8 k.pc.toNat ++ leBytes 4 k.srstep.toNat ++
    leBytes 2 k.flags.toNat ++ leBytes 2 (b2n k.mx.active) ++ leBytes 4 k.mx.fill.toNat ++ leBytes 4 k.mx.use.toNat ++
    laneBytes k ++ bankBytes k.mx.bank0 ++ bankBytes k.mx.bank1 ++ tabBytes 16384 8 0 BitVec.toNat k.mx.acc ++
    tabBytes 0x480000 1 0 BitVec.toNat k.store ++ specBytes ls k
/-- Bytes of `coreBytes`. -/
def coreLen : Nat := 256 + 8 + 8 + 4 + 2 + 2 + 4 + 4 + 512 + 2 * bankLen + 131072 + 0x480000 + specLen
/-- The fences a context owns, by ID. -/
def State.ownFences (s : State) (c : Nat) : List Nat :=
  (Tab.keys s.fences).filter fun f => (s.fence f).v && (s.fence f).owner == some c
/-- The numbers of a context's KV region (`07` R182). -/
def kvNums (k : KvRegion) : List Nat := [b2n k.v, k.va, k.pages, k.df, k.dc, k.lf, k.lc, k.hs]
/-- The 64 KiB header: the status area, then words of 8 B, then 24 B for each fence that fits. -/
def State.snapHead (s : State) (c : Nat) (leaves : Nat) : List Byte :=
  let k := s.ctx c
  let fs := (s.ownFences c).take 2600
  padTo 65536 (s.statusArea c ++ (([k.cseed.toNat, k.jseed.toNat, k.ls, k.clean] ++ kvNums k.kv ++
    [(s.ctxCores c).length, leaves, fs.length]).flatMap (leBytes 8)) ++
    fs.flatMap fun f => leBytes 8 f ++ leBytes 8 (s.fence f).val.toNat ++ leBytes 8 (s.fence f).stat)
/-- The plaintext of a snapshot. -/
def State.snapStream (s : State) (c : Nat) : List Byte :=
  let ls := s.leaves c
  s.snapHead c ls.length ++ ls.flatMap s.leafBytes ++ ((s.ctxCores c).flatMap fun n => coreBytes ls (s.core n)) ++
    (ls.filter fun x => s.snapHolds x.2.1).flatMap fun x => s.readDa (pteAddr x.2.1) (pageSize x.2.2)

/-! ### Capture (R448, R450, R454) -/

/-- Where the requests of a write go. -/
def Store.dest (x : Store) (cls t : Nat) : StoreDest := { node := x.node, pmask := x.pmask, cls := cls, name := x.name, t := t }
/-- Requests leave while they can, in order; the last one of a segment, with its header, waits until every other is
durable (R452). -/
def State.pump (d : StoreDest) (ctx : Nat) : List (Nat × List Byte) → State → List (Nat × List Byte) × State
  | [], s => ([], s)
  | (a, b) :: l, s =>
      if d.cls = 2 && l.isEmpty && s.poolReqs.any fun r => r.store == some d && !r.dead then ([(a, b)], s)
      else match s.issueStore d ctx a b with
        | none => ((a, b) :: l, s)
        | some s => State.pump d ctx l s
/-- A write that has been formed sends on. The hold ends with the last line of its common shards. -/
def State.sendOn (s : State) (w : CkptWrite) (x : Store) : State :=
  match State.pump (x.dest w.cls w.t) w.ctx w.todo s with
  | (todo, s) => { s with ckpts := s.ckpts.map fun y =>
      if y = w then { y with todo := todo, captured := todo.length ≤ y.rest } else y }
/-- A write is replaced. -/
def State.setWrite (s : State) (w w' : CkptWrite) : State :=
  { s with ckpts := s.ckpts.map fun y => if y = w then w' else y }
/-- A write ends with a status. -/
def State.endWrite (s : State) (w : CkptWrite) (how : CkptEnd) : State := s.dropCkpts (fun y => y == w) how
/-- The shards of a list that a member writes, from index i on: their requests and their manifest entries. None when a
shard key is refused. -/
def State.sealAll (s : State) (ckey : BitVec 256) (h : ShardHead) (base : Nat) (mine : Nat → Bool) :
    Nat → List (List Byte) → Option ((List (Nat × List Byte) × List (List Byte)) × State)
  | _, [] => some (([], []), s)
  | i, b :: bs =>
      if mine i then
        (s.sealShard ckey { h with sidx := i } b).bind fun r =>
          (State.sealAll r.2 ckey h base mine (i + 1) bs).map fun x =>
            ((linesOf (base + i * shardStep) r.1.1 ++ x.1.1, shardEntry r.1.2 b i h.writer :: x.1.2), x.2)
      else State.sealAll s ckey h base mine (i + 1) bs
/-- A model checkpoint is formed: the common shards of the member's rank, then its member record, which lies behind the
common shards (log 34). The capture fence is signalled once the record's sources have been read. -/
def State.formModel (s : State) (w : CkptWrite) (x : Store) (h : Herd) (key : BitVec 256) : State :=
  let g := w.g
  match s.ckptStream h w.narrow with
  | .wait s => s
  | .lost s _ => s.endWrite w .store
  | .ok s common => match s.readExtents w.ctx w.extents with
    | .wait s => s
    | .lost s _ => s.endWrite w .extent
    | .ok s data =>
        let parts := shardsOf (common.length / 2 ^ 30 + 1) common
        let n := h.rcd.live.length
        let r := h.rank h.self
        let base := x.sbase.getD (g % 3) 0
        let head : ShardHead := { g := g, step := w.s.getD 0, cls := 0, kind := 0, writer := h.self }
        if x.ssz < (parts.length + n) * shardStep + 2 ^ 24 then s.endWrite w .space
        else
          let rcd := s.memberRec w.ctx w.extents data
          let made := (s.sealAll key head base (fun i => i % n == r) 0 parts).bind fun c =>
            (c.2.sealShard key { head with kind := 1, sidx := h.self } rcd).map fun m => ((c.1, m.1), m.2)
          match made with
          | none => s.keyRefused.endWrite w .store
          | some (y, s) =>
              let c := y.1
              let m := y.2
              let tail := linesOf (base + (parts.length + r) * shardStep) m.1
              let w' : CkptWrite := { w with
                formed := true, todo := c.1 ++ tail, rest := tail.length, entries := c.2, nsh := parts.length
                member := s.memberEntry h.self rcd.length (digBytes m.2) }
              ((s.setWrite w w').signal w.fid w.val 0).sendOn w' x
/-- A snapshot is formed; the module writes every shard (R454). -/
def State.formSnap (s : State) (w : CkptWrite) (x : Store) (key : BitVec 256) : State :=
  let g := w.g
  let all := s.snapStream w.ctx
  let parts := shardsOf (all.length / 2 ^ 30 + 1) all
  if x.ssz < parts.length * shardStep + 2 ^ 24 then s.endWrite w .space
  else match s.sealAll key { g := g, cls := 1, kind := 3 } (x.sbase.getD (g % 3) 0) (fun _ => true) 0 parts with
    | none => s.keyRefused.endWrite w .store
    | some (c, s) =>
        let w' : CkptWrite := { w with formed := true, todo := c.1, entries := c.2, nsh := parts.length
                                       member := s.memberEntry 0 0 (List.replicate 32 0) }
        (s.setWrite w w').sendOn w' x
/-- The record groups are those of the capture step, and the chain has taken it (R441, R448). -/
def State.atCapture (s : State) (w : CkptWrite) (h : Herd) : Bool :=
  w.s == some s.learn.t && s.learn.committed && s.learn.rootDue.isNone && some h.rootT == w.s
/-- The writes that have work to do: a model checkpoint at its capture step first, then a snapshot. -/
def State.nextWrite (s : State) : Option CkptWrite :=
  (s.ckpts.find? fun w => w.cls == 0 && w.s.isSome && !w.reported).orElse fun _ =>
    s.ckpts.find? fun w => w.cls == 1 && !w.reported
/-- CHECKPOINT_CAPTURE (R448, R454): `g` is the generation that the Bellwether announces; the Bellwether, and the module
that writes a snapshot, read CUR themselves. The row is reached again while requests wait. A member without a request
at a step of a digest exchange reports MISSING, under a header code that is not given (log 34). -/
def execCheckpointCapture (g : GenFrom) (s : State) : Out :=
  .next (if s.dev != .ready then s
    else match s.nextWrite with
      | none => (match s.bindHerd with
          | some h =>
              if s.learn.committed && s.learn.t != 0 && s.learn.kcount % max 1 h.k == 0 && h.rcd.bell != h.self &&
                  !(s.ckpts.any fun w => w.cls == 0 && w.ctx == s.learn.ctx) then
                s.ofEpoch h g.epoch.toNat fun s => s.toMember h h.rcd.bell { opc := 0x4A, step := g.g.toNat % 2 ^ 48 }
              else s
          | none => s)
      | some w => match s.store? (s.ctx w.ctx).chd w.cls w.name with
        | none => s.endWrite w .store
        | some x =>
            if w.formed then s.sendOn w x
            else match s.ckey w.ctx with
              | none => (s.loseKey w.ctx).endWrite w .store
              | some key =>
                  let next := s.coordWord x 0 % 2 ^ 48 + 1
                  if w.cls = 1 then
                    let w' : CkptWrite := { w with g := next }
                    (s.setWrite w w').formSnap w' x key
                  else match s.bindHerd with
                    | none => s
                    | some h =>
                        let w' : CkptWrite := { w with g := if h.rcd.bell = h.self then next else g.g.toNat % 2 ^ 48 }
                        if h.rcd.bell != h.self && g.epoch.toNat != h.rcd.epoch then s.ofEpoch h g.epoch.toNat id
                        else if s.atCapture w h then (s.setWrite w w').formModel w' x h key else s)

/-! ### The manifest and the flip (R446, R449, R450) -/

/-- `n` bytes that another member forms: free (log 1). -/
def State.freeBytes (s : State) (n : Nat) : List Byte × State :=
  match s.free (8 * n) with
  | (f, s) => (leBytes n f.toNat, s)
/-- The shard entries in SIDX order: this member's own, and those of others. -/
def State.allEntries (s : State) (own : List (List Byte)) (live : List Nat) : Nat → Nat → List Byte × State
  | 0, _ => ([], s)
  | n + 1, i =>
      let x : List Byte × State := match own.find? fun e => leAt e 48 4 == i with
        | some e => (e, s)
        | none => match s.freeBytes 48 with
          | (f, s) => (f ++ leBytes 4 i ++ leBytes 2 (live.getD (i % max 1 live.length) 0) ++ [0, 0] ++ leBytes 8 (2 ^ 30), s)
      match State.allEntries x.2 own live n (i + 1) with
      | (l, s) => (x.1 ++ l, s)
/-- The member entries in index order. -/
def State.allMembers (s : State) (own : List Byte) (self : Nat) (nodes : List Nat) : List Nat → List Byte × State
  | [] => ([], s)
  | m :: l =>
      let x : List Byte × State := if m = self then (own, s)
        else match s.freeBytes 136 with
          | (f, s) => (leBytes 2 m ++ leBytes 2 (nodes.getD m 0) ++ List.replicate 4 0 ++ f ++ List.replicate 16 0, s)
      match State.allMembers x.2 own self nodes l with
      | (b, s) => (x.1 ++ b, s)
/-- The signatures in member-entry order. -/
def State.allSigs (s : State) (own : List Byte) (self : Nat) : List Nat → List Byte × State
  | [] => ([], s)
  | m :: l =>
      let x : List Byte × State := if m = self then (own, s) else s.freeBytes 64
      match State.allSigs x.2 own self l with
      | (b, s) => (x.1 ++ b, s)
/-- The body of a manifest. The sizes of other members' shards are those of whole shards, the last one's free. -/
def State.manifestBody (s : State) (w : CkptWrite) (h : Option Herd) : List Byte × State :=
  let live := match h with | some h => h.rcd.live | none => [0]
  let self := match h with | some h => h.self | none => 0
  let nodes := match h with | some h => h.nodes | none => [s.node]
  let head := leBytes 4 1 ++ leBytes 1 w.cls ++ leBytes 1 (b2n w.narrow) ++ [0, 0] ++ leBytes 8 w.g ++ leBytes 8 (w.s.getD 0) ++
    digBytes (s.ctx w.ctx).chd ++ (match h with | some h => leBytes 4 h.hid ++ leBytes 4 w.epoch | none => List.replicate 8 0) ++
    leBytes 8 (if w.cls = 0 then s.learn.params else w.ctx) ++ leBytes 4 w.nsh ++ leBytes 2 live.length ++ [0, 0] ++
    (match h with | some h => digBytes h.chain | none => List.replicate 32 0) ++ List.replicate 16 0
  match s.allEntries w.entries live w.nsh 0 with
  | (es, s) => match s.allMembers w.member self nodes live with
    | (ms, s) => (head ++ es ++ ms, s)
/-- The MAC of a manifest: the first 16 B of HMAC-SM3 under a key derived from CKEY. -/
def manifestMac (ckey : BitVec 256) (chd : BitVec 256) (g : Nat) (body : List Byte) : List Byte :=
  (digBytes (hmac (BitVec.ofNat 256 (kdf ckey "STRELNO MANIFEST" (digBytes chd ++ beBytes 8 g) 256)) body)).take 16
/-- A PATOM that sets CUR from G − 1 to G leaves, and the write ends with its response. With no port left it ends at once. -/
def State.flipCur (s : State) (w : CkptWrite) (x : Store) : State :=
  if (s.storePort x.pmask).isNone then s.endWrite w .store
  else
    let w' : CkptWrite := { w with flip := true }
    (s.setWrite w w').patom x { node := x.node, pmask := x.pmask, cls := w.cls, name := w.name } w.ctx 0 (w.g - 1) w.g
/-- The manifest is written 16 MiB before the end of its slot, and then CUR is set to G. -/
def State.flip (s : State) (w : CkptWrite) (x : Store) (key : BitVec 256) (h : Option Herd) : State :=
  match s.manifestBody w h with
  | (body, s) =>
      let sig := Config.sm2sign (s.kslot 4).value (ascii "STRELNO CHECKPOINT") (digBytes (Config.sm3 body))
      match s.allSigs sig (match h with | some h => h.self | none => 0) (match h with | some h => h.rcd.live | none => [0]) with
      | (sigs, s) =>
          let all := body ++ manifestMac key (s.ctx w.ctx).chd w.g body ++ sigs
          let at_ := 2 ^ 48 * x.node + x.sbase.getD (w.g % 3) 0 + x.ssz - 2 ^ 24
          ({ s with poolMem := putBytes s.poolMem at_ all }).flipCur w x
/-- CHECKPOINT_FLIP (R449, R450): the write of generation `g` ends. The Bellwether, or the module that writes a
snapshot, writes the manifest and sets CUR; other members hear of it. A Bellwether whose digest exchange has not decided
waits. The manifest is durable at once (log 34), and the write ends with the response of the PATOM. -/
def execCheckpointFlip (g : GenFrom) (how : CkptEnd) (s : State) : Out :=
  .next (match s.dev == .ready, s.ckpts.find? fun w => w.cls < 2 && w.formed && w.g == g.g.toNat with
    | true, some w => (match how, s.store? (s.ctx w.ctx).chd w.cls w.name with
        | .ok, some x =>
            if !w.reported || w.flip then s
            else if w.cls = 1 then
              (match s.ckey w.ctx with
              | some key => s.flip w x key none
              | none => (s.loseKey w.ctx).endWrite w .store)
            else match s.bindHerd, s.ckey w.ctx with
              | some h, some key =>
                  if h.rcd.bell != h.self then s.ofEpoch h g.epoch.toNat fun s => (s.knowCoord x.node x.coord w.g).endWrite w .ok
                  else if h.digests.any fun d => d.1 == h.self then s
                  else s.flip w x key (some h)
              | _, _ => (s.loseKey w.ctx).endWrite w .store
        | .ok, none => s.endWrite w .store
        | how, _ => s.endWrite w how)
    | true, none => (match how with
        | .ok => s
        | how => match s.ckpts.find? fun w => w.cls == 0 && w.s.isSome && !w.formed with
          | some w => s.endWrite w how
          | none => s)
    | _, _ => s)
/-- CHECKPOINT_TIMEOUT (R450): no flip 300 s after the capture step. -/
def execCheckpointTimeout (s : State) : Out :=
  .next (match s.dev == .ready, s.ckpts.find? fun w => w.cls == 0 && w.s.isSome with
    | true, some w => s.endWrite w .timeout
    | _, _ => s)

/-! ### The difference stream (R451, R452) -/

/-- An entry of the stream: 272 B. -/
def diffEntry (e : Nat × Nat × List Byte) : List Byte := leBytes 8 e.1 ++ leBytes 8 e.2.1 ++ padTo 256 e.2.2
/-- Bytes of a segment slot; slots are whole lines (log 34). -/
def Store.segSize (x : Store) (n : Nat) : Nat :=
  let lane := x.strmsz / max 1 n / 2 ^ 21 * 2 ^ 21
  lane / max 1 x.segn / 128 * 128
/-- First node address of the slot of step t in lane i of n. -/
def Store.segAt (x : Store) (n i t : Nat) : Nat :=
  x.strm + i * (x.strmsz / max 1 n / 2 ^ 21 * 2 ^ 21) + t % max 1 x.segn * x.segSize n
/-- STREAM_SEGMENT (R452): the segment of the oldest step that is due is formed and sent, its first line with the header
last; the row is reached again while requests wait. With `ok` false the write has failed. A segment that fails, that
lost an entry or that overflows its slot is not completed, and FLOOR is raised to its step. -/
def execStreamSegment (ok : Bool) (s : State) : Out :=
  .next (match s.dev == .ready, s.bindHerd with
    | true, some h => (match s.ckpts.find? fun w => w.cls == 2, s.store? h.chd 0 (w64 h.hid), s.learn.segDue with
      | some w, some x, _ => if ok then s.sendOn w x else s.endWrite w .store
      | some w, none, _ => s.endWrite w .store
      | none, none, (t, _) :: l =>
          { s with learn := { s.learn with segDue := l }, dstream := s.dstream.filter fun e => e.1 != t }
      | none, some x, (t, whole) :: l =>
          let es := s.dstream.filter fun e => e.1 == t
          let s : State := { s with learn := { s.learn with segDue := l }, dstream := s.dstream.filter fun e => e.1 != t }
          let n := h.nodes.length
          let plain := es.flatMap diffEntry
          let size := 64 + plain.length + 16 * ceilDiv plain.length 65536
          if !ok || !whole || x.segSize n < size then s.raiseFloor x s.learn.ctx t
          else match s.ckey s.learn.ctx with
            | none => (s.loseKey s.learn.ctx).raiseFloor x s.learn.ctx t
            | some key => match s.sealShard key { step := t, sidx := es.length, kind := 2, writer := h.self, mep := h.rcd.epoch
                                                  rank := h.rank h.self, nl := h.rcd.live.length - 1 } plain with
              | none => s.keyRefused.raiseFloor x s.learn.ctx t
              | some (b, s) =>
                  let a := x.segAt n h.self t
                  let w : CkptWrite := { ctx := s.learn.ctx, cls := 2, name := w64 h.hid, t := t, formed := true
                                         todo := linesOf (a + 128) (b.1.drop 128) ++ [(a, b.1.take 128)] }
                  ({ s with ckpts := s.ckpts ++ [w] }).sendOn w x
      | none, _, [] => s)
    | _, _ => s)

end Sys2Proof.Machine
end

