-- ==== Sys2Proof/Machine/Restore.lean ====
section
/-! DEFINITION. Restoring a model checkpoint into a learning binding, and a snapshot into a context
(`19` R455–R457). -/

namespace Sys2Proof.Machine

/-! ### What is restored (R456) -/

/-- The choice of *Restore order*: step, chained digest and plaintext; none is NOCKPT. -/
def restoreChoice (r : RestoreIn) : Option (Nat × BitVec 256 × List Byte) :=
  if r.manifest && (r.shards || r.rolls) then some r.cur
  else if r.prev then some r.old
  else none

/-! ### A model checkpoint (R457) -/

/-- Bytes of the moments of a record group in the stream. -/
def Group.momentLen (g : Group) (narrow : Bool) : Nat := if g.mbf || narrow then 256 else 512
/-- Offset of the moments of record group rg from the start of the moments section. -/
def momentOff (narrow : Bool) : List Group → Nat → Nat
  | [], _ => 0
  | g :: gs, rg =>
      if 64 * rg < g.pfirst + g.pcount then g.momentLen narrow * (rg - g.pfirst / 64)
      else g.momentLen narrow * (g.pcount / 64) + momentOff narrow gs rg
/-- Bytes of the whole stream. -/
def Learn.streamLen (l : Learn) (narrow : Bool) : Nat :=
  65536 + 4 * l.params + (l.groups.map fun g => g.momentLen narrow * (g.pcount / 64)).sum +
    (l.groups.map fun g => if g.rule = 7 then g.factorLen else 0).sum
/-- BF16 moments widened exactly. -/
def widened : Nat → List Byte → List Byte
  | 0, _ => []
  | n + 1, b => [0, 0] ++ padTo 2 (b.take 2) ++ widened n (b.drop 2)
/-- A record group as R457 forms it. -/
def Learn.recFrom (l : Learn) (t : Nat) (b : List Byte) (narrow : Bool) (gi : Nat) (g : Group) (rg : Nat) : List Byte :=
  let head := leBytes 8 0 ++ leBytes 2 gi ++ leBytes 1 g.rule ++ leBytes 1 (b2n g.mbf) ++ leBytes 4 0 ++ leBytes 8 (64 * rg) ++
    List.replicate 40 0
  let w := padTo 256 ((b.drop (65536 + 256 * rg)).take 256)
  let m := (b.drop (65536 + 4 * l.params + momentOff narrow l.groups rg)).take (g.momentLen narrow)
  resealRec t (head ++ w ++ (if narrow && !g.mbf then widened 128 m else padTo (g.recSize - 320) m))
/-- Record groups and their working copies are written, from `rg` on. -/
def State.putRecs (s : State) (b : List Byte) (narrow : Bool) : Nat → Nat → Res Unit
  | 0, _ => .ok s ()
  | n + 1, rg =>
      let l := s.learn
      match l.groupOf rg with
      | none => .ok s ()
      | some (gi, g) =>
          let x := l.recFrom l.t b narrow gi g rg
          (s.writeVa 725 l.ctx (l.recVa rg) x).bind fun s _ => (s.putWork 725 g rg x).bind fun s _ => s.putRecs b narrow n (rg + 1)
/-- The factor tables are written, their trailers at the step. -/
def State.putFactors (s : State) (t : Nat) : List Group → List Byte → Res Unit
  | [], _ => .ok s ()
  | g :: gs, b =>
      if g.rule = 7 then
        (s.writeVa 725 s.learn.ctx g.fbase (padTo (g.factorLen - 64) (b.take (g.factorLen - 64)) ++ leBytes 8 t ++ List.replicate 56 0)).bind
          fun s _ => s.putFactors t gs (b.drop g.factorLen)
      else s.putFactors t gs b
/-- Counters and SR steps of a member record go to the cores in ascending number. -/
def State.putLanes (s : State) (rcd : List Byte) (head : Nat) : List Nat → Nat → State
  | [], _ => s
  | n :: l, i =>
      (s.updCore n fun k => { k with
        srstep := BitVec.ofNat 32 (leAt rcd (16 + 4 * i) 4)
        lane := (List.range 64).foldl (fun t j => Tab.set 0 t j (w64 (leAt rcd (head + 512 * i + 8 * j) 8))) [] }).putLanes rcd head l (i + 1)
/-- Extents of a member record: the list at `o`, the bytes at `d`. -/
def State.putExtents (s : State) (c : Nat) (rcd : List Byte) : Nat → Nat → Nat → Res Unit
  | 0, _, _ => .ok s ()
  | n + 1, o, d =>
      let len := leAt rcd (o + 8) 8
      (s.writeVa 725 c (leAt rcd o 8) (padTo len ((rcd.drop d).take len))).bind fun s _ => s.putExtents c rcd n (o + 16) (d + len)
/-- A member record is given back to the context, laid out as `State.memberRec` forms it (R443). -/
def State.putMember (s : State) (c : Nat) (rcd : List Byte) : Res Unit :=
  let n := leAt rcd 8 4
  let x := leAt rcd 12 4
  let head := ceilDiv (16 + 4 * n) 64 * 64
  let lists := head + 512 * n
  (s.putLanes rcd head ((s.ctxCores c).take n) 0).putExtents c rcd (min x 16) lists (lists + 16 * x)
/-- The restore of a chosen step (R457). The exponent of the loss scale is read from its FP32 form. -/
def State.putModel (s : State) (t : Nat) (chain : BitVec 256) (b rcd : List Byte) : Res Unit :=
  let l := s.learn
  let narrow := b.length == l.streamLen true && b.length != l.streamLen false
  let s := s.updLearn fun l => { l with
    t := t, vcode := .commit, final := true, committed := true, sealed := true, restored := true, fail := 0, round := 0, clipc := 0
    kcount := leAt b 8 8, mu := word32 b 56, sig2 := word32 b 64, monInit := true }
  (s.putRecs b narrow s.learn.recs 0).bind fun s _ =>
    (s.putFactors t l.groups (b.drop (l.streamLen narrow - (l.groups.map fun g => if g.rule = 7 then g.factorLen else 0).sum))).bind fun s _ =>
      (s.putMember l.ctx rcd).bind fun s _ =>
        let s := s.updCtx l.ctx fun k => { k with ls := min 32 (leAt b 32 8 / 2 ^ 23 - 127), clean := leAt b 40 8 }
        let s := match s.bindHerd with
          | some h => s.updHerd h.hid fun h => { h with chain := chain }
          | none => s
        .ok (s.putScb.putStatus l.ctx) ()
/-- CKPT.RESTORE (R456, R457): `r` is what the store holds, and `memberRec` the record that W0 names. It replaces
LEARN.SEAL: the SCB and the group table must be legal, and P and GCOUNT those of the checkpoint. A member that cannot
verify the choice withdraws. -/
def execCkptRestore (c : MbxCall) (r : RestoreIn) (s : State) : Out :=
  .next (mailbox c (fun a => { opc := 0x52, masks := [lowMask 24], names := [(0, argCtx a 0)], ctxs := [argCtx a 0]
                               always := false, bad := false, free := false })
    (fun a s =>
      let i := argCtx a 0
      if !s.learn.bound || s.learn.ctx != i || !s.learn.committed then (s, .refused 0)
      else if s.mayCkpt i && (s.ckey i).isNone then (s.loseKey i, .done stLost [])
      else match s.readScb with
        | (none, s) => (s, .refused 0)
        | (some (b, g), s) =>
            let found := if (s.ckey i).isSome && s.stores.any (fun x => x.chd == (s.ctx i).chd && x.cls == 0) then restoreChoice r else none
            match found with
            | none => (match s.bindHerd with
                | some h => if h.rcd.bell = h.self then (s, .done stNockpt []) else (s.quitHerd h.hid, .done stNockpt [])
                | none => (s, .done stNockpt []))
            | some (t, chain, plain) =>
                let s1 := s.updLearn fun l => { l with scb := b, groups := g }
                if leAt plain 16 8 != s1.learn.params || leAt plain 24 8 != g.length then (s, .refused 0)
                else match s1.putModel t chain plain r.memberRec with
                  | .ok s _ => (s, ok)
                  | .lost s cause => (s.lose i cause, .done stLost [])
                  | .wait s => (s, .wait .queued)) s)

/-! ### A snapshot (R455) -/

/-- A table of `n` entries of `w` B from its bytes. -/
def tabFrom {α : Type} [DecidableEq α] (n w : Nat) (d : α) (f : Nat → α) (b : List Byte) : Tab α :=
  (List.range n).foldl (fun t i => Tab.set d t i (f (leAt b (w * i) w))) []
/-- A bank from its bytes. -/
def bankFrom (b : List Byte) : Bank :=
  { fmt := leAt b 0 1, scl := leAt b 1 1 == 1, blk := leAt b 2 2, elem := tabFrom 16384 2 0 (BitVec.ofNat 16) (b.drop 16)
    scale := tabFrom 1024 1 0 (BitVec.ofNat 8) (b.drop 32784) }
/-- An entry of the task table from its 256 bytes. -/
def taskFrom (b : List Byte) : Task :=
  { id := leAt b 128 8, hdr := hdrOf (b.take 128), isOpen := false
    verdict := if leAt b 136 1 = 1 then .commit else if leAt b 136 1 = 2 then .discard else .none
    drained := leAt b 137 1 == 1, first := if leAt b 138 1 = 1 then some (w64 (leAt b 144 8)) else none
    began := w64 (leAt b 152 8), bound := (List.range (min 8 (leAt b 139 5))).map fun i => leAt b (160 + 8 * i) 8 }
/-- Where a virtual address is mapped now, or address 0. -/
def State.placeOf (s : State) (c va : Nat) : Nat :=
  match s.rawLeaf c va with
  | some (_, e, big) => pteAddr e + va % pageSize big
  | none => 0
/-- A paddock entry from its 88 bytes. -/
def State.padEntryFrom (s : State) (c : Nat) (b : List Byte) : PadEntry :=
  { line := s.placeOf c (leAt b 0 8) / 64, task := leAt b 8 8
    bytes := ((List.range 64).filter fun i => (leAt b 16 8).testBit i).map fun i => (i, some (b.getD (24 + i) 0)) }
/-- The task table, paddock and held signals of a core, laid out as `specBytes`. -/
def State.specFrom (s : State) (c : Nat) (k : Core) (b : List Byte) : Core :=
  let entries (n w o : Nat) : List (List Byte) := (List.range n).map fun i => (b.drop (o + w * i)).take w
  { k with
    nextTask := leAt b 0 8
    tasks := (entries (min 8 (leAt b 8 8)) 256 32).map taskFrom
    pad := (entries (min 8192 (leAt b 16 8)) 88 2080).map (s.padEntryFrom c)
    held := (entries (min 64 (leAt b 24 8)) 24 722976).map fun x =>
      { fid := leAt x 0 8, val := w64 (leAt x 8 8), task := leAt x 16 8 } }
/-- An idle core from its bytes, laid out as `coreBytes`. -/
def coreFrom (b : List Byte) : Core :=
  let m := b.drop 800
  { g := tabFrom 32 8 0 (BitVec.ofNat 64) b, p := tabFrom 8 1 false (fun x => x == 1) (b.drop 256)
    pc := BitVec.ofNat 48 (leAt b 264 8), srstep := BitVec.ofNat 32 (leAt b 272 4), flags := BitVec.ofNat 16 (leAt b 276 2)
    lane := tabFrom 64 8 0 (BitVec.ofNat 64) (b.drop 288)
    mx := { active := leAt b 278 2 == 1, fill := BitVec.ofNat 32 (leAt b 280 4), use := BitVec.ofNat 32 (leAt b 284 4)
            bank0 := bankFrom m, bank1 := bankFrom (m.drop bankLen), acc := tabFrom 16384 8 0 (BitVec.ofNat 60) (m.drop (2 * bankLen)) }
    store := tabFrom 0x480000 1 0 (BitVec.ofNat 8) (m.drop (2 * bankLen + 131072)) }
/-- A granule of a D- or L-tier unit that a context takes: the lowest free one of the lowest unit that has one. -/
def State.takeGranule (s : State) (c : Nat) : Option (Nat × State) :=
  (((List.range 12).filter fun u => 8 ≤ u || s.dieFitted u).findSome? fun u => s.freeRun u 1).map fun g =>
    (g, s.ownRun g 1 (BitVec.ofNat 16 c))
/-- Every page of a snapshot that is no KV page is mapped at its VA, in granules of the D- and L-tier; `cur` is the
granule that small pages are filling and how many it holds. Answers the place of each page. -/
def State.mapPages (c : Nat) : List (Nat × Nat) → Option (Nat × Nat) → State → Option (List Nat × State)
  | [], _, s => some ([], s)
  | (va, f) :: l, cur, s =>
      let perms := f / 8 % 8 * 8
      let go (da : Nat) (big : Bool) (cur : Option (Nat × Nat)) (s : State) : Option (List Nat × State) :=
        (State.putLeaves c big [(va, da + perms + 3)] s).bind fun s => (State.mapPages c l cur s).map fun r => (da :: r.1, r.2)
      if f.testBit 6 then
        (State.mapKv c perms [va] s).bind fun s => (State.mapPages c l cur s).map fun r =>
          ((match s.rawLeaf c va with | some (_, e, _) => pteAddr e | none => 0) :: r.1, r.2)
      else if f.testBit 0 then (s.takeGranule c).bind fun x => go (2 ^ 21 * x.1) true cur x.2
      else match cur with
        | some (g, k) => if k < 32 then go (2 ^ 21 * g + 2 ^ 16 * k) false (some (g, k + 1)) s
            else (s.takeGranule c).bind fun x => go (2 ^ 21 * x.1) false (some (x.1, 1)) x.2
        | none => (s.takeGranule c).bind fun x => go (2 ^ 21 * x.1) false (some (x.1, 1)) x.2
/-- The contents of the pages that hold them. -/
def State.putPages (s : State) : List ((Nat × Nat) × Nat) → List Byte → State
  | [], _ => s
  | ((_, f), da) :: l, b =>
      if f.testBit 8 then
        let n := pageSize (f.testBit 0)
        (s.writeDa da (padTo n (b.take n))).putPages l (b.drop n)
      else s.putPages l b
/-- The words of the header after the status area. -/
def snapWord (b : List Byte) (i : Nat) : Nat := leAt b (1024 + 8 * i) 8
/-- The KV region of a snapshot. -/
def snapKv (b : List Byte) : KvRegion :=
  { v := snapWord b 4 == 1, va := snapWord b 5, pages := snapWord b 6, df := snapWord b 7, dc := snapWord b 8, lf := snapWord b 9
    lc := snapWord b 10, hs := snapWord b 11 }
/-- The fences that a snapshot holds. -/
def snapFences (b : List Byte) : List (Nat × Nat × Nat) :=
  (List.range (min (snapWord b 14) 2600)).map fun j =>
    (leAt b (1144 + 24 * j) 8, leAt b (1152 + 24 * j) 8, leAt b (1160 + 24 * j) 8)
/-- The pages that a snapshot lists. -/
def snapLeaves (b : List Byte) : List (Nat × Nat) :=
  (List.range (snapWord b 13)).map fun j => (leAt b (65536 + 16 * j) 8, leAt b (65544 + 16 * j) 8)
/-- What a snapshot says of a context. -/
def Ctx.fromSnap (k : Ctx) (b : List Byte) : Ctx :=
  { k with
    cseed := w64 (snapWord b 0), jseed := w64 (snapWord b 1), ls := snapWord b 2, clean := snapWord b 3
    kv := if (snapKv b).v then snapKv b else k.kv }
/-- The cores of a snapshot, one after another in `b`. -/
def State.putCores (s : State) (c : Nat) (l : List Nat) (b : List Byte) : State :=
  l.zipIdx.foldl (fun s e =>
    let x := (b.drop (coreLen * e.2)).take coreLen
    s.setCore e.1 (s.specFrom c (coreFrom x) (x.drop (coreLen - specLen)))) s
/-- The fences, cores, pages and status of a context from a snapshot; `das` are the places of its pages. -/
def State.putSnap (s : State) (c : Nat) (b : List Byte) (das : List Nat) : State :=
  let n := snapWord b 12
  let s := (snapFences b).foldl (fun s f => s.updFence f.1 fun _ => { v := true, val := w64 f.2.1, stat := f.2.2, owner := some c }) s
  let cores := b.drop (65536 + 16 * snapWord b 13)
  let s := s.putCores c ((s.ctxCores c).take n) cores
  (s.putPages ((snapLeaves b).zip das) (cores.drop (coreLen * n))).putStatus c
/-- SNAP.RESTORE (R455): into a resident context whose cores are idle. The check that the context is bound to the entry
of the snapshot is part of what `r` says verifies (log 34). -/
def execSnapRestore (c : MbxCall) (r : RestoreIn) (s : State) : Out :=
  .next (mailbox c (fun a => { opc := 0x54, masks := [lowMask 12, allMask], names := [(0, argCtx a 0)], ctxs := [argCtx a 0]
                               always := false, bad := false, free := false })
    (fun a s =>
      let i := argCtx a 0
      if (s.ctx i).st != .resident || (s.ctx i).entry.isNone || (s.ctxCores i).any fun n => (s.core n).run == .running then
        (s, .refused 0)
      else if s.mayCkpt i && (s.ckey i).isNone then (s.loseKey i, .done stLost [])
      else match (if (s.ckey i).isSome && (s.store? (s.ctx i).chd 1 (argAt a 1)).isSome then restoreChoice r else none) with
        | none => (s, .done stNockpt [])
        | some (_, _, b) =>
            if (s.ctxCores i).length < snapWord b 12 then (s, .refused 0)
            else if ((snapFences b).any fun f => (s.fence f.1).v) || ((snapKv b).v && s.kvBad i (snapKv b)) ||
                ((snapLeaves b).any fun l => s.mapped i (l.2.testBit 0) l.1) then (s, .done stBusy [])
            else match State.mapPages i (snapLeaves b) none (s.updCtx i fun k => k.fromSnap b) with
              | none => (s, .done stBusy [])
              | some (das, s') => (s'.putSnap i b das, ok)) s)

end Sys2Proof.Machine
end

