-- ==== Sys2Proof/Machine/Abort.lean ====
section
/-! DEFINITION. The abort of a lost or destroyed context (`14` R362–R364). -/

namespace Sys2Proof.Machine

/-! ### Destruction (R362, `25` R567) -/

/-- The cores of a context stop, with their paddocks cleared (R362 step 1). -/
def State.stopCores (s : State) (c : Nat) : State := (s.ctxCores c).foldl (fun s n => s.updCore n Core.stopped) s
/-- The abort of a context that its owners or its driver ends: ABORTING, with its cores stopped. -/
def State.startAbort (s : State) (c : Nat) : State :=
  match (s.ctx c).st with
  | .idle => (s.stopCores c).setCtxState c .aborting
  | .resident => (s.stopCores c).setCtxState c .aborting
  | .lost => s.setCtxState c .aborting
  | _ => s
/-- CTX.DESTROY (R362, `25` R567): it never waits, and completes at once; the abort runs in its own rows. -/
def execCtxDestroy (c : MbxCall) (s : State) : Out :=
  .next (mailbox c (fun _ => { opc := 0x03, masks := [lowMask 12], names := [], ctxs := [], always := false, bad := false, free := true })
    (fun a s =>
      if (s.ctx (argCtx a 0)).st = .free then (s, .done stNoctx []) else (s.startAbort (argCtx a 0), ok)) s)

/-! ### Steps 1 to 3 (R362) -/

/-- Commands held on the context complete: a pending UNMAP or PROTECT with OK, every other with ABORTED, or with LOST
while the context is LOST (`25` R567). -/
def State.endHeld (s : State) (c : Nat) : State :=
  let st := if (s.ctx c).st = .lost then stLost else stAborted
  (List.range 8).foldl (fun s ch =>
    let k := s.chan ch
    if !k.active || k.wait == .no || !k.names.contains (0, c) then s
    else match k.wait with
      | .map x _ free _ => if x = c then (s.freePages free).complete ch stOk 0 [] else s.complete ch st 0 []
      | _ => s.complete ch st 0 []) s
/-- A packet in progress ends: a fence of another context and its event report the failure, as R363 states of packets
that are not taken (log 33). -/
def State.failPacket (s : State) (c qn : Nat) (x : Packet) : State :=
  let s := match x.sig with
    | some (f, v) => if (s.fence f).v && (s.fence f).owner.isSome && (s.fence f).owner != some c then s.signal f v 2 else s
    | none => s
  if x.ev then s.event c 2 x.cookie (at64 qn 60 ||| w64 x.n) else s
/-- Every packet in progress of a context ends. -/
def State.endPackets (s : State) (c : Nat) : State :=
  let s := (s.ctx c).queues.foldl (fun s e => e.2.prog.foldl (fun s x => s.failPacket c e.1 x) s) s
  s.updCtx c fun k => { k with queues := k.queues.map fun e => (e.1, { e.2 with prog := [], waiting := false, waitF := none, since := none }) }
/-- Chains, window fills, loads and page moves of a context are cancelled, with its requests that wait and its rekey. -/
def State.cancelWork (s : State) (c : Nat) : State :=
  let s := (s.ctxClusters c).foldl (fun s k => s.updCluster k fun x => { x with dma := [] }) s
  let s := (s.ctxCores c).foldl (fun s n => s.updCore n fun k => { k with wins := [], loads := [], mx := { k.mx with ops := [] } }) s
  let s := s.dropMoves fun m => m.ctx == c
  let s := (s.dropCkpts (fun w => w.ctx == c && w.cls != 1) .member).dropCkpts (fun w => w.ctx == c) .store
  let ts := (List.range 13).filter fun t => (Tab.get {} s.rekeyJobs t).act && (Tab.get {} s.rekeyJobs t).ctx == c
  let s := { s with
    runAhead := s.runAhead.map fun e => (e.1, e.2.filter fun r => r.ctx != c)
    promos := s.promos.filter fun p => p.1.1 != c
    retry := s.retry.filter fun r => r.req.init == 724 || r.req.acts != c || s.initCtx r.req.init r.req.ctx r.req.da != some c
    dramQ := s.dramQ.filter fun r => r.acts != c
    dramOut := s.dramOut.filter fun r => r.acts != c
    movWaits := s.movWaits.filter fun w => w.2.1 != c
    xfers := s.xfers.filter fun x => x.ctx != c
    rekeyQ := s.rekeyQ.filter fun q => q.2 != c
    rekeyJobs := ts.foldl (fun t i => Tab.set {} t i {}) s.rekeyJobs }
  ((ts.foldl State.startJob s).updCtx c fun k => { k with rekey := none }).endExports (s.ctx c).chd
/-- Handoff channels of a context break; records that it posted are delivered first, as the sink ring takes them, while the
memory of their rings is the context's (`10` R250, log 28). -/
def State.endHandoffs (s : State) (c : Nat) : State :=
  (List.range 256).foldl (fun s ch =>
    let h := s.handoff ch
    if !h.isOpen then s
    else if h.prodEnd && h.prod == c then s.loseProducer ch
    else if h.consEnd && h.cons == c then s.breakChannel ch else s) s
/-- Collective channels of a context are unbound. -/
def State.endColls (s : State) (c : Nat) : State :=
  { s with colls := (List.range 16).foldl (fun t i => Tab.upd {} t i fun k => if k.bound && k.ctx == c then {} else k) s.colls }.fillShadow
/-- The member withdraws from the herds of a context, and its learning binding ends. -/
def State.endLearning (s : State) (c : Nat) : State :=
  let hs := (s.herds.filter fun h => h.ctx == c || (s.learn.bound && s.learn.ctx == c && (match s.bindHerd with
    | some x => x.hid == h.hid
    | none => false))).map (·.hid)
  let s := hs.foldl State.quitHerd s
  if s.learn.bound && s.learn.ctx == c then s.endBinding else s
/-- Every target swaps out the context's entries; its reads of the host and its pool requests are answered locally, and
their tags stay held. -/
def State.swapOut (s : State) (c : Nat) : State :=
  let s := (s.ctxClusters c).foldl (fun s k => s.grantCluster k {}) s
  let s := (List.range 97).foldl (fun s t => s.updTarget t fun x => { x with draining := true }) s
  { s with
    pcie := { s.pcie with reqs := s.pcie.reqs.map fun r => if r.ctx = c then { r with dead := true } else r }
    poolReqs := s.poolReqs.map fun r => if r.ctx = c then { r with dead := true } else r }
/-- Steps 1 to 3. -/
def State.abortBegin (s : State) (c : Nat) : State :=
  let s := ((((((s.stopCores c).endHeld c).endPackets c).cancelWork c).endHandoffs c).endColls c).endLearning c
  (s.swapOut c).updCtx c fun k => { k with abort := 3 }

/-! ### Steps 5 to 7 (R362) -/

/-- Step 5: owned fences take their last value with ERROR, and grants that the context holds end. -/
def State.abortFences (s : State) (c : Nat) : State :=
  let s := (s.ownFences c).foldl (fun s f =>
    (s.updFence f fun k => { k with val := BitVec.allOnes 64, stat := 2 }).noteSignal f (BitVec.allOnes 64)) s
  (s.dropGrants c).updCtx c fun k => { k with abort := 5 }
/-- Windows onto the host and the pool, and the aperture, of a context are released (log 33). -/
def State.freeWindows (s : State) (c : Nat) : State :=
  let ws := (Tab.keys s.hwins).filter fun i => (Tab.get {} s.hwins i).v && (Tab.get {} s.hwins i).ctx == c
  let s := ws.foldl (fun s i => s.clearWindow (Tab.get {} s.hwins i)) s
  { s with
    hwins := ws.foldl (fun t i => Tab.set {} t i {}) s.hwins
    hwBase := ws.foldl (fun t i => Tab.set 0 t i 0) s.hwBase
    poolMap := Tab.drop s.poolMap fun i => (Tab.get {} s.poolMap i).ctx == c
    aperture := Tab.drop s.aperture fun i => match Tab.get none s.aperture i with
      | some (x, _) => x == c
      | none => false }
/-- Channels whose lost producer still had records to deliver break as the memory of their rings is released (log 28). -/
def State.breakEnding (s : State) (c : Nat) : State :=
  ((List.range 256).filter fun ch => (s.handoff ch).ending.isSome && (s.handoff ch).prod == c).foldl (fun s ch => s.breakChannel ch) s
/-- Steps 6 and 7: clusters, windows and rings are released, the slot is free, and the granules wait for their scrub. -/
def State.abortRelease (s : State) (c : Nat) : State :=
  let s := s.breakEnding c
  let s := (s.ctxClusters c).foldl (fun s k => (s.wipeCluster k).grantCluster k {}) s
  let s := (s.freeWindows c).devEvent 0x40 (w64 c)
  let s := (s.ownFences c).foldl (fun s f => s.updFence f fun k => ({ k with owner := none } : Fence).reap) s
  let s := (s.freeSlot c).updCtx c fun k => { k with
    queues := [], ring := {}, abort := 6, keySlot := none, root := none, tables := [], kv := {} }
  let s := (s.purge fun x => x.1 == c).freePages ((s.pages.filter fun e => e.2.owner == some c).map (·.1))
  ({ s with scrubQ := s.scrubQ ++ (s.granulesOf c).map fun g => (g.1, c) } : State).ctxGone c
/-- ABORT (R362): the steps that are due. A LOST context stops before step 6 until its CTX.DESTROY. -/
def execAbort (ctx : Fin 4096) (s : State) : Out :=
  let c := ctx.val
  let k := s.ctx c
  .next (if s.dev != .ready || (k.st != .lost && k.st != .aborting) then s
    else if k.abort = 0 then s.abortBegin c
    else
      let s := if k.abort = 4 then s.abortFences c else s
      if (s.ctx c).abort = 5 && k.st == .aborting then s.abortRelease c else s)
/-- ABORT_DRAINED (R362 step 4): every target has reported DRAINED, and CSTAT.DRAINED is set. -/
def execAbortDrained (ctx : Fin 4096) (s : State) : Out :=
  .next (if s.dev == .ready && (s.ctx ctx).abort == 3 && !(s.targets.any fun t => t.2.draining) then
      s.updCtx ctx fun k => { k with abort := 4 }
    else s)

end Sys2Proof.Machine
end

