-- ==== Sys2Proof/Machine/Charter.lean ====
section
/-! DEFINITION. Charters, the operations of owners, imports and exports (`17` R406–R426). -/

namespace Sys2Proof.Machine

/-! ### Admission (R406–R408) -/

/-- Bytes of an image from `o` on, `n` of them, are zero. -/
def zeroAt (c : List Byte) (o n : Nat) : Bool := leAt c o n == 0
/-- PUB of owner `j`. -/
def chPub (c : List Byte) (j : Nat) : List Byte := sliceOf c (chOwner c j) 64
/-- OFL of owner `j`. -/
def chOfl (c : List Byte) (j b : Nat) : Bool := (leAt c (chOwner c j + 64) 8).testBit b
/-- OWN of key `k`. -/
def chOwn (c : List Byte) (k : Nat) : Nat := imgByte c (chKey c k)
/-- Check 1: counts, VER, zero fields and ranges. -/
def charterForm (c : List Byte) : Bool :=
  let p := chPol c
  let flags := leAt c 16 8
  c.length ≤ 16384 && c.length == chSig c (chNown c) && leAt c 0 4 == 1 &&
    1 ≤ chNown c && chNown c ≤ 16 && 1 ≤ chNctx c && chNctx c ≤ 32 && chNchn c ≤ 64 &&
    1 ≤ chNmeas c && chNmeas c ≤ 8 && 1 ≤ chNroot c && chNroot c ≤ 4 &&
    zeroAt c 9 7 && flags < 8 && (flags.testBit 0 || zeroAt c 24 8) &&
    ((List.range (chNown c)).all fun j => leAt c (chOwner c j + 64) 8 < 4) &&
    ((List.range 8).all fun k => imgByte c (chKey c k + 1) ≤ 3 && imgByte c (chKey c k + 2) ≤ 1 && imgByte c (chKey c k + 3) == 0 &&
      (chOwn c k != 0xFF || zeroAt c (chKey c k + 4) 4)) &&
    ((List.range (chNctx c)).all fun i => let e := chEntry c i
      ((List.range 8).all fun j => leAt c (e + 32 + 8 * j) 8 % 8 == 0) && imgByte c (e + 96) < 8 && imgByte c (e + 97) < 4 &&
        1 ≤ imgByte c (e + 99) && imgByte c (e + 99) ≤ 48 && zeroAt c (e + 100) 28) &&
    ((List.range (chNchn c)).all fun i => let h := chChan c i
      let r := leAt c (h + 4) 4
      zeroAt c (h + 2) 2 && zeroAt c (h + 40) 8 && 64 ≤ r && r ≤ 2 ^ 20 && r % 64 == 0 &&
        (imgByte c h == 0xFF || imgByte c (h + 1) == 0xFF || zeroAt c (h + 8) 32)) &&
    imgByte c p ≤ 2 && ((imgByte c p == 0) == zeroAt c (p + 8) 4) && (imgByte c p == 1 || imgByte c (p + 1) == 0xFF) &&
    imgByte c (p + 13) < 4 && zeroAt c (p + 14) 2 && zeroAt c (p + 24) 8
/-- Check 2: every PUB is a point of the curve, and no two are equal. -/
def charterPubs (c : List Byte) : Bool :=
  let ps := (List.range (chNown c)).map (chPub c)
  ps.all Config.sm2point && decide ps.Nodup
/-- Check 3: every signature verifies (R407). -/
def charterSigs (c : List Byte) : Bool :=
  (List.range (chNown c)).all fun j =>
    Config.sm2verify (chPub c j) (ascii "STRELNO CHARTER") (digBytes (chDigest c)) (sliceOf c (chSig c j) 64)
/-- A key entry is used, for a purpose. -/
def keyFor (c : List Byte) (k purp : Nat) : Bool := k < 8 && chOwn c k != 0xFF && imgByte c (chKey c k + 1) == purp
/-- Check 4: every index names an existing entry. -/
def charterNames (c : List Byte) : Bool :=
  let p := chPol c
  ((List.range 8).all fun k => (chOwn c k < chNown c || chOwn c k == 0xFF) && leAt c (chKey c k + 4) 4 < 2 ^ chNctx c) &&
    ((List.range (chNctx c)).all fun i => imgByte c (chEntry c i + 98) < chNown c) &&
    ((List.range (chNchn c)).all fun i => [imgByte c (chChan c i), imgByte c (chChan c i + 1)].all fun e => e < chNctx c || e == 0xFF) &&
    (imgByte c p != 1 || keyFor c (imgByte c (p + 1)) 2) && (imgByte c (p + 12) == 0xFF || keyFor c (imgByte c (p + 12)) 3) &&
    leAt c (p + 2) 2 < 2 ^ chNown c && leAt c (p + 4) 4 < 2 ^ chNctx c
/-- Check 5: no channel has both ends at 0xFF. -/
def charterEnds (c : List Byte) : Bool :=
  (List.range (chNchn c)).all fun i => !(imgByte c (chChan c i) == 0xFF && imgByte c (chChan c i + 1) == 0xFF)
/-- Check 6: the module's FWM is among the measurements, and its production root among the roots. -/
def State.charterUnit (s : State) (c : List Byte) : Bool := acceptsUnit c s.boot.fwm Config.rootDigest
/-- The number of the first check that fails; 0 for none. -/
def State.charterCheck (s : State) (c : List Byte) : Nat :=
  if !charterForm c then 1 else if !charterPubs c then 2 else if !charterSigs c then 3 else if !charterNames c then 4
  else if !charterEnds c then 5 else if !s.charterUnit c then 6 else 0
/-- The module's export count for a charter: the one it has while admitted, or had when it was unloaded (R418). -/
def State.exportsOf (s : State) (d : BitVec 256) : Nat :=
  match s.charter? d with
  | some c => c.exports
  | none => ((s.keys.exported.find? fun e => e.1 == d).map Prod.snd).getD 0
/-- The export count of a charter that is unloaded is kept. -/
def State.keepExports (s : State) (d : BitVec 256) : State :=
  { s with keys := { s.keys with exported := (d, s.exportsOf d) :: s.keys.exported.filter fun e => e.1 != d } }
/-- CHARTER.LOAD (R408): `image` holds the bytes that the device reads at W0. -/
def execCharterLoad (c : MbxCall) (image : List Byte) (s : State) : Out :=
  .next (mailbox c (fun _ => { opc := 0x40, masks := [allMask, allMask], names := [], ctxs := [], always := false, bad := false
                               free := false })
    (fun a s =>
      let img := padTo (min 16385 (argAt a 1).toNat) (image.take (argAt a 1).toNat)
      if (s.charter? (chDigest img)).isSome then (s, ok)
      else match s.charterCheck img with
        | 0 =>
            if 32 ≤ s.charters.length then (s, .done stFull [])
            else ({ s with charters := s.charters ++ [{ chd := chDigest img, image := img, exports := s.exportsOf (chDigest img) }] }, ok)
        | n => (s, .refused n)) s)
/-- CHARTER.UNLOAD (R408). The stores bound to the charter go with it (log 34); the module's export count for it stays (R418). -/
def execCharterUnload (c : MbxCall) (s : State) : Out :=
  .next (mailbox c (fun _ => { opc := 0x41, masks := [allMask, allMask, allMask, allMask], names := [], ctxs := [], always := false
                               bad := false, free := false })
    (fun a s =>
      let d := argDig a 0
      if (s.charter? d).isNone then (s, .done stNoctx [])
      else if s.ctxs.any fun e => e.2.st != .free && e.2.chd == d then (s, .done stBusy [])
      else ({ s.keepExports d with charters := s.charters.filter fun x => x.chd != d, stores := s.stores.filter fun x => x.chd != d }, ok)) s)

/-! ### Attestation (R412, R413) -/

/-- A response of the management agents. The request that awaited Yorek has set `XGLB.IRQ.MGMT` (`13` R333, `25` R553). -/
def State.answerWith (s : State) (b : List Byte) : State :=
  let s : State := { s with pcie := { s.pcie with resp := b } }
  if s.powered then s.irq 3 else s
/-- A response with its signature, which the key engine makes with d_AL; a request that it refuses has no response (`15`
R374). -/
def State.answerSigned (s : State) (req b : List Byte) : State :=
  if s.serves 4 2 then s.answerWith (b ++ s.devSig req b) else s.keyRefused
/-- A response of an owner operation without a signature. -/
def State.answerOwner (s : State) (b : List Byte) : State := s.answerWith (vendorHead ++ b)
/-- The responder serves owners: the device is Ready. An operation that needs a secured session has one. -/
def State.owners (s : State) (session needs : Bool) : Bool := s.dev == .ready && (!needs || (session && !s.pcie.sessions.isEmpty))
/-- GET_MEASUREMENTS (R412): one block, or all of them for index 0xFF. -/
def execGetMeasurements (index : BitVec 8) (s : State) : Out :=
  let bs := if index = 0xFF then ([1, 2, 3, 4] : List Nat) else [index.toNat]
  .next (if s.dev != .ready then s else s.answerSigned (leBytes 1 index.toNat) (bs.flatMap s.measure))
/-- QUOTE (R413). -/
def execQuote (chd nonce : BitVec 256) (first : BitVec 16) (s : State) : Out :=
  .next (if !s.owners false false then s
    else s.answerSigned (quoteReq chd nonce first.toNat) (s.quoteBody chd nonce first.toNat))

/-! ### Nonces and key release (R413–R416) -/

/-- A status byte in place of a response (the codes of *Release statuses* in their order, log 35). -/
def relOk : Nat := 0
/-- EXPIRED. -/
def relExpired : Nat := 1
/-- AUTH. -/
def relAuth : Nat := 2
/-- UNWRAP. -/
def relUnwrap : Nat := 3
/-- EXISTS. -/
def relExists : Nat := 4
/-- FULL. -/
def relFull : Nat := 5
/-- NOKEY. -/
def relNokey : Nat := 6
/-- A fresh nonce of the device; one of a key release records its EPHEM slot and that slot's GEN. -/
def State.newNonce (s : State) (chd : BitVec 256) (eph : Option (Nat × Nat)) : Option (BitVec 256 × State) :=
  (s.drawKey 256).map fun r =>
    (r.1, { r.2 with keys := { r.2.keys with nonces := r.2.keys.nonces ++
      [{ val := r.1, chd := chd, t := s.now, eph := eph, gen := (eph.map fun e => (s.kslot e.1).gen).getD 0 }] } })
/-- A nonce is used: it is valid once, for 60 s, for its charter. -/
def State.useNonce (s : State) (chd val : BitVec 256) : Option Nonce × State :=
  let s' : State := { s with keys := { s.keys with nonces := s.keys.nonces.filter fun n => n.val != val } }
  match s.keys.nonces.find? fun n => n.val == val && n.chd == chd with
  | some n => (if (s.now - n.t).toNat ≤ 60000000000 then some n else none, s')
  | none => (none, s')
/-- NONCE (R413). -/
def execNonce (session : Bool) (chd : BitVec 256) (s : State) : Out :=
  .next (if !s.owners session true then s
    else match s.newNonce chd none with
      | none => s.keyRefused
      | some (n, s) => s.answerSigned (ownerReq 4 (digBytes chd)) (vendorHead ++ digBytes n))
/-- KR_BEGIN (R414): refused with NOCTX when no context under the charter exists. -/
def execKrBegin (session : Bool) (chd : BitVec 256) (keyid : Fin 256) (nonce : BitVec 256) (s : State) : Out :=
  .next (if !s.owners session true then s
    else match s.jobSlot chd with
      | none => s.answerOwner (leBytes 1 stNoctx)
      | some j => match s.emptySlot, s.drawFresh 320 with
        | none, _ => s.answerOwner (leBytes 1 stFull)
        | _, none => s.keyRefused
        | some i, some (x, s) =>
            let d := sm2scalar x.toNat
            let s := s.fillSlot i { kind := 6, parent := j, use := useUnwrap, dev := true, chd := chd, keyid := keyid } d
            match s.newNonce chd (some (i, keyid)) with
            | none => (s.invalidate i).keyRefused
            | some (n, s) => s.answerSigned (ownerReq 2 (digBytes chd ++ leBytes 1 keyid ++ digBytes nonce)) <| vendorHead ++
                ((Config.sm2public d ++ List.replicate 64 0).take 64 ++ digBytes n))
/-- An owner's signature over a request verifies. -/
def ownerSigned (img : List Byte) (j : Nat) (req sig : List Byte) : Bool :=
  j < chNown img && Config.sm2verify (chPub img j) (ascii "STRELNO CHARTER") req sig
/-- The unwrapped bytes of an owner key, of the length that SIZE gives. -/
def unwrapOwner (img : List Byte) (k : Nat) (chd nonce : BitVec 256) (d : BitVec 256) (wrapped : List Byte) : Option (List Byte) :=
  let pub := chPub img (chOwn img k)
  let kuw := BitVec.ofNat 256 (kdf (Config.sm2agree d pub) "STRELNO UNWRAP" (digBytes chd ++ digBytes (Config.sm3 pub) ++ digBytes nonce) 256)
  (kwUnwrap (wrapKey kuw) wrapped).filter fun b => b.length == (if imgByte img (chKey img k + 2) = 0 then 16 else 32)
/-- Slot `e` is still the EPHEM slot that a release has filled (R414, R415). -/
def State.ephOf (s : State) (n : Nonce) (e : Nat) : Bool :=
  (s.kslot e).st == .valid && (s.kslot e).kind == 6 && (s.kslot e).gen == n.gen
/-- The EPHEM slot of a release that has completed or failed is invalidated, if it is still that (`15` R378). -/
def State.endRelease (s : State) (n : Nonce) (e : Nat) : State := if s.ephOf n e then s.invalidate e else s
/-- The outcome of a key release: a status, the key bytes where it is OK, and the state. -/
def State.release (s : State) (chd : BitVec 256) (img : List Byte) (k : Nat) (n : Nonce) (e : Nat) (wrapped : List Byte) :
    (Nat × List Byte) × State :=
  match s.ephOf n e && s.serves e 3, (s.jobSlot chd).filter fun j => (s.kslot e).parent == j && (s.kslot j).use.testBit 0 with
  | true, some j => match unwrapOwner img k chd n.val (s.kslot e).value wrapped with
    | none => ((relUnwrap, []), s)
    | some b =>
        if (s.slotOf 7 chd k).isSome then ((relExists, []), s)
        else if 8 ≤ ((List.range 64).filter fun i => (s.kslot i).st == .valid && (s.kslot i).kind == 7 && (s.kslot i).chd == chd).length then
          ((relFull, []), s)
        else match s.emptySlot with
          | none => ((relFull, []), s)
          | some i => ((relOk, b), s.fillSlot i { kind := 7, parent := j, use := useDerive, dev := true, chd := chd, keyid := k }
              (BitVec.ofNat 256 (beNat (padTo 32 b))))
  | _, _ => ((relNokey, []), s.keyRefused)
/-- The status and the KCV of KR_WRAP: the KCV of a key that has been placed, and 8 zero bytes otherwise (R413, R414). -/
def relAnswer (st : Nat) (b : List Byte) : List Byte :=
  leBytes 1 st ++ if st = relOk then (digBytes (Config.sm3 (ascii "STRELNO KCV" ++ b))).take 8 else List.replicate 8 0
/-- KR_WRAP (R414, R415): the EPHEM slot is invalidated once its unwrap has completed or failed. -/
def execKrWrap (session : Bool) (chd : BitVec 256) (keyid : Fin 256) (nonce : BitVec 256) (wrapped sig : List Byte) (s : State) : Out :=
  .next (if !s.owners session true then s
    else match s.useNonce chd nonce with
      | (some n, s) => (match n.eph with
          | some (e, k) =>
              let img := match s.charter? chd with | some c => c.image | none => []
              let req := ownerReq 3 (digBytes chd ++ leBytes 1 keyid ++ digBytes nonce ++ wrapped)
              if k != keyid.val then (s.endRelease n e).answerOwner (relAnswer relExpired [])
              else if !(k < 8 && ownerSigned img (chOwn img k) req sig) then (s.endRelease n e).answerOwner (relAnswer relAuth [])
              else (match s.release chd img k n e wrapped with
                | ((st, b), s) => (s.endRelease n e).answerOwner (relAnswer st b))
          | none => s.answerOwner (relAnswer relExpired []))
      | (none, s) => s.answerOwner (relAnswer relExpired []))
/-- REVOKE (R416): by the owner of the key; KILL needs OFL bit 1. -/
def execRevoke (session : Bool) (chd : BitVec 256) (keyid : Fin 256) (kill : Bool) (nonce : BitVec 256) (sig : List Byte) (s : State) : Out :=
  .next (if !s.owners session true then s
    else match s.useNonce chd nonce with
      | (none, s) => s.answerOwner (leBytes 1 relExpired)
      | (some _, s) =>
          let img := match s.charter? chd with | some c => c.image | none => []
          let k := keyid.val
          let req := ownerReq 5 (digBytes chd ++ leBytes 1 k ++ leBytes 1 (b2n kill) ++ digBytes nonce)
          if !(k < 8 && ownerSigned img (chOwn img k) req sig && (!kill || chOfl img (chOwn img k) 1)) then s.answerOwner (leBytes 1 relAuth)
          else
            let s := match s.slotOf 7 chd k with
              | some i => s.invalidate i
              | none => s
            let mask := leAt img (chKey img k + 4) 4
            let hit := (Tab.keys s.ctxs).filter fun c => s.ctxLive c && (s.ctx c).chd == chd && (match (s.ctx c).entry with
              | some e => mask.testBit e
              | none => false)
            (if kill then hit.foldl State.startAbort s else s).answerOwner (leBytes 1 relOk))
/-- REPORT (R413, R424): every counter of the charter's contexts, to an owner with OFL bit 0. The layout is the model's
(log 35): the context ID and, for each of its counters, key and value. -/
def execReport (session : Bool) (chd : BitVec 256) (owner : Fin 16) (nonce : BitVec 256) (sig : List Byte) (s : State) : Out :=
  .next (if !s.owners session true then s
    else match s.useNonce chd nonce with
      | (none, s) => s.answerOwner (leBytes 1 relExpired)
      | (some _, s) =>
          let img := match s.charter? chd with | some c => c.image | none => []
          let req := ownerReq 6 (digBytes chd ++ leBytes 1 owner ++ digBytes nonce)
          if !(chOfl img owner 0 && ownerSigned img owner req sig) then s.answerOwner (leBytes 1 relAuth)
          else
            let cs := (Tab.keys s.ctxs).filter fun c => s.ctxLive c && (s.ctx c).chd == chd
            s.answerSigned (req ++ sig) <| vendorHead ++ (cs.flatMap fun c =>
              let t := s.countersOf c
              leBytes 2 c ++ leBytes 2 t.length ++ t.flatMap fun e => leBytes 4 e.1 ++ leBytes 8 e.2.toNat))

/-! ### Imports and exports (R417, R418) -/

/-- A virtual address of a context leads to the H- or P-tier. -/
def State.outer (s : State) (c va : Nat) : Bool :=
  match s.spaceOf 747 c va with
  | some .h => true
  | some .p => true
  | _ => false
/-- OBJ.IMPORT (R417): completes at acceptance. -/
def execObjImport (c : MbxCall) (s : State) : Out :=
  .next (mailbox c (fun a => { opc := 0x44, masks := [lowMask 36, allMask, allMask, allMask], names := [(0, argCtx a 0)]
                               ctxs := [argCtx a 0], always := false, bad := false, free := false })
    (fun a s =>
      let i := argCtx a 0
      let k := fld (argAt a 0) 19 12
      let f := fld (argAt a 0) 35 20
      if !s.mayUse i k || !s.outer i (argAt a 1).toNat || !s.maySignal i f then (s, .refused 0)
      else if (s.ownerKey i k).isNone then (s.loseKey i, .done stLost [])
      else ({ s with xfers := s.xfers ++ [{ ctx := i, keyid := k, src := (argAt a 1).toNat, dst := (argAt a 2).toNat, fid := f
                                            val := argAt a 3 }] }, ok)) s)
/-- Chunk i of an object and those after it: ciphertext and tag each (R417). -/
def objChunks (key : BitVec 128) (objid : W64) (aad : List Byte) : Nat → Nat → List Byte → List Byte
  | 0, _, _ => []
  | n + 1, i, b =>
      if b.isEmpty then []
      else Config.gcmSeal key (beBytes 8 objid.toNat ++ beBytes 4 i) aad (b.take 65536) ++ objChunks key objid aad n (i + 1) (b.drop 65536)
/-- The chunks are opened and written one after the other; false at the first tag that fails. -/
def State.importChunks (s : State) (c : Nat) (key : BitVec 128) (head : List Byte) : Nat → Nat → Nat → Nat → List Byte → Res Bool
  | 0, _, _, _, _ => .ok s true
  | n + 1, i, left, dst, b =>
      if left = 0 then .ok s true
      else
        let m := min 65536 left
        match Config.gcmOpen key (beBytes 8 (leAt head 0 8) ++ beBytes 4 i) head (b.take (m + 16)) with
        | none => .ok s false
        | some p => (s.writeVa 747 c dst p).bind fun s _ => s.importChunks c key head n (i + 1) (left - m) (dst + m) (b.drop (m + 16))
/-- Bytes of an object whose header gives LEN: header, ciphertext and tags (R417). -/
def objSize (len : Nat) : Nat := 64 + len + 16 * ceilDiv len 65536
/-- An object of `size` bytes whose header stops the import: LEN above 2⁴⁸ or not that of the object, or a BIND that is neither
zero nor CHD. -/
def objBad (chd : BitVec 256) (size : Nat) (head : List Byte) : Bool :=
  let len := leAt head 8 8
  2 ^ 48 < len || size != objSize len || !(zeroAt head 16 32 || digOf (sliceOf head 16 32) == chd)
/-- The object at the source is read, and opened to the destination; false where it is bad. -/
def State.importObject (s : State) (x : Xfer) (key : BitVec 256) (size : Nat) : Res Bool :=
  (s.readVa 747 x.ctx x.src 64).bind fun s head =>
    if objBad (s.ctx x.ctx).chd size head then .ok s false
    else
      let len := leAt head 8 8
      (s.readVa 747 x.ctx (x.src + 64) (size - 64)).bind fun s b =>
        (s.writeVa 747 x.ctx x.dst head).bind fun s _ =>
          s.importChunks x.ctx (wrapKey key) head (len / 65536 + 1) 0 len (x.dst + 64) b
/-- An import or export that waits for memory is taken up again where it stands (log 35). -/
def State.again (s : State) (i : Nat) (x : Xfer) : State := { s with xfers := s.xfers.take i ++ [x] ++ s.xfers.drop i }
/-- OBJ_IMPORT_COMPLETE (R417): `size` is the length of the object that the owner has put at the source. The row is reached
again while the read of the source waits. -/
def execObjImportComplete (i : Nat) (size : Nat) (s : State) : Out :=
  .next (match s.dev == .ready, s.xfers[i]? with
    | true, some x =>
        if x.exp then s
        else
          let s : State := { s with xfers := s.xfers.eraseIdx i }
          (match s.ownerKey x.ctx x.keyid with
          | none => s.loseKey x.ctx
          | some key => match s.importObject x key size with
            | .ok s good => s.signal x.fid x.val (if good then 0 else 2)
            | .lost s cause => s.lose x.ctx cause
            | .wait s => s.again i x)
    | _, _ => s)
/-- OBJ.EXPORT (R418): completes at acceptance. The export is counted as it is accepted (log 35). -/
def execObjExport (c : MbxCall) (s : State) : Out :=
  .next (mailbox c (fun a => { opc := 0x45, masks := [lowMask 31, allMask, allMask], names := [(0, argCtx a 0)], ctxs := [argCtx a 0]
                               always := false, bad := false, free := false })
    (fun a s =>
      let i := argCtx a 0
      let f := fld (argAt a 0) 30 15
      match s.charter? (s.ctx i).chd, (s.ctx i).entry with
      | some ch, some e =>
          (match chExport ch.image with
          | (mode, okey, _, osrc, lim) =>
              if mode = 0 || !osrc.testBit e || lim ≤ ch.exports || !s.outer i (argAt a 1).toNat || !s.maySignal i f ||
                  (mode == 1 && !s.mayUse i okey) then (s, .refused 0)
              else if mode == 1 && (s.ownerKey i okey).isNone then (s.loseKey i, .done stLost [])
              else match s.readVa 725 i (0x400 + 16 * fld (argAt a 0) 14 12) 16 with
                | .lost s _ => (s, .refused 0)
                | .wait s => (s, .wait .queued)
                | .ok s b =>
                    let va := leAt b 0 8
                    let n := leAt b 8 8
                    if n = 0 || 2 ^ 48 < va + n then (s, .refused 0)
                    else ({ s with
                      charters := s.charters.map fun x => if x.chd = ch.chd then { x with exports := x.exports + 1 } else x
                      xfers := s.xfers ++ [{ exp := true, ctx := i, keyid := if mode = 1 then okey else 0xFF, src := va
                                             dst := (argAt a 1).toNat, len := n, objid := at64 1 63 + w64 ch.exports, fid := f
                                             val := argAt a 2 }] }, ok))
      | _, _ => (s, .refused 0)) s)
/-- The blocks of a fresh key, one for each owner in ORCP, and the state that has drawn their random scalars. -/
def State.wrapTo (s : State) (img : List Byte) (key : List Byte) : List Nat → List Byte × State
  | [] => ([], s)
  | j :: l => match s.free 256 with
    | (r, s) => match State.wrapTo s img key l with
      | (b, s) => (padTo 112 ((Config.sm2encrypt (chPub img j) r key).take 112) ++ b, s)
/-- The key of an export, with the blocks that carry it: OKEY, or a fresh key. -/
def State.exportKey (s : State) (x : Xfer) (img : List Byte) : Option ((BitVec 128 × List Byte) × State) :=
  if x.keyid != 0xFF then (s.ownerKey x.ctx x.keyid).map fun k => ((wrapKey k, []), s)
  else (s.drawKey 128).map fun r => match r.2.wrapTo img (beBytes 16 r.1.toNat)
      ((List.range (chNown img)).filter fun j => (chExport img).2.2.1.testBit j) with
    | (b, s) => ((r.1, b), s)
/-- OBJ_EXPORT_COMPLETE (R418): the object is visible at its destination; with `ok` false the export has failed. -/
def execObjExportComplete (i : Nat) (ok : Bool) (s : State) : Out :=
  .next (match s.dev == .ready, s.xfers[i]? with
    | true, some x =>
        if !x.exp then s
        else
          let s : State := { s with xfers := s.xfers.eraseIdx i }
          let img := s.charterOf x.ctx
          let fail (s : State) : State := (s.signal x.fid x.val 2).endExports (s.ctx x.ctx).chd
          if !ok then fail s
          else (match s.exportKey x img with
            | none => if x.keyid != 0xFF then s.loseKey x.ctx else fail s.keyRefused
            | some ((key, blocks), s) => match s.readVa 747 x.ctx x.src x.len with
              | .ok s b =>
                  let head := leBytes 8 x.objid.toNat ++ leBytes 8 x.len ++ digBytes (s.ctx x.ctx).chd ++ leBytes 1 x.keyid ++
                    List.replicate 15 0
                  let obj := head ++ blocks ++ objChunks key x.objid (head ++ blocks) (x.len / 65536 + 1) 0 b
                  (match s.writeVa 747 x.ctx x.dst obj with
                  | .ok s _ => (s.signal x.fid x.val 0).endExports (s.ctx x.ctx).chd
                  | .lost s _ => fail s
                  | .wait s => fail s)
              | .lost s _ => fail s
              | .wait s => fail s)
    | _, _ => s)

end Sys2Proof.Machine
end

