-- ==== Sys2Proof/Machine/Life.lean ====
section
/-! DEFINITION. Package resets and removals of power; the life-cycle states, their report, their transitions and
the test access ports (`13` R335, `18` R427–R437, `21` R490, `23` R513). -/

namespace Sys2Proof.Machine

/-! ### Package resets and power (`21` R490) -/

/-- What SPI NOR and OTP keep of start-up and calibration: the stored image, the rollback counter, the revoked keys
and the sealed records. An image write that power or a reset interrupts leaves a slot that fails its checks (`22`
R507): its body is torn, cause 0x05. -/
def Boot.stored (b : Boot) : Boot :=
  { ctr := b.ctr, revoked := b.revoked, imgKey := b.imgKey, imgSvn := b.imgSvn, imgFwm := b.imgFwm
    imgCause := if b.writing then 0x05 else b.imgCause
    train := b.train, cal := b.cal, seq := b.seq, nor := b.nor }
/-- The machine before its start: nothing but OTP, SPI NOR, the pins, the management island and what lies outside
the module is left. -/
def State.blank (s : State) : State :=
  { State.reset with
    pending := s.pending, freeCtr := s.freeCtr, code := s.code
    hostMem := s.hostMem, poolMem := s.poolMem
    lc := { s.lc with code := 0xFF, trip := 0, refused := 0, tap := [], retire := false, pufReads := 0, pufFailed := false }
    boot := s.boot.stored
    pw := { main := s.pw.main, aux := s.pw.aux, brake := s.pw.brake, fabClk := s.pw.fabClk
            islandFault := s.pw.islandFault }
    pcie := { eid := Tab.drop s.pcie.eid (· == 1), mtu := Tab.drop s.pcie.mtu (· == 1), i3cAddr := s.pcie.i3cAddr } }
/-- A package reset with the cause of RSTSTAT.PKG (R490): the log store and the crash dump survive, and BOOTSTAT
stays until the start begins (`22` R503). -/
def State.packageReset (s : State) (cause : Nat) : State :=
  let r := s.ras
  { s.blank with
    boot := { s.boot with imgCause := s.boot.stored.imgCause, writing := false, sealDue := false }
    ras := {
      log := r.log, nextId := r.nextId, dumpPres := r.dumpPres, dumpNo := r.dumpNo, dumpLen := r.dumpLen
      pkg := cause, sent := if r.sentNow = 0 then r.sent else r.sentNow
      pkgCnt := min 65535 (r.pkgCnt + 1), perstShort := r.perstShort } }

/-! ### The life-cycle words (`18` R429–R431) -/

/-- A group of 16 OTP bits: clear, set, or invalid. -/
def lcGroup (w : W64) (i : Nat) : Option Bool :=
  let n := ((List.range 16).filter fun b => bit w (16 * i + b)).length
  if n = 0 then some false else if 13 ≤ n then some true else none
/-- The master state: 0 Blank, 1 Test, 2 Production, 3 End-of-life; none when it is invalid. -/
def LifeCycle.master (l : LifeCycle) : Option Nat :=
  if fld l.lcm 63 48 != 0 then none
  else match lcGroup l.lcm 0, lcGroup l.lcm 1, lcGroup l.lcm 2 with
    | some false, some false, some false => some 0
    | some true, some false, some false => some 1
    | some true, some true, some false => some 2
    | some true, some true, some true => some 3
    | _, _, _ => none
/-- Progress flag `i` of LCSTAT.LCP. -/
def LifeCycle.flag (l : LifeCycle) (i : Nat) : Bool := l.lcp.getLsbD i
/-- The words with progress flag `i` set. -/
def LifeCycle.mark (l : LifeCycle) (i : Nat) : LifeCycle := { l with lcp := l.lcp ||| BitVec.ofNat 11 (2 ^ i) }
/-- The End-of-life transition is unfinished. -/
def LifeCycle.retiring (l : LifeCycle) : Bool := l.flag 7 && !l.flag 10
/-- The transition to Production is unfinished. -/
def LifeCycle.enrolling (l : LifeCycle) : Bool := l.flag 0 && !l.flag 6
/-- The report code of the effective state (R427, R431). -/
def LifeCycle.report (l : LifeCycle) : Nat :=
  if l.retiring then 0x23 else if l.enrolling then 0x12 else l.master.getD 0xFF
/-- The fuse code of a state. -/
def lcDie (m : Nat) : BitVec 4 := BitVec.ofNat 4 (2 ^ m - 1)
/-- The fuse code of die `d`. -/
def LifeCycle.die (l : LifeCycle) (d : Nat) : BitVec 4 := l.dies.extractLsb' (4 * d) 4
/-- A die's own code is invalid or differs from the master. -/
def LifeCycle.dmis (l : LifeCycle) (d : Nat) : Bool := l.master.map lcDie != some (l.die d)
/-- Scan and debug are open on die `d` (R428, R431, R436). A die at wafer, while the master copy is Blank, receives no master
state and follows its own code. -/
def LifeCycle.tapOpen (l : LifeCycle) (d : Nat) : Bool :=
  !l.retiring && !l.enrolling && (match l.master with
    | some 0 => l.die d == 0 || l.die d == 1 || l.die d == 7
    | some 1 => !l.dmis d
    | some 3 => !l.dmis d && l.flag 10 && l.bankA == .erased && l.bankB == .erased
    | _ => false)
/-- The test access port of die `d` is wired: that of the X-die, and the others at wafer: while the master copy is Blank, and of
a die that is still Blank until the unit leaves Test (R428). -/
def LifeCycle.wired (l : LifeCycle) (d : Nat) : Bool :=
  d == 12 || l.master == some 0 || (l.master == some 1 && l.die d == 0)
/-- Every die's fuses programmed to a code; a fuse that is already set stays set (R434). -/
def LifeCycle.fuse (l : LifeCycle) (m : Nat) : LifeCycle :=
  { l with dies := (List.range 13).foldl (fun w d => w ||| ((lcDie m).setWidth 52 <<< (4 * d))) l.dies }
/-- The word of *Life-cycle status* (R437). -/
def LifeCycle.word (l : LifeCycle) : W64 :=
  at64 l.code.toNat 40 ||| at64 ((List.range 13).foldl (fun a d => a + b2n (l.dmis d) * 2 ^ d) 0) 27 |||
    at64 l.trip 12 ||| at64 (b2n !l.flag 3) 11 ||| w64 l.lcp.toNat

/-- Enrolment into bank A or B begins; where it begins in bank B, every bit of bank A has been set to 1 (R433, R434). -/
def LifeCycle.enrolIn (l : LifeCycle) (b : Bool) : LifeCycle :=
  if b then { l with bankA := .erased, bankB := .begun }.mark 4 else { l with bankA := .begun }.mark 2
/-- The bank that an enrolment has begun in holds its helper data and check value, and has been verified. -/
def LifeCycle.enrolled (l : LifeCycle) (b : Bool) : LifeCycle :=
  if b then { l with bankB := .written }.mark 5 else { l with bankA := .written }.mark 3
/-- The transition to Production (R433, R434), run by the ROM at start from the first step whose flag is clear:
whether the unit then holds its helper data. `good` is whether an enrolment verifies. -/
def LifeCycle.produce (l : LifeCycle) (good : Bool) : LifeCycle × Bool :=
  let l := ((l.mark 0).fuse 2).mark 1
  let done (l : LifeCycle) : LifeCycle := { l with lcm := l.lcm ||| 0xFFFF0000 }.mark 6
  if l.flag 3 || l.flag 5 then (done l, true)
  else if !l.flag 2 then
    (if good then (done ((l.enrolIn false).enrolled false), true) else (l.enrolIn false, false))
  else if !l.flag 4 then
    (if good then (done ((l.enrolIn true).enrolled true), true) else (l.enrolIn true, false))
  else (l, false)
/-- The first `k` steps of the transition to Production that are not done: P_START, the fuses, and the begin of an enrolment. -/
def LifeCycle.produceSteps (l : LifeCycle) (k : Nat) : LifeCycle :=
  let l := if 1 ≤ k then l.mark 0 else l
  let l := if 2 ≤ k then (l.fuse 2).mark 1 else l
  if k < 3 || l.flag 3 || l.flag 5 || l.flag 4 then l else l.enrolIn (l.flag 2)
/-- The End-of-life transition as far as `k` of its steps: both banks erased, the fuses, and the groups (R436). -/
def LifeCycle.retireSteps (l : LifeCycle) (k : Nat) : LifeCycle :=
  let l := if 1 ≤ k then { l with bankA := .erased, bankB := .erased }.mark 8 else l
  let l := if 2 ≤ k then (l.fuse 3).mark 9 else l
  if 3 ≤ k then ({ l with lcm := l.lcm ||| 0xFFFFFFFF0000 } : LifeCycle).mark 10 else l
/-- The End-of-life transition (R436). -/
def LifeCycle.retireNow (l : LifeCycle) : LifeCycle := l.retireSteps 3
/-- What a bank holds: all zeros, the helper data of its enrolment with the check value of K_R, or all ones (`15` R366, R436). -/
def LifeCycle.helper (l : LifeCycle) (b : Bool) : BitVec 24576 × BitVec 128 :=
  match if b then l.bankB else l.bankA with
  | .written => (Config.pufHelper b, ((Config.sm3 (digBytes Config.deviceRoot ++ ascii "STRELNO CHECK")) >>> 128).setWidth 128)
  | .erased => (BitVec.allOnes 24576, BitVec.allOnes 128)
  | _ => (0, 0)

/-! ### Commands (R428, R432, R435, R437) -/

/-- LC.QUERY (R437). -/
def execLcQuery (c : MbxCall) (s : State) : Out :=
  .next (mailbox c (fun _ => { opc := 0x46, masks := [], names := [], ctxs := [], always := true, bad := false, free := true })
    (fun _ s => (s, .done stOk [s.lc.word])) s)
/-- The message of a life-cycle request: UID, then its bytes (R435, `22` R506). -/
def lifeMsg (tail : List Byte) : List Byte := beBytes 8 Config.uid.toNat ++ tail
/-- A signature by the Damyel life-cycle key verifies. -/
def lifeSigned (msg sig : List Byte) : Bool := Config.sm2verify Config.lifeKey (ascii "STRELNO LIFECYCLE") msg sig
/-- LC.RETIRE (R435): E_START is set and a package reset follows. -/
def execLcRetire (c : MbxCall) (s : State) : Out :=
  let r := mailbox c (fun _ => { opc := 0x47, masks := List.replicate 8 allMask, names := [], ctxs := [], always := true
                                 bad := false, free := true })
    (fun a s =>
      if !lifeSigned (lifeMsg (ascii "STRELNO EOL")) (wordBytes (a.take 8)) then
        ({ s with lc := { s.lc with refused := s.lc.refused + 1 } }, .done stAuth [])
      else if s.dev == .ready && s.ctxs.any (fun e => e.2.st != .free) then (s, .done stBusy [])
      else ({ s with lc := { s.lc.mark 7 with retire := true } }, ok))
    { s with lc := { s.lc with retire := false } }
  .next (if r.lc.retire then r.packageReset 4 else r)
/-- LC.ADVANCE (R432): the next package reset begins the transition to Production; in any other state the
instruction selects BYPASS. -/
def execLcAdvance (s : State) : Out :=
  .next (if !s.powered then s
    else if s.lc.tapOpen 12 && s.lc.master == some 1 then { s with lc := { s.lc with advance := true } }
    else { s with lc := { s.lc with tap := Tab.set 0 s.lc.tap 12 0 } })
/-- TEST_ACCESS_PORT_INSTRUCTION (R428, R432): 0 BYPASS, 1 IDCODE, 2 SAMPLE/PRELOAD, 3 EXTEST, 4 scan, BIST and test
modes, 5 hardware debug, 6 D-die test modes, 7 the transition from Blank to Test (numbers of the model, log 37). The
D-die test modes are reached through C-dies alone (R429); a packaged unit has only the X-die's port wired. -/
def execTestAccessPortInstruction (die : Fin 13) (instr : Fin 8) (perst : Bool) (s : State) : Out :=
  let l := s.lc
  let d := die.val
  .next (if !s.powered || !l.wired d then s
    else if instr.val = 7 then
      (if l.die d == 0 && !l.retiring && !l.enrolling && (l.master == some 0 || l.master == some 1) then
        { s with lc := { l with
            dies := l.dies ||| (1#52 <<< (4 * d))
            lcm := if d = 12 then l.lcm ||| 0xFFFF else l.lcm
            code := if d = 12 ∧ l.code = 0 then 1 else l.code } }
      else { s with lc := { l with tap := Tab.set 0 l.tap d 0 } })
    else
      let open_ := instr.val ≤ 2 || (l.tapOpen d && (instr.val != 6 || d < 8)) || (instr.val == 3 && perst)
      { s with lc := { l with tap := Tab.set 0 l.tap d (if open_ then instr.val else 0) } })

end Sys2Proof.Machine
end

