-- ==== Sys2Proof/Machine/Power.lean ====
section
/-! DEFINITION. Supplies, operating points, the power cap, temperatures and reference clocks
(`23_power_thermal_clocks`). Temperatures are in units of 0.125 °C. -/

namespace Sys2Proof.Machine

/-! ### Supplies (R511–R514) -/

/-- MAIN_SUPPLY_RISE (R511, R512): the power stages turn on once both supplies are present. -/
def execMainSupplyRise (s : State) : Out :=
  .next (if s.pw.main then s
    else { s with pw := { s.pw with main := true }, dev := if s.pw.aux && !s.powered then .starting else s.dev })
/-- AUX_SUPPLY_RISE (R511, R512): without 54 V the management island runs alone. -/
def execAuxSupplyRise (s : State) : Out :=
  .next (if s.pw.aux then s
    else { s with pw := { s.pw with aux := true }, dev := if s.pw.main then .starting else .auxOnly })
/-- AUX_SUPPLY_FALL (R511–R513): the power stages turn off with the auxiliary supply, and the island loses its
supply-fault word and its endpoint. -/
def execAuxSupplyFall (s : State) : Out :=
  let b := s.blank
  .next { b with dev := .off, pw := { b.pw with aux := false, islandFault := 0 }, pcie := {} }
/-- Every rail of the 54 V input turns off: a removal of power, with the supply-fault word of the auxiliary island
(R513). The module restarts when 54 V returns. -/
def State.railsOff (s : State) (cause vin iin : Nat) : State :=
  let b := s.blank
  { b with
    dev := .auxOnly
    ras := { sent := 7 }
    pw := { b.pw with main := false, islandFault := at64 cause 56 ||| at64 vin 40 ||| at64 iin 24 } }
/-- SUPPLY_FAULT (R513): causes 1 overcurrent, 2 undervoltage and 3 overvoltage. -/
def execSupplyFault (cause : Fin 4) (vin iin : BitVec 16) (s : State) : Out :=
  .next (if !s.powered || cause = 0 then s else s.railsOff cause vin.toNat iin.toNat)

/-! ### Operating points and the power cap (R515–R519) -/

/-- The point that temperature allows a C-die. -/
def Power.heatPt (p : Power) (c : Nat) : Nat := Tab.get 1 p.heatOp c
/-- The point that a C-die is to run at: the lower-clocked of its target and the one that temperature allows, or the
fixed point of strict partition (R516). -/
def Power.want (p : Power) (c : Nat) : Nat := if p.strict then max 1 p.sPoint else max p.tgt (p.heatPt c)
/-- OPERATING_POINT_CHANGE (R516): a change of one point ends. -/
def execOperatingPointChange (die : Fin 8) (s : State) : Out :=
  let cur := Tab.get 1 s.pw.op die
  let want := s.pw.want die
  .next (if !s.dieFitted die then s
    else { s with pw := { s.pw with
      op := Tab.set 1 s.pw.op die (if cur < want then cur + 1 else if want < cur then cur - 1 else cur) } })

/-- The cap in force: half of it while the brake holds (R517, R519). -/
def Power.capNow (p : Power) : Nat := if p.brake then p.cap / 2 else p.cap
/-- The most that D may be: the operator's duty under strict partition. -/
def Power.maxDuty (p : Power) : Nat := if p.strict then p.sDuty else 64
/-- D set; under strict partition a change that the brake makes counts as a thermal reduction (R519). -/
def Power.setDuty (p : Power) (d : Nat) : Power :=
  { p with duty := d, sThermal := p.sThermal || (p.strict && p.brake && d != p.duty) }
/-- The loop of R517 runs: not under STATIC duty, but as the brake rules use it. -/
def Power.loops (p : Power) : Bool := !(p.strict && p.sStatic) || p.brake || (p.duty < p.sDuty && !p.heatDuty)
/-- One pass of the loop of R517 against the average power of the last millisecond. A step up needs 10 ms below
0.95 of the cap, counted anew after each step; under the brake, its first end lifts the admission limit. -/
def Power.capStep (p : Power) (w : Nat) : Power :=
  let p := { p with pwr := w, cap := p.capNext.getD p.cap, capNext := none }
  let p :=
    if !p.loops then p
    else if p.capNow < w then
      let p := { p with below := 0 }
      if !p.strict && p.tgt < 6 then { p with tgt := p.tgt + 1 } else p.setDuty (max 8 (p.duty - 4))
    else if 100 * w < 95 * p.capNow then
      let p := { p with below := p.below + 1 }
      if p.below < 10 then p
      else
        let p := { p with below := 0, admHalf := false }
        if p.duty < p.maxDuty then p.setDuty (min p.maxDuty (p.duty + 4))
        else if !p.strict && 1 < p.tgt then { p with tgt := p.tgt - 1 }
        else p
    else { p with below := 0 }
  { p with
    caplim := if p.strict then p.duty < p.sDuty else 1 < p.tgt || p.duty < 64
    heatDuty := p.heatDuty && p.duty < p.maxDuty }
/-- POWER_CAP_TICK (R517, R518): `w` is the average input power of the last millisecond, in watts. -/
def execPowerCapTick (w : BitVec 16) (s : State) : Out :=
  .next (if s.powered then { s with pw := s.pw.capStep w.toNat } else s)
/-- PWR_BRAKE_ASSERT (R519): an edge shorter than 1 µs is ignored, as the rule allows (log 40). -/
def execPwrBrakeAssert (long : Bool) (s : State) : Out :=
  let p := { s.pw with brake := true, below := 0 }
  .next (if !long || s.pw.brake then s
    else if s.powered then { s with pw := { p.setDuty (min p.duty 16) with admHalf := true } }
    else { s with pw := p })
/-- PWR_BRAKE_DEASSERT (R519): the cap returns to full, and the loop restores D and the points. -/
def execPwrBrakeDeassert (s : State) : Out := .next { s with pw := { s.pw with brake := false, below := 0 } }

/-! ### Temperatures (R520–R525) -/

/-- A user calibration value: item 0 equaliser, 1 thermal offset, 2 power cap (`22` R509). -/
def Boot.user (b : Boot) (item lane : Nat) : Option W64 := (b.cal.find? fun e => e.1 == 2 ^ 12 * item + lane).map Prod.snd
/-- A reading with the user offset of its sensor group, by the numbers of log 38: 0–7 C-dies, 8–15 D-stacks, 16–19
M-dies, 20 the X-die, 21 the inlet, 22–53 LPDDR6 packages. -/
def State.reading (s : State) (sensor : Nat) (v : BitVec 16) : BitVec 16 :=
  v + BitVec.ofNat 16 ((s.boot.user 1 sensor).getD 0).toNat
/-- Readings of a group of sensors whose first has number `base`. -/
def State.readings (s : State) (base : Nat) (l : List (BitVec 16)) : Tab (BitVec 16) :=
  (l.zipIdx).foldl (fun t p => Tab.set 0 t p.2 (s.reading (base + p.2) p.1)) []
/-- A threshold with hysteresis: on above `hi`, off at `lo` or less. -/
def hyst (old : Bool) (v : BitVec 16) (hi lo : Int) : Bool := hi < v.toInt || (old && lo < v.toInt)
/-- Hottest reading that throttles a C-die: its own and that of its D-stack (R521). -/
def Power.heat (p : Power) (c : Nat) : Int := max (Tab.get 0 p.tj c).toInt (Tab.get 0 p.td c).toInt
/-- A C-die is throttled: it is being lowered, or has not come back to its target (R521). -/
def Power.throttled (p : Power) (c : Nat) : Bool := Tab.get false p.hot c || 1 < p.heatPt c
/-- A throttle holds (R521). -/
def Power.anyThrottle (p : Power) : Bool :=
  ((List.range 8).any fun c => p.throttled c || Tab.get false p.sthr c) ||
    ((List.range 4).any fun m => Tab.get false p.mthr m) || p.heatDuty
/-- A sensor lies within 5 °C of its shutdown threshold (R525). -/
def Power.nearHalt (p : Power) : Bool :=
  ((List.range 8).any fun c => decide (880 ≤ (Tab.get 0 p.tj c).toInt) || decide (840 ≤ (Tab.get 0 p.td c).toInt)) ||
    ((List.range 4).any fun m => decide (880 ≤ (Tab.get 0 p.mtj m).toInt)) || decide (920 ≤ p.xtj.toInt) ||
    (List.range 32).any fun i => decide (800 ≤ (Tab.get 0 p.lp i).toInt)
/-- A table over the first `n` numbers. -/
def flagTab (n : Nat) (f : Nat → Bool) : Tab Bool := (List.range n).foldl (fun t i => Tab.set false t i (f i)) []
/-- The readings taken, the throttles and the refresh rates that they call for, and THERM_ALERT# (R520–R525). -/
def State.sample (s : State) (t : TempIn) : State :=
  let p := { s.pw with
    tj := s.readings 0 (t.tj.take 8), td := s.readings 8 (t.td.take 8), mtj := s.readings 16 (t.mtj.take 4)
    xtj := s.reading 20 t.xtj, inlet := s.reading 21 t.inlet, lp := s.readings 22 (t.lp.take 32) }
  let p := { p with
    hot := flagTab 8 fun c => s.dieFitted c &&
      (if Tab.get false p.hot c then 824 < p.heat c else 840 < p.heat c)
    sthr := flagTab 8 fun c => s.dieFitted c && hyst (Tab.get false p.sthr c) (Tab.get 0 p.td c) 840 824
    mthr := flagTab 4 fun m => hyst (Tab.get false p.mthr m) (Tab.get 0 p.mtj m) 840 824
    dblNext := (List.range 8).foldl (fun d c =>
      let v := Tab.get 0 p.td c
      if p.strict then Tab.set none d c (some true)
      else if 680 < v.toInt then Tab.set none d c (some true)
      else if v.toInt ≤ 656 then Tab.set none d c (some false)
      else d) p.dblNext }
  { s with pw := { p with
      thlim := p.thlim || p.anyThrottle
      alert := p.anyThrottle || decide (320 < p.inlet.toInt) || p.nearHalt || (s.dev == .sentinel && s.ras.sentNow == 6) } }
/-- THERMAL_SAMPLE (R520). -/
def execThermalSample (t : TempIn) (s : State) : Out := .next (if s.powered then s.sample t else s)
/-- One die at a millisecond boundary: lowered while it is too hot, and raised at a 10 ms boundary while it reads
100 °C or less, up to its target (R521). -/
def Power.dieTick (p : Power) (ten : Bool) (c : Nat) : Power :=
  let cur := max p.tgt (p.heatPt c)
  if Tab.get false p.hot c then { p with heatOp := Tab.set 1 p.heatOp c (min 6 (cur + 1)) }
  else if ten && 1 < p.heatPt c && p.heat c ≤ 800 then
    { p with heatOp := Tab.set 1 p.heatOp c (if p.heatPt c - 1 ≤ p.tgt then 1 else p.heatPt c - 1) }
  else p
/-- Throttling at a millisecond boundary (R521); under strict partition D alone changes (R523). -/
def Power.throttleTick (p : Power) : Power :=
  let ten := (p.tick + 1) % 10 == 0
  let p := { p with tick := (p.tick + 1) % 10 }
  let hot := (List.range 8).any fun c => Tab.get false p.hot c
  let lower (p : Power) : Power := { p with duty := max 8 (p.duty - 4), heatDuty := true }
  let p :=
    if p.strict then
      (if hot then { lower p with sThermal := true }
      else if ten && p.heatDuty && (List.range 8).all fun c => decide (p.heat c ≤ 800) then
        let d := min p.sDuty (p.duty + 4)
        { p with duty := d, heatDuty := d < p.sDuty, sThermal := true }
      else p)
    else
      let deep := (List.range 8).any fun c => p.heatPt c == 6 && Tab.get 1 p.op c == 6 && decide (856 < p.heat c)
      let p := (List.range 8).foldl (fun p c => p.dieTick ten c) p
      if deep then lower p else p
  { p with thlim := p.anyThrottle }
/-- THERMAL_THROTTLE_TICK (R521, R523). -/
def execThermalThrottleTick (s : State) : Out := .next (if s.powered then { s with pw := s.pw.throttleTick } else s)
/-- REFRESH_INTERVAL_BOUNDARY (R522): a pending change of the refresh rate is applied; under strict partition every
stack stays doubled (`17` R422). -/
def execRefreshIntervalBoundary (die : Fin 8) (s : State) : Out :=
  .next (if !s.powered || !s.dieFitted die then s
    else
      let d := if s.pw.strict then true else (Tab.get none s.pw.dblNext die).getD (Tab.get false s.pw.dbl die)
      { s with pw := { s.pw with
          dbl := Tab.set false s.pw.dbl die d, dblNext := Tab.set none s.pw.dblNext die none } })
/-- THERMAL_HALT (R524): dies 0–7 are C-dies, 8–11 M-dies and 12 the X-die, whose threshold turns every rail off. The
halt runs from the 10 ms step of R464, so keys and ports stay; the unit kind of a C-die, and what the island
samples, are free (log 40). -/
def execThermalHalt (die : Fin 13) (s : State) : Out :=
  .next (if !s.powered then s
    else if die.val = 12 then
      (match s.free 16 with
      | (v, s) => match s.free 16 with
        | (i, s) => s.railsOff 4 v.toNat i.toNat)
    else
      match (if die.val < 8 then s.free 8 else ((11 : BitVec 8), s)) with
      | (k, s) =>
        let sig : Cper := { cls := 0x0D, outcome := 4, ukind := k.toNat, uidx := if die.val < 8 then die.val else die.val - 8 }
        if s.dev == .sentinel then { s.record sig with pw := { s.pw with alert := true } }
        else
          let s := { s with dev := .sentinel, mem := Tab.drop s.mem (· < 0xC000000000), pw := { s.pw with alert := true } }
          (((s.record sig).writeDump Config.dumpLen).loseAll 0x1C).sentinel 6)

/-! ### Clocks (R528) -/

/-- FAB_REFCLK_LOSS (R528): every port goes DOWN with the outcomes of R276. -/
def execFabRefclkLoss (s : State) : Out :=
  let s : State := { s with pw := { s.pw with fabClk := false } }
  .next ((List.range 16).foldl (fun s p =>
    match (s.port p).st with
    | .up => s.dropPort p
    | .absent => s
    | .down => s
    | _ => s.updPort p fun k => { k.down with fails := k.fails }) s)
/-- FAB_REFCLK_RECOVERY (R528): bring-up resumes. -/
def execFabRefclkRecovery (s : State) : Out :=
  .next ((List.range 16).foldl State.startPort { s with pw := { s.pw with fabClk := true } })

end Sys2Proof.Machine
end

