-- ==== Sys2Proof/Machine/Boot.lean ====
section
/-! DEFINITION. Starts, the firmware image, user calibration and the sealed records
(`22_startup_calibration`, `15` R366–R371). -/

namespace Sys2Proof.Machine

/-! ### The image (R504–R507) -/

/-- The first of several CAUSE codes, by the order of *Start failures*; 0 when none holds. -/
def firstCause (l : List (Bool × Nat)) : Nat := ((l.filter Prod.fst).map Prod.snd).headD 0
/-- CAUSE of the stored image: its own defect as written, a revoked key, or an SVN below the rollback counter or above 64
(R505). -/
def Boot.check (b : Boot) : Nat :=
  let own (c : Nat) : Bool × Nat := (b.imgCause == c, c)
  firstCause [own 1, (b.imgCause == 2 || b.revoked.getLsbD b.imgKey, 2), own 3,
    (b.imgCause == 4 || b.imgSvn < b.ctr || 64 < b.imgSvn, 4), own 5, own 6]
/-- CAUSE of an image held in memory; the ROM's service leaves out MINROM (R507). -/
def Boot.checkIn (b : Boot) (x : ImageIn) (rom : Bool) : Nat :=
  firstCause [(!x.formOk, 1), (!x.pubOk || b.revoked.getLsbD x.key, 2), (!x.romOk && !rom, 3),
    (x.svn.toNat < b.ctr || 64 < x.svn.toNat, 4), (!x.bodyOk, 5), (!x.sigOk, 6)]
/-- Boot hold with this CAUSE accepts a recovery image (R502). -/
def recovers (cause : Nat) : Bool := (1 ≤ cause && cause ≤ 6) || cause == 9
/-- Status of a PLDM answer: done, a verification failure, or not ready (`13` R341, log 36). -/
def pldmReply (s : State) (code : Nat) : State := { s with pcie := { s.pcie with resp := [BitVec.ofNat 8 code] } }
/-- IMAGE_WRITE (R507): an image that passes is written to the slot; `ends` is whether the write has also ended and
been read back. Until then a reset leaves a slot that fails. A recovery image restarts the ROM at step 1. -/
def execImageWrite (x : ImageIn) (ends : Bool) (s : State) : Out :=
  let rom := s.dev == .bootHold && s.boot.recov
  .next (if !(rom || (s.dev == .ready && s.pcie.agent.isSome)) || s.ras.yorekHeld then s
    else if s.boot.checkIn x rom != 0 then pldmReply s 1
    else if !ends then { s with boot := { s.boot with writing := true } }
    else
      let b := { s.boot with
        writing := false, imgKey := x.key, imgSvn := x.svn.toNat, imgFwm := x.fwm
        imgCause := if x.romOk then 0 else 3 }
      pldmReply { s with boot := b, dev := if rom then .starting else s.dev, pcie := { s.pcie with agent := none } } 0)
/-- FW.REVOKE (R506): signed over UID, the key's index and "STRELNO REVOKE". -/
def execFwRevoke (c : MbxCall) (s : State) : Out :=
  .next (mailbox c (fun _ => { opc := 0x48, masks := lowMask 2 :: List.replicate 8 allMask, names := [], ctxs := []
                               always := false, bad := false, free := true })
    (fun a s =>
      let i := fld (argAt a 0) 1 0
      let r := s.boot.revoked ||| BitVec.ofNat 4 (2 ^ i)
      if !lifeSigned (lifeMsg (BitVec.ofNat 8 i :: ascii "STRELNO REVOKE")) (wordBytes ((a.drop 1).take 8)) then
        (s, .done stAuth [])
      else if r = 15 then (s, .done stBusy [])
      else ({ s with boot := { s.boot with revoked := r } }, ok)) s)

/-! ### User calibration (R509, R510) -/

/-- The item and the lane or sensor that a command names exist: 80 lanes (0–15 PCIe, then 4 per port), 54 sensor
groups, one power cap (log 38). -/
def calBad (a : List W64) : Bool :=
  let lane := fld (argAt a 0) 15 4
  match fld (argAt a 0) 3 0 with
  | 0 => decide (80 ≤ lane)
  | 1 => decide (54 ≤ lane)
  | 2 => lane != 0
  | _ => true
/-- Signed byte `i` of a value: an FFE tap (log 38). -/
def calTap (v : W64) (i : Nat) : Int := (v.extractLsb' (8 * i) 8).toInt
/-- A value lies within the bounds of *User calibration*. -/
def calFits (item lane : Nat) (v : W64) : Bool :=
  match item with
  | 0 => (List.range 8).all fun i =>
      let d := calTap v i - calTap (Config.factoryCal 0 lane) i
      decide (-4 ≤ d) && decide (d ≤ 4)
  | 1 => decide (-16 ≤ v.toInt) && decide (v.toInt ≤ 16)
  | _ => decide (1000 ≤ v.toNat) && decide (v.toNat ≤ 2600) && v.toNat % 10 == 0
/-- A record as it is sealed: encrypted with SM4-CTR under K_SEAL[255:128] from an input that holds the sequence number, and an
HMAC-SM3 under K_SEAL[127:0] over the ciphertext and the sequence number, which the copy stores with them (R510; the layout of
the records and the counter block are log 38). -/
def State.sealed (s : State) (seq : Nat) (b : List Byte) : Nat × List Byte × BitVec 256 :=
  let k := (s.kslot 2).value
  let ks := (List.range (b.length / 16 + 1)).flatMap fun i =>
    cipherBytes (Config.sm4 ((k >>> 128).setWidth 128) (BitVec.ofNat 128 (seq * 2 ^ 64 + i)))
  let ct := List.zipWith (· ^^^ ·) b ks
  (seq, ct, hmac ((k.setWidth 128).setWidth 256 <<< 128) (ct ++ leBytes 8 seq))
/-- A record is written to SPI NOR: to the copy with the lower sequence number, under the next number (R510). -/
def State.sealTo (s : State) (rec : Nat) (b : List Byte) : State :=
  let seq := s.boot.seq + 1
  let n (copy : Nat) : Nat := (Tab.get (0, [], 0) s.boot.nor (2 * rec + copy)).1
  let at_ := 2 * rec + b2n (n 1 < n 0)
  { s with boot := { s.boot with seq := seq, nor := Tab.set (0, [], 0) s.boot.nor at_ (s.sealed seq b) } }
/-- The training record: FWM, data rate and the die temperatures (R500; its layout is log 38). -/
def State.trainBytes (s : State) : List Byte :=
  digBytes s.boot.fwm ++ leBytes 4 s.boot.rate ++ (List.range 8).flatMap (fun i => leBytes 2 (Tab.get 0 s.pw.tj i).toNat) ++
    (List.range 4).flatMap (fun i => leBytes 2 (Tab.get 0 s.pw.mtj i).toNat) ++ leBytes 2 s.pw.xtj.toNat
/-- The user calibration record: its items with their values (its layout is log 38). -/
def Boot.calBytes (b : Boot) : List Byte := b.cal.flatMap fun e => leBytes 4 e.1 ++ leBytes 8 e.2.toNat
/-- CAL.WRITE (R509): an accepted value is sealed; a power cap takes effect at the next millisecond boundary (`23` R517).
While an image is written it is refused with BUSY (R507). -/
def execCalWrite (c : MbxCall) (s : State) : Out :=
  .next (mailbox c (fun a => { opc := 0x49, masks := [lowMask 16, allMask], names := [], ctxs := []
                               always := false, bad := calBad a, free := true })
    (fun a s =>
      let item := fld (argAt a 0) 3 0
      let lane := fld (argAt a 0) 15 4
      let v := argAt a 1
      if s.boot.writing then (s, .done stBusy [])
      else if !calFits item lane v then (s, .refused 0)
      else
        let b := { s.boot with
          cal := (2 ^ 12 * item + lane, v) :: s.boot.cal.filter fun e => e.1 != 2 ^ 12 * item + lane }
        let s : State := { s with boot := b, pw := if item = 2 then { s.pw with capNext := some v.toNat } else s.pw }
        (s.sealTo 1 s.boot.calBytes, ok)) s)
/-- CAL.READ (R509): the user value, which is a free value where none was written (log 38), and the factory value. -/
def execCalRead (c : MbxCall) (s : State) : Out :=
  .next (mailbox c (fun a => { opc := 0x4A, masks := [lowMask 16], names := [], ctxs := []
                               always := true, bad := calBad a, free := true })
    (fun a s =>
      let item := fld (argAt a 0) 3 0
      let lane := fld (argAt a 0) 15 4
      match s.boot.user item lane with
      | some v => (s, .done stOk [v, Config.factoryCal item lane])
      | none => match s.free 64 with
        | (r, s) => (s, .done stOk [r, Config.factoryCal item lane])) s)
/-- TRAINING_RECORD_SEAL (R510): it never overlaps an image write. -/
def execTrainingRecordSeal (s : State) : Out :=
  .next (if s.dev == .ready && s.boot.sealDue && !s.boot.writing then
      let s : State := { s with boot := { s.boot with train := some (s.boot.fwm, s.boot.rate), sealDue := false } }
      s.sealTo 0 s.trainBytes
    else s)

/-! ### Starts (R498–R503) -/

/-- The link runs below 64 GT/s ×16 (`13` R321). -/
def Pcie.degraded (p : Pcie) : Bool := p.up && (p.speed < 6 || p.width < 16)

/-- Boot hold (R502): enumeration completes, and the host is told once it listens. -/
def State.bootHold (s : State) (cause : Nat) : State :=
  ({ s with dev := .bootHold, boot := { s.boot with cause := cause, recov := recovers cause }
            pcie := { s.pcie with rrs := false } }).irq 0
/-- A start that ends in Sentinel mode (`15` R367, R383): 4 PUF failure, 5 entropy failure. The class of its signature is
free (log 17). -/
def State.startFails (s : State) (code : Nat) : State :=
  match s.free 8 with
  | (k, s) =>
    let s : State := { s with dev := .sentinel, pcie := { s.pcie with rrs := false } }
    (s.record { cls := k.toNat, outcome := 4, ukind := 10 }).sentinel code
/-- Step `n` has ended. -/
def State.stepDone (s : State) (n : Nat) : State := { s with boot := { s.boot with step := n } }
/-- A transition is pending. -/
def LifeCycle.pends (l : LifeCycle) : Bool := l.retiring || l.enrolling || (l.advance && l.master == some 1)
/-- The ROM reads the life-cycle words and carries out or resumes a pending transition (step 1; `18` R431–R436). With `cut` the
start has not ended, and the transition has done so many of its steps; the report code is that of the state found. -/
def LifeCycle.begin (l : LifeCycle) (trip : Nat) (good : Bool) (cut : Option (Fin 6) := none) : LifeCycle :=
  let l := { l with trip := min trip 52 }
  let l :=
    if l.retiring then (match cut with
      | some k => l.retireSteps k
      | none => l.retireNow)
    else if l.pends then (match cut with
      | some k => l.produceSteps k
      | none => (l.produce good).1)
    else l
  { l with advance := false, code := BitVec.ofNat 8 l.report }
/-- Mismatching dies are logged (`18` R431; class and outcome free, log 17). -/
def State.logDies (s : State) : State :=
  if s.lc.master.isNone then s
  else ((List.range 13).filter s.lc.dmis).foldl (fun s d =>
    match s.free 16 with
    | (r, s) => s.record { cls := r.toNat % 256, outcome := r.toNat / 256 % 5, ukind := 10, uidx := d }) s
/-- The identity scalar d_ID of the unit (`15` R371). -/
def deviceIdent : BitVec 256 := sm2scalar (kdf Config.deviceRoot "STRELNO IDENT" (beBytes 8 Config.uid.toNat) 320)
/-- Device Serial Number: the first 8 B of SM3 over the identity public key, little-endian (`13` R322). -/
def deviceSerial : Nat := leNat ((digBytes (Config.sm3 (Config.sm2public deviceIdent))).take 8)
/-- Keys of slots 0 to 2 once K_R is verified (step 2; `15` R368, R371). -/
def State.rootKeys (s : State) : State :=
  let kr := Config.deviceRoot
  let uid := beBytes 8 Config.uid.toNat
  let s := s.fillSlot 0 { kind := 0, parent := 0, use := useDerive, dev := true } kr
  let s := s.fillSlot 1 { kind := 1, parent := 0, use := useSign, dev := true } deviceIdent
  s.fillSlot 2 { kind := 2, parent := 0, use := useDerive, dev := true } (BitVec.ofNat 256 (kdf kr "STRELNO SEAL" uid 256))
/-- d_ID signs the certificate of d_AL, which binds FWM (`15` R371; the content and the signer's identifier are log 23). -/
def State.certify (s : State) : State :=
  if !s.serves 1 2 then s.keyRefused
  else
    let m := Config.sm2public (s.kslot 4).value ++ digBytes s.boot.fwm
    { s with keys := { s.keys with cert := m ++ Config.sm2sign (s.kslot 1).value (ascii "STRELNO DEVICE") m } }
/-- The transport keys of the bridle, of each link in each direction, drawn with prediction resistance (`15` R376, R381, `16`
R390); none when the key DRBG refuses one. -/
def State.drawTransport (s : State) : Option State :=
  (List.range 36).foldl (fun (r : Option State) i => r.bind fun s => (s.drawFresh 128).map fun d =>
    { d.2 with keys := { d.2.keys with bridleKey := Tab.set 0 d.2.keys.bridleKey i d.1 } }) (some s)
/-- The alias of the running firmware (step 4). -/
def State.aliasKey (s : State) : State :=
  (s.fillSlot 4 { kind := 4, parent := 0, use := useSign, dev := true }
    (sm2scalar (kdf Config.deviceRoot "STRELNO ALIAS" (digBytes s.boot.fwm) 320))).certify
/-- Firmware loads the route table (step 4; `01` R17). -/
def State.loadRoutes (s : State) : State := { s with routes := bridleRoutes }
/-- The initiator entries of the device's own initiators at every target (`07` R169, R170): Yorek and the pool movers pass
any granule; the PCIe function, the collective engine, the handoff and rekey engines and the link ports do not. The CTX of a
link port's entry, which the manual does not give, is 0 and admits nothing (DESIGN CHOICE, log 10). -/
def State.deviceInits (s : State) : State :=
  let any : InitEntry := { v := true, r := true, w := true, any := true }
  let own : InitEntry := { v := true, r := true, w := true }
  let e : Tab InitEntry := ((List.range 16).map fun p => (708 + p, own)) ++ [(724, own), (725, any), (726, own)] ++
    ((List.range 12).map fun m => (727 + m, any)) ++ ((List.range 10).map fun m => (739 + m, own))
  { s with targets := (List.range targetCount).map fun t => (t, { initA := e, initS := e }) }
/-- What training and calibration leave (step 5; R500, R509, R510). -/
def State.trained (s : State) (i : StartIn) : State :=
  let warm := i.trainOk && i.tempOk && s.boot.train == some (s.boot.fwm, i.rate)
  let fell := if warm then min i.fallback 72 else 0
  { s with boot := { s.boot with
    rate := i.rate, warm := warm && fell == 0, fallbk := fell, sealDue := !warm || fell != 0, calok := i.calOk
    cal := if i.calOk then s.boot.cal else []
    calFail := s.boot.calFail + (if i.calOk then 0 else 1) + (if i.trainOk then 0 else 1) } }
/-- The module becomes Ready, and the rollback counter follows the image (step 7; R498, R501, R506). -/
def State.readyNow (s : State) (i : StartIn) : State :=
  { s.deviceInits with
    dev := .ready
    pcie := { s.pcie with rrs := false }
    boot := { s.boot with step := 7, tstart := min i.ms 65535, ctr := max s.boot.ctr s.boot.svn } }
/-- Steps 5 to 7: training, link start and Ready (R498, R500, R501, R506). -/
def State.startEnd (s : State) (i : StartIn) : State :=
  let s := s.trained i
  if !i.bad.isEmpty then
    (i.bad.foldl (fun s x => s.record { cls := 0x02, outcome := 4, ukind := if x.1 then 5 else 4, uidx := x.2 }) s).bootHold 8
  else
    let s := s.stepDone 5
    let cap := ((s.boot.user 2 0).map BitVec.toNat).getD 2600
    let s : State := { s with pw := { s.pw with cap := cap } }
    let s := ((List.range 16).foldl State.startPort s).stepDone 6
    let s := s.readyNow i
    if s.pcie.degraded then s.linkEvent 0xFF else s
/-- The machine as a start finds it: it holds nothing of the previous start (R498, R499). -/
def State.romStart (s : State) (i : StartIn) : State :=
  { s.blank with
    ras := { s.ras with sentNow := 0, tripped := false, yorekHeld := false, unitCnt := 0 }
    pcie := { s.pcie with rrs := true, d3hot := false }
    pw := { s.blank.pw with fault := s.pw.islandFault }
    tet := { tdomCfg := s.tet.tdomCfg }
    lc := s.lc.begin i.trip i.pufOk i.cut
    dev := .starting }
/-- The PUF is read, up to four times (step 2; `15` R366–R368): what it shows is a free value, and before firmware runs the array
and all that the ROM has made of it are zero. -/
def State.readPuf (s : State) (i : StartIn) : State :=
  { s with lc := { s.lc with puf := 0, pufReads := if i.pufOk then i.pufBad.val + 1 else 4, pufFailed := !i.pufOk } }
/-- No bank holds helper data with a check value that a read could match (`15` R367, `18` R434, R436). -/
def LifeCycle.noHelper (l : LifeCycle) : Bool := l.flag 7 || l.enrolling
/-- The image that the ROM has checked is the running one (step 3; R504, R505). -/
def State.runImage (s : State) : State :=
  { s with boot := { s.boot with svn := s.boot.imgSvn, keyidx := s.boot.imgKey, fwm := s.boot.imgFwm } }
/-- Steps 3 and 4 and what follows (R504–R508). -/
def State.startImage (s : State) (i : StartIn) : State :=
  if !i.norOk then s.bootHold 9
  else if s.boot.check != 0 then s.bootHold s.boot.check
  else
    let s := (s.stepDone 3).runImage
    if !i.factoryOk then s.bootHold 7
    else if !i.trngOk then ({ s with keys := { s.keys with failed := true } } : State).startFails 5
    else match s.drawTransport.bind fun s => s.drawFresh 256 with
      | none => s.startFails 5
      | some (kmr, s) =>
          ((s.fillSlot 3 { kind := 3, parent := 3, use := useDerive + useMemory, dev := true } kmr).aliasKey.loadRoutes.stepDone 4).startEnd i
/-- A start (R498, R499): steps 1 and 2, and what follows. -/
def State.startUp (s : State) (i : StartIn) : State :=
  let cut := s.lc.pends && i.cut.isSome
  let s := (s.romStart i).logDies
  if !i.selfOk then s.trip 3
  else if cut then s
  else
    let s := s.stepDone 1
    if s.lc.master == some 0 || s.lc.master == some 1 then s
    else
      let s := s.readPuf { i with pufOk := i.pufOk && !s.lc.noHelper }
      if s.lc.pufFailed then s.startFails 4
      else (s.rootKeys.stepDone 2).startImage i
/-- START (R498). -/
def execStart (i : StartIn) (s : State) : Out := .next (if s.dev == .starting then s.startUp i else s)
/-- START_TIMER_EXPIRY (R499): in the Blank and Test states the ROM waits for the tester. -/
def execStartTimerExpiry (s : State) : Out :=
  .next (if s.dev == .starting && s.lc.master != some 0 && s.lc.master != some 1 then s.bootHold 0x0A else s)

end Sys2Proof.Machine
end

