-- ==== Sys2Proof/Machine/Regs.lean ====
section
/-! DEFINITION. The registers of BAR0 by offset: their values, reserved bits and effects
(`00` R8, R9, `25_register_reference`). -/

namespace Sys2Proof.Machine

/-! ### The log store as bytes (`20` R476–R478) -/

/-- Bytes of a GUID of *CPER header values*, as it is stored: the Damyel section. -/
def guidDamyel : List Byte := [0x41, 0x8C, 0x2A, 0x5D, 0x03, 0x7E, 0x9F, 0x4B, 0xA6, 0xD2, 0x31, 0xC0, 0xE5, 0x8F, 0x9B, 0x17]
/-- The PCI Express notification type of the UEFI specification (PRESUMED, log 36). -/
def guidPcie : List Byte := [0x1F, 0xC0, 0x93, 0xCF, 0x16, 0x1A, 0xFC, 0x4D, 0xB8, 0xBC, 0x9C, 0x4D, 0xAF, 0x67, 0xC1, 0x04]
/-- The Damyel failure section, 128 B (R478). -/
def Cper.section (e : Cper) : List Byte :=
  leBytes 2 1 ++ leBytes 1 e.cls ++ leBytes 1 e.outcome ++ leBytes 1 e.ukind ++ leBytes 1 e.flags ++ leBytes 2 e.uidx ++
    leBytes 4 e.test ++ leBytes 2 e.row ++ leBytes 2 e.col ++ leBytes 16 e.synd.toNat ++ leBytes 8 e.step ++
    leBytes 8 e.tether.toNat ++ leBytes 8 e.da ++ leBytes 2 e.ctx ++ leBytes 1 e.cause ++ [0] ++ leBytes 4 e.count ++
    leBytes 8 e.flg.toNat ++ List.replicate 56 0
/-- Error Severity of an outcome (R477). -/
def Cper.severity (e : Cper) : Nat :=
  match e.outcome with
  | 0 => 2
  | 1 => 3
  | 5 => 3
  | 4 => 1
  | _ => 0
/-- A failure signature as a record of 328 B (R477): the header, one section descriptor and the section. -/
def Cper.bytes (e : Cper) : List Byte :=
  ascii "CPER" ++ leBytes 2 0x0101 ++ leBytes 4 0xFFFFFFFF ++ leBytes 2 1 ++ leBytes 4 e.severity ++ leBytes 4 1 ++
    leBytes 4 328 ++ leBytes 8 0 ++ leBytes 16 deviceSerial ++ List.replicate 16 0 ++ guidDamyel ++ guidPcie ++
    leBytes 8 e.id ++ List.replicate 24 0 ++
    leBytes 4 200 ++ leBytes 4 128 ++ List.replicate 4 0 ++ leBytes 4 1 ++ guidDamyel ++ List.replicate 20 0 ++
    ascii "STRELNO S8" ++ List.replicate 10 0 ++ e.section
/-- The 8 B of the log store at a byte offset: the ring of signatures, then the crash dump. -/
def Ras.logWord (r : Ras) (a : Nat) : W64 :=
  if a < 2 ^ 20 then
    (match Tab.get none r.log (a / 512) with
    | some e => wordAt e.bytes (a % 512 / 8)
    | none => 0)
  else if r.dumpPres && a - 2 ^ 20 < r.dumpLen then Config.dumpWord r.dumpNo ((a - 2 ^ 20) / 8)
  else 0

/-! ### Blocks (R547–R549) -/

/-- A block or counter region of BAR0. -/
inductive Blk
  /-- XGLB. -/
  | glb
  /-- XHIF. -/
  | hif
  /-- XTET. -/
  | tet
  /-- XCOL. -/
  | col
  /-- XLNK of a port. -/
  | lnk (p : Nat)
  /-- XPWR. -/
  | pwr
  /-- XTHM. -/
  | thm
  /-- XLOG. -/
  | log
  /-- YMBX. -/
  | mbx
  /-- MDDR of an M-die. -/
  | mddr (m : Nat)
  /-- MUPD of an M-die. -/
  | mupd (m : Nat)
  /-- MCRY of an M-die. -/
  | mcry (m : Nat)
  /-- CCLU of a cluster. -/
  | cclu (k : Nat)
  /-- The counter region of a core. -/
  | core (n : Nat)
  /-- CDST of a C-die. -/
  | cdst (d : Nat)
  /-- No block: XSEC among them (R547). -/
  | none
  deriving DecidableEq, Repr

/-- Block and offset in it of a BAR0 offset. -/
def blkAt (o : Nat) : Blk × Nat :=
  let b := o / 0x10000
  let x := o % 0x10000
  if b = 0 then (.glb, x)
  else if b = 1 then (.hif, x)
  else if b = 3 then (.tet, x)
  else if b = 4 then (.col, x)
  else if 0x10 ≤ b ∧ b < 0x20 then (.lnk (b - 0x10), x)
  else if b = 0x20 then (.pwr, x)
  else if b = 0x21 then (.thm, x)
  else if b = 0x22 then (.log, x)
  else if b = 0x23 then (.mbx, x)
  else if 0x100 ≤ b ∧ b < 0x200 then
    let m := (b - 0x100) / 0x40
    let y := o % 0x400000
    if y / 0x100000 = 0 then (.mddr m, y)
    else if y / 0x100000 = 1 then (.mupd m, y % 0x100000)
    else if y / 0x100000 = 2 then (.mcry m, y % 0x100000)
    else (.none, y)
  else if 0x200 ≤ b ∧ b < 0x400 then
    let d := (b - 0x200) / 0x40
    let y := o % 0x400000
    if 0x200000 ≤ y then (.cdst d, y - 0x200000)
    else
      let k := 8 * d + y / 0x40000
      let z := y % 0x40000
      if 0x10000 ≤ z ∧ z < 0x20000 then (.core (8 * k + (z - 0x10000) / 0x2000), (z - 0x10000) % 0x2000)
      else (.cclu k, z)
  else (.none, x)
/-- The block has no registers on this unit: those of the disabled C-die (R549). Ports that are not fitted keep
XLNK.STAT alone. -/
def State.blkAbsent (s : State) (b : Blk) (x : Nat) : Bool :=
  match b with
  | .lnk p => !s.portFitted p && x != 8
  | .cclu k => !s.dieFitted (k / 8)
  | .core n => !s.dieFitted (n / 64)
  | .cdst d => !s.dieFitted d
  | _ => false
/-- The unit of the block is resetting (R549). -/
def State.blkDown (s : State) (b : Blk) : Bool :=
  match b with
  | .mddr m => s.resetting 3 m
  | .mupd m => s.resetting 3 m
  | .mcry m => s.resetting 3 m
  | .cclu k => s.resetting 1 k || s.resetting 2 (k / 8)
  | .core n => s.coreDown n
  | .cdst d => s.resetting 2 d
  | _ => false
/-- The LPDDR6 of an M-die is in self-refresh: from the fence of its reset on, and in Sentinel mode (`07` R175, `21` R496). -/
def State.selfRefresh (s : State) (m : Nat) : Bool :=
  s.dev == .sentinel || s.ras.resets.any fun r => r.kind == 3 && r.idx == m && !r.fence
/-- Blocks that stay readable in Sentinel mode and boot hold (`13` R344, `22` R502). -/
def Blk.kept : Blk → Bool
  | .glb => true
  | .pwr => true
  | .thm => true
  | .log => true
  | .mbx => true
  | _ => false
/-- Number of registers of 8 B from `lo`, `n` of them, that an offset falls on. -/
def inRow (x lo n : Nat) : Bool := lo ≤ x && x < lo + 8 * n && x % 8 == 0
/-- The block holds counters, with their CTL at its offset 0 (R551). -/
def Blk.counted : Blk → Bool
  | .hif => true
  | .col => true
  | .lnk _ => true
  | .mddr _ => true
  | .mupd _ => true
  | .mcry _ => true
  | .cclu _ => true
  | .core _ => true
  | .cdst _ => true
  | _ => false
/-- The offset is that of a counter of its block. -/
def Blk.counter (b : Blk) (x : Nat) : Bool :=
  match b with
  | .hif => x == 0x10
  | .col => inRow x 0x400 64
  | .lnk _ => inRow x 0x100 45
  | .mddr _ => 0x100 ≤ x && x < 0x500 && inRow ((x - 0x100) % 0x40) 0 6
  | .mupd _ => inRow x 0x100 7 || inRow x 0x1000 512
  | .mcry _ => inRow x 0x100 7
  | .cclu _ => inRow x 0x100 10
  | .core _ => inRow x 0x100 24
  | .cdst _ => inRow x 0x100 128 || inRow x 0x800 10
  | _ => false

/-! ### Values (R552–R564) -/

/-- Bits `[hi:lo]` as a mask. -/
def bits (hi lo : Nat) : W64 := w64 (2 ^ (hi + 1) - 2 ^ lo)
/-- Device ID (`13` R322). -/
def OrdCode.device : OrdCode → Nat
  | .s7x2t0f16 _ => 0x5307
  | _ => 0x5308
/-- A number with bit `i` set for each `i` below `n` that holds. -/
def maskOf (n : Nat) (f : Nat → Bool) : Nat := (List.range n).foldl (fun a i => a + b2n (f i) * 2 ^ i) 0
/-- XLNK.STAT.STATE (R260). -/
def PortState.code : PortState → Nat
  | .down => 0
  | .train => 1
  | .hello => 2
  | .attest => 3
  | .keyx => 4
  | .up => 5
  | .admitFail => 6
  | .absent => 7
/-- XGLB.BOOTSTAT (`22` R503). -/
def State.bootStat (s : State) : W64 :=
  let b := s.boot
  at64 b.step 56 ||| at64 b.cause 48 ||| at64 (b2n b.warm) 47 ||| at64 (b2n (s.dev == .bootHold)) 46 ||| at64 (b2n b.recov) 45 |||
    at64 b.svn 38 ||| at64 b.ctr 31 ||| at64 b.keyidx 29 ||| at64 b.revoked.toNat 25 ||| at64 b.fallbk 17 |||
    at64 (b2n b.calok) 16 ||| w64 b.tstart
/-- A temperature in bits [63:48]. -/
def tempAt (t : BitVec 16) : W64 := at64 t.toNat 48
/-- A value and the reserved bits of its register. -/
def reg_ (v rsv : W64) : Option (W64 × W64) := some (v, rsv)
/-- Registers of XGLB (R553). -/
def State.regGlb (s : State) (x : Nat) : Option (W64 × W64) :=
  match x with
  | 0x00 => reg_ (at64 1 48 ||| at64 Config.revision.toNat 40 ||| at64 s.code.subsystem 32 ||| at64 s.code.device 16 ||| w64 0x1F5C) 0
  | 0x08 => reg_ (at64 (maskOf 8 s.dieFitted) 56 ||| at64 0xF 52 ||| at64 (maskOf 16 s.portFitted) 36 |||
      at64 (match s.code with | .s7x2t0f16 d => d.val | _ => 0xF) 32 ||| at64 s.node 16) (bits 15 0)
  | 0x10 => reg_ (s.reg 0x10) 0
  | 0x18 => reg_ (at64 s.ras.pkg 56 ||| at64 s.ras.sent 48 ||| at64 s.ras.pkgCnt 32 ||| at64 s.ras.unitCnt 16) (bits 15 0)
  | 0x20 => reg_ s.bootStat 0
  | 0x28 => reg_ (s.reg 0x28) (bits 63 4)
  | _ => none
/-- Registers of XHIF. -/
def State.regHif (s : State) (x : Nat) : Option (W64 × W64) :=
  let p := s.pcie
  if x = 8 then
    reg_ (if !p.up then 0 else at64 p.speed 60 ||| at64 p.width 55 ||| at64 (b2n p.flit) 54 ||| at64 p.l0pw 49 |||
      at64 (b2n p.degraded) 48) (bits 47 0)
  else if inRow x 0x1000 4096 then reg_ (s.reg (regXhif + x)) 0
  else none
/-- Registers of XTET. -/
def State.regTet (s : State) (x : Nat) : Option (W64 × W64) :=
  let t := s.tet
  match x with
  | 0x08 => reg_ t.ns 0
  | 0x10 => reg_ (w64 t.fracL.toNat) (bits 63 16)
  | 0x18 => reg_ (at64 t.st.code 62 ||| at64 t.pport 58 ||| at64 t.hops 53 ||| at64 (b2n t.mast) 52 ||| w64 t.theta.toNat) (bits 51 32)
  | 0x20 => reg_ t.base 0
  | 0x28 => reg_ (w64 t.tdomCfg.toNat) (bits 63 16)
  | 0x30 => reg_ t.ptmH 0
  | 0x38 => reg_ t.ptmTL 0
  | _ => none
/-- Registers of XCOL. -/
def State.regCol (s : State) (x : Nat) : Option (W64 × W64) :=
  if inRow x 8 32 then
    reg_ (w64 (leNat ((List.range 8).map fun k => BitVec.ofNat 8 (Tab.get 0x1F s.slotTab (x - 8 + k))))) 0
  else if x = 0x108 then reg_ (w64 s.slotSwap) 0
  else if inRow x 0x200 16 then
    let k := s.coll ((x - 0x200) / 8)
    reg_ (at64 (b2n k.bound) 63 ||| at64 (b2n k.stop) 62 ||| at64 k.ctx 50 ||| at64 k.hid 18) (bits 17 0)
  else none
/-- XLNK.CFG as a word. -/
def Port.cfgWord (k : Port) : W64 :=
  at64 (b2n k.lock) 63 ||| at64 (b2n k.cfgMode) 62 ||| at64 (k.weights.getD 0 0) 58 ||| at64 (k.weights.getD 1 0) 54 |||
    at64 (k.weights.getD 2 0) 50 ||| at64 (k.weights.getD 3 0) 46 ||| at64 (k.weights.getD 4 0) 42 |||
    at64 (k.weights.getD 5 0) 38
/-- Registers of XLNK. -/
def State.regLnk (s : State) (p x : Nat) : Option (W64 × W64) :=
  let k := s.port p
  match x with
  | 0x08 => if !s.portFitted p then reg_ (at64 7 60) (bits 58 58 ||| bits 9 0)
      else reg_ (at64 k.st.code 60 ||| at64 (b2n k.mode) 59 ||| at64 k.peer 42 ||| at64 k.tx.epoch 10) (bits 58 58 ||| bits 9 0)
  | 0x10 => reg_ (w64 k.rx.epoch) (bits 63 32)
  | 0x18 => reg_ k.cfgWord (bits 37 0)
  | _ => none
/-- Registers of XPWR (R559, `23` R518). -/
def State.regPwr (s : State) (x : Nat) : Option (W64 × W64) :=
  let p := s.pw
  match x with
  | 0x08 => reg_ (at64 p.pwr 48 ||| at64 p.capNow 36 ||| at64 p.tgt 33 ||| at64 p.duty 26 ||| at64 (b2n p.brake) 25 |||
      at64 (b2n p.caplim) 24 ||| at64 (b2n p.thlim) 23 ||| at64 (b2n p.alert) 22) (bits 21 0)
  | 0x10 => reg_ p.fault (bits 23 0)
  | _ => none
/-- Registers of XTHM (R560). -/
def State.regThm (s : State) (x : Nat) : Option (W64 × W64) :=
  let p := s.pw
  let c := (x - 8) / 8
  if inRow x 0x08 8 then
    reg_ (if !s.dieFitted c then 0 else tempAt (Tab.get 0 p.tj c) ||| at64 (Tab.get 0 p.td c).toNat 32 ||| at64 (Tab.get 1 p.op c) 29 |||
      at64 (b2n (Tab.get false p.dbl c)) 28 ||| at64 (b2n (p.throttled c)) 27 ||| at64 (b2n (Tab.get false p.sthr c)) 26)
      (bits 25 0)
  else if inRow x 0x48 4 then
    reg_ (tempAt (Tab.get 0 p.mtj (c - 8)) ||| at64 (b2n (Tab.get false p.mthr (c - 8))) 47) (bits 46 0)
  else if x = 0x68 then reg_ (tempAt p.xtj) (bits 47 0)
  else if x = 0x70 then reg_ (tempAt p.inlet ||| at64 (b2n (decide (320 < p.inlet.toInt))) 47) (bits 46 0)
  else if inRow x 0x100 32 then
    let v := Tab.get 0 p.lp ((x - 0x100) / 8)
    reg_ (tempAt v ||| at64 (b2n (decide (680 < v.toInt))) 47) (bits 46 0)
  else none
/-- Registers of XLOG. -/
def State.regLog (s : State) (x : Nat) : Option (W64 × W64) :=
  let r := s.ras
  match x with
  | 0x08 => reg_ (w64 r.cethr.toNat) (bits 63 32)
  | 0x10 => reg_ 0 (bits 63 1)
  | 0x18 => reg_ (at64 (b2n r.dumpPres) 63 ||| at64 (b2n r.dumpBusy) 62 ||| w64 (r.dumpLen % 2 ^ 32)) (bits 61 32)
  | 0x20 => reg_ r.nextId 0
  | 0x28 => reg_ (w64 r.addr.toNat) (bits 63 22 ||| bits 2 0)
  | 0x30 => reg_ (r.logWord r.addr.toNat) 0
  | 0x38 => reg_ s.lc.word (bits 63 48)
  | _ => none
/-- Registers of YMBX (R565). -/
def State.regMbx (s : State) (x : Nat) : Option (W64 × W64) :=
  if x = 0x8000 then reg_ (s.reg (regYmbx + 0x8000)) 0
  else if 0x8000 ≤ x then none
  else
    let k := s.chan (x / 0x1000)
    let y := x % 0x1000
    if y = 0 then reg_ 0 (bits 39 0)
    else if y = 8 then
      reg_ (at64 k.status 56 ||| at64 k.seq.toNat 40 ||| at64 (b2n k.done) 39 ||| at64 (b2n k.active) 38 ||| w64 k.detail) (bits 37 32)
    else if inRow y 0x100 32 then reg_ (Tab.get 0 k.arg ((y - 0x100) / 8)) 0
    else if inRow y 0x200 64 then reg_ (Tab.get 0 k.res ((y - 0x200) / 8)) 0
    else none
/-- A marker of a row, while the row has been opened. -/
def State.marker (s : State) (row i : Nat) : W64 := Tab.get 0 s.markers (64 * row + i)
/-- What the learning context hides: everything, or but a marker that PMARK or its kind shows (R552). -/
def State.learnShown (s : State) : Bool := !s.learn.bound || s.full s.learn.ctx
/-- Registers of MUPD. -/
def State.regMupd (s : State) (x : Nat) : Option (W64 × W64) :=
  let l := s.learn
  let seen (v : W64) : Option (W64 × W64) := reg_ (if s.learnShown then v else 0) 0
  if x = 8 then reg_ (at64 (b2n l.bound) 63 ||| at64 l.ctx 51) (bits 50 0)
  else if x = 0x10 then reg_ (w64 l.t) 0
  else if inRow x 0x8000 1024 then
    let row := (x - 0x8000) / 0x200
    let i := (x - 0x8000) % 0x200 / 8
    let ok := s.learnShown || i < 16 || (32 ≤ i && s.prof l.ctx 2)
    reg_ (if ok then s.marker row i else 0) 0
  else if inRow x 0xA000 16 then seen (Tab.get 0 s.markers (1024 + (x - 0xA000) / 8))
  else if inRow x 0xC000 1024 then
    let row := (x - 0xC000) / 0x200
    let i := (x - 0xC000) % 0x200 / 8
    if i = 63 then none
    else
      let a := s.marker row i
      let b := s.marker row (i + 1)
      seen (if a = 0 || b = 0 then 0 else b - a)
  else none
/-- Registers of a cluster. -/
def State.regClu (s : State) (k x : Nat) : Option (W64 × W64) :=
  let c := s.cluster k
  let shown := !c.held || s.full c.ctx
  match x with
  | 0x08 =>
      let run := maskOf 8 fun i => (s.core (8 * k + i)).run == .running && !(c.red && i % 2 == 1)
      reg_ (at64 (b2n c.held) 63 ||| at64 c.ctx 51 ||| at64 (b2n c.red) 50 ||| at64 (if shown then run else 0) 42) (bits 41 0)
  | 0x10 => reg_ (if shown then c.lost else c.lost &&& bits 63 45) (bits 45 45)
  | _ => none
/-- A register of a block at an offset: its value and its reserved bits; none where no register lies. -/
def State.reg? (s : State) (o : Nat) : Option (W64 × W64) :=
  match blkAt o with
  | (b, x) =>
    if x % 8 ≠ 0 || s.blkAbsent b x then none
    else if b.counted && x == 0 then reg_ (s.reg o &&& 1) (bits 63 2)
    else if b.counter x then
      (match b with
      | .core n =>
          let hide := ((s.cluster (n / 8)).red && n % 2 == 1) ||
            (match s.coreCtx n with | some c => !s.full c | none => false)
          reg_ (if hide then 0 else s.reg o) 0
      | .mupd _ => reg_ (if s.learnShown then s.reg o else 0) 0
      | _ => reg_ (s.reg o) 0)
    else match b with
      | .glb => s.regGlb x
      | .hif => s.regHif x
      | .tet => s.regTet x
      | .col => s.regCol x
      | .lnk p => s.regLnk p x
      | .pwr => s.regPwr x
      | .thm => s.regThm x
      | .log => s.regLog x
      | .mbx => s.regMbx x
      | .mddr m =>
          if x = 8 then reg_ (w64 s.iSize) (bits 63 40)
          else if x = 0x10 then
            let ok : Nat := if s.dev == .ready then 0xFFFF else 0
            let ref : Nat := if s.selfRefresh m then 0xFFFF else 0
            reg_ (at64 (if s.dev == .ready then s.boot.rate else 0) 48 ||| at64 ok 32 ||| at64 ref 16) (bits 15 0)
          else none
      | .mcry m =>
          let j := Tab.get {} s.rekeyJobs (8 + m)
          if x = 8 then reg_ (if j.act then at64 1 63 ||| at64 j.ctx 48 ||| w64 j.b else 0) (bits 62 60) else none
      | .mupd _ => s.regMupd x
      | .cclu k => s.regClu k x
      | .cdst d =>
          if x = 8 then
            let ref := s.ras.resets.any fun r => r.kind == 2 && r.idx == d && !r.fence
            reg_ (at64 (b2n ref) 63 ||| at64 (b2n (Tab.get false s.pw.dbl d)) 62 |||
              at64 (b2n (s.pw.admHalf || Tab.get false s.pw.sthr d)) 61) (bits 60 0)
          else none
      | .core _ => none
      | .none => none

/-! ### Effects of reads and writes (R8, R551, R555–R561, R566) -/

/-- What a read of a register does beside giving its value: XTET.NS and PTMH latch their partners, and XLOG.DATA advances
ADDR by 8, modulo 4 MiB. -/
def State.readEffect (s : State) (o : Nat) : State :=
  if o = 0x30008 then { s with tet := { s.tet with fracL := s.tet.frac } }
  else if o = 0x30030 then { s with tet := { s.tet with ptmTL := s.tet.ptmT } }
  else if o = 0x220030 then { s with ras := { s.ras with addr := s.ras.addr + 8 } }
  else s
/-- CLR of the region whose CTL lies at `o`: every counter of it is zero (R551); the peak of the paddock since the
clear is at once what is held (`02` R55). -/
def State.clearCounters (s : State) (o : Nat) : State :=
  match blkAt o with
  | (b, _) =>
    let s := { s with regs := Tab.drop s.regs fun a => (blkAt a).1 == b && b.counter (blkAt a).2 }
    match b with
    | .core n => s.peakPad n
    | _ => s
/-- A write to the CTL of a region: CLR, and WRAP cleared by a 1. -/
def State.writeCtl (s : State) (o : Nat) (v : W64) : State :=
  let s := if bit v 0 then s.setReg o (s.reg o &&& ~~~1#64) else s
  if bit v 1 then s.clearCounters o else s
/-- The crash-dump region emptied, unless a dump is being written (R561). -/
def State.ackDump (s : State) (v : W64) : State :=
  if !bit v 0 then s
  else if s.ras.dumpBusy then s.rsvWrite
  else { s with ras := { s.ras with dumpPres := false, dumpLen := 0 } }
/-- A write to XLNK.CFG (R557): the lockable fields while LOCK is clear, then LOCK; a mode takes effect at once while the port
is DOWN or ABSENT. -/
def State.writePortCfg (s : State) (p : Nat) (v : W64) : State :=
  s.updPort p fun k =>
    let k := if k.lock then k else { k with
      cfgMode := bit v 62
      mode := if k.st = .down || k.st = .absent then bit v 62 else k.mode
      weights := [fld v 61 58, fld v 57 54, fld v 53 50, fld v 49 46, fld v 45 42, fld v 41 38] }
    { k with lock := k.lock || bit v 63 }
/-- A write to CMD or ARG of a mailbox channel (R566). -/
def State.writeMbx (s : State) (x : Nat) (v : W64) : State :=
  let ch := x / 0x1000
  let y := x % 0x1000
  let count (s : State) : State := s.setReg (regYmbx + 0x8000) (s.reg (regYmbx + 0x8000) + 1)
  if 0x8000 ≤ x then s
  else if y = 0 then
    (if (s.chan ch).active then count s
    else
      let t := s.submitted ch (fld v 63 56) (BitVec.ofNat 16 (fld v 55 40)) (s.chan ch).args
      if knownOpc (fld v 63 56) && fld v 39 0 == 0 then t
      else ({ t with mbxQ := s.mbxQ }).complete ch (if s.dev = Dev.ready then stBadcmd else stUnavail) 0 [])
  else if inRow y 0x100 32 then
    (if (s.chan ch).active then count s
    else s.updChan ch fun k => { k with arg := Tab.set 0 k.arg ((y - 0x100) / 8) v })
  else s
/-- What a write does to a register that takes one. -/
def State.writeEffect (s : State) (o : Nat) (v : W64) : State :=
  match blkAt o with
  | (b, x) =>
    if b.counted && x == 0 then s.writeCtl o v
    else match b with
      | .glb => if x = 0x28 then s.setReg 0x28 (s.reg 0x28 &&& ~~~v) else s
      | .hif => if inRow x 0x1000 4096 && bit v 63 then s.setReg o (s.reg o &&& ~~~at64 1 63) else s
      | .tet => if x = 0x20 then { s with tet := { s.tet with base := v } }
          else if x = 0x28 then { s with tet := { s.tet with tdomCfg := BitVec.ofNat 16 v.toNat } }
          else s
      | .lnk p => if x = 0x18 then s.writePortCfg p v else s
      | .log => if x = 0x08 then { s with ras := { s.ras with cethr := BitVec.ofNat 32 v.toNat } }
          else if x = 0x10 then s.ackDump v
          else if x = 0x28 then { s with ras := { s.ras with addr := BitVec.ofNat 22 (fld v 21 3 * 8) } }
          else s
      | .mbx => s.writeMbx x v
      | _ => s

/-! ### Accesses to one unit of 8 B (R9, R325, R344, R502, R549) -/

/-- All ones. -/
def ones64 : W64 := BitVec.allOnes 64
/-- BAR0 is answered as in Sentinel mode: in Sentinel mode and in boot hold. -/
def State.reduced (s : State) : Bool := s.dev == .sentinel || s.dev == .bootHold
/-- An offset that Sentinel mode and boot hold take from a read or a write, which they then do not count (R344). -/
def State.silent (s : State) (o : Nat) (write : Bool) : Bool :=
  let b := (blkAt o).1
  s.reduced && !if write then b == .mbx || o == 0x28 || o == 0x220010 else b.kept
/-- An access to an offset without a register, or of another size or alignment, is counted (R9). -/
def State.badUnitAt (s : State) (o : Nat) (write : Bool) : State := if s.silent o write then s else s.badAcc
/-- The registers of a block do not answer: its unit resets, or Sheepdog holds Yorek (R549, `21` R495). -/
def State.blkMute (s : State) (b : Blk) : Bool := s.blkDown b || (b == .mbx && s.ras.yorekHeld)
/-- A read of the register at an offset. -/
def State.unitRead (s : State) (o : Nat) : W64 × State :=
  match s.reg? o with
  | some (v, _) => if s.blkMute (blkAt o).1 || s.silent o false then (ones64, s) else (v, s.readEffect o)
  | none => (ones64, s.badUnitAt o false)
/-- A write to the register at an offset. RSVW rises once for a write that is not zero in its reserved fields, however
many of them it touches: the manual does not say whether each field counts (DESIGN CHOICE, log 42). -/
def State.unitWrite (s : State) (o : Nat) (v : W64) : State :=
  match s.reg? o with
  | some (_, rsv) =>
      if s.blkMute (blkAt o).1 || s.silent o true then s
      else ((if v &&& rsv = 0 then s else s.rsvWrite)).writeEffect o v
  | none => s.badUnitAt o true

end Sys2Proof.Machine
end

