-- ==== Sys2Proof/Machine/Pcie.lean ====
section
/-! DEFINITION. The PCI Express function: configuration space, the accesses to its BARs, completions, resets and the
link (`13` R319–R336). -/

namespace Sys2Proof.Machine

/-! ### Answers and errors (R332) -/

/-- The answer to a request: 0 successful, 1 Unsupported Request, 2 Completer Abort, 3 Request Retry Status. -/
def State.answered (s : State) (stat : Nat) (v : W64) (b : List Byte) : State :=
  { s with pcie := { s.pcie with rstat := stat, rdata := v, rbytes := b } }
/-- An error outside the Correctable class: it is logged and reported, and written as a failure signature of UKIND 10 whose
class, outcome and TLP header are free values (log 36). -/
def State.pcieError (s : State) (u c : BitVec 32) : State :=
  match s.free 128 with
  | (h, s) => match s.free 16 with
    | (k, s) => ({ s with pcie := s.pcie.logError u c h false } : State).record
        { cls := k.toNat % 256, outcome := k.toNat / 256 % 6, ukind := 10, synd := h }
/-- AER bits: an Advisory Non-Fatal error logs its uncorrectable bit and the advisory bit. -/
def aerAdvisory : BitVec 32 := 0x2000
/-- The function answers accesses to its BARs: a start has ended, and the function is in D0 (R334, R335). -/
def State.barsUp (s : State) : Bool := (s.dev == .ready || s.reduced) && !s.pcie.d3hot
/-- An access to a BAR: answered, or refused as an Unsupported Request, which is logged. -/
def State.onBar (s : State) (f : State → State) : State :=
  if s.barsUp then f (s.answered 0 0 [])
  else if !s.powered then s
  else (s.pcieError 0x100000 0).answered 1 0 []

/-! ### Configuration space (R322, R323; layout inside the capabilities PRESUMED, log 6) -/

/-- A DWORD of configuration space: offset, reset value and writable bits. -/
structure CfgReg where
  /-- Byte offset. -/
  off : Nat
  /-- Reset value of its writable bits, and value of its fixed ones. -/
  init : Nat
  /-- Writable bits. -/
  rw : Nat

/-- Margining control of the lanes whose registers end before the next capability: 0 to 13. -/
def cfgLanes : List CfgReg := (List.range 14).map fun i => ⟨0x208 + 4 * i, 0x9C38, 0xFF7F⟩
/-- The registers of selective IDE stream `i`: its capability (four address blocks), its control, its requester ID association and
its address association blocks. -/
def cfgStream (i : Nat) : List CfgReg :=
  let b := 0x28C + 0x44 * i
  [⟨b, 4, 0⟩, ⟨b + 4, 0, 0xFF7FC1FD⟩, ⟨b + 12, 0, 0x00FFFF00⟩, ⟨b + 16, 0, 0x00FFFF01⟩] ++
    (List.range 4).flatMap fun j => [⟨b + 20 + 12 * j, 0, 0xFFFFFF01⟩, ⟨b + 24 + 12 * j, 0, 0xFFFFFFFF⟩, ⟨b + 28 + 12 * j, 0, 0xFFFFFFFF⟩]
/-- The DWORDs whose value is fixed or written by the host; those that the function's state gives are `cfgLive`. -/
def State.cfgRegs (s : State) : List CfgReg :=
  let id (cap ver next : Nat) : Nat := cap + 2 ^ 16 * ver + 2 ^ 20 * next
  [⟨0x000, 2 ^ 16 * s.code.device + 0x1F5C, 0⟩, ⟨0x004, 0x100000, 0x146⟩, ⟨0x008, 0x12000000 + Config.revision.toNat, 0⟩,
   ⟨0x00C, 0, 0xFF⟩, ⟨0x010, 0x4, 0xFC000000⟩, ⟨0x014, 0, 0xFFFFFFFF⟩, ⟨0x018, 0x4, 0xFF000000⟩, ⟨0x01C, 0, 0xFFFFFFFF⟩,
   ⟨0x020, 0xC, 0⟩, ⟨0x024, 0, 0xFFFFFFF0⟩, ⟨0x02C, 2 ^ 16 * s.code.subsystem + 0x1F5C, 0⟩, ⟨0x034, 0x40, 0⟩, ⟨0x03C, 0, 0xFF⟩,
   ⟨0x040, 0x00035001, 0⟩, ⟨0x050, 0x0002B010, 0⟩, ⟨0x054, 0x8022, 0⟩, ⟨0x058, 0x2810, 0x79FF⟩, ⟨0x05C, 0x00400906, 0⟩,
   ⟨0x074, 0x00030003, 0⟩, ⟨0x078, 0, 0x100F⟩, ⟨0x07C, 0x7E, 0⟩, ⟨0x080, 6, 0xFFFF⟩] ++
  [⟨0x0B4, 0xF00002, 0⟩, ⟨0x0B8, 0xF10002, 0⟩,
   ⟨0x100, id 0x01 2 0x148, 0⟩, ⟨0x108, 0, 0x07FFF030⟩, ⟨0x10C, 0x00462030, 0x07FFF030⟩, ⟨0x114, 0x2000, 0xF1C1⟩,
   ⟨0x148, id 0x03 1 0x158, 0⟩, ⟨0x14C, deviceSerial % 2 ^ 32, 0⟩, ⟨0x150, deviceSerial / 2 ^ 32, 0⟩,
   ⟨0x158, id 0x19 1 0x180, 0⟩, ⟨0x15C, 0, 0xFE03⟩, ⟨0x180, id 0x25 1 0x190, 0⟩, ⟨0x184, 0x80000001, 0⟩,
   ⟨0x190, id 0x26 1 0x1C0, 0⟩, ⟨0x1C0, id 0x2A 1 0x1E0, 0⟩, ⟨0x1C8, 0, 0x703⟩,
   ⟨0x1E0, id 0x31 1 0x200, 0⟩, ⟨0x200, id 0x27 1 0x240, 0⟩, ⟨0x240, id 0x1F 1 0x250, 0⟩, ⟨0x244, 1, 0⟩,
   ⟨0x250, id 0x2E 1 0x280, 0⟩, ⟨0x280, id 0x30 1 0, 0⟩, ⟨0x284, 0x00030042, 0⟩,] ++
  cfgLanes ++ (List.range 4).flatMap cfgStream
/-- A DWORD of the 128-bit logs of AER. -/
def logDword (x : BitVec 128) (i : Nat) : Nat := x.toNat / 2 ^ (32 * i) % 2 ^ 32
/-- Stored difference of a DWORD from its reset value. -/
def State.cfgDiff (s : State) (o : Nat) : Nat := leNat (bytesAt s.pcie.cfg o 4)
/-- Status of IDE stream `i`: 2 secure, 0 Insecure, and a received integrity failure. -/
def Pcie.ideStatus (p : Pcie) (i : Nat) : Nat :=
  let k := Tab.get {} p.ide i
  2 * b2n k.secure + 2 ^ 31 * b2n (k.fails != 0)
/-- DWORDs that the function's state gives: power state, Device Status, link status, MSI-X control, AER status and logs, PTM
Enable, the DOE mailbox, and the status of the IDE streams. -/
def State.cfgLive (s : State) (o : Nat) : Option Nat :=
  let p := s.pcie
  if 0x28C ≤ o ∧ o < 0x39C ∧ (o - 0x28C) % 0x44 = 8 then some (p.ideStatus ((o - 0x28C) / 0x44))
  else match o with
  | 0x058 => some (p.cfgVal 0x058 0x2810 % 2 ^ 16 + p.devSta.toNat * 2 ^ 16)
  | 0x044 => some ((if p.d3hot then 3 else 0) + 8)
  | 0x060 => some (2 ^ 28 + (if p.up then p.speed * 2 ^ 16 + 2 ^ 20 * p.width else 0))
  | 0x0B0 => some (0x07FF0011 + b2n p.msixMask * 2 ^ 30 + b2n p.msixEn * 2 ^ 31)
  | 0x104 => some p.aerU.toNat
  | 0x110 => some p.aerC.toNat
  | 0x118 => some p.fep
  | 0x11C => some (logDword p.hdrLog 0)
  | 0x120 => some (logDword p.hdrLog 1)
  | 0x124 => some (logDword p.hdrLog 2)
  | 0x128 => some (logDword p.hdrLog 3)
  | 0x138 => some (logDword p.prefLog 0)
  | 0x13C => some (logDword p.prefLog 1)
  | 0x140 => some (logDword p.prefLog 2)
  | 0x144 => some (logDword p.prefLog 3)
  | 0x248 => some (b2n p.ptmEn)
  | 0x25C => some (b2n (!p.doeWait.isEmpty) + 4 * b2n p.doeErr + 2 ^ 31 * b2n (!p.doeOut.isEmpty))
  | 0x264 => some ((p.doeOut.head?.getD 0).toNat)
  | _ => none
/-- A DWORD as it reads; a byte that nothing defines reads zero (R323). -/
def State.cfgRead (s : State) (o : Nat) : Nat :=
  match s.cfgLive o with
  | some v => if o = 0x060 then v + s.cfgDiff o else v
  | none => match s.cfgRegs.find? fun r => r.off == o with
    | some r => r.init ^^^ s.cfgDiff o
    | none => 0
/-- The bits of the enabled bytes. -/
def beMask (be : BitVec 4) : Nat := ((List.range 4).map fun i => b2n (be.getLsbD i) * 255 * 2 ^ (8 * i)).sum
/-- A write of the bits under `mask` of a stored DWORD. -/
def State.cfgPut (s : State) (o init mask v : Nat) : State :=
  let d := s.cfgDiff o
  let n := ((init ^^^ v) &&& mask) ||| (d &&& (0xFFFFFFFF - mask))
  { s with pcie := { s.pcie with cfg := putBytes s.pcie.cfg o (leBytes 4 n) } }
/-- A write to PowerState (R334): D3hot is accepted while no context is resident, and is logged otherwise; D1 and D2 are
not supported. -/
def State.writePower (s : State) (v : Nat) : State :=
  if v = 0 then { s with pcie := { s.pcie with d3hot := false } }
  else if v != 3 then s
  else if s.slots.any fun e => e.2.isSome then
    (match s.free 16 with
    | (k, s) => s.record { cls := k.toNat % 256, outcome := k.toNat / 256 % 6, ukind := 10 })
  else { s with pcie := { s.pcie with d3hot := true } }
/-- The object that the DOE write mailbox holds: protocol and bytes; none unless its header names the PCI-SIG and its length is
that of what was written. -/
def doeObjectOf (l : List (BitVec 32)) : Option (BitVec 8 × List Byte) :=
  let h := (l.getD 0 0).toNat
  let n := (l.getD 1 0).toNat % 2 ^ 18
  if h % 2 ^ 16 = 1 && l.length = n && 2 ≤ n then some (BitVec.ofNat 8 (h / 2 ^ 16), (l.drop 2).flatMap fun d => leBytes 4 d.toNat) else none
/-- A write to DOE Control (R337): Abort empties the mailbox; Go hands over the object written, which waits while another is in
service. -/
def Pcie.doeControl (p : Pcie) (v : Nat) : Pcie :=
  if v.testBit 0 then { p with doeIn := [], doeWait := [], doeOut := [], doeErr := false }
  else if !v.testBit 31 then p
  else match doeObjectOf p.doeIn with
    | some x => { p with doeIn := [], doeWait := p.doeWait ++ [x] }
    | none => { p with doeIn := [], doeErr := true }
/-- A write to configuration space under its byte enables. -/
def State.cfgWrite (s : State) (o : Nat) (be : BitVec 4) (val : BitVec 32) : State :=
  let m := beMask be
  let v := val.toNat
  let p := s.pcie
  match o with
  | 0x044 => if be.getLsbD 0 then s.writePower (v % 4) else s
  | 0x058 =>
      let s := s.cfgPut o 0x2810 (m &&& 0x79FF) v
      { s with pcie := { s.pcie with devSta := s.pcie.devSta &&& ~~~BitVec.ofNat 4 ((v &&& m) / 2 ^ 16) } }
  | 0x060 => s.cfgPut o 0 (m &&& 0x02CB) v
  | 0x0B0 => if be.getLsbD 3 then
      { s with pcie := { p with msixMask := v.testBit 30, msixEn := v.testBit 31 } } else s
  | 0x104 => { s with pcie := { p with aerU := p.aerU &&& ~~~(val &&& BitVec.ofNat 32 m) } }
  | 0x110 => { s with pcie := { p with aerC := p.aerC &&& ~~~(val &&& BitVec.ofNat 32 m) } }
  | 0x248 => if be.getLsbD 0 then { s with pcie := { p with ptmEn := v.testBit 0 } } else s
  | 0x258 => { s with pcie := p.doeControl (v &&& m) }
  | 0x260 => if p.doeIn.length < 16386 then { s with pcie := { p with doeIn := p.doeIn ++ [val &&& BitVec.ofNat 32 m] } }
      else { s with pcie := { p with doeErr := true } }
  | 0x264 => { s with pcie := { p with doeOut := p.doeOut.tail } }
  | _ => match s.cfgRegs.find? fun r => r.off == o with
    | some r => s.cfgPut o r.init (m &&& r.rw) v
    | none => s
/-- CONFIGURATION_REQUEST (R323, R335): Request Retry Status until a start has ended. -/
def execConfigurationRequest (write : Bool) (off : BitVec 12) (be : BitVec 4) (val : BitVec 32) (s : State) : Out :=
  let o := off.toNat / 4 * 4
  .next (if !s.powered then s
    else if s.pcie.rrs then s.answered 3 0 []
    else if write then (s.cfgWrite o be val).answered 0 0 []
    else s.answered 0 (w64 (s.cfgRead o)) [])

/-! ### BAR0 (R325, R344, `25` R550–R561) -/

/-- The units of 8 B that a request touches, ascending; a request of no bytes touches the unit of its offset (log 42). -/
def unitsOf (off len : Nat) : List Nat := (List.range ((off + max 1 len + 7) / 8 - off / 8)).map fun i => off / 8 + i
/-- The unit lies wholly in the request. -/
def wholeUnit (off len u : Nat) : Bool := off ≤ 8 * u && 8 * u + 8 ≤ off + len
/-- A read of several units, each judged on its own: one that the request covers only in part is no 64-bit access (R9). The bytes of the request in order. -/
def State.readUnits (s : State) (off len : Nat) : List Nat → List Byte × State
  | [] => ([], s)
  | u :: us =>
      let r := if wholeUnit off len u then s.unitRead (8 * u) else (ones64, s.badUnitAt (8 * u) false)
      let lo := max off (8 * u) - 8 * u
      let hi := min (off + len) (8 * u + 8) - 8 * u
      match r.2.readUnits off len us with
      | (b, s) => (((leBytes 8 r.1.toNat).drop lo).take (hi - lo) ++ b, s)
/-- A write of several units. -/
def State.writeUnits (s : State) (off : Nat) (b : List Byte) : List Nat → State
  | [] => s
  | u :: us =>
      let s := if wholeUnit off b.length u then s.unitWrite (8 * u) (w64 (leAt b (8 * u - off) 8)) else s.badUnitAt (8 * u) true
      s.writeUnits off b us
/-- A read of BAR0 (R325): its units in order, at most 64 B. -/
def State.bar0Read (s : State) (o len : Nat) : State :=
  if 64 < len then (s.pcieError 0x8000 0).answered 2 0 []
  else match s.readUnits o len (unitsOf o len) with
    | (b, s) => s.answered 0 (w64 (leNat (b.take 8))) b
/-- BAR0_ACCESS (R325): a read of more than 64 B is answered with Completer Abort and logged. -/
def execBar0Access (write : Bool) (off : BitVec 26) (len : Nat) (data : List Byte) (s : State) : Out :=
  let o := off.toNat
  .next (s.onBar fun s =>
    if write then s.writeUnits o data (unitsOf o data.length)
    else s.bar0Read o len)
/-- A register read as a command of its own. -/
def State.readOne (s : State) (o : Nat) : State :=
  s.onBar fun s => match s.unitRead o with
    | (v, s) => s.answered 0 v (leBytes 8 v.toNat)
/-- COUNTER_CLR (`25` R551): a write to the CTL of a block or region. -/
def execCounterClr (off : BitVec 26) (val : W64) (s : State) : Out :=
  .next (if (blkAt off.toNat).1.counted && (blkAt off.toNat).2 == 0 then s.onBar fun s => s.unitWrite off.toNat val else s)
/-- DUMPACK (`25` R561). -/
def execDumpack (val : W64) (s : State) : Out := .next (s.onBar fun s => s.unitWrite 0x220010 val)
/-- LOG_DATA (`25` R560). -/
def execLogData (s : State) : Out := .next (s.readOne 0x220030)
/-- TETHER_NS_READ (`25` R556). -/
def execTetherNsRead (s : State) : Out := .next (s.readOne 0x30008)
/-- PTMH_READ (`25` R556). -/
def execPtmhRead (s : State) : Out := .next (s.readOne 0x30030)
/-- PORT_CFG_WRITE (`25` R557). -/
def execPortCfgWrite (port : Fin 16) (val : W64) (s : State) : Out :=
  .next (s.onBar fun s => s.unitWrite (regPort port + 0x18) val)
/-- A unit of a write that names no data: nothing happens, and it is counted when R9 does not allow it. -/
def State.badUnit (s : State) (off len u : Nat) : State :=
  if wholeUnit off len u && (s.reg? (8 * u)).isSome then s else s.badUnitAt (8 * u) true
/-- BAD_REGISTER_ACCESS (`00` R9): each unit of 8 B is judged on its own (R325), so that a misaligned access of 8 B counts
twice. A bad unit completes without effect and is counted, a read of it returning all ones; a unit of a read that is
sound is read. A write names no data: its sound units are those of BAR0_ACCESS. -/
def execBadRegisterAccess (write : Bool) (off : BitVec 26) (len : Nat) (s : State) : Out :=
  let o := off.toNat
  .next (s.onBar fun s =>
    if write then (unitsOf o len).foldl (fun s u => s.badUnit o len u) s
    else s.bar0Read o len)

/-! ### BAR2 (R326, `14` R351) -/

/-- The state that a command leaves. -/
def after (s : State) (o : Out) : State :=
  match o with
  | .next s => s
  | _ => s
/-- The reserved bits of a register of a doorbell page at offset `x` that only reads: FVAL, FSTS, HEAD or CSTAT. The high half
of HEAD, like that of EVHEAD, has no row in the table; it is taken as reserved, as that of TAIL is (DESIGN CHOICE, log 42). -/
def pageRO (x : Nat) : Option W64 :=
  if x = 0x110 then some 0
  else if inRow x 0x200 16 then some (bits 63 32)
  else if x = 0x118 then some (bits 63 3)
  else if x = 0x300 then some (bits 50 0)
  else none
/-- A register of a doorbell page that takes 4 B accesses. -/
def pageHalf (x : Nat) : Bool := inRow x 0 16 || inRow x 0x200 16 || x == 0x308
/-- A write to FID and FSTAT (`14` R351): a status of 1 or 3 is ignored and counted. -/
def State.writeFid (s : State) (slot : Nat) (v : W64) : State :=
  match s.slotCtx slot with
  | none => s
  | some c =>
      if s.dev != .ready || !s.resident c then s
      else
        let s := if fld v 63 18 != 0 then s.rsvWrite else s
        let bad := fld v 17 16 == 1 || fld v 17 16 == 3
        let s := s.updCtx c fun k => { k with fid := fld v 15 0, fstat := if bad then k.fstat else fld v 17 16 }
        if bad then s.ignoredWrite c else s
/-- A write to a doorbell page. -/
def State.pageWrite (s : State) (slot x : Nat) (size : Fin 9) (v : W64) : State :=
  if x % 8 = 4 && size == 4 && pageHalf (x - 4) then (if v.toNat % 2 ^ 32 = 0 then s else s.rsvWrite)
  else if x % 8 ≠ 0 || !(size == 8 || (size == 4 && pageHalf x)) then s.badAcc
  else if h : slot < 48 then
    (if inRow x 0 16 then after s (execTail ⟨slot, h⟩ (Fin.ofNat 16 (x / 8)) size v s)
    else if x = 0x100 then s.writeFid slot v
    else if x = 0x108 then after s (execFsigv ⟨slot, h⟩ size v s)
    else if x = 0x308 then after s (execEvhead ⟨slot, h⟩ size v s)
    else match pageRO x with
      | some rsv => if v &&& rsv = 0 then s else s.rsvWrite
      | none => s.badAcc)
  else s
/-- CSTAT of a resident slot (`14` R351, R362): STATE, CAUSE and DRAINED; zero while no context holds the slot. -/
def State.cstat (s : State) (slot : Nat) : W64 :=
  match s.slotCtx slot with
  | none => 0
  | some c => at64 (s.ctx c).st.code 60 ||| at64 (s.ctx c).cause 52 ||| at64 (b2n (4 ≤ (s.ctx c).abort)) 51
/-- A register of a doorbell page as it reads (`14` R351): the WO fields read zero, and FVAL and FSTS read zero where the context
may not wait on fence FID (R359). -/
def State.pageReg (s : State) (slot x : Nat) : Option W64 :=
  let c := (s.slotCtx slot).getD 4096
  let k := s.ctx c
  let acc := s.mayWait c k.fid
  if inRow x 0 16 || x = 0x108 then some 0
  else if x = 0x100 then some (at64 k.fstat 16 ||| w64 k.fid)
  else if x = 0x110 then some (if acc then (s.fence k.fid).val else 0)
  else if x = 0x118 then some (if acc then 4 ||| w64 (s.fence k.fid).stat else 0)
  else if inRow x 0x200 16 then some (w64 (k.queue ((x - 0x200) / 8)).head.toNat)
  else if x = 0x300 then some (s.cstat slot)
  else if x = 0x308 then some (w64 k.ring.head.toNat)
  else none
/-- A read of a doorbell page (`14` R351): 8 B of a register, or 4 B of TAIL, HEAD or EVHEAD, whose high half reads zero; any
other access reads zero and is counted. -/
def State.pageRead (s : State) (slot x size : Nat) : State :=
  let give (s : State) (v : W64) : State := s.answered 0 v (leBytes size v.toNat)
  if size = 4 && x % 8 = 4 && pageHalf (x - 4) then give s 0
  else if x % 8 != 0 || !(size == 8 || (size == 4 && pageHalf x)) then give s.badAcc 0
  else match s.pageReg slot x with
    | some v => give s v
    | none => give s.badAcc 0
/-- The MSI-X table or the Pending Bit Array. -/
def inMsix (o : Nat) : Bool := (0xF00000 ≤ o && o < 0xF08000) || (0xF10000 ≤ o && o < 0xF10100)
/-- DWORD `i` of an MSI-X table entry. -/
def MsixEntry.dword (e : MsixEntry) (i : Nat) : Nat :=
  match i with
  | 0 => e.addr.toNat % 2 ^ 32
  | 1 => e.addr.toNat / 2 ^ 32
  | 2 => e.data.toNat
  | _ => b2n !e.unmasked
/-- An MSI-X table entry with DWORD `i` written. -/
def MsixEntry.put (e : MsixEntry) (i v : Nat) : MsixEntry :=
  match i with
  | 0 => { e with addr := w64 (e.addr.toNat / 2 ^ 32 * 2 ^ 32 + v % 2 ^ 32 / 4 * 4) }
  | 1 => { e with addr := w64 (v % 2 ^ 32 * 2 ^ 32 + e.addr.toNat % 2 ^ 32) }
  | 2 => { e with data := BitVec.ofNat 32 v }
  | _ => { e with unmasked := !v.testBit 0 }
/-- A DWORD of the table or of the Pending Bit Array. -/
def State.msixRead (s : State) (o : Nat) : Nat :=
  if o < 0xF08000 then (Tab.get {} s.pcie.msix ((o - 0xF00000) / 16)).dword (o % 16 / 4)
  else maskOf 32 fun i => (Tab.get {} s.pcie.msix ((o - 0xF10000) * 8 + i)).pend
/-- A DWORD of the table written; the Pending Bit Array ignores writes. -/
def State.msixWrite (s : State) (o v : Nat) : State :=
  if o < 0xF08000 then
    { s with pcie := { s.pcie with msix := Tab.upd {} s.pcie.msix ((o - 0xF00000) / 16) fun e => e.put (o % 16 / 4) v } }
  else s
/-- An access to the MSI-X table or the Pending Bit Array: aligned 4 B or 8 B; any other has no effect and is counted. -/
def State.msixAccess (s : State) (write : Bool) (o size : Nat) (v : W64) : State :=
  if !((size == 4 || size == 8) && aligned o size) then
    (if write then s.badAcc else s.badAcc.answered 0 ones64 (List.replicate size 0xFF))
  else if write then
    let s := s.msixWrite o (v.toNat % 2 ^ 32)
    if size = 8 then s.msixWrite (o + 4) (v.toNat / 2 ^ 32) else s
  else
    let r := s.msixRead o + (if size = 8 then s.msixRead (o + 4) * 2 ^ 32 else 0)
    s.answered 0 (w64 r) (leBytes size r)
/-- An access to a reserved range of BAR2: a write is dropped and counted, and a read returns zeros (R326). -/
def State.bar2Reserved (s : State) (write : Bool) (size : Nat) : State :=
  if write then s.badAcc else s.answered 0 0 (List.replicate size 0)
/-- MSIX_TABLE_ACCESS (R326, R333, R344). -/
def execMsixTableAccess (write : Bool) (off : BitVec 24) (size : Nat) (val : W64) (s : State) : Out :=
  .next (s.onBar fun s =>
    if inMsix off.toNat then s.msixAccess write off.toNat size val else s)
/-- BAR2_RESERVED_ACCESS (R326): a reserved range of BAR2. A read below 0x30_0000, for which the table has no other row, is one
of a doorbell page (`14` R351, log 42). -/
def execBar2ReservedAccess (write : Bool) (off : BitVec 24) (size : Nat) (s : State) : Out :=
  let o := off.toNat
  .next (s.onBar fun s =>
    if inMsix o then s
    else if 0x300000 ≤ o then s.bar2Reserved write size
    else if write then s else s.pageRead (o / 0x10000) (o % 0x10000) size)
/-- REGISTER_WRITE (`00` R8): a write to a register of BAR0, or of BAR2, under its access codes. -/
def execRegisterWrite (bar2 : Bool) (off : BitVec 26) (size : Fin 9) (val : W64) (s : State) : Out :=
  let o := off.toNat
  .next (s.onBar fun s =>
    if !bar2 then s.writeUnits o ((leBytes 8 val.toNat).take size) (unitsOf o size)
    else if inMsix o then s.msixAccess true o size val
    else if o < 0x300000 then (if s.reduced then s else s.pageWrite (o / 0x10000) (o % 0x10000) size val)
    else s.bar2Reserved true size)

/-! ### The aperture (R327–R329) -/

/-- The completion of a BAR4 access: a read gives the bytes served, or all ones where nothing is; one that waits in its issue
queue, of more than `held` requests, has no completion yet (R329). -/
def State.apertureGive (s : State) (r : MemReq) (held : Nat) : State :=
  if r.write || held < s.retry.length then s
  else
    let b := if s.resp.length = r.len then s.resp else List.replicate r.len 0xFF
    s.answered 0 (w64 (leNat (b.take 8))) b
/-- APERTURE_ACCESS: checked at its target with initiator 724 and the window's context. Where nothing is served, a read
gives all ones. In Sentinel mode nothing is counted (R344). -/
def execApertureAccess (write : Bool) (off : BitVec 36) (len : Nat) (data : List Byte) (s : State) : Out :=
  let w := off.toNat / 2 ^ 30
  let x := off.toNat % 2 ^ 30
  let q (c da : Nat) : MemReq := { init := 724, ctx := c, da := da, write := write, len := len, data := data, acts := c }
  .next (s.onBar fun s =>
    let s : State := { s with resp := [] }
    if s.reduced then s.apertureGive (q 0 0) s.retry.length
    else match Tab.get none s.aperture w with
      | none => (s.apertureFail w x).apertureGive (q 0 0) s.retry.length
      | some (c, base) => (s.atTarget { req := q c (base + x) } .clean s.retry.length).apertureGive (q c (base + x)) s.retry.length)

/-! ### Completions (R330, R331, `07` R178) -/

/-- HWERR.KIND of a status, with the AER bits that it sets. -/
def cplKind : CplStatus → Nat × BitVec 32
  | .ok => (0, 0)
  | .ur => (0, 0)
  | .ca => (1, 0)
  | .poisoned => (2, 0x1000)
  | .malformed => (4, 0x40000)
/-- A request leaves the requester: its tag is free. -/
def State.dropReq (s : State) (tag : Nat) : State :=
  { s with pcie := { s.pcie with reqs := s.pcie.reqs.filter fun r => r.tag != tag } }
/-- A request ends with an error: it is logged, the window's error register keeps the first error since V was clear (`25`
R555), and the owning context is lost with cause code 0x09. -/
def State.hostError (s : State) (r : HostReq) (kind : Nat) (u : BitVec 32) : State :=
  let s := (s.dropReq r.tag).pcieError u (if u = 0 then 0 else aerAdvisory)
  let o := regXhif + 0x1000 + 8 * r.win
  let s := if bit (s.reg o) 63 then s
    else s.setReg o (at64 1 63 ||| at64 kind 60 ||| at64 r.ctx 48 ||| w64 r.da)
  if r.dead then s
  else s.lose r.ctx 0x09 (if r.init < 512 then some r.init else none) (s.core r.init).pc
/-- A request has its last completion: its tag is free, its lines are checked, and a line whose MAC is not that of its bytes loses
the context with cause code 0x16 (`16` R400). The work that waits for an own read then finds it. -/
def State.hostDone (s : State) (r : HostReq) : State :=
  let s := s.dropReq r.tag
  if !(linesOver r.da r.len).all s.hostGood then s.loseErr r.ctx 0x16 0x04 ⟨10, 0⟩ r.da
  else if r.own then (if s.resident r.ctx then { s with pcie := { s.pcie with got := s.pcie.got ++ [r] } } else s)
  else { s with resp := s.readHost r.da r.len }
/-- A successful completion brings bytes of the request's range, in order; a request may end with several, of which all but the
last end at a Read Completion Boundary of 64 B. A payload of no bytes, past the end of the request or that ends elsewhere is
malformed. -/
def State.hostData (s : State) (r : HostReq) (data : List Byte) : State :=
  let n := r.recv + data.length
  if data.isEmpty || r.len < n || (n < r.len && (r.host + n) % 64 != 0) then s.hostError r 4 0x40000
  else
    let s := if r.dead then s else { s with hostMem := putBytes s.hostMem (r.host + r.recv) data }
    if n = r.len then (if r.dead then s.dropReq r.tag else s.hostDone r)
    else { s with pcie := { s.pcie with reqs := s.pcie.reqs.map fun x => if x = r then { r with recv := n } else x } }
/-- A request, or its completion, is dropped on an Insecure IDE stream (R339). -/
def State.ideDrops (s : State) (r : HostReq) : Bool :=
  r.lost || match r.ide with
    | some (i, _) => (Tab.get {} s.pcie.ide i).insecure
    | none => false
/-- COMPLETION (R330, R331): `data` is the payload, the stored bytes that the host holds (log 9). One for no outstanding
request is an Unexpected Completion, dropped and logged; one on an Insecure IDE stream is dropped. -/
def execCompletion (tag : BitVec 14) (status : CplStatus) (data : List Byte) (s : State) : Out :=
  .next (if !s.powered then s
    else match s.pcie.reqs.find? fun r => r.tag == tag.toNat with
    | none => s.pcieError 0x10000 aerAdvisory
    | some r => if s.ideDrops r then s else match status with
        | .ok => s.hostData r data
        | _ => s.hostError r (cplKind status).1 (cplKind status).2)
/-- COMPLETION_TIMEOUT (R331): 10 ms or 50 ms by the range set. -/
def execCompletionTimeout (tag : BitVec 14) (s : State) : Out :=
  .next (match s.pcie.reqs.find? fun r => r.tag == tag.toNat with
    | none => s
    | some r => s.hostError r 3 0x4000)

/-! ### Resets and the link (R321, R335, `24` R539) -/

/-- PERST (R335): an assertion shorter than 10 µs is counted, and one that ends while a package reset is still in progress
starts no second reset. -/
def execPerst (long : Bool) (s : State) : Out :=
  .next (if !s.powered then s
    else if !long then { s with ras := { s.ras with perstShort := s.ras.perstShort + 1 } }
    else if s.dev == .starting then s
    else s.packageReset 1)
/-- HOT_RESET (R335). -/
def execHotReset (s : State) : Out := .next (if s.powered then s.packageReset 2 else s)
/-- DL_DOWN (R335). -/
def execDlDown (s : State) : Out := .next (if s.powered then s.packageReset 3 else s)
/-- The link is up at a speed and a width that L0p may narrow (R319, R334). -/
def Pcie.narrows (p : Pcie) (speed w : Nat) (flit : Bool) : Bool :=
  p.up && p.speed == speed && p.flit == flit && w != 1 && w ≤ p.width
/-- PCIE_LINK_UP (R319, R321): at 64 GT/s the link is in flit mode. While the link is up at the same speed, a width within the
negotiated one is the width in use under L0p (R334, log 6). -/
def execPcieLinkUp (speed : Fin 7) (width : Fin 17) (flit : Bool) (s : State) : Out :=
  let w := width.val
  .next (if !s.powered || speed = 0 || !(w == 1 || w == 4 || w == 8 || w == 16) then s
    else if s.pcie.narrows speed w (flit || speed == 6) then { s with pcie := { s.pcie with l0pw := w } }
    else
      let s : State := { s with pcie := { s.pcie with
        up := true, speed := speed, width := w, flit := flit || speed == 6, l0pw := w } }
      if s.dev == .ready && s.pcie.degraded then s.linkEvent 0xFF else s)

end Sys2Proof.Machine
end

