-- ==== Sys2Proof/Machine/Manage.lean ====
section
/-! DEFINITION. DOE, SPDM sessions, IDE, MCTP and PLDM (`13` R337–R343). -/

namespace Sys2Proof.Machine

/-! ### DOE and SPDM (R337) -/

/-- The management agents answer: a start has ended, and Sheepdog does not hold Yorek in reset (R344, `21` R495). -/
def State.agentsUp (s : State) : Bool := (s.dev == .ready || s.reduced) && !s.ras.yorekHeld
/-- An SPDM ERROR of version 1.3 with a code. -/
def spdmError (code : Nat) : List Byte := [0x13, 0x7F, BitVec.ofNat 8 code, 0]
/-- An answer of DOE Discovery: vendor 0x0001, the protocol at an index and the next index. -/
def doeDiscovery (i : Nat) : List Byte :=
  if i < 3 then [1, 0, BitVec.ofNat 8 i, BitVec.ofNat 8 (if i = 2 then 0 else i + 1)] else [0xFF, 0xFF, 0, 0]
/-- The capabilities of *SPDM over DOE* as SPDM 1.3 flags: CERT, CHAL, MEAS with signature, ENCRYPT, MAC, KEY_EX and HBEAT (log 36). -/
def spdmCaps : Nat := 0x22D6
/-- The CAPABILITIES response; its timing exponent is free (log 36). -/
def State.spdmCapabilities (s : State) : State :=
  match s.free 8 with
  | (t, s) => s.answerWith ([0x13, 0x61, 0, 0, 0, t, 0, 0] ++ leBytes 4 spdmCaps ++ leBytes 4 65536 ++ leBytes 4 65536)
/-- The ALGORITHMS response: DMTF measurements hashed with SM3, SM2 signatures, SM3, SM2 key exchange, SM4-GCM and the SPDM key
schedule (log 36). -/
def spdmAlgorithms : List Byte :=
  [0x13, 0x63, 4, 0] ++ leBytes 2 52 ++ [1, 0] ++ leBytes 4 0x80 ++ leBytes 4 0x200 ++ leBytes 4 0x40 ++ List.replicate 16 0 ++
    [2, 0x20, 0x40, 0, 3, 0x20, 0x08, 0, 4, 0x20, 0, 0, 5, 0x20, 1, 0]
/-- Requests of SPDM 1.3 that *SPDM over DOE* leaves out: PSK, key update, encapsulated requests, CSR and SET_CERTIFICATE. -/
def spdmAbsent : List Byte := [0xE6, 0xE7, 0xE9, 0xEA, 0xEB, 0xED, 0xEE]
/-- The answer of the SPDM responder to a request: the versions it speaks; an error for another version and for a request that
it does not support; its capabilities and algorithms; and for a request of version 1.3 that has no row of its own, the
response that SPDM 1.3 gives, which is a free value here (log 36). -/
def State.spdmAnswer (s : State) (b : List Byte) : State :=
  let code := b.getD 1 0
  if b.getD 0 0 = 0x10 && code = 0x84 then s.answerWith [0x10, 0x04, 0, 0, 0, 1, 0, 0x13]
  else if b.getD 0 0 != 0x13 then s.answerWith (spdmError 0x41)
  else if spdmAbsent.contains code then s.answerWith [0x13, 0x7F, 0x07, code]
  else if code = 0xE1 then s.spdmCapabilities
  else if code = 0xE3 then s.answerWith spdmAlgorithms
  else match s.free 512 with
    | (r, s) => s.answerWith (leBytes 64 r.toNat)

/-! ### IDE (R338, R339) -/

/-- The state of IDE stream `i`. -/
def State.ideOf (s : State) (i : Nat) : Ide := Tab.get {} s.pcie.ide i
/-- The state with an IDE stream changed. -/
def State.updIde (s : State) (i : Nat) (f : Ide → Ide) : State :=
  { s with pcie := { s.pcie with ide := Tab.upd {} s.pcie.ide i f } }
/-- A key of the set has been programmed. -/
def Ide.loaded (k : Ide) (set : Bool) : Bool := k.keys.any fun e => e.1 % 2 == b2n set
/-- A key set takes effect, and sets up again a stream that had become Insecure; a set that KEY_PROG has not filled does not. -/
def State.setGo (s : State) (i : Nat) (set : Bool) : State :=
  if !(s.ideOf i).loaded set then s
  else s.updIde i fun k => { k with secure := true, insecure := false, keyset := b2n set, gos := k.gos + 1 }
/-- The stream that carries a stream ID, which the host writes to its control register. -/
def Pcie.ideNamed (p : Pcie) (id : Nat) : Option Nat :=
  (List.range 4).find? fun i => p.cfgVal (ideRegs i + 4) 0 / 2 ^ 24 == id
/-- An IDE_KM message inside a secured session: KEY_PROG, K_SET_GO and K_SET_STOP, each with its acknowledgement (the layouts are
those of the PCIe Base Specification, PRESUMED, log 36). -/
def State.ideMessage (s : State) (m : List Byte) : State :=
  let sub := (m.getD 6 0).toNat
  match (m.getD 1 0).toNat, s.pcie.ideNamed (m.getD 4 0).toNat with
  | 2, some i => (s.updIde i fun k => { k with keys := Tab.set none k.keys sub (some (BitVec.ofNat 256 (leAt m 8 32))) }).answerWith
      ([0, 3, 0, 0] ++ (m.drop 4).take 1 ++ [0] ++ (m.drop 6).take 2)
  | 4, some i => (s.setGo i (sub.testBit 0)).answerWith ([0, 6, 0, 0] ++ (m.drop 4).take 1 ++ [0] ++ (m.drop 6).take 2)
  | 5, some i => (s.updIde i fun k => { k with secure := false }).answerWith
      ([0, 6, 0, 0] ++ (m.drop 4).take 1 ++ [0] ++ (m.drop 6).take 2)
  | _, _ => match s.free 256 with
    | (r, s) => s.answerWith (leBytes 32 r.toNat)
/-- K_SET_GO (R338): accepted only inside a secured session. -/
def execKSetGo (session : Bool) (stream : Fin 4) (set : Bool) (s : State) : Out :=
  .next (if !s.agentsUp || !session || s.pcie.sessions.isEmpty then s else s.setGo stream set)
/-- IDE_FAILURE (R339): the stream becomes Insecure; the failure is counted and raises a device event. -/
def execIdeFailure (stream : Fin 4) (s : State) : Out :=
  .next (if !(s.ideOf stream).secure then s
    else (s.updIde stream fun k => { k with secure := false, insecure := true, fails := k.fails + 1 }).devEvent 0x43
      (w64 stream))

/-! ### Data objects (R337) -/

/-- A message inside a secured session, behind the session's ID: END_SESSION ends it, HEARTBEAT and IDE_KM messages are answered,
and any other is one of SPDM. No session has another ID. -/
def State.securedAnswer (s : State) (b : List Byte) : State :=
  let id := leAt b 2 2
  let m := b.drop 4
  if !s.pcie.sessions.any fun x => x.doe && x.id == id then s.answerWith (spdmError 0x02)
  else match (m.getD 1 0).toNat with
    | 0xEC => ({ s with pcie := { s.pcie with sessions := s.pcie.sessions.filter fun x => !(x.doe && x.id == id) } } : State).answerWith
        [0x13, 0x6C, 0, 0]
    | 0xE8 => s.answerWith [0x13, 0x68, 0, 0]
    | 0xFE => s.ideMessage (m.drop 11)
    | _ => s.spdmAnswer m
/-- A data object is served: protocols 0 Discovery, 1 CMA-SPDM and 2 Secured CMA-SPDM. -/
def State.doeServe (s : State) (proto : BitVec 8) (object : List Byte) : State :=
  match proto.toNat with
  | 0 => s.answerWith (doeDiscovery (object.getD 0 0).toNat)
  | 1 => s.spdmAnswer object
  | 2 => s.securedAnswer object
  | _ => s
/-- DWORDs of a byte string. -/
def dwordsOf (b : List Byte) : List (BitVec 32) := (List.range ((b.length + 3) / 4)).map fun i => BitVec.ofNat 32 (leAt b (4 * i) 4)
/-- The response as a data object in the read mailbox. -/
def Pcie.doeReply (p : Pcie) (proto : BitVec 8) : Pcie :=
  let b := dwordsOf p.resp
  if b.isEmpty then p
  else { p with doeOut := BitVec.ofNat 32 (1 + 2 ^ 16 * proto.toNat) :: BitVec.ofNat 32 (b.length + 2) :: b }
/-- DOE_OBJECT (R337): objects of up to 64 KiB, one at a time. While the mailbox holds objects, the one in service is served, and
answered in the read mailbox; any other waits behind them. -/
def execDoeObject (proto : BitVec 8) (object : List Byte) (s : State) : Out :=
  .next (if !s.agentsUp || 65536 < object.length then s
    else match s.pcie.doeWait with
    | [] => s.doeServe proto object
    | x :: l =>
        if x != (proto, object) then { s with pcie := { s.pcie with doeWait := s.pcie.doeWait ++ [(proto, object)] } }
        else
          let t := State.doeServe { s with pcie := { s.pcie with doeWait := l, resp := [] } } proto object
          { t with pcie := t.pcie.doeReply proto })

/-! ### Sessions (R337) -/

/-- Sessions of one transport, which are counted separately (R341). -/
def State.sessionsOf (s : State) (doe : Bool) : List Session := s.pcie.sessions.filter fun x => x.doe == doe
/-- KEY_EXCHANGE (R337): the fifth session of a transport is refused with SessionLimitExceeded; the ephemeral is drawn from
the key DRBG (`15` R381). The lowest free session number is taken (log 36). -/
def execKeyExchange (doe : Bool) (peer : List Byte) (s : State) : Out :=
  .next (if !s.agentsUp then s
    else if 4 ≤ (s.sessionsOf doe).length then s.answerWith (spdmError 0x0A)
    else if !Config.sm2point peer then s.answerWith (spdmError 0x01)
    else match s.drawKey 256 with
      | none => s.keyRefused.answerWith (spdmError 0x05)
      | some (d, s) =>
          let used := (s.sessionsOf doe).map (·.id)
          let n := ((List.range 4).find? fun i => !used.contains i).getD 0
          let x : Session := { id := n, doe := doe, secret := Config.sm2agree d peer }
          ({ s with pcie := { s.pcie with sessions := s.pcie.sessions ++ [x] } } : State).answerWith
            ([0x13, 0x64, 0, 0] ++ leBytes 2 n ++ Config.sm2public d))

/-! ### MCTP and PLDM (R340–R343) -/

/-- A binding is available: I3C while the auxiliary supply is on, and PCIe while the link is up; neither while Sheepdog holds
Yorek in reset (R340, `21` R495). -/
def State.bindingUp (s : State) (pcie : Bool) : Bool :=
  !s.ras.yorekHeld && (if pcie then s.agentsUp && s.pcie.up else s.pw.aux)
/-- A request on a binding; the bus controller has given the I3C target its dynamic address by the first (a free value, R340,
log 36). -/
def State.onBinding (s : State) (pcie : Bool) (f : State → State) : State :=
  if !s.bindingUp pcie then s
  else if pcie || s.pcie.i3cAddr.isSome then f s
  else match s.free 7 with
    | (a, s) => f { s with pcie := { s.pcie with i3cAddr := some a } }
/-- MCTP_CONTROL (R340, R341): Set Endpoint ID assigns it, and an MTU is negotiated up to 256 B on I3C and 1,024 B on PCIe; Get
Endpoint ID, Get Message Type Support and Get Version answer; any other command is not supported. -/
def execMctpControl (pcie : Bool) (cmd : Fin 256) (eid : BitVec 8) (mtu : Nat) (s : State) : Out :=
  let i := b2n pcie
  .next (s.onBinding pcie fun s =>
      let s : State := if mtu = 0 then s else { s with pcie := { s.pcie with
        mtu := Tab.set 64 s.pcie.mtu i (max 64 (min mtu (if pcie then 1024 else 256))) } }
      match cmd.val with
      | 1 => if eid = 0 || eid = 0xFF then s.answerWith [0x02]
          else ({ s with pcie := { s.pcie with eid := Tab.set 0 s.pcie.eid i eid.toNat } } : State).answerWith [0, 0, eid, 0]
      | 2 => s.answerWith [0, BitVec.ofNat 8 (Tab.get 0 s.pcie.eid i), 0, 0]
      | 4 => s.answerWith [0, 1, 0xF1, 0xF3, 0xFF, 0]
      | 5 => s.answerWith [0, 4, 0, 1, 5, 6]
      | _ => s.answerWith [0x05])
/-- A numeric or state sensor by its number in the model (log 36): 0–7 C-dies, 8–15 D-stacks, 16–19 M-dies, 20 the X-die, 21 the
inlet, 22 and 23 input voltage and current, 24 module power, 25 Sheepdog, 26 Sentinel mode, 27 life-cycle state, with a PUF failure in bit 8 (`15` R367), and 28 the
supply-fault word. Input voltage and current are free values. -/
def State.sensor (s : State) (n : Nat) : Option (W64 × State) :=
  let p := s.pw
  let t (v : BitVec 16) : Option (W64 × State) := some (v.signExtend 64, s)
  if n < 8 then t (Tab.get 0 p.tj n)
  else if n < 16 then t (Tab.get 0 p.td (n - 8))
  else if n < 20 then t (Tab.get 0 p.mtj (n - 16))
  else match n with
    | 20 => t p.xtj
    | 21 => t p.inlet
    | 22 => some (s.free 64)
    | 23 => some (s.free 64)
    | 24 => some (w64 p.pwr, s)
    | 25 => some (w64 (b2n s.ras.tripped + 2 * b2n s.ras.yorekHeld), s)
    | 26 => some (w64 (b2n (s.dev == .sentinel)), s)
    | 27 => some (w64 (s.lc.code.toNat + 256 * b2n s.lc.pufFailed), s)
    | 28 => some (p.islandFault, s)
    | _ => none
/-- Sensors that the management island serves alone (`23` R514). -/
def islandSensor (n : Nat) : Bool := n == 21 || n == 22 || n == 28
/-- A request of PLDM Type 0, by its command code: GetPLDMTypes names Types 0, 2 and 5; the terminus ID, the versions and the
commands are free values (R341, log 36). -/
def State.pldmBase (s : State) (cmd : Nat) : State :=
  match s.free 256, cmd with
  | (r, s), 2 => s.answerWith (0 :: leBytes 1 r.toNat)
  | (r, s), 3 => s.answerWith ([0, 0, 0, 0, 0, 5] ++ leBytes 8 r.toNat)
  | _, 4 => s.answerWith (0 :: leBytes 8 0x25)
  | (r, s), 5 => s.answerWith (0 :: leBytes 32 r.toNat)
  | _, _ => s.answerWith [0x05]
/-- Firmware can be updated: by Yorek while it is Ready, and by the ROM in boot hold with RECOV set (`22` R507). -/
def State.updates (s : State) : Bool := s.dev == .ready || (s.dev == .bootHold && s.boot.recov)
/-- RequestUpdate (R342): one update agent; a second request is refused with ALREADY_IN_UPDATE_MODE. -/
def State.requestUpdate (s : State) (pcie : Bool) : State :=
  match s.pcie.agent with
  | some _ => s.answerWith [0x81]
  | none => ({ s with pcie := { s.pcie with agent := some (b2n pcie) } } : State).answerWith [0]
/-- A request of PLDM Type 5, by its command code: RequestUpdate, and CancelUpdate by the binding that holds the agent; the
others answer with values that are free (R341, R342, log 36). -/
def State.pldmUpdate (s : State) (pcie : Bool) (cmd : Nat) : State :=
  if !s.updates then s.answerWith [0x04]
  else match cmd with
    | 0x10 => s.requestUpdate pcie
    | 0x1D =>
        if s.pcie.agent != some (b2n pcie) then s.answerWith [0x80]
        else ({ s with pcie := { s.pcie with agent := none } } : State).answerWith (List.replicate 10 0)
    | _ =>
        if !(cmd == 1 || cmd == 2 || (0x13 ≤ cmd && cmd ≤ 0x1C)) then s.answerWith [0x05]
        else match s.free 128 with
          | (r, s) => s.answerWith (0 :: leBytes 16 r.toNat)
/-- PLDM_SENSOR (R341): a request of PLDM Type 2 for a sensor, and of Types 0 and 5 for a command; other types receive the error
for an unsupported type. In the aux-only state everything but the island's sensors is not ready. -/
def execPldmSensor (pcie : Bool) (typ : BitVec 8) (sensor : Fin 256) (s : State) : Out :=
  .next (s.onBinding pcie fun s =>
    if !(typ == 0 || typ == 2 || typ == 5) then s.answerWith [0x20]
    else if (s.dev == .auxOnly || s.dev == .starting) && !(typ == 2 && islandSensor sensor) then s.answerWith [0x04]
    else if typ == 0 then s.pldmBase sensor
    else if typ == 5 then s.pldmUpdate pcie sensor
    else match s.sensor sensor with
      | none => s.answerWith [0x80]
      | some (v, s) => ({ s with pcie := { s.pcie with rdata := v } } : State).answerWith (0 :: leBytes 8 v.toNat))
/-- REQUEST_UPDATE (R342, `22` R507). -/
def execRequestUpdate (pcie : Bool) (s : State) : Out :=
  .next (s.onBinding pcie fun s => if !s.updates then s else s.requestUpdate pcie)
/-- UPDATE_AGENT_IDLE (R342): no request for 120 s. -/
def execUpdateAgentIdle (s : State) : Out := .next { s with pcie := { s.pcie with agent := none } }

end Sys2Proof.Machine
end

