-- ==== Sys2Proof/Machine/Request.lean ====
section
/-! DEFINITION. Memory requests as commands: their tags, their order, the access of internal registers and the retries
(`07` R158, R168–R172, `08` R193–R196). -/

namespace Sys2Proof.Machine

/-- An engine that serves several contexts carries only one whose work it was given (`07` R170): the collective engine
that of a bound channel, a streaming engine that of a window of its die, the copy engine that of a COPY packet or of an
object in or out, the queue processor that of a STAMP packet. -/
def State.workFor (s : State) (init c : Nat) : Bool :=
  let packet (opc : Nat) : Bool := (s.ctx c).queues.any fun q => q.2.prog.any fun x => x.opc == opc
  if init = 726 then s.colls.any fun e => e.2.bound && e.2.ctx == c
  else if 739 ≤ init ∧ init ≤ 746 then
    (dieCores (init - 739)).any fun n => s.coreCtx n == some c && !(s.core n).wins.isEmpty
  else if init = 747 then packet 3 || s.xfers.any fun x => x.ctx == c
  else if init = 748 then packet 4
  else true
/-- Yorek's access to the internal registers: its units as through BAR0 (`07` R158, `25` R547). -/
def State.regRequest (s : State) (r : MemReq) : State :=
  let o := regOff r.da
  if r.write then { s.writeUnits o r.data (unitsOf o r.data.length) with resp := [] }
  else match s.readUnits o r.len (unitsOf o r.len) with
    | (b, s) => { s with resp := b }
/-- A request of register space that its target admits is an access to registers. -/
def State.request (s : State) (x : Refused) (older : List Refused) (h : Health) (i : Nat) : State :=
  let r := x.req
  if s.space r.da == .regs && s.admits r.init r.ctx r.da r.write r.walk then s.regRequest r
  else s.launch x older h i
/-- The request of a command. -/
def State.reqOf (s : State) (r : MemOp) : MemReq :=
  { init := r.init, ctx := r.ctx, da := r.da.toNat, write := r.write, walk := r.walk, len := r.len, data := r.data
    acts := (s.initCtx r.init r.ctx r.da.toNat).getD 0, num := s.reqNum }
/-- What DRAM has done before a request arrives at a controller: requests issued, and returned. -/
def State.dram (s : State) (da issued returned : Nat) : State := (s.returnDram da returned).issueDram da issued
/-- MEMORY_REQUEST (`07` R168–R172, `08` R193–R196). An engine makes no request for a context without work for it, and an
initiator whose issue queue holds 64 requests makes none. -/
def execMemoryRequest (r : MemOp) (s : State) : Out :=
  .next (if s.dev != .ready || !s.workFor r.init r.ctx || 64 ≤ s.queued r.init then s
    else
      let s := s.dram r.da.toNat r.issued r.returned
      State.request { s with reqNum := s.reqNum + 1 } { req := s.reqOf r } s.retry r.health s.retry.length)
/-- A held request is tried again; a read of BAR4 that waits no more has its completion (`13` R329). -/
def State.retryAt (s : State) (x : Refused) (i : Nat) (h : Health) : State :=
  let t : State := { s with retry := s.retry.eraseIdx i }
  if x.req.init = 724 then
    (({ t with resp := [] } : State).request x (s.retry.take i) h i).apertureGive x.req t.retry.length
  else t.request x (s.retry.take i) h i
/-- REQUEST_RETRY (`08` R195): a held request is tried again; the access of an instruction, a chain or a fill is tried again
by its own work, and a write of a status area by the device. -/
def execRequestRetry (i : Nat) (r : RetryIn) (s : State) : Out :=
  .next (match s.retry[i]? with
    | none => s
    | some x =>
        if s.dev != .ready then s
        else if x.own then (if x.req.init = 725 then (s.dram x.req.da r.issued r.returned).statusAgain x.req.acts else s)
        else (s.dram x.req.da r.issued r.returned).retryAt x i r.health)

end Sys2Proof.Machine
end

