-- ==== Sys2Proof/Machine/Scalar.lean ====
section
/-! DEFINITION. Scalar instructions and branches (`06` R136–R140, `02` R31–R35). -/

namespace Sys2Proof.Machine

/-! ### Operations (R137) -/

/-- Bits [127:64] of a product. -/
def mulHigh (a b : Int) : W64 := BitVec.ofInt 64 (a * b / 2 ^ 64)
/-- Signed quotient truncated toward zero; all ones on division by zero, and −2⁶³ / −1 is
−2⁶³ (`02` R33). -/
def divS (a b : W64) : W64 := if b = 0 then BitVec.allOnes 64 else BitVec.ofInt 64 (a.toInt.tdiv b.toInt)
/-- Unsigned quotient; all ones on division by zero (`02` R33). -/
def divU (a b : W64) : W64 := if b = 0 then BitVec.allOnes 64 else a / b

/-- ADD of two values. -/
def aluAdd (a b : W64) : W64 := a + b
/-- SUB of two values. -/
def aluSub (a b : W64) : W64 := a - b
/-- AND of two values. -/
def aluAnd (a b : W64) : W64 := a &&& b
/-- OR of two values. -/
def aluOr (a b : W64) : W64 := a ||| b
/-- XOR of two values. -/
def aluXor (a b : W64) : W64 := a ^^^ b
/-- ANDN of two values. -/
def aluAndn (a b : W64) : W64 := a &&& ~~~b
/-- SHL of two values. -/
def aluShl (a b : W64) : W64 := a <<< fld b 5 0
/-- SHR of two values. -/
def aluShr (a b : W64) : W64 := a >>> fld b 5 0
/-- SRA of two values. -/
def aluSra (a b : W64) : W64 := a.sshiftRight (fld b 5 0)
/-- MIN of two values. -/
def aluMin (a b : W64) : W64 := if a.slt b then a else b
/-- MINU of two values. -/
def aluMinu (a b : W64) : W64 := if a.ult b then a else b
/-- MAX of two values. -/
def aluMax (a b : W64) : W64 := if a.slt b then b else a
/-- MAXU of two values. -/
def aluMaxu (a b : W64) : W64 := if a.ult b then b else a
/-- MUL of two values. -/
def aluMul (a b : W64) : W64 := a * b
/-- MULH of two values. -/
def aluMulh (a b : W64) : W64 := mulHigh a.toInt b.toInt
/-- MULHU of two values. -/
def aluMulhu (a b : W64) : W64 := mulHigh a.toNat b.toNat
/-- DIV of two values. -/
def aluDiv (a b : W64) : W64 := divS a b
/-- DIVU of two values. -/
def aluDivu (a b : W64) : W64 := divU a b

/-- A SALU instruction: g[RD] from g[RA] and g[RB]. -/
def salu (f : W64 → W64 → W64) (h : Issue) (rd ra rb : BitVec 5) (s : State) : Out :=
  .next (issue h 1 false none { regs := [rd, ra, rb] } s fun _ s =>
    onCore h.core (fun k => k.wr rd (f (k.rd ra) (k.rd rb))) s)

/-- ADD (R137). -/
def execAdd (h : Issue) (rd ra rb : BitVec 5) (s : State) : Out := salu aluAdd h rd ra rb s
/-- SUB (R137). -/
def execSub (h : Issue) (rd ra rb : BitVec 5) (s : State) : Out := salu aluSub h rd ra rb s
/-- AND (R137). -/
def execAnd (h : Issue) (rd ra rb : BitVec 5) (s : State) : Out := salu aluAnd h rd ra rb s
/-- OR (R137). -/
def execOr (h : Issue) (rd ra rb : BitVec 5) (s : State) : Out := salu aluOr h rd ra rb s
/-- XOR (R137). -/
def execXor (h : Issue) (rd ra rb : BitVec 5) (s : State) : Out := salu aluXor h rd ra rb s
/-- ANDN (R137). -/
def execAndn (h : Issue) (rd ra rb : BitVec 5) (s : State) : Out := salu aluAndn h rd ra rb s
/-- SHL (R137). -/
def execShl (h : Issue) (rd ra rb : BitVec 5) (s : State) : Out := salu aluShl h rd ra rb s
/-- SHR (R137). -/
def execShr (h : Issue) (rd ra rb : BitVec 5) (s : State) : Out := salu aluShr h rd ra rb s
/-- SRA (R137). -/
def execSra (h : Issue) (rd ra rb : BitVec 5) (s : State) : Out := salu aluSra h rd ra rb s
/-- MIN (R137). -/
def execMin (h : Issue) (rd ra rb : BitVec 5) (s : State) : Out := salu aluMin h rd ra rb s
/-- MINU (R137). -/
def execMinu (h : Issue) (rd ra rb : BitVec 5) (s : State) : Out := salu aluMinu h rd ra rb s
/-- MAX (R137). -/
def execMax (h : Issue) (rd ra rb : BitVec 5) (s : State) : Out := salu aluMax h rd ra rb s
/-- MAXU (R137). -/
def execMaxu (h : Issue) (rd ra rb : BitVec 5) (s : State) : Out := salu aluMaxu h rd ra rb s
/-- MUL (R137). -/
def execMul (h : Issue) (rd ra rb : BitVec 5) (s : State) : Out := salu aluMul h rd ra rb s
/-- MULH (R137). -/
def execMulh (h : Issue) (rd ra rb : BitVec 5) (s : State) : Out := salu aluMulh h rd ra rb s
/-- MULHU (R137). -/
def execMulhu (h : Issue) (rd ra rb : BitVec 5) (s : State) : Out := salu aluMulhu h rd ra rb s
/-- DIV (R137). -/
def execDiv (h : Issue) (rd ra rb : BitVec 5) (s : State) : Out := salu aluDiv h rd ra rb s
/-- DIVU (R137). -/
def execDivu (h : Issue) (rd ra rb : BitVec 5) (s : State) : Out := salu aluDivu h rd ra rb s

/-- The operation that SALUI's SUB selects (R137). -/
def aluOf (sub : Nat) : W64 → W64 → W64 :=
  match sub with
  | 0 => aluAdd
  | 1 => aluSub
  | 2 => aluAnd
  | 3 => aluOr
  | 4 => aluXor
  | 5 => aluAndn
  | 6 => aluShl
  | 7 => aluShr
  | 8 => aluSra
  | 9 => aluMin
  | 10 => aluMinu
  | 11 => aluMax
  | _ => aluMaxu
/-- SALUI is illegal: SUB above 12, or a shift by more than 63 (R157). -/
def saluiBad (sub : BitVec 6) (imm : BitVec 32) : Bool :=
  12 < sub.toNat || (6 ≤ sub.toNat && sub.toNat ≤ 8 && 63 < imm.toNat)
/-- SALUI (R137). -/
def execSalui (h : Issue) (sub : BitVec 6) (rd ra : BitVec 5) (imm : BitVec 32) (s : State) : Out :=
  .next (issue h 1 false (ill (saluiBad sub imm)) { regs := [rd, ra] } s fun _ s =>
    onCore h.core (fun k => k.wr rd (aluOf sub.toNat (k.rd ra) (imm32 imm))) s)

/-- MOVI (R138). -/
def execMovi (h : Issue) (rd : BitVec 5) (imm : BitVec 32) (s : State) : Out :=
  .next (issue h 1 false none { regs := [rd] } s fun _ s => onCore h.core (fun k => k.wr rd (imm32 imm)) s)
/-- The result of MOVHI: bits [63:32] replaced (R138). -/
def movHigh (v : W64) (imm : BitVec 32) : W64 := imm ++ v.truncate 32
/-- MOVHI (R138). -/
def execMovhi (h : Issue) (rd : BitVec 5) (imm : BitVec 32) (s : State) : Out :=
  .next (issue h 1 false none { regs := [rd] } s fun _ s =>
    onCore h.core (fun k => k.wr rd (movHigh (k.rd rd) imm)) s)

/-- The condition of a compare: EQ, NE, LT, LE, LTU, LEU (R138). -/
def condOf (cond : Nat) (a b : W64) : Bool :=
  match cond with
  | 0 => a == b
  | 1 => a != b
  | 2 => a.slt b
  | 3 => a.sle b
  | 4 => a.ult b
  | _ => a.ule b
/-- CMP (R138). -/
def execCmp (h : Issue) (cond : BitVec 6) (pd : BitVec 3) (ra rb : BitVec 5) (s : State) : Out :=
  .next (issue h 1 false (ill (5 < cond.toNat)) { regs := [ra, rb], preds := [pd] } s fun _ s =>
    onCore h.core (fun k => k.pw pd (condOf cond.toNat (k.rd ra) (k.rd rb))) s)
/-- CMPI (R138). -/
def execCmpi (h : Issue) (cond : BitVec 6) (pd : BitVec 3) (ra : BitVec 5) (imm : BitVec 32) (s : State) : Out :=
  .next (issue h 1 false (ill (5 < cond.toNat)) { regs := [ra], preds := [pd] } s fun _ s =>
    onCore h.core (fun k => k.pw pd (condOf cond.toNat (k.rd ra) (imm32 imm))) s)

/-- A PLOG instruction: p[PD] from p[PA] and p[PB]; `one` operations leave PB unused, so it
must be zero (R134, R138). -/
def plog (f : Bool → Bool → Bool) (one : Bool) (h : Issue) (pd pa pb : BitVec 3) (s : State) : Out :=
  .next (issue h 1 false (ill (one && pb != 0)) { preds := [pd, pa, pb] } s fun _ s =>
    onCore h.core (fun k => k.pw pd (f (k.pr pa) (k.pr pb))) s)
/-- PAND (R138). -/
def execPand (h : Issue) (pd pa pb : BitVec 3) (s : State) : Out := plog (fun a b => a && b) false h pd pa pb s
/-- POR (R138). -/
def execPor (h : Issue) (pd pa pb : BitVec 3) (s : State) : Out := plog (fun a b => a || b) false h pd pa pb s
/-- PXOR (R138). -/
def execPxor (h : Issue) (pd pa pb : BitVec 3) (s : State) : Out := plog (fun a b => a != b) false h pd pa pb s
/-- PANDN (R138). -/
def execPandn (h : Issue) (pd pa pb : BitVec 3) (s : State) : Out := plog (fun a b => a && !b) false h pd pa pb s
/-- PMOV (R138). -/
def execPmov (h : Issue) (pd pa pb : BitVec 3) (s : State) : Out := plog (fun a _ => a) true h pd pa pb s
/-- PNOT (R138). -/
def execPnot (h : Issue) (pd pa pb : BitVec 3) (s : State) : Out := plog (fun a _ => !a) true h pd pa pb s

/-! ### Loads and stores (R139, `02` R33–R35, R43–R54) -/

/-- The value that a load of `n` bytes writes, sign- or zero-extended. -/
def extend (sx : Bool) (b : List Byte) : W64 :=
  if sx then BitVec.ofInt 64 (toInt (8 * b.length) (leNat b)) else w64 (leNat b)
/-- The cause of a scalar access to the local stores, range before alignment (`02` R35). -/
def localAccess (a n : Nat) : Option Nat :=
  if localEnd < a + n then some 0x07 else if a % n ≠ 0 then some 0x08 else none
/-- A virtual address is that of the SRAM alias at or above local offset 0x48_0000. -/
def State.aliasBeyond (s : State) (n c a bytes : Nat) (acc : Acc) : Bool :=
  match s.xlate n c (some (n / 8)) a acc with
  | .ok _ e => match s.space (e.at a) with
    | .sram _ o => localEnd < o + bytes
    | _ => false
  | _ => false
/-- The cause of a scalar access to context memory by its address: a range beyond the stores before alignment (`02`
R35), and alignment before translation otherwise (DEDUCED, log 14). -/
def State.contextAccess (s : State) (n c a bytes : Nat) (acc : Acc) : Option Nat :=
  if a % bytes ≠ 0 then some (if s.aliasBeyond n c a bytes acc then 0x07 else 0x08)
  else if 2 ^ 48 ≤ a then some 0x09 else none

/-- A load of the local stores. -/
def loadLocal (n : Nat) (sx : Bool) (rd : BitVec 5) (a : Nat) (bytes : Nat) (s : State) : Res (Option W48) :=
  orLost s (localAccess a bytes) (interlocked s n { r := [(a, bytes)] }
    (onCore n (fun k => k.wr rd (extend sx (k.bytes a bytes))) s))
/-- A load of context memory as it goes out, with the pool whose tag it takes (`08` R193). -/
def loadOf (s : State) (n c : Nat) (rd : BitVec 5) (v : W64) (a da bytes : Nat) : Load :=
  { rd := rd.toNat, val := v, ctx := c, va := a, da := da, len := bytes, tag := (s.takeTag n c).getD 0, num := s.reqNum }
/-- A load is in flight, and is the next request by number. -/
def State.loadOut (s : State) (n : Nat) (l : Load) : State :=
  { s.updCore n (fun k => { k with loads := k.loads ++ [l] }) with reqNum := s.reqNum + 1 }
/-- A load of context memory, of which a core holds up to 16 in flight (`02` R33): it stays behind the writes of the
core's earlier chains to its line (`02` R43). Its data
are taken at its issue and reach the register when SCALAR_LOAD_RETURN brings them. -/
def loadContext (n c : Nat) (sx : Bool) (rd : BitVec 5) (a bytes : Nat) (s : State) : Res (Option W48) :=
  orLost s (s.contextAccess n c a bytes .read) (
    if 16 ≤ (s.core n).loads.length || s.lineLocked n (s.core n).disp { r := [(a, bytes)] } then .wait s
    else (s.aim n c a bytes .read).bind fun s da =>
      (s.readHeld n (s.core n).taskNow da bytes).bind fun s b =>
        .ok ((s.touched n c a da).loadOut n (loadOf s n c rd (extend sx b) a da bytes)) none)
/-- LD (R139). -/
def execLd (h : Issue) (loc sx : Bool) (size : BitVec 2) (rd ra : BitVec 5) (imm : BitVec 32) (s : State) : Out :=
  .next (issue h 1 false none { regs := [rd, ra] } s fun c s =>
    let a := ((s.core h.core).rd ra + imm32 imm).toNat
    if loc then loadLocal h.core sx rd a (2 ^ size.toNat) s
    else loadContext h.core c sx rd a (2 ^ size.toNat) s)

/-- A store to the local stores. -/
def storeLocal (n : Nat) (a : Nat) (b : List Byte) (s : State) : Res (Option W48) :=
  orLost s (localAccess a b.length) (interlocked s n { w := [(a, b.length)] }
    (onCore n (fun k => k.put a b) s))
/-- A store to context memory, behind the accesses of the core's earlier chains to its line (`02` R43), and held in the
paddock while the open task is speculative. -/
def storeContext (n c : Nat) (a : Nat) (b : List Byte) (s : State) : Res (Option W48) :=
  orLost s (s.contextAccess n c a b.length .write) (
    if s.lineLocked n (s.core n).disp { w := [(a, b.length)] } then .wait s
    else (s.aim n c a b.length .write).bind fun s da =>
      (s.writeHeld n (s.core n).taskNow da b).bind fun s _ => .ok (s.touched n c a da) none)
/-- ST (R139); SX must be 0. -/
def execSt (h : Issue) (loc sx : Bool) (size : BitVec 2) (rs ra : BitVec 5) (imm : BitVec 32) (s : State) : Out :=
  .next (issue h 1 false (ill sx) { regs := [rs, ra] } s fun c s =>
    let k := s.core h.core
    let a := (k.rd ra + imm32 imm).toNat
    let b := leBytes (2 ^ size.toNat) (k.rd rs).toNat
    if loc then storeLocal h.core a b s else storeContext h.core c a b s)

/-- A load in flight returns: its register and predicate are written and its place is free. -/
def Core.loadReturn (k : Core) (i : Nat) : Core :=
  match k.loads[i]? with
  | none => k
  | some l =>
      let k := { k with loads := k.loads.eraseIdx i }.wr (BitVec.ofNat 5 l.rd) l.val
      match l.pred with
      | some (p, v) => k.pw (BitVec.ofNat 3 p) v
      | none => k
/-- SCALAR_LOAD_RETURN (`02` R33). -/
def execScalarLoadReturn (core : Fin 512) (i : Fin 16) (s : State) : Out :=
  .next (s.updCore core fun k => k.loadReturn i)

/-! ### Branches (R140) -/

/-- The address of the next instruction. -/
def linkOf (pc : W48) : W64 := (pc + 8).setWidth 64
/-- The target of BR and BRL, modulo 2⁴⁸: the manual does not say what a target or a next address outside the 48-bit
range is (DESIGN CHOICE, log 14). -/
def brTarget (pc : W48) (imm : BitVec 32) : W48 := pc + (imm32 imm * 8).truncate 48
/-- BR (R140). -/
def execBr (h : Issue) (rd : BitVec 5) (imm : BitVec 32) (s : State) : Out :=
  .next (issue h 1 false (ill (rd != 0)) {} s fun _ s => .ok s (some (brTarget (s.core h.core).pc imm)))
/-- BRL (R140). -/
def execBrl (h : Issue) (rd : BitVec 5) (imm : BitVec 32) (s : State) : Out :=
  .next (issue h 1 false none { regs := [rd] } s fun _ s =>
    .ok (s.updCore h.core fun k => k.wr rd (linkOf k.pc)) (some (brTarget (s.core h.core).pc imm)))
/-- A branch to a register: a target outside the 48-bit virtual addresses cannot be fetched,
so that the context is lost with cause code 0x03 there (R131; DEDUCED, log 14). -/
def toRegister (n : Nat) (t : W64) (f : Core → Core) (s : State) : Res (Option W48) :=
  let s := s.updCore n f
  if 2 ^ 48 ≤ t.toNat then .lost (s.updCore n fun k => { k with pc := t.truncate 48 }) 0x03
  else .ok s (some (t.truncate 48))
/-- BRR (R140). -/
def execBrr (h : Issue) (rd ra : BitVec 5) (s : State) : Out :=
  .next (issue h 1 false (ill (rd != 0)) { regs := [ra] } s fun _ s =>
    toRegister h.core ((s.core h.core).rd ra) id s)
/-- BRRL (R140): the target is read before the link is written. -/
def execBrrl (h : Issue) (rd ra : BitVec 5) (s : State) : Out :=
  .next (issue h 1 false none { regs := [rd, ra] } s fun _ s =>
    toRegister h.core ((s.core h.core).rd ra) (fun k => k.wr rd (linkOf k.pc)) s)

/-! ### Words that are no instruction (R131, R135) -/

/-- A word that cannot be run is reached on a core that issues. -/
def badWord (n cause : Nat) (s : State) : State :=
  match s.coreCtx n with
  | none => s
  | some c => if s.issues n c then s.lose c cause (some n) (s.core n).pc else s
/-- A major opcode of *Major opcodes* (R135). -/
def assigned (op : Nat) : Bool :=
  op ≤ 0x09 || (0x10 ≤ op && op ≤ 0x1E) || (0x20 ≤ op && op ≤ 0x23) || (0x28 ≤ op && op ≤ 0x2C) ||
    (0x30 ≤ op && op ≤ 0x33) || (0x38 ≤ op && op ≤ 0x3C)
/-- UNASSIGNED_MAJOR_OPCODE (R135): fetch is checked first; an assigned opcode is none of these
words. -/
def execUnassignedMajorOpcode (h : Issue) (op : BitVec 6) (s : State) : Out :=
  .next (if assigned op.toNat then s
    else badWord h.core (if (s.core h.core).pc.toNat % 8 = 0 then 0x01 else 0x03) s)
/-- INSTRUCTION_FETCH_FAULT (R131). -/
def execInstructionFetchFault (core : Fin 512) (s : State) : Out := .next (badWord core 0x03 s)

end Sys2Proof.Machine
end

