-- ==== Sys2Proof/Machine/Test.lean ====
section
/-! DEFINITION. The on-demand field test, redundancy mode and the reset of a unit by command (`20` R470–R474, `21` R479). -/

namespace Sys2Proof.Machine

/-! ### The field test (R472–R474) -/

/-- A step of the learning binding is open and not held under `12` R312. -/
def State.stepUnheld (s : State) : Bool :=
  s.learn.bound && !(s.learn.final && s.learn.committed) && !(match s.learnHerd s.learn.ctx with
    | some h => h.hold
    | none => false)
/-- FIELDTEST (R472): a test that already runs answers for both. -/
def execFieldtest (c : MbxCall) (s : State) : Out :=
  .next (mailbox c (fun _ => { opc := 0x55, masks := [], names := [], ctxs := [], always := false, bad := false, free := true })
    (fun _ s =>
      if s.ras.fieldTest != 0 then (s, .wait .fieldtest)
      else if s.stepUnheld then (s, .done stBusy [])
      else (s.fieldTestBegin none, .wait .fieldtest)) s)
/-- FIELDTEST_LIMIT (R473): units that have not finished fail as hung. -/
def execFieldtestLimit (hung : List (Nat × Nat)) (s : State) : Out :=
  .next (if s.ras.fieldTest = 0 then s else { s with ras := { s.ras with ftFail := s.ras.ftFail ++ hung } })
/-- The signature of a failing record (R474, R478). -/
def failSig (f : FailRec) : Cper :=
  { cls := 0x0B, outcome := 5, ukind := f.ukind, uidx := f.uidx, test := f.test, row := f.row, col := f.col
    synd := BitVec.ofNat 128 (2 ^ 64 * f.got.toNat + f.expect.toNat)
    flg := BitVec.ofNat 64 (2 ^ 32 * f.flags.2.toNat + f.flags.1.toNat) }
/-- The first 16 records of each unit. -/
def firstFails (l : List FailRec) : List FailRec :=
  l.foldl (fun a f => if (a.filter fun x => x.ukind == f.ukind && x.uidx == f.uidx).length < 16 then a ++ [f] else a) []
/-- The highest version of the conformance set that the device states: XGLB.ID.CSVER (`04` R113, `25`). -/
def csVersion : Nat := 1
/-- A unit of the result word: a core by itself, its array, lanes and reduction unit; an update unit; the engine. -/
def failedIn (l : List (Nat × Nat)) (p : Nat × Nat → Bool) : Bool := l.any p
/-- RES0–RES8 of FIELDTEST (`25` *Mailbox commands*). -/
def fieldResult (l : List (Nat × Nat)) : List W64 :=
  ((List.range 8).map fun w => w64 (maskOf 64 fun i => failedIn l fun f => f.1 < 4 && f.2 == 64 * w + i)) ++
    [w64 (maskOf 4 (fun m => failedIn l fun f => f.1 == 6 && f.2 == m) + 16 * b2n (failedIn l fun f => f.1 == 7))]
/-- The end of a test that a herd waits for (`12` R312): a member reports whether it failed to the Bellwether, and waits for
what the herd does. The Bellwether expels the members that failed, itself among them, and if the rest share one value,
the herd resumes, which it tells them. Otherwise the job restores. The codes of the messages are log 29. -/
def State.herdTested (s : State) (hid : Nat) (failed : Bool) (members : List Nat) : State :=
  let s := if failed then s.record { cls := 0x08, outcome := 3, ukind := 12 } else s
  match s.herd? hid with
  | none => s
  | some h =>
      if h.rcd.bell != h.self then s.toMember h h.rcd.bell { opc := 0x44, data := leBytes 1 (b2n failed) }
      else
        let rest := h.latest.live.filter fun m => !members.contains m && !(failed && m == h.self)
        let vals := (h.digests.filter fun d => rest.contains d.1).map fun d => d.2.2
        let s := if vals.all fun v => some v == vals.head? then
            ((rest.filter (· != h.self)).foldl (fun s m => s.toMember h m { opc := 0x49 }) s).updHerd hid fun h => { h with
              hold := false, phase := .live, digests := [] }
          else s
        if rest = h.latest.live then s else s.expel hid rest
/-- FIELD_TEST_COMPLETE (R474): signatures, the result word, and the resume of every core. `members` are the members whose
failure has reached the Bellwether. A record of a later version is skipped and counted (`04` R113). -/
def execFieldTestComplete (fails : List FailRec) (members : List Nat) (s : State) : Out :=
  .next (if s.ras.fieldTest = 0 then s
    else
      let skipped := (fails.filter fun f => csVersion < f.ver.toNat).length
      let fails := fails.filter fun f => f.ver.toNat ≤ csVersion
      let s : State := { s with ras := { s.ras with ftSkipped := s.ras.ftSkipped + skipped } }
      let s := (firstFails fails).foldl (fun s f => s.record (failSig f)) s
      let all := s.ras.ftFail ++ fails.map fun f => (f.ukind, f.uidx)
      let herd := s.ras.ftHerd
      let s := ({ s with ras := { s.ras with fieldTest := 0, ftFail := all, ftHerd := none } } : State).completeAll
        (fun w => w == MbxWait.fieldtest) stOk (fieldResult all)
      match herd with
      | some hid => s.herdTested hid (!all.isEmpty) members
      | none => s)

/-! ### Redundancy and unit resets (R470, `21` R479) -/

/-- REDUNDANCY_MISMATCH (R470): the context is lost with cause code 0x18; the signature names the leader, and in SYND the
follower and the first differing field (log 39). -/
def execRedundancyMismatch (core : Fin 512) (field : BitVec 64) (s : State) : Out :=
  let n := core.val / 2 * 2
  .next (match s.coreCtx n with
    | none => s
    | some c =>
        if !(s.cluster (n / 8)).red || s.dev != .ready || !s.resident c then s
        else (s.lose c 0x18 (some n) (s.core n).pc).record
          { cls := 0x0A, outcome := 2, ukind := 0, uidx := n, ctx := c, cause := 0x18
            synd := BitVec.ofNat 128 ((n + 1) * 2 ^ 64 + field.toNat) })
/-- UNIT.RESET (`21` R479): it completes when the unit is ready. -/
def execUnitReset (c : MbxCall) (s : State) : Out :=
  .next (mailbox c (fun a =>
      let k := fld (argAt a 0) 2 0
      { opc := 0x56, masks := [lowMask 12], names := [], ctxs := [], always := false, free := true
        bad := decide (3 < k) || !s.unitFitted k (fld (argAt a 0) 11 3) })
    (fun a s =>
      let k := fld (argAt a 0) 2 0
      let i := fld (argAt a 0) 11 3
      (s.resetUnit k i, .wait (.unit k i))) s)

end Sys2Proof.Machine
end

