-- ==== Sys2Proof/Machine/Dispatch.lean ====
section
/-! DEFINITION. The dispatch: one arm per command. -/

namespace Sys2Proof.Machine

/-- The effect of a command. -/
def exec (i : Instr) (s : State) : Host.Outcome State Fault Refusal :=
  match i with
  | .add h rd ra rb => Sys2Proof.Machine.execAdd h rd ra rb s
  | .sub h rd ra rb => Sys2Proof.Machine.execSub h rd ra rb s
  | .and h rd ra rb => Sys2Proof.Machine.execAnd h rd ra rb s
  | .or h rd ra rb => Sys2Proof.Machine.execOr h rd ra rb s
  | .xor h rd ra rb => Sys2Proof.Machine.execXor h rd ra rb s
  | .andn h rd ra rb => Sys2Proof.Machine.execAndn h rd ra rb s
  | .shl h rd ra rb => Sys2Proof.Machine.execShl h rd ra rb s
  | .shr h rd ra rb => Sys2Proof.Machine.execShr h rd ra rb s
  | .sra h rd ra rb => Sys2Proof.Machine.execSra h rd ra rb s
  | .min h rd ra rb => Sys2Proof.Machine.execMin h rd ra rb s
  | .minu h rd ra rb => Sys2Proof.Machine.execMinu h rd ra rb s
  | .max h rd ra rb => Sys2Proof.Machine.execMax h rd ra rb s
  | .maxu h rd ra rb => Sys2Proof.Machine.execMaxu h rd ra rb s
  | .mul h rd ra rb => Sys2Proof.Machine.execMul h rd ra rb s
  | .mulh h rd ra rb => Sys2Proof.Machine.execMulh h rd ra rb s
  | .mulhu h rd ra rb => Sys2Proof.Machine.execMulhu h rd ra rb s
  | .div h rd ra rb => Sys2Proof.Machine.execDiv h rd ra rb s
  | .divu h rd ra rb => Sys2Proof.Machine.execDivu h rd ra rb s
  | .salui h sub rd ra imm => Sys2Proof.Machine.execSalui h sub rd ra imm s
  | .movi h rd imm => Sys2Proof.Machine.execMovi h rd imm s
  | .movhi h rd imm => Sys2Proof.Machine.execMovhi h rd imm s
  | .cmp h cond pd ra rb => Sys2Proof.Machine.execCmp h cond pd ra rb s
  | .cmpi h cond pd ra imm => Sys2Proof.Machine.execCmpi h cond pd ra imm s
  | .pand h pd pa pb => Sys2Proof.Machine.execPand h pd pa pb s
  | .por h pd pa pb => Sys2Proof.Machine.execPor h pd pa pb s
  | .pxor h pd pa pb => Sys2Proof.Machine.execPxor h pd pa pb s
  | .pandn h pd pa pb => Sys2Proof.Machine.execPandn h pd pa pb s
  | .pmov h pd pa pb => Sys2Proof.Machine.execPmov h pd pa pb s
  | .pnot h pd pa pb => Sys2Proof.Machine.execPnot h pd pa pb s
  | .ld h loc sx size rd ra imm => Sys2Proof.Machine.execLd h loc sx size rd ra imm s
  | .st h loc sx size rs ra imm => Sys2Proof.Machine.execSt h loc sx size rs ra imm s
  | .scalarLoadReturn core n => Sys2Proof.Machine.execScalarLoadReturn core n s
  | .br h rd imm => Sys2Proof.Machine.execBr h rd imm s
  | .brl h rd imm => Sys2Proof.Machine.execBrl h rd imm s
  | .brr h rd ra => Sys2Proof.Machine.execBrr h rd ra s
  | .brrl h rd ra => Sys2Proof.Machine.execBrrl h rd ra s
  | .vadd h f => Sys2Proof.Machine.execVadd h f s
  | .vsub h f => Sys2Proof.Machine.execVsub h f s
  | .vmulLo h f => Sys2Proof.Machine.execVmulLo h f s
  | .vmulHi h f => Sys2Proof.Machine.execVmulHi h f s
  | .vmul h f => Sys2Proof.Machine.execVmul h f s
  | .vmin h f => Sys2Proof.Machine.execVmin h f s
  | .vmax h f => Sys2Proof.Machine.execVmax h f s
  | .vshl h f => Sys2Proof.Machine.execVshl h f s
  | .vshr h f => Sys2Proof.Machine.execVshr h f s
  | .vshra h f => Sys2Proof.Machine.execVshra h f s
  | .vand h f => Sys2Proof.Machine.execVand h f s
  | .vor h f => Sys2Proof.Machine.execVor h f s
  | .vxor h f => Sys2Proof.Machine.execVxor h f s
  | .vandn h f => Sys2Proof.Machine.execVandn h f s
  | .vcmpEq h f => Sys2Proof.Machine.execVcmpEq h f s
  | .vcmpNe h f => Sys2Proof.Machine.execVcmpNe h f s
  | .vcmpLt h f => Sys2Proof.Machine.execVcmpLt h f s
  | .vcmpLe h f => Sys2Proof.Machine.execVcmpLe h f s
  | .vany h f => Sys2Proof.Machine.execVany h f s
  | .vall h f => Sys2Proof.Machine.execVall h f s
  | .vabs h f => Sys2Proof.Machine.execVabs h f s
  | .vneg h f => Sys2Proof.Machine.execVneg h f s
  | .vnot h f => Sys2Proof.Machine.execVnot h f s
  | .vmov h f => Sys2Proof.Machine.execVmov h f s
  | .vexp2 h f => Sys2Proof.Machine.execVexp2 h f s
  | .vlog2 h f => Sys2Proof.Machine.execVlog2 h f s
  | .vrcp h f => Sys2Proof.Machine.execVrcp h f s
  | .vrsq h f => Sys2Proof.Machine.execVrsq h f s
  | .vtanh h f => Sys2Proof.Machine.execVtanh h f s
  | .vfma h ty f => Sys2Proof.Machine.execVfma h ty f s
  | .vdot2 h fp16 f => Sys2Proof.Machine.execVdot2 h fp16 f s
  | .vsel h w f => Sys2Proof.Machine.execVsel h w f s
  | .vcvt h f => Sys2Proof.Machine.execVcvt h f s
  | .vcvtMx h f => Sys2Proof.Machine.execVcvtMx h f s
  | .vcvtMxd h f => Sys2Proof.Machine.execVcvtMxd h f s
  | .vbxExp h f => Sys2Proof.Machine.execVbxExp h f s
  | .vbxCvt h f => Sys2Proof.Machine.execVbxCvt h f s
  | .vbxDec h f => Sys2Proof.Machine.execVbxDec h f s
  | .vrng h f => Sys2Proof.Machine.execVrng h f s
  | .vrngU h f => Sys2Proof.Machine.execVrngU h f s
  | .vrngSetc h f => Sys2Proof.Machine.execVrngSetc h f s
  | .vrngGetc h f => Sys2Proof.Machine.execVrngGetc h f s
  | .vrngT h f => Sys2Proof.Machine.execVrngT h f s
  | .rsum h f => Sys2Proof.Machine.execRsum h f s
  | .rssq h f => Sys2Proof.Machine.execRssq h f s
  | .risum h f => Sys2Proof.Machine.execRisum h f s
  | .rpsumI h f => Sys2Proof.Machine.execRpsumI h f s
  | .rpsumE h f => Sys2Proof.Machine.execRpsumE h f s
  | .rmax h f => Sys2Proof.Machine.execRmax h f s
  | .rmin h f => Sys2Proof.Machine.execRmin h f s
  | .rargmax h f => Sys2Proof.Machine.execRargmax h f s
  | .rargmin h f => Sys2Proof.Machine.execRargmin h f s
  | .rtopk h i32 f => Sys2Proof.Machine.execRtopk h i32 f s
  | .loadw h f => Sys2Proof.Machine.execLoadw h f s
  | .loadwComplete core => Sys2Proof.Machine.execLoadwComplete core s
  | .swap h => Sys2Proof.Machine.execSwap h s
  | .stream h f o => Sys2Proof.Machine.execStream h f o s
  | .streamRowResult core => Sys2Proof.Machine.execStreamRowResult core s
  | .accout h e0 j1 o => Sys2Proof.Machine.execAccout h e0 j1 o s
  | .csadv h f => Sys2Proof.Machine.execCsadv h f s
  | .dmaDesc h f => Sys2Proof.Machine.execDmaDesc h f s
  | .dmaDescriptorRun m => Sys2Proof.Machine.execDmaDescriptorRun m s
  | .dmaChainComplete cluster e => Sys2Proof.Machine.execDmaChainComplete cluster e s
  | .dmaCopy h f => Sys2Proof.Machine.execDmaCopy h f s
  | .ringAdv h q => Sys2Proof.Machine.execRingAdv h q s
  | .ringRst h q => Sys2Proof.Machine.execRingRst h q s
  | .winResv h gw => Sys2Proof.Machine.execWinResv h gw s
  | .winRel h gw => Sys2Proof.Machine.execWinRel h gw s
  | .windowReleaseComplete core n => Sys2Proof.Machine.execWindowReleaseComplete core n s
  | .windowFillBegin core n => Sys2Proof.Machine.execWindowFillBegin core n s
  | .windowArrival core n => Sys2Proof.Machine.execWindowArrival core n s
  | .windowLate core n => Sys2Proof.Machine.execWindowLate core n s
  | .ringQuarterFilled core n => Sys2Proof.Machine.execRingQuarterFilled core n s
  | .runAheadFetch core n => Sys2Proof.Machine.execRunAheadFetch core n s
  | .runAheadExpired die n => Sys2Proof.Machine.execRunAheadExpired die n s
  | .taskBegin h gh => Sys2Proof.Machine.execTaskBegin h gh s
  | .taskInputSatisfied core => Sys2Proof.Machine.execTaskInputSatisfied core s
  | .taskEnd h => Sys2Proof.Machine.execTaskEnd h s
  | .taskOutputSignal core n => Sys2Proof.Machine.execTaskOutputSignal core n s
  | .speculativeResolve core n => Sys2Proof.Machine.execSpeculativeResolve core n s
  | .verdictTimeout core n => Sys2Proof.Machine.execVerdictTimeout core n s
  | .paddockDrain core n => Sys2Proof.Machine.execPaddockDrain core n s
  | .fenceSignal h f => Sys2Proof.Machine.execFenceSignal h f s
  | .fenceSignalI h fid val => Sys2Proof.Machine.execFenceSignalI h fid val s
  | .fenceRead h f => Sys2Proof.Machine.execFenceRead h f s
  | .fenceWait h f => Sys2Proof.Machine.execFenceWait h f s
  | .fenceWaitSatisfied core => Sys2Proof.Machine.execFenceWaitSatisfied core s
  | .sysNop h gd ga => Sys2Proof.Machine.execSysNop h gd ga s
  | .sysIflush h gd ga => Sys2Proof.Machine.execSysIflush h gd ga s
  | .sysSrkey h gd ga => Sys2Proof.Machine.execSysSrkey h gd ga s
  | .sysFlags h gd ga => Sys2Proof.Machine.execSysFlags h gd ga s
  | .sysId h gd ga => Sys2Proof.Machine.execSysId h gd ga s
  | .sysTime h gd ga => Sys2Proof.Machine.execSysTime h gd ga s
  | .fenceSignalApply => Sys2Proof.Machine.execFenceSignalApply s
  | .memoryRequest r => Sys2Proof.Machine.execMemoryRequest r s
  | .translationWalk core va acc => Sys2Proof.Machine.execTranslationWalk core va acc s
  | .requestRetry n r => Sys2Proof.Machine.execRequestRetry n r s
  | .accessTableSwap t => Sys2Proof.Machine.execAccessTableSwap t s
  | .targetDrained t => Sys2Proof.Machine.execTargetDrained t s
  | .drainTimeout t => Sys2Proof.Machine.execDrainTimeout t s
  | .kvPromotion ctx vpn die => Sys2Proof.Machine.execKvPromotion ctx vpn die s
  | .poolMove mover ctx vpn => Sys2Proof.Machine.execPoolMove mover ctx vpn s
  | .poolMoveComplete n health => Sys2Proof.Machine.execPoolMoveComplete n health s
  | .poolMoveAbort n readable => Sys2Proof.Machine.execPoolMoveAbort n readable s
  | .bridleFlit link dir f crc => Sys2Proof.Machine.execBridleFlit link dir f crc s
  | .query c => Sys2Proof.Machine.execQuery c s
  | .ctxCreate c => Sys2Proof.Machine.execCtxCreate c s
  | .ctxDestroy c => Sys2Proof.Machine.execCtxDestroy c s
  | .abort ctx => Sys2Proof.Machine.execAbort ctx s
  | .abortDrained ctx => Sys2Proof.Machine.execAbortDrained ctx s
  | .granuleScrub granule => Sys2Proof.Machine.execGranuleScrub granule s
  | .slotIn c => Sys2Proof.Machine.execSlotIn c s
  | .slotOut c => Sys2Proof.Machine.execSlotOut c s
  | .queueCreate c => Sys2Proof.Machine.execQueueCreate c s
  | .ctxWdt c => Sys2Proof.Machine.execCtxWdt c s
  | .ctxRekey c => Sys2Proof.Machine.execCtxRekey c s
  | .fenceAlloc c => Sys2Proof.Machine.execFenceAlloc c s
  | .fenceReset c => Sys2Proof.Machine.execFenceReset c s
  | .fenceShare c => Sys2Proof.Machine.execFenceShare c s
  | .fenceUnshare c => Sys2Proof.Machine.execFenceUnshare c s
  | .devevtSet c => Sys2Proof.Machine.execDevevtSet c s
  | .cntRead c => Sys2Proof.Machine.execCntRead c s
  | .grant c => Sys2Proof.Machine.execGrant c s
  | .map c => Sys2Proof.Machine.execMap c s
  | .unmap c => Sys2Proof.Machine.execUnmap c s
  | .protect c => Sys2Proof.Machine.execProtect c s
  | .mapRequestComplete chan => Sys2Proof.Machine.execMapRequestComplete chan s
  | .hwinSet c => Sys2Proof.Machine.execHwinSet c s
  | .poolmapSet c => Sys2Proof.Machine.execPoolmapSet c s
  | .donate c => Sys2Proof.Machine.execDonate c s
  | .kvpoolSize c => Sys2Proof.Machine.execKvpoolSize c s
  | .kvRegion c => Sys2Proof.Machine.execKvRegion c s
  | .apertureMap c => Sys2Proof.Machine.execApertureMap c s
  | .clusterMove c => Sys2Proof.Machine.execClusterMove c s
  | .programLoad c => Sys2Proof.Machine.execProgramLoad c s
  | .learnBind c => Sys2Proof.Machine.execLearnBind c s
  | .learnSeal c => Sys2Proof.Machine.execLearnSeal c s
  | .handoffOpen c => Sys2Proof.Machine.execHandoffOpen c s
  | .handoffClose c => Sys2Proof.Machine.execHandoffClose c s
  | .partitionSet c => Sys2Proof.Machine.execPartitionSet c s
  | .nodeSet c => Sys2Proof.Machine.execNodeSet c s
  | .admitSet c => Sys2Proof.Machine.execAdmitSet c s
  | .portReset c => Sys2Proof.Machine.execPortReset c s
  | .herdForm c => Sys2Proof.Machine.execHerdForm c s
  | .herdJoin c reserved covered => Sys2Proof.Machine.execHerdJoin c reserved covered s
  | .collBind c => Sys2Proof.Machine.execCollBind c s
  | .collSwap c => Sys2Proof.Machine.execCollSwap c s
  | .charterLoad c image => Sys2Proof.Machine.execCharterLoad c image s
  | .charterUnload c => Sys2Proof.Machine.execCharterUnload c s
  | .kslotQuery c => Sys2Proof.Machine.execKslotQuery c s
  | .secStat c => Sys2Proof.Machine.execSecStat c s
  | .objImport c => Sys2Proof.Machine.execObjImport c s
  | .objImportComplete n size => Sys2Proof.Machine.execObjImportComplete n size s
  | .objExport c => Sys2Proof.Machine.execObjExport c s
  | .lcQuery c => Sys2Proof.Machine.execLcQuery c s
  | .lcRetire c => Sys2Proof.Machine.execLcRetire c s
  | .fwRevoke c => Sys2Proof.Machine.execFwRevoke c s
  | .calWrite c => Sys2Proof.Machine.execCalWrite c s
  | .calRead c => Sys2Proof.Machine.execCalRead c s
  | .ckptStore c => Sys2Proof.Machine.execCkptStore c s
  | .ckptWrite c => Sys2Proof.Machine.execCkptWrite c s
  | .ckptRestore c r => Sys2Proof.Machine.execCkptRestore c r s
  | .snapWrite c => Sys2Proof.Machine.execSnapWrite c s
  | .snapRestore c r => Sys2Proof.Machine.execSnapRestore c r s
  | .fieldtest c => Sys2Proof.Machine.execFieldtest c s
  | .fieldtestLimit hung => Sys2Proof.Machine.execFieldtestLimit hung s
  | .unitReset c => Sys2Proof.Machine.execUnitReset c s
  | .mailboxBadCommand chan cmd => Sys2Proof.Machine.execMailboxBadCommand chan cmd s
  | .nop p => Sys2Proof.Machine.execNop p s
  | .launch p => Sys2Proof.Machine.execLaunch p s
  | .stop p => Sys2Proof.Machine.execStop p s
  | .copy p => Sys2Proof.Machine.execCopy p s
  | .stamp p => Sys2Proof.Machine.execStamp p s
  | .packetComplete slot queue n => Sys2Proof.Machine.execPacketComplete slot queue n s
  | .queueTimeout slot queue => Sys2Proof.Machine.execQueueTimeout slot queue s
  | .tail slot queue size val => Sys2Proof.Machine.execTail slot queue size val s
  | .fsigv slot size val => Sys2Proof.Machine.execFsigv slot size val s
  | .evhead slot size val => Sys2Proof.Machine.execEvhead slot size val s
  | .msixMessage vector => Sys2Proof.Machine.execMsixMessage vector s
  | .stepOpen t => Sys2Proof.Machine.execStepOpen t s
  | .expmax ch => Sys2Proof.Machine.execExpmax ch s
  | .collectiveRsum ch => Sys2Proof.Machine.execCollectiveRsum ch s
  | .agather ch => Sys2Proof.Machine.execAgather ch s
  | .allsum ch => Sys2Proof.Machine.execAllsum ch s
  | .collectiveMessage m => Sys2Proof.Machine.execCollectiveMessage m s
  | .collectiveAcknowledgement ch succ seq => Sys2Proof.Machine.execCollectiveAcknowledgement ch succ seq s
  | .scalarRecord ch src rec => Sys2Proof.Machine.execScalarRecord ch src rec s
  | .gateRecord rec => Sys2Proof.Machine.execGateRecord rec s
  | .gateQuery => Sys2Proof.Machine.execGateQuery s
  | .gateTimeout => Sys2Proof.Machine.execGateTimeout s
  | .blockArrival block data => Sys2Proof.Machine.execBlockArrival block data s
  | .recordGroupRead m n => Sys2Proof.Machine.execRecordGroupRead m n s
  | .slotDrain m => Sys2Proof.Machine.execSlotDrain m s
  | .recordGroupWritten m => Sys2Proof.Machine.execRecordGroupWritten m s
  | .ballastPark p => Sys2Proof.Machine.execBallastPark p s
  | .groupFence g => Sys2Proof.Machine.execGroupFence g s
  | .factorFinalise g => Sys2Proof.Machine.execFactorFinalise g s
  | .commitFence => Sys2Proof.Machine.execCommitFence s
  | .rootDigest hid => Sys2Proof.Machine.execRootDigest hid s
  | .digestDecide hid vals => Sys2Proof.Machine.execDigestDecide hid vals s
  | .herdAnnounce hid m quote peers => Sys2Proof.Machine.execHerdAnnounce hid m quote peers s
  | .formationTimeout hid => Sys2Proof.Machine.execFormationTimeout hid s
  | .membershipRecord hid rec => Sys2Proof.Machine.execMembershipRecord hid rec s
  | .membershipSwap hid => Sys2Proof.Machine.execMembershipSwap hid s
  | .livenessReport hid src => Sys2Proof.Machine.execLivenessReport hid src s
  | .memberMissing hid m => Sys2Proof.Machine.execMemberMissing hid m s
  | .withdraw hid m => Sys2Proof.Machine.execWithdraw hid m s
  | .herdBeacon hid recv => Sys2Proof.Machine.execHerdBeacon hid recv s
  | .bellwetherTakeover hid reached => Sys2Proof.Machine.execBellwetherTakeover hid reached s
  | .joinTransfer hid m root => Sys2Proof.Machine.execJoinTransfer hid m root s
  | .joinAbandon hid => Sys2Proof.Machine.execJoinAbandon hid s
  | .slotTableSwap => Sys2Proof.Machine.execSlotTableSwap s
  | .tetherBeacon recv => Sys2Proof.Machine.execTetherBeacon recv s
  | .timeExchange role port t2 t3 asym => Sys2Proof.Machine.execTimeExchange role port t2 t3 asym s
  | .holdoverExpiry => Sys2Proof.Machine.execHoldoverExpiry s
  | .masterLoss => Sys2Proof.Machine.execMasterLoss s
  | .unlockedWithdrawal => Sys2Proof.Machine.execUnlockedWithdrawal s
  | .syncIn wide => Sys2Proof.Machine.execSyncIn wide s
  | .syncInMissing => Sys2Proof.Machine.execSyncInMissing s
  | .syncOut => Sys2Proof.Machine.execSyncOut s
  | .ptmDialog ok host => Sys2Proof.Machine.execPtmDialog ok host s
  | .handoffRecord ch recv => Sys2Proof.Machine.execHandoffRecord ch recv s
  | .rfidReturn ch q => Sys2Proof.Machine.execRfidReturn ch q s
  | .train port ok => Sys2Proof.Machine.execTrain port ok s
  | .hello port same peer => Sys2Proof.Machine.execHello port same peer s
  | .attest port ok root fwm ident => Sys2Proof.Machine.execAttest port ok root fwm ident s
  | .keyx port ok peer => Sys2Proof.Machine.execKeyx port ok peer s
  | .bringUpTimeout port => Sys2Proof.Machine.execBringUpTimeout port s
  | .portRetry port => Sys2Proof.Machine.execPortRetry port s
  | .bringUp port recv => Sys2Proof.Machine.execBringUp port recv s
  | .flitTransmit port => Sys2Proof.Machine.execFlitTransmit port s
  | .data f => Sys2Proof.Machine.execData f s
  | .lctl f l => Sys2Proof.Machine.execLctl f l s
  | .idle f => Sys2Proof.Machine.execIdle f s
  | .lctlTimer port => Sys2Proof.Machine.execLctlTimer port s
  | .acknowledgementTimer port => Sys2Proof.Machine.execAcknowledgementTimer port s
  | .retrainTimer port => Sys2Proof.Machine.execRetrainTimer port s
  | .fastRetrainComplete port => Sys2Proof.Machine.execFastRetrainComplete port s
  | .peerDown port => Sys2Proof.Machine.execPeerDown port s
  | .rekey port => Sys2Proof.Machine.execRekey port s
  | .rekeySwitch port rx peer => Sys2Proof.Machine.execRekeySwitch port rx peer s
  | .rekeyTimeout port => Sys2Proof.Machine.execRekeyTimeout port s
  | .prd m => Sys2Proof.Machine.execPrd m s
  | .pbrd m => Sys2Proof.Machine.execPbrd m s
  | .pwr m => Sys2Proof.Machine.execPwr m s
  | .pbwr m => Sys2Proof.Machine.execPbwr m s
  | .patom m => Sys2Proof.Machine.execPatom m s
  | .poolResponse tag stat data health => Sys2Proof.Machine.execPoolResponse tag stat data health s
  | .poolResponseTimeout tag => Sys2Proof.Machine.execPoolResponseTimeout tag s
  | .configurationRequest write off be val => Sys2Proof.Machine.execConfigurationRequest write off be val s
  | .bar0Access write off len data => Sys2Proof.Machine.execBar0Access write off len data s
  | .registerWrite bar2 off size val => Sys2Proof.Machine.execRegisterWrite bar2 off size val s
  | .badRegisterAccess write off len => Sys2Proof.Machine.execBadRegisterAccess write off len s
  | .counterClr off val => Sys2Proof.Machine.execCounterClr off val s
  | .dumpack val => Sys2Proof.Machine.execDumpack val s
  | .logData => Sys2Proof.Machine.execLogData s
  | .tetherNsRead => Sys2Proof.Machine.execTetherNsRead s
  | .ptmhRead => Sys2Proof.Machine.execPtmhRead s
  | .portCfgWrite port val => Sys2Proof.Machine.execPortCfgWrite port val s
  | .msixTableAccess write off size val => Sys2Proof.Machine.execMsixTableAccess write off size val s
  | .bar2ReservedAccess write off size => Sys2Proof.Machine.execBar2ReservedAccess write off size s
  | .apertureAccess write off len data => Sys2Proof.Machine.execApertureAccess write off len data s
  | .completion tag status data => Sys2Proof.Machine.execCompletion tag status data s
  | .completionTimeout tag => Sys2Proof.Machine.execCompletionTimeout tag s
  | .perst long => Sys2Proof.Machine.execPerst long s
  | .hotReset => Sys2Proof.Machine.execHotReset s
  | .dlDown => Sys2Proof.Machine.execDlDown s
  | .doeObject proto object => Sys2Proof.Machine.execDoeObject proto object s
  | .getMeasurements index => Sys2Proof.Machine.execGetMeasurements index s
  | .keyExchange doe peer => Sys2Proof.Machine.execKeyExchange doe peer s
  | .quote chd nonce first => Sys2Proof.Machine.execQuote chd nonce first s
  | .krBegin session chd keyid nonce => Sys2Proof.Machine.execKrBegin session chd keyid nonce s
  | .krWrap session chd keyid nonce wrapped sig => Sys2Proof.Machine.execKrWrap session chd keyid nonce wrapped sig s
  | .nonce session chd => Sys2Proof.Machine.execNonce session chd s
  | .revoke session chd keyid kill nonce sig => Sys2Proof.Machine.execRevoke session chd keyid kill nonce sig s
  | .report session chd owner nonce sig => Sys2Proof.Machine.execReport session chd owner nonce sig s
  | .kSetGo session stream set => Sys2Proof.Machine.execKSetGo session stream set s
  | .ideFailure stream => Sys2Proof.Machine.execIdeFailure stream s
  | .mctpControl pcie cmd eid mtu => Sys2Proof.Machine.execMctpControl pcie cmd eid mtu s
  | .pldmSensor pcie typ sensor => Sys2Proof.Machine.execPldmSensor pcie typ sensor s
  | .requestUpdate pcie => Sys2Proof.Machine.execRequestUpdate pcie s
  | .updateAgentIdle => Sys2Proof.Machine.execUpdateAgentIdle s
  | .imageWrite img ends => Sys2Proof.Machine.execImageWrite img ends s
  | .keyRemask => Sys2Proof.Machine.execKeyRemask s
  | .remaskRetry => Sys2Proof.Machine.execRemaskRetry s
  | .remaskStarvation => Sys2Proof.Machine.execRemaskStarvation s
  | .slotSweep slot => Sys2Proof.Machine.execSlotSweep slot s
  | .ephemExpiry slot => Sys2Proof.Machine.execEphemExpiry slot s
  | .drbgReseed sampling => Sys2Proof.Machine.execDrbgReseed sampling s
  | .entropyFailure => Sys2Proof.Machine.execEntropyFailure s
  | .rekeyLine t health => Sys2Proof.Machine.execRekeyLine t health s
  | .rekeyJobComplete t => Sys2Proof.Machine.execRekeyJobComplete t s
  | .patrol da health => Sys2Proof.Machine.execPatrol da health s
  | .integrityHalt cls ukind uidx => Sys2Proof.Machine.execIntegrityHalt cls ukind uidx s
  | .slotRebuild m n park => Sys2Proof.Machine.execSlotRebuild m n park s
  | .resendTimeout m => Sys2Proof.Machine.execResendTimeout m s
  | .redundancyMismatch core field => Sys2Proof.Machine.execRedundancyMismatch core field s
  | .coreReset core => Sys2Proof.Machine.execCoreReset core s
  | .clusterReset cluster => Sys2Proof.Machine.execClusterReset cluster s
  | .cdieReset die => Sys2Proof.Machine.execCdieReset die s
  | .mdieReset m => Sys2Proof.Machine.execMdieReset m s
  | .resetFenceExpiry kind n => Sys2Proof.Machine.execResetFenceExpiry kind n s
  | .unitReady kind n => Sys2Proof.Machine.execUnitReady kind n s
  | .mdieReady m => Sys2Proof.Machine.execMdieReady m s
  | .resetEscalation kind n => Sys2Proof.Machine.execResetEscalation kind n s
  | .integrityWritebackTimeout m => Sys2Proof.Machine.execIntegrityWritebackTimeout m s
  | .progressWatchdog core => Sys2Proof.Machine.execProgressWatchdog core s
  | .noProgress kind n => Sys2Proof.Machine.execNoProgress kind n s
  | .heartbeat word => Sys2Proof.Machine.execHeartbeat word s
  | .heartbeatMissed => Sys2Proof.Machine.execHeartbeatMissed s
  | .lockstepMismatch => Sys2Proof.Machine.execLockstepMismatch s
  | .start n => Sys2Proof.Machine.execStart n s
  | .startTimerExpiry => Sys2Proof.Machine.execStartTimerExpiry s
  | .trainingRecordSeal => Sys2Proof.Machine.execTrainingRecordSeal s
  | .lcAdvance => Sys2Proof.Machine.execLcAdvance s
  | .mainSupplyRise => Sys2Proof.Machine.execMainSupplyRise s
  | .supplyFault cause vin iin => Sys2Proof.Machine.execSupplyFault cause vin iin s
  | .auxSupplyRise => Sys2Proof.Machine.execAuxSupplyRise s
  | .auxSupplyFall => Sys2Proof.Machine.execAuxSupplyFall s
  | .powerCapTick p => Sys2Proof.Machine.execPowerCapTick p s
  | .operatingPointChange die => Sys2Proof.Machine.execOperatingPointChange die s
  | .pwrBrakeAssert long => Sys2Proof.Machine.execPwrBrakeAssert long s
  | .pwrBrakeDeassert => Sys2Proof.Machine.execPwrBrakeDeassert s
  | .thermalSample t => Sys2Proof.Machine.execThermalSample t s
  | .thermalThrottleTick => Sys2Proof.Machine.execThermalThrottleTick s
  | .thermalHalt die => Sys2Proof.Machine.execThermalHalt die s
  | .fabRefclkLoss => Sys2Proof.Machine.execFabRefclkLoss s
  | .fabRefclkRecovery => Sys2Proof.Machine.execFabRefclkRecovery s
  | .checkpointCapture g => Sys2Proof.Machine.execCheckpointCapture g s
  | .checkpointFlip g how => Sys2Proof.Machine.execCheckpointFlip g how s
  | .checkpointTimeout => Sys2Proof.Machine.execCheckpointTimeout s
  | .streamSegment ok => Sys2Proof.Machine.execStreamSegment ok s
  | .unassignedMajorOpcode h op => Sys2Proof.Machine.execUnassignedMajorOpcode h op s
  | .instructionFetchFault core => Sys2Proof.Machine.execInstructionFetchFault core s
  | .pcieLinkUp speed width flit => Sys2Proof.Machine.execPcieLinkUp speed width flit s
  | .testAccessPortInstruction die instr perst => Sys2Proof.Machine.execTestAccessPortInstruction die instr perst s
  | .correctedErrorHour => Sys2Proof.Machine.execCorrectedErrorHour s
  | .objExportComplete n ok => Sys2Proof.Machine.execObjExportComplete n ok s
  | .clusterMoveTimeout chan => Sys2Proof.Machine.execClusterMoveTimeout chan s
  | .slotOutTimeout chan => Sys2Proof.Machine.execSlotOutTimeout chan s
  | .fieldTestComplete fails members => Sys2Proof.Machine.execFieldTestComplete fails members s
  | .refreshIntervalBoundary die => Sys2Proof.Machine.execRefreshIntervalBoundary die s

end Sys2Proof.Machine
end

