-- ==== Sys2Proof/Safety.lean ====
section
/-! DEFINITION. What counts as a safe run, in the terms that claims use: the canonical form of
memories and registers, what never goes back, and a step that neither faults nor is refused. -/

namespace Sys2Proof.Machine

/-- The canonical form of a byte memory: addresses strictly rising, and no entry that reads as an
unlisted address does. -/
def Memory.wf (t : Tab Byte) : Bool := Tab.wf 0 t
/-- The registers and predicates of a core are tables in canonical form. -/
def Core.canonical (k : Core) : Bool := Tab.wf 0 k.g && Tab.wf false k.p
/-- The memories of the module and the registers of its cores are in canonical form. -/
structure State.Canonical (s : State) : Prop where
  /-- D- and L-tier memory. -/
  mem : Memory.wf s.mem = true
  /-- Host memory. -/
  host : Memory.wf s.hostMem = true
  /-- Fabric pool memory. -/
  pool : Memory.wf s.poolMem = true
  /-- The coordination region. -/
  coord : Memory.wf s.coord = true
  /-- Every core listed. -/
  cores : ∀ e ∈ s.cores, e.2.canonical = true

/-- OTP words, fuses and counters of the unit that only advance (`18` R430, `22` R506), its ordering
code and the commands that wait. -/
structure OneWay (s t : State) : Prop where
  /-- The commands that wait stay. -/
  pending : t.pending = s.pending
  /-- The ordering code stays. -/
  code : t.code = s.code
  /-- Bits of LCM are never cleared. -/
  lcm : s.lc.lcm &&& t.lc.lcm = s.lc.lcm
  /-- Bits of LCP are never cleared. -/
  lcp : s.lc.lcp &&& t.lc.lcp = s.lc.lcp
  /-- Fuses of the dies are never cleared. -/
  dies : s.lc.dies &&& t.lc.dies = s.lc.dies
  /-- The rollback counter never falls. -/
  ctr : s.boot.ctr ≤ t.boot.ctr
  /-- A revoked key stays revoked. -/
  revoked : s.boot.revoked &&& t.boot.revoked = s.boot.revoked
  /-- Free values are used in order. -/
  free : s.freeCtr ≤ t.freeCtr

/-- A core of context `c` is about to issue: it issues, has no STOP to act on, and its PC is aligned (`06` R156,
steps 1 and 3). -/
structure State.Issuing (s : State) (h : Issue) (c : Nat) : Prop where
  /-- The context holds the core. -/
  holds : s.coreCtx h.core.val = some c
  /-- The core issues. -/
  issues : s.issues h.core.val c = true
  /-- No STOP waits. -/
  going : (s.core h.core.val).stopReq = false
  /-- Instructions lie at multiples of 8 bytes. -/
  aligned : (s.core h.core.val).pc.toNat % 8 = 0
/-- A core instruction executes for context `c`: its core issues and has no STOP to act on, its PC is aligned, no
reserved bit is set, its predicate holds, and nothing that it uses is in flight (`06` R156, `02` R31–R33). -/
structure State.Executes (s : State) (h : Issue) (c : Nat) (u : Uses) : Prop where
  /-- The context holds the core. -/
  holds : s.coreCtx h.core.val = some c
  /-- The core issues. -/
  issues : s.issues h.core.val c = true
  /-- No STOP waits. -/
  going : (s.core h.core.val).stopReq = false
  /-- Instructions lie at multiples of 8 bytes. -/
  aligned : (s.core h.core.val).pc.toNat % 8 = 0
  /-- Reserved bits are zero. -/
  legal : h.rsv = false
  /-- The predicate is not in flight. -/
  known : (s.core h.core.val).awaitsP h.pred = false
  /-- The predicate holds. -/
  pass : (s.core h.core.val).pr h.pred ≠ h.pneg
  /-- Nothing used is in flight. -/
  ready : (s.core h.core.val).ready u = true
/-- An instruction has retired: the PC moves, and the core counts it (`02` R31, `25` R564). -/
def State.retired (s : State) (n : Nat) (pc : W48) : State :=
  (s.bumpCore n 0 1).updCore n fun k => { k with pc := pc, fresh := false }
/-- The PC after an instruction of some words. -/
def State.pcAfter (s : State) (h : Issue) (words : Nat) : W48 := (s.core h.core.val).pc + BitVec.ofNat 48 (8 * words)
/-- The state after an instruction of one word that changes its core alone. -/
def State.after (s : State) (h : Issue) (f : Core → Core) : State := (s.updCore h.core.val f).retired h.core.val (s.pcAfter h 1)

/-- The state after an instruction that its unit performs at its dispatch: its effect, and its dispatch number used
(`02` R31, R36). -/
def State.performed (s : State) (h : Issue) (words : Nat) (f : Core → Core) : State :=
  ((s.updCore h.core.val f).updCore h.core.val Core.numbered).retired h.core.val (s.pcAfter h words)
/-- The state after an instruction that waits in the queue of unit `u` with the register values of its dispatch (`02`
R31, `06` R136, R155). -/
def State.enqueued (s : State) (h : Issue) (words u : Nat) (i : Instr) (w : Work) : State :=
  (s.updCore h.core.val fun k => { k with units := Tab.upd [] k.units u fun l => l ++ [s.dispatched h.core.val i w] }.numbered).retired
    h.core.val (s.pcAfter h words)

/-- A VOP instruction executes: its type, SAT and SG/RND bits are ones that it has, its slots lie within the operand
cache, and no unfinished work conflicts (`06` R141–R143, R157, `05` R115, R130, `02` R36). -/
structure State.VopRuns (s : State) (h : Issue) (c : Nat) (tys : Nat → Prop) (satOk xOk : Prop) (f : VOp) : Prop where
  /-- The instruction executes. -/
  exe : s.Executes h c { regs := if f.breg then [BitVec.ofNat 5 f.b.toNat] else [] }
  /-- The type is one of the instruction's. -/
  ty : f.ty.toNat ≤ 5 ∧ tys f.ty.toNat
  /-- SAT only where it means something. -/
  sat : f.sat = true → satOk ∧ f.ty.toNat ≤ 2
  /-- X only where it means something. -/
  x : f.x = true → xOk ∨ f.ty.toNat ≤ 2
  /-- The destination run. -/
  dIn : f.d.toNat + (f.n1.toNat + 1) ≤ 2048
  /-- The run of source A. -/
  aIn : f.a.toNat + (if f.incA then f.n1.toNat + 1 else 1) ≤ 2048
  /-- A broadcast register, or the run of source B. -/
  bIn : if f.breg then f.b.toNat ≤ 31 else f.b.toNat + (if f.incB then f.n1.toNat + 1 else 1) ≤ 2048
  /-- The vector unit has nothing queued. -/
  idle : (s.core h.core.val).unit 1 = []
  /-- No conflict. -/
  clear : s.lockedNow h.core.val
    { r := (slotRange (runOf f.a.toNat f.incA (f.n1.toNat + 1))) ::
        (if f.breg then [] else [slotRange (runOf f.b.toNat f.incB (f.n1.toNat + 1))])
      w := [slotRange (f.d.toNat, f.n1.toNat + 1)] } = false
/-- The state after a VOP instruction: iterations in ascending order, each element from those of A and B; flags are
raised (`05` R115, R121). -/
def State.vopNext (s : State) (h : Issue) (f : VOp) (op : Nat → Nat → Nat × Nat) : State :=
  s.performed h 1 (iterate (f.n1.toNat + 1) fun i k => k.result (tyWidth f.ty.toNat) (f.d.toNat + i)
    (((k.slot (tyWidth f.ty.toNat) (srcSlot f.a.toNat f.incA i)).zip
      (srcB (tyWidth f.ty.toNat) f.breg f.incB f.b.toNat i (s.core h.core.val) k)).map fun p => op p.1 p.2))
/-- A VUN instruction executes (`06` R142). -/
structure State.VunRuns (s : State) (h : Issue) (c : Nat) (tys : Nat → Prop) (satOk : Prop) (f : VUn) : Prop where
  /-- The instruction executes. -/
  exe : s.Executes h c {}
  /-- The type is one of the instruction's. -/
  ty : f.ty.toNat ≤ 5 ∧ tys f.ty.toNat
  /-- SAT only where it means something. -/
  sat : f.sat = true → satOk ∧ f.ty.toNat ≤ 2
  /-- The destination run. -/
  dIn : f.d.toNat + (f.n1.toNat + 1) ≤ 2048
  /-- The run of the source. -/
  aIn : f.a.toNat + (if f.incA then f.n1.toNat + 1 else 1) ≤ 2048
  /-- The vector unit has nothing queued. -/
  idle : (s.core h.core.val).unit 1 = []
  /-- No conflict. -/
  clear : s.lockedNow h.core.val { r := [slotRange (runOf f.a.toNat f.incA (f.n1.toNat + 1))]
                                   w := [slotRange (f.d.toNat, f.n1.toNat + 1)] } = false
/-- The state after a VUN instruction. -/
def State.vunNext (s : State) (h : Issue) (f : VUn) (op : Nat → Nat × Nat) : State :=
  s.performed h 1 (iterate (f.n1.toNat + 1) fun i k => k.result (tyWidth f.ty.toNat) (f.d.toNat + i)
    ((k.slot (tyWidth f.ty.toNat) (srcSlot f.a.toNat f.incA i)).map op))
/-- A V3 instruction of `n` iterations executes: N comes from gN (`06` R144). -/
structure State.V3Runs (s : State) (h : Issue) (c : Nat) (rndOk : Prop) (f : V3) (n : Nat) : Prop where
  /-- The instruction executes. -/
  exe : s.Executes h c { regs := f.gn :: if f.breg then [BitVec.ofNat 5 f.b.toNat] else [] }
  /-- N is 1–256. -/
  num : ((s.core h.core.val).rd f.gn).toNat = n ∧ 1 ≤ n ∧ n ≤ 256
  /-- RND only where it means something. -/
  rnd : f.rnd = true → rndOk
  /-- The destination run. -/
  dIn : f.d.toNat + n ≤ 2048
  /-- The run of source A. -/
  aIn : f.a.toNat + (if f.incA then n else 1) ≤ 2048
  /-- A broadcast register, or the run of source B. -/
  bIn : if f.breg then f.b.toNat ≤ 31 else f.b.toNat + (if f.incB then n else 1) ≤ 2048
  /-- The run of source C. -/
  cIn : f.c.toNat + (if f.incC then n else 1) ≤ 2048
  /-- The vector unit has nothing queued. -/
  idle : (s.core h.core.val).unit 1 = []
  /-- No conflict. -/
  clear : s.lockedNow h.core.val
    { r := ([runOf f.a.toNat f.incA n, runOf f.c.toNat f.incC n] ++
        if f.breg then [] else [runOf f.b.toNat f.incB n]).map slotRange
      w := [slotRange (f.d.toNat, n)] } = false
/-- The state after a V3 instruction: A and B have elements of `w` bits, C and D of `wc`. -/
def State.v3Next (s : State) (h : Issue) (f : V3) (n w wc : Nat) (op : List Nat → List Nat → List Nat → List (Nat × Nat)) :
    State :=
  s.performed h 1 (iterate n fun i k => k.result wc (f.d.toNat + i) (op (k.slot w (srcSlot f.a.toNat f.incA i))
    (srcB w f.breg f.incB f.b.toNat i (s.core h.core.val) k) (k.slot wc (srcSlot f.c.toNat f.incC i))))

/-- A reduction executes from the exact state `r0`: legal fields, slots within the operand cache, ACCS outside the
others, and with INIT the state in ACCS has the instruction's window (`05` R122, R130, `06` R146, R147). -/
structure State.RedRuns (s : State) (h : Issue) (c : Nat) (tys : List Nat) (dn : Nat) (pre sq : Bool) (f : RFmt) (r0 : Red) :
    Prop where
  /-- The instruction executes. -/
  exe : s.Executes h c {}
  /-- The type is one of the instruction's. -/
  ty : f.ty.toNat ∈ tys
  /-- gIDX is unused. -/
  idx : f.gidx = 0
  /-- ACCS is 2,047 where it is unused. -/
  none : f.init = false → f.save = false → f.accs = 2047
  /-- ACCS is none of the slots read or written. -/
  apart : f.init = true ∨ f.save = true →
    (f.accs.toNat < f.src.toNat ∨ f.src.toNat + (f.n1.toNat + 1) ≤ f.accs.toNat) ∧
    (f.accs.toNat < f.dst.toNat ∨ f.dst.toNat + dn ≤ f.accs.toNat)
  /-- A prefix sum writes its source or slots apart from it. -/
  place : pre = true → f.dst = f.src ∨ f.dst.toNat + (f.n1.toNat + 1) ≤ f.src.toNat ∨
    f.src.toNat + (f.n1.toNat + 1) ≤ f.dst.toNat
  /-- The source run. -/
  srcIn : f.src.toNat + (f.n1.toNat + 1) ≤ 2048
  /-- The destination run. -/
  dstIn : f.dst.toNat + dn ≤ 2048
  /-- The state that the reduction starts from. -/
  start : redStart f (winOf sq f.ty.toNat) (s.core h.core.val) = some r0
  /-- The reduction unit has nothing queued. -/
  idle : (s.core h.core.val).unit 2 = []
  /-- No conflict. -/
  clear : s.lockedNow h.core.val (redExt f dn) = false

/-- A mailbox command is the next that Yorek takes: the mailbox answers, the channel holds it, and it is the oldest
one submitted (`25` R566, R568). -/
structure State.Takes (s : State) (c : MbxCall) (opc : Nat) : Prop where
  /-- The device is Ready. -/
  dev : s.dev = .ready
  /-- Sheepdog does not hold Yorek. -/
  free : s.ras.yorekHeld = false
  /-- The function is in D0 and takes writes of BAR0 (`13` R334). -/
  d0 : s.pcie.d3hot = false
  /-- The channel is active. -/
  active : (s.chan c.chan.val).active = true
  /-- With this command. -/
  code : (s.chan c.chan.val).opc = opc
  /-- And this sequence number. -/
  seq : (s.chan c.chan.val).seq = c.seq
  /-- It is the oldest. -/
  front : s.mbxQ.head? = some c.chan.val
/-- The argument words that the command of a channel was submitted with. -/
def State.argsOf (s : State) (c : MbxCall) : List W64 := (s.chan c.chan.val).args
/-- The state with the oldest submitted command taken. -/
def State.taken (s : State) : State := { s with mbxQ := s.mbxQ.tail }
/-- Yorek takes a command whose arguments pass its checks: no bit outside its fields, no object held by an earlier
command, and each context that it names is IDLE or RESIDENT (R363, R567, R569). -/
structure State.Admits (s : State) (c : MbxCall) (opc : Nat) (masks : List W64) (names : List (Nat × Nat)) (ctxs : List Nat) :
    Prop where
  /-- It is the next command. -/
  takes : s.Takes c opc
  /-- Reserved argument bits are zero. -/
  plain : argRsv (s.argsOf c) masks = false
  /-- No named object is held. -/
  unheld : s.taken.held c.chan.val names = false
  /-- The contexts exist. -/
  live : ∀ i ∈ ctxs, (s.ctx i).st = .idle ∨ (s.ctx i).st = .resident
/-- The channel's command completes with a status and result words (`25` R566). -/
def State.answers (t : State) (c : MbxCall) (status : Nat) (res : List W64) : State := t.complete c.chan.val status 0 res
/-- The channel's command is refused with a detail (`25` R571). -/
def State.refuses (t : State) (c : MbxCall) (detail : Nat) : State := t.complete c.chan.val stRefused detail []
/-- The channel's command waits for a later event, with the objects that it names held (`25` R567). -/
def State.waits (t : State) (c : MbxCall) (w : MbxWait) (names : List (Nat × Nat)) : State :=
  t.updChan c.chan.val fun x => { x with wait := w, names := names }

/-- The packet at the HEAD of a queue of a resident context starts: no packet of a higher priority is ready, fewer than
four are in progress, its words pass the checks, and it waits for no fence (`14` R350–R354). -/
structure State.Starts (s : State) (p : Pkt) (c opc : Nat) (unused : List Nat) : Prop where
  /-- The device is Ready. -/
  dev : s.dev = .ready
  /-- The context holds the slot. -/
  slot : s.slotCtx p.slot = some c
  /-- It is resident. -/
  resident : s.resident c = true
  /-- And not on its way out. -/
  stays : s.leaving c = false
  /-- It is not lost. -/
  alive : (s.ctx c).st ≠ .lost
  /-- The queue exists. -/
  queue : ((s.ctx c).queue p.queue).v = true
  /-- A packet waits in it. -/
  waits : ((s.ctx c).queue p.queue).head ≠ ((s.ctx c).queue p.queue).tail
  /-- Fewer than four are in progress. -/
  room : ((s.ctx c).queue p.queue).prog.length < 4
  /-- No other queue goes first. -/
  first : s.outranked c p.queue = false
  /-- Its words pass the checks. -/
  legal : s.packetBad c opc p.w unused = false
  /-- It waits for nothing. -/
  free : s.packetWaits ((s.ctx c).queue p.queue) (argAt p.w 0) (argAt p.w 1) = false
  /-- No snapshot holds it. -/
  quiet : s.snapping c = false

/-- A step answers a next state. -/
def State.runs (s : State) : Prop := ∃ t, step s = .next t

end Sys2Proof.Machine
end

