-- ==== Sys2Proof/Certificates/Slice0/Obligations.lean ====
section
/-! DEFINITION. The statements for the provers. Each says what it formalises; what a command answers is written
with the named operations of the model, on the state and the operands alone. -/

open Sys2Proof Sys2Proof.Machine

/-- The SUB field of SALU and SALUI selects the operation in *Scalar operations*: SALU's words by their SUB, the result
that each instruction writes to g[RD], SALUI's codes 0–12 with the sign-extended immediate and its shifts by IMM32[5:0],
and the loss of the context with cause code 0x02 for a code above 12 (`06` R137, R157). -/
def Obligations.ScalarOperations : Prop :=
  (∀ (g : Bool → Issue) (x : Nat), x < 18 * 2 ^ 48 → x % 2 ^ 33 = 0 →
    decodeOp g 0 x 0 = some (([.add, .sub, .and, .or, .xor, .andn, .shl, .shr, .sra, .min, .minu, .max, .maxu, .mul, .mulh,
      .mulhu, .div, .divu] : List (Issue → BitVec 5 → BitVec 5 → BitVec 5 → Instr)).getD (x / 2 ^ 48) .add (g false)
      (BitVec.ofNat 5 (x / 2 ^ 43)) (BitVec.ofNat 5 (x / 2 ^ 38)) (BitVec.ofNat 5 (x / 2 ^ 33)))) ∧
  (∀ (s : State) (h : Issue) (c : Nat) (rd ra rb : BitVec 5), s.Executes h c { regs := [rd, ra, rb] } →
    let x := (s.core h.core.val).rd ra
    let y := (s.core h.core.val).rd rb
    let gives (v : W64) : Out := .next (s.after h fun k => k.wr rd v)
    exec (.add h rd ra rb) s = gives (x + y) ∧ exec (.sub h rd ra rb) s = gives (x - y) ∧
    exec (.and h rd ra rb) s = gives (x &&& y) ∧ exec (.or h rd ra rb) s = gives (x ||| y) ∧
    exec (.xor h rd ra rb) s = gives (x ^^^ y) ∧ exec (.andn h rd ra rb) s = gives (x &&& ~~~y) ∧
    exec (.shl h rd ra rb) s = gives (x <<< (y.toNat % 64)) ∧ exec (.shr h rd ra rb) s = gives (x >>> (y.toNat % 64)) ∧
    exec (.sra h rd ra rb) s = gives (x.sshiftRight (y.toNat % 64)) ∧
    exec (.min h rd ra rb) s = gives (if x.toInt < y.toInt then x else y) ∧
    exec (.minu h rd ra rb) s = gives (if x.toNat < y.toNat then x else y) ∧
    exec (.max h rd ra rb) s = gives (if x.toInt < y.toInt then y else x) ∧
    exec (.maxu h rd ra rb) s = gives (if x.toNat < y.toNat then y else x) ∧
    exec (.mul h rd ra rb) s = gives (BitVec.ofNat 64 (x.toNat * y.toNat)) ∧
    exec (.mulh h rd ra rb) s = gives (BitVec.ofInt 64 (x.toInt * y.toInt / 2 ^ 64)) ∧
    exec (.mulhu h rd ra rb) s = gives (BitVec.ofInt 64 ((x.toNat : Int) * y.toNat / 2 ^ 64)) ∧
    exec (.div h rd ra rb) s = gives (if y = 0 then BitVec.allOnes 64 else BitVec.ofInt 64 (x.toInt.tdiv y.toInt)) ∧
    exec (.divu h rd ra rb) s = gives (if y = 0 then BitVec.allOnes 64 else x / y)) ∧
  (∀ (s : State) (h : Issue) (c : Nat) (rd ra : BitVec 5) (imm : BitVec 32), s.Executes h c { regs := [rd, ra] } →
    s.Executes h c { regs := [rd] } →
    let x := (s.core h.core.val).rd ra
    let y := imm.signExtend 64
    let gives (v : W64) : Out := .next (s.after h fun k => k.wr rd v)
    exec (.movi h rd imm) s = gives y ∧
    exec (.movhi h rd imm) s = gives (imm ++ ((s.core h.core.val).rd rd).truncate 32) ∧
    exec (.salui h 0 rd ra imm) s = gives (x + y) ∧ exec (.salui h 1 rd ra imm) s = gives (x - y) ∧
    exec (.salui h 2 rd ra imm) s = gives (x &&& y) ∧ exec (.salui h 3 rd ra imm) s = gives (x ||| y) ∧
    exec (.salui h 4 rd ra imm) s = gives (x ^^^ y) ∧ exec (.salui h 5 rd ra imm) s = gives (x &&& ~~~y) ∧
    (imm.toNat < 64 → exec (.salui h 6 rd ra imm) s = gives (x <<< imm.toNat) ∧
      exec (.salui h 7 rd ra imm) s = gives (x >>> imm.toNat) ∧
      exec (.salui h 8 rd ra imm) s = gives (x.sshiftRight imm.toNat)) ∧
    exec (.salui h 9 rd ra imm) s = gives (if x.toInt < y.toInt then x else y) ∧
    exec (.salui h 10 rd ra imm) s = gives (if x.toNat < y.toNat then x else y) ∧
    exec (.salui h 11 rd ra imm) s = gives (if x.toInt < y.toInt then y else x) ∧
    exec (.salui h 12 rd ra imm) s = gives (if x.toNat < y.toNat then y else x)) ∧
  (∀ (s : State) (h : Issue) (c : Nat) (sub : BitVec 6) (rd ra : BitVec 5) (imm : BitVec 32), s.Issuing h c → h.rsv = false →
    12 < sub.toNat ∨ 6 ≤ sub.toNat ∧ sub.toNat ≤ 8 ∧ 63 < imm.toNat →
    exec (.salui h sub rd ra imm) s = .next (s.lose c 0x02 (some h.core.val) (s.core h.core.val).pc))

/-- MOVI writes the sign-extended immediate and MOVHI its upper half; CMP and CMPI write p[PD] with the result of COND;
PLOG writes p[PD] from p[PA] and p[PB], MOV and NOT leaving PB unused; writes to p0 and g0 are ignored (`06` R138). -/
def Obligations.MovesAndPredicates : Prop :=
  ∀ (s : State) (h : Issue) (c : Nat) (rd ra rb : BitVec 5) (imm : BitVec 32) (pd pa pb : BitVec 3),
    let k := s.core h.core.val
    let cond := fun (x y : W64) => [x == y, x != y, decide (x.toInt < y.toInt), decide (x.toInt ≤ y.toInt),
      decide (x.toNat < y.toNat), decide (x.toNat ≤ y.toNat)]
    let gives (v : Bool) : Out := .next (s.after h fun k => k.pw pd v)
    (s.Executes h c { regs := [rd] } →
      exec (.movi h rd imm) s = .next (s.after h fun k => k.wr rd (imm.signExtend 64)) ∧
      exec (.movhi h rd imm) s = .next (s.after h fun k => k.wr rd (imm ++ (k.rd rd).truncate 32))) ∧
    (∀ i : Fin 6,
      (s.Executes h c { regs := [ra, rb], preds := [pd] } →
        exec (.cmp h (BitVec.ofNat 6 i) pd ra rb) s = gives ((cond (k.rd ra) (k.rd rb)).getD i false)) ∧
      (s.Executes h c { regs := [ra], preds := [pd] } →
        exec (.cmpi h (BitVec.ofNat 6 i) pd ra imm) s = gives ((cond (k.rd ra) (imm.signExtend 64)).getD i false))) ∧
    (s.Executes h c { preds := [pd, pa, pb] } →
      exec (.pand h pd pa pb) s = gives (k.pr pa && k.pr pb) ∧ exec (.por h pd pa pb) s = gives (k.pr pa || k.pr pb) ∧
      exec (.pxor h pd pa pb) s = gives (k.pr pa != k.pr pb) ∧ exec (.pandn h pd pa pb) s = gives (k.pr pa && !k.pr pb)) ∧
    (s.Executes h c { preds := [pd, pa, 0] } →
      exec (.pmov h pd pa 0) s = gives (k.pr pa) ∧ exec (.pnot h pd pa 0) s = gives (!k.pr pa)) ∧
    (∀ (k : Core) (v : W64) (b : Bool), k.wr 0 v = k ∧ k.pw 0 b = k ∧ k.rd 0 = 0 ∧ k.pr 0 = true)

/-- Branches: BR and BRL to PC + 8 · sign-extended immediate, BRR and BRRL to a register within the 48-bit virtual
addresses; BRL and BRRL link PC + 8, and BRRL reads its target first (`06` R140). -/
def Obligations.Branches : Prop :=
  ∀ (s : State) (h : Issue) (c : Nat) (rd ra : BitVec 5) (imm : BitVec 32),
    let n := h.core.val
    let k := s.core n
    let link : W64 := (k.pc + 8).setWidth 64
    let target : W48 := k.pc + (imm.signExtend 64 * 8).truncate 48
    (s.Executes h c {} → exec (.br h 0 imm) s = .next (s.retired n target)) ∧
    (s.Executes h c { regs := [rd] } → exec (.brl h rd imm) s = .next ((s.updCore n fun k => k.wr rd link).retired n target)) ∧
    (s.Executes h c { regs := [ra] } → (k.rd ra).toNat < 2 ^ 48 →
      exec (.brr h 0 ra) s = .next ((s.updCore n id).retired n ((k.rd ra).truncate 48))) ∧
    (s.Executes h c { regs := [rd, ra] } → (k.rd ra).toNat < 2 ^ 48 →
      exec (.brrl h rd ra) s = .next ((s.updCore n fun k => k.wr rd link).retired n ((k.rd ra).truncate 48)))

/-- (1) LD and ST of the local stores: an aligned access within the stores that no unfinished work conflicts with reads
the bytes, sign- or zero-extended, or writes them (`06` R139, `02` R34–R36).

(2) A store to the local stores leaves every byte outside the bytes it stores. -/
def Obligations.LocalLoadStore : Prop :=
  (∀ (s : State) (h : Issue) (c : Nat) (rd ra : BitVec 5) (imm : BitVec 32) (sx : Bool) (size : BitVec 2),
     s.Executes h c { regs := [rd, ra] } →
     let n := h.core.val
     let a := ((s.core n).rd ra + imm.signExtend 64).toNat
     let z := 2 ^ size.toNat
     a + z ≤ localEnd → a % z = 0 →
     (s.lockedNow n { r := [(a, z)] } = false →
       exec (.ld h true sx size rd ra imm) s = .next (s.after h fun k => k.wr rd (extend sx (k.bytes a z)))) ∧
     (s.lockedNow n { w := [(a, z)] } = false →
       exec (.st h true false size rd ra imm) s =
         .next (s.after h fun k => k.put a (leBytes z ((s.core n).rd rd).toNat)))) ∧
  (∀ (k : Core) (a x : Nat) (b : List Byte), x < a ∨ a + b.length ≤ x → (k.put a b).bytes x 1 = k.bytes x 1)

/-- (1) LD of context memory takes its data at its issue and keeps them in flight, with a tag of its C-die, until
SCALAR_LOAD_RETURN writes the
register; ST of context memory writes at the device addresses that its translation gives; each waits for the accesses of
the core's earlier DMA chains and tables to its lines (`02` R33, R43, `06` R139, `08` R193).

(2) SCALAR_LOAD_RETURN writes the register of the load and frees its place; words that cannot be run lose the
context: an unassigned opcode with cause 0x01, a failed fetch with 0x03 (`02` R33, `06` R131, R135). -/
def Obligations.ContextLoadStore : Prop :=
  (∀ (s t u : State) (h : Issue) (c : Nat) (rd ra : BitVec 5) (imm : BitVec 32) (sx : Bool) (size : BitVec 2)
     (da : Nat) (b : List Byte), s.Executes h c { regs := [rd, ra] } →
     let n := h.core.val
     let a := ((s.core n).rd ra + imm.signExtend 64).toNat
     let z := 2 ^ size.toNat
     a % z = 0 → a < 2 ^ 48 →
     ((s.core n).loads.length < 16 → s.lineLocked n (s.core n).disp { r := [(a, z)] } = false → s.aim n c a z .read = .ok t da →
       t.readHeld n (t.core n).taskNow da z = .ok u b →
       exec (.ld h false sx size rd ra imm) s = .next (((u.touched n c a da).loadOut n {
         rd := rd.toNat, val := extend sx b, ctx := c, va := a, da := da, len := z
         tag := (u.takeTag n c).getD 0, num := u.reqNum }).retired n (s.pcAfter h 1))) ∧
     (s.lineLocked n (s.core n).disp { w := [(a, z)] } = false → s.aim n c a z .write = .ok t da →
       t.writeHeld n (t.core n).taskNow da (leBytes z ((s.core n).rd rd).toNat) = .ok u () →
       exec (.st h false false size rd ra imm) s = .next ((u.touched n c a da).retired n (s.pcAfter h 1))) ∧
     (s.lineLocked n (s.core n).disp { r := [(a, z)] } = true → exec (.ld h false sx size rd ra imm) s = .next s) ∧
     (s.lineLocked n (s.core n).disp { w := [(a, z)] } = true → exec (.st h false false size rd ra imm) s = .next s)) ∧
  (∀ (s : State) (h : Issue) (core : Fin 512) (i : Fin 16) (l : Load) (c : Nat) (op : BitVec 6),
     ((s.core core.val).loads[i.val]? = some l → l.pred = none →
       exec (.scalarLoadReturn core i) s = .next (s.updCore core.val fun k =>
         { k with loads := k.loads.eraseIdx i.val }.wr (BitVec.ofNat 5 l.rd) l.val)) ∧
     (s.coreCtx h.core.val = some c → s.issues h.core.val c = true → assigned op.toNat = false →
       (s.core h.core.val).pc.toNat % 8 = 0 →
       exec (.unassignedMajorOpcode h op) s = .next (s.lose c 0x01 (some h.core.val) (s.core h.core.val).pc)) ∧
     (s.coreCtx core.val = some c → s.issues core.val c = true →
       exec (.instructionFetchFault core) s = .next (s.lose c 0x03 (some core.val) (s.core core.val).pc)))

/-- A core holds up to 16 scalar loads from context memory in flight, and a seventeenth stalls issue until one returns; a
division by zero writes all ones, and changes nothing else but the program counter and the count of instructions (`02`
R33). -/
def Obligations.LoadsInFlightAndDivision : Prop :=
  ∀ (s t u : State) (h : Issue) (c : Nat) (rd ra rb : BitVec 5) (imm : BitVec 32) (sx : Bool) (size : BitVec 2)
    (da : Nat) (b : List Byte),
    let n := h.core.val
    let a := ((s.core n).rd ra + imm.signExtend 64).toNat
    (s.Executes h c { regs := [rd, ra] } → a % 2 ^ size.toNat = 0 → a < 2 ^ 48 →
      (16 ≤ (s.core n).loads.length → exec (.ld h false sx size rd ra imm) s = .next s) ∧
      ((s.core n).loads.length < 16 → s.lineLocked n (s.core n).disp { r := [(a, 2 ^ size.toNat)] } = false →
        s.aim n c a (2 ^ size.toNat) .read = .ok t da →
        t.readHeld n (t.core n).taskNow da (2 ^ size.toNat) = .ok u b → exec (.ld h false sx size rd ra imm) s =
          .next (((u.touched n c a da).loadOut n (loadOf u n c rd (extend sx b) a da (2 ^ size.toNat))).retired n
            (s.pcAfter h 1)))) ∧
    (s.Executes h c { regs := [rd, ra, rb] } → (s.core n).rd rb = 0 →
      exec (.div h rd ra rb) s = .next (s.after h fun k => k.wr rd (BitVec.allOnes 64)) ∧
      exec (.divu h rd ra rb) s = .next (s.after h fun k => k.wr rd (BitVec.allOnes 64)))

/-- (1) The arithmetic of VOP: an element of an integer type is read as signed or unsigned and wraps, or saturates where
SAT is 1; a float element is rounded once (`05` R115–R118).

(2) Shifts by the element of B modulo the width, and the bitwise instructions on 32-bit lanes (`05` R118).

(3) Compares give all ones or all zeros; with a NaN, NE is true and the others false, and LT and LE set VNV. VANY and
VALL write whether any or every element of the run is non-zero (`05` R118, `06` R143).

(4) An instruction whose unit is busy, or which conflicts with earlier work, waits in its unit's queue with the register
values of its dispatch, and its unit performs the first of its queue once nothing earlier conflicts (`02` R31, R36, `06`
R136, R155). -/
def Obligations.VectorTwoSource : Prop :=
  (∀ (s : State) (h : Issue) (c : Nat) (f : VOp),
     let w := tyWidth f.ty.toNat
     let r := fun x => readInt f.x w x
     let wide := fun (i : Int → Int → Int) (g : FVal → FVal → FVal) (a b : Nat) =>
       if f.ty.toNat ≤ 2 then intSat f.x f.sat w (i (r a) (r b)) else flt2 g (tyFmt f.ty.toNat) (rnd1 f.x) a b
     (s.VopRuns h c (fun _ => True) True True f →
       exec (.vadd h f) s = .next (s.vopNext h f (wide (· + ·) FVal.add)) ∧
       exec (.vsub h f) s = .next (s.vopNext h f (wide (· - ·) FVal.sub))) ∧
     (s.VopRuns h c (· ≤ 2) False True f →
       exec (.vmulLo h f) s = .next (s.vopNext h f (fun a b => (a * b % 2 ^ w, 0))) ∧
       exec (.vmulHi h f) s = .next (s.vopNext h f (fun a b => (ofIntBits w (r a * r b / (2 ^ w : Nat)), 0)))) ∧
     (s.VopRuns h c (3 ≤ ·) False True f →
       exec (.vmul h f) s = .next (s.vopNext h f (fun a b => flt2 FVal.mul (tyFmt f.ty.toNat) (rnd1 f.x) a b))) ∧
     (s.VopRuns h c (fun _ => True) False False f →
       exec (.vmin h f) s = .next (s.vopNext h f (fun a b => if f.ty.toNat ≤ 2 then (if r a ≤ r b then a else b, 0)
         else fltPick (fun x y => !y.below x) (tyFmt f.ty.toNat) a b)) ∧
       exec (.vmax h f) s = .next (s.vopNext h f (fun a b => if f.ty.toNat ≤ 2 then (if r b ≤ r a then a else b, 0)
         else fltPick (fun x y => !x.below y) (tyFmt f.ty.toNat) a b)))) ∧
  (∀ (s : State) (h : Issue) (c : Nat) (f : VOp),
     let w := tyWidth f.ty.toNat
     (s.VopRuns h c (· ≤ 2) False True f →
       exec (.vshl h f) s = .next (s.vopNext h f (fun a b => (a * 2 ^ (b % w) % 2 ^ w, 0))) ∧
       exec (.vshr h f) s = .next (s.vopNext h f (fun a b => (a / 2 ^ (b % w) % 2 ^ w, 0))) ∧
       exec (.vshra h f) s = .next (s.vopNext h f (fun a b => (ofIntBits w (toInt w a / (2 ^ (b % w) : Nat)) % 2 ^ w, 0)))) ∧
     (s.VopRuns h c (· = 2) False True f →
       exec (.vand h f) s = .next (s.vopNext h f (fun a b => ((a &&& b) % 2 ^ 32, 0))) ∧
       exec (.vor h f) s = .next (s.vopNext h f (fun a b => ((a ||| b) % 2 ^ 32, 0))) ∧
       exec (.vxor h f) s = .next (s.vopNext h f (fun a b => ((a ^^^ b) % 2 ^ 32, 0))) ∧
       exec (.vandn h f) s = .next (s.vopNext h f (fun a b => ((a &&& (2 ^ 32 - 1 - b)) % 2 ^ 32, 0))))) ∧
  (∀ (s : State) (h : Issue) (c : Nat) (f : VOp),
     let w := tyWidth f.ty.toNat
     let code := tyFmt f.ty.toNat
     let n := f.n1.toNat + 1
     let cmp := fun (i : Int → Int → Bool) (g : FVal → FVal → Bool) (nan sig : Bool) (a b : Nat) =>
       if f.ty.toNat ≤ 2 then (if i (readInt f.x w a) (readInt f.x w b) then 2 ^ w - 1 else 0, 0)
       else if (valueOf code a).isNan || (valueOf code b).isNan then
         (if nan then 2 ^ fmtWidth code - 1 else 0, if sig then vfl fNV else 0)
       else (if g (valueOf code a) (valueOf code b) then 2 ^ fmtWidth code - 1 else 0, 0)
     (s.VopRuns h c (fun _ => True) False False f →
       exec (.vcmpEq h f) s = .next (s.vopNext h f (cmp (fun a b => a == b) FVal.eqv false false)) ∧
       exec (.vcmpNe h f) s = .next (s.vopNext h f (cmp (fun a b => a != b) (fun a b => !a.eqv b) true false)) ∧
       exec (.vcmpLt h f) s = .next (s.vopNext h f (cmp (fun a b => a < b) FVal.lt false true)) ∧
       exec (.vcmpLe h f) s = .next (s.vopNext h f (cmp (fun a b => a ≤ b) (fun a b => !b.lt a) false true))) ∧
     (s.Executes h c { preds := [BitVec.ofNat 3 f.d.toNat] } → f.d.toNat ≤ 7 → f.b = 0 → f.incB = false →
       f.breg = false → f.sat = false → f.ty.toNat ≤ 5 → f.a.toNat + (if f.incA then n else 1) ≤ 2048 →
       s.lockedNow h.core.val { r := [slotRange (runOf f.a.toNat f.incA n)] } = false →
       (s.core h.core.val).unit 1 = [] →
       let l := fun k => runElems w f.a.toNat f.incA n k
       exec (.vany h f) s =
         .next (s.performed h 1 fun k => k.pw (BitVec.ofNat 3 f.d.toNat) ((l k).any (nonZero f.ty.toNat))) ∧
       exec (.vall h f) s =
         .next (s.performed h 1 fun k => k.pw (BitVec.ofNat 3 f.d.toNat) ((l k).all (nonZero f.ty.toNat))))) ∧
  (∀ (s t : State) (h : Issue) (c u n : Nat) (f : VOp) (i : Instr) (w : Work) (p : Perform) (q : Instr → Perform)
     (d : Dispatched) (rest : List Dispatched),
     (s.Executes h c { regs := if f.breg then [BitVec.ofNat 5 f.b.toNat] else [] } →
       vopCause tyAll true true f = none →
       (s.core h.core.val).unit 1 ≠ [] → ((s.core h.core.val).unit 1).length < 16 →
       exec (.vadd h f) s = .next (s.enqueued h 1 1 (.vadd h f) (vopWork f))) ∧
     (((s.core n).unit u ≠ [] ∨ s.locked n (s.core n).disp w.ext = true) → ((s.core n).unit u).length < unitDepth u →
       dispatch u i w p n c s = .ok (s.updCore n fun k => { k with
         units := Tab.upd [] k.units u fun l => l ++ [s.dispatched n i w] }.numbered) none) ∧
     ((s.core n).unit u = d :: rest → s.locked n d.num d.ext = false → q d.ins n c d s = .ok t () →
       s.unitStep q u n c = t.updCore n fun k => { k with units := Tab.upd [] k.units u (·.drop 1) }))

/-- (1) One-source instructions: the sign operations, moves, and the transcendental functions, whose results are those of
*Transcendental functions* where it states them and free within their binade elsewhere (`05` R118, R120; log 2).

(2) Three-source instructions: VFMA and VDOT2 round once, VSEL takes A where the high bit of C is 1 (`05` R118,
`06` R144). -/
def Obligations.VectorOneAndThreeSource : Prop :=
  (∀ (s : State) (h : Issue) (c : Nat) (f : VUn),
     let w := tyWidth f.ty.toNat
     let sign := fun (g : Nat → Nat) (x : Nat) =>
       (if (valueOf (tyFmt f.ty.toNat) x).isNan then (fmtOf (tyFmt f.ty.toNat)).nanBits else g x, 0)
     (s.VunRuns h c (fun _ => True) True f →
       exec (.vabs h f) s = .next (s.vunNext h f (fun x => if f.ty.toNat ≤ 2 then intSat true f.sat w (toInt w x).natAbs
         else sign (· % 2 ^ (w - 1)) x))) ∧
     (s.VunRuns h c (3 ≤ ·) False f → exec (.vneg h f) s = .next (s.vunNext h f (sign (· ^^^ 2 ^ (w - 1))))) ∧
     (s.VunRuns h c (· = 2) False f →
       exec (.vnot h f) s = .next (s.vunNext h f (fun x => (2 ^ 32 - 1 - x, 0))) ∧
       exec (.vmov h f) s = .next (s.vunNext h f (fun x => (x, 0)))) ∧
     (s.VunRuns h c (· = 3) False f →
       exec (.vexp2 h f) s = .next (s.vunNext h f exp2Elem) ∧ exec (.vlog2 h f) s = .next (s.vunNext h f log2Elem) ∧
       exec (.vrcp h f) s = .next (s.vunNext h f rcpElem) ∧ exec (.vrsq h f) s = .next (s.vunNext h f rsqElem) ∧
       exec (.vtanh h f) s = .next (s.vunNext h f tanhElem))) ∧
  (∀ (s : State) (h : Issue) (c n : Nat) (f : V3) (ty w : Fin 3) (fp16 : Bool),
     (s.V3Runs h c True f n →
       exec (.vfma h ty f) s = .next (s.v3Next h f n (fmtWidth ty.val) (fmtWidth ty.val)
         (fun a b c => ((a.zip b).zip c).map fun p => fmaElem ty.val (rnd1 f.rnd) p.1.1 p.1.2 p.2)) ∧
       exec (.vdot2 h fp16 f) s = .next (s.v3Next h f n 16 32
         (fun a b c => c.zipIdx.map fun p => dotElem (if fp16 then 2 else 1) (rnd1 f.rnd) a b p.2 p.1))) ∧
     (s.V3Runs h c False f n →
       exec (.vsel h w f) s = .next (s.v3Next h f n (8 * 2 ^ w.val) (8 * 2 ^ w.val)
         (fun a b c => ((a.zip b).zip c).map fun p => (if p.2.testBit (8 * 2 ^ w.val - 1) then p.1.1 else p.1.2, 0)))))

/-- A slot written with the results of an iteration reads as them, every other slot as before, and nothing of the core
but its stores and its sticky flags changes. -/
def Obligations.SlotResult : Prop :=
  ∀ (k : Core) (w d : Nat) (l : List (Nat × Nat)), Tab.wf 0 k.store = true → (w = 8 ∨ w = 16 ∨ w = 32) → l.length = 2048 / w →
    (k.result w d l).slot w d = l.map (·.1 % 2 ^ w) ∧ (∀ e v, e ≠ d → (k.result w d l).slot v e = k.slot v e) ∧
    (k.result w d l).flags = k.flags ||| BitVec.ofNat 16 (joinFlags (l.map (·.2))) ∧
    k.result w d l = { k with store := (k.result w d l).store, flags := (k.result w d l).flags }

/-- Integer results: without SAT they wrap to the width; with it they are the nearest value of the type, and VSAT is
raised exactly when that is another number (`05` R117). -/
def Obligations.IntegerSaturation : Prop :=
  ∀ (sg : Bool) (w : Nat) (x : Int), (w = 8 ∨ w = 16 ∨ w = 32) →
    (intSat sg false w x).1 < 2 ^ w ∧ (intSat sg false w x).2 = 0 ∧ ((intSat sg false w x).1 : Int) = x % 2 ^ w ∧
    (let lo : Int := if sg then -(2 ^ (w - 1)) else 0
     let hi : Int := if sg then 2 ^ (w - 1) - 1 else 2 ^ w - 1
     readInt sg w (intSat sg true w x).1 = max lo (min hi x) ∧
     (intSat sg true w x).2 = if lo ≤ x ∧ x ≤ hi then 0 else vfl fSAT)

/-- (1) VCVT and the MX conversions, iteration by iteration; N counts slots of the wider format (`05` R119, `06` R145).

(2) The BFX48 instructions: VBX.EXP the local exponents of two blocks a slot, VBX.CVT blocks of 193 bytes under agreed
bytes, VBX.DEC the FP32 values of blocks (`05` R119, R130).

(3) The lane generators: VRNG and VRNG.U draw once in every lane for each slot, SETC and GETC write and read the 64
counters, VRNG.T takes the bits of the sampling generator, which are free values (`05` R127–R129; log 1). -/
def Obligations.Conversions : Prop :=
  (∀ (s : State) (h : Issue) (c : Nat) (f : VCvt) (m : VMx),
     let n := h.core.val
     let cs := cvtSlots f.sfmt.toNat f.dfmt.toNat (f.n1.toNat + 1)
     let idx := fun (rnd : BitVec 2) (g : BitVec 5) => if rnd = 3 then (s.core n).rd g else 0
     let step := (s.core n).srstep
     (s.core n).unit 1 = [] →
     (s.Executes h c { regs := if f.rnd = 3 then [f.gidx] else [] } → cvtCode f.sfmt.toNat → cvtCode f.dfmt.toNat →
       (f.rnd ≠ 3 → f.gidx = 0) → f.a.toNat + cs.1 ≤ 2048 → f.d.toNat + cs.2 ≤ 2048 →
       s.lockedNow n { r := [slotRange (f.a.toNat, cs.1)], w := [slotRange (f.d.toNat, cs.2)] } = false →
       exec (.vcvt h f) s = .next (s.performed h 1 (iterate (f.n1.toNat + 1) (cvtStep f.sfmt.toNat f.dfmt.toNat f.rnd.toNat
         (s.jseed c) step (idx f.rnd f.gidx) f.a.toNat f.d.toNat)))) ∧
     (m.fmx.toNat ≤ 5 → m.blk ≠ 3 → m.a.toNat + (m.n1.toNat + 1) ≤ 2048 → m.d.toNat + (mxSlots m).1 ≤ 2048 →
       m.s.toNat + (mxSlots m).2 ≤ 2048 → s.Executes h c { regs := if m.rnd = 3 then [m.gidx] else [] } →
       m.rnd ≠ 2 → (m.rnd ≠ 3 → m.gidx = 0) →
       s.lockedNow n { r := [slotRange (m.a.toNat, m.n1.toNat + 1)]
                       w := [slotRange (m.d.toNat, (mxSlots m).1), slotRange (m.s.toNat, (mxSlots m).2)] } = false →
       exec (.vcvtMx h m) s =
         .next (s.performed h 1 (iterate (m.n1.toNat + 1) (mxStep m (s.jseed c) step (idx m.rnd m.gidx))))) ∧
     (m.fmx.toNat ≤ 5 → m.blk ≠ 3 → m.d.toNat + (m.n1.toNat + 1) ≤ 2048 → m.a.toNat + (mxSlots m).1 ≤ 2048 →
       m.s.toNat + (mxSlots m).2 ≤ 2048 → s.Executes h c {} → m.rule = false → m.rnd = 0 → m.gidx = 0 →
       s.lockedNow n { r := [slotRange (m.a.toNat, (mxSlots m).1), slotRange (m.s.toNat, (mxSlots m).2)]
                       w := [slotRange (m.d.toNat, m.n1.toNat + 1)] } = false →
       exec (.vcvtMxd h m) s = .next (s.performed h 1 (iterate (m.n1.toNat + 1) (mxdStep m))))) ∧
  (∀ (s : State) (h : Issue) (c : Nat) (f : VBx),
     let n := h.core.val
     let i := f.n1.toNat + 1
     let t := ((s.core n).rd f.gt).toNat
     (s.core n).unit 1 = [] →
     (s.Executes h c {} → f.s = 0 → f.gt = 0 → f.a.toNat + i ≤ 2048 → f.d.toNat + bxSlots i ≤ 2048 →
       s.lockedNow n { r := [slotRange (f.a.toNat, i)], w := [slotRange (f.d.toNat, bxSlots i)] } = false →
       exec (.vbxExp h f) s = .next (s.performed h 1 (iterate i fun j k => k.put (slotOff f.d.toNat + 2 * j)
         ((bxBlocks k f.a.toNat j).map fun b => BitVec.ofNat 8 (bfxLocal b))))) ∧
     (s.Executes h c { regs := [f.gt] } → t + 386 * i ≤ tileEnd → f.d = 0 → f.a.toNat + i ≤ 2048 →
       f.s.toNat + bxSlots i ≤ 2048 →
       s.lockedNow n { r := [slotRange (f.a.toNat, i), slotRange (f.s.toNat, bxSlots i)], w := [(t, 386 * i)] } = false →
       exec (.vbxCvt h f) s = .next (s.performed h 1 (iterate i fun j k =>
         let l := ((bxBlocks k f.a.toNat j).zip (k.bytes (slotOff f.s.toNat + 2 * j) 2)).map fun p => bfxBlock p.2.toNat p.1
         (k.put (t + 386 * j) (l.flatMap (·.1))).raise (BitVec.ofNat 16 (joinFlags (l.map fun x => vfl x.2)))))) ∧
     (s.Executes h c { regs := [f.gt] } → t + 386 * i ≤ tileEnd → f.a = 0 → f.s = 0 → f.d.toNat + i ≤ 2048 →
       s.lockedNow n { r := [(t, 386 * i)], w := [slotRange (f.d.toNat, i)] } = false →
       exec (.vbxDec h f) s = .next (s.performed h 1 (iterate i fun j k =>
         k.result 32 (f.d.toNat + j) ((List.range 64).map fun e =>
           let v := toF32 (bfxValue ((k.bytes (t + 386 * j) 386).drop (193 * (e / 32))) (e % 32))
           (v.1, vfl v.2)))))) ∧
  (∀ (s t : State) (h : Issue) (c : Nat) (f : VRng),
     let n := h.core.val
     let i := f.n1.toNat + 1
     let d := f.d.toNat
     let draw := fun (g : Nat → Nat) => Host.Outcome.next (((s.bumpCore n 19 (64 * i)).updCore n (iterate i fun j k =>
       let r := k.drawLanes (s.ctx c).cseed
       r.2.putSlot 32 (d + j) (r.1.map g))).updCore n Core.numbered |>.retired n (s.pcAfter h 1))
     (s.core n).unit 1 = [] →
     (s.Executes h c {} → f.ga = 0 → f.gb = 0 → d + i ≤ 2048 → s.lockedNow n { w := [slotRange (d, i)] } = false →
       exec (.vrng h f) s = draw id ∧ exec (.vrngU h f) s = draw (fun x => f32 (.fin false (x / 2 ^ 8) (-24))) ∧
       (s.nondet c = true → sampleSlots n d i s = some t → exec (.vrngT h f) s =
         .next ((t.updCore n Core.numbered).retired n (s.pcAfter h 1)))) ∧
     (s.Executes h c { regs := [f.ga, f.gb] } → d = 0 → f.n1 = 0 →
       exec (.vrngSetc h f) s = .next (s.performed h 1 fun k =>
         { k with lane := (List.range 64).foldl (fun l j => Tab.set 0 l j (k.rd f.ga + w64 j * k.rd f.gb)) k.lane })) ∧
     (s.Executes h c {} → f.n1 = 0 → f.ga = 0 → f.gb = 0 → d + 2 ≤ 2048 → s.lockedNow n { w := [slotRange (d, 2)] } = false →
       exec (.vrngGetc h f) s = .next (s.performed h 1 fun k =>
         (k.putSlot 32 d ((List.range 64).map fun j => (k.laneOf j).toNat % 2 ^ 32)).putSlot 32 (d + 1)
           ((List.range 64).map fun j => (k.laneOf j).toNat / 2 ^ 32 % 2 ^ 32))))

/-- (1) Sums: the elements are added to the exact state, and the result is rounded once, or saturated for integers; where
the term limit is passed, integer results are free (`05` R122–R124; logs 1, 41).

(2) Prefix sums within the term limit: inclusive and exclusive running sums, each rounded or saturated once
(`05` R123, R124).

(3) The extremes and RTOPK: the first candidates in order, with their indices above gIDX where asked (`05` R123). -/
def Obligations.Reductions : Prop :=
  (∀ (s : State) (h : Issue) (c : Nat) (f : RFmt) (r0 : Red),
     let n := h.core.val
     let gives := fun (sq int : Bool) (fin : BitVec 96 → Red → Nat → Core → Core) =>
       let win := winOf sq f.ty.toNat
       let x := redRun win r0 (redAll f (s.core n) (f.n1.toNat + 1)) s
       let y := redFree int x.1 x.2.1
       Host.Outcome.next (((y.2.updCore n fun k => redSave f win x.1 (fin y.1 x.1 win (k.raise x.2.2))).updCore n
         Core.numbered).retired n (s.pcAfter h 1))
     (s.RedRuns h c [3, 4, 5] 1 false false f r0 → exec (.rsum h f) s = gives false false (finF32 f)) ∧
     (s.RedRuns h c [3, 4, 5] 1 false true f r0 → exec (.rssq h f) s = gives true false (finF32 f)) ∧
     (s.RedRuns h c [2] 1 false false f r0 → exec (.risum h f) s = gives false true (finInt f))) ∧
  (∀ (s : State) (h : Issue) (c : Nat) (f : RFmt) (r0 : Red),
     let n := f.n1.toNat + 1
     let win := winOf false f.ty.toNat
     s.RedRuns h c [2, 3] n true false f r0 → r0.count + 64 * n ≤ 2 ^ 42 → r0.spec.testBit 3 = false →
     let gives := fun (incl : Bool) => Host.Outcome.next (s.performed h 1 fun k =>
       let x := prefixRun incl (f.ty == 2) win f.src.toNat f.dst.toNat 0 n r0 k
       redSave f win x.1 x.2)
     exec (.rpsumI h f) s = gives true ∧ exec (.rpsumE h f) s = gives false) ∧
  (∀ (s : State) (h : Issue) (c : Nat) (f : RFmt) (g : RTopk) (i32 : Bool),
     let n := f.n1.toNat + 1
     let first := fun (lt : Bool → Cand → Cand → Bool) (k : Core) => firstBy (lt (f.ty == 2)) (candidates k f.src.toNat n)
     let gives := fun (out : Core → List Nat) =>
       Host.Outcome.next (s.performed h 1 fun k => k.put (slotOff f.dst.toNat) (packElems 32 (out k)))
     (s.core h.core.val).unit 2 = [] →
     (f.accs = 2047 → f.save = false → f.init = false → (f.ty = 2 ∨ f.ty = 3) → f.src.toNat + n ≤ 2048 →
       s.lockedNow h.core.val { r := [slotRange (f.src.toNat, n)], w := [slotRange (f.dst.toNat, 1)] } = false →
       (s.Executes h c {} →
         exec (.rmax h f) s = gives (fun k => [candBits (f.ty == 2) (first cAbove k).1]) ∧
         exec (.rmin h f) s = gives (fun k => [candBits (f.ty == 2) (first cBelow k).1])) ∧
       (s.Executes h c { regs := [f.gidx] } →
         exec (.rargmax h f) s = gives (fun k =>
           [((k.rd f.gidx).toNat + (first cAbove k).2) % 2 ^ 32, candBits (f.ty == 2) (first cAbove k).1]) ∧
         exec (.rargmin h f) s = gives (fun k =>
           [((k.rd f.gidx).toNat + (first cBelow k).2) % 2 ^ 32, candBits (f.ty == 2) (first cBelow k).1]))) ∧
     (let m := g.n1.toNat + 1
      let src := g.src.toNat
      let dst := g.dst.toNat
      s.Executes h c { regs := [g.gidx] } → g.accs = 2047 → g.save = false → (dst + 2 ≤ src ∨ src + m ≤ dst) →
       src + m ≤ 2048 → dst + 2 ≤ 2048 →
       s.lockedNow h.core.val { r := slotRange (src, m) :: (if g.init then [slotRange (dst, 2)] else [])
                                w := [slotRange (dst, 2)] } = false →
       exec (.rtopk h i32 g) s = .next (s.performed h 1 fun k =>
         let old := if g.init then ((k.slot 32 dst).zip (k.slot 32 (dst + 1))).take (g.k1.toNat + 1) else []
         let new := (candidates k src m).map fun c => (c.1, ((k.rd g.gidx).toNat + c.2) % 2 ^ 32)
         let top := topBy (cAbove i32) (g.k1.toNat + 1) (old ++ new)
         (k.put (slotOff dst) (packElems 32 (top.map fun c => candBits i32 c.1))).put (slotOff (dst + 1))
           (packElems 32 (top.map (·.2))))))

/-- (1) The sum of a reduction does not depend on the order of its elements (`05` R122, R124).

(2) Within the term limit ACC is the exact sum of the terms in units of the window, and COUNT counts them
(`05` R122). -/
def Obligations.SumsAreExactInAnyOrder : Prop :=
  (∀ (win : Nat) (r : Red) (vs us : List FVal) (s : State), vs.Perm us → redRun win r vs s = redRun win r us s) ∧
  (∀ (win : Nat) (r : Red) (vs : List FVal) (s : State), r.count + vs.length ≤ 2 ^ 42 →
     let x := redRun win r vs s
     x.1.acc = r.acc + (vs.map fun v => inUnits (winExp win) (redTerm win v).1).sum ∧
     x.1.count = r.count + vs.length ∧ x.2.1 = s)

/-- (1) LOADW, SWAP and STREAM are dispatched to the array with what they read at their issue, where its queue of eight
has room; a LOADW fills the bank that
is inactive then, a STREAM meets the bank that is active, and a SWAP makes the other bank the active one (`03` R63, R66,
R67, `06` R148, R155).

(2) ACCOUT and CSADV are dispatched to the array, which performs them in dispatch order: ACCOUT writes the rows of its
accumulator entries, and CSADV advances the entries of a carried-scale table in the stores, or in context memory (`03` R77,
R85, `04` R102, `06` R149, `02` R31). -/
def Obligations.MatrixInstructions : Prop :=
  (∀ (s : State) (h : Issue) (c : Nat) (f : LoadW) (g : StreamF) (o : OutW),
     let k := s.core h.core.val
     let base := (k.rd f.gd).toNat
     let sbase := if f.scl then (k.rd f.gs).toNat else 0
     (s.Executes h c {} →
       (k.mx.ops.length < 8 → exec (.swap h) s = .next ((((s.updCore h.core.val fun k => k.dispatch .swap).mxStep h.core.val c).updCore
         h.core.val fun k => { k with mx := { k.mx with active := !k.mx.active } }).retired h.core.val (s.pcAfter h 1))) ∧
       (k.mx.ops = [] →
         exec (.swap h) s = .next (s.performed h 1 fun k => { k with mx := { k.mx with active := !k.mx.active } })) ∧
       (8 ≤ k.mx.ops.length → exec (.swap h) s = .next (s.bumpCore h.core.val 20 1))) ∧
     (s.Executes h c { regs := f.gd :: (if f.scl then [f.gs] else []) } → isArray f.fmt.toNat → sclLegal f.fmt.toNat f.scl →
       (f.scl = false → f.blk = 0 ∧ f.gs = 0) → base % 128 = 0 → base + statBytes f.fmt.toNat ≤ tileEnd →
       (f.scl = true → sbase % 128 = 0 ∧ sbase + 1024 ≤ tileEnd) → k.mx.ops.length < 8 →
       exec (.loadw h f) s = .next (s.after h fun k => { k with
         mx := { k.mx with ops := k.mx.ops ++
           [(k.disp, .loadw (!k.mx.active) f.fmt.toNat f.scl (blkOf f.blk.toNat) base sbase)] }
         disp := k.disp + 1 })) ∧
     (let a := g.fmtA.toNat
      let m := g.m1.toNat + 1
      let steps := if g.ring = 0 then m + 127 else 2 ^ g.ring.toNat
      let abase := (k.rd g.ga).toNat
      let asbase := if g.sclA then (k.rd g.gsa).toNat else 0
      let out := if g.mode = 0 then outRead o k else {}
      s.Executes h c { regs := g.ga :: ((if g.sclA then [g.gsa] else []) ++ if g.mode = 0 then outRegs o else []) } →
       streamBad g o = false → pairs a k.mx.fmtNow → abase % 128 = 0 → abase + steps * stepBytes a ≤ tileEnd →
       (g.sclA = true → asbase % 128 = 0 ∧ asbase + 16 * steps ≤ tileEnd) → (g.mode = 0 → out.cause m = none) → k.mx.ops.length < 8 →
       exec (.stream h g o) s = .next ((s.updCore h.core.val fun k => { k with
         mx := { k.mx with ops := k.mx.ops ++ [(k.disp, .stream k.mx.active a g.sclA (blkOf g.blkA.toNat) abase asbase
           g.ring.toNat g.mode.toNat g.acc.toNat m out 0 none [])] }
         disp := k.disp + 1 }).retired h.core.val (s.pcAfter h 2)))) ∧
  (∀ (s t : State) (h : Issue) (c : Nat) (e0 j1 : BitVec 8) (o : OutW) (f : CsAdv),
     let n := h.core.val
     let k := s.core n
     let j := j1.toNat + 1
     let begins := fun (x : MxOp) (words : Nat) =>
       Host.Outcome.next (((s.updCore n fun k => k.dispatch x).mxStep n c).retired n (s.pcAfter h words))
     k.mx.ops.length < 8 →
     (s.Executes h c { regs := outRegs o } → outBad o = false → e0.toNat + j ≤ 256 → (outRead o k).cause j = none →
       exec (.accout h e0 j1 o) s = begins (.accout e0.toNat j (outRead o k)) 2 ∧
       (k.mx.ops = [] → s.lockedNow n { w := (outRead o k).regions 0 j } = false →
         t = (s.updCore n Core.numbered).updCore n (accRows (outRead o k) (s.jseed c) e0.toNat 0 j) →
         exec (.accout h e0 j1 o) s = .next (t.retired n (s.pcAfter h 2)))) ∧
     (let base := (k.rd f.gt).toNat
      let m := (k.rd f.gn).toNat
      let x : MxOp := .csadv f.loc base m f.h.toNat k.taskNow k.pc
      s.Executes h c { regs := [f.gt, f.gn] } → f.h ≠ 0 → base % 4 = 0 → m < 2 ^ 32 →
       ((f.loc = true → m ≠ 0 → base + 4 * m ≤ tileEnd) → exec (.csadv h f) s = begins x 1) ∧
       (f.loc = true → (m ≠ 0 → base + 4 * m ≤ tileEnd) → k.mx.ops = [] →
         s.lockedNow n { r := [(base, 4 * m)], w := [(base, 4 * m)] } = false →
         exec (.csadv h f) s = .next ((((s.updCore n Core.numbered).updCore n fun k =>
           k.put base (csTable f.h.toNat (k.bytes base (4 * m)))).flushRel n).retired n (s.pcAfter h 1))))) ∧
  (∀ (s t : State) (n c num : Nat) (rest : List (Nat × MxOp)) (e0 j : Nat) (out : OutF) (loc : Bool) (base m g : Nat)
     (task : Option Nat) (pc : W48),
     let pop := fun (s : State) => s.updCore n fun k => { k with mx := { k.mx with ops := k.mx.ops.drop 1 } }
     ((s.core n).mx.ops = (num, .accout e0 j out) :: rest → s.locked n num { w := out.regions 0 j } = false →
       s.mxFirst n c = (pop s).updCore n (accRows out (s.jseed c) e0 0 j)) ∧
     ((s.core n).mx.ops = (num, .csadv loc base m g task pc) :: rest →
       s.locked n num (MxOp.ext (.csadv loc base m g task pc)) = false →
       s.advanceTable n c num loc base m g task = .ok t () → s.mxFirst n c = (pop t).flushRel n))

/-- (1) LOADW_COMPLETE fills the bank of the first LOADW, and STREAM_ROW_RESULT takes the next row of the first STREAM out
of the array, when nothing earlier stands in their way (`03` R64–R66, R71–R82, R84).

(2) The bank that a LOADW fills holds element (k, n) of the stationary layout in its format, and where the operand is
scaled the scale byte of its block (`03` R63, `04` R97). -/
def Obligations.MatrixEvents : Prop :=
  (∀ (s : State) (core : Fin 512) (c num : Nat),
     let n := core.val
     let k := s.core n
     s.works n = some c →
     (∀ bank fmt scl blk base sbase,
       k.mx.ops.find? (fun o => o.2.isLoad) = some (num, .loadw bank fmt scl blk base sbase) →
       (k.mx.ops.any fun o => o.1 < num && o.2.uses bank) = false →
       s.locked n num (MxOp.ext (.loadw bank fmt scl blk base sbase)) = false →
       exec (.loadwComplete core) s = .next ((s.updCore n fun k => { k with mx :=
         { k.mx.setBank bank (bankOf k.store fmt scl blk base sbase) with
           ops := k.mx.ops.filter fun o => o.1 != num } }).unitsRun n c)) ∧
     (∀ bank fmt scl blk base sbase ring mode acc m out row use0 buf,
       k.mx.ops.find? (fun o => o.2.isRows) =
         some (num, .stream bank fmt scl blk base sbase ring mode acc m out row use0 buf) →
       (k.mx.ops.any fun o => o.1 < num && o.2.loads bank) = false →
       (ring ≠ 0 → (row + 127) / 2 ^ (ring - 2) + 1 ≤ (k.mx.fill - use0.getD k.mx.use).toNat) →
       s.locked n num { r := stepReads fmt scl base sbase ring row (row + buf.length) } = false →
       s.locked n num { w := if mode = 0 then out.regions row 1 else [] } = false →
       exec (.streamRowResult core) s = .next (((s.bumpCore n 10 1).updCore n
         (Core.streamRow (s.jseed c) num bank fmt scl blk base sbase ring mode acc m out row
           (use0.getD k.mx.use) buf)).unitsRun n c))) ∧
  (∀ (st : Tab Byte) (fmt : Nat) (scl : Bool) (blk base sbase k n : Nat), n < 64 → k < kOf fmt → k / blk < 16 →
     fmtWidth fmt ≤ 16 →
     let b := bankOf st fmt scl blk base sbase
     b.value k n = valueOf fmt (bitsAt st (8 * base + statBit fmt k n) (fmtWidth fmt)) ∧
     b.scaleOf k n = if scl then (Tab.get 0 st (sbase + (16 * n + k / blk))).toNat else 0x7F)

/-- (1) DMA.DESC queues a chain on its engine, and DMA.COPY a chain of one copy; RING.ADV and RING.RST change the ring counts
(`06` R150, R151, `08` R190, R202).

(2) A DMA engine runs the next descriptor of its first chain, and a chain whose last descriptor has run signals its
fence and leaves the queue (`06` R150, `08` R190–R192). -/
def Obligations.DmaCommands : Prop :=
  (∀ (s : State) (h : Issue) (c : Nat) (f : DmaF) (g : DmaCopyF) (q : BitVec 8),
     let n := h.core.val
     let k := s.core n
     k.unit 3 = [] →
     (let a := k.rd f.gd
      let e := if f.eng = 3 then s.engine (n / 8) else f.eng.toNat
      s.Executes h c { regs := f.gd :: if f.fen then [f.gv] else [] } → (f.fen = false → f.fid = 0 ∧ f.gv = 0) →
       a.toNat % 64 = 0 → (f.loc = true → a.toNat + 64 ≤ localEnd) → (f.fen = true → s.maySignal c f.fid.toNat) →
       exec (.dmaDesc h f) s = .next (((s.updChains (n / 8) e fun l => l ++ [{
         core := n, num := k.disp, ctx := c, cur := some (.at_ a f.loc)
         fence := if f.fen then some (f.fid.toNat, k.rd f.gv) else none
         task := k.taskNow }]).updCore n Core.numbered).retired n (s.pcAfter h 2))) ∧
     (let dst := k.rd g.gdst
      let src := k.rd g.gsrc
      let len := k.rd g.glen
      s.Executes h c { regs := [g.gdst, g.gsrc, g.glen] } → dst.toNat % 64 = 0 → src.toNat % 64 = 0 → len.toNat % 64 = 0 →
       (g.dl = true → dst.toNat + len.toNat ≤ localEnd) → (g.sl = true → src.toNat + len.toNat ≤ localEnd) →
       (len = 0 → exec (.dmaCopy h g) s = .next (s.retired n (s.pcAfter h 1))) ∧
       (len ≠ 0 → exec (.dmaCopy h g) s = .next (((s.updChains (n / 8) (s.engine (n / 8)) fun l => l ++ [{
         core := n, num := k.disp, ctx := c, cur := some (.copy dst src len g.dl g.sl), fence := none
         task := k.taskNow }]).updCore n Core.numbered).retired n (s.pcAfter h 1)))) ∧
     (s.Executes h c {} → k.ringWin = false →
       (q ≠ 0 → ((s.chainsOf n k.disp).any fun ch => s.chainTile n ch.1 ch.2) = false →
         exec (.ringAdv h q) s =
           .next (s.performed h 1 fun k => { k with mx := { k.mx with fill := k.mx.fill + q.setWidth 32 } })) ∧
       ((k.mx.ops.any fun o => o.2.rings) = false →
         exec (.ringRst h 0) s = .next (s.performed h 1 fun k => { k with mx := { k.mx with fill := 0, use := 0 } })))) ∧
  (∀ (s t u : State) (cl : Fin 64) (e : Fin 3) (ch : Chain) (rest : List Chain) (c : Nat) (p : DescRef) (d : Desc),
     let act : Actor := { init := dmaInit cl.val e.val, core := ch.core, ctx := ch.ctx, fill := false, task := ch.task, ahead := [] }
     let moved := u.bump (regCclu cl.val) (4 + 2 * e.val) d.moved
     s.chains cl.val e.val = ch :: rest → s.works ch.core = some c →
     (ch.cur = some p → s.locked ch.core ch.num { r := p.place true } = false →
       s.lineLocked ch.core ch.num { r := p.place false } = false →
       act.desc s p = .ok t d → d.cause = none → t.locked ch.core ch.num { r := d.reads, w := d.writes } = false →
       t.lineLocked ch.core ch.num { r := d.sources, w := d.remote } = false →
       d.run act t = .ok u () →
       exec (.dmaDescriptorRun (.engine cl e)) s = .next (((match p with
         | .at_ _ _ => moved.bump (regCclu cl.val) (5 + 2 * e.val) 1
         | .copy _ _ _ _ _ => moved).updChains cl.val e.val fun _ => { ch with cur := d.after } :: rest).unitsRun ch.core c)) ∧
     (ch.cur = none →
       (ch.fence = none →
         exec (.dmaChainComplete cl e) s =
           .next (((s.updChains cl.val e.val fun _ => rest).flushRel ch.core).unitsRun ch.core c)) ∧
       ∀ fid v, ch.fence = some (fid, v) → s.signalHeld ch.core ch.task fid v 0 = some t →
         exec (.dmaChainComplete cl e) s =
           .next (((t.updChains cl.val e.val fun _ => rest).flushRel ch.core).unitsRun ch.core c)))

/-- (1) WIN.RESV reserves a window that no live one conflicts with, and WIN.REL releases the oldest one reserved from its
offset; a reservation that has to wait waits in its unit's queue; a window released leaves once its readers have finished,
and where its fill had not arrived its arrival fence takes discard status (`08` R197, R198, R203).

(2) A window's fill runs descriptor by descriptor, an R window's quarter by quarter; a run-ahead fetch takes the first
descriptor's bytes early, and an entry ends after 50 µs, counted when it was not used (`08` R199, R202, R204–R206). -/
def Obligations.StreamingEngine : Prop :=
  (∀ (s : State) (h : Issue) (c : Nat) (gw : BitVec 5) (w : Window) (core : Fin 512) (i : Fin 16),
     let n := h.core.val
     let a := ((s.core n).rd gw).toNat
     (s.Executes h c { regs := [gw] } → a + 64 ≤ tileEnd → (s.core n).unit 3 = [] →
       (s.lockedNow n { r := [(a, 64)] } = false → windowClean ((s.core n).bytes a 64) →
         w = { windowOf a ((s.core n).bytes a 64) s.now with num := (s.core n).disp } → w.cause = none → s.owns c w.afid →
         (w.wv = true → s.owns c w.wfid) →
         (s.admitWin n c w = .take →
           exec (.winResv h gw) s = .next (s.performed h 1 fun k => { k with wins := k.wins ++ [w] })) ∧
         (s.admitWin n c w = .wait →
           exec (.winResv h gw) s =
             .next ((s.resvWait n (s.core n).disp).enqueued h 1 3 (.winResv h gw) { ext := { r := [(a, 64)] } }))) ∧
       ∀ j, (s.core n).winFrom a = some j →
         exec (.winRel h gw) s = .next ((s.dropOwn fun r => r.init == 739 + n / 64 && r.acts == c).performed h 1 fun k =>
           k.updWin j fun w => { w with
             rel := true, relNum := (s.core n).disp, cur := none, relReq := s.reqNum
             relAt := if w.kind = 0 then s.dieAt (n / 64) else [] })) ∧
     (s.works core.val = some c → (s.core core.val).wins[i.val]? = some w →
       (w.rel = true → s.winFree core.val c w →
         exec (.windowReleaseComplete core i) s =
           .next (((s.endAhead core.val c w).winRelease core.val c i.val).dieRun (core.val / 64))) ∧
       (w.filling = false → w.rel = false → (w.wv = true → s.reached w.wfid w.wval) →
         (w.kind = 2 → (s.core core.val).mx.fill = (s.core core.val).mx.use) →
         exec (.windowFillBegin core i) s = .next (s.updCore core.val fun k => k.updWin i.val fun w =>
           { w with filling := true, cur := some (.at_ w.chain w.cloc) })) ∧
       (w.filling = true → w.arrived = false → w.rel = false → w.cur = none → (w.kind = 2 → w.total ≤ w.quarters) →
         exec (.windowArrival core i) s = .next (((s.bumpCtx 6 c w.stream (s.now - w.resv).toNat).updCore core.val fun k =>
           k.updWin i.val fun w => { w with arrived := true, late := false }).signal w.afid w.aval 0)) ∧
       (w.arrived = false → w.late = false →
         ((s.ctxCores c).any fun n => s.waitsOn n w.afid w.aval) = true ∨
           (w.kind = 2 ∧ w.filling = true ∧ (s.core core.val).ringEmpty = true) →
         exec (.windowLate core i) s = .next ((s.bumpCtx 0 c w.stream 1).updCore core.val fun k =>
           k.updWin i.val fun w => { w with late := true })))) ∧
  (∀ (s t u : State) (core : Fin 512) (i : Fin 16) (c : Nat) (w : Window) (a : W64) (loc : Bool) (d : Desc) (b : List Byte)
     (die : Fin 8) (j : Nat) (e : RunAhead),
     let n := core.val
     let first := a == w.chain && loc == w.cloc
     let ahead := if first then s.aheadOf n c w else none
     let act := fillActor n c w ahead
     (s.works n = some c → (s.core n).wins[i.val]? = some w →
       (w.cur = some (.at_ a loc) → act.desc s (.at_ a loc) = .ok t d → d.cause = none → w.holds d = true →
         (w.kind = 2 → act.read t loc a.toNat 64 = .ok u b →
           exec (.dmaDescriptorRun (.window core i)) s = .next ((u.useAhead n c ahead).updCore n fun k =>
             k.updWin i.val fun w => { w with cur := d.after, descs := w.descs ++ [b] })) ∧
         (w.kind ≠ 2 → t.locked n w.num { r := d.reads, w := d.writes } = false → d.run act t = .ok u () →
           let v := (u.useAhead n c ahead).updCore n fun k => k.updWin i.val fun w =>
             { w with cur := d.after, descs := w.descs ++ [] }
           exec (.dmaDescriptorRun (.window core i)) s = .next (if first then v.endAhead n c w else v))) ∧
       (w.kind = 2 → w.filling = true → w.rel = false → w.cur = none → w.quarters < w.total →
         ((s.core n).mx.fill - (s.core n).mx.use).toNat < 4 →
         gatherAll w (fillActor n c w (s.aheadOf n c w)) (w.quarters * 2 ^ (w.ring - 2))
           ((w.quarters + 1) * 2 ^ (w.ring - 2)) (w.descs.map descOf) s = .ok t () →
         exec (.ringQuarterFilled core i) s =
           .next ((if w.quarters + 1 = w.total then t.endAhead n c w else t).updCore n fun k =>
             ({ k with mx := { k.mx with fill := k.mx.fill + 1 } }).updWin i.val fun w =>
               { w with quarters := w.quarters + 1 })) ∧
       (let x := windowOf w.nextw ((s.core n).bytes w.nextw 64) s.now
        w.ra = true → w.filling = true → w.rel = false → w.nextw + 64 ≤ tileEnd → (x.wv = true → s.reached x.wfid x.wval) →
         (s.aheadEntry n c w = .ok t e → exec (.runAheadFetch core i) s =
           .next { t.bumpCtx 8 c 0 e.len with runAhead := Tab.upd [] t.runAhead (n / 64) fun l => l ++ [e] }) ∧
         (∀ cause, s.aheadEntry n c w = .lost t cause → exec (.runAheadFetch core i) s = .next (t.bumpCtx 11 c 0 1)))) ∧
     ((Tab.get [] s.runAhead die.val)[j]? = some e →
       exec (.runAheadExpired die j) s = .next ((if e.used then s else s.bumpCtx 10 e.ctx 0 1).dropAhead die.val j)))

/-- (1) TASK.BEGIN opens a task whose inputs are reached and for which the table has room, or stalls issue with the header
latched until they are; a TASK.BEGIN inside an open task and a TASK.END outside one lose the context; TASK.END closes the
open task; a completing task signals its output fences and leaves the table
(`02` R38–R42, R47–R49).

(2) The first resolving signal commits a speculative task when its value is at least C and discards it otherwise; an
expired verdict discards it; a committed task that drains lands its paddock entries in allocation order and releases
its held signals (`02` R46–R52). -/
def Obligations.Tasks : Prop :=
  (∀ (s : State) (h : Issue) (c : Nat) (gh : BitVec 5) (t : Task) (x : TaskHdr) (core : Fin 512) (i : Fin 8),
     let n := h.core.val
     let k := s.core n
     let a := (k.rd gh).toNat
     (h.pred = 0 → h.pneg = false →
       (s.Executes h c { regs := [gh] } → k.openTask = none → a % 128 = 0 → a + 128 ≤ tileEnd →
         s.lockedNow n { r := [(a, 128)] } = false → hdrBad (k.bytes a 128) = false → x = hdrOf (k.bytes a 128) →
         s.hdrRights c x = true →
         (s.inputsReached x = true → k.room x = true →
           exec (.taskBegin h gh) s = .next ((s.openTask n x (s.propDiscard x)).retired n (s.pcAfter h 1))) ∧
         (s.inputsReached x = false →
           exec (.taskBegin h gh) s = .next ((s.bumpCore n 1 1).updCore n fun k => { k with stall := .task x none })) ∧
         (s.inputsReached x = true → k.room x = false →
           exec (.taskBegin h gh) s =
             .next (s.updCore n fun k => { k with stall := .task x (some (s.propDiscard x)) }))) ∧
       (s.Executes h c { regs := [gh] } → k.openTask = some t →
         exec (.taskBegin h gh) s = .next (s.lose c 0x04 (some n) k.pc)) ∧
       (s.Executes h c {} → k.openTask = none → exec (.taskEnd h) s = .next (s.lose c 0x04 (some n) k.pc)) ∧
       (s.Executes h c {} → k.openTask = some t →
         exec (.taskEnd h) s = .next (s.after h fun k => k.updTask t.id fun t => { t with isOpen := false }))) ∧
     (s.works core.val = some c →
       (∀ met, (s.core core.val).stall = .task x met → (s.core core.val).stopReq = false → s.inputsReached x = true →
         (s.core core.val).room x = true →
         exec (.taskInputSatisfied core) s =
           .next ((s.openTask core.val x (met.getD (s.propDiscard x))).advance core.val)) ∧
       ((s.core core.val).tasks[i.val]? = some t → s.outputsDue core.val t = true →
         exec (.taskOutputSignal core i) s = .next (t.hdr.outs.foldl
           (fun s o => s.signal o.1 o.2 (if t.verdict = .discard then 1 else 0))
           ((s.countTask c t).updCore core.val fun k => k.leave t))))) ∧
  (∀ (s : State) (c : Nat) (core : Fin 512) (i : Fin 8) (t : Task) (v : W64),
     let n := core.val
     let k := s.core n
     s.works n = some c → k.tasks[i.val]? = some t →
     (t.unresolved = true → t.first = some v →
       (t.hdr.c.toNat ≤ v.toNat → exec (.speculativeResolve core i) s =
         .next ((s.countDraft n t.hdr).updCore n fun k => k.updTask t.id fun t => { t with verdict := .commit })) ∧
       (v.toNat < t.hdr.c.toNat → exec (.speculativeResolve core i) s = .next ((s.discardTask n t.id).unitsRun n c))) ∧
     (t.unresolved = true → t.first = none → t.hdr.vto ≠ 0 →
       exec (.verdictTimeout core i) s = .next (((s.bumpCore n 5 1).discardTask n t.id).unitsRun n c)) ∧
     (k.drains t = true → ((k.pad.filter fun e => e.task == t.id).all s.landable) = true →
       exec (.paddockDrain core i) s = .next (((((((k.pad.filter fun e => e.task == t.id).foldl State.landEntry s).countToken
         n t.hdr true).bumpCore n 3 1).updCore n fun k => k.drainTask t.id).flushRel n).unitsRun n c))) ∧
  (∀ (k : Core) (id : Nat),
     let d := k.drainTask id
     (∀ e ∈ d.pad, e.task ≠ id) ∧ (∀ e ∈ d.held, e.task ≠ id) ∧ d.tasks.map (·.id) = k.tasks.map (·.id) ∧
     (∀ t ∈ d.tasks, t.id = id → t.drained = true) ∧ (∀ r ∈ k.rel, r ∈ d.rel) ∧
     (∀ e ∈ k.held, e.task = id → { fid := e.fid, val := e.val, task := some e.task, after := e.after } ∈ d.rel) ∧
     d.g = k.g ∧ d.store = k.store)

/-- A discarded task takes with it the tasks bound to it, and none of their entries or held signals stays in the
paddock (`02` R48, R49, R51). -/
def Obligations.DiscardClears : Prop :=
  ∀ (s : State) (n id : Nat), Tab.wf {} s.cores = true →
    let d := dependents (s.core n).tasks [id]
    let k := (s.discardTask n id).core n
    id ∈ d ∧ (∀ e ∈ k.pad, e.task ∉ d) ∧ (∀ e ∈ k.held, e.task ∉ d) ∧
    (∀ t ∈ k.tasks, t.id ∈ d → t.verdict = .discard) ∧ k.g = (s.core n).g ∧ k.store = (s.core n).store

/-- (1) The FENCE instructions: a signal goes on its way, through or held by its task; a read takes value and status in
flight; a wait issues once the fence has reached its value, else issue stalls until it has (`02` R41, R44, `06` R152,
`14` R355–R357).

(2) FENCE_SIGNAL_APPLY takes signals in the order in which they arrived: one above VALUE, unsigned, sets VALUE and
STAT, any other counts as stale with the owner and changes neither (`14` R356).

(3) The SYS instructions; SYS.TIME takes the time in flight (`06` R153–R155). -/
def Obligations.FenceAndSysCommands : Prop :=
  (∀ (s t : State) (h : Issue) (c : Nat) (f : FenceF) (fid : BitVec 16) (val : W64) (core : Fin 512),
     let n := h.core.val
     let k := s.core n
     let x := fenceId f k
     let w := k.rd f.gv
     (h.pred = 0 → h.pneg = false → (f.idr = true → f.fid = 0) → (f.idr = false → f.gi = 0) →
       (s.Executes h c (fenceUses f false) → f.gd = 0 → f.pd = 0 →
         (s.maySignal c x = true → s.signalHeld n k.taskNow x w k.disp = some t →
           exec (.fenceSignal h f) s = .next (t.retired n (s.pcAfter h 1))) ∧
         (s.mayWait c x = true → s.reached x w = true →
           exec (.fenceWait h f) s = .next (s.retired n (s.pcAfter h 1))) ∧
         (s.mayWait c x = true → s.reached x w = false →
           exec (.fenceWait h f) s =
             .next ((s.bumpCore n 1 1).updCore n fun k => { k with stall := .fence x w }))) ∧
       (s.Executes h c (fenceUses f true) → f.gv = 0 → s.mayWait c x = true → k.loads.length < 16 →
         exec (.fenceRead h f) s = .next (s.after h fun k => { k with loads := k.loads ++
           [{ rd := f.gd.toNat, val := (s.fence x).val, pred := some (f.pd.toNat, (s.fence x).stat != 0) }] }))) ∧
     (h.pred = 0 → h.pneg = false → s.Executes h c {} → s.maySignal c fid.toNat = true →
       s.signalHeld n k.taskNow fid.toNat val k.disp = some t →
       exec (.fenceSignalI h fid val) s = .next (t.retired n (s.pcAfter h 2))) ∧
     (∀ y v, s.works core.val = some c → (s.core core.val).stall = .fence y v → (s.core core.val).stopReq = false →
       s.reached y v = true → exec (.fenceWaitSatisfied core) s = .next (s.advance core.val))) ∧
  (∀ (s : State) (g : Sig) (rest : List Sig) (o : Nat), s.sigQ = g :: rest → (s.fence g.fid).v = true →
     (s.fence g.fid).owner = some o →
     let t := { s with sigQ := rest }
     ((s.fence g.fid).val.toNat < g.val.toNat →
       exec .fenceSignalApply s = .next (((t.updFence g.fid fun f =>
         { f with val := g.val, stat := g.stat }).noteSignal g.fid g.val).lossMark g.fid g.val)) ∧
     (g.val.toNat ≤ (s.fence g.fid).val.toNat →
       exec .fenceSignalApply s = .next (t.updCtx o fun k => { k with stale := k.stale + 1 }))) ∧
  (∀ (s : State) (h : Issue) (c : Nat) (gd ga : BitVec 5),
     let k := s.core h.core.val
     (s.Executes h c {} →
       exec (.sysNop h 0 0) s = .next (s.retired h.core.val (s.pcAfter h 1)) ∧
       (k.pad = [] → exec (.sysIflush h 0 0) s = .next (s.after h fun k => { k with iflush := k.iflush + 1 }))) ∧
     (s.Executes h c { regs := [ga] } →
       exec (.sysSrkey h 0 ga) s = .next (s.after h fun k => { k with srstep := (k.rd ga).truncate 32 })) ∧
     (s.Executes h c { regs := [gd, ga] } → k.mx.ops = [] → k.unit 1 = [] → k.unit 2 = [] →
       exec (.sysFlags h gd ga) s = .next (s.after h fun k =>
         ({ k with flags := k.flags &&& ~~~((k.rd ga).truncate 16 &&& 0xFF3F) }).wr gd (k.flags.setWidth 64))) ∧
     (s.Executes h c { regs := [gd] } →
       exec (.sysId h gd 0) s = .next (s.after h fun k => k.wr gd (BitVec.ofNat 64 (c * 2 ^ 12) ||| BitVec.ofNat 64 h.core.val)) ∧
       (k.loads.length < 16 →
         exec (.sysTime h gd 0) s = .next (s.after h fun k => { k with loads := k.loads ++ [{ rd := gd.toNat, val := s.now }] }))))

/-- Bytes written in the D- or L-tier read back, and no other byte of any memory or store changes (`07` R158, R174). -/
def Obligations.MemoryBytes : Prop :=
  ∀ (s : State) (da x : Nat) (b : List Byte), Memory.wf s.mem = true →
    (∃ c, s.space da = .d c) ∨ (∃ m, s.space da = .l m) →
    let t := s.writeDa da b
    t.readDa da b.length = b ∧ (x < da ∨ da + b.length ≤ x → Tab.get 0 t.mem x = Tab.get 0 s.mem x) ∧
    t.hostMem = s.hostMem ∧ t.poolMem = s.poolMem ∧ t.cores = s.cores ∧ Memory.wf t.mem = true

/-- (1) A request takes a tag of its C-die and goes to its target: one that its target admits, with room, is checked and
served, or leaves the module; one that is denied ends as its initiator's kind says; one without room is refused, and takes a
ticket after four refusals; one without a tag, or behind an older one of its line or bank, waits. An admitted request of the
register space acts on registers. A request held is tried again from its place, one of an engine's own work by that work
(`07` R158, R168–R172, `08` R193–R196, with the choices of logs 20 and 53).

(2) A cluster's requests take the 512 tags of its reserve first, the streaming engine's the 2,048 of the streaming reserve,
then the 2,048 shared ones; a request waits at its controller until the controller issues it to DRAM, and holds its tag until
its data or its acknowledgement return (`08` R193, R195).

(3) A walk fills the TLBs, or loses the context with the cause that it finds, but for a fetch ahead of the program counter,
whose fault has no effect (`06` R131); access tables swap to their shadow
copies, drain, and a drain that does not end resets the unit (`07` R162–R165, R171). -/
def Obligations.MemoryRequests : Prop :=
  (∀ (s t : State) (o : MemOp) (i p : Nat) (r : RetryIn) (x : Refused),
     let u0 := s.dram o.da.toNat o.issued o.returned
     let u : State := { u0 with reqNum := u0.reqNum + 1 }
     let x0 : Refused := { req := u0.reqOf o }
     let y : Refused := { x0 with req := { x0.req with tag := p } }
     let e0 := s.dram x.req.da r.issued r.returned
     let e : State := { e0 with retry := e0.retry.eraseIdx i }
     let arrives := fun (v : State) (q : MemReq) => v.severed q = false ∧ v.downAt q.da = false ∧
       v.moving q = false ∧ v.ordered q = true ∧ (v.veiled q = true → q.write = false)
     let admits := fun (v : State) (q : MemReq) => v.admits q.init q.ctx q.da q.write q.walk
     s.dev = .ready →
     (s.workFor o.init o.ctx = true → s.queued o.init < 64 →
       (u.space o.da.toNat = .regs → admits u x0.req = true →
         exec (.memoryRequest o) s = .next (u.regRequest x0.req)) ∧
       (u.space o.da.toNat ≠ .regs → u.behind u.retry x0 = true →
         exec (.memoryRequest o) s = .next (u.holdAt u.retry.length x0)) ∧
       (u.space o.da.toNat ≠ .regs → u.behind u.retry x0 = false →
         (u.takeTag o.init x0.req.acts = none →
           exec (.memoryRequest o) s = .next ((u.tagWait o.init x0.req.acts).holdAt u.retry.length x0)) ∧
         (u.takeTag o.init x0.req.acts = some p → arrives u y.req →
           (admits u y.req = true → u.listed y.req = true → u.room y = true →
             u.check o.init y.req.acts y.req.da y.req.size o.write o.walk = .ok t () →
             exec (.memoryRequest o) s = .next (t.leave y o.health u.retry.length)) ∧
           (admits u y.req = true → u.listed y.req = true → u.room y = false →
             exec (.memoryRequest o) s = .next ((u.refuse y).1.holdAt u.retry.length (u.refuse y).2)) ∧
           (admits u y.req = false → exec (.memoryRequest o) s = .next (u.denyOutcome o.init o.ctx y.req.da))))) ∧
     (s.retry[i]? = some x → x.own = true →
       exec (.requestRetry i r) s = .next (if x.req.init = 725 then e0.statusAgain x.req.acts else s)) ∧
     (s.retry[i]? = some x → x.own = false → x.req.init ≠ 724 → e.space x.req.da ≠ .regs → x.req.tag ≠ 0 →
       e.behind (e0.retry.take i) x = false → arrives e x.req → admits e x.req = true → e.listed x.req = true →
       (e.room x = false → exec (.requestRetry i r) s = .next ((e.refuse x).1.holdAt i (e.refuse x).2)) ∧
       (e.room x = true → e.check x.req.init x.req.acts x.req.da x.req.size x.req.write x.req.walk = .ok t () →
         exec (.requestRetry i r) s = .next (t.leave x r.health i)))) ∧
  (∀ (s : State) (x : Refused) (h : Health) (init c d k i n da p : Nat),
     (tagDie init = some d → s.dieFitted d = true →
       (initCluster init = some k → s.reserveFree k = true → s.takeTag init c = some 1) ∧
       (initCluster init = some k → s.reserveFree k = false → init < 739 → s.tagFree d c 3 2048 = true →
         s.takeTag init c = some 3) ∧
       (739 ≤ init → s.tagFree d c 2 2048 = true → s.takeTag init c = some 2) ∧
       (init < 704 → s.reserveFree k = false → initCluster init = some k → s.tagFree d c 3 2048 = false →
         s.takeTag init c = none)) ∧
     ((s.controller x.req.da).isSome = true →
       (s.await x).dramQ = s.dramQ ++ [{ x.req with len := x.req.size, data := [] }] ∧
       (s.dramQ = [] → s.controller x.req.da = s.controller da →
         ((s.await x).issueDram da (n + 1)).dramQ = [] ∧ ((s.await x).issueDram da 0).dramQ = (s.await x).dramQ ∧
         ((s.await x).issueDram da (n + 1)).dramOut = s.dramOut ++ (s.await x).dramQ) ∧
       (∀ r, s.dramOut = [r] → s.controller r.da = s.controller da → (s.returnDram da (n + 1)).dramOut = []) ∧
       (s.pw.strict = false → 256 ≤ s.waiting x.req.acts (fun r => s.chanOf r.da == s.chanOf x.req.da) → s.room x = false) ∧
       (s.pw.strict = false → 32 ≤ s.waiting x.req.acts (fun r => s.dramBank r.da == s.dramBank x.req.da) → s.room x = false) ∧
       ((s.space x.req.da = .d p ∨ s.space x.req.da = .l p) → s.leave x h i = (s.await x).access x.req h)) ∧
     (x.n = 3 → x.ticket = none → (s.dramBank x.req.da).isSome = true →
       (s.retry.filter fun o => o.ticket.isSome && s.dramBank o.req.da == s.dramBank x.req.da).length < 8 →
       (s.refuse x).2.ticket.isSome = true ∧ (s.refuse x).2.n = 4) ∧
     (x.n < 3 → x.ticket = none → (s.refuse x).2 = { x with n := x.n + 1 })) ∧
  (∀ (s t : State) (core : Fin 512) (va : W48) (acc : Fin 3) (k : Fin 256) (c : Nat) (e : TlbEntry) (cause : Nat),
     let a : Acc := if acc = 0 then .fetch else if acc = 1 then .read else .write
     (s.works core.val = some c →
       (s.xlate core.val c (some (core.val / 8)) va.toNat a = .ok t e → exec (.translationWalk core va acc) s = .next t) ∧
       (s.xlate core.val c (some (core.val / 8)) va.toNat a = .lost t cause →
         (acc ≠ 0 ∨ s.fetches core.val c va.toNat = true →
           exec (.translationWalk core va acc) s = .next (t.lose c cause (some core.val) (s.core core.val).pc)) ∧
         (acc = 0 → s.fetches core.val c va.toNat = false → exec (.translationWalk core va acc) s = .next s))) ∧
     (k.val < 134 → exec (.accessTableSwap k) s = .next (s.updTarget k.val fun x =>
       { x with initA := x.initS, ownA := x.ownS, draining := true, swapNum := s.reqNum })) ∧
     (s.undrained k.val = false →
       exec (.targetDrained k) s = .next (s.updTarget k.val fun x => { x with draining := false })) ∧
     (s.undrained k.val = true → exec (.targetDrained k) s = .next s) ∧
     ((s.target k.val).draining = true →
       exec (.drainTimeout k) s = .next ((s.devEvent 0x44 (BitVec.ofNat 64 k.val)).resetTarget k.val)))

/-- (1) A promotion posted is decided; a planned move begins once its destination is free, if R183 still allows it, and ends
at its destination once no access admitted before it is open; the page's bytes and leaf move with it (`07` R183–R185).

(2) A bridle flit carries the front message of its class, source and destination along its route, under the keystream of its
link, direction and count: one with a good CRC moves the message on, one with a bad CRC is kept and asked for again at most 8
times, and the ninth halts the module, as the end of a flit count does. No
route between other dies passes the X-die, each hop is a link, and a C-die leaves across its own column where that is as
short (`01` R15, R17–R19, `16` R390).

(3) A granule that leaves its context is scrubbed to zero and is FREE; a rekey job moves the line at its boundary, one of the
H-tier stored again behind its window, and
ends once the boundary has passed the last line, the context taking its next epoch after the last job, when the engines drop
the keys of the old one (`15` R376, `16` R401, R403). -/
def Obligations.PagesAndGranules : Prop :=
  (∀ (s t : State) (ctx : Fin 4096) (vpn : BitVec 32) (die : Fin 8) (p i w : Nat) (y : Nat × Nat × Nat) (g : PoolPage) (ms : List PoolMove)
     (mover : Fin 12) (m : PoolMove) (a : Nat) (hl : Health) (r : Bool),
     s.dev = .ready →
     (let x := (ctx.val, vpn.toNat, die.val)
      s.promos.find? (fun e => e.1 == x) = some (y, w) → s.pages.find? (fun e => e.2.owner == some ctx.val && e.2.vpn == vpn.toNat) = some (p, g) →
       s.pageTier p ≠ 0 → s.movable p = true →
       (s.promotion ctx.val p die.val = some ms →
         exec (.kvPromotion ctx vpn die) s = .next { s with
           promos := s.promos.filter fun e => e.1 != x, moves := s.moves ++ ms.map fun m => { m with stream := w } }) ∧
       (s.promotion ctx.val p die.val = none →
         exec (.kvPromotion ctx vpn die) s = .next { s with
           promos := s.promos.filter fun e => e.1 != x, pressure := s.pressure + 1 })) ∧
     (s.moves.findIdx? (fun m => m.mover.isNone && m.ctx == ctx.val && m.vpn == vpn.toNat) = some i → s.moves[i]? = some m →
       (Tab.get {} s.pages m.dst).owner = none → (s.moves.filter fun x => x.mover == some mover.val).length < 4 →
       s.settled m.src = true → s.leafAt m.ctx (2 ^ 16 * m.vpn) = some a →
       (let e := leNat (s.readDa a 8)
        let u : State := { s.dropOwn fun r => r.da / 2 ^ 16 == m.src with
          moves := s.moves.set i { m with mover := some mover.val, num := s.reqNum } }
        exec (.poolMove mover ctx vpn) s = .next
          ((if e.testBit 7 then u else u.putPte a (e + 128)).dropTlb m.ctx fun x => !x.big && x.vpn == m.vpn))) ∧
     (s.moves[i]? = some m → m.mover.isSome = true →
       (s.pageInUse m = true → exec (.poolMoveComplete i hl) s = .next s) ∧
       (s.pageInUse m = false →
         s.majorEnd (2 ^ 16 * m.dst) (2 ^ 16) (if s.pageTier m.dst = 2 then 2 ^ 40 - 1 else 2 ^ 64 - 1) = false → s.checkLine (2 ^ 16 * m.src) m.ctx hl = (true, t) →
         exec (.poolMoveComplete i hl) s = .next (t.landMove i m)) ∧
       exec (.poolMoveAbort i r) s = .next (if r then s.dropMoves fun x => x == m
         else (s.dropMoves fun x => x == m).lineLost (2 ^ 16 * m.src)))) ∧
  (∀ (s : State) (link : Fin 18) (dir : Bool) (f : BridleIn) (w : W64),
     let way := 2 * link.val + b2n dir
     let key := bridleKeyOf link.val dir f
     let n := s.bridleCount link.val dir f
     let send := if dir then (bridleEnds link.val).2 else (bridleEnds link.val).1
     let recv := if dir then (bridleEnds link.val).1 else (bridleEnds link.val).2
     let sent : Ras := { s.ras with
       bridleWire := Tab.set 0 s.ras.bridleWire way (w ^^^ (Config.sm4 (Tab.get 0 s.keys.bridleKey way)
         (BitVec.ofNat 128 (link.val * 2 ^ 120 + b2n dir * 2 ^ 119 + n % 2 ^ 64)) >>> 64).setWidth 64)
       bridleSent := Tab.set 0 s.ras.bridleSent key n
       bridleOk := if Tab.get 0 s.ras.bridleRun key = 0 then Tab.set 0 s.ras.bridleOk way (n + 1) else s.ras.bridleOk }
     s.dev = .ready → s.bridleFront f send = some w → Tab.get 13 s.routes (16 * send + f.dst.val) = recv →
     n = (if Tab.get 0 s.ras.bridleRun key = 0 then Tab.get 0 s.ras.bridleOk way else Tab.get 0 s.ras.bridleSent key) ∧
     (n < 2 ^ 64 - 1 →
       exec (.bridleFlit link dir f true) s = .next { s with
         bridle := s.bridle.eraseP (bridleAt f send) ++
           (if recv = f.dst.val then [] else [(f.cls.val, f.src.val, f.dst.val, recv, w)])
         ras := { sent with bridleRun := Tab.set 0 s.ras.bridleRun key 0 } } ∧
       (Tab.get 0 s.ras.bridleRun key < 8 → exec (.bridleFlit link dir f false) s = .next { s with
         bridle := if (s.bridle.any (bridleAt f send)) = true then s.bridle
           else s.bridle ++ [(f.cls.val, f.src.val, f.dst.val, send, w)]
         ras := { sent with
           bridleRun := Tab.set 0 s.ras.bridleRun key (Tab.get 0 s.ras.bridleRun key + 1)
           bridleRetry := Tab.set 0 s.ras.bridleRetry recv (Tab.get 0 s.ras.bridleRetry recv + 1) } }) ∧
       (8 ≤ Tab.get 0 s.ras.bridleRun key → exec (.bridleFlit link dir f false) s = .next (s.halt 0x03 8 link.val))) ∧
     (2 ^ 64 - 1 ≤ n → ∀ crc, exec (.bridleFlit link dir f crc) s = .next (s.halt 0x03 8 link.val))) ∧
  (∀ a b, a < 13 → b < 13 → a ≠ b →
     (∃ l < 18, bridleEnds l = (a, bridleHop a b) ∨ bridleEnds l = (bridleHop a b, a)) ∧
     (b ≠ 12 → bridleHop a b ≠ 12) ∧
     (bridleHop a b ≠ b → bridleDist (bridleHop a b) b + 1 = bridleDist a b) ∧
     (a < 8 → b ≠ 12 → (∃ l < 18, bridleEnds l = (a, (a + 4) % 8) ∨ bridleEnds l = ((a + 4) % 8, a)) →
       bridleDist ((a + 4) % 8) b + 1 = bridleDist a b → bridleHop a b = (a + 4) % 8) ∧
     (8 ≤ a → ∀ n ∈ bridleNbrs (b == 12) a, bridleDist n b + 1 = bridleDist a b → bridleHop a b ≤ n)) ∧
  (∀ (s t u : State) (g c : Nat) (x : BitVec 128) (k : Fin 13) (hl : Health),
     let j := Tab.get {} s.rekeyJobs k.val
     s.dev = .ready →
     (s.scrubQ.find? (fun e => e.1 == g) = some (g, c) → c < 4096 → s.drawKey 128 = some (x, t) →
       exec (.granuleScrub g) s = .next (({ (t.wipeGranule g).setOwn g ownFree with
         scrubQ := ((t.wipeGranule g).setOwn g ownFree).scrubQ.filter fun e => e.1 != g } : State).ctxGone c)) ∧
     (j.act = true → j.b < 2 ^ 48 → s.checkLine j.b j.ctx hl = (true, t) → u = t.moveLine k.val j.b →
       (let v : State := { u with rekeyJobs := Tab.set {} u.rekeyJobs k.val { j with
          b := (u.nextHeld j.ctx k.val (j.b + if k.val < 8 then 64 else 128)).getD (2 ^ 48) } }
        exec (.rekeyLine k hl) s = .next (if k.val ≠ 12 then v
          else if Tab.get 0 v.lines (j.b / 128) ≠ 0 then v.putLine j.b (s.plainLine j.b)
          else if v.unitsWritten j.b then v.putUnits j.b else v))) ∧
     (j.act = true → 2 ^ 48 ≤ j.b →
       (let v := ({ s with rekeyJobs := Tab.set {} s.rekeyJobs k.val {} } : State).updCtx j.ctx
         fun e => match e.rekey with
           | none => e
           | some l => if (l.filter (· != k.val)).isEmpty then { e with rekey := none, epoch := e.epoch + 1 }
               else { e with rekey := some (l.filter (· != k.val)) }
        exec (.rekeyJobComplete k) s = .next ((if (v.ctx j.ctx).rekey = none then
          v.purge fun x => x.1 == j.ctx && x.2.1 < (v.ctx j.ctx).epoch else v).startJob k.val))))

/-- Scrubbed granules of D or L memory read as zero, and every byte outside them as before (`16` R403). -/
def Obligations.ScrubIsZero : Prop :=
  ∀ (s : State) (g n x : Nat),
    Tab.get 0 (s.wipeBytes g n).mem x = if g ≤ x / 2 ^ 21 ∧ x / 2 ^ 21 < g + n then 0 else Tab.get 0 s.mem x

/-- (1) CTX.CREATE makes an IDLE context at the lowest free ID, SLOT.IN gives it the lowest free slot, SLOT.OUT takes it
away once its packets have completed, QUEUE.CREATE, CTX.WDT and CTX.REKEY act on it (`14` R345–R350, `16` R401, `21` R491;
log 22).

(2) CTX.DESTROY completes at once and starts the abort, which runs in its steps: begin, drained, fences, release
(`14` R362, `25` R567). -/
def Obligations.ContextCommands : Prop :=
  (∀ (s t : State) (c : MbxCall) (i j k : Nat) (x : Charter) (chan : Fin 8),
     let a := s.argsOf c
     let u := s.taken
     let w := argAt a 0
     let i0 := argCtx a 0
     (s.Admits c 0x02 [allMask, allMask, allMask, allMask, allMask, allMask, lowMask 38, allMask, allMask] [] [] →
       (let l := argAt a 6
        fld l 5 0 ≤ 32 → fld l 21 6 ≠ 0 → 6 ≤ fld l 26 22 → fld l 26 22 ≤ 16 → (argAt a 7).toNat % 4096 = 0 →
        s.charter? (argDig a 0) = some x → 16 ≤ fld l 37 27 → (chFlag x.image 1 = true → s.pw.strict = true) →
        (chFlag x.image 2 = true → s.pw.sStatic = true) → firstOf (fun i => !s.ctxLive i) 4096 0 = some i →
        u.takeJob x.chd = some (k, t) →
        exec (.ctxCreate c) s = .next (({ t with ctxs := Tab.set {} t.ctxs i (newCtx a x.image (k, (t.kslot k).gen) t.now) } :
          State).answers c stOk [BitVec.ofNat 64 i]))) ∧
     (s.Admits c 0x04 [lowMask 12] [(0, i0)] [i0] → (s.ctx i0).st = .idle →
       firstOf (fun j => (Tab.get none s.slots j).isNone) 48 0 = some j →
       exec (.slotIn c) s = .next (((({ u with slots := Tab.set none u.slots j (some i0) } : State).updCtx i0 fun k =>
         { k with slot := some j }).setCtxState i0 .resident).answers c stOk [BitVec.ofNat 64 j])) ∧
     (s.Admits c 0x05 [lowMask 12] [(0, i0)] [i0] → (s.ctx i0).st = .resident → s.tied i0 = false →
       exec (.slotOut c) s = .next (if s.packetsOpen i0 then u.waits c (.slotOut i0) [(0, i0)] else (u.slotLeave i0).answers c stOk [])) ∧
     (s.Admits c 0x06 [lowMask 39, allMask] [(0, i0)] [i0] → 4 ≤ fld w 20 16 → fld w 20 16 ≤ 16 →
       (argAt a 1).toNat % 4096 = 0 → ((s.ctx i0).queue (fld w 15 12)).v = false →
       exec (.queueCreate c) s = .next ((u.updCtx i0 fun k => k.updQueue (fld w 15 12) fun _ =>
         { v := true, qlog := fld w 20 16, pri := fld w 22 21, qto := fld w 38 23, ring := argAt a 1 }).answers c stOk [])) ∧
     (s.Admits c 0x07 [lowMask 28] [(0, i0)] [i0] → fld w 27 12 ≠ 0 →
       exec (.ctxWdt c) s = .next ((u.updCtx i0 fun k => { k with wdt := fld w 27 12 }).answers c stOk [])) ∧
     (s.Admits c 0x08 [lowMask 12] [(0, i0)] [i0] → (s.ctx i0).epoch < 2 ^ 32 - 1 →
       exec (.ctxRekey c) s = .next ((u.queueRekey i0).answers c stOk [])) ∧
     ((s.chan chan.val).active = true → (s.chan chan.val).wait = .slotOut i →
       exec (.slotOutTimeout chan) s = .next (s.complete chan.val stBusy 0 []))) ∧
  (∀ (s : State) (c : MbxCall) (ctx : Fin 4096),
     let i := argCtx (s.argsOf c) 0
     let n := ctx.val
     (s.Admits c 0x03 [lowMask 12] [] [] → (s.ctx i).st ≠ .free →
       exec (.ctxDestroy c) s = .next ((s.taken.startAbort i).answers c stOk [])) ∧
     (s.dev = .ready → (s.ctx n).st = .aborting ∨ (s.ctx n).st = .lost →
       ((s.ctx n).abort = 0 → exec (.abort ctx) s = .next (s.abortBegin n)) ∧
       ((s.ctx n).abort = 3 → (s.targets.any fun t => t.2.draining) = false →
         exec (.abortDrained ctx) s = .next (s.updCtx n fun k => { k with abort := 4 })) ∧
       ((s.ctx n).st = .aborting → (s.ctx n).abort = 5 → exec (.abort ctx) s = .next (s.abortRelease n)) ∧
       ((s.ctx n).st = .lost → (s.ctx n).abort = 4 → exec (.abort ctx) s = .next (s.abortFences n))))

/-- (1) FENCE.ALLOC gives the lowest fence not allocated, FENCE.RESET clears one that nothing waits on, FENCE.SHARE grants it
to at most 4 other contexts and FENCE.UNSHARE ends a grant (`14` R355–R358; log 22).

(2) QUERY completes for every code that the table has, with the words of its code, and changes nothing but the free value of a
rail's current; DEVEVT.SET sets the device's event ring and CNT.READ completes with the counters of its set (`14` R360, R365,
`17` R423; log 22).

(3) A CMD write of a known command to an idle channel of the mailbox submits it; one that nothing knows, or that has a reserved
bit, completes with BADCMD; a write to a channel that is ACTIVE is ignored and counted; a reserved bit counts in RSVW in either
case (`25` R566, `00` R8; log 42). -/
def Obligations.FencesAndQueries : Prop :=
  (∀ (s : State) (c : MbxCall) (i o : Nat),
     let a := s.argsOf c
     let u := s.taken
     let w := argAt a 0
     let f := fld w 15 0
     let g := fld w 27 16
     (s.Admits c 0x09 [lowMask 13] [(0, argCtx a 0)] [argCtx a 0] → s.freeFence = some i →
       exec (.fenceAlloc c) s = .next ((u.updFence i fun _ => { v := true, owner := some (argCtx a 0), host := w.getLsbD 12 }).answers c
         stOk [BitVec.ofNat 64 i])) ∧
     (s.fenceOwner f = [o] →
       (s.Admits c 0x0A [lowMask 16] [(1, f), (0, o)] [o] → s.waited f = false →
         exec (.fenceReset c) s = .next ((u.updFence f fun k => { k with val := 0, stat := 0 }).answers c stOk [])) ∧
       (s.Admits c 0x0B [lowMask 30] [(1, f), (0, g), (0, o)] [o] → s.ctxLive g = true →
         (s.ctx o).chd = (s.ctx g).chd ∨ s.declared (s.ctx o).chd (s.ctx g).chd = true →
         ((s.fence f).grants.filter fun x => x.ctx != g).length < 4 →
         exec (.fenceShare c) s = .next ((u.updFence f fun k => { k with grants :=
           ((s.fence f).grants.filter fun x => x.ctx != g) ++ [{ ctx := g, w := w.getLsbD 28, s := w.getLsbD 29 }] }).answers c
             stOk []))) ∧
     (s.Admits c 0x0C [lowMask 28] [(1, f), (0, g)] [] → (s.fence f).v = true → ((s.fence f).grants.any fun x => x.ctx == g) = true →
       exec (.fenceUnshare c) s = .next ((u.updFence f fun k =>
         ({ k with grants := k.grants.filter fun x => x.ctx != g } : Fence).reap).answers c stOk []))) ∧
  (∀ (s : State) (c : MbxCall),
     let a := s.argsOf c
     let u := s.taken
     let w := argAt a 0
     let code := fld w 7 0
     let k := fld w 27 16
     let names := if code = 6 ∨ code = 7 ∨ code = 0x0B then [(0, k)]
       else if code = 9 then [(3, k)] else if code = 0x0A then [(1, fld (argAt a 1) 15 0)] else []
     (s.Admits c 0x01 [0x0FFF00FF, allMask, allMask] names [] → 1 ≤ code → code ≤ 0x0B →
       ∃ (st : Nat) (res : List W64), exec (.query c) s = .next ((if code = 3 then (u.free 64).2 else u).answers c st res) ∧
         (code = 1 → st = stOk ∧ res = ((List.range 8).map fun d => BitVec.ofNat 64 (s.opOf d)) ++
           ((List.range 8).map fun d => BitVec.ofNat 64 (opMhz (s.opOf d))) ++ [BitVec.ofNat 64 s.boot.rate, 2000]) ∧
         (code = 2 → st = stOk ∧ res.take 22 = s.temps) ∧
         (code = 3 → st = stOk ∧ res = [BitVec.ofNat 64 s.pw.pwr, BitVec.ofNat 64 s.pw.cap, (u.free 64).1]) ∧
         (code = 4 → st = stOk ∧ res = [s.now, BitVec.ofNat 64 s.tet.st.code, s.tet.ptmH, s.tet.ptmT]) ∧
         (code = 5 → st = stOk ∧ res.length = 8) ∧
         (code = 6 ∨ code = 7 → s.ctxLive k = false → st = stNoctx ∧ res = []) ∧
         (code = 6 → s.ctxLive k = true → st = stOk ∧ res = s.ledger k) ∧
         (code = 7 → s.ctxLive k = true → st = stOk ∧ res[0]? = some (BitVec.ofNat 64 (s.ctx k).st.code) ∧
           res[2]? = some (BitVec.ofNat 64 (s.ctx k).cause)) ∧
         (code = 8 → 1 ≤ (argAt a 2).toNat → (argAt a 2).toNat ≤ 4096 →
           st = stOk ∧ res = [BitVec.ofNat 64 (stageBytes (argAt a 1).toNat (argAt a 2).toNat)]) ∧
         (code = 9 → (s.handoff k).isOpen = true → (s.handoff k).broken = none →
           st = stOk ∧ res = [1, BitVec.ofNat 64 (s.handoff k).last, 0]) ∧
         (code = 0x0A → (s.fence (fld (argAt a 1) 15 0)).v = true → st = stOk ∧ res =
           granted ((s.fence (fld (argAt a 1) 15 0)).owner.all s.full) (s.fence (fld (argAt a 1) 15 0)).words) ∧
         (code = 0x0B → s.ctxLive k = true → ((s.ctx k).queue (fld (argAt a 1) 3 0)).v = true → st = stOk ∧
           res = granted (s.full k) (((s.ctx k).queue (fld (argAt a 1) 3 0)).words s.now))) ∧
     (s.Admits c 0x0D [lowMask 9, allMask] [] [] → 6 ≤ fld w 8 4 → fld w 8 4 ≤ 16 → (argAt a 1).toNat % 4096 = 0 →
       exec (.devevtSet c) s = .next (({ u with devRing := { v := true, base := argAt a 1, log := fld w 8 4, vec := fld w 3 0 } } :
         State).answers c stOk [])) ∧
     (s.Admits c 0x0E [lowMask 24] [(0, argCtx a 0)] [argCtx a 0] → fld w 15 12 ≤ 3 →
       exec (.cntRead c) s = .next (u.answers c stOk
         (if fld w 15 12 = 0 then (List.range 24).map fun n =>
             ((s.summed (argCtx a 0)).map fun j => Tab.get 0 (s.shown j) n).sum
           else if fld w 15 12 = 1 then (List.range 7).map fun n => s.cntOf (argCtx a 0) n (fld w 23 16)
           else if fld w 15 12 = 2 then (List.range 7).map fun n => s.cntOf (argCtx a 0) (12 + n) (fld w 23 16)
           else (List.range 3).map fun n => s.cntOf (argCtx a 0) (20 + n) (fld w 23 16) +
             if (s.summed (argCtx a 0)).length ≤ 1 then s.cntOf (argCtx a 0) (40 + n) (fld w 23 16) else 0)))) ∧
  (∀ (s : State) (chan : Fin 8) (cmd : W64), s.dev = .ready → s.ras.yorekHeld = false → s.pcie.d3hot = false →
     let u := if fld cmd 39 0 = 0 then s else s.rsvWrite
     let x := u.submitted chan.val (fld cmd 63 56) (BitVec.ofNat 16 (fld cmd 55 40)) (s.chan chan.val).args
     ((s.chan chan.val).active = true → exec (.mailboxBadCommand chan cmd) s =
       .next (u.setReg (regYmbx + 0x8000) (u.reg (regYmbx + 0x8000) + 1))) ∧
     ((s.chan chan.val).active = false → knownOpc (fld cmd 63 56) = true → fld cmd 39 0 = 0 →
       exec (.mailboxBadCommand chan cmd) s = .next x) ∧
     ((s.chan chan.val).active = false → knownOpc (fld cmd 63 56) = false ∨ fld cmd 39 0 ≠ 0 →
       exec (.mailboxBadCommand chan cmd) s = .next (({ x with mbxQ := s.mbxQ } : State).complete chan.val stBadcmd 0 [])))

/-- (1) GRANT owns the lowest run of FREE granules, which in a D-stack it leaves at zero (`16` R404); MAP, UNMAP and PROTECT write the leaves of a context's page tables,
advance its mapping chain, and where a speculative task may still use a page the removal waits for it (`07` R161–R167,
R187; log 26).

(2) HWIN.SET, POOLMAP.SET, DONATE, KVPOOL.SIZE, KV.REGION and APERTURE.MAP set their entries when the manual's checks
pass; an entry cleared holds nothing (`07` R177–R182, `13` R327, `16` R400; log 26).

(3) CLUSTER.MOVE gives idle clusters in the state of a new context to a RESIDENT context or to none, and waits for cores
that are not idle; PROGRAM.LOAD makes the image's pages read-only, compares its digest with the charter's entry and binds
the context; PARTITION.SET turns the strict mode on or off while no context holds a cluster (`10` R253, `17` R409, R410,
R422). -/
def Obligations.TableCommands : Prop :=
  (∀ (s t : State) (c : MbxCall) (g : Nat) (chan : Fin 8) (l : List (Nat × Nat)) (free : List Nat) (rep : Reply),
     let a := s.argsOf c
     let u := s.taken
     let w := argAt a 0
     let i := argCtx a 0
     let big := w.getLsbD 12
     let va := (argAt a 1).toNat
     let names := [(0, i)]
     (s.Admits c 0x10 [lowMask 17, allMask] names [i] → fld w 15 12 ≤ 11 → argAt a 1 ≠ 0 →
       (fld w 15 12 < 8 → s.dieFitted (fld w 15 12) = true) → s.freeRun (fld w 15 12) va = some g →
       exec (.grant c) s = .next (((if fld w 15 12 < 8 then u.wipeBytes g va else u).ownRun g va (BitVec.ofNat 16 (i + if w.getLsbD 16 then 0x2000 else 0))).answers c stOk
         [BitVec.ofNat 64 (2 ^ 21 * g)])) ∧
     (s.Admits c 0x11 [lowMask 16, allMask, allMask, allMask] names [i] → argAt a 3 ≠ 0 →
       (let da := (argAt a 2).toNat
        let n := (argAt a 3).toNat
        let vs := pagesOf va n big
        rangeBad va n big = false → (vs.any fun v => s.mapped i big v) = false →
        (vs.any fun v => s.confBad i v (pageSize big) (w.getLsbD 14) (w.getLsbD 15) false false) = false →
        ((vs.any fun v => s.inKv i v) = false → da % pageSize big = 0 →
          ((pagesOf da n big).all fun d => s.mayMap i d (pageSize big)) = true →
          State.putLeaves i big (vs.zip ((pagesOf da n big).map fun d => d + permBits w + 3)) u = some t →
          exec (.map c) s = .next ((u.mapStatus (t.chain i a 4) i).answers c stOk [])) ∧
        ((vs.any fun v => s.inKv i v) = true → (vs.all fun v => s.inKv i v) = true → big = false →
          State.mapKv i (permBits w) vs u = some t →
          exec (.map c) s = .next ((u.mapStatus (t.chain i a 4) i).answers c stOk [])))) ∧
     (s.Admits c 0x12 [lowMask 13, allMask, allMask] names [i] → argAt a 2 ≠ 0 →
       (let vs := pagesOf va (argAt a 2).toNat big
        let fr := if big then [] else s.poolFrames i vs
        rangeBad va (argAt a 2).toNat big = false → (vs.all fun v => s.mappedAs i big v) = true →
        (vs.any fun v => s.confBad i v (pageSize big) false false false true) = false →
        (((vs.foldl (fun s v => match s.rawLeaf i v with
           | some (e, _, _) => s.putPte e 0
           | none => s) (u.dropMoves fun m => m.ctx == i && fr.contains m.src)).dropPages i big vs).chain i a 3).removal i fr =
             (t, rep) →
        (rep = ok → exec (.unmap c) s = .next (t.answers c stOk [])) ∧
        ∀ wt, rep = .wait wt → exec (.unmap c) s = .next (t.waits c wt names))) ∧
     (s.Admits c 0x13 [lowMask 16, allMask, 0, allMask] names [i] → argAt a 3 ≠ 0 →
       (let vs := pagesOf va (argAt a 3).toNat big
        rangeBad va (argAt a 3).toNat big = false → (vs.all fun v => s.mappedAs i big v) = true →
        (vs.any fun v => s.confBad i v (pageSize big) (w.getLsbD 14) (w.getLsbD 15)
          ((match s.rawLeaf i v with
           | some (_, e, _) => e / 8 % 8
           | none => 0).testBit 2) false) = false →
        (((u.setPerms i (permBits w) vs).dropPages i big vs).chain i a 4).specTasks i = [] →
        (((u.setPerms i (permBits w) vs).dropPages i big vs).chain i a 4).admittedBefore i s.reqNum = false →
        exec (.protect c) s = .next ((((u.setPerms i (permBits w) vs).dropPages i big vs).chain i a 4).answers c stOk []))) ∧
     ((s.chan chan.val).active = true → (s.chan chan.val).wait = .map i l free g → s.tasksDone l = true →
       s.admittedBefore i g = false →
       exec (.mapRequestComplete chan) s = .next ((s.freePages free).complete chan.val stOk 0 []))) ∧
  (∀ (s : State) (c : MbxCall),
     let a := s.argsOf c
     let u := s.taken
     let w := argAt a 0
     (let h : HWin := { w0 := argAt a 1, w1 := argAt a 2 }
      let i := fld w 11 0
      let old := Tab.get {} s.hwins i
      (s.Admits c 0x14 [lowMask 12, allMask, allMask] [(2, i), (0, h.ctx)] [h.ctx] → h.v = true → fld h.w0 41 32 = 0 →
        (if h.paged then 21 else 16) ≤ h.size → h.size ≤ 36 → s.hwinBad i h = false →
        exec (.hwinSet c) s = .next (({ ((u.clearWindow old).clearWindow h).updCtx h.ctx (fun k => { k with hbase := (s.ctx h.ctx).hbase + 1 })
          with hwins := Tab.set {} s.hwins i h, hwBase := Tab.set 0 s.hwBase i (s.ctx h.ctx).hbase, hostPages := [] } :
            State).answers c stOk [])) ∧
      (s.Admits c 0x14 [lowMask 12, allMask, allMask] [(2, i)] [] → h.v = false → old.v = false →
        exec (.hwinSet c) s = .next (({ u with
          hwins := Tab.set {} u.hwins i {}, hwBase := Tab.set 0 u.hwBase i 0, hostPages := [] } : State).answers c stOk [])) ∧
      (let y := u.clearWindow old
       let x : State := { y with hwins := Tab.set {} y.hwins i {}, hwBase := Tab.set 0 y.hwBase i 0, hostPages := [] }
       s.Admits c 0x14 [lowMask 12, allMask, allMask] [(2, i), (0, old.ctx)] [] → h.v = false → old.v = true →
        (x.specTasks old.ctx = [] → x.admittedBefore old.ctx x.reqNum = false →
          exec (.hwinSet c) s = .next ((x.freePages []).answers c stOk [])) ∧
        (x.admittedBefore old.ctx x.reqNum = true →
          exec (.hwinSet c) s = .next (x.waits c (.map old.ctx (x.specTasks old.ctx) [] x.reqNum) [(2, i), (0, old.ctx)])))) ∧
     (let x := fld w 19 8
      let e : PoolMap := { v := true, ctx := x, size := fld w 25 20, base := (argAt a 1).toNat, node := fld w 41 26
                           ports := fld w 57 42, nbase := (argAt a 2).toNat }
      (s.Admits c 0x15 [lowMask 59, allMask, allMask] [(0, x)] [x] → w.getLsbD 58 = true → 30 ≤ e.size → e.size ≤ 46 →
        e.nbase < 2 ^ 48 → e.base % 2 ^ e.size = 0 → 0x800000000000 ≤ e.base → e.base + 2 ^ e.size ≤ 0xC00000000000 →
        (s.poolMap.any fun y => y.1 != fld w 7 0 && y.2.v && clash y.2.base (2 ^ y.2.size) e.base (2 ^ e.size)) = false →
        exec (.poolmapSet c) s = .next (({ u with poolMap := Tab.set {} u.poolMap (fld w 7 0) e } : State).answers c stOk [])) ∧
      (s.Admits c 0x15 [lowMask 59, allMask, allMask] [] [] → w.getLsbD 58 = false →
        exec (.poolmapSet c) s = .next (({ u with poolMap := Tab.set {} u.poolMap (fld w 7 0) {} } : State).answers c stOk []))) ∧
     (let r := fld w 3 0
      let m := fld w 5 4
      let g := (s.grantable (8 + m)).1 + (argAt a 1).toNat
      let n := (argAt a 2).toNat
      let d : Donation := { v := true, m := m, r := w.getLsbD 6, w := w.getLsbD 7, first := (argAt a 1).toNat, n := n
                            nodes := ((List.range 4).map fun i => fld (argAt a 3) (16 * i + 15) (16 * i)).filter (· != 0) }
      s.Admits c 0x16 [lowMask 9, allMask, allMask, allMask] [] [] → w.getLsbD 8 = false → argAt a 2 ≠ 0 →
       (Tab.get {} s.donations r).v = false → g + n ≤ (s.grantable (8 + m)).2 →
       ((List.range n).all fun i => s.granuleFree (8 + m) (g + i)) = true →
       exec (.donate c) s = .next (({ u.ownRun g n 0x1000 with donations := Tab.set {} (u.ownRun g n 0x1000).donations r d } :
         State).answers c stOk [])) ∧
     (let x := fld w 3 0
      let n := (argAt a 1).toNat
      let old := Tab.get 0 s.poolSize x
      let gs := ((List.range ((s.grantable x).2 - (s.grantable x).1)).map (· + (s.grantable x).1)).filter fun g => s.granuleFree x g
      s.Admits c 0x17 [lowMask 4, allMask] [] [] → x ≤ 11 → n ≤ (if x < 8 then 16384 else 32768) →
       (x < 8 → s.dieFitted x = true) → old ≤ n → n - old ≤ gs.length →
       exec (.kvpoolSize c) s = .next (((gs.take (n - old)).foldl (fun (s : State) g => s.setOwn g 0x4000)
         { u with poolSize := Tab.set 0 u.poolSize x n }).answers c stOk [])) ∧
     (let i := argCtx a 0
      let k : KvRegion := { v := argAt a 2 != 0, va := (argAt a 1).toNat, pages := (argAt a 2).toNat
                            df := fld (argAt a 3) 31 0, dc := fld (argAt a 3) 63 32
                            lf := fld (argAt a 4) 31 0, lc := fld (argAt a 4) 63 32, hs := (argAt a 5).toNat }
      s.Admits c 0x18 [lowMask 12, allMask, allMask, allMask, allMask, allMask] [(0, i)] [i] → k.va % 2 ^ 16 = 0 →
       k.va + k.pages * 2 ^ 16 ≤ 2 ^ 48 → s.kvBad i k = false →
       (s.pages.any fun e => e.2.owner == some i) = false ∨ (k.va = (s.ctx i).kv.va ∧ k.pages = (s.ctx i).kv.pages) →
       exec (.kvRegion c) s = .next ((u.updCtx i fun x => { x with kv := k }).answers c stOk [])) ∧
     (let i := fld w 17 6
      let base := (argAt a 1).toNat
      (s.Admits c 0x19 [lowMask 19, allMask] [(0, i)] [i] → w.getLsbD 18 = true → base % 2 ^ 30 = 0 →
        (∃ d, s.space base = .d d) ∨ (∃ m, s.space base = .l m) →
        ((List.range 512).all fun j => (s.granulesOf i).any fun e => e.1 == base / 2 ^ 21 + j) = true →
        exec (.apertureMap c) s = .next (({ u with aperture := Tab.set none u.aperture (fld w 5 0) (some (i, base)) } : State).answers c
          stOk [])) ∧
      (s.Admits c 0x19 [lowMask 19, allMask] [] [] → w.getLsbD 18 = false →
        exec (.apertureMap c) s = .next (({ u with aperture := Tab.set none u.aperture (fld w 5 0) none } : State).answers c stOk [])))) ∧
  (∀ (s t : State) (c : MbxCall) (chan : Fin 8),
     let a := s.argsOf c
     let u := s.taken
     let w := argAt a 0
     (let ks := maskBits w
      let i := fld (argAt a 1) 11 0
      let red := (argAt a 1).getLsbD 12
      (w ≠ 0 → (ks.any fun k => !s.dieFitted (k / 8)) = false →
        (s.Admits c 0x20 [allMask, lowMask 14] [(0, i)] [i] → (argAt a 1).getLsbD 13 = false → (s.ctx i).st = .resident →
          ((s.ctxClusters i).any fun k => (s.cluster k).red != red) = false →
          exec (.clusterMove c) s = .next (if ks.all s.clusterIdle then
            (ks.foldl (fun s k => s.giveCluster (some i) red k) u).answers c stOk [] else u.waits c .move [(0, i)])) ∧
        (s.Admits c 0x20 [allMask, lowMask 14] [] [] → (argAt a 1).getLsbD 13 = true → ks.all s.clusterIdle = true →
          exec (.clusterMove c) s = .next ((ks.foldl (fun s k => s.giveCluster none red k) u).answers c stOk [])))) ∧
     ((s.chan chan.val).active = true → (s.chan chan.val).wait = .move →
       exec (.clusterMoveTimeout chan) s = .next (s.complete chan.val stBusy 0 [])) ∧
     (s.Admits c 0x26 [lowMask 12] [] [] → (s.clusters.any fun e => e.2.held) = false →
       (w.getLsbD 0 = true → 1 ≤ fld w 3 1 → fld w 3 1 ≤ 6 → (w.getLsbD 4 = true → 8 ≤ fld w 11 5 ∧ fld w 11 5 ≤ 64) →
         s.kvLoose = false → exec (.partitionSet c) s = .next (({ u with pw := { u.pw with
           strict := true, sPoint := fld w 3 1, sStatic := w.getLsbD 4
           sDuty := if w.getLsbD 4 then fld w 11 5 else 64, sThermal := false
           duty := u.pw.dutyFrom (if w.getLsbD 4 then fld w 11 5 else 64) } } :
           State).answers c stOk [])) ∧
       (w.getLsbD 0 = false → exec (.partitionSet c) s =
         .next (({ u with pw := { u.pw with strict := false, sPoint := 0, sStatic := false, sDuty := 64, sThermal := false
                                            duty := u.pw.dutyFrom 64 } } : State).answers c stOk []))) ∧
     (let i := argCtx a 0
      let e := fld w 19 12
      let base := (argAt a 1).toNat
      let len := (argAt a 2).toNat
      let img := s.charterOf i
      let vs := pagesOf (base / 2 ^ 16 * 2 ^ 16) ((base + len + 0xFFFF) / 2 ^ 16 - base / 2 ^ 16) false
      let ro := ((vs.foldl (fun s v => match s.rawLeaf i v with
           | some (p, q, _) => if q.testBit 4 then s.putPte p (q - 16) else s
           | none => s) u).dropPages i false vs).dropPages i true vs
      s.Admits c 0x21 [lowMask 20, allMask, allMask] [(0, i)] [i] → argAt a 2 ≠ 0 → len % 2 ^ 16 = 0 → e < chNctx img →
       (s.ctx i).entry = none → ((s.ctxCores i).any fun n => (s.core n).run == .running) = false →
       (s.ctxs.filter fun k => k.2.st != .free && k.2.chd == (s.ctx i).chd && k.2.entry == some e).length <
         imgByte img (chEntry img e + 99) →
       base + len ≤ 2 ^ 48 →
       (vs.all fun v => match s.rawLeaf i v with
         | some (_, e, _) => e.testBit 5
         | none => false) = true →
       ro.specTasks i = [] → ro.admittedBefore i ro.reqNum = false → ro.bindImage i e base len = (t, ok) → exec (.programLoad c) s = .next (t.answers c stOk [])))

/-- (1) LEARN.BIND binds a context that has the learner role to the step control block (`17` R410), LEARN.SEAL seals every record group with STEP 0, and a step
opens once OFID has reached it: with a legal block and table it takes its snapshot, and an illegal one loses the context
with cause 0x11 (`09` R207, R209, R230).

(2) A gate record goes down the tree and is judged when it is of the open step, the round and the epoch; a record that
has not come is asked for, and one that does not come ends the step as a SKIP with TMO, after which the member
withdraws (`09` R216–R218). -/
def Obligations.LearningBinding : Prop :=
  (∀ (s t t' : State) (c : MbxCall) (w : W64) (b : Scb) (g : List Group),
     let a := s.argsOf c
     let u := s.taken
     let i := argCtx a 0
     let l := s.learn
     (s.Admits c 0x22 [lowMask 12, allMask] [(0, i)] [i] → (argAt a 1).toNat % 64 = 0 → l.bound = false →
       s.role i 2 = true →
       exec (.learnBind c) s = .next ((State.putStatus { u.grantUpdate { v := true, r := true, w := true, ctx := i } with
         learn := { bound := true, ctx := i, scbVa := (argAt a 1).toNat }, upd := [] } i).answers c stOk [])) ∧
     (s.Admits c 0x23 [lowMask 12] [(0, i)] [i] → l.bound = true → l.ctx = i → l.committed = true →
       u.readScb = (some (b, g), t) →
       (let x : Learn := { t.learn with scb := b, groups := g }
        t.sealPairs x (x.params / 128) 0 = .ok t' () →
        exec (.learnSeal c) s = .next ((t'.updLearn fun x =>
          { x with scb := b, groups := g, sealed := true, t := 0, final := true }).answers c stOk []))) ∧
     (s.dev = .ready → l.bound = true → (s.ctx l.ctx).st = .resident →
       (s.readScb = (none, t) → exec (.stepOpen w) s = .next (t.lose l.ctx 0x11)) ∧
       (s.readScb = (some (b, g), t) → w.toNat ≤ (t.fence b.ofid).val.toNat →
         (l.nextOpen = none → w.toNat < 2 ^ 60 → t.fencesHost b = false →
           (if w.toNat = 1 ∧ l.t = 0 then l.sealed = true else 0 < l.t ∧ w.toNat = l.t + 1 ∧ l.final = true) →
           exec (.stepOpen w) s = .next (if t.fencesBad b g then t.lose l.ctx 0x06
             else if l.committed then t.openStep w.toNat b g (t.ctx l.ctx).ls
             else (t.updLearn fun x => { x with nextOpen := some (w.toNat, b, g, (t.ctx x.ctx).ls) }).stampOpen w.toNat)) ∧
         (l.nextOpen = none → 2 ^ 60 ≤ w.toNat ∨ t.fencesHost b = true ∨ (w.toNat ≠ l.t + 1) ∨ (l.t ≠ 0 ∧ l.final = false) ∨
             (l.t = 0 ∧ l.sealed = false) →
           exec (.stepOpen w) s = .next (t.lose l.ctx 0x11)) ∧
         (l.nextOpen.isSome = true → w.toNat ≠ l.latestT → exec (.stepOpen w) s = .next (t.lose l.ctx 0x11))))) ∧
  (∀ (s : State) (r : GateRec) (h : Herd), s.dev = .ready → s.bindHerd = some h → s.learn.final = false →
     (r.epoch = h.rcd.epoch → (s.gateDown r).bindHerd = some h → (s.gateDown r).learn = s.learn →
       exec (.gateRecord r) s = .next (if r.t = s.learn.t ∧ r.round = s.learn.round then (s.gateDown r).judgeStep h r
         else s.gateDown r)) ∧
     (r.epoch ≠ h.rcd.epoch → exec (.gateRecord r) s = .next (s.updHerd h.hid fun h =>
       { h with staleMsgs := h.staleMsgs + 1 })) ∧
     (s.learn.trs ≠ 0 →
       exec .gateQuery s = .next ((s.updLearn fun l => { l with queries := l.queries + 1 }).toMember h h.rcd.bell
         { opc := 0x40, rnd := s.learn.round, step := s.learn.t }) ∧
       (h.next = none → h.rcd.epoch = s.learn.trsEpoch → exec .gateTimeout s =
         .next (((s.countLate.skipStep true).ctxEvent s.learn.ctx 6 (w64 s.learn.t)).quitHerd h.hid))))

/-- A gradient block that the X-die holds takes its half of a slot, or of a park in the ballast area; with none free it
waits, and is counted; bytes that the X-die does not hold change nothing. A park whose state has arrived moves to a slot
with its blocks from the ballast area. A slot with both blocks reads its record group: a torn one loses the context with
cause 0x10, and a good one gives the slot its result (`09` R222–R227, R232, R237). -/
def Obligations.BlocksAndSlots : Prop :=
  ∀ (s t t1 t2 : State) (block : BitVec 40) (data : List Byte) (held : Option (List Byte)) (m : Fin 4) (i : Fin 32768)
    (n gi : Nat) (u : Upd) (pk : BallastIn) (p : Park) (k : Slot) (b0 b1 bs old : List Byte) (g : Group) (vh : List (BitVec 32)),
    let l := s.learn
    let j := block.toNat
    let rg := j / 2
    let second := j % 2 == 1
    s.stepRuns = true →
    (rg < l.recs → s.heldBlock j = .ok t held →
      (held ≠ some data → exec (.blockArrival block data) s = .next t) ∧
      (held = some data → t.homeOf rg = some (n, false) → t.updAdmits n = true →
        ((t.unit n).slotIn rg (t.stateDa rg) second data = none →
          exec (.blockArrival block data) s = .next (t.bump (regMupd n) 3 1)) ∧
        ((t.unit n).slotIn rg (t.stateDa rg) second data = some u → u.slots.length < 32768 →
          exec (.blockArrival block data) s = .next ((t.updUnit n fun _ => u).blockTaken n j data))) ∧
      (held = some data → t.homeOf rg = some (n, true) → t.updAdmits n = true → (t.unit n).parks.find? (fun k => k.rg == rg) = none →
        (t.parkPlace = none → exec (.blockArrival block data) s = .next (t.bump (regMupd n) 1 1)) ∧
        (∀ q, t.parkPlace = some q →
          t.writeVa (704 + n) t.learn.ctx (t.learn.parkVa q + 193 * b2n second) data = .ok t1 () →
          exec (.blockArrival block data) s = .next
            (((t1.updUnit n fun u => u.parkIn rg q second).blockTaken n j data).bump (regMupd n) 0 1)))) ∧
    ((s.unit pk.die).parks.find? (fun k => k.rg == pk.rg.toNat) = some p → p.has0 = true → p.has1 = true →
      (s.unit pk.die).slots.length < 32767 → l.groupOf p.rg = some (gi, g) →
      s.readVa (704 + pk.die.val) l.ctx (l.parkVa p.place) 386 = .ok t bs →
      t.readVa (704 + pk.die.val) l.ctx (l.recVa p.rg) g.recSize = .ok t1 old →
      (t1.unit pk.die).slots.length < 32767 →
      exec (.ballastPark pk) s = .next (t1.updUnit pk.die fun u => { u with
        parks := u.parks.erase p
        slots := u.slots ++ [{ rg := p.rg, b0 := some (bs.take 193), b1 := some (bs.drop 193), da := t1.stateDa p.rg }] })) ∧
    (s.resetting 3 m = false → (s.unit m).slots[i.val]? = some k → k.b0 = some b0 → k.b1 = some b1 →
      l.groupOf k.rg = some (gi, g) → k.result = none → k.skip = false → k.writing = false →
      s.readSlot m k g.recSize = .ok t old →
      (recCheck l.t gi k.rg old = .torn → exec (.recordGroupRead m i) s =
        .next ((t.updLearn fun x => { x with torn := some (64 * k.rg) }).lose l.ctx 0x10)) ∧
      (recCheck l.t gi k.rg old = .written → (Tab.get [] t.ras.issued m).contains k.rg = false →
        exec (.recordGroupRead m i) s = .next (t.updSlot m i fun k => { k with skip := true })) ∧
      (recCheck l.t gi k.rg old = .good →
        (let grads := t.recGrads g b0 b1
         let dec := grads.zipIdx.map fun e => g.decayed (word32 old (64 + 4 * e.2)) e.1
         t.factored (704 + m.val) g l.kNow (64 * k.rg) dec = .ok t2 vh →
         exec (.recordGroupRead m i) s = .next (t2.updSlot m i fun x =>
           { x with result := some (t2.recResult gi g k.rg old grads vh).1
                    xorW := (t2.recResult gi g k.rg old grads vh).2, spec := !l.taken }))))

/-- After COMMIT or CLIP the oldest pair makes its writes, a write that is acknowledged frees its slot, a rule-7 group
rewrites its factor table, GFID and CFID take t once all is written, and a lost block is asked for again; one that does
not come loses the context with cause 0x17 (`09` R224, R228, R231, R234, R235, `20` R461, `21` R486, R487). -/
def Obligations.CommitAndRebuild : Prop :=
  ∀ (s t t2 t3 : State) (m : Fin 4) (i : Fin 32768) (j : Fin 256) (gi : Nat) (ps : List Slot) (k : Slot) (ks : List Slot)
    (x acc : List Byte) (t0 : State) (old : List (BitVec 32)) (g : Group),
    let l := s.learn
    s.stepRuns = true →
    (l.taken = true →
      (s.resetting 3 m = false → (s.unit m).drainable = some ps → ps.filter (fun k => !k.skip) = k :: ks →
        l.groupOf k.rg = some (gi, g) →
        (l.scb.ds = true → ((k :: ks).any fun x => s.ownsUnit x.rg) = true → s.streamCredit = false →
          exec (.slotDrain m) s = .next (s.bump (regMupd m) 5 1)) ∧
        (l.scb.ds = false ∨ s.streamCredit = true → s.putPair m g (k :: ks) = .ok t () →
        (let rs := (k :: ks).map (·.rg)
         let t1 := t.updUnit m fun u => { u with
           slots := (u.slots.filter fun x => !(x.skip && ps.contains x)).map fun x =>
             if rs.contains x.rg then { x with writing := true } else x }
         exec (.slotDrain m) s = .next
           { t1 with ras := { t1.ras with issued := Tab.upd [] t1.ras.issued m fun r => r ++ rs } }))) ∧
      ((s.unit m).slots.find? (·.writing) = some k → k.result = some x → l.groupOf k.rg = some (gi, g) →
        g.rule ≠ 7 → (x.getD 11 0).getLsbD 2 = false → l.scb.ds = false →
        exec (.recordGroupWritten m) s = .next
          (State.recAcked { s.updUnit m (fun u => { u with slots := u.slots.erase k }) with
            ras := { s.ras with issued := Tab.upd [] s.ras.issued m fun r => r.erase k.rg } } m gi k.rg x)) ∧
      (l.groupSwept j = true → l.groups[j.val]? = some g →
        (l.factorsDone.contains j.val = false → g.rule = 7 →
          (let r := g.frows
           let n := g.cols
           let init := s.factorInit g
           (if l.kNow = 1 then Res.ok s (List.replicate (r + n) 0)
              else s.readF32 init l.ctx ((List.range (r + n)).map fun i => g.fbase + 4 * i)) = .ok t0 old →
           t0.readVa init l.ctx g.accAt (40 * (r + n)) = .ok t acc →
           (let next := (List.range (r + n)).map fun i => fma32 g.b2 (old.getD i 0) (mul32 (g.consts l.kNow).b2c
              (accMean (toInt 320 (leAt acc (40 * i) 40)) (if i < r then n else r)))
            let first := (next ++ [factorMean (next.take r)]).flatMap fun v => leBytes 4 v.toNat
            let pad := List.replicate ((64 - first.length % 64) % 64) 0
            t.writeVa init l.ctx g.fbase (first ++ pad ++ List.replicate (40 * (r + n)) 0) = .ok t2 () →
            t2.writeVa init l.ctx (g.fbase + (first ++ pad).length + 40 * (r + n)) (leBytes 8 l.t ++ List.replicate 56 0) =
              .ok t3 () →
            exec (.factorFinalise j) s = .next (t3.updLearn fun x =>
              { x with factorsDone := x.factorsDone ++ [j.val] })))) ∧
        (l.groupsDone.contains j.val = false → g.rule ≠ 7 ∨ l.factorsDone.contains j.val = true →
          (let t1 := s.updLearn fun x => { x with groupsDone := x.groupsDone ++ [j.val] }
           exec (.groupFence j) s = .next (match g.gfid with | some f => t1.signal f (w64 l.t) 0 | none => t1)))) ∧
      (l.groupsDone.length = l.groups.length → l.leaves.length = ceilDiv l.recs 64 → s.ras.resend = [] → l.nextOpen = none →
        exec .commitFence s = .next ((State.signal (s.updLearn fun x => { x with
            committed := true, rootDue := some (x.t, x.kcount, treeRoot (x.leaves.length + 1) (x.leaves.map Prod.snd))
            segDue := if x.scb.ds then x.segDue ++ [(x.t, !x.gap)] else x.segDue }) l.scb.cfid (w64 l.t) 0).mark 12).joinSend.ckptStep)) ∧
    ((s.unit m).slots[i.val]? = some k → k.writing = false →
      exec (.slotRebuild m i false) s = .next ((((s.updUnit m fun u =>
        { u with slots := u.slots.modify i fun k => { rg := k.rg, da := k.da } }).bump (regMupd m) 4 1).askOwner m k.rg).record
          { cls := 0x02, outcome := 1, ukind := 6, uidx := m.val })) ∧
    ((s.ras.resend.any fun e => e.1 == m.val) = true →
      exec (.resendTimeout m) s = .next (match s.bindHerd with
        | some h => (s.lose l.ctx 0x17).quitHerd h.hid
        | none => s.lose l.ctx 0x17)) ∧
    (s.resetting 3 m = true → (s.unitReady 3 m).stepRuns = true →
      exec (.mdieReady m) s = .next (((List.range (s.unitReady 3 m).learn.recs).filter fun rg =>
        match (s.unitReady 3 m).homeOf rg with | some (d, _) => d == m.val | none => false).foldl
          (fun t rg => t.askOwner m rg) (s.unitReady 3 m)))

/-- HANDOFF.OPEN takes the lowest free channel and HANDOFF.CLOSE breaks it; the mover takes a record that is posted and
has room, and counts the others; a record from another module is delivered, and the credit goes back with the record that
has arrived; the producer's module then signals SFID, and a far end that has broken breaks this one (`10` R247–R252). -/
def Obligations.HandoffChannels : Prop :=
  ∀ (s t : State) (c : MbxCall) (k : Nat) (ch : Fin 256) (b : List Byte) (q : CreditIn) (z : BitVec 8),
    let a := s.argsOf c
    let u := s.taken
    let i := fld (argAt a 0) 7 0
    let o := openArgs a 0 0
    let h := s.handoff ch
    (s.Admits c 0x24 [lowMask 49, allMask, allMask, lowMask 10, allMask] (o.ctxs.map fun i => (0, i)) o.ctxs →
      (o.prodEnd = true → 1 ≤ o.ns ∧ o.ns ≤ 16) → (o.consEnd = true → 1 ≤ o.nk ∧ o.nk ≤ 16) → s.openBad o c.peer = false → o.peer = 0 ∨ (s.portTo o.peer).isSome = true →
      firstOf (fun i => !(s.handoff i).isOpen) 256 0 = some k →
      exec (.handoffOpen c) s = .next ((u.updHandoff k fun _ => openArgs a ((s.portTo o.peer).getD 0)
        (chanSize (s.charterOf (if o.prodEnd then o.prod else o.cons)) o.entry)).answers c stOk [w64 k])) ∧
    (s.Admits c 0x25 [lowMask 8] [(3, i)] [] → (s.handoff i).isOpen = true →
      exec (.handoffClose c) s = .next ((u.breakChannel i).answers c stOk [])) ∧
    (s.dev = .ready → h.isOpen = true →
      (h.prodEnd = true → h.sent + 1 < 2 ^ 62 → exec (.handoffRecord ch none) s = .next (match s.barred h (h.sent + 1) with
          | .clear => (s.takeRecord ch (h.sent + 1)).endIfDone ch
          | .unposted => s.countChan ch 21
          | .full => s.countChan ch 22)) ∧
      (h.prodEnd = false → h.last + 1 < 2 ^ 62 →
          (headerBad h none (h.last + 1) b = true → exec (.handoffRecord ch (some b)) s = .next (s.breakChannel ch)) ∧
          (headerBad h none (h.last + 1) b = false →
            s.deliver ch (h.last + 1) ((b ++ List.replicate (64 + h.rsize) 0).take (64 + h.rsize)) = .ok t () →
            exec (.handoffRecord ch (some b)) s =
              .next ((t.countChan ch 20).sendCredit h (t.sinkFree h) (h.last + 1) none))) ∧
      (h.prodEnd = false ∨ h.consEnd = false →
        (q.cause = some z → exec (.rfidReturn ch q) s = .next (s.breakChannel ch (some z))) ∧
        (q.cause = none →
          (h.prodEnd = true →
            (let n := min h.sent q.arrived.toNat
             let t := s.updHandoff ch fun h => { h with credit := max h.credit q.upTo.toNat, last := max h.last n }
             exec (.rfidReturn ch q) s =
               .next ((if h.last < n then t.signal h.sfid (w64 n) 0 else t).endIfDone ch))) ∧
          (h.prodEnd = false → exec (.rfidReturn ch q) s = .next (s.sendCredit h (s.sinkFree h) h.last none)))))

/-- (1) A pool request at a port that is UP leaves the receive buffer and is answered: lines of a donated region to a node
that it lists and of the coordination region are read or written, an address in no region or one that is not a whole line
is UNMAPPED, and a request that is not admitted is DENIED; PATOM works on the coordination region alone. A request that came
before its port went down is completed without a response, and an NL outside its range is a protocol error (`11` R268, R276,
R278, R279, R282).

(2) A response frees the tag of its request, which a read ends with its lines in pool memory and a write with its own; an
error status, or no response, is a pool fault, and after no response the tag stays held (`11` R279, R281). -/
def Obligations.PoolTransport : Prop :=
  (∀ (s : State) (m : PoolMsg),
     let k := s.port m.port
     let key := fun (opc vc : Nat) => (2 * vc, PoolMsg.bytes m opc)
     let taken := fun (opc vc : Nat) => s.updPort m.port fun k => k.take (2 * vc) (PoolMsg.bytes m opc)
     let gone := fun (opc vc : Nat) => s.updPort m.port fun k => { k with old := k.old.erase (key opc vc) }
     let answer := fun (opc vc : Nat) (x : State × Nat × List Byte) => x.1.respond m opc vc x.2.1 x.2.2
     let w := if m.strm then 3 else 2
     s.dev = .ready →
     (k.st = .up →
       (1 ≤ m.nl → m.nl ≤ 16 →
         (k.old.contains (key 1 1) = false → exec (.prd m) s = .next (answer 1 1 ((taken 1 1).poolLines m false))) ∧
         (k.old.contains (key 3 w) = false → exec (.pwr m) s = .next (answer 3 w ((taken 3 w).poolLines m true)))) ∧
       (17 ≤ m.nl → m.nl ≤ 8192 →
         (k.old.contains (key 2 1) = false → exec (.pbrd m) s = .next (answer 2 1 ((taken 2 1).poolLines m false))) ∧
         (k.old.contains (key 4 w) = false → exec (.pbwr m) s = .next (answer 4 w ((taken 4 w).poolLines m true)))) ∧
       (m.nl = 0 → k.old.contains (key 5 2) = false → exec (.patom m) s = .next (answer 5 2 ((taken 5 2).atom m))) ∧
       (m.nl = 0 ∨ 16 < m.nl → exec (.prd m) s = .next (s.protocolError m.port) ∧ exec (.pwr m) s = .next (s.protocolError m.port)) ∧
       (m.nl < 17 ∨ 8192 < m.nl → exec (.pbrd m) s = .next (s.protocolError m.port) ∧
         exec (.pbwr m) s = .next (s.protocolError m.port)) ∧
       (m.nl ≠ 0 → exec (.patom m) s = .next (s.protocolError m.port))) ∧
     (1 ≤ m.nl → m.nl ≤ 16 →
       (k.old.contains (key 1 1) = true → exec (.prd m) s = .next ((gone 1 1).poolLines m false).1) ∧
       (k.old.contains (key 3 w) = true → exec (.pwr m) s = .next ((gone 3 w).poolLines m true).1)) ∧
     (17 ≤ m.nl → m.nl ≤ 8192 →
       (k.old.contains (key 2 1) = true → exec (.pbrd m) s = .next ((gone 2 1).poolLines m false).1) ∧
       (k.old.contains (key 4 w) = true → exec (.pbwr m) s = .next ((gone 4 w).poolLines m true).1))) ∧
  (∀ (s : State) (m : PoolMsg) (write : Bool) (r da : Nat),
     let a := m.addr.toNat
     let x := s.poolLines m write
     let old := w64 (leNat (bytesAt s.coord a 8))
     let op := (wordAt m.data 0).toNat
     (a % 128 ≠ 0 ∨ s.place a (128 * m.nl) = .none → x = (s, 2, [])) ∧
     (a % 128 = 0 → s.place a (128 * m.nl) = .coord →
       x = if write then (s.linesIn true m.nl a m.data, 0, []) else (s, 0, s.linesOut true m.nl a)) ∧
     (a % 128 = 0 → s.place a (128 * m.nl) = .region r da →
       (s.donated m r da write = false →
         x = ((s.bump (regPort m.port) 14 1).updTarget (8 + (Tab.get {} s.donations r).m) fun t =>
           { t with denials := t.denials + 1 }, 1, [])) ∧
       (s.donated m r da write = true → m.bad = true → x = (s.lineLost da, 3, [])) ∧
       (s.donated m r da write = true → m.bad = false →
         x = if write then (s.linesIn false m.nl da m.data, 0, []) else (s, 0, s.linesOut false m.nl da))) ∧
     (a % 8 = 0 → s.place a 8 = .coord → op ≤ 2 →
       s.atom m = ({ s with coord := putBytes s.coord a (leBytes 8
         (if op = 0 then old + m.opnd else if op = 1 then m.opnd else if old = m.opnd then wordAt m.data 1 else old).toNat) },
         0, leBytes 8 old.toNat)) ∧
     (a % 8 = 0 → s.place a 8 = .region r da → s.atom m = (s.bump (regPort m.port) 14 1, 1, [])) ∧
     (a % 8 ≠ 0 ∨ s.place a 8 = .none → s.atom m = (s, 2, []))) ∧
  (∀ (s t : State) (tag : BitVec 14) (data : List Byte) (hl : Health) (r : PoolReq) (d : StoreDest),
     (s.poolReqs.find? (fun r => r.tag == tag.toNat && r.waits == 0) = some r →
       (let v : State := { s with poolReqs := s.poolReqs.erase r }
        let u := v.bump (regPort r.port) 41 1
        (r.dead = false →
          (r.opc = 1 ∨ r.opc = 2 → u.checkLine r.da r.ctx hl = (true, t) →
            exec (.poolResponse tag 0 data hl) s = .next (t.poolDone r data).unpark) ∧
          (r.opc ≠ 1 → r.opc ≠ 2 →
            (r.store = none → exec (.poolResponse tag 0 data hl) s = .next (u.poolDone r data).unpark) ∧
            (r.store = some d → r.opc ≠ 5 → exec (.poolResponse tag 0 data hl) s = .next ((u.poolDone r data).storeDone d r.ctx).unpark) ∧
            (r.store = some d → r.opc = 5 → exec (.poolResponse tag 0 data hl) s = .next (u.atomDone r d data).unpark)) ∧
          exec (.poolResponse tag 1 data hl) s = .next ((v.bump (regPort r.port) 42 1).poolLost r).unpark) ∧
        (r.dead = true → exec (.poolResponse tag 0 data hl) s = .next (v.bump (regPort r.port) 13 1).unpark))) ∧
     (s.poolReqs.find? (fun r => r.tag == tag.toNat && r.waits == 0 && !r.dead) = some r →
       exec (.poolResponseTimeout tag) s = .next (State.poolLost { s with
         poolReqs := s.poolReqs.map fun x => if x = r then { r with dead := true } else x } r)))

/-- (1) NODE.SET, ADMIT.SET and PORT.RESET; a port goes through TRAIN, HELLO, ATTEST and KEYX to UP, with keys of epoch 0; each
step that fails, or takes too long, leaves it DOWN, and a peer that is not admitted leaves it in ADMIT_FAIL; each failure
is counted (`11` R260–R262, `21` R479).

(2) A flit of 256 bytes whose codeword is lost or whose CRC fails is discarded, and asks for a NAK; one with a bad tag halts
the module, and one that no key of the port fits, or of other nodes, is a protocol error. A DATA flit in order is taken, a
gap asks for a NAK and a duplicate changes nothing; an LCTL flit acknowledges, replays from its NAK and returns credits;
IDLE changes nothing (`11` R259, R263–R273).

(3) A port that is UP sends what is due: the replay, an LCTL flit, or a new flit; its timers replay, retrain and end it;
its keys are exchanged and switched by direction once every flit of the old epoch is acknowledged (`11` R271–R277).

(4) A sealed flit has 256 bytes and a good CRC; its header reads back field by field, and its payload opens under the same
key and epoch (`11` R263–R266). -/
def Obligations.LinkPorts : Prop :=
  (∀ (s t : State) (c : MbxCall) (p : Fin 16) (ok : Bool) (peer : BitVec 16) (root fwm ident e : BitVec 256) (z : PeerKeys)
     (b w : List Byte),
     let a := s.argsOf c
     let u := s.taken
     let v := argAt a 0
     let q := fld v 3 0
     (s.Admits c 0x30 [lowMask 16] [] [] → fld v 15 0 ≠ 0 → fld v 15 0 ≠ 0xFFFF →
       (∀ p < 16, s.portFitted p = false ∨ (s.port p).st = .down ∨ (s.port p).st = .admitFail ∨ (s.port p).st = .absent) →
       exec (.nodeSet c) s = .next (State.answers { u with node := fld v 15 0 } c stOk [])) ∧
     (s.Admits c 0x31 [lowMask 8, allMask, allMask, allMask, allMask] [] [] →
       (let x := if v.getLsbD 7 then some (v.getLsbD 6, argDig a 1) else none
        exec (.admitSet c) s = .next (State.answers { u with admitList := Tab.set none s.admitList (fld v 5 0) x } c stOk []))) ∧
     (s.Admits c 0x32 [lowMask 4] [] [] →
       exec (.portReset c) s = .next ((if (s.port q).st = .up then (u.portReset q).dropPort q
         else (u.portReset q).updPort q fun k => { k.down with fails := 0 }).answers c stOk [])) ∧
     ((s.port p).st = .train → exec (.train p ok) s =
       .next (if ok then (s.updPort p fun k => { k with st := .hello }).sayHello p else s.portFail p .down)) ∧
     ((s.port p).st = .hello → exec (.hello p ok peer) s =
       .next (if ok = true ∧ peer ≠ 0 ∧ peer ≠ 0xFFFF then
         (s.updPort p fun k => { k with st := .attest, peer := peer.toNat }).bringFree p else s.portFail p .down)) ∧
     ((s.port p).st = .attest → exec (.attest p ok root fwm ident) s =
       .next (if ok = true ∧ s.admitted false root = true ∧ s.admitted true fwm = true ∧ s.peerFree p ident = true then
         (s.updPort p fun k => { k with st := .keyx, ident := ident }).bringFree p
         else (s.updPort p fun k => { k with ident := ident }).portFail p .admitFail)) ∧
     ((s.port p).st = .keyx → s.drawFresh 256 = some (e, t) → exec (.keyx p ok z) s =
       .next (if ok then t.updPort p fun k => { k.quiet with
           st := .up, fails := 0, peer := k.peer, ident := k.ident
           tx := { key := t.linkKey p 0 true (t.linkSecret e z) }, rx := { key := t.linkKey p 0 false (t.linkSecret e z) } }
         else t.portFail p .down)) ∧
     ((s.port p).st.rising = true →
       exec (.bringUpTimeout p) s = .next (s.portFail p .down) ∧
       (crcGood w = false → exec (.bringUp p (some w)) s = .next (s.bump (regPort p) 3 1)) ∧
       (crcGood w = true → (Flit.ofWire false w).kind = 3 →
         (let got := fun (k : Port) => { k with bringIn := some ((w.drop 16).take (min 224 (Flit.ofWire false w).plen)) }
          ((s.port p).bringWait = true → exec (.bringUp p (some w)) s = .next (s.updPort p fun k =>
            { got k with bringWait := false })) ∧
          ((s.port p).bringWait = false → (s.port p).bring = some b → exec (.bringUp p (some w)) s = .next (s.updPort p fun k =>
            { got k with out := some (bringFlit s.node (s.port p).known b) })))) ∧
       ((s.port p).bringWait = true → (s.port p).bring = some b → exec (.bringUp p none) s = .next (s.updPort p fun k =>
         { k with out := some (bringFlit s.node (s.port p).known b) }))) ∧
     (s.portsRun = true → s.portFitted p = true → s.node ≠ 0 → (s.port p).st = .down →
       exec (.portRetry p) s = .next (s.updPort p fun k => { k with st := .train, mode := k.cfgMode }))) ∧
  (∀ (s : State) (f : FlitIn) (l : LctlIn) (key : BitVec 128) (epoch : Nat) (b : List Byte),
     let p := f.port.val
     let k := s.port p
     let h := Flit.ofWire f.resp f.wire
     let u := s.countFec p f.fec
     let v := u.updPort p fun k => k.enterEpoch h.kep
     let x := v.port p
     let g := { h with data := b }
     let cls := 2 * h.vc + b2n f.resp
     let next := (v.bump (regPort p) (31 + h.vc) 1).updPort p fun k =>
       if cls = 10 then { k.accept cls g with tIn := v.stampIn p } else k.accept cls g
     let poolBad := h.eom = true ∧ 2 ≤ cls ∧ cls < 8 ∧ poolHdrBad cls ((next.port p).newest cls) = true
     k.st = .up →
     (f.lost = true ∨ crcGood f.wire = false →
       (let t := (u.bump (regPort p) 3 1).updPort p fun k => k.askNak u.now
        exec (.data f) s = .next t ∧ exec (.lctl f l) s = .next t ∧ exec (.idle f) s = .next t)) ∧
     (f.lost = false → crcGood f.wire = true →
       (h.kind = 0 →
         (h.rsv = 0 → h.srcn = 0 → h.dstn = 0 → exec (.idle f) s = .next u) ∧
         (h.rsv ≠ 0 ∨ h.srcn ≠ 0 ∨ h.dstn ≠ 0 → exec (.idle f) s = .next (u.protocolError p))) ∧
       (h.kind = 1 ∨ h.kind = 2 →
         (k.rxKey h.kep = none →
           exec (.data f) s = .next (u.protocolError p) ∧ exec (.lctl f l) s = .next (u.protocolError p)) ∧
         (k.rxKey h.kep = some (key, epoch) →
           (h.unseal key epoch = none → exec (.data f) s = .next (u.halt 0x03 9 p) ∧ exec (.lctl f l) s = .next (u.halt 0x03 9 p)) ∧
           (h.unseal key epoch = some b →
             (h.rsv ≠ 0 ∨ h.srcn ≠ k.peer ∨ h.dstn ≠ u.node →
               exec (.data f) s = .next (u.protocolError p) ∧ exec (.lctl f l) s = .next (u.protocolError p)) ∧
             (h.rsv = 0 → h.srcn = k.peer → h.dstn = u.node →
               (h.kind = 1 → 1 ≤ h.plen → h.plen ≤ 224 →
                 (h.seq = x.rxSeq → exec (.data f) s = .next (if poolBad then next.protocolError p else next)) ∧
                 (h.seq < x.rxSeq → exec (.data f) s = .next v) ∧
                 (x.rxSeq < h.seq → exec (.data f) s = .next (v.updPort p fun k => k.askNak v.now))) ∧
               (h.kind = 2 →
                 ((∀ q, x.rxCtl = some q → q < h.seq) →
                   exec (.lctl f l) s = .next ((v.updPort p fun k => { k with rxCtl := some h.seq }).heedLctl p l)) ∧
                 (∀ q, x.rxCtl = some q → h.seq ≤ q → exec (.lctl f l) s = .next (v.protocolError p))))))))) ∧
  (∀ (s t : State) (p : Fin 16) (n : Nat) (x : Flit) (d : BitVec 256) (z : PeerKeys),
     let k := s.port p
     k.st = .up →
     (k.retraining = false →
       (k.replayN = n + 1 → k.replay[k.replayAt]? = some x →
         exec (.flitTransmit p) s = .next ((s.bump (regPort p) 5 1).updPort p fun k => {
           k.leaves (2 * x.vc + b2n x.resp) x.data.length (s.stampOut p) with
           replayN := n, replayAt := if n = 0 then 0 else k.replayAt + 1, out := some x })) ∧
       (k.replayN = 0 → exec (.flitTransmit p) s =
         .next (if k.nakDue = true ∨ k.lctlDue = true ∨ 64 ≤ k.unacked then s.sendLctl p else s.sendNew p)) ∧
       (k.replayN = 0 → exec (.lctlTimer p) s = .next (s.sendLctl p)) ∧
       (k.replayN ≠ 0 → exec (.lctlTimer p) s = .next (s.updPort p fun k => { k with lctlDue := true }))) ∧
     (k.replay ≠ [] →
       exec (.acknowledgementTimer p) s = .next ((s.bump (regPort p) 6 1).updPort p Port.replayAll) ∧
       exec (.retrainTimer p) s = .next ((s.bump (regPort p) 7 1).updPort p fun k => { k with retraining := true })) ∧
     (k.retraining = true → exec (.fastRetrainComplete p) s =
       .next (s.updPort p fun k => { k.replayAll with retraining := false })) ∧
     exec (.peerDown p) s = .next (((s.portReset p).bump (regPort p) 8 1).dropPort p) ∧
     (k.tx.rekeying = false →
       (s.drawFresh 256 = some (d, t) → exec (.rekey p) s = .next ((t.updPort p fun k =>
         { k with tx := { k.tx with rekeying := true, eph := d } }).sendMsg p 7 false (Config.sm2public d))) ∧
       (s.drawFresh 256 = none → exec (.rekey p) s = .next (s.keyRefused.peerDown p))) ∧
     (s.drawFresh 256 = some (d, t) → exec (.rekeySwitch p true z) s = .next ((t.updPort p fun k => { k with
       rx := { k.rx with next := some (t.linkKey p (k.rx.epoch + 1) false (t.linkSecret d z)) } }).sendMsg p 7 false
         (Config.sm2public d))) ∧
     (s.drawFresh 256 = none → exec (.rekeySwitch p true z) s = .next s.keyRefused) ∧
     (k.tx.rekeying = true →
       (k.tx.next = none → exec (.rekeyTimeout p) s = .next (s.peerDown p)) ∧
       (k.tx.next.isSome = true → exec (.rekeyTimeout p) s = .next s) ∧
       (k.tx.epoch < 2 ^ 32 - 1 →
         (let key := k.tx.next.getD (s.linkKey p (k.tx.epoch + 1) true (s.linkSecret k.tx.eph z))
          exec (.rekeySwitch p false z) s = .next (if k.replay = [] then (s.bump (regPort p) 11 1).updPort p fun k =>
              { k with tx := { epoch := k.tx.epoch + 1, key := key }, txSeq := 0, txCtl := 0 }
            else s.updPort p fun k => { k with tx := { k.tx with next := some key } }))))) ∧
  (∀ (f : Flit) (key : BitVec 128) (epoch : Nat),
     let w := f.sealed key epoch
     f.kind < 16 → f.vc < 8 → f.plen < 256 → f.kep < 256 → f.seq < 2 ^ 32 → f.srcn < 65536 → f.dstn < 65536 →
     w.length = 256 ∧ crcGood w = true ∧ Flit.ofWire f.resp w = { f with rsv := 0, data := [], wire := w } ∧
     (Flit.ofWire f.resp w).unseal key epoch = some (fitTo 224 f.data))

/-- (1) HERD.FORM reads and checks its plan; the Bellwether forms the herd once it has heard every INIT member, or at the timeout
at least NMIN; HERD.JOIN makes a joining member, which reserves its index and announces itself, the root decides whether it is
admitted, and a join can be abandoned. A member whose QUOTE fails a check is absent, and a member passes an announcement on,
once (`12` R285–R287, R317, R318, `17` R420; log 29).

(2) A membership record of a later epoch, sent under the epoch in force, waits for its instant, at which it comes into force; members that miss three
reports, or withdraw, are dropped by the Bellwether; a beacon is counted and forwarded, and a takeover makes a new record
(`12` R288–R291, R314–R316).

(3) The root of a step extends the chain of the herd, every K steps the chain goes to the Bellwether, and the value that
more than half of the live members hold decides: the members that do not hold it are lost, and one with another value is a
stray (`12` R311–R313). -/
def Obligations.Herds : Prop :=
  (∀ (s t : State) (c : MbxCall) (hid : BitVec 32) (m : HerdFrom) (h x : Herd) (b memb : List Byte) (peers : List (Nat × Nat))
     (root given : BitVec 256) (j k : Nat) (k1 : Bool) (qt : QuoteIn) (z : Store),
     let a := s.argsOf c
     let i := argCtx a 0
     let n := hid.toNat
     let x1 := { h with self := h.nodes.idxOf t.node }
     let y := fld (argAt a 2) 11 0
     (s.Admits c 0x33 [lowMask 12, allMask] [(0, i)] [i] → s.taken.readPlan i (argAt a 1).toNat = .ok t (h, b, memb) →
       t.planBad h b memb = false → t.herds.length < 4 → x1.firstBell ≠ x1.self →
       (let x := x1
        let u : State := { t with herds := t.herds ++ [x] }
        let msg : CollMsg := { x.sign x.firstBell { opc := 0x41, data := leBytes 1 u.portPeers.length ++
          (u.portPeers.flatMap fun e => leBytes 1 e.1 ++ leBytes 2 e.2) ++ u.ownQuote x.chd } with src := x.self }
        exec (.herdForm c) s = .next (((u.formPorts x x.firstBell).foldl (fun s p => s.ctlSend (some p) x.firstBell msg) u).waits c
          (.herd h.hid) [(0, i)]))) ∧
     (s.Admits c 0x34 [lowMask 12, allMask, lowMask 12] [(0, i)] [i] →
       s.taken.readPlan i (argAt a 1).toNat = .ok t (h, b, memb) → t.planBad h b memb = false →
       h.nodes.idxOf t.node = y → h.inits.contains y = false → t.herds.length < 4 →
       exec (.herdJoin c k1 false) s = .next (t.answers c stNocover []) ∧
       (t.store? h.chd 0 (w64 h.hid) = none → exec (.herdJoin c k1 true) s = .next (t.refuses c 0)) ∧
       (t.store? h.chd 0 (w64 h.hid) = some z → (t.storePort z.pmask).isSome = true →
         (let w : Herd := { h with self := y, phase := .joining, chain := h.chain0 }
          let u : State := { t with herds := t.herds ++ [w] }
          let v := u.reserve z h.ctx h.hid y (u.coordWord z (2 + y / 64))
          exec (.herdJoin c k1 true) s = .next ((v.announce w y v.portPeers (v.ownQuote h.chd)).waits c (.join h.hid) [(0, i)])))) ∧
     (s.dev = .ready → s.herd? n = some h →
       (h.phase = .forming →
         (s.quoteGood h.chd (h.nodeOf m.m) qt = true →
           (h.self = h.firstBell → h.inits.contains m.m.val = true →
             exec (.herdAnnounce hid m qt peers) s = .next (s.hear n m.m peers)) ∧
           (h.self ≠ h.firstBell → m.m.val ≠ h.self → h.heard.contains m.m.val = false →
             exec (.herdAnnounce hid m qt peers) s = .next ((s.updHerd h.hid fun h => { h with
               heard := h.heard ++ [m.m.val] }).announce h m.m peers qt.quote))) ∧
         exec (.formationTimeout hid) s = .next (if h.self = h.firstBell ∧ h.nmin ≤ h.heard.length then s.firstRecord n
           else s.unform n)) ∧
       (s.quoteGood h.chd (h.nodeOf m.m) qt = false → exec (.herdAnnounce hid m qt peers) s = .next s) ∧
       (h.runs = true → s.quoteGood h.chd (h.nodeOf m.m) qt = true →
         (m.epoch.toNat = h.rcd.epoch → h.latest.bell = h.self → h.latest.live.contains m.m.val = true →
           (∃ e ∈ h.ends peers, ∀ l ∈ h.latest.links, l ≠ (m.m.val, e.1, e.2)) →
           exec (.herdAnnounce hid m qt peers) s = .next (s.newLinks h.hid (h.relink m.m (h.ends peers)))) ∧
         (h.latest.live.contains m.m.val = true → m.epoch.toNat ≠ h.rcd.epoch →
           exec (.herdAnnounce hid m qt peers) s = .next (s.updHerd h.hid fun h => { h with staleMsgs := h.staleMsgs + 1 })) ∧
         (h.latest.live.contains m.m.val = false → m.m.val < h.nodes.length →
           exec (.herdAnnounce hid m qt peers) s = .next (s.hearJoiner h m.m peers qt.quote))) ∧
       (h.phase = .joining →
         exec (.joinAbandon hid) s = .next (s.unform n) ∧
         exec (.joinTransfer hid m none) s = .next (s.formSend h h.firstBell (h.sign h.firstBell { opc := 0x4E })) ∧
         (s.rootOf s.learn.t = .ok t root → exec (.joinTransfer hid m (some given)) s = .next
           ((t.updHerd h.hid fun h => { h with root := root }).formSend h h.firstBell
             (h.sign h.firstBell { opc := 0x4D, step := t.learn.t, data := digBytes root })))) ∧
       (h.phase ≠ .joining → h.join.isSome = true → h.rcd.bell ≠ h.self →
         exec (.joinAbandon hid) s = .next (s.updHerd h.hid fun h => { h with
           hold := false, phase := .live, join := none, donors := [], joinLinks := [] })) ∧
       (h.phase ≠ .joining → h.join = none → h.runs = true → h.latest.live.contains m.m.val = false → m.m.val < h.nodes.length →
         m.epoch.toNat = h.rcd.epoch →
         (let step := s.learn.t + b2n s.learn.committed
          let links := s.linksTo h m.m
          let donors := h.donorsOf m.m links
          let u := s.updHerd h.hid fun h => { h with
            hold := true, phase := .holding, join := some (m.m.val, step), donors := donors, joinLinks := links }
          (h.rcd.bell ≠ h.self → exec (.joinTransfer hid m none) s = .next u) ∧
          (h.rcd.bell = h.self → u.herd? h.hid = some x → exec (.joinTransfer hid m none) s = .next
            (((x.rcd.live.filter (· != x.self)) ++ [m.m.val]).foldl (fun s d => s.toMember x d (joinOrder x m.m step)) u)))) ∧
       (h.phase ≠ .joining → h.join = some (j, k) → j = m.m.val → m.epoch.toNat = h.rcd.epoch →
         (root ≠ h.root → exec (.joinTransfer hid m (some root)) s = .next (s.endJoin h)) ∧
         (root = h.root → h.rcd.bell = h.self → exec (.joinTransfer hid m (some root)) s = .next
           (s.newRecord h.hid ((List.range h.nodes.length).filter fun x => x == j || h.latest.live.contains x)
             (h.reached h.latest.live h.latest.links) (h.latest.links ++ s.linksTo h j)))))) ∧
  (∀ (s : State) (hid : BitVec 32) (m b : Fin 4096) (src : HerdFrom) (h : Herd) (r : MemRec) (reached : List Nat) (e : BitVec 32) (p : Nat),
     let n := hid.toNat
     s.dev = .ready → s.herd? n = some h →
     (h.phase = .forming → exec (.membershipRecord hid r) s =
       .next (if r.live.contains h.self then s.formed n { r with mep := 0 } else s.unform n)) ∧
     (h.phase ≠ .forming → h.phase ≠ .joining →
       (r.mep ≠ h.rcd.epoch ∨ r.epoch < h.rcd.epoch ∨ (r.epoch = h.rcd.epoch ∧ r.live ≠ []) → exec (.membershipRecord hid r) s =
         .next (s.updHerd n fun h => { h with staleMsgs := h.staleMsgs + 1 })) ∧
       (r.mep = h.rcd.epoch → r.live = [] → r.epoch = h.rcd.epoch → exec (.membershipRecord hid r) s = .next (s.leaveHerd n)) ∧
       (r.mep = h.rcd.epoch → h.rcd.epoch < r.epoch →
         (r.live.contains h.self = false → exec (.membershipRecord hid r) s = .next (s.leaveHerd n)) ∧
         (r.live.contains h.self = true →
           exec (.membershipRecord hid r) s = .next (if r.live.length < h.nmin then s.leaveHerd n
             else if r.swap < s.now.toNat + 1000000 then s.quitHerd n
             else s.updHerd n fun h => { h with next := some { r with mep := 0 } })))) ∧
     (h.next = some r → r.live = h.rcd.live → h.phase ≠ .joining →
       (let s1 := s.dropCkpts (fun w => w.cls == 0 && w.name == w64 h.hid && w.s.isSome && w.epoch != r.epoch) .member
        let held := h.hold && h.join.isNone
        let s2 := s1.updHerd h.hid fun h => { h with
          rcd := r, next := none, phase := if held then .holding else .live, hold := held, join := none, donors := [], joinLinks := []
          missing := Tab.drop h.missing fun m => !r.live.contains m
          digests := h.digests.filter fun d => r.live.contains d.1 }
        let again := fun (k : Coll) => k.reroute h h.rcd.live r r.gate.isSome
        let s3 := { s2 with colls := (List.range 16).foldl (fun t i => Tab.upd {} t i again) s2.colls }
        let s4 : State := { s3 with slotShadow := s3.slotFill, slotTab := s3.slotFill }
        exec (.membershipSwap hid) s = .next (((s4.resendHold h.hid).ctxEvent h.ctx 7 (at64 r.epoch 32)).putStatus h.ctx))) ∧
     (h.runs = true →
       (src.epoch.toNat = h.rcd.epoch →
         exec (.livenessReport hid (some src)) s = .next (s.updHerd h.hid fun h => { h with missing := Tab.set 0 h.missing src.m 0 })) ∧
       (src.epoch.toNat ≠ h.rcd.epoch →
         exec (.livenessReport hid (some src)) s = .next (s.updHerd h.hid fun h => { h with staleMsgs := h.staleMsgs + 1 })) ∧
       (treeParent h.rcd h.self = some p →
         (let below := treeBelow h.rcd h.rcd.live.length h.self
          exec (.livenessReport hid none) s = .next ((s.updHerd h.hid fun h => { h with
            missing := below.foldl (fun t m => Tab.upd 0 t m (· + 1)) h.missing }).toMember h p
              { opc := 0x31, data := leBytes 512 (liveMap (h.self :: below.filter fun m => Tab.get 0 h.missing m == 0)) }))) ∧
       (h.latest.bell = h.self → m.val ≠ h.self → h.latest.live.contains m.val = true →
         (3 ≤ Tab.get 0 h.missing m → exec (.memberMissing hid m) s = .next (s.dropMember n m)) ∧
         (src.m = m → src.epoch.toNat = h.rcd.epoch → exec (.withdraw hid src) s = .next (s.dropMember n m))) ∧
       (h.rcd.bell = h.self → exec (.herdBeacon hid none) s = .next (s.beaconDown h)) ∧
       (h.rcd.bell ≠ h.self → e.toNat = h.rcd.epoch → b.val = h.rcd.bell →
         exec (.herdBeacon hid (some (e, b))) s = .next ((s.updHerd h.hid fun h => { h with beacons := h.beacons + 1 }).beaconDown h)) ∧
       (h.rcd.bell ≠ h.self → (∀ m ∈ reached, h.self ≤ m) →
         (let live := h.latest.live.filter fun m => m == h.self || reached.contains m
          exec (.bellwetherTakeover hid reached) s = .next (s.newRecord n live live h.latest.links))))) ∧
  (∀ (s : State) (hid : BitVec 32) (h : Herd) (vals : List (HerdFrom × BitVec 256)) (t kc : Nat) (root v : BitVec 256),
     s.dev = .ready →
     (s.bindHerd = some h → s.learn.rootDue = some (t, kc, root) → h.hid = hid.toNat →
       (let x := Config.sm3 (digBytes h.chain ++ digBytes root ++ leBytes 8 t)
        let u := (s.updHerd h.hid fun h => { h with root := root, rootT := t, chain := x }).updLearn fun l => { l with rootDue := none }
        (kc % h.k ≠ 0 → exec (.rootDigest hid) s = .next u) ∧
        (kc % h.k = 0 → h.rcd.bell ≠ h.self → exec (.rootDigest hid) s =
          .next ((u.markOf t 15).toMember h h.rcd.bell
            { opc := 0x33, step := t, data := leBytes 8 kc ++ digBytes x })))) ∧
     (s.herd? hid.toNat = some h → h.runs = true → h.rcd.bell = h.self → (∃ d ∈ h.digests, d.1 = h.self) →
       (let own := ((h.digests.filter fun d => d.1 == h.self).map fun d => d.2.2).headD 0
        let got := (vals.filter fun e => e.1.epoch.toNat == h.rcd.epoch).map fun e => (e.1.m.val, e.2)
        let all := (h.self, own) :: got.filter fun e => e.1 != h.self && h.rcd.live.contains e.1
        let kept := h.latest.live.filter fun m => all.contains (m, v) || !h.rcd.live.contains m
        let u := (s.digestVals h vals).updHerd h.hid fun h => { h with digests := [] }
        majority h.rcd.live.length all = some v →
        exec (.digestDecide hid vals) s = .next (if kept = h.latest.live then u
          else if (all.any fun e => e.2 != v) = true then (u.strayStep h true).expel h.hid kept
          else u.newRecord h.hid kept (h.reached kept h.latest.links) h.latest.links))))

/-- (1) COLL.BIND and COLL.SWAP; in an entry of its channel, a descriptor is taken when its producer fence has reached it, and
its units start; messages of the epoch for another member go on their way, those of a channel are accepted in SEQ order and
acknowledged, or wait, and those acknowledged leave the send hold (`12` R288, R289, R292–R301).

(2) A scalar record of this member, once LFID has reached t, or of a child, joins those of its channel, in an entry of it; a
child's waits in the receive buffer outside one (`12` R294, R303). -/
def Obligations.Collectives : Prop :=
  (∀ (s t : State) (c : MbxCall) (ch : Fin 16) (op : Fin 4) (h : Herd) (b : List Byte) (m : CollMsg) (succ : HerdFrom) (seq : W64),
     let a := s.argsOf c
     let u := s.taken
     let w := argAt a 0
     let i := fld w 15 4
     let k := s.coll ch
     let q := k.taken + 1
     (s.Admits c 0x35 [lowMask 17, lowMask 32, allMask, lowMask 16] [(3, fld w 3 0), (0, i)] [i] → w.getLsbD 16 = true →
       s.herd? (argAt a 1).toNat = some h → (s.coll (fld w 3 0)).bound = false → h.chd = (s.ctx i).chd →
       exec (.collBind c) s = .next ((u.updColl (fld w 3 0) fun _ => {
         bound := true, ctx := i, hid := h.hid, qva := (argAt a 2).toNat, pf := fld (argAt a 3) 15 0 }).fillShadow.answers c stOk [])) ∧
     (s.Admits c 0x35 [lowMask 17, lowMask 32, allMask, lowMask 16] [(3, fld w 3 0)] [] → w.getLsbD 16 = false →
       exec (.collBind c) s = .next ((u.updColl (fld w 3 0) fun _ => {}).fillShadow.answers c stOk [])) ∧
     (s.Admits c 0x36 [allMask] [] [] → exec (.collSwap c) s = .next (if w.toNat < s.now.toNat + 1000000 then u.refuses c 0
       else State.answers { u.fillShadow with slotSwap := w.toNat } c stOk [])) ∧
     (s.dev = .ready → s.slotSwap ≠ 0 →
       exec .slotTableSwap s = .next { s with slotTab := s.slotShadow, slotSwap := 0 }) ∧
     (s.collHerd ch = some h → s.slotNow = ch.val → k.prog = [] → k.ag = [] → s.mayWait k.ctx k.pf = true →
       q ≤ (s.fence k.pf).val.toNat → s.readVa 726 k.ctx (k.qva + 64 * (q % 256)) 64 = .ok t b →
       (let d := collDesc q b
        let v := t.updColl ch fun k => { k with taken := q, prog := k.prog ++ [d] }
        let v := if op.val = 0 ∧ v.learn.bound = true ∧ v.learn.ctx = k.ctx then v.updLearn fun l => { l with expDue := false } else v
        let v := if op.val = 3 then v.startSums ch h d else v.startUnits ch h q d.units
        let run := if op = 0 then exec (.expmax ch) s else if op = 1 then exec (.collectiveRsum ch) s
          else if op = 2 then exec (.agather ch) s else exec (.allsum ch) s
        (t.collBad k.ctx d b = true → run = .next (t.lose k.ctx 0x02)) ∧
        (t.collBad k.ctx d b = false → d.op = op.val → d.lrn = false → t.expHeld ch h = false → t.maySignal k.ctx d.fid = true →
          t.meetRoom d = true →
          run = .next ((v.meetWaiting ch h (v.coll ch).rxBuf).collSettle ch h)))) ∧
     (s.msgHerd m = some h → h.phase = .joining → exec (.collectiveMessage m) s = .next (s.joinTake h m)) ∧
     (s.msgHerd m = some h → h.phase ≠ .joining →
       (m.mep ≠ h.rcd.epoch → exec (.collectiveMessage m) s =
         .next (s.updHerd h.hid fun h => { h with staleMsgs := h.staleMsgs + 1 })) ∧
       (m.mep = h.rcd.epoch →
         (h.forWhom m ≠ h.self → exec (.collectiveMessage m) s =
           .next ((s.takeRx (if onColl m then 0 else 4) (collBytes m)).onRoute h (h.forWhom m) m)) ∧
         (h.forWhom m = h.self → onColl m = true → (s.collHerd m.ch).isSome = true →
           (m.seq < Tab.get 0 (s.coll m.ch).rxSeq m.src → exec (.collectiveMessage m) s = .next (s.takeRx 0 (collBytes m))) ∧
           (Tab.get 0 (s.coll m.ch).rxSeq m.src ≤ m.seq →
             (s.isShard m.ch m = true → exec (.collectiveMessage m) s =
               .next (if s.learn.agFull = true ∨ s.holdRoom = false then s else (s.collTake h m).shardUnit m.ch h m)) ∧
             (m.opc = 0x47 → exec (.collectiveMessage m) s =
               .next (if s.learn.agFull = true then s else (s.collTake h m).takeResent m)) ∧
             (m.opc = 0x23 → exec (.collectiveMessage m) s = .next s) ∧
             (m.opc < 0x23 → s.isShard m.ch m = false → s.named m.ch m = none ∨ s.slotNow ≠ m.ch →
               exec (.collectiveMessage m) s =
                 .next (if ((s.coll m.ch).rxBuf.map fun x => (collBytes x).length).sum + (collBytes m).length ≤ 524288 then
                   (s.collTake h m).updColl m.ch fun k => { k with rxBuf := k.rxBuf ++ [m] } else s)))) ∧
         (h.forWhom m = h.self → m.opc = 0x40 → exec (.collectiveMessage m) s = .next (s.answerQuery h m)))) ∧
     ((s.coll ch).bound = true → s.herd? (s.coll ch).hid = some h → succ.epoch.toNat = h.rcd.epoch →
       exec (.collectiveAcknowledgement ch succ seq) s = .next (s.updColl ch fun k =>
         { k with hold := k.hold.filter fun e => e.1 != succ.m.val || decide (seq.toNat < e.2.seq) }))) ∧
  (∀ (s : State) (ch : Fin 16) (src : Fin 4096) (h : Herd) (r own : GateRec) (w : CollMsg),
     let l := s.learn
     s.collHerd ch = some h → l.bound = true → l.ctx = (s.coll ch).ctx → l.t ≠ 0 → l.final = false →
     (s.coll ch).scalHeard.contains src.val = false → s.holdRoom (512 + 130 * h.nodes.length) = true →
     (src.val = h.self → l.ownRecord h = some own →
       exec (.scalarRecord ch src r) s = .next (if s.slotNow = ch.val then s.addRecord ch h h.self own else s)) ∧
     (src.val ≠ h.self →
       (r.epoch ≠ h.rcd.epoch → exec (.scalarRecord ch src r) s =
         .next (s.updHerd h.hid fun h => { h with staleMsgs := h.staleMsgs + 1 })) ∧
       (r.epoch = h.rcd.epoch → r.t = l.t → r.round = l.round → (treeChildren h.rcd h.self).contains src.val = true →
         (let p := fun (m : CollMsg) => m.opc == 0x23 && m.src == src.val && m.step == r.t && m.rnd == r.round
          let m : CollMsg := { opc := 0x23, ch := ch, rnd := r.round, src := src, mep := r.epoch, step := r.t
                               seq := Tab.get 0 (s.coll ch).rxSeq src, lrn := true, data := GateRec.scalarBytes r }
          ((s.coll ch).rxBuf.find? p = none → exec (.scalarRecord ch src r) s = .next (
            if s.slotNow = ch.val then (s.collTake h m).addRecord ch h src r
            else if s.waitRoom ch m = true then (s.collTake h m).updColl ch fun k => { k with rxBuf := k.rxBuf ++ [m] } else s)) ∧
          ((s.coll ch).rxBuf.find? p = some w → s.slotNow = ch.val → exec (.scalarRecord ch src r) s = .next
            ((s.updColl ch fun k => { k with rxBuf := k.rxBuf.erase w }).addRecord ch h src r))))))

/-- (1) CHARTER.LOAD admits an image that passes its six checks and names the first that fails; CHARTER.UNLOAD drops one that
no context runs under; measurements, quotes, nonces and reports are signed (`17` R406–R408, R412, R413, R424).

(2) A key release fills an EPHEM slot and a nonce at KR_BEGIN and an OWNER slot at KR_WRAP, after which the EPHEM slot is
gone; REVOKE invalidates the owner's key and, with KILL, aborts the contexts that may use it; imports and exports are
accepted, and signal their fence as they complete (`17` R414–R418). -/
def Obligations.ChartersAndKeyRelease : Prop :=
  (∀ (s t : State) (c : MbxCall) (image req sig : List Byte) (index : BitVec 8) (chd nonce v : BitVec 256) (first : BitVec 16)
     (owner : Fin 16) (n : Nonce) (x : Charter),
     let a := s.argsOf c
     let u := s.taken
     let d := argDig a 0
     (s.Admits c 0x40 [allMask, allMask] [] [] →
       (let img := padTo (min 16385 (argAt a 1).toNat) (image.take (argAt a 1).toNat)
        ((u.charter? (chDigest img)).isSome = true → exec (.charterLoad c image) s = .next (u.answers c stOk [])) ∧
        (u.charter? (chDigest img) = none →
          (u.charterCheck img = 0 → u.charters.length < 32 → exec (.charterLoad c image) s =
            .next (State.answers { u with charters := s.charters ++
              [{ chd := chDigest img, image := img, exports := s.exportsOf (chDigest img) }] } c stOk [])) ∧
          (u.charterCheck img ≠ 0 → exec (.charterLoad c image) s = .next (u.refuses c (u.charterCheck img)))))) ∧
     (s.Admits c 0x41 [allMask, allMask, allMask, allMask] [] [] → (u.charter? d).isSome = true →
       exec (.charterUnload c) s =
         .next (if (u.ctxs.any fun e => e.2.st != .free && e.2.chd == d) = true then u.answers c stBusy []
         else State.answers { u.keepExports d with charters := s.charters.filter (fun x => x.chd != d)
                                                   stores := s.stores.filter fun x => x.chd != d } c stOk [])) ∧
     (s.dev = .ready →
       exec (.getMeasurements index) s = .next (s.answerSigned (leBytes 1 index.toNat)
         ((if index = 0xFF then [1, 2, 3, 4] else [index.toNat]).flatMap s.measure)) ∧
       exec (.quote chd nonce first) s =
         .next (s.answerSigned (ownerReq 1 (digBytes chd ++ digBytes nonce ++ leBytes 2 first.toNat))
           (vendorHead ++ digBytes chd ++ leBytes 1 (b2n (s.charter? chd).isSome) ++ s.measure 1 ++ s.measure 2 ++ s.measure 3 ++
             ((s.boundFrom chd first.toNat).flatMap s.quoteCtx) ++ digBytes nonce)) ∧
       (s.owners true true = true →
         (s.newNonce chd none = some (v, t) →
           exec (.nonce true chd) s = .next (t.answerSigned (ownerReq 4 (digBytes chd)) (vendorHead ++ digBytes v))) ∧
         (s.useNonce chd nonce = (none, t) →
           exec (.report true chd owner nonce sig) s = .next (t.answerOwner (leBytes 1 relExpired))) ∧
         (s.useNonce chd nonce = (some n, t) → t.charter? chd = some x →
           req = ownerReq 6 (digBytes chd ++ leBytes 1 owner ++ digBytes nonce) →
           exec (.report true chd owner nonce sig) s = .next (
             if chOfl x.image owner 0 = true ∧ ownerSigned x.image owner req sig = true then
               t.answerSigned (req ++ sig) (vendorHead ++
                 ((Tab.keys t.ctxs).filter fun c => t.ctxLive c && (t.ctx c).chd == chd).flatMap fun c =>
                   leBytes 2 c ++ leBytes 2 (t.countersOf c).length ++
                     (t.countersOf c).flatMap fun e => leBytes 4 e.1 ++ leBytes 8 e.2.toNat)
             else t.answerOwner (leBytes 1 relAuth)))))) ∧
  (∀ (s t t2 t3 t4 : State) (c : MbxCall) (chd nonce v : BitVec 256) (keyid : Fin 256) (i j k e st : Nat) (r : BitVec 320) (n : Nonce)
     (x : Charter) (wrapped sig b : List Byte) (kill ok good : Bool) (y : Xfer) (key : BitVec 256) (size cause : Nat),
     let a := s.argsOf c
     let u := s.taken
     let w := argAt a 0
     let m := argCtx a 0
     (s.owners true true = true →
       (s.jobSlot chd = some j → s.emptySlot = some i → s.drawFresh 320 = some (r, t) →
         (let d := sm2scalar r.toNat
          let f := t.fillSlot i { kind := 6, parent := j, use := useUnwrap, dev := true, chd := chd, keyid := keyid } d
          f.newNonce chd (some (i, keyid)) = some (v, t2) →
          exec (.krBegin true chd keyid nonce) s =
            .next (t2.answerSigned (ownerReq 2 (digBytes chd ++ leBytes 1 keyid ++ digBytes nonce))
              (vendorHead ++ ((Config.sm2public d ++ List.replicate 64 0).take 64 ++ digBytes v))))) ∧
       (s.useNonce chd nonce = (none, t) →
         exec (.krWrap true chd keyid nonce wrapped sig) s = .next (t.answerOwner (relAnswer relExpired [])) ∧
         exec (.revoke true chd keyid kill nonce sig) s = .next (t.answerOwner (leBytes 1 relExpired))) ∧
       (s.useNonce chd nonce = (some n, t) → t.charter? chd = some x →
         (n.eph = some (e, keyid.val) → keyid.val < 8 →
           ownerSigned x.image (chOwn x.image keyid) (ownerReq 3 (digBytes chd ++ leBytes 1 keyid ++ digBytes nonce ++ wrapped)) sig = true →
           t.release chd x.image keyid n e wrapped = ((st, b), t2) →
           exec (.krWrap true chd keyid nonce wrapped sig) s = .next ((t2.endRelease n e).answerOwner
             (leBytes 1 st ++ if st = relOk then (digBytes (Config.sm3 (ascii "STRELNO KCV" ++ b))).take 8 else List.replicate 8 0))) ∧
         (keyid.val < 8 →
           ownerSigned x.image (chOwn x.image keyid)
             (ownerReq 5 (digBytes chd ++ leBytes 1 keyid ++ leBytes 1 (b2n kill) ++ digBytes nonce)) sig = true →
           kill = false ∨ chOfl x.image (chOwn x.image keyid) 1 = true →
           (let gone := match t.slotOf 7 chd keyid with | some i => t.invalidate i | none => t
            let mask := leAt x.image (chKey x.image keyid + 4) 4
            let hit := (Tab.keys gone.ctxs).filter fun c => gone.ctxLive c && (gone.ctx c).chd == chd && (match (gone.ctx c).entry with
              | some e => mask.testBit e
              | none => false)
            exec (.revoke true chd keyid kill nonce sig) s =
              .next ((if kill then hit.foldl State.startAbort gone else gone).answerOwner (leBytes 1 relOk)))))) ∧
     (s.Admits c 0x44 [lowMask 36, allMask, allMask, allMask] [(0, m)] [m] → u.mayUse m (fld w 19 12) = true →
       u.outer m (argAt a 1).toNat = true → u.maySignal m (fld w 35 20) = true → (u.ownerKey m (fld w 19 12)).isSome = true →
       (let z : Xfer := { ctx := m, keyid := fld w 19 12, src := (argAt a 1).toNat, dst := (argAt a 2).toNat
                          fid := fld w 35 20, val := argAt a 3 }
        exec (.objImport c) s = .next (State.answers { u with xfers := s.xfers ++ [z] } c stOk []))) ∧
     (s.Admits c 0x45 [lowMask 31, allMask, allMask] [(0, m)] [m] → u.charter? (u.ctx m).chd = some x →
       (u.ctx m).entry = some e → (chExport x.image).1 = 2 → (chExport x.image).2.2.2.1.testBit e = true →
       x.exports < (chExport x.image).2.2.2.2 → u.outer m (argAt a 1).toNat = true → u.maySignal m (fld w 30 15) = true →
       u.readVa 725 m (0x400 + 16 * fld w 14 12) 16 = .ok t b → leAt b 8 8 ≠ 0 → leAt b 0 8 + leAt b 8 8 ≤ 2 ^ 48 →
       (let z : Xfer := { exp := true, ctx := m, keyid := 0xFF, src := leAt b 0 8, dst := (argAt a 1).toNat, len := leAt b 8 8
                          objid := at64 1 63 + w64 x.exports, fid := fld w 30 15, val := argAt a 2 }
        let cs := t.charters.map fun y => if y.chd = x.chd then { y with exports := y.exports + 1 } else y
        exec (.objExport c) s = .next (State.answers { t with charters := cs, xfers := t.xfers ++ [z] } c stOk []))) ∧
     (s.dev = .ready → s.xfers[k]? = some y →
       (let v := { s with xfers := s.xfers.eraseIdx k }
        (y.exp = false → v.ownerKey y.ctx y.keyid = none →
          exec (.objImportComplete k size) s = .next (v.keyRefused.lose y.ctx 0x15)) ∧
        (y.exp = false → v.ownerKey y.ctx y.keyid = some key →
          (v.readVa 747 y.ctx y.src 64 = .lost t cause → exec (.objImportComplete k size) s = .next (t.lose y.ctx cause)) ∧
          (v.readVa 747 y.ctx y.src 64 = .wait t → exec (.objImportComplete k size) s =
            .next { t with xfers := t.xfers.take k ++ [y] ++ t.xfers.drop k }) ∧
          (∀ head o : List Byte, v.readVa 747 y.ctx y.src 64 = .ok t head →
            (objBad (t.ctx y.ctx).chd size head = true →
              exec (.objImportComplete k size) s = .next (t.signal y.fid y.val 2)) ∧
            (objBad (t.ctx y.ctx).chd size head = false → t.readVa 747 y.ctx (y.src + 64) (size - 64) = .ok t2 o →
              t2.writeVa 747 y.ctx y.dst head = .ok t3 () →
              t3.importChunks y.ctx (wrapKey key) head (leAt head 8 8 / 65536 + 1) 0 (leAt head 8 8) (y.dst + 64) o = .ok t4 good →
              exec (.objImportComplete k size) s = .next (t4.signal y.fid y.val (if good then 0 else 2))))) ∧
        (y.exp = true → exec (.objExportComplete k false) s =
          .next ((v.signal y.fid y.val 2).endExports ((v.signal y.fid y.val 2).ctx y.ctx).chd)) ∧
        (y.exp = true → ok = true → ∀ (q : BitVec 128) (bl : List Byte), v.exportKey y (v.charterOf y.ctx) = some ((q, bl), t) →
          t.readVa 747 y.ctx y.src y.len = .ok t2 b →
          (let head := leBytes 8 y.objid.toNat ++ leBytes 8 y.len ++ digBytes (t2.ctx y.ctx).chd ++ leBytes 1 y.keyid ++
             List.replicate 15 0
           t2.writeVa 747 y.ctx y.dst (head ++ bl ++ objChunks q y.objid (head ++ bl) (y.len / 65536 + 1) 0 b) = .ok t3 () →
           exec (.objExportComplete k ok) s =
             .next ((t3.signal y.fid y.val 0).endExports ((t3.signal y.fid y.val 0).ctx y.ctx).chd))))))

/-- KSLOT.QUERY and SEC.STAT read; a sweep of the masks, of orphans and of expired slots; reseeds; a source that fails is
logged; the life cycle is read, retires with a package reset, and advances by the test access port (`15` R373–R383,
`18` R428–R437). -/
def Obligations.KeysAndLifeCycle : Prop :=
  ∀ (s t : State) (c : MbxCall) (i : Fin 64) (die : Fin 13) (n : Fin 8) (perst : Bool) (f : BitVec 8),
    let a := s.argsOf c
    let u := s.taken
    let l := s.lc
    let d := die.val
    (s.Admits c 0x42 [lowMask 6] [] [] →
      exec (.kslotQuery c) s = .next (u.answers c stOk (s.kslot (fld (argAt a 0) 5 0)).words)) ∧
    (s.Admits c 0x43 [] [] [] →
      exec (.secStat c) s = .next (u.answers c stOk [w64 (b2n s.keys.failed), w64 (s.keys.key.reseeds + s.keys.samp.reseeds),
        w64 s.keys.sweeps, w64 s.keys.failedSweeps, w64 s.keys.refusals])) ∧
    (s.keysUp = true → exec .keyRemask s = .next s.remask ∧ exec .remaskRetry s = .next s.remask) ∧
    (s.dev = .ready → exec .remaskStarvation s = .next (s.halt 0x03 10 0)) ∧
    ((s.kslot i).st = .valid →
      exec (.slotSweep i) s = .next (if s.usable 4 i then s else s.invalidate i) ∧
      ((s.kslot i).kind = 6 →
        (let v := s.invalidate i
         let left := v.keys.nonces.filter fun n => match n.eph with | some (j, _) => j != i.val | none => true
         exec (.ephemExpiry i) s = .next { v with keys := { v.keys with nonces := left } }))) ∧
    exec (.drbgReseed true) s = .next { s with keys := { s.keys with samp := s.keys.samp.reseed s.keys.failed } } ∧
    exec (.drbgReseed false) s = .next { s with keys := { s.keys with key := s.keys.key.reseed s.keys.failed } } ∧
    (s.dev ≠ .off → s.dev ≠ .auxOnly → s.keys.failed = false →
      State.free { s with keys := { s.keys with failed := true } } 8 = (f, t) →
      exec .entropyFailure s = .next (t.record { cls := f.toNat, outcome := 1, ukind := 10 })) ∧
    (s.Admits c 0x46 [] [] [] → exec (.lcQuery c) s = .next (u.answers c stOk [s.lc.word])) ∧
    (State.Admits { s with lc := { s.lc with retire := false } } c 0x47 (List.replicate 8 allMask) [] [] →
      lifeSigned (lifeMsg (ascii "STRELNO EOL")) (wordBytes (a.take 8)) = true →
      (s.ctxs.any fun e => e.2.st != .free) = false →
      exec (.lcRetire c) s = .next (({ u with lc := { s.lc.mark 7 with retire := true } } : State).complete c.chan stOk 0 [] |>.packageReset 4)) ∧
    (s.powered = true →
      exec .lcAdvance s = .next (if l.tapOpen 12 = true ∧ l.master = some 1 then { s with lc := { l with advance := true } }
        else { s with lc := { l with tap := Tab.set 0 l.tap 12 0 } }) ∧
      (l.wired d = true →
        (n ≠ 7 → exec (.testAccessPortInstruction die n perst) s = .next { s with lc := { l with
          tap := Tab.set 0 l.tap d (if n ≤ 2 ∨ (l.tapOpen d = true ∧ (n ≠ 6 ∨ d < 8)) ∨ (n = 3 ∧ perst = true) then n.val else 0) } }) ∧
        (l.die d = 0 → l.retiring = false → l.enrolling = false → l.master = some 0 ∨ l.master = some 1 →
          exec (.testAccessPortInstruction die 7 perst) s = .next { s with lc := { l with
            dies := l.dies ||| (1#52 <<< (4 * d)), lcm := if d = 12 then l.lcm ||| 0xFFFF else l.lcm
            code := if d = 12 ∧ l.code = 0 then 1 else l.code } })))

/-- (1) CKPT.STORE binds a store, CKPT.WRITE and SNAP.WRITE queue a write; a write is captured at its step and sent on, flips as
its generation ends, or ends at 300 s; a generation announced under another epoch is dropped and counted (`12` R288); a stream segment that is not whole raises FLOOR (`19` R439, R447–R454).

(2) A restore takes the current generation when it verifies, otherwise the previous one, and completes with NOCKPT when
neither does; a model goes into the learning binding, and a snapshot into the pages, cores and fences of its context
(`19` R455–R457). -/
def Obligations.Checkpoints : Prop :=
  (∀ (s t : State) (c : MbxCall) (g : GenFrom) (b : List Byte) (h : Herd) (x : Store) (w : CkptWrite) (key : BitVec 256) (how : CkptEnd)
     (ok whole : Bool) (n : Nat) (l : List (Nat × Bool)),
     let a := s.argsOf c
     let u := s.taken
     let i := argCtx a 0
     let f := fld (argAt a 0) 28 13
     (s.Admits c 0x50 [lowMask 13, allMask, allMask] [(0, i)] [i] → u.readVa 725 i (argAt a 2).toNat 64 = .ok t b →
       storeOf (t.ctx i).chd (b2n ((argAt a 0).getLsbD 12)) (argAt a 1) b = x →
       exec (.ckptStore c) s = .next (if storeBad x b = true then t.refuses c 0
         else State.answers { t with stores := (t.stores.filter fun y =>
           !(y.chd == x.chd && y.cls == x.cls && y.name == x.name)) ++ [x] } c stOk [])) ∧
     (s.Admits c 0x51 [lowMask 29, allMask, allMask, allMask] [(0, i)] [i] → u.bindHerd = some h → u.learn.ctx = i →
       u.store? (u.ctx i).chd 0 (w64 h.hid) = some x → u.mayCkpt i = true → (argAt a 0).getLsbD 12 = false →
       u.maySignal i f = true → u.ckey i = some key → u.readVa 725 i (argAt a 3).toNat 256 = .ok t b →
       ((extentsOf b).map Prod.snd).sum ≤ 2 ^ 26 →
       (let y : CkptWrite := { ctx := i, cls := 0, name := w64 h.hid, narrow := false, t := (argAt a 1).toNat, fid := f
                               val := argAt a 2, extents := extentsOf b }
        exec (.ckptWrite c) s = .next (State.answers { t with ckpts := t.ckpts ++ [y] } c stOk []))) ∧
     (s.Admits c 0x53 [lowMask 12, allMask] [(0, i)] [i] → u.store? (u.ctx i).chd 1 (argAt a 1) = some x → u.mayCkpt i = true →
       chCkfl (u.charterOf i) 1 = true → u.ckey i = some key → u.snapBusy i = false →
       (let y : CkptWrite := { ctx := i, cls := 1, name := argAt a 1 }
        exec (.snapWrite c) s = .next (State.answers { u with ckpts := u.ckpts ++ [y] } c stOk []))) ∧
     (s.dev = .ready →
       (s.nextWrite = some w → s.store? (s.ctx w.ctx).chd w.cls w.name = some x →
         (w.formed = true → exec (.checkpointCapture g) s = .next (s.sendOn w x)) ∧
         (w.formed = false → s.ckey w.ctx = some key →
           (let next := s.coordWord x 0 % 2 ^ 48 + 1
            (w.cls = 1 → exec (.checkpointCapture g) s = .next ((s.setWrite w { w with g := next }).formSnap { w with g := next } x key)) ∧
            (w.cls ≠ 1 → s.bindHerd = some h →
              (h.rcd.bell ≠ h.self → g.epoch.toNat ≠ h.rcd.epoch →
                exec (.checkpointCapture g) s = .next (s.ofEpoch h g.epoch.toNat id)) ∧
              (h.rcd.bell = h.self ∨ g.epoch.toNat = h.rcd.epoch → s.atCapture w h = true →
                (let w' := { w with g := if h.rcd.bell = h.self then next else g.g.toNat % 2 ^ 48 }
                 exec (.checkpointCapture g) s = .next ((s.setWrite w w').formModel w' x h key))))))) ∧
       (s.ckpts.find? (fun w => w.cls < 2 && w.formed && w.g == g.g.toNat) = some w →
         (how ≠ .ok → exec (.checkpointFlip g how) s = .next (s.endWrite w how)) ∧
         (s.store? (s.ctx w.ctx).chd w.cls w.name = some x → w.reported = true → w.flip = false → s.ckey w.ctx = some key →
           (w.cls = 1 → exec (.checkpointFlip g .ok) s = .next (s.flip w x key none)) ∧
           (w.cls ≠ 1 → s.bindHerd = some h → (h.rcd.bell = h.self → (h.digests.any fun d => d.1 == h.self) = false) →
             exec (.checkpointFlip g .ok) s = .next (if h.rcd.bell = h.self then s.flip w x key (some h)
               else if g.epoch.toNat = h.rcd.epoch then (s.knowCoord x.node x.coord w.g).endWrite w .ok
               else s.ofEpoch h g.epoch.toNat id)))) ∧
       (s.ckpts.find? (fun w => w.cls == 0 && w.s.isSome) = some w → exec .checkpointTimeout s = .next (s.endWrite w .timeout)) ∧
       (s.bindHerd = some h →
         (s.ckpts.find? (fun w => w.cls == 2) = some w → s.store? h.chd 0 (w64 h.hid) = some x →
           exec (.streamSegment ok) s = .next (if ok then s.sendOn w x else s.endWrite w .store)) ∧
         (s.ckpts.find? (fun w => w.cls == 2) = none → s.store? h.chd 0 (w64 h.hid) = some x → s.learn.segDue = (n, whole) :: l →
           ok = false ∨ whole = false → exec (.streamSegment ok) s = .next
             (State.raiseFloor { s with learn := { s.learn with segDue := l }, dstream := s.dstream.filter fun e => e.1 != n } x s.learn.ctx n))))) ∧
  (∀ (s t t' : State) (c : MbxCall) (r : RestoreIn) (b : Scb) (g : List Group) (n : Nat) (chain key : BitVec 256) (plain : List Byte)
     (das : List Nat) (x : Store),
     let a := s.argsOf c
     let u := s.taken
     let i := argCtx a 0
     (s.Admits c 0x52 [lowMask 24] [(0, i)] [i] → u.learn.bound = true → u.learn.ctx = i → u.learn.committed = true →
       u.ckey i = some key → u.readScb = (some (b, g), t) → t.ckey i = some key →
       (t.stores.any fun x => x.chd == (t.ctx i).chd && x.cls == 0) = true →
       (restoreChoice r = none → t.bindHerd = none → exec (.ckptRestore c r) s = .next (t.answers c stNockpt [])) ∧
       (restoreChoice r = some (n, chain, plain) →
         (let v := t.updLearn fun l => { l with scb := b, groups := g }
          leAt plain 16 8 = v.learn.params → leAt plain 24 8 = g.length → v.putModel n chain plain r.memberRec = .ok t' () →
          exec (.ckptRestore c r) s = .next (t'.answers c stOk [])))) ∧
     (s.Admits c 0x54 [lowMask 12, allMask] [(0, i)] [i] → (u.ctx i).st = .resident → (u.ctx i).entry.isSome = true →
       ((u.ctxCores i).any fun n => (u.core n).run == .running) = false → u.ckey i = some key →
       u.store? (u.ctx i).chd 1 (argAt a 1) = some x →
       (restoreChoice r = none → exec (.snapRestore c r) s = .next (u.answers c stNockpt [])) ∧
       (restoreChoice r = some (n, chain, plain) → snapWord plain 12 ≤ (u.ctxCores i).length →
         ((snapFences plain).any fun f => (u.fence f.1).v) = false → (snapKv plain).v = false →
         ((snapLeaves plain).any fun l => u.mapped i (l.2.testBit 0) l.1) = false →
         State.mapPages i (snapLeaves plain) none (u.updCtx i fun k => k.fromSnap plain) = some (das, t) →
         exec (.snapRestore c r) s = .next ((t.putSnap i plain das).answers c stOk []))))

/-- A start runs from the ROM's step 1 and stops at boot hold when its time ends; an image in memory is checked and written;
FW.REVOKE revokes a key, and never the last one; calibration values within their bounds are sealed, and read back
(`22` R498–R510). -/
def Obligations.StartUp : Prop :=
  ∀ (s t : State) (c : MbxCall) (i : StartIn) (x : ImageIn) (ends : Bool) (v : W64),
    let a := s.argsOf c
    let u := s.taken
    let w := argAt a 0
    let item := fld w 3 0
    let lane := fld w 15 4
    let r := u.boot.revoked ||| BitVec.ofNat 4 (2 ^ fld w 1 0)
    (s.dev = .starting →
      exec (.start i) s = .next (s.startUp i) ∧
      (s.lc.master ≠ some 0 → s.lc.master ≠ some 1 → exec .startTimerExpiry s = .next (s.bootHold 0x0A))) ∧
    (s.ras.yorekHeld = false → s.dev = .bootHold → s.boot.recov = true →
      (s.boot.checkIn x true ≠ 0 → exec (.imageWrite x ends) s = .next (pldmReply s 1)) ∧
      (s.boot.checkIn x true = 0 →
        exec (.imageWrite x false) s = .next { s with boot := { s.boot with writing := true } } ∧
        (let b := { s.boot with writing := false, imgKey := x.key, imgSvn := x.svn.toNat, imgFwm := x.fwm
                                imgCause := if x.romOk then 0 else 3 }
         exec (.imageWrite x true) s = .next (pldmReply { s with boot := b, dev := .starting, pcie := { s.pcie with agent := none } } 0)))) ∧
    (s.Admits c 0x48 (lowMask 2 :: List.replicate 8 allMask) [] [] →
      (let good := lifeSigned (lifeMsg (BitVec.ofNat 8 (fld w 1 0) :: ascii "STRELNO REVOKE")) (wordBytes ((a.drop 1).take 8))
       (good = false → exec (.fwRevoke c) s = .next (u.answers c stAuth [])) ∧
       (good = true → exec (.fwRevoke c) s = .next (if r = 15 then u.answers c stBusy []
         else State.answers { u with boot := { u.boot with revoked := r } } c stOk [])))) ∧
    (s.Admits c 0x49 [lowMask 16, allMask] [] [] → calBad a = false → u.boot.writing = false →
      (calFits item lane (argAt a 1) = false → exec (.calWrite c) s = .next (u.refuses c 0)) ∧
      (calFits item lane (argAt a 1) = true →
        (let b := { u.boot with
           cal := (2 ^ 12 * item + lane, argAt a 1) :: u.boot.cal.filter fun e => e.1 != 2 ^ 12 * item + lane }
         let p := if item = 2 then { u.pw with capNext := some (argAt a 1).toNat } else u.pw
         exec (.calWrite c) s = .next ((State.sealTo { u with boot := b, pw := p } 1 b.calBytes).answers c stOk [])))) ∧
    (s.Admits c 0x4A [lowMask 16] [] [] → calBad a = false →
      (u.boot.user item lane = some v → exec (.calRead c) s = .next (u.answers c stOk [v, Config.factoryCal item lane])) ∧
      (u.boot.user item lane = none → u.free 64 = (v, t) →
        exec (.calRead c) s = .next (t.answers c stOk [v, Config.factoryCal item lane]))) ∧
    (s.dev = .ready → s.boot.sealDue = true → s.boot.writing = false →
      (let z : State := { s with boot := { s.boot with train := some (s.boot.fwm, s.boot.rate), sealDue := false } }
       exec .trainingRecordSeal s = .next (z.sealTo 0 z.trainBytes)))

/-- FIELDTEST stops every core unless a step is open, and completes with the units that fail; a pair that differs loses its
context with cause 0x18; UNIT.RESET completes when its unit is ready (`20` R470–R474, `21` R479). -/
def Obligations.FieldTests : Prop :=
  ∀ (s : State) (c : MbxCall) (hung : List (Nat × Nat)) (fails : List FailRec) (members : List Nat) (core : Fin 512)
    (field : BitVec 64) (k : Nat),
    let a := s.argsOf c
    let u := s.taken
    let w := argAt a 0
    let n := core.val / 2 * 2
    (s.Admits c 0x55 [] [] [] →
      (u.ras.fieldTest ≠ 0 → exec (.fieldtest c) s = .next (u.waits c .fieldtest [])) ∧
      (u.ras.fieldTest = 0 → u.stepUnheld = true → exec (.fieldtest c) s = .next (u.answers c stBusy [])) ∧
      (u.ras.fieldTest = 0 → u.stepUnheld = false → exec (.fieldtest c) s = .next ((u.fieldTestBegin none).waits c .fieldtest []))) ∧
    (s.Admits c 0x56 [lowMask 12] [] [] → fld w 2 0 ≤ 3 → u.unitFitted (fld w 2 0) (fld w 11 3) = true →
      exec (.unitReset c) s = .next ((u.resetUnit (fld w 2 0) (fld w 11 3)).waits c (.unit (fld w 2 0) (fld w 11 3)) [])) ∧
    (s.ras.fieldTest ≠ 0 →
      exec (.fieldtestLimit hung) s = .next { s with ras := { s.ras with ftFail := s.ras.ftFail ++ hung } } ∧
      (let v := (firstFails fails).foldl (fun s f => s.record (failSig f)) s
       let all := v.ras.ftFail ++ fails.map fun f => (f.ukind, f.uidx)
       v.ras.ftHerd = none → exec (.fieldTestComplete fails members) s =
         .next (State.completeAll { v with ras := { v.ras with fieldTest := 0, ftFail := all, ftHerd := none } }
           (fun w => w == MbxWait.fieldtest) stOk (fieldResult all)))) ∧
    (s.coreCtx n = some k → (s.cluster (n / 8)).red = true → s.dev = .ready → s.resident k = true →
      exec (.redundancyMismatch core field) s = .next ((s.lose k 0x18 (some n) (s.core n).pc).record
        { cls := 0x0A, outcome := 2, ukind := 0, uidx := n, ctx := k, cause := 0x18
          synd := BitVec.ofNat 128 ((n + 1) * 2 ^ 64 + field.toNat) }))

/-- (1) A packet that can start begins its operation, and completes once its work is done; one that fails a check loses its context
with cause 0x13, and one that takes too long with 0x14 (`14` R350–R354).

(2) A TAIL that goes past the ring loses the context, one that does not advance is ignored and counted, and one that advances
is taken; FSIGV signals a fence that the host may signal; EVHEAD returns space; a vector sends its message or records it
(`14` R351, R356, R359, R360, `13` R333). -/
def Obligations.PacketsAndDoorbells : Prop :=
  (∀ (s t : State) (p : Pkt) (c : Nat) (x : Packet) (slot : Fin 48) (queue : Fin 16) (i : Fin 4),
     let w := p.w
     let q := (s.ctx c).queue p.queue
     let ns := s.maskCores (argAt w 7)
     (s.Starts p c 0 [4, 5, 6, 7] →
       (let u := s.begin c p.queue 0 w []
        ((u.ctx c).queue p.queue).prog[q.prog.length]? = some x → exec (.nop p) s = .next (u.packetDone c p.queue q.prog.length x))) ∧
     (s.Starts p c 1 [] → s.maskBad c (argAt w 7) = false → (ns.any fun n => (s.core n).run == .running) = false →
       (argAt w 4).toNat < 2 ^ 48 → s.confidential c = false ∨ s.entryPoint c (argAt w 4) = true →
       exec (.launch p) s = .next ((ns.foldl (fun s n => s.updCore n fun k => k.launch w) s).begin c p.queue 1 w ns)) ∧
     (s.Starts p c 2 [4, 5, 6] → s.maskBad c (argAt w 7) = false →
       exec (.stop p) s = .next ((ns.foldl (fun s n => if (s.core n).run = .running then
         (s.updCore n fun k => { k with stopReq := true }).tryStop n else s) s).begin c p.queue 2 w ns)) ∧
     (s.Starts p c 3 [7] → (argAt w 4).toNat % 64 = 0 → (argAt w 5).toNat % 64 = 0 → (argAt w 6).toNat % 64 = 0 →
       exec (.copy p) s = .next (s.begin c p.queue 3 w [])) ∧
     (s.Starts p c 4 [5, 6, 7] → (argAt w 4).toNat % 8 = 0 → exec (.stamp p) s = .next (s.begin c p.queue 4 w [])) ∧
     (s.slotCtx slot = some c → s.dev = .ready →
       (s.resident c = true → ((s.ctx c).queue queue).prog[i.val]? = some x →
         (x.opc = 2 → (x.cores.foldl State.tryStop s).packetEnd c x = some (.ok t ()) →
           exec (.packetComplete slot queue i) s = .next (t.packetDone c queue i x)) ∧
         (x.opc ≠ 2 → s.packetEnd c x = some (.ok t ()) →
           exec (.packetComplete slot queue i) s = .next (t.packetDone c queue i x)) ∧
         (x.opc ≠ 2 → s.packetEnd c x = none → exec (.packetComplete slot queue i) s = .next s)) ∧
       (((s.ctx c).queue queue).v = true → ((s.ctx c).queue queue).qto ≠ 0 → ((s.ctx c).queue queue).since.isSome = true →
         exec (.queueTimeout slot queue) s = .next (s.lose c 0x14)))) ∧
  (∀ (s : State) (c : Nat) (slot : Fin 48) (queue : Fin 16) (val : W64) (v : Fin 2048),
     let q := (s.ctx c).queue queue
     let n := BitVec.ofNat 32 val.toNat
     let e := Tab.get {} s.pcie.msix v
     (s.slotCtx slot = some c → s.dev = .ready → s.resident c = true →
       (val.toNat < 2 ^ 32 →
         (q.v = false → exec (.tail slot queue 8 val) s = .next (s.lose c 0x13)) ∧
         (q.v = true → n = q.tail → exec (.tail slot queue 8 val) s = .next (s.ignoredWrite c)) ∧
         (q.v = true → n ≠ q.tail → 2 ^ q.qlog < (n - q.head).toNat → exec (.tail slot queue 8 val) s = .next (s.lose c 0x13)) ∧
         (q.v = true → n ≠ q.tail → (q.tail - q.head).toNat ≤ (n - q.head).toNat → (n - q.head).toNat ≤ 2 ^ q.qlog →
           exec (.tail slot queue 8 val) s = .next (s.updCtx c fun k => k.updQueue queue fun q => { q with
             tail := n, since := if q.since.isNone then some s.now else q.since })) ∧
         (let r := { (s.ctx c).ring with head := n }
          exec (.evhead slot 8 val) s = .next (s.putRing c r (r.flush s.hostMem (evRec (s.ctx c).dcookie c 4 0 s.now))))) ∧
       exec (.fsigv slot 8 val) s = .next (if s.hostSignal c (s.ctx c).fid then s.signal (s.ctx c).fid val (s.ctx c).fstat
         else s.ignoredWrite c)) ∧
     (e.due = true ∨ e.pend = true → s.dev ≠ .sentinel ∨ v.val < 16 →
       (let sent := s.pcie.msixEn = true ∧ s.pcie.msixMask = false ∧ e.unmasked = true
        (sent → exec (.msixMessage v) s = .next { s with pcie := { s.pcie with
          msix := Tab.set {} s.pcie.msix v { e with due := false, pend := false }, sentMsgs := v :: s.pcie.sentMsgs } }) ∧
        (¬ sent → exec (.msixMessage v) s = .next { s with pcie := { s.pcie with
          msix := Tab.set {} s.pcie.msix v { e with due := false, pend := true } } }))))

/-- The master sends beacons, and a member takes and forwards those of its domain; questions and answers carry the
stamps of the port, and an exchange with the parent corrects the count; a silent master, an expired holdover and 100 ms without lock end what they must; the pins and PTM (`12` R305–R310,
`13` R336). -/
def Obligations.Tether : Prop :=
  ∀ (s : State) (b : Beacon) (h : Herd) (port : Fin 16) (t1 t2 t3 : Nat) (asym : Int) (host : W64),
    let t := s.tet
    (s.dev = .ready →
      (s.masterHerd = some h → exec (.tetherBeacon none) s =
        .next (s.becomeMaster.beaconOut none (beaconBytes s.becomeMaster.tet.domain s.becomeMaster.node h.hid 0))) ∧
      ((s.port b.port).st = .up → b.tdom.toNat = t.domain →
        t.mast = false ∨ s.masterHerd = none ∨ (s.masterHerd = some h ∧ b.hid.toNat < h.hid) →
        exec (.tetherBeacon (some b)) s = .next (s.heedBeacon b)) ∧
      ((s.port port).st = .up →
        exec (.timeExchange .answer port t2 t3 asym) s = .next (s.sendMsg port 5 false (answerBytes (s.port port).tIn 0)) ∧
        (t.mast = false → t.hasParent = true → t.pport = port.val →
          exec (.timeExchange .ask port t2 t3 asym) s = .next (s.sendMsg port 5 false (wordBytes [0])) ∧
          ((s.port port).tAsk = some t1 → exec (.timeExchange .done port t2 t3 asym) s =
            .next ((s.updPort port fun k => { k with tAsk := none }).exchange
              ((((t2 : Int) - t1) - (((s.port port).tIn : Int) - t3)) / 2 - (Config.portAsym port).toInt))))) ∧
      (t.st = .holdover → exec .holdoverExpiry s = .next { s with tet := { t with st := .unlocked, good := 0 } }) ∧
      (t.mast = false → t.best.isSome = true →
        (let u := { s with tet := { t with best := none, hasParent := false, st := if t.st = .locked then .holdover else t.st } }
         exec .masterLoss s = .next (if (u.tet.st = .locked ∨ u.tet.st = .holdover) ∧ u.masterHerd.isSome = true then u.becomeMaster
           else u))) ∧
      (t.st ≠ .locked → t.st ≠ .holdover → exec .unlockedWithdrawal s =
        .next (((s.herds.filter Herd.runs).map (·.hid)).foldl State.quitHerd s)) ∧
      (t.mast = true →
        (t.phi = none → exec (.syncIn true) s = .next { s with tet := { t with phi := some (s.now.toNat % 1000000000) } }) ∧
        exec (.syncIn false) s = .next s ∧
        exec .syncInMissing s = .next { s with tet := { t with syncMiss := t.syncMiss + 1, slew := 0 } }) ∧
      (s.pcie.up = true → s.pcie.ptmEn = true →
        exec (.ptmDialog true host) s = .next { s with tet := { t with ptmH := host, ptmT := s.now } } ∧
        exec (.ptmDialog false host) s = .next { s with pcie := { s.pcie with ptmFail := s.pcie.ptmFail + 1 } })) ∧
    exec .syncOut s = .next { s with tet := { t with
      syncOut := s.dev == .ready && (t.st == .locked || t.st == .holdover) && s.now.toNat % 1000000000 < 1000 } }

/-- Configuration requests are answered once a start has ended; a read of more than 64 B of BAR0 is a Completer Abort, and an
access to its registers or to BAR2 has the effect of their access codes; FVAL of a doorbell page reads the fence that the context
may wait on; the aperture is checked at its target as initiator 724, and a read of it that waits has no completion yet; the last
completion of a request ends it, an earlier one that ends at 64 B fills its part, and one on an Insecure stream is dropped
(`13` R323–R331, R339, `00` R8, R9, `14` R351, R359). -/
def Obligations.PcieRequests : Prop :=
  ∀ (s : State) (write : Bool) (off : BitVec 12) (be : BitVec 4) (val : BitVec 32) (o : BitVec 26) (o2 : BitVec 24) (oa : BitVec 36)
    (len : Nat) (data : List Byte) (v : W64) (size : Fin 9) (p : Fin 16) (tag : BitVec 14) (st : CplStatus) (r : HostReq) (t : State)
    (c base : Nat),
    let d := off.toNat / 4 * 4
    let n := o.toNat
    let u := s.answered 0 0 []
    (s.powered = true → s.pcie.rrs = true →
      exec (.configurationRequest write off be val) s = .next (s.answered 3 0 [])) ∧
    (s.powered = true → s.pcie.rrs = false →
      exec (.configurationRequest true off be val) s = .next ((s.cfgWrite d be val).answered 0 0 []) ∧
      exec (.configurationRequest false off be val) s = .next (s.answered 0 (w64 (s.cfgRead d)) [])) ∧
    (s.barsUp = true →
      exec (.bar0Access true o len data) s = .next (u.writeUnits n data (unitsOf n data.length)) ∧
      (64 < len → exec (.bar0Access false o len data) s = .next ((u.pcieError 0x8000 0).answered 2 0 [])) ∧
      (len ≤ 64 → exec (.bar0Access false o len data) s =
        .next ((u.readUnits n len (unitsOf n len)).2.answered 0 (w64 (leNat ((u.readUnits n len (unitsOf n len)).1.take 8)))
          (u.readUnits n len (unitsOf n len)).1)) ∧
      ((blkAt n).1.counted = true → (blkAt n).2 = 0 → exec (.counterClr o v) s = .next (u.unitWrite n v)) ∧
      exec (.dumpack v) s = .next (u.unitWrite 0x220010 v) ∧
      exec (.portCfgWrite p v) s = .next (u.unitWrite (regPort p + 0x18) v) ∧
      exec .logData s = .next ((u.unitRead 0x220030).2.answered 0 (u.unitRead 0x220030).1 (leBytes 8 (u.unitRead 0x220030).1.toNat)) ∧
      exec .tetherNsRead s = .next ((u.unitRead 0x30008).2.answered 0 (u.unitRead 0x30008).1 (leBytes 8 (u.unitRead 0x30008).1.toNat)) ∧
      exec .ptmhRead s = .next ((u.unitRead 0x30030).2.answered 0 (u.unitRead 0x30030).1 (leBytes 8 (u.unitRead 0x30030).1.toNat)) ∧
      exec (.badRegisterAccess false o len) s = .next (u.bar0Read n len) ∧
      exec (.badRegisterAccess true o len) s = .next ((unitsOf n len).foldl (fun s i => s.badUnit n len i) u) ∧
      (n % 8 ≠ 0 → s.silent (8 * (n / 8)) true = false → s.silent (8 * (n / 8) + 8) true = false →
        exec (.badRegisterAccess true o 8) s = .next u.badAcc.badAcc) ∧
      (n % 8 = 0 → s.silent n true = false → s.reg? n = none → exec (.badRegisterAccess true o 8) s = .next u.badAcc) ∧
      (n % 8 = 0 → exec (.registerWrite false o 8 v) s = .next (u.unitWrite n v)) ∧
      (inMsix n = false → n < 0x300000 → s.reduced = false →
        exec (.registerWrite true o size v) s = .next (u.pageWrite (n / 0x10000) (n % 0x10000) size v)) ∧
      (inMsix o2.toNat = true → exec (.msixTableAccess write o2 len v) s = .next (u.msixAccess write o2.toNat len v)) ∧
      (0x300000 ≤ o2.toNat → inMsix o2.toNat = false →
        exec (.bar2ReservedAccess true o2 len) s = .next u.badAcc ∧
        exec (.bar2ReservedAccess false o2 len) s = .next (u.answered 0 0 (List.replicate len 0))) ∧
      (o2.toNat < 0x300000 → inMsix o2.toNat = false →
        exec (.bar2ReservedAccess false o2 len) s = .next (u.pageRead (o2.toNat / 0x10000) (o2.toNat % 0x10000) len) ∧
        (o2.toNat % 0x10000 = 0x110 → s.slotCtx (o2.toNat / 0x10000) = some c → s.mayWait c (s.ctx c).fid = true →
          exec (.bar2ReservedAccess false o2 8) s =
            .next (u.answered 0 (s.fence (s.ctx c).fid).val (leBytes 8 (s.fence (s.ctx c).fid).val.toNat)))) ∧
      (s.reduced = false → Tab.get none s.aperture (oa.toNat / 2 ^ 30) = none →
        (let x := State.apertureFail { u with resp := [] } (oa.toNat / 2 ^ 30) (oa.toNat % 2 ^ 30)
         exec (.apertureAccess true oa len data) s = .next x)) ∧
      (s.reduced = false → Tab.get none s.aperture (oa.toNat / 2 ^ 30) = some (c, base) →
        (let q := fun (wr : Bool) => ({ init := 724, ctx := c, da := base + oa.toNat % 2 ^ 30, write := wr, len := len
                                        data := data, acts := c } : MemReq)
         let x := ({ u with resp := [] } : State).atTarget { req := q false } .clean u.retry.length
         (State.atTarget { u with resp := [] } { req := q true } .clean u.retry.length = t →
           exec (.apertureAccess true oa len data) s = .next t) ∧
         (s.retry.length < x.retry.length → exec (.apertureAccess false oa len data) s = .next x) ∧
         (x.retry.length ≤ s.retry.length → x.resp.length = len →
           exec (.apertureAccess false oa len data) s = .next (x.answered 0 (w64 (leNat (x.resp.take 8))) x.resp)) ∧
         (x.retry.length ≤ s.retry.length → x.resp.length ≠ len →
           (let b := List.replicate len 0xFF
            exec (.apertureAccess false oa len data) s = .next (x.answered 0 (w64 (leNat (b.take 8))) b)))))) ∧
    (s.powered = true →
      (s.pcie.reqs.find? (fun r => r.tag == tag.toNat) = none →
        exec (.completion tag st data) s = .next (s.pcieError 0x10000 aerAdvisory)) ∧
      (s.pcie.reqs.find? (fun r => r.tag == tag.toNat) = some r →
        (s.ideDrops r = true → exec (.completion tag st data) s = .next s) ∧
        (s.ideDrops r = false →
          (let n := r.recv + data.length
           let x : State := if r.dead then s else { s with hostMem := putBytes s.hostMem (r.host + r.recv) data }
           (st = .ok → data ≠ [] → n = r.len → exec (.completion tag st data) s =
             .next (if r.dead then s.dropReq r.tag else x.hostDone r)) ∧
           (st = .ok → data ≠ [] → n < r.len → (r.host + n) % 64 = 0 → exec (.completion tag st data) s =
             .next { x with pcie := { x.pcie with reqs := x.pcie.reqs.map fun y => if y = r then { r with recv := n } else y } }) ∧
           (st = .ok → data = [] ∨ r.len < n ∨ (n < r.len ∧ (r.host + n) % 64 ≠ 0) →
             exec (.completion tag st data) s = .next (s.hostError r 4 0x40000)) ∧
           (st ≠ .ok → exec (.completion tag st data) s = .next (s.hostError r (cplKind st).1 (cplKind st).2)))))) ∧
    (s.pcie.reqs.find? (fun r => r.tag == tag.toNat) = some r →
      exec (.completionTimeout tag) s = .next (s.hostError r 3 0x4000))

/-- (1) PERST, a hot reset and DL_Down are package resets of causes 1 to 3, a short PERST is counted, and a link comes up at its
speed and width (`13` R319, R321, R335).

(2) DOE discovery and SPDM answers, one object at a time, sessions up to four for each transport, IDE keys and failures, MCTP
control, PLDM sensors and types, and the one update agent (`13` R337–R343; log 36). -/
def Obligations.PcieEventsAndManagement : Prop :=
  (∀ (s : State) (speed : Fin 7) (width : Fin 17) (flit : Bool), s.powered = true →
     exec (.perst false) s = .next { s with ras := { s.ras with perstShort := s.ras.perstShort + 1 } } ∧
     (s.dev ≠ .starting → exec (.perst true) s = .next (s.packageReset 1)) ∧
     (s.dev = .starting → exec (.perst true) s = .next s) ∧
     exec .hotReset s = .next (s.packageReset 2) ∧
     exec .dlDown s = .next (s.packageReset 3) ∧
     (speed ≠ 0 → width = 1 ∨ width = 4 ∨ width = 8 ∨ width = 16 →
       (let u : State := { s with pcie := { s.pcie with
          up := true, speed := speed, width := width, flit := flit || speed == 6, l0pw := width } }
        let same := s.pcie.narrows speed width (flit || speed == 6)
        (same = true → exec (.pcieLinkUp speed width flit) s = .next { s with pcie := { s.pcie with l0pw := width } }) ∧
        (same = false → exec (.pcieLinkUp speed width flit) s =
          .next (if u.dev = .ready ∧ u.pcie.degraded = true then u.linkEvent 0xFF else u))))) ∧
  (∀ (s t : State) (object peer : List Byte) (doe pcie set : Bool) (d : BitVec 256) (i : Fin 4) (eid : BitVec 8) (mtu : Nat)
     (n : Fin 256) (v : W64) (a : Nat) (proto : BitVec 8) (x : BitVec 8 × List Byte) (l : List (BitVec 8 × List Byte))
     (ad : BitVec 7),
     (s.agentsUp = true → object.length ≤ 65536 →
       (s.pcie.doeWait = [] →
         exec (.doeObject 0 object) s = .next (s.answerWith (doeDiscovery (object.getD 0 0).toNat)) ∧
         exec (.doeObject 1 object) s = .next (s.spdmAnswer object) ∧
         exec (.doeObject 2 object) s = .next (s.securedAnswer object)) ∧
       (s.pcie.doeWait = x :: l →
         (x ≠ (proto, object) → exec (.doeObject proto object) s =
           .next { s with pcie := { s.pcie with doeWait := s.pcie.doeWait ++ [(proto, object)] } }) ∧
         (x = (proto, object) → State.doeServe { s with pcie := { s.pcie with doeWait := l, resp := [] } } proto object = t →
           exec (.doeObject proto object) s = .next { t with pcie := t.pcie.doeReply proto }))) ∧
     (s.agentsUp = true →
       (4 ≤ (s.sessionsOf doe).length → exec (.keyExchange doe peer) s = .next (s.answerWith (spdmError 0x0A))) ∧
       ((s.sessionsOf doe).length < 4 → Config.sm2point peer = true → s.drawKey 256 = some (d, t) →
         (let k := ((List.range 4).find? fun i => !((t.sessionsOf doe).map (·.id)).contains i).getD 0
          exec (.keyExchange doe peer) s = .next (State.answerWith { t with pcie := { t.pcie with
            sessions := t.pcie.sessions ++ [{ id := k, doe := doe, secret := Config.sm2agree d peer }] } }
              ([0x13, 0x64, 0, 0] ++ leBytes 2 k ++ Config.sm2public d)))) ∧
       (s.pcie.sessions ≠ [] →
         ((s.ideOf i).loaded set = true → exec (.kSetGo true i set) s = .next (s.updIde i fun k =>
           { k with secure := true, insecure := false, keyset := b2n set, gos := k.gos + 1 })) ∧
         ((s.ideOf i).loaded set = false → exec (.kSetGo true i set) s = .next s))) ∧
     ((s.ideOf i).secure = true → exec (.ideFailure i) s = .next ((s.updIde i fun k =>
       { k with secure := false, insecure := true, fails := k.fails + 1 }).devEvent 0x43 (w64 i))) ∧
     (s.bindingUp false = true → s.pcie.i3cAddr = none → s.free 7 = (ad, t) →
       exec (.mctpControl false 2 eid 0) s = .next (State.answerWith { t with pcie := { t.pcie with i3cAddr := some ad } }
         [0, BitVec.ofNat 8 (Tab.get 0 t.pcie.eid 0), 0, 0])) ∧
     (s.bindingUp pcie = true → pcie = true ∨ s.pcie.i3cAddr.isSome = true →
       (eid ≠ 0 → eid ≠ 0xFF → exec (.mctpControl pcie 1 eid 0) s = .next (State.answerWith
         { s with pcie := { s.pcie with eid := Tab.set 0 s.pcie.eid (b2n pcie) eid.toNat } } [0, 0, eid, 0])) ∧
       (mtu ≠ 0 → exec (.mctpControl pcie 4 eid mtu) s = .next (State.answerWith { s with pcie := { s.pcie with
         mtu := Tab.set 64 s.pcie.mtu (b2n pcie) (max 64 (min mtu (if pcie then 1024 else 256))) } } [0, 1, 0xF1, 0xF3, 0xFF, 0])) ∧
       (s.dev ≠ .auxOnly → s.dev ≠ .starting → s.sensor n = some (v, t) →
         exec (.pldmSensor pcie 2 n) s = .next (State.answerWith { t with pcie := { t.pcie with rdata := v } }
           (0 :: leBytes 8 v.toNat))) ∧
       exec (.pldmSensor pcie 1 n) s = .next (s.answerWith [0x20]) ∧
       (s.dev = .ready →
         exec (.pldmSensor pcie 0 4) s = .next (s.answerWith (0 :: leBytes 8 0x25)) ∧
         exec (.pldmSensor pcie 5 0x10) s = .next (s.requestUpdate pcie) ∧
         (s.pcie.agent = some (b2n pcie) → exec (.pldmSensor pcie 5 0x1D) s =
           .next (State.answerWith { s with pcie := { s.pcie with agent := none } } (List.replicate 10 0))) ∧
         (s.pcie.agent = none → exec (.requestUpdate pcie) s =
           .next (State.answerWith { s with pcie := { s.pcie with agent := some (b2n pcie) } } [0])) ∧
         (s.pcie.agent = some a → exec (.requestUpdate pcie) s = .next (s.answerWith [0x81])))) ∧
     exec .updateAgentIdle s = .next { s with pcie := { s.pcie with agent := none } })

/-- A unit's reset begins, is escalated when it does not end, and a unit that is ready leaves it; a hang is a reset or loses
the context with cause 0x0C (`21` R479–R492). -/
def Obligations.UnitResets : Prop :=
  ∀ (s : State) (core : Fin 512) (cluster : Fin 64) (die : Fin 8) (m : Fin 4) (kind : Fin 4) (i : Fin 512) (e : Fin 5) (j : Fin 192)
    (c : Nat) (f : BitVec 8) (t : State),
    exec (.coreReset core) s = .next (s.resetUnit 0 core) ∧
    exec (.clusterReset cluster) s = .next (s.resetUnit 1 cluster) ∧
    exec (.cdieReset die) s = .next (s.resetUnit 2 die) ∧
    exec (.mdieReset m) s = .next (s.resetUnit 3 m) ∧
    (s.dev = .ready → s.unitFitted 1 cluster = true → s.resetting 1 cluster = false →
      (let u := (s.resetLoses 1 cluster).foldl (fun s c => s.lose c 0x1A) s
       exec (.clusterReset cluster) s = .next (State.clearCluster { u with ras := { u.ras with
         resets := u.ras.resets ++ [⟨1, cluster, true⟩], unitCnt := min 65535 (u.ras.unitCnt + 1) } } cluster))) ∧
    exec (.resetFenceExpiry kind i) s = .next { s with ras := { s.ras with resets := s.ras.resets.map fun r =>
      if r.kind = kind.val ∧ r.idx = i.val then { r with fence := false } else r } } ∧
    (s.resetting kind i = true →
      (kind ≠ 3 → exec (.unitReady kind i) s = .next (State.completeAll { s with ras := { s.ras with
        resets := s.ras.resets.filter fun r => !(r.kind == kind.val && r.idx == i.val) } } (fun w => w == .unit kind i) stOk [])) ∧
      (s.free 8 = (f, t) →
        (kind = 2 → exec (.resetEscalation kind i) s =
          .next ((t.record { cls := f.toNat, outcome := 2, ukind := 4, uidx := i }).halt 0x03 4 i)) ∧
        (kind = 3 → exec (.resetEscalation kind i) s =
          .next ((t.record { cls := f.toNat, outcome := 2, ukind := 11, uidx := i }).halt 0x03 11 i)) ∧
        (kind = 0 →
          (let u := t.record { cls := f.toNat, outcome := 2, ukind := 0, uidx := i }
           exec (.resetEscalation kind i) s = .next (State.resetUnit { u with ras := { u.ras with
             resets := u.ras.resets.filter fun r => !(r.kind == 0 && r.idx == i.val) } } 1 (i.val / 8)))))) ∧
    (s.resetting 3 m = true → exec (.integrityWritebackTimeout m) s = .next (s.halt 0x03 11 m)) ∧
    (s.works core.val = some c → (s.core core).run = .running →
      exec (.progressWatchdog core) s = .next (s.lose c 0x0C (some core.val) (s.core core).pc)) ∧
    (s.dev = .ready → s.engineBusy e j = true →
      exec (.noProgress e j) s = .next (
        if e = 0 then s.resetUnit 1 (j.val / 3) else if e = 1 then s.resetUnit 2 j else if e = 2 then s.resetUnit 1 j
        else if e = 3 then s.resetUnit 3 j else if j.val < 8 then s.resetUnit 2 j else s.resetUnit 3 (j.val - 8)))

/-- The patrol corrects and reports lines of the D- and L-tier; an integrity halt ends in Sentinel mode with every context lost
with cause 0x19; Sheepdog trips on a heartbeat that stops, or on a mismatch, with cause 0x1B (`20` R462–R464, `21` R493,
R494). -/
def Obligations.HaltsAndTrips : Prop :=
  ∀ (s : State) (da : W48) (h : Health) (cls ukind : BitVec 8) (uidx : BitVec 16) (w : W64),
    (s.dev = .ready → (∃ c, s.space da.toNat = .d c) ∨ (∃ m, s.space da.toNat = .l m) →
      exec (.patrol da h) s = .next (s.patrolLine da.toNat h)) ∧
    (s.dev = .ready →
      (let sig : Cper := { cls := cls.toNat, outcome := 4, ukind := ukind.toNat, uidx := uidx.toNat }
       exec (.integrityHalt cls ukind uidx) s = .next
         (((State.writeDump (State.record (State.quietPorts { s with dev := .sentinel, keys := s.keys.clear }) sig)
           Config.dumpLen).loseAll 0x19).sentinel 1))) ∧
    exec .correctedErrorHour s = .next { s with ras := { s.ras with ceHour := [], ceSigned := [] } } ∧
    (s.yorekRuns = true → exec (.heartbeat w) s = .next { s with ras := { s.ras with beat := w } }) ∧
    (s.yorekRuns = true → s.dev ≠ .auxOnly →
      (s.ras.tripped = true →
        exec .heartbeatMissed s = .next { s with ras := { s.ras with yorekHeld := true } } ∧
        exec .lockstepMismatch s = .next { s with ras := { s.ras with yorekHeld := true } }) ∧
      (s.ras.tripped = false →
        (let u : State := { s with dev := .sentinel, keys := s.keys.clear, ras := { s.ras with tripped := true } }
         let v := ((State.record u.quietPorts { cls := 0x0C, outcome := 4, ukind := 12 }).writeDump fun _ => 65536).loseAll 0x1B
         exec .heartbeatMissed s = .next (v.sentinel 2) ∧ exec .lockstepMismatch s = .next (v.sentinel 3))))

/-- Supplies start and stop the module; each die moves one operating point at a time; the power cap, the brake and the
thermal throttle act at their ticks; the fabric clock takes the ports down and back (`23` R511–R528). -/
def Obligations.PowerAndThermal : Prop :=
  ∀ (s : State) (cause : Fin 4) (vin iin w : BitVec 16) (die : Fin 8) (d : Fin 13) (x : TempIn),
    let p := s.pw
    let cur := Tab.get 1 p.op die
    (p.main = false → exec .mainSupplyRise s = .next { s with
      pw := { p with main := true }, dev := if p.aux && !s.powered then .starting else s.dev }) ∧
    (p.aux = false → exec .auxSupplyRise s = .next { s with
      pw := { p with aux := true }, dev := if p.main then .starting else .auxOnly }) ∧
    exec .auxSupplyFall s = .next { s.blank with
      dev := .off, pw := { s.blank.pw with aux := false, islandFault := 0 }, pcie := {} } ∧
    (s.dieFitted die = true → exec (.operatingPointChange die) s = .next { s with pw := { p with
      op := Tab.set 1 p.op die (if cur < p.want die then cur + 1 else if p.want die < cur then cur - 1 else cur) } }) ∧
    exec .pwrBrakeDeassert s = .next { s with pw := { p with brake := false, below := 0 } } ∧
    exec (.pwrBrakeAssert false) s = .next s ∧
    (s.powered = true →
      (cause ≠ 0 → exec (.supplyFault cause vin iin) s = .next (s.railsOff cause vin.toNat iin.toNat)) ∧
      (p.brake = false →
        (let q := ({ p with brake := true, below := 0 } : Power).setDuty (min p.duty 16)
         exec (.pwrBrakeAssert true) s = .next { s with pw := { q with admHalf := true } })) ∧
      exec (.powerCapTick w) s = .next { s with pw := p.capStep w.toNat } ∧
      exec (.thermalSample x) s = .next (s.sample x) ∧
      exec .thermalThrottleTick s = .next { s with pw := p.throttleTick } ∧
      (d = 12 → exec (.thermalHalt d) s = .next ((s.free 16).2.free 16 |>.2.railsOff 4 (s.free 16).1.toNat ((s.free 16).2.free 16).1.toNat)) ∧
      (s.dev ≠ .sentinel → 8 ≤ d.val → d.val < 12 →
        (let u : State := { s with dev := .sentinel, mem := Tab.drop s.mem (· < 0xC000000000), pw := { p with alert := true } }
         exec (.thermalHalt d) s = .next (((State.writeDump (u.record { cls := 0x0D, outcome := 4, ukind := 11, uidx := d.val - 8 })
           Config.dumpLen).loseAll 0x1C).sentinel 6))) ∧
      (s.dieFitted die = true →
        (let x := if p.strict then true else (Tab.get none p.dblNext die).getD (Tab.get false p.dbl die)
         exec (.refreshIntervalBoundary die) s = .next { s with pw := { p with
           dbl := Tab.set false p.dbl die x, dblNext := Tab.set none p.dblNext die none } }))) ∧
    ((∀ q < 16, (s.port q).st = .absent ∨ (s.port q).st = .down) →
      exec .fabRefclkLoss s = .next { s with pw := { p with fabClk := false } }) ∧
    exec .fabRefclkRecovery s = .next ((List.range 16).foldl State.startPort { s with pw := { p with fabClk := true } })

/-- A step takes the command at the front of the queue and runs it on the state with the queue's rest; with no command
waiting a nanosecond passes where Tether runs, which is the model's choice (log 8). -/
def Obligations.StepRunsFront : Prop :=
  ∀ (s : State) (c : Instr) (rest : List Instr),
    step { s with pending := c :: rest } = exec c { s with pending := rest } ∧ (s.pending = [] → step s = .next s.tick)

/-- Every command is answered: no step stops in a fault or a refusal. The manual names no command that stops the module;
that one which has no effect leaves the state is the model's reading (log 13). -/
def Obligations.EveryStepAnswers : Prop := ∀ s : State, s.runs

/-- Right after reset: the device is starting, no command waits, no context, slot, fence, herd, charter or port is up, memory
reads as zeros, every core is in its creation state, the life cycle and the start's record hold what the manual gives
(`21` R490, `22` R498, R501); registers without a reset value hold zero, the model's choice (logs 5 and 9). -/
def Obligations.ResetValues : Prop :=
  let s := State.reset
  s.dev = .starting ∧ s.pending = [] ∧
  (∀ n, s.core n = {} ∧ (s.core n).run = .idle ∧ (s.core n).flags = 0 ∧ (s.core n).mx = {}) ∧
  (∀ n, (s.cluster n).held = false) ∧ (∀ c, (s.ctx c).st = .free) ∧ (∀ i, Tab.get none s.slots i = none) ∧
  (∀ f, (s.fence f).v = false) ∧ (∀ p, (s.port p).st = .down) ∧ s.node = 0 ∧ s.herds = [] ∧ s.charters = [] ∧
  s.learn.bound = false ∧ s.slotSwap = 0 ∧ (∀ a n, bytesAt s.mem a n = List.replicate n 0) ∧
  (∀ c, (s.chan c).active = false) ∧ s.powered = true

/-- The state after reset is in canonical form. -/
def Obligations.ResetIsCanonical : Prop := State.reset.Canonical

/-- The canonical form is an invariant: whatever command waits, a step from a state whose memories and registers are in
canonical form leaves one whose memories and registers are. Equal memories are then equal data. -/
def Obligations.StepsKeepCanonicalForm : Prop :=
  ∀ s t : State, s.Canonical → step s = .next t → t.Canonical

/-- Nothing that only advances goes back, in a step of any command: bits of the life-cycle OTP and of the dies' fuses are
never cleared, the rollback counter never falls, a revoked key stays revoked, the ordering code stays, and the queue
changes only by the command taken (`18` R430, `22` R506, `01` R25). -/
def Obligations.NothingGoesBack : Prop :=
  ∀ (s t : State), step s = .next t → OneWay { s with pending := s.pending.tail } t

/-- Memories in canonical form that read alike are equal. -/
def Obligations.CanonicalMemoriesAreEqual : Prop :=
  ∀ t u : Tab Byte, Memory.wf t = true → Memory.wf u = true → (∀ a, Tab.get 0 t a = Tab.get 0 u a) → t = u

/-- Decoding the words of an encoded core instruction gives it back, with every operand at every value that its encoding
admits (`06` R131–R153): VMUL where the type is a float, and gIDX only where the format has it. -/
def Obligations.WordsDecodeToTheirInstruction : Prop :=
  ∀ (i : Instr) (w : Nat × Nat), i.spelt = true → encodeWord i = some w →
    w.1 < 2 ^ 64 ∧ w.2 < 2 ^ 64 ∧ ∃ core, decodeWord core w.1 w.2 = some i

/-- An instruction decoded from words and encoded again gives the first word back, so that no bit of it is dropped or
read twice; the second word comes back too where the instruction has one, and is zero where it has none (`06`
R131–R153). -/
def Obligations.EncodingGivesTheWordBack : Prop :=
  ∀ (core : Fin 512) (x y : Nat) (i : Instr) (w : Nat × Nat), x < 2 ^ 64 → y < 2 ^ 64 →
    decodeWord core x y = some i → encodeWord i = some w → w.1 = x ∧ w.2 = if x / 2 ^ 58 ∈ [0x2A, 0x2B, 0x30, 0x3B] then y else 0

/-- Words written out from the encoding tables decode to the instructions that they stand for (`06` R132–R153). -/
def Obligations.WordsWrittenOut : Prop :=
  let h : Issue := { core := 3, pred := 0, pneg := false, rsv := false }
  -- ADD g5, g6, g7: 000000 000 0 | 000000 00101 00110 00111 0…
  decodeWord 3 (5 * 2 ^ 43 + 6 * 2 ^ 38 + 7 * 2 ^ 33) 0 = some (.add h 5 6 7) ∧
  -- MOVI g1, −1 under !p2: 000010 010 1 | 000000 00001 0… 1…1
  decodeWord 3 (2 * 2 ^ 58 + 2 * 2 ^ 55 + 2 ^ 54 + 2 ^ 43 + (2 ^ 32 - 1)) 0 =
    some (.movi { h with pred := 2, pneg := true } 1 (BitVec.allOnes 32)) ∧
  -- LD of 8 bytes of the local stores: 000110 000 0 | 00 1 0 11 00100 00011 000000 | 16
  decodeWord 3 (6 * 2 ^ 58 + 2 ^ 51 + 3 * 2 ^ 48 + 4 * 2 ^ 43 + 3 * 2 ^ 38 + 16) 0 = some (.ld h true false 3 4 3 16) ∧
  -- SWAP: 101001 and nothing else
  decodeWord 3 (0x29 * 2 ^ 58) 0 = some (.swap h) ∧
  -- FENCE.SIGNAL.I of fence 9 with its value in the second word
  decodeWord 3 (0x3B * 2 ^ 58 + 9 * 2 ^ 38) 77 = some (.fenceSignalI h 9 77) ∧
  -- SYS.TIME g2: SUB 5
  decodeWord 3 (0x3C * 2 ^ 58 + 5 * 2 ^ 48 + 2 * 2 ^ 43) 0 = some (.sysTime h 2 0)

/-- A major opcode that is not listed is unassigned, the unlisted codes inside a class range too, and a word with such a
code loses the context with cause code 0x01; every other opcode decodes to an instruction (`06` R135). -/
def Obligations.MajorOpcodes : Prop :=
  ∀ (core : Fin 512) (x y : Nat), x < 2 ^ 64 →
    let op := x / 2 ^ 58
    let listed := op ≤ 0x09 ∨ (0x10 ≤ op ∧ op ≤ 0x1E) ∨ (0x20 ≤ op ∧ op ≤ 0x23) ∨ (0x28 ≤ op ∧ op ≤ 0x2C) ∨
      (0x30 ≤ op ∧ op ≤ 0x33) ∨ (0x38 ≤ op ∧ op ≤ 0x3C)
    ∃ i, decodeWord core x y = some i ∧ (listed → ∀ h o, i ≠ .unassignedMajorOpcode h o) ∧
      (¬ listed → ∃ h, i = .unassignedMajorOpcode h (BitVec.ofNat 6 op) ∧ h.core = core ∧
        ∀ (s : State) (c : Nat), s.Issuing h c → exec i s = .next (s.lose c 0x01 (some core.val) (s.core core.val).pc))

/-- What an instruction of the scalar unit that writes a register leaves as it was: every other register of its core but
the program counter, every predicate, the stores and everything else of the core, every other core, all of memory, and
the rest of the state but the count of instructions (`02` R29, `06` R137, R138). -/
def Obligations.ScalarFrame : Prop :=
  ∀ (s t : State) (h : Issue) (c : Nat) (rd ra rb : BitVec 5) (imm : BitVec 32) (sub : BitVec 6),
    let n := h.core.val
    let only : Prop := (∀ m, m ≠ n → t.core m = s.core m) ∧ (∀ r, r ≠ rd → (t.core n).rd r = (s.core n).rd r) ∧
      t.core n = { s.core n with g := (t.core n).g, pc := s.pcAfter h 1, fresh := false } ∧
      t = { s with cores := t.cores, regs := t.regs } ∧
      ∀ a, a ≠ regCore n → a ≠ regCore n + 0x100 → t.reg a = s.reg a
    Tab.wf {} s.cores = true →
    (s.Executes h c { regs := [rd, ra, rb] } →
      ∀ i ∈ ([.add h rd ra rb, .sub h rd ra rb, .and h rd ra rb, .or h rd ra rb, .xor h rd ra rb, .andn h rd ra rb,
        .shl h rd ra rb, .shr h rd ra rb, .sra h rd ra rb, .min h rd ra rb, .minu h rd ra rb, .max h rd ra rb,
        .maxu h rd ra rb, .mul h rd ra rb, .mulh h rd ra rb, .mulhu h rd ra rb, .div h rd ra rb, .divu h rd ra rb] :
          List Instr), exec i s = .next t → only) ∧
    (s.Executes h c { regs := [rd, ra] } → sub.toNat ≤ 12 → imm.toNat < 64 →
      exec (.salui h sub rd ra imm) s = .next t → only) ∧
    (s.Executes h c { regs := [rd] } → ∀ i ∈ ([.movi h rd imm, .movhi h rd imm] : List Instr), exec i s = .next t → only)

/-- What a vector instruction with a destination run leaves as it was: every slot outside the run, every register and
predicate, the core but its stores, its sticky flags and its dispatch number, every other core, all of memory, and the
rest of the state but the count of instructions (`05` R115, R121, `06` R143, R144). -/
def Obligations.VectorFrame : Prop :=
  ∀ (s t : State) (i : Instr) (h : Issue) (n : Nat) (f : VOp) (g : VUn) (x : V3) (op : Nat → Nat → Nat × Nat) (un : Nat → Nat × Nat)
    (tri : List Nat → List Nat → List Nat → List (Nat × Nat)) (w wc : Nat),
    let core := h.core.val
    let only := fun (d m : Nat) => (∀ j, j ≠ core → t.core j = s.core j) ∧
      (∀ v e, e < d ∨ d + m ≤ e → (t.core core).slot v e = (s.core core).slot v e) ∧
      t.core core = { s.core core with
        store := (t.core core).store, flags := (t.core core).flags, disp := (s.core core).disp + 1
        pc := s.pcAfter h 1, fresh := false } ∧
      (s.core core).flags &&& (t.core core).flags = (s.core core).flags ∧
      t = { s with cores := t.cores, regs := t.regs }
    Tab.wf {} s.cores = true →
    (exec i s = .next (s.vopNext h f op) → exec i s = .next t → only f.d.toNat (f.n1.toNat + 1)) ∧
    (exec i s = .next (s.vunNext h g un) → exec i s = .next t → only g.d.toNat (g.n1.toNat + 1)) ∧
    ((∀ a b c, (tri a b c).length * wc ≤ 2048) → exec i s = .next (s.v3Next h x n w wc tri) → exec i s = .next t →
      only x.d.toNat n)
end

