-- ==== Sys2Proof/Laws/Exec.lean ====
section
/-! SUPPORT. What `exec` does with each command is its meaning. -/

namespace Sys2Proof.Machine

theorem exec_add (h : Issue) (rd : BitVec 5) (ra : BitVec 5) (rb : BitVec 5) (s : State) :
    exec (.add h rd ra rb) s = execAdd h rd ra rb s := rfl
theorem exec_sub (h : Issue) (rd : BitVec 5) (ra : BitVec 5) (rb : BitVec 5) (s : State) :
    exec (.sub h rd ra rb) s = execSub h rd ra rb s := rfl
theorem exec_and (h : Issue) (rd : BitVec 5) (ra : BitVec 5) (rb : BitVec 5) (s : State) :
    exec (.and h rd ra rb) s = execAnd h rd ra rb s := rfl
theorem exec_or (h : Issue) (rd : BitVec 5) (ra : BitVec 5) (rb : BitVec 5) (s : State) :
    exec (.or h rd ra rb) s = execOr h rd ra rb s := rfl
theorem exec_xor (h : Issue) (rd : BitVec 5) (ra : BitVec 5) (rb : BitVec 5) (s : State) :
    exec (.xor h rd ra rb) s = execXor h rd ra rb s := rfl
theorem exec_andn (h : Issue) (rd : BitVec 5) (ra : BitVec 5) (rb : BitVec 5) (s : State) :
    exec (.andn h rd ra rb) s = execAndn h rd ra rb s := rfl
theorem exec_shl (h : Issue) (rd : BitVec 5) (ra : BitVec 5) (rb : BitVec 5) (s : State) :
    exec (.shl h rd ra rb) s = execShl h rd ra rb s := rfl
theorem exec_shr (h : Issue) (rd : BitVec 5) (ra : BitVec 5) (rb : BitVec 5) (s : State) :
    exec (.shr h rd ra rb) s = execShr h rd ra rb s := rfl
theorem exec_sra (h : Issue) (rd : BitVec 5) (ra : BitVec 5) (rb : BitVec 5) (s : State) :
    exec (.sra h rd ra rb) s = execSra h rd ra rb s := rfl
theorem exec_min (h : Issue) (rd : BitVec 5) (ra : BitVec 5) (rb : BitVec 5) (s : State) :
    exec (.min h rd ra rb) s = execMin h rd ra rb s := rfl
theorem exec_minu (h : Issue) (rd : BitVec 5) (ra : BitVec 5) (rb : BitVec 5) (s : State) :
    exec (.minu h rd ra rb) s = execMinu h rd ra rb s := rfl
theorem exec_max (h : Issue) (rd : BitVec 5) (ra : BitVec 5) (rb : BitVec 5) (s : State) :
    exec (.max h rd ra rb) s = execMax h rd ra rb s := rfl
theorem exec_maxu (h : Issue) (rd : BitVec 5) (ra : BitVec 5) (rb : BitVec 5) (s : State) :
    exec (.maxu h rd ra rb) s = execMaxu h rd ra rb s := rfl
theorem exec_mul (h : Issue) (rd : BitVec 5) (ra : BitVec 5) (rb : BitVec 5) (s : State) :
    exec (.mul h rd ra rb) s = execMul h rd ra rb s := rfl
theorem exec_mulh (h : Issue) (rd : BitVec 5) (ra : BitVec 5) (rb : BitVec 5) (s : State) :
    exec (.mulh h rd ra rb) s = execMulh h rd ra rb s := rfl
theorem exec_mulhu (h : Issue) (rd : BitVec 5) (ra : BitVec 5) (rb : BitVec 5) (s : State) :
    exec (.mulhu h rd ra rb) s = execMulhu h rd ra rb s := rfl
theorem exec_div (h : Issue) (rd : BitVec 5) (ra : BitVec 5) (rb : BitVec 5) (s : State) :
    exec (.div h rd ra rb) s = execDiv h rd ra rb s := rfl
theorem exec_divu (h : Issue) (rd : BitVec 5) (ra : BitVec 5) (rb : BitVec 5) (s : State) :
    exec (.divu h rd ra rb) s = execDivu h rd ra rb s := rfl
theorem exec_salui (h : Issue) (sub : BitVec 6) (rd : BitVec 5) (ra : BitVec 5) (imm : BitVec 32) (s : State) :
    exec (.salui h sub rd ra imm) s = execSalui h sub rd ra imm s := rfl
theorem exec_movi (h : Issue) (rd : BitVec 5) (imm : BitVec 32) (s : State) :
    exec (.movi h rd imm) s = execMovi h rd imm s := rfl
theorem exec_movhi (h : Issue) (rd : BitVec 5) (imm : BitVec 32) (s : State) :
    exec (.movhi h rd imm) s = execMovhi h rd imm s := rfl
theorem exec_cmp (h : Issue) (cond : BitVec 6) (pd : BitVec 3) (ra : BitVec 5) (rb : BitVec 5) (s : State) :
    exec (.cmp h cond pd ra rb) s = execCmp h cond pd ra rb s := rfl
theorem exec_cmpi (h : Issue) (cond : BitVec 6) (pd : BitVec 3) (ra : BitVec 5) (imm : BitVec 32) (s : State) :
    exec (.cmpi h cond pd ra imm) s = execCmpi h cond pd ra imm s := rfl
theorem exec_pand (h : Issue) (pd : BitVec 3) (pa : BitVec 3) (pb : BitVec 3) (s : State) :
    exec (.pand h pd pa pb) s = execPand h pd pa pb s := rfl
theorem exec_por (h : Issue) (pd : BitVec 3) (pa : BitVec 3) (pb : BitVec 3) (s : State) :
    exec (.por h pd pa pb) s = execPor h pd pa pb s := rfl
theorem exec_pxor (h : Issue) (pd : BitVec 3) (pa : BitVec 3) (pb : BitVec 3) (s : State) :
    exec (.pxor h pd pa pb) s = execPxor h pd pa pb s := rfl
theorem exec_pandn (h : Issue) (pd : BitVec 3) (pa : BitVec 3) (pb : BitVec 3) (s : State) :
    exec (.pandn h pd pa pb) s = execPandn h pd pa pb s := rfl
theorem exec_pmov (h : Issue) (pd : BitVec 3) (pa : BitVec 3) (pb : BitVec 3) (s : State) :
    exec (.pmov h pd pa pb) s = execPmov h pd pa pb s := rfl
theorem exec_pnot (h : Issue) (pd : BitVec 3) (pa : BitVec 3) (pb : BitVec 3) (s : State) :
    exec (.pnot h pd pa pb) s = execPnot h pd pa pb s := rfl
theorem exec_ld (h : Issue) (loc : Bool) (sx : Bool) (size : BitVec 2) (rd : BitVec 5) (ra : BitVec 5) (imm : BitVec 32) (s : State) :
    exec (.ld h loc sx size rd ra imm) s = execLd h loc sx size rd ra imm s := rfl
theorem exec_st (h : Issue) (loc : Bool) (sx : Bool) (size : BitVec 2) (rs : BitVec 5) (ra : BitVec 5) (imm : BitVec 32) (s : State) :
    exec (.st h loc sx size rs ra imm) s = execSt h loc sx size rs ra imm s := rfl
theorem exec_scalarLoadReturn (core : Fin 512) (i : Fin 16) (s : State) :
    exec (.scalarLoadReturn core i) s = execScalarLoadReturn core i s := rfl
theorem exec_br (h : Issue) (rd : BitVec 5) (imm : BitVec 32) (s : State) :
    exec (.br h rd imm) s = execBr h rd imm s := rfl
theorem exec_brl (h : Issue) (rd : BitVec 5) (imm : BitVec 32) (s : State) :
    exec (.brl h rd imm) s = execBrl h rd imm s := rfl
theorem exec_brr (h : Issue) (rd : BitVec 5) (ra : BitVec 5) (s : State) :
    exec (.brr h rd ra) s = execBrr h rd ra s := rfl
theorem exec_brrl (h : Issue) (rd : BitVec 5) (ra : BitVec 5) (s : State) :
    exec (.brrl h rd ra) s = execBrrl h rd ra s := rfl
theorem exec_vadd (h : Issue) (f : VOp) (s : State) : exec (.vadd h f) s = execVadd h f s := rfl
theorem exec_vsub (h : Issue) (f : VOp) (s : State) : exec (.vsub h f) s = execVsub h f s := rfl
theorem exec_vmulLo (h : Issue) (f : VOp) (s : State) : exec (.vmulLo h f) s = execVmulLo h f s := rfl
theorem exec_vmulHi (h : Issue) (f : VOp) (s : State) : exec (.vmulHi h f) s = execVmulHi h f s := rfl
theorem exec_vmul (h : Issue) (f : VOp) (s : State) : exec (.vmul h f) s = execVmul h f s := rfl
theorem exec_vmin (h : Issue) (f : VOp) (s : State) : exec (.vmin h f) s = execVmin h f s := rfl
theorem exec_vmax (h : Issue) (f : VOp) (s : State) : exec (.vmax h f) s = execVmax h f s := rfl
theorem exec_vshl (h : Issue) (f : VOp) (s : State) : exec (.vshl h f) s = execVshl h f s := rfl
theorem exec_vshr (h : Issue) (f : VOp) (s : State) : exec (.vshr h f) s = execVshr h f s := rfl
theorem exec_vshra (h : Issue) (f : VOp) (s : State) : exec (.vshra h f) s = execVshra h f s := rfl
theorem exec_vand (h : Issue) (f : VOp) (s : State) : exec (.vand h f) s = execVand h f s := rfl
theorem exec_vor (h : Issue) (f : VOp) (s : State) : exec (.vor h f) s = execVor h f s := rfl
theorem exec_vxor (h : Issue) (f : VOp) (s : State) : exec (.vxor h f) s = execVxor h f s := rfl
theorem exec_vandn (h : Issue) (f : VOp) (s : State) : exec (.vandn h f) s = execVandn h f s := rfl
theorem exec_vcmpEq (h : Issue) (f : VOp) (s : State) : exec (.vcmpEq h f) s = execVcmpEq h f s := rfl
theorem exec_vcmpNe (h : Issue) (f : VOp) (s : State) : exec (.vcmpNe h f) s = execVcmpNe h f s := rfl
theorem exec_vcmpLt (h : Issue) (f : VOp) (s : State) : exec (.vcmpLt h f) s = execVcmpLt h f s := rfl
theorem exec_vcmpLe (h : Issue) (f : VOp) (s : State) : exec (.vcmpLe h f) s = execVcmpLe h f s := rfl
theorem exec_vany (h : Issue) (f : VOp) (s : State) : exec (.vany h f) s = execVany h f s := rfl
theorem exec_vall (h : Issue) (f : VOp) (s : State) : exec (.vall h f) s = execVall h f s := rfl
theorem exec_vabs (h : Issue) (f : VUn) (s : State) : exec (.vabs h f) s = execVabs h f s := rfl
theorem exec_vneg (h : Issue) (f : VUn) (s : State) : exec (.vneg h f) s = execVneg h f s := rfl
theorem exec_vnot (h : Issue) (f : VUn) (s : State) : exec (.vnot h f) s = execVnot h f s := rfl
theorem exec_vmov (h : Issue) (f : VUn) (s : State) : exec (.vmov h f) s = execVmov h f s := rfl
theorem exec_vexp2 (h : Issue) (f : VUn) (s : State) : exec (.vexp2 h f) s = execVexp2 h f s := rfl
theorem exec_vlog2 (h : Issue) (f : VUn) (s : State) : exec (.vlog2 h f) s = execVlog2 h f s := rfl
theorem exec_vrcp (h : Issue) (f : VUn) (s : State) : exec (.vrcp h f) s = execVrcp h f s := rfl
theorem exec_vrsq (h : Issue) (f : VUn) (s : State) : exec (.vrsq h f) s = execVrsq h f s := rfl
theorem exec_vtanh (h : Issue) (f : VUn) (s : State) : exec (.vtanh h f) s = execVtanh h f s := rfl
theorem exec_vfma (h : Issue) (ty : Fin 3) (f : V3) (s : State) : exec (.vfma h ty f) s = execVfma h ty f s := rfl
theorem exec_vdot2 (h : Issue) (fp16 : Bool) (f : V3) (s : State) :
    exec (.vdot2 h fp16 f) s = execVdot2 h fp16 f s := rfl
theorem exec_vsel (h : Issue) (w : Fin 3) (f : V3) (s : State) : exec (.vsel h w f) s = execVsel h w f s := rfl
theorem exec_vcvt (h : Issue) (f : VCvt) (s : State) : exec (.vcvt h f) s = execVcvt h f s := rfl
theorem exec_vcvtMx (h : Issue) (f : VMx) (s : State) : exec (.vcvtMx h f) s = execVcvtMx h f s := rfl
theorem exec_vcvtMxd (h : Issue) (f : VMx) (s : State) : exec (.vcvtMxd h f) s = execVcvtMxd h f s := rfl
theorem exec_vbxExp (h : Issue) (f : VBx) (s : State) : exec (.vbxExp h f) s = execVbxExp h f s := rfl
theorem exec_vbxCvt (h : Issue) (f : VBx) (s : State) : exec (.vbxCvt h f) s = execVbxCvt h f s := rfl
theorem exec_vbxDec (h : Issue) (f : VBx) (s : State) : exec (.vbxDec h f) s = execVbxDec h f s := rfl
theorem exec_vrng (h : Issue) (f : VRng) (s : State) : exec (.vrng h f) s = execVrng h f s := rfl
theorem exec_vrngU (h : Issue) (f : VRng) (s : State) : exec (.vrngU h f) s = execVrngU h f s := rfl
theorem exec_vrngSetc (h : Issue) (f : VRng) (s : State) : exec (.vrngSetc h f) s = execVrngSetc h f s := rfl
theorem exec_vrngGetc (h : Issue) (f : VRng) (s : State) : exec (.vrngGetc h f) s = execVrngGetc h f s := rfl
theorem exec_vrngT (h : Issue) (f : VRng) (s : State) : exec (.vrngT h f) s = execVrngT h f s := rfl
theorem exec_rsum (h : Issue) (f : RFmt) (s : State) : exec (.rsum h f) s = execRsum h f s := rfl
theorem exec_rssq (h : Issue) (f : RFmt) (s : State) : exec (.rssq h f) s = execRssq h f s := rfl
theorem exec_risum (h : Issue) (f : RFmt) (s : State) : exec (.risum h f) s = execRisum h f s := rfl
theorem exec_rpsumI (h : Issue) (f : RFmt) (s : State) : exec (.rpsumI h f) s = execRpsumI h f s := rfl
theorem exec_rpsumE (h : Issue) (f : RFmt) (s : State) : exec (.rpsumE h f) s = execRpsumE h f s := rfl
theorem exec_rmax (h : Issue) (f : RFmt) (s : State) : exec (.rmax h f) s = execRmax h f s := rfl
theorem exec_rmin (h : Issue) (f : RFmt) (s : State) : exec (.rmin h f) s = execRmin h f s := rfl
theorem exec_rargmax (h : Issue) (f : RFmt) (s : State) : exec (.rargmax h f) s = execRargmax h f s := rfl
theorem exec_rargmin (h : Issue) (f : RFmt) (s : State) : exec (.rargmin h f) s = execRargmin h f s := rfl
theorem exec_rtopk (h : Issue) (i32 : Bool) (f : RTopk) (s : State) :
    exec (.rtopk h i32 f) s = execRtopk h i32 f s := rfl
theorem exec_loadw (h : Issue) (f : LoadW) (s : State) : exec (.loadw h f) s = execLoadw h f s := rfl
theorem exec_loadwComplete (core : Fin 512) (s : State) :
    exec (.loadwComplete core) s = execLoadwComplete core s := rfl
theorem exec_swap (h : Issue) (s : State) : exec (.swap h) s = execSwap h s := rfl
theorem exec_stream (h : Issue) (f : StreamF) (o : OutW) (s : State) :
    exec (.stream h f o) s = execStream h f o s := rfl
theorem exec_streamRowResult (core : Fin 512) (s : State) :
    exec (.streamRowResult core) s = execStreamRowResult core s := rfl
theorem exec_accout (h : Issue) (e0 : BitVec 8) (j1 : BitVec 8) (o : OutW) (s : State) :
    exec (.accout h e0 j1 o) s = execAccout h e0 j1 o s := rfl
theorem exec_csadv (h : Issue) (f : CsAdv) (s : State) : exec (.csadv h f) s = execCsadv h f s := rfl
theorem exec_dmaDesc (h : Issue) (f : DmaF) (s : State) : exec (.dmaDesc h f) s = execDmaDesc h f s := rfl
theorem exec_dmaDescriptorRun (m : Mover) (s : State) : exec (.dmaDescriptorRun m) s = execDmaDescriptorRun m s := rfl
theorem exec_dmaChainComplete (cluster : Fin 64) (e : Fin 3) (s : State) :
    exec (.dmaChainComplete cluster e) s = execDmaChainComplete cluster e s := rfl
theorem exec_dmaCopy (h : Issue) (f : DmaCopyF) (s : State) : exec (.dmaCopy h f) s = execDmaCopy h f s := rfl
theorem exec_ringAdv (h : Issue) (q : BitVec 8) (s : State) : exec (.ringAdv h q) s = execRingAdv h q s := rfl
theorem exec_ringRst (h : Issue) (q : BitVec 8) (s : State) : exec (.ringRst h q) s = execRingRst h q s := rfl
theorem exec_winResv (h : Issue) (gw : BitVec 5) (s : State) : exec (.winResv h gw) s = execWinResv h gw s := rfl
theorem exec_winRel (h : Issue) (gw : BitVec 5) (s : State) : exec (.winRel h gw) s = execWinRel h gw s := rfl
theorem exec_windowReleaseComplete (core : Fin 512) (i : Fin 16) (s : State) :
    exec (.windowReleaseComplete core i) s = execWindowReleaseComplete core i s := rfl
theorem exec_windowFillBegin (core : Fin 512) (i : Fin 16) (s : State) :
    exec (.windowFillBegin core i) s = execWindowFillBegin core i s := rfl
theorem exec_windowArrival (core : Fin 512) (i : Fin 16) (s : State) :
    exec (.windowArrival core i) s = execWindowArrival core i s := rfl
theorem exec_windowLate (core : Fin 512) (i : Fin 16) (s : State) :
    exec (.windowLate core i) s = execWindowLate core i s := rfl
theorem exec_ringQuarterFilled (core : Fin 512) (i : Fin 16) (s : State) :
    exec (.ringQuarterFilled core i) s = execRingQuarterFilled core i s := rfl
theorem exec_runAheadFetch (core : Fin 512) (i : Fin 16) (s : State) :
    exec (.runAheadFetch core i) s = execRunAheadFetch core i s := rfl
theorem exec_runAheadExpired (die : Fin 8) (i : Nat) (s : State) :
    exec (.runAheadExpired die i) s = execRunAheadExpired die i s := rfl
theorem exec_taskBegin (h : Issue) (gh : BitVec 5) (s : State) :
    exec (.taskBegin h gh) s = execTaskBegin h gh s := rfl
theorem exec_taskInputSatisfied (core : Fin 512) (s : State) :
    exec (.taskInputSatisfied core) s = execTaskInputSatisfied core s := rfl
theorem exec_taskEnd (h : Issue) (s : State) : exec (.taskEnd h) s = execTaskEnd h s := rfl
theorem exec_taskOutputSignal (core : Fin 512) (i : Fin 8) (s : State) :
    exec (.taskOutputSignal core i) s = execTaskOutputSignal core i s := rfl
theorem exec_speculativeResolve (core : Fin 512) (i : Fin 8) (s : State) :
    exec (.speculativeResolve core i) s = execSpeculativeResolve core i s := rfl
theorem exec_verdictTimeout (core : Fin 512) (i : Fin 8) (s : State) :
    exec (.verdictTimeout core i) s = execVerdictTimeout core i s := rfl
theorem exec_paddockDrain (core : Fin 512) (i : Fin 8) (s : State) :
    exec (.paddockDrain core i) s = execPaddockDrain core i s := rfl
theorem exec_fenceSignal (h : Issue) (f : FenceF) (s : State) :
    exec (.fenceSignal h f) s = execFenceSignal h f s := rfl
theorem exec_fenceSignalI (h : Issue) (fid : BitVec 16) (val : W64) (s : State) :
    exec (.fenceSignalI h fid val) s = execFenceSignalI h fid val s := rfl
theorem exec_fenceRead (h : Issue) (f : FenceF) (s : State) : exec (.fenceRead h f) s = execFenceRead h f s := rfl
theorem exec_fenceWait (h : Issue) (f : FenceF) (s : State) : exec (.fenceWait h f) s = execFenceWait h f s := rfl
theorem exec_fenceWaitSatisfied (core : Fin 512) (s : State) :
    exec (.fenceWaitSatisfied core) s = execFenceWaitSatisfied core s := rfl
theorem exec_sysNop (h : Issue) (gd : BitVec 5) (ga : BitVec 5) (s : State) :
    exec (.sysNop h gd ga) s = execSysNop h gd ga s := rfl
theorem exec_sysIflush (h : Issue) (gd : BitVec 5) (ga : BitVec 5) (s : State) :
    exec (.sysIflush h gd ga) s = execSysIflush h gd ga s := rfl
theorem exec_sysSrkey (h : Issue) (gd : BitVec 5) (ga : BitVec 5) (s : State) :
    exec (.sysSrkey h gd ga) s = execSysSrkey h gd ga s := rfl
theorem exec_sysFlags (h : Issue) (gd : BitVec 5) (ga : BitVec 5) (s : State) :
    exec (.sysFlags h gd ga) s = execSysFlags h gd ga s := rfl
theorem exec_sysId (h : Issue) (gd : BitVec 5) (ga : BitVec 5) (s : State) :
    exec (.sysId h gd ga) s = execSysId h gd ga s := rfl
theorem exec_sysTime (h : Issue) (gd : BitVec 5) (ga : BitVec 5) (s : State) :
    exec (.sysTime h gd ga) s = execSysTime h gd ga s := rfl
theorem exec_fenceSignalApply (s : State) : exec (.fenceSignalApply) s = execFenceSignalApply s := rfl
theorem exec_memoryRequest (r : MemOp) (s : State) : exec (.memoryRequest r) s = execMemoryRequest r s := rfl
theorem exec_translationWalk (core : Fin 512) (va : W48) (acc : Fin 3) (s : State) :
    exec (.translationWalk core va acc) s = execTranslationWalk core va acc s := rfl
theorem exec_requestRetry (i : Nat) (r : RetryIn) (s : State) :
    exec (.requestRetry i r) s = execRequestRetry i r s := rfl
theorem exec_accessTableSwap (t : Fin 256) (s : State) : exec (.accessTableSwap t) s = execAccessTableSwap t s := rfl
theorem exec_targetDrained (t : Fin 256) (s : State) : exec (.targetDrained t) s = execTargetDrained t s := rfl
theorem exec_drainTimeout (t : Fin 256) (s : State) : exec (.drainTimeout t) s = execDrainTimeout t s := rfl
theorem exec_kvPromotion (ctx : Fin 4096) (vpn : BitVec 32) (die : Fin 8) (s : State) :
    exec (.kvPromotion ctx vpn die) s = execKvPromotion ctx vpn die s := rfl
theorem exec_poolMove (mover : Fin 12) (ctx : Fin 4096) (vpn : BitVec 32) (s : State) :
    exec (.poolMove mover ctx vpn) s = execPoolMove mover ctx vpn s := rfl
theorem exec_poolMoveComplete (i : Nat) (health : Health) (s : State) :
    exec (.poolMoveComplete i health) s = execPoolMoveComplete i health s := rfl
theorem exec_poolMoveAbort (i : Nat) (readable : Bool) (s : State) :
    exec (.poolMoveAbort i readable) s = execPoolMoveAbort i readable s := rfl
theorem exec_bridleFlit (link : Fin 18) (dir : Bool) (f : BridleIn) (crc : Bool) (s : State) :
    exec (.bridleFlit link dir f crc) s = execBridleFlit link dir f crc s := rfl
theorem exec_query (c : MbxCall) (s : State) : exec (.query c) s = execQuery c s := rfl
theorem exec_ctxCreate (c : MbxCall) (s : State) : exec (.ctxCreate c) s = execCtxCreate c s := rfl
theorem exec_ctxDestroy (c : MbxCall) (s : State) : exec (.ctxDestroy c) s = execCtxDestroy c s := rfl
theorem exec_abort (ctx : Fin 4096) (s : State) : exec (.abort ctx) s = execAbort ctx s := rfl
theorem exec_abortDrained (ctx : Fin 4096) (s : State) : exec (.abortDrained ctx) s = execAbortDrained ctx s := rfl
theorem exec_granuleScrub (granule : Nat) (s : State) :
    exec (.granuleScrub granule) s = execGranuleScrub granule s := rfl
theorem exec_slotIn (c : MbxCall) (s : State) : exec (.slotIn c) s = execSlotIn c s := rfl
theorem exec_slotOut (c : MbxCall) (s : State) : exec (.slotOut c) s = execSlotOut c s := rfl
theorem exec_queueCreate (c : MbxCall) (s : State) : exec (.queueCreate c) s = execQueueCreate c s := rfl
theorem exec_ctxWdt (c : MbxCall) (s : State) : exec (.ctxWdt c) s = execCtxWdt c s := rfl
theorem exec_ctxRekey (c : MbxCall) (s : State) : exec (.ctxRekey c) s = execCtxRekey c s := rfl
theorem exec_fenceAlloc (c : MbxCall) (s : State) : exec (.fenceAlloc c) s = execFenceAlloc c s := rfl
theorem exec_fenceReset (c : MbxCall) (s : State) : exec (.fenceReset c) s = execFenceReset c s := rfl
theorem exec_fenceShare (c : MbxCall) (s : State) : exec (.fenceShare c) s = execFenceShare c s := rfl
theorem exec_fenceUnshare (c : MbxCall) (s : State) : exec (.fenceUnshare c) s = execFenceUnshare c s := rfl
theorem exec_devevtSet (c : MbxCall) (s : State) : exec (.devevtSet c) s = execDevevtSet c s := rfl
theorem exec_cntRead (c : MbxCall) (s : State) : exec (.cntRead c) s = execCntRead c s := rfl
theorem exec_grant (c : MbxCall) (s : State) : exec (.grant c) s = execGrant c s := rfl
theorem exec_map (c : MbxCall) (s : State) : exec (.map c) s = execMap c s := rfl
theorem exec_unmap (c : MbxCall) (s : State) : exec (.unmap c) s = execUnmap c s := rfl
theorem exec_protect (c : MbxCall) (s : State) : exec (.protect c) s = execProtect c s := rfl
theorem exec_mapRequestComplete (chan : Fin 8) (s : State) :
    exec (.mapRequestComplete chan) s = execMapRequestComplete chan s := rfl
theorem exec_hwinSet (c : MbxCall) (s : State) : exec (.hwinSet c) s = execHwinSet c s := rfl
theorem exec_poolmapSet (c : MbxCall) (s : State) : exec (.poolmapSet c) s = execPoolmapSet c s := rfl
theorem exec_donate (c : MbxCall) (s : State) : exec (.donate c) s = execDonate c s := rfl
theorem exec_kvpoolSize (c : MbxCall) (s : State) : exec (.kvpoolSize c) s = execKvpoolSize c s := rfl
theorem exec_kvRegion (c : MbxCall) (s : State) : exec (.kvRegion c) s = execKvRegion c s := rfl
theorem exec_apertureMap (c : MbxCall) (s : State) : exec (.apertureMap c) s = execApertureMap c s := rfl
theorem exec_clusterMove (c : MbxCall) (s : State) : exec (.clusterMove c) s = execClusterMove c s := rfl
theorem exec_programLoad (c : MbxCall) (s : State) : exec (.programLoad c) s = execProgramLoad c s := rfl
theorem exec_learnBind (c : MbxCall) (s : State) : exec (.learnBind c) s = execLearnBind c s := rfl
theorem exec_learnSeal (c : MbxCall) (s : State) : exec (.learnSeal c) s = execLearnSeal c s := rfl
theorem exec_handoffOpen (c : MbxCall) (s : State) : exec (.handoffOpen c) s = execHandoffOpen c s := rfl
theorem exec_handoffClose (c : MbxCall) (s : State) : exec (.handoffClose c) s = execHandoffClose c s := rfl
theorem exec_partitionSet (c : MbxCall) (s : State) : exec (.partitionSet c) s = execPartitionSet c s := rfl
theorem exec_nodeSet (c : MbxCall) (s : State) : exec (.nodeSet c) s = execNodeSet c s := rfl
theorem exec_admitSet (c : MbxCall) (s : State) : exec (.admitSet c) s = execAdmitSet c s := rfl
theorem exec_portReset (c : MbxCall) (s : State) : exec (.portReset c) s = execPortReset c s := rfl
theorem exec_herdForm (c : MbxCall) (s : State) : exec (.herdForm c) s = execHerdForm c s := rfl
theorem exec_herdJoin (c : MbxCall) (reserved : Bool) (covered : Bool) (s : State) :
    exec (.herdJoin c reserved covered) s = execHerdJoin c reserved covered s := rfl
theorem exec_collBind (c : MbxCall) (s : State) : exec (.collBind c) s = execCollBind c s := rfl
theorem exec_collSwap (c : MbxCall) (s : State) : exec (.collSwap c) s = execCollSwap c s := rfl
theorem exec_charterLoad (c : MbxCall) (image : List Byte) (s : State) :
    exec (.charterLoad c image) s = execCharterLoad c image s := rfl
theorem exec_charterUnload (c : MbxCall) (s : State) : exec (.charterUnload c) s = execCharterUnload c s := rfl
theorem exec_kslotQuery (c : MbxCall) (s : State) : exec (.kslotQuery c) s = execKslotQuery c s := rfl
theorem exec_secStat (c : MbxCall) (s : State) : exec (.secStat c) s = execSecStat c s := rfl
theorem exec_objImport (c : MbxCall) (s : State) : exec (.objImport c) s = execObjImport c s := rfl
theorem exec_objImportComplete (i : Nat) (object : Nat) (s : State) :
    exec (.objImportComplete i object) s = execObjImportComplete i object s := rfl
theorem exec_objExport (c : MbxCall) (s : State) : exec (.objExport c) s = execObjExport c s := rfl
theorem exec_lcQuery (c : MbxCall) (s : State) : exec (.lcQuery c) s = execLcQuery c s := rfl
theorem exec_lcRetire (c : MbxCall) (s : State) : exec (.lcRetire c) s = execLcRetire c s := rfl
theorem exec_fwRevoke (c : MbxCall) (s : State) : exec (.fwRevoke c) s = execFwRevoke c s := rfl
theorem exec_calWrite (c : MbxCall) (s : State) : exec (.calWrite c) s = execCalWrite c s := rfl
theorem exec_calRead (c : MbxCall) (s : State) : exec (.calRead c) s = execCalRead c s := rfl
theorem exec_ckptStore (c : MbxCall) (s : State) : exec (.ckptStore c) s = execCkptStore c s := rfl
theorem exec_ckptWrite (c : MbxCall) (s : State) : exec (.ckptWrite c) s = execCkptWrite c s := rfl
theorem exec_ckptRestore (c : MbxCall) (r : RestoreIn) (s : State) :
    exec (.ckptRestore c r) s = execCkptRestore c r s := rfl
theorem exec_snapWrite (c : MbxCall) (s : State) : exec (.snapWrite c) s = execSnapWrite c s := rfl
theorem exec_snapRestore (c : MbxCall) (r : RestoreIn) (s : State) :
    exec (.snapRestore c r) s = execSnapRestore c r s := rfl
theorem exec_fieldtest (c : MbxCall) (s : State) : exec (.fieldtest c) s = execFieldtest c s := rfl
theorem exec_fieldtestLimit (hung : List (Nat × Nat)) (s : State) :
    exec (.fieldtestLimit hung) s = execFieldtestLimit hung s := rfl
theorem exec_unitReset (c : MbxCall) (s : State) : exec (.unitReset c) s = execUnitReset c s := rfl
theorem exec_mailboxBadCommand (chan : Fin 8) (cmd : W64) (s : State) :
    exec (.mailboxBadCommand chan cmd) s = execMailboxBadCommand chan cmd s := rfl
theorem exec_nop (p : Pkt) (s : State) : exec (.nop p) s = execNop p s := rfl
theorem exec_launch (p : Pkt) (s : State) : exec (.launch p) s = execLaunch p s := rfl
theorem exec_stop (p : Pkt) (s : State) : exec (.stop p) s = execStop p s := rfl
theorem exec_copy (p : Pkt) (s : State) : exec (.copy p) s = execCopy p s := rfl
theorem exec_stamp (p : Pkt) (s : State) : exec (.stamp p) s = execStamp p s := rfl
theorem exec_packetComplete (slot : Fin 48) (queue : Fin 16) (i : Fin 4) (s : State) :
    exec (.packetComplete slot queue i) s = execPacketComplete slot queue i s := rfl
theorem exec_queueTimeout (slot : Fin 48) (queue : Fin 16) (s : State) :
    exec (.queueTimeout slot queue) s = execQueueTimeout slot queue s := rfl
theorem exec_tail (slot : Fin 48) (queue : Fin 16) (size : Fin 9) (val : W64) (s : State) :
    exec (.tail slot queue size val) s = execTail slot queue size val s := rfl
theorem exec_fsigv (slot : Fin 48) (size : Fin 9) (val : W64) (s : State) :
    exec (.fsigv slot size val) s = execFsigv slot size val s := rfl
theorem exec_evhead (slot : Fin 48) (size : Fin 9) (val : W64) (s : State) :
    exec (.evhead slot size val) s = execEvhead slot size val s := rfl
theorem exec_msixMessage (vector : Fin 2048) (s : State) :
    exec (.msixMessage vector) s = execMsixMessage vector s := rfl
theorem exec_stepOpen (t : W64) (s : State) : exec (.stepOpen t) s = execStepOpen t s := rfl
theorem exec_expmax (ch : Fin 16) (s : State) : exec (.expmax ch) s = execExpmax ch s := rfl
theorem exec_collectiveRsum (ch : Fin 16) (s : State) : exec (.collectiveRsum ch) s = execCollectiveRsum ch s := rfl
theorem exec_agather (ch : Fin 16) (s : State) : exec (.agather ch) s = execAgather ch s := rfl
theorem exec_allsum (ch : Fin 16) (s : State) : exec (.allsum ch) s = execAllsum ch s := rfl
theorem exec_collectiveMessage (m : CollMsg) (s : State) :
    exec (.collectiveMessage m) s = execCollectiveMessage m s := rfl
theorem exec_collectiveAcknowledgement (ch : Fin 16) (succ : HerdFrom) (seq : W64) (s : State) :
    exec (.collectiveAcknowledgement ch succ seq) s = execCollectiveAcknowledgement ch succ seq s := rfl
theorem exec_scalarRecord (ch : Fin 16) (src : Fin 4096) (rec : GateRec) (s : State) :
    exec (.scalarRecord ch src rec) s = execScalarRecord ch src rec s := rfl
theorem exec_gateRecord (rec : GateRec) (s : State) : exec (.gateRecord rec) s = execGateRecord rec s := rfl
theorem exec_gateQuery (s : State) : exec (.gateQuery) s = execGateQuery s := rfl
theorem exec_gateTimeout (s : State) : exec (.gateTimeout) s = execGateTimeout s := rfl
theorem exec_blockArrival (block : BitVec 40) (data : List Byte) (s : State) :
    exec (.blockArrival block data) s = execBlockArrival block data s := rfl
theorem exec_recordGroupRead (m : Fin 4) (i : Fin 32768) (s : State) :
    exec (.recordGroupRead m i) s = execRecordGroupRead m i s := rfl
theorem exec_slotDrain (m : Fin 4) (s : State) : exec (.slotDrain m) s = execSlotDrain m s := rfl
theorem exec_recordGroupWritten (m : Fin 4) (s : State) :
    exec (.recordGroupWritten m) s = execRecordGroupWritten m s := rfl
theorem exec_ballastPark (p : BallastIn) (s : State) : exec (.ballastPark p) s = execBallastPark p s := rfl
theorem exec_groupFence (g : Fin 256) (s : State) : exec (.groupFence g) s = execGroupFence g s := rfl
theorem exec_factorFinalise (g : Fin 256) (s : State) : exec (.factorFinalise g) s = execFactorFinalise g s := rfl
theorem exec_commitFence (s : State) : exec (.commitFence) s = execCommitFence s := rfl
theorem exec_rootDigest (hid : BitVec 32) (s : State) : exec (.rootDigest hid) s = execRootDigest hid s := rfl
theorem exec_digestDecide (hid : BitVec 32) (vals : List (HerdFrom × BitVec 256)) (s : State) :
    exec (.digestDecide hid vals) s = execDigestDecide hid vals s := rfl
theorem exec_herdAnnounce (hid : BitVec 32) (m : HerdFrom) (quoteOk : QuoteIn) (peers : List (Nat × Nat)) (s : State) :
    exec (.herdAnnounce hid m quoteOk peers) s = execHerdAnnounce hid m quoteOk peers s := rfl
theorem exec_formationTimeout (hid : BitVec 32) (s : State) :
    exec (.formationTimeout hid) s = execFormationTimeout hid s := rfl
theorem exec_membershipRecord (hid : BitVec 32) (rec : MemRec) (s : State) :
    exec (.membershipRecord hid rec) s = execMembershipRecord hid rec s := rfl
theorem exec_membershipSwap (hid : BitVec 32) (s : State) :
    exec (.membershipSwap hid) s = execMembershipSwap hid s := rfl
theorem exec_livenessReport (hid : BitVec 32) (src : Option HerdFrom) (s : State) :
    exec (.livenessReport hid src) s = execLivenessReport hid src s := rfl
theorem exec_memberMissing (hid : BitVec 32) (m : Fin 4096) (s : State) :
    exec (.memberMissing hid m) s = execMemberMissing hid m s := rfl
theorem exec_withdraw (hid : BitVec 32) (m : HerdFrom) (s : State) :
    exec (.withdraw hid m) s = execWithdraw hid m s := rfl
theorem exec_herdBeacon (hid : BitVec 32) (recv : Option (BitVec 32 × Fin 4096)) (s : State) :
    exec (.herdBeacon hid recv) s = execHerdBeacon hid recv s := rfl
theorem exec_bellwetherTakeover (hid : BitVec 32) (reached : List Nat) (s : State) :
    exec (.bellwetherTakeover hid reached) s = execBellwetherTakeover hid reached s := rfl
theorem exec_joinTransfer (hid : BitVec 32) (m : HerdFrom) (root : Option (BitVec 256)) (s : State) :
    exec (.joinTransfer hid m root) s = execJoinTransfer hid m root s := rfl
theorem exec_joinAbandon (hid : BitVec 32) (s : State) : exec (.joinAbandon hid) s = execJoinAbandon hid s := rfl
theorem exec_slotTableSwap (s : State) : exec (.slotTableSwap) s = execSlotTableSwap s := rfl
theorem exec_tetherBeacon (recv : Option Beacon) (s : State) :
    exec (.tetherBeacon recv) s = execTetherBeacon recv s := rfl
theorem exec_timeExchange (role : TimeRole) (port : Fin 16) (t2 : Nat) (t3 : Nat) (asym : Int) (s : State) :
    exec (.timeExchange role port t2 t3 asym) s = execTimeExchange role port t2 t3 asym s := rfl
theorem exec_holdoverExpiry (s : State) : exec (.holdoverExpiry) s = execHoldoverExpiry s := rfl
theorem exec_masterLoss (s : State) : exec (.masterLoss) s = execMasterLoss s := rfl
theorem exec_unlockedWithdrawal (s : State) : exec (.unlockedWithdrawal) s = execUnlockedWithdrawal s := rfl
theorem exec_syncIn (wide : Bool) (s : State) : exec (.syncIn wide) s = execSyncIn wide s := rfl
theorem exec_syncInMissing (s : State) : exec (.syncInMissing) s = execSyncInMissing s := rfl
theorem exec_syncOut (s : State) : exec (.syncOut) s = execSyncOut s := rfl
theorem exec_ptmDialog (ok : Bool) (host : W64) (s : State) :
    exec (.ptmDialog ok host) s = execPtmDialog ok host s := rfl
theorem exec_handoffRecord (ch : Fin 256) (recv : Option (List Byte)) (s : State) :
    exec (.handoffRecord ch recv) s = execHandoffRecord ch recv s := rfl
theorem exec_rfidReturn (ch : Fin 256) (q : CreditIn) (s : State) :
    exec (.rfidReturn ch q) s = execRfidReturn ch q s := rfl
theorem exec_train (port : Fin 16) (ok : Bool) (s : State) : exec (.train port ok) s = execTrain port ok s := rfl
theorem exec_hello (port : Fin 16) (same : Bool) (peer : BitVec 16) (s : State) :
    exec (.hello port same peer) s = execHello port same peer s := rfl
theorem exec_attest (port : Fin 16) (ok : Bool) (root : BitVec 256) (fwm : BitVec 256) (ident : BitVec 256) (s : State) :
    exec (.attest port ok root fwm ident) s = execAttest port ok root fwm ident s := rfl
theorem exec_keyx (port : Fin 16) (ok : Bool) (z : PeerKeys) (s : State) :
    exec (.keyx port ok z) s = execKeyx port ok z s := rfl
theorem exec_bringUpTimeout (port : Fin 16) (s : State) :
    exec (.bringUpTimeout port) s = execBringUpTimeout port s := rfl
theorem exec_portRetry (port : Fin 16) (s : State) : exec (.portRetry port) s = execPortRetry port s := rfl
theorem exec_bringUp (port : Fin 16) (recv : Option (List Byte)) (s : State) :
    exec (.bringUp port recv) s = execBringUp port recv s := rfl
theorem exec_flitTransmit (port : Fin 16) (s : State) : exec (.flitTransmit port) s = execFlitTransmit port s := rfl
theorem exec_data (f : FlitIn) (s : State) : exec (.data f) s = execData f s := rfl
theorem exec_lctl (f : FlitIn) (l : LctlIn) (s : State) : exec (.lctl f l) s = execLctl f l s := rfl
theorem exec_idle (f : FlitIn) (s : State) : exec (.idle f) s = execIdle f s := rfl
theorem exec_lctlTimer (port : Fin 16) (s : State) : exec (.lctlTimer port) s = execLctlTimer port s := rfl
theorem exec_acknowledgementTimer (port : Fin 16) (s : State) :
    exec (.acknowledgementTimer port) s = execAcknowledgementTimer port s := rfl
theorem exec_retrainTimer (port : Fin 16) (s : State) : exec (.retrainTimer port) s = execRetrainTimer port s := rfl
theorem exec_fastRetrainComplete (port : Fin 16) (s : State) :
    exec (.fastRetrainComplete port) s = execFastRetrainComplete port s := rfl
theorem exec_peerDown (port : Fin 16) (s : State) : exec (.peerDown port) s = execPeerDown port s := rfl
theorem exec_rekey (port : Fin 16) (s : State) : exec (.rekey port) s = execRekey port s := rfl
theorem exec_rekeySwitch (port : Fin 16) (rx : Bool) (z : PeerKeys) (s : State) :
    exec (.rekeySwitch port rx z) s = execRekeySwitch port rx z s := rfl
theorem exec_rekeyTimeout (port : Fin 16) (s : State) : exec (.rekeyTimeout port) s = execRekeyTimeout port s := rfl
theorem exec_prd (m : PoolMsg) (s : State) : exec (.prd m) s = execPrd m s := rfl
theorem exec_pbrd (m : PoolMsg) (s : State) : exec (.pbrd m) s = execPbrd m s := rfl
theorem exec_pwr (m : PoolMsg) (s : State) : exec (.pwr m) s = execPwr m s := rfl
theorem exec_pbwr (m : PoolMsg) (s : State) : exec (.pbwr m) s = execPbwr m s := rfl
theorem exec_patom (m : PoolMsg) (s : State) : exec (.patom m) s = execPatom m s := rfl
theorem exec_poolResponse (tag : BitVec 14) (stat : BitVec 4) (data : List Byte) (health : Health) (s : State) :
    exec (.poolResponse tag stat data health) s = execPoolResponse tag stat data health s := rfl
theorem exec_poolResponseTimeout (tag : BitVec 14) (s : State) :
    exec (.poolResponseTimeout tag) s = execPoolResponseTimeout tag s := rfl
theorem exec_configurationRequest (write : Bool) (off : BitVec 12) (be : BitVec 4) (val : BitVec 32) (s : State) :
    exec (.configurationRequest write off be val) s = execConfigurationRequest write off be val s := rfl
theorem exec_bar0Access (write : Bool) (off : BitVec 26) (len : Nat) (data : List Byte) (s : State) :
    exec (.bar0Access write off len data) s = execBar0Access write off len data s := rfl
theorem exec_registerWrite (bar2 : Bool) (off : BitVec 26) (size : Fin 9) (val : W64) (s : State) :
    exec (.registerWrite bar2 off size val) s = execRegisterWrite bar2 off size val s := rfl
theorem exec_badRegisterAccess (write : Bool) (off : BitVec 26) (len : Nat) (s : State) :
    exec (.badRegisterAccess write off len) s = execBadRegisterAccess write off len s := rfl
theorem exec_counterClr (off : BitVec 26) (val : W64) (s : State) :
    exec (.counterClr off val) s = execCounterClr off val s := rfl
theorem exec_dumpack (val : W64) (s : State) : exec (.dumpack val) s = execDumpack val s := rfl
theorem exec_logData (s : State) : exec (.logData) s = execLogData s := rfl
theorem exec_tetherNsRead (s : State) : exec (.tetherNsRead) s = execTetherNsRead s := rfl
theorem exec_ptmhRead (s : State) : exec (.ptmhRead) s = execPtmhRead s := rfl
theorem exec_portCfgWrite (port : Fin 16) (val : W64) (s : State) :
    exec (.portCfgWrite port val) s = execPortCfgWrite port val s := rfl
theorem exec_msixTableAccess (write : Bool) (off : BitVec 24) (size : Nat) (val : W64) (s : State) :
    exec (.msixTableAccess write off size val) s = execMsixTableAccess write off size val s := rfl
theorem exec_bar2ReservedAccess (write : Bool) (off : BitVec 24) (size : Nat) (s : State) :
    exec (.bar2ReservedAccess write off size) s = execBar2ReservedAccess write off size s := rfl
theorem exec_apertureAccess (write : Bool) (off : BitVec 36) (len : Nat) (data : List Byte) (s : State) :
    exec (.apertureAccess write off len data) s = execApertureAccess write off len data s := rfl
theorem exec_completion (tag : BitVec 14) (status : CplStatus) (data : List Byte) (s : State) :
    exec (.completion tag status data) s = execCompletion tag status data s := rfl
theorem exec_completionTimeout (tag : BitVec 14) (s : State) :
    exec (.completionTimeout tag) s = execCompletionTimeout tag s := rfl
theorem exec_perst (long : Bool) (s : State) : exec (.perst long) s = execPerst long s := rfl
theorem exec_hotReset (s : State) : exec (.hotReset) s = execHotReset s := rfl
theorem exec_dlDown (s : State) : exec (.dlDown) s = execDlDown s := rfl
theorem exec_doeObject (proto : BitVec 8) (object : List Byte) (s : State) :
    exec (.doeObject proto object) s = execDoeObject proto object s := rfl
theorem exec_getMeasurements (index : BitVec 8) (s : State) :
    exec (.getMeasurements index) s = execGetMeasurements index s := rfl
theorem exec_keyExchange (doe : Bool) (peer : List Byte) (s : State) :
    exec (.keyExchange doe peer) s = execKeyExchange doe peer s := rfl
theorem exec_quote (chd : BitVec 256) (nonce : BitVec 256) (first : BitVec 16) (s : State) :
    exec (.quote chd nonce first) s = execQuote chd nonce first s := rfl
theorem exec_krBegin (session : Bool) (chd : BitVec 256) (keyid : Fin 256) (nonce : BitVec 256) (s : State) :
    exec (.krBegin session chd keyid nonce) s = execKrBegin session chd keyid nonce s := rfl
theorem exec_krWrap (session : Bool) (chd : BitVec 256) (keyid : Fin 256) (nonce : BitVec 256) (wrapped : List Byte) (sig : List Byte) (s : State) :
    exec (.krWrap session chd keyid nonce wrapped sig) s = execKrWrap session chd keyid nonce wrapped sig s := rfl
theorem exec_nonce (session : Bool) (chd : BitVec 256) (s : State) :
    exec (.nonce session chd) s = execNonce session chd s := rfl
theorem exec_revoke (session : Bool) (chd : BitVec 256) (keyid : Fin 256) (kill : Bool) (nonce : BitVec 256) (sig : List Byte) (s : State) :
    exec (.revoke session chd keyid kill nonce sig) s = execRevoke session chd keyid kill nonce sig s := rfl
theorem exec_report (session : Bool) (chd : BitVec 256) (owner : Fin 16) (nonce : BitVec 256) (sig : List Byte) (s : State) :
    exec (.report session chd owner nonce sig) s = execReport session chd owner nonce sig s := rfl
theorem exec_kSetGo (session : Bool) (stream : Fin 4) (set : Bool) (s : State) :
    exec (.kSetGo session stream set) s = execKSetGo session stream set s := rfl
theorem exec_ideFailure (stream : Fin 4) (s : State) : exec (.ideFailure stream) s = execIdeFailure stream s := rfl
theorem exec_mctpControl (pcie : Bool) (cmd : Fin 256) (eid : BitVec 8) (mtu : Nat) (s : State) :
    exec (.mctpControl pcie cmd eid mtu) s = execMctpControl pcie cmd eid mtu s := rfl
theorem exec_pldmSensor (pcie : Bool) (typ : BitVec 8) (sensor : Fin 256) (s : State) :
    exec (.pldmSensor pcie typ sensor) s = execPldmSensor pcie typ sensor s := rfl
theorem exec_requestUpdate (pcie : Bool) (s : State) : exec (.requestUpdate pcie) s = execRequestUpdate pcie s := rfl
theorem exec_updateAgentIdle (s : State) : exec (.updateAgentIdle) s = execUpdateAgentIdle s := rfl
theorem exec_imageWrite (img : ImageIn) (ends : Bool) (s : State) :
    exec (.imageWrite img ends) s = execImageWrite img ends s := rfl
theorem exec_keyRemask (s : State) : exec (.keyRemask) s = execKeyRemask s := rfl
theorem exec_remaskRetry (s : State) : exec (.remaskRetry) s = execRemaskRetry s := rfl
theorem exec_remaskStarvation (s : State) : exec (.remaskStarvation) s = execRemaskStarvation s := rfl
theorem exec_slotSweep (slot : Fin 64) (s : State) : exec (.slotSweep slot) s = execSlotSweep slot s := rfl
theorem exec_ephemExpiry (slot : Fin 64) (s : State) : exec (.ephemExpiry slot) s = execEphemExpiry slot s := rfl
theorem exec_drbgReseed (sampling : Bool) (s : State) :
    exec (.drbgReseed sampling) s = execDrbgReseed sampling s := rfl
theorem exec_entropyFailure (s : State) : exec (.entropyFailure) s = execEntropyFailure s := rfl
theorem exec_rekeyLine (t : Fin 13) (health : Health) (s : State) :
    exec (.rekeyLine t health) s = execRekeyLine t health s := rfl
theorem exec_rekeyJobComplete (t : Fin 13) (s : State) :
    exec (.rekeyJobComplete t) s = execRekeyJobComplete t s := rfl
theorem exec_patrol (da : W48) (health : Health) (s : State) :
    exec (.patrol da health) s = execPatrol da health s := rfl
theorem exec_integrityHalt (cls : BitVec 8) (ukind : BitVec 8) (uidx : BitVec 16) (s : State) :
    exec (.integrityHalt cls ukind uidx) s = execIntegrityHalt cls ukind uidx s := rfl
theorem exec_slotRebuild (m : Fin 4) (i : Fin 32768) (park : Bool) (s : State) :
    exec (.slotRebuild m i park) s = execSlotRebuild m i park s := rfl
theorem exec_resendTimeout (m : Fin 4) (s : State) : exec (.resendTimeout m) s = execResendTimeout m s := rfl
theorem exec_redundancyMismatch (core : Fin 512) (field : BitVec 64) (s : State) :
    exec (.redundancyMismatch core field) s = execRedundancyMismatch core field s := rfl
theorem exec_coreReset (core : Fin 512) (s : State) : exec (.coreReset core) s = execCoreReset core s := rfl
theorem exec_clusterReset (cluster : Fin 64) (s : State) :
    exec (.clusterReset cluster) s = execClusterReset cluster s := rfl
theorem exec_cdieReset (die : Fin 8) (s : State) : exec (.cdieReset die) s = execCdieReset die s := rfl
theorem exec_mdieReset (m : Fin 4) (s : State) : exec (.mdieReset m) s = execMdieReset m s := rfl
theorem exec_resetFenceExpiry (kind : Fin 4) (i : Fin 512) (s : State) :
    exec (.resetFenceExpiry kind i) s = execResetFenceExpiry kind i s := rfl
theorem exec_unitReady (kind : Fin 4) (i : Fin 512) (s : State) :
    exec (.unitReady kind i) s = execUnitReady kind i s := rfl
theorem exec_mdieReady (m : Fin 4) (s : State) : exec (.mdieReady m) s = execMdieReady m s := rfl
theorem exec_resetEscalation (kind : Fin 4) (i : Fin 512) (s : State) :
    exec (.resetEscalation kind i) s = execResetEscalation kind i s := rfl
theorem exec_integrityWritebackTimeout (m : Fin 4) (s : State) :
    exec (.integrityWritebackTimeout m) s = execIntegrityWritebackTimeout m s := rfl
theorem exec_progressWatchdog (core : Fin 512) (s : State) :
    exec (.progressWatchdog core) s = execProgressWatchdog core s := rfl
theorem exec_noProgress (kind : Fin 5) (i : Fin 192) (s : State) :
    exec (.noProgress kind i) s = execNoProgress kind i s := rfl
theorem exec_heartbeat (word : W64) (s : State) : exec (.heartbeat word) s = execHeartbeat word s := rfl
theorem exec_heartbeatMissed (s : State) : exec (.heartbeatMissed) s = execHeartbeatMissed s := rfl
theorem exec_lockstepMismatch (s : State) : exec (.lockstepMismatch) s = execLockstepMismatch s := rfl
theorem exec_start (i : StartIn) (s : State) : exec (.start i) s = execStart i s := rfl
theorem exec_startTimerExpiry (s : State) : exec (.startTimerExpiry) s = execStartTimerExpiry s := rfl
theorem exec_trainingRecordSeal (s : State) : exec (.trainingRecordSeal) s = execTrainingRecordSeal s := rfl
theorem exec_lcAdvance (s : State) : exec (.lcAdvance) s = execLcAdvance s := rfl
theorem exec_mainSupplyRise (s : State) : exec (.mainSupplyRise) s = execMainSupplyRise s := rfl
theorem exec_supplyFault (cause : Fin 4) (vin : BitVec 16) (iin : BitVec 16) (s : State) :
    exec (.supplyFault cause vin iin) s = execSupplyFault cause vin iin s := rfl
theorem exec_auxSupplyRise (s : State) : exec (.auxSupplyRise) s = execAuxSupplyRise s := rfl
theorem exec_auxSupplyFall (s : State) : exec (.auxSupplyFall) s = execAuxSupplyFall s := rfl
theorem exec_powerCapTick (p : BitVec 16) (s : State) : exec (.powerCapTick p) s = execPowerCapTick p s := rfl
theorem exec_operatingPointChange (die : Fin 8) (s : State) :
    exec (.operatingPointChange die) s = execOperatingPointChange die s := rfl
theorem exec_pwrBrakeAssert (long : Bool) (s : State) :
    exec (.pwrBrakeAssert long) s = execPwrBrakeAssert long s := rfl
theorem exec_pwrBrakeDeassert (s : State) : exec (.pwrBrakeDeassert) s = execPwrBrakeDeassert s := rfl
theorem exec_thermalSample (t : TempIn) (s : State) : exec (.thermalSample t) s = execThermalSample t s := rfl
theorem exec_thermalThrottleTick (s : State) : exec (.thermalThrottleTick) s = execThermalThrottleTick s := rfl
theorem exec_thermalHalt (die : Fin 13) (s : State) : exec (.thermalHalt die) s = execThermalHalt die s := rfl
theorem exec_fabRefclkLoss (s : State) : exec (.fabRefclkLoss) s = execFabRefclkLoss s := rfl
theorem exec_fabRefclkRecovery (s : State) : exec (.fabRefclkRecovery) s = execFabRefclkRecovery s := rfl
theorem exec_checkpointCapture (g : GenFrom) (s : State) :
    exec (.checkpointCapture g) s = execCheckpointCapture g s := rfl
theorem exec_checkpointFlip (g : GenFrom) (how : CkptEnd) (s : State) :
    exec (.checkpointFlip g how) s = execCheckpointFlip g how s := rfl
theorem exec_checkpointTimeout (s : State) : exec (.checkpointTimeout) s = execCheckpointTimeout s := rfl
theorem exec_streamSegment (ok : Bool) (s : State) : exec (.streamSegment ok) s = execStreamSegment ok s := rfl
theorem exec_unassignedMajorOpcode (h : Issue) (op : BitVec 6) (s : State) :
    exec (.unassignedMajorOpcode h op) s = execUnassignedMajorOpcode h op s := rfl
theorem exec_instructionFetchFault (core : Fin 512) (s : State) :
    exec (.instructionFetchFault core) s = execInstructionFetchFault core s := rfl
theorem exec_pcieLinkUp (speed : Fin 7) (width : Fin 17) (flit : Bool) (s : State) :
    exec (.pcieLinkUp speed width flit) s = execPcieLinkUp speed width flit s := rfl
theorem exec_testAccessPortInstruction (die : Fin 13) (instr : Fin 8) (perst : Bool) (s : State) :
    exec (.testAccessPortInstruction die instr perst) s = execTestAccessPortInstruction die instr perst s := rfl
theorem exec_correctedErrorHour (s : State) : exec (.correctedErrorHour) s = execCorrectedErrorHour s := rfl
theorem exec_objExportComplete (i : Nat) (ok : Bool) (s : State) :
    exec (.objExportComplete i ok) s = execObjExportComplete i ok s := rfl
theorem exec_clusterMoveTimeout (chan : Fin 8) (s : State) :
    exec (.clusterMoveTimeout chan) s = execClusterMoveTimeout chan s := rfl
theorem exec_slotOutTimeout (chan : Fin 8) (s : State) :
    exec (.slotOutTimeout chan) s = execSlotOutTimeout chan s := rfl
theorem exec_fieldTestComplete (fails : List FailRec) (members : List Nat) (s : State) :
    exec (.fieldTestComplete fails members) s = execFieldTestComplete fails members s := rfl
theorem exec_refreshIntervalBoundary (die : Fin 8) (s : State) :
    exec (.refreshIntervalBoundary die) s = execRefreshIntervalBoundary die s := rfl

end Sys2Proof.Machine
end

