-- ==== Sys2Proof/Laws/Table.lean ====
section
/-! SUPPORT. Sparse tables and byte memories: what a read gives after a write, and the canonical
form that every operation on them keeps. -/

namespace Sys2Proof.Machine

variable {α : Type} [DecidableEq α] {d : α}

omit [DecidableEq α] in
@[simp] theorem Tab.get_nil (d : α) (k : Nat) : Tab.get d ([] : Tab α) k = d := rfl

/-- A write leaves every other key as it was. -/
theorem Tab.get_set_ne (t : Tab α) (k j : Nat) (v : α) (h : j ≠ k) :
    Tab.get d (Tab.set d t k v) j = Tab.get d t j := by
  induction t with
  | nil => by_cases hv : v = d <;> simp [Tab.set, Tab.get, hv]; intro e; exact absurd e.symm h
  | cons p t ih =>
      obtain ⟨a, w⟩ := p
      simp only [Tab.set]
      split
      · split
        · rfl
        · rw [Tab.get, if_neg (fun e => h e.symm)]
      · split
        · next e =>
            subst e
            split
            · rw [Tab.get, if_neg (fun e => h e.symm)]
            · rw [Tab.get, Tab.get, if_neg (fun e => h e.symm), if_neg (fun e => h e.symm)]
        · rw [Tab.get, Tab.get, ih]

theorem Tab.wfFrom_mono (t : Tab α) {lo hi : Nat} (h : lo ≤ hi) (w : Tab.wfFrom d hi t = true) :
    Tab.wfFrom d lo t = true := by
  cases t with
  | nil => rfl
  | cons p t => obtain ⟨a, v⟩ := p; simp [Tab.wfFrom] at *; exact ⟨⟨by omega, w.1.2⟩, w.2⟩

/-- Below the first key of a canonical table every key reads as the default. -/
theorem Tab.get_of_wfFrom (t : Tab α) {lo k : Nat} (h : k < lo) (w : Tab.wfFrom d lo t = true) :
    Tab.get d t k = d := by
  induction t generalizing lo with
  | nil => rfl
  | cons p t ih =>
      obtain ⟨a, v⟩ := p
      simp [Tab.wfFrom] at w
      rw [Tab.get, if_neg (by omega)]
      exact ih (lo := a + 1) (by omega) w.2

/-- In a canonical table a write is what a read of its key then gives. -/
theorem Tab.get_set_self_from (t : Tab α) (k : Nat) (v : α) {lo : Nat} (w : Tab.wfFrom d lo t = true) :
    Tab.get d (Tab.set d t k v) k = v := by
  induction t generalizing lo with
  | nil => by_cases hv : v = d <;> simp [Tab.set, Tab.get, hv]
  | cons p t ih =>
      obtain ⟨a, u⟩ := p
      simp [Tab.wfFrom] at w
      simp only [Tab.set]
      split
      · next hk =>
          split
          · next hv =>
              rw [Tab.get, if_neg (by omega), hv]
              exact Tab.get_of_wfFrom t (lo := a + 1) (by omega) w.2
          · simp [Tab.get]
      · split
        · next e =>
            subst e
            split
            · next hv => rw [hv]; exact Tab.get_of_wfFrom t (lo := k + 1) (by omega) w.2
            · simp [Tab.get]
        · next ne => rw [Tab.get, if_neg (fun e => ne e.symm)]; exact ih w.2

theorem Tab.get_set_self (t : Tab α) (k : Nat) (v : α) (w : Tab.wf d t = true) :
    Tab.get d (Tab.set d t k v) k = v := Tab.get_set_self_from t k v w

/-- What a key reads as after a write of a canonical table. -/
theorem Tab.get_set (t : Tab α) (k j : Nat) (v : α) (w : Tab.wf d t = true) :
    Tab.get d (Tab.set d t k v) j = if j = k then v else Tab.get d t j := by
  split
  · next e => subst e; exact Tab.get_set_self t _ v w
  · next ne => exact Tab.get_set_ne t k j v ne

theorem Tab.wfFrom_set (t : Tab α) (k : Nat) (v : α) {lo : Nat} (hk : lo ≤ k) (w : Tab.wfFrom d lo t = true) :
    Tab.wfFrom d lo (Tab.set d t k v) = true := by
  induction t generalizing lo with
  | nil => by_cases hv : v = d <;> simp [Tab.set, Tab.wfFrom, hv, hk]
  | cons p t ih =>
      obtain ⟨a, u⟩ := p
      simp [Tab.wfFrom] at w
      simp only [Tab.set]
      split
      · split
        · simp [Tab.wfFrom, w]
        · next hlt hv => simp [Tab.wfFrom, hk, hv, w.1.2, w.2]; omega
      · split
        · next e =>
            subst e
            split
            · exact Tab.wfFrom_mono t (by omega) w.2
            · next hv => simp [Tab.wfFrom, hk, hv, w.2]
        · simp only [Tab.wfFrom, Bool.and_eq_true, decide_eq_true_eq]
          exact ⟨w.1, ih (by omega) w.2⟩

/-- A write keeps the canonical form. -/
theorem Tab.wf_set (t : Tab α) (k : Nat) (v : α) (w : Tab.wf d t = true) : Tab.wf d (Tab.set d t k v) = true :=
  Tab.wfFrom_set t k v (Nat.zero_le _) w

theorem Tab.wf_upd (t : Tab α) (k : Nat) (f : α → α) (w : Tab.wf d t = true) :
    Tab.wf d (Tab.upd d t k f) = true := Tab.wf_set t k _ w

theorem Tab.wfFrom_filter (t : Tab α) (p : Nat × α → Bool) {lo : Nat} (w : Tab.wfFrom d lo t = true) :
    Tab.wfFrom d lo (t.filter p) = true := by
  induction t generalizing lo with
  | nil => rfl
  | cons e t ih =>
      obtain ⟨a, v⟩ := e
      simp only [Tab.wfFrom, Bool.and_eq_true, decide_eq_true_eq] at w
      rw [List.filter_cons]
      split
      · simp only [Tab.wfFrom, Bool.and_eq_true, decide_eq_true_eq]; exact ⟨w.1, ih w.2⟩
      · exact Tab.wfFrom_mono _ (by omega) (ih w.2)

/-- Removing keys keeps the canonical form. -/
theorem Tab.wf_filter (t : Tab α) (p : Nat × α → Bool) (w : Tab.wf d t = true) : Tab.wf d (t.filter p) = true :=
  Tab.wfFrom_filter t p w

theorem Tab.wf_drop (t : Tab α) (p : Nat → Bool) (w : Tab.wf d t = true) : Tab.wf d (Tab.drop t p) = true :=
  Tab.wfFrom_filter t _ w

/-- The entries of a table after a write are old ones or the one written. -/
theorem Tab.mem_set (t : Tab α) (k : Nat) (v : α) {e : Nat × α} (h : e ∈ Tab.set d t k v) : e ∈ t ∨ e = (k, v) := by
  induction t with
  | nil => simp only [Tab.set] at h; split at h <;> simp_all
  | cons p t ih =>
      obtain ⟨a, u⟩ := p
      simp only [Tab.set] at h
      split at h
      · split at h
        · exact .inl h
        · rcases List.mem_cons.1 h with h | h
          · exact .inr h
          · exact .inl h
      · split at h
        · split at h
          · exact .inl (List.mem_cons_of_mem _ h)
          · rcases List.mem_cons.1 h with h | h
            · exact .inr h
            · exact .inl (List.mem_cons_of_mem _ h)
        · rcases List.mem_cons.1 h with h | h
          · exact .inl (by rw [h]; exact List.mem_cons_self)
          · rcases ih h with h | h
            · exact .inl (List.mem_cons_of_mem _ h)
            · exact .inr h

omit [DecidableEq α] in
/-- What a table reads is an entry of it or the default. -/
theorem Tab.get_mem (t : Tab α) (k : Nat) : Tab.get d t k = d ∨ (k, Tab.get d t k) ∈ t := by
  induction t with
  | nil => exact .inl rfl
  | cons p t ih =>
      obtain ⟨a, u⟩ := p
      rw [Tab.get]
      split
      · next e => subst e; exact .inr List.mem_cons_self
      · rcases ih with h | h
        · exact .inl h
        · exact .inr (List.mem_cons_of_mem _ h)

/-- Two canonical tables that read alike are the same data. -/
theorem Tab.ext_from (t u : Tab α) {lo : Nat} (w : Tab.wfFrom d lo t = true) (x : Tab.wfFrom d lo u = true)
    (h : ∀ k, Tab.get d t k = Tab.get d u k) : t = u := by
  induction t generalizing u lo with
  | nil =>
      cases u with
      | nil => rfl
      | cons q u =>
          obtain ⟨b, z⟩ := q
          simp [Tab.wfFrom] at x
          exact absurd (by simpa [Tab.get] using (h b).symm) x.1.2
  | cons p t ih =>
      obtain ⟨a, v⟩ := p
      simp [Tab.wfFrom] at w
      cases u with
      | nil => exact absurd (by simpa [Tab.get] using h a) w.1.2
      | cons q u =>
          obtain ⟨b, z⟩ := q
          simp [Tab.wfFrom] at x
          have hab : a = b := by
            by_contra ne
            rcases Nat.lt_or_gt_of_ne ne with l | l
            · have := h a
              rw [Tab.get, if_pos rfl, Tab.get, if_neg (fun e => ne e.symm),
                Tab.get_of_wfFrom u (lo := b + 1) (by omega) x.2] at this
              exact w.1.2 this
            · have := h b
              rw [Tab.get, if_neg (fun e => ne e), Tab.get_of_wfFrom t (lo := a + 1) (by omega) w.2,
                Tab.get, if_pos rfl] at this
              exact x.1.2 this.symm
          subst hab
          have hv : v = z := by simpa [Tab.get] using h a
          subst hv
          have : t = u := by
            refine ih u w.2 x.2 fun k => ?_
            have hk := h k
            rw [Tab.get, Tab.get] at hk
            by_cases e : a = k
            · subst e
              rw [Tab.get_of_wfFrom t (lo := a + 1) (by omega) w.2, Tab.get_of_wfFrom u (lo := a + 1) (by omega) x.2]
            · rwa [if_neg e, if_neg e] at hk
          rw [this]

/-- Equal memories are equal data. -/
theorem Tab.ext (t u : Tab α) (w : Tab.wf d t = true) (x : Tab.wf d u = true)
    (h : ∀ k, Tab.get d t k = Tab.get d u k) : t = u := Tab.ext_from t u w x h

/-! ### Byte memories -/

/-- Writing bytes keeps the canonical form. -/
theorem wf_putBytes (t : Tab Byte) (a : Nat) (b : List Byte) (w : Tab.wf 0 t = true) :
    Tab.wf 0 (putBytes t a b) = true := by
  induction b generalizing t a with
  | nil => exact w
  | cons x b ih => exact ih _ _ (Tab.wf_set t a x w)

/-- Bytes outside the range written are as they were. -/
theorem get_putBytes_outside (t : Tab Byte) (a : Nat) (b : List Byte) (k : Nat) (h : k < a ∨ a + b.length ≤ k) :
    Tab.get 0 (putBytes t a b) k = Tab.get 0 t k := by
  induction b generalizing t a with
  | nil => rfl
  | cons x b ih =>
      simp only [List.length_cons] at h
      rw [putBytes, ih _ _ (by omega), Tab.get_set_ne _ _ _ _ (by omega)]

/-- Byte `i` written is what a read of its address then gives. -/
theorem get_putBytes_inside (t : Tab Byte) (a : Nat) (b : List Byte) (w : Tab.wf 0 t = true) (i : Nat)
    (h : i < b.length) : Tab.get 0 (putBytes t a b) (a + i) = b[i] := by
  induction b generalizing t a i with
  | nil => simp at h
  | cons x b ih =>
      rw [putBytes]
      cases i with
      | zero =>
          rw [get_putBytes_outside _ _ _ _ (by omega)]
          simpa using Tab.get_set_self t a x w
      | succ i =>
          have := ih (Tab.set 0 t a x) (a + 1) (Tab.wf_set t a x w) i (by simpa using h)
          simpa [Nat.add_assoc, Nat.add_comm 1] using this

/-- A read of the bytes just written gives them. -/
theorem bytesAt_putBytes (t : Tab Byte) (a : Nat) (b : List Byte) (w : Tab.wf 0 t = true) :
    bytesAt (putBytes t a b) a b.length = b := by
  apply List.ext_getElem
  · simp [bytesAt]
  · intro i h1 h2
    simpa [bytesAt] using get_putBytes_inside t a b w i h2

end Sys2Proof.Machine
end

