-- ==== Sys2Proof/Laws/Issue.lean ====
section
/-! SUPPORT. What `issue` and `mailbox` do when the conditions of the manual hold. -/

namespace Sys2Proof.Machine

/-- A number of `n` bytes has `n` bytes. -/
@[simp] theorem leBytes_length (n v : Nat) : (leBytes n v).length = n := by
  induction n generalizing v with
  | zero => rfl
  | succ n ih => simp [leBytes, ih]

/-- An instruction that executes and whose body completes. -/
theorem issue_ok {s t : State} {h : Issue} {c words : Nat} {fenceOp : Bool} {bad : Option Nat} {u : Uses}
    {body : Nat → State → Res (Option W48)} {x : Option W48} (e : s.Executes h c u)
    (hf : fenceOp = true → h.pred = 0 ∧ h.pneg = false) (hb : bad = none) (hx : body c s = .ok t x) :
    issue h words fenceOp bad u s body = t.retired h.core.val (x.getD (s.pcAfter h words)) := by
  have p : ((s.core h.core.val).pr h.pred == h.pneg) = false := by simpa using e.pass
  have f : (fenceOp && (h.pred != 0 || h.pneg)) = false := by
    cases fenceOp
    · rfl
    · obtain ⟨a, b⟩ := hf rfl; simp [a, b]
  unfold issue
  simp only [e.holds, e.issues, e.going, e.aligned, e.legal, e.known, e.ready, p, f, hb, hx, Bool.not_true, Bool.false_and,
    Bool.false_eq_true, Option.isSome_none, Bool.or_self, ne_eq, not_true_eq_false, if_false, State.retired, State.pcAfter]

/-- One that executes and changes its core alone. -/
theorem issue_onCore {s : State} {h : Issue} {c : Nat} {u : Uses} {f : Core → Core} (e : s.Executes h c u) :
    issue h 1 false none u s (fun _ s => onCore h.core.val f s) = s.after h f :=
  issue_ok (words := 1) (fenceOp := false) (t := s.updCore h.core.val f) (x := none) e (by simp) rfl rfl

/-- Runs of slots within the operand cache are no cause. -/
theorem slotCause_none {l : List (Nat × Nat)} (h : ∀ r ∈ l, r.1 + r.2 ≤ 2048) : slotCause l = none := by
  unfold slotCause
  rw [if_neg]
  simp only [List.any_eq_true, decide_eq_true_eq, not_exists, not_and]
  intro r hr; have := h r hr; omega

/-- One that the interlock does not hold and that changes its core alone. -/
theorem issue_clear {s : State} {h : Issue} {c : Nat} {bad : Option Nat} {u : Uses} {x : Nat → State → Ext}
    {f : Nat → State → Core → Core} (e : s.Executes h c u) (hb : bad = none) (hl : s.lockedNow h.core.val (x c s) = false) :
    issue h 1 false bad u s (fun c s => interlocked s h.core.val (x c s) (onCore h.core.val (f c s) s)) = s.after h (f c s) := by
  refine issue_ok (words := 1) (fenceOp := false) (t := s.updCore h.core.val (f c s)) (x := none) e (by simp) hb ?_
  unfold interlocked; rw [if_neg (by rw [hl]; simp)]; rfl

/-- What an instruction does to its core matters at that core alone. -/
theorem after_congr {s : State} {h : Issue} {f g : Core → Core} (e : f (s.core h.core.val) = g (s.core h.core.val)) :
    s.after h f = s.after h g := by
  unfold State.after State.updCore; rw [e]

/-- A body that waits leaves what its wait says. -/
theorem issue_wait {s t : State} {h : Issue} {c words : Nat} {fenceOp : Bool} {bad : Option Nat} {u : Uses}
    {body : Nat → State → Res (Option W48)} (e : s.Executes h c u)
    (hf : fenceOp = true → h.pred = 0 ∧ h.pneg = false) (hb : bad = none) (hx : body c s = .wait t) :
    issue h words fenceOp bad u s body = t := by
  have p : ((s.core h.core.val).pr h.pred == h.pneg) = false := by simpa using e.pass
  have f : (fenceOp && (h.pred != 0 || h.pneg)) = false := by
    cases fenceOp
    · rfl
    · obtain ⟨a, b⟩ := hf rfl; simp [a, b]
  unfold issue
  simp only [e.holds, e.issues, e.going, e.aligned, e.legal, e.known, e.ready, p, f, hb, hx, Bool.not_true, Bool.false_and,
    Bool.false_eq_true, Option.isSome_none, Bool.or_self, ne_eq, not_true_eq_false, if_false]

/-- The command that Yorek takes next is answered. -/
theorem mailbox_takes {s : State} {c : MbxCall} {k : List W64 → Cmd} {body : List W64 → State → State × Reply} {opc : Nat}
    (e : s.Takes c opc) (ho : (k c.args).opc = opc) :
    mailbox c k body s = s.taken.take c.chan.val (s.argsOf c) (k (s.argsOf c)) (body (s.argsOf c)) := by
  unfold mailbox State.mailboxUp
  simp [e.dev, e.free, e.d0, e.active, e.code, e.seq, e.front, ho, State.taken, State.argsOf]

/-- A command that passes its checks runs its body. -/
theorem take_ok {s : State} {c : MbxCall} {k : Cmd} {body : State → State × Reply} {opc : Nat} {masks : List W64}
    {names : List (Nat × Nat)} {ctxs : List Nat} (e : s.Admits c opc masks names ctxs) (hm : k.masks = masks)
    (hn : k.names = names) (hc : k.ctxs = ctxs) (hb : k.bad = false) :
    s.taken.answer c.chan.val (s.argsOf c) k body = body s.taken := by
  subst hm hn hc
  have l (i : Nat) (hi : i ∈ k.ctxs) : (s.taken.ctx i).st = .idle ∨ (s.taken.ctx i).st = .resident := e.live i hi
  have g (x : CtxState) (hx : x ≠ .idle ∧ x ≠ .resident) : (k.ctxs.any fun i => (s.taken.ctx i).st == x) = false := by
    rw [List.any_eq_false]
    intro i hi
    rcases l i hi with h | h <;> rw [h] <;> simp [hx.1.symm, hx.2.symm]
  have d : (s.taken.dev != .ready) = false := by rw [show s.taken.dev = s.dev from rfl, e.takes.dev]; rfl
  unfold State.answer
  simp [d, e.plain, e.unheld, hb, g .free (by decide), g .lost (by decide), g .aborting (by decide)]

/-- A command that completes at once. -/
theorem mailbox_done {s t : State} {c : MbxCall} {k : List W64 → Cmd} {body : List W64 → State → State × Reply} {opc st : Nat}
    {masks : List W64} {names : List (Nat × Nat)} {ctxs : List Nat} {res : List W64} (e : s.Admits c opc masks names ctxs)
    (ho : (k c.args).opc = opc) (hm : (k (s.argsOf c)).masks = masks) (hn : (k (s.argsOf c)).names = names)
    (hc : (k (s.argsOf c)).ctxs = ctxs) (hb : (k (s.argsOf c)).bad = false)
    (hx : body (s.argsOf c) s.taken = (t, .done st res)) : mailbox c k body s = t.answers c st res := by
  rw [mailbox_takes e.takes ho]
  unfold State.take
  rw [take_ok e hm hn hc hb, hx]
  rfl

/-- A command that is refused. -/
theorem mailbox_refused {s t : State} {c : MbxCall} {k : List W64 → Cmd} {body : List W64 → State → State × Reply} {opc d : Nat}
    {masks : List W64} {names : List (Nat × Nat)} {ctxs : List Nat} (e : s.Admits c opc masks names ctxs)
    (ho : (k c.args).opc = opc) (hm : (k (s.argsOf c)).masks = masks) (hn : (k (s.argsOf c)).names = names)
    (hc : (k (s.argsOf c)).ctxs = ctxs) (hb : (k (s.argsOf c)).bad = false)
    (hx : body (s.argsOf c) s.taken = (t, .refused d)) : mailbox c k body s = t.refuses c d := by
  rw [mailbox_takes e.takes ho]
  unfold State.take
  rw [take_ok e hm hn hc hb, hx]
  rfl

/-- A command that waits. -/
theorem mailbox_waits {s t : State} {c : MbxCall} {k : List W64 → Cmd} {body : List W64 → State → State × Reply} {opc : Nat}
    {masks : List W64} {names : List (Nat × Nat)} {ctxs : List Nat} {w : MbxWait} (e : s.Admits c opc masks names ctxs)
    (ho : (k c.args).opc = opc) (hm : (k (s.argsOf c)).masks = masks) (hn : (k (s.argsOf c)).names = names)
    (hc : (k (s.argsOf c)).ctxs = ctxs) (hb : (k (s.argsOf c)).bad = false)
    (hx : body (s.argsOf c) s.taken = (t, .wait w)) : mailbox c k body s = t.waits c w names := by
  rw [mailbox_takes e.takes ho]
  unfold State.take
  rw [take_ok e hm hn hc hb, hx, ← hn]
  rfl

/-- A packet that starts does its operation. -/
theorem packet_starts {s : State} {p : Pkt} {c opc : Nat} {unused : List Nat} {bad : Nat → State → Bool}
    {start : Nat → State → State} (e : s.Starts p c opc unused) (hb : bad c s = false) :
    packet p opc unused bad start s = start c s := by
  have h : (((s.ctx c).queue p.queue).head == ((s.ctx c).queue p.queue).tail) = false := by simpa using e.waits
  unfold packet
  simp only [e.slot, e.dev, e.queue, h, e.alive, e.resident, e.stays, Nat.not_le.2 e.room, e.first, e.legal, e.free, e.quiet, hb,
    bne_self_eq_false, Bool.not_true, Bool.or_self, decide_false, Bool.false_eq_true, if_false]

/-- An 8 B doorbell write without reserved bits, of a resident context. -/
theorem doorbell_takes {s : State} {slot c : Nat} {val : W64} {f : Nat → BitVec 32 → State → State}
    (h1 : s.slotCtx slot = some c) (h2 : s.dev = .ready) (h3 : s.resident c = true) (h4 : val.toNat < 2 ^ 32) :
    s.doorbell slot 8 val f = f c (BitVec.ofNat 32 val.toNat) s := by
  have h : (fld val 63 32 != 0) = false := by
    simp only [fld, bne_eq_false_iff_eq]
    rw [Nat.shiftRight_eq_div_pow, Nat.div_eq_of_lt h4]; rfl
  unfold State.doorbell
  simp [h1, h2, h3, h]

/-- Counting changes registers alone. -/
theorem bumpAt_eq (s : State) (a o n : Nat) : s.bumpAt a o n = { s with regs := (s.bumpAt a o n).regs } := by
  unfold State.bumpAt; dsimp only; split <;> rfl
/-- Retiring an instruction changes its core and the registers that count. -/
theorem retired_eq (s : State) (n : Nat) (pc : W48) : s.retired n pc =
    { s with cores := Tab.set {} s.cores n { s.core n with pc := pc, fresh := false }, regs := (s.bumpCore n 0 1).regs } := by
  unfold State.retired State.bumpCore State.bump
  rw [bumpAt_eq]; rfl
/-- An instruction that changes its core alone. -/
theorem after_eq (s : State) (h : Issue) (f : Core → Core) (w : Tab.wf {} s.cores = true) : s.after h f =
    { s with
      cores := Tab.set {} (Tab.set {} s.cores h.core.val (f (s.core h.core.val))) h.core.val
        { f (s.core h.core.val) with pc := s.pcAfter h 1, fresh := false }
      regs := (s.bumpCore h.core.val 0 1).regs } := by
  unfold State.after
  rw [retired_eq]
  have e : (s.updCore h.core.val f).core h.core.val = f (s.core h.core.val) := Tab.get_set_self _ _ _ w
  rw [e]
  have r : ((s.updCore h.core.val f).bumpCore h.core.val 0 1).regs = (s.bumpCore h.core.val 0 1).regs := by
    unfold State.bumpCore State.bump State.bumpAt
    simp only [apply_ite State.regs]
    rfl
  rw [r]; rfl

end Sys2Proof.Machine
end

