-- ==== Sys2Proof/Laws/Flit.lean ====
section
/-! SUPPORT. What a flit closed by its CRC and its tag reads as (`11` R263–R266). -/

namespace Sys2Proof.Machine

/-- A little-endian number reads back modulo its width. -/
theorem leNat_leBytes (k n : Nat) : leNat (leBytes k n) = n % 256 ^ k := by
  induction k generalizing n with
  | zero => simp [leBytes, leNat, Nat.mod_one]
  | succ k ih =>
      have h := Nat.mod_mul (x := n) (a := 256) (b := 256 ^ k)
      simp only [leBytes, leNat, ih, Nat.pow_succ, BitVec.toNat_ofNat]
      rw [Nat.mul_comm (256 ^ k) 256, h]
@[simp] theorem fitTo_length (n : Nat) (b : List Byte) : (fitTo n b).length = n := by simp [fitTo]
/-- A byte string of the width asked for stays as it is, whatever follows it. -/
theorem fitTo_append (n : Nat) (a b : List Byte) (h : a.length = n) : fitTo n (a ++ b) = a := by
  simp [fitTo, ← h]
@[simp] theorem flitStream_length (key : BitVec 128) (iv aad : List Byte) : (flitStream key iv aad).length = 224 := by
  simp [flitStream]
@[simp] theorem flitTag_length (key : BitVec 128) (iv aad plain : List Byte) : (flitTag key iv aad plain).length = 8 := by
  simp [flitTag]
@[simp] theorem xorBytes_length (a b : List Byte) : (xorBytes a b).length = min a.length b.length := by simp [xorBytes]
/-- A stream cipher opens what it sealed. -/
theorem xorBytes_twice (a b : List Byte) (h : a.length = b.length) : xorBytes (xorBytes a b) b = a := by
  induction a generalizing b with
  | nil => simp [xorBytes]
  | cons x a ih => cases b with
    | nil => simp at h
    | cons y b =>
        simp only [List.length_cons, Nat.add_right_cancel_iff] at h
        simp [xorBytes] at ih ⊢
        exact ih b h
/-- Closing a flit makes its CRC good (R265). -/
theorem crcGood_closeFlit (b : List Byte) (h : b.length = 248) : crcGood (closeFlit b) = true := by
  simp [crcGood, closeFlit, leAt, ← h, leNat_leBytes, List.take_of_length_le, Nat.mod_eq_of_lt (crc64 b).isLt]
/-- What a flit whose bytes are a header, a sealed payload and a tag opens to (R266): its payload where the tag is right. -/
theorem unseal_wire (f : Flit) (key : BitVec 128) (epoch : Nat) (head plain tag tail : List Byte)
    (hh : head.length = 16) (hp : plain.length = 224) (ht : tag.length = 8)
    (hw : f.wire = head ++ (xorBytes plain (flitStream key (f.iv epoch) head) ++ (tag ++ tail))) :
    f.unseal key epoch = if flitTag key (f.iv epoch) head plain == tag then some plain else none := by
  have hx : (xorBytes plain (flitStream key (f.iv epoch) head)).length = 224 := by simp [hp]
  have h16 : f.wire.take 16 = head := by simp [hw, ← hh]
  have d16 : f.wire.drop 16 = xorBytes plain (flitStream key (f.iv epoch) head) ++ (tag ++ tail) := by simp [hw, ← hh]
  have d240 : f.wire.drop 240 = tag ++ tail := by
    have : f.wire.drop 240 = (f.wire.drop 16).drop 224 := by simp
    rw [this, d16, ← hx, List.drop_left]
  simp only [Flit.unseal, h16, d16, d240, fitTo_append _ _ _ hx, fitTo_append _ _ _ ht, xorBytes_twice _ _ (hp.trans (flitStream_length _ _ _).symm)]

end Sys2Proof.Machine
end

