-- ==== Sys2Proof/Laws/Keeps.lean ====
section
/-! SUPPORT. What every operation of the state keeps: the canonical form, and what only advances. One
lemma per operation, in the form that composes: what held from `r` to the state before holds from
`r` to the state after. -/

namespace Sys2Proof.Machine

/-- From one state to a later one: the canonical form is kept, and what only advances has not gone back. -/
structure Keeps (s t : State) : Prop where
  oneWay : OneWay s t
  canonical : s.Canonical → t.Canonical

theorem OneWay.refl (s : State) : OneWay s s :=
  ⟨rfl, rfl, by simp, by simp, by simp, le_rfl, by simp, le_rfl⟩

/-- Bits that are never cleared compose. -/
theorem bits_trans {w : Nat} {a b c : BitVec w} (h : a &&& b = a) (g : b &&& c = b) : a &&& c = a := by
  rw [← h, BitVec.and_assoc, g]

theorem OneWay.trans {r s t : State} (h : OneWay r s) (g : OneWay s t) : OneWay r t :=
  ⟨g.pending.trans h.pending, g.code.trans h.code, bits_trans h.lcm g.lcm, bits_trans h.lcp g.lcp,
    bits_trans h.dies g.dies, h.ctr.trans g.ctr, bits_trans h.revoked g.revoked, h.free.trans g.free⟩

theorem Keeps.refl (s : State) : Keeps s s := ⟨.refl s, id⟩

theorem Keeps.trans {r s t : State} (h : Keeps r s) (g : Keeps s t) : Keeps r t :=
  ⟨h.oneWay.trans g.oneWay, g.canonical ∘ h.canonical⟩

theorem Keeps.ite {r a b : State} {c : Prop} [Decidable c] (h : Keeps r a) (g : Keeps r b) :
    Keeps r (if c then a else b) := by split <;> assumption

/-- A fold of an operation that keeps. -/
theorem Keeps.foldl {α : Type} {r : State} {f : State → α → State} (h : ∀ s x, Keeps r s → Keeps r (f s x)) (l : List α)
    {s : State} (k : Keeps r s) : Keeps r (l.foldl f s) := by
  induction l generalizing s with
  | nil => exact k
  | cons x l ih => exact ih (h s x k)

/-- What each part of a state keeps. -/
structure WfKeep (a b : Tab Byte) : Prop where
  keep : Memory.wf a = true → Memory.wf b = true
/-- Register tables of the cores. -/
structure CoresKeep (a b : Tab Core) : Prop where
  keep : (∀ e ∈ a, e.2.canonical = true) → ∀ e ∈ b, e.2.canonical = true
/-- A core's own registers. -/
structure CoreKeep (a b : Core) : Prop where
  keep : a.canonical = true → b.canonical = true
/-- OTP and fuses only advance. -/
structure LifeUp (a b : LifeCycle) : Prop where
  lcm : a.lcm &&& b.lcm = a.lcm
  lcp : a.lcp &&& b.lcp = a.lcp
  dies : a.dies &&& b.dies = a.dies
/-- The rollback counter and the revocations only advance. -/
structure BootUp (a b : Boot) : Prop where
  ctr : a.ctr ≤ b.ctr
  revoked : a.revoked &&& b.revoked = a.revoked

theorem LifeUp.refl (a : LifeCycle) : LifeUp a a := ⟨by simp, by simp, by simp⟩
theorem LifeUp.trans {a b c : LifeCycle} (h : LifeUp a b) (g : LifeUp b c) : LifeUp a c :=
  ⟨bits_trans h.lcm g.lcm, bits_trans h.lcp g.lcp, bits_trans h.dies g.dies⟩
theorem BootUp.refl (a : Boot) : BootUp a a := ⟨le_rfl, by simp⟩

/-- An update of any field but the queue and the ordering code. -/
theorem Keeps.upd {r s : State}
    {fc' : Nat} {dev_ : Dev} {cores' : Tab Core} {clusters_ : Tab Cluster} {runAhead_ : Tab (List RunAhead)}
    {mem' : Tab Byte} {major_ : Tab Nat} {lines_ : Tab Nat} {versions_ : Tab Nat} {integ_ : Tab (List Byte)}
    {dirty_ : Tab (List Nat)} {intCache_ : Tab (List Nat)} {targets_ : Tab Target} {retry_ : List Refused}
    {dramQ_ : List MemReq} {dramOut_ : List MemReq} {reqNum_ : Nat} {movWaits_ : List (Nat × Nat × Nat)}
    {routes_ : Tab Nat} {bridle_ : List (Nat × Nat × Nat × Nat × W64)} {resp_ : List Byte} {hwins_ : Tab HWin}
    {hostPages_ : List (Nat × Nat)} {hwBase_ : Tab Nat} {poolMap_ : Tab PoolMap} {donations_ : Tab Donation}
    {coord' : Tab Byte} {lineMeta_ : Tab (List Byte)} {pages_ : Tab PoolPage} {poolSize_ : Tab Nat}
    {moves_ : List PoolMove} {promos_ : List ((Nat × Nat × Nat) × Nat)} {pressure_ : Nat} {rekeyJobs_ : Tab RekeyJob}
    {rekeyQ_ : List (Nat × Nat)} {scrubQ_ : List (Nat × Nat)} {aperture_ : Tab (Option (Nat × Nat))}
    {host' : Tab Byte} {pool' : Tab Byte} {ctxs_ : Tab Ctx} {slots_ : Tab (Option Nat)} {fences_ : Tab Fence}
    {sigQ_ : List Sig} {turn_ : Tab Nat} {devRing_ : Ring} {mbx_ : Tab MbxChan} {mbxQ_ : List Nat} {regs_ : Tab W64}
    {ctxCnt_ : Tab W64} {pcie_ : Pcie} {learn_ : Learn} {upd_ : Tab Upd} {markers_ : Tab W64} {ports_ : Tab Port}
    {node_ : Nat} {admitList_ : Tab (Option (Bool × BitVec 256))} {poolReqs_ : List PoolReq}
    {poolGot_ : List PoolReq} {colls_ : Tab Coll} {slotTab_ : Tab Nat} {slotShadow_ : Tab Nat} {slotSwap_ : Nat}
    {tet_ : Tether} {herds_ : List Herd} {ctlOut_ : List (Nat × Nat × CollMsg)} {handoffs_ : Tab Handoff}
    {keys_ : KeyStore} {charters_ : List Charter} {xfers_ : List Xfer} {stores_ : List Store}
    {ckpts_ : List CkptWrite} {dstream_ : List (Nat × Nat × List Byte)} {lc' : LifeCycle} {ras_ : Ras} {boot' : Boot}
    {pw_ : Power}
    (h : Keeps r s) (hfree : s.freeCtr ≤ fc') (hcores : CoresKeep s.cores cores') (hmem : WfKeep s.mem mem') (hcoord : WfKeep s.coord coord') (hhost : WfKeep s.hostMem host') (hpool : WfKeep s.poolMem pool') (hlc : LifeUp s.lc lc') (hboot : BootUp s.boot boot') :
    Keeps r (State.mk s.pending fc' s.code dev_ cores' clusters_ runAhead_ mem' major_ lines_ versions_ integ_ dirty_
      intCache_ targets_ retry_ dramQ_ dramOut_ reqNum_ movWaits_ routes_ bridle_ resp_ hwins_ hostPages_ hwBase_
      poolMap_ donations_ coord' lineMeta_ pages_ poolSize_ moves_ promos_ pressure_ rekeyJobs_ rekeyQ_ scrubQ_
      aperture_ host' pool' ctxs_ slots_ fences_ sigQ_ turn_ devRing_ mbx_ mbxQ_ regs_ ctxCnt_ pcie_ learn_ upd_
      markers_ ports_ node_ admitList_ poolReqs_ poolGot_ colls_ slotTab_ slotShadow_ slotSwap_ tet_ herds_ ctlOut_
      handoffs_ keys_ charters_ xfers_ stores_ ckpts_ dstream_ lc' ras_ boot' pw_) :=
  h.trans ⟨⟨rfl, rfl, hlc.lcm, hlc.lcp, hlc.dies, hboot.ctr, hboot.revoked, hfree⟩,
    fun c => ⟨hmem.keep c.mem, hhost.keep c.host, hpool.keep c.pool, hcoord.keep c.coord, hcores.keep c.cores⟩⟩

/-- An update of fields that the invariant does not speak of. -/
theorem Keeps.plain {r s : State}
    {dev_ : Dev} {clusters_ : Tab Cluster} {runAhead_ : Tab (List RunAhead)} {major_ : Tab Nat} {lines_ : Tab Nat}
    {versions_ : Tab Nat} {integ_ : Tab (List Byte)} {dirty_ : Tab (List Nat)} {intCache_ : Tab (List Nat)}
    {targets_ : Tab Target} {retry_ : List Refused} {dramQ_ : List MemReq} {dramOut_ : List MemReq} {reqNum_ : Nat}
    {movWaits_ : List (Nat × Nat × Nat)} {routes_ : Tab Nat} {bridle_ : List (Nat × Nat × Nat × Nat × W64)}
    {resp_ : List Byte} {hwins_ : Tab HWin} {hostPages_ : List (Nat × Nat)} {hwBase_ : Tab Nat}
    {poolMap_ : Tab PoolMap} {donations_ : Tab Donation} {lineMeta_ : Tab (List Byte)} {pages_ : Tab PoolPage}
    {poolSize_ : Tab Nat} {moves_ : List PoolMove} {promos_ : List ((Nat × Nat × Nat) × Nat)} {pressure_ : Nat}
    {rekeyJobs_ : Tab RekeyJob} {rekeyQ_ : List (Nat × Nat)} {scrubQ_ : List (Nat × Nat)}
    {aperture_ : Tab (Option (Nat × Nat))} {ctxs_ : Tab Ctx} {slots_ : Tab (Option Nat)} {fences_ : Tab Fence}
    {sigQ_ : List Sig} {turn_ : Tab Nat} {devRing_ : Ring} {mbx_ : Tab MbxChan} {mbxQ_ : List Nat} {regs_ : Tab W64}
    {ctxCnt_ : Tab W64} {pcie_ : Pcie} {learn_ : Learn} {upd_ : Tab Upd} {markers_ : Tab W64} {ports_ : Tab Port}
    {node_ : Nat} {admitList_ : Tab (Option (Bool × BitVec 256))} {poolReqs_ : List PoolReq}
    {poolGot_ : List PoolReq} {colls_ : Tab Coll} {slotTab_ : Tab Nat} {slotShadow_ : Tab Nat} {slotSwap_ : Nat}
    {tet_ : Tether} {herds_ : List Herd} {ctlOut_ : List (Nat × Nat × CollMsg)} {handoffs_ : Tab Handoff}
    {keys_ : KeyStore} {charters_ : List Charter} {xfers_ : List Xfer} {stores_ : List Store}
    {ckpts_ : List CkptWrite} {dstream_ : List (Nat × Nat × List Byte)} {ras_ : Ras} {pw_ : Power}
    (h : Keeps r s) :
    Keeps r (State.mk s.pending s.freeCtr s.code dev_ s.cores clusters_ runAhead_ s.mem major_ lines_ versions_ integ_
      dirty_ intCache_ targets_ retry_ dramQ_ dramOut_ reqNum_ movWaits_ routes_ bridle_ resp_ hwins_ hostPages_
      hwBase_ poolMap_ donations_ s.coord lineMeta_ pages_ poolSize_ moves_ promos_ pressure_ rekeyJobs_ rekeyQ_
      scrubQ_ aperture_ s.hostMem s.poolMem ctxs_ slots_ fences_ sigQ_ turn_ devRing_ mbx_ mbxQ_ regs_ ctxCnt_ pcie_
      learn_ upd_ markers_ ports_ node_ admitList_ poolReqs_ poolGot_ colls_ slotTab_ slotShadow_ slotSwap_ tet_
      herds_ ctlOut_ handoffs_ keys_ charters_ xfers_ stores_ ckpts_ dstream_ s.lc ras_ s.boot pw_) :=
  Keeps.upd h le_rfl ⟨id⟩ ⟨id⟩ ⟨id⟩ ⟨id⟩ ⟨id⟩ (.refl _) (.refl _)

/-! ### Answers -/

/-- What an access answers keeps, however it ends. -/
structure ResKeeps {α : Type} (r : State) (x : Res α) : Prop where
  keep : match x with
    | .ok t _ => Keeps r t
    | .lost t _ => Keeps r t
    | .wait t => Keeps r t
/-- A command answers a next state that keeps. -/
def OutKeeps (r : State) (o : Out) : Prop := ∃ t, o = .next t ∧ Keeps r t

theorem OutKeeps.next {r t : State} (h : Keeps r t) : OutKeeps r (.next t) := ⟨t, rfl, h⟩
theorem OutKeeps.next_keep {r t : State} (h : OutKeeps r (.next t)) : Keeps r t := by
  obtain ⟨u, e, k⟩ := h
  cases e
  exact k
theorem OutKeeps.ite {r : State} {a b : Out} {c : Prop} [Decidable c] (h : OutKeeps r a) (g : OutKeeps r b) :
    OutKeeps r (if c then a else b) := by split <;> assumption
theorem ResKeeps.ok {α : Type} {r t : State} {a : α} (h : Keeps r t) : ResKeeps r (.ok t a) := ⟨h⟩
theorem ResKeeps.lost {α : Type} {r t : State} {c : Nat} (h : Keeps r t) : ResKeeps r (.lost t c : Res α) := ⟨h⟩
theorem ResKeeps.wait {α : Type} {r t : State} (h : Keeps r t) : ResKeeps r (.wait t : Res α) := ⟨h⟩
theorem ResKeeps.ite {α : Type} {r : State} {a b : Res α} {c : Prop} [Decidable c] (h : ResKeeps r a) (g : ResKeeps r b) :
    ResKeeps r (if c then a else b) := by split <;> assumption
theorem ResKeeps.bind {α β : Type} {r : State} {x : Res α} {f : State → α → Res β} (h : ResKeeps r x)
    (g : ∀ s a, Keeps r s → ResKeeps r (f s a)) : ResKeeps r (x.bind f) := by
  cases x with
  | ok s a => exact g s a h.keep
  | lost s c => exact ⟨h.keep⟩
  | wait s => exact ⟨h.keep⟩
theorem ResKeeps.of_ok {α : Type} {r t : State} {x : Res α} {a : α} (h : ResKeeps r x) (e : x = .ok t a) : Keeps r t := by
  subst e; exact h.keep
theorem ResKeeps.of_lost {α : Type} {r t : State} {x : Res α} {c : Nat} (h : ResKeeps r x) (e : x = .lost t c) : Keeps r t := by
  subst e; exact h.keep
theorem ResKeeps.of_wait {α : Type} {r t : State} {x : Res α} (h : ResKeeps r x) (e : x = .wait t) : Keeps r t := by
  subst e; exact h.keep
theorem ResKeeps.ok_keep {α : Type} {r t : State} {a : α} (h : ResKeeps r (.ok t a)) : Keeps r t := h.keep
theorem ResKeeps.lost_keep {α : Type} {r t : State} {c : Nat} (h : ResKeeps r (.lost t c : Res α)) : Keeps r t := h.keep
theorem ResKeeps.wait_keep {α : Type} {r t : State} (h : ResKeeps r (.wait t : Res α)) : Keeps r t := h.keep
/-- A pair whose second part is a state that keeps. -/
def SndKeeps {α : Type} (r : State) (x : α × State) : Prop := Keeps r x.2
/-- A pair whose first part is a state that keeps. -/
def FstKeeps {α : Type} (r : State) (x : State × α) : Prop := Keeps r x.1
/-- A state, when there is one, keeps. -/
structure OptKeeps (r : State) (x : Option State) : Prop where
  keep : ∀ t, x = some t → Keeps r t
/-- The state beside a value, when there is one, keeps. -/
structure OptSndKeeps {α : Type} (r : State) (x : Option (α × State)) : Prop where
  keep : ∀ a t, x = some (a, t) → Keeps r t

section
variable {α β : Type} {r s t : State} {a : α} {c : Prop} [Decidable c]
theorem SndKeeps.mk (h : Keeps r t) : SndKeeps r (a, t) := h
theorem SndKeeps.of {x : α × State} (h : SndKeeps r x) (e : x = (a, t)) : Keeps r t := by subst e; exact h
theorem SndKeeps.snd {x : α × State} (h : SndKeeps r x) : Keeps r x.2 := h
theorem SndKeeps.ite {x y : α × State} (h : SndKeeps r x) (g : SndKeeps r y) : SndKeeps r (if c then x else y) := by
  split <;> assumption
theorem FstKeeps.mk (h : Keeps r t) : FstKeeps r (t, a) := h
theorem FstKeeps.of {x : State × α} (h : FstKeeps r x) (e : x = (t, a)) : Keeps r t := by subst e; exact h
theorem FstKeeps.fst {x : State × α} (h : FstKeeps r x) : Keeps r x.1 := h
theorem FstKeeps.ite {x y : State × α} (h : FstKeeps r x) (g : FstKeeps r y) : FstKeeps r (if c then x else y) := by
  split <;> assumption
theorem OptKeeps.none : OptKeeps r none := ⟨fun _ e => by cases e⟩
theorem OptKeeps.some (h : Keeps r t) : OptKeeps r (some t) := ⟨fun _ e => by cases e; exact h⟩
theorem OptKeeps.of {x : Option State} (h : OptKeeps r x) (e : x = Option.some t) : Keeps r t := h.keep t e
theorem OptKeeps.some_keep (h : OptKeeps r (Option.some t)) : Keeps r t := h.keep t rfl
theorem OptSndKeeps.some_keep (h : OptSndKeeps r (Option.some (a, t))) : Keeps r t := h.keep a t rfl
theorem SndKeeps.mk_keep (h : SndKeeps r (a, t)) : Keeps r t := h
theorem FstKeeps.mk_keep (h : FstKeeps r (t, a)) : Keeps r t := h
theorem OptKeeps.ite {x y : Option State} (h : OptKeeps r x) (g : OptKeeps r y) : OptKeeps r (if c then x else y) := by
  split <;> assumption
theorem OptKeeps.getD {x : Option State} (h : OptKeeps r x) (g : Keeps r s) : Keeps r (x.getD s) := by
  cases x with
  | none => exact g
  | some t => exact h.keep t rfl
theorem OptSndKeeps.none : OptSndKeeps r (none : Option (α × State)) := ⟨fun _ _ e => by cases e⟩
theorem OptSndKeeps.some (h : Keeps r t) : OptSndKeeps r (some (a, t)) := ⟨fun _ _ e => by cases e; exact h⟩
theorem OptSndKeeps.of {x : Option (α × State)} (h : OptSndKeeps r x) (e : x = Option.some (a, t)) : Keeps r t := h.keep a t e
theorem OptSndKeeps.ite {x y : Option (α × State)} (h : OptSndKeeps r x) (g : OptSndKeeps r y) :
    OptSndKeeps r (if c then x else y) := by split <;> assumption
theorem OptKeeps.map {x : Option α} {f : α → State} (g : ∀ a, Keeps r (f a)) : OptKeeps r (x.map f) := by
  cases x with
  | none => exact OptKeeps.none
  | some a => exact OptKeeps.some (g a)
theorem OptKeeps.bind_of {x : Option α} {f : α → Option State} (g : ∀ a, OptKeeps r (f a)) : OptKeeps r (x.bind f) := by
  cases x with
  | none => exact OptKeeps.none
  | some a => exact g a
theorem OptKeeps.foldl {f : Option State → α → Option State} (g : ∀ x a, OptKeeps r x → OptKeeps r (f x a)) (l : List α)
    {x : Option State} (h : OptKeeps r x) : OptKeeps r (l.foldl f x) := by
  induction l generalizing x with
  | nil => exact h
  | cons a l ih => exact ih (g x a h)
theorem ResKeeps.foldl {γ : Type} {f : Res γ → α → Res γ} (g : ∀ x a, ResKeeps r x → ResKeeps r (f x a)) (l : List α)
    {x : Res γ} (h : ResKeeps r x) : ResKeeps r (l.foldl f x) := by
  induction l generalizing x with
  | nil => exact h
  | cons a l ih => exact ih (g x a h)
theorem SndKeeps.foldl {γ : Type} {f : γ × State → α → γ × State} (g : ∀ x a, SndKeeps r x → SndKeeps r (f x a)) (l : List α)
    {x : γ × State} (h : SndKeeps r x) : SndKeeps r (l.foldl f x) := by
  induction l generalizing x with
  | nil => exact h
  | cons a l ih => exact ih (g x a h)
theorem FstKeeps.foldl {γ : Type} {f : State × γ → α → State × γ} (g : ∀ x a, FstKeeps r x → FstKeeps r (f x a)) (l : List α)
    {x : State × γ} (h : FstKeeps r x) : FstKeeps r (l.foldl f x) := by
  induction l generalizing x with
  | nil => exact h
  | cons a l ih => exact ih (g x a h)
theorem OptSndKeeps.map {x : Option β} {f : β → α × State} (g : ∀ b, Keeps r (f b).2) : OptSndKeeps r (x.map f) := by
  cases x with
  | none => exact OptSndKeeps.none
  | some b => exact OptSndKeeps.some (g b)
theorem OptSndKeeps.map_of {x : Option (β × State)} {f : β × State → α × State} (h : OptSndKeeps r x)
    (g : ∀ p, Keeps r p.2 → Keeps r (f p).2) : OptSndKeeps r (x.map f) := by
  cases x with
  | none => exact OptSndKeeps.none
  | some p => exact OptSndKeeps.some (g p (h.keep p.1 p.2 rfl))
theorem OptSndKeeps.bind_of {x : Option (β × State)} {f : β × State → Option (α × State)} (h : OptSndKeeps r x)
    (g : ∀ p, Keeps r p.2 → OptSndKeeps r (f p)) : OptSndKeeps r (x.bind f) := by
  cases x with
  | none => exact OptSndKeeps.none
  | some p => exact g p (h.keep p.1 p.2 rfl)
theorem OptSndKeeps.bind {x : Option β} {f : β → Option (α × State)} (g : ∀ b, OptSndKeeps r (f b)) : OptSndKeeps r (x.bind f) := by
  cases x with
  | none => exact OptSndKeeps.none
  | some b => exact g b
theorem OptKeeps.bind_snd {x : Option (β × State)} {f : β × State → Option State} (h : OptSndKeeps r x)
    (g : ∀ p, Keeps r p.2 → OptKeeps r (f p)) : OptKeeps r (x.bind f) := by
  cases x with
  | none => exact OptKeeps.none
  | some p => exact g p (h.keep p.1 p.2 rfl)
theorem OptKeeps.map_snd {x : Option (β × State)} {f : β × State → State} (h : OptSndKeeps r x)
    (g : ∀ p, Keeps r p.2 → Keeps r (f p)) : OptKeeps r (x.map f) := by
  cases x with
  | none => exact OptKeeps.none
  | some p => exact OptKeeps.some (g p (h.keep p.1 p.2 rfl))
theorem OptSndKeeps.bind_opt {x : Option State} {f : State → Option (α × State)} (h : OptKeeps r x)
    (g : ∀ p, Keeps r p → OptSndKeeps r (f p)) : OptSndKeeps r (x.bind f) := by
  cases x with
  | none => exact OptSndKeeps.none
  | some p => exact g p (h.keep p rfl)
theorem OptKeeps.bind {x : Option State} {f : State → Option State} (h : OptKeeps r x)
    (g : ∀ s, Keeps r s → OptKeeps r (f s)) : OptKeeps r (x.bind f) := by
  cases x with
  | none => exact OptKeeps.none
  | some t => exact g t (h.keep t rfl)
end

/-- What an access answers, when there is one, keeps. -/
structure OptResKeeps {α : Type} (r : State) (x : Option (Res α)) : Prop where
  keep : ∀ y, x = some y → ResKeeps r y
theorem OptResKeeps.none {α : Type} {r : State} : OptResKeeps r (none : Option (Res α)) := ⟨fun _ e => by cases e⟩
theorem OptResKeeps.some {α : Type} {r : State} {y : Res α} (h : ResKeeps r y) : OptResKeeps r (some y) := ⟨fun _ e => by cases e; exact h⟩
theorem OptResKeeps.of {α : Type} {r : State} {y : Res α} {x : Option (Res α)} (h : OptResKeeps r x) (e : x = Option.some y) : ResKeeps r y := h.keep y e
theorem OptResKeeps.ite {α : Type} {r : State} {c : Prop} [Decidable c] {x y : Option (Res α)} (h : OptResKeeps r x) (g : OptResKeeps r y) :
    OptResKeeps r (if c then x else y) := by split <;> assumption

theorem CoreKeep.trans {a b c : Core} (h : CoreKeep a b) (g : CoreKeep b c) : CoreKeep a c := ⟨g.keep ∘ h.keep⟩

/-- A core, when there is one, keeps. -/
structure OptCoreKeep (k : Core) (x : Option Core) : Prop where
  keep : ∀ l, x = some l → CoreKeep k l
theorem OptCoreKeep.none {k : Core} : OptCoreKeep k none := ⟨fun _ e => by cases e⟩
theorem OptCoreKeep.some {k l : Core} (h : CoreKeep k l) : OptCoreKeep k (some l) := ⟨fun _ e => by cases e; exact h⟩
theorem OptCoreKeep.of {k l : Core} {x : Option Core} (h : OptCoreKeep k x) (e : x = Option.some l) : CoreKeep k l := h.keep l e
theorem OptCoreKeep.ite {k : Core} {c : Prop} [Decidable c] {x y : Option Core} (h : OptCoreKeep k x) (g : OptCoreKeep k y) :
    OptCoreKeep k (if c then x else y) := by split <;> assumption
/-- A core on the way, and what follows from it. -/
theorem CoreKeep.via {k x l : Core} (h : CoreKeep k x) (g : CoreKeep k x → CoreKeep k l) : CoreKeep k l := g h

/-- A fact, and what follows from it. -/
theorem with_fact {a b : Prop} (h : a) (g : a → b) : b := g h

/-! ### Parts -/

theorem WfKeep.refl (t : Tab Byte) : WfKeep t t := ⟨id⟩
theorem WfKeep.trans {a b c : Tab Byte} (h : WfKeep a b) (g : WfKeep b c) : WfKeep a c := ⟨g.keep ∘ h.keep⟩
theorem CoresKeep.refl (t : Tab Core) : CoresKeep t t := ⟨id⟩
theorem WfKeep.put (t : Tab Byte) (a : Nat) (b : List Byte) : WfKeep t (putBytes t a b) := ⟨wf_putBytes t a b⟩
theorem WfKeep.nil (t : Tab Byte) : WfKeep t [] := ⟨fun _ => rfl⟩
theorem WfKeep.filter (t : Tab Byte) (p : Nat × Byte → Bool) : WfKeep t (t.filter p) := ⟨Tab.wf_filter t p⟩
theorem WfKeep.drop (t : Tab Byte) (p : Nat → Bool) : WfKeep t (Tab.drop t p) := ⟨Tab.wf_drop t p⟩
theorem CoresKeep.nil (t : Tab Core) : CoresKeep t [] := ⟨by simp⟩
theorem CoresKeep.set {t : Tab Core} {n : Nat} {k : Core} (h : CoreKeep (Tab.get {} t n) k) :
    CoresKeep t (Tab.set {} t n k) := by
  refine ⟨fun c e he => ?_⟩
  rcases Tab.mem_set t n k he with he | he
  · exact c e he
  · subst he
    apply h.keep
    rcases Tab.get_mem (d := ({} : Core)) t n with g | g
    · rw [g]; rfl
    · exact c _ g
theorem CoreKeep.refl (k : Core) : CoreKeep k k := ⟨id⟩
theorem CoreKeep.of_eq {k l : Core} (g : l.g = k.g) (p : l.p = k.p) : CoreKeep k l := by
  exact ⟨fun h => by simpa [Core.canonical, g, p] using h⟩
theorem CoresKeep.map {f : Core → Core} (h : ∀ k, CoreKeep k (f k)) (t : Tab Core) :
    CoresKeep t (t.map fun e => (e.1, f e.2)) := by
  refine ⟨fun c e he => ?_⟩
  obtain ⟨x, hx, rfl⟩ := List.mem_map.1 he
  exact (h x.2).keep (c x hx)
theorem CoreKeep.fresh (k : Core) {l : Core} (g : l.g = []) (p : l.p = []) : CoreKeep k l := by
  exact ⟨fun _ => by simp [Core.canonical, g, p, Tab.wf, Tab.wfFrom]⟩
theorem CoreKeep.wr {k l : Core} (r : BitVec 5) (v : W64) (h : CoreKeep k l) : CoreKeep k (l.wr r v) := by
  refine ⟨fun c => ?_⟩
  have := h.keep c
  unfold Core.wr
  split
  · exact this
  · simp only [Core.canonical, Bool.and_eq_true] at this ⊢
    exact ⟨Tab.wf_set _ _ _ this.1, this.2⟩
theorem CoreKeep.pw {k l : Core} (r : BitVec 3) (v : Bool) (h : CoreKeep k l) : CoreKeep k (l.pw r v) := by
  refine ⟨fun c => ?_⟩
  have := h.keep c
  unfold Core.pw
  split
  · exact this
  · simp only [Core.canonical, Bool.and_eq_true] at this ⊢
    exact ⟨this.1, Tab.wf_set _ _ _ this.2⟩
theorem CoreKeep.ite {k a b : Core} {c : Prop} [Decidable c] (h : CoreKeep k a) (g : CoreKeep k b) :
    CoreKeep k (if c then a else b) := by split <;> assumption
theorem CoreKeep.foldl {α : Type} {r : Core} {f : Core → α → Core} (h : ∀ r k x, CoreKeep r k → CoreKeep r (f k x)) (l : List α)
    {k : Core} (g : CoreKeep r k) : CoreKeep r (l.foldl f k) := by
  induction l generalizing k with
  | nil => exact g
  | cons x l ih => exact ih (h r k x g)
/-- An update of a core that leaves its general registers and predicates. -/
theorem CoreKeep.upd {r k : Core}
    {out_ : Bool} {fresh_ : Bool} {stopReq_ : Bool} {run_ : CoreRun} {pc_ : W48} {store_ : Tab Byte} {pad_ : List PadEntry} {held_ : List HeldSig} {rel_ : List RelSig} {tasks_ : List Task}
    {nextTask_ : Nat} {loads_ : List Load} {stall_ : Stall} {mx_ : Matrix} {lane_ : Tab W64} {flags_ : BitVec 16} {srstep_ : BitVec 32} {resvWaits_ : W64} {resvLast_ : Option Nat} {wins_ : List Window} {disp_ : Nat}
    {units_ : Tab (List Dispatched)} {dropped_ : List Nat} {utlb_ : List TlbEntry} {iflush_ : Nat}
    (h : CoreKeep r k) :
    CoreKeep r (Core.mk out_ fresh_ stopReq_ run_ k.g k.p pc_ store_ pad_ held_ rel_ tasks_ nextTask_ loads_ stall_ mx_ lane_ flags_ srstep_ resvWaits_ resvLast_ wins_ disp_
      units_ dropped_ utlb_ iflush_) := h.trans (CoreKeep.of_eq rfl rfl)

end Sys2Proof.Machine
end

