-- ==== Sys2Proof/Laws/KeepOps.lean ====
section
/-! SUPPORT. What the operations of Machine/Ops.lean keep. -/

namespace Sys2Proof.Machine

theorem State.setCore_keeps {r s : State} (n : Nat) (k : Core) (h : Keeps r s) (hk : CoreKeep (s.core n) k) :
    Keeps r (s.setCore n k) := by
  unfold State.setCore
  exact Keeps.upd h le_rfl (CoresKeep.set hk) (.refl _) (.refl _) (.refl _) (.refl _) (.refl _) (.refl _)

theorem State.updCore_keeps {r s : State} (n : Nat) (f : Core → Core) (h : Keeps r s) (hf : ∀ k l, CoreKeep k l → CoreKeep k (f l)) :
    Keeps r (s.updCore n f) := State.setCore_keeps n _ h (hf _ _ (.refl _))

theorem State.updCluster_keeps {r s : State} (n : Nat) (f : Cluster → Cluster) (h : Keeps r s) :
    Keeps r (State.updCluster s n f) := by
  unfold State.updCluster
  repeat' (with_reducible apply Keeps.plain; · with_reducible assumption)

theorem State.updCtx_keeps {r s : State} (c : Nat) (f : Ctx → Ctx) (h : Keeps r s) :
    Keeps r (State.updCtx s c f) := by
  unfold State.updCtx
  repeat' (with_reducible apply Keeps.plain; · with_reducible assumption)

theorem State.updFence_keeps {r s : State} (i : Nat) (f : Fence → Fence) (h : Keeps r s) :
    Keeps r (State.updFence s i f) := by
  unfold State.updFence
  repeat' (with_reducible apply Keeps.plain; · with_reducible assumption)

theorem State.updTarget_keeps {r s : State} (t : Nat) (f : Target → Target) (h : Keeps r s) :
    Keeps r (State.updTarget s t f) := by
  unfold State.updTarget
  repeat' (with_reducible apply Keeps.plain; · with_reducible assumption)

theorem State.updPort_keeps {r s : State} (p : Nat) (f : Port → Port) (h : Keeps r s) :
    Keeps r (State.updPort s p f) := by
  unfold State.updPort
  repeat' (with_reducible apply Keeps.plain; · with_reducible assumption)

theorem State.updColl_keeps {r s : State} (c : Nat) (f : Coll → Coll) (h : Keeps r s) :
    Keeps r (State.updColl s c f) := by
  unfold State.updColl
  repeat' (with_reducible apply Keeps.plain; · with_reducible assumption)

theorem State.updHandoff_keeps {r s : State} (c : Nat) (f : Handoff → Handoff) (h : Keeps r s) :
    Keeps r (State.updHandoff s c f) := by
  unfold State.updHandoff
  repeat' (with_reducible apply Keeps.plain; · with_reducible assumption)

theorem State.updChan_keeps {r s : State} (c : Nat) (f : MbxChan → MbxChan) (h : Keeps r s) :
    Keeps r (State.updChan s c f) := by
  unfold State.updChan
  repeat' (with_reducible apply Keeps.plain; · with_reducible assumption)

theorem State.updUnit_keeps {r s : State} (m : Nat) (f : Upd → Upd) (h : Keeps r s) :
    Keeps r (State.updUnit s m f) := by
  unfold State.updUnit
  repeat' (with_reducible apply Keeps.plain; · with_reducible assumption)

theorem State.updKslot_keeps {r s : State} (k : Nat) (f : KSlot → KSlot) (h : Keeps r s) :
    Keeps r (State.updKslot s k f) := by
  unfold State.updKslot
  repeat' first
    | (lift_lets -underBinder; intro x)
    | (with_reducible apply Keeps.plain; · with_reducible assumption)

theorem State.updHerd_keeps {r s : State} (hid : Nat) (f : Herd → Herd) (h : Keeps r s) :
    Keeps r (State.updHerd s hid f) := by
  unfold State.updHerd
  repeat' (with_reducible apply Keeps.plain; · with_reducible assumption)

theorem State.free_keeps {r s : State} (w : Nat) (h : Keeps r s) : SndKeeps r (s.free w) := by
  unfold State.free
  exact Keeps.upd h (Nat.le_succ _) (.refl _) (.refl _) (.refl _) (.refl _) (.refl _) (.refl _) (.refl _)

theorem Core.wr_keeps {r k : Core} (a : BitVec 5) (v : W64) (h : CoreKeep r k) : CoreKeep r (k.wr a v) := CoreKeep.wr a v h

theorem Core.pw_keeps {r k : Core} (a : BitVec 3) (v : Bool) (h : CoreKeep r k) : CoreKeep r (k.pw a v) := CoreKeep.pw a v h

theorem Core.raise_keeps {r k : Core} (f : BitVec 16) (h : CoreKeep r k) :
    CoreKeep r (Core.raise k f) := by
  unfold Core.raise
  repeat' (with_reducible apply CoreKeep.upd; · with_reducible assumption)

theorem Core.updTask_keeps {r k : Core} (id : Nat) (f : Task → Task) (h : CoreKeep r k) :
    CoreKeep r (Core.updTask k id f) := by
  unfold Core.updTask
  repeat' (with_reducible apply CoreKeep.upd; · with_reducible assumption)

theorem State.setReg_keeps {r s : State} (off : Nat) (v : W64) (h : Keeps r s) :
    Keeps r (State.setReg s off v) := by
  unfold State.setReg
  repeat' (with_reducible apply Keeps.plain; · with_reducible assumption)

theorem State.bumpAt_keeps {r s : State} (ctl off n : Nat) (h : Keeps r s) :
    Keeps r (State.bumpAt s ctl off n) := by
  unfold State.bumpAt
  repeat' first
    | with_reducible assumption
    | (lift_lets -underBinder; intro x)
    | (intro x; refine with_fact (a := Keeps r x) ?_ ?_; (on_goal 1 => unfold x); (on_goal 2 => (intro hx; clear_value x)))
    | with_reducible apply State.setReg_keeps
    | with_reducible apply Keeps.ite

theorem State.bump_keeps {r s : State} (base i n : Nat) (h : Keeps r s) :
    Keeps r (State.bump s base i n) := by
  unfold State.bump
  repeat' first
    | with_reducible assumption
    | with_reducible apply State.bumpAt_keeps

theorem State.bumpCore_keeps {r s : State} (c i n : Nat) (h : Keeps r s) :
    Keeps r (State.bumpCore s c i n) := by
  unfold State.bumpCore
  repeat' first
    | with_reducible assumption
    | with_reducible apply State.bump_keeps

theorem State.badAcc_keeps {r s : State} (h : Keeps r s) :
    Keeps r (State.badAcc s) := by
  unfold State.badAcc
  repeat' first
    | with_reducible assumption
    | (lift_lets -underBinder; intro x)
    | with_reducible apply State.setReg_keeps

theorem State.rsvWrite_keeps {r s : State} (h : Keeps r s) :
    Keeps r (State.rsvWrite s) := by
  unfold State.rsvWrite
  repeat' first
    | with_reducible assumption
    | with_reducible apply State.setReg_keeps

theorem State.bumpCtx_keeps {r s : State} (kind ctx stream n : Nat) (h : Keeps r s) :
    Keeps r (State.bumpCtx s kind ctx stream n) := by
  unfold State.bumpCtx
  repeat' (with_reducible apply Keeps.plain; · with_reducible assumption)

theorem State.closePhase_keeps {r s : State} (c : Nat) (h : Keeps r s) :
    Keeps r (State.closePhase s c) := by
  unfold State.closePhase
  repeat' first
    | with_reducible assumption
    | (lift_lets -underBinder; intro x)
    | with_reducible apply State.updCtx_keeps
    | with_reducible apply Keeps.ite

theorem State.markAt_keeps {r s : State} (t : Nat) (i : Nat) (w : W64) (h : Keeps r s) :
    Keeps r (State.markAt s t i w) := by
  unfold State.markAt
  repeat' first
    | with_reducible assumption
    | with_reducible intro x
    | with_reducible apply State.closePhase_keeps
    | with_reducible apply Keeps.ite
    | (with_reducible apply Keeps.plain; · with_reducible assumption)

theorem State.markOf_keeps {r s : State} (t : Nat) (i : Nat) (h : Keeps r s) :
    Keeps r (State.markOf s t i) := by
  unfold State.markOf
  repeat' first
    | with_reducible assumption
    | with_reducible intro x
    | with_reducible apply State.markAt_keeps

theorem State.startRow_keeps {r s : State} (t : Nat) (h : Keeps r s) :
    Keeps r (State.startRow s t) := by
  unfold State.startRow
  repeat' first
    | with_reducible assumption
    | with_reducible intro x
    | with_reducible apply Keeps.ite
    | (with_reducible apply Keeps.plain; · with_reducible assumption)

theorem State.mark_keeps {r s : State} (i : Nat) (h : Keeps r s) :
    Keeps r (State.mark s i) := by
  unfold State.mark
  repeat' first
    | with_reducible assumption
    | with_reducible apply State.markOf_keeps

theorem State.programMark_keeps {r s : State} (c : Nat) (tag : Nat) (h : Keeps r s) :
    Keeps r (State.programMark s c tag) := by
  unfold State.programMark
  repeat' first
    | with_reducible assumption
    | with_reducible intro x
    | with_reducible apply State.closePhase_keeps
    | with_reducible apply State.markOf_keeps
    | with_reducible apply Keeps.ite

theorem State.msgDue_keeps {r s : State} (vec : Nat) (h : Keeps r s) :
    Keeps r (State.msgDue s vec) := by
  unfold State.msgDue
  repeat' first
    | (lift_lets -underBinder; intro x)
    | (with_reducible apply Keeps.plain; · with_reducible assumption)

theorem State.irq_keeps {r s : State} (b : Nat) (h : Keeps r s) :
    Keeps r (State.irq s b) := by
  unfold State.irq
  repeat' first
    | with_reducible assumption
    | with_reducible apply State.setReg_keeps
    | with_reducible apply State.msgDue_keeps

theorem Ring.put_keeps (a : Ring) (t : Tab Byte) (e : List W64) : WfKeep t (a.put t e).2 := by
  dsimp only [Ring.put]; exact WfKeep.put _ _ _

theorem Ring.drain_keeps (l : List (List W64)) (a : Ring) (t : Tab Byte) : WfKeep t (Ring.drain l a t).2 := by
  induction l generalizing a t with
  | nil => exact .refl _
  | cons e es ih =>
      have hp := Ring.put_keeps a t e
      unfold Ring.drain
      generalize a.put t e = x at *
      split
      · exact hp.trans (ih _ _)
      · exact .refl _

theorem Ring.flush_keeps (a : Ring) (t : Tab Byte) (o : List W64) : WfKeep t (a.flush t o).2 := by
  have h := Ring.drain_keeps a.wait a t
  unfold Ring.flush
  split
  next b u e =>
    rw [e] at h
    split
    · exact h
    · exact h.trans (Ring.drain_keeps _ _ u)

theorem Ring.push_keeps (a : Ring) (t : Tab Byte) (e o : List W64) : WfKeep t (a.push t e o).2 := by
  unfold Ring.push
  split
  · exact .refl _
  · exact Ring.flush_keeps _ t o

theorem State.putRing_keeps {r s : State} (c : Nat) (old : Ring) (x : Ring × Tab Byte) (h : Keeps r s)
    (hx : WfKeep s.hostMem x.2) : Keeps r (s.putRing c old x) := by
  unfold State.putRing
  have hx : WfKeep s.hostMem (if s.pcie.dropped old.base.toNat then s.hostMem else x.2) := by
    split
    · exact .refl _
    · exact hx
  generalize (if s.pcie.dropped old.base.toNat then s.hostMem else x.2) = m at hx
  have k : Keeps r { s with hostMem := m } := Keeps.upd h le_rfl (.refl _) (.refl _) (.refl _) hx (.refl _) (.refl _) (.refl _)
  have k := State.updCtx_keeps c (fun k => { k with ring := x.1 }) k
  dsimp only
  split
  · exact k
  · exact State.msgDue_keeps _ k

theorem State.event_keeps {r s : State} (c kind : Nat) (cookie data : W64) (h : Keeps r s) :
    Keeps r (State.event s c kind cookie data) := by
  unfold State.event
  exact Keeps.ite h (State.putRing_keeps _ _ _ h (Ring.push_keeps _ _ _ _))

theorem State.ctxEvent_keeps {r s : State} (c kind : Nat) (data : W64) (h : Keeps r s) :
    Keeps r (State.ctxEvent s c kind data) := by
  unfold State.ctxEvent
  repeat' first
    | with_reducible assumption
    | with_reducible apply State.event_keeps

theorem State.putDevRing_keeps {r s : State} (x : Ring × Tab Byte) (h : Keeps r s) (hx : WfKeep s.hostMem x.2) :
    Keeps r (s.putDevRing x) := by
  unfold State.putDevRing
  dsimp only
  have hx : WfKeep s.hostMem (if s.pcie.dropped s.devRing.base.toNat then s.hostMem else x.2) := by
    split
    · exact .refl _
    · exact hx
  generalize (if s.pcie.dropped s.devRing.base.toNat then s.hostMem else x.2) = m at hx
  have k : Keeps r { s with hostMem := m, devRing := x.1 } :=
    Keeps.upd h le_rfl (.refl _) (.refl _) (.refl _) hx (.refl _) (.refl _) (.refl _)
  split
  · exact k
  · exact State.msgDue_keeps _ k

theorem State.devEvent_keeps {r s : State} (kind : Nat) (data : W64) (h : Keeps r s) :
    Keeps r (State.devEvent s kind data) := by
  unfold State.devEvent
  exact Keeps.ite h (State.putDevRing_keeps _ h (Ring.push_keeps _ _ _ _))

theorem State.linkEvent_keeps {r s : State} (port : Nat) (h : Keeps r s) :
    Keeps r (State.linkEvent s port) := by
  unfold State.linkEvent
  repeat' first
    | with_reducible assumption
    | with_reducible apply State.irq_keeps
    | with_reducible apply State.devEvent_keeps

theorem State.signal_keeps {r s : State} (f : Nat) (v : W64) (stat : Nat) (h : Keeps r s) :
    Keeps r (State.signal s f v stat) := by
  unfold State.signal
  repeat' (with_reducible apply Keeps.plain; · with_reducible assumption)

theorem State.logSig_keeps {r s : State} (e : Cper) (h : Keeps r s) :
    Keeps r (State.logSig s e) := by
  unfold State.logSig
  repeat' first
    | (lift_lets -underBinder; intro x)
    | (with_reducible apply Keeps.plain; · with_reducible assumption)

end Sys2Proof.Machine
end

