-- ==== Sys2Proof/Laws/KeepMem.lean ====
section
/-! SUPPORT. What the operations of Machine/Mem.lean keep. -/

namespace Sys2Proof.Machine

theorem State.keepHost_keeps {r s : State} (da : Nat) (h : Keeps r s) :
    Keeps r (State.keepHost s da) := by
  unfold State.keepHost
  repeat' first
    | with_reducible assumption
    | with_reducible intro x
    | with_reducible apply Keeps.ite
    | (with_reducible apply Keeps.plain; · with_reducible assumption)
    | split

theorem State.dropHost_keeps {r s : State} (da : Nat) (n : Nat) (h : Keeps r s) :
    Keeps r (State.dropHost s da n) := by
  unfold State.dropHost
  repeat' first
    | with_reducible assumption
    | with_reducible intro x
    | with_reducible apply Keeps.ite
    | (with_reducible apply Keeps.plain; · with_reducible assumption)

theorem State.denied_keeps {r s : State} (da : Nat) (h : Keeps r s) :
    Keeps r (State.denied s da) := by
  unfold State.denied
  repeat' first
    | with_reducible assumption
    | (lift_lets -underBinder; intro x; refine with_fact (a := Keeps r x) ?_ ?_; (on_goal 1 => unfold x); (on_goal 2 => (intro hx; clear_value x)))
    | with_reducible apply State.updTarget_keeps
    | with_reducible apply State.bumpAt_keeps
    | with_reducible apply State.bump_keeps
    | with_reducible apply Keeps.ite
    | split

theorem State.startJob_keeps {r s : State} (t : Nat) (h : Keeps r s) :
    Keeps r (State.startJob s t) := by
  unfold State.startJob
  repeat' first
    | with_reducible assumption
    | with_reducible apply Keeps.ite
    | (with_reducible apply Keeps.plain; · with_reducible assumption)
    | split

theorem State.keyRefused_keeps {r s : State} (h : Keeps r s) :
    Keeps r (State.keyRefused s) := by
  unfold State.keyRefused
  repeat' first
    | (lift_lets -underBinder; intro x)
    | (with_reducible apply Keeps.plain; · with_reducible assumption)

theorem State.queueRekey_keeps {r s : State} (c : Nat) (h : Keeps r s) :
    Keeps r (State.queueRekey s c) := by
  unfold State.queueRekey
  repeat' first
    | with_reducible assumption
    | (with_reducible intro x; first
        | (with_reducible refine with_fact (a := Keeps r x) ?_ ?_; (on_goal 1 => unfold x); (on_goal 2 => (intro hx; clear_value x)))
        | skip)
    | (lift_lets -underBinder; with_reducible intro x)
    | with_reducible apply State.updCtx_keeps
    | with_reducible apply State.startJob_keeps
    | with_reducible apply State.keyRefused_keeps
    | with_reducible apply Keeps.ite
    | with_reducible apply Keeps.foldl
    | (with_reducible apply Keeps.plain; · with_reducible assumption)

theorem State.majorDue_keeps {r s : State} (page : Nat) (m : Option Nat) (h : Keeps r s) :
    Keeps r (State.majorDue s page m) := by
  unfold State.majorDue
  repeat' first
    | with_reducible assumption
    | with_reducible intro x
    | with_reducible apply State.queueRekey_keeps
    | with_reducible apply Keeps.ite
    | split

theorem State.countLine_keeps {r s : State} (line : Nat) (m : Option Nat) (h : Keeps r s) :
    Keeps r (State.countLine s line m) := by
  unfold State.countLine
  repeat' first
    | with_reducible assumption
    | with_reducible intro x
    | with_reducible apply State.bump_keeps
    | with_reducible apply State.majorDue_keeps
    | with_reducible apply Keeps.ite
    | with_reducible apply Keeps.foldl
    | (with_reducible apply Keeps.plain; · with_reducible assumption)
    | split

theorem State.countLines_keeps {r s : State} (da n : Nat) (m : Option Nat) (h : Keeps r s) :
    Keeps r (State.countLines s da n m) := by
  unfold State.countLines
  repeat' first
    | with_reducible assumption
    | intro x
    | with_reducible apply State.countLine_keeps
    | with_reducible apply Keeps.foldl

theorem State.dropRun_keeps {r s : State} (da n : Nat) (h : Keeps r s) :
    Keeps r (State.dropRun s da n) := by
  unfold State.dropRun
  repeat' first
    | with_reducible assumption
    | with_reducible apply Keeps.ite
    | (with_reducible apply Keeps.plain; · with_reducible assumption)

end Sys2Proof.Machine
end

