-- ==== Sys2Proof/Laws/KeepInteg.lean ====
section
/-! SUPPORT. What the operations of Machine/Integ.lean keep. -/

namespace Sys2Proof.Machine

theorem State.storeUnit_keeps {r s : State} (m : Nat) (lvl : Nat) (i : Nat) (h : Keeps r s) :
    Keeps r (State.storeUnit s m lvl i) := by
  unfold State.storeUnit
  repeat' first
    | with_reducible assumption
    | (with_reducible intro x)
    | (lift_lets -underBinder; with_reducible intro x)
    | with_reducible apply Keeps.ite
    | (with_reducible apply Keeps.plain; · with_reducible assumption)

theorem State.repairUnit_keeps {r s : State} (m : Nat) (i : Nat) (h : Keeps r s) :
    OptKeeps r (State.repairUnit s m i) := by
  unfold State.repairUnit
  repeat' first
    | with_reducible assumption
    | with_reducible intro x
    | with_reducible apply OptKeeps.none
    | with_reducible apply OptKeeps.some
    | with_reducible apply State.bump_keeps
    | with_reducible apply Keeps.ite
    | with_reducible apply OptKeeps.ite
    | (with_reducible apply Keeps.plain; · with_reducible assumption)

theorem State.writeBack_keeps {r s : State} (m : Nat) (u : Nat) (h : Keeps r s) :
    Keeps r (State.writeBack s m u) := by
  unfold State.writeBack
  repeat' first
    | with_reducible assumption
    | with_reducible intro x
    | with_reducible apply State.storeUnit_keeps
    | with_reducible apply Keeps.ite
    | (with_reducible apply Keeps.plain; · with_reducible assumption)

theorem State.holdUnit_keeps {r p2 : State} (m : Nat) (p1 : Nat) (p3 : Nat) (h : Keeps r p2) :
    Keeps r (State.holdUnit m p1 p2 p3) := by
  induction p1 generalizing p2 p3 with
  | zero =>
      unfold State.holdUnit
      repeat' first
        | with_reducible assumption
  | succ n ih =>
      unfold State.holdUnit
      repeat' first
        | with_reducible assumption
        | (with_reducible intro x)
        | (lift_lets -underBinder; with_reducible intro x; first
            | (with_reducible refine with_fact (a := Keeps r x) ?_ ?_; (on_goal 1 => unfold x); (on_goal 2 => (intro hx; clear_value x))))
        | with_reducible apply ih
        | with_reducible apply State.bump_keeps
        | with_reducible apply State.writeBack_keeps
        | with_reducible apply Keeps.ite
        | (with_reducible apply Keeps.plain; · with_reducible assumption)
        | split

theorem State.holdLines_keeps {r s : State} (m : Nat) (o : Nat) (n : Nat) (h : Keeps r s) :
    Keeps r (State.holdLines s m o n) := by
  unfold State.holdLines
  repeat' first
    | with_reducible assumption
    | with_reducible intro x
    | with_reducible apply State.holdUnit_keeps
    | with_reducible apply Keeps.foldl

theorem State.markDirty_keeps {r s : State} (m : Nat) (o : Nat) (n : Nat) (h : Keeps r s) :
    Keeps r (State.markDirty s m o n) := by
  unfold State.markDirty
  repeat' first
    | with_reducible assumption
    | (with_reducible intro x)
    | (lift_lets -underBinder; with_reducible intro x; first
        | (with_reducible refine with_fact (a := Keeps r x) ?_ ?_; (on_goal 1 => unfold x); (on_goal 2 => (intro hx; clear_value x))))
    | with_reducible apply State.holdLines_keeps
    | with_reducible apply Keeps.ite
    | with_reducible apply Keeps.foldl
    | (with_reducible apply Keeps.plain; · with_reducible assumption)

end Sys2Proof.Machine
end

