-- ==== Sys2Proof/Laws/KeepWire.lean ====
section
/-! SUPPORT. What the operations of Machine/Wire.lean keep. -/

namespace Sys2Proof.Machine

theorem State.sendMsg_keeps {r s : State} (p vc : Nat) (resp : Bool) (b : List Byte) (h : Keeps r s) :
    Keeps r (State.sendMsg s p vc resp b) := by
  unfold State.sendMsg
  repeat' first
    | with_reducible assumption
    | with_reducible apply State.updPort_keeps

theorem State.admitPool_keeps {r s : State} (r1 : PoolReq) (h : Keeps r s) :
    Keeps r (State.admitPool s r1) := by
  unfold State.admitPool
  repeat' first
    | with_reducible assumption
    | with_reducible intro x
    | (with_reducible apply Keeps.plain; · with_reducible assumption)

theorem State.poolSend_keeps {r s : State} (r1 : PoolReq) (h : Keeps r s) :
    Keeps r (State.poolSend s r1) := by
  unfold State.poolSend
  repeat' first
    | with_reducible assumption
    | (lift_lets -underBinder; with_reducible intro x)
    | with_reducible intro x
    | with_reducible apply State.bump_keeps
    | with_reducible apply State.sendMsg_keeps

theorem State.issuePool_keeps {r s : State} (q : MemReq) (ctx : Nat) (own : Bool) (h : Keeps r s) :
    OptKeeps r (State.issuePool s q ctx own) := by
  unfold State.issuePool
  repeat' first
    | with_reducible assumption
    | with_reducible intro x
    | with_reducible apply OptKeeps.none
    | with_reducible apply OptKeeps.some
    | with_reducible apply State.admitPool_keeps
    | with_reducible apply State.poolSend_keeps
    | with_reducible apply Keeps.ite
    | with_reducible apply OptKeeps.ite
    | with_reducible apply OptKeeps.map
    | with_reducible apply OptSndKeeps.map_of
    | with_reducible apply OptSndKeeps.map
    | refine OptKeeps.of ?_ (by assumption)
    | with_reducible exact OptKeeps.some_keep (by assumption)
    | split

theorem State.postPool_keeps {r s : State} (da : Nat) (n : Nat) (h : Keeps r s) :
    Keeps r (State.postPool s da n) := by
  unfold State.postPool
  repeat' first
    | with_reducible assumption
    | with_reducible intro x
    | with_reducible apply State.admitPool_keeps
    | with_reducible apply Keeps.ite
    | with_reducible apply OptKeeps.getD
    | split

theorem State.issueStore_keeps {r s : State} (d : StoreDest) (ctx : Nat) (addr : Nat) (b : List Byte) (h : Keeps r s) :
    OptKeeps r (State.issueStore s d ctx addr b) := by
  unfold State.issueStore
  repeat' first
    | with_reducible assumption
    | with_reducible intro x
    | with_reducible apply OptKeeps.none
    | with_reducible apply OptKeeps.some
    | with_reducible apply State.admitPool_keeps
    | with_reducible apply State.poolSend_keeps
    | with_reducible apply Keeps.ite
    | with_reducible apply OptKeeps.ite
    | with_reducible apply OptKeeps.map
    | with_reducible apply OptSndKeeps.map_of
    | with_reducible apply OptSndKeeps.map
    | refine OptKeeps.of ?_ (by assumption)
    | with_reducible exact OptKeeps.some_keep (by assumption)
    | split

theorem State.knowCoord_keeps {r s : State} (node : Nat) (addr : Nat) (n : Nat) (h : Keeps r s) :
    Keeps r (State.knowCoord s node addr n) := by
  unfold State.knowCoord
  repeat' first
    | with_reducible assumption
    | (with_reducible intro x)
    | (with_reducible intro x)
    | with_reducible apply Keeps.ite
    | (with_reducible apply Keeps.plain; · with_reducible assumption)
    | (with_reducible apply Keeps.upd; · with_reducible assumption)
    | with_reducible exact le_rfl
    | with_reducible exact WfKeep.refl _
    | with_reducible exact WfKeep.put _ _ _
    | with_reducible exact WfKeep.drop _ _
    | with_reducible exact WfKeep.nil _
    | with_reducible exact WfKeep.filter _ _
    | with_reducible exact CoresKeep.refl _
    | with_reducible exact LifeUp.refl _
    | with_reducible exact BootUp.refl _

theorem State.unpark_keeps {r s : State} (h : Keeps r s) :
    Keeps r (State.unpark s) := by
  unfold State.unpark
  repeat' first
    | with_reducible assumption
    | with_reducible intro x
    | with_reducible apply State.bumpCtx_keeps
    | with_reducible apply State.poolSend_keeps
    | with_reducible apply Keeps.ite
    | with_reducible apply Keeps.foldl
    | (with_reducible apply Keeps.plain; · with_reducible assumption)
    | split

theorem State.patom_keeps {r s : State} (p1 : Store) (d : StoreDest) (ctx : Nat) (i : Nat) (old : Nat) (new : Nat) (h : Keeps r s) :
    Keeps r (State.patom s p1 d ctx i old new) := by
  unfold State.patom
  repeat' first
    | with_reducible assumption
    | with_reducible intro x
    | with_reducible apply State.admitPool_keeps
    | with_reducible apply State.unpark_keeps
    | split

theorem State.reserve_keeps {r s : State} (p1 : Store) (ctx : Nat) (hid : Nat) (m : Nat) (old : Nat) (h : Keeps r s) :
    Keeps r (State.reserve s p1 ctx hid m old) := by
  unfold State.reserve
  repeat' first
    | with_reducible assumption
    | with_reducible intro x
    | with_reducible apply State.patom_keeps

theorem State.raiseFloor_keeps {r s : State} (p1 : Store) (ctx : Nat) (t : Nat) (h : Keeps r s) :
    Keeps r (State.raiseFloor s p1 ctx t) := by
  unfold State.raiseFloor
  repeat' first
    | with_reducible assumption
    | with_reducible intro x
    | with_reducible apply State.patom_keeps
    | with_reducible apply Keeps.ite

theorem State.admitHost_keeps {r s : State} (q : MemReq) (ctx : Nat) (t : Nat) (w : Nat) (a : Nat) (own : Bool) (p : Nat × Nat) (h : Keeps r s) :
    Keeps r (State.admitHost s q ctx t w a own p) := by
  unfold State.admitHost
  repeat' first
    | with_reducible assumption
    | with_reducible intro x
    | with_reducible apply OptKeeps.map
    | with_reducible apply OptSndKeeps.map_of
    | with_reducible apply OptSndKeeps.map
    | (with_reducible apply Keeps.plain; · with_reducible assumption)

theorem State.issuePieces_keeps {r s : State} (q : MemReq) (ctx : Nat) (own : Bool) (ps : List (Nat × Nat)) (h : Keeps r s) :
    OptKeeps r (State.issuePieces s q ctx own ps) := by
  unfold State.issuePieces
  repeat' first
    | with_reducible assumption
    | with_reducible intro x
    | (with_reducible intro x)
    | with_reducible apply OptKeeps.none
    | with_reducible apply OptKeeps.some
    | with_reducible apply State.admitHost_keeps
    | with_reducible apply Keeps.foldl
    | with_reducible apply OptKeeps.foldl
    | with_reducible apply OptKeeps.bind
    | with_reducible apply OptKeeps.bind_snd
    | with_reducible apply OptKeeps.bind_of
    | with_reducible apply OptSndKeeps.bind_of
    | with_reducible apply OptSndKeeps.bind_opt
    | with_reducible apply OptSndKeeps.bind
    | refine OptKeeps.of ?_ (by assumption)
    | with_reducible exact OptKeeps.some_keep (by assumption)
    | split

theorem State.issueHost_keeps {r s : State} (q : MemReq) (ctx : Nat) (h : Keeps r s) :
    OptKeeps r (State.issueHost s q ctx) := by
  unfold State.issueHost
  repeat' first
    | with_reducible assumption
    | with_reducible intro x
    | with_reducible apply OptKeeps.none
    | with_reducible apply OptKeeps.some
    | with_reducible apply State.issuePieces_keeps

end Sys2Proof.Machine
end

