-- ==== Sys2Proof/Laws/KeepAccess.lean ====
section
/-! SUPPORT. What the operations of Machine/Access.lean keep. -/

namespace Sys2Proof.Machine

theorem State.putHost_keeps {r s : State} (a : Option Nat) (b : List Byte) (h : Keeps r s) :
    Keeps r (State.putHost s a b) := by
  unfold State.putHost
  repeat' first
    | with_reducible assumption
    | (with_reducible intro x)
    | (with_reducible intro x)
    | with_reducible apply Keeps.ite
    | (with_reducible apply Keeps.plain; · with_reducible assumption)
    | (with_reducible apply Keeps.upd; · with_reducible assumption)
    | with_reducible exact le_rfl
    | with_reducible exact WfKeep.refl _
    | with_reducible exact WfKeep.put _ _ _
    | with_reducible exact WfKeep.drop _ _
    | with_reducible exact WfKeep.nil _
    | with_reducible exact WfKeep.filter _ _
    | with_reducible exact CoresKeep.refl _
    | with_reducible exact LifeUp.refl _
    | with_reducible exact BootUp.refl _
    | split

theorem State.putUnits_keeps {r s : State} (l : Nat) (h : Keeps r s) :
    Keeps r (State.putUnits s l) := by
  unfold State.putUnits
  repeat' first
    | with_reducible assumption
    | with_reducible intro x
    | with_reducible apply State.putHost_keeps
    | with_reducible apply Keeps.foldl
    | (with_reducible apply Keeps.plain; · with_reducible assumption)

theorem State.putLine_keeps {r s : State} (l : Nat) (b : List Byte) (h : Keeps r s) :
    Keeps r (State.putLine s l b) := by
  unfold State.putLine
  repeat' first
    | with_reducible assumption
    | with_reducible intro x
    | with_reducible apply State.putHost_keeps
    | with_reducible apply State.putUnits_keeps

theorem State.writeHost_keeps {r s : State} (da : Nat) (b : List Byte) (h : Keeps r s) :
    Keeps r (State.writeHost s da b) := by
  unfold State.writeHost
  repeat' first
    | with_reducible assumption
    | with_reducible intro x
    | with_reducible apply State.countLines_keeps
    | with_reducible apply State.putLine_keeps
    | with_reducible apply Keeps.foldl

theorem State.writeDa_keeps {r s : State} (da : Nat) (b : List Byte) (h : Keeps r s) :
    Keeps r (State.writeDa s da b) := by
  unfold State.writeDa
  repeat' first
    | with_reducible assumption
    | (with_reducible intro x; first
        | (with_reducible refine with_fact (a := Keeps r x) ?_ ?_; (on_goal 1 => unfold x); (on_goal 2 => (intro hx; clear_value x)))
        | skip)
    | (lift_lets -underBinder; with_reducible intro x; first
        | (with_reducible refine with_fact (a := Keeps r x) ?_ ?_; (on_goal 1 => unfold x); (on_goal 2 => (intro hx; clear_value x)))
        | skip)
    | with_reducible apply State.updCore_keeps
    | with_reducible apply State.bumpAt_keeps
    | with_reducible apply State.dropHost_keeps
    | with_reducible apply State.countLines_keeps
    | with_reducible apply State.dropRun_keeps
    | with_reducible apply State.markDirty_keeps
    | with_reducible apply State.postPool_keeps
    | with_reducible apply State.writeHost_keeps
    | with_reducible apply Keeps.ite
    | with_reducible apply CoreKeep.ite
    | with_reducible apply Keeps.foldl
    | with_reducible apply CoreKeep.foldl
    | (with_reducible apply CoreKeep.upd; · with_reducible assumption)
    | (with_reducible apply Keeps.plain; · with_reducible assumption)
    | (with_reducible apply Keeps.upd; · with_reducible assumption)
    | with_reducible exact le_rfl
    | with_reducible exact WfKeep.refl _
    | with_reducible exact WfKeep.put _ _ _
    | with_reducible exact WfKeep.drop _ _
    | with_reducible exact WfKeep.nil _
    | with_reducible exact WfKeep.filter _ _
    | with_reducible exact CoresKeep.refl _
    | with_reducible exact LifeUp.refl _
    | with_reducible exact BootUp.refl _
    | split

theorem State.wipeBytes_keeps {r s : State} (g : Nat) (n : Nat) (h : Keeps r s) :
    Keeps r (State.wipeBytes s g n) := by
  have e : ((s.dropRun (2 ^ 21 * g) (2 ^ 21 * n)).dropHost (2 ^ 21 * g) (2 ^ 21 * n)).mem = s.mem := by
    unfold State.dropRun State.dropHost
    repeat' split
    all_goals rfl
  unfold State.wipeBytes
  refine Keeps.upd (State.dropHost_keeps _ _ (State.dropRun_keeps _ _ h)) le_rfl (.refl _) ?_ (.refl _) (.refl _) (.refl _)
    (.refl _) (.refl _)
  rw [e]
  exact .drop _ _

theorem State.cacheKey_keeps {r s : State} (ctx : Nat) (da : Nat) (h : Keeps r s) :
    Keeps r (State.cacheKey s ctx da) := by
  unfold State.cacheKey
  repeat' first
    | with_reducible assumption
    | with_reducible intro x
    | with_reducible apply Keeps.ite
    | (with_reducible apply Keeps.plain; · with_reducible assumption)
    | split

theorem State.check_keeps {r s : State} (init : Nat) (ctx : Nat) (da : Nat) (n : Nat) (write : Bool) (walk : Bool) (h : Keeps r s) :
    ResKeeps r (State.check s init ctx da n write walk) := by
  unfold State.check
  repeat' first
    | with_reducible assumption
    | with_reducible intro x
    | with_reducible apply ResKeeps.ok
    | with_reducible apply ResKeeps.lost
    | with_reducible apply ResKeeps.wait
    | with_reducible apply State.denied_keeps
    | with_reducible apply State.keyRefused_keeps
    | with_reducible apply State.queueRekey_keeps
    | with_reducible apply State.holdLines_keeps
    | with_reducible apply State.cacheKey_keeps
    | with_reducible apply ResKeeps.bind
    | with_reducible apply Keeps.ite
    | with_reducible apply ResKeeps.ite
    | with_reducible apply OptKeeps.bind
    | with_reducible apply OptKeeps.bind_snd
    | with_reducible apply OptKeeps.bind_of
    | with_reducible apply OptSndKeeps.bind_of
    | with_reducible apply OptSndKeeps.bind_opt
    | with_reducible apply OptSndKeeps.bind
    | refine ResKeeps.of_ok ?_ (by assumption)
    | refine ResKeeps.of_lost ?_ (by assumption)
    | refine ResKeeps.of_wait ?_ (by assumption)
    | with_reducible exact ResKeeps.ok_keep (by assumption)
    | with_reducible exact ResKeeps.lost_keep (by assumption)
    | with_reducible exact ResKeeps.wait_keep (by assumption)
    | split

theorem State.tagWait_keeps {r s : State} (init : Nat) (c : Nat) (h : Keeps r s) :
    Keeps r (State.tagWait s init c) := by
  unfold State.tagWait
  repeat' first
    | with_reducible assumption
    | with_reducible intro x
    | with_reducible apply State.bumpAt_keeps
    | with_reducible apply State.bump_keeps
    | with_reducible apply State.bumpCtx_keeps
    | with_reducible apply Keeps.ite
    | split

theorem State.poolRead_keeps {r s : State} (init : Nat) (ctx : Nat) (da : Nat) (n : Nat) (node : Nat) (addr : Nat) (nl : Nat) (h : Keeps r s) :
    ResKeeps r (State.poolRead s init ctx da n node addr nl) := by
  unfold State.poolRead
  dsimp only
  split
  · exact ResKeeps.ok (Keeps.plain h)
  · split
    · exact ResKeeps.wait h
    · split
      · rename_i t e
        exact ResKeeps.wait ((State.issuePool_keeps _ _ _ h).of e)
      · exact ResKeeps.wait (State.bumpCtx_keeps _ _ _ _ h)

theorem State.poolAccess_keeps {r s : State} (init : Nat) (ctx : Nat) (da : Nat) (n : Nat) (write : Bool) (h : Keeps r s) :
    ResKeeps r (State.poolAccess s init ctx da n write) := by
  unfold State.poolAccess
  repeat' first
    | with_reducible assumption
    | with_reducible intro x
    | with_reducible apply ResKeeps.ok
    | with_reducible apply ResKeeps.lost
    | with_reducible apply ResKeeps.wait
    | with_reducible apply State.bump_keeps
    | with_reducible apply State.bumpCtx_keeps
    | with_reducible apply State.poolRead_keeps
    | with_reducible apply ResKeeps.bind
    | with_reducible apply Keeps.ite
    | with_reducible apply ResKeeps.ite
    | with_reducible apply OptKeeps.bind
    | with_reducible apply OptKeeps.bind_snd
    | with_reducible apply OptKeeps.bind_of
    | with_reducible apply OptSndKeeps.bind_of
    | with_reducible apply OptSndKeeps.bind_opt
    | with_reducible apply OptSndKeeps.bind
    | refine ResKeeps.of_ok ?_ (by assumption)
    | refine ResKeeps.of_lost ?_ (by assumption)
    | refine ResKeeps.of_wait ?_ (by assumption)
    | with_reducible exact ResKeeps.ok_keep (by assumption)
    | with_reducible exact ResKeeps.lost_keep (by assumption)
    | with_reducible exact ResKeeps.wait_keep (by assumption)
    | split

theorem State.hostRead_keeps {r s : State} (init : Nat) (ctx : Nat) (da : Nat) (n : Nat) (h : Keeps r s) :
    ResKeeps r (State.hostRead s init ctx da n) := by
  unfold State.hostRead
  repeat' first
    | with_reducible assumption
    | (with_reducible intro x; first
        | (with_reducible refine with_fact (a := Keeps r x) ?_ ?_; (on_goal 1 => unfold x); (on_goal 2 => (intro hx; clear_value x)))
        | skip)
    | (lift_lets -underBinder; with_reducible intro x)
    | with_reducible apply ResKeeps.ok
    | with_reducible apply ResKeeps.lost
    | with_reducible apply ResKeeps.wait
    | with_reducible apply OptKeeps.none
    | with_reducible apply OptKeeps.some
    | with_reducible apply State.bumpCtx_keeps
    | with_reducible apply State.keepHost_keeps
    | with_reducible apply State.issuePieces_keeps
    | with_reducible apply ResKeeps.bind
    | with_reducible apply Keeps.ite
    | with_reducible apply ResKeeps.ite
    | with_reducible apply OptKeeps.ite
    | with_reducible apply Keeps.foldl
    | with_reducible apply ResKeeps.foldl
    | with_reducible apply OptKeeps.foldl
    | with_reducible apply OptKeeps.getD
    | (with_reducible apply Keeps.plain; · with_reducible assumption)
    | (with_reducible apply Keeps.plain; (on_goal 1 => refine OptKeeps.of ?_ (by assumption)))
    | refine ResKeeps.of_ok ?_ (by assumption)
    | refine ResKeeps.of_lost ?_ (by assumption)
    | refine ResKeeps.of_wait ?_ (by assumption)
    | refine OptKeeps.of ?_ (by assumption)
    | with_reducible exact ResKeeps.ok_keep (by assumption)
    | with_reducible exact ResKeeps.lost_keep (by assumption)
    | with_reducible exact ResKeeps.wait_keep (by assumption)
    | with_reducible exact OptKeeps.some_keep (by assumption)
    | split

theorem State.hostAccess_keeps {r s : State} (init : Nat) (ctx : Nat) (da : Nat) (n : Nat) (write : Bool) (h : Keeps r s) :
    ResKeeps r (State.hostAccess s init ctx da n write) := by
  unfold State.hostAccess
  repeat' first
    | with_reducible assumption
    | with_reducible intro x
    | with_reducible apply ResKeeps.ok
    | with_reducible apply ResKeeps.lost
    | with_reducible apply ResKeeps.wait
    | with_reducible apply State.bumpCtx_keeps
    | with_reducible apply State.keepHost_keeps
    | with_reducible apply State.hostRead_keeps
    | with_reducible apply ResKeeps.bind
    | with_reducible apply Keeps.ite
    | with_reducible apply ResKeeps.ite

theorem State.outside_keeps {r s : State} (init : Nat) (ctx : Nat) (da : Nat) (n : Nat) (write : Bool) (h : Keeps r s) :
    ResKeeps r (State.outside s init ctx da n write) := by
  unfold State.outside
  repeat' first
    | with_reducible assumption
    | with_reducible intro x
    | with_reducible apply ResKeeps.ok
    | with_reducible apply ResKeeps.lost
    | with_reducible apply ResKeeps.wait
    | with_reducible apply State.poolAccess_keeps
    | with_reducible apply State.hostAccess_keeps
    | with_reducible apply ResKeeps.bind
    | refine ResKeeps.of_ok ?_ (by assumption)
    | refine ResKeeps.of_lost ?_ (by assumption)
    | refine ResKeeps.of_wait ?_ (by assumption)
    | with_reducible exact ResKeeps.ok_keep (by assumption)
    | with_reducible exact ResKeeps.lost_keep (by assumption)
    | with_reducible exact ResKeeps.wait_keep (by assumption)
    | split

theorem State.walkRead_keeps {r s : State} (init : Nat) (ctx : Nat) (a : Nat) (h : Keeps r s) :
    SndKeeps r (State.walkRead s init ctx a) := by
  unfold State.walkRead
  repeat' first
    | with_reducible assumption
    | (with_reducible intro x)
    | (with_reducible intro x)
    | with_reducible apply SndKeeps.mk
    | with_reducible apply State.denied_keeps
    | with_reducible apply Keeps.ite
    | with_reducible apply SndKeeps.ite
    | refine SndKeeps.of ?_ (by assumption)
    | with_reducible exact SndKeeps.snd (by assumption)
    | with_reducible exact SndKeeps.mk_keep (by assumption)
    | split

theorem State.walkEntry_keeps {r s : State} (cl : Option Nat) (init : Nat) (ctx : Nat) (a : Nat) (h : Keeps r s) :
    SndKeeps r (State.walkEntry s cl init ctx a) := by
  unfold State.walkEntry
  repeat' first
    | with_reducible assumption
    | with_reducible intro x
    | with_reducible apply SndKeeps.mk
    | with_reducible apply State.updCluster_keeps
    | with_reducible refine SndKeeps.snd (State.walkRead_keeps (h := ?_) ..)
    | with_reducible apply State.walkRead_keeps
    | refine SndKeeps.of ?_ (by assumption)
    | with_reducible exact SndKeeps.snd (by assumption)
    | with_reducible exact SndKeeps.mk_keep (by assumption)
    | split

theorem State.walk4_keeps {r s : State} (init : Nat) (ctx : Nat) (table : Nat) (va : Nat) (h : Keeps r s) :
    SndKeeps r (State.walk4 s init ctx table va) := by
  unfold State.walk4
  repeat' first
    | with_reducible assumption
    | with_reducible intro x
    | with_reducible apply SndKeeps.mk
    | with_reducible refine SndKeeps.snd (State.walkRead_keeps (h := ?_) ..)
    | with_reducible apply State.walkRead_keeps
    | with_reducible apply Keeps.ite
    | with_reducible apply SndKeeps.ite
    | refine SndKeeps.of ?_ (by assumption)
    | with_reducible exact SndKeeps.snd (by assumption)
    | with_reducible exact SndKeeps.mk_keep (by assumption)
    | split

theorem State.walk3_keeps {r s : State} (cl : Option Nat) (init : Nat) (ctx : Nat) (table : Nat) (va : Nat) (h : Keeps r s) :
    SndKeeps r (State.walk3 s cl init ctx table va) := by
  unfold State.walk3
  repeat' first
    | with_reducible assumption
    | with_reducible intro x
    | with_reducible apply SndKeeps.mk
    | with_reducible refine SndKeeps.snd (State.walkEntry_keeps (h := ?_) ..)
    | with_reducible apply State.walkEntry_keeps
    | with_reducible refine SndKeeps.snd (State.walk4_keeps (h := ?_) ..)
    | with_reducible apply State.walk4_keeps
    | with_reducible apply Keeps.ite
    | with_reducible apply SndKeeps.ite
    | refine SndKeeps.of ?_ (by assumption)
    | with_reducible exact SndKeeps.snd (by assumption)
    | with_reducible exact SndKeeps.mk_keep (by assumption)
    | split

theorem State.walk2_keeps {r s : State} (cl : Option Nat) (init : Nat) (ctx : Nat) (table : Nat) (va : Nat) (h : Keeps r s) :
    SndKeeps r (State.walk2 s cl init ctx table va) := by
  unfold State.walk2
  have g := State.walkEntry_keeps (r := r) (s := s) cl init ctx (table + 8 * (va / 2 ^ 30 % 512)) h
  generalize State.walkEntry s cl init ctx (table + 8 * (va / 2 ^ 30 % 512)) = x at g ⊢
  obtain ⟨o, t⟩ := x
  cases o with
  | none => exact g
  | some e =>
    dsimp only
    split
    · exact g
    · exact State.walk3_keeps _ _ _ _ _ g

theorem State.walk_keeps {r s : State} (cl : Option Nat) (init : Nat) (ctx : Nat) (va : Nat) (h : Keeps r s) :
    SndKeeps r (State.walk s cl init ctx va) := by
  unfold State.walk
  split
  · exact h
  · rename_i root _
    have g := State.walkEntry_keeps (r := r) (s := s) cl init ctx (root + 8 * (va / 2 ^ 39 % 512)) h
    generalize State.walkEntry s cl init ctx (root + 8 * (va / 2 ^ 39 % 512)) = x at g ⊢
    obtain ⟨o, t⟩ := x
    cases o with
    | none => exact g
    | some e =>
      dsimp only
      split
      · exact g
      · exact State.walk2_keeps _ _ _ _ _ g

theorem Core.fill_keeps {r k : Core} (e : TlbEntry) (h : CoreKeep r k) :
    CoreKeep r (Core.fill k e) := by
  unfold Core.fill
  repeat' first
    | with_reducible assumption
    | with_reducible intro x
    | (with_reducible apply CoreKeep.upd; · with_reducible assumption)

theorem State.fillMicro_keeps {r s : State} (init : Nat) (e : TlbEntry) (h : Keeps r s) :
    Keeps r (State.fillMicro s init e) := by
  unfold State.fillMicro
  repeat' first
    | with_reducible assumption
    | with_reducible intro x
    | with_reducible apply State.updCore_keeps
    | with_reducible apply Core.fill_keeps
    | with_reducible apply Keeps.ite

theorem State.permitted_keeps {r s : State} (e : TlbEntry) (a : Acc) (h : Keeps r s) :
    ResKeeps r (State.permitted s e a) := by
  unfold State.permitted
  repeat' first
    | with_reducible assumption
    | with_reducible intro x
    | with_reducible apply ResKeeps.ok
    | with_reducible apply ResKeeps.lost
    | with_reducible apply ResKeeps.wait
    | with_reducible apply ResKeeps.bind
    | with_reducible apply Keeps.ite
    | with_reducible apply ResKeeps.ite

theorem State.movStall_keeps {r s : State} (init : Nat) (ctx : Nat) (va : Nat) (h : Keeps r s) :
    Keeps r (State.movStall s init ctx va) := by
  unfold State.movStall
  repeat' first
    | with_reducible assumption
    | (with_reducible intro x; first
        | (with_reducible refine with_fact (a := Keeps r x) ?_ ?_; (on_goal 1 => unfold x); (on_goal 2 => (intro hx; clear_value x))))
    | (lift_lets -underBinder; with_reducible intro x)
    | with_reducible apply State.bumpCtx_keeps
    | with_reducible apply Keeps.ite
    | (with_reducible apply Keeps.plain; · with_reducible assumption)

theorem State.xwalk_keeps {r s : State} (init : Nat) (ctx : Nat) (cl : Option Nat) (va : Nat) (a : Acc) (h : Keeps r s) :
    ResKeeps r (State.xwalk s init ctx cl va a) := by
  unfold State.xwalk
  repeat' first
    | with_reducible assumption
    | with_reducible intro x
    | with_reducible apply ResKeeps.ok
    | with_reducible apply ResKeeps.lost
    | with_reducible apply ResKeeps.wait
    | with_reducible apply SndKeeps.mk
    | with_reducible apply State.updCluster_keeps
    | with_reducible apply State.tagWait_keeps
    | with_reducible refine SndKeeps.snd (State.walk_keeps (h := ?_) ..)
    | with_reducible apply State.walk_keeps
    | with_reducible apply State.fillMicro_keeps
    | with_reducible apply State.permitted_keeps
    | with_reducible apply State.movStall_keeps
    | with_reducible apply ResKeeps.bind
    | with_reducible apply Keeps.ite
    | with_reducible apply ResKeeps.ite
    | with_reducible apply SndKeeps.ite
    | refine ResKeeps.of_ok ?_ (by assumption)
    | refine ResKeeps.of_lost ?_ (by assumption)
    | refine ResKeeps.of_wait ?_ (by assumption)
    | refine SndKeeps.of ?_ (by assumption)
    | with_reducible exact ResKeeps.ok_keep (by assumption)
    | with_reducible exact ResKeeps.lost_keep (by assumption)
    | with_reducible exact ResKeeps.wait_keep (by assumption)
    | with_reducible exact SndKeeps.snd (by assumption)
    | with_reducible exact SndKeeps.mk_keep (by assumption)
    | split

theorem State.xlate_keeps {r s : State} (init : Nat) (ctx : Nat) (cl : Option Nat) (va : Nat) (a : Acc) (h : Keeps r s) :
    ResKeeps r (State.xlate s init ctx cl va a) := by
  unfold State.xlate
  repeat' first
    | with_reducible assumption
    | with_reducible intro x
    | with_reducible apply ResKeeps.ok
    | with_reducible apply ResKeeps.lost
    | with_reducible apply ResKeeps.wait
    | with_reducible apply State.bump_keeps
    | with_reducible apply State.fillMicro_keeps
    | with_reducible apply State.permitted_keeps
    | with_reducible apply State.xwalk_keeps
    | with_reducible apply ResKeeps.bind
    | with_reducible apply Keeps.ite
    | with_reducible apply ResKeeps.ite
    | refine ResKeeps.of_ok ?_ (by assumption)
    | refine ResKeeps.of_lost ?_ (by assumption)
    | refine ResKeeps.of_wait ?_ (by assumption)
    | with_reducible exact ResKeeps.ok_keep (by assumption)
    | with_reducible exact ResKeeps.lost_keep (by assumption)
    | with_reducible exact ResKeeps.wait_keep (by assumption)
    | split

theorem State.touchPool_keeps {r s : State} (init : Nat) (ctx : Nat) (va : Nat) (da : Nat) (h : Keeps r s) :
    Keeps r (State.touchPool s init ctx va da) := by
  unfold State.touchPool
  repeat' first
    | with_reducible assumption
    | (with_reducible intro x; first
        | (with_reducible refine with_fact (a := Keeps r x) ?_ ?_; (on_goal 1 => unfold x); (on_goal 2 => (intro hx; clear_value x)))
        | skip)
    | (lift_lets -underBinder; with_reducible intro x)
    | with_reducible apply State.bumpCtx_keeps
    | with_reducible apply Keeps.ite
    | (with_reducible apply Keeps.plain; · with_reducible assumption)
    | split

theorem State.bumpQuota_keeps {r s : State} (da i : Nat) (h : Keeps r s) :
    Keeps r (State.bumpQuota s da i) := by
  unfold State.bumpQuota
  repeat' first
    | with_reducible assumption
    | with_reducible apply State.bumpAt_keeps
    | split

theorem State.refuse_keeps {r s : State} (r1 : Refused) (h : Keeps r s) :
    FstKeeps r (State.refuse s r1) := by
  unfold State.refuse
  repeat' first
    | with_reducible assumption
    | (lift_lets -underBinder; with_reducible intro x; with_reducible refine with_fact (a := Keeps r x) ?_ ?_; (on_goal 1 => unfold x); (on_goal 2 => (intro hx; clear_value x)))
    | with_reducible intro x
    | with_reducible apply FstKeeps.mk
    | with_reducible apply State.bumpQuota_keeps

theorem State.admission_keeps {r s : State} (init : Nat) (ctx : Nat) (da : Nat) (n : Nat) (write : Bool) (h : Keeps r s) :
    ResKeeps r (State.admission s init ctx da n write) := by
  unfold State.admission
  repeat' first
    | with_reducible assumption
    | (with_reducible intro x; first
        | (with_reducible refine with_fact (a := Keeps r x) ?_ ?_; (on_goal 1 => unfold x); (on_goal 2 => (intro hx; clear_value x)))
        | skip)
    | (lift_lets -underBinder; with_reducible intro x)
    | with_reducible apply ResKeeps.ok
    | with_reducible apply ResKeeps.lost
    | with_reducible apply ResKeeps.wait
    | with_reducible apply FstKeeps.mk
    | with_reducible refine FstKeeps.fst (State.refuse_keeps (h := ?_) ..)
    | with_reducible apply State.refuse_keeps
    | with_reducible apply ResKeeps.bind
    | with_reducible apply Keeps.ite
    | with_reducible apply ResKeeps.ite
    | with_reducible apply FstKeeps.ite
    | with_reducible apply OptKeeps.getD
    | (with_reducible apply Keeps.plain; · with_reducible assumption)

theorem State.withTag_keeps {r s : State} (init : Nat) (ctx : Nat) (h : Keeps r s) :
    ResKeeps r (State.withTag s init ctx) := by
  unfold State.withTag
  repeat' first
    | with_reducible assumption
    | with_reducible intro x
    | with_reducible apply ResKeeps.ok
    | with_reducible apply ResKeeps.lost
    | with_reducible apply ResKeeps.wait
    | with_reducible apply State.tagWait_keeps
    | with_reducible apply ResKeeps.bind
    | with_reducible apply Keeps.ite
    | with_reducible apply ResKeeps.ite

theorem State.aim_keeps {r s : State} (init : Nat) (ctx : Nat) (va : Nat) (n : Nat) (a : Acc) (h : Keeps r s) :
    ResKeeps r (State.aim s init ctx va n a) := by
  unfold State.aim
  repeat' first
    | with_reducible assumption
    | with_reducible intro x
    | (with_reducible intro x)
    | with_reducible apply ResKeeps.ok
    | with_reducible apply ResKeeps.lost
    | with_reducible apply ResKeeps.wait
    | with_reducible apply State.check_keeps
    | with_reducible apply State.outside_keeps
    | with_reducible apply State.xlate_keeps
    | with_reducible apply State.admission_keeps
    | with_reducible apply State.withTag_keeps
    | with_reducible apply ResKeeps.bind

theorem State.touched_keeps {r s : State} (init : Nat) (ctx : Nat) (va : Nat) (da : Nat) (h : Keeps r s) :
    Keeps r (State.touched s init ctx va da) := by
  unfold State.touched
  repeat' first
    | with_reducible assumption
    | with_reducible intro x
    | with_reducible apply State.touchPool_keeps
    | with_reducible apply Keeps.ite

theorem State.locate_keeps {r s : State} (init : Nat) (ctx : Nat) (va : Nat) (n : Nat) (a : Acc) (h : Keeps r s) :
    ResKeeps r (State.locate s init ctx va n a) := by
  unfold State.locate
  repeat' first
    | with_reducible assumption
    | with_reducible intro x
    | with_reducible apply ResKeeps.ok
    | with_reducible apply ResKeeps.lost
    | with_reducible apply ResKeeps.wait
    | with_reducible apply State.aim_keeps
    | with_reducible apply State.touched_keeps
    | with_reducible apply ResKeeps.bind

theorem State.locateAll_keeps {r s : State} (init ctx : Nat) (a : Acc) (p0 : List (Nat × Nat)) (h : Keeps r s) :
    ResKeeps r (State.locateAll s init ctx a p0) := by
  induction p0 generalizing s with
  | nil =>
      unfold State.locateAll
      repeat' first
        | with_reducible assumption
        | with_reducible apply ResKeeps.ok
  | cons y ys ih =>
      unfold State.locateAll
      repeat' first
        | with_reducible assumption
        | intro x
        | with_reducible apply ResKeeps.ok
        | with_reducible apply ih
        | with_reducible apply State.locate_keeps
        | with_reducible apply ResKeeps.bind

theorem State.readVa_keeps {r s : State} (init ctx va n : Nat) (h : Keeps r s) :
    ResKeeps r (State.readVa s init ctx va n) := by
  unfold State.readVa
  repeat' first
    | with_reducible assumption
    | intro x
    | with_reducible apply ResKeeps.ok
    | with_reducible apply State.locateAll_keeps
    | with_reducible apply ResKeeps.bind

theorem State.writePieces_keeps {r s : State} (p0 : List (Nat × Nat)) (p1 : List Byte) (h : Keeps r s) :
    Keeps r (State.writePieces s p0 p1) := by
  induction p0 generalizing s p1 with
  | nil =>
      unfold State.writePieces
      repeat' first
        | with_reducible assumption
  | cons y ys ih =>
      unfold State.writePieces
      repeat' first
        | with_reducible assumption
        | with_reducible apply ih
        | with_reducible apply State.writeDa_keeps

theorem State.writeVa_keeps {r s : State} (init ctx va : Nat) (b : List Byte) (a : Acc) (h : Keeps r s) :
    ResKeeps r (State.writeVa s init ctx va b a) := by
  unfold State.writeVa
  repeat' first
    | with_reducible assumption
    | intro x
    | with_reducible apply ResKeeps.ok
    | with_reducible apply State.locateAll_keeps
    | with_reducible apply State.writePieces_keeps
    | with_reducible apply ResKeeps.bind

end Sys2Proof.Machine
end

