-- ==== Sys2Proof/Laws/KeepOwners.lean ====
section
/-! SUPPORT. What the operations of Machine/Owners.lean keep. -/

namespace Sys2Proof.Machine

theorem State.drawKey_keeps {r s : State} (w : Nat) (h : Keeps r s) :
    OptSndKeeps r (State.drawKey s w) := by
  unfold State.drawKey
  repeat' first
    | (lift_lets -underBinder; intro x)
    | with_reducible apply OptSndKeeps.none
    | with_reducible apply OptSndKeeps.some
    | with_reducible refine SndKeeps.snd (State.free_keeps (h := ?_) ..)
    | with_reducible apply OptSndKeeps.ite
    | (with_reducible apply Keeps.plain; · with_reducible assumption)

theorem State.drawFresh_keeps {r s : State} (w : Nat) (h : Keeps r s) :
    OptSndKeeps r (State.drawFresh s w) := by
  unfold State.drawFresh
  repeat' first
    | with_reducible assumption
    | with_reducible intro x
    | with_reducible apply OptSndKeeps.none
    | with_reducible apply OptSndKeeps.some
    | with_reducible apply State.drawKey_keeps
    | with_reducible apply Keeps.ite
    | with_reducible apply OptSndKeeps.ite
    | (with_reducible apply Keeps.plain; · with_reducible assumption)

theorem State.mask_keeps {r s : State} (w : Nat) (h : Keeps r s) :
    SndKeeps r (State.mask s w) := by
  unfold State.mask
  have g := State.drawKey_keeps w h
  generalize s.drawKey w = x at g ⊢
  cases x with
  | none => exact State.free_keeps w h
  | some d => exact g.keep d.1 d.2 rfl

theorem State.drawSample_keeps {r s : State} (h : Keeps r s) :
    OptSndKeeps r (State.drawSample s) := by
  unfold State.drawSample
  repeat' first
    | (lift_lets -underBinder; intro x)
    | with_reducible apply OptSndKeeps.none
    | with_reducible apply OptSndKeeps.some
    | with_reducible refine SndKeeps.snd (State.free_keeps (h := ?_) ..)
    | with_reducible apply OptSndKeeps.ite
    | (with_reducible apply Keeps.plain; · with_reducible assumption)

theorem State.purge_keeps {r s : State} (p : Nat × Nat × Nat × Nat → Bool) (h : Keeps r s) :
    Keeps r (State.purge s p) := by
  unfold State.purge
  repeat' first
    | with_reducible assumption
    | with_reducible intro x
    | (with_reducible apply Keeps.plain; · with_reducible assumption)

theorem State.invalidate_keeps {r s : State} (i : Nat) (h : Keeps r s) :
    Keeps r (State.invalidate s i) := by
  unfold State.invalidate
  repeat' first
    | with_reducible assumption
    | with_reducible intro x
    | with_reducible apply State.updKslot_keeps
    | with_reducible apply State.purge_keeps

theorem State.dropJob_keeps {r s : State} (chd : BitVec 256) (h : Keeps r s) :
    Keeps r (State.dropJob s chd) := by
  unfold State.dropJob
  repeat' first
    | with_reducible assumption
    | with_reducible apply State.invalidate_keeps
    | with_reducible apply Keeps.ite
    | split

end Sys2Proof.Machine
end

