-- ==== Sys2Proof/Laws/KeepLost.lean ====
section
/-! SUPPORT. What the operations of Machine/Lost.lean keep. -/

namespace Sys2Proof.Machine

theorem State.putStatus_keeps {r s : State} (c : Nat) (h : Keeps r s) :
    Keeps r (State.putStatus s c) := by
  unfold State.putStatus
  repeat' first
    | with_reducible assumption
    | with_reducible intro x
    | with_reducible apply ResKeeps.ok
    | with_reducible apply ResKeeps.lost
    | with_reducible apply ResKeeps.wait
    | with_reducible apply State.updCtx_keeps
    | with_reducible apply State.writeVa_keeps
    | with_reducible apply ResKeeps.bind
    | refine ResKeeps.of_ok ?_ (by assumption)
    | refine ResKeeps.of_lost ?_ (by assumption)
    | refine ResKeeps.of_wait ?_ (by assumption)
    | with_reducible exact ResKeeps.ok_keep (by assumption)
    | with_reducible exact ResKeeps.lost_keep (by assumption)
    | with_reducible exact ResKeeps.wait_keep (by assumption)
    | split

theorem State.statusAgain_keeps {r s : State} (c : Nat) (h : Keeps r s) :
    Keeps r (State.statusAgain s c) := by
  unfold State.statusAgain
  repeat' first
    | with_reducible assumption
    | with_reducible intro x
    | with_reducible apply State.putStatus_keeps
    | with_reducible apply Keeps.ite

theorem Core.stopped_keeps {r k : Core} (h : CoreKeep r k) :
    CoreKeep r (Core.stopped k) := by
  unfold Core.stopped
  repeat' (with_reducible apply CoreKeep.upd; · with_reducible assumption)

theorem State.dropOwn_keeps {r s : State} (p : MemReq → Bool) (h : Keeps r s) :
    Keeps r (State.dropOwn s p) := by
  unfold State.dropOwn
  repeat' first
    | with_reducible assumption
    | with_reducible intro x
    | (with_reducible apply Keeps.plain; · with_reducible assumption)

theorem State.lose_keeps {r s : State} (c : Nat) (cause : Nat) (core : optParam (Option Nat) none) (pc : optParam W48 0) (h : Keeps r s) :
    Keeps r (State.lose s c cause core pc) := by
  unfold State.lose
  repeat' first
    | with_reducible assumption
    | with_reducible intro x
    | with_reducible apply State.updCore_keeps
    | with_reducible apply State.updCluster_keeps
    | with_reducible apply State.updCtx_keeps
    | with_reducible apply State.ctxEvent_keeps
    | with_reducible apply State.putStatus_keeps
    | with_reducible apply Core.stopped_keeps
    | with_reducible apply State.dropOwn_keeps
    | with_reducible apply Keeps.ite
    | with_reducible apply CoreKeep.ite
    | with_reducible apply Keeps.foldl

theorem State.settle_keeps {α : Type} {r : State} {c : Nat} {x : Res α} {f : State → α → State} (h : ResKeeps r x)
    (g : ∀ s a, Keeps r s → Keeps r (f s a)) : Keeps r (State.settle c x f) := by
  unfold State.settle
  cases x with
  | ok s a => exact g s a h.keep
  | lost s n => exact State.lose_keeps _ _ _ _ h.keep
  | wait s => exact h.keep

theorem State.idleCore_keeps {r s : State} (n : Nat) (h : Keeps r s) :
    Keeps r (State.idleCore s n) := by
  unfold State.idleCore
  repeat' first
    | with_reducible assumption
    | with_reducible intro x
    | with_reducible apply State.updCore_keeps
    | with_reducible apply State.dropOwn_keeps
    | (with_reducible apply CoreKeep.upd; · with_reducible assumption)

theorem State.tryStop_keeps {r s : State} (n : Nat) (h : Keeps r s) :
    Keeps r (State.tryStop s n) := by
  unfold State.tryStop
  repeat' first
    | with_reducible assumption
    | with_reducible apply State.idleCore_keeps
    | with_reducible apply Keeps.ite

theorem issue_keeps {r s : State} {i : Issue} {words : Nat} {fenceOp : Bool} {bad : Option Nat} {u : Uses}
    {body : Nat → State → Res (Option W48)} (h : Keeps r s) (g : ∀ c, ResKeeps r (body c s)) :
    Keeps r (issue i words fenceOp bad u s body) := by
  have retire : ∀ t n (next : W48), Keeps r t →
      Keeps r ((t.bumpCore n 0 1).updCore n fun k => { k with pc := next, fresh := false }) := fun t n next ht =>
    State.updCore_keeps _ _ (State.bumpCore_keeps _ _ _ ht) fun _ _ hk => CoreKeep.upd hk
  unfold issue
  dsimp only
  split
  · exact h
  next c _ =>
    have gb := g c
    generalize body c s = x at gb
    split
    · exact h
    split
    · exact State.idleCore_keeps _ h
    split
    · exact State.lose_keeps _ _ _ _ h
    split
    · exact State.lose_keeps _ _ _ _ h
    split
    · exact State.lose_keeps _ _ _ _ h
    split
    · exact h
    split
    · exact retire _ _ _ h
    split
    · exact h
    cases x with
    | ok t a => exact retire _ _ _ gb.keep
    | lost t n => exact State.lose_keeps _ _ _ _ gb.keep
    | wait t => exact gb.keep

theorem onCore_keeps {r s : State} {n : Nat} {f : Core → Core} (h : Keeps r s) (hf : ∀ k l, CoreKeep k l → CoreKeep k (f l)) :
    ResKeeps r (onCore n f s) := ⟨State.updCore_keeps n f h hf⟩

end Sys2Proof.Machine
end

