-- ==== Sys2Proof/Laws/KeepMbx.lean ====
section
/-! SUPPORT. What the operations of Machine/Mbx.lean keep. -/

namespace Sys2Proof.Machine

theorem State.complete_keeps {r s : State} (ch status detail : Nat) (res : List W64) (h : Keeps r s) :
    Keeps r (State.complete s ch status detail res) := by
  unfold State.complete
  repeat' first
    | with_reducible assumption
    | with_reducible apply State.updChan_keeps
    | with_reducible apply State.irq_keeps

theorem State.completeAll_keeps {r s : State} (p : MbxWait → Bool) (status : Nat) (res : List W64) (h : Keeps r s) :
    Keeps r (State.completeAll s p status res) := by
  unfold State.completeAll
  repeat' first
    | with_reducible assumption
    | intro x
    | with_reducible apply State.complete_keeps
    | with_reducible apply Keeps.ite
    | with_reducible apply Keeps.foldl

theorem State.answer_keeps {r s : State} {ch : Nat} {args : List W64} {k : Cmd} {body : State → State × Reply}
    (h : Keeps r s) (g : FstKeeps r (body s)) : FstKeeps r (s.answer ch args k body) := by
  unfold State.answer
  repeat' first
    | exact g
    | exact FstKeeps.mk h
    | with_reducible apply FstKeeps.ite

theorem State.take_keeps {r s : State} {ch : Nat} {args : List W64} {k : Cmd} {body : State → State × Reply}
    (h : Keeps r s) (g : FstKeeps r (body s)) : Keeps r (s.take ch args k body) := by
  have a : FstKeeps r (s.answer ch args k body) := State.answer_keeps h g
  unfold State.take
  generalize s.answer ch args k body = x at a
  obtain ⟨t, y⟩ := x
  have a : Keeps r t := a
  cases y with
  | done st res => exact State.complete_keeps _ _ _ _ a
  | refused d => exact State.complete_keeps _ _ _ _ a
  | wait w => exact State.updChan_keeps _ _ a

theorem State.submitted_keeps {r s : State} (ch opc : Nat) (seq : BitVec 16) (args : List W64) (h : Keeps r s) :
    Keeps r (State.submitted s ch opc seq args) := by
  unfold State.submitted
  repeat' first
    | with_reducible assumption
    | (lift_lets -underBinder; intro x; refine with_fact (a := Keeps r x) ?_ ?_; (on_goal 1 => unfold x); (on_goal 2 => (intro hx; clear_value x)))
    | with_reducible apply State.updChan_keeps
    | (with_reducible apply Keeps.plain; · with_reducible assumption)

theorem mailbox_keeps {r s : State} {c : MbxCall} {k : List W64 → Cmd} {body : List W64 → State → State × Reply}
    (h : Keeps r s) (g : ∀ a t, Keeps r t → FstKeeps r (body a t)) : Keeps r (mailbox c k body s) := by
  unfold mailbox
  dsimp only
  split
  · exact h
  have hs : Keeps r (if (s.chan c.chan.val).active = true then s
      else s.submitted c.chan.val (k c.args).opc c.seq c.args) := Keeps.ite h (State.submitted_keeps _ _ _ _ h)
  generalize (if (s.chan c.chan.val).active = true then s
    else s.submitted c.chan.val (k c.args).opc c.seq c.args) = t at hs ⊢
  split
  · exact State.setReg_keeps _ _ hs
  split
  · have ht : Keeps r { t with mbxQ := t.mbxQ.tail } :=
      Keeps.upd hs le_rfl (.refl _) (.refl _) (.refl _) (.refl _) (.refl _) (.refl _) (.refl _)
    exact State.take_keeps ht (g _ _ ht)
  split
  · exact State.take_keeps hs (g _ _ hs)
  split
  · exact hs
  · exact State.setReg_keeps _ _ hs

theorem execMailboxBadCommand_keeps {r s : State} (chan : Fin 8) (cmd : W64) (h : Keeps r s) :
    OutKeeps r (execMailboxBadCommand chan cmd s) := by
  unfold execMailboxBadCommand
  repeat' first
    | with_reducible assumption
    | (with_reducible intro x; first
        | (with_reducible refine with_fact (a := Keeps r x) ?_ ?_; (on_goal 1 => unfold x); (on_goal 2 => (intro hx; clear_value x))))
    | (lift_lets -underBinder; with_reducible intro x; first
        | (with_reducible refine with_fact (a := Keeps r x) ?_ ?_; (on_goal 1 => unfold x); (on_goal 2 => (intro hx; clear_value x))))
    | with_reducible apply OutKeeps.next
    | with_reducible apply State.setReg_keeps
    | with_reducible apply State.rsvWrite_keeps
    | with_reducible apply State.complete_keeps
    | with_reducible apply State.submitted_keeps
    | with_reducible apply Keeps.ite
    | with_reducible apply OutKeeps.ite
    | (with_reducible apply Keeps.plain; · with_reducible assumption)

end Sys2Proof.Machine
end

