-- ==== Sys2Proof/Laws/KeepOperands.lean ====
section
/-! SUPPORT. What the operations of Machine/Operands.lean keep. -/

namespace Sys2Proof.Machine

theorem Core.put_keeps {r k : Core} (off : Nat) (b : List Byte) (h : CoreKeep r k) :
    CoreKeep r (Core.put k off b) := by
  unfold Core.put
  repeat' (with_reducible apply CoreKeep.upd; · with_reducible assumption)

theorem Core.putSlot_keeps {r k : Core} (w i : Nat) (l : List Nat) (h : CoreKeep r k) :
    CoreKeep r (Core.putSlot k w i l) := by
  unfold Core.putSlot
  repeat' first
    | with_reducible assumption
    | with_reducible apply Core.put_keeps

end Sys2Proof.Machine
end

