-- ==== Sys2Proof/Laws/KeepLayout.lean ====
section
/-! SUPPORT. What the operations of Machine/Layout.lean keep. -/

namespace Sys2Proof.Machine

theorem orLost_keeps {r s : State} (c : Option Nat) (k : Res (Option W48)) (h : Keeps r s) (g_k : ResKeeps r k) :
    ResKeeps r (orLost s c k) := by
  unfold orLost
  repeat' first
    | with_reducible assumption
    | with_reducible apply ResKeeps.lost
    | split

theorem interlocked_keeps {r s : State} (c : Nat) (e : Ext) (k : Res (Option W48)) (h : Keeps r s) (g_k : ResKeeps r k) :
    ResKeeps r (interlocked s c e k) := by
  unfold interlocked
  repeat' first
    | with_reducible assumption
    | with_reducible apply ResKeeps.wait
    | with_reducible apply ResKeeps.ite

end Sys2Proof.Machine
end

