-- ==== Sys2Proof/Laws/KeepPad.lean ====
section
/-! SUPPORT. What the operations of Machine/Pad.lean keep. -/

namespace Sys2Proof.Machine

theorem State.peakPad_keeps {r s : State} (c : Nat) (h : Keeps r s) :
    Keeps r (State.peakPad s c) := by
  unfold State.peakPad
  repeat' first
    | with_reducible assumption
    | (lift_lets -underBinder; intro x)
    | with_reducible apply State.setReg_keeps
    | with_reducible apply Keeps.ite

theorem Core.padLine_keeps {r k : Core} (task line off : Nat) (b : List Byte) (h : CoreKeep r k) :
    OptCoreKeep r (Core.padLine k task line off b) := by
  unfold Core.padLine
  repeat' first
    | with_reducible apply OptCoreKeep.none
    | with_reducible apply OptCoreKeep.some
    | with_reducible apply OptCoreKeep.ite
    | (with_reducible apply CoreKeep.upd; · with_reducible assumption)

theorem Core.padPieces_keeps {r k : Core} (task : Nat) (p0 : List (Nat × Nat × Nat)) (p1 : List Byte) (h : CoreKeep r k) :
    OptCoreKeep r (Core.padPieces k task p0 p1) := by
  induction p0 generalizing k p1 with
  | nil =>
      unfold Core.padPieces
      repeat' first
        | with_reducible assumption
        | with_reducible apply OptCoreKeep.some
  | cons y ys ih =>
      unfold Core.padPieces
      repeat' first
        | with_reducible assumption
        | with_reducible apply OptCoreKeep.none
        | with_reducible apply ih
        | with_reducible apply Core.padLine_keeps
        | refine OptCoreKeep.of ?_ (by assumption)
        | split

theorem Core.padStore_keeps {r k : Core} (task da : Nat) (b : List Byte) (h : CoreKeep r k) :
    OptCoreKeep r (Core.padStore k task da b) := by
  unfold Core.padStore
  repeat' first
    | with_reducible assumption
    | with_reducible apply Core.padPieces_keeps

theorem State.readHeld_keeps {r s : State} (c : Nat) (task : Option Nat) (da n : Nat) (h : Keeps r s) :
    ResKeeps r (State.readHeld s c task da n) := by
  unfold State.readHeld
  repeat' first
    | with_reducible assumption
    | (lift_lets -underBinder; intro x)
    | intro x
    | with_reducible apply ResKeeps.ok
    | with_reducible apply ResKeeps.wait
    | with_reducible apply State.updCore_keeps
    | with_reducible apply Core.updTask_keeps
    | with_reducible apply State.bumpCore_keeps
    | with_reducible apply ResKeeps.ite

theorem State.padFull_keeps {r s : State} (n : Nat) (task : Option Nat) (h : Keeps r s) :
    Keeps r (State.padFull s n task) := by
  unfold State.padFull
  repeat' first
    | with_reducible assumption
    | with_reducible intro x
    | (lift_lets -underBinder; with_reducible intro x)
    | with_reducible apply State.bumpCore_keeps
    | with_reducible apply State.bumpCtx_keeps
    | with_reducible apply Keeps.ite
    | with_reducible apply OptKeeps.bind
    | with_reducible apply OptKeeps.bind_snd
    | with_reducible apply OptKeeps.bind_of
    | with_reducible apply OptSndKeeps.bind_of
    | with_reducible apply OptSndKeeps.bind_opt
    | with_reducible apply OptSndKeeps.bind
    | split

theorem State.writeHeld_keeps {r s : State} (c : Nat) (task : Option Nat) (da : Nat) (b : List Byte) (h : Keeps r s) :
    ResKeeps r (State.writeHeld s c task da b) := by
  unfold State.writeHeld
  dsimp only
  split
  · exact ResKeeps.ok (State.writeDa_keeps _ _ h)
  · split
    · split
      · exact ResKeeps.wait (State.bumpCore_keeps _ _ _ h)
      · exact ResKeeps.ok (State.writeDa_keeps _ _ h)
    · exact ResKeeps.ok h
    · split
      · rename_i k e
        exact ResKeeps.ok (State.peakPad_keeps _ (State.setCore_keeps _ _ h ((Core.padStore_keeps _ _ _ ⟨id⟩).of e)))
      · exact ResKeeps.wait (State.padFull_keeps _ _ h)

theorem State.readsHeld_keeps {r s : State} (c : Nat) (task : Option Nat) (p0 : List (Nat × Nat)) (h : Keeps r s) :
    ResKeeps r (State.readsHeld s c task p0) := by
  induction p0 generalizing s with
  | nil =>
      unfold State.readsHeld
      repeat' first
        | with_reducible assumption
        | with_reducible apply ResKeeps.ok
  | cons y ys ih =>
      unfold State.readsHeld
      repeat' first
        | with_reducible assumption
        | intro x
        | with_reducible apply ResKeeps.ok
        | with_reducible apply ih
        | with_reducible apply State.readHeld_keeps
        | with_reducible apply ResKeeps.bind

theorem State.writesHeld_keeps {r s : State} (c : Nat) (task : Option Nat) (p0 : List (Nat × Nat)) (p1 : List Byte) (h : Keeps r s) :
    ResKeeps r (State.writesHeld s c task p0 p1) := by
  induction p0 generalizing s p1 with
  | nil =>
      unfold State.writesHeld
      repeat' first
        | with_reducible assumption
        | with_reducible apply ResKeeps.ok
  | cons y ys ih =>
      unfold State.writesHeld
      repeat' first
        | with_reducible assumption
        | intro x
        | with_reducible apply ih
        | with_reducible apply State.writeHeld_keeps
        | with_reducible apply ResKeeps.bind

theorem State.countStalls_keeps {r s s' : State} (n : Nat) (init : Nat) (h : Keeps r s) (h2s : Keeps r s') :
    Keeps r (State.countStalls s s' n init) := by
  unfold State.countStalls
  repeat' first
    | with_reducible assumption
    | (with_reducible intro x)
    | (lift_lets -underBinder; with_reducible intro x; first
        | (with_reducible refine with_fact (a := Keeps r x) ?_ ?_; (on_goal 1 => unfold x); (on_goal 2 => (intro hx; clear_value x))))
    | with_reducible apply State.setReg_keeps
    | with_reducible apply Keeps.ite
    | with_reducible apply Keeps.foldl
    | (with_reducible apply Keeps.plain; · with_reducible assumption)

theorem State.flushRel_keeps {r s : State} (n : Nat) (h : Keeps r s) :
    Keeps r (State.flushRel s n) := by
  unfold State.flushRel
  repeat' first
    | with_reducible assumption
    | (lift_lets -underBinder; with_reducible intro x)
    | with_reducible intro x
    | with_reducible apply State.updCore_keeps
    | with_reducible apply State.signal_keeps
    | with_reducible apply Keeps.foldl
    | (with_reducible apply CoreKeep.upd; · with_reducible assumption)

end Sys2Proof.Machine
end

