-- ==== Sys2Proof/Laws/KeepUnit.lean ====
section
/-! SUPPORT. What the operations of Machine/Unit.lean keep. -/

namespace Sys2Proof.Machine

theorem Core.numbered_keeps {r k : Core} (h : CoreKeep r k) :
    CoreKeep r (Core.numbered k) := by
  unfold Core.numbered
  repeat' first
    | with_reducible assumption
    | with_reducible intro x
    | (with_reducible apply CoreKeep.upd; · with_reducible assumption)

theorem State.enqueue_keeps {r s : State} (n : Nat) (u : Nat) (d : Dispatched) (h : Keeps r s) :
    ResKeeps r (State.enqueue s n u d) := by
  unfold State.enqueue
  repeat' first
    | with_reducible assumption
    | with_reducible intro x
    | with_reducible apply ResKeeps.ok
    | with_reducible apply ResKeeps.lost
    | with_reducible apply ResKeeps.wait
    | with_reducible apply State.updCore_keeps
    | with_reducible apply State.bumpCore_keeps
    | with_reducible apply Core.numbered_keeps
    | with_reducible apply ResKeeps.bind
    | with_reducible apply Keeps.ite
    | with_reducible apply ResKeeps.ite
    | with_reducible apply CoreKeep.ite
    | (with_reducible apply CoreKeep.upd; · with_reducible assumption)

theorem dispatch_keeps {r s : State} (u : Nat) (i : Instr) (w : Work) (f : Perform) (n : Nat) (c : Nat) (h : Keeps r s) (g_f : ∀ x0 x1 x2 x3, Keeps r x3 → ResKeeps r (f x0 x1 x2 x3)) :
    ResKeeps r (dispatch u i w f n c s) := by
  unfold dispatch
  repeat' first
    | with_reducible assumption
    | with_reducible intro x
    | with_reducible apply ResKeeps.ok
    | with_reducible apply ResKeeps.lost
    | with_reducible apply ResKeeps.wait
    | with_reducible apply g_f
    | with_reducible apply State.updCore_keeps
    | with_reducible apply Core.numbered_keeps
    | with_reducible apply State.enqueue_keeps
    | with_reducible apply ResKeeps.bind
    | with_reducible apply Keeps.ite
    | with_reducible apply ResKeeps.ite
    | with_reducible apply CoreKeep.ite
    | refine ResKeeps.of_ok ?_ (by assumption)
    | refine ResKeeps.of_lost ?_ (by assumption)
    | refine ResKeeps.of_wait ?_ (by assumption)
    | with_reducible exact ResKeeps.ok_keep (by assumption)
    | with_reducible exact ResKeeps.lost_keep (by assumption)
    | with_reducible exact ResKeeps.wait_keep (by assumption)
    | split

theorem State.unitStep_keeps {r s : State} (f : Instr → Perform) (u : Nat) (n : Nat) (c : Nat) (h : Keeps r s) (g_f : ∀ x0 x1 x2 x3 x4, Keeps r x4 → ResKeeps r (f x0 x1 x2 x3 x4)) :
    Keeps r (State.unitStep f u n c s) := by
  unfold State.unitStep
  repeat' first
    | with_reducible assumption
    | with_reducible intro x
    | with_reducible apply ResKeeps.ok
    | with_reducible apply ResKeeps.lost
    | with_reducible apply ResKeeps.wait
    | with_reducible apply g_f
    | with_reducible apply State.updCore_keeps
    | with_reducible apply State.lose_keeps
    | with_reducible apply ResKeeps.bind
    | with_reducible apply Keeps.ite
    | with_reducible apply ResKeeps.ite
    | with_reducible apply CoreKeep.ite
    | (with_reducible apply CoreKeep.upd; · with_reducible assumption)
    | refine ResKeeps.of_ok ?_ (by assumption)
    | refine ResKeeps.of_lost ?_ (by assumption)
    | refine ResKeeps.of_wait ?_ (by assumption)
    | with_reducible exact ResKeeps.ok_keep (by assumption)
    | with_reducible exact ResKeeps.lost_keep (by assumption)
    | with_reducible exact ResKeeps.wait_keep (by assumption)
    | split

end Sys2Proof.Machine
end

