-- ==== Sys2Proof/Laws/KeepVector.lean ====
section
/-! SUPPORT. What the operations of Machine/Vector.lean keep. -/

namespace Sys2Proof.Machine

theorem iterate_keeps {r k : Core} (n : Nat) (f : Nat → Core → Core) (h : CoreKeep r k) (g_f : ∀ (rk : Core) x0 x1, CoreKeep rk x1 → CoreKeep rk (f x0 x1)) :
    CoreKeep r (iterate n f k) := by
  unfold iterate
  repeat' first
    | with_reducible assumption
    | with_reducible intro x
    | with_reducible apply g_f
    | with_reducible apply CoreKeep.foldl

theorem Core.result_keeps {r k : Core} (w d : Nat) (l : List (Nat × Nat)) (h : CoreKeep r k) :
    CoreKeep r (Core.result k w d l) := by
  unfold Core.result
  repeat' first
    | with_reducible assumption
    | with_reducible apply Core.raise_keeps
    | with_reducible apply Core.putSlot_keeps

theorem vopRun_keeps {r p5 : State} (op : Elem2) (f : VOp) (n : Nat) (c : Nat) (p4 : Dispatched) (h : Keeps r p5) :
    ResKeeps r (vopRun op f n c p4 p5) := by
  unfold vopRun
  repeat' first
    | with_reducible assumption
    | with_reducible intro x
    | with_reducible apply ResKeeps.ok
    | with_reducible apply ResKeeps.lost
    | with_reducible apply ResKeeps.wait
    | with_reducible apply State.updCore_keeps
    | with_reducible apply Core.asDispatched_keeps
    | with_reducible apply iterate_keeps
    | with_reducible apply Core.result_keeps

theorem vop_keeps {r s : State} (op : Elem2) (tys : Nat → Bool) (satOk : Bool) (xOk : Bool) (i : Instr) (h1 : Issue) (f : VOp) (h : Keeps r s) :
    OutKeeps r (vop op tys satOk xOk i h1 f s) := by
  unfold vop
  repeat' first
    | with_reducible assumption
    | with_reducible intro x
    | with_reducible apply OutKeeps.next
    | with_reducible apply ResKeeps.ok
    | with_reducible apply ResKeeps.lost
    | with_reducible apply ResKeeps.wait
    | with_reducible apply issue_keeps
    | with_reducible apply dispatch_keeps
    | with_reducible apply vopRun_keeps

theorem execVadd_keeps {r s : State} (h1 : Issue) (f : VOp) (h : Keeps r s) :
    OutKeeps r (execVadd h1 f s) := by
  unfold execVadd
  repeat' first
    | with_reducible assumption
    | with_reducible intro x
    | with_reducible apply OutKeeps.next
    | with_reducible apply vop_keeps

theorem execVsub_keeps {r s : State} (h1 : Issue) (f : VOp) (h : Keeps r s) :
    OutKeeps r (execVsub h1 f s) := by
  unfold execVsub
  repeat' first
    | with_reducible assumption
    | with_reducible intro x
    | with_reducible apply OutKeeps.next
    | with_reducible apply vop_keeps

theorem execVmulLo_keeps {r s : State} (h1 : Issue) (f : VOp) (h : Keeps r s) :
    OutKeeps r (execVmulLo h1 f s) := by
  unfold execVmulLo
  repeat' first
    | with_reducible assumption
    | with_reducible intro x
    | with_reducible apply OutKeeps.next
    | with_reducible apply vop_keeps

theorem execVmulHi_keeps {r s : State} (h1 : Issue) (f : VOp) (h : Keeps r s) :
    OutKeeps r (execVmulHi h1 f s) := by
  unfold execVmulHi
  repeat' first
    | with_reducible assumption
    | with_reducible intro x
    | with_reducible apply OutKeeps.next
    | with_reducible apply vop_keeps

theorem execVmul_keeps {r s : State} (h1 : Issue) (f : VOp) (h : Keeps r s) :
    OutKeeps r (execVmul h1 f s) := by
  unfold execVmul
  repeat' first
    | with_reducible assumption
    | with_reducible intro x
    | with_reducible apply OutKeeps.next
    | with_reducible apply vop_keeps

theorem execVmin_keeps {r s : State} (h1 : Issue) (f : VOp) (h : Keeps r s) :
    OutKeeps r (execVmin h1 f s) := by
  unfold execVmin
  repeat' first
    | with_reducible assumption
    | with_reducible intro x
    | with_reducible apply OutKeeps.next
    | with_reducible apply vop_keeps

theorem execVmax_keeps {r s : State} (h1 : Issue) (f : VOp) (h : Keeps r s) :
    OutKeeps r (execVmax h1 f s) := by
  unfold execVmax
  repeat' first
    | with_reducible assumption
    | with_reducible intro x
    | with_reducible apply OutKeeps.next
    | with_reducible apply vop_keeps

theorem execVshl_keeps {r s : State} (h1 : Issue) (f : VOp) (h : Keeps r s) :
    OutKeeps r (execVshl h1 f s) := by
  unfold execVshl
  repeat' first
    | with_reducible assumption
    | with_reducible intro x
    | with_reducible apply OutKeeps.next
    | with_reducible apply vop_keeps

theorem execVshr_keeps {r s : State} (h1 : Issue) (f : VOp) (h : Keeps r s) :
    OutKeeps r (execVshr h1 f s) := by
  unfold execVshr
  repeat' first
    | with_reducible assumption
    | with_reducible intro x
    | with_reducible apply OutKeeps.next
    | with_reducible apply vop_keeps

theorem execVshra_keeps {r s : State} (h1 : Issue) (f : VOp) (h : Keeps r s) :
    OutKeeps r (execVshra h1 f s) := by
  unfold execVshra
  repeat' first
    | with_reducible assumption
    | with_reducible intro x
    | with_reducible apply OutKeeps.next
    | with_reducible apply vop_keeps

theorem execVand_keeps {r s : State} (h1 : Issue) (f : VOp) (h : Keeps r s) :
    OutKeeps r (execVand h1 f s) := by
  unfold execVand
  repeat' first
    | with_reducible assumption
    | with_reducible intro x
    | with_reducible apply OutKeeps.next
    | with_reducible apply vop_keeps

theorem execVor_keeps {r s : State} (h1 : Issue) (f : VOp) (h : Keeps r s) :
    OutKeeps r (execVor h1 f s) := by
  unfold execVor
  repeat' first
    | with_reducible assumption
    | with_reducible intro x
    | with_reducible apply OutKeeps.next
    | with_reducible apply vop_keeps

theorem execVxor_keeps {r s : State} (h1 : Issue) (f : VOp) (h : Keeps r s) :
    OutKeeps r (execVxor h1 f s) := by
  unfold execVxor
  repeat' first
    | with_reducible assumption
    | with_reducible intro x
    | with_reducible apply OutKeeps.next
    | with_reducible apply vop_keeps

theorem execVandn_keeps {r s : State} (h1 : Issue) (f : VOp) (h : Keeps r s) :
    OutKeeps r (execVandn h1 f s) := by
  unfold execVandn
  repeat' first
    | with_reducible assumption
    | with_reducible intro x
    | with_reducible apply OutKeeps.next
    | with_reducible apply vop_keeps

theorem execVcmpEq_keeps {r s : State} (h1 : Issue) (f : VOp) (h : Keeps r s) :
    OutKeeps r (execVcmpEq h1 f s) := by
  unfold execVcmpEq
  repeat' first
    | with_reducible assumption
    | with_reducible intro x
    | with_reducible apply OutKeeps.next
    | with_reducible apply vop_keeps

theorem execVcmpNe_keeps {r s : State} (h1 : Issue) (f : VOp) (h : Keeps r s) :
    OutKeeps r (execVcmpNe h1 f s) := by
  unfold execVcmpNe
  repeat' first
    | with_reducible assumption
    | with_reducible intro x
    | with_reducible apply OutKeeps.next
    | with_reducible apply vop_keeps

theorem execVcmpLt_keeps {r s : State} (h1 : Issue) (f : VOp) (h : Keeps r s) :
    OutKeeps r (execVcmpLt h1 f s) := by
  unfold execVcmpLt
  repeat' first
    | with_reducible assumption
    | with_reducible intro x
    | with_reducible apply OutKeeps.next
    | with_reducible apply vop_keeps

theorem execVcmpLe_keeps {r s : State} (h1 : Issue) (f : VOp) (h : Keeps r s) :
    OutKeeps r (execVcmpLe h1 f s) := by
  unfold execVcmpLe
  repeat' first
    | with_reducible assumption
    | with_reducible intro x
    | with_reducible apply OutKeeps.next
    | with_reducible apply vop_keeps

theorem vpredRun_keeps {r p5 : State} (q : (Nat → Bool) → List Nat → Bool) (f : VOp) (n : Nat) (c : Nat) (p4 : Dispatched) (h : Keeps r p5) :
    ResKeeps r (vpredRun q f n c p4 p5) := by
  unfold vpredRun
  repeat' first
    | with_reducible assumption
    | with_reducible intro x
    | with_reducible apply ResKeeps.ok
    | with_reducible apply ResKeeps.lost
    | with_reducible apply ResKeeps.wait
    | with_reducible apply State.updCore_keeps
    | with_reducible apply Core.pw_keeps

theorem vpred_keeps {r s : State} (q : (Nat → Bool) → List Nat → Bool) (i : Instr) (h1 : Issue) (f : VOp) (h : Keeps r s) :
    OutKeeps r (vpred q i h1 f s) := by
  unfold vpred
  repeat' first
    | with_reducible assumption
    | with_reducible intro x
    | with_reducible apply OutKeeps.next
    | with_reducible apply ResKeeps.ok
    | with_reducible apply ResKeeps.lost
    | with_reducible apply ResKeeps.wait
    | with_reducible apply issue_keeps
    | with_reducible apply dispatch_keeps
    | with_reducible apply vpredRun_keeps

theorem execVany_keeps {r s : State} (h1 : Issue) (f : VOp) (h : Keeps r s) :
    OutKeeps r (execVany h1 f s) := by
  unfold execVany
  repeat' first
    | with_reducible assumption
    | with_reducible intro x
    | with_reducible apply OutKeeps.next
    | with_reducible apply vpred_keeps

theorem execVall_keeps {r s : State} (h1 : Issue) (f : VOp) (h : Keeps r s) :
    OutKeeps r (execVall h1 f s) := by
  unfold execVall
  repeat' first
    | with_reducible assumption
    | with_reducible intro x
    | with_reducible apply OutKeeps.next
    | with_reducible apply vpred_keeps

theorem vunRun_keeps {r p5 : State} (op : Elem1) (f : VUn) (n : Nat) (c : Nat) (p4 : Dispatched) (h : Keeps r p5) :
    ResKeeps r (vunRun op f n c p4 p5) := by
  unfold vunRun
  repeat' first
    | with_reducible assumption
    | with_reducible intro x
    | with_reducible apply ResKeeps.ok
    | with_reducible apply ResKeeps.lost
    | with_reducible apply ResKeeps.wait
    | with_reducible apply State.updCore_keeps
    | with_reducible apply iterate_keeps
    | with_reducible apply Core.result_keeps

theorem vun_keeps {r s : State} (op : Elem1) (tys : Nat → Bool) (satOk : Bool) (i : Instr) (h1 : Issue) (f : VUn) (h : Keeps r s) :
    OutKeeps r (vun op tys satOk i h1 f s) := by
  unfold vun
  repeat' first
    | with_reducible assumption
    | with_reducible intro x
    | with_reducible apply OutKeeps.next
    | with_reducible apply ResKeeps.ok
    | with_reducible apply ResKeeps.lost
    | with_reducible apply ResKeeps.wait
    | with_reducible apply issue_keeps
    | with_reducible apply dispatch_keeps
    | with_reducible apply vunRun_keeps

theorem execVabs_keeps {r s : State} (h1 : Issue) (f : VUn) (h : Keeps r s) :
    OutKeeps r (execVabs h1 f s) := by
  unfold execVabs
  repeat' first
    | with_reducible assumption
    | with_reducible intro x
    | with_reducible apply OutKeeps.next
    | with_reducible apply vun_keeps

theorem execVneg_keeps {r s : State} (h1 : Issue) (f : VUn) (h : Keeps r s) :
    OutKeeps r (execVneg h1 f s) := by
  unfold execVneg
  repeat' first
    | with_reducible assumption
    | with_reducible intro x
    | with_reducible apply OutKeeps.next
    | with_reducible apply vun_keeps

theorem execVnot_keeps {r s : State} (h1 : Issue) (f : VUn) (h : Keeps r s) :
    OutKeeps r (execVnot h1 f s) := by
  unfold execVnot
  repeat' first
    | with_reducible assumption
    | with_reducible intro x
    | with_reducible apply OutKeeps.next
    | with_reducible apply vun_keeps

theorem execVmov_keeps {r s : State} (h1 : Issue) (f : VUn) (h : Keeps r s) :
    OutKeeps r (execVmov h1 f s) := by
  unfold execVmov
  repeat' first
    | with_reducible assumption
    | with_reducible intro x
    | with_reducible apply OutKeeps.next
    | with_reducible apply vun_keeps

theorem execVexp2_keeps {r s : State} (h1 : Issue) (f : VUn) (h : Keeps r s) :
    OutKeeps r (execVexp2 h1 f s) := by
  unfold execVexp2
  repeat' first
    | with_reducible assumption
    | with_reducible intro x
    | with_reducible apply OutKeeps.next
    | with_reducible apply vun_keeps

theorem execVlog2_keeps {r s : State} (h1 : Issue) (f : VUn) (h : Keeps r s) :
    OutKeeps r (execVlog2 h1 f s) := by
  unfold execVlog2
  repeat' first
    | with_reducible assumption
    | with_reducible intro x
    | with_reducible apply OutKeeps.next
    | with_reducible apply vun_keeps

theorem execVrcp_keeps {r s : State} (h1 : Issue) (f : VUn) (h : Keeps r s) :
    OutKeeps r (execVrcp h1 f s) := by
  unfold execVrcp
  repeat' first
    | with_reducible assumption
    | with_reducible intro x
    | with_reducible apply OutKeeps.next
    | with_reducible apply vun_keeps

theorem execVrsq_keeps {r s : State} (h1 : Issue) (f : VUn) (h : Keeps r s) :
    OutKeeps r (execVrsq h1 f s) := by
  unfold execVrsq
  repeat' first
    | with_reducible assumption
    | with_reducible intro x
    | with_reducible apply OutKeeps.next
    | with_reducible apply vun_keeps

theorem execVtanh_keeps {r s : State} (h1 : Issue) (f : VUn) (h : Keeps r s) :
    OutKeeps r (execVtanh h1 f s) := by
  unfold execVtanh
  repeat' first
    | with_reducible assumption
    | with_reducible intro x
    | with_reducible apply OutKeeps.next
    | with_reducible apply vun_keeps

theorem v3Run_keeps {r p7 : State} (w : Nat) (wc : Nat) (op : Elem3) (f : V3) (n : Nat) (c : Nat) (p6 : Dispatched) (h : Keeps r p7) :
    ResKeeps r (v3Run w wc op f n c p6 p7) := by
  unfold v3Run
  repeat' first
    | with_reducible assumption
    | with_reducible intro x
    | with_reducible apply ResKeeps.ok
    | with_reducible apply ResKeeps.lost
    | with_reducible apply ResKeeps.wait
    | with_reducible apply State.updCore_keeps
    | with_reducible apply Core.asDispatched_keeps
    | with_reducible apply iterate_keeps
    | with_reducible apply Core.result_keeps

theorem v3_keeps {r s : State} (w : Nat) (wc : Nat) (op : Elem3) (rndOk : Bool) (i : Instr) (h1 : Issue) (f : V3) (h : Keeps r s) :
    OutKeeps r (v3 w wc op rndOk i h1 f s) := by
  unfold v3
  repeat' first
    | with_reducible assumption
    | with_reducible intro x
    | with_reducible apply OutKeeps.next
    | with_reducible apply ResKeeps.ok
    | with_reducible apply ResKeeps.lost
    | with_reducible apply ResKeeps.wait
    | with_reducible apply issue_keeps
    | with_reducible apply orLost_keeps
    | with_reducible apply dispatch_keeps
    | with_reducible apply v3Run_keeps

theorem execVfma_keeps {r s : State} (h1 : Issue) (ty : Fin 3) (f : V3) (h : Keeps r s) :
    OutKeeps r (execVfma h1 ty f s) := by
  unfold execVfma
  repeat' first
    | with_reducible assumption
    | with_reducible intro x
    | with_reducible apply OutKeeps.next
    | with_reducible apply v3_keeps

theorem execVdot2_keeps {r s : State} (h1 : Issue) (fp16 : Bool) (f : V3) (h : Keeps r s) :
    OutKeeps r (execVdot2 h1 fp16 f s) := by
  unfold execVdot2
  repeat' first
    | with_reducible assumption
    | with_reducible intro x
    | with_reducible apply OutKeeps.next
    | with_reducible apply v3_keeps

theorem execVsel_keeps {r s : State} (h1 : Issue) (w : Fin 3) (f : V3) (h : Keeps r s) :
    OutKeeps r (execVsel h1 w f s) := by
  unfold execVsel
  repeat' first
    | with_reducible assumption
    | with_reducible intro x
    | with_reducible apply OutKeeps.next
    | with_reducible apply v3_keeps

end Sys2Proof.Machine
end

