-- ==== Sys2Proof/Laws/KeepConvert.lean ====
section
/-! SUPPORT. What the operations of Machine/Convert.lean keep. -/

namespace Sys2Proof.Machine

theorem cvtStep_keeps {r k : Core} (sf : Nat) (df : Nat) (rnd : Nat) (js : W64) (step : BitVec 32) (idx : W64) (a : Nat) (d : Nat) (i : Nat) (h : CoreKeep r k) :
    CoreKeep r (cvtStep sf df rnd js step idx a d i k) := by
  unfold cvtStep
  repeat' first
    | with_reducible assumption
    | with_reducible intro x
    | with_reducible apply Core.raise_keeps
    | with_reducible apply Core.put_keeps

theorem vcvtRun_keeps {r p4 : State} (f : VCvt) (n : Nat) (c : Nat) (p3 : Dispatched) (h : Keeps r p4) :
    ResKeeps r (vcvtRun f n c p3 p4) := by
  unfold vcvtRun
  repeat' first
    | with_reducible assumption
    | with_reducible intro x
    | (lift_lets -underBinder; with_reducible intro x)
    | with_reducible apply ResKeeps.ok
    | with_reducible apply ResKeeps.lost
    | with_reducible apply ResKeeps.wait
    | with_reducible apply State.updCore_keeps
    | with_reducible apply Core.asDispatched_keeps
    | with_reducible apply iterate_keeps
    | with_reducible apply cvtStep_keeps

theorem execVcvt_keeps {r s : State} (h1 : Issue) (f : VCvt) (h : Keeps r s) :
    OutKeeps r (execVcvt h1 f s) := by
  unfold execVcvt
  repeat' first
    | with_reducible assumption
    | with_reducible intro x
    | with_reducible apply OutKeeps.next
    | with_reducible apply ResKeeps.ok
    | with_reducible apply ResKeeps.lost
    | with_reducible apply ResKeeps.wait
    | with_reducible apply issue_keeps
    | with_reducible apply dispatch_keeps
    | with_reducible apply vcvtRun_keeps

theorem mxStep_keeps {r k : Core} (f : VMx) (js : W64) (step : BitVec 32) (idx : W64) (i : Nat) (h : CoreKeep r k) :
    CoreKeep r (mxStep f js step idx i k) := by
  unfold mxStep
  repeat' first
    | with_reducible assumption
    | with_reducible intro x
    | with_reducible apply Core.raise_keeps
    | with_reducible apply Core.put_keeps

theorem vcvtMxRun_keeps {r p4 : State} (f : VMx) (n : Nat) (c : Nat) (p3 : Dispatched) (h : Keeps r p4) :
    ResKeeps r (vcvtMxRun f n c p3 p4) := by
  unfold vcvtMxRun
  repeat' first
    | with_reducible assumption
    | with_reducible intro x
    | (lift_lets -underBinder; with_reducible intro x)
    | with_reducible apply ResKeeps.ok
    | with_reducible apply ResKeeps.lost
    | with_reducible apply ResKeeps.wait
    | with_reducible apply State.updCore_keeps
    | with_reducible apply Core.asDispatched_keeps
    | with_reducible apply iterate_keeps
    | with_reducible apply mxStep_keeps

theorem execVcvtMx_keeps {r s : State} (h1 : Issue) (f : VMx) (h : Keeps r s) :
    OutKeeps r (execVcvtMx h1 f s) := by
  unfold execVcvtMx
  repeat' first
    | with_reducible assumption
    | with_reducible intro x
    | with_reducible apply OutKeeps.next
    | with_reducible apply ResKeeps.ok
    | with_reducible apply ResKeeps.lost
    | with_reducible apply ResKeeps.wait
    | with_reducible apply issue_keeps
    | with_reducible apply dispatch_keeps
    | with_reducible apply vcvtMxRun_keeps

theorem mxdStep_keeps {r k : Core} (f : VMx) (i : Nat) (h : CoreKeep r k) :
    CoreKeep r (mxdStep f i k) := by
  unfold mxdStep
  repeat' first
    | with_reducible assumption
    | (lift_lets -underBinder; with_reducible intro x)
    | with_reducible intro x
    | with_reducible apply Core.result_keeps

theorem vcvtMxdRun_keeps {r p4 : State} (f : VMx) (n : Nat) (c : Nat) (p3 : Dispatched) (h : Keeps r p4) :
    ResKeeps r (vcvtMxdRun f n c p3 p4) := by
  unfold vcvtMxdRun
  repeat' first
    | with_reducible assumption
    | with_reducible intro x
    | with_reducible apply ResKeeps.ok
    | with_reducible apply ResKeeps.lost
    | with_reducible apply ResKeeps.wait
    | with_reducible apply State.updCore_keeps
    | with_reducible apply iterate_keeps
    | with_reducible apply mxdStep_keeps

theorem execVcvtMxd_keeps {r s : State} (h1 : Issue) (f : VMx) (h : Keeps r s) :
    OutKeeps r (execVcvtMxd h1 f s) := by
  unfold execVcvtMxd
  repeat' first
    | with_reducible assumption
    | with_reducible intro x
    | with_reducible apply OutKeeps.next
    | with_reducible apply ResKeeps.ok
    | with_reducible apply ResKeeps.lost
    | with_reducible apply ResKeeps.wait
    | with_reducible apply issue_keeps
    | with_reducible apply dispatch_keeps
    | with_reducible apply vcvtMxdRun_keeps

theorem vbxExpRun_keeps {r p4 : State} (f : VBx) (n : Nat) (c : Nat) (p3 : Dispatched) (h : Keeps r p4) :
    ResKeeps r (vbxExpRun f n c p3 p4) := by
  unfold vbxExpRun
  repeat' first
    | with_reducible assumption
    | with_reducible intro x
    | with_reducible apply ResKeeps.ok
    | with_reducible apply ResKeeps.lost
    | with_reducible apply ResKeeps.wait
    | with_reducible apply State.updCore_keeps
    | with_reducible apply Core.put_keeps
    | with_reducible apply iterate_keeps

theorem execVbxExp_keeps {r s : State} (h1 : Issue) (f : VBx) (h : Keeps r s) :
    OutKeeps r (execVbxExp h1 f s) := by
  unfold execVbxExp
  repeat' first
    | with_reducible assumption
    | with_reducible intro x
    | with_reducible apply OutKeeps.next
    | with_reducible apply ResKeeps.ok
    | with_reducible apply ResKeeps.lost
    | with_reducible apply ResKeeps.wait
    | with_reducible apply issue_keeps
    | with_reducible apply dispatch_keeps
    | with_reducible apply vbxExpRun_keeps

theorem vbxCvtRun_keeps {r p4 : State} (f : VBx) (n : Nat) (c : Nat) (p3 : Dispatched) (h : Keeps r p4) :
    ResKeeps r (vbxCvtRun f n c p3 p4) := by
  unfold vbxCvtRun
  repeat' first
    | with_reducible assumption
    | with_reducible intro x
    | with_reducible apply ResKeeps.ok
    | with_reducible apply ResKeeps.lost
    | with_reducible apply ResKeeps.wait
    | with_reducible apply State.updCore_keeps
    | with_reducible apply Core.raise_keeps
    | with_reducible apply Core.put_keeps
    | with_reducible apply Core.asDispatched_keeps
    | with_reducible apply iterate_keeps

theorem execVbxCvt_keeps {r s : State} (h1 : Issue) (f : VBx) (h : Keeps r s) :
    OutKeeps r (execVbxCvt h1 f s) := by
  unfold execVbxCvt
  repeat' first
    | with_reducible assumption
    | with_reducible intro x
    | with_reducible apply OutKeeps.next
    | with_reducible apply ResKeeps.ok
    | with_reducible apply ResKeeps.lost
    | with_reducible apply ResKeeps.wait
    | with_reducible apply issue_keeps
    | with_reducible apply orLost_keeps
    | with_reducible apply dispatch_keeps
    | with_reducible apply vbxCvtRun_keeps

theorem vbxDecRun_keeps {r p4 : State} (f : VBx) (n : Nat) (c : Nat) (p3 : Dispatched) (h : Keeps r p4) :
    ResKeeps r (vbxDecRun f n c p3 p4) := by
  unfold vbxDecRun
  repeat' first
    | with_reducible assumption
    | with_reducible intro x
    | with_reducible apply ResKeeps.ok
    | with_reducible apply ResKeeps.lost
    | with_reducible apply ResKeeps.wait
    | with_reducible apply State.updCore_keeps
    | with_reducible apply Core.asDispatched_keeps
    | with_reducible apply iterate_keeps
    | with_reducible apply Core.result_keeps

theorem execVbxDec_keeps {r s : State} (h1 : Issue) (f : VBx) (h : Keeps r s) :
    OutKeeps r (execVbxDec h1 f s) := by
  unfold execVbxDec
  repeat' first
    | with_reducible assumption
    | with_reducible intro x
    | with_reducible apply OutKeeps.next
    | with_reducible apply ResKeeps.ok
    | with_reducible apply ResKeeps.lost
    | with_reducible apply ResKeeps.wait
    | with_reducible apply issue_keeps
    | with_reducible apply orLost_keeps
    | with_reducible apply dispatch_keeps
    | with_reducible apply vbxDecRun_keeps

theorem Core.drawLanes_keeps {r k : Core} (seed : W64) (h : CoreKeep r k) : CoreKeep r (k.drawLanes seed).2 :=
  Core.raise_keeps _ (CoreKeep.upd h)

theorem vrngRun_keeps {r p5 : State} (g : Nat → Nat) (f : VRng) (n : Nat) (c : Nat) (p4 : Dispatched) (h : Keeps r p5) :
    ResKeeps r (vrngRun g f n c p4 p5) := by
  unfold vrngRun
  refine ResKeeps.ok (State.updCore_keeps _ _ (State.bumpCore_keeps _ _ _ h) fun k l hk => ?_)
  exact iterate_keeps _ _ hk fun rk i l hl => Core.putSlot_keeps _ _ _ (Core.drawLanes_keeps _ hl)

theorem vrngDraw_keeps {r s : State} (g : Nat → Nat) (i : Instr) (h1 : Issue) (f : VRng) (h : Keeps r s) :
    OutKeeps r (vrngDraw g i h1 f s) := by
  unfold vrngDraw
  repeat' first
    | with_reducible assumption
    | with_reducible intro x
    | with_reducible apply OutKeeps.next
    | with_reducible apply ResKeeps.ok
    | with_reducible apply ResKeeps.lost
    | with_reducible apply ResKeeps.wait
    | with_reducible apply issue_keeps
    | with_reducible apply dispatch_keeps
    | with_reducible apply vrngRun_keeps

theorem execVrng_keeps {r s : State} (h1 : Issue) (f : VRng) (h : Keeps r s) :
    OutKeeps r (execVrng h1 f s) := by
  unfold execVrng
  repeat' first
    | with_reducible assumption
    | with_reducible intro x
    | with_reducible apply OutKeeps.next
    | with_reducible apply vrngDraw_keeps

theorem execVrngU_keeps {r s : State} (h1 : Issue) (f : VRng) (h : Keeps r s) :
    OutKeeps r (execVrngU h1 f s) := by
  unfold execVrngU
  repeat' first
    | with_reducible assumption
    | with_reducible intro x
    | with_reducible apply OutKeeps.next
    | with_reducible apply vrngDraw_keeps

theorem vrngSetcRun_keeps {r p4 : State} (f : VRng) (n : Nat) (c : Nat) (p3 : Dispatched) (h : Keeps r p4) :
    ResKeeps r (vrngSetcRun f n c p3 p4) := by
  unfold vrngSetcRun
  repeat' first
    | with_reducible assumption
    | with_reducible intro x
    | with_reducible apply ResKeeps.ok
    | with_reducible apply ResKeeps.lost
    | with_reducible apply ResKeeps.wait
    | with_reducible apply State.updCore_keeps
    | with_reducible apply Core.asDispatched_keeps
    | with_reducible apply ResKeeps.bind
    | with_reducible apply Keeps.foldl
    | with_reducible apply ResKeeps.foldl
    | with_reducible apply CoreKeep.foldl
    | (with_reducible apply CoreKeep.upd; · with_reducible assumption)

theorem execVrngSetc_keeps {r s : State} (h1 : Issue) (f : VRng) (h : Keeps r s) :
    OutKeeps r (execVrngSetc h1 f s) := by
  unfold execVrngSetc
  repeat' first
    | with_reducible assumption
    | with_reducible intro x
    | with_reducible apply OutKeeps.next
    | with_reducible apply ResKeeps.ok
    | with_reducible apply ResKeeps.lost
    | with_reducible apply ResKeeps.wait
    | with_reducible apply issue_keeps
    | with_reducible apply dispatch_keeps
    | with_reducible apply vrngSetcRun_keeps

theorem vrngGetcRun_keeps {r p4 : State} (f : VRng) (n : Nat) (c : Nat) (p3 : Dispatched) (h : Keeps r p4) :
    ResKeeps r (vrngGetcRun f n c p3 p4) := by
  unfold vrngGetcRun
  repeat' first
    | with_reducible assumption
    | with_reducible intro x
    | with_reducible apply ResKeeps.ok
    | with_reducible apply ResKeeps.lost
    | with_reducible apply ResKeeps.wait
    | with_reducible apply State.updCore_keeps
    | with_reducible apply Core.putSlot_keeps

theorem execVrngGetc_keeps {r s : State} (h1 : Issue) (f : VRng) (h : Keeps r s) :
    OutKeeps r (execVrngGetc h1 f s) := by
  unfold execVrngGetc
  repeat' first
    | with_reducible assumption
    | with_reducible intro x
    | with_reducible apply OutKeeps.next
    | with_reducible apply ResKeeps.ok
    | with_reducible apply ResKeeps.lost
    | with_reducible apply ResKeeps.wait
    | with_reducible apply issue_keeps
    | with_reducible apply dispatch_keeps
    | with_reducible apply vrngGetcRun_keeps

theorem sampleSlots_keeps {r p2 : State} (n : Nat) (p0 : Nat) (p1 : Nat) (h : Keeps r p2) :
    OptKeeps r (sampleSlots n p0 p1 p2) := by
  induction p1 generalizing p2 p0 with
  | zero =>
      unfold sampleSlots
      repeat' first
        | with_reducible assumption
        | with_reducible apply OptKeeps.some
  | succ n ih =>
      unfold sampleSlots
      repeat' first
        | with_reducible assumption
        | with_reducible intro x
        | with_reducible apply OptKeeps.none
        | with_reducible apply ih
        | with_reducible apply State.updCore_keeps
        | with_reducible apply State.drawSample_keeps
        | with_reducible apply Core.put_keeps
        | (with_reducible apply Keeps.plain; (on_goal 1 => refine OptSndKeeps.of ?_ (by assumption)))
        | split

theorem vrngTRun_keeps {r p4 : State} (f : VRng) (n : Nat) (c : Nat) (p3 : Dispatched) (h : Keeps r p4) :
    ResKeeps r (vrngTRun f n c p3 p4) := by
  unfold vrngTRun
  repeat' first
    | with_reducible assumption
    | with_reducible intro x
    | with_reducible apply ResKeeps.ok
    | with_reducible apply ResKeeps.lost
    | with_reducible apply ResKeeps.wait
    | with_reducible apply OptKeeps.none
    | with_reducible apply OptKeeps.some
    | with_reducible apply State.keyRefused_keeps
    | with_reducible apply sampleSlots_keeps
    | with_reducible apply ResKeeps.bind
    | refine ResKeeps.of_ok ?_ (by assumption)
    | refine ResKeeps.of_lost ?_ (by assumption)
    | refine ResKeeps.of_wait ?_ (by assumption)
    | refine OptKeeps.of ?_ (by assumption)
    | with_reducible exact ResKeeps.ok_keep (by assumption)
    | with_reducible exact ResKeeps.lost_keep (by assumption)
    | with_reducible exact ResKeeps.wait_keep (by assumption)
    | with_reducible exact OptKeeps.some_keep (by assumption)
    | split

theorem execVrngT_keeps {r s : State} (h1 : Issue) (f : VRng) (h : Keeps r s) :
    OutKeeps r (execVrngT h1 f s) := by
  unfold execVrngT
  repeat' first
    | with_reducible assumption
    | with_reducible intro x
    | with_reducible apply OutKeeps.next
    | with_reducible apply ResKeeps.ok
    | with_reducible apply ResKeeps.lost
    | with_reducible apply ResKeeps.wait
    | with_reducible apply issue_keeps
    | with_reducible apply dispatch_keeps
    | with_reducible apply vrngTRun_keeps
    | with_reducible apply ResKeeps.bind
    | with_reducible apply Keeps.ite
    | with_reducible apply ResKeeps.ite

end Sys2Proof.Machine
end

