-- ==== Sys2Proof/Laws/KeepReduce.lean ====
section
/-! SUPPORT. What the operations of Machine/Reduce.lean keep. -/

namespace Sys2Proof.Machine

theorem redSave_keeps {r k : Core} (f : RFmt) (win : Nat) (r1 : Red) (h : CoreKeep r k) :
    CoreKeep r (redSave f win r1 k) := by
  unfold redSave
  repeat' first
    | with_reducible assumption
    | with_reducible apply Core.put_keeps
    | with_reducible apply CoreKeep.ite

theorem redLimit_keeps {r s : State} (r1 : Red) (h : Keeps r s) :
    SndKeeps r (redLimit r1 s) := by
  unfold redLimit
  repeat' first
    | with_reducible assumption
    | (lift_lets -underBinder; with_reducible intro x; with_reducible refine with_fact (a := SndKeeps r x) ?_ ?_; (on_goal 1 => unfold x); (on_goal 2 => (intro hx; clear_value x)))
    | with_reducible apply SndKeeps.mk
    | with_reducible refine SndKeeps.snd (State.free_keeps (h := ?_) ..)
    | with_reducible exact SndKeeps.snd (by assumption)

theorem redWide_keeps {r s : State} (win : Nat) (r1 : Red) (h : Keeps r s) :
    SndKeeps r (redWide win r1 s) := by
  unfold redWide
  repeat' first
    | with_reducible assumption
    | (with_reducible intro x)
    | (lift_lets -underBinder; with_reducible intro x; first
        | (with_reducible refine with_fact (a := SndKeeps r x) ?_ ?_; (on_goal 1 => unfold x); (on_goal 2 => (intro hx; clear_value x))))
    | with_reducible apply SndKeeps.mk
    | with_reducible refine SndKeeps.snd (State.free_keeps (h := ?_) ..)
    | with_reducible apply State.free_keeps
    | with_reducible apply Keeps.ite
    | with_reducible apply SndKeeps.ite
    | refine SndKeeps.of ?_ (by assumption)
    | with_reducible exact SndKeeps.snd (by assumption)
    | with_reducible exact SndKeeps.mk_keep (by assumption)
    | split

theorem redFree_keeps {r s : State} (int : Bool) (r1 : Red) (h : Keeps r s) :
    SndKeeps r (redFree int r1 s) := by
  unfold redFree
  repeat' first
    | with_reducible assumption
    | with_reducible apply SndKeeps.mk
    | with_reducible refine SndKeeps.snd (State.free_keeps (h := ?_) ..)
    | split

theorem redRun_keeps {r s : State} (win : Nat) (a : Red) (vs : List FVal) (h : Keeps r s) : Keeps r (redRun win a vs s).2.1 := by
  unfold redRun
  split
  · exact SndKeeps.snd (redLimit_keeps _ h)
  · exact SndKeeps.snd (redWide_keeps _ _ h)

theorem redSumRun_keeps {r p7 : State} (sq : Bool) (int : Bool) (fin : Finish) (f : RFmt) (n : Nat) (c : Nat) (p6 : Dispatched) (h : Keeps r p7)
    (g_fin : ∀ (rk : Core) x0 x1 x2 x3, CoreKeep rk x3 → CoreKeep rk (fin x0 x1 x2 x3)) :
    ResKeeps r (redSumRun sq int fin f n c p6 p7) := by
  unfold redSumRun
  dsimp only
  split
  · exact ResKeeps.lost h
  · exact ResKeeps.ok (State.updCore_keeps _ _ (SndKeeps.snd (redFree_keeps _ _ (redRun_keeps _ _ _ h))) fun k l hk =>
      redSave_keeps _ _ _ (g_fin _ _ _ _ _ (Core.raise_keeps _ hk)))

theorem redSum_keeps {r s : State} (sq : Bool) (int : Bool) (tys : List Nat) (fin : Finish) (i : Instr) (h1 : Issue) (f : RFmt) (h : Keeps r s) (g_fin : ∀ (rk : Core) x0 x1 x2 x3, CoreKeep rk x3 → CoreKeep rk (fin x0 x1 x2 x3)) :
    OutKeeps r (redSum sq int tys fin i h1 f s) := by
  unfold redSum
  repeat' first
    | with_reducible assumption
    | with_reducible intro x
    | with_reducible apply OutKeeps.next
    | with_reducible apply ResKeeps.ok
    | with_reducible apply ResKeeps.lost
    | with_reducible apply ResKeeps.wait
    | with_reducible apply g_fin
    | with_reducible apply issue_keeps
    | with_reducible apply dispatch_keeps
    | with_reducible apply redSumRun_keeps

theorem finF32_keeps {r k : Core} (f : RFmt) (u_1 : BitVec 96) (r1 : Red) (win : Nat) (h : CoreKeep r k) :
    CoreKeep r (finF32 f u_1 r1 win k) := by
  unfold finF32
  repeat' first
    | with_reducible assumption
    | (lift_lets -underBinder; with_reducible intro x)
    | with_reducible apply Core.raise_keeps
    | with_reducible apply Core.put_keeps

theorem finInt_keeps {r k : Core} (f : RFmt) (x : BitVec 96) (r1 : Red) (u_3 : Nat) (h : CoreKeep r k) :
    CoreKeep r (finInt f x r1 u_3 k) := by
  unfold finInt
  repeat' first
    | with_reducible assumption
    | (lift_lets -underBinder; with_reducible intro x)
    | with_reducible intro x
    | with_reducible apply Core.raise_keeps
    | with_reducible apply Core.put_keeps
    | with_reducible apply CoreKeep.ite

theorem execRsum_keeps {r s : State} (h1 : Issue) (f : RFmt) (h : Keeps r s) :
    OutKeeps r (execRsum h1 f s) := by
  unfold execRsum
  repeat' first
    | with_reducible assumption
    | with_reducible intro x
    | with_reducible apply OutKeeps.next
    | with_reducible apply redSum_keeps
    | with_reducible apply finF32_keeps

theorem execRssq_keeps {r s : State} (h1 : Issue) (f : RFmt) (h : Keeps r s) :
    OutKeeps r (execRssq h1 f s) := by
  unfold execRssq
  repeat' first
    | with_reducible assumption
    | with_reducible intro x
    | with_reducible apply OutKeeps.next
    | with_reducible apply redSum_keeps
    | with_reducible apply finF32_keeps

theorem execRisum_keeps {r s : State} (h1 : Issue) (f : RFmt) (h : Keeps r s) :
    OutKeeps r (execRisum h1 f s) := by
  unfold execRisum
  repeat' first
    | with_reducible assumption
    | with_reducible intro x
    | with_reducible apply OutKeeps.next
    | with_reducible apply redSum_keeps
    | with_reducible apply finInt_keeps

theorem prefixRun_keeps {rk k : Core} (incl int : Bool) (win src dst i n : Nat) (r : Red) (h : CoreKeep rk k) :
    CoreKeep rk (prefixRun incl int win src dst i n r k).2 := by
  induction n generalizing i r k with
  | zero => exact h
  | succ n ih => exact ih _ _ (Core.result_keeps _ _ _ h)

theorem prefixLimit_keeps {r p1 : State} (int : Bool) (p0 : Nat) (h : Keeps r p1) :
    SndKeeps r (prefixLimit int p0 p1) := by
  induction p0 generalizing p1 with
  | zero =>
      unfold prefixLimit
      repeat' first
        | with_reducible assumption
        | with_reducible apply SndKeeps.mk
  | succ n ih =>
      unfold prefixLimit
      repeat' first
        | with_reducible assumption
        | (lift_lets -underBinder; with_reducible intro x; with_reducible refine with_fact (a := SndKeeps r x) ?_ ?_; (on_goal 1 => unfold x); (on_goal 2 => (intro hx; clear_value x)))
        | (with_reducible intro x; with_reducible refine with_fact (a := SndKeeps r x) ?_ ?_; (on_goal 1 => unfold x); (on_goal 2 => (intro hx; clear_value x)))
        | with_reducible apply SndKeeps.mk
        | with_reducible refine SndKeeps.snd (State.free_keeps (h := ?_) ..)
        | with_reducible exact SndKeeps.snd (by assumption)
        | split
        | with_reducible apply_assumption

theorem Core.putSlots_keeps {r k : Core} (d : Nat) (l : List (List Byte)) (h : CoreKeep r k) :
    CoreKeep r (Core.putSlots k d l) := by
  unfold Core.putSlots
  repeat' first
    | with_reducible assumption
    | with_reducible intro x
    | with_reducible apply Core.put_keeps
    | with_reducible apply CoreKeep.foldl

theorem rpsumRun_keeps {r p5 : State} (incl : Bool) (f : RFmt) (n : Nat) (c : Nat) (p4 : Dispatched) (h : Keeps r p5) :
    ResKeeps r (rpsumRun incl f n c p4 p5) := by
  unfold rpsumRun
  dsimp only
  split
  · exact ResKeeps.lost h
  · split
    · exact ResKeeps.ok (State.updCore_keeps _ _ (SndKeeps.snd (prefixLimit_keeps _ _ (redRun_keeps _ _ _ h))) fun k l hk =>
        redSave_keeps _ _ _ (Core.putSlots_keeps _ _ (Core.raise_keeps _ hk)))
    · exact ResKeeps.ok (State.updCore_keeps _ _ h fun k l hk => redSave_keeps _ _ _ (prefixRun_keeps _ _ _ _ _ _ _ _ hk))

theorem rpsum_keeps {r s : State} (incl : Bool) (i : Instr) (h1 : Issue) (f : RFmt) (h : Keeps r s) :
    OutKeeps r (rpsum incl i h1 f s) := by
  unfold rpsum
  repeat' first
    | with_reducible assumption
    | with_reducible intro x
    | with_reducible apply OutKeeps.next
    | with_reducible apply ResKeeps.ok
    | with_reducible apply ResKeeps.lost
    | with_reducible apply ResKeeps.wait
    | with_reducible apply issue_keeps
    | with_reducible apply dispatch_keeps
    | with_reducible apply rpsumRun_keeps

theorem execRpsumI_keeps {r s : State} (h1 : Issue) (f : RFmt) (h : Keeps r s) :
    OutKeeps r (execRpsumI h1 f s) := by
  unfold execRpsumI
  repeat' first
    | with_reducible assumption
    | with_reducible intro x
    | with_reducible apply OutKeeps.next
    | with_reducible apply rpsum_keeps

theorem execRpsumE_keeps {r s : State} (h1 : Issue) (f : RFmt) (h : Keeps r s) :
    OutKeeps r (execRpsumE h1 f s) := by
  unfold execRpsumE
  repeat' first
    | with_reducible assumption
    | with_reducible intro x
    | with_reducible apply OutKeeps.next
    | with_reducible apply rpsum_keeps

theorem rselRun_keeps {r p6 : State} (lt : Bool → Cand → Cand → Bool) (out : Lanes) (f : RFmt) (n : Nat) (c : Nat) (p5 : Dispatched) (h : Keeps r p6) :
    ResKeeps r (rselRun lt out f n c p5 p6) := by
  unfold rselRun
  repeat' first
    | with_reducible assumption
    | with_reducible intro x
    | with_reducible apply ResKeeps.ok
    | with_reducible apply ResKeeps.lost
    | with_reducible apply ResKeeps.wait
    | with_reducible apply State.updCore_keeps
    | with_reducible apply Core.put_keeps

theorem rsel_keeps {r s : State} (idx : Bool) (lt : Bool → Cand → Cand → Bool) (out : Lanes) (i : Instr) (h1 : Issue) (f : RFmt) (h : Keeps r s) :
    OutKeeps r (rsel idx lt out i h1 f s) := by
  unfold rsel
  repeat' first
    | with_reducible assumption
    | with_reducible intro x
    | with_reducible apply OutKeeps.next
    | with_reducible apply ResKeeps.ok
    | with_reducible apply ResKeeps.lost
    | with_reducible apply ResKeeps.wait
    | with_reducible apply issue_keeps
    | with_reducible apply dispatch_keeps
    | with_reducible apply rselRun_keeps

theorem execRmax_keeps {r s : State} (h1 : Issue) (f : RFmt) (h : Keeps r s) :
    OutKeeps r (execRmax h1 f s) := by
  unfold execRmax
  repeat' first
    | with_reducible assumption
    | with_reducible intro x
    | with_reducible apply OutKeeps.next
    | with_reducible apply rsel_keeps

theorem execRmin_keeps {r s : State} (h1 : Issue) (f : RFmt) (h : Keeps r s) :
    OutKeeps r (execRmin h1 f s) := by
  unfold execRmin
  repeat' first
    | with_reducible assumption
    | with_reducible intro x
    | with_reducible apply OutKeeps.next
    | with_reducible apply rsel_keeps

theorem execRargmax_keeps {r s : State} (h1 : Issue) (f : RFmt) (h : Keeps r s) :
    OutKeeps r (execRargmax h1 f s) := by
  unfold execRargmax
  repeat' first
    | with_reducible assumption
    | with_reducible intro x
    | with_reducible apply OutKeeps.next
    | with_reducible apply rsel_keeps

theorem execRargmin_keeps {r s : State} (h1 : Issue) (f : RFmt) (h : Keeps r s) :
    OutKeeps r (execRargmin h1 f s) := by
  unfold execRargmin
  repeat' first
    | with_reducible assumption
    | with_reducible intro x
    | with_reducible apply OutKeeps.next
    | with_reducible apply rsel_keeps

theorem rtopkRun_keeps {r p5 : State} (i32 : Bool) (f : RTopk) (n : Nat) (c : Nat) (p4 : Dispatched) (h : Keeps r p5) :
    ResKeeps r (rtopkRun i32 f n c p4 p5) := by
  unfold rtopkRun
  repeat' first
    | with_reducible assumption
    | with_reducible intro x
    | with_reducible apply ResKeeps.ok
    | with_reducible apply ResKeeps.lost
    | with_reducible apply ResKeeps.wait
    | with_reducible apply State.updCore_keeps
    | with_reducible apply Core.put_keeps

theorem execRtopk_keeps {r s : State} (h1 : Issue) (i32 : Bool) (f : RTopk) (h : Keeps r s) :
    OutKeeps r (execRtopk h1 i32 f s) := by
  unfold execRtopk
  repeat' first
    | with_reducible assumption
    | with_reducible intro x
    | with_reducible apply OutKeeps.next
    | with_reducible apply ResKeeps.ok
    | with_reducible apply ResKeeps.lost
    | with_reducible apply ResKeeps.wait
    | with_reducible apply issue_keeps
    | with_reducible apply dispatch_keeps
    | with_reducible apply rtopkRun_keeps

end Sys2Proof.Machine
end

