-- ==== Sys2Proof/Laws/KeepMatrix.lean ====
section
/-! SUPPORT. What the operations of Machine/Matrix.lean keep. -/

namespace Sys2Proof.Machine

theorem Core.dispatch_keeps {r k : Core} (o : MxOp) (h : CoreKeep r k) :
    CoreKeep r (Core.dispatch k o) := by
  unfold Core.dispatch
  repeat' first
    | (lift_lets -underBinder; intro x)
    | (with_reducible apply CoreKeep.upd; · with_reducible assumption)

theorem mxDispatch_keeps {r s : State} (n : Nat) (o : MxOp) (h : Keeps r s) :
    ResKeeps r (mxDispatch n o s) := by
  unfold mxDispatch
  repeat' first
    | with_reducible assumption
    | with_reducible intro x
    | with_reducible apply ResKeeps.ok
    | with_reducible apply ResKeeps.lost
    | with_reducible apply ResKeeps.wait
    | with_reducible apply State.updCore_keeps
    | with_reducible apply State.bumpCore_keeps
    | with_reducible apply Core.dispatch_keeps
    | with_reducible apply ResKeeps.bind
    | with_reducible apply Keeps.ite
    | with_reducible apply ResKeeps.ite

theorem execLoadw_keeps {r s : State} (h1 : Issue) (f : LoadW) (h : Keeps r s) :
    OutKeeps r (execLoadw h1 f s) := by
  unfold execLoadw
  repeat' first
    | with_reducible assumption
    | with_reducible intro x
    | with_reducible apply OutKeeps.next
    | with_reducible apply ResKeeps.ok
    | with_reducible apply ResKeeps.lost
    | with_reducible apply ResKeeps.wait
    | with_reducible apply issue_keeps
    | with_reducible apply orLost_keeps
    | with_reducible apply mxDispatch_keeps

theorem State.loadBank_keeps {r s : State} (n : Nat) (h : Keeps r s) :
    Keeps r (State.loadBank s n) := by
  unfold State.loadBank
  repeat' first
    | with_reducible assumption
    | (lift_lets -underBinder; intro x)
    | intro x
    | with_reducible apply State.updCore_keeps
    | with_reducible apply State.bumpCore_keeps
    | with_reducible apply Keeps.ite
    | (with_reducible apply CoreKeep.upd; · with_reducible assumption)
    | split

theorem OutF.emit_keeps {r k : Core} (o : OutF) (js : W64) (m : Nat) (vs : List FVal) (h : CoreKeep r k) :
    CoreKeep r (OutF.emit o js m vs k) := by
  unfold OutF.emit
  repeat' first
    | (lift_lets -underBinder; intro x)
    | with_reducible apply Core.raise_keeps
    | (with_reducible apply CoreKeep.upd; · with_reducible assumption)

theorem execStream_keeps {r s : State} (h1 : Issue) (f : StreamF) (o : OutW) (h : Keeps r s) :
    OutKeeps r (execStream h1 f o s) := by
  unfold execStream
  repeat' first
    | with_reducible assumption
    | with_reducible intro x
    | with_reducible apply OutKeeps.next
    | with_reducible apply ResKeeps.ok
    | with_reducible apply ResKeeps.lost
    | with_reducible apply ResKeeps.wait
    | with_reducible apply issue_keeps
    | with_reducible apply orLost_keeps
    | with_reducible apply mxDispatch_keeps

theorem Core.streamRow_keeps {r k : Core} (js : W64) (num : Nat) (bank : Bool) (fmt : Nat) (scl : Bool) (blk base sbase ring mode acc m : Nat) (out : OutF) (row : Nat) (u0 : BitVec 32) (buf : List (List Byte × List Byte)) (h : CoreKeep r k) :
    CoreKeep r (Core.streamRow js num bank fmt scl blk base sbase ring mode acc m out row u0 buf k) := by
  unfold Core.streamRow
  repeat' first
    | with_reducible assumption
    | (lift_lets -underBinder; intro x)
    | (intro x; first
        | (refine with_fact (a := CoreKeep r x) ?_ ?_; (on_goal 1 => unfold x); (on_goal 2 => (intro hx; clear_value x)))
        | skip)
    | with_reducible apply Core.raise_keeps
    | with_reducible apply OutF.emit_keeps
    | with_reducible apply CoreKeep.ite
    | (with_reducible apply CoreKeep.upd; · with_reducible assumption)

theorem State.streamRow_keeps {r s : State} (n : Nat) (c : Nat) (h : Keeps r s) :
    Keeps r (State.streamRow s n c) := by
  unfold State.streamRow
  repeat' first
    | with_reducible assumption
    | with_reducible intro x
    | (lift_lets -underBinder; with_reducible intro x)
    | with_reducible apply State.updCore_keeps
    | with_reducible apply State.bumpCore_keeps
    | with_reducible apply Core.streamRow_keeps
    | with_reducible apply Keeps.ite
    | with_reducible apply CoreKeep.ite
    | with_reducible apply OptKeeps.getD
    | split

theorem accRows_keeps {r p2 : Core} (o : OutF) (js : W64) (e0 : Nat) (p0 : Nat) (p1 : Nat) (h : CoreKeep r p2) :
    CoreKeep r (accRows o js e0 p0 p1 p2) := by
  induction p1 generalizing p2 p0 with
  | zero =>
      unfold accRows
      repeat' first
        | with_reducible assumption
  | succ n ih =>
      unfold accRows
      repeat' first
        | with_reducible assumption
        | with_reducible apply ih
        | with_reducible apply OutF.emit_keeps

theorem State.advanceTable_keeps {r s : State} (n : Nat) (c : Nat) (num : Nat) (loc : Bool) (base : Nat) (cnt : Nat) (h1 : Nat) (task : Option Nat) (h : Keeps r s) :
    ResKeeps r (State.advanceTable s n c num loc base cnt h1 task) := by
  unfold State.advanceTable
  repeat' first
    | with_reducible assumption
    | with_reducible intro x
    | with_reducible apply ResKeeps.ok
    | with_reducible apply ResKeeps.lost
    | with_reducible apply ResKeeps.wait
    | with_reducible apply State.updCore_keeps
    | with_reducible apply State.locateAll_keeps
    | with_reducible apply Core.put_keeps
    | with_reducible apply State.readsHeld_keeps
    | with_reducible apply State.writesHeld_keeps
    | with_reducible apply ResKeeps.bind
    | with_reducible apply Keeps.ite
    | with_reducible apply ResKeeps.ite

theorem Core.atBoundary_keeps {r k : Core} (h : CoreKeep r k) :
    CoreKeep r (Core.atBoundary k) := by
  unfold Core.atBoundary
  repeat' first
    | with_reducible assumption
    | with_reducible intro x
    | (with_reducible apply CoreKeep.upd; · with_reducible assumption)

theorem State.mxFirst_keeps {r s : State} (n : Nat) (c : Nat) (h : Keeps r s) :
    Keeps r (State.mxFirst s n c) := by
  unfold State.mxFirst
  repeat' first
    | with_reducible assumption
    | with_reducible intro x
    | with_reducible apply ResKeeps.ok
    | with_reducible apply ResKeeps.lost
    | with_reducible apply ResKeeps.wait
    | with_reducible apply State.updCore_keeps
    | with_reducible apply State.lose_keeps
    | with_reducible apply State.countStalls_keeps
    | with_reducible apply State.flushRel_keeps
    | with_reducible apply accRows_keeps
    | with_reducible apply State.advanceTable_keeps
    | with_reducible apply ResKeeps.bind
    | with_reducible apply Keeps.ite
    | with_reducible apply ResKeeps.ite
    | with_reducible apply CoreKeep.ite
    | (with_reducible apply CoreKeep.upd; · with_reducible assumption)
    | refine ResKeeps.of_ok ?_ (by assumption)
    | refine ResKeeps.of_lost ?_ (by assumption)
    | refine ResKeeps.of_wait ?_ (by assumption)
    | with_reducible exact ResKeeps.ok_keep (by assumption)
    | with_reducible exact ResKeeps.lost_keep (by assumption)
    | with_reducible exact ResKeeps.wait_keep (by assumption)
    | split

theorem State.mxStep_keeps {r s : State} (n : Nat) (c : Nat) (h : Keeps r s) :
    Keeps r (State.mxStep s n c) := by
  unfold State.mxStep
  repeat' first
    | with_reducible assumption
    | with_reducible intro x
    | with_reducible apply State.updCore_keeps
    | with_reducible apply Core.atBoundary_keeps
    | with_reducible apply State.mxFirst_keeps

theorem mxBegin_keeps {r s : State} (n : Nat) (c : Nat) (o : MxOp) (h : Keeps r s) :
    ResKeeps r (mxBegin n c o s) := by
  unfold mxBegin
  repeat' first
    | with_reducible assumption
    | with_reducible intro x
    | with_reducible apply ResKeeps.ok
    | with_reducible apply ResKeeps.lost
    | with_reducible apply ResKeeps.wait
    | with_reducible apply mxDispatch_keeps
    | with_reducible apply State.mxStep_keeps
    | with_reducible apply ResKeeps.bind

theorem execSwap_keeps {r s : State} (h1 : Issue) (h : Keeps r s) :
    OutKeeps r (execSwap h1 s) := by
  unfold execSwap
  repeat' first
    | with_reducible assumption
    | with_reducible intro x
    | with_reducible apply OutKeeps.next
    | with_reducible apply ResKeeps.ok
    | with_reducible apply ResKeeps.lost
    | with_reducible apply ResKeeps.wait
    | with_reducible apply State.updCore_keeps
    | with_reducible apply issue_keeps
    | with_reducible apply mxBegin_keeps
    | with_reducible apply ResKeeps.bind
    | (with_reducible apply CoreKeep.upd; · with_reducible assumption)

theorem execAccout_keeps {r s : State} (h1 : Issue) (e0 : BitVec 8) (j1 : BitVec 8) (o : OutW) (h : Keeps r s) :
    OutKeeps r (execAccout h1 e0 j1 o s) := by
  unfold execAccout
  repeat' first
    | with_reducible assumption
    | with_reducible intro x
    | with_reducible apply OutKeeps.next
    | with_reducible apply ResKeeps.ok
    | with_reducible apply ResKeeps.lost
    | with_reducible apply ResKeeps.wait
    | with_reducible apply issue_keeps
    | with_reducible apply orLost_keeps
    | with_reducible apply mxBegin_keeps

theorem execCsadv_keeps {r s : State} (h1 : Issue) (f : CsAdv) (h : Keeps r s) :
    OutKeeps r (execCsadv h1 f s) := by
  unfold execCsadv
  repeat' first
    | with_reducible assumption
    | with_reducible intro x
    | with_reducible apply OutKeeps.next
    | with_reducible apply ResKeeps.ok
    | with_reducible apply ResKeeps.lost
    | with_reducible apply ResKeeps.wait
    | with_reducible apply issue_keeps
    | with_reducible apply orLost_keeps
    | with_reducible apply mxBegin_keeps

end Sys2Proof.Machine
end

