-- ==== Sys2Proof/Laws/KeepStream.lean ====
section
/-! SUPPORT. What the operations of Machine/Stream.lean keep. -/

namespace Sys2Proof.Machine

theorem State.countFill_keeps {r s : State} (c : Nat) (stream : Nat) (l : List (Nat × Nat)) (h : Keeps r s) :
    Keeps r (State.countFill s c stream l) := by
  unfold State.countFill
  repeat' first
    | with_reducible assumption
    | with_reducible intro x
    | with_reducible apply State.bumpCtx_keeps
    | with_reducible apply Keeps.foldl
    | split

theorem Actor.read_keeps {r s : State} (a : Actor) (loc : Bool) (at_ n : Nat) (h : Keeps r s) :
    ResKeeps r (Actor.read a s loc at_ n) := by
  unfold Actor.read
  repeat' first
    | with_reducible assumption
    | with_reducible intro x
    | with_reducible apply ResKeeps.ok
    | with_reducible apply State.locateAll_keeps
    | with_reducible apply State.readsHeld_keeps
    | with_reducible apply ResKeeps.bind
    | with_reducible apply ResKeeps.ite

theorem Actor.load_keeps {r s : State} (a : Actor) (loc : Bool) (at_ : Nat) (n : Nat) (h : Keeps r s) :
    ResKeeps r (Actor.load a s loc at_ n) := by
  unfold Actor.load
  repeat' first
    | with_reducible assumption
    | with_reducible intro x
    | (with_reducible intro x)
    | with_reducible apply ResKeeps.ok
    | with_reducible apply ResKeeps.lost
    | with_reducible apply ResKeeps.wait
    | with_reducible apply State.locateAll_keeps
    | with_reducible apply State.countFill_keeps
    | with_reducible apply Actor.read_keeps
    | with_reducible apply ResKeeps.bind
    | with_reducible apply Keeps.ite
    | with_reducible apply ResKeeps.ite

theorem Actor.write_keeps {r s : State} (a : Actor) (loc : Bool) (at_ : Nat) (b : List Byte) (h : Keeps r s) :
    ResKeeps r (Actor.write a s loc at_ b) := by
  unfold Actor.write
  repeat' first
    | with_reducible assumption
    | with_reducible intro x
    | with_reducible apply ResKeeps.ok
    | with_reducible apply State.updCore_keeps
    | with_reducible apply State.locateAll_keeps
    | with_reducible apply State.writePieces_keeps
    | with_reducible apply Core.put_keeps
    | with_reducible apply State.writesHeld_keeps
    | with_reducible apply ResKeeps.bind
    | with_reducible apply ResKeeps.ite

theorem Desc.rowsFrom_keeps {r p4 : State} (d : Desc) (a : Actor) (p2 : Nat) (p3 : Nat) (h : Keeps r p4) :
    ResKeeps r (Desc.rowsFrom d a p2 p3 p4) := by
  induction p3 generalizing p2 p4 with
  | zero =>
      unfold Desc.rowsFrom
      repeat' first
        | with_reducible assumption
        | (with_reducible intro x)
        | (with_reducible intro x)
        | with_reducible apply ResKeeps.ok
  | succ n ih =>
      unfold Desc.rowsFrom
      repeat' first
        | with_reducible assumption
        | (with_reducible intro x)
        | (with_reducible intro x)
        | with_reducible apply ResKeeps.ok
        | with_reducible apply ResKeeps.lost
        | with_reducible apply ResKeeps.wait
        | with_reducible apply ih
        | with_reducible apply State.updCore_keeps
        | with_reducible apply Actor.load_keeps
        | with_reducible apply Actor.write_keeps
        | with_reducible apply ResKeeps.bind
        | with_reducible apply Keeps.ite
        | with_reducible apply ResKeeps.ite
        | with_reducible apply CoreKeep.ite
        | (with_reducible apply CoreKeep.upd; · with_reducible assumption)

theorem Desc.run_keeps {r s : State} (d : Desc) (a : Actor) (h : Keeps r s) :
    ResKeeps r (Desc.run d a s) := by
  unfold Desc.run
  repeat' first
    | with_reducible assumption
    | with_reducible apply Desc.rowsFrom_keeps

theorem Actor.desc_keeps {r s : State} (a : Actor) (p2 : DescRef) (h : Keeps r s) :
    ResKeeps r (Actor.desc a s p2) := by
  unfold Actor.desc
  repeat' first
    | with_reducible assumption
    | with_reducible intro x
    | with_reducible apply ResKeeps.ok
    | with_reducible apply ResKeeps.lost
    | with_reducible apply ResKeeps.wait
    | with_reducible apply Actor.read_keeps
    | with_reducible apply ResKeeps.bind
    | with_reducible apply Keeps.ite
    | with_reducible apply ResKeeps.ite
    | refine ResKeeps.of_ok ?_ (by assumption)
    | refine ResKeeps.of_lost ?_ (by assumption)
    | refine ResKeeps.of_wait ?_ (by assumption)
    | with_reducible exact ResKeeps.ok_keep (by assumption)
    | with_reducible exact ResKeeps.lost_keep (by assumption)
    | with_reducible exact ResKeeps.wait_keep (by assumption)
    | split

theorem State.updChains_keeps {r s : State} (cl e : Nat) (f : List Chain → List Chain) (h : Keeps r s) :
    Keeps r (State.updChains s cl e f) := by
  unfold State.updChains
  repeat' first
    | with_reducible assumption
    | with_reducible apply State.updCluster_keeps

theorem acceptChain_keeps {r p5 : State} (e : State → Nat → Nat) (fence : Core → Option (Nat × W64)) (n : Nat) (c : Nat) (p4 : Dispatched) (h : Keeps r p5) :
    ResKeeps r (acceptChain e fence n c p4 p5) := by
  unfold acceptChain
  repeat' first
    | with_reducible assumption
    | with_reducible intro x
    | with_reducible apply ResKeeps.ok
    | with_reducible apply ResKeeps.lost
    | with_reducible apply ResKeeps.wait
    | with_reducible apply Core.asDispatched_keeps
    | with_reducible apply State.updChains_keeps

theorem dmaDescRun_keeps {r p4 : State} (f : DmaF) (n : Nat) (c : Nat) (p3 : Dispatched) (h : Keeps r p4) :
    ResKeeps r (dmaDescRun f n c p3 p4) := by
  unfold dmaDescRun
  repeat' first
    | with_reducible assumption
    | with_reducible intro x
    | with_reducible apply ResKeeps.ok
    | with_reducible apply ResKeeps.lost
    | with_reducible apply ResKeeps.wait
    | with_reducible apply acceptChain_keeps

theorem execDmaDesc_keeps {r s : State} (h1 : Issue) (f : DmaF) (h : Keeps r s) :
    OutKeeps r (execDmaDesc h1 f s) := by
  unfold execDmaDesc
  repeat' first
    | with_reducible assumption
    | with_reducible intro x
    | with_reducible apply OutKeeps.next
    | with_reducible apply ResKeeps.ok
    | with_reducible apply ResKeeps.lost
    | with_reducible apply ResKeeps.wait
    | with_reducible apply issue_keeps
    | with_reducible apply dispatch_keeps
    | with_reducible apply dmaDescRun_keeps
    | with_reducible apply ResKeeps.bind
    | with_reducible apply Keeps.ite
    | with_reducible apply ResKeeps.ite

theorem State.runDesc_keeps {r s : State} (cl : Nat) (e : Nat) (h : Keeps r s) :
    Keeps r (State.runDesc s cl e) := by
  unfold State.runDesc
  repeat' first
    | with_reducible assumption
    | (with_reducible intro x; first
        | (with_reducible refine with_fact (a := Keeps r x) ?_ ?_; (on_goal 1 => unfold x); (on_goal 2 => (intro hx; clear_value x)))
        | (with_reducible refine with_fact (a := ResKeeps r x) ?_ ?_; (on_goal 1 => unfold x); (on_goal 2 => (intro hx; clear_value x)))
        | skip)
    | (lift_lets -underBinder; with_reducible intro x; first
        | (with_reducible refine with_fact (a := Keeps r x) ?_ ?_; (on_goal 1 => unfold x); (on_goal 2 => (intro hx; clear_value x)))
        | skip)
    | with_reducible apply ResKeeps.ok
    | with_reducible apply ResKeeps.lost
    | with_reducible apply ResKeeps.wait
    | with_reducible apply State.bump_keeps
    | with_reducible apply State.lose_keeps
    | with_reducible apply Desc.run_keeps
    | with_reducible apply Actor.desc_keeps
    | with_reducible apply State.updChains_keeps
    | with_reducible apply State.countStalls_keeps
    | with_reducible apply ResKeeps.bind
    | with_reducible apply Keeps.ite
    | with_reducible apply ResKeeps.ite
    | refine ResKeeps.of_ok ?_ (by assumption)
    | refine ResKeeps.of_lost ?_ (by assumption)
    | refine ResKeeps.of_wait ?_ (by assumption)
    | with_reducible exact ResKeeps.ok_keep (by assumption)
    | with_reducible exact ResKeeps.lost_keep (by assumption)
    | with_reducible exact ResKeeps.wait_keep (by assumption)
    | split

theorem State.signalHeld_keeps {r s : State} (n : Nat) (task : Option Nat) (fid : Nat) (v : W64) (num : Nat) (h : Keeps r s) :
    OptKeeps r (State.signalHeld s n task fid v num) := by
  unfold State.signalHeld
  repeat' first
    | with_reducible assumption
    | (lift_lets -underBinder; with_reducible intro x)
    | with_reducible intro x
    | with_reducible apply OptKeeps.none
    | with_reducible apply OptKeeps.some
    | with_reducible apply State.updCore_keeps
    | with_reducible apply State.flushRel_keeps
    | with_reducible apply OptKeeps.ite
    | (with_reducible apply CoreKeep.upd; · with_reducible assumption)
    | split

theorem State.chainDone_keeps {r s : State} (cl : Nat) (e : Nat) (h : Keeps r s) :
    Keeps r (State.chainDone s cl e) := by
  unfold State.chainDone
  repeat' first
    | with_reducible assumption
    | with_reducible intro x
    | with_reducible apply OptKeeps.none
    | with_reducible apply OptKeeps.some
    | with_reducible apply State.padFull_keeps
    | with_reducible apply State.flushRel_keeps
    | with_reducible apply State.updChains_keeps
    | with_reducible apply State.signalHeld_keeps
    | with_reducible apply Keeps.ite
    | with_reducible apply OptKeeps.ite
    | refine OptKeeps.of ?_ (by assumption)
    | with_reducible exact OptKeeps.some_keep (by assumption)
    | split

theorem dmaCopyRun_keeps {r p3 : State} (n : Nat) (c : Nat) (p2 : Dispatched) (h : Keeps r p3) :
    ResKeeps r (dmaCopyRun n c p2 p3) := by
  unfold dmaCopyRun
  repeat' first
    | with_reducible assumption
    | with_reducible intro x
    | with_reducible apply ResKeeps.ok
    | with_reducible apply ResKeeps.lost
    | with_reducible apply ResKeeps.wait
    | with_reducible apply acceptChain_keeps

theorem execDmaCopy_keeps {r s : State} (h1 : Issue) (f : DmaCopyF) (h : Keeps r s) :
    OutKeeps r (execDmaCopy h1 f s) := by
  unfold execDmaCopy
  repeat' first
    | with_reducible assumption
    | with_reducible intro x
    | with_reducible apply OutKeeps.next
    | with_reducible apply ResKeeps.ok
    | with_reducible apply ResKeeps.lost
    | with_reducible apply ResKeeps.wait
    | with_reducible apply issue_keeps
    | with_reducible apply orLost_keeps
    | with_reducible apply dispatch_keeps
    | with_reducible apply dmaCopyRun_keeps
    | with_reducible apply ResKeeps.bind
    | with_reducible apply Keeps.ite
    | with_reducible apply ResKeeps.ite

theorem ringAdvRun_keeps {r p4 : State} (q : BitVec 8) (n : Nat) (c : Nat) (p3 : Dispatched) (h : Keeps r p4) :
    ResKeeps r (ringAdvRun q n c p3 p4) := by
  unfold ringAdvRun
  repeat' first
    | with_reducible assumption
    | with_reducible intro x
    | with_reducible apply ResKeeps.ok
    | with_reducible apply ResKeeps.lost
    | with_reducible apply ResKeeps.wait
    | with_reducible apply State.updCore_keeps
    | with_reducible apply ResKeeps.bind
    | with_reducible apply Keeps.ite
    | with_reducible apply ResKeeps.ite
    | with_reducible apply CoreKeep.ite
    | (with_reducible apply CoreKeep.upd; · with_reducible assumption)

theorem execRingAdv_keeps {r s : State} (h1 : Issue) (q : BitVec 8) (h : Keeps r s) :
    OutKeeps r (execRingAdv h1 q s) := by
  unfold execRingAdv
  repeat' first
    | with_reducible assumption
    | with_reducible intro x
    | with_reducible apply OutKeeps.next
    | with_reducible apply ResKeeps.ok
    | with_reducible apply ResKeeps.lost
    | with_reducible apply ResKeeps.wait
    | with_reducible apply issue_keeps
    | with_reducible apply dispatch_keeps
    | with_reducible apply ringAdvRun_keeps

theorem ringRstRun_keeps {r p3 : State} (n : Nat) (c : Nat) (p2 : Dispatched) (h : Keeps r p3) :
    ResKeeps r (ringRstRun n c p2 p3) := by
  unfold ringRstRun
  repeat' first
    | with_reducible assumption
    | with_reducible intro x
    | with_reducible apply ResKeeps.ok
    | with_reducible apply ResKeeps.lost
    | with_reducible apply ResKeeps.wait
    | with_reducible apply State.updCore_keeps
    | with_reducible apply ResKeeps.bind
    | with_reducible apply Keeps.ite
    | with_reducible apply ResKeeps.ite
    | with_reducible apply CoreKeep.ite
    | (with_reducible apply CoreKeep.upd; · with_reducible assumption)

theorem execRingRst_keeps {r s : State} (h1 : Issue) (q : BitVec 8) (h : Keeps r s) :
    OutKeeps r (execRingRst h1 q s) := by
  unfold execRingRst
  repeat' first
    | with_reducible assumption
    | with_reducible intro x
    | with_reducible apply OutKeeps.next
    | with_reducible apply ResKeeps.ok
    | with_reducible apply ResKeeps.lost
    | with_reducible apply ResKeeps.wait
    | with_reducible apply issue_keeps
    | with_reducible apply dispatch_keeps
    | with_reducible apply ringRstRun_keeps

theorem State.resvWait_keeps {r s : State} (n : Nat) (num : Nat) (h : Keeps r s) :
    Keeps r (State.resvWait s n num) := by
  unfold State.resvWait
  repeat' first
    | with_reducible assumption
    | with_reducible intro x
    | with_reducible apply State.updCore_keeps
    | with_reducible apply State.setReg_keeps
    | with_reducible apply Keeps.ite
    | with_reducible apply CoreKeep.ite
    | (with_reducible apply CoreKeep.upd; · with_reducible assumption)

theorem winResvRun_keeps {r p4 : State} (gw : BitVec 5) (n : Nat) (c : Nat) (p3 : Dispatched) (h : Keeps r p4) :
    ResKeeps r (winResvRun gw n c p3 p4) := by
  unfold winResvRun
  repeat' first
    | with_reducible assumption
    | with_reducible intro x
    | with_reducible apply ResKeeps.ok
    | with_reducible apply ResKeeps.lost
    | with_reducible apply ResKeeps.wait
    | with_reducible apply State.updCore_keeps
    | with_reducible apply State.resvWait_keeps
    | with_reducible apply ResKeeps.bind
    | with_reducible apply Keeps.ite
    | with_reducible apply ResKeeps.ite
    | with_reducible apply CoreKeep.ite
    | (with_reducible apply CoreKeep.upd; · with_reducible assumption)
    | refine ResKeeps.of_ok ?_ (by assumption)
    | refine ResKeeps.of_lost ?_ (by assumption)
    | refine ResKeeps.of_wait ?_ (by assumption)
    | with_reducible exact ResKeeps.ok_keep (by assumption)
    | with_reducible exact ResKeeps.lost_keep (by assumption)
    | with_reducible exact ResKeeps.wait_keep (by assumption)
    | split

theorem execWinResv_keeps {r s : State} (h1 : Issue) (gw : BitVec 5) (h : Keeps r s) :
    OutKeeps r (execWinResv h1 gw s) := by
  unfold execWinResv
  repeat' first
    | with_reducible assumption
    | with_reducible intro x
    | with_reducible apply OutKeeps.next
    | with_reducible apply ResKeeps.ok
    | with_reducible apply ResKeeps.lost
    | with_reducible apply ResKeeps.wait
    | with_reducible apply issue_keeps
    | with_reducible apply orLost_keeps
    | with_reducible apply dispatch_keeps
    | with_reducible apply winResvRun_keeps

theorem Core.updWin_keeps {r k : Core} (i : Nat) (f : Window → Window) (h : CoreKeep r k) :
    CoreKeep r (Core.updWin k i f) := by
  unfold Core.updWin
  repeat' (with_reducible apply CoreKeep.upd; · with_reducible assumption)

theorem winRelRun_keeps {r p4 : State} (gw : BitVec 5) (n : Nat) (c : Nat) (p3 : Dispatched) (h : Keeps r p4) :
    ResKeeps r (winRelRun gw n c p3 p4) := by
  unfold winRelRun
  repeat' first
    | with_reducible assumption
    | with_reducible intro x
    | (lift_lets -underBinder; with_reducible intro x)
    | with_reducible apply ResKeeps.ok
    | with_reducible apply ResKeeps.lost
    | with_reducible apply ResKeeps.wait
    | with_reducible apply State.updCore_keeps
    | with_reducible apply State.dropOwn_keeps
    | with_reducible apply Core.updWin_keeps
    | with_reducible apply ResKeeps.bind
    | with_reducible apply Keeps.ite
    | with_reducible apply ResKeeps.ite
    | with_reducible apply CoreKeep.ite
    | refine ResKeeps.of_ok ?_ (by assumption)
    | refine ResKeeps.of_lost ?_ (by assumption)
    | refine ResKeeps.of_wait ?_ (by assumption)
    | with_reducible exact ResKeeps.ok_keep (by assumption)
    | with_reducible exact ResKeeps.lost_keep (by assumption)
    | with_reducible exact ResKeeps.wait_keep (by assumption)
    | split

theorem execWinRel_keeps {r s : State} (h1 : Issue) (gw : BitVec 5) (h : Keeps r s) :
    OutKeeps r (execWinRel h1 gw s) := by
  unfold execWinRel
  repeat' first
    | with_reducible assumption
    | with_reducible intro x
    | with_reducible apply OutKeeps.next
    | with_reducible apply ResKeeps.ok
    | with_reducible apply ResKeeps.lost
    | with_reducible apply ResKeeps.wait
    | with_reducible apply issue_keeps
    | with_reducible apply orLost_keeps
    | with_reducible apply dispatch_keeps
    | with_reducible apply winRelRun_keeps

theorem State.winRelease_keeps {r s : State} (n : Nat) (c : Nat) (i : Nat) (h : Keeps r s) :
    Keeps r (State.winRelease s n c i) := by
  unfold State.winRelease
  repeat' first
    | with_reducible assumption
    | with_reducible intro x
    | with_reducible apply State.updCore_keeps
    | with_reducible apply State.signal_keeps
    | with_reducible apply Keeps.ite
    | with_reducible apply CoreKeep.ite
    | (with_reducible apply CoreKeep.upd; · with_reducible assumption)
    | split

theorem execWindowFillBegin_keeps {r s : State} (core : Fin 512) (i : Fin 16) (h : Keeps r s) :
    OutKeeps r (execWindowFillBegin core i s) := by
  unfold execWindowFillBegin
  repeat' first
    | with_reducible assumption
    | (lift_lets -underBinder; with_reducible intro x)
    | with_reducible intro x
    | with_reducible apply OutKeeps.next
    | with_reducible apply State.updCore_keeps
    | with_reducible apply Core.updWin_keeps
    | with_reducible apply Keeps.ite
    | split

theorem State.dropAhead_keeps {r s : State} (die i : Nat) (h : Keeps r s) :
    Keeps r (State.dropAhead s die i) := by
  unfold State.dropAhead
  repeat' (with_reducible apply Keeps.plain; · with_reducible assumption)

theorem State.useAhead_keeps {r s : State} (n : Nat) (c : Nat) (a : Option (Nat × RunAhead)) (h : Keeps r s) :
    Keeps r (State.useAhead s n c a) := by
  unfold State.useAhead
  repeat' first
    | with_reducible assumption
    | (with_reducible intro x)
    | (lift_lets -underBinder; with_reducible intro x; first
        | (with_reducible refine with_fact (a := Keeps r x) ?_ ?_; (on_goal 1 => unfold x); (on_goal 2 => (intro hx; clear_value x))))
    | with_reducible apply State.bumpCtx_keeps
    | with_reducible apply Keeps.ite
    | (with_reducible apply Keeps.plain; · with_reducible assumption)
    | split

theorem State.endAhead_keeps {r s : State} (n : Nat) (c : Nat) (w : Window) (h : Keeps r s) :
    Keeps r (State.endAhead s n c w) := by
  unfold State.endAhead
  repeat' first
    | with_reducible assumption
    | with_reducible intro x
    | with_reducible apply State.dropAhead_keeps
    | with_reducible apply Keeps.ite
    | split

theorem State.runFill_keeps {r s : State} (n : Nat) (c : Nat) (i : Nat) (w : Window) (h : Keeps r s) :
    Keeps r (State.runFill s n c i w) := by
  unfold State.runFill
  repeat' first
    | with_reducible assumption
    | (with_reducible intro x; first
        | (with_reducible refine with_fact (a := ResKeeps r x) ?_ ?_; (on_goal 1 => unfold x); (on_goal 2 => (intro hx; clear_value x)))
        | skip)
    | (lift_lets -underBinder; with_reducible intro x; first
        | (with_reducible refine with_fact (a := Keeps r x) ?_ ?_; (on_goal 1 => unfold x); (on_goal 2 => (intro hx; clear_value x)))
        | skip)
    | with_reducible apply ResKeeps.ok
    | with_reducible apply ResKeeps.lost
    | with_reducible apply ResKeeps.wait
    | with_reducible apply State.updCore_keeps
    | with_reducible apply State.lose_keeps
    | with_reducible apply State.countStalls_keeps
    | with_reducible apply Actor.read_keeps
    | with_reducible apply Desc.run_keeps
    | with_reducible apply Actor.desc_keeps
    | with_reducible apply Core.updWin_keeps
    | with_reducible apply State.useAhead_keeps
    | with_reducible apply State.endAhead_keeps
    | with_reducible apply ResKeeps.bind
    | with_reducible apply Keeps.ite
    | with_reducible apply ResKeeps.ite
    | with_reducible apply CoreKeep.ite
    | refine ResKeeps.of_ok ?_ (by assumption)
    | refine ResKeeps.of_lost ?_ (by assumption)
    | refine ResKeeps.of_wait ?_ (by assumption)
    | with_reducible exact ResKeeps.ok_keep (by assumption)
    | with_reducible exact ResKeeps.lost_keep (by assumption)
    | with_reducible exact ResKeeps.wait_keep (by assumption)
    | split

theorem Desc.gather_keeps {r p7 : State} (d : Desc) (w : Window) (a : Actor) (lo : Nat) (hi : Nat) (p5 : Nat) (p6 : Nat) (h : Keeps r p7) :
    ResKeeps r (Desc.gather d w a lo hi p5 p6 p7) := by
  induction p6 generalizing p5 p7 with
  | zero =>
      unfold Desc.gather
      repeat' first
        | with_reducible assumption
        | (with_reducible intro x)
        | (with_reducible intro x)
        | with_reducible apply ResKeeps.ok
  | succ n ih =>
      unfold Desc.gather
      repeat' first
        | with_reducible assumption
        | (with_reducible intro x)
        | (lift_lets -underBinder; with_reducible intro x)
        | with_reducible apply ResKeeps.ok
        | with_reducible apply ResKeeps.lost
        | with_reducible apply ResKeeps.wait
        | with_reducible apply ih
        | with_reducible apply State.updCore_keeps
        | with_reducible apply Actor.read_keeps
        | with_reducible apply Actor.load_keeps
        | with_reducible apply ResKeeps.bind
        | with_reducible apply Keeps.ite
        | with_reducible apply ResKeeps.ite
        | with_reducible apply CoreKeep.ite
        | (with_reducible apply CoreKeep.upd; · with_reducible assumption)

theorem gatherAll_keeps {r p5 : State} (w : Window) (a : Actor) (lo : Nat) (hi : Nat) (p4 : List Desc) (h : Keeps r p5) :
    ResKeeps r (gatherAll w a lo hi p4 p5) := by
  induction p4 generalizing w a lo hi p5 with
  | nil =>
      unfold gatherAll
      repeat' first
        | with_reducible assumption
        | (with_reducible intro x)
        | (with_reducible intro x)
        | with_reducible apply ResKeeps.ok
  | cons a l ih =>
      unfold gatherAll
      repeat' first
        | with_reducible assumption
        | (with_reducible intro x)
        | (with_reducible intro x)
        | with_reducible apply ResKeeps.ok
        | with_reducible apply ResKeeps.lost
        | with_reducible apply ResKeeps.wait
        | with_reducible apply ih
        | with_reducible apply Desc.gather_keeps
        | with_reducible apply ResKeeps.bind

theorem execRingQuarterFilled_keeps {r s : State} (core : Fin 512) (i : Fin 16) (h : Keeps r s) :
    OutKeeps r (execRingQuarterFilled core i s) := by
  unfold execRingQuarterFilled
  repeat' first
    | with_reducible assumption
    | with_reducible intro x
    | with_reducible apply OutKeeps.next
    | with_reducible apply ResKeeps.ok
    | with_reducible apply ResKeeps.lost
    | with_reducible apply ResKeeps.wait
    | with_reducible apply State.updCore_keeps
    | with_reducible apply State.lose_keeps
    | with_reducible apply State.countStalls_keeps
    | with_reducible apply Core.updWin_keeps
    | with_reducible apply State.endAhead_keeps
    | with_reducible apply gatherAll_keeps
    | with_reducible apply ResKeeps.bind
    | with_reducible apply Keeps.ite
    | with_reducible apply ResKeeps.ite
    | with_reducible apply OutKeeps.ite
    | with_reducible apply CoreKeep.ite
    | (with_reducible apply CoreKeep.upd; · with_reducible assumption)
    | refine ResKeeps.of_ok ?_ (by assumption)
    | refine ResKeeps.of_lost ?_ (by assumption)
    | refine ResKeeps.of_wait ?_ (by assumption)
    | with_reducible exact ResKeeps.ok_keep (by assumption)
    | with_reducible exact ResKeeps.lost_keep (by assumption)
    | with_reducible exact ResKeeps.wait_keep (by assumption)
    | split

theorem execWindowArrival_keeps {r s : State} (core : Fin 512) (i : Fin 16) (h : Keeps r s) :
    OutKeeps r (execWindowArrival core i s) := by
  unfold execWindowArrival
  repeat' first
    | with_reducible assumption
    | with_reducible intro x
    | with_reducible apply OutKeeps.next
    | with_reducible apply State.updCore_keeps
    | with_reducible apply State.bumpCtx_keeps
    | with_reducible apply State.signal_keeps
    | with_reducible apply Core.updWin_keeps
    | with_reducible apply Keeps.ite
    | split

theorem execWindowLate_keeps {r s : State} (core : Fin 512) (i : Fin 16) (h : Keeps r s) :
    OutKeeps r (execWindowLate core i s) := by
  unfold execWindowLate
  repeat' first
    | with_reducible assumption
    | with_reducible intro x
    | with_reducible apply OutKeeps.next
    | with_reducible apply State.updCore_keeps
    | with_reducible apply State.bumpCtx_keeps
    | with_reducible apply Core.updWin_keeps
    | with_reducible apply Keeps.ite
    | split

theorem State.locateRanges_keeps {r s : State} (init : Nat) (c : Nat) (p3 : List (Nat × Nat)) (h : Keeps r s) :
    ResKeeps r (State.locateRanges s init c p3) := by
  induction p3 generalizing s with
  | nil =>
      unfold State.locateRanges
      repeat' first
        | with_reducible assumption
        | with_reducible intro x
        | with_reducible apply ResKeeps.ok
  | cons a l ih =>
      unfold State.locateRanges
      repeat' first
        | with_reducible assumption
        | with_reducible intro x
        | with_reducible apply ResKeeps.ok
        | with_reducible apply ResKeeps.lost
        | with_reducible apply ResKeeps.wait
        | with_reducible apply ih
        | with_reducible apply State.locateAll_keeps
        | with_reducible apply ResKeeps.bind

theorem State.aheadEntry_keeps {r s : State} (n : Nat) (c : Nat) (w : Window) (h : Keeps r s) :
    ResKeeps r (State.aheadEntry s n c w) := by
  unfold State.aheadEntry
  repeat' first
    | with_reducible assumption
    | with_reducible intro x
    | (lift_lets -underBinder; with_reducible intro x)
    | with_reducible apply ResKeeps.ok
    | with_reducible apply ResKeeps.lost
    | with_reducible apply ResKeeps.wait
    | with_reducible apply Actor.desc_keeps
    | with_reducible apply State.locateRanges_keeps
    | with_reducible apply ResKeeps.bind
    | with_reducible apply Keeps.ite
    | with_reducible apply ResKeeps.ite

theorem execRunAheadFetch_keeps {r s : State} (core : Fin 512) (i : Fin 16) (h : Keeps r s) :
    OutKeeps r (execRunAheadFetch core i s) := by
  unfold execRunAheadFetch
  repeat' first
    | with_reducible assumption
    | (with_reducible intro x)
    | (lift_lets -underBinder; with_reducible intro x; first
        | (with_reducible refine with_fact (a := Keeps r x) ?_ ?_; (on_goal 1 => unfold x); (on_goal 2 => (intro hx; clear_value x)))
        | skip)
    | with_reducible apply OutKeeps.next
    | with_reducible apply ResKeeps.ok
    | with_reducible apply ResKeeps.lost
    | with_reducible apply ResKeeps.wait
    | with_reducible apply State.bumpCtx_keeps
    | with_reducible apply State.aheadEntry_keeps
    | with_reducible apply ResKeeps.bind
    | with_reducible apply Keeps.ite
    | with_reducible apply ResKeeps.ite
    | with_reducible apply OutKeeps.ite
    | (with_reducible apply Keeps.plain; · with_reducible assumption)
    | (with_reducible apply Keeps.plain; (on_goal 1 => refine ResKeeps.of_ok ?_ (by assumption)))
    | (with_reducible apply Keeps.plain; (on_goal 1 => refine ResKeeps.of_lost ?_ (by assumption)))
    | refine ResKeeps.of_ok ?_ (by assumption)
    | refine ResKeeps.of_lost ?_ (by assumption)
    | refine ResKeeps.of_wait ?_ (by assumption)
    | with_reducible exact ResKeeps.ok_keep (by assumption)
    | with_reducible exact ResKeeps.lost_keep (by assumption)
    | with_reducible exact ResKeeps.wait_keep (by assumption)
    | split

theorem execRunAheadExpired_keeps {r s : State} (die : Fin 8) (i : Nat) (h : Keeps r s) :
    OutKeeps r (execRunAheadExpired die i s) := by
  unfold execRunAheadExpired
  repeat' first
    | with_reducible assumption
    | with_reducible apply OutKeeps.next
    | with_reducible apply State.bumpCtx_keeps
    | with_reducible apply State.dropAhead_keeps
    | split

end Sys2Proof.Machine
end

