-- ==== Sys2Proof/Laws/KeepUnits.lean ====
section
/-! SUPPORT. What the operations of Machine/Units.lean keep. -/

namespace Sys2Proof.Machine

theorem noWork_keeps {r p3 : State} (n : Nat) (c : Nat) (p2 : Dispatched) (h : Keeps r p3) :
    ResKeeps r (noWork n c p2 p3) := by
  unfold noWork
  repeat' first
    | with_reducible assumption
    | with_reducible intro x
    | with_reducible apply ResKeeps.ok

theorem vectorWork_keeps {r p4 : State} (i : Instr) (n : Nat) (c : Nat) (p3 : Dispatched) (h : Keeps r p4) :
    ResKeeps r (vectorWork i n c p3 p4) := by
  unfold vectorWork
  repeat' first
    | with_reducible assumption
    | with_reducible intro x
    | with_reducible apply ResKeeps.ok
    | with_reducible apply ResKeeps.lost
    | with_reducible apply ResKeeps.wait
    | with_reducible apply vopRun_keeps
    | with_reducible apply vpredRun_keeps
    | with_reducible apply vunRun_keeps
    | with_reducible apply v3Run_keeps
    | with_reducible apply vcvtRun_keeps
    | with_reducible apply vcvtMxRun_keeps
    | with_reducible apply vcvtMxdRun_keeps
    | with_reducible apply vbxExpRun_keeps
    | with_reducible apply vbxCvtRun_keeps
    | with_reducible apply vbxDecRun_keeps
    | with_reducible apply vrngRun_keeps
    | with_reducible apply vrngSetcRun_keeps
    | with_reducible apply vrngGetcRun_keeps
    | with_reducible apply vrngTRun_keeps
    | with_reducible apply noWork_keeps
    | with_reducible apply ResKeeps.bind
    | refine ResKeeps.of_ok ?_ (by assumption)
    | refine ResKeeps.of_lost ?_ (by assumption)
    | refine ResKeeps.of_wait ?_ (by assumption)
    | with_reducible exact ResKeeps.ok_keep (by assumption)
    | with_reducible exact ResKeeps.lost_keep (by assumption)
    | with_reducible exact ResKeeps.wait_keep (by assumption)
    | split

theorem reductionWork_keeps {r p4 : State} (i : Instr) (n : Nat) (c : Nat) (p3 : Dispatched) (h : Keeps r p4) :
    ResKeeps r (reductionWork i n c p3 p4) := by
  unfold reductionWork
  repeat' first
    | with_reducible assumption
    | with_reducible intro x
    | with_reducible apply ResKeeps.ok
    | with_reducible apply ResKeeps.lost
    | with_reducible apply ResKeeps.wait
    | with_reducible apply redSumRun_keeps
    | with_reducible apply finF32_keeps
    | with_reducible apply finInt_keeps
    | with_reducible apply rpsumRun_keeps
    | with_reducible apply rselRun_keeps
    | with_reducible apply rtopkRun_keeps
    | with_reducible apply noWork_keeps
    | with_reducible apply ResKeeps.bind
    | refine ResKeeps.of_ok ?_ (by assumption)
    | refine ResKeeps.of_lost ?_ (by assumption)
    | refine ResKeeps.of_wait ?_ (by assumption)
    | with_reducible exact ResKeeps.ok_keep (by assumption)
    | with_reducible exact ResKeeps.lost_keep (by assumption)
    | with_reducible exact ResKeeps.wait_keep (by assumption)
    | split

theorem dmaWork_keeps {r p4 : State} (i : Instr) (n : Nat) (c : Nat) (p3 : Dispatched) (h : Keeps r p4) :
    ResKeeps r (dmaWork i n c p3 p4) := by
  unfold dmaWork
  repeat' first
    | with_reducible assumption
    | with_reducible intro x
    | with_reducible apply ResKeeps.ok
    | with_reducible apply ResKeeps.lost
    | with_reducible apply ResKeeps.wait
    | with_reducible apply dmaDescRun_keeps
    | with_reducible apply dmaCopyRun_keeps
    | with_reducible apply ringAdvRun_keeps
    | with_reducible apply ringRstRun_keeps
    | with_reducible apply winResvRun_keeps
    | with_reducible apply winRelRun_keeps
    | with_reducible apply noWork_keeps
    | with_reducible apply ResKeeps.bind
    | refine ResKeeps.of_ok ?_ (by assumption)
    | refine ResKeeps.of_lost ?_ (by assumption)
    | refine ResKeeps.of_wait ?_ (by assumption)
    | with_reducible exact ResKeeps.ok_keep (by assumption)
    | with_reducible exact ResKeeps.lost_keep (by assumption)
    | with_reducible exact ResKeeps.wait_keep (by assumption)
    | split

theorem State.unitsOnce_keeps {r s : State} (n : Nat) (c : Nat) (h : Keeps r s) :
    Keeps r (State.unitsOnce n c s) := by
  unfold State.unitsOnce
  repeat' first
    | with_reducible assumption
    | with_reducible intro x
    | with_reducible apply ResKeeps.ok
    | with_reducible apply ResKeeps.lost
    | with_reducible apply ResKeeps.wait
    | with_reducible apply State.unitStep_keeps
    | with_reducible apply State.mxStep_keeps
    | with_reducible apply vectorWork_keeps
    | with_reducible apply reductionWork_keeps
    | with_reducible apply dmaWork_keeps

theorem State.unitsGo_keeps {r p3 : State} (n : Nat) (c : Nat) (p2 : Nat) (h : Keeps r p3) :
    Keeps r (State.unitsGo n c p2 p3) := by
  induction p2 generalizing p3 with
  | zero =>
      unfold State.unitsGo
      repeat' first
        | with_reducible assumption
  | succ n ih =>
      unfold State.unitsGo
      repeat' first
        | with_reducible assumption
        | with_reducible intro x
        | with_reducible apply ih
        | with_reducible apply State.unitsOnce_keeps
        | with_reducible apply Keeps.ite

theorem State.unitsRun_keeps {r s : State} (n : Nat) (c : Nat) (h : Keeps r s) :
    Keeps r (State.unitsRun s n c) := by
  unfold State.unitsRun
  repeat' first
    | with_reducible assumption
    | with_reducible intro x
    | with_reducible apply State.unitsGo_keeps

theorem State.dieRun_keeps {r s : State} (d : Nat) (h : Keeps r s) :
    Keeps r (State.dieRun s d) := by
  unfold State.dieRun
  repeat' first
    | with_reducible assumption
    | with_reducible intro x
    | with_reducible apply State.unitsRun_keeps
    | with_reducible apply Keeps.foldl
    | split

theorem execLoadwComplete_keeps {r s : State} (core : Fin 512) (h : Keeps r s) :
    OutKeeps r (execLoadwComplete core s) := by
  unfold execLoadwComplete
  repeat' first
    | with_reducible assumption
    | with_reducible intro x
    | with_reducible apply OutKeeps.next
    | with_reducible apply State.loadBank_keeps
    | with_reducible apply State.unitsRun_keeps
    | split

theorem execStreamRowResult_keeps {r s : State} (core : Fin 512) (h : Keeps r s) :
    OutKeeps r (execStreamRowResult core s) := by
  unfold execStreamRowResult
  repeat' first
    | with_reducible assumption
    | with_reducible intro x
    | with_reducible apply OutKeeps.next
    | with_reducible apply State.streamRow_keeps
    | with_reducible apply State.unitsRun_keeps
    | split

theorem execDmaDescriptorRun_keeps {r s : State} (m : Mover) (h : Keeps r s) :
    OutKeeps r (execDmaDescriptorRun m s) := by
  unfold execDmaDescriptorRun
  repeat' first
    | with_reducible assumption
    | with_reducible intro x
    | with_reducible apply OutKeeps.next
    | with_reducible apply State.runDesc_keeps
    | with_reducible apply State.runFill_keeps
    | with_reducible apply State.unitsRun_keeps
    | split

theorem execDmaChainComplete_keeps {r s : State} (cluster : Fin 64) (e : Fin 3) (h : Keeps r s) :
    OutKeeps r (execDmaChainComplete cluster e s) := by
  unfold execDmaChainComplete
  repeat' first
    | with_reducible assumption
    | with_reducible intro x
    | with_reducible apply OutKeeps.next
    | with_reducible apply State.chainDone_keeps
    | with_reducible apply State.unitsRun_keeps
    | split

theorem execWindowReleaseComplete_keeps {r s : State} (core : Fin 512) (i : Fin 16) (h : Keeps r s) :
    OutKeeps r (execWindowReleaseComplete core i s) := by
  unfold execWindowReleaseComplete
  repeat' first
    | with_reducible assumption
    | with_reducible intro x
    | with_reducible apply OutKeeps.next
    | with_reducible apply State.winRelease_keeps
    | with_reducible apply State.endAhead_keeps
    | with_reducible apply State.dieRun_keeps
    | with_reducible apply Keeps.ite
    | with_reducible apply OutKeeps.ite
    | split

end Sys2Proof.Machine
end

