-- ==== Sys2Proof/Laws/KeepTasks.lean ====
section
/-! SUPPORT. What the operations of Machine/Tasks.lean keep. -/

namespace Sys2Proof.Machine

theorem State.countDraft_keeps {r s : State} (n : Nat) (h1 : TaskHdr) (h : Keeps r s) :
    Keeps r (State.countDraft s n h1) := by
  unfold State.countDraft
  repeat' first
    | with_reducible assumption
    | with_reducible intro x
    | with_reducible apply State.bumpCtx_keeps
    | with_reducible apply Keeps.ite
    | split

theorem State.countToken_keeps {r s : State} (n : Nat) (h1 : TaskHdr) (accepted : Bool) (h : Keeps r s) :
    Keeps r (State.countToken s n h1 accepted) := by
  unfold State.countToken
  repeat' first
    | with_reducible assumption
    | with_reducible intro x
    | with_reducible apply State.bumpCtx_keeps
    | with_reducible apply Keeps.ite
    | split

theorem State.openTask_keeps {r s : State} (n : Nat) (h1 : TaskHdr) (prop : Bool) (h : Keeps r s) :
    Keeps r (State.openTask s n h1 prop) := by
  unfold State.openTask
  repeat' first
    | with_reducible assumption
    | with_reducible intro x
    | with_reducible apply State.updCore_keeps
    | with_reducible apply State.bumpCore_keeps
    | with_reducible apply State.programMark_keeps
    | with_reducible apply State.countDraft_keeps
    | with_reducible apply State.countToken_keeps
    | with_reducible apply Keeps.ite
    | with_reducible apply CoreKeep.ite
    | (with_reducible apply CoreKeep.upd; · with_reducible assumption)
    | split

theorem State.advance_keeps {r s : State} (n : Nat) (h : Keeps r s) :
    Keeps r (State.advance s n) := by
  unfold State.advance
  repeat' first
    | with_reducible assumption
    | with_reducible intro x
    | with_reducible apply State.updCore_keeps
    | with_reducible apply State.bumpCore_keeps
    | (with_reducible apply CoreKeep.upd; · with_reducible assumption)

theorem execTaskBegin_keeps {r s : State} (h1 : Issue) (gh : BitVec 5) (h : Keeps r s) :
    OutKeeps r (execTaskBegin h1 gh s) := by
  unfold execTaskBegin
  repeat' first
    | with_reducible assumption
    | with_reducible intro x
    | with_reducible apply OutKeeps.next
    | with_reducible apply ResKeeps.ok
    | with_reducible apply ResKeeps.lost
    | with_reducible apply ResKeeps.wait
    | with_reducible apply State.updCore_keeps
    | with_reducible apply State.bumpCore_keeps
    | with_reducible apply issue_keeps
    | with_reducible apply orLost_keeps
    | with_reducible apply interlocked_keeps
    | with_reducible apply State.openTask_keeps
    | with_reducible apply ResKeeps.bind
    | with_reducible apply Keeps.ite
    | with_reducible apply ResKeeps.ite
    | with_reducible apply OutKeeps.ite
    | with_reducible apply CoreKeep.ite
    | (with_reducible apply CoreKeep.upd; · with_reducible assumption)

theorem execTaskInputSatisfied_keeps {r s : State} (core : Fin 512) (h : Keeps r s) :
    OutKeeps r (execTaskInputSatisfied core s) := by
  unfold execTaskInputSatisfied
  repeat' first
    | with_reducible assumption
    | with_reducible intro x
    | with_reducible apply OutKeeps.next
    | with_reducible apply State.idleCore_keeps
    | with_reducible apply State.openTask_keeps
    | with_reducible apply State.advance_keeps
    | with_reducible apply Keeps.ite
    | with_reducible apply OutKeeps.ite
    | with_reducible apply OptKeeps.getD
    | split

theorem execTaskEnd_keeps {r s : State} (h1 : Issue) (h : Keeps r s) :
    OutKeeps r (execTaskEnd h1 s) := by
  unfold execTaskEnd
  repeat' first
    | with_reducible assumption
    | (lift_lets -underBinder; with_reducible intro x)
    | with_reducible intro x
    | with_reducible apply OutKeeps.next
    | with_reducible apply ResKeeps.lost
    | with_reducible apply Core.updTask_keeps
    | with_reducible apply issue_keeps
    | with_reducible apply onCore_keeps
    | split

theorem Core.leave_keeps {r k : Core} (t : Task) (h : CoreKeep r k) :
    CoreKeep r (Core.leave k t) := by
  unfold Core.leave
  repeat' first
    | with_reducible assumption
    | with_reducible intro x
    | with_reducible apply Keeps.ite
    | with_reducible apply CoreKeep.ite
    | (with_reducible apply CoreKeep.upd; · with_reducible assumption)

theorem State.countTask_keeps {r s : State} (c : Nat) (t : Task) (h : Keeps r s) :
    Keeps r (State.countTask s c t) := by
  unfold State.countTask
  repeat' first
    | with_reducible assumption
    | with_reducible intro x
    | with_reducible apply State.updCtx_keeps

theorem execTaskOutputSignal_keeps {r s : State} (core : Fin 512) (i : Fin 8) (h : Keeps r s) :
    OutKeeps r (execTaskOutputSignal core i s) := by
  unfold execTaskOutputSignal
  repeat' first
    | with_reducible assumption
    | with_reducible intro x
    | with_reducible apply OutKeeps.next
    | with_reducible apply State.updCore_keeps
    | with_reducible apply State.signal_keeps
    | with_reducible apply Core.leave_keeps
    | with_reducible apply State.countTask_keeps
    | with_reducible apply Keeps.ite
    | with_reducible apply OutKeeps.ite
    | with_reducible apply CoreKeep.ite
    | with_reducible apply Keeps.foldl
    | with_reducible apply CoreKeep.foldl
    | split

theorem State.discardTask_keeps {r s : State} (n : Nat) (id : Nat) (h : Keeps r s) :
    Keeps r (State.discardTask s n id) := by
  unfold State.discardTask
  repeat' first
    | with_reducible assumption
    | with_reducible intro x
    | with_reducible apply State.updCore_keeps
    | with_reducible apply State.bumpCore_keeps
    | with_reducible apply State.countDraft_keeps
    | with_reducible apply State.countToken_keeps
    | with_reducible apply Keeps.ite
    | with_reducible apply CoreKeep.ite
    | with_reducible apply Keeps.foldl
    | with_reducible apply CoreKeep.foldl
    | (with_reducible apply CoreKeep.upd; · with_reducible assumption)

theorem execSpeculativeResolve_keeps {r s : State} (core : Fin 512) (i : Fin 8) (h : Keeps r s) :
    OutKeeps r (execSpeculativeResolve core i s) := by
  unfold execSpeculativeResolve
  repeat' first
    | with_reducible assumption
    | with_reducible intro x
    | with_reducible apply OutKeeps.next
    | with_reducible apply State.updCore_keeps
    | with_reducible apply Core.updTask_keeps
    | with_reducible apply State.unitsRun_keeps
    | with_reducible apply State.countDraft_keeps
    | with_reducible apply State.discardTask_keeps
    | with_reducible apply Keeps.ite
    | with_reducible apply OutKeeps.ite
    | with_reducible apply CoreKeep.ite
    | split

theorem execVerdictTimeout_keeps {r s : State} (core : Fin 512) (i : Fin 8) (h : Keeps r s) :
    OutKeeps r (execVerdictTimeout core i s) := by
  unfold execVerdictTimeout
  repeat' first
    | with_reducible assumption
    | with_reducible intro x
    | with_reducible apply OutKeeps.next
    | with_reducible apply State.bumpCore_keeps
    | with_reducible apply State.unitsRun_keeps
    | with_reducible apply State.discardTask_keeps
    | with_reducible apply Keeps.ite
    | with_reducible apply OutKeeps.ite
    | split

theorem State.landEntry_keeps {r s : State} (e : PadEntry) (h : Keeps r s) :
    Keeps r (State.landEntry s e) := by
  unfold State.landEntry
  repeat' first
    | with_reducible assumption
    | with_reducible intro x
    | with_reducible apply State.writeDa_keeps
    | with_reducible apply Keeps.foldl

theorem Core.drainTask_keeps {r k : Core} (id : Nat) (h : CoreKeep r k) :
    CoreKeep r (Core.drainTask k id) := by
  unfold Core.drainTask
  repeat' first
    | with_reducible assumption
    | with_reducible intro x
    | with_reducible apply Keeps.ite
    | with_reducible apply CoreKeep.ite
    | (with_reducible apply CoreKeep.upd; · with_reducible assumption)

theorem execPaddockDrain_keeps {r s : State} (core : Fin 512) (i : Fin 8) (h : Keeps r s) :
    OutKeeps r (execPaddockDrain core i s) := by
  unfold execPaddockDrain
  repeat' first
    | with_reducible assumption
    | with_reducible intro x
    | with_reducible apply OutKeeps.next
    | with_reducible apply State.updCore_keeps
    | with_reducible apply State.bumpCore_keeps
    | with_reducible apply State.flushRel_keeps
    | with_reducible apply State.unitsRun_keeps
    | with_reducible apply State.countToken_keeps
    | with_reducible apply State.landEntry_keeps
    | with_reducible apply Core.drainTask_keeps
    | with_reducible apply Keeps.ite
    | with_reducible apply OutKeeps.ite
    | with_reducible apply CoreKeep.ite
    | with_reducible apply Keeps.foldl
    | with_reducible apply CoreKeep.foldl
    | split

theorem signalBody_keeps {r s : State} (n c fid : Nat) (v : W64) (h : Keeps r s) :
    ResKeeps r (signalBody n c fid v s) := by
  unfold signalBody
  repeat' first
    | with_reducible assumption
    | with_reducible apply ResKeeps.ok
    | with_reducible apply ResKeeps.lost
    | with_reducible apply ResKeeps.wait
    | with_reducible apply State.padFull_keeps
    | with_reducible apply State.signalHeld_keeps
    | with_reducible apply ResKeeps.ite
    | refine OptKeeps.of ?_ (by assumption)
    | split

theorem execFenceSignal_keeps {r s : State} (h1 : Issue) (f : FenceF) (h : Keeps r s) :
    OutKeeps r (execFenceSignal h1 f s) := by
  unfold execFenceSignal
  repeat' first
    | with_reducible assumption
    | (with_reducible intro x)
    | with_reducible apply OutKeeps.next
    | with_reducible apply issue_keeps
    | with_reducible apply signalBody_keeps

theorem execFenceSignalI_keeps {r s : State} (h1 : Issue) (fid : BitVec 16) (val : W64) (h : Keeps r s) :
    OutKeeps r (execFenceSignalI h1 fid val s) := by
  unfold execFenceSignalI
  repeat' first
    | with_reducible assumption
    | (with_reducible intro x)
    | with_reducible apply OutKeeps.next
    | with_reducible apply issue_keeps
    | with_reducible apply signalBody_keeps

theorem inFlight_keeps {r s : State} (n : Nat) (l : Load) (h : Keeps r s) :
    ResKeeps r (inFlight n l s) := by
  unfold inFlight
  repeat' first
    | with_reducible assumption
    | with_reducible intro x
    | with_reducible apply ResKeeps.wait
    | with_reducible apply onCore_keeps
    | with_reducible apply ResKeeps.ite
    | (with_reducible apply CoreKeep.upd; · with_reducible assumption)

theorem execFenceRead_keeps {r s : State} (h1 : Issue) (f : FenceF) (h : Keeps r s) :
    OutKeeps r (execFenceRead h1 f s) := by
  unfold execFenceRead
  repeat' first
    | with_reducible assumption
    | (lift_lets -underBinder; with_reducible intro x)
    | with_reducible apply OutKeeps.next
    | with_reducible apply ResKeeps.lost
    | with_reducible apply issue_keeps
    | with_reducible apply inFlight_keeps
    | with_reducible apply ResKeeps.ite

theorem execFenceWait_keeps {r s : State} (h1 : Issue) (f : FenceF) (h : Keeps r s) :
    OutKeeps r (execFenceWait h1 f s) := by
  unfold execFenceWait
  repeat' first
    | with_reducible assumption
    | (lift_lets -underBinder; with_reducible intro x)
    | with_reducible intro x
    | with_reducible apply OutKeeps.next
    | with_reducible apply ResKeeps.ok
    | with_reducible apply ResKeeps.lost
    | with_reducible apply ResKeeps.wait
    | with_reducible apply State.updCore_keeps
    | with_reducible apply State.bumpCore_keeps
    | with_reducible apply issue_keeps
    | with_reducible apply ResKeeps.ite
    | (with_reducible apply CoreKeep.upd; · with_reducible assumption)

theorem execFenceWaitSatisfied_keeps {r s : State} (core : Fin 512) (h : Keeps r s) :
    OutKeeps r (execFenceWaitSatisfied core s) := by
  unfold execFenceWaitSatisfied
  repeat' first
    | with_reducible assumption
    | with_reducible apply OutKeeps.next
    | with_reducible apply State.idleCore_keeps
    | with_reducible apply State.advance_keeps
    | with_reducible apply Keeps.ite
    | split

theorem State.noteSignal_keeps {r s : State} (fid : Nat) (v : W64) (h : Keeps r s) :
    Keeps r (State.noteSignal s fid v) := by
  unfold State.noteSignal
  repeat' first
    | with_reducible assumption
    | with_reducible intro x
    | with_reducible apply State.updCore_keeps
    | with_reducible apply Keeps.foldl
    | (with_reducible apply CoreKeep.upd; · with_reducible assumption)

theorem State.readLoss_keeps {r s : State} (f : State → BitVec 32 → State) (h : Keeps r s) (g_f : ∀ x0 x1, Keeps r x0 → Keeps r (f x0 x1)) :
    Keeps r (State.readLoss s f) := by
  unfold State.readLoss
  repeat' first
    | with_reducible assumption
    | with_reducible intro x
    | with_reducible apply ResKeeps.ok
    | with_reducible apply ResKeeps.lost
    | with_reducible apply ResKeeps.wait
    | with_reducible apply g_f
    | with_reducible apply State.readVa_keeps
    | with_reducible apply State.settle_keeps

theorem State.lossMark_keeps {r s : State} (fid : Nat) (v : W64) (h : Keeps r s) :
    Keeps r (State.lossMark s fid v) := by
  unfold State.lossMark
  repeat' first
    | with_reducible assumption
    | (with_reducible intro x; first
        | (with_reducible refine with_fact (a := Keeps r x) ?_ ?_; (on_goal 1 => unfold x); (on_goal 2 => (intro hx; clear_value x)))
        | skip)
    | (lift_lets -underBinder; with_reducible intro x)
    | with_reducible apply State.mark_keeps
    | with_reducible apply State.readLoss_keeps
    | with_reducible apply Keeps.ite
    | (with_reducible apply Keeps.plain; · with_reducible assumption)

theorem State.applySig_keeps {r s : State} (g : Sig) (h : Keeps r s) :
    Keeps r (State.applySig s g) := by
  unfold State.applySig
  repeat' first
    | with_reducible assumption
    | (lift_lets -underBinder; with_reducible intro x)
    | with_reducible apply State.updCtx_keeps
    | with_reducible apply State.updFence_keeps
    | with_reducible apply State.noteSignal_keeps
    | with_reducible apply State.lossMark_keeps
    | with_reducible apply Keeps.ite
    | split

theorem execFenceSignalApply_keeps {r s : State} (h : Keeps r s) :
    OutKeeps r (execFenceSignalApply s) := by
  unfold execFenceSignalApply
  repeat' first
    | with_reducible assumption
    | with_reducible apply OutKeeps.next
    | with_reducible apply State.applySig_keeps
    | (with_reducible apply Keeps.plain; · with_reducible assumption)
    | split

theorem execSysNop_keeps {r s : State} (h1 : Issue) (gd ga : BitVec 5) (h : Keeps r s) :
    OutKeeps r (execSysNop h1 gd ga s) := by
  unfold execSysNop
  repeat' first
    | with_reducible assumption
    | (with_reducible intro x)
    | with_reducible apply OutKeeps.next
    | with_reducible apply ResKeeps.ok
    | with_reducible apply issue_keeps

theorem execSysIflush_keeps {r s : State} (h1 : Issue) (gd ga : BitVec 5) (h : Keeps r s) :
    OutKeeps r (execSysIflush h1 gd ga s) := by
  unfold execSysIflush
  repeat' first
    | with_reducible assumption
    | with_reducible intro x
    | with_reducible apply OutKeeps.next
    | with_reducible apply ResKeeps.wait
    | with_reducible apply issue_keeps
    | with_reducible apply onCore_keeps
    | with_reducible apply ResKeeps.ite
    | (with_reducible apply CoreKeep.upd; · with_reducible assumption)

theorem execSysSrkey_keeps {r s : State} (h1 : Issue) (gd ga : BitVec 5) (h : Keeps r s) :
    OutKeeps r (execSysSrkey h1 gd ga s) := by
  unfold execSysSrkey
  repeat' first
    | with_reducible assumption
    | with_reducible intro x
    | with_reducible apply OutKeeps.next
    | with_reducible apply issue_keeps
    | with_reducible apply onCore_keeps
    | (with_reducible apply CoreKeep.upd; · with_reducible assumption)

theorem execSysFlags_keeps {r s : State} (h1 : Issue) (gd ga : BitVec 5) (h : Keeps r s) :
    OutKeeps r (execSysFlags h1 gd ga s) := by
  unfold execSysFlags
  repeat' first
    | with_reducible assumption
    | with_reducible intro x
    | with_reducible apply OutKeeps.next
    | with_reducible apply ResKeeps.wait
    | with_reducible apply issue_keeps
    | with_reducible apply onCore_keeps
    | with_reducible apply ResKeeps.ite
    | with_reducible apply CoreKeep.wr
    | (with_reducible apply CoreKeep.upd; · with_reducible assumption)

theorem execSysId_keeps {r s : State} (h1 : Issue) (gd ga : BitVec 5) (h : Keeps r s) :
    OutKeeps r (execSysId h1 gd ga s) := by
  unfold execSysId
  repeat' first
    | with_reducible assumption
    | with_reducible intro x
    | with_reducible apply OutKeeps.next
    | with_reducible apply issue_keeps
    | with_reducible apply onCore_keeps
    | with_reducible apply CoreKeep.wr

theorem execSysTime_keeps {r s : State} (h1 : Issue) (gd ga : BitVec 5) (h : Keeps r s) :
    OutKeeps r (execSysTime h1 gd ga s) := by
  unfold execSysTime
  repeat' first
    | with_reducible assumption
    | (with_reducible intro x)
    | with_reducible apply OutKeeps.next
    | with_reducible apply issue_keeps
    | with_reducible apply inFlight_keeps

end Sys2Proof.Machine
end

