-- ==== Sys2Proof/Laws/KeepHalt.lean ====
section
/-! SUPPORT. What the operations of Machine/Halt.lean keep. -/

namespace Sys2Proof.Machine

theorem State.record_keeps {r s : State} (e : Cper) (h : Keeps r s) :
    Keeps r (State.record s e) := by
  unfold State.record
  repeat' first
    | with_reducible assumption
    | (lift_lets -underBinder; with_reducible intro x)
    | (with_reducible intro x; with_reducible refine with_fact (a := Keeps r x) ?_ ?_; (on_goal 1 => unfold x); (on_goal 2 => (intro hx; clear_value x)))
    | with_reducible apply State.devEvent_keeps
    | with_reducible apply State.logSig_keeps

theorem State.corrected_keeps {r s : State} (u : UnitId) (h : Keeps r s) :
    Keeps r (State.corrected s u) := by
  unfold State.corrected
  repeat' first
    | with_reducible assumption
    | (lift_lets -underBinder; with_reducible intro x)
    | (with_reducible intro x; first
        | (with_reducible refine with_fact (a := Keeps r x) ?_ ?_; (on_goal 1 => unfold x); (on_goal 2 => (intro hx; clear_value x)))
        | skip)
    | with_reducible apply State.record_keeps
    | with_reducible apply Keeps.ite
    | (with_reducible apply Keeps.plain; · with_reducible assumption)

theorem State.bumpLine_keeps {r s : State} (da i : Nat) (h : Keeps r s) :
    Keeps r (State.bumpLine s da i) := by
  unfold State.bumpLine
  repeat' first
    | with_reducible assumption
    | with_reducible apply State.bumpAt_keeps
    | split

theorem State.lineFixed_keeps {r s : State} (da : Nat) (h : Keeps r s) :
    Keeps r (State.lineFixed s da) := by
  unfold State.lineFixed
  repeat' first
    | with_reducible assumption
    | with_reducible apply State.corrected_keeps
    | with_reducible apply State.bumpLine_keeps

theorem State.loseErr_keeps {r s : State} (c cause cls : Nat) (u : UnitId) (da : Nat) (core : Option Nat) (h : Keeps r s) :
    Keeps r (State.loseErr s c cause cls u da core) := by
  unfold State.loseErr
  repeat' first
    | with_reducible assumption
    | with_reducible apply State.lose_keeps
    | with_reducible apply State.record_keeps

theorem State.lineLost_keeps {r s : State} (da : Nat) (h : Keeps r s) :
    Keeps r (State.lineLost s da) := by
  unfold State.lineLost
  repeat' first
    | with_reducible assumption
    | (lift_lets -underBinder; with_reducible intro x; with_reducible refine with_fact (a := Keeps r x) ?_ ?_; (on_goal 1 => unfold x); (on_goal 2 => (intro hx; clear_value x)))
    | with_reducible intro x
    | with_reducible apply State.bumpLine_keeps
    | with_reducible apply State.loseErr_keeps
    | with_reducible apply Keeps.ite
    | (with_reducible apply Keeps.plain; · with_reducible assumption)
    | split

theorem State.loseAll_keeps {r s : State} (cause : Nat) (h : Keeps r s) :
    Keeps r (State.loseAll s cause) := by
  unfold State.loseAll
  repeat' first
    | with_reducible assumption
    | (lift_lets -underBinder; with_reducible intro x; first
        | (with_reducible refine with_fact (a := Keeps r x) ?_ ?_; (on_goal 1 => unfold x); (on_goal 2 => (intro hx; clear_value x)))
        | skip)
    | with_reducible intro x
    | with_reducible apply State.updCluster_keeps
    | with_reducible apply State.updCtx_keeps
    | with_reducible apply Keeps.ite
    | with_reducible apply Keeps.foldl

theorem State.quietPorts_keeps {r s : State} (h : Keeps r s) :
    Keeps r (State.quietPorts s) := by
  unfold State.quietPorts
  repeat' (with_reducible apply Keeps.plain; · with_reducible assumption)

theorem State.writeDump_keeps {r s : State} (len : Nat → Nat) (h : Keeps r s) :
    Keeps r (State.writeDump s len) := by
  unfold State.writeDump
  repeat' first
    | with_reducible assumption
    | (lift_lets -underBinder; with_reducible intro x)
    | with_reducible apply Keeps.ite
    | (with_reducible apply Keeps.plain; · with_reducible assumption)

theorem State.internalError_keeps {r s : State} (reason : Nat) (h : Keeps r s) :
    Keeps r (State.internalError s reason) := by
  unfold State.internalError
  repeat' first
    | with_reducible assumption
    | with_reducible intro x
    | with_reducible apply SndKeeps.mk
    | with_reducible refine SndKeeps.snd (State.free_keeps (h := ?_) ..)
    | with_reducible apply State.free_keeps
    | with_reducible apply State.record_keeps
    | with_reducible apply Keeps.ite
    | with_reducible apply SndKeeps.ite
    | (with_reducible apply Keeps.plain; · with_reducible assumption)

theorem State.sentinel_keeps {r s : State} (code : Nat) (h : Keeps r s) :
    Keeps r (State.sentinel s code) := by
  unfold State.sentinel
  repeat' first
    | with_reducible assumption
    | (with_reducible intro x)
    | (lift_lets -underBinder; with_reducible intro x; first
        | (with_reducible refine with_fact (a := Keeps r x) ?_ ?_; (on_goal 1 => unfold x); (on_goal 2 => (intro hx; clear_value x))))
    | with_reducible apply State.irq_keeps
    | with_reducible apply State.internalError_keeps
    | with_reducible apply Keeps.ite
    | (with_reducible apply Keeps.plain; · with_reducible assumption)

theorem State.halt_keeps {r s : State} (cls ukind uidx : Nat) (h : Keeps r s) :
    Keeps r (State.halt s cls ukind uidx) := by
  unfold State.halt
  repeat' first
    | with_reducible assumption
    | (lift_lets -underBinder; with_reducible intro x)
    | (with_reducible intro x; with_reducible refine with_fact (a := Keeps r x) ?_ ?_; (on_goal 1 => unfold x); (on_goal 2 => (intro hx; clear_value x)))
    | with_reducible apply State.record_keeps
    | with_reducible apply State.loseAll_keeps
    | with_reducible apply State.quietPorts_keeps
    | with_reducible apply State.writeDump_keeps
    | with_reducible apply State.sentinel_keeps
    | with_reducible apply Keeps.ite
    | (with_reducible apply Keeps.plain; · with_reducible assumption)

theorem execIntegrityHalt_keeps {r s : State} (cls ukind : BitVec 8) (uidx : BitVec 16) (h : Keeps r s) :
    OutKeeps r (execIntegrityHalt cls ukind uidx s) := by
  unfold execIntegrityHalt
  repeat' first
    | with_reducible assumption
    | with_reducible apply OutKeeps.next
    | with_reducible apply State.halt_keeps
    | with_reducible apply Keeps.ite

theorem State.checkLine_keeps {r s : State} (da ctx : Nat) (h1 : Health) (h : Keeps r s) :
    SndKeeps r (State.checkLine s da ctx h1) := by
  unfold State.checkLine
  repeat' first
    | with_reducible assumption
    | with_reducible apply SndKeeps.mk
    | with_reducible apply State.lineFixed_keeps
    | with_reducible apply State.loseErr_keeps
    | with_reducible apply State.lineLost_keeps
    | with_reducible apply State.halt_keeps
    | split

theorem State.patrolLine_keeps {r s : State} (da : Nat) (h1 : Health) (h : Keeps r s) :
    Keeps r (State.patrolLine s da h1) := by
  unfold State.patrolLine
  repeat' first
    | with_reducible assumption
    | with_reducible intro x
    | with_reducible apply OptKeeps.none
    | with_reducible apply OptKeeps.some
    | with_reducible apply State.repairUnit_keeps
    | with_reducible apply State.bumpLine_keeps
    | with_reducible apply State.lineFixed_keeps
    | with_reducible apply State.lineLost_keeps
    | with_reducible apply State.halt_keeps
    | refine OptKeeps.of ?_ (by assumption)
    | with_reducible exact OptKeeps.some_keep (by assumption)
    | split

theorem execPatrol_keeps {r s : State} (da : W48) (h1 : Health) (h : Keeps r s) :
    OutKeeps r (execPatrol da h1 s) := by
  unfold execPatrol
  repeat' first
    | with_reducible assumption
    | with_reducible apply OutKeeps.next
    | with_reducible apply State.patrolLine_keeps
    | with_reducible apply Keeps.ite
    | split

theorem execCorrectedErrorHour_keeps {r s : State} (h : Keeps r s) :
    OutKeeps r (execCorrectedErrorHour s) := by
  unfold execCorrectedErrorHour
  repeat' first
    | (lift_lets -underBinder; with_reducible intro x)
    | with_reducible apply OutKeeps.next
    | (with_reducible apply Keeps.plain; · with_reducible assumption)

theorem State.clearCore_keeps {r s : State} (n : Nat) (h : Keeps r s) :
    Keeps r (State.clearCore s n) := by
  unfold State.clearCore
  repeat' first
    | with_reducible assumption
    | with_reducible apply State.setCore_keeps
    | exact CoreKeep.fresh _ rfl rfl

theorem State.clearCluster_keeps {r s : State} (k : Nat) (h : Keeps r s) :
    Keeps r (State.clearCluster s k) := by
  unfold State.clearCluster
  repeat' first
    | with_reducible assumption
    | with_reducible intro x
    | with_reducible apply State.setCore_keeps
    | with_reducible apply State.updCluster_keeps
    | with_reducible apply State.updTarget_keeps
    | with_reducible apply Keeps.foldl
    | exact CoreKeep.fresh _ rfl rfl

theorem State.dropRegs_keeps {r s : State} (base n : Nat) (h : Keeps r s) :
    Keeps r (State.dropRegs s base n) := by
  unfold State.dropRegs
  repeat' (with_reducible apply Keeps.plain; · with_reducible assumption)

theorem State.dropWalked_keeps {r s : State} (a : Nat) (h : Keeps r s) :
    Keeps r (State.dropWalked s a) := by
  unfold State.dropWalked
  repeat' first
    | with_reducible assumption
    | with_reducible intro x
    | with_reducible apply State.updCluster_keeps
    | with_reducible apply Keeps.foldl

theorem State.putPte_keeps {r s : State} (a : Nat) (e : Nat) (h : Keeps r s) :
    Keeps r (State.putPte s a e) := by
  unfold State.putPte
  repeat' first
    | with_reducible assumption
    | with_reducible intro x
    | with_reducible apply State.writeDa_keeps
    | with_reducible apply State.dropWalked_keeps

theorem State.cancelMove_keeps {r s : State} (m : PoolMove) (h : Keeps r s) :
    Keeps r (State.cancelMove s m) := by
  unfold State.cancelMove
  repeat' first
    | with_reducible assumption
    | (lift_lets -underBinder; with_reducible intro x)
    | with_reducible apply State.putPte_keeps
    | with_reducible apply Keeps.ite
    | split

theorem State.dropMoves_keeps {r s : State} (p : PoolMove → Bool) (h : Keeps r s) :
    Keeps r (State.dropMoves s p) := by
  unfold State.dropMoves
  repeat' first
    | with_reducible assumption
    | (with_reducible intro x; first
        | (with_reducible refine with_fact (a := Keeps r x) ?_ ?_; (on_goal 1 => unfold x); (on_goal 2 => (intro hx; clear_value x)))
        | skip)
    | (lift_lets -underBinder; with_reducible intro x)
    | with_reducible apply State.statusAgain_keeps
    | with_reducible apply State.cancelMove_keeps
    | with_reducible apply Keeps.ite
    | with_reducible apply Keeps.foldl
    | (with_reducible apply Keeps.plain; · with_reducible assumption)

theorem State.clearDie_keeps {r s : State} (d : Nat) (h : Keeps r s) :
    Keeps r (State.clearDie s d) := by
  unfold State.clearDie
  repeat' first
    | with_reducible assumption
    | (lift_lets -underBinder; with_reducible intro x; first
        | (with_reducible refine with_fact (a := Keeps r x) ?_ ?_; (on_goal 1 => unfold x); (on_goal 2 => (intro hx; clear_value x)))
        | skip)
    | (with_reducible intro x; first
        | (with_reducible refine with_fact (a := Keeps r x) ?_ ?_; (on_goal 1 => unfold x); (on_goal 2 => (intro hx; clear_value x)))
        | skip)
    | with_reducible apply State.updTarget_keeps
    | with_reducible apply State.clearCluster_keeps
    | with_reducible apply State.dropRegs_keeps
    | with_reducible apply State.dropMoves_keeps
    | with_reducible apply Keeps.foldl
    | (with_reducible apply Keeps.plain; · with_reducible assumption)

theorem State.flushLevel_keeps {r s : State} (m : Nat) (lvl : Nat) (h : Keeps r s) :
    Keeps r (State.flushLevel s m lvl) := by
  unfold State.flushLevel
  repeat' first
    | with_reducible assumption
    | with_reducible intro x
    | with_reducible apply State.writeBack_keeps
    | with_reducible apply Keeps.foldl

theorem State.flushTree_keeps {r s : State} (m : Nat) (h : Keeps r s) :
    Keeps r (State.flushTree s m) := by
  unfold State.flushTree
  repeat' first
    | with_reducible assumption
    | (with_reducible intro x)
    | (lift_lets -underBinder; with_reducible intro x; first
        | (with_reducible refine with_fact (a := Keeps r x) ?_ ?_; (on_goal 1 => unfold x); (on_goal 2 => (intro hx; clear_value x))))
    | with_reducible apply State.flushLevel_keeps
    | with_reducible apply Keeps.ite
    | with_reducible apply Keeps.foldl
    | (with_reducible apply Keeps.plain; · with_reducible assumption)

theorem State.clearMdie_keeps {r s : State} (m : Nat) (h : Keeps r s) :
    Keeps r (State.clearMdie s m) := by
  unfold State.clearMdie
  repeat' first
    | with_reducible assumption
    | (lift_lets -underBinder; with_reducible intro x; with_reducible refine with_fact (a := Keeps r x) ?_ ?_; (on_goal 1 => unfold x); (on_goal 2 => (intro hx; clear_value x)))
    | (with_reducible intro x; first
        | (with_reducible refine with_fact (a := Keeps r x) ?_ ?_; (on_goal 1 => unfold x); (on_goal 2 => (intro hx; clear_value x)))
        | skip)
    | with_reducible apply State.updTarget_keeps
    | with_reducible apply State.updUnit_keeps
    | with_reducible apply State.dropRegs_keeps
    | with_reducible apply State.dropMoves_keeps
    | with_reducible apply State.flushTree_keeps
    | (with_reducible apply Keeps.plain; · with_reducible assumption)

theorem State.resetUnit_keeps {r s : State} (kind i : Nat) (h : Keeps r s) :
    Keeps r (State.resetUnit s kind i) := by
  unfold State.resetUnit
  repeat' first
    | with_reducible assumption
    | (lift_lets -underBinder; with_reducible intro x; first
        | (with_reducible refine with_fact (a := Keeps r x) ?_ ?_; (on_goal 1 => unfold x); (on_goal 2 => (intro hx; clear_value x)))
        | skip)
    | (with_reducible intro x; first
        | (with_reducible refine with_fact (a := Keeps r x) ?_ ?_; (on_goal 1 => unfold x); (on_goal 2 => (intro hx; clear_value x)))
        | skip)
    | with_reducible apply State.lose_keeps
    | with_reducible apply State.halt_keeps
    | with_reducible apply State.clearCore_keeps
    | with_reducible apply State.clearCluster_keeps
    | with_reducible apply State.clearDie_keeps
    | with_reducible apply State.clearMdie_keeps
    | with_reducible apply Keeps.ite
    | with_reducible apply Keeps.foldl
    | (with_reducible apply Keeps.plain; · with_reducible assumption)
    | split

theorem execCoreReset_keeps {r s : State} (core : Fin 512) (h : Keeps r s) :
    OutKeeps r (execCoreReset core s) := by
  unfold execCoreReset
  repeat' first
    | with_reducible assumption
    | with_reducible apply OutKeeps.next
    | with_reducible apply State.resetUnit_keeps

theorem execClusterReset_keeps {r s : State} (cluster : Fin 64) (h : Keeps r s) :
    OutKeeps r (execClusterReset cluster s) := by
  unfold execClusterReset
  repeat' first
    | with_reducible assumption
    | with_reducible apply OutKeeps.next
    | with_reducible apply State.resetUnit_keeps

theorem execCdieReset_keeps {r s : State} (die : Fin 8) (h : Keeps r s) :
    OutKeeps r (execCdieReset die s) := by
  unfold execCdieReset
  repeat' first
    | with_reducible assumption
    | with_reducible apply OutKeeps.next
    | with_reducible apply State.resetUnit_keeps

theorem execMdieReset_keeps {r s : State} (m : Fin 4) (h : Keeps r s) :
    OutKeeps r (execMdieReset m s) := by
  unfold execMdieReset
  repeat' first
    | with_reducible assumption
    | with_reducible apply OutKeeps.next
    | with_reducible apply State.resetUnit_keeps

theorem execResetFenceExpiry_keeps {r s : State} (kind : Fin 4) (i : Fin 512) (h : Keeps r s) :
    OutKeeps r (execResetFenceExpiry kind i s) := by
  unfold execResetFenceExpiry
  repeat' first
    | (lift_lets -underBinder; with_reducible intro x)
    | with_reducible apply OutKeeps.next
    | (with_reducible apply Keeps.plain; · with_reducible assumption)

theorem State.askAgain_keeps {r s : State} (m : Nat) (rgs : List Nat) (h : Keeps r s) :
    Keeps r (State.askAgain s m rgs) := by
  unfold State.askAgain
  repeat' first
    | (lift_lets -underBinder; with_reducible intro x)
    | (with_reducible apply Keeps.plain; · with_reducible assumption)

theorem State.unitReady_keeps {r s : State} (kind i : Nat) (h : Keeps r s) :
    Keeps r (State.unitReady s kind i) := by
  unfold State.unitReady
  repeat' first
    | with_reducible assumption
    | (lift_lets -underBinder; with_reducible intro x)
    | (with_reducible intro x; with_reducible refine with_fact (a := Keeps r x) ?_ ?_; (on_goal 1 => unfold x); (on_goal 2 => (intro hx; clear_value x)))
    | with_reducible apply State.completeAll_keeps
    | with_reducible apply Keeps.ite
    | (with_reducible apply Keeps.plain; · with_reducible assumption)

theorem execUnitReady_keeps {r s : State} (kind : Fin 4) (i : Fin 512) (h : Keeps r s) :
    OutKeeps r (execUnitReady kind i s) := by
  unfold execUnitReady
  repeat' first
    | with_reducible assumption
    | with_reducible apply OutKeeps.next
    | with_reducible apply State.unitReady_keeps
    | with_reducible apply Keeps.ite

theorem execResetEscalation_keeps {r s : State} (kind : Fin 4) (i : Fin 512) (h : Keeps r s) :
    OutKeeps r (execResetEscalation kind i s) := by
  unfold execResetEscalation
  repeat' first
    | with_reducible assumption
    | (lift_lets -underBinder; with_reducible intro x; first
        | (with_reducible refine with_fact (a := SndKeeps r x) ?_ ?_; (on_goal 1 => unfold x); (on_goal 2 => (intro hx; clear_value x)))
        | skip)
    | (with_reducible intro x; first
        | (with_reducible refine with_fact (a := ∀ s, Keeps r s → Keeps r (x s)) ?_ ?_; (on_goal 1 => unfold x); (on_goal 2 => (intro hx; clear_value x)))
        | (with_reducible refine with_fact (a := ∀ a s, Keeps r s → Keeps r (x a s)) ?_ ?_; (on_goal 1 => unfold x); (on_goal 2 => (intro hx; clear_value x)))
        | skip)
    | with_reducible apply OutKeeps.next
    | with_reducible apply SndKeeps.mk
    | with_reducible refine SndKeeps.snd (State.free_keeps (h := ?_) ..)
    | with_reducible apply State.record_keeps
    | with_reducible apply State.halt_keeps
    | with_reducible apply State.resetUnit_keeps
    | with_reducible apply Keeps.ite
    | (with_reducible apply Keeps.plain; · with_reducible assumption)
    | with_reducible exact SndKeeps.snd (by assumption)
    | split
    | with_reducible apply_assumption

theorem execIntegrityWritebackTimeout_keeps {r s : State} (m : Fin 4) (h : Keeps r s) :
    OutKeeps r (execIntegrityWritebackTimeout m s) := by
  unfold execIntegrityWritebackTimeout
  repeat' first
    | with_reducible assumption
    | with_reducible apply OutKeeps.next
    | with_reducible apply State.halt_keeps
    | with_reducible apply Keeps.ite

theorem execProgressWatchdog_keeps {r s : State} (core : Fin 512) (h : Keeps r s) :
    OutKeeps r (execProgressWatchdog core s) := by
  unfold execProgressWatchdog
  repeat' first
    | with_reducible assumption
    | with_reducible apply OutKeeps.next
    | with_reducible apply State.lose_keeps
    | with_reducible apply Keeps.ite
    | split

theorem execNoProgress_keeps {r s : State} (kind : Fin 5) (i : Fin 192) (h : Keeps r s) :
    OutKeeps r (execNoProgress kind i s) := by
  unfold execNoProgress
  repeat' first
    | with_reducible assumption
    | with_reducible apply OutKeeps.next
    | with_reducible apply State.resetUnit_keeps
    | with_reducible apply Keeps.ite
    | split

theorem execHeartbeat_keeps {r s : State} (word : W64) (h : Keeps r s) :
    OutKeeps r (execHeartbeat word s) := by
  unfold execHeartbeat
  repeat' first
    | with_reducible assumption
    | (lift_lets -underBinder; with_reducible intro x)
    | with_reducible apply OutKeeps.next
    | with_reducible apply Keeps.ite
    | (with_reducible apply Keeps.plain; · with_reducible assumption)

theorem State.trip_keeps {r s : State} (code : Nat) (h : Keeps r s) :
    Keeps r (State.trip s code) := by
  unfold State.trip
  repeat' first
    | with_reducible assumption
    | (lift_lets -underBinder; with_reducible intro x)
    | (with_reducible intro x; with_reducible refine with_fact (a := Keeps r x) ?_ ?_; (on_goal 1 => unfold x); (on_goal 2 => (intro hx; clear_value x)))
    | with_reducible apply State.record_keeps
    | with_reducible apply State.loseAll_keeps
    | with_reducible apply State.quietPorts_keeps
    | with_reducible apply State.writeDump_keeps
    | with_reducible apply State.sentinel_keeps
    | with_reducible apply Keeps.ite
    | (with_reducible apply Keeps.plain; · with_reducible assumption)

theorem execHeartbeatMissed_keeps {r s : State} (h : Keeps r s) :
    OutKeeps r (execHeartbeatMissed s) := by
  unfold execHeartbeatMissed
  repeat' first
    | with_reducible assumption
    | with_reducible apply OutKeeps.next
    | with_reducible apply State.trip_keeps

theorem execLockstepMismatch_keeps {r s : State} (h : Keeps r s) :
    OutKeeps r (execLockstepMismatch s) := by
  unfold execLockstepMismatch
  repeat' first
    | with_reducible assumption
    | with_reducible apply OutKeeps.next
    | with_reducible apply State.trip_keeps

end Sys2Proof.Machine
end

