-- ==== Sys2Proof/Laws/KeepMemory.lean ====
section
/-! SUPPORT. What the operations of Machine/Memory.lean keep. -/

namespace Sys2Proof.Machine

theorem State.issueDram_keeps {r s : State} (da : Nat) (n : Nat) (h : Keeps r s) :
    Keeps r (State.issueDram s da n) := by
  unfold State.issueDram
  repeat' first
    | with_reducible assumption
    | with_reducible intro x
    | (with_reducible apply Keeps.plain; · with_reducible assumption)

theorem State.returnDram_keeps {r s : State} (da : Nat) (n : Nat) (h : Keeps r s) :
    Keeps r (State.returnDram s da n) := by
  unfold State.returnDram
  repeat' first
    | with_reducible assumption
    | with_reducible intro x
    | (with_reducible apply Keeps.plain; · with_reducible assumption)

theorem State.await_keeps {r s : State} (p1 : Refused) (h : Keeps r s) :
    Keeps r (State.await s p1) := by
  unfold State.await
  repeat' first
    | with_reducible assumption
    | (with_reducible intro x)
    | (lift_lets -underBinder; with_reducible intro x; first
        | (with_reducible refine with_fact (a := Keeps r x) ?_ ?_; (on_goal 1 => unfold x); (on_goal 2 => (intro hx; clear_value x))))
    | with_reducible apply State.bumpQuota_keeps
    | with_reducible apply Keeps.ite
    | (with_reducible apply Keeps.plain; · with_reducible assumption)
    | split

theorem State.holdAt_keeps {r s : State} (i : Nat) (p2 : Refused) (h : Keeps r s) :
    Keeps r (State.holdAt s i p2) := by
  unfold State.holdAt
  repeat' first
    | with_reducible assumption
    | with_reducible intro x
    | (with_reducible apply Keeps.plain; · with_reducible assumption)

theorem State.apertureFail_keeps {r s : State} (w off : Nat) (h : Keeps r s) :
    Keeps r (State.apertureFail s w off) := by
  unfold State.apertureFail
  repeat' first
    | with_reducible assumption
    | with_reducible apply State.bumpAt_keeps
    | with_reducible apply State.devEvent_keeps

theorem State.denyOutcome_keeps {r s : State} (init : Nat) (ctx : Nat) (da : Nat) (h : Keeps r s) :
    Keeps r (State.denyOutcome s init ctx da) := by
  unfold State.denyOutcome
  repeat' first
    | with_reducible assumption
    | (with_reducible intro x; first
        | (with_reducible refine with_fact (a := Keeps r x) ?_ ?_; (on_goal 1 => unfold x); (on_goal 2 => (intro hx; clear_value x))))
    | (lift_lets -underBinder; with_reducible intro x; first
        | (with_reducible refine with_fact (a := Keeps r x) ?_ ?_; (on_goal 1 => unfold x); (on_goal 2 => (intro hx; clear_value x))))
    | with_reducible apply State.bump_keeps
    | with_reducible apply State.denied_keeps
    | with_reducible apply State.lose_keeps
    | with_reducible apply State.apertureFail_keeps
    | with_reducible apply Keeps.ite
    | (with_reducible apply Keeps.plain; · with_reducible assumption)
    | split

theorem State.serve_keeps {r s : State} (r1 : MemReq) (c : Option Nat) (h : Keeps r s) :
    Keeps r (State.serve s r1 c) := by
  unfold State.serve
  repeat' first
    | with_reducible assumption
    | (lift_lets -underBinder; with_reducible intro x; with_reducible refine with_fact (a := Keeps r x) ?_ ?_; (on_goal 1 => unfold x); (on_goal 2 => (intro hx; clear_value x)))
    | (with_reducible intro x; first
        | (with_reducible refine with_fact (a := Keeps r x) ?_ ?_; (on_goal 1 => unfold x); (on_goal 2 => (intro hx; clear_value x)))
        | skip)
    | with_reducible apply State.writeDa_keeps
    | with_reducible apply State.touchPool_keeps
    | with_reducible apply Keeps.ite
    | (with_reducible apply Keeps.plain; · with_reducible assumption)

theorem State.access_keeps {r s : State} (r1 : MemReq) (h1 : Health) (h : Keeps r s) :
    Keeps r (State.access s r1 h1) := by
  unfold State.access
  repeat' first
    | with_reducible assumption
    | (lift_lets -underBinder; with_reducible intro x)
    | with_reducible apply SndKeeps.mk
    | with_reducible refine SndKeeps.snd (State.checkLine_keeps (h := ?_) ..)
    | with_reducible apply State.serve_keeps
    | with_reducible apply Keeps.ite
    | (with_reducible apply Keeps.plain; (on_goal 1 => refine SndKeeps.of ?_ (by assumption)))
    | split

theorem State.leave_keeps {r s : State} (p1 : Refused) (h1 : Health) (i : Nat) (h : Keeps r s) :
    Keeps r (State.leave s p1 h1 i) := by
  unfold State.leave
  repeat' first
    | with_reducible assumption
    | (with_reducible intro x)
    | (lift_lets -underBinder; with_reducible intro x; first
        | (with_reducible refine with_fact (a := Keeps r x) ?_ ?_; (on_goal 1 => unfold x); (on_goal 2 => (intro hx; clear_value x)))
        | skip)
    | with_reducible apply OptKeeps.none
    | with_reducible apply OptKeeps.some
    | with_reducible apply State.bumpCtx_keeps
    | with_reducible apply State.keepHost_keeps
    | with_reducible apply State.issuePool_keeps
    | with_reducible apply State.issueHost_keeps
    | with_reducible apply State.await_keeps
    | with_reducible apply State.holdAt_keeps
    | with_reducible apply State.access_keeps
    | with_reducible apply Keeps.ite
    | with_reducible apply OptKeeps.ite
    | (with_reducible apply Keeps.plain; · with_reducible assumption)
    | (with_reducible apply Keeps.plain; (on_goal 1 => refine OptKeeps.of ?_ (by assumption)))
    | refine OptKeeps.of ?_ (by assumption)
    | with_reducible exact OptKeeps.some_keep (by assumption)
    | split

theorem State.requestLost_keeps {r s : State} (r1 : MemReq) (h1 : Health) (cause : Nat) (h : Keeps r s) :
    Keeps r (State.requestLost s r1 h1 cause) := by
  unfold State.requestLost
  repeat' first
    | with_reducible assumption
    | with_reducible intro x
    | with_reducible apply State.lose_keeps
    | with_reducible apply State.apertureFail_keeps
    | with_reducible apply State.access_keeps
    | with_reducible apply Keeps.ite
    | split

theorem State.atTarget_keeps {r s : State} (p1 : Refused) (h1 : Health) (i : Nat) (h : Keeps r s) :
    Keeps r (State.atTarget s p1 h1 i) := by
  unfold State.atTarget
  repeat' first
    | with_reducible assumption
    | with_reducible intro x
    | with_reducible apply ResKeeps.ok
    | with_reducible apply ResKeeps.lost
    | with_reducible apply ResKeeps.wait
    | with_reducible apply FstKeeps.mk
    | with_reducible apply State.bumpAt_keeps
    | with_reducible apply State.check_keeps
    | with_reducible refine FstKeeps.fst (State.refuse_keeps (h := ?_) ..)
    | with_reducible apply State.refuse_keeps
    | with_reducible apply State.holdAt_keeps
    | with_reducible apply State.apertureFail_keeps
    | with_reducible apply State.denyOutcome_keeps
    | with_reducible apply State.leave_keeps
    | with_reducible apply State.requestLost_keeps
    | with_reducible apply ResKeeps.bind
    | with_reducible apply Keeps.ite
    | with_reducible apply ResKeeps.ite
    | with_reducible apply FstKeeps.ite
    | refine ResKeeps.of_ok ?_ (by assumption)
    | refine ResKeeps.of_lost ?_ (by assumption)
    | refine ResKeeps.of_wait ?_ (by assumption)
    | refine FstKeeps.of ?_ (by assumption)
    | with_reducible exact ResKeeps.ok_keep (by assumption)
    | with_reducible exact ResKeeps.lost_keep (by assumption)
    | with_reducible exact ResKeeps.wait_keep (by assumption)
    | with_reducible exact FstKeeps.fst (by assumption)
    | with_reducible exact FstKeeps.mk_keep (by assumption)
    | split

theorem State.launch_keeps {r s : State} (p1 : Refused) (older : List Refused) (h1 : Health) (i : Nat) (h : Keeps r s) :
    Keeps r (State.launch s p1 older h1 i) := by
  unfold State.launch
  repeat' first
    | with_reducible assumption
    | with_reducible intro x
    | (lift_lets -underBinder; with_reducible intro x)
    | with_reducible apply State.tagWait_keeps
    | with_reducible apply State.holdAt_keeps
    | with_reducible apply State.atTarget_keeps
    | with_reducible apply Keeps.ite
    | split

theorem execTranslationWalk_keeps {r s : State} (core : Fin 512) (va : W48) (acc : Fin 3) (h : Keeps r s) :
    OutKeeps r (execTranslationWalk core va acc s) := by
  unfold execTranslationWalk
  repeat' first
    | with_reducible assumption
    | (lift_lets -underBinder; with_reducible intro x)
    | with_reducible apply OutKeeps.next
    | with_reducible apply State.xlate_keeps
    | with_reducible apply State.lose_keeps
    | (with_reducible apply Keeps.plain; (on_goal 1 => refine ResKeeps.of_ok ?_ (by assumption)))
    | (with_reducible apply Keeps.plain; (on_goal 1 => refine ResKeeps.of_lost ?_ (by assumption)))
    | (with_reducible apply Keeps.plain; (on_goal 1 => refine ResKeeps.of_wait ?_ (by assumption)))
    | split

theorem execAccessTableSwap_keeps {r s : State} (t : Fin 256) (h : Keeps r s) :
    OutKeeps r (execAccessTableSwap t s) := by
  unfold execAccessTableSwap
  repeat' first
    | with_reducible assumption
    | with_reducible intro x
    | with_reducible apply OutKeeps.next
    | with_reducible apply State.updTarget_keeps
    | with_reducible apply Keeps.ite

theorem execTargetDrained_keeps {r s : State} (t : Fin 256) (h : Keeps r s) :
    OutKeeps r (execTargetDrained t s) := by
  unfold execTargetDrained
  repeat' first
    | with_reducible assumption
    | with_reducible intro x
    | with_reducible apply OutKeeps.next
    | with_reducible apply State.updTarget_keeps
    | with_reducible apply Keeps.ite

theorem State.resetTarget_keeps {r s : State} (t : Nat) (h : Keeps r s) :
    Keeps r (State.resetTarget s t) := by
  unfold State.resetTarget
  repeat' first
    | with_reducible assumption
    | with_reducible apply State.resetUnit_keeps
    | with_reducible apply Keeps.ite

theorem execDrainTimeout_keeps {r s : State} (t : Fin 256) (h : Keeps r s) :
    OutKeeps r (execDrainTimeout t s) := by
  unfold execDrainTimeout
  repeat' first
    | with_reducible assumption
    | with_reducible intro x
    | with_reducible apply OutKeeps.next
    | with_reducible apply State.devEvent_keeps
    | with_reducible apply State.resetTarget_keeps
    | with_reducible apply Keeps.ite

theorem execKvPromotion_keeps {r s : State} (ctx : Fin 4096) (vpn : BitVec 32) (die : Fin 8) (h : Keeps r s) :
    OutKeeps r (execKvPromotion ctx vpn die s) := by
  unfold execKvPromotion
  repeat' first
    | with_reducible assumption
    | (with_reducible intro x)
    | (lift_lets -underBinder; with_reducible intro x; first
        | (with_reducible refine with_fact (a := Keeps r x) ?_ ?_; (on_goal 1 => unfold x); (on_goal 2 => (intro hx; clear_value x)))
        | skip)
    | with_reducible apply OutKeeps.next
    | with_reducible apply Keeps.ite
    | with_reducible apply OutKeeps.ite
    | (with_reducible apply Keeps.plain; · with_reducible assumption)
    | split

theorem State.dropTlb_keeps {r s : State} (c : Nat) (p : TlbEntry → Bool) (h : Keeps r s) :
    Keeps r (State.dropTlb s c p) := by
  unfold State.dropTlb
  repeat' first
    | with_reducible assumption
    | with_reducible intro x
    | with_reducible apply State.updCore_keeps
    | with_reducible apply State.updCluster_keeps
    | with_reducible apply Keeps.foldl
    | with_reducible apply CoreKeep.foldl
    | (with_reducible apply CoreKeep.upd; · with_reducible assumption)

theorem State.startMove_keeps {r s : State} (i : Nat) (a : Nat) (mover : Nat) (m : PoolMove) (h : Keeps r s) :
    Keeps r (State.startMove s i a mover m) := by
  unfold State.startMove
  repeat' first
    | with_reducible assumption
    | (with_reducible intro x; first
        | (with_reducible refine with_fact (a := Keeps r x) ?_ ?_; (on_goal 1 => unfold x); (on_goal 2 => (intro hx; clear_value x))))
    | (lift_lets -underBinder; with_reducible intro x)
    | with_reducible apply State.dropOwn_keeps
    | with_reducible apply State.putPte_keeps
    | with_reducible apply State.dropTlb_keeps
    | with_reducible apply Keeps.ite
    | (with_reducible apply Keeps.plain; · with_reducible assumption)

theorem execPoolMove_keeps {r s : State} (mover : Fin 12) (ctx : Fin 4096) (vpn : BitVec 32) (h : Keeps r s) :
    OutKeeps r (execPoolMove mover ctx vpn s) := by
  unfold execPoolMove
  repeat' first
    | with_reducible assumption
    | with_reducible intro x
    | with_reducible apply OutKeeps.next
    | with_reducible apply State.startMove_keeps
    | with_reducible apply Keeps.ite
    | with_reducible apply OutKeeps.ite
    | split

theorem State.landMove_keeps {r s : State} (i : Nat) (m : PoolMove) (h : Keeps r s) :
    Keeps r (State.landMove s i m) := by
  unfold State.landMove
  repeat' first
    | with_reducible assumption
    | (with_reducible intro x; first
        | (with_reducible refine with_fact (a := Keeps r x) ?_ ?_; (on_goal 1 => unfold x); (on_goal 2 => (intro hx; clear_value x)))
        | skip)
    | (lift_lets -underBinder; with_reducible intro x)
    | with_reducible apply State.bumpCtx_keeps
    | with_reducible apply State.writeDa_keeps
    | with_reducible apply State.statusAgain_keeps
    | with_reducible apply State.putPte_keeps
    | with_reducible apply Keeps.ite
    | (with_reducible apply Keeps.plain; · with_reducible assumption)
    | split

theorem execPoolMoveComplete_keeps {r s : State} (i : Nat) (health : Health) (h : Keeps r s) :
    OutKeeps r (execPoolMoveComplete i health s) := by
  unfold execPoolMoveComplete
  repeat' first
    | with_reducible assumption
    | with_reducible apply OutKeeps.next
    | with_reducible apply SndKeeps.mk
    | with_reducible apply State.queueRekey_keeps
    | with_reducible refine SndKeeps.snd (State.checkLine_keeps (h := ?_) ..)
    | with_reducible apply State.dropMoves_keeps
    | with_reducible apply State.landMove_keeps
    | with_reducible apply Keeps.ite
    | (with_reducible apply Keeps.plain; (on_goal 1 => refine SndKeeps.of ?_ (by assumption)))
    | split

theorem execPoolMoveAbort_keeps {r s : State} (i : Nat) (readable : Bool) (h : Keeps r s) :
    OutKeeps r (execPoolMoveAbort i readable s) := by
  unfold execPoolMoveAbort
  repeat' first
    | with_reducible assumption
    | (lift_lets -underBinder; with_reducible intro x; with_reducible refine with_fact (a := Keeps r x) ?_ ?_; (on_goal 1 => unfold x); (on_goal 2 => (intro hx; clear_value x)))
    | with_reducible apply OutKeeps.next
    | with_reducible apply State.lineLost_keeps
    | with_reducible apply State.dropMoves_keeps
    | with_reducible apply Keeps.ite
    | split

theorem State.bridleMove_keeps {r s : State} (f : BridleIn) (send : Nat) (recv : Nat) (w : W64) (h : Keeps r s) :
    Keeps r (State.bridleMove s f send recv w) := by
  unfold State.bridleMove
  repeat' first
    | with_reducible assumption
    | with_reducible intro x
    | with_reducible apply Keeps.ite
    | (with_reducible apply Keeps.plain; · with_reducible assumption)

theorem State.bridleKeep_keeps {r s : State} (f : BridleIn) (send : Nat) (w : W64) (h : Keeps r s) :
    Keeps r (State.bridleKeep s f send w) := by
  unfold State.bridleKeep
  repeat' first
    | with_reducible assumption
    | with_reducible intro x
    | with_reducible apply Keeps.ite
    | (with_reducible apply Keeps.plain; · with_reducible assumption)

theorem State.bridleSend_keeps {r s : State} (link : Nat) (dir : Bool) (f : BridleIn) (w : W64) (h : Keeps r s) :
    Keeps r (State.bridleSend s link dir f w) := by
  unfold State.bridleSend
  repeat' first
    | with_reducible assumption
    | with_reducible intro x
    | with_reducible apply Keeps.ite
    | (with_reducible apply Keeps.plain; · with_reducible assumption)

theorem State.setRun_keeps {r s : State} (key : Nat) (n : Nat) (h : Keeps r s) :
    Keeps r (State.setRun s key n) := by
  unfold State.setRun
  repeat' first
    | with_reducible assumption
    | with_reducible intro x
    | (with_reducible apply Keeps.plain; · with_reducible assumption)

theorem execBridleFlit_keeps {r s : State} (link : Fin 18) (dir : Bool) (f : BridleIn) (crc : Bool) (h : Keeps r s) :
    OutKeeps r (execBridleFlit link dir f crc s) := by
  unfold execBridleFlit
  repeat' first
    | with_reducible assumption
    | (with_reducible intro x)
    | (lift_lets -underBinder; with_reducible intro x; first
        | (with_reducible refine with_fact (a := Keeps r x) ?_ ?_; (on_goal 1 => unfold x); (on_goal 2 => (intro hx; clear_value x)))
        | skip)
    | with_reducible apply OutKeeps.next
    | with_reducible apply State.halt_keeps
    | with_reducible apply State.bridleMove_keeps
    | with_reducible apply State.bridleKeep_keeps
    | with_reducible apply State.bridleSend_keeps
    | with_reducible apply State.setRun_keeps
    | with_reducible apply Keeps.ite
    | with_reducible apply OutKeeps.ite
    | (with_reducible apply Keeps.plain; · with_reducible assumption)
    | split

theorem State.swapIn_keeps {r s : State} (t : Nat) (h : Keeps r s) :
    Keeps r (State.swapIn s t) := by
  unfold State.swapIn
  repeat' first
    | with_reducible assumption
    | with_reducible intro x
    | with_reducible apply State.updTarget_keeps

theorem State.ownRun_keeps {r s : State} (granule : Nat) (n : Nat) (own : BitVec 16) (h : Keeps r s) :
    Keeps r (State.ownRun s granule n own) := by
  unfold State.ownRun
  repeat' first
    | with_reducible assumption
    | with_reducible intro x
    | with_reducible apply State.updTarget_keeps
    | with_reducible apply State.swapIn_keeps
    | with_reducible apply Keeps.foldl
    | split

theorem State.setOwn_keeps {r s : State} (granule : Nat) (own : BitVec 16) (h : Keeps r s) :
    Keeps r (State.setOwn s granule own) := by
  unfold State.setOwn
  repeat' first
    | with_reducible assumption
    | with_reducible intro x
    | with_reducible apply State.ownRun_keeps

theorem State.setInits_keeps {r s : State} (is : List Nat) (e : InitEntry) (h : Keeps r s) :
    Keeps r (State.setInits s is e) := by
  unfold State.setInits
  repeat' first
    | with_reducible assumption
    | with_reducible intro x
    | with_reducible apply State.updTarget_keeps
    | with_reducible apply State.swapIn_keeps
    | with_reducible apply Keeps.foldl

theorem State.dropGrants_keeps {r s : State} (c : Nat) (h : Keeps r s) :
    Keeps r (State.dropGrants s c) := by
  unfold State.dropGrants
  repeat' first
    | with_reducible assumption
    | with_reducible intro x
    | with_reducible apply State.updFence_keeps
    | with_reducible apply Keeps.ite
    | with_reducible apply Keeps.foldl

theorem State.ctxGone_keeps {r s : State} (c : Nat) (h : Keeps r s) :
    Keeps r (State.ctxGone s c) := by
  unfold State.ctxGone
  repeat' first
    | with_reducible assumption
    | (with_reducible intro x; first
        | (with_reducible refine with_fact (a := Keeps r x) ?_ ?_; (on_goal 1 => unfold x); (on_goal 2 => (intro hx; clear_value x))))
    | (lift_lets -underBinder; with_reducible intro x)
    | with_reducible apply State.dropJob_keeps
    | with_reducible apply State.dropGrants_keeps
    | with_reducible apply Keeps.ite
    | (with_reducible apply Keeps.plain; · with_reducible assumption)

theorem State.wipeGranule_keeps {r s : State} (g : Nat) (h : Keeps r s) :
    Keeps r (State.wipeGranule s g) := by
  unfold State.wipeGranule
  repeat' first
    | with_reducible assumption
    | (with_reducible intro x; first
        | (with_reducible refine with_fact (a := Keeps r x) ?_ ?_; (on_goal 1 => unfold x); (on_goal 2 => (intro hx; clear_value x))))
    | (lift_lets -underBinder; with_reducible intro x; first
        | (with_reducible refine with_fact (a := Keeps r x) ?_ ?_; (on_goal 1 => unfold x); (on_goal 2 => (intro hx; clear_value x))))
    | with_reducible apply State.bumpAt_keeps
    | with_reducible apply State.bump_keeps
    | with_reducible apply State.markDirty_keeps
    | with_reducible apply State.wipeBytes_keeps
    | with_reducible apply Keeps.ite
    | with_reducible apply Keeps.foldl
    | (with_reducible apply Keeps.plain; · with_reducible assumption)
    | split

theorem State.donationGone_keeps {r s : State} (r1 : Nat) (h : Keeps r s) :
    Keeps r (State.donationGone s r1) := by
  unfold State.donationGone
  repeat' first
    | with_reducible assumption
    | with_reducible apply State.completeAll_keeps
    | with_reducible apply Keeps.ite
    | (with_reducible apply Keeps.plain; · with_reducible assumption)

theorem execGranuleScrub_keeps {r s : State} (granule : Nat) (h : Keeps r s) :
    OutKeeps r (execGranuleScrub granule s) := by
  unfold execGranuleScrub
  repeat' first
    | with_reducible assumption
    | (lift_lets -underBinder; with_reducible intro x; with_reducible refine with_fact (a := Keeps r x) ?_ ?_; (on_goal 1 => unfold x); (on_goal 2 => (intro hx; clear_value x)))
    | (with_reducible intro x; with_reducible refine with_fact (a := Keeps r x) ?_ ?_; (on_goal 1 => unfold x); (on_goal 2 => (intro hx; clear_value x)))
    | with_reducible apply OutKeeps.next
    | with_reducible apply State.drawKey_keeps
    | with_reducible apply State.keyRefused_keeps
    | with_reducible apply State.setOwn_keeps
    | with_reducible apply State.ctxGone_keeps
    | with_reducible apply State.wipeGranule_keeps
    | with_reducible apply State.donationGone_keeps
    | with_reducible apply Keeps.ite
    | (with_reducible apply Keeps.plain; · with_reducible assumption)
    | (with_reducible apply Keeps.plain; (on_goal 1 => refine OptSndKeeps.of ?_ (by assumption)))
    | split

theorem State.moveLine_keeps {r s : State} (t : Nat) (da : Nat) (h : Keeps r s) :
    Keeps r (State.moveLine s t da) := by
  unfold State.moveLine
  repeat' first
    | with_reducible assumption
    | with_reducible intro x
    | with_reducible apply State.bumpAt_keeps
    | with_reducible apply State.bump_keeps
    | with_reducible apply State.markDirty_keeps
    | with_reducible apply Keeps.ite
    | (with_reducible apply Keeps.plain; · with_reducible assumption)

theorem execRekeyLine_keeps {r s : State} (t : Fin 13) (health : Health) (h : Keeps r s) :
    OutKeeps r (execRekeyLine t health s) := by
  unfold execRekeyLine
  repeat' first
    | with_reducible assumption
    | (with_reducible intro x; first
        | (with_reducible refine with_fact (a := Keeps r x) ?_ ?_; (on_goal 1 => unfold x); (on_goal 2 => (intro hx; clear_value x)))
        | (with_reducible refine with_fact (a := SndKeeps r x) ?_ ?_; (on_goal 1 => unfold x); (on_goal 2 => (intro hx; clear_value x)))
        | skip)
    | (lift_lets -underBinder; with_reducible intro x)
    | with_reducible apply OutKeeps.next
    | with_reducible apply SndKeeps.mk
    | with_reducible apply State.putUnits_keeps
    | with_reducible apply State.putLine_keeps
    | with_reducible refine SndKeeps.snd (State.checkLine_keeps (h := ?_) ..)
    | with_reducible apply State.checkLine_keeps
    | with_reducible apply State.moveLine_keeps
    | with_reducible apply Keeps.ite
    | with_reducible apply SndKeeps.ite
    | with_reducible apply OutKeeps.ite
    | with_reducible apply OptKeeps.getD
    | (with_reducible apply Keeps.plain; · with_reducible assumption)
    | (with_reducible apply Keeps.plain; (on_goal 1 => refine SndKeeps.of ?_ (by assumption)))
    | refine SndKeeps.of ?_ (by assumption)
    | with_reducible exact SndKeeps.snd (by assumption)
    | with_reducible exact SndKeeps.mk_keep (by assumption)
    | split

theorem execRekeyJobComplete_keeps {r s : State} (t : Fin 13) (h : Keeps r s) :
    OutKeeps r (execRekeyJobComplete t s) := by
  unfold execRekeyJobComplete
  repeat' first
    | with_reducible assumption
    | with_reducible intro x
    | with_reducible apply OutKeeps.next
    | with_reducible apply State.updCtx_keeps
    | with_reducible apply State.startJob_keeps
    | with_reducible apply State.purge_keeps
    | with_reducible apply Keeps.ite
    | with_reducible apply OutKeeps.ite
    | (with_reducible apply Keeps.plain; · with_reducible assumption)

end Sys2Proof.Machine
end

