-- ==== Sys2Proof/Laws/KeepKeys.lean ====
section
/-! SUPPORT. What the operations of Machine/Keys.lean keep. -/

namespace Sys2Proof.Machine

theorem State.fillSlot_keeps {r s : State} (i : Nat) (k : KSlot) (value : BitVec 256) (h : Keeps r s) :
    Keeps r (State.fillSlot s i k value) := by
  unfold State.fillSlot
  repeat' first
    | with_reducible assumption
    | with_reducible intro x
    | with_reducible apply SndKeeps.mk
    | with_reducible apply State.updKslot_keeps
    | with_reducible refine SndKeeps.snd (State.mask_keeps (h := ?_) ..)

theorem State.takeJob_keeps {r s : State} (chd : BitVec 256) (h : Keeps r s) :
    OptSndKeeps r (State.takeJob s chd) := by
  unfold State.takeJob
  repeat' first
    | with_reducible assumption
    | with_reducible intro x
    | with_reducible apply OptSndKeeps.none
    | with_reducible apply OptSndKeeps.some
    | with_reducible apply State.fillSlot_keeps
    | with_reducible apply Keeps.ite
    | with_reducible apply OptSndKeeps.ite
    | with_reducible apply OptKeeps.map
    | with_reducible apply OptSndKeeps.map_of
    | with_reducible apply OptSndKeeps.map
    | refine OptSndKeeps.of ?_ (by assumption)
    | with_reducible exact OptSndKeeps.some_keep (by assumption)
    | split

theorem execKslotQuery_keeps {r s : State} (c : MbxCall) (h : Keeps r s) :
    OutKeeps r (execKslotQuery c s) := by
  unfold execKslotQuery
  repeat' first
    | with_reducible assumption
    | with_reducible intro x
    | with_reducible apply OutKeeps.next
    | with_reducible apply FstKeeps.mk
    | with_reducible apply mailbox_keeps

theorem execSecStat_keeps {r s : State} (c : MbxCall) (h : Keeps r s) :
    OutKeeps r (execSecStat c s) := by
  unfold execSecStat
  repeat' first
    | with_reducible assumption
    | with_reducible intro x
    | with_reducible apply OutKeeps.next
    | with_reducible apply FstKeeps.mk
    | with_reducible apply mailbox_keeps

theorem State.remask_keeps {r s : State} (h : Keeps r s) :
    Keeps r (State.remask s) := by
  unfold State.remask
  dsimp only
  split
  · exact Keeps.plain h
  · rename_i t e
    refine Keeps.plain (OptKeeps.of ?_ e)
    refine OptKeeps.foldl (fun x p hx => OptKeeps.bind hx fun t ht => ?_) _
      (OptKeeps.foldl (fun x p hx => OptKeeps.bind hx fun t ht => ?_) _
        (OptKeeps.foldl (fun x p hx => OptKeeps.bind hx fun t ht => ?_) _ (OptKeeps.some h)))
    · exact OptKeeps.map_snd (State.drawKey_keeps _ ht) fun d hd => State.updPort_keeps _ _ hd
    · exact OptKeeps.map_snd (State.drawKey_keeps _ ht) fun d hd => Keeps.plain hd
    · exact OptKeeps.map_snd (State.drawKey_keeps _ ht) fun d hd => State.updKslot_keeps _ _ hd

theorem execKeyRemask_keeps {r s : State} (h : Keeps r s) :
    OutKeeps r (execKeyRemask s) := by
  unfold execKeyRemask
  repeat' first
    | with_reducible assumption
    | with_reducible apply OutKeeps.next
    | with_reducible apply State.remask_keeps
    | with_reducible apply Keeps.ite

theorem execRemaskRetry_keeps {r s : State} (h : Keeps r s) :
    OutKeeps r (execRemaskRetry s) := by
  unfold execRemaskRetry
  repeat' first
    | with_reducible assumption
    | with_reducible apply OutKeeps.next
    | with_reducible apply State.remask_keeps
    | with_reducible apply Keeps.ite

theorem execRemaskStarvation_keeps {r s : State} (h : Keeps r s) :
    OutKeeps r (execRemaskStarvation s) := by
  unfold execRemaskStarvation
  repeat' first
    | with_reducible assumption
    | with_reducible apply OutKeeps.next
    | with_reducible apply State.halt_keeps
    | with_reducible apply Keeps.ite

theorem execSlotSweep_keeps {r s : State} (slot : Fin 64) (h : Keeps r s) :
    OutKeeps r (execSlotSweep slot s) := by
  unfold execSlotSweep
  repeat' first
    | with_reducible assumption
    | with_reducible apply OutKeeps.next
    | with_reducible apply State.invalidate_keeps
    | with_reducible apply Keeps.ite

theorem execEphemExpiry_keeps {r s : State} (slot : Fin 64) (h : Keeps r s) :
    OutKeeps r (execEphemExpiry slot s) := by
  unfold execEphemExpiry
  repeat' first
    | with_reducible assumption
    | (lift_lets -underBinder; with_reducible intro x; with_reducible refine with_fact (a := Keeps r x) ?_ ?_; (on_goal 1 => unfold x); (on_goal 2 => (intro hx; clear_value x)))
    | with_reducible intro x
    | with_reducible apply OutKeeps.next
    | with_reducible apply State.invalidate_keeps
    | with_reducible apply Keeps.ite
    | (with_reducible apply Keeps.plain; · with_reducible assumption)

theorem execDrbgReseed_keeps {r s : State} (sampling : Bool) (h : Keeps r s) :
    OutKeeps r (execDrbgReseed sampling s) := by
  unfold execDrbgReseed
  repeat' first
    | (lift_lets -underBinder; with_reducible intro x)
    | with_reducible apply OutKeeps.next
    | with_reducible apply Keeps.ite
    | (with_reducible apply Keeps.plain; · with_reducible assumption)

theorem execEntropyFailure_keeps {r s : State} (h : Keeps r s) :
    OutKeeps r (execEntropyFailure s) := by
  unfold execEntropyFailure
  repeat' first
    | with_reducible assumption
    | (lift_lets -underBinder; with_reducible intro x)
    | with_reducible apply OutKeeps.next
    | with_reducible refine SndKeeps.snd (State.free_keeps (h := ?_) ..)
    | with_reducible apply State.record_keeps
    | with_reducible apply Keeps.ite
    | (with_reducible apply Keeps.plain; · with_reducible assumption)

end Sys2Proof.Machine
end

