-- ==== Sys2Proof/Laws/KeepContexts.lean ====
section
/-! SUPPORT. What the operations of Machine/Contexts.lean keep. -/

namespace Sys2Proof.Machine

theorem execCtxCreate_keeps {r s : State} (c : MbxCall) (h : Keeps r s) :
    OutKeeps r (execCtxCreate c s) := by
  unfold execCtxCreate
  repeat' first
    | with_reducible assumption
    | with_reducible intro x
    | with_reducible apply OutKeeps.next
    | with_reducible apply FstKeeps.mk
    | with_reducible apply mailbox_keeps
    | with_reducible apply State.takeJob_keeps
    | (with_reducible apply Keeps.plain; (on_goal 1 => refine OptSndKeeps.of ?_ (by assumption)))
    | split

theorem State.setCtxState_keeps {r s : State} (c : Nat) (st : CtxState) (h : Keeps r s) :
    Keeps r (State.setCtxState s c st) := by
  unfold State.setCtxState
  repeat' first
    | with_reducible assumption
    | with_reducible apply State.updCtx_keeps
    | with_reducible apply State.putStatus_keeps

theorem execSlotIn_keeps {r s : State} (c : MbxCall) (h : Keeps r s) :
    OutKeeps r (execSlotIn c s) := by
  unfold execSlotIn
  repeat' first
    | with_reducible assumption
    | (lift_lets -underBinder; with_reducible intro x)
    | with_reducible intro x
    | with_reducible apply OutKeeps.next
    | with_reducible apply FstKeeps.mk
    | with_reducible apply State.updCtx_keeps
    | with_reducible apply mailbox_keeps
    | with_reducible apply State.setCtxState_keeps
    | (with_reducible apply Keeps.plain; · with_reducible assumption)
    | split

theorem State.freeSlot_keeps {r s : State} (c : Nat) (h : Keeps r s) :
    Keeps r (State.freeSlot s c) := by
  unfold State.freeSlot
  repeat' first
    | with_reducible assumption
    | with_reducible apply State.updCtx_keeps
    | (with_reducible apply Keeps.plain; · with_reducible assumption)
    | split

theorem State.slotLeave_keeps {r s : State} (c : Nat) (h : Keeps r s) :
    Keeps r (State.slotLeave s c) := by
  unfold State.slotLeave
  repeat' first
    | with_reducible assumption
    | with_reducible apply State.setCtxState_keeps
    | with_reducible apply State.freeSlot_keeps

theorem State.slotOutCheck_keeps {r s : State} (c : Nat) (h : Keeps r s) :
    Keeps r (State.slotOutCheck s c) := by
  unfold State.slotOutCheck
  repeat' first
    | with_reducible assumption
    | with_reducible apply State.completeAll_keeps
    | with_reducible apply State.slotLeave_keeps
    | with_reducible apply Keeps.ite

theorem execSlotOut_keeps {r s : State} (c : MbxCall) (h : Keeps r s) :
    OutKeeps r (execSlotOut c s) := by
  unfold execSlotOut
  repeat' first
    | with_reducible assumption
    | (lift_lets -underBinder; with_reducible intro x)
    | with_reducible intro x
    | with_reducible apply OutKeeps.next
    | with_reducible apply FstKeeps.mk
    | with_reducible apply mailbox_keeps
    | with_reducible apply State.slotLeave_keeps
    | split

theorem execSlotOutTimeout_keeps {r s : State} (chan : Fin 8) (h : Keeps r s) :
    OutKeeps r (execSlotOutTimeout chan s) := by
  unfold execSlotOutTimeout
  repeat' first
    | with_reducible assumption
    | with_reducible apply OutKeeps.next
    | with_reducible apply State.complete_keeps
    | split

theorem execQueueCreate_keeps {r s : State} (c : MbxCall) (h : Keeps r s) :
    OutKeeps r (execQueueCreate c s) := by
  unfold execQueueCreate
  repeat' first
    | with_reducible assumption
    | (lift_lets -underBinder; with_reducible intro x)
    | with_reducible intro x
    | with_reducible apply OutKeeps.next
    | with_reducible apply FstKeeps.mk
    | with_reducible apply State.updCtx_keeps
    | with_reducible apply mailbox_keeps
    | split

theorem execCtxWdt_keeps {r s : State} (c : MbxCall) (h : Keeps r s) :
    OutKeeps r (execCtxWdt c s) := by
  unfold execCtxWdt
  repeat' first
    | with_reducible assumption
    | with_reducible intro x
    | with_reducible apply OutKeeps.next
    | with_reducible apply FstKeeps.mk
    | with_reducible apply State.updCtx_keeps
    | with_reducible apply mailbox_keeps

theorem execCtxRekey_keeps {r s : State} (c : MbxCall) (h : Keeps r s) :
    OutKeeps r (execCtxRekey c s) := by
  unfold execCtxRekey
  repeat' first
    | with_reducible assumption
    | with_reducible intro x
    | with_reducible apply OutKeeps.next
    | with_reducible apply FstKeeps.mk
    | with_reducible apply State.queueRekey_keeps
    | with_reducible apply State.keyRefused_keeps
    | with_reducible apply mailbox_keeps
    | split

theorem execFenceAlloc_keeps {r s : State} (c : MbxCall) (h : Keeps r s) :
    OutKeeps r (execFenceAlloc c s) := by
  unfold execFenceAlloc
  repeat' first
    | with_reducible assumption
    | with_reducible intro x
    | with_reducible apply OutKeeps.next
    | with_reducible apply FstKeeps.mk
    | with_reducible apply State.updFence_keeps
    | with_reducible apply mailbox_keeps
    | split

theorem execFenceReset_keeps {r s : State} (c : MbxCall) (h : Keeps r s) :
    OutKeeps r (execFenceReset c s) := by
  unfold execFenceReset
  repeat' first
    | with_reducible assumption
    | (lift_lets -underBinder; with_reducible intro x)
    | with_reducible intro x
    | with_reducible apply OutKeeps.next
    | with_reducible apply FstKeeps.mk
    | with_reducible apply State.updFence_keeps
    | with_reducible apply mailbox_keeps
    | split

theorem execFenceShare_keeps {r s : State} (c : MbxCall) (h : Keeps r s) :
    OutKeeps r (execFenceShare c s) := by
  unfold execFenceShare
  repeat' first
    | with_reducible assumption
    | (lift_lets -underBinder; with_reducible intro x)
    | with_reducible intro x
    | with_reducible apply OutKeeps.next
    | with_reducible apply FstKeeps.mk
    | with_reducible apply State.updFence_keeps
    | with_reducible apply mailbox_keeps
    | split

theorem execFenceUnshare_keeps {r s : State} (c : MbxCall) (h : Keeps r s) :
    OutKeeps r (execFenceUnshare c s) := by
  unfold execFenceUnshare
  repeat' first
    | with_reducible assumption
    | (lift_lets -underBinder; with_reducible intro x)
    | with_reducible intro x
    | with_reducible apply OutKeeps.next
    | with_reducible apply FstKeeps.mk
    | with_reducible apply State.updFence_keeps
    | with_reducible apply mailbox_keeps
    | split

theorem execDevevtSet_keeps {r s : State} (c : MbxCall) (h : Keeps r s) :
    OutKeeps r (execDevevtSet c s) := by
  unfold execDevevtSet
  repeat' first
    | with_reducible assumption
    | with_reducible intro x
    | with_reducible apply OutKeeps.next
    | with_reducible apply FstKeeps.mk
    | with_reducible apply mailbox_keeps
    | (with_reducible apply Keeps.plain; · with_reducible assumption)

theorem execCntRead_keeps {r s : State} (c : MbxCall) (h : Keeps r s) :
    OutKeeps r (execCntRead c s) := by
  unfold execCntRead
  repeat' first
    | with_reducible assumption
    | (lift_lets -underBinder; with_reducible intro x)
    | with_reducible intro x
    | with_reducible apply OutKeeps.next
    | with_reducible apply FstKeeps.mk
    | with_reducible apply mailbox_keeps

theorem State.query_keeps {r s : State} (code obj : Nat) (w1 w2 : W64) (h : Keeps r s) :
    FstKeeps r (State.query s code obj w1 w2) := by
  unfold State.query
  repeat' first
    | with_reducible assumption
    | with_reducible apply FstKeeps.mk
    | with_reducible refine SndKeeps.snd (State.free_keeps (h := ?_) ..)
    | split

theorem execQuery_keeps {r s : State} (c : MbxCall) (h : Keeps r s) :
    OutKeeps r (execQuery c s) := by
  unfold execQuery
  repeat' first
    | with_reducible assumption
    | with_reducible intro x
    | with_reducible apply OutKeeps.next
    | with_reducible apply FstKeeps.mk
    | with_reducible apply mailbox_keeps
    | with_reducible refine FstKeeps.fst (State.query_keeps (h := ?_) ..)

end Sys2Proof.Machine
end

