-- ==== Sys2Proof/Laws/KeepPackets.lean ====
section
/-! SUPPORT. What the operations of Machine/Packets.lean keep. -/

namespace Sys2Proof.Machine

theorem State.consume_keeps {r s : State} (c qn : Nat) (w : List W64) (h : Keeps r s) :
    Keeps r (State.consume s c qn w) := by
  unfold State.consume
  repeat' first
    | with_reducible assumption
    | (lift_lets -underBinder; with_reducible intro x)
    | (with_reducible intro x; first
        | (with_reducible refine with_fact (a := Keeps r x) ?_ ?_; (on_goal 1 => unfold x); (on_goal 2 => (intro hx; clear_value x)))
        | skip)
    | with_reducible apply State.updCtx_keeps
    | with_reducible apply State.event_keeps
    | with_reducible apply State.signal_keeps
    | with_reducible apply Keeps.ite

theorem State.begin_keeps {r s : State} (c : Nat) (qn : Nat) (opc : Nat) (w : List W64) (cores : List Nat) (h : Keeps r s) :
    Keeps r (State.begin s c qn opc w cores) := by
  unfold State.begin
  repeat' first
    | with_reducible assumption
    | with_reducible intro x
    | with_reducible apply State.updCtx_keeps
    | with_reducible apply Keeps.ite
    | (with_reducible apply Keeps.plain; · with_reducible assumption)

theorem packet_keeps {r s : State} (p : Pkt) (opc : Nat) (unused : List Nat) (bad : Nat → State → Bool) (start : Nat → State → State) (h : Keeps r s) (g_start : ∀ x0 x1, Keeps r x1 → Keeps r (start x0 x1)) :
    Keeps r (packet p opc unused bad start s) := by
  unfold packet
  repeat' first
    | with_reducible assumption
    | (lift_lets -underBinder; with_reducible intro x)
    | with_reducible apply g_start
    | with_reducible apply State.updCtx_keeps
    | with_reducible apply State.lose_keeps
    | with_reducible apply State.consume_keeps
    | with_reducible apply Keeps.ite
    | split

theorem State.packetDone_keeps {r s : State} (c qn i : Nat) (x : Packet) (h : Keeps r s) :
    Keeps r (State.packetDone s c qn i x) := by
  unfold State.packetDone
  repeat' first
    | with_reducible assumption
    | (lift_lets -underBinder; with_reducible intro x; with_reducible refine with_fact (a := Keeps r x) ?_ ?_; (on_goal 1 => unfold x); (on_goal 2 => (intro hx; clear_value x)))
    | (with_reducible intro x; with_reducible refine with_fact (a := Keeps r x) ?_ ?_; (on_goal 1 => unfold x); (on_goal 2 => (intro hx; clear_value x)))
    | with_reducible apply State.updCtx_keeps
    | with_reducible apply State.event_keeps
    | with_reducible apply State.signal_keeps
    | with_reducible apply State.slotOutCheck_keeps
    | with_reducible apply Keeps.ite
    | split

theorem execNop_keeps {r s : State} (p : Pkt) (h : Keeps r s) :
    OutKeeps r (execNop p s) := by
  unfold execNop
  repeat' first
    | with_reducible assumption
    | (lift_lets -underBinder; with_reducible intro x)
    | (with_reducible intro x; first
        | (with_reducible refine with_fact (a := Keeps r x) ?_ ?_; (on_goal 1 => unfold x); (on_goal 2 => (intro hx; clear_value x)))
        | skip)
    | with_reducible apply OutKeeps.next
    | with_reducible apply State.begin_keeps
    | with_reducible apply packet_keeps
    | with_reducible apply State.packetDone_keeps
    | split

theorem Core.launch_keeps {r k : Core} (w : List W64) (h : CoreKeep r k) :
    CoreKeep r (Core.launch k w) := by
  unfold Core.launch
  repeat' first
    | with_reducible assumption
    | (lift_lets -underBinder; with_reducible intro x; with_reducible refine CoreKeep.via (x := x) ?_ ?_; (on_goal 1 => unfold x); (on_goal 2 => (intro hx; clear_value x)))
    | with_reducible apply CoreKeep.wr
    | (with_reducible apply CoreKeep.upd; · with_reducible assumption)

theorem execLaunch_keeps {r s : State} (p : Pkt) (h : Keeps r s) :
    OutKeeps r (execLaunch p s) := by
  unfold execLaunch
  repeat' first
    | with_reducible assumption
    | (lift_lets -underBinder; with_reducible intro x)
    | with_reducible intro x
    | with_reducible apply OutKeeps.next
    | with_reducible apply State.updCore_keeps
    | with_reducible apply State.begin_keeps
    | with_reducible apply packet_keeps
    | with_reducible apply Core.launch_keeps
    | with_reducible apply Keeps.foldl

theorem execStop_keeps {r s : State} (p : Pkt) (h : Keeps r s) :
    OutKeeps r (execStop p s) := by
  unfold execStop
  repeat' first
    | with_reducible assumption
    | (lift_lets -underBinder; with_reducible intro x)
    | with_reducible intro x
    | with_reducible apply OutKeeps.next
    | with_reducible apply State.updCore_keeps
    | with_reducible apply State.tryStop_keeps
    | with_reducible apply State.begin_keeps
    | with_reducible apply packet_keeps
    | with_reducible apply Keeps.ite
    | with_reducible apply Keeps.foldl
    | (with_reducible apply CoreKeep.upd; · with_reducible assumption)

theorem execCopy_keeps {r s : State} (p : Pkt) (h : Keeps r s) :
    OutKeeps r (execCopy p s) := by
  unfold execCopy
  repeat' first
    | with_reducible assumption
    | with_reducible intro x
    | with_reducible apply OutKeeps.next
    | with_reducible apply State.begin_keeps
    | with_reducible apply packet_keeps

theorem execStamp_keeps {r s : State} (p : Pkt) (h : Keeps r s) :
    OutKeeps r (execStamp p s) := by
  unfold execStamp
  repeat' first
    | with_reducible assumption
    | with_reducible intro x
    | with_reducible apply OutKeeps.next
    | with_reducible apply State.begin_keeps
    | with_reducible apply packet_keeps

theorem State.doCopy_keeps {r s : State} (c src dst n : Nat) (h : Keeps r s) :
    ResKeeps r (State.doCopy s c src dst n) := by
  unfold State.doCopy
  repeat' first
    | with_reducible assumption
    | with_reducible intro x
    | with_reducible apply ResKeeps.ok
    | with_reducible apply ResKeeps.lost
    | with_reducible apply State.locateAll_keeps
    | with_reducible apply State.readVa_keeps
    | with_reducible apply State.writePieces_keeps
    | with_reducible apply ResKeeps.bind
    | with_reducible apply ResKeeps.ite

theorem State.packetEnd_keeps {r s : State} (c : Nat) (x : Packet) (h : Keeps r s) :
    OptResKeeps r (State.packetEnd s c x) := by
  unfold State.packetEnd
  repeat' first
    | with_reducible assumption
    | with_reducible apply ResKeeps.ok
    | with_reducible apply OptResKeeps.none
    | with_reducible apply OptResKeeps.some
    | with_reducible apply OptResKeeps.ite
    | with_reducible apply State.writeVa_keeps
    | with_reducible apply State.doCopy_keeps
    | split

theorem execPacketComplete_keeps {r s : State} (slot : Fin 48) (queue : Fin 16) (i : Fin 4) (h : Keeps r s) :
    OutKeeps r (execPacketComplete slot queue i s) := by
  unfold execPacketComplete
  repeat' first
    | with_reducible assumption
    | (lift_lets -underBinder; with_reducible intro x; first
        | (with_reducible refine with_fact (a := Keeps r x) ?_ ?_; (on_goal 1 => unfold x); (on_goal 2 => (intro hx; clear_value x)))
        | skip)
    | with_reducible intro x
    | with_reducible apply OutKeeps.next
    | with_reducible apply State.settle_keeps
    | with_reducible apply State.tryStop_keeps
    | with_reducible apply State.packetDone_keeps
    | with_reducible apply State.packetEnd_keeps
    | with_reducible apply Keeps.ite
    | with_reducible apply Keeps.foldl
    | refine OptResKeeps.of ?_ (by assumption)
    | split

theorem execQueueTimeout_keeps {r s : State} (slot : Fin 48) (queue : Fin 16) (h : Keeps r s) :
    OutKeeps r (execQueueTimeout slot queue s) := by
  unfold execQueueTimeout
  repeat' first
    | with_reducible assumption
    | (lift_lets -underBinder; with_reducible intro x)
    | with_reducible apply OutKeeps.next
    | with_reducible apply State.lose_keeps
    | with_reducible apply Keeps.ite
    | split

theorem State.ignoredWrite_keeps {r s : State} (c : Nat) (h : Keeps r s) :
    Keeps r (State.ignoredWrite s c) := by
  unfold State.ignoredWrite
  repeat' first
    | with_reducible assumption
    | with_reducible apply State.updCtx_keeps

theorem State.doorbell_keeps {r s : State} (slot size : Nat) (val : W64) (f : Nat → BitVec 32 → State → State) (h : Keeps r s) (g_f : ∀ x0 x1 x2, Keeps r x2 → Keeps r (f x0 x1 x2)) :
    Keeps r (State.doorbell s slot size val f) := by
  unfold State.doorbell
  repeat' first
    | with_reducible assumption
    | with_reducible apply g_f
    | with_reducible apply State.badAcc_keeps
    | with_reducible apply State.rsvWrite_keeps
    | with_reducible apply Keeps.ite
    | split

theorem execTail_keeps {r s : State} (slot : Fin 48) (queue : Fin 16) (size : Fin 9) (val : W64) (h : Keeps r s) :
    OutKeeps r (execTail slot queue size val s) := by
  unfold execTail
  repeat' first
    | with_reducible assumption
    | (lift_lets -underBinder; with_reducible intro x)
    | with_reducible intro x
    | with_reducible apply OutKeeps.next
    | with_reducible apply State.updCtx_keeps
    | with_reducible apply State.lose_keeps
    | with_reducible apply State.ignoredWrite_keeps
    | with_reducible apply State.doorbell_keeps
    | with_reducible apply Keeps.ite

theorem execFsigv_keeps {r s : State} (slot : Fin 48) (size : Fin 9) (val : W64) (h : Keeps r s) :
    OutKeeps r (execFsigv slot size val s) := by
  unfold execFsigv
  repeat' first
    | with_reducible assumption
    | with_reducible apply OutKeeps.next
    | with_reducible apply State.badAcc_keeps
    | with_reducible apply State.signal_keeps
    | with_reducible apply State.ignoredWrite_keeps
    | with_reducible apply Keeps.ite
    | split

theorem execEvhead_keeps {r s : State} (slot : Fin 48) (size : Fin 9) (val : W64) (h : Keeps r s) :
    OutKeeps r (execEvhead slot size val s) := by
  unfold execEvhead
  repeat' first
    | with_reducible assumption
    | (lift_lets -underBinder; with_reducible intro x)
    | with_reducible intro x
    | with_reducible apply OutKeeps.next
    | exact Ring.flush_keeps _ _ _
    | with_reducible apply State.putRing_keeps
    | with_reducible apply State.doorbell_keeps

theorem execMsixMessage_keeps {r s : State} (vector : Fin 2048) (h : Keeps r s) :
    OutKeeps r (execMsixMessage vector s) := by
  unfold execMsixMessage
  repeat' first
    | with_reducible assumption
    | (lift_lets -underBinder; with_reducible intro x)
    | with_reducible intro x
    | with_reducible apply OutKeeps.next
    | with_reducible apply Keeps.ite
    | (with_reducible apply Keeps.plain; · with_reducible assumption)

end Sys2Proof.Machine
end

