-- ==== Sys2Proof/Laws/KeepTables.lean ====
section
/-! SUPPORT. What the operations of Machine/Tables.lean keep. -/

namespace Sys2Proof.Machine

theorem execGrant_keeps {r s : State} (c : MbxCall) (h : Keeps r s) :
    OutKeeps r (execGrant c s) := by
  unfold execGrant
  repeat' first
    | with_reducible assumption
    | with_reducible intro x
    | with_reducible apply OutKeeps.next
    | with_reducible apply FstKeeps.mk
    | with_reducible apply State.wipeBytes_keeps
    | with_reducible apply mailbox_keeps
    | with_reducible apply State.ownRun_keeps
    | with_reducible apply Keeps.ite
    | with_reducible apply FstKeeps.ite
    | with_reducible apply OutKeeps.ite
    | split

theorem State.newTable_keeps {r s : State} (c size : Nat) (h : Keeps r s) :
    OptSndKeeps r (State.newTable s c size) := by
  unfold State.newTable
  repeat' first
    | with_reducible assumption
    | (lift_lets -underBinder; with_reducible intro x)
    | with_reducible intro x
    | with_reducible apply State.updCtx_keeps
    | with_reducible apply State.writeDa_keeps
    | with_reducible apply OptSndKeeps.map

theorem State.tableAt_keeps {r s : State} (c a size : Nat) (h : Keeps r s) :
    OptSndKeeps r (State.tableAt s c a size) := by
  unfold State.tableAt
  repeat' first
    | with_reducible assumption
    | (lift_lets -underBinder; with_reducible intro x)
    | with_reducible intro x
    | with_reducible apply OptSndKeeps.some
    | with_reducible apply State.putPte_keeps
    | with_reducible apply State.newTable_keeps
    | with_reducible apply OptSndKeeps.ite
    | with_reducible apply OptSndKeeps.map_of

theorem State.leafSlot_keeps {r s : State} (c va : Nat) (big : Bool) (h : Keeps r s) :
    OptSndKeeps r (State.leafSlot s c va big) := by
  unfold State.leafSlot
  repeat' first
    | with_reducible assumption
    | (lift_lets -underBinder; with_reducible intro x; first
        | (with_reducible refine with_fact (a := OptSndKeeps r x) ?_ ?_; (on_goal 1 => unfold x); (on_goal 2 => (intro hx; clear_value x)))
        | skip)
    | with_reducible intro x
    | with_reducible apply OptSndKeeps.some
    | with_reducible apply State.updCtx_keeps
    | with_reducible apply State.newTable_keeps
    | with_reducible apply State.tableAt_keeps
    | with_reducible apply Keeps.ite
    | with_reducible apply OptSndKeeps.ite
    | with_reducible apply OptSndKeeps.map_of
    | with_reducible apply OptSndKeeps.bind_of
    | split

theorem State.putLeaves_keeps {r p1 : State} (c : Nat) (big : Bool) (p0 : List (Nat × Nat)) (h : Keeps r p1) :
    OptKeeps r (State.putLeaves c big p0 p1) := by
  induction p0 generalizing p1 with
  | nil =>
      unfold State.putLeaves
      repeat' first
        | with_reducible assumption
        | with_reducible apply OptKeeps.some
  | cons y ys ih =>
      unfold State.putLeaves
      repeat' first
        | with_reducible assumption
        | with_reducible intro x
        | with_reducible apply ih
        | with_reducible apply State.putPte_keeps
        | with_reducible apply State.leafSlot_keeps
        | with_reducible apply OptKeeps.bind_snd

theorem State.chain_keeps {r s : State} (c : Nat) (a : List W64) (n : Nat) (h : Keeps r s) :
    Keeps r (State.chain s c a n) := by
  unfold State.chain
  repeat' first
    | with_reducible assumption
    | (lift_lets -underBinder; with_reducible intro x)
    | with_reducible apply State.updCtx_keeps

theorem State.freePages_keeps {r s : State} (l : List Nat) (h : Keeps r s) :
    Keeps r (State.freePages s l) := by
  unfold State.freePages
  repeat' (with_reducible apply Keeps.plain; · with_reducible assumption)

theorem State.removal_keeps {r s : State} (c : Nat) (free : List Nat) (h : Keeps r s) :
    FstKeeps r (State.removal s c free) := by
  unfold State.removal
  repeat' first
    | with_reducible assumption
    | with_reducible apply FstKeeps.mk
    | with_reducible apply State.freePages_keeps
    | split

theorem State.dropPages_keeps {r s : State} (c : Nat) (big : Bool) (vs : List Nat) (h : Keeps r s) :
    Keeps r (State.dropPages s c big vs) := by
  unfold State.dropPages
  repeat' first
    | with_reducible assumption
    | with_reducible apply State.dropTlb_keeps

theorem State.placePage_keeps {r s : State} (c vpn p : Nat) (h : Keeps r s) :
    Keeps r (State.placePage s c vpn p) := by
  unfold State.placePage
  repeat' first
    | with_reducible assumption
    | (lift_lets -underBinder; with_reducible intro x; with_reducible refine with_fact (a := Keeps r x) ?_ ?_; (on_goal 1 => unfold x); (on_goal 2 => (intro hx; clear_value x)))
    | with_reducible apply State.writeDa_keeps
    | (with_reducible apply Keeps.plain; · with_reducible assumption)

theorem State.mapKv_keeps {r p1 : State} (c perms : Nat) (p0 : List Nat) (h : Keeps r p1) :
    OptKeeps r (State.mapKv c perms p0 p1) := by
  induction p0 generalizing p1 with
  | nil =>
      unfold State.mapKv
      repeat' first
        | with_reducible assumption
        | with_reducible apply OptKeeps.some
  | cons y ys ih =>
      unfold State.mapKv
      repeat' first
        | with_reducible assumption
        | (with_reducible intro x)
        | with_reducible apply State.putLeaves_keeps
        | with_reducible apply State.placePage_keeps
        | with_reducible apply OptKeeps.bind
        | with_reducible apply OptKeeps.bind_of

theorem State.mapStatus_keeps {r s : State} (old : State) (c : Nat) (h : Keeps r s) : Keeps r (State.mapStatus old s c) := by
  unfold State.mapStatus
  exact Keeps.ite (State.putStatus_keeps _ h) h

theorem execMap_keeps {r s : State} (c : MbxCall) (h : Keeps r s) :
    OutKeeps r (execMap c s) := by
  unfold execMap
  repeat' first
    | with_reducible assumption
    | (lift_lets -underBinder; with_reducible intro x)
    | with_reducible intro x
    | with_reducible apply OutKeeps.next
    | with_reducible apply FstKeeps.mk
    | with_reducible apply mailbox_keeps
    | with_reducible apply State.putLeaves_keeps
    | with_reducible apply State.chain_keeps
    | with_reducible apply State.mapKv_keeps
    | with_reducible apply State.mapStatus_keeps
    | (with_reducible apply Keeps.plain; (on_goal 1 => refine OptKeeps.of ?_ (by assumption)))
    | split

theorem execUnmap_keeps {r s : State} (c : MbxCall) (h : Keeps r s) :
    OutKeeps r (execUnmap c s) := by
  unfold execUnmap
  repeat' first
    | with_reducible assumption
    | (lift_lets -underBinder; with_reducible intro x)
    | (with_reducible intro x; first
        | (with_reducible refine with_fact (a := Keeps r x) ?_ ?_; (on_goal 1 => unfold x); (on_goal 2 => (intro hx; clear_value x)))
        | skip)
    | with_reducible apply OutKeeps.next
    | with_reducible apply FstKeeps.mk
    | with_reducible apply mailbox_keeps
    | with_reducible apply State.putPte_keeps
    | with_reducible apply State.dropMoves_keeps
    | with_reducible apply State.chain_keeps
    | with_reducible refine FstKeeps.fst (State.removal_keeps (h := ?_) ..)
    | with_reducible apply State.dropPages_keeps
    | with_reducible apply Keeps.foldl
    | split

theorem State.setPerms_keeps {r s : State} (c perms : Nat) (vs : List Nat) (h : Keeps r s) :
    Keeps r (State.setPerms s c perms vs) := by
  unfold State.setPerms
  repeat' first
    | with_reducible assumption
    | with_reducible intro x
    | with_reducible apply State.putPte_keeps
    | with_reducible apply Keeps.foldl
    | split

theorem execProtect_keeps {r s : State} (c : MbxCall) (h : Keeps r s) :
    OutKeeps r (execProtect c s) := by
  unfold execProtect
  repeat' first
    | with_reducible assumption
    | (lift_lets -underBinder; with_reducible intro x)
    | (with_reducible intro x; first
        | (with_reducible refine with_fact (a := Keeps r x) ?_ ?_; (on_goal 1 => unfold x); (on_goal 2 => (intro hx; clear_value x)))
        | skip)
    | with_reducible apply OutKeeps.next
    | with_reducible apply FstKeeps.mk
    | with_reducible apply mailbox_keeps
    | with_reducible apply State.chain_keeps
    | with_reducible refine FstKeeps.fst (State.removal_keeps (h := ?_) ..)
    | with_reducible apply State.dropPages_keeps
    | with_reducible apply State.setPerms_keeps
    | split

theorem State.bindImage_keeps {r s : State} (c entry base len : Nat) (h : Keeps r s) :
    FstKeeps r (State.bindImage s c entry base len) := by
  unfold State.bindImage
  repeat' first
    | with_reducible assumption
    | (lift_lets -underBinder; with_reducible intro x)
    | with_reducible intro x
    | with_reducible apply FstKeeps.mk
    | with_reducible apply State.updCtx_keeps
    | split

theorem execProgramLoad_keeps {r s : State} (c : MbxCall) (h : Keeps r s) :
    OutKeeps r (execProgramLoad c s) := by
  unfold execProgramLoad
  repeat' first
    | with_reducible assumption
    | (lift_lets -underBinder; with_reducible intro x)
    | (with_reducible intro x; first
        | (with_reducible refine with_fact (a := Keeps r x) ?_ ?_; (on_goal 1 => unfold x); (on_goal 2 => (intro hx; clear_value x)))
        | skip)
    | with_reducible apply OutKeeps.next
    | with_reducible apply FstKeeps.mk
    | with_reducible apply mailbox_keeps
    | with_reducible apply State.putPte_keeps
    | with_reducible apply State.dropPages_keeps
    | with_reducible refine FstKeeps.fst (State.bindImage_keeps (h := ?_) ..)
    | with_reducible apply Keeps.ite
    | with_reducible apply Keeps.foldl
    | split

theorem execMapRequestComplete_keeps {r s : State} (chan : Fin 8) (h : Keeps r s) :
    OutKeeps r (execMapRequestComplete chan s) := by
  unfold execMapRequestComplete
  repeat' first
    | with_reducible assumption
    | with_reducible apply OutKeeps.next
    | with_reducible apply FstKeeps.mk
    | with_reducible apply State.complete_keeps
    | with_reducible apply State.freePages_keeps
    | with_reducible refine FstKeeps.fst (State.bindImage_keeps (h := ?_) ..)
    | with_reducible apply Keeps.ite
    | (with_reducible apply Keeps.plain; (on_goal 1 => refine FstKeeps.of ?_ (by assumption)))
    | split

theorem State.clearWindow_keeps {r s : State} (w : HWin) (h : Keeps r s) :
    Keeps r (State.clearWindow s w) := by
  unfold State.clearWindow
  repeat' first
    | with_reducible assumption
    | with_reducible apply Keeps.ite
    | (with_reducible apply Keeps.plain; · with_reducible assumption)

theorem execHwinSet_keeps {r s : State} (c : MbxCall) (h : Keeps r s) :
    OutKeeps r (execHwinSet c s) := by
  unfold execHwinSet
  repeat' first
    | with_reducible assumption
    | (lift_lets -underBinder; with_reducible intro x)
    | (with_reducible intro x; first
        | (with_reducible refine with_fact (a := Keeps r x) ?_ ?_; (on_goal 1 => unfold x); (on_goal 2 => (intro hx; clear_value x)))
        | skip)
    | with_reducible apply OutKeeps.next
    | with_reducible apply FstKeeps.mk
    | with_reducible apply State.updCtx_keeps
    | with_reducible apply mailbox_keeps
    | with_reducible refine FstKeeps.fst (State.removal_keeps (h := ?_) ..)
    | with_reducible apply State.clearWindow_keeps
    | (with_reducible apply Keeps.plain; · with_reducible assumption)
    | split

theorem execPoolmapSet_keeps {r s : State} (c : MbxCall) (h : Keeps r s) :
    OutKeeps r (execPoolmapSet c s) := by
  unfold execPoolmapSet
  repeat' first
    | with_reducible assumption
    | (lift_lets -underBinder; with_reducible intro x)
    | with_reducible intro x
    | with_reducible apply OutKeeps.next
    | with_reducible apply FstKeeps.mk
    | with_reducible apply mailbox_keeps
    | (with_reducible apply Keeps.plain; · with_reducible assumption)
    | split

theorem execDonate_keeps {r s : State} (c : MbxCall) (h : Keeps r s) :
    OutKeeps r (execDonate c s) := by
  unfold execDonate
  repeat' first
    | with_reducible assumption
    | (lift_lets -underBinder; with_reducible intro x)
    | (with_reducible intro x; first
        | (with_reducible refine with_fact (a := Keeps r x) ?_ ?_; (on_goal 1 => unfold x); (on_goal 2 => (intro hx; clear_value x)))
        | skip)
    | with_reducible apply OutKeeps.next
    | with_reducible apply FstKeeps.mk
    | with_reducible apply mailbox_keeps
    | with_reducible apply State.ownRun_keeps
    | (with_reducible apply Keeps.plain; · with_reducible assumption)
    | split

theorem execKvpoolSize_keeps {r s : State} (c : MbxCall) (h : Keeps r s) :
    OutKeeps r (execKvpoolSize c s) := by
  unfold execKvpoolSize
  repeat' first
    | with_reducible assumption
    | (lift_lets -underBinder; with_reducible intro x)
    | (with_reducible intro x; first
        | (with_reducible refine with_fact (a := Keeps r x) ?_ ?_; (on_goal 1 => unfold x); (on_goal 2 => (intro hx; clear_value x)))
        | skip)
    | with_reducible apply OutKeeps.next
    | with_reducible apply FstKeeps.mk
    | with_reducible apply mailbox_keeps
    | with_reducible apply State.setOwn_keeps
    | with_reducible apply Keeps.foldl
    | (with_reducible apply Keeps.plain; · with_reducible assumption)
    | split

theorem execKvRegion_keeps {r s : State} (c : MbxCall) (h : Keeps r s) :
    OutKeeps r (execKvRegion c s) := by
  unfold execKvRegion
  repeat' first
    | with_reducible assumption
    | (lift_lets -underBinder; with_reducible intro x)
    | with_reducible intro x
    | with_reducible apply OutKeeps.next
    | with_reducible apply FstKeeps.mk
    | with_reducible apply State.updCtx_keeps
    | with_reducible apply mailbox_keeps
    | split

theorem execApertureMap_keeps {r s : State} (c : MbxCall) (h : Keeps r s) :
    OutKeeps r (execApertureMap c s) := by
  unfold execApertureMap
  repeat' first
    | with_reducible assumption
    | (lift_lets -underBinder; with_reducible intro x)
    | with_reducible intro x
    | with_reducible apply OutKeeps.next
    | with_reducible apply FstKeeps.mk
    | with_reducible apply mailbox_keeps
    | (with_reducible apply Keeps.plain; · with_reducible assumption)
    | split

theorem State.grantCluster_keeps {r s : State} (k : Nat) (e : InitEntry) (h : Keeps r s) :
    Keeps r (State.grantCluster s k e) := by
  unfold State.grantCluster
  repeat' first
    | with_reducible assumption
    | with_reducible intro x
    | with_reducible apply State.setInits_keeps

theorem State.wipeCluster_keeps {r s : State} (k : Nat) (h : Keeps r s) :
    Keeps r (State.wipeCluster s k) := by
  unfold State.wipeCluster
  repeat' first
    | with_reducible assumption
    | with_reducible intro x
    | with_reducible apply State.setCore_keeps
    | with_reducible apply State.updCluster_keeps
    | with_reducible apply Keeps.foldl
    | exact CoreKeep.fresh _ rfl rfl

theorem State.giveCluster_keeps {r s : State} (ctx : Option Nat) (red : Bool) (k : Nat) (h : Keeps r s) :
    Keeps r (State.giveCluster s ctx red k) := by
  unfold State.giveCluster
  repeat' first
    | with_reducible assumption
    | (lift_lets -underBinder; with_reducible intro x; with_reducible refine with_fact (a := Keeps r x) ?_ ?_; (on_goal 1 => unfold x); (on_goal 2 => (intro hx; clear_value x)))
    | with_reducible apply State.updCluster_keeps
    | with_reducible apply State.grantCluster_keeps
    | with_reducible apply State.wipeCluster_keeps
    | split

theorem execClusterMove_keeps {r s : State} (c : MbxCall) (h : Keeps r s) :
    OutKeeps r (execClusterMove c s) := by
  unfold execClusterMove
  repeat' first
    | with_reducible assumption
    | (lift_lets -underBinder; with_reducible intro x)
    | with_reducible intro x
    | with_reducible apply OutKeeps.next
    | with_reducible apply FstKeeps.mk
    | with_reducible apply mailbox_keeps
    | with_reducible apply State.giveCluster_keeps
    | with_reducible apply Keeps.foldl
    | split

theorem execClusterMoveTimeout_keeps {r s : State} (chan : Fin 8) (h : Keeps r s) :
    OutKeeps r (execClusterMoveTimeout chan s) := by
  unfold execClusterMoveTimeout
  repeat' first
    | with_reducible assumption
    | with_reducible apply OutKeeps.next
    | with_reducible apply State.complete_keeps
    | with_reducible apply Keeps.ite

theorem execPartitionSet_keeps {r s : State} (c : MbxCall) (h : Keeps r s) :
    OutKeeps r (execPartitionSet c s) := by
  unfold execPartitionSet
  repeat' first
    | with_reducible assumption
    | (lift_lets -underBinder; with_reducible intro x)
    | with_reducible intro x
    | with_reducible apply OutKeeps.next
    | with_reducible apply FstKeeps.mk
    | with_reducible apply mailbox_keeps
    | (with_reducible apply Keeps.plain; · with_reducible assumption)
    | split

end Sys2Proof.Machine
end

