-- ==== Sys2Proof/Laws/KeepHerds.lean ====
section
/-! SUPPORT. What the operations of Machine/Herds.lean keep. -/

namespace Sys2Proof.Machine

theorem State.ckptEvent_keeps {r s : State} (w : CkptWrite) (how : CkptEnd) (h : Keeps r s) :
    Keeps r (State.ckptEvent s w how) := by
  unfold State.ckptEvent
  repeat' first
    | with_reducible assumption
    | with_reducible apply State.ctxEvent_keeps

theorem State.dropCkpts_keeps {r s : State} (p : CkptWrite → Bool) (how : CkptEnd) (h : Keeps r s) :
    Keeps r (State.dropCkpts s p how) := by
  unfold State.dropCkpts
  repeat' first
    | with_reducible assumption
    | (lift_lets -underBinder; with_reducible intro x)
    | with_reducible intro x
    | with_reducible apply State.raiseFloor_keeps
    | with_reducible apply State.ckptEvent_keeps
    | with_reducible apply Keeps.ite
    | with_reducible apply Keeps.foldl
    | (with_reducible apply Keeps.plain; · with_reducible assumption)
    | split

theorem State.grantUpdate_keeps {r s : State} (e : InitEntry) (h : Keeps r s) :
    Keeps r (State.grantUpdate s e) := by
  unfold State.grantUpdate
  repeat' first
    | with_reducible assumption
    | with_reducible intro x
    | with_reducible apply State.setInits_keeps

theorem State.endBinding_keeps {r s : State} (h : Keeps r s) :
    Keeps r (State.endBinding s) := by
  unfold State.endBinding
  repeat' first
    | with_reducible assumption
    | (lift_lets -underBinder; with_reducible intro x; with_reducible refine with_fact (a := Keeps r x) ?_ ?_; (on_goal 1 => unfold x); (on_goal 2 => (intro hx; clear_value x)))
    | with_reducible intro x
    | with_reducible apply State.grantUpdate_keeps
    | (with_reducible apply Keeps.plain; · with_reducible assumption)

theorem State.leaveHerd_keeps {r s : State} (hid : Nat) (h : Keeps r s) :
    Keeps r (State.leaveHerd s hid) := by
  unfold State.leaveHerd
  repeat' first
    | with_reducible assumption
    | (lift_lets -underBinder; with_reducible intro x)
    | (with_reducible intro x; first
        | (with_reducible refine with_fact (a := Keeps r x) ?_ ?_; (on_goal 1 => unfold x); (on_goal 2 => (intro hx; clear_value x)))
        | skip)
    | with_reducible apply State.ctxEvent_keeps
    | with_reducible apply State.lose_keeps
    | with_reducible apply State.completeAll_keeps
    | with_reducible apply State.dropCkpts_keeps
    | with_reducible apply State.endBinding_keeps
    | with_reducible apply Keeps.ite
    | with_reducible apply Keeps.foldl
    | (with_reducible apply Keeps.plain; · with_reducible assumption)
    | split

theorem State.ctlSend_keeps {r s : State} (port : Option Nat) (dst : Nat) (m : CollMsg) (h : Keeps r s) :
    Keeps r (State.ctlSend s port dst m) := by
  unfold State.ctlSend
  repeat' first
    | with_reducible assumption
    | with_reducible intro x
    | with_reducible apply State.sendMsg_keeps
    | (with_reducible apply Keeps.plain; · with_reducible assumption)
    | split

theorem State.onRoute_keeps {r s : State} (h1 : Herd) (dst : Nat) (m : CollMsg) (h : Keeps r s) :
    Keeps r (State.onRoute s h1 dst m) := by
  unfold State.onRoute
  repeat' first
    | with_reducible assumption
    | with_reducible intro x
    | with_reducible apply State.sendMsg_keeps
    | with_reducible apply State.ctlSend_keeps
    | with_reducible apply Keeps.ite
    | split

theorem State.toMember_keeps {r s : State} (h1 : Herd) (dst : Nat) (m : CollMsg) (h : Keeps r s) :
    Keeps r (State.toMember s h1 dst m) := by
  unfold State.toMember
  repeat' first
    | with_reducible assumption
    | with_reducible intro x
    | with_reducible apply State.onRoute_keeps

theorem State.ctlAcked_keeps {r s : State} (p : Nat) (n : Nat) (h : Keeps r s) :
    Keeps r (State.ctlAcked s p n) := by
  unfold State.ctlAcked
  repeat' first
    | with_reducible assumption
    | with_reducible intro x
    | (with_reducible apply Keeps.plain; · with_reducible assumption)

theorem State.ctlLost_keeps {r s : State} (p : Nat) (h : Keeps r s) :
    Keeps r (State.ctlLost s p) := by
  unfold State.ctlLost
  repeat' first
    | with_reducible assumption
    | with_reducible intro x
    | with_reducible apply Keeps.ite
    | with_reducible apply OptKeeps.map
    | with_reducible apply OptSndKeeps.map_of
    | with_reducible apply OptSndKeeps.map
    | (with_reducible apply Keeps.plain; · with_reducible assumption)

theorem State.ctlAgain_keeps {r s : State} (h1 : Herd) (h : Keeps r s) :
    Keeps r (State.ctlAgain s h1) := by
  unfold State.ctlAgain
  repeat' first
    | with_reducible assumption
    | with_reducible intro x
    | with_reducible apply State.onRoute_keeps
    | with_reducible apply Keeps.ite
    | with_reducible apply Keeps.foldl
    | (with_reducible apply Keeps.plain; · with_reducible assumption)

theorem State.quitHerd_keeps {r s : State} (hid : Nat) (h : Keeps r s) :
    Keeps r (State.quitHerd s hid) := by
  unfold State.quitHerd
  repeat' first
    | with_reducible assumption
    | with_reducible intro x
    | with_reducible apply State.leaveHerd_keeps
    | with_reducible apply State.toMember_keeps
    | with_reducible apply Keeps.ite
    | split

theorem State.fillShadow_keeps {r s : State} (h : Keeps r s) :
    Keeps r (State.fillShadow s) := by
  unfold State.fillShadow
  repeat' (with_reducible apply Keeps.plain; · with_reducible assumption)

theorem State.endHerd_keeps {r s : State} (hid : Nat) (h : Keeps r s) :
    Keeps r (State.endHerd s hid) := by
  unfold State.endHerd
  repeat' first
    | with_reducible assumption
    | with_reducible intro x
    | (lift_lets -underBinder; with_reducible intro x)
    | with_reducible apply State.leaveHerd_keeps
    | with_reducible apply State.toMember_keeps
    | with_reducible apply Keeps.foldl
    | split

theorem State.issueRecord_keeps {r s : State} (hid : Nat) (p2 : Shrink) (h : Keeps r s) :
    Keeps r (State.issueRecord s hid p2) := by
  unfold State.issueRecord
  repeat' first
    | with_reducible assumption
    | with_reducible intro x
    | with_reducible apply SndKeeps.mk
    | with_reducible apply State.updHerd_keeps
    | with_reducible refine SndKeeps.snd (State.free_keeps (h := ?_) ..)
    | with_reducible apply State.free_keeps
    | with_reducible apply State.leaveHerd_keeps
    | with_reducible apply State.toMember_keeps
    | with_reducible apply Keeps.ite
    | with_reducible apply SndKeeps.ite
    | with_reducible apply Keeps.foldl
    | with_reducible apply SndKeeps.foldl
    | refine SndKeeps.of ?_ (by assumption)
    | with_reducible exact SndKeeps.snd (by assumption)
    | with_reducible exact SndKeeps.mk_keep (by assumption)
    | split

theorem State.newRecord_keeps {r s : State} (hid : Nat) (live : List Nat) (heard : List Nat) (links : List (Nat × Nat × Nat)) (h : Keeps r s) :
    Keeps r (State.newRecord s hid live heard links) := by
  unfold State.newRecord
  repeat' first
    | with_reducible assumption
    | with_reducible intro x
    | with_reducible apply State.updHerd_keeps
    | with_reducible apply State.toMember_keeps
    | with_reducible apply State.quitHerd_keeps
    | with_reducible apply State.endHerd_keeps
    | with_reducible apply State.issueRecord_keeps
    | with_reducible apply Keeps.ite
    | with_reducible apply Keeps.foldl
    | split

theorem State.heardReport_keeps {r s : State} (h1 : Herd) (m : CollMsg) (h : Keeps r s) :
    Keeps r (State.heardReport s h1 m) := by
  unfold State.heardReport
  repeat' first
    | with_reducible assumption
    | with_reducible intro x
    | with_reducible apply State.updHerd_keeps
    | with_reducible apply State.issueRecord_keeps
    | with_reducible apply Keeps.ite
    | split

theorem State.answerShrink_keeps {r s : State} (h1 : Herd) (m : CollMsg) (h : Keeps r s) :
    Keeps r (State.answerShrink s h1 m) := by
  unfold State.answerShrink
  repeat' first
    | with_reducible assumption
    | with_reducible intro x
    | with_reducible apply State.toMember_keeps

theorem State.dropMember_keeps {r s : State} (hid : Nat) (m : Nat) (h : Keeps r s) :
    Keeps r (State.dropMember s hid m) := by
  unfold State.dropMember
  repeat' first
    | with_reducible assumption
    | with_reducible intro x
    | with_reducible apply State.newRecord_keeps
    | split

theorem State.expel_keeps {r s : State} (hid : Nat) (kept : List Nat) (h : Keeps r s) :
    Keeps r (State.expel s hid kept) := by
  unfold State.expel
  repeat' first
    | with_reducible assumption
    | with_reducible intro x
    | (with_reducible intro x)
    | with_reducible apply State.newRecord_keeps
    | split

theorem State.newLinks_keeps {r s : State} (hid : Nat) (links : List (Nat × Nat × Nat)) (h : Keeps r s) :
    Keeps r (State.newLinks s hid links) := by
  unfold State.newLinks
  repeat' first
    | with_reducible assumption
    | with_reducible intro x
    | (with_reducible intro x)
    | with_reducible apply State.newRecord_keeps
    | split

theorem State.unform_keeps {r s : State} (hid : Nat) (h : Keeps r s) :
    Keeps r (State.unform s hid) := by
  unfold State.unform
  repeat' first
    | with_reducible apply State.completeAll_keeps
    | (with_reducible apply Keeps.plain; · with_reducible assumption)

theorem State.linkLost_keeps {r s : State} (p : Nat) (h : Keeps r s) :
    Keeps r (State.linkLost s p) := by
  unfold State.linkLost
  repeat' first
    | with_reducible assumption
    | with_reducible intro x
    | with_reducible apply State.toMember_keeps
    | with_reducible apply State.newLinks_keeps
    | with_reducible apply Keeps.ite
    | with_reducible apply Keeps.foldl

end Sys2Proof.Machine
end

