-- ==== Sys2Proof/Laws/KeepLink.lean ====
section
/-! SUPPORT. What the operations of Machine/Link.lean keep. -/

namespace Sys2Proof.Machine

theorem State.sendCredit_keeps {r s : State} (h1 : Handoff) (upTo : Nat) (arrived : Nat) (cause : Option Nat) (h : Keeps r s) :
    Keeps r (State.sendCredit s h1 upTo arrived cause) := by
  unfold State.sendCredit
  repeat' first
    | with_reducible assumption
    | with_reducible intro x
    | with_reducible apply State.sendMsg_keeps
    | with_reducible apply Keeps.ite

theorem State.breakChannel_keeps {r s : State} (ch : Nat) (told : optParam (Option (BitVec 8)) none) (h : Keeps r s) :
    Keeps r (State.breakChannel s ch told) := by
  unfold State.breakChannel
  repeat' first
    | with_reducible assumption
    | with_reducible intro x
    | with_reducible apply SndKeeps.mk
    | with_reducible apply State.updHandoff_keeps
    | with_reducible refine SndKeeps.snd (State.free_keeps (h := ?_) ..)
    | with_reducible apply State.free_keeps
    | with_reducible apply State.ctxEvent_keeps
    | with_reducible apply State.signal_keeps
    | with_reducible apply State.sendCredit_keeps
    | with_reducible apply Keeps.ite
    | with_reducible apply SndKeeps.ite
    | refine SndKeeps.of ?_ (by assumption)
    | with_reducible exact SndKeeps.snd (by assumption)
    | with_reducible exact SndKeeps.mk_keep (by assumption)
    | split

theorem State.portReset_keeps {r s : State} (p : Nat) (h : Keeps r s) :
    Keeps r (State.portReset s p) := by
  unfold State.portReset
  repeat' first
    | with_reducible assumption
    | with_reducible apply State.dropRegs_keeps

theorem State.portFail_keeps {r s : State} (p : Nat) (st : PortState) (h : Keeps r s) :
    Keeps r (State.portFail s p st) := by
  unfold State.portFail
  repeat' first
    | with_reducible assumption
    | with_reducible apply State.updPort_keeps
    | with_reducible apply State.bump_keeps
    | with_reducible apply State.portReset_keeps
    | with_reducible apply Keeps.ite

theorem execNodeSet_keeps {r s : State} (c : MbxCall) (h : Keeps r s) :
    OutKeeps r (execNodeSet c s) := by
  unfold execNodeSet
  repeat' first
    | with_reducible assumption
    | with_reducible intro x
    | with_reducible apply OutKeeps.next
    | with_reducible apply FstKeeps.mk
    | with_reducible apply mailbox_keeps
    | (with_reducible apply Keeps.plain; · with_reducible assumption)
    | split

theorem execAdmitSet_keeps {r s : State} (c : MbxCall) (h : Keeps r s) :
    OutKeeps r (execAdmitSet c s) := by
  unfold execAdmitSet
  repeat' first
    | with_reducible assumption
    | (lift_lets -underBinder; with_reducible intro x)
    | with_reducible intro x
    | with_reducible apply OutKeeps.next
    | with_reducible apply FstKeeps.mk
    | with_reducible apply mailbox_keeps
    | (with_reducible apply Keeps.plain; · with_reducible assumption)

theorem State.bringSay_keeps {r s : State} (p : Nat) (b : List Byte) (h : Keeps r s) :
    Keeps r (State.bringSay s p b) := by
  unfold State.bringSay
  repeat' first
    | with_reducible assumption
    | with_reducible intro x
    | with_reducible apply State.updPort_keeps

theorem State.bringFree_keeps {r s : State} (p : Nat) (h : Keeps r s) :
    Keeps r (State.bringFree s p) := by
  unfold State.bringFree
  repeat' first
    | with_reducible assumption
    | with_reducible intro x
    | with_reducible apply SndKeeps.mk
    | with_reducible refine SndKeeps.snd (State.free_keeps (h := ?_) ..)
    | with_reducible apply State.free_keeps
    | with_reducible apply State.bringSay_keeps

theorem State.sayHello_keeps {r s : State} (p : Nat) (h : Keeps r s) :
    Keeps r (State.sayHello s p) := by
  unfold State.sayHello
  repeat' first
    | with_reducible assumption
    | with_reducible intro x
    | with_reducible apply SndKeeps.mk
    | with_reducible refine SndKeeps.snd (State.free_keeps (h := ?_) ..)
    | with_reducible apply State.free_keeps
    | with_reducible apply State.bringSay_keeps

theorem execTrain_keeps {r s : State} (port : Fin 16) (ok : Bool) (h : Keeps r s) :
    OutKeeps r (execTrain port ok s) := by
  unfold execTrain
  repeat' first
    | with_reducible assumption
    | with_reducible intro x
    | with_reducible apply OutKeeps.next
    | with_reducible apply State.updPort_keeps
    | with_reducible apply State.portFail_keeps
    | with_reducible apply State.sayHello_keeps
    | with_reducible apply Keeps.ite

theorem execHello_keeps {r s : State} (port : Fin 16) (same : Bool) (peer : BitVec 16) (h : Keeps r s) :
    OutKeeps r (execHello port same peer s) := by
  unfold execHello
  repeat' first
    | with_reducible assumption
    | with_reducible intro x
    | with_reducible apply OutKeeps.next
    | with_reducible apply State.updPort_keeps
    | with_reducible apply State.portFail_keeps
    | with_reducible apply State.bringFree_keeps
    | with_reducible apply Keeps.ite

theorem execAttest_keeps {r s : State} (port : Fin 16) (ok : Bool) (root : BitVec 256) (fwm : BitVec 256) (ident : BitVec 256) (h : Keeps r s) :
    OutKeeps r (execAttest port ok root fwm ident s) := by
  unfold execAttest
  repeat' first
    | with_reducible assumption
    | with_reducible intro x
    | with_reducible apply OutKeeps.next
    | with_reducible apply State.updPort_keeps
    | with_reducible apply State.portFail_keeps
    | with_reducible apply State.bringFree_keeps
    | with_reducible apply Keeps.ite

theorem execKeyx_keeps {r s : State} (port : Fin 16) (ok : Bool) (peer : PeerKeys) (h : Keeps r s) :
    OutKeeps r (execKeyx port ok peer s) := by
  unfold execKeyx
  repeat' first
    | with_reducible assumption
    | with_reducible intro x
    | with_reducible apply OutKeeps.next
    | with_reducible apply OptSndKeeps.none
    | with_reducible apply OptSndKeeps.some
    | with_reducible apply State.updPort_keeps
    | with_reducible apply State.keyRefused_keeps
    | with_reducible apply State.drawFresh_keeps
    | with_reducible apply State.portFail_keeps
    | with_reducible apply Keeps.ite
    | with_reducible apply OptSndKeeps.ite
    | with_reducible apply OutKeeps.ite
    | refine OptSndKeeps.of ?_ (by assumption)
    | with_reducible exact OptSndKeeps.some_keep (by assumption)
    | split

theorem execBringUpTimeout_keeps {r s : State} (port : Fin 16) (h : Keeps r s) :
    OutKeeps r (execBringUpTimeout port s) := by
  unfold execBringUpTimeout
  repeat' first
    | with_reducible assumption
    | with_reducible apply OutKeeps.next
    | with_reducible apply State.portFail_keeps
    | with_reducible apply Keeps.ite

theorem State.startPort_keeps {r s : State} (p : Nat) (h : Keeps r s) :
    Keeps r (State.startPort s p) := by
  unfold State.startPort
  repeat' first
    | with_reducible assumption
    | with_reducible apply State.updPort_keeps
    | with_reducible apply Keeps.ite

theorem execPortRetry_keeps {r s : State} (port : Fin 16) (h : Keeps r s) :
    OutKeeps r (execPortRetry port s) := by
  unfold execPortRetry
  repeat' first
    | with_reducible assumption
    | with_reducible apply OutKeeps.next
    | with_reducible apply State.startPort_keeps

theorem execBringUp_keeps {r s : State} (port : Fin 16) (recv : Option (List Byte)) (h : Keeps r s) :
    OutKeeps r (execBringUp port recv s) := by
  unfold execBringUp
  repeat' first
    | with_reducible assumption
    | with_reducible intro x
    | with_reducible apply OutKeeps.next
    | with_reducible apply State.updPort_keeps
    | with_reducible apply State.bump_keeps
    | with_reducible apply Keeps.ite
    | with_reducible apply OutKeeps.ite
    | split

theorem State.poolLost_keeps {r s : State} (r1 : PoolReq) (h : Keeps r s) :
    Keeps r (State.poolLost s r1) := by
  unfold State.poolLost
  repeat' first
    | with_reducible assumption
    | with_reducible intro x
    | with_reducible apply State.lose_keeps
    | with_reducible apply State.dropCkpts_keeps
    | with_reducible apply State.unform_keeps
    | with_reducible apply Keeps.ite
    | split

theorem State.reissue_keeps {r s : State} (r1 : PoolReq) (h : Keeps r s) :
    Keeps r (State.reissue s r1) := by
  unfold State.reissue
  repeat' first
    | with_reducible assumption
    | (lift_lets -underBinder; with_reducible intro x; first
        | (with_reducible refine with_fact (a := Keeps r x) ?_ ?_; (on_goal 1 => unfold x); (on_goal 2 => (intro hx; clear_value x)))
        | skip)
    | with_reducible intro x
    | with_reducible apply State.poolSend_keeps
    | with_reducible apply State.poolLost_keeps
    | (with_reducible apply Keeps.plain; · with_reducible assumption)
    | split

theorem State.dropPort_keeps {r s : State} (p : Nat) (h : Keeps r s) :
    Keeps r (State.dropPort s p) := by
  unfold State.dropPort
  repeat' first
    | with_reducible assumption
    | (with_reducible intro x; first
        | (with_reducible refine with_fact (a := Keeps r x) ?_ ?_; (on_goal 1 => unfold x); (on_goal 2 => (intro hx; clear_value x)))
        | skip)
    | (lift_lets -underBinder; with_reducible intro x; first
        | (with_reducible refine with_fact (a := Keeps r x) ?_ ?_; (on_goal 1 => unfold x); (on_goal 2 => (intro hx; clear_value x))))
    | with_reducible apply State.updPort_keeps
    | with_reducible apply State.linkEvent_keeps
    | with_reducible apply State.ctlLost_keeps
    | with_reducible apply State.linkLost_keeps
    | with_reducible apply State.breakChannel_keeps
    | with_reducible apply State.reissue_keeps
    | with_reducible apply Keeps.ite
    | with_reducible apply Keeps.foldl
    | (with_reducible apply Keeps.plain; · with_reducible assumption)

theorem State.peerDown_keeps {r s : State} (p : Nat) (h : Keeps r s) :
    Keeps r (State.peerDown s p) := by
  unfold State.peerDown
  repeat' first
    | with_reducible assumption
    | with_reducible apply State.bump_keeps
    | with_reducible apply State.portReset_keeps
    | with_reducible apply State.dropPort_keeps

theorem State.protocolError_keeps {r s : State} (p : Nat) (h : Keeps r s) :
    Keeps r (State.protocolError s p) := by
  unfold State.protocolError
  repeat' first
    | with_reducible assumption
    | with_reducible apply State.bump_keeps
    | with_reducible apply State.portReset_keeps
    | with_reducible apply State.dropPort_keeps

theorem execPeerDown_keeps {r s : State} (port : Fin 16) (h : Keeps r s) :
    OutKeeps r (execPeerDown port s) := by
  unfold execPeerDown
  repeat' first
    | with_reducible assumption
    | with_reducible apply OutKeeps.next
    | with_reducible apply State.peerDown_keeps
    | with_reducible apply Keeps.ite

theorem execPortReset_keeps {r s : State} (c : MbxCall) (h : Keeps r s) :
    OutKeeps r (execPortReset c s) := by
  unfold execPortReset
  repeat' first
    | with_reducible assumption
    | (lift_lets -underBinder; with_reducible intro x)
    | (with_reducible intro x; first
        | (with_reducible refine with_fact (a := Keeps r x) ?_ ?_; (on_goal 1 => unfold x); (on_goal 2 => (intro hx; clear_value x)))
        | skip)
    | with_reducible apply OutKeeps.next
    | with_reducible apply FstKeeps.mk
    | with_reducible apply State.updPort_keeps
    | with_reducible apply mailbox_keeps
    | with_reducible apply State.portReset_keeps
    | with_reducible apply State.dropPort_keeps
    | with_reducible apply Keeps.ite

theorem State.countWaits_keeps {r s : State} (p : Nat) (h : Keeps r s) :
    Keeps r (State.countWaits s p) := by
  unfold State.countWaits
  repeat' first
    | with_reducible assumption
    | with_reducible intro x
    | with_reducible apply State.bump_keeps
    | with_reducible apply Keeps.ite
    | with_reducible apply Keeps.foldl

theorem State.tellFreed_keeps {r s : State} (p : Nat) (h : Keeps r s) :
    Keeps r (State.tellFreed s p) := by
  unfold State.tellFreed
  repeat' first
    | with_reducible assumption
    | with_reducible intro x
    | with_reducible apply State.updPort_keeps
    | with_reducible apply Keeps.ite

theorem State.sendLctl_keeps {r s : State} (p : Nat) (h : Keeps r s) :
    Keeps r (State.sendLctl s p) := by
  unfold State.sendLctl
  repeat' first
    | with_reducible assumption
    | with_reducible intro x
    | with_reducible apply State.updPort_keeps
    | with_reducible apply State.bump_keeps
    | with_reducible apply State.peerDown_keeps
    | with_reducible apply State.tellFreed_keeps
    | with_reducible apply Keeps.ite

theorem State.sendData_keeps {r s : State} (p cls : Nat) (f : Flit) (rest : List Flit) (h : Keeps r s) :
    Keeps r (State.sendData s p cls f rest) := by
  unfold State.sendData
  repeat' first
    | with_reducible assumption
    | (lift_lets -underBinder; with_reducible intro x)
    | with_reducible intro x
    | with_reducible apply State.updPort_keeps
    | with_reducible apply State.bump_keeps

theorem State.sendNew_keeps {r s : State} (p : Nat) (h : Keeps r s) :
    Keeps r (State.sendNew s p) := by
  unfold State.sendNew
  repeat' first
    | with_reducible assumption
    | with_reducible intro x
    | with_reducible apply State.updPort_keeps
    | with_reducible apply State.bump_keeps
    | with_reducible apply State.unpark_keeps
    | with_reducible apply State.peerDown_keeps
    | with_reducible apply State.countWaits_keeps
    | with_reducible apply State.sendData_keeps
    | with_reducible apply Keeps.ite
    | split

theorem execFlitTransmit_keeps {r s : State} (port : Fin 16) (h : Keeps r s) :
    OutKeeps r (execFlitTransmit port s) := by
  unfold execFlitTransmit
  repeat' first
    | with_reducible assumption
    | (lift_lets -underBinder; with_reducible intro x)
    | with_reducible intro x
    | with_reducible apply OutKeeps.next
    | with_reducible apply State.updPort_keeps
    | with_reducible apply State.bump_keeps
    | with_reducible apply State.sendLctl_keeps
    | with_reducible apply State.sendNew_keeps
    | with_reducible apply Keeps.ite
    | split

theorem execLctlTimer_keeps {r s : State} (port : Fin 16) (h : Keeps r s) :
    OutKeeps r (execLctlTimer port s) := by
  unfold execLctlTimer
  repeat' first
    | with_reducible assumption
    | with_reducible intro x
    | with_reducible apply OutKeeps.next
    | with_reducible apply State.updPort_keeps
    | with_reducible apply State.sendLctl_keeps
    | with_reducible apply Keeps.ite

theorem execAcknowledgementTimer_keeps {r s : State} (port : Fin 16) (h : Keeps r s) :
    OutKeeps r (execAcknowledgementTimer port s) := by
  unfold execAcknowledgementTimer
  repeat' first
    | with_reducible assumption
    | with_reducible apply OutKeeps.next
    | with_reducible apply State.updPort_keeps
    | with_reducible apply State.bump_keeps
    | with_reducible apply Keeps.ite

theorem execRetrainTimer_keeps {r s : State} (port : Fin 16) (h : Keeps r s) :
    OutKeeps r (execRetrainTimer port s) := by
  unfold execRetrainTimer
  repeat' first
    | with_reducible assumption
    | with_reducible apply OutKeeps.next
    | with_reducible apply State.updPort_keeps
    | with_reducible apply State.bump_keeps
    | with_reducible apply Keeps.ite

theorem execFastRetrainComplete_keeps {r s : State} (port : Fin 16) (h : Keeps r s) :
    OutKeeps r (execFastRetrainComplete port s) := by
  unfold execFastRetrainComplete
  repeat' first
    | with_reducible assumption
    | with_reducible apply OutKeeps.next
    | with_reducible apply State.updPort_keeps
    | with_reducible apply Keeps.ite

theorem State.countFec_keeps {r s : State} (p : Nat) (fec : List (Option (Fin 16))) (h : Keeps r s) :
    Keeps r (State.countFec s p fec) := by
  unfold State.countFec
  repeat' first
    | with_reducible assumption
    | with_reducible intro x
    | with_reducible apply State.bump_keeps
    | with_reducible apply Keeps.ite
    | with_reducible apply Keeps.foldl
    | split

theorem State.receive_keeps {r s : State} (f : FlitIn) (k : Flit → State → State) (h : Keeps r s) (g_k : ∀ x0 x1, Keeps r x1 → Keeps r (k x0 x1)) :
    Keeps r (State.receive s f k) := by
  unfold State.receive
  repeat' first
    | with_reducible assumption
    | with_reducible intro x
    | with_reducible apply g_k
    | with_reducible apply State.updPort_keeps
    | with_reducible apply State.bump_keeps
    | with_reducible apply State.halt_keeps
    | with_reducible apply State.protocolError_keeps
    | with_reducible apply State.countFec_keeps
    | with_reducible apply Keeps.ite
    | split

theorem execData_keeps {r s : State} (f : FlitIn) (h : Keeps r s) :
    OutKeeps r (execData f s) := by
  unfold execData
  repeat' first
    | with_reducible assumption
    | with_reducible intro x
    | with_reducible apply OutKeeps.next
    | with_reducible apply State.updPort_keeps
    | with_reducible apply State.bump_keeps
    | with_reducible apply State.protocolError_keeps
    | with_reducible apply State.receive_keeps
    | with_reducible apply Keeps.ite

theorem State.takeRx_keeps {r s : State} (vc : Nat) (b : List Byte) (h : Keeps r s) :
    Keeps r (State.takeRx s vc b) := by
  unfold State.takeRx
  repeat' first
    | with_reducible assumption
    | with_reducible intro x
    | with_reducible apply State.updPort_keeps
    | split

theorem State.heedLctl_keeps {r s : State} (p : Nat) (l : LctlIn) (h : Keeps r s) :
    Keeps r (State.heedLctl s p l) := by
  unfold State.heedLctl
  repeat' first
    | with_reducible assumption
    | with_reducible intro x
    | with_reducible apply State.updPort_keeps
    | with_reducible apply State.ctlAcked_keeps

theorem execLctl_keeps {r s : State} (f : FlitIn) (l : LctlIn) (h : Keeps r s) :
    OutKeeps r (execLctl f l s) := by
  unfold execLctl
  repeat' first
    | with_reducible assumption
    | with_reducible intro x
    | with_reducible apply OutKeeps.next
    | with_reducible apply State.updPort_keeps
    | with_reducible apply State.protocolError_keeps
    | with_reducible apply State.receive_keeps
    | with_reducible apply State.heedLctl_keeps
    | with_reducible apply Keeps.ite

theorem execIdle_keeps {r s : State} (f : FlitIn) (h : Keeps r s) :
    OutKeeps r (execIdle f s) := by
  unfold execIdle
  repeat' first
    | with_reducible assumption
    | with_reducible intro x
    | with_reducible apply OutKeeps.next
    | with_reducible apply State.receive_keeps

theorem execRekey_keeps {r s : State} (port : Fin 16) (h : Keeps r s) :
    OutKeeps r (execRekey port s) := by
  unfold execRekey
  repeat' first
    | with_reducible assumption
    | with_reducible apply OutKeeps.next
    | with_reducible apply State.updPort_keeps
    | with_reducible apply State.keyRefused_keeps
    | with_reducible apply State.sendMsg_keeps
    | with_reducible apply State.drawFresh_keeps
    | with_reducible apply State.peerDown_keeps
    | with_reducible apply Keeps.ite
    | (with_reducible apply Keeps.plain; (on_goal 1 => refine OptSndKeeps.of ?_ (by assumption)))
    | split

theorem execRekeySwitch_keeps {r s : State} (port : Fin 16) (rx : Bool) (peer : PeerKeys) (h : Keeps r s) :
    OutKeeps r (execRekeySwitch port rx peer s) := by
  unfold execRekeySwitch
  repeat' first
    | with_reducible assumption
    | with_reducible intro x
    | with_reducible apply OutKeeps.next
    | with_reducible apply OptSndKeeps.none
    | with_reducible apply OptSndKeeps.some
    | with_reducible apply State.updPort_keeps
    | with_reducible apply State.bump_keeps
    | with_reducible apply State.keyRefused_keeps
    | with_reducible apply State.sendMsg_keeps
    | with_reducible apply State.drawFresh_keeps
    | with_reducible apply State.peerDown_keeps
    | with_reducible apply Keeps.ite
    | with_reducible apply OptSndKeeps.ite
    | with_reducible apply OutKeeps.ite
    | with_reducible apply OptKeeps.getD
    | refine OptSndKeeps.of ?_ (by assumption)
    | with_reducible exact OptSndKeeps.some_keep (by assumption)
    | split

theorem execRekeyTimeout_keeps {r s : State} (port : Fin 16) (h : Keeps r s) :
    OutKeeps r (execRekeyTimeout port s) := by
  unfold execRekeyTimeout
  repeat' first
    | with_reducible assumption
    | with_reducible apply OutKeeps.next
    | with_reducible apply State.peerDown_keeps
    | with_reducible apply Keeps.ite

end Sys2Proof.Machine
end

