-- ==== Sys2Proof/Laws/KeepPool.lean ====
section
/-! SUPPORT. What the operations of Machine/Pool.lean keep. -/

namespace Sys2Proof.Machine

theorem State.respond_keeps {r s : State} (p : PoolMsg) (opc vc stat : Nat) (data : List Byte) (h : Keeps r s) :
    Keeps r (State.respond s p opc vc stat data) := by
  unfold State.respond
  repeat' first
    | with_reducible assumption
    | with_reducible apply State.bump_keeps
    | with_reducible apply State.sendMsg_keeps

theorem State.servePool_keeps {r s : State} (p : PoolMsg) (opc : Nat) (vc : Nat) (f : State → State × Nat × List Byte) (h : Keeps r s) (g_f : ∀ x0, Keeps r x0 → FstKeeps r (f x0)) :
    Keeps r (State.servePool s p opc vc f) := by
  unfold State.servePool
  repeat' first
    | with_reducible assumption
    | (with_reducible intro x)
    | (lift_lets -underBinder; with_reducible intro x)
    | with_reducible apply g_f
    | with_reducible apply State.updPort_keeps
    | with_reducible apply State.respond_keeps
    | with_reducible apply Keeps.ite
    | split
    | with_reducible apply_assumption

theorem State.linesIn_keeps {r s : State} (coord : Bool) (p0 : Nat) (p1 : Nat) (p2 : List Byte) (h : Keeps r s) :
    Keeps r (State.linesIn s coord p0 p1 p2) := by
  induction p0 generalizing s p1 p2 with
  | zero =>
      unfold State.linesIn
      repeat' first
        | with_reducible assumption
  | succ n ih =>
      unfold State.linesIn
      repeat' first
        | with_reducible assumption
        | (lift_lets -underBinder; with_reducible intro x)
        | (with_reducible intro x; first
            | (with_reducible refine with_fact (a := Keeps r x) ?_ ?_; (on_goal 1 => unfold x); (on_goal 2 => (intro hx; clear_value x)))
            | skip)
        | with_reducible exact WfKeep.refl _
        | with_reducible exact CoresKeep.refl _
        | with_reducible exact LifeUp.refl _
        | with_reducible exact BootUp.refl _
        | with_reducible exact le_rfl
        | with_reducible apply ih
        | with_reducible apply State.writeDa_keeps
        | with_reducible apply Keeps.ite
        | (with_reducible apply Keeps.plain; · with_reducible assumption)
        | (with_reducible apply Keeps.upd; · with_reducible assumption)
        | with_reducible exact WfKeep.put _ _ _

theorem State.poolLines_keeps {r s : State} (p : PoolMsg) (write : Bool) (h : Keeps r s) :
    FstKeeps r (State.poolLines s p write) := by
  unfold State.poolLines
  repeat' first
    | with_reducible assumption
    | with_reducible intro x
    | with_reducible apply FstKeeps.mk
    | with_reducible apply State.updTarget_keeps
    | with_reducible apply State.bump_keeps
    | with_reducible apply State.lineLost_keeps
    | with_reducible apply State.linesIn_keeps
    | with_reducible apply Keeps.ite
    | with_reducible apply FstKeeps.ite
    | refine FstKeeps.of ?_ (by assumption)
    | with_reducible exact FstKeeps.fst (by assumption)
    | with_reducible exact FstKeeps.mk_keep (by assumption)
    | split

theorem State.serveLines_keeps {r s : State} (p : PoolMsg) (opc : Nat) (vc : Nat) (lo : Nat) (hi : Nat) (write : Bool) (h : Keeps r s) :
    Keeps r (State.serveLines s p opc vc lo hi write) := by
  unfold State.serveLines
  repeat' first
    | with_reducible assumption
    | with_reducible intro x
    | with_reducible apply FstKeeps.mk
    | with_reducible apply State.protocolError_keeps
    | with_reducible apply State.servePool_keeps
    | with_reducible refine FstKeeps.fst (State.poolLines_keeps (h := ?_) ..)
    | with_reducible apply State.poolLines_keeps
    | with_reducible apply Keeps.ite

theorem execPrd_keeps {r s : State} (m : PoolMsg) (h : Keeps r s) :
    OutKeeps r (execPrd m s) := by
  unfold execPrd
  repeat' first
    | with_reducible assumption
    | with_reducible apply OutKeeps.next
    | with_reducible apply State.serveLines_keeps

theorem execPbrd_keeps {r s : State} (m : PoolMsg) (h : Keeps r s) :
    OutKeeps r (execPbrd m s) := by
  unfold execPbrd
  repeat' first
    | with_reducible assumption
    | with_reducible apply OutKeeps.next
    | with_reducible apply State.serveLines_keeps

theorem execPwr_keeps {r s : State} (m : PoolMsg) (h : Keeps r s) :
    OutKeeps r (execPwr m s) := by
  unfold execPwr
  repeat' first
    | with_reducible assumption
    | with_reducible apply OutKeeps.next
    | with_reducible apply State.serveLines_keeps

theorem execPbwr_keeps {r s : State} (m : PoolMsg) (h : Keeps r s) :
    OutKeeps r (execPbwr m s) := by
  unfold execPbwr
  repeat' first
    | with_reducible assumption
    | with_reducible apply OutKeeps.next
    | with_reducible apply State.serveLines_keeps

theorem State.atom_keeps {r s : State} (m : PoolMsg) (h : Keeps r s) :
    FstKeeps r (State.atom s m) := by
  unfold State.atom
  repeat' first
    | with_reducible assumption
    | (with_reducible intro x)
    | (lift_lets -underBinder; with_reducible intro x)
    | with_reducible apply FstKeeps.mk
    | with_reducible apply State.bump_keeps
    | with_reducible apply Keeps.ite
    | with_reducible apply FstKeeps.ite
    | (with_reducible apply Keeps.plain; · with_reducible assumption)
    | (with_reducible apply Keeps.upd; · with_reducible assumption)
    | with_reducible exact le_rfl
    | with_reducible exact WfKeep.refl _
    | with_reducible exact WfKeep.put _ _ _
    | with_reducible exact WfKeep.drop _ _
    | with_reducible exact WfKeep.nil _
    | with_reducible exact WfKeep.filter _ _
    | with_reducible exact CoresKeep.refl _
    | with_reducible exact LifeUp.refl _
    | with_reducible exact BootUp.refl _
    | refine FstKeeps.of ?_ (by assumption)
    | with_reducible exact FstKeeps.fst (by assumption)
    | with_reducible exact FstKeeps.mk_keep (by assumption)
    | split

theorem execPatom_keeps {r s : State} (m : PoolMsg) (h : Keeps r s) :
    OutKeeps r (execPatom m s) := by
  unfold execPatom
  repeat' first
    | with_reducible assumption
    | with_reducible intro x
    | (with_reducible intro x)
    | with_reducible apply OutKeeps.next
    | with_reducible apply FstKeeps.mk
    | with_reducible apply State.protocolError_keeps
    | with_reducible apply State.servePool_keeps
    | with_reducible refine FstKeeps.fst (State.atom_keeps (h := ?_) ..)
    | with_reducible apply State.atom_keeps
    | with_reducible apply Keeps.ite

theorem State.poolDone_keeps {r s : State} (r1 : PoolReq) (data : List Byte) (h : Keeps r s) :
    Keeps r (State.poolDone s r1 data) := by
  unfold State.poolDone
  repeat' first
    | with_reducible assumption
    | (lift_lets -underBinder; with_reducible intro x)
    | with_reducible exact WfKeep.refl _
    | with_reducible exact CoresKeep.refl _
    | with_reducible exact LifeUp.refl _
    | with_reducible exact BootUp.refl _
    | with_reducible exact le_rfl
    | with_reducible apply Keeps.ite
    | (with_reducible apply Keeps.upd; · with_reducible assumption)
    | with_reducible exact WfKeep.put _ _ _
    | (clear_value *; split)

theorem State.storeDone_keeps {r s : State} (d : StoreDest) (ctx : Nat) (h : Keeps r s) :
    Keeps r (State.storeDone s d ctx) := by
  unfold State.storeDone
  repeat' first
    | with_reducible assumption
    | (lift_lets -underBinder; with_reducible intro x; first
        | (with_reducible refine with_fact (a := Keeps r x) ?_ ?_; (on_goal 1 => unfold x); (on_goal 2 => (intro hx; clear_value x)))
        | skip)
    | with_reducible apply State.markOf_keeps
    | with_reducible apply State.toMember_keeps
    | with_reducible apply Keeps.ite
    | (with_reducible apply Keeps.plain; · with_reducible assumption)
    | split

theorem State.atomDone_keeps {r s : State} (r1 : PoolReq) (d : StoreDest) (data : List Byte) (h : Keeps r s) :
    Keeps r (State.atomDone s r1 d data) := by
  unfold State.atomDone
  repeat' first
    | with_reducible assumption
    | with_reducible intro x
    | with_reducible apply State.knowCoord_keeps
    | with_reducible apply State.reserve_keeps
    | with_reducible apply State.raiseFloor_keeps
    | with_reducible apply State.dropCkpts_keeps
    | with_reducible apply State.unform_keeps
    | with_reducible apply Keeps.ite
    | split

theorem execPoolResponse_keeps {r s : State} (tag : BitVec 14) (stat : BitVec 4) (data : List Byte) (health : Health) (h : Keeps r s) :
    OutKeeps r (execPoolResponse tag stat data health s) := by
  unfold execPoolResponse
  repeat' first
    | with_reducible assumption
    | with_reducible intro x
    | with_reducible apply OutKeeps.next
    | with_reducible apply SndKeeps.mk
    | with_reducible apply State.bump_keeps
    | with_reducible refine SndKeeps.snd (State.checkLine_keeps (h := ?_) ..)
    | with_reducible apply State.checkLine_keeps
    | with_reducible apply State.unpark_keeps
    | with_reducible apply State.poolLost_keeps
    | with_reducible apply State.poolDone_keeps
    | with_reducible apply State.storeDone_keeps
    | with_reducible apply State.atomDone_keeps
    | with_reducible apply Keeps.ite
    | with_reducible apply SndKeeps.ite
    | with_reducible apply OutKeeps.ite
    | (with_reducible apply Keeps.plain; · with_reducible assumption)
    | (with_reducible apply Keeps.plain; (on_goal 1 => refine SndKeeps.of ?_ (by assumption)))
    | refine SndKeeps.of ?_ (by assumption)
    | with_reducible exact SndKeeps.snd (by assumption)
    | with_reducible exact SndKeeps.mk_keep (by assumption)
    | split

theorem execPoolResponseTimeout_keeps {r s : State} (tag : BitVec 14) (h : Keeps r s) :
    OutKeeps r (execPoolResponseTimeout tag s) := by
  unfold execPoolResponseTimeout
  repeat' first
    | with_reducible assumption
    | with_reducible apply OutKeeps.next
    | with_reducible apply State.poolLost_keeps
    | (with_reducible apply Keeps.plain; · with_reducible assumption)
    | split

end Sys2Proof.Machine
end

