-- ==== Sys2Proof/Laws/KeepHandoff.lean ====
section
/-! SUPPORT. What the operations of Machine/Handoff.lean keep. -/

namespace Sys2Proof.Machine

theorem execHandoffOpen_keeps {r s : State} (c : MbxCall) (h : Keeps r s) :
    OutKeeps r (execHandoffOpen c s) := by
  unfold execHandoffOpen
  repeat' first
    | with_reducible assumption
    | (lift_lets -underBinder; with_reducible intro x)
    | with_reducible intro x
    | with_reducible apply OutKeeps.next
    | with_reducible apply FstKeeps.mk
    | with_reducible apply State.updHandoff_keeps
    | with_reducible apply mailbox_keeps
    | split

theorem execHandoffClose_keeps {r s : State} (c : MbxCall) (h : Keeps r s) :
    OutKeeps r (execHandoffClose c s) := by
  unfold execHandoffClose
  repeat' first
    | with_reducible assumption
    | (lift_lets -underBinder; with_reducible intro x)
    | with_reducible intro x
    | with_reducible apply OutKeeps.next
    | with_reducible apply FstKeeps.mk
    | with_reducible apply mailbox_keeps
    | with_reducible apply State.breakChannel_keeps
    | split

theorem State.countChan_keeps {r s : State} (ch : Nat) (i : Nat) (h : Keeps r s) :
    Keeps r (State.countChan s ch i) := by
  unfold State.countChan
  repeat' first
    | with_reducible assumption
    | with_reducible intro x
    | with_reducible apply State.bumpCtx_keeps
    | with_reducible apply Keeps.ite

theorem State.deliver_keeps {r s : State} (ch q : Nat) (b : List Byte) (h : Keeps r s) :
    ResKeeps r (State.deliver s ch q b) := by
  unfold State.deliver
  repeat' first
    | with_reducible assumption
    | (lift_lets -underBinder; with_reducible intro x)
    | with_reducible intro x
    | with_reducible apply ResKeeps.ok
    | with_reducible apply State.updHandoff_keeps
    | with_reducible apply State.signal_keeps
    | with_reducible apply State.writeVa_keeps
    | with_reducible apply ResKeeps.bind

theorem State.takeRecord_keeps {r s : State} (ch q : Nat) (h : Keeps r s) :
    Keeps r (State.takeRecord s ch q) := by
  unfold State.takeRecord
  repeat' first
    | with_reducible assumption
    | (lift_lets -underBinder; with_reducible intro x)
    | with_reducible apply State.updHandoff_keeps
    | with_reducible apply State.signal_keeps
    | with_reducible apply State.readVa_keeps
    | with_reducible apply State.sendMsg_keeps
    | with_reducible apply State.breakChannel_keeps
    | with_reducible apply State.countChan_keeps
    | with_reducible apply State.deliver_keeps
    | with_reducible apply Keeps.ite
    | (with_reducible apply Keeps.plain; (on_goal 1 => refine ResKeeps.of_ok ?_ (by assumption)))
    | (with_reducible apply Keeps.plain; (on_goal 1 => refine ResKeeps.of_lost ?_ (by assumption)))
    | (with_reducible apply Keeps.plain; (on_goal 1 => refine ResKeeps.of_wait ?_ (by assumption)))
    | split

theorem State.endIfDone_keeps {r s : State} (ch : Nat) (h : Keeps r s) :
    Keeps r (State.endIfDone s ch) := by
  unfold State.endIfDone
  repeat' first
    | with_reducible assumption
    | with_reducible intro x
    | with_reducible apply State.breakChannel_keeps
    | with_reducible apply Keeps.ite
    | split

theorem execHandoffRecord_keeps {r s : State} (ch : Fin 256) (recv : Option (List Byte)) (h : Keeps r s) :
    OutKeeps r (execHandoffRecord ch recv s) := by
  unfold execHandoffRecord
  repeat' first
    | with_reducible assumption
    | with_reducible intro x
    | with_reducible apply OutKeeps.next
    | with_reducible apply ResKeeps.ok
    | with_reducible apply ResKeeps.lost
    | with_reducible apply ResKeeps.wait
    | with_reducible apply State.sendCredit_keeps
    | with_reducible apply State.breakChannel_keeps
    | with_reducible apply State.countChan_keeps
    | with_reducible apply State.deliver_keeps
    | with_reducible apply State.takeRecord_keeps
    | with_reducible apply State.endIfDone_keeps
    | with_reducible apply ResKeeps.bind
    | with_reducible apply Keeps.ite
    | with_reducible apply ResKeeps.ite
    | with_reducible apply OutKeeps.ite
    | refine ResKeeps.of_ok ?_ (by assumption)
    | refine ResKeeps.of_lost ?_ (by assumption)
    | refine ResKeeps.of_wait ?_ (by assumption)
    | with_reducible exact ResKeeps.ok_keep (by assumption)
    | with_reducible exact ResKeeps.lost_keep (by assumption)
    | with_reducible exact ResKeeps.wait_keep (by assumption)
    | split

theorem execRfidReturn_keeps {r s : State} (ch : Fin 256) (q : CreditIn) (h : Keeps r s) :
    OutKeeps r (execRfidReturn ch q s) := by
  unfold execRfidReturn
  repeat' first
    | with_reducible assumption
    | with_reducible intro x
    | with_reducible apply OutKeeps.next
    | with_reducible apply State.updHandoff_keeps
    | with_reducible apply State.signal_keeps
    | with_reducible apply State.sendCredit_keeps
    | with_reducible apply State.breakChannel_keeps
    | with_reducible apply State.endIfDone_keeps
    | with_reducible apply Keeps.ite
    | with_reducible apply OutKeeps.ite
    | split

theorem State.endChannel_keeps {r s : State} (ch : Nat) (p2 : Nat) (h : Keeps r s) :
    Keeps r (State.endChannel s ch p2) := by
  induction p2 generalizing s with
  | zero =>
      unfold State.endChannel
      repeat' first
        | with_reducible assumption
        | with_reducible intro x
        | with_reducible apply State.takeRecord_keeps
        | with_reducible apply State.endIfDone_keeps
  | succ n ih =>
      unfold State.endChannel
      repeat' first
        | with_reducible assumption
        | with_reducible intro x
        | with_reducible apply ih
        | with_reducible apply State.takeRecord_keeps
        | with_reducible apply State.endIfDone_keeps
        | with_reducible apply Keeps.ite

theorem State.loseProducer_keeps {r s : State} (ch : Nat) (h : Keeps r s) :
    Keeps r (State.loseProducer s ch) := by
  unfold State.loseProducer
  repeat' first
    | with_reducible assumption
    | with_reducible intro x
    | with_reducible apply State.updHandoff_keeps
    | with_reducible apply State.endChannel_keeps

end Sys2Proof.Machine
end

