-- ==== Sys2Proof/Laws/KeepGate.lean ====
section
/-! SUPPORT. What the operations of Machine/Gate.lean keep. -/

namespace Sys2Proof.Machine

theorem State.putScb_keeps {r s : State} (h : Keeps r s) :
    Keeps r (State.putScb s) := by
  unfold State.putScb
  repeat' first
    | with_reducible assumption
    | with_reducible intro x
    | with_reducible apply State.writeVa_keeps
    | with_reducible apply State.settle_keeps

theorem State.updLearn_keeps {r s : State} (f : Learn → Learn) (h : Keeps r s) :
    Keeps r (State.updLearn s f) := by
  unfold State.updLearn
  repeat' (with_reducible apply Keeps.plain; · with_reducible assumption)

theorem State.meanLoss_keeps {r s : State} (r1 : GateRec) (h : Keeps r s) :
    SndKeeps r (State.meanLoss s r1) := by
  unfold State.meanLoss
  repeat' first
    | with_reducible assumption
    | with_reducible apply SndKeeps.mk
    | with_reducible refine SndKeeps.snd (State.free_keeps (h := ?_) ..)
    | split

theorem State.dropStep_keeps {r s : State} (h : Keeps r s) :
    Keeps r (State.dropStep s) := by
  unfold State.dropStep
  repeat' first
    | with_reducible assumption
    | (lift_lets -underBinder; with_reducible intro x; with_reducible refine with_fact (a := Keeps r x) ?_ ?_; (on_goal 1 => unfold x); (on_goal 2 => (intro hx; clear_value x)))
    | with_reducible intro x
    | with_reducible apply State.updLearn_keeps
    | (with_reducible apply Keeps.plain; · with_reducible assumption)

theorem State.scaleStep_keeps {r s : State} (f : Ctx → Ctx) (h : Keeps r s) :
    Keeps r (State.scaleStep s f) := by
  unfold State.scaleStep
  repeat' first
    | with_reducible assumption
    | with_reducible apply State.updCtx_keeps
    | with_reducible apply State.putStatus_keeps

theorem State.clearFactors_keeps {r s : State} (h : Keeps r s) :
    Keeps r (State.clearFactors s) := by
  unfold State.clearFactors
  repeat' first
    | with_reducible assumption
    | with_reducible intro x
    | with_reducible apply ResKeeps.ok
    | with_reducible apply ResKeeps.lost
    | with_reducible apply ResKeeps.wait
    | with_reducible apply State.writeVa_keeps
    | with_reducible apply State.settle_keeps
    | with_reducible apply ResKeeps.bind
    | with_reducible apply Keeps.foldl

theorem State.countLate_keeps {r s : State} (h : Keeps r s) :
    Keeps r (State.countLate s) := by
  unfold State.countLate
  repeat' first
    | with_reducible assumption
    | with_reducible intro x
    | with_reducible apply State.bump_keeps
    | with_reducible apply Keeps.ite
    | with_reducible apply Keeps.foldl

theorem State.skipStep_keeps {r s : State} (tmo : Bool) (h : Keeps r s) :
    Keeps r (State.skipStep s tmo) := by
  unfold State.skipStep
  repeat' first
    | with_reducible assumption
    | with_reducible intro x
    | with_reducible apply State.mark_keeps
    | with_reducible apply State.signal_keeps
    | with_reducible apply State.putScb_keeps
    | with_reducible apply State.updLearn_keeps
    | with_reducible apply State.dropStep_keeps
    | with_reducible apply State.clearFactors_keeps
    | with_reducible apply Keeps.ite
    | with_reducible apply Keeps.foldl
    | split

theorem State.replayStep_keeps {r s : State} (self : Bool) (free : Bool) (excluded : List Nat) (h : Keeps r s) :
    Keeps r (State.replayStep s self free excluded) := by
  unfold State.replayStep
  repeat' first
    | with_reducible assumption
    | (with_reducible intro x; first
        | (with_reducible refine with_fact (a := Keeps r x) ?_ ?_; (on_goal 1 => unfold x); (on_goal 2 => (intro hx; clear_value x)))
        | skip)
    | (lift_lets -underBinder; with_reducible intro x)
    | with_reducible apply State.mark_keeps
    | with_reducible apply State.signal_keeps
    | with_reducible apply State.putScb_keeps
    | with_reducible apply State.updLearn_keeps
    | with_reducible apply State.dropStep_keeps
    | with_reducible apply State.clearFactors_keeps
    | with_reducible apply Keeps.ite
    | with_reducible apply Keeps.foldl
    | (with_reducible apply Keeps.plain; · with_reducible assumption)

theorem State.commitStep_keeps {r s : State} (clipped : Bool) (c lbar : BitVec 32) (g4 : Bool) (h : Keeps r s) :
    Keeps r (State.commitStep s clipped c lbar g4) := by
  unfold State.commitStep
  repeat' first
    | with_reducible assumption
    | (lift_lets -underBinder; with_reducible intro x)
    | (with_reducible intro x; first
        | (with_reducible refine with_fact (a := Keeps r x) ?_ ?_; (on_goal 1 => unfold x); (on_goal 2 => (intro hx; clear_value x)))
        | skip)
    | with_reducible apply State.mark_keeps
    | with_reducible apply State.signal_keeps
    | with_reducible apply State.putScb_keeps
    | with_reducible apply State.updLearn_keeps
    | with_reducible apply State.scaleStep_keeps
    | (with_reducible apply Keeps.plain; · with_reducible assumption)

theorem State.judged_keeps {r s : State} (self spike late : Bool) (flags : List Nat) (lbar : BitVec 32) (p0 : Ruling) (h : Keeps r s) :
    Keeps r (State.judged s self spike late flags lbar p0) := by
  unfold State.judged
  repeat' first
    | with_reducible assumption
    | with_reducible apply State.scaleStep_keeps
    | with_reducible apply State.skipStep_keeps
    | with_reducible apply State.replayStep_keeps
    | with_reducible apply State.commitStep_keeps
    | with_reducible apply Keeps.ite
    | split

theorem State.flagSelf_keeps {r s : State} (h1 : Herd) (r1 : GateRec) (h : Keeps r s) :
    Keeps r (State.flagSelf s h1 r1) := by
  unfold State.flagSelf
  repeat' first
    | with_reducible assumption
    | (lift_lets -underBinder; with_reducible intro x; with_reducible refine with_fact (a := SndKeeps r x) ?_ ?_; (on_goal 1 => unfold x); (on_goal 2 => (intro hx; clear_value x)))
    | with_reducible intro x
    | with_reducible apply SndKeeps.mk
    | with_reducible refine SndKeeps.snd (State.free_keeps (h := ?_) ..)
    | with_reducible apply State.record_keeps
    | with_reducible exact SndKeeps.snd (by assumption)

theorem State.judgeStep_keeps {r s : State} (h1 : Herd) (r1 : GateRec) (h : Keeps r s) :
    Keeps r (State.judgeStep s h1 r1) := by
  unfold State.judgeStep
  repeat' first
    | with_reducible assumption
    | with_reducible intro x
    | with_reducible apply SndKeeps.mk
    | with_reducible apply State.mark_keeps
    | with_reducible apply State.ctxEvent_keeps
    | with_reducible apply State.updLearn_keeps
    | with_reducible refine SndKeeps.snd (State.meanLoss_keeps (h := ?_) ..)
    | with_reducible apply State.meanLoss_keeps
    | with_reducible apply State.countLate_keeps
    | with_reducible apply State.judged_keeps
    | with_reducible apply State.flagSelf_keeps
    | with_reducible apply Keeps.ite

theorem State.takeGate_keeps {r s : State} (r1 : GateRec) (h : Keeps r s) :
    Keeps r (State.takeGate s r1) := by
  unfold State.takeGate
  repeat' first
    | with_reducible assumption
    | with_reducible apply State.updHerd_keeps
    | with_reducible apply State.judgeStep_keeps
    | with_reducible apply Keeps.ite
    | split

theorem State.gateDown_keeps {r s : State} (r1 : GateRec) (h : Keeps r s) :
    Keeps r (State.gateDown s r1) := by
  unfold State.gateDown
  repeat' first
    | with_reducible assumption
    | with_reducible intro x
    | with_reducible apply State.toMember_keeps
    | with_reducible apply Keeps.ite
    | with_reducible apply Keeps.foldl
    | split

theorem execGateRecord_keeps {r s : State} (r1 : GateRec) (h : Keeps r s) :
    OutKeeps r (execGateRecord r1 s) := by
  unfold execGateRecord
  repeat' first
    | with_reducible assumption
    | with_reducible apply OutKeeps.next
    | with_reducible apply State.takeGate_keeps
    | with_reducible apply State.gateDown_keeps
    | with_reducible apply Keeps.ite

theorem execGateQuery_keeps {r s : State} (h : Keeps r s) :
    OutKeeps r (execGateQuery s) := by
  unfold execGateQuery
  repeat' first
    | with_reducible assumption
    | with_reducible apply OutKeeps.next
    | with_reducible apply State.toMember_keeps
    | with_reducible apply State.updLearn_keeps
    | split

theorem State.answerQuery_keeps {r s : State} (h1 : Herd) (m : CollMsg) (h : Keeps r s) :
    Keeps r (State.answerQuery s h1 m) := by
  unfold State.answerQuery
  repeat' first
    | with_reducible assumption
    | with_reducible intro x
    | with_reducible apply State.toMember_keeps
    | with_reducible apply Keeps.ite
    | split

theorem execGateTimeout_keeps {r s : State} (h : Keeps r s) :
    OutKeeps r (execGateTimeout s) := by
  unfold execGateTimeout
  repeat' first
    | with_reducible assumption
    | with_reducible intro x
    | with_reducible apply OutKeeps.next
    | with_reducible apply State.ctxEvent_keeps
    | with_reducible apply State.quitHerd_keeps
    | with_reducible apply State.countLate_keeps
    | with_reducible apply State.skipStep_keeps
    | with_reducible apply Keeps.ite
    | with_reducible apply OutKeeps.ite
    | split

end Sys2Proof.Machine
end

