-- ==== Sys2Proof/Laws/KeepHerd.lean ====
section
/-! SUPPORT. What the operations of Machine/Herd.lean keep. -/

namespace Sys2Proof.Machine

theorem State.readPlan_keeps {r s : State} (ctx va : Nat) (h : Keeps r s) :
    ResKeeps r (State.readPlan s ctx va) := by
  unfold State.readPlan
  repeat' first
    | with_reducible assumption
    | (lift_lets -underBinder; with_reducible intro x)
    | with_reducible intro x
    | with_reducible apply ResKeeps.ok
    | with_reducible apply State.readVa_keeps
    | with_reducible apply ResKeeps.bind

theorem State.formed_keeps {r s : State} (hid : Nat) (r1 : MemRec) (h : Keeps r s) :
    Keeps r (State.formed s hid r1) := by
  unfold State.formed
  repeat' first
    | with_reducible assumption
    | (lift_lets -underBinder; with_reducible intro x; with_reducible refine with_fact (a := Keeps r x) ?_ ?_; (on_goal 1 => unfold x); (on_goal 2 => (intro hx; clear_value x)))
    | (with_reducible intro x; with_reducible refine with_fact (a := Keeps r x) ?_ ?_; (on_goal 1 => unfold x); (on_goal 2 => (intro hx; clear_value x)))
    | with_reducible apply State.updHerd_keeps
    | with_reducible apply State.ctxEvent_keeps
    | with_reducible apply State.putStatus_keeps
    | with_reducible apply State.completeAll_keeps
    | (with_reducible apply Keeps.plain; · with_reducible assumption)
    | split

theorem State.formSend_keeps {r s : State} (h1 : Herd) (dst : Nat) (m : CollMsg) (h : Keeps r s) :
    Keeps r (State.formSend s h1 dst m) := by
  unfold State.formSend
  repeat' first
    | with_reducible assumption
    | with_reducible intro x
    | with_reducible apply State.ctlSend_keeps
    | with_reducible apply Keeps.foldl

theorem State.announce_keeps {r s : State} (h1 : Herd) (src : Nat) (peers : List (Nat × Nat)) (quote : List Byte) (h : Keeps r s) :
    Keeps r (State.announce s h1 src peers quote) := by
  unfold State.announce
  repeat' first
    | with_reducible assumption
    | with_reducible intro x
    | with_reducible apply State.formSend_keeps

theorem State.firstRecord_keeps {r s : State} (hid : Nat) (h : Keeps r s) :
    Keeps r (State.firstRecord s hid) := by
  unfold State.firstRecord
  repeat' first
    | with_reducible assumption
    | (lift_lets -underBinder; with_reducible intro x)
    | with_reducible intro x
    | with_reducible apply State.toMember_keeps
    | with_reducible apply State.formed_keeps
    | with_reducible apply Keeps.foldl
    | split

theorem State.hear_keeps {r s : State} (hid m : Nat) (peers : List (Nat × Nat)) (h : Keeps r s) :
    Keeps r (State.hear s hid m peers) := by
  unfold State.hear
  repeat' first
    | with_reducible assumption
    | (lift_lets -underBinder; with_reducible intro x; with_reducible refine with_fact (a := Keeps r x) ?_ ?_; (on_goal 1 => unfold x); (on_goal 2 => (intro hx; clear_value x)))
    | with_reducible apply State.updHerd_keeps
    | with_reducible apply State.firstRecord_keeps
    | with_reducible apply Keeps.ite
    | split

theorem execHerdForm_keeps {r s : State} (c : MbxCall) (h : Keeps r s) :
    OutKeeps r (execHerdForm c s) := by
  unfold execHerdForm
  repeat' first
    | with_reducible assumption
    | with_reducible intro x
    | (lift_lets -underBinder; with_reducible intro x)
    | with_reducible apply OutKeeps.next
    | with_reducible apply ResKeeps.ok
    | with_reducible apply ResKeeps.lost
    | with_reducible apply ResKeeps.wait
    | with_reducible apply FstKeeps.mk
    | with_reducible apply State.lose_keeps
    | with_reducible apply mailbox_keeps
    | with_reducible apply State.readPlan_keeps
    | with_reducible apply State.announce_keeps
    | with_reducible apply State.hear_keeps
    | with_reducible apply ResKeeps.bind
    | with_reducible apply Keeps.ite
    | with_reducible apply ResKeeps.ite
    | with_reducible apply FstKeeps.ite
    | with_reducible apply OutKeeps.ite
    | (with_reducible apply Keeps.plain; · with_reducible assumption)
    | (with_reducible apply Keeps.plain; (on_goal 1 => refine ResKeeps.of_ok ?_ (by assumption)))
    | (with_reducible apply Keeps.plain; (on_goal 1 => refine ResKeeps.of_lost ?_ (by assumption)))
    | (with_reducible apply Keeps.plain; (on_goal 1 => refine ResKeeps.of_wait ?_ (by assumption)))
    | refine ResKeeps.of_ok ?_ (by assumption)
    | refine ResKeeps.of_lost ?_ (by assumption)
    | refine ResKeeps.of_wait ?_ (by assumption)
    | with_reducible exact ResKeeps.ok_keep (by assumption)
    | with_reducible exact ResKeeps.lost_keep (by assumption)
    | with_reducible exact ResKeeps.wait_keep (by assumption)
    | split

theorem State.ofEpoch_keeps {r s : State} (h1 : Herd) (epoch : Nat) (k : State → State) (h : Keeps r s) (g_k : ∀ x0, Keeps r x0 → Keeps r (k x0)) :
    Keeps r (State.ofEpoch s h1 epoch k) := by
  unfold State.ofEpoch
  repeat' first
    | with_reducible assumption
    | with_reducible apply g_k
    | with_reducible apply State.updHerd_keeps
    | with_reducible apply Keeps.ite

theorem State.portReport_keeps {r s : State} (h1 : Herd) (m : Nat) (peers : List (Nat × Nat)) (h : Keeps r s) :
    Keeps r (State.portReport s h1 m peers) := by
  unfold State.portReport
  repeat' first
    | with_reducible assumption
    | with_reducible intro x
    | with_reducible apply State.newLinks_keeps
    | with_reducible apply Keeps.ite

theorem State.hearJoiner_keeps {r s : State} (h1 : Herd) (m : Nat) (peers : List (Nat × Nat)) (quote : List Byte) (h : Keeps r s) :
    Keeps r (State.hearJoiner s h1 m peers quote) := by
  unfold State.hearJoiner
  repeat' first
    | with_reducible assumption
    | with_reducible intro x
    | with_reducible apply State.updHerd_keeps
    | with_reducible apply State.onRoute_keeps
    | with_reducible apply Keeps.ite

theorem execHerdAnnounce_keeps {r s : State} (hid : BitVec 32) (m : HerdFrom) (quote : QuoteIn) (peers : List (Nat × Nat)) (h : Keeps r s) :
    OutKeeps r (execHerdAnnounce hid m quote peers s) := by
  unfold execHerdAnnounce
  repeat' first
    | with_reducible assumption
    | with_reducible intro x
    | with_reducible apply OutKeeps.next
    | with_reducible apply State.updHerd_keeps
    | with_reducible apply State.announce_keeps
    | with_reducible apply State.hear_keeps
    | with_reducible apply State.ofEpoch_keeps
    | with_reducible apply State.portReport_keeps
    | with_reducible apply State.hearJoiner_keeps
    | with_reducible apply Keeps.ite
    | with_reducible apply OutKeeps.ite
    | split

theorem execFormationTimeout_keeps {r s : State} (hid : BitVec 32) (h : Keeps r s) :
    OutKeeps r (execFormationTimeout hid s) := by
  unfold execFormationTimeout
  repeat' first
    | with_reducible assumption
    | with_reducible apply OutKeeps.next
    | with_reducible apply State.firstRecord_keeps
    | with_reducible apply State.unform_keeps
    | with_reducible apply Keeps.ite
    | split

theorem execMembershipRecord_keeps {r s : State} (hid : BitVec 32) (r1 : MemRec) (h : Keeps r s) :
    OutKeeps r (execMembershipRecord hid r1 s) := by
  unfold execMembershipRecord
  repeat' first
    | with_reducible assumption
    | with_reducible apply OutKeeps.next
    | with_reducible apply State.updHerd_keeps
    | with_reducible apply State.leaveHerd_keeps
    | with_reducible apply State.quitHerd_keeps
    | with_reducible apply State.formed_keeps
    | with_reducible apply State.unform_keeps
    | with_reducible apply Keeps.ite
    | split

theorem State.resendHold_keeps {r s : State} (hid : Nat) (h : Keeps r s) :
    Keeps r (State.resendHold s hid) := by
  unfold State.resendHold
  repeat' first
    | with_reducible assumption
    | with_reducible intro x
    | with_reducible apply State.onRoute_keeps
    | with_reducible apply State.ctlAgain_keeps
    | with_reducible apply Keeps.foldl
    | split

theorem State.changeStep_keeps {r s : State} (hid : Nat) (h : Keeps r s) :
    Keeps r (State.changeStep s hid) := by
  unfold State.changeStep
  repeat' first
    | with_reducible assumption
    | with_reducible intro x
    | with_reducible apply State.countLate_keeps
    | with_reducible apply State.skipStep_keeps
    | with_reducible apply State.replayStep_keeps
    | with_reducible apply State.judgeStep_keeps
    | with_reducible apply Keeps.ite
    | split

theorem execMembershipSwap_keeps {r s : State} (hid : BitVec 32) (h : Keeps r s) :
    OutKeeps r (execMembershipSwap hid s) := by
  unfold execMembershipSwap
  repeat' first
    | with_reducible assumption
    | (with_reducible intro x; first
        | (with_reducible refine with_fact (a := Keeps r x) ?_ ?_; (on_goal 1 => unfold x); (on_goal 2 => (intro hx; clear_value x)))
        | skip)
    | (lift_lets -underBinder; with_reducible intro x)
    | with_reducible apply OutKeeps.next
    | with_reducible apply State.updHerd_keeps
    | with_reducible apply State.ctxEvent_keeps
    | with_reducible apply State.putStatus_keeps
    | with_reducible apply State.completeAll_keeps
    | with_reducible apply State.dropCkpts_keeps
    | with_reducible apply State.resendHold_keeps
    | with_reducible apply State.changeStep_keeps
    | with_reducible apply Keeps.ite
    | with_reducible apply OutKeeps.ite
    | with_reducible apply Keeps.foldl
    | (with_reducible apply Keeps.plain; · with_reducible assumption)
    | split

theorem execLivenessReport_keeps {r s : State} (hid : BitVec 32) (src : Option HerdFrom) (h : Keeps r s) :
    OutKeeps r (execLivenessReport hid src s) := by
  unfold execLivenessReport
  repeat' first
    | with_reducible assumption
    | with_reducible intro x
    | with_reducible apply OutKeeps.next
    | with_reducible apply State.updHerd_keeps
    | with_reducible apply State.toMember_keeps
    | with_reducible apply State.ofEpoch_keeps
    | with_reducible apply Keeps.ite
    | with_reducible apply OutKeeps.ite
    | with_reducible apply Keeps.foldl
    | split

theorem execMemberMissing_keeps {r s : State} (hid : BitVec 32) (m : Fin 4096) (h : Keeps r s) :
    OutKeeps r (execMemberMissing hid m s) := by
  unfold execMemberMissing
  repeat' first
    | with_reducible assumption
    | with_reducible apply OutKeeps.next
    | with_reducible apply State.dropMember_keeps
    | with_reducible apply Keeps.ite
    | split

theorem execWithdraw_keeps {r s : State} (hid : BitVec 32) (m : HerdFrom) (h : Keeps r s) :
    OutKeeps r (execWithdraw hid m s) := by
  unfold execWithdraw
  repeat' first
    | with_reducible assumption
    | with_reducible intro x
    | with_reducible apply OutKeeps.next
    | with_reducible apply State.dropMember_keeps
    | with_reducible apply State.ofEpoch_keeps
    | with_reducible apply Keeps.ite
    | with_reducible apply OutKeeps.ite
    | split

theorem State.beaconDown_keeps {r s : State} (h1 : Herd) (h : Keeps r s) :
    Keeps r (State.beaconDown s h1) := by
  unfold State.beaconDown
  repeat' first
    | with_reducible assumption
    | with_reducible intro x
    | with_reducible apply State.toMember_keeps
    | with_reducible apply Keeps.foldl

theorem execHerdBeacon_keeps {r s : State} (hid : BitVec 32) (recv : Option (BitVec 32 × Fin 4096)) (h : Keeps r s) :
    OutKeeps r (execHerdBeacon hid recv s) := by
  unfold execHerdBeacon
  repeat' first
    | with_reducible assumption
    | with_reducible intro x
    | with_reducible apply OutKeeps.next
    | with_reducible apply State.updHerd_keeps
    | with_reducible apply State.ofEpoch_keeps
    | with_reducible apply State.beaconDown_keeps
    | with_reducible apply Keeps.ite
    | split

theorem execBellwetherTakeover_keeps {r s : State} (hid : BitVec 32) (reached : List Nat) (h : Keeps r s) :
    OutKeeps r (execBellwetherTakeover hid reached s) := by
  unfold execBellwetherTakeover
  repeat' first
    | with_reducible assumption
    | (lift_lets -underBinder; with_reducible intro x)
    | with_reducible apply OutKeeps.next
    | with_reducible apply State.newRecord_keeps
    | with_reducible apply Keeps.ite
    | split

theorem execRootDigest_keeps {r s : State} (hid : BitVec 32) (h : Keeps r s) :
    OutKeeps r (execRootDigest hid s) := by
  unfold execRootDigest
  repeat' first
    | with_reducible assumption
    | (lift_lets -underBinder; with_reducible intro x)
    | (with_reducible intro x; with_reducible refine with_fact (a := Keeps r x) ?_ ?_; (on_goal 1 => unfold x); (on_goal 2 => (intro hx; clear_value x)))
    | with_reducible apply OutKeeps.next
    | with_reducible apply State.updHerd_keeps
    | with_reducible apply State.markOf_keeps
    | with_reducible apply State.toMember_keeps
    | with_reducible apply State.updLearn_keeps
    | with_reducible apply Keeps.ite
    | split

theorem State.fieldTestBegin_keeps {r s : State} (herd : Option Nat) (h : Keeps r s) :
    Keeps r (State.fieldTestBegin s herd) := by
  unfold State.fieldTestBegin
  repeat' first
    | (lift_lets -underBinder; with_reducible intro x)
    | (with_reducible apply Keeps.plain; · with_reducible assumption)

theorem State.strayStep_keeps {r s : State} (h1 : Herd) (stray : Bool) (h : Keeps r s) :
    Keeps r (State.strayStep s h1 stray) := by
  unfold State.strayStep
  repeat' first
    | with_reducible assumption
    | (lift_lets -underBinder; with_reducible intro x; with_reducible refine with_fact (a := Keeps r x) ?_ ?_; (on_goal 1 => unfold x); (on_goal 2 => (intro hx; clear_value x)))
    | with_reducible apply State.raiseFloor_keeps
    | with_reducible apply State.dropCkpts_keeps
    | split

theorem State.digestVals_keeps {r s : State} (h1 : Herd) (vals : List (HerdFrom × BitVec 256)) (h : Keeps r s) :
    Keeps r (State.digestVals s h1 vals) := by
  unfold State.digestVals
  repeat' first
    | with_reducible assumption
    | with_reducible intro x
    | with_reducible apply State.updHerd_keeps

theorem execDigestDecide_keeps {r s : State} (hid : BitVec 32) (vals : List (HerdFrom × BitVec 256)) (h : Keeps r s) :
    OutKeeps r (execDigestDecide hid vals s) := by
  unfold execDigestDecide
  repeat' first
    | with_reducible assumption
    | with_reducible intro x
    | (lift_lets -underBinder; with_reducible intro x)
    | with_reducible apply OutKeeps.next
    | with_reducible apply State.updHerd_keeps
    | with_reducible apply State.toMember_keeps
    | with_reducible apply State.newRecord_keeps
    | with_reducible apply State.expel_keeps
    | with_reducible apply State.fieldTestBegin_keeps
    | with_reducible apply State.strayStep_keeps
    | with_reducible apply State.digestVals_keeps
    | with_reducible apply Keeps.ite
    | with_reducible apply OutKeeps.ite
    | with_reducible apply Keeps.foldl
    | split

theorem execHerdJoin_keeps {r s : State} (c : MbxCall) (reserved : Bool) (covered : Bool) (h : Keeps r s) :
    OutKeeps r (execHerdJoin c reserved covered s) := by
  unfold execHerdJoin
  repeat' first
    | with_reducible assumption
    | with_reducible intro x
    | (lift_lets -underBinder; with_reducible intro x)
    | with_reducible apply OutKeeps.next
    | with_reducible apply ResKeeps.ok
    | with_reducible apply ResKeeps.lost
    | with_reducible apply ResKeeps.wait
    | with_reducible apply FstKeeps.mk
    | with_reducible apply State.reserve_keeps
    | with_reducible apply State.lose_keeps
    | with_reducible apply mailbox_keeps
    | with_reducible apply State.readPlan_keeps
    | with_reducible apply State.announce_keeps
    | with_reducible apply ResKeeps.bind
    | with_reducible apply Keeps.ite
    | with_reducible apply ResKeeps.ite
    | with_reducible apply FstKeeps.ite
    | with_reducible apply OutKeeps.ite
    | (with_reducible apply Keeps.plain; · with_reducible assumption)
    | (with_reducible apply Keeps.plain; (on_goal 1 => refine ResKeeps.of_ok ?_ (by assumption)))
    | (with_reducible apply Keeps.plain; (on_goal 1 => refine ResKeeps.of_lost ?_ (by assumption)))
    | (with_reducible apply Keeps.plain; (on_goal 1 => refine ResKeeps.of_wait ?_ (by assumption)))
    | refine ResKeeps.of_ok ?_ (by assumption)
    | refine ResKeeps.of_lost ?_ (by assumption)
    | refine ResKeeps.of_wait ?_ (by assumption)
    | with_reducible exact ResKeeps.ok_keep (by assumption)
    | with_reducible exact ResKeeps.lost_keep (by assumption)
    | with_reducible exact ResKeeps.wait_keep (by assumption)
    | split

theorem State.nameJoin_keeps {r s : State} (hid : Nat) (j : Nat) (t : Nat) (donors : List Nat) (links : List (Nat × Nat × Nat)) (h : Keeps r s) :
    Keeps r (State.nameJoin s hid j t donors links) := by
  unfold State.nameJoin
  repeat' first
    | with_reducible assumption
    | with_reducible intro x
    | with_reducible apply State.updHerd_keeps

theorem State.heedJoin_keeps {r s : State} (h1 : Herd) (m : CollMsg) (h : Keeps r s) :
    Keeps r (State.heedJoin s h1 m) := by
  unfold State.heedJoin
  repeat' first
    | with_reducible assumption
    | with_reducible intro x
    | with_reducible apply State.nameJoin_keeps
    | with_reducible apply Keeps.ite

theorem State.dropJoin_keeps {r s : State} (hid : Nat) (h : Keeps r s) :
    Keeps r (State.dropJoin s hid) := by
  unfold State.dropJoin
  repeat' first
    | with_reducible assumption
    | with_reducible intro x
    | with_reducible apply State.updHerd_keeps

theorem State.endJoin_keeps {r s : State} (h1 : Herd) (h : Keeps r s) :
    Keeps r (State.endJoin s h1) := by
  unfold State.endJoin
  repeat' first
    | with_reducible assumption
    | with_reducible intro x
    | with_reducible apply State.toMember_keeps
    | with_reducible apply State.dropJoin_keeps
    | with_reducible apply Keeps.ite
    | with_reducible apply Keeps.foldl

theorem execJoinAbandon_keeps {r s : State} (hid : BitVec 32) (h : Keeps r s) :
    OutKeeps r (execJoinAbandon hid s) := by
  unfold execJoinAbandon
  repeat' first
    | with_reducible assumption
    | with_reducible intro x
    | with_reducible apply OutKeeps.next
    | with_reducible apply State.unform_keeps
    | with_reducible apply State.endJoin_keeps
    | with_reducible apply Keeps.ite
    | with_reducible apply OutKeeps.ite
    | split

end Sys2Proof.Machine
end

