-- ==== Sys2Proof/Laws/KeepBinding.lean ====
section
/-! SUPPORT. What the operations of Machine/Binding.lean keep. -/

namespace Sys2Proof.Machine

theorem State.readScb_keeps {r s : State} (h : Keeps r s) :
    SndKeeps r (State.readScb s) := by
  unfold State.readScb
  repeat' first
    | with_reducible assumption
    | (lift_lets -underBinder; with_reducible intro x)
    | with_reducible apply SndKeeps.mk
    | with_reducible apply State.readVa_keeps
    | (with_reducible apply Keeps.plain; (on_goal 1 => refine ResKeeps.of_ok ?_ (by assumption)))
    | split

theorem execLearnBind_keeps {r s : State} (c : MbxCall) (h : Keeps r s) :
    OutKeeps r (execLearnBind c s) := by
  unfold execLearnBind
  repeat' first
    | with_reducible assumption
    | (with_reducible intro x; first
        | (with_reducible refine with_fact (a := Keeps r x) ?_ ?_; (on_goal 1 => unfold x); (on_goal 2 => (intro hx; clear_value x)))
        | skip)
    | (lift_lets -underBinder; with_reducible intro x)
    | with_reducible apply OutKeeps.next
    | with_reducible apply FstKeeps.mk
    | with_reducible apply State.putStatus_keeps
    | with_reducible apply mailbox_keeps
    | with_reducible apply State.grantUpdate_keeps
    | with_reducible apply Keeps.ite
    | with_reducible apply FstKeeps.ite
    | with_reducible apply OutKeeps.ite
    | (with_reducible apply Keeps.plain; · with_reducible assumption)
    | split

theorem State.sealPairs_keeps {r s : State} (l : Learn) (p0 : Nat) (p1 : Nat) (h : Keeps r s) :
    ResKeeps r (State.sealPairs s l p0 p1) := by
  induction p0 generalizing s p1 with
  | zero =>
      unfold State.sealPairs
      repeat' first
        | with_reducible assumption
        | with_reducible apply ResKeeps.ok
  | succ n ih =>
      unfold State.sealPairs
      repeat' first
        | with_reducible assumption
        | (lift_lets -underBinder; with_reducible intro x)
        | with_reducible intro x
        | with_reducible apply ih
        | with_reducible apply State.readVa_keeps
        | with_reducible apply State.writeVa_keeps
        | with_reducible apply ResKeeps.bind

theorem execLearnSeal_keeps {r s : State} (c : MbxCall) (h : Keeps r s) :
    OutKeeps r (execLearnSeal c s) := by
  unfold execLearnSeal
  repeat' first
    | with_reducible assumption
    | (lift_lets -underBinder; with_reducible intro x)
    | with_reducible intro x
    | with_reducible apply OutKeeps.next
    | with_reducible apply SndKeeps.mk
    | with_reducible apply FstKeeps.mk
    | with_reducible apply State.lose_keeps
    | with_reducible apply mailbox_keeps
    | with_reducible apply State.updLearn_keeps
    | with_reducible refine SndKeeps.snd (State.readScb_keeps (h := ?_) ..)
    | with_reducible apply State.sealPairs_keeps
    | (with_reducible apply Keeps.plain; (on_goal 1 => refine SndKeeps.of ?_ (by assumption)))
    | (with_reducible apply Keeps.plain; (on_goal 1 => refine ResKeeps.of_ok ?_ (by assumption)))
    | (with_reducible apply Keeps.plain; (on_goal 1 => refine ResKeeps.of_lost ?_ (by assumption)))
    | (with_reducible apply Keeps.plain; (on_goal 1 => refine ResKeeps.of_wait ?_ (by assumption)))
    | split

theorem State.stampOpen_keeps {r s : State} (t : Nat) (h : Keeps r s) :
    Keeps r (State.stampOpen s t) := by
  unfold State.stampOpen
  repeat' first
    | with_reducible assumption
    | with_reducible intro x
    | with_reducible apply State.markAt_keeps
    | with_reducible apply State.startRow_keeps

theorem State.openStep_keeps {r s : State} (t : Nat) (b : Scb) (g : List Group) (ls : Nat) (h : Keeps r s) :
    Keeps r (State.openStep s t b g ls) := by
  unfold State.openStep
  repeat' first
    | with_reducible assumption
    | (with_reducible intro x; first
        | (with_reducible refine with_fact (a := Keeps r x) ?_ ?_; (on_goal 1 => unfold x); (on_goal 2 => (intro hx; clear_value x)))
        | skip)
    | (lift_lets -underBinder; with_reducible intro x)
    | with_reducible apply State.markAt_keeps
    | with_reducible apply State.mark_keeps
    | with_reducible apply State.readLoss_keeps
    | with_reducible apply State.updLearn_keeps
    | with_reducible apply State.dropStep_keeps
    | with_reducible apply State.stampOpen_keeps
    | with_reducible apply Keeps.ite
    | with_reducible apply Keeps.foldl
    | with_reducible apply OptKeeps.map
    | with_reducible apply OptSndKeeps.map_of
    | with_reducible apply OptSndKeeps.map
    | (with_reducible apply Keeps.plain; · with_reducible assumption)
    | (with_reducible apply Keeps.upd; · with_reducible assumption)
    | with_reducible exact le_rfl
    | with_reducible exact WfKeep.refl _
    | with_reducible exact WfKeep.put _ _ _
    | with_reducible exact WfKeep.drop _ _
    | with_reducible exact WfKeep.nil _
    | with_reducible exact WfKeep.filter _ _
    | with_reducible exact CoresKeep.refl _
    | with_reducible exact LifeUp.refl _
    | with_reducible exact BootUp.refl _
    | split
    | (clear_value *; split)

theorem execStepOpen_keeps {r s : State} (t : W64) (h : Keeps r s) :
    OutKeeps r (execStepOpen t s) := by
  unfold execStepOpen
  repeat' first
    | with_reducible assumption
    | with_reducible intro x
    | with_reducible apply OutKeeps.next
    | with_reducible apply SndKeeps.mk
    | with_reducible apply State.lose_keeps
    | with_reducible apply State.updLearn_keeps
    | with_reducible refine SndKeeps.snd (State.readScb_keeps (h := ?_) ..)
    | with_reducible apply State.readScb_keeps
    | with_reducible apply State.stampOpen_keeps
    | with_reducible apply State.openStep_keeps
    | with_reducible apply Keeps.ite
    | with_reducible apply SndKeeps.ite
    | with_reducible apply OutKeeps.ite
    | refine SndKeeps.of ?_ (by assumption)
    | with_reducible exact SndKeeps.snd (by assumption)
    | with_reducible exact SndKeeps.mk_keep (by assumption)
    | split

end Sys2Proof.Machine
end

