-- ==== Sys2Proof/Laws/KeepUpdate.lean ====
section
/-! SUPPORT. What the operations of Machine/Update.lean keep. -/

namespace Sys2Proof.Machine

theorem State.blockTaken_keeps {r s : State} (m : Nat) (j : Nat) (b : List Byte) (h : Keeps r s) :
    Keeps r (State.blockTaken s m j b) := by
  unfold State.blockTaken
  repeat' first
    | with_reducible assumption
    | (with_reducible intro x; first
        | (with_reducible refine with_fact (a := Keeps r x) ?_ ?_; (on_goal 1 => unfold x); (on_goal 2 => (intro hx; clear_value x)))
        | skip)
    | (lift_lets -underBinder; with_reducible intro x)
    | with_reducible apply State.bumpAt_keeps
    | with_reducible apply State.mark_keeps
    | with_reducible apply State.updLearn_keeps
    | with_reducible apply Keeps.ite
    | (with_reducible apply Keeps.plain; · with_reducible assumption)
    | split

theorem State.heldBlock_keeps {r s : State} (j : Nat) (h : Keeps r s) :
    ResKeeps r (State.heldBlock s j) := by
  unfold State.heldBlock
  repeat' first
    | with_reducible assumption
    | with_reducible intro x
    | (lift_lets -underBinder; with_reducible intro x)
    | with_reducible apply ResKeeps.ok
    | with_reducible apply ResKeeps.lost
    | with_reducible apply ResKeeps.wait
    | with_reducible apply State.readVa_keeps
    | with_reducible apply ResKeeps.bind
    | with_reducible apply Keeps.ite
    | with_reducible apply ResKeeps.ite
    | refine ResKeeps.of_ok ?_ (by assumption)
    | refine ResKeeps.of_lost ?_ (by assumption)
    | refine ResKeeps.of_wait ?_ (by assumption)
    | with_reducible exact ResKeeps.ok_keep (by assumption)
    | with_reducible exact ResKeeps.lost_keep (by assumption)
    | with_reducible exact ResKeeps.wait_keep (by assumption)
    | split

theorem State.slotBlock_keeps {r s : State} (m : Nat) (j : Nat) (b : List Byte) (h : Keeps r s) :
    Keeps r (State.slotBlock s m j b) := by
  unfold State.slotBlock
  repeat' first
    | with_reducible assumption
    | with_reducible intro x
    | with_reducible apply State.updUnit_keeps
    | with_reducible apply State.bump_keeps
    | with_reducible apply State.mark_keeps
    | with_reducible apply State.blockTaken_keeps
    | with_reducible apply Keeps.ite
    | split

theorem State.parkBlock_keeps {r s : State} (m : Nat) (j : Nat) (b : List Byte) (h : Keeps r s) :
    Keeps r (State.parkBlock s m j b) := by
  unfold State.parkBlock
  repeat' first
    | with_reducible assumption
    | with_reducible intro x
    | with_reducible apply ResKeeps.ok
    | with_reducible apply ResKeeps.lost
    | with_reducible apply ResKeeps.wait
    | with_reducible apply State.updUnit_keeps
    | with_reducible apply State.bump_keeps
    | with_reducible apply State.writeVa_keeps
    | with_reducible apply State.blockTaken_keeps
    | with_reducible apply State.settle_keeps
    | with_reducible apply ResKeeps.bind
    | with_reducible apply Keeps.ite
    | with_reducible apply ResKeeps.ite
    | refine ResKeeps.of_ok ?_ (by assumption)
    | refine ResKeeps.of_lost ?_ (by assumption)
    | refine ResKeeps.of_wait ?_ (by assumption)
    | with_reducible exact ResKeeps.ok_keep (by assumption)
    | with_reducible exact ResKeeps.lost_keep (by assumption)
    | with_reducible exact ResKeeps.wait_keep (by assumption)
    | split

theorem State.blockTo_keeps {r s : State} (j : Nat) (b : List Byte) (h : Keeps r s) :
    Keeps r (State.blockTo s j b) := by
  unfold State.blockTo
  repeat' first
    | with_reducible assumption
    | with_reducible intro x
    | with_reducible apply State.updTarget_keeps
    | with_reducible apply State.lose_keeps
    | with_reducible apply State.slotBlock_keeps
    | with_reducible apply State.parkBlock_keeps
    | with_reducible apply Keeps.ite
    | split

theorem execBlockArrival_keeps {r s : State} (block : BitVec 40) (data : List Byte) (h : Keeps r s) :
    OutKeeps r (execBlockArrival block data s) := by
  unfold execBlockArrival
  repeat' first
    | with_reducible assumption
    | with_reducible intro x
    | with_reducible apply OutKeeps.next
    | with_reducible apply ResKeeps.ok
    | with_reducible apply ResKeeps.lost
    | with_reducible apply ResKeeps.wait
    | with_reducible apply State.heldBlock_keeps
    | with_reducible apply State.blockTo_keeps
    | with_reducible apply State.settle_keeps
    | with_reducible apply ResKeeps.bind
    | with_reducible apply Keeps.ite

theorem execBallastPark_keeps {r s : State} (p : BallastIn) (h : Keeps r s) :
    OutKeeps r (execBallastPark p s) := by
  unfold execBallastPark
  repeat' first
    | with_reducible assumption
    | with_reducible intro x
    | with_reducible apply OutKeeps.next
    | with_reducible apply ResKeeps.ok
    | with_reducible apply ResKeeps.lost
    | with_reducible apply ResKeeps.wait
    | with_reducible apply State.updUnit_keeps
    | with_reducible apply State.mark_keeps
    | with_reducible apply State.readVa_keeps
    | with_reducible apply State.settle_keeps
    | with_reducible apply ResKeeps.bind
    | with_reducible apply Keeps.ite
    | with_reducible apply ResKeeps.ite
    | with_reducible apply OutKeeps.ite
    | refine ResKeeps.of_ok ?_ (by assumption)
    | refine ResKeeps.of_lost ?_ (by assumption)
    | refine ResKeeps.of_wait ?_ (by assumption)
    | with_reducible exact ResKeeps.ok_keep (by assumption)
    | with_reducible exact ResKeeps.lost_keep (by assumption)
    | with_reducible exact ResKeeps.wait_keep (by assumption)
    | split

theorem State.readF32_keeps {r s : State} (init c : Nat) (p0 : List Nat) (h : Keeps r s) :
    ResKeeps r (State.readF32 s init c p0) := by
  induction p0 generalizing s with
  | nil =>
      unfold State.readF32
      repeat' first
        | with_reducible assumption
        | with_reducible apply ResKeeps.ok
  | cons y ys ih =>
      unfold State.readF32
      repeat' first
        | with_reducible assumption
        | with_reducible intro x
        | with_reducible apply ResKeeps.ok
        | with_reducible apply ih
        | with_reducible apply State.readVa_keeps
        | with_reducible apply ResKeeps.bind

theorem State.factored_keeps {r s : State} (init : Nat) (g : Group) (k p0 : Nat) (grads : List (BitVec 32)) (h : Keeps r s) :
    ResKeeps r (State.factored s init g k p0 grads) := by
  unfold State.factored
  repeat' first
    | with_reducible assumption
    | (lift_lets -underBinder; with_reducible intro x)
    | with_reducible intro x
    | with_reducible apply ResKeeps.ok
    | with_reducible apply State.readF32_keeps
    | with_reducible apply ResKeeps.bind
    | with_reducible apply ResKeeps.ite

theorem State.updSlot_keeps {r s : State} (m i : Nat) (f : Slot → Slot) (h : Keeps r s) :
    Keeps r (State.updSlot s m i f) := by
  unfold State.updSlot
  repeat' first
    | with_reducible assumption
    | with_reducible apply State.updUnit_keeps

theorem State.accSum_keeps {r s : State} (a : ℤ) (p2 : BitVec 32) (h : Keeps r s) :
    SndKeeps r (State.accSum s a p2) := by
  unfold State.accSum
  repeat' first
    | with_reducible assumption
    | (with_reducible intro x)
    | (lift_lets -underBinder; with_reducible intro x; first
        | (with_reducible refine with_fact (a := SndKeeps r x) ?_ ?_; (on_goal 1 => unfold x); (on_goal 2 => (intro hx; clear_value x)))
        | skip)
    | with_reducible apply SndKeeps.mk
    | with_reducible refine SndKeeps.snd (State.free_keeps (h := ?_) ..)
    | with_reducible apply State.free_keeps
    | with_reducible apply Keeps.ite
    | with_reducible apply SndKeeps.ite
    | refine SndKeeps.of ?_ (by assumption)
    | with_reducible exact SndKeeps.snd (by assumption)
    | with_reducible exact SndKeeps.mk_keep (by assumption)
    | split

theorem State.addAcc_keeps {r s : State} (init : Nat) (g : Group) (i : Nat) (p4 : BitVec 32) (h : Keeps r s) :
    ResKeeps r (State.addAcc s init g i p4) := by
  unfold State.addAcc
  repeat' first
    | with_reducible assumption
    | with_reducible intro x
    | with_reducible apply ResKeeps.ok
    | with_reducible apply ResKeeps.lost
    | with_reducible apply ResKeeps.wait
    | with_reducible apply SndKeeps.mk
    | with_reducible apply State.readVa_keeps
    | with_reducible apply State.writeVa_keeps
    | with_reducible refine SndKeeps.snd (State.accSum_keeps (h := ?_) ..)
    | with_reducible apply State.accSum_keeps
    | with_reducible apply ResKeeps.bind

theorem State.addSquares_keeps {r s : State} (init : Nat) (g : Group) (p3 : List (Nat × BitVec 32)) (h : Keeps r s) :
    ResKeeps r (State.addSquares s init g p3) := by
  induction p3 generalizing s with
  | nil =>
      unfold State.addSquares
      repeat' first
        | with_reducible assumption
        | with_reducible intro x
        | with_reducible apply ResKeeps.ok
  | cons a l ih =>
      unfold State.addSquares
      repeat' first
        | with_reducible assumption
        | with_reducible intro x
        | with_reducible apply ResKeeps.ok
        | with_reducible apply ResKeeps.lost
        | with_reducible apply ResKeeps.wait
        | with_reducible apply ih
        | with_reducible apply State.addAcc_keeps
        | with_reducible apply ResKeeps.bind

theorem State.addFactors_keeps {r s : State} (init : Nat) (g : Group) (rg : Nat) (old : List Byte) (b0 : List Byte) (b1 : List Byte) (h : Keeps r s) :
    ResKeeps r (State.addFactors s init g rg old b0 b1) := by
  unfold State.addFactors
  repeat' first
    | with_reducible assumption
    | with_reducible intro x
    | with_reducible apply ResKeeps.ok
    | with_reducible apply ResKeeps.lost
    | with_reducible apply ResKeeps.wait
    | with_reducible apply State.addSquares_keeps
    | with_reducible apply ResKeeps.bind
    | with_reducible apply Keeps.ite
    | with_reducible apply ResKeeps.ite

theorem State.slotPieces_keeps {r s : State} (m : Nat) (k : Slot) (n : Nat) (a : Acc) (h : Keeps r s) :
    ResKeeps r (State.slotPieces s m k n a) := by
  unfold State.slotPieces
  repeat' first
    | with_reducible assumption
    | with_reducible intro x
    | with_reducible apply ResKeeps.ok
    | with_reducible apply ResKeeps.lost
    | with_reducible apply ResKeeps.wait
    | with_reducible apply State.outside_keeps
    | with_reducible apply State.check_keeps
    | with_reducible apply State.locateAll_keeps
    | with_reducible apply ResKeeps.bind
    | refine ResKeeps.of_ok ?_ (by assumption)
    | refine ResKeeps.of_lost ?_ (by assumption)
    | refine ResKeeps.of_wait ?_ (by assumption)
    | with_reducible exact ResKeeps.ok_keep (by assumption)
    | with_reducible exact ResKeeps.lost_keep (by assumption)
    | with_reducible exact ResKeeps.wait_keep (by assumption)
    | split

theorem State.readSlot_keeps {r s : State} (m : Nat) (k : Slot) (n : Nat) (h : Keeps r s) :
    ResKeeps r (State.readSlot s m k n) := by
  unfold State.readSlot
  repeat' first
    | with_reducible assumption
    | with_reducible intro x
    | with_reducible apply ResKeeps.ok
    | with_reducible apply ResKeeps.lost
    | with_reducible apply ResKeeps.wait
    | with_reducible apply State.slotPieces_keeps
    | with_reducible apply ResKeeps.bind

theorem State.recAcked_keeps {r s : State} (m gi rg : Nat) (b : List Byte) (h : Keeps r s) :
    Keeps r (State.recAcked s m gi rg b) := by
  unfold State.recAcked
  repeat' first
    | with_reducible assumption
    | (lift_lets -underBinder; with_reducible intro x; with_reducible refine with_fact (a := Keeps r x) ?_ ?_; (on_goal 1 => unfold x); (on_goal 2 => (intro hx; clear_value x)))
    | (with_reducible intro x; first
        | (with_reducible refine with_fact (a := Keeps r x) ?_ ?_; (on_goal 1 => unfold x); (on_goal 2 => (intro hx; clear_value x)))
        | skip)
    | with_reducible apply State.updUnit_keeps
    | with_reducible apply State.bump_keeps
    | with_reducible apply State.mark_keeps
    | with_reducible apply State.updLearn_keeps
    | with_reducible apply Keeps.ite

theorem execRecordGroupRead_keeps {r s : State} (m : Fin 4) (i : Fin 32768) (h : Keeps r s) :
    OutKeeps r (execRecordGroupRead m i s) := by
  unfold execRecordGroupRead
  repeat' first
    | with_reducible assumption
    | (with_reducible intro x; first
        | (with_reducible refine with_fact (a := Keeps r x) ?_ ?_; (on_goal 1 => unfold x); (on_goal 2 => (intro hx; clear_value x)))
        | skip)
    | (lift_lets -underBinder; with_reducible intro x)
    | with_reducible apply OutKeeps.next
    | with_reducible apply ResKeeps.ok
    | with_reducible apply ResKeeps.lost
    | with_reducible apply ResKeeps.wait
    | with_reducible apply State.lose_keeps
    | with_reducible apply State.updLearn_keeps
    | with_reducible apply State.factored_keeps
    | with_reducible apply State.updSlot_keeps
    | with_reducible apply State.addFactors_keeps
    | with_reducible apply State.readSlot_keeps
    | with_reducible apply State.recAcked_keeps
    | with_reducible apply State.settle_keeps
    | with_reducible apply ResKeeps.bind
    | with_reducible apply Keeps.ite
    | with_reducible apply ResKeeps.ite
    | with_reducible apply OutKeeps.ite
    | (with_reducible apply Keeps.plain; · with_reducible assumption)
    | refine ResKeeps.of_ok ?_ (by assumption)
    | refine ResKeeps.of_lost ?_ (by assumption)
    | refine ResKeeps.of_wait ?_ (by assumption)
    | with_reducible exact ResKeeps.ok_keep (by assumption)
    | with_reducible exact ResKeeps.lost_keep (by assumption)
    | with_reducible exact ResKeeps.wait_keep (by assumption)
    | split

theorem State.putWork_keeps {r s : State} (init : Nat) (g : Group) (rg : Nat) (b : List Byte) (h : Keeps r s) :
    ResKeeps r (State.putWork s init g rg b) := by
  unfold State.putWork
  repeat' first
    | with_reducible assumption
    | (lift_lets -underBinder; with_reducible intro x)
    | with_reducible intro x
    | with_reducible apply ResKeeps.ok
    | with_reducible apply State.writeVa_keeps
    | with_reducible apply ResKeeps.bind
    | with_reducible apply ResKeeps.ite

theorem State.putPair_keeps {r s : State} (m : Nat) (g : Group) (p3 : List Slot) (h : Keeps r s) :
    ResKeeps r (State.putPair s m g p3) := by
  unfold State.putPair
  repeat' first
    | with_reducible assumption
    | with_reducible intro x
    | with_reducible apply ResKeeps.ok
    | with_reducible apply ResKeeps.lost
    | with_reducible apply ResKeeps.wait
    | with_reducible apply State.writePieces_keeps
    | with_reducible apply State.slotPieces_keeps
    | with_reducible apply State.putWork_keeps
    | with_reducible apply ResKeeps.bind
    | with_reducible apply Keeps.foldl
    | with_reducible apply ResKeeps.foldl
    | with_reducible apply OptKeeps.getD
    | refine ResKeeps.of_ok ?_ (by assumption)
    | refine ResKeeps.of_lost ?_ (by assumption)
    | refine ResKeeps.of_wait ?_ (by assumption)
    | with_reducible exact ResKeeps.ok_keep (by assumption)
    | with_reducible exact ResKeeps.lost_keep (by assumption)
    | with_reducible exact ResKeeps.wait_keep (by assumption)
    | split

theorem execSlotDrain_keeps {r s : State} (m : Fin 4) (h : Keeps r s) :
    OutKeeps r (execSlotDrain m s) := by
  unfold execSlotDrain
  repeat' first
    | with_reducible assumption
    | (with_reducible intro x; first
        | (with_reducible refine with_fact (a := Keeps r x) ?_ ?_; (on_goal 1 => unfold x); (on_goal 2 => (intro hx; clear_value x)))
        | skip)
    | (lift_lets -underBinder; with_reducible intro x)
    | with_reducible apply OutKeeps.next
    | with_reducible apply ResKeeps.ok
    | with_reducible apply ResKeeps.lost
    | with_reducible apply ResKeeps.wait
    | with_reducible apply State.updUnit_keeps
    | with_reducible apply State.bump_keeps
    | with_reducible apply State.putPair_keeps
    | with_reducible apply State.settle_keeps
    | with_reducible apply ResKeeps.bind
    | with_reducible apply Keeps.ite
    | with_reducible apply ResKeeps.ite
    | with_reducible apply OutKeeps.ite
    | (with_reducible apply Keeps.plain; · with_reducible assumption)
    | refine ResKeeps.of_ok ?_ (by assumption)
    | refine ResKeeps.of_lost ?_ (by assumption)
    | refine ResKeeps.of_wait ?_ (by assumption)
    | with_reducible exact ResKeeps.ok_keep (by assumption)
    | with_reducible exact ResKeeps.lost_keep (by assumption)
    | with_reducible exact ResKeeps.wait_keep (by assumption)
    | split

theorem execRecordGroupWritten_keeps {r s : State} (m : Fin 4) (h : Keeps r s) :
    OutKeeps r (execRecordGroupWritten m s) := by
  unfold execRecordGroupWritten
  repeat' first
    | with_reducible assumption
    | (with_reducible intro x; first
        | (with_reducible refine with_fact (a := Keeps r x) ?_ ?_; (on_goal 1 => unfold x); (on_goal 2 => (intro hx; clear_value x)))
        | skip)
    | (lift_lets -underBinder; with_reducible intro x; first
        | (with_reducible refine with_fact (a := Keeps r x) ?_ ?_; (on_goal 1 => unfold x); (on_goal 2 => (intro hx; clear_value x)))
        | skip)
    | with_reducible apply OutKeeps.next
    | with_reducible apply ResKeeps.ok
    | with_reducible apply ResKeeps.lost
    | with_reducible apply ResKeeps.wait
    | with_reducible apply State.updUnit_keeps
    | with_reducible apply State.bumpAt_keeps
    | with_reducible apply State.addFactors_keeps
    | with_reducible apply State.recAcked_keeps
    | with_reducible apply State.settle_keeps
    | with_reducible apply ResKeeps.bind
    | with_reducible apply Keeps.ite
    | with_reducible apply ResKeeps.ite
    | with_reducible apply OutKeeps.ite
    | with_reducible apply OptKeeps.getD
    | (with_reducible apply Keeps.plain; · with_reducible assumption)
    | refine ResKeeps.of_ok ?_ (by assumption)
    | refine ResKeeps.of_lost ?_ (by assumption)
    | refine ResKeeps.of_wait ?_ (by assumption)
    | with_reducible exact ResKeeps.ok_keep (by assumption)
    | with_reducible exact ResKeeps.lost_keep (by assumption)
    | with_reducible exact ResKeeps.wait_keep (by assumption)
    | split

theorem execFactorFinalise_keeps {r s : State} (g : Fin 256) (h : Keeps r s) :
    OutKeeps r (execFactorFinalise g s) := by
  unfold execFactorFinalise
  repeat' first
    | with_reducible assumption
    | with_reducible intro x
    | with_reducible apply OutKeeps.next
    | with_reducible apply ResKeeps.ok
    | with_reducible apply ResKeeps.lost
    | with_reducible apply ResKeeps.wait
    | with_reducible apply State.readVa_keeps
    | with_reducible apply State.writeVa_keeps
    | with_reducible apply State.updLearn_keeps
    | with_reducible apply State.readF32_keeps
    | with_reducible apply State.settle_keeps
    | with_reducible apply ResKeeps.bind
    | with_reducible apply Keeps.ite
    | with_reducible apply ResKeeps.ite
    | with_reducible apply OutKeeps.ite
    | refine ResKeeps.of_ok ?_ (by assumption)
    | refine ResKeeps.of_lost ?_ (by assumption)
    | refine ResKeeps.of_wait ?_ (by assumption)
    | with_reducible exact ResKeeps.ok_keep (by assumption)
    | with_reducible exact ResKeeps.lost_keep (by assumption)
    | with_reducible exact ResKeeps.wait_keep (by assumption)
    | split

theorem execGroupFence_keeps {r s : State} (g : Fin 256) (h : Keeps r s) :
    OutKeeps r (execGroupFence g s) := by
  unfold execGroupFence
  repeat' first
    | with_reducible assumption
    | (lift_lets -underBinder; with_reducible intro x; first
        | (with_reducible refine with_fact (a := Keeps r x) ?_ ?_; (on_goal 1 => unfold x); (on_goal 2 => (intro hx; clear_value x)))
        | skip)
    | with_reducible apply OutKeeps.next
    | with_reducible apply State.signal_keeps
    | with_reducible apply State.updLearn_keeps
    | with_reducible apply Keeps.ite
    | split

theorem State.ckptStep_keeps {r s : State} (h : Keeps r s) :
    Keeps r (State.ckptStep s) := by
  unfold State.ckptStep
  repeat' first
    | with_reducible assumption
    | (lift_lets -underBinder; with_reducible intro x)
    | with_reducible apply Keeps.ite
    | (with_reducible apply Keeps.plain; · with_reducible assumption)
    | split

theorem State.recsAt_keeps {r s : State} (init : Nat) (p2 : List Nat) (h : Keeps r s) :
    ResKeeps r (State.recsAt s init p2) := by
  induction p2 generalizing s with
  | nil =>
      unfold State.recsAt
      repeat' first
        | with_reducible assumption
        | with_reducible intro x
        | with_reducible apply ResKeeps.ok
  | cons a l ih =>
      unfold State.recsAt
      repeat' first
        | with_reducible assumption
        | with_reducible intro x
        | with_reducible apply ResKeeps.ok
        | with_reducible apply ResKeeps.lost
        | with_reducible apply ResKeeps.wait
        | with_reducible apply ih
        | with_reducible apply State.readVa_keeps
        | with_reducible apply ResKeeps.bind

theorem State.leavesOf_keeps {r s : State} (t : Nat) (p2 : List Nat) (h : Keeps r s) :
    ResKeeps r (State.leavesOf s t p2) := by
  induction p2 generalizing s with
  | nil =>
      unfold State.leavesOf
      repeat' first
        | with_reducible assumption
        | with_reducible intro x
        | with_reducible apply ResKeeps.ok
  | cons a l ih =>
      unfold State.leavesOf
      repeat' first
        | with_reducible assumption
        | with_reducible intro x
        | with_reducible apply ResKeeps.ok
        | with_reducible apply ResKeeps.lost
        | with_reducible apply ResKeeps.wait
        | with_reducible apply ih
        | with_reducible apply State.recsAt_keeps
        | with_reducible apply ResKeeps.bind

theorem State.rootOf_keeps {r s : State} (t : Nat) (h : Keeps r s) :
    ResKeeps r (State.rootOf s t) := by
  unfold State.rootOf
  repeat' first
    | with_reducible assumption
    | with_reducible intro x
    | with_reducible apply ResKeeps.ok
    | with_reducible apply ResKeeps.lost
    | with_reducible apply ResKeeps.wait
    | with_reducible apply State.leavesOf_keeps
    | with_reducible apply ResKeeps.bind

theorem State.sendMoments_keeps {r s : State} (h1 : Herd) (j : Nat) (p3 : List Nat) (h : Keeps r s) :
    Keeps r (State.sendMoments s h1 j p3) := by
  induction p3 generalizing s with
  | nil =>
      unfold State.sendMoments
      repeat' first
        | with_reducible assumption
  | cons a l ih =>
      unfold State.sendMoments
      repeat' first
        | with_reducible assumption
        | with_reducible intro x
        | with_reducible apply ResKeeps.ok
        | with_reducible apply ResKeeps.lost
        | with_reducible apply ResKeeps.wait
        | with_reducible apply ih
        | with_reducible apply State.toMember_keeps
        | with_reducible apply State.recsAt_keeps
        | with_reducible apply State.settle_keeps

theorem State.sendFactors_keeps {r s : State} (h1 : Herd) (j : Nat) (p3 : List (Group × Nat)) (h : Keeps r s) :
    Keeps r (State.sendFactors s h1 j p3) := by
  induction p3 generalizing s with
  | nil =>
      unfold State.sendFactors
      repeat' first
        | with_reducible assumption
  | cons a l ih =>
      unfold State.sendFactors
      repeat' first
        | with_reducible assumption
        | with_reducible intro x
        | with_reducible apply ResKeeps.ok
        | with_reducible apply ResKeeps.lost
        | with_reducible apply ResKeeps.wait
        | with_reducible apply ih
        | with_reducible apply State.readVa_keeps
        | with_reducible apply State.toMember_keeps
        | with_reducible apply State.settle_keeps

theorem State.joinSend_keeps {r s : State} (h : Keeps r s) :
    Keeps r (State.joinSend s) := by
  unfold State.joinSend
  repeat' first
    | with_reducible assumption
    | with_reducible intro x
    | with_reducible apply State.toMember_keeps
    | with_reducible apply State.sendMoments_keeps
    | with_reducible apply State.sendFactors_keeps
    | with_reducible apply Keeps.ite
    | split

theorem State.joinTake_keeps {r s : State} (h1 : Herd) (m : CollMsg) (h : Keeps r s) :
    Keeps r (State.joinTake s h1 m) := by
  unfold State.joinTake
  repeat' first
    | with_reducible assumption
    | with_reducible intro x
    | with_reducible apply ResKeeps.ok
    | with_reducible apply ResKeeps.lost
    | with_reducible apply ResKeeps.wait
    | with_reducible apply State.updCtx_keeps
    | with_reducible apply State.updHerd_keeps
    | with_reducible apply State.writeVa_keeps
    | with_reducible apply State.updLearn_keeps
    | with_reducible apply State.recsAt_keeps
    | with_reducible apply State.settle_keeps
    | with_reducible apply ResKeeps.bind
    | with_reducible apply Keeps.ite
    | with_reducible apply ResKeeps.ite
    | refine ResKeeps.of_ok ?_ (by assumption)
    | refine ResKeeps.of_lost ?_ (by assumption)
    | refine ResKeeps.of_wait ?_ (by assumption)
    | with_reducible exact ResKeeps.ok_keep (by assumption)
    | with_reducible exact ResKeeps.lost_keep (by assumption)
    | with_reducible exact ResKeeps.wait_keep (by assumption)
    | split

theorem execJoinTransfer_keeps {r s : State} (hid : BitVec 32) (m : HerdFrom) (root : Option (BitVec 256)) (h : Keeps r s) :
    OutKeeps r (execJoinTransfer hid m root s) := by
  unfold execJoinTransfer
  repeat' first
    | with_reducible assumption
    | with_reducible intro x
    | with_reducible apply OutKeeps.next
    | with_reducible apply ResKeeps.ok
    | with_reducible apply ResKeeps.lost
    | with_reducible apply ResKeeps.wait
    | with_reducible apply State.updHerd_keeps
    | with_reducible apply State.toMember_keeps
    | with_reducible apply State.newRecord_keeps
    | with_reducible apply State.formSend_keeps
    | with_reducible apply State.ofEpoch_keeps
    | with_reducible apply State.nameJoin_keeps
    | with_reducible apply State.endJoin_keeps
    | with_reducible apply State.rootOf_keeps
    | with_reducible apply State.settle_keeps
    | with_reducible apply ResKeeps.bind
    | with_reducible apply Keeps.ite
    | with_reducible apply ResKeeps.ite
    | with_reducible apply OutKeeps.ite
    | with_reducible apply Keeps.foldl
    | with_reducible apply ResKeeps.foldl
    | refine ResKeeps.of_ok ?_ (by assumption)
    | refine ResKeeps.of_lost ?_ (by assumption)
    | refine ResKeeps.of_wait ?_ (by assumption)
    | with_reducible exact ResKeeps.ok_keep (by assumption)
    | with_reducible exact ResKeeps.lost_keep (by assumption)
    | with_reducible exact ResKeeps.wait_keep (by assumption)
    | split

theorem execCommitFence_keeps {r s : State} (h : Keeps r s) :
    OutKeeps r (execCommitFence s) := by
  unfold execCommitFence
  repeat' first
    | with_reducible assumption
    | (lift_lets -underBinder; with_reducible intro x)
    | (with_reducible intro x; first
        | (with_reducible refine with_fact (a := Keeps r x) ?_ ?_; (on_goal 1 => unfold x); (on_goal 2 => (intro hx; clear_value x)))
        | skip)
    | with_reducible apply OutKeeps.next
    | with_reducible apply State.mark_keeps
    | with_reducible apply State.signal_keeps
    | with_reducible apply State.updLearn_keeps
    | with_reducible apply State.joinSend_keeps
    | with_reducible apply State.openStep_keeps
    | with_reducible apply State.ckptStep_keeps
    | with_reducible apply Keeps.ite
    | split

theorem State.askOwner_keeps {r s : State} (m : Nat) (rg : Nat) (h : Keeps r s) :
    Keeps r (State.askOwner s m rg) := by
  unfold State.askOwner
  repeat' first
    | with_reducible assumption
    | with_reducible intro x
    | (lift_lets -underBinder; with_reducible intro x)
    | with_reducible apply State.askAgain_keeps
    | with_reducible apply State.toMember_keeps
    | with_reducible apply State.updLearn_keeps
    | with_reducible apply Keeps.ite
    | split

theorem execSlotRebuild_keeps {r s : State} (m : Fin 4) (i : Fin 32768) (park : Bool) (h : Keeps r s) :
    OutKeeps r (execSlotRebuild m i park s) := by
  unfold execSlotRebuild
  repeat' first
    | with_reducible assumption
    | (lift_lets -underBinder; with_reducible intro x; first
        | (with_reducible refine with_fact (a := Keeps r x) ?_ ?_; (on_goal 1 => unfold x); (on_goal 2 => (intro hx; clear_value x)))
        | skip)
    | with_reducible intro x
    | with_reducible apply OutKeeps.next
    | with_reducible apply State.updUnit_keeps
    | with_reducible apply State.bump_keeps
    | with_reducible apply State.record_keeps
    | with_reducible apply State.askOwner_keeps
    | split

theorem execResendTimeout_keeps {r s : State} (m : Fin 4) (h : Keeps r s) :
    OutKeeps r (execResendTimeout m s) := by
  unfold execResendTimeout
  repeat' first
    | with_reducible assumption
    | with_reducible apply OutKeeps.next
    | with_reducible apply State.lose_keeps
    | with_reducible apply State.quitHerd_keeps
    | with_reducible apply Keeps.ite
    | split

theorem execMdieReady_keeps {r s : State} (m : Fin 4) (h : Keeps r s) :
    OutKeeps r (execMdieReady m s) := by
  unfold execMdieReady
  repeat' first
    | with_reducible assumption
    | (lift_lets -underBinder; with_reducible intro x; first
        | (with_reducible refine with_fact (a := Keeps r x) ?_ ?_; (on_goal 1 => unfold x); (on_goal 2 => (intro hx; clear_value x)))
        | skip)
    | with_reducible intro x
    | with_reducible apply OutKeeps.next
    | with_reducible apply State.unitReady_keeps
    | with_reducible apply State.askOwner_keeps
    | with_reducible apply Keeps.ite
    | with_reducible apply Keeps.foldl

end Sys2Proof.Machine
end

