-- ==== Sys2Proof/Laws/KeepColl.lean ====
section
/-! SUPPORT. What the operations of Machine/Coll.lean keep. -/

namespace Sys2Proof.Machine

theorem execCollBind_keeps {r s : State} (c : MbxCall) (h : Keeps r s) :
    OutKeeps r (execCollBind c s) := by
  unfold execCollBind
  repeat' first
    | with_reducible assumption
    | (lift_lets -underBinder; with_reducible intro x)
    | with_reducible intro x
    | with_reducible apply OutKeeps.next
    | with_reducible apply FstKeeps.mk
    | with_reducible apply State.updColl_keeps
    | with_reducible apply mailbox_keeps
    | with_reducible apply State.fillShadow_keeps
    | split

theorem execCollSwap_keeps {r s : State} (c : MbxCall) (h : Keeps r s) :
    OutKeeps r (execCollSwap c s) := by
  unfold execCollSwap
  apply OutKeeps.next
  apply mailbox_keeps h
  intro a t ht
  apply FstKeeps.ite
  · exact FstKeeps.mk ht
  · exact FstKeeps.mk (Keeps.plain (State.fillShadow_keeps ht))

theorem execSlotTableSwap_keeps {r s : State} (h : Keeps r s) :
    OutKeeps r (execSlotTableSwap s) := by
  unfold execSlotTableSwap
  repeat' first
    | with_reducible assumption
    | with_reducible apply OutKeeps.next
    | with_reducible apply Keeps.ite
    | (with_reducible apply Keeps.plain; · with_reducible assumption)

theorem State.bumpColl_keeps {r s : State} (ch i : Nat) (h : Keeps r s) :
    Keeps r (State.bumpColl s ch i) := by
  unfold State.bumpColl
  repeat' first
    | with_reducible assumption
    | with_reducible apply State.bumpAt_keeps

theorem State.collSend_keeps {r s : State} (ch : Nat) (h1 : Herd) (dst : Nat) (m : CollMsg) (h : Keeps r s) :
    Keeps r (State.collSend s ch h1 dst m) := by
  unfold State.collSend
  repeat' first
    | with_reducible assumption
    | with_reducible intro x
    | with_reducible apply State.updColl_keeps
    | with_reducible apply State.markOf_keeps
    | with_reducible apply State.onRoute_keeps
    | with_reducible apply State.bumpColl_keeps
    | with_reducible apply Keeps.ite

theorem State.updDesc_keeps {r s : State} (ch q : Nat) (f : CollDesc → CollDesc) (h : Keeps r s) :
    Keeps r (State.updDesc s ch q f) := by
  unfold State.updDesc
  repeat' first
    | with_reducible assumption
    | with_reducible apply State.updColl_keeps

theorem State.collStop_keeps {r s : State} (ch : Nat) (h1 : Herd) (h : Keeps r s) :
    Keeps r (State.collStop s ch h1) := by
  unfold State.collStop
  repeat' first
    | with_reducible assumption
    | (lift_lets -underBinder; with_reducible intro x; first
        | (with_reducible refine with_fact (a := Keeps r x) ?_ ?_; (on_goal 1 => unfold x); (on_goal 2 => (intro hx; clear_value x)))
        | skip)
    | with_reducible intro x
    | with_reducible apply State.updColl_keeps
    | with_reducible apply State.lose_keeps
    | with_reducible apply State.toMember_keeps
    | with_reducible apply Keeps.foldl

theorem State.contribution_keeps {r s : State} (ch : Nat) (h1 : Herd) (d : CollDesc) (u : Nat) (h : Keeps r s) :
    ResKeeps r (State.contribution s ch h1 d u) := by
  unfold State.contribution
  repeat' first
    | with_reducible assumption
    | with_reducible intro x
    | with_reducible apply ResKeeps.ok
    | with_reducible apply State.readVa_keeps
    | with_reducible apply ResKeeps.bind

theorem State.ownStats_keeps {r s : State} (d : CollDesc) (u : Nat) (b : List Byte) (h : Keeps r s) :
    Keeps r (State.ownStats s d u b) := by
  unfold State.ownStats
  repeat' first
    | with_reducible assumption
    | (lift_lets -underBinder; with_reducible intro x)
    | with_reducible intro x
    | with_reducible apply State.updLearn_keeps
    | with_reducible apply Keeps.ite

theorem State.selfStats_keeps {r s : State} (h1 : Herd) (d : CollDesc) (b : List Byte) (h : Keeps r s) :
    Keeps r (State.selfStats s h1 d b) := by
  unfold State.selfStats
  repeat' first
    | with_reducible assumption
    | (lift_lets -underBinder; with_reducible intro x)
    | with_reducible apply State.updLearn_keeps
    | with_reducible apply Keeps.ite

theorem State.gather_keeps {r s : State} (ch : Nat) (h1 : Herd) (us : List Nat) (h : Keeps r s) :
    Keeps r (State.gather s ch h1 us) := by
  unfold State.gather
  repeat' first
    | with_reducible assumption
    | with_reducible intro x
    | with_reducible apply State.updColl_keeps
    | with_reducible apply State.updLearn_keeps
    | with_reducible apply Keeps.ite

theorem State.ownUnit_keeps {r s : State} (ch : Nat) (h1 : Herd) (d : CollDesc) (u : Nat) (h : Keeps r s) :
    Keeps r (State.ownUnit s ch h1 d u) := by
  unfold State.ownUnit
  repeat' first
    | with_reducible assumption
    | with_reducible intro x
    | with_reducible apply State.updColl_keeps
    | with_reducible apply State.gather_keeps
    | with_reducible apply Keeps.ite

theorem State.passUnit_keeps {r s : State} (ch : Nat) (h1 : Herd) (q : Nat) (u : Nat) (acc : Option (List Byte)) (h : Keeps r s) :
    Keeps r (State.passUnit s ch h1 q u acc) := by
  unfold State.passUnit
  repeat' first
    | with_reducible assumption
    | with_reducible intro x
    | with_reducible apply ResKeeps.ok
    | with_reducible apply ResKeeps.lost
    | with_reducible apply ResKeeps.wait
    | with_reducible apply State.writeVa_keeps
    | with_reducible apply State.bumpColl_keeps
    | with_reducible apply State.collSend_keeps
    | with_reducible apply State.updDesc_keeps
    | with_reducible apply State.contribution_keeps
    | with_reducible apply State.ownStats_keeps
    | with_reducible apply State.selfStats_keeps
    | with_reducible apply State.ownUnit_keeps
    | with_reducible apply State.settle_keeps
    | with_reducible apply ResKeeps.bind
    | with_reducible apply Keeps.ite
    | with_reducible apply ResKeeps.ite
    | refine ResKeeps.of_ok ?_ (by assumption)
    | refine ResKeeps.of_lost ?_ (by assumption)
    | refine ResKeeps.of_wait ?_ (by assumption)
    | with_reducible exact ResKeeps.ok_keep (by assumption)
    | with_reducible exact ResKeeps.lost_keep (by assumption)
    | with_reducible exact ResKeeps.wait_keep (by assumption)
    | split

theorem State.takeBack_keeps {r s : State} (ch : Nat) (h1 : Herd) (q u : Nat) (b : List Byte) (h : Keeps r s) :
    Keeps r (State.takeBack s ch h1 q u b) := by
  unfold State.takeBack
  repeat' first
    | with_reducible assumption
    | (lift_lets -underBinder; with_reducible intro x)
    | (with_reducible intro x; first
        | (with_reducible refine with_fact (a := Keeps r x) ?_ ?_; (on_goal 1 => unfold x); (on_goal 2 => (intro hx; clear_value x)))
        | skip)
    | with_reducible apply State.writeVa_keeps
    | with_reducible apply State.settle_keeps
    | with_reducible apply State.collSend_keeps
    | with_reducible apply State.updDesc_keeps
    | with_reducible apply Keeps.ite
    | split

theorem State.allsumStep_keeps {r s : State} (ch : Nat) (h1 : Herd) (q : Nat) (h : Keeps r s) :
    Keeps r (State.allsumStep s ch h1 q) := by
  unfold State.allsumStep
  repeat' first
    | with_reducible assumption
    | (lift_lets -underBinder; with_reducible intro x; first
        | (with_reducible refine with_fact (a := Keeps r x) ?_ ?_; (on_goal 1 => unfold x); (on_goal 2 => (intro hx; clear_value x)))
        | skip)
    | with_reducible intro x
    | with_reducible apply State.writeVa_keeps
    | with_reducible apply State.settle_keeps
    | with_reducible apply State.collSend_keeps
    | with_reducible apply State.updDesc_keeps
    | with_reducible refine SndKeeps.snd (State.roundSums_keeps (h := ?_) ..)
    | with_reducible apply Keeps.ite
    | with_reducible apply Keeps.foldl
    | split

theorem State.allsumAdd_keeps {r s : State} (ch : Nat) (h1 : Herd) (q m : Nat) (b : List Byte) (h : Keeps r s) :
    Keeps r (State.allsumAdd s ch h1 q m b) := by
  unfold State.allsumAdd
  repeat' first
    | with_reducible assumption
    | with_reducible apply State.updDesc_keeps
    | with_reducible apply State.allsumStep_keeps

theorem State.shardCheck_keeps {r s : State} (ch : Nat) (h1 : Herd) (h : Keeps r s) :
    Keeps r (State.shardCheck s ch h1) := by
  unfold State.shardCheck
  repeat' first
    | with_reducible assumption
    | with_reducible intro x
    | with_reducible apply State.mark_keeps
    | with_reducible apply State.updLearn_keeps
    | with_reducible apply State.gather_keeps
    | with_reducible apply Keeps.ite
    | with_reducible apply Keeps.foldl

theorem State.finishDescs_keeps {r s : State} (ch : Nat) (p2 : Nat) (h : Keeps r s) :
    Keeps r (State.finishDescs s ch p2) := by
  induction p2 generalizing s with
  | zero =>
      unfold State.finishDescs
      repeat' first
        | with_reducible assumption
  | succ n ih =>
      unfold State.finishDescs
      repeat' first
        | with_reducible assumption
        | with_reducible intro x
        | with_reducible apply ih
        | with_reducible apply State.updColl_keeps
        | with_reducible apply State.markOf_keeps
        | with_reducible apply State.signal_keeps
        | with_reducible apply Keeps.ite
        | split

theorem State.collSettle_keeps {r s : State} (ch : Nat) (h1 : Herd) (h : Keeps r s) :
    Keeps r (State.collSettle s ch h1) := by
  unfold State.collSettle
  repeat' first
    | with_reducible assumption
    | with_reducible apply State.shardCheck_keeps
    | with_reducible apply State.finishDescs_keeps

theorem State.startUnits_keeps {r s : State} (ch : Nat) (h1 : Herd) (q : Nat) (p4 : List Nat) (h : Keeps r s) :
    Keeps r (State.startUnits s ch h1 q p4) := by
  induction p4 generalizing s with
  | nil =>
      unfold State.startUnits
      repeat' first
        | with_reducible assumption
  | cons a l ih =>
      unfold State.startUnits
      repeat' first
        | with_reducible assumption
        | with_reducible intro x
        | with_reducible apply ResKeeps.ok
        | with_reducible apply ResKeeps.lost
        | with_reducible apply ResKeeps.wait
        | with_reducible apply ih
        | with_reducible apply State.readVa_keeps
        | with_reducible apply State.writeVa_keeps
        | with_reducible apply State.collSend_keeps
        | with_reducible apply State.updDesc_keeps
        | with_reducible apply State.passUnit_keeps
        | with_reducible apply State.settle_keeps
        | with_reducible apply ResKeeps.bind
        | with_reducible apply Keeps.ite
        | with_reducible apply ResKeeps.ite
        | refine ResKeeps.of_ok ?_ (by assumption)
        | refine ResKeeps.of_lost ?_ (by assumption)
        | refine ResKeeps.of_wait ?_ (by assumption)
        | with_reducible exact ResKeeps.ok_keep (by assumption)
        | with_reducible exact ResKeeps.lost_keep (by assumption)
        | with_reducible exact ResKeeps.wait_keep (by assumption)
        | split

theorem State.startSums_keeps {r s : State} (ch : Nat) (h1 : Herd) (d : CollDesc) (h : Keeps r s) :
    Keeps r (State.startSums s ch h1 d) := by
  unfold State.startSums
  repeat' first
    | with_reducible assumption
    | (lift_lets -underBinder; with_reducible intro x)
    | with_reducible intro x
    | with_reducible apply State.readVa_keeps
    | with_reducible apply State.settle_keeps
    | with_reducible apply State.allsumAdd_keeps

theorem State.meet_keeps {r s : State} (ch : Nat) (h1 : Herd) (d : CollDesc) (m : CollMsg) (h : Keeps r s) :
    Keeps r (State.meet s ch h1 d m) := by
  unfold State.meet
  repeat' first
    | with_reducible assumption
    | with_reducible intro x
    | with_reducible apply ResKeeps.ok
    | with_reducible apply ResKeeps.lost
    | with_reducible apply ResKeeps.wait
    | with_reducible apply State.writeVa_keeps
    | with_reducible apply State.collSend_keeps
    | with_reducible apply State.updDesc_keeps
    | with_reducible apply State.collStop_keeps
    | with_reducible apply State.passUnit_keeps
    | with_reducible apply State.takeBack_keeps
    | with_reducible apply State.allsumAdd_keeps
    | with_reducible apply State.settle_keeps
    | with_reducible apply ResKeeps.bind
    | with_reducible apply Keeps.ite
    | with_reducible apply ResKeeps.ite
    | with_reducible apply Keeps.foldl

theorem State.meetWaiting_keeps {r s : State} (ch : Nat) (h1 : Herd) (p0 : List CollMsg) (h : Keeps r s) :
    Keeps r (State.meetWaiting s ch h1 p0) := by
  induction p0 generalizing s with
  | nil =>
      unfold State.meetWaiting
      repeat' first
        | with_reducible assumption
  | cons y ys ih =>
      unfold State.meetWaiting
      repeat' first
        | with_reducible assumption
        | with_reducible apply ih
        | with_reducible apply State.updColl_keeps
        | with_reducible apply State.meet_keeps
        | split

theorem State.takeDesc_keeps {r s : State} (ch : Nat) (op : Nat) (h : Keeps r s) :
    Keeps r (State.takeDesc s ch op) := by
  unfold State.takeDesc
  repeat' first
    | with_reducible assumption
    | with_reducible intro x
    | with_reducible apply ResKeeps.ok
    | with_reducible apply ResKeeps.lost
    | with_reducible apply ResKeeps.wait
    | with_reducible apply State.updColl_keeps
    | with_reducible apply State.readVa_keeps
    | with_reducible apply State.lose_keeps
    | with_reducible apply State.updLearn_keeps
    | with_reducible apply State.collSettle_keeps
    | with_reducible apply State.startUnits_keeps
    | with_reducible apply State.startSums_keeps
    | with_reducible apply State.meetWaiting_keeps
    | with_reducible apply State.settle_keeps
    | with_reducible apply ResKeeps.bind
    | with_reducible apply Keeps.ite
    | with_reducible apply ResKeeps.ite
    | with_reducible apply Keeps.foldl
    | with_reducible apply ResKeeps.foldl
    | refine ResKeeps.of_ok ?_ (by assumption)
    | refine ResKeeps.of_lost ?_ (by assumption)
    | refine ResKeeps.of_wait ?_ (by assumption)
    | with_reducible exact ResKeeps.ok_keep (by assumption)
    | with_reducible exact ResKeeps.lost_keep (by assumption)
    | with_reducible exact ResKeeps.wait_keep (by assumption)
    | split

theorem execExpmax_keeps {r s : State} (ch : Fin 16) (h : Keeps r s) :
    OutKeeps r (execExpmax ch s) := by
  unfold execExpmax
  repeat' first
    | with_reducible assumption
    | (with_reducible intro x)
    | (with_reducible intro x)
    | with_reducible apply OutKeeps.next
    | with_reducible apply State.takeDesc_keeps

theorem execCollectiveRsum_keeps {r s : State} (ch : Fin 16) (h : Keeps r s) :
    OutKeeps r (execCollectiveRsum ch s) := by
  unfold execCollectiveRsum
  repeat' first
    | with_reducible assumption
    | (with_reducible intro x)
    | (with_reducible intro x)
    | with_reducible apply OutKeeps.next
    | with_reducible apply State.takeDesc_keeps

theorem State.sendShard_keeps {r s : State} (ch : Nat) (h1 : Herd) (p3 : List Nat) (h : Keeps r s) :
    Keeps r (State.sendShard s ch h1 p3) := by
  induction p3 generalizing s with
  | nil =>
      unfold State.sendShard
      repeat' first
        | with_reducible assumption
  | cons a l ih =>
      unfold State.sendShard
      repeat' first
        | with_reducible assumption
        | with_reducible intro x
        | with_reducible apply ResKeeps.ok
        | with_reducible apply ResKeeps.lost
        | with_reducible apply ResKeeps.wait
        | with_reducible apply ih
        | with_reducible apply State.updColl_keeps
        | with_reducible apply State.readVa_keeps
        | with_reducible apply State.updLearn_keeps
        | with_reducible apply State.collSend_keeps
        | with_reducible apply State.settle_keeps
        | with_reducible apply ResKeeps.bind
        | with_reducible apply Keeps.ite

theorem execAgather_keeps {r s : State} (ch : Fin 16) (h : Keeps r s) :
    OutKeeps r (execAgather ch s) := by
  unfold execAgather
  repeat' first
    | with_reducible assumption
    | (with_reducible intro x)
    | (with_reducible intro x)
    | with_reducible apply OutKeeps.next
    | with_reducible apply State.takeDesc_keeps
    | with_reducible apply State.sendShard_keeps
    | with_reducible apply Keeps.ite
    | with_reducible apply OutKeeps.ite
    | split

theorem execAllsum_keeps {r s : State} (ch : Fin 16) (h : Keeps r s) :
    OutKeeps r (execAllsum ch s) := by
  unfold execAllsum
  repeat' first
    | with_reducible assumption
    | (with_reducible intro x)
    | (with_reducible intro x)
    | with_reducible apply OutKeeps.next
    | with_reducible apply State.takeDesc_keeps

theorem State.shardUnit_keeps {r s : State} (ch : Nat) (h1 : Herd) (m : CollMsg) (h : Keeps r s) :
    Keeps r (State.shardUnit s ch h1 m) := by
  unfold State.shardUnit
  repeat' first
    | with_reducible assumption
    | (lift_lets -underBinder; with_reducible intro x)
    | (with_reducible intro x; with_reducible refine with_fact (a := Keeps r x) ?_ ?_; (on_goal 1 => unfold x); (on_goal 2 => (intro hx; clear_value x)))
    | with_reducible apply State.updLearn_keeps
    | with_reducible apply State.collSend_keeps
    | with_reducible apply Keeps.ite

theorem State.collTake_keeps {r s : State} (h1 : Herd) (m : CollMsg) (h : Keeps r s) :
    Keeps r (State.collTake s h1 m) := by
  unfold State.collTake
  repeat' first
    | with_reducible assumption
    | with_reducible intro x
    | with_reducible apply State.updColl_keeps
    | with_reducible apply State.toMember_keeps
    | with_reducible apply State.takeRx_keeps
    | with_reducible apply State.bumpColl_keeps

theorem State.takeResent_keeps {r s : State} (m : CollMsg) (h : Keeps r s) :
    Keeps r (State.takeResent s m) := by
  unfold State.takeResent
  repeat' first
    | with_reducible assumption
    | with_reducible intro x
    | with_reducible apply State.updLearn_keeps
    | with_reducible apply Keeps.ite

theorem State.collArrive_keeps {r s : State} (h1 : Herd) (m : CollMsg) (h : Keeps r s) :
    Keeps r (State.collArrive s h1 m) := by
  unfold State.collArrive
  repeat' first
    | with_reducible assumption
    | with_reducible intro x
    | with_reducible apply State.updColl_keeps
    | with_reducible apply State.takeRx_keeps
    | with_reducible apply State.collSettle_keeps
    | with_reducible apply State.meet_keeps
    | with_reducible apply State.shardUnit_keeps
    | with_reducible apply State.collTake_keeps
    | with_reducible apply State.takeResent_keeps
    | with_reducible apply Keeps.ite
    | split

theorem State.resendUnit_keeps {r s : State} (h1 : Herd) (m : CollMsg) (h : Keeps r s) :
    Keeps r (State.resendUnit s h1 m) := by
  unfold State.resendUnit
  repeat' first
    | with_reducible assumption
    | with_reducible intro x
    | with_reducible apply ResKeeps.ok
    | with_reducible apply ResKeeps.lost
    | with_reducible apply ResKeeps.wait
    | with_reducible apply State.readVa_keeps
    | with_reducible apply State.collSend_keeps
    | with_reducible apply State.settle_keeps
    | with_reducible apply ResKeeps.bind
    | with_reducible apply Keeps.ite
    | with_reducible apply ResKeeps.ite
    | refine ResKeeps.of_ok ?_ (by assumption)
    | refine ResKeeps.of_lost ?_ (by assumption)
    | refine ResKeeps.of_wait ?_ (by assumption)
    | with_reducible exact ResKeeps.ok_keep (by assumption)
    | with_reducible exact ResKeeps.lost_keep (by assumption)
    | with_reducible exact ResKeeps.wait_keep (by assumption)
    | split

theorem State.control_keeps {r s : State} (h1 : Herd) (m : CollMsg) (h : Keeps r s) :
    Keeps r (State.control s h1 m) := by
  unfold State.control
  repeat' first
    | with_reducible assumption
    | with_reducible intro x
    | with_reducible apply State.updColl_keeps
    | with_reducible apply State.updHerd_keeps
    | with_reducible apply State.lose_keeps
    | with_reducible apply State.heardReport_keeps
    | with_reducible apply State.answerShrink_keeps
    | with_reducible apply State.answerQuery_keeps
    | with_reducible apply State.fieldTestBegin_keeps
    | with_reducible apply State.heedJoin_keeps
    | with_reducible apply State.dropJoin_keeps
    | with_reducible apply State.resendUnit_keeps
    | with_reducible apply Keeps.ite
    | split

theorem execCollectiveMessage_keeps {r s : State} (m : CollMsg) (h : Keeps r s) :
    OutKeeps r (execCollectiveMessage m s) := by
  unfold execCollectiveMessage
  repeat' first
    | with_reducible assumption
    | with_reducible intro x
    | with_reducible apply OutKeeps.next
    | with_reducible apply State.onRoute_keeps
    | with_reducible apply State.takeRx_keeps
    | with_reducible apply State.ofEpoch_keeps
    | with_reducible apply State.joinTake_keeps
    | with_reducible apply State.collArrive_keeps
    | with_reducible apply State.control_keeps
    | with_reducible apply Keeps.ite
    | with_reducible apply OutKeeps.ite
    | split

theorem execCollectiveAcknowledgement_keeps {r s : State} (ch : Fin 16) (succ : HerdFrom) (seq : W64) (h : Keeps r s) :
    OutKeeps r (execCollectiveAcknowledgement ch succ seq s) := by
  unfold execCollectiveAcknowledgement
  repeat' first
    | with_reducible assumption
    | with_reducible intro x
    | with_reducible apply OutKeeps.next
    | with_reducible apply State.updColl_keeps
    | with_reducible apply State.ofEpoch_keeps
    | with_reducible apply Keeps.ite
    | with_reducible apply OutKeeps.ite
    | split

theorem State.addRecord_keeps {r s : State} (ch : Nat) (h1 : Herd) (src : Nat) (r1 : GateRec) (h : Keeps r s) :
    Keeps r (State.addRecord s ch h1 src r1) := by
  unfold State.addRecord
  repeat' first
    | with_reducible assumption
    | with_reducible intro x
    | with_reducible apply State.updColl_keeps
    | with_reducible apply State.takeGate_keeps
    | with_reducible apply State.gateDown_keeps
    | with_reducible apply State.collSend_keeps
    | with_reducible apply Keeps.ite
    | split

theorem execScalarRecord_keeps {r s : State} (ch : Fin 16) (src : Fin 4096) (r1 : GateRec) (h : Keeps r s) :
    OutKeeps r (execScalarRecord ch src r1 s) := by
  unfold execScalarRecord
  repeat' first
    | with_reducible assumption
    | with_reducible intro x
    | with_reducible apply OutKeeps.next
    | with_reducible apply State.updColl_keeps
    | with_reducible apply State.ofEpoch_keeps
    | with_reducible apply State.collTake_keeps
    | with_reducible apply State.addRecord_keeps
    | with_reducible apply Keeps.ite
    | with_reducible apply OutKeeps.ite
    | split

end Sys2Proof.Machine
end

