-- ==== Sys2Proof/Laws/KeepTime.lean ====
section
/-! SUPPORT. What the operations of Machine/Time.lean keep. -/

namespace Sys2Proof.Machine

theorem State.tick_keeps {r s : State} (h : Keeps r s) :
    Keeps r (State.tick s) := by
  unfold State.tick
  repeat' first
    | with_reducible assumption
    | with_reducible apply Keeps.ite
    | (with_reducible apply Keeps.plain; · with_reducible assumption)

theorem Core.shift_keeps {r k : Core} (d : ℤ) (h : CoreKeep r k) :
    CoreKeep r (Core.shift k d) := by
  unfold Core.shift
  repeat' first
    | with_reducible assumption
    | with_reducible intro x
    | (with_reducible apply CoreKeep.upd; · with_reducible assumption)

theorem State.setTether_keeps {r s : State} (d : Int) (h : Keeps r s) : Keeps r (State.setTether s d) := by
  unfold State.setTether
  exact Keeps.upd h le_rfl (CoresKeep.map (fun k => Core.shift_keeps _ (.refl k)) _) (.refl _) (.refl _) (.refl _) (.refl _) (.refl _) (.refl _)

theorem State.beaconOut_keeps {r s : State} (but : Option Nat) (b : List Byte) (h : Keeps r s) :
    Keeps r (State.beaconOut s but b) := by
  unfold State.beaconOut
  repeat' first
    | with_reducible assumption
    | with_reducible intro x
    | with_reducible apply State.sendMsg_keeps
    | with_reducible apply Keeps.foldl

theorem State.becomeMaster_keeps {r s : State} (h : Keeps r s) :
    Keeps r (State.becomeMaster s) := by
  unfold State.becomeMaster
  repeat' first
    | with_reducible assumption
    | (lift_lets -underBinder; with_reducible intro x)
    | (with_reducible intro x; first
        | (with_reducible refine with_fact (a := Keeps r x) ?_ ?_; (on_goal 1 => unfold x); (on_goal 2 => (intro hx; clear_value x)))
        | skip)
    | with_reducible apply State.setTether_keeps
    | with_reducible apply Keeps.ite
    | (with_reducible apply Keeps.plain; · with_reducible assumption)

theorem State.heedBeacon_keeps {r s : State} (b : Beacon) (h : Keeps r s) :
    Keeps r (State.heedBeacon s b) := by
  unfold State.heedBeacon
  repeat' first
    | with_reducible assumption
    | (lift_lets -underBinder; with_reducible intro x)
    | (with_reducible intro x; first
        | (with_reducible refine with_fact (a := Keeps r x) ?_ ?_; (on_goal 1 => unfold x); (on_goal 2 => (intro hx; clear_value x)))
        | skip)
    | with_reducible apply State.beaconOut_keeps
    | with_reducible apply Keeps.ite
    | (with_reducible apply Keeps.plain; · with_reducible assumption)

theorem execTetherBeacon_keeps {r s : State} (recv : Option Beacon) (h : Keeps r s) :
    OutKeeps r (execTetherBeacon recv s) := by
  unfold execTetherBeacon
  repeat' first
    | with_reducible assumption
    | (lift_lets -underBinder; with_reducible intro x; with_reducible refine with_fact (a := Keeps r x) ?_ ?_; (on_goal 1 => unfold x); (on_goal 2 => (intro hx; clear_value x)))
    | with_reducible apply OutKeeps.next
    | with_reducible apply State.beaconOut_keeps
    | with_reducible apply State.becomeMaster_keeps
    | with_reducible apply State.heedBeacon_keeps
    | with_reducible apply Keeps.ite
    | (with_reducible apply Keeps.plain; · with_reducible assumption)
    | split

theorem execHoldoverExpiry_keeps {r s : State} (h : Keeps r s) :
    OutKeeps r (execHoldoverExpiry s) := by
  unfold execHoldoverExpiry
  repeat' first
    | with_reducible assumption
    | (lift_lets -underBinder; with_reducible intro x)
    | with_reducible apply OutKeeps.next
    | with_reducible apply Keeps.ite
    | (with_reducible apply Keeps.plain; · with_reducible assumption)

theorem execMasterLoss_keeps {r s : State} (h : Keeps r s) :
    OutKeeps r (execMasterLoss s) := by
  unfold execMasterLoss
  repeat' first
    | with_reducible assumption
    | (lift_lets -underBinder; with_reducible intro x)
    | (with_reducible intro x; with_reducible refine with_fact (a := Keeps r x) ?_ ?_; (on_goal 1 => unfold x); (on_goal 2 => (intro hx; clear_value x)))
    | with_reducible apply OutKeeps.next
    | with_reducible apply State.becomeMaster_keeps
    | with_reducible apply Keeps.ite
    | (with_reducible apply Keeps.plain; · with_reducible assumption)

theorem execUnlockedWithdrawal_keeps {r s : State} (h : Keeps r s) :
    OutKeeps r (execUnlockedWithdrawal s) := by
  unfold execUnlockedWithdrawal
  repeat' first
    | with_reducible assumption
    | with_reducible intro x
    | with_reducible apply OutKeeps.next
    | with_reducible apply State.quitHerd_keeps
    | with_reducible apply Keeps.ite
    | with_reducible apply Keeps.foldl

theorem State.slewFor_keeps {r s : State} (theta : Int) (h : Keeps r s) :
    Keeps r (State.slewFor s theta) := by
  unfold State.slewFor
  repeat' first
    | with_reducible assumption
    | (lift_lets -underBinder; with_reducible intro x)
    | with_reducible intro x
    | with_reducible apply SndKeeps.mk
    | with_reducible refine SndKeeps.snd (State.free_keeps (h := ?_) ..)
    | (with_reducible apply Keeps.plain; (on_goal 1 => refine SndKeeps.of ?_ (by assumption)))
    | split

theorem State.firstLock_keeps {r s : State} (theta : Int) (h : Keeps r s) :
    Keeps r (State.firstLock s theta) := by
  unfold State.firstLock
  repeat' first
    | with_reducible assumption
    | (lift_lets -underBinder; with_reducible intro x; with_reducible refine with_fact (a := Keeps r x) ?_ ?_; (on_goal 1 => unfold x); (on_goal 2 => (intro hx; clear_value x)))
    | with_reducible intro x
    | with_reducible apply State.setTether_keeps
    | (with_reducible apply Keeps.plain; · with_reducible assumption)

theorem State.exchange_keeps {r s : State} (theta : Int) (h : Keeps r s) :
    Keeps r (State.exchange s theta) := by
  unfold State.exchange
  repeat' first
    | with_reducible assumption
    | (lift_lets -underBinder; with_reducible intro x)
    | (with_reducible intro x; first
        | (with_reducible refine with_fact (a := Keeps r x) ?_ ?_; (on_goal 1 => unfold x); (on_goal 2 => (intro hx; clear_value x)))
        | skip)
    | with_reducible apply State.slewFor_keeps
    | with_reducible apply State.firstLock_keeps
    | with_reducible apply Keeps.ite
    | (with_reducible apply Keeps.plain; · with_reducible assumption)

theorem execTimeExchange_keeps {r s : State} (role : TimeRole) (port : Fin 16) (t2 : Nat) (t3 : Nat) (asym : ℤ) (h : Keeps r s) :
    OutKeeps r (execTimeExchange role port t2 t3 asym s) := by
  unfold execTimeExchange
  repeat' first
    | with_reducible assumption
    | with_reducible intro x
    | with_reducible apply OutKeeps.next
    | with_reducible apply State.updPort_keeps
    | with_reducible apply State.sendMsg_keeps
    | with_reducible apply State.exchange_keeps
    | with_reducible apply Keeps.ite
    | with_reducible apply OutKeeps.ite
    | split

theorem execSyncIn_keeps {r s : State} (wide : Bool) (h : Keeps r s) :
    OutKeeps r (execSyncIn wide s) := by
  unfold execSyncIn
  repeat' first
    | with_reducible assumption
    | (lift_lets -underBinder; with_reducible intro x)
    | with_reducible apply OutKeeps.next
    | with_reducible apply State.slewFor_keeps
    | with_reducible apply Keeps.ite
    | (with_reducible apply Keeps.plain; · with_reducible assumption)
    | split

theorem execSyncInMissing_keeps {r s : State} (h : Keeps r s) :
    OutKeeps r (execSyncInMissing s) := by
  unfold execSyncInMissing
  repeat' first
    | with_reducible assumption
    | (lift_lets -underBinder; with_reducible intro x)
    | with_reducible apply OutKeeps.next
    | with_reducible apply Keeps.ite
    | (with_reducible apply Keeps.plain; · with_reducible assumption)

theorem execSyncOut_keeps {r s : State} (h : Keeps r s) :
    OutKeeps r (execSyncOut s) := by
  unfold execSyncOut
  repeat' first
    | (lift_lets -underBinder; with_reducible intro x)
    | with_reducible apply OutKeeps.next
    | (with_reducible apply Keeps.plain; · with_reducible assumption)

theorem execPtmDialog_keeps {r s : State} (ok : Bool) (host : W64) (h : Keeps r s) :
    OutKeeps r (execPtmDialog ok host s) := by
  unfold execPtmDialog
  repeat' first
    | with_reducible assumption
    | (lift_lets -underBinder; with_reducible intro x)
    | with_reducible intro x
    | with_reducible apply OutKeeps.next
    | with_reducible apply Keeps.ite
    | (with_reducible apply Keeps.plain; · with_reducible assumption)

end Sys2Proof.Machine
end

