-- ==== Sys2Proof/Laws/KeepCkpt.lean ====
section
/-! SUPPORT. What the operations of Machine/Ckpt.lean keep. -/

namespace Sys2Proof.Machine

theorem execCkptStore_keeps {r s : State} (c : MbxCall) (h : Keeps r s) :
    OutKeeps r (execCkptStore c s) := by
  unfold execCkptStore
  repeat' first
    | with_reducible assumption
    | (lift_lets -underBinder; with_reducible intro x)
    | with_reducible intro x
    | with_reducible apply OutKeeps.next
    | with_reducible apply FstKeeps.mk
    | with_reducible apply State.readVa_keeps
    | with_reducible apply mailbox_keeps
    | (with_reducible apply Keeps.plain; (on_goal 1 => refine ResKeeps.of_ok ?_ (by assumption)))
    | (with_reducible apply Keeps.plain; (on_goal 1 => refine ResKeeps.of_lost ?_ (by assumption)))
    | (with_reducible apply Keeps.plain; (on_goal 1 => refine ResKeeps.of_wait ?_ (by assumption)))
    | split

theorem State.loseKey_keeps {r s : State} (c : Nat) (h : Keeps r s) :
    Keeps r (State.loseKey s c) := by
  unfold State.loseKey
  repeat' first
    | with_reducible assumption
    | with_reducible intro x
    | with_reducible apply State.keyRefused_keeps
    | with_reducible apply State.lose_keeps

theorem State.endExports_keeps {r s : State} (chd : BitVec 256) (h : Keeps r s) :
    Keeps r (State.endExports s chd) := by
  unfold State.endExports
  repeat' first
    | with_reducible assumption
    | with_reducible intro x
    | with_reducible apply State.invalidate_keeps
    | with_reducible apply Keeps.ite
    | split

theorem State.sealShard_keeps {r s : State} (ckey : BitVec 256) (h1 : ShardHead) (b : List Byte) (h : Keeps r s) :
    OptSndKeeps r (State.sealShard s ckey h1 b) := by
  unfold State.sealShard
  repeat' first
    | with_reducible assumption
    | with_reducible intro x
    | with_reducible apply State.drawKey_keeps
    | with_reducible apply OptSndKeeps.map_of

theorem State.readRecs_keeps {r s : State} (narrow : Bool) (p0 : Nat) (p1 : Nat) (h : Keeps r s) :
    ResKeeps r (State.readRecs s narrow p0 p1) := by
  induction p0 generalizing s p1 with
  | zero =>
      unfold State.readRecs
      repeat' first
        | with_reducible assumption
        | with_reducible apply ResKeeps.ok
  | succ n ih =>
      unfold State.readRecs
      repeat' first
        | with_reducible assumption
        | (lift_lets -underBinder; with_reducible intro x)
        | with_reducible intro x
        | with_reducible apply ResKeeps.ok
        | with_reducible apply ih
        | with_reducible apply State.readVa_keeps
        | with_reducible apply ResKeeps.bind
        | split

theorem State.readFactors_keeps {r s : State} (p0 : List Group) (h : Keeps r s) :
    ResKeeps r (State.readFactors s p0) := by
  induction p0 generalizing s with
  | nil =>
      unfold State.readFactors
      repeat' first
        | with_reducible assumption
        | with_reducible apply ResKeeps.ok
  | cons y ys ih =>
      unfold State.readFactors
      repeat' first
        | with_reducible assumption
        | with_reducible intro x
        | with_reducible apply ResKeeps.ok
        | with_reducible apply ih
        | with_reducible apply State.readVa_keeps
        | with_reducible apply ResKeeps.bind
        | with_reducible apply ResKeeps.ite

theorem State.ckptStream_keeps {r s : State} (h1 : Herd) (narrow : Bool) (h : Keeps r s) :
    ResKeeps r (State.ckptStream s h1 narrow) := by
  unfold State.ckptStream
  repeat' first
    | with_reducible assumption
    | with_reducible intro x
    | with_reducible apply ResKeeps.ok
    | with_reducible apply State.readRecs_keeps
    | with_reducible apply State.readFactors_keeps
    | with_reducible apply ResKeeps.bind

theorem State.readExtents_keeps {r s : State} (c : Nat) (p0 : List (Nat × Nat)) (h : Keeps r s) :
    ResKeeps r (State.readExtents s c p0) := by
  induction p0 generalizing s with
  | nil =>
      unfold State.readExtents
      repeat' first
        | with_reducible assumption
        | with_reducible apply ResKeeps.ok
  | cons y ys ih =>
      unfold State.readExtents
      repeat' first
        | with_reducible assumption
        | with_reducible intro x
        | with_reducible apply ResKeeps.ok
        | with_reducible apply ih
        | with_reducible apply State.readVa_keeps
        | with_reducible apply ResKeeps.bind

theorem execCkptWrite_keeps {r s : State} (c : MbxCall) (h : Keeps r s) :
    OutKeeps r (execCkptWrite c s) := by
  unfold execCkptWrite
  repeat' first
    | with_reducible assumption
    | with_reducible intro x
    | (lift_lets -underBinder; with_reducible intro x)
    | with_reducible apply OutKeeps.next
    | with_reducible apply ResKeeps.ok
    | with_reducible apply ResKeeps.lost
    | with_reducible apply ResKeeps.wait
    | with_reducible apply FstKeeps.mk
    | with_reducible apply State.readVa_keeps
    | with_reducible apply mailbox_keeps
    | with_reducible apply State.loseKey_keeps
    | with_reducible apply ResKeeps.bind
    | with_reducible apply Keeps.ite
    | with_reducible apply ResKeeps.ite
    | with_reducible apply FstKeeps.ite
    | with_reducible apply OutKeeps.ite
    | (with_reducible apply Keeps.plain; · with_reducible assumption)
    | (with_reducible apply Keeps.plain; (on_goal 1 => refine ResKeeps.of_ok ?_ (by assumption)))
    | (with_reducible apply Keeps.plain; (on_goal 1 => refine ResKeeps.of_lost ?_ (by assumption)))
    | (with_reducible apply Keeps.plain; (on_goal 1 => refine ResKeeps.of_wait ?_ (by assumption)))
    | refine ResKeeps.of_ok ?_ (by assumption)
    | refine ResKeeps.of_lost ?_ (by assumption)
    | refine ResKeeps.of_wait ?_ (by assumption)
    | with_reducible exact ResKeeps.ok_keep (by assumption)
    | with_reducible exact ResKeeps.lost_keep (by assumption)
    | with_reducible exact ResKeeps.wait_keep (by assumption)
    | split

theorem execSnapWrite_keeps {r s : State} (c : MbxCall) (h : Keeps r s) :
    OutKeeps r (execSnapWrite c s) := by
  unfold execSnapWrite
  repeat' first
    | with_reducible assumption
    | (with_reducible intro x)
    | (lift_lets -underBinder; with_reducible intro x)
    | with_reducible apply OutKeeps.next
    | with_reducible apply FstKeeps.mk
    | with_reducible apply mailbox_keeps
    | with_reducible apply State.loseKey_keeps
    | with_reducible apply Keeps.ite
    | with_reducible apply FstKeeps.ite
    | with_reducible apply OutKeeps.ite
    | (with_reducible apply Keeps.plain; · with_reducible assumption)
    | split

theorem State.pump_keeps {r p1 : State} (d : StoreDest) (ctx : Nat) (p0 : List (Nat × List Byte)) (h : Keeps r p1) :
    SndKeeps r (State.pump d ctx p0 p1) := by
  induction p0 generalizing p1 with
  | nil =>
      unfold State.pump
      repeat' first
        | with_reducible assumption
        | with_reducible apply SndKeeps.mk
  | cons y ys ih =>
      unfold State.pump
      repeat' first
        | with_reducible assumption
        | with_reducible apply SndKeeps.mk
        | with_reducible apply State.issueStore_keeps
        | (with_reducible apply Keeps.plain; (on_goal 1 => refine OptKeeps.of ?_ (by assumption)))
        | split
        | with_reducible apply_assumption

theorem State.sendOn_keeps {r s : State} (w : CkptWrite) (x : Store) (h : Keeps r s) :
    Keeps r (State.sendOn s w x) := by
  unfold State.sendOn
  repeat' first
    | with_reducible assumption
    | (with_reducible apply Keeps.plain; (on_goal 1 => with_reducible refine SndKeeps.snd (State.pump_keeps (h := ?_) ..)))

theorem State.setWrite_keeps {r s : State} (w w' : CkptWrite) (h : Keeps r s) :
    Keeps r (State.setWrite s w w') := by
  unfold State.setWrite
  repeat' (with_reducible apply Keeps.plain; · with_reducible assumption)

theorem State.endWrite_keeps {r s : State} (w : CkptWrite) (how : CkptEnd) (h : Keeps r s) :
    Keeps r (State.endWrite s w how) := by
  unfold State.endWrite
  repeat' first
    | with_reducible assumption
    | with_reducible apply State.dropCkpts_keeps

theorem State.sealAll_keeps {r s : State} (ckey : BitVec 256) (h1 : ShardHead) (base : Nat) (mine : Nat → Bool) (p0 : Nat) (p1 : List (List Byte)) (h : Keeps r s) :
    OptSndKeeps r (State.sealAll s ckey h1 base mine p0 p1) := by
  induction p1 generalizing s p0 with
  | nil =>
      unfold State.sealAll
      repeat' first
        | with_reducible assumption
        | with_reducible apply OptSndKeeps.some
  | cons y ys ih =>
      unfold State.sealAll
      repeat' first
        | with_reducible assumption
        | with_reducible intro x
        | with_reducible apply ih
        | with_reducible apply State.sealShard_keeps
        | with_reducible apply OptSndKeeps.ite
        | with_reducible apply OptSndKeeps.map_of
        | with_reducible apply OptSndKeeps.bind_of

theorem State.formModel_keeps {r s : State} (w : CkptWrite) (p2 : Store) (h1 : Herd) (key : BitVec 256) (h : Keeps r s) :
    Keeps r (State.formModel s w p2 h1 key) := by
  unfold State.formModel
  repeat' first
    | with_reducible assumption
    | (with_reducible intro x; first
        | (with_reducible refine with_fact (a := OptSndKeeps r x) ?_ ?_; (on_goal 1 => unfold x); (on_goal 2 => (intro hx; clear_value x)))
        | skip)
    | (lift_lets -underBinder; with_reducible intro x)
    | with_reducible apply ResKeeps.ok
    | with_reducible apply ResKeeps.lost
    | with_reducible apply ResKeeps.wait
    | with_reducible apply OptSndKeeps.none
    | with_reducible apply OptSndKeeps.some
    | with_reducible apply State.signal_keeps
    | with_reducible apply State.keyRefused_keeps
    | with_reducible apply State.sealShard_keeps
    | with_reducible apply State.ckptStream_keeps
    | with_reducible apply State.readExtents_keeps
    | with_reducible apply State.sendOn_keeps
    | with_reducible apply State.setWrite_keeps
    | with_reducible apply State.endWrite_keeps
    | with_reducible apply State.sealAll_keeps
    | with_reducible apply ResKeeps.bind
    | with_reducible apply Keeps.ite
    | with_reducible apply ResKeeps.ite
    | with_reducible apply OptSndKeeps.ite
    | with_reducible apply OptKeeps.map
    | with_reducible apply OptSndKeeps.map_of
    | with_reducible apply OptSndKeeps.map
    | with_reducible apply OptKeeps.bind
    | with_reducible apply OptKeeps.bind_snd
    | with_reducible apply OptKeeps.bind_of
    | with_reducible apply OptSndKeeps.bind_of
    | with_reducible apply OptSndKeeps.bind_opt
    | with_reducible apply OptSndKeeps.bind
    | with_reducible apply OptKeeps.getD
    | refine ResKeeps.of_ok ?_ (by assumption)
    | refine ResKeeps.of_lost ?_ (by assumption)
    | refine ResKeeps.of_wait ?_ (by assumption)
    | refine OptSndKeeps.of ?_ (by assumption)
    | with_reducible exact ResKeeps.ok_keep (by assumption)
    | with_reducible exact ResKeeps.lost_keep (by assumption)
    | with_reducible exact ResKeeps.wait_keep (by assumption)
    | with_reducible exact OptSndKeeps.some_keep (by assumption)
    | split

theorem State.formSnap_keeps {r s : State} (w : CkptWrite) (p2 : Store) (key : BitVec 256) (h : Keeps r s) :
    Keeps r (State.formSnap s w p2 key) := by
  unfold State.formSnap
  repeat' first
    | with_reducible assumption
    | with_reducible intro x
    | with_reducible apply OptSndKeeps.none
    | with_reducible apply OptSndKeeps.some
    | with_reducible apply State.keyRefused_keeps
    | with_reducible apply State.sendOn_keeps
    | with_reducible apply State.setWrite_keeps
    | with_reducible apply State.endWrite_keeps
    | with_reducible apply State.sealAll_keeps
    | with_reducible apply Keeps.ite
    | with_reducible apply OptSndKeeps.ite
    | refine OptSndKeeps.of ?_ (by assumption)
    | with_reducible exact OptSndKeeps.some_keep (by assumption)
    | split

theorem execCheckpointCapture_keeps {r s : State} (g : GenFrom) (h : Keeps r s) :
    OutKeeps r (execCheckpointCapture g s) := by
  unfold execCheckpointCapture
  repeat' first
    | with_reducible assumption
    | (with_reducible intro x)
    | (lift_lets -underBinder; with_reducible intro x)
    | with_reducible apply OutKeeps.next
    | with_reducible apply State.toMember_keeps
    | with_reducible apply State.ofEpoch_keeps
    | with_reducible apply State.loseKey_keeps
    | with_reducible apply State.sendOn_keeps
    | with_reducible apply State.setWrite_keeps
    | with_reducible apply State.endWrite_keeps
    | with_reducible apply State.formModel_keeps
    | with_reducible apply State.formSnap_keeps
    | with_reducible apply Keeps.ite
    | with_reducible apply OutKeeps.ite
    | split
    | with_reducible apply_assumption

theorem State.freeBytes_keeps {r s : State} (n : Nat) (h : Keeps r s) :
    SndKeeps r (State.freeBytes s n) := by
  unfold State.freeBytes
  repeat' first
    | with_reducible assumption
    | with_reducible apply SndKeeps.mk
    | with_reducible refine SndKeeps.snd (State.free_keeps (h := ?_) ..)

theorem State.allEntries_keeps {r s : State} (own : List (List Byte)) (live : List Nat) (p0 : Nat) (p1 : Nat) (h : Keeps r s) :
    SndKeeps r (State.allEntries s own live p0 p1) := by
  induction p0 generalizing s p1 with
  | zero =>
      unfold State.allEntries
      repeat' first
        | with_reducible assumption
        | with_reducible apply SndKeeps.mk
  | succ n ih =>
      unfold State.allEntries
      repeat' first
        | with_reducible assumption
        | (lift_lets -underBinder; with_reducible intro x; with_reducible refine with_fact (a := SndKeeps r x) ?_ ?_; (on_goal 1 => unfold x); (on_goal 2 => (intro hx; clear_value x)))
        | with_reducible apply SndKeeps.mk
        | (with_reducible apply Keeps.plain; (on_goal 1 => with_reducible refine SndKeeps.snd (State.freeBytes_keeps (h := ?_) ..)))
        | (with_reducible apply Keeps.plain; (on_goal 1 => with_reducible exact SndKeeps.mk_keep (by assumption)))
        | split
        | with_reducible apply_assumption

theorem State.allMembers_keeps {r s : State} (own : List Byte) (self : Nat) (nodes : List Nat) (p0 : List Nat) (h : Keeps r s) :
    SndKeeps r (State.allMembers s own self nodes p0) := by
  induction p0 generalizing s with
  | nil =>
      unfold State.allMembers
      repeat' first
        | with_reducible assumption
        | with_reducible apply SndKeeps.mk
  | cons y ys ih =>
      unfold State.allMembers
      repeat' first
        | with_reducible assumption
        | (lift_lets -underBinder; with_reducible intro x; with_reducible refine with_fact (a := SndKeeps r x) ?_ ?_; (on_goal 1 => unfold x); (on_goal 2 => (intro hx; clear_value x)))
        | with_reducible apply SndKeeps.mk
        | (with_reducible apply Keeps.plain; (on_goal 1 => with_reducible refine SndKeeps.snd (State.freeBytes_keeps (h := ?_) ..)))
        | (with_reducible apply Keeps.plain; (on_goal 1 => with_reducible exact SndKeeps.mk_keep (by assumption)))
        | split
        | with_reducible apply_assumption

theorem State.allSigs_keeps {r s : State} (own : List Byte) (self : Nat) (p0 : List Nat) (h : Keeps r s) :
    SndKeeps r (State.allSigs s own self p0) := by
  induction p0 generalizing s with
  | nil =>
      unfold State.allSigs
      repeat' first
        | with_reducible assumption
        | with_reducible apply SndKeeps.mk
  | cons y ys ih =>
      unfold State.allSigs
      repeat' first
        | with_reducible assumption
        | (lift_lets -underBinder; with_reducible intro x; with_reducible refine with_fact (a := SndKeeps r x) ?_ ?_; (on_goal 1 => unfold x); (on_goal 2 => (intro hx; clear_value x)))
        | with_reducible apply SndKeeps.mk
        | with_reducible refine SndKeeps.snd (State.freeBytes_keeps (h := ?_) ..)
        | (with_reducible apply Keeps.plain; (on_goal 1 => with_reducible exact SndKeeps.mk_keep (by assumption)))
        | split
        | with_reducible apply_assumption

theorem State.manifestBody_keeps {r s : State} (w : CkptWrite) (h1 : Option Herd) (h : Keeps r s) :
    SndKeeps r (State.manifestBody s w h1) := by
  unfold State.manifestBody
  repeat' first
    | with_reducible assumption
    | (lift_lets -underBinder; with_reducible intro x)
    | with_reducible intro x
    | with_reducible apply SndKeeps.mk
    | with_reducible refine SndKeeps.snd (State.allEntries_keeps (h := ?_) ..)
    | with_reducible refine SndKeeps.snd (State.allMembers_keeps (h := ?_) ..)

theorem State.flipCur_keeps {r s : State} (w : CkptWrite) (p2 : Store) (h : Keeps r s) :
    Keeps r (State.flipCur s w p2) := by
  unfold State.flipCur
  repeat' first
    | with_reducible assumption
    | with_reducible intro x
    | with_reducible apply State.patom_keeps
    | with_reducible apply State.setWrite_keeps
    | with_reducible apply State.endWrite_keeps
    | with_reducible apply Keeps.ite

theorem State.flip_keeps {r s : State} (w : CkptWrite) (x : Store) (key : BitVec 256) (h1 : Option Herd) (h : Keeps r s) :
    Keeps r (State.flip s w x key h1) := by
  unfold State.flip
  have a : SndKeeps r (s.manifestBody w h1) := State.manifestBody_keeps w h1 h
  generalize s.manifestBody w h1 = y at a
  obtain ⟨body, t⟩ := y
  dsimp only
  have b (own : List Byte) (self : Nat) (l : List Nat) : SndKeeps r (t.allSigs own self l) := State.allSigs_keeps own self l a
  generalize h2 : t.allSigs _ _ _ = z
  have b : SndKeeps r z := h2 ▸ b _ _ _
  obtain ⟨sigs, u⟩ := z
  refine State.flipCur_keeps _ _ ?_
  exact Keeps.upd b le_rfl (.refl _) (.refl _) (.refl _) (.refl _) (.put _ _ _) (.refl _) (.refl _)

theorem execCheckpointFlip_keeps {r s : State} (g : GenFrom) (how : CkptEnd) (h : Keeps r s) :
    OutKeeps r (execCheckpointFlip g how s) := by
  unfold execCheckpointFlip
  repeat' first
    | with_reducible assumption
    | with_reducible intro x
    | with_reducible apply OutKeeps.next
    | with_reducible apply State.knowCoord_keeps
    | with_reducible apply State.ofEpoch_keeps
    | with_reducible apply State.loseKey_keeps
    | with_reducible apply State.endWrite_keeps
    | with_reducible apply State.flip_keeps
    | with_reducible apply Keeps.ite
    | with_reducible apply OutKeeps.ite
    | split

theorem execCheckpointTimeout_keeps {r s : State} (h : Keeps r s) :
    OutKeeps r (execCheckpointTimeout s) := by
  unfold execCheckpointTimeout
  repeat' first
    | with_reducible assumption
    | with_reducible apply OutKeeps.next
    | with_reducible apply State.endWrite_keeps
    | split

theorem execStreamSegment_keeps {r s : State} (ok : Bool) (h : Keeps r s) :
    OutKeeps r (execStreamSegment ok s) := by
  unfold execStreamSegment
  repeat' first
    | with_reducible assumption
    | with_reducible intro x
    | with_reducible apply OutKeeps.next
    | with_reducible apply OptSndKeeps.none
    | with_reducible apply OptSndKeeps.some
    | with_reducible apply State.keyRefused_keeps
    | with_reducible apply State.raiseFloor_keeps
    | with_reducible apply State.loseKey_keeps
    | with_reducible apply State.sealShard_keeps
    | with_reducible apply State.sendOn_keeps
    | with_reducible apply State.endWrite_keeps
    | with_reducible apply Keeps.ite
    | with_reducible apply OptSndKeeps.ite
    | with_reducible apply OutKeeps.ite
    | (with_reducible apply Keeps.plain; · with_reducible assumption)
    | (with_reducible apply Keeps.plain; (on_goal 1 => refine OptSndKeeps.of ?_ (by assumption)))
    | refine OptSndKeeps.of ?_ (by assumption)
    | with_reducible exact OptSndKeeps.some_keep (by assumption)
    | split

end Sys2Proof.Machine
end

