-- ==== Sys2Proof/Laws/KeepRestore.lean ====
section
/-! SUPPORT. What the operations of Machine/Restore.lean keep. -/

namespace Sys2Proof.Machine

theorem State.putRecs_keeps {r s : State} (b : List Byte) (narrow : Bool) (p0 : Nat) (p1 : Nat) (h : Keeps r s) :
    ResKeeps r (State.putRecs s b narrow p0 p1) := by
  induction p0 generalizing s p1 with
  | zero =>
      unfold State.putRecs
      repeat' first
        | with_reducible assumption
        | with_reducible apply ResKeeps.ok
  | succ n ih =>
      unfold State.putRecs
      repeat' first
        | with_reducible assumption
        | (lift_lets -underBinder; with_reducible intro x)
        | with_reducible intro x
        | with_reducible apply ResKeeps.ok
        | with_reducible apply ih
        | with_reducible apply State.writeVa_keeps
        | with_reducible apply State.putWork_keeps
        | with_reducible apply ResKeeps.bind
        | split

theorem State.putFactors_keeps {r s : State} (t : Nat) (p0 : List Group) (p1 : List Byte) (h : Keeps r s) :
    ResKeeps r (State.putFactors s t p0 p1) := by
  induction p0 generalizing s p1 with
  | nil =>
      unfold State.putFactors
      repeat' first
        | with_reducible assumption
        | with_reducible apply ResKeeps.ok
  | cons y ys ih =>
      unfold State.putFactors
      repeat' first
        | with_reducible assumption
        | with_reducible intro x
        | with_reducible apply ih
        | with_reducible apply State.writeVa_keeps
        | with_reducible apply ResKeeps.bind
        | with_reducible apply ResKeeps.ite

theorem State.putLanes_keeps {r s : State} (rcd : List Byte) (head : Nat) (p0 : List Nat) (p1 : Nat) (h : Keeps r s) :
    Keeps r (State.putLanes s rcd head p0 p1) := by
  induction p0 generalizing s p1 with
  | nil =>
      unfold State.putLanes
      repeat' first
        | with_reducible assumption
  | cons y ys ih =>
      unfold State.putLanes
      repeat' first
        | with_reducible assumption
        | with_reducible intro x
        | with_reducible apply ih
        | with_reducible apply State.updCore_keeps
        | (with_reducible apply CoreKeep.upd; · with_reducible assumption)

theorem State.putExtents_keeps {r s : State} (c : Nat) (rcd : List Byte) (p0 : Nat) (p1 : Nat) (p2 : Nat) (h : Keeps r s) :
    ResKeeps r (State.putExtents s c rcd p0 p1 p2) := by
  induction p0 generalizing s p1 p2 with
  | zero =>
      unfold State.putExtents
      repeat' first
        | with_reducible assumption
        | with_reducible apply ResKeeps.ok
  | succ n ih =>
      unfold State.putExtents
      repeat' first
        | with_reducible assumption
        | (lift_lets -underBinder; with_reducible intro x)
        | with_reducible intro x
        | with_reducible apply ih
        | with_reducible apply State.writeVa_keeps
        | with_reducible apply ResKeeps.bind

theorem State.putMember_keeps {r s : State} (c : Nat) (rcd : List Byte) (h : Keeps r s) :
    ResKeeps r (State.putMember s c rcd) := by
  unfold State.putMember
  repeat' first
    | with_reducible assumption
    | (lift_lets -underBinder; with_reducible intro x)
    | with_reducible intro x
    | with_reducible apply State.putLanes_keeps
    | with_reducible apply State.putExtents_keeps

theorem State.putModel_keeps {r s : State} (t : Nat) (chain : BitVec 256) (b rcd : List Byte) (h : Keeps r s) :
    ResKeeps r (State.putModel s t chain b rcd) := by
  unfold State.putModel
  repeat' first
    | with_reducible assumption
    | (lift_lets -underBinder; with_reducible intro x; first
        | (with_reducible refine with_fact (a := Keeps r x) ?_ ?_; (on_goal 1 => unfold x); (on_goal 2 => (intro hx; clear_value x)))
        | skip)
    | (with_reducible intro x; first
        | (with_reducible refine with_fact (a := Keeps r x) ?_ ?_; (on_goal 1 => unfold x); (on_goal 2 => (intro hx; clear_value x)))
        | skip)
    | with_reducible apply ResKeeps.ok
    | with_reducible apply State.updCtx_keeps
    | with_reducible apply State.updHerd_keeps
    | with_reducible apply State.putStatus_keeps
    | with_reducible apply State.putScb_keeps
    | with_reducible apply State.updLearn_keeps
    | with_reducible apply State.putRecs_keeps
    | with_reducible apply State.putFactors_keeps
    | with_reducible apply State.putMember_keeps
    | with_reducible apply ResKeeps.bind
    | split

theorem execCkptRestore_keeps {r s : State} (c : MbxCall) (r1 : RestoreIn) (h : Keeps r s) :
    OutKeeps r (execCkptRestore c r1 s) := by
  unfold execCkptRestore
  repeat' first
    | with_reducible assumption
    | (with_reducible intro x)
    | (lift_lets -underBinder; with_reducible intro x; first
        | (with_reducible refine with_fact (a := Keeps r x) ?_ ?_; (on_goal 1 => unfold x); (on_goal 2 => (intro hx; clear_value x)))
        | skip)
    | with_reducible apply OutKeeps.next
    | with_reducible apply ResKeeps.ok
    | with_reducible apply ResKeeps.lost
    | with_reducible apply ResKeeps.wait
    | with_reducible apply SndKeeps.mk
    | with_reducible apply FstKeeps.mk
    | with_reducible apply State.lose_keeps
    | with_reducible apply mailbox_keeps
    | with_reducible apply State.quitHerd_keeps
    | with_reducible apply State.updLearn_keeps
    | with_reducible refine SndKeeps.snd (State.readScb_keeps (h := ?_) ..)
    | with_reducible apply State.readScb_keeps
    | with_reducible apply State.loseKey_keeps
    | with_reducible apply State.putModel_keeps
    | with_reducible apply ResKeeps.bind
    | with_reducible apply Keeps.ite
    | with_reducible apply ResKeeps.ite
    | with_reducible apply SndKeeps.ite
    | with_reducible apply FstKeeps.ite
    | with_reducible apply OutKeeps.ite
    | refine ResKeeps.of_ok ?_ (by assumption)
    | refine ResKeeps.of_lost ?_ (by assumption)
    | refine ResKeeps.of_wait ?_ (by assumption)
    | refine SndKeeps.of ?_ (by assumption)
    | with_reducible exact ResKeeps.ok_keep (by assumption)
    | with_reducible exact ResKeeps.lost_keep (by assumption)
    | with_reducible exact ResKeeps.wait_keep (by assumption)
    | with_reducible exact SndKeeps.snd (by assumption)
    | with_reducible exact SndKeeps.mk_keep (by assumption)
    | split
    | (clear_value *; split)

theorem tabFrom_wf {α : Type} [DecidableEq α] (n w : Nat) (d : α) (f : Nat → α) (b : List Byte) : Tab.wf d (tabFrom n w d f b) = true := by
  have g (l : List Nat) (t : Tab α) (h : Tab.wf d t = true) :
      Tab.wf d (l.foldl (fun t i => Tab.set d t i (f (leAt b (w * i) w))) t) = true := by
    induction l generalizing t with
    | nil => exact h
    | cons i l ih => exact ih _ (Tab.wf_set _ _ _ h)
  exact g _ _ rfl

theorem coreFrom_keeps (k : Core) (b : List Byte) : CoreKeep k (coreFrom b) := by
  refine ⟨fun _ => ?_⟩
  simp [Core.canonical, coreFrom, tabFrom_wf]

theorem State.specFrom_keeps {r k : Core} (s : State) (c : Nat) (b : List Byte) (h : CoreKeep r k) :
    CoreKeep r (s.specFrom c k b) := CoreKeep.upd h

theorem State.takeGranule_keeps {r s : State} (c : Nat) (h : Keeps r s) :
    OptSndKeeps r (State.takeGranule s c) := by
  unfold State.takeGranule
  repeat' first
    | with_reducible assumption
    | (with_reducible intro x)
    | with_reducible apply State.ownRun_keeps
    | with_reducible apply OptSndKeeps.map

theorem State.mapPages_keeps {r p2 : State} (c : Nat) (p0 : List (Nat × Nat)) (p1 : Option (Nat × Nat)) (h : Keeps r p2) :
    OptSndKeeps r (State.mapPages c p0 p1 p2) := by
  induction p0 generalizing p2 p1 with
  | nil =>
      unfold State.mapPages
      repeat' first
        | with_reducible assumption
        | with_reducible apply OptSndKeeps.some
  | cons y ys ih =>
      unfold State.mapPages
      repeat' first
        | with_reducible assumption
        | (lift_lets -underBinder; with_reducible intro x)
        | with_reducible intro x
        | with_reducible apply ih
        | with_reducible apply State.putLeaves_keeps
        | with_reducible apply State.mapKv_keeps
        | with_reducible apply State.takeGranule_keeps
        | with_reducible apply OptSndKeeps.ite
        | with_reducible apply OptSndKeeps.map_of
        | with_reducible apply OptSndKeeps.bind_of
        | with_reducible apply OptSndKeeps.bind_opt
        | split

theorem State.putPages_keeps {r s : State} (p0 : List ((Nat × Nat) × Nat)) (p1 : List Byte) (h : Keeps r s) :
    Keeps r (State.putPages s p0 p1) := by
  induction p0 generalizing s p1 with
  | nil =>
      unfold State.putPages
      repeat' first
        | with_reducible assumption
  | cons y ys ih =>
      unfold State.putPages
      repeat' first
        | with_reducible assumption
        | (lift_lets -underBinder; with_reducible intro x)
        | with_reducible apply ih
        | with_reducible apply State.writeDa_keeps
        | with_reducible apply Keeps.ite

theorem State.putCores_keeps {r s : State} (c : Nat) (l : List Nat) (b : List Byte) (h : Keeps r s) :
    Keeps r (State.putCores s c l b) := by
  unfold State.putCores
  exact Keeps.foldl (fun t x ht => State.setCore_keeps _ _ ht (State.specFrom_keeps _ _ _ (coreFrom_keeps _ _))) _ h

theorem State.putSnap_keeps {r s : State} (c : Nat) (b : List Byte) (das : List Nat) (h : Keeps r s) :
    Keeps r (State.putSnap s c b das) := by
  unfold State.putSnap
  repeat' first
    | with_reducible assumption
    | (lift_lets -underBinder; with_reducible intro x)
    | (with_reducible intro x; first
        | (with_reducible refine with_fact (a := Keeps r x) ?_ ?_; (on_goal 1 => unfold x); (on_goal 2 => (intro hx; clear_value x)))
        | skip)
    | with_reducible apply State.updFence_keeps
    | with_reducible apply State.putStatus_keeps
    | with_reducible apply State.putPages_keeps
    | with_reducible apply State.putCores_keeps
    | with_reducible apply Keeps.foldl

theorem execSnapRestore_keeps {r s : State} (c : MbxCall) (r1 : RestoreIn) (h : Keeps r s) :
    OutKeeps r (execSnapRestore c r1 s) := by
  unfold execSnapRestore
  repeat' first
    | with_reducible assumption
    | with_reducible intro x
    | with_reducible apply OutKeeps.next
    | with_reducible apply FstKeeps.mk
    | with_reducible apply OptSndKeeps.none
    | with_reducible apply OptSndKeeps.some
    | with_reducible apply State.updCtx_keeps
    | with_reducible apply mailbox_keeps
    | with_reducible apply State.loseKey_keeps
    | with_reducible apply State.mapPages_keeps
    | with_reducible apply State.putSnap_keeps
    | with_reducible apply Keeps.ite
    | with_reducible apply FstKeeps.ite
    | with_reducible apply OptSndKeeps.ite
    | with_reducible apply OutKeeps.ite
    | refine OptSndKeeps.of ?_ (by assumption)
    | with_reducible exact OptSndKeeps.some_keep (by assumption)
    | split

end Sys2Proof.Machine
end

