-- ==== Sys2Proof/Laws/KeepAbort.lean ====
section
/-! SUPPORT. What the operations of Machine/Abort.lean keep. -/

namespace Sys2Proof.Machine

theorem State.stopCores_keeps {r s : State} (c : Nat) (h : Keeps r s) :
    Keeps r (State.stopCores s c) := by
  unfold State.stopCores
  repeat' first
    | with_reducible assumption
    | with_reducible intro x
    | with_reducible apply State.updCore_keeps
    | with_reducible apply Core.stopped_keeps
    | with_reducible apply Keeps.foldl

theorem State.startAbort_keeps {r s : State} (c : Nat) (h : Keeps r s) :
    Keeps r (State.startAbort s c) := by
  unfold State.startAbort
  repeat' first
    | with_reducible assumption
    | with_reducible apply State.setCtxState_keeps
    | with_reducible apply State.stopCores_keeps
    | split

theorem execCtxDestroy_keeps {r s : State} (c : MbxCall) (h : Keeps r s) :
    OutKeeps r (execCtxDestroy c s) := by
  unfold execCtxDestroy
  repeat' first
    | with_reducible assumption
    | with_reducible intro x
    | with_reducible apply OutKeeps.next
    | with_reducible apply FstKeeps.mk
    | with_reducible apply mailbox_keeps
    | with_reducible apply State.startAbort_keeps
    | split

theorem State.endHeld_keeps {r s : State} (c : Nat) (h : Keeps r s) :
    Keeps r (State.endHeld s c) := by
  unfold State.endHeld
  repeat' first
    | with_reducible assumption
    | (lift_lets -underBinder; with_reducible intro x)
    | with_reducible intro x
    | with_reducible apply State.complete_keeps
    | with_reducible apply State.freePages_keeps
    | with_reducible apply Keeps.ite
    | with_reducible apply Keeps.foldl
    | split

theorem State.failPacket_keeps {r s : State} (c qn : Nat) (x : Packet) (h : Keeps r s) :
    Keeps r (State.failPacket s c qn x) := by
  unfold State.failPacket
  repeat' first
    | with_reducible assumption
    | (lift_lets -underBinder; with_reducible intro x; with_reducible refine with_fact (a := Keeps r x) ?_ ?_; (on_goal 1 => unfold x); (on_goal 2 => (intro hx; clear_value x)))
    | with_reducible apply State.event_keeps
    | with_reducible apply State.signal_keeps
    | with_reducible apply Keeps.ite
    | split

theorem State.endPackets_keeps {r s : State} (c : Nat) (h : Keeps r s) :
    Keeps r (State.endPackets s c) := by
  unfold State.endPackets
  repeat' first
    | with_reducible assumption
    | (lift_lets -underBinder; with_reducible intro x; first
        | (with_reducible refine with_fact (a := Keeps r x) ?_ ?_; (on_goal 1 => unfold x); (on_goal 2 => (intro hx; clear_value x)))
        | skip)
    | with_reducible intro x
    | with_reducible apply State.updCtx_keeps
    | with_reducible apply State.failPacket_keeps
    | with_reducible apply Keeps.foldl

theorem State.cancelWork_keeps {r s : State} (c : Nat) (h : Keeps r s) :
    Keeps r (State.cancelWork s c) := by
  unfold State.cancelWork
  repeat' first
    | with_reducible assumption
    | (with_reducible intro x; first
        | (with_reducible refine with_fact (a := Keeps r x) ?_ ?_; (on_goal 1 => unfold x); (on_goal 2 => (intro hx; clear_value x)))
        | skip)
    | (lift_lets -underBinder; with_reducible intro x; first
        | (with_reducible refine with_fact (a := Keeps r x) ?_ ?_; (on_goal 1 => unfold x); (on_goal 2 => (intro hx; clear_value x)))
        | skip)
    | with_reducible apply State.updCore_keeps
    | with_reducible apply State.updCluster_keeps
    | with_reducible apply State.updCtx_keeps
    | with_reducible apply State.startJob_keeps
    | with_reducible apply State.dropMoves_keeps
    | with_reducible apply State.dropCkpts_keeps
    | with_reducible apply State.endExports_keeps
    | with_reducible apply Keeps.ite
    | with_reducible apply CoreKeep.ite
    | with_reducible apply Keeps.foldl
    | with_reducible apply CoreKeep.foldl
    | (with_reducible apply CoreKeep.upd; · with_reducible assumption)
    | (with_reducible apply Keeps.plain; · with_reducible assumption)

theorem State.endHandoffs_keeps {r s : State} (c : Nat) (h : Keeps r s) :
    Keeps r (State.endHandoffs s c) := by
  unfold State.endHandoffs
  repeat' first
    | with_reducible assumption
    | with_reducible intro x
    | with_reducible apply State.breakChannel_keeps
    | with_reducible apply State.loseProducer_keeps
    | with_reducible apply Keeps.ite
    | with_reducible apply Keeps.foldl

theorem State.endColls_keeps {r s : State} (c : Nat) (h : Keeps r s) :
    Keeps r (State.endColls s c) := by
  unfold State.endColls
  repeat' first
    | with_reducible apply State.fillShadow_keeps
    | (with_reducible apply Keeps.plain; · with_reducible assumption)

theorem State.endLearning_keeps {r s : State} (c : Nat) (h : Keeps r s) :
    Keeps r (State.endLearning s c) := by
  unfold State.endLearning
  repeat' first
    | with_reducible assumption
    | (lift_lets -underBinder; with_reducible intro x)
    | (with_reducible intro x; first
        | (with_reducible refine with_fact (a := Keeps r x) ?_ ?_; (on_goal 1 => unfold x); (on_goal 2 => (intro hx; clear_value x)))
        | skip)
    | with_reducible apply State.endBinding_keeps
    | with_reducible apply State.quitHerd_keeps
    | with_reducible apply Keeps.ite
    | with_reducible apply Keeps.foldl

theorem State.swapOut_keeps {r s : State} (c : Nat) (h : Keeps r s) :
    Keeps r (State.swapOut s c) := by
  unfold State.swapOut
  repeat' first
    | with_reducible assumption
    | (lift_lets -underBinder; with_reducible intro x; first
        | (with_reducible refine with_fact (a := Keeps r x) ?_ ?_; (on_goal 1 => unfold x); (on_goal 2 => (intro hx; clear_value x)))
        | skip)
    | (with_reducible intro x; first
        | (with_reducible refine with_fact (a := Keeps r x) ?_ ?_; (on_goal 1 => unfold x); (on_goal 2 => (intro hx; clear_value x)))
        | skip)
    | with_reducible apply State.updTarget_keeps
    | with_reducible apply State.grantCluster_keeps
    | with_reducible apply Keeps.foldl
    | (with_reducible apply Keeps.plain; · with_reducible assumption)

theorem State.abortBegin_keeps {r s : State} (c : Nat) (h : Keeps r s) :
    Keeps r (State.abortBegin s c) := by
  unfold State.abortBegin
  repeat' first
    | with_reducible assumption
    | (lift_lets -underBinder; with_reducible intro x; with_reducible refine with_fact (a := Keeps r x) ?_ ?_; (on_goal 1 => unfold x); (on_goal 2 => (intro hx; clear_value x)))
    | with_reducible apply State.updCtx_keeps
    | with_reducible apply State.stopCores_keeps
    | with_reducible apply State.endHeld_keeps
    | with_reducible apply State.endPackets_keeps
    | with_reducible apply State.cancelWork_keeps
    | with_reducible apply State.endHandoffs_keeps
    | with_reducible apply State.endColls_keeps
    | with_reducible apply State.endLearning_keeps
    | with_reducible apply State.swapOut_keeps

theorem State.abortFences_keeps {r s : State} (c : Nat) (h : Keeps r s) :
    Keeps r (State.abortFences s c) := by
  unfold State.abortFences
  repeat' first
    | with_reducible assumption
    | with_reducible intro x
    | with_reducible apply State.updCtx_keeps
    | with_reducible apply State.updFence_keeps
    | with_reducible apply State.noteSignal_keeps
    | with_reducible apply State.dropGrants_keeps
    | with_reducible apply Keeps.foldl

theorem State.freeWindows_keeps {r s : State} (c : Nat) (h : Keeps r s) :
    Keeps r (State.freeWindows s c) := by
  unfold State.freeWindows
  repeat' first
    | with_reducible assumption
    | (lift_lets -underBinder; with_reducible intro x)
    | (with_reducible intro x; first
        | (with_reducible refine with_fact (a := Keeps r x) ?_ ?_; (on_goal 1 => unfold x); (on_goal 2 => (intro hx; clear_value x)))
        | skip)
    | with_reducible apply State.clearWindow_keeps
    | with_reducible apply Keeps.foldl
    | (with_reducible apply Keeps.plain; · with_reducible assumption)

theorem State.breakEnding_keeps {r s : State} (c : Nat) (h : Keeps r s) :
    Keeps r (State.breakEnding s c) := by
  unfold State.breakEnding
  repeat' first
    | with_reducible assumption
    | with_reducible intro x
    | with_reducible apply State.breakChannel_keeps
    | with_reducible apply Keeps.foldl

theorem State.abortRelease_keeps {r s : State} (c : Nat) (h : Keeps r s) :
    Keeps r (State.abortRelease s c) := by
  unfold State.abortRelease
  repeat' first
    | with_reducible assumption
    | (with_reducible intro x; first
        | (with_reducible refine with_fact (a := Keeps r x) ?_ ?_; (on_goal 1 => unfold x); (on_goal 2 => (intro hx; clear_value x)))
        | skip)
    | (lift_lets -underBinder; with_reducible intro x; first
        | (with_reducible refine with_fact (a := Keeps r x) ?_ ?_; (on_goal 1 => unfold x); (on_goal 2 => (intro hx; clear_value x))))
    | with_reducible apply State.updCtx_keeps
    | with_reducible apply State.updFence_keeps
    | with_reducible apply State.devEvent_keeps
    | with_reducible apply State.purge_keeps
    | with_reducible apply State.ctxGone_keeps
    | with_reducible apply State.freeSlot_keeps
    | with_reducible apply State.freePages_keeps
    | with_reducible apply State.grantCluster_keeps
    | with_reducible apply State.wipeCluster_keeps
    | with_reducible apply State.freeWindows_keeps
    | with_reducible apply State.breakEnding_keeps
    | with_reducible apply Keeps.ite
    | with_reducible apply Keeps.foldl
    | (with_reducible apply Keeps.plain; · with_reducible assumption)

theorem execAbort_keeps {r s : State} (ctx : Fin 4096) (h : Keeps r s) :
    OutKeeps r (execAbort ctx s) := by
  unfold execAbort
  repeat' first
    | with_reducible assumption
    | (lift_lets -underBinder; with_reducible intro x)
    | (with_reducible intro x; first
        | (with_reducible refine with_fact (a := Keeps r x) ?_ ?_; (on_goal 1 => unfold x); (on_goal 2 => (intro hx; clear_value x)))
        | skip)
    | with_reducible apply OutKeeps.next
    | with_reducible apply State.abortBegin_keeps
    | with_reducible apply State.abortFences_keeps
    | with_reducible apply State.abortRelease_keeps
    | with_reducible apply Keeps.ite

theorem execAbortDrained_keeps {r s : State} (ctx : Fin 4096) (h : Keeps r s) :
    OutKeeps r (execAbortDrained ctx s) := by
  unfold execAbortDrained
  repeat' first
    | with_reducible assumption
    | with_reducible intro x
    | with_reducible apply OutKeeps.next
    | with_reducible apply State.updCtx_keeps
    | with_reducible apply State.breakEnding_keeps
    | with_reducible apply Keeps.ite

end Sys2Proof.Machine
end

