-- ==== Sys2Proof/Laws/KeepCharter.lean ====
section
/-! SUPPORT. What the operations of Machine/Charter.lean keep. -/

namespace Sys2Proof.Machine

theorem State.keepExports_keeps {r s : State} (d : BitVec 256) (h : Keeps r s) :
    Keeps r (State.keepExports s d) := by
  unfold State.keepExports
  repeat' first
    | with_reducible assumption
    | with_reducible intro x
    | (with_reducible apply Keeps.plain; · with_reducible assumption)

theorem execCharterLoad_keeps {r s : State} (c : MbxCall) (image : List Byte) (h : Keeps r s) :
    OutKeeps r (execCharterLoad c image s) := by
  unfold execCharterLoad
  repeat' first
    | with_reducible assumption
    | (lift_lets -underBinder; with_reducible intro x)
    | with_reducible intro x
    | with_reducible apply OutKeeps.next
    | with_reducible apply FstKeeps.mk
    | with_reducible apply mailbox_keeps
    | (with_reducible apply Keeps.plain; · with_reducible assumption)
    | split

theorem execCharterUnload_keeps {r s : State} (c : MbxCall) (h : Keeps r s) :
    OutKeeps r (execCharterUnload c s) := by
  unfold execCharterUnload
  repeat' first
    | with_reducible assumption
    | (with_reducible intro x; first
        | (with_reducible refine with_fact (a := Keeps r x) ?_ ?_; (on_goal 1 => unfold x); (on_goal 2 => (intro hx; clear_value x)))
        | skip)
    | (lift_lets -underBinder; with_reducible intro x)
    | with_reducible apply OutKeeps.next
    | with_reducible apply FstKeeps.mk
    | with_reducible apply mailbox_keeps
    | with_reducible apply State.keepExports_keeps
    | with_reducible apply Keeps.ite
    | with_reducible apply FstKeeps.ite
    | with_reducible apply OutKeeps.ite
    | (with_reducible apply Keeps.plain; · with_reducible assumption)
    | split

theorem State.answerWith_keeps {r s : State} (b : List Byte) (h : Keeps r s) :
    Keeps r (State.answerWith s b) := by
  unfold State.answerWith
  repeat' first
    | with_reducible assumption
    | with_reducible intro x
    | with_reducible apply State.irq_keeps
    | with_reducible apply Keeps.ite
    | (with_reducible apply Keeps.plain; · with_reducible assumption)

theorem State.answerSigned_keeps {r s : State} (req : List Byte) (b : List Byte) (h : Keeps r s) :
    Keeps r (State.answerSigned s req b) := by
  unfold State.answerSigned
  repeat' first
    | with_reducible assumption
    | with_reducible intro x
    | with_reducible apply State.keyRefused_keeps
    | with_reducible apply State.answerWith_keeps
    | with_reducible apply Keeps.ite

theorem State.answerOwner_keeps {r s : State} (b : List Byte) (h : Keeps r s) :
    Keeps r (State.answerOwner s b) := by
  unfold State.answerOwner
  repeat' first
    | with_reducible assumption
    | with_reducible intro x
    | with_reducible apply State.answerWith_keeps

theorem execGetMeasurements_keeps {r s : State} (index : BitVec 8) (h : Keeps r s) :
    OutKeeps r (execGetMeasurements index s) := by
  unfold execGetMeasurements
  repeat' first
    | with_reducible assumption
    | (lift_lets -underBinder; with_reducible intro x)
    | with_reducible apply OutKeeps.next
    | with_reducible apply State.answerSigned_keeps
    | with_reducible apply Keeps.ite

theorem execQuote_keeps {r s : State} (chd nonce : BitVec 256) (first : BitVec 16) (h : Keeps r s) :
    OutKeeps r (execQuote chd nonce first s) := by
  unfold execQuote
  repeat' first
    | with_reducible assumption
    | (with_reducible intro x)
    | with_reducible apply OutKeeps.next
    | with_reducible apply State.answerSigned_keeps
    | with_reducible apply Keeps.ite

theorem State.newNonce_keeps {r s : State} (chd : BitVec 256) (eph : Option (Nat × Nat)) (h : Keeps r s) :
    OptSndKeeps r (State.newNonce s chd eph) := by
  unfold State.newNonce
  repeat' first
    | with_reducible assumption
    | (lift_lets -underBinder; with_reducible intro x; first
        | (with_reducible refine with_fact (a := Keeps r x) ?_ ?_; (on_goal 1 => unfold x); (on_goal 2 => (intro hx; clear_value x)))
        | skip)
    | with_reducible intro x
    | with_reducible apply State.drawKey_keeps
    | with_reducible apply OptSndKeeps.map_of
    | (with_reducible apply Keeps.plain; · with_reducible assumption)

theorem State.useNonce_keeps {r s : State} (chd val : BitVec 256) (h : Keeps r s) :
    SndKeeps r (State.useNonce s chd val) := by
  unfold State.useNonce
  repeat' first
    | with_reducible assumption
    | (lift_lets -underBinder; with_reducible intro x)
    | (with_reducible intro x; with_reducible refine with_fact (a := Keeps r x) ?_ ?_; (on_goal 1 => unfold x); (on_goal 2 => (intro hx; clear_value x)))
    | with_reducible apply SndKeeps.mk
    | (with_reducible apply Keeps.plain; · with_reducible assumption)
    | split

theorem execNonce_keeps {r s : State} (session : Bool) (chd : BitVec 256) (h : Keeps r s) :
    OutKeeps r (execNonce session chd s) := by
  unfold execNonce
  repeat' first
    | with_reducible assumption
    | with_reducible apply OutKeeps.next
    | with_reducible apply State.keyRefused_keeps
    | with_reducible apply State.answerSigned_keeps
    | with_reducible apply State.newNonce_keeps
    | with_reducible apply Keeps.ite
    | (with_reducible apply Keeps.plain; (on_goal 1 => refine OptSndKeeps.of ?_ (by assumption)))
    | split

theorem execKrBegin_keeps {r s : State} (session : Bool) (chd : BitVec 256) (keyid : Fin 256) (nonce : BitVec 256) (h : Keeps r s) :
    OutKeeps r (execKrBegin session chd keyid nonce s) := by
  unfold execKrBegin
  repeat' first
    | with_reducible assumption
    | with_reducible intro x
    | (lift_lets -underBinder; with_reducible intro x)
    | with_reducible apply OutKeeps.next
    | with_reducible apply OptSndKeeps.none
    | with_reducible apply OptSndKeeps.some
    | with_reducible apply State.keyRefused_keeps
    | with_reducible apply State.drawFresh_keeps
    | with_reducible apply State.invalidate_keeps
    | with_reducible apply State.fillSlot_keeps
    | with_reducible apply State.answerSigned_keeps
    | with_reducible apply State.answerOwner_keeps
    | with_reducible apply State.newNonce_keeps
    | with_reducible apply Keeps.ite
    | with_reducible apply OptSndKeeps.ite
    | with_reducible apply OutKeeps.ite
    | refine OptSndKeeps.of ?_ (by assumption)
    | with_reducible exact OptSndKeeps.some_keep (by assumption)
    | split

theorem State.endRelease_keeps {r s : State} (n : Nonce) (e : Nat) (h : Keeps r s) :
    Keeps r (State.endRelease s n e) := by
  unfold State.endRelease
  repeat' first
    | with_reducible assumption
    | with_reducible intro x
    | with_reducible apply State.invalidate_keeps
    | with_reducible apply Keeps.ite

theorem State.release_keeps {r s : State} (chd : BitVec 256) (img : List Byte) (k : Nat) (n : Nonce) (e : Nat) (wrapped : List Byte) (h : Keeps r s) :
    SndKeeps r (State.release s chd img k n e wrapped) := by
  unfold State.release
  repeat' first
    | with_reducible assumption
    | with_reducible intro x
    | with_reducible apply SndKeeps.mk
    | with_reducible apply State.keyRefused_keeps
    | with_reducible apply State.fillSlot_keeps
    | with_reducible apply Keeps.ite
    | with_reducible apply SndKeeps.ite
    | refine SndKeeps.of ?_ (by assumption)
    | with_reducible exact SndKeeps.snd (by assumption)
    | with_reducible exact SndKeeps.mk_keep (by assumption)
    | split

theorem execKrWrap_keeps {r s : State} (session : Bool) (chd : BitVec 256) (keyid : Fin 256) (nonce : BitVec 256) (wrapped : List Byte) (sig : List Byte) (h : Keeps r s) :
    OutKeeps r (execKrWrap session chd keyid nonce wrapped sig s) := by
  unfold execKrWrap
  repeat' first
    | with_reducible assumption
    | with_reducible intro x
    | with_reducible apply OutKeeps.next
    | with_reducible apply SndKeeps.mk
    | with_reducible apply State.answerOwner_keeps
    | with_reducible refine SndKeeps.snd (State.useNonce_keeps (h := ?_) ..)
    | with_reducible apply State.useNonce_keeps
    | with_reducible apply State.endRelease_keeps
    | with_reducible refine SndKeeps.snd (State.release_keeps (h := ?_) ..)
    | with_reducible apply State.release_keeps
    | with_reducible apply Keeps.ite
    | with_reducible apply SndKeeps.ite
    | with_reducible apply OutKeeps.ite
    | refine SndKeeps.of ?_ (by assumption)
    | with_reducible exact SndKeeps.snd (by assumption)
    | with_reducible exact SndKeeps.mk_keep (by assumption)
    | split

theorem execRevoke_keeps {r s : State} (session : Bool) (chd : BitVec 256) (keyid : Fin 256) (kill : Bool) (nonce : BitVec 256) (sig : List Byte) (h : Keeps r s) :
    OutKeeps r (execRevoke session chd keyid kill nonce sig s) := by
  unfold execRevoke
  repeat' first
    | with_reducible assumption
    | with_reducible intro x
    | with_reducible apply OutKeeps.next
    | with_reducible apply SndKeeps.mk
    | with_reducible apply State.invalidate_keeps
    | with_reducible apply State.startAbort_keeps
    | with_reducible apply State.answerOwner_keeps
    | with_reducible refine SndKeeps.snd (State.useNonce_keeps (h := ?_) ..)
    | with_reducible apply State.useNonce_keeps
    | with_reducible apply Keeps.ite
    | with_reducible apply SndKeeps.ite
    | with_reducible apply OutKeeps.ite
    | with_reducible apply Keeps.foldl
    | with_reducible apply SndKeeps.foldl
    | refine SndKeeps.of ?_ (by assumption)
    | with_reducible exact SndKeeps.snd (by assumption)
    | with_reducible exact SndKeeps.mk_keep (by assumption)
    | split

theorem execReport_keeps {r s : State} (session : Bool) (chd : BitVec 256) (owner : Fin 16) (nonce : BitVec 256) (sig : List Byte) (h : Keeps r s) :
    OutKeeps r (execReport session chd owner nonce sig s) := by
  unfold execReport
  repeat' first
    | with_reducible assumption
    | with_reducible intro x
    | with_reducible apply OutKeeps.next
    | with_reducible apply SndKeeps.mk
    | with_reducible apply State.answerSigned_keeps
    | with_reducible apply State.answerOwner_keeps
    | with_reducible refine SndKeeps.snd (State.useNonce_keeps (h := ?_) ..)
    | with_reducible apply State.useNonce_keeps
    | with_reducible apply Keeps.ite
    | with_reducible apply SndKeeps.ite
    | with_reducible apply OutKeeps.ite
    | refine SndKeeps.of ?_ (by assumption)
    | with_reducible exact SndKeeps.snd (by assumption)
    | with_reducible exact SndKeeps.mk_keep (by assumption)
    | split

theorem execObjImport_keeps {r s : State} (c : MbxCall) (h : Keeps r s) :
    OutKeeps r (execObjImport c s) := by
  unfold execObjImport
  repeat' first
    | with_reducible assumption
    | (with_reducible intro x)
    | (lift_lets -underBinder; with_reducible intro x)
    | with_reducible apply OutKeeps.next
    | with_reducible apply FstKeeps.mk
    | with_reducible apply mailbox_keeps
    | with_reducible apply State.loseKey_keeps
    | with_reducible apply Keeps.ite
    | with_reducible apply FstKeeps.ite
    | with_reducible apply OutKeeps.ite
    | (with_reducible apply Keeps.plain; · with_reducible assumption)
    | split

theorem State.importChunks_keeps {r s : State} (c : Nat) (key : BitVec 128) (head : List Byte) (p0 : Nat) (p1 : Nat) (p2 : Nat) (p3 : Nat) (p4 : List Byte) (h : Keeps r s) :
    ResKeeps r (State.importChunks s c key head p0 p1 p2 p3 p4) := by
  induction p0 generalizing s p1 p2 p3 p4 with
  | zero =>
      unfold State.importChunks
      repeat' first
        | with_reducible assumption
        | with_reducible apply ResKeeps.ok
  | succ n ih =>
      unfold State.importChunks
      repeat' first
        | with_reducible assumption
        | (lift_lets -underBinder; with_reducible intro x)
        | with_reducible intro x
        | with_reducible apply ResKeeps.ok
        | with_reducible apply ih
        | with_reducible apply State.writeVa_keeps
        | with_reducible apply ResKeeps.bind
        | with_reducible apply ResKeeps.ite
        | split

theorem State.importObject_keeps {r s : State} (p1 : Xfer) (key : BitVec 256) (size : Nat) (h : Keeps r s) :
    ResKeeps r (State.importObject s p1 key size) := by
  unfold State.importObject
  repeat' first
    | with_reducible assumption
    | with_reducible intro x
    | with_reducible apply ResKeeps.ok
    | with_reducible apply ResKeeps.lost
    | with_reducible apply ResKeeps.wait
    | with_reducible apply State.readVa_keeps
    | with_reducible apply State.writeVa_keeps
    | with_reducible apply State.importChunks_keeps
    | with_reducible apply ResKeeps.bind
    | with_reducible apply Keeps.ite
    | with_reducible apply ResKeeps.ite

theorem State.again_keeps {r s : State} (i : Nat) (p2 : Xfer) (h : Keeps r s) :
    Keeps r (State.again s i p2) := by
  unfold State.again
  repeat' first
    | with_reducible assumption
    | with_reducible intro x
    | (with_reducible apply Keeps.plain; · with_reducible assumption)

theorem execObjImportComplete_keeps {r s : State} (i : Nat) (size : Nat) (h : Keeps r s) :
    OutKeeps r (execObjImportComplete i size s) := by
  unfold execObjImportComplete
  repeat' first
    | with_reducible assumption
    | with_reducible intro x
    | (lift_lets -underBinder; with_reducible intro x)
    | with_reducible apply OutKeeps.next
    | with_reducible apply ResKeeps.ok
    | with_reducible apply ResKeeps.lost
    | with_reducible apply ResKeeps.wait
    | with_reducible apply State.signal_keeps
    | with_reducible apply State.lose_keeps
    | with_reducible apply State.loseKey_keeps
    | with_reducible apply State.importObject_keeps
    | with_reducible apply State.again_keeps
    | with_reducible apply ResKeeps.bind
    | with_reducible apply Keeps.ite
    | with_reducible apply ResKeeps.ite
    | with_reducible apply OutKeeps.ite
    | (with_reducible apply Keeps.plain; · with_reducible assumption)
    | (with_reducible apply Keeps.plain; (on_goal 1 => refine ResKeeps.of_ok ?_ (by assumption)))
    | (with_reducible apply Keeps.plain; (on_goal 1 => refine ResKeeps.of_lost ?_ (by assumption)))
    | (with_reducible apply Keeps.plain; (on_goal 1 => refine ResKeeps.of_wait ?_ (by assumption)))
    | refine ResKeeps.of_ok ?_ (by assumption)
    | refine ResKeeps.of_lost ?_ (by assumption)
    | refine ResKeeps.of_wait ?_ (by assumption)
    | with_reducible exact ResKeeps.ok_keep (by assumption)
    | with_reducible exact ResKeeps.lost_keep (by assumption)
    | with_reducible exact ResKeeps.wait_keep (by assumption)
    | split

theorem execObjExport_keeps {r s : State} (c : MbxCall) (h : Keeps r s) :
    OutKeeps r (execObjExport c s) := by
  unfold execObjExport
  repeat' first
    | with_reducible assumption
    | with_reducible intro x
    | (lift_lets -underBinder; with_reducible intro x)
    | with_reducible apply OutKeeps.next
    | with_reducible apply ResKeeps.ok
    | with_reducible apply ResKeeps.lost
    | with_reducible apply ResKeeps.wait
    | with_reducible apply FstKeeps.mk
    | with_reducible apply State.readVa_keeps
    | with_reducible apply mailbox_keeps
    | with_reducible apply State.loseKey_keeps
    | with_reducible apply ResKeeps.bind
    | with_reducible apply Keeps.ite
    | with_reducible apply ResKeeps.ite
    | with_reducible apply FstKeeps.ite
    | with_reducible apply OutKeeps.ite
    | (with_reducible apply Keeps.plain; · with_reducible assumption)
    | (with_reducible apply Keeps.plain; (on_goal 1 => refine ResKeeps.of_ok ?_ (by assumption)))
    | (with_reducible apply Keeps.plain; (on_goal 1 => refine ResKeeps.of_lost ?_ (by assumption)))
    | (with_reducible apply Keeps.plain; (on_goal 1 => refine ResKeeps.of_wait ?_ (by assumption)))
    | refine ResKeeps.of_ok ?_ (by assumption)
    | refine ResKeeps.of_lost ?_ (by assumption)
    | refine ResKeeps.of_wait ?_ (by assumption)
    | with_reducible exact ResKeeps.ok_keep (by assumption)
    | with_reducible exact ResKeeps.lost_keep (by assumption)
    | with_reducible exact ResKeeps.wait_keep (by assumption)
    | split

theorem State.wrapTo_keeps {r s : State} (img : List Byte) (key : List Byte) (p0 : List Nat) (h : Keeps r s) :
    SndKeeps r (State.wrapTo s img key p0) := by
  induction p0 generalizing s with
  | nil =>
      unfold State.wrapTo
      repeat' first
        | with_reducible assumption
        | with_reducible apply SndKeeps.mk
  | cons y ys ih =>
      unfold State.wrapTo
      repeat' first
        | with_reducible assumption
        | with_reducible apply SndKeeps.mk
        | with_reducible refine SndKeeps.snd (State.free_keeps (h := ?_) ..)
        | with_reducible apply_assumption

theorem State.exportKey_keeps {r s : State} (x : Xfer) (img : List Byte) (h : Keeps r s) :
    OptSndKeeps r (State.exportKey s x img) := by
  unfold State.exportKey
  repeat' first
    | with_reducible assumption
    | with_reducible intro x
    | with_reducible apply State.drawKey_keeps
    | with_reducible refine SndKeeps.snd (State.wrapTo_keeps (h := ?_) ..)
    | with_reducible apply OptSndKeeps.ite
    | with_reducible apply OptSndKeeps.map_of
    | with_reducible apply OptSndKeeps.map

theorem execObjExportComplete_keeps {r s : State} (i : Nat) (ok : Bool) (h : Keeps r s) :
    OutKeeps r (execObjExportComplete i ok s) := by
  unfold execObjExportComplete
  repeat' first
    | with_reducible assumption
    | with_reducible intro x
    | (lift_lets -underBinder; with_reducible intro x)
    | with_reducible apply OutKeeps.next
    | with_reducible apply ResKeeps.ok
    | with_reducible apply ResKeeps.lost
    | with_reducible apply ResKeeps.wait
    | with_reducible apply OptSndKeeps.none
    | with_reducible apply OptSndKeeps.some
    | with_reducible apply State.signal_keeps
    | with_reducible apply State.keyRefused_keeps
    | with_reducible apply State.readVa_keeps
    | with_reducible apply State.writeVa_keeps
    | with_reducible apply State.loseKey_keeps
    | with_reducible apply State.endExports_keeps
    | with_reducible apply State.exportKey_keeps
    | with_reducible apply ResKeeps.bind
    | with_reducible apply Keeps.ite
    | with_reducible apply ResKeeps.ite
    | with_reducible apply OptSndKeeps.ite
    | with_reducible apply OutKeeps.ite
    | (with_reducible apply Keeps.plain; · with_reducible assumption)
    | (with_reducible apply Keeps.plain; (on_goal 1 => refine ResKeeps.of_ok ?_ (by assumption)))
    | (with_reducible apply Keeps.plain; (on_goal 1 => refine ResKeeps.of_lost ?_ (by assumption)))
    | (with_reducible apply Keeps.plain; (on_goal 1 => refine ResKeeps.of_wait ?_ (by assumption)))
    | (with_reducible apply Keeps.plain; (on_goal 1 => refine OptSndKeeps.of ?_ (by assumption)))
    | refine ResKeeps.of_ok ?_ (by assumption)
    | refine ResKeeps.of_lost ?_ (by assumption)
    | refine ResKeeps.of_wait ?_ (by assumption)
    | refine OptSndKeeps.of ?_ (by assumption)
    | with_reducible exact ResKeeps.ok_keep (by assumption)
    | with_reducible exact ResKeeps.lost_keep (by assumption)
    | with_reducible exact ResKeeps.wait_keep (by assumption)
    | with_reducible exact OptSndKeeps.some_keep (by assumption)
    | split

end Sys2Proof.Machine
end

