-- ==== Sys2Proof/Laws/KeepLife.lean ====
section
/-! SUPPORT. What the operations of Machine/Life.lean keep. -/

namespace Sys2Proof.Machine

theorem bits_or {w : Nat} (a b : BitVec w) : a &&& (a ||| b) = a := by
  ext j; simp; tauto

theorem LifeUp.mark {a b : LifeCycle} (i : Nat) (h : LifeUp a b) : LifeUp a (b.mark i) := by
  refine ⟨h.lcm, ?_, h.dies⟩
  exact bits_trans h.lcp (bits_or _ _)

/-- More bits of LCM. -/
theorem LifeUp.lcmOr {a b : LifeCycle} (x : W64) (h : LifeUp a b) : LifeUp a { b with lcm := b.lcm ||| x } := by
  exact ⟨bits_trans h.lcm (bits_or _ _), h.lcp, h.dies⟩

/-- What is neither a word of OTP nor a fuse. -/
theorem LifeUp.upd {a b : LifeCycle} {code_ : BitVec 8} {trip_ refused_ reads_ : Nat} {tap_ : Tab Nat} {A_ B_ : HelperBank}
    {puf_ : BitVec 65536} {failed_ advance_ retire_ : Bool} (h : LifeUp a b) :
    LifeUp a (LifeCycle.mk b.lcm code_ b.lcp b.dies trip_ refused_ tap_ A_ B_ puf_ reads_ failed_ advance_ retire_) :=
  ⟨h.lcm, h.lcp, h.dies⟩

theorem LifeUp.ite {a b c : LifeCycle} {p : Prop} [Decidable p] (h : LifeUp a b) (g : LifeUp a c) : LifeUp a (if p then b else c) := by
  split <;> assumption

theorem State.blank_keeps {r s : State} (h : Keeps r s) : Keeps r s.blank := by
  unfold State.blank
  exact Keeps.upd h le_rfl (.nil _) (.nil _) (.nil _) (.refl _) (.refl _) (LifeUp.refl _).upd ⟨le_rfl, by simp [Boot.stored]⟩

theorem State.packageReset_keeps {r s : State} (cause : Nat) (h : Keeps r s) : Keeps r (s.packageReset cause) := by
  unfold State.packageReset
  exact Keeps.upd (State.blank_keeps h) le_rfl (.refl _) (.refl _) (.refl _) (.refl _) (.refl _) (.refl _)
    ⟨le_rfl, by simp [State.blank, Boot.stored]⟩

theorem LifeUp.fuse {a b : LifeCycle} (m : Nat) (h : LifeUp a b) : LifeUp a (b.fuse m) := by
  refine ⟨h.lcm, h.lcp, ?_⟩
  have g (l : List Nat) (w : BitVec 52) (k : a.dies &&& w = a.dies) :
      a.dies &&& l.foldl (fun w d => w ||| ((lcDie m).setWidth 52 <<< (4 * d))) w = a.dies := by
    induction l generalizing w with
    | nil => exact k
    | cons d l ih => exact ih _ (bits_trans k (bits_or _ _))
  exact g _ _ h.dies

/-- More fuses. -/
theorem LifeUp.diesOr {a b : LifeCycle} (x : BitVec 52) (h : LifeUp a b) : LifeUp a { b with dies := b.dies ||| x } :=
  ⟨h.lcm, h.lcp, bits_trans h.dies (bits_or _ _)⟩

theorem LifeUp.enrolIn {a b : LifeCycle} (x : Bool) (h : LifeUp a b) : LifeUp a (b.enrolIn x) := by
  unfold LifeCycle.enrolIn
  exact LifeUp.ite (h.upd.mark 4) (h.upd.mark 2)

theorem LifeUp.enrolled {a b : LifeCycle} (x : Bool) (h : LifeUp a b) : LifeUp a (b.enrolled x) := by
  unfold LifeCycle.enrolled
  exact LifeUp.ite (h.upd.mark 5) (h.upd.mark 3)

theorem LifeUp.produce {a b : LifeCycle} (good : Bool) (h : LifeUp a b) : LifeUp a (b.produce good).1 := by
  unfold LifeCycle.produce
  dsimp only
  have h := ((h.mark 0).fuse 2).mark 1
  generalize ((b.mark 0).fuse 2).mark 1 = l at h
  repeat' split
  · exact (h.lcmOr _).mark 6
  · exact ((((h.enrolIn false).enrolled false).lcmOr _).mark 6)
  · exact h.enrolIn false
  · exact ((((h.enrolIn true).enrolled true).lcmOr _).mark 6)
  · exact h.enrolIn true
  · exact h

theorem LifeUp.produceSteps {a b : LifeCycle} (k : Nat) (h : LifeUp a b) : LifeUp a (b.produceSteps k) := by
  unfold LifeCycle.produceSteps
  dsimp only
  have g := LifeUp.ite (p := 1 ≤ k) (h.mark 0) h
  generalize (if 1 ≤ k then b.mark 0 else b) = l at g ⊢
  have g := LifeUp.ite (p := 2 ≤ k) ((g.fuse 2).mark 1) g
  generalize (if 2 ≤ k then (l.fuse 2).mark 1 else l) = m at g ⊢
  exact LifeUp.ite g (g.enrolIn _)

theorem LifeUp.retireSteps {a b : LifeCycle} (k : Nat) (h : LifeUp a b) : LifeUp a (b.retireSteps k) := by
  unfold LifeCycle.retireSteps
  dsimp only
  have g := LifeUp.ite (p := 1 ≤ k) (LifeUp.mark (b := { b with bankA := .erased, bankB := .erased }) 8 h.upd) h
  generalize (if 1 ≤ k then LifeCycle.mark { b with bankA := .erased, bankB := .erased } 8 else b) = l at g ⊢
  have g := LifeUp.ite (p := 2 ≤ k) ((g.fuse 3).mark 9) g
  generalize (if 2 ≤ k then (l.fuse 3).mark 9 else l) = m at g ⊢
  exact LifeUp.ite ((g.lcmOr _).mark 10) g

theorem execLcQuery_keeps {r s : State} (c : MbxCall) (h : Keeps r s) :
    OutKeeps r (execLcQuery c s) := by
  unfold execLcQuery
  repeat' first
    | with_reducible assumption
    | with_reducible intro x
    | with_reducible apply OutKeeps.next
    | with_reducible apply FstKeeps.mk
    | with_reducible apply mailbox_keeps

theorem execLcRetire_keeps {r s : State} (c : MbxCall) (h : Keeps r s) :
    OutKeeps r (execLcRetire c s) := by
  unfold execLcRetire
  have k : Keeps r { s with lc := { s.lc with retire := false } } :=
    Keeps.upd h le_rfl (.refl _) (.refl _) (.refl _) (.refl _) (.refl _) (LifeUp.refl _).upd (.refl _)
  refine OutKeeps.next ?_
  dsimp only
  generalize hx : mailbox c _ _ _ = x
  have g : Keeps r x := by
    rw [← hx]
    refine mailbox_keeps k fun a t ht => FstKeeps.ite (FstKeeps.mk ?_) (FstKeeps.ite (FstKeeps.mk ht) (FstKeeps.mk ?_))
    · exact Keeps.upd ht le_rfl (.refl _) (.refl _) (.refl _) (.refl _) (.refl _) (LifeUp.refl _).upd (.refl _)
    · exact Keeps.upd ht le_rfl (.refl _) (.refl _) (.refl _) (.refl _) (.refl _) ((LifeUp.refl _).mark 7).upd (.refl _)
  exact Keeps.ite (State.packageReset_keeps _ g) g

theorem execLcAdvance_keeps {r s : State} (h : Keeps r s) :
    OutKeeps r (execLcAdvance s) := by
  unfold execLcAdvance
  refine OutKeeps.next (Keeps.ite h (Keeps.ite ?_ ?_))
  · exact Keeps.upd h le_rfl (.refl _) (.refl _) (.refl _) (.refl _) (.refl _) (LifeUp.refl _).upd (.refl _)
  · exact Keeps.upd h le_rfl (.refl _) (.refl _) (.refl _) (.refl _) (.refl _) (LifeUp.refl _).upd (.refl _)

theorem execTestAccessPortInstruction_keeps {r s : State} (die : Fin 13) (instr : Fin 8) (perst : Bool) (h : Keeps r s) :
    OutKeeps r (execTestAccessPortInstruction die instr perst s) := by
  unfold execTestAccessPortInstruction
  refine OutKeeps.next (Keeps.ite h (Keeps.ite (Keeps.ite ?_ ?_) ?_))
  · refine Keeps.upd h le_rfl (.refl _) (.refl _) (.refl _) (.refl _) (.refl _) ⟨?_, by simp, bits_or _ _⟩ (.refl _)
    dsimp only
    split
    · exact bits_or _ _
    · simp
  · exact Keeps.upd h le_rfl (.refl _) (.refl _) (.refl _) (.refl _) (.refl _) (LifeUp.refl _).upd (.refl _)
  · exact Keeps.upd h le_rfl (.refl _) (.refl _) (.refl _) (.refl _) (.refl _) (LifeUp.refl _).upd (.refl _)

end Sys2Proof.Machine
end

