-- ==== Sys2Proof/Laws/KeepPower.lean ====
section
/-! SUPPORT. What the operations of Machine/Power.lean keep. -/

namespace Sys2Proof.Machine

theorem execMainSupplyRise_keeps {r s : State} (h : Keeps r s) :
    OutKeeps r (execMainSupplyRise s) := by
  unfold execMainSupplyRise
  repeat' first
    | with_reducible assumption
    | (lift_lets -underBinder; with_reducible intro x)
    | with_reducible apply OutKeeps.next
    | with_reducible apply Keeps.ite
    | (with_reducible apply Keeps.plain; · with_reducible assumption)

theorem execAuxSupplyRise_keeps {r s : State} (h : Keeps r s) :
    OutKeeps r (execAuxSupplyRise s) := by
  unfold execAuxSupplyRise
  repeat' first
    | with_reducible assumption
    | (lift_lets -underBinder; with_reducible intro x)
    | with_reducible apply OutKeeps.next
    | with_reducible apply Keeps.ite
    | (with_reducible apply Keeps.plain; · with_reducible assumption)

theorem execAuxSupplyFall_keeps {r s : State} (h : Keeps r s) :
    OutKeeps r (execAuxSupplyFall s) := by
  unfold execAuxSupplyFall
  repeat' first
    | with_reducible assumption
    | (lift_lets -underBinder; with_reducible intro x; with_reducible refine with_fact (a := Keeps r x) ?_ ?_; (on_goal 1 => unfold x); (on_goal 2 => (intro hx; clear_value x)))
    | with_reducible intro x
    | with_reducible apply OutKeeps.next
    | with_reducible apply State.blank_keeps
    | (with_reducible apply Keeps.plain; · with_reducible assumption)

theorem State.railsOff_keeps {r s : State} (cause vin iin : Nat) (h : Keeps r s) :
    Keeps r (State.railsOff s cause vin iin) := by
  unfold State.railsOff
  repeat' first
    | with_reducible assumption
    | (lift_lets -underBinder; with_reducible intro x; with_reducible refine with_fact (a := Keeps r x) ?_ ?_; (on_goal 1 => unfold x); (on_goal 2 => (intro hx; clear_value x)))
    | with_reducible intro x
    | with_reducible apply State.blank_keeps
    | (with_reducible apply Keeps.plain; · with_reducible assumption)

theorem execSupplyFault_keeps {r s : State} (cause : Fin 4) (vin iin : BitVec 16) (h : Keeps r s) :
    OutKeeps r (execSupplyFault cause vin iin s) := by
  unfold execSupplyFault
  repeat' first
    | with_reducible assumption
    | with_reducible apply OutKeeps.next
    | with_reducible apply State.railsOff_keeps
    | with_reducible apply Keeps.ite

theorem execOperatingPointChange_keeps {r s : State} (die : Fin 8) (h : Keeps r s) :
    OutKeeps r (execOperatingPointChange die s) := by
  unfold execOperatingPointChange
  repeat' first
    | with_reducible assumption
    | (lift_lets -underBinder; with_reducible intro x)
    | with_reducible intro x
    | with_reducible apply OutKeeps.next
    | with_reducible apply Keeps.ite
    | (with_reducible apply Keeps.plain; · with_reducible assumption)

theorem execPowerCapTick_keeps {r s : State} (w : BitVec 16) (h : Keeps r s) :
    OutKeeps r (execPowerCapTick w s) := by
  unfold execPowerCapTick
  repeat' first
    | with_reducible assumption
    | with_reducible apply OutKeeps.next
    | with_reducible apply Keeps.ite
    | (with_reducible apply Keeps.plain; · with_reducible assumption)

theorem execPwrBrakeAssert_keeps {r s : State} (long : Bool) (h : Keeps r s) :
    OutKeeps r (execPwrBrakeAssert long s) := by
  unfold execPwrBrakeAssert
  repeat' first
    | with_reducible assumption
    | (lift_lets -underBinder; with_reducible intro x)
    | with_reducible intro x
    | with_reducible apply OutKeeps.next
    | with_reducible apply Keeps.ite
    | (with_reducible apply Keeps.plain; · with_reducible assumption)

theorem execPwrBrakeDeassert_keeps {r s : State} (h : Keeps r s) :
    OutKeeps r (execPwrBrakeDeassert s) := by
  unfold execPwrBrakeDeassert
  repeat' first
    | (lift_lets -underBinder; with_reducible intro x)
    | with_reducible apply OutKeeps.next
    | (with_reducible apply Keeps.plain; · with_reducible assumption)

theorem State.sample_keeps {r s : State} (t : TempIn) (h : Keeps r s) :
    Keeps r (State.sample s t) := by
  unfold State.sample
  repeat' first
    | (lift_lets -underBinder; with_reducible intro x)
    | with_reducible intro x
    | (with_reducible apply Keeps.plain; · with_reducible assumption)

theorem execThermalSample_keeps {r s : State} (t : TempIn) (h : Keeps r s) :
    OutKeeps r (execThermalSample t s) := by
  unfold execThermalSample
  repeat' first
    | with_reducible assumption
    | with_reducible apply OutKeeps.next
    | with_reducible apply State.sample_keeps
    | with_reducible apply Keeps.ite

theorem execThermalThrottleTick_keeps {r s : State} (h : Keeps r s) :
    OutKeeps r (execThermalThrottleTick s) := by
  unfold execThermalThrottleTick
  repeat' first
    | with_reducible assumption
    | with_reducible apply OutKeeps.next
    | with_reducible apply Keeps.ite
    | (with_reducible apply Keeps.plain; · with_reducible assumption)

theorem execRefreshIntervalBoundary_keeps {r s : State} (die : Fin 8) (h : Keeps r s) :
    OutKeeps r (execRefreshIntervalBoundary die s) := by
  unfold execRefreshIntervalBoundary
  repeat' first
    | with_reducible assumption
    | (lift_lets -underBinder; with_reducible intro x)
    | with_reducible intro x
    | with_reducible apply OutKeeps.next
    | with_reducible apply Keeps.ite
    | (with_reducible apply Keeps.plain; · with_reducible assumption)

theorem execThermalHalt_keeps {r s : State} (die : Fin 13) (h : Keeps r s) :
    OutKeeps r (execThermalHalt die s) := by
  unfold execThermalHalt
  repeat' first
    | with_reducible assumption
    | (lift_lets -underBinder; with_reducible intro x; first
        | (with_reducible refine with_fact (a := Keeps r x) ?_ ?_; (on_goal 1 => unfold x); (on_goal 2 => (intro hx; clear_value x)))
        | skip)
    | (with_reducible intro x; first
        | (with_reducible refine with_fact (a := Keeps r x) ?_ ?_; (on_goal 1 => unfold x); (on_goal 2 => (intro hx; clear_value x)))
        | skip)
    | with_reducible exact WfKeep.refl _
    | with_reducible exact CoresKeep.refl _
    | with_reducible exact LifeUp.refl _
    | with_reducible exact BootUp.refl _
    | with_reducible exact le_rfl
    | with_reducible apply OutKeeps.next
    | with_reducible refine SndKeeps.snd (State.free_keeps (h := ?_) ..)
    | (with_reducible apply Keeps.upd; (on_goal 1 => with_reducible refine SndKeeps.snd (State.free_keeps (h := ?_) ..)))
    | with_reducible apply State.record_keeps
    | with_reducible apply State.loseAll_keeps
    | with_reducible apply State.writeDump_keeps
    | with_reducible apply State.sentinel_keeps
    | with_reducible apply State.railsOff_keeps
    | with_reducible apply Keeps.ite
    | (with_reducible apply Keeps.plain; · with_reducible assumption)
    | (with_reducible apply Keeps.upd; · with_reducible assumption)
    | with_reducible exact WfKeep.drop _ _
    | split

theorem execFabRefclkLoss_keeps {r s : State} (h : Keeps r s) :
    OutKeeps r (execFabRefclkLoss s) := by
  unfold execFabRefclkLoss
  repeat' first
    | with_reducible assumption
    | (lift_lets -underBinder; with_reducible intro x)
    | (with_reducible intro x; first
        | (with_reducible refine with_fact (a := Keeps r x) ?_ ?_; (on_goal 1 => unfold x); (on_goal 2 => (intro hx; clear_value x)))
        | skip)
    | with_reducible apply OutKeeps.next
    | with_reducible apply State.updPort_keeps
    | with_reducible apply State.dropPort_keeps
    | with_reducible apply Keeps.foldl
    | (with_reducible apply Keeps.plain; · with_reducible assumption)
    | split

theorem execFabRefclkRecovery_keeps {r s : State} (h : Keeps r s) :
    OutKeeps r (execFabRefclkRecovery s) := by
  unfold execFabRefclkRecovery
  repeat' first
    | with_reducible assumption
    | (lift_lets -underBinder; with_reducible intro x)
    | with_reducible intro x
    | with_reducible apply OutKeeps.next
    | with_reducible apply State.startPort_keeps
    | with_reducible apply Keeps.foldl
    | (with_reducible apply Keeps.plain; · with_reducible assumption)

end Sys2Proof.Machine
end

