-- ==== Sys2Proof/Laws/KeepBoot.lean ====
section
/-! SUPPORT. What the operations of Machine/Boot.lean keep. -/

namespace Sys2Proof.Machine

/-- What is neither the rollback counter nor a revocation. -/
theorem BootUp.upd {a b : Boot} {step_ cause_ svn_ keyidx_ fallbk_ tstart_ rate_ imgKey_ imgSvn_ imgCause_ seq_ calFail_ : Nat}
    {warm_ recov_ calok_ writing_ sealDue_ : Bool} {fwm_ imgFwm_ : BitVec 256} {train_ : Option (BitVec 256 × Nat)} {cal_ : Tab W64}
    {nor_ : Tab (Nat × List Byte × BitVec 256)} (h : BootUp a b) :
    BootUp a (Boot.mk step_ cause_ warm_ recov_ svn_ b.ctr keyidx_ b.revoked fallbk_ calok_ tstart_ fwm_ rate_ imgKey_ imgSvn_ imgFwm_ imgCause_
      writing_ train_ cal_ seq_ nor_ calFail_ sealDue_) := ⟨h.ctr, h.revoked⟩

theorem pldmReply_keeps {r s : State} (code : Nat) (h : Keeps r s) :
    Keeps r (pldmReply s code) := by
  unfold pldmReply
  repeat' first
    | (lift_lets -underBinder; with_reducible intro x)
    | (with_reducible apply Keeps.plain; · with_reducible assumption)

theorem execImageWrite_keeps {r s : State} (x : ImageIn) (ends : Bool) (h : Keeps r s) : OutKeeps r (execImageWrite x ends s) := by
  unfold execImageWrite
  refine OutKeeps.next (Keeps.ite h (Keeps.ite (pldmReply_keeps _ h) (Keeps.ite ?_ (pldmReply_keeps _ ?_))))
  · exact Keeps.upd h le_rfl (.refl _) (.refl _) (.refl _) (.refl _) (.refl _) (.refl _) (BootUp.refl _).upd
  · exact Keeps.upd h le_rfl (.refl _) (.refl _) (.refl _) (.refl _) (.refl _) (.refl _) (BootUp.refl _).upd

theorem execFwRevoke_keeps {r s : State} (c : MbxCall) (h : Keeps r s) : OutKeeps r (execFwRevoke c s) := by
  unfold execFwRevoke
  refine OutKeeps.next (mailbox_keeps h fun a t ht => ?_)
  refine FstKeeps.ite (FstKeeps.mk ht) (FstKeeps.ite (FstKeeps.mk ht) (FstKeeps.mk ?_))
  exact Keeps.upd ht le_rfl (.refl _) (.refl _) (.refl _) (.refl _) (.refl _) (.refl _) ⟨le_rfl, bits_or _ _⟩

theorem State.sealTo_keeps {r s : State} (rec : Nat) (b : List Byte) (h : Keeps r s) :
    Keeps r (State.sealTo s rec b) := by
  unfold State.sealTo
  exact Keeps.upd h le_rfl (.refl _) (.refl _) (.refl _) (.refl _) (.refl _) (.refl _) (BootUp.refl _).upd

theorem execCalWrite_keeps {r s : State} (c : MbxCall) (h : Keeps r s) : OutKeeps r (execCalWrite c s) := by
  unfold execCalWrite
  refine OutKeeps.next (mailbox_keeps h fun a t ht => ?_)
  refine FstKeeps.ite (FstKeeps.mk ht) (FstKeeps.ite (FstKeeps.mk ht) (FstKeeps.mk (State.sealTo_keeps _ _ ?_)))
  exact Keeps.upd ht le_rfl (.refl _) (.refl _) (.refl _) (.refl _) (.refl _) (.refl _) (BootUp.refl _).upd

theorem execCalRead_keeps {r s : State} (c : MbxCall) (h : Keeps r s) :
    OutKeeps r (execCalRead c s) := by
  unfold execCalRead
  repeat' first
    | with_reducible assumption
    | (lift_lets -underBinder; with_reducible intro x)
    | with_reducible intro x
    | with_reducible apply OutKeeps.next
    | with_reducible apply FstKeeps.mk
    | with_reducible refine SndKeeps.snd (State.free_keeps (h := ?_) ..)
    | with_reducible apply mailbox_keeps
    | split

theorem execTrainingRecordSeal_keeps {r s : State} (h : Keeps r s) :
    OutKeeps r (execTrainingRecordSeal s) := by
  unfold execTrainingRecordSeal
  refine OutKeeps.next (Keeps.ite (State.sealTo_keeps _ _ ?_) h)
  exact Keeps.upd h le_rfl (.refl _) (.refl _) (.refl _) (.refl _) (.refl _) (.refl _) (BootUp.refl _).upd

theorem State.bootHold_keeps {r s : State} (cause : Nat) (h : Keeps r s) :
    Keeps r (State.bootHold s cause) := by
  unfold State.bootHold
  exact State.irq_keeps _ (Keeps.upd h le_rfl (.refl _) (.refl _) (.refl _) (.refl _) (.refl _) (.refl _) (BootUp.refl _).upd)

theorem State.startFails_keeps {r s : State} (code : Nat) (h : Keeps r s) :
    Keeps r (State.startFails s code) := by
  unfold State.startFails
  repeat' first
    | with_reducible assumption
    | (lift_lets -underBinder; with_reducible intro x)
    | (with_reducible apply Keeps.plain; (on_goal 1 => with_reducible refine SndKeeps.snd (State.free_keeps (h := ?_) ..)))
    | with_reducible apply State.record_keeps
    | with_reducible apply State.sentinel_keeps

theorem State.stepDone_keeps {r s : State} (n : Nat) (h : Keeps r s) :
    Keeps r (State.stepDone s n) := by
  unfold State.stepDone
  exact Keeps.upd h le_rfl (.refl _) (.refl _) (.refl _) (.refl _) (.refl _) (.refl _) (BootUp.refl _).upd

theorem State.logDies_keeps {r s : State} (h : Keeps r s) :
    Keeps r (State.logDies s) := by
  unfold State.logDies
  repeat' first
    | with_reducible assumption
    | with_reducible intro x
    | with_reducible refine SndKeeps.snd (State.free_keeps (h := ?_) ..)
    | with_reducible apply State.record_keeps
    | with_reducible apply Keeps.ite
    | with_reducible apply Keeps.foldl

theorem State.rootKeys_keeps {r s : State} (h : Keeps r s) :
    Keeps r (State.rootKeys s) := by
  unfold State.rootKeys
  repeat' first
    | with_reducible assumption
    | (lift_lets -underBinder; with_reducible intro x)
    | (with_reducible intro x; first
        | (with_reducible refine with_fact (a := Keeps r x) ?_ ?_; (on_goal 1 => unfold x); (on_goal 2 => (intro hx; clear_value x)))
        | skip)
    | with_reducible apply State.fillSlot_keeps

theorem State.certify_keeps {r s : State} (h : Keeps r s) :
    Keeps r (State.certify s) := by
  unfold State.certify
  repeat' first
    | with_reducible assumption
    | with_reducible intro x
    | with_reducible apply State.keyRefused_keeps
    | with_reducible apply Keeps.ite
    | (with_reducible apply Keeps.plain; · with_reducible assumption)

theorem State.drawTransport_keeps {r s : State} (h : Keeps r s) :
    OptKeeps r (State.drawTransport s) := by
  unfold State.drawTransport
  exact OptKeeps.foldl (fun x p hx => OptKeeps.bind hx fun t ht =>
    OptKeeps.map_snd (State.drawFresh_keeps _ ht) fun d hd => Keeps.plain hd) _ (OptKeeps.some h)

theorem State.aliasKey_keeps {r s : State} (h : Keeps r s) :
    Keeps r (State.aliasKey s) := by
  unfold State.aliasKey
  repeat' first
    | with_reducible assumption
    | with_reducible intro x
    | with_reducible apply State.fillSlot_keeps
    | with_reducible apply State.certify_keeps

theorem State.loadRoutes_keeps {r s : State} (h : Keeps r s) :
    Keeps r (State.loadRoutes s) := by
  unfold State.loadRoutes
  repeat' first
    | with_reducible assumption
    | with_reducible intro x
    | (with_reducible apply Keeps.plain; · with_reducible assumption)

theorem State.deviceInits_keeps {r s : State} (h : Keeps r s) :
    Keeps r (State.deviceInits s) := by
  unfold State.deviceInits
  repeat' first
    | (lift_lets -underBinder; with_reducible intro x)
    | with_reducible intro x
    | (with_reducible apply Keeps.plain; · with_reducible assumption)

theorem State.trained_keeps {r s : State} (i : StartIn) (h : Keeps r s) :
    Keeps r (State.trained s i) := by
  unfold State.trained
  exact Keeps.upd h le_rfl (.refl _) (.refl _) (.refl _) (.refl _) (.refl _) (.refl _) (BootUp.refl _).upd

theorem State.readyNow_keeps {r s : State} (i : StartIn) (h : Keeps r s) : Keeps r (s.readyNow i) := by
  unfold State.readyNow
  exact Keeps.upd (State.deviceInits_keeps h) le_rfl (.refl _) (.refl _) (.refl _) (.refl _) (.refl _) (.refl _) ⟨le_max_left _ _, by simp [State.deviceInits]⟩

theorem State.startEnd_keeps {r s : State} (i : StartIn) (h : Keeps r s) :
    Keeps r (State.startEnd s i) := by
  unfold State.startEnd
  repeat' first
    | with_reducible assumption
    | (with_reducible intro x; first
        | (with_reducible refine with_fact (a := Keeps r x) ?_ ?_; (on_goal 1 => unfold x); (on_goal 2 => (intro hx; clear_value x)))
        | skip)
    | (lift_lets -underBinder; with_reducible intro x; first
        | (with_reducible refine with_fact (a := Keeps r x) ?_ ?_; (on_goal 1 => unfold x); (on_goal 2 => (intro hx; clear_value x))))
    | with_reducible apply State.linkEvent_keeps
    | with_reducible apply State.record_keeps
    | with_reducible apply State.startPort_keeps
    | with_reducible apply State.bootHold_keeps
    | with_reducible apply State.stepDone_keeps
    | with_reducible apply State.trained_keeps
    | with_reducible apply State.readyNow_keeps
    | with_reducible apply Keeps.ite
    | with_reducible apply Keeps.foldl
    | with_reducible apply OptKeeps.map
    | with_reducible apply OptSndKeeps.map_of
    | with_reducible apply OptSndKeeps.map
    | with_reducible apply OptKeeps.getD
    | (with_reducible apply Keeps.plain; · with_reducible assumption)

theorem LifeUp.begin {a b : LifeCycle} (trip : Nat) (good : Bool) (cut : Option (Fin 6)) (h : LifeUp a b) :
    LifeUp a (b.begin trip good cut) := by
  unfold LifeCycle.begin
  cases cut with
  | none => exact LifeUp.upd (LifeUp.ite (h.upd.retireSteps 3) (LifeUp.ite (h.upd.produce good) h.upd))
  | some k => exact LifeUp.upd (LifeUp.ite (h.upd.retireSteps k) (LifeUp.ite (h.upd.produceSteps k) h.upd))

theorem State.romStart_keeps {r s : State} (i : StartIn) (h : Keeps r s) : Keeps r (s.romStart i) := by
  have g := LifeUp.begin i.trip i.pufOk i.cut (.refl s.lc)
  unfold State.romStart
  exact Keeps.upd (State.blank_keeps h) le_rfl (.refl _) (.refl _) (.refl _) (.refl _) (.refl _) ⟨g.lcm, g.lcp, g.dies⟩ (.refl _)

theorem State.readPuf_keeps {r s : State} (i : StartIn) (h : Keeps r s) :
    Keeps r (State.readPuf s i) := by
  unfold State.readPuf
  exact Keeps.upd h le_rfl (.refl _) (.refl _) (.refl _) (.refl _) (.refl _) (LifeUp.refl _).upd (.refl _)

theorem State.runImage_keeps {r s : State} (h : Keeps r s) :
    Keeps r (State.runImage s) := by
  unfold State.runImage
  exact Keeps.upd h le_rfl (.refl _) (.refl _) (.refl _) (.refl _) (.refl _) (.refl _) (BootUp.refl _).upd

theorem State.startImage_keeps {r s : State} (i : StartIn) (h : Keeps r s) :
    Keeps r (State.startImage s i) := by
  unfold State.startImage
  repeat' first
    | with_reducible assumption
    | (with_reducible intro x)
    | (lift_lets -underBinder; with_reducible intro x; first
        | (with_reducible refine with_fact (a := Keeps r x) ?_ ?_; (on_goal 1 => unfold x); (on_goal 2 => (intro hx; clear_value x))))
    | with_reducible apply OptKeeps.none
    | with_reducible apply OptKeeps.some
    | with_reducible apply OptSndKeeps.none
    | with_reducible apply OptSndKeeps.some
    | with_reducible apply State.drawFresh_keeps
    | with_reducible apply State.fillSlot_keeps
    | with_reducible apply State.bootHold_keeps
    | with_reducible apply State.startFails_keeps
    | with_reducible apply State.stepDone_keeps
    | with_reducible apply State.drawTransport_keeps
    | with_reducible apply State.aliasKey_keeps
    | with_reducible apply State.loadRoutes_keeps
    | with_reducible apply State.startEnd_keeps
    | with_reducible apply State.runImage_keeps
    | with_reducible apply Keeps.ite
    | with_reducible apply OptKeeps.ite
    | with_reducible apply OptSndKeeps.ite
    | with_reducible apply OptKeeps.bind
    | with_reducible apply OptKeeps.bind_snd
    | with_reducible apply OptKeeps.bind_of
    | with_reducible apply OptSndKeeps.bind_of
    | with_reducible apply OptSndKeeps.bind_opt
    | with_reducible apply OptSndKeeps.bind
    | (with_reducible apply Keeps.plain; · with_reducible assumption)
    | (with_reducible apply Keeps.plain; (on_goal 1 => refine OptSndKeeps.of ?_ (by assumption)))
    | refine OptKeeps.of ?_ (by assumption)
    | refine OptSndKeeps.of ?_ (by assumption)
    | with_reducible exact OptKeeps.some_keep (by assumption)
    | with_reducible exact OptSndKeeps.some_keep (by assumption)
    | split

theorem State.startUp_keeps {r s : State} (i : StartIn) (h : Keeps r s) :
    Keeps r (State.startUp s i) := by
  unfold State.startUp
  repeat' first
    | with_reducible assumption
    | (with_reducible intro x; first
        | (with_reducible refine with_fact (a := Keeps r x) ?_ ?_; (on_goal 1 => unfold x); (on_goal 2 => (intro hx; clear_value x))))
    | (lift_lets -underBinder; with_reducible intro x)
    | with_reducible apply State.trip_keeps
    | with_reducible apply State.startFails_keeps
    | with_reducible apply State.stepDone_keeps
    | with_reducible apply State.logDies_keeps
    | with_reducible apply State.rootKeys_keeps
    | with_reducible apply State.romStart_keeps
    | with_reducible apply State.readPuf_keeps
    | with_reducible apply State.startImage_keeps
    | with_reducible apply Keeps.ite

theorem execStart_keeps {r s : State} (i : StartIn) (h : Keeps r s) :
    OutKeeps r (execStart i s) := by
  unfold execStart
  repeat' first
    | with_reducible assumption
    | with_reducible apply OutKeeps.next
    | with_reducible apply State.startUp_keeps
    | with_reducible apply Keeps.ite

theorem execStartTimerExpiry_keeps {r s : State} (h : Keeps r s) :
    OutKeeps r (execStartTimerExpiry s) := by
  unfold execStartTimerExpiry
  repeat' first
    | with_reducible assumption
    | with_reducible apply OutKeeps.next
    | with_reducible apply State.bootHold_keeps
    | with_reducible apply Keeps.ite

end Sys2Proof.Machine
end

