-- ==== Sys2Proof/Laws/KeepRegs.lean ====
section
/-! SUPPORT. What the operations of Machine/Regs.lean keep. -/

namespace Sys2Proof.Machine

theorem State.readEffect_keeps {r s : State} (o : Nat) (h : Keeps r s) :
    Keeps r (State.readEffect s o) := by
  unfold State.readEffect
  repeat' first
    | with_reducible assumption
    | (lift_lets -underBinder; with_reducible intro x)
    | with_reducible intro x
    | with_reducible apply Keeps.ite
    | (with_reducible apply Keeps.plain; · with_reducible assumption)

theorem State.clearCounters_keeps {r s : State} (o : Nat) (h : Keeps r s) :
    Keeps r (State.clearCounters s o) := by
  unfold State.clearCounters
  repeat' first
    | with_reducible assumption
    | with_reducible intro x
    | with_reducible apply State.peakPad_keeps
    | (with_reducible apply Keeps.plain; · with_reducible assumption)
    | split

theorem State.writeCtl_keeps {r s : State} (o : Nat) (v : W64) (h : Keeps r s) :
    Keeps r (State.writeCtl s o v) := by
  unfold State.writeCtl
  repeat' first
    | with_reducible assumption
    | (lift_lets -underBinder; with_reducible intro x; with_reducible refine with_fact (a := Keeps r x) ?_ ?_; (on_goal 1 => unfold x); (on_goal 2 => (intro hx; clear_value x)))
    | with_reducible apply State.setReg_keeps
    | with_reducible apply State.clearCounters_keeps
    | with_reducible apply Keeps.ite

theorem State.ackDump_keeps {r s : State} (v : W64) (h : Keeps r s) :
    Keeps r (State.ackDump s v) := by
  unfold State.ackDump
  repeat' first
    | with_reducible assumption
    | (lift_lets -underBinder; with_reducible intro x)
    | with_reducible apply State.rsvWrite_keeps
    | with_reducible apply Keeps.ite
    | (with_reducible apply Keeps.plain; · with_reducible assumption)

theorem State.writePortCfg_keeps {r s : State} (p : Nat) (v : W64) (h : Keeps r s) :
    Keeps r (State.writePortCfg s p v) := by
  unfold State.writePortCfg
  repeat' first
    | with_reducible assumption
    | with_reducible apply State.updPort_keeps

theorem State.writeMbx_keeps {r s : State} (x : Nat) (v : W64) (h : Keeps r s) :
    Keeps r (State.writeMbx s x v) := by
  unfold State.writeMbx
  repeat' first
    | with_reducible assumption
    | (lift_lets -underBinder; with_reducible intro x)
    | (with_reducible intro x; first
        | (with_reducible refine with_fact (a := Keeps r x) ?_ ?_; (on_goal 1 => unfold x); (on_goal 2 => (intro hx; clear_value x)))
        | (with_reducible refine with_fact (a := ∀ s, Keeps r s → Keeps r (x s)) ?_ ?_; (on_goal 1 => unfold x); (on_goal 2 => (intro hx; clear_value x)))
        | skip)
    | with_reducible apply State.updChan_keeps
    | with_reducible apply State.setReg_keeps
    | with_reducible apply State.complete_keeps
    | with_reducible apply State.submitted_keeps
    | with_reducible apply Keeps.ite
    | (with_reducible apply Keeps.plain; · with_reducible assumption)
    | with_reducible apply_assumption

theorem State.writeEffect_keeps {r s : State} (o : Nat) (v : W64) (h : Keeps r s) :
    Keeps r (State.writeEffect s o v) := by
  unfold State.writeEffect
  repeat' first
    | with_reducible assumption
    | (lift_lets -underBinder; with_reducible intro x)
    | with_reducible apply State.setReg_keeps
    | with_reducible apply State.writeCtl_keeps
    | with_reducible apply State.ackDump_keeps
    | with_reducible apply State.writePortCfg_keeps
    | with_reducible apply State.writeMbx_keeps
    | with_reducible apply Keeps.ite
    | (with_reducible apply Keeps.plain; · with_reducible assumption)
    | split

theorem State.badUnitAt_keeps {r s : State} (o : Nat) (write : Bool) (h : Keeps r s) :
    Keeps r (State.badUnitAt s o write) := by
  unfold State.badUnitAt
  repeat' first
    | with_reducible assumption
    | with_reducible intro x
    | with_reducible apply State.badAcc_keeps
    | with_reducible apply Keeps.ite

theorem State.unitRead_keeps {r s : State} (o : Nat) (h : Keeps r s) :
    SndKeeps r (State.unitRead s o) := by
  unfold State.unitRead
  repeat' first
    | with_reducible assumption
    | with_reducible intro x
    | with_reducible apply SndKeeps.mk
    | with_reducible apply State.readEffect_keeps
    | with_reducible apply State.badUnitAt_keeps
    | with_reducible apply Keeps.ite
    | with_reducible apply SndKeeps.ite
    | refine SndKeeps.of ?_ (by assumption)
    | with_reducible exact SndKeeps.snd (by assumption)
    | with_reducible exact SndKeeps.mk_keep (by assumption)
    | split

theorem State.unitWrite_keeps {r s : State} (o : Nat) (v : W64) (h : Keeps r s) :
    Keeps r (State.unitWrite s o v) := by
  unfold State.unitWrite
  repeat' first
    | with_reducible assumption
    | with_reducible intro x
    | with_reducible apply State.rsvWrite_keeps
    | with_reducible apply State.writeEffect_keeps
    | with_reducible apply State.badUnitAt_keeps
    | with_reducible apply Keeps.ite
    | split

end Sys2Proof.Machine
end

