-- ==== Sys2Proof/Laws/KeepPcie.lean ====
section
/-! SUPPORT. What the operations of Machine/Pcie.lean keep. -/

namespace Sys2Proof.Machine

theorem State.answered_keeps {r s : State} (stat : Nat) (v : W64) (b : List Byte) (h : Keeps r s) :
    Keeps r (State.answered s stat v b) := by
  unfold State.answered
  repeat' first
    | (lift_lets -underBinder; with_reducible intro x)
    | (with_reducible apply Keeps.plain; · with_reducible assumption)

theorem State.pcieError_keeps {r s : State} (u : BitVec 32) (c : BitVec 32) (h : Keeps r s) :
    Keeps r (State.pcieError s u c) := by
  unfold State.pcieError
  have g : SndKeeps r ((s.free 128).2.free 16) := State.free_keeps 16 (SndKeeps.snd (State.free_keeps 128 h))
  exact State.record_keeps _ (Keeps.plain (SndKeeps.snd g))

theorem State.onBar_keeps {r s : State} (f : State → State) (h : Keeps r s) (g_f : ∀ x0, Keeps r x0 → Keeps r (f x0)) :
    Keeps r (State.onBar s f) := by
  unfold State.onBar
  repeat' first
    | with_reducible assumption
    | with_reducible apply g_f
    | with_reducible apply State.answered_keeps
    | with_reducible apply State.pcieError_keeps
    | with_reducible apply Keeps.ite

theorem State.cfgPut_keeps {r s : State} (o init mask v : Nat) (h : Keeps r s) :
    Keeps r (State.cfgPut s o init mask v) := by
  unfold State.cfgPut
  repeat' first
    | (lift_lets -underBinder; with_reducible intro x)
    | with_reducible intro x
    | (with_reducible apply Keeps.plain; · with_reducible assumption)

theorem State.writePower_keeps {r s : State} (v : Nat) (h : Keeps r s) :
    Keeps r (State.writePower s v) := by
  unfold State.writePower
  repeat' first
    | with_reducible assumption
    | (lift_lets -underBinder; with_reducible intro x)
    | with_reducible refine SndKeeps.snd (State.free_keeps (h := ?_) ..)
    | with_reducible apply State.record_keeps
    | with_reducible apply Keeps.ite
    | (with_reducible apply Keeps.plain; · with_reducible assumption)

theorem State.cfgWrite_keeps {r s : State} (o : Nat) (be : BitVec 4) (val : BitVec 32) (h : Keeps r s) :
    Keeps r (State.cfgWrite s o be val) := by
  unfold State.cfgWrite
  repeat' first
    | with_reducible assumption
    | (with_reducible intro x)
    | (lift_lets -underBinder; with_reducible intro x; first
        | (with_reducible refine with_fact (a := Keeps r x) ?_ ?_; (on_goal 1 => unfold x); (on_goal 2 => (intro hx; clear_value x)))
        | skip)
    | with_reducible apply State.cfgPut_keeps
    | with_reducible apply State.writePower_keeps
    | with_reducible apply Keeps.ite
    | (with_reducible apply Keeps.plain; · with_reducible assumption)
    | split

theorem execConfigurationRequest_keeps {r s : State} (write : Bool) (off : BitVec 12) (be : BitVec 4) (val : BitVec 32) (h : Keeps r s) :
    OutKeeps r (execConfigurationRequest write off be val s) := by
  unfold execConfigurationRequest
  repeat' first
    | with_reducible assumption
    | (lift_lets -underBinder; with_reducible intro x)
    | with_reducible apply OutKeeps.next
    | with_reducible apply State.answered_keeps
    | with_reducible apply State.cfgWrite_keeps
    | with_reducible apply Keeps.ite

theorem State.readUnits_keeps {r s : State} (off : Nat) (len : Nat) (p3 : List Nat) (h : Keeps r s) :
    SndKeeps r (State.readUnits s off len p3) := by
  induction p3 generalizing s with
  | nil =>
      unfold State.readUnits
      repeat' first
        | with_reducible assumption
        | (with_reducible intro x)
        | (with_reducible intro x)
        | with_reducible apply SndKeeps.mk
  | cons a l ih =>
      unfold State.readUnits
      repeat' first
        | with_reducible assumption
        | (with_reducible intro x)
        | (lift_lets -underBinder; with_reducible intro x; first
            | (with_reducible refine with_fact (a := SndKeeps r x) ?_ ?_; (on_goal 1 => unfold x); (on_goal 2 => (intro hx; clear_value x))))
        | with_reducible apply SndKeeps.mk
        | with_reducible apply ih
        | with_reducible apply State.badUnitAt_keeps
        | with_reducible refine SndKeeps.snd (State.unitRead_keeps (h := ?_) ..)
        | with_reducible apply State.unitRead_keeps
        | with_reducible apply Keeps.ite
        | with_reducible apply SndKeeps.ite
        | refine SndKeeps.of ?_ (by assumption)
        | with_reducible exact SndKeeps.snd (by assumption)
        | with_reducible exact SndKeeps.mk_keep (by assumption)
        | split
        | with_reducible apply_assumption

theorem State.writeUnits_keeps {r s : State} (off : Nat) (b : List Byte) (p3 : List Nat) (h : Keeps r s) :
    Keeps r (State.writeUnits s off b p3) := by
  induction p3 generalizing s with
  | nil =>
      unfold State.writeUnits
      repeat' first
        | with_reducible assumption
  | cons a l ih =>
      unfold State.writeUnits
      repeat' first
        | with_reducible assumption
        | with_reducible intro x
        | with_reducible apply ih
        | with_reducible apply State.badUnitAt_keeps
        | with_reducible apply State.unitWrite_keeps
        | with_reducible apply Keeps.ite

theorem State.bar0Read_keeps {r s : State} (o : Nat) (len : Nat) (h : Keeps r s) :
    Keeps r (State.bar0Read s o len) := by
  unfold State.bar0Read
  repeat' first
    | with_reducible assumption
    | with_reducible intro x
    | with_reducible apply SndKeeps.mk
    | with_reducible apply State.answered_keeps
    | with_reducible apply State.pcieError_keeps
    | with_reducible refine SndKeeps.snd (State.readUnits_keeps (h := ?_) ..)
    | with_reducible apply State.readUnits_keeps
    | with_reducible apply Keeps.ite

theorem execBar0Access_keeps {r s : State} (write : Bool) (off : BitVec 26) (len : Nat) (data : List Byte) (h : Keeps r s) :
    OutKeeps r (execBar0Access write off len data s) := by
  unfold execBar0Access
  repeat' first
    | with_reducible assumption
    | with_reducible intro x
    | with_reducible apply OutKeeps.next
    | with_reducible apply State.onBar_keeps
    | with_reducible apply State.writeUnits_keeps
    | with_reducible apply State.bar0Read_keeps
    | with_reducible apply Keeps.ite

theorem State.readOne_keeps {r s : State} (o : Nat) (h : Keeps r s) :
    Keeps r (State.readOne s o) := by
  unfold State.readOne
  repeat' first
    | with_reducible assumption
    | with_reducible intro x
    | with_reducible refine SndKeeps.snd (State.unitRead_keeps (h := ?_) ..)
    | with_reducible apply State.answered_keeps
    | with_reducible apply State.onBar_keeps

theorem execCounterClr_keeps {r s : State} (off : BitVec 26) (val : W64) (h : Keeps r s) :
    OutKeeps r (execCounterClr off val s) := by
  unfold execCounterClr
  repeat' first
    | with_reducible assumption
    | with_reducible intro x
    | with_reducible apply OutKeeps.next
    | with_reducible apply State.unitWrite_keeps
    | with_reducible apply State.onBar_keeps
    | with_reducible apply Keeps.ite

theorem execDumpack_keeps {r s : State} (val : W64) (h : Keeps r s) :
    OutKeeps r (execDumpack val s) := by
  unfold execDumpack
  repeat' first
    | with_reducible assumption
    | with_reducible intro x
    | with_reducible apply OutKeeps.next
    | with_reducible apply State.unitWrite_keeps
    | with_reducible apply State.onBar_keeps

theorem execLogData_keeps {r s : State} (h : Keeps r s) :
    OutKeeps r (execLogData s) := by
  unfold execLogData
  repeat' first
    | with_reducible assumption
    | with_reducible apply OutKeeps.next
    | with_reducible apply State.readOne_keeps

theorem execTetherNsRead_keeps {r s : State} (h : Keeps r s) :
    OutKeeps r (execTetherNsRead s) := by
  unfold execTetherNsRead
  repeat' first
    | with_reducible assumption
    | with_reducible apply OutKeeps.next
    | with_reducible apply State.readOne_keeps

theorem execPtmhRead_keeps {r s : State} (h : Keeps r s) :
    OutKeeps r (execPtmhRead s) := by
  unfold execPtmhRead
  repeat' first
    | with_reducible assumption
    | with_reducible apply OutKeeps.next
    | with_reducible apply State.readOne_keeps

theorem execPortCfgWrite_keeps {r s : State} (port : Fin 16) (val : W64) (h : Keeps r s) :
    OutKeeps r (execPortCfgWrite port val s) := by
  unfold execPortCfgWrite
  repeat' first
    | with_reducible assumption
    | with_reducible intro x
    | with_reducible apply OutKeeps.next
    | with_reducible apply State.unitWrite_keeps
    | with_reducible apply State.onBar_keeps

theorem State.badUnit_keeps {r s : State} (off : Nat) (len : Nat) (u : Nat) (h : Keeps r s) :
    Keeps r (State.badUnit s off len u) := by
  unfold State.badUnit
  repeat' first
    | with_reducible assumption
    | with_reducible intro x
    | with_reducible apply State.badUnitAt_keeps
    | with_reducible apply Keeps.ite

theorem execBadRegisterAccess_keeps {r s : State} (write : Bool) (off : BitVec 26) (len : Nat) (h : Keeps r s) :
    OutKeeps r (execBadRegisterAccess write off len s) := by
  unfold execBadRegisterAccess
  repeat' first
    | with_reducible assumption
    | with_reducible intro x
    | with_reducible apply OutKeeps.next
    | with_reducible apply State.onBar_keeps
    | with_reducible apply State.bar0Read_keeps
    | with_reducible apply State.badUnit_keeps
    | with_reducible apply Keeps.ite
    | with_reducible apply OutKeeps.ite
    | with_reducible apply Keeps.foldl

theorem after_keeps {r s : State} (o : Out) (h : Keeps r s) (g_o : OutKeeps r o) :
    Keeps r (after s o) := by
  unfold after
  repeat' first
    | with_reducible assumption
    | with_reducible exact OutKeeps.next_keep (by assumption)
    | split

theorem State.writeFid_keeps {r s : State} (slot : Nat) (v : W64) (h : Keeps r s) :
    Keeps r (State.writeFid s slot v) := by
  unfold State.writeFid
  repeat' first
    | with_reducible assumption
    | (lift_lets -underBinder; with_reducible intro x; with_reducible refine with_fact (a := Keeps r x) ?_ ?_; (on_goal 1 => unfold x); (on_goal 2 => (intro hx; clear_value x)))
    | (with_reducible intro x; first
        | (with_reducible refine with_fact (a := Keeps r x) ?_ ?_; (on_goal 1 => unfold x); (on_goal 2 => (intro hx; clear_value x)))
        | skip)
    | with_reducible apply State.updCtx_keeps
    | with_reducible apply State.rsvWrite_keeps
    | with_reducible apply State.ignoredWrite_keeps
    | with_reducible apply Keeps.ite
    | split

theorem State.pageWrite_keeps {r s : State} (slot : Nat) (p2 : Nat) (size : Fin 9) (v : W64) (h : Keeps r s) :
    Keeps r (State.pageWrite s slot p2 size v) := by
  unfold State.pageWrite
  repeat' first
    | with_reducible assumption
    | with_reducible intro x
    | with_reducible apply OutKeeps.next
    | with_reducible apply State.badAcc_keeps
    | with_reducible apply State.rsvWrite_keeps
    | with_reducible apply execTail_keeps
    | with_reducible apply execFsigv_keeps
    | with_reducible apply execEvhead_keeps
    | with_reducible apply after_keeps
    | with_reducible apply State.writeFid_keeps
    | with_reducible apply Keeps.ite
    | with_reducible apply OutKeeps.ite
    | split

theorem State.pageRead_keeps {r s : State} (slot : Nat) (p2 : Nat) (size : Nat) (h : Keeps r s) :
    Keeps r (State.pageRead s slot p2 size) := by
  unfold State.pageRead
  repeat' first
    | with_reducible assumption
    | with_reducible intro x
    | with_reducible apply State.badAcc_keeps
    | with_reducible apply State.answered_keeps
    | with_reducible apply Keeps.ite
    | split

theorem State.msixWrite_keeps {r s : State} (o v : Nat) (h : Keeps r s) :
    Keeps r (State.msixWrite s o v) := by
  unfold State.msixWrite
  repeat' first
    | with_reducible assumption
    | (lift_lets -underBinder; with_reducible intro x)
    | with_reducible apply Keeps.ite
    | (with_reducible apply Keeps.plain; · with_reducible assumption)

theorem State.msixAccess_keeps {r s : State} (write : Bool) (o size : Nat) (v : W64) (h : Keeps r s) :
    Keeps r (State.msixAccess s write o size v) := by
  unfold State.msixAccess
  repeat' first
    | with_reducible assumption
    | (lift_lets -underBinder; with_reducible intro x; with_reducible refine with_fact (a := Keeps r x) ?_ ?_; (on_goal 1 => unfold x); (on_goal 2 => (intro hx; clear_value x)))
    | with_reducible intro x
    | with_reducible apply State.badAcc_keeps
    | with_reducible apply State.answered_keeps
    | with_reducible apply State.msixWrite_keeps
    | with_reducible apply Keeps.ite

theorem State.bar2Reserved_keeps {r s : State} (write : Bool) (size : Nat) (h : Keeps r s) :
    Keeps r (State.bar2Reserved s write size) := by
  unfold State.bar2Reserved
  repeat' first
    | with_reducible assumption
    | with_reducible apply State.badAcc_keeps
    | with_reducible apply State.answered_keeps
    | with_reducible apply Keeps.ite

theorem execMsixTableAccess_keeps {r s : State} (write : Bool) (off : BitVec 24) (size : Nat) (val : W64) (h : Keeps r s) :
    OutKeeps r (execMsixTableAccess write off size val s) := by
  unfold execMsixTableAccess
  repeat' first
    | with_reducible assumption
    | with_reducible intro x
    | with_reducible apply OutKeeps.next
    | with_reducible apply State.onBar_keeps
    | with_reducible apply State.msixAccess_keeps
    | with_reducible apply Keeps.ite

theorem execBar2ReservedAccess_keeps {r s : State} (write : Bool) (off : BitVec 24) (size : Nat) (h : Keeps r s) :
    OutKeeps r (execBar2ReservedAccess write off size s) := by
  unfold execBar2ReservedAccess
  repeat' first
    | with_reducible assumption
    | with_reducible intro x
    | with_reducible apply OutKeeps.next
    | with_reducible apply State.onBar_keeps
    | with_reducible apply State.pageRead_keeps
    | with_reducible apply State.bar2Reserved_keeps
    | with_reducible apply Keeps.ite

theorem execRegisterWrite_keeps {r s : State} (bar2 : Bool) (off : BitVec 26) (size : Fin 9) (val : W64) (h : Keeps r s) :
    OutKeeps r (execRegisterWrite bar2 off size val s) := by
  unfold execRegisterWrite
  repeat' first
    | with_reducible assumption
    | with_reducible intro x
    | with_reducible apply OutKeeps.next
    | with_reducible apply State.onBar_keeps
    | with_reducible apply State.writeUnits_keeps
    | with_reducible apply State.pageWrite_keeps
    | with_reducible apply State.msixAccess_keeps
    | with_reducible apply State.bar2Reserved_keeps
    | with_reducible apply Keeps.ite

theorem State.apertureGive_keeps {r s : State} (r1 : MemReq) (held : Nat) (h : Keeps r s) :
    Keeps r (State.apertureGive s r1 held) := by
  unfold State.apertureGive
  repeat' first
    | with_reducible assumption
    | with_reducible intro x
    | with_reducible apply State.answered_keeps
    | with_reducible apply Keeps.ite

theorem execApertureAccess_keeps {r s : State} (write : Bool) (off : BitVec 36) (len : Nat) (data : List Byte) (h : Keeps r s) :
    OutKeeps r (execApertureAccess write off len data s) := by
  unfold execApertureAccess
  repeat' first
    | with_reducible assumption
    | with_reducible intro x
    | with_reducible apply OutKeeps.next
    | with_reducible apply State.apertureFail_keeps
    | with_reducible apply State.atTarget_keeps
    | with_reducible apply State.onBar_keeps
    | with_reducible apply State.apertureGive_keeps
    | with_reducible apply Keeps.ite
    | with_reducible apply OutKeeps.ite
    | (with_reducible apply Keeps.plain; · with_reducible assumption)
    | split

theorem State.dropReq_keeps {r s : State} (tag : Nat) (h : Keeps r s) :
    Keeps r (State.dropReq s tag) := by
  unfold State.dropReq
  repeat' first
    | (lift_lets -underBinder; with_reducible intro x)
    | (with_reducible apply Keeps.plain; · with_reducible assumption)

theorem State.hostError_keeps {r s : State} (r1 : HostReq) (kind : Nat) (u : BitVec 32) (h : Keeps r s) :
    Keeps r (State.hostError s r1 kind u) := by
  unfold State.hostError
  repeat' first
    | with_reducible assumption
    | (lift_lets -underBinder; with_reducible intro x; with_reducible refine with_fact (a := Keeps r x) ?_ ?_; (on_goal 1 => unfold x); (on_goal 2 => (intro hx; clear_value x)))
    | (with_reducible intro x; first
        | (with_reducible refine with_fact (a := Keeps r x) ?_ ?_; (on_goal 1 => unfold x); (on_goal 2 => (intro hx; clear_value x)))
        | skip)
    | with_reducible apply State.setReg_keeps
    | with_reducible apply State.lose_keeps
    | with_reducible apply State.pcieError_keeps
    | with_reducible apply State.dropReq_keeps
    | with_reducible apply Keeps.ite

theorem State.hostDone_keeps {r s : State} (r1 : HostReq) (h : Keeps r s) :
    Keeps r (State.hostDone s r1) := by
  unfold State.hostDone
  repeat' first
    | with_reducible assumption
    | (with_reducible intro x)
    | (lift_lets -underBinder; with_reducible intro x; first
        | (with_reducible refine with_fact (a := Keeps r x) ?_ ?_; (on_goal 1 => unfold x); (on_goal 2 => (intro hx; clear_value x))))
    | with_reducible apply State.loseErr_keeps
    | with_reducible apply State.dropReq_keeps
    | with_reducible apply Keeps.ite
    | (with_reducible apply Keeps.plain; · with_reducible assumption)

theorem State.hostData_keeps {r s : State} (r1 : HostReq) (data : List Byte) (h : Keeps r s) :
    Keeps r (State.hostData s r1 data) := by
  unfold State.hostData
  repeat' first
    | with_reducible assumption
    | (with_reducible intro x; first
        | (with_reducible refine with_fact (a := Keeps r x) ?_ ?_; (on_goal 1 => unfold x); (on_goal 2 => (intro hx; clear_value x)))
        | skip)
    | (lift_lets -underBinder; with_reducible intro x)
    | with_reducible apply State.dropReq_keeps
    | with_reducible apply State.hostError_keeps
    | with_reducible apply State.hostDone_keeps
    | with_reducible apply Keeps.ite
    | (with_reducible apply Keeps.plain; · with_reducible assumption)
    | (with_reducible apply Keeps.upd; · with_reducible assumption)
    | with_reducible exact le_rfl
    | with_reducible exact WfKeep.refl _
    | with_reducible exact WfKeep.put _ _ _
    | with_reducible exact WfKeep.drop _ _
    | with_reducible exact WfKeep.nil _
    | with_reducible exact WfKeep.filter _ _
    | with_reducible exact CoresKeep.refl _
    | with_reducible exact LifeUp.refl _
    | with_reducible exact BootUp.refl _

theorem execCompletion_keeps {r s : State} (tag : BitVec 14) (status : CplStatus) (data : List Byte) (h : Keeps r s) :
    OutKeeps r (execCompletion tag status data s) := by
  unfold execCompletion
  repeat' first
    | with_reducible assumption
    | with_reducible intro x
    | with_reducible apply OutKeeps.next
    | with_reducible apply State.pcieError_keeps
    | with_reducible apply State.hostError_keeps
    | with_reducible apply State.hostData_keeps
    | with_reducible apply Keeps.ite
    | with_reducible apply OutKeeps.ite
    | split

theorem execCompletionTimeout_keeps {r s : State} (tag : BitVec 14) (h : Keeps r s) :
    OutKeeps r (execCompletionTimeout tag s) := by
  unfold execCompletionTimeout
  repeat' first
    | with_reducible assumption
    | with_reducible apply OutKeeps.next
    | with_reducible apply State.hostError_keeps
    | split

theorem execPerst_keeps {r s : State} (long : Bool) (h : Keeps r s) :
    OutKeeps r (execPerst long s) := by
  unfold execPerst
  repeat' first
    | with_reducible assumption
    | (lift_lets -underBinder; with_reducible intro x)
    | with_reducible apply OutKeeps.next
    | with_reducible apply State.packageReset_keeps
    | with_reducible apply Keeps.ite
    | (with_reducible apply Keeps.plain; · with_reducible assumption)

theorem execHotReset_keeps {r s : State} (h : Keeps r s) :
    OutKeeps r (execHotReset s) := by
  unfold execHotReset
  repeat' first
    | with_reducible assumption
    | with_reducible apply OutKeeps.next
    | with_reducible apply State.packageReset_keeps
    | with_reducible apply Keeps.ite

theorem execDlDown_keeps {r s : State} (h : Keeps r s) :
    OutKeeps r (execDlDown s) := by
  unfold execDlDown
  repeat' first
    | with_reducible assumption
    | with_reducible apply OutKeeps.next
    | with_reducible apply State.packageReset_keeps
    | with_reducible apply Keeps.ite

theorem execPcieLinkUp_keeps {r s : State} (speed : Fin 7) (width : Fin 17) (flit : Bool) (h : Keeps r s) :
    OutKeeps r (execPcieLinkUp speed width flit s) := by
  unfold execPcieLinkUp
  repeat' first
    | with_reducible assumption
    | (lift_lets -underBinder; with_reducible intro x)
    | (with_reducible intro x; first
        | (with_reducible refine with_fact (a := Keeps r x) ?_ ?_; (on_goal 1 => unfold x); (on_goal 2 => (intro hx; clear_value x)))
        | skip)
    | with_reducible apply OutKeeps.next
    | with_reducible apply State.linkEvent_keeps
    | with_reducible apply Keeps.ite
    | (with_reducible apply Keeps.plain; · with_reducible assumption)

end Sys2Proof.Machine
end

