-- ==== Sys2Proof/Laws/KeepRequest.lean ====
section
/-! SUPPORT. What the operations of Machine/Request.lean keep. -/

namespace Sys2Proof.Machine

theorem State.regRequest_keeps {r s : State} (r1 : MemReq) (h : Keeps r s) :
    Keeps r (State.regRequest s r1) := by
  unfold State.regRequest
  repeat' first
    | with_reducible assumption
    | (with_reducible intro x; first
        | (with_reducible refine with_fact (a := Keeps r x) ?_ ?_; (on_goal 1 => unfold x); (on_goal 2 => (intro hx; clear_value x))))
    | (lift_lets -underBinder; with_reducible intro x)
    | with_reducible apply SndKeeps.mk
    | with_reducible refine SndKeeps.snd (State.readUnits_keeps (h := ?_) ..)
    | with_reducible apply State.readUnits_keeps
    | with_reducible apply State.writeUnits_keeps
    | with_reducible apply Keeps.ite
    | with_reducible apply SndKeeps.ite
    | (with_reducible apply Keeps.plain; · with_reducible assumption)
    | (with_reducible apply Keeps.plain; (on_goal 1 => refine SndKeeps.of ?_ (by assumption)))
    | refine SndKeeps.of ?_ (by assumption)
    | with_reducible exact SndKeeps.snd (by assumption)
    | with_reducible exact SndKeeps.mk_keep (by assumption)
    | split

theorem State.request_keeps {r s : State} (p1 : Refused) (older : List Refused) (h1 : Health) (i : Nat) (h : Keeps r s) :
    Keeps r (State.request s p1 older h1 i) := by
  unfold State.request
  repeat' first
    | with_reducible assumption
    | with_reducible intro x
    | with_reducible apply State.launch_keeps
    | with_reducible apply State.regRequest_keeps
    | with_reducible apply Keeps.ite

theorem State.dram_keeps {r s : State} (da : Nat) (issued : Nat) (returned : Nat) (h : Keeps r s) :
    Keeps r (State.dram s da issued returned) := by
  unfold State.dram
  repeat' first
    | with_reducible assumption
    | with_reducible intro x
    | with_reducible apply State.issueDram_keeps
    | with_reducible apply State.returnDram_keeps

theorem execMemoryRequest_keeps {r s : State} (r1 : MemOp) (h : Keeps r s) :
    OutKeeps r (execMemoryRequest r1 s) := by
  unfold execMemoryRequest
  repeat' first
    | with_reducible assumption
    | (with_reducible intro x)
    | (lift_lets -underBinder; with_reducible intro x; first
        | (with_reducible refine with_fact (a := Keeps r x) ?_ ?_; (on_goal 1 => unfold x); (on_goal 2 => (intro hx; clear_value x))))
    | with_reducible apply OutKeeps.next
    | with_reducible apply State.request_keeps
    | with_reducible apply State.dram_keeps
    | with_reducible apply Keeps.ite
    | with_reducible apply OutKeeps.ite
    | (with_reducible apply Keeps.plain; · with_reducible assumption)

theorem State.retryAt_keeps {r s : State} (p1 : Refused) (i : Nat) (h1 : Health) (h : Keeps r s) :
    Keeps r (State.retryAt s p1 i h1) := by
  unfold State.retryAt
  repeat' first
    | with_reducible assumption
    | (with_reducible intro x)
    | (lift_lets -underBinder; with_reducible intro x; first
        | (with_reducible refine with_fact (a := Keeps r x) ?_ ?_; (on_goal 1 => unfold x); (on_goal 2 => (intro hx; clear_value x))))
    | with_reducible apply State.apertureGive_keeps
    | with_reducible apply State.request_keeps
    | with_reducible apply Keeps.ite
    | (with_reducible apply Keeps.plain; · with_reducible assumption)

theorem execRequestRetry_keeps {r s : State} (i : Nat) (r1 : RetryIn) (h : Keeps r s) :
    OutKeeps r (execRequestRetry i r1 s) := by
  unfold execRequestRetry
  repeat' first
    | with_reducible assumption
    | with_reducible intro x
    | with_reducible apply OutKeeps.next
    | with_reducible apply State.statusAgain_keeps
    | with_reducible apply State.dram_keeps
    | with_reducible apply State.retryAt_keeps
    | with_reducible apply Keeps.ite
    | with_reducible apply OutKeeps.ite
    | split

end Sys2Proof.Machine
end

