-- ==== Sys2Proof/Laws/KeepScalar.lean ====
section
/-! SUPPORT. What the operations of Machine/Scalar.lean keep. -/

namespace Sys2Proof.Machine

theorem salu_keeps {r s : State} (f : W64 → W64 → W64) (h1 : Issue) (rd ra rb : BitVec 5) (h : Keeps r s) :
    OutKeeps r (salu f h1 rd ra rb s) := by
  unfold salu
  repeat' first
    | with_reducible assumption
    | with_reducible intro x
    | with_reducible apply OutKeeps.next
    | with_reducible apply issue_keeps
    | with_reducible apply onCore_keeps
    | with_reducible apply CoreKeep.wr

theorem execAdd_keeps {r s : State} (h1 : Issue) (rd ra rb : BitVec 5) (h : Keeps r s) :
    OutKeeps r (execAdd h1 rd ra rb s) := by
  unfold execAdd
  repeat' first
    | with_reducible assumption
    | with_reducible apply salu_keeps

theorem execSub_keeps {r s : State} (h1 : Issue) (rd ra rb : BitVec 5) (h : Keeps r s) :
    OutKeeps r (execSub h1 rd ra rb s) := by
  unfold execSub
  repeat' first
    | with_reducible assumption
    | with_reducible apply salu_keeps

theorem execAnd_keeps {r s : State} (h1 : Issue) (rd ra rb : BitVec 5) (h : Keeps r s) :
    OutKeeps r (execAnd h1 rd ra rb s) := by
  unfold execAnd
  repeat' first
    | with_reducible assumption
    | with_reducible apply salu_keeps

theorem execOr_keeps {r s : State} (h1 : Issue) (rd ra rb : BitVec 5) (h : Keeps r s) :
    OutKeeps r (execOr h1 rd ra rb s) := by
  unfold execOr
  repeat' first
    | with_reducible assumption
    | with_reducible apply salu_keeps

theorem execXor_keeps {r s : State} (h1 : Issue) (rd ra rb : BitVec 5) (h : Keeps r s) :
    OutKeeps r (execXor h1 rd ra rb s) := by
  unfold execXor
  repeat' first
    | with_reducible assumption
    | with_reducible apply salu_keeps

theorem execAndn_keeps {r s : State} (h1 : Issue) (rd ra rb : BitVec 5) (h : Keeps r s) :
    OutKeeps r (execAndn h1 rd ra rb s) := by
  unfold execAndn
  repeat' first
    | with_reducible assumption
    | with_reducible apply salu_keeps

theorem execShl_keeps {r s : State} (h1 : Issue) (rd ra rb : BitVec 5) (h : Keeps r s) :
    OutKeeps r (execShl h1 rd ra rb s) := by
  unfold execShl
  repeat' first
    | with_reducible assumption
    | with_reducible apply salu_keeps

theorem execShr_keeps {r s : State} (h1 : Issue) (rd ra rb : BitVec 5) (h : Keeps r s) :
    OutKeeps r (execShr h1 rd ra rb s) := by
  unfold execShr
  repeat' first
    | with_reducible assumption
    | with_reducible apply salu_keeps

theorem execSra_keeps {r s : State} (h1 : Issue) (rd ra rb : BitVec 5) (h : Keeps r s) :
    OutKeeps r (execSra h1 rd ra rb s) := by
  unfold execSra
  repeat' first
    | with_reducible assumption
    | with_reducible apply salu_keeps

theorem execMin_keeps {r s : State} (h1 : Issue) (rd ra rb : BitVec 5) (h : Keeps r s) :
    OutKeeps r (execMin h1 rd ra rb s) := by
  unfold execMin
  repeat' first
    | with_reducible assumption
    | with_reducible apply salu_keeps

theorem execMinu_keeps {r s : State} (h1 : Issue) (rd ra rb : BitVec 5) (h : Keeps r s) :
    OutKeeps r (execMinu h1 rd ra rb s) := by
  unfold execMinu
  repeat' first
    | with_reducible assumption
    | with_reducible apply salu_keeps

theorem execMax_keeps {r s : State} (h1 : Issue) (rd ra rb : BitVec 5) (h : Keeps r s) :
    OutKeeps r (execMax h1 rd ra rb s) := by
  unfold execMax
  repeat' first
    | with_reducible assumption
    | with_reducible apply salu_keeps

theorem execMaxu_keeps {r s : State} (h1 : Issue) (rd ra rb : BitVec 5) (h : Keeps r s) :
    OutKeeps r (execMaxu h1 rd ra rb s) := by
  unfold execMaxu
  repeat' first
    | with_reducible assumption
    | with_reducible apply salu_keeps

theorem execMul_keeps {r s : State} (h1 : Issue) (rd ra rb : BitVec 5) (h : Keeps r s) :
    OutKeeps r (execMul h1 rd ra rb s) := by
  unfold execMul
  repeat' first
    | with_reducible assumption
    | with_reducible apply salu_keeps

theorem execMulh_keeps {r s : State} (h1 : Issue) (rd ra rb : BitVec 5) (h : Keeps r s) :
    OutKeeps r (execMulh h1 rd ra rb s) := by
  unfold execMulh
  repeat' first
    | with_reducible assumption
    | with_reducible apply salu_keeps

theorem execMulhu_keeps {r s : State} (h1 : Issue) (rd ra rb : BitVec 5) (h : Keeps r s) :
    OutKeeps r (execMulhu h1 rd ra rb s) := by
  unfold execMulhu
  repeat' first
    | with_reducible assumption
    | with_reducible apply salu_keeps

theorem execDiv_keeps {r s : State} (h1 : Issue) (rd ra rb : BitVec 5) (h : Keeps r s) :
    OutKeeps r (execDiv h1 rd ra rb s) := by
  unfold execDiv
  repeat' first
    | with_reducible assumption
    | with_reducible apply salu_keeps

theorem execDivu_keeps {r s : State} (h1 : Issue) (rd ra rb : BitVec 5) (h : Keeps r s) :
    OutKeeps r (execDivu h1 rd ra rb s) := by
  unfold execDivu
  repeat' first
    | with_reducible assumption
    | with_reducible apply salu_keeps

theorem execSalui_keeps {r s : State} (h1 : Issue) (sub : BitVec 6) (rd ra : BitVec 5) (imm : BitVec 32) (h : Keeps r s) :
    OutKeeps r (execSalui h1 sub rd ra imm s) := by
  unfold execSalui
  repeat' first
    | with_reducible assumption
    | with_reducible intro x
    | with_reducible apply OutKeeps.next
    | with_reducible apply issue_keeps
    | with_reducible apply onCore_keeps
    | with_reducible apply CoreKeep.wr

theorem execMovi_keeps {r s : State} (h1 : Issue) (rd : BitVec 5) (imm : BitVec 32) (h : Keeps r s) :
    OutKeeps r (execMovi h1 rd imm s) := by
  unfold execMovi
  repeat' first
    | with_reducible assumption
    | with_reducible intro x
    | with_reducible apply OutKeeps.next
    | with_reducible apply issue_keeps
    | with_reducible apply onCore_keeps
    | with_reducible apply CoreKeep.wr

theorem execMovhi_keeps {r s : State} (h1 : Issue) (rd : BitVec 5) (imm : BitVec 32) (h : Keeps r s) :
    OutKeeps r (execMovhi h1 rd imm s) := by
  unfold execMovhi
  repeat' first
    | with_reducible assumption
    | with_reducible intro x
    | with_reducible apply OutKeeps.next
    | with_reducible apply issue_keeps
    | with_reducible apply onCore_keeps
    | with_reducible apply CoreKeep.wr

theorem execCmp_keeps {r s : State} (h1 : Issue) (cond : BitVec 6) (pd : BitVec 3) (ra rb : BitVec 5) (h : Keeps r s) :
    OutKeeps r (execCmp h1 cond pd ra rb s) := by
  unfold execCmp
  repeat' first
    | with_reducible assumption
    | with_reducible intro x
    | with_reducible apply OutKeeps.next
    | with_reducible apply issue_keeps
    | with_reducible apply onCore_keeps
    | with_reducible apply CoreKeep.pw

theorem execCmpi_keeps {r s : State} (h1 : Issue) (cond : BitVec 6) (pd : BitVec 3) (ra : BitVec 5) (imm : BitVec 32) (h : Keeps r s) :
    OutKeeps r (execCmpi h1 cond pd ra imm s) := by
  unfold execCmpi
  repeat' first
    | with_reducible assumption
    | with_reducible intro x
    | with_reducible apply OutKeeps.next
    | with_reducible apply issue_keeps
    | with_reducible apply onCore_keeps
    | with_reducible apply CoreKeep.pw

theorem plog_keeps {r s : State} (f : Bool → Bool → Bool) (one : Bool) (h1 : Issue) (pd pa pb : BitVec 3) (h : Keeps r s) :
    OutKeeps r (plog f one h1 pd pa pb s) := by
  unfold plog
  repeat' first
    | with_reducible assumption
    | with_reducible intro x
    | with_reducible apply OutKeeps.next
    | with_reducible apply issue_keeps
    | with_reducible apply onCore_keeps
    | with_reducible apply CoreKeep.pw

theorem execPand_keeps {r s : State} (h1 : Issue) (pd pa pb : BitVec 3) (h : Keeps r s) :
    OutKeeps r (execPand h1 pd pa pb s) := by
  unfold execPand
  repeat' first
    | with_reducible assumption
    | with_reducible apply plog_keeps

theorem execPor_keeps {r s : State} (h1 : Issue) (pd pa pb : BitVec 3) (h : Keeps r s) :
    OutKeeps r (execPor h1 pd pa pb s) := by
  unfold execPor
  repeat' first
    | with_reducible assumption
    | with_reducible apply plog_keeps

theorem execPxor_keeps {r s : State} (h1 : Issue) (pd pa pb : BitVec 3) (h : Keeps r s) :
    OutKeeps r (execPxor h1 pd pa pb s) := by
  unfold execPxor
  repeat' first
    | with_reducible assumption
    | with_reducible apply plog_keeps

theorem execPandn_keeps {r s : State} (h1 : Issue) (pd pa pb : BitVec 3) (h : Keeps r s) :
    OutKeeps r (execPandn h1 pd pa pb s) := by
  unfold execPandn
  repeat' first
    | with_reducible assumption
    | with_reducible apply plog_keeps

theorem execPmov_keeps {r s : State} (h1 : Issue) (pd pa pb : BitVec 3) (h : Keeps r s) :
    OutKeeps r (execPmov h1 pd pa pb s) := by
  unfold execPmov
  repeat' first
    | with_reducible assumption
    | with_reducible apply plog_keeps

theorem execPnot_keeps {r s : State} (h1 : Issue) (pd pa pb : BitVec 3) (h : Keeps r s) :
    OutKeeps r (execPnot h1 pd pa pb s) := by
  unfold execPnot
  repeat' first
    | with_reducible assumption
    | with_reducible apply plog_keeps

theorem loadLocal_keeps {r s : State} (n : Nat) (sx : Bool) (rd : BitVec 5) (a : Nat) (bytes : Nat) (h : Keeps r s) :
    ResKeeps r (loadLocal n sx rd a bytes s) := by
  unfold loadLocal
  repeat' first
    | with_reducible assumption
    | with_reducible intro x
    | with_reducible apply onCore_keeps
    | with_reducible apply orLost_keeps
    | with_reducible apply interlocked_keeps
    | with_reducible apply CoreKeep.wr

theorem State.loadOut_keeps {r s : State} (n : Nat) (l : Load) (h : Keeps r s) :
    Keeps r (State.loadOut s n l) := by
  unfold State.loadOut
  repeat' first
    | with_reducible assumption
    | (with_reducible intro x)
    | (lift_lets -underBinder; with_reducible intro x; first
        | (with_reducible refine with_fact (a := Keeps r x) ?_ ?_; (on_goal 1 => unfold x); (on_goal 2 => (intro hx; clear_value x))))
    | with_reducible apply State.updCore_keeps
    | with_reducible apply Keeps.ite
    | with_reducible apply CoreKeep.ite
    | (with_reducible apply CoreKeep.upd; · with_reducible assumption)
    | (with_reducible apply Keeps.plain; · with_reducible assumption)

theorem loadContext_keeps {r s : State} (n : Nat) (c : Nat) (sx : Bool) (rd : BitVec 5) (a : Nat) (bytes : Nat) (h : Keeps r s) :
    ResKeeps r (loadContext n c sx rd a bytes s) := by
  unfold loadContext
  repeat' first
    | with_reducible assumption
    | with_reducible intro x
    | with_reducible apply ResKeeps.ok
    | with_reducible apply ResKeeps.lost
    | with_reducible apply ResKeeps.wait
    | with_reducible apply State.aim_keeps
    | with_reducible apply State.touched_keeps
    | with_reducible apply orLost_keeps
    | with_reducible apply State.readHeld_keeps
    | with_reducible apply State.loadOut_keeps
    | with_reducible apply ResKeeps.bind
    | with_reducible apply Keeps.ite
    | with_reducible apply ResKeeps.ite

theorem execLd_keeps {r s : State} (h1 : Issue) (loc sx : Bool) (size : BitVec 2) (rd ra : BitVec 5) (imm : BitVec 32) (h : Keeps r s) :
    OutKeeps r (execLd h1 loc sx size rd ra imm s) := by
  unfold execLd
  repeat' first
    | with_reducible assumption
    | (lift_lets -underBinder; with_reducible intro x)
    | with_reducible apply OutKeeps.next
    | with_reducible apply issue_keeps
    | with_reducible apply loadLocal_keeps
    | with_reducible apply loadContext_keeps
    | with_reducible apply ResKeeps.ite

theorem storeLocal_keeps {r s : State} (n : Nat) (a : Nat) (b : List Byte) (h : Keeps r s) :
    ResKeeps r (storeLocal n a b s) := by
  unfold storeLocal
  repeat' first
    | with_reducible assumption
    | with_reducible intro x
    | with_reducible apply onCore_keeps
    | with_reducible apply Core.put_keeps
    | with_reducible apply orLost_keeps
    | with_reducible apply interlocked_keeps

theorem storeContext_keeps {r s : State} (n : Nat) (c : Nat) (a : Nat) (b : List Byte) (h : Keeps r s) :
    ResKeeps r (storeContext n c a b s) := by
  unfold storeContext
  repeat' first
    | with_reducible assumption
    | with_reducible intro x
    | with_reducible apply ResKeeps.ok
    | with_reducible apply ResKeeps.lost
    | with_reducible apply ResKeeps.wait
    | with_reducible apply State.aim_keeps
    | with_reducible apply State.touched_keeps
    | with_reducible apply orLost_keeps
    | with_reducible apply State.writeHeld_keeps
    | with_reducible apply ResKeeps.bind
    | with_reducible apply Keeps.ite
    | with_reducible apply ResKeeps.ite

theorem execSt_keeps {r s : State} (h1 : Issue) (loc sx : Bool) (size : BitVec 2) (rs ra : BitVec 5) (imm : BitVec 32) (h : Keeps r s) :
    OutKeeps r (execSt h1 loc sx size rs ra imm s) := by
  unfold execSt
  repeat' first
    | with_reducible assumption
    | (lift_lets -underBinder; with_reducible intro x)
    | with_reducible intro x
    | with_reducible apply OutKeeps.next
    | with_reducible apply issue_keeps
    | with_reducible apply storeLocal_keeps
    | with_reducible apply storeContext_keeps
    | with_reducible apply ResKeeps.ite

theorem Core.loadReturn_keeps {r k : Core} (i : Nat) (h : CoreKeep r k) :
    CoreKeep r (Core.loadReturn k i) := by
  unfold Core.loadReturn
  repeat' first
    | with_reducible assumption
    | (lift_lets -underBinder; with_reducible intro x; with_reducible refine CoreKeep.via (x := x) ?_ ?_; (on_goal 1 => unfold x); (on_goal 2 => (intro hx; clear_value x)))
    | with_reducible apply CoreKeep.wr
    | with_reducible apply CoreKeep.pw
    | (with_reducible apply CoreKeep.upd; · with_reducible assumption)
    | split

theorem execScalarLoadReturn_keeps {r s : State} (core : Fin 512) (i : Fin 16) (h : Keeps r s) :
    OutKeeps r (execScalarLoadReturn core i s) := by
  unfold execScalarLoadReturn
  repeat' first
    | with_reducible assumption
    | with_reducible intro x
    | with_reducible apply OutKeeps.next
    | with_reducible apply State.updCore_keeps
    | with_reducible apply Core.loadReturn_keeps

theorem execBr_keeps {r s : State} (h1 : Issue) (rd : BitVec 5) (imm : BitVec 32) (h : Keeps r s) :
    OutKeeps r (execBr h1 rd imm s) := by
  unfold execBr
  repeat' first
    | with_reducible assumption
    | (with_reducible intro x)
    | with_reducible apply OutKeeps.next
    | with_reducible apply ResKeeps.ok
    | with_reducible apply issue_keeps

theorem execBrl_keeps {r s : State} (h1 : Issue) (rd : BitVec 5) (imm : BitVec 32) (h : Keeps r s) :
    OutKeeps r (execBrl h1 rd imm s) := by
  unfold execBrl
  repeat' first
    | with_reducible assumption
    | with_reducible intro x
    | with_reducible apply OutKeeps.next
    | with_reducible apply ResKeeps.ok
    | with_reducible apply State.updCore_keeps
    | with_reducible apply issue_keeps
    | with_reducible apply CoreKeep.wr

theorem toRegister_keeps {r s : State} (n : Nat) (t : W64) (f : Core → Core) (h : Keeps r s) (g_f : ∀ (rk : Core) x0, CoreKeep rk x0 → CoreKeep rk (f x0)) :
    ResKeeps r (toRegister n t f s) := by
  unfold toRegister
  repeat' first
    | with_reducible assumption
    | (lift_lets -underBinder; with_reducible intro x; first
        | (with_reducible refine with_fact (a := Keeps r x) ?_ ?_; (on_goal 1 => unfold x); (on_goal 2 => (intro hx; clear_value x)))
        | skip)
    | with_reducible intro x
    | with_reducible apply ResKeeps.ok
    | with_reducible apply ResKeeps.lost
    | with_reducible apply State.updCore_keeps
    | with_reducible apply ResKeeps.ite
    | (with_reducible apply CoreKeep.upd; · with_reducible assumption)

theorem execBrr_keeps {r s : State} (h1 : Issue) (rd ra : BitVec 5) (h : Keeps r s) :
    OutKeeps r (execBrr h1 rd ra s) := by
  unfold execBrr
  repeat' first
    | with_reducible assumption
    | with_reducible intro x
    | with_reducible apply OutKeeps.next
    | with_reducible apply issue_keeps
    | with_reducible apply toRegister_keeps
    | with_reducible apply_assumption

theorem execBrrl_keeps {r s : State} (h1 : Issue) (rd ra : BitVec 5) (h : Keeps r s) :
    OutKeeps r (execBrrl h1 rd ra s) := by
  unfold execBrrl
  repeat' first
    | with_reducible assumption
    | with_reducible intro x
    | with_reducible apply OutKeeps.next
    | with_reducible apply issue_keeps
    | with_reducible apply toRegister_keeps
    | with_reducible apply CoreKeep.wr

theorem badWord_keeps {r s : State} (n cause : Nat) (h : Keeps r s) :
    Keeps r (badWord n cause s) := by
  unfold badWord
  repeat' first
    | with_reducible assumption
    | with_reducible apply State.lose_keeps
    | with_reducible apply Keeps.ite
    | split

theorem execUnassignedMajorOpcode_keeps {r s : State} (h1 : Issue) (op : BitVec 6) (h : Keeps r s) :
    OutKeeps r (execUnassignedMajorOpcode h1 op s) := by
  unfold execUnassignedMajorOpcode
  repeat' first
    | with_reducible assumption
    | with_reducible apply OutKeeps.next
    | with_reducible apply badWord_keeps
    | with_reducible apply Keeps.ite

theorem execInstructionFetchFault_keeps {r s : State} (core : Fin 512) (h : Keeps r s) :
    OutKeeps r (execInstructionFetchFault core s) := by
  unfold execInstructionFetchFault
  repeat' first
    | with_reducible assumption
    | with_reducible apply OutKeeps.next
    | with_reducible apply badWord_keeps

end Sys2Proof.Machine
end

