-- ==== Sys2Proof/Laws/KeepManage.lean ====
section
/-! SUPPORT. What the operations of Machine/Manage.lean keep. -/

namespace Sys2Proof.Machine

theorem State.spdmCapabilities_keeps {r s : State} (h : Keeps r s) :
    Keeps r (State.spdmCapabilities s) := by
  unfold State.spdmCapabilities
  repeat' first
    | with_reducible assumption
    | with_reducible intro x
    | with_reducible apply SndKeeps.mk
    | with_reducible refine SndKeeps.snd (State.free_keeps (h := ?_) ..)
    | with_reducible apply State.free_keeps
    | with_reducible apply State.answerWith_keeps

theorem State.spdmAnswer_keeps {r s : State} (b : List Byte) (h : Keeps r s) :
    Keeps r (State.spdmAnswer s b) := by
  unfold State.spdmAnswer
  repeat' first
    | with_reducible assumption
    | with_reducible intro x
    | with_reducible apply SndKeeps.mk
    | with_reducible refine SndKeeps.snd (State.free_keeps (h := ?_) ..)
    | with_reducible apply State.free_keeps
    | with_reducible apply State.answerWith_keeps
    | with_reducible apply State.spdmCapabilities_keeps
    | with_reducible apply Keeps.ite

theorem State.updIde_keeps {r s : State} (i : Nat) (f : Ide → Ide) (h : Keeps r s) :
    Keeps r (State.updIde s i f) := by
  unfold State.updIde
  repeat' first
    | (lift_lets -underBinder; with_reducible intro x)
    | (with_reducible apply Keeps.plain; · with_reducible assumption)

theorem State.setGo_keeps {r s : State} (i : Nat) (set : Bool) (h : Keeps r s) :
    Keeps r (State.setGo s i set) := by
  unfold State.setGo
  repeat' first
    | with_reducible assumption
    | with_reducible intro x
    | with_reducible apply State.updIde_keeps
    | with_reducible apply Keeps.ite

theorem State.ideMessage_keeps {r s : State} (m : List Byte) (h : Keeps r s) :
    Keeps r (State.ideMessage s m) := by
  unfold State.ideMessage
  repeat' first
    | with_reducible assumption
    | with_reducible intro x
    | with_reducible apply SndKeeps.mk
    | with_reducible refine SndKeeps.snd (State.free_keeps (h := ?_) ..)
    | with_reducible apply State.free_keeps
    | with_reducible apply State.answerWith_keeps
    | with_reducible apply State.updIde_keeps
    | with_reducible apply State.setGo_keeps
    | refine SndKeeps.of ?_ (by assumption)
    | with_reducible exact SndKeeps.snd (by assumption)
    | with_reducible exact SndKeeps.mk_keep (by assumption)
    | split

theorem execKSetGo_keeps {r s : State} (session : Bool) (stream : Fin 4) (set : Bool) (h : Keeps r s) :
    OutKeeps r (execKSetGo session stream set s) := by
  unfold execKSetGo
  repeat' first
    | with_reducible assumption
    | with_reducible intro x
    | with_reducible apply OutKeeps.next
    | with_reducible apply State.setGo_keeps
    | with_reducible apply Keeps.ite

theorem execIdeFailure_keeps {r s : State} (stream : Fin 4) (h : Keeps r s) :
    OutKeeps r (execIdeFailure stream s) := by
  unfold execIdeFailure
  repeat' first
    | with_reducible assumption
    | with_reducible apply OutKeeps.next
    | with_reducible apply State.devEvent_keeps
    | with_reducible apply State.updIde_keeps
    | with_reducible apply Keeps.ite

theorem State.securedAnswer_keeps {r s : State} (b : List Byte) (h : Keeps r s) :
    Keeps r (State.securedAnswer s b) := by
  unfold State.securedAnswer
  repeat' first
    | with_reducible assumption
    | with_reducible intro x
    | with_reducible apply State.answerWith_keeps
    | with_reducible apply State.spdmAnswer_keeps
    | with_reducible apply State.ideMessage_keeps
    | with_reducible apply Keeps.ite
    | (with_reducible apply Keeps.plain; · with_reducible assumption)
    | split

theorem State.doeServe_keeps {r s : State} (proto : BitVec 8) (object : List Byte) (h : Keeps r s) :
    Keeps r (State.doeServe s proto object) := by
  unfold State.doeServe
  repeat' first
    | with_reducible assumption
    | with_reducible intro x
    | with_reducible apply State.answerWith_keeps
    | with_reducible apply State.spdmAnswer_keeps
    | with_reducible apply State.securedAnswer_keeps
    | split

theorem execDoeObject_keeps {r s : State} (proto : BitVec 8) (object : List Byte) (h : Keeps r s) :
    OutKeeps r (execDoeObject proto object s) := by
  unfold execDoeObject
  repeat' first
    | with_reducible assumption
    | (with_reducible intro x; first
        | (with_reducible refine with_fact (a := Keeps r x) ?_ ?_; (on_goal 1 => unfold x); (on_goal 2 => (intro hx; clear_value x))))
    | (lift_lets -underBinder; with_reducible intro x)
    | with_reducible apply OutKeeps.next
    | with_reducible apply State.doeServe_keeps
    | with_reducible apply Keeps.ite
    | with_reducible apply OutKeeps.ite
    | (with_reducible apply Keeps.plain; · with_reducible assumption)
    | split

theorem execKeyExchange_keeps {r s : State} (doe : Bool) (peer : List Byte) (h : Keeps r s) :
    OutKeeps r (execKeyExchange doe peer s) := by
  unfold execKeyExchange
  repeat' first
    | with_reducible assumption
    | (lift_lets -underBinder; with_reducible intro x)
    | with_reducible intro x
    | with_reducible apply OutKeeps.next
    | with_reducible apply State.drawKey_keeps
    | with_reducible apply State.keyRefused_keeps
    | with_reducible apply State.answerWith_keeps
    | with_reducible apply Keeps.ite
    | (with_reducible apply Keeps.plain; (on_goal 1 => refine OptSndKeeps.of ?_ (by assumption)))
    | split

theorem State.onBinding_keeps {r s : State} (pcie : Bool) (f : State → State) (h : Keeps r s) (g_f : ∀ x0, Keeps r x0 → Keeps r (f x0)) :
    Keeps r (State.onBinding s pcie f) := by
  unfold State.onBinding
  have g : Keeps r (s.free 7).2 := SndKeeps.snd (State.free_keeps 7 h)
  exact Keeps.ite h (Keeps.ite (g_f _ h) (g_f _ (Keeps.plain g)))

theorem execMctpControl_keeps {r s : State} (pcie : Bool) (cmd : Fin 256) (eid : BitVec 8) (mtu : Nat) (h : Keeps r s) :
    OutKeeps r (execMctpControl pcie cmd eid mtu s) := by
  unfold execMctpControl
  repeat' first
    | with_reducible assumption
    | (with_reducible intro x; first
        | (with_reducible refine with_fact (a := Keeps r x) ?_ ?_; (on_goal 1 => unfold x); (on_goal 2 => (intro hx; clear_value x)))
        | skip)
    | (lift_lets -underBinder; with_reducible intro x)
    | with_reducible apply OutKeeps.next
    | with_reducible apply State.answerWith_keeps
    | with_reducible apply State.onBinding_keeps
    | with_reducible apply Keeps.ite
    | with_reducible apply OutKeeps.ite
    | (with_reducible apply Keeps.plain; · with_reducible assumption)
    | split

theorem State.sensor_keeps {r s : State} (n : Nat) (h : Keeps r s) :
    OptSndKeeps r (State.sensor s n) := by
  unfold State.sensor
  repeat' first
    | with_reducible assumption
    | (lift_lets -underBinder; with_reducible intro x)
    | with_reducible intro x
    | with_reducible apply OptSndKeeps.none
    | with_reducible apply OptSndKeeps.some
    | with_reducible refine SndKeeps.snd (State.free_keeps (h := ?_) ..)
    | with_reducible apply OptSndKeeps.ite
    | split

theorem State.pldmBase_keeps {r s : State} (cmd : Nat) (h : Keeps r s) :
    Keeps r (State.pldmBase s cmd) := by
  unfold State.pldmBase
  repeat' first
    | with_reducible assumption
    | with_reducible intro x
    | with_reducible apply SndKeeps.mk
    | with_reducible refine SndKeeps.snd (State.free_keeps (h := ?_) ..)
    | with_reducible apply State.free_keeps
    | with_reducible apply State.answerWith_keeps
    | refine SndKeeps.of ?_ (by assumption)
    | with_reducible exact SndKeeps.snd (by assumption)
    | with_reducible exact SndKeeps.mk_keep (by assumption)
    | split

theorem State.requestUpdate_keeps {r s : State} (pcie : Bool) (h : Keeps r s) :
    Keeps r (State.requestUpdate s pcie) := by
  unfold State.requestUpdate
  repeat' first
    | with_reducible assumption
    | with_reducible intro x
    | with_reducible apply State.answerWith_keeps
    | (with_reducible apply Keeps.plain; · with_reducible assumption)
    | split

theorem State.pldmUpdate_keeps {r s : State} (pcie : Bool) (cmd : Nat) (h : Keeps r s) :
    Keeps r (State.pldmUpdate s pcie cmd) := by
  unfold State.pldmUpdate
  repeat' first
    | with_reducible assumption
    | with_reducible intro x
    | with_reducible apply SndKeeps.mk
    | with_reducible refine SndKeeps.snd (State.free_keeps (h := ?_) ..)
    | with_reducible apply State.free_keeps
    | with_reducible apply State.answerWith_keeps
    | with_reducible apply State.requestUpdate_keeps
    | with_reducible apply Keeps.ite
    | with_reducible apply SndKeeps.ite
    | (with_reducible apply Keeps.plain; · with_reducible assumption)
    | refine SndKeeps.of ?_ (by assumption)
    | with_reducible exact SndKeeps.snd (by assumption)
    | with_reducible exact SndKeeps.mk_keep (by assumption)
    | split

theorem execPldmSensor_keeps {r s : State} (pcie : Bool) (typ : BitVec 8) (sensor : Fin 256) (h : Keeps r s) :
    OutKeeps r (execPldmSensor pcie typ sensor s) := by
  unfold execPldmSensor
  repeat' first
    | with_reducible assumption
    | with_reducible intro x
    | with_reducible apply OutKeeps.next
    | with_reducible apply OptSndKeeps.none
    | with_reducible apply OptSndKeeps.some
    | with_reducible apply State.answerWith_keeps
    | with_reducible apply State.onBinding_keeps
    | with_reducible apply State.sensor_keeps
    | with_reducible apply State.pldmBase_keeps
    | with_reducible apply State.pldmUpdate_keeps
    | with_reducible apply Keeps.ite
    | with_reducible apply OptSndKeeps.ite
    | with_reducible apply OutKeeps.ite
    | (with_reducible apply Keeps.plain; · with_reducible assumption)
    | (with_reducible apply Keeps.plain; (on_goal 1 => refine OptSndKeeps.of ?_ (by assumption)))
    | refine OptSndKeeps.of ?_ (by assumption)
    | with_reducible exact OptSndKeeps.some_keep (by assumption)
    | split

theorem execRequestUpdate_keeps {r s : State} (pcie : Bool) (h : Keeps r s) :
    OutKeeps r (execRequestUpdate pcie s) := by
  unfold execRequestUpdate
  repeat' first
    | with_reducible assumption
    | with_reducible intro x
    | with_reducible apply OutKeeps.next
    | with_reducible apply State.onBinding_keeps
    | with_reducible apply State.requestUpdate_keeps
    | with_reducible apply Keeps.ite

theorem execUpdateAgentIdle_keeps {r s : State} (h : Keeps r s) :
    OutKeeps r (execUpdateAgentIdle s) := by
  unfold execUpdateAgentIdle
  repeat' first
    | (lift_lets -underBinder; with_reducible intro x)
    | with_reducible apply OutKeeps.next
    | (with_reducible apply Keeps.plain; · with_reducible assumption)

end Sys2Proof.Machine
end

