-- ==== Sys2Proof/Laws/KeepTest.lean ====
section
/-! SUPPORT. What the operations of Machine/Test.lean keep. -/

namespace Sys2Proof.Machine

theorem execFieldtest_keeps {r s : State} (c : MbxCall) (h : Keeps r s) :
    OutKeeps r (execFieldtest c s) := by
  unfold execFieldtest
  repeat' first
    | with_reducible assumption
    | with_reducible intro x
    | with_reducible apply OutKeeps.next
    | with_reducible apply FstKeeps.mk
    | with_reducible apply mailbox_keeps
    | with_reducible apply State.fieldTestBegin_keeps
    | split

theorem execFieldtestLimit_keeps {r s : State} (hung : List (Nat × Nat)) (h : Keeps r s) :
    OutKeeps r (execFieldtestLimit hung s) := by
  unfold execFieldtestLimit
  repeat' first
    | with_reducible assumption
    | (lift_lets -underBinder; with_reducible intro x)
    | with_reducible apply OutKeeps.next
    | with_reducible apply Keeps.ite
    | (with_reducible apply Keeps.plain; · with_reducible assumption)

theorem State.herdTested_keeps {r s : State} (hid : Nat) (failed : Bool) (members : List Nat) (h : Keeps r s) :
    Keeps r (State.herdTested s hid failed members) := by
  unfold State.herdTested
  repeat' first
    | with_reducible assumption
    | with_reducible intro x
    | (lift_lets -underBinder; with_reducible intro x)
    | with_reducible apply State.updHerd_keeps
    | with_reducible apply State.record_keeps
    | with_reducible apply State.toMember_keeps
    | with_reducible apply State.expel_keeps
    | with_reducible apply Keeps.ite
    | with_reducible apply Keeps.foldl
    | split

theorem execFieldTestComplete_keeps {r s : State} (fails : List FailRec) (members : List Nat) (h : Keeps r s) :
    OutKeeps r (execFieldTestComplete fails members s) := by
  unfold execFieldTestComplete
  repeat' first
    | with_reducible assumption
    | (lift_lets -underBinder; with_reducible intro x)
    | (with_reducible intro x; first
        | (with_reducible refine with_fact (a := Keeps r x) ?_ ?_; (on_goal 1 => unfold x); (on_goal 2 => (intro hx; clear_value x)))
        | skip)
    | with_reducible apply OutKeeps.next
    | with_reducible apply State.completeAll_keeps
    | with_reducible apply State.record_keeps
    | with_reducible apply State.herdTested_keeps
    | with_reducible apply Keeps.ite
    | with_reducible apply Keeps.foldl
    | (with_reducible apply Keeps.plain; · with_reducible assumption)
    | (clear_value *; split)

theorem execRedundancyMismatch_keeps {r s : State} (core : Fin 512) (field : BitVec 64) (h : Keeps r s) :
    OutKeeps r (execRedundancyMismatch core field s) := by
  unfold execRedundancyMismatch
  repeat' first
    | with_reducible assumption
    | (lift_lets -underBinder; with_reducible intro x)
    | with_reducible apply OutKeeps.next
    | with_reducible apply State.lose_keeps
    | with_reducible apply State.record_keeps
    | with_reducible apply Keeps.ite
    | split

theorem execUnitReset_keeps {r s : State} (c : MbxCall) (h : Keeps r s) :
    OutKeeps r (execUnitReset c s) := by
  unfold execUnitReset
  repeat' first
    | with_reducible assumption
    | (lift_lets -underBinder; with_reducible intro x)
    | with_reducible intro x
    | with_reducible apply OutKeeps.next
    | with_reducible apply FstKeeps.mk
    | with_reducible apply mailbox_keeps
    | with_reducible apply State.resetUnit_keeps

end Sys2Proof.Machine
end

