-- ==== Sys2Proof/Laws/Keep.lean ====
section
/-! SUPPORT. What every command keeps, by its constructor. -/

namespace Sys2Proof.Machine

/-- Every command answers a next state that keeps the canonical form and takes back nothing that only
advances; it is no word about what the command does. -/
theorem exec_keeps {r s : State} (i : Instr) (h : Keeps r s) : OutKeeps r (exec i s) := by
  cases i with
  | add => exact execAdd_keeps (h := h) ..
  | sub => exact execSub_keeps (h := h) ..
  | and => exact execAnd_keeps (h := h) ..
  | or => exact execOr_keeps (h := h) ..
  | xor => exact execXor_keeps (h := h) ..
  | andn => exact execAndn_keeps (h := h) ..
  | shl => exact execShl_keeps (h := h) ..
  | shr => exact execShr_keeps (h := h) ..
  | sra => exact execSra_keeps (h := h) ..
  | min => exact execMin_keeps (h := h) ..
  | minu => exact execMinu_keeps (h := h) ..
  | max => exact execMax_keeps (h := h) ..
  | maxu => exact execMaxu_keeps (h := h) ..
  | mul => exact execMul_keeps (h := h) ..
  | mulh => exact execMulh_keeps (h := h) ..
  | mulhu => exact execMulhu_keeps (h := h) ..
  | div => exact execDiv_keeps (h := h) ..
  | divu => exact execDivu_keeps (h := h) ..
  | salui => exact execSalui_keeps (h := h) ..
  | movi => exact execMovi_keeps (h := h) ..
  | movhi => exact execMovhi_keeps (h := h) ..
  | cmp => exact execCmp_keeps (h := h) ..
  | cmpi => exact execCmpi_keeps (h := h) ..
  | pand => exact execPand_keeps (h := h) ..
  | por => exact execPor_keeps (h := h) ..
  | pxor => exact execPxor_keeps (h := h) ..
  | pandn => exact execPandn_keeps (h := h) ..
  | pmov => exact execPmov_keeps (h := h) ..
  | pnot => exact execPnot_keeps (h := h) ..
  | ld => exact execLd_keeps (h := h) ..
  | st => exact execSt_keeps (h := h) ..
  | scalarLoadReturn => exact execScalarLoadReturn_keeps (h := h) ..
  | br => exact execBr_keeps (h := h) ..
  | brl => exact execBrl_keeps (h := h) ..
  | brr => exact execBrr_keeps (h := h) ..
  | brrl => exact execBrrl_keeps (h := h) ..
  | vadd => exact execVadd_keeps (h := h) ..
  | vsub => exact execVsub_keeps (h := h) ..
  | vmulLo => exact execVmulLo_keeps (h := h) ..
  | vmulHi => exact execVmulHi_keeps (h := h) ..
  | vmul => exact execVmul_keeps (h := h) ..
  | vmin => exact execVmin_keeps (h := h) ..
  | vmax => exact execVmax_keeps (h := h) ..
  | vshl => exact execVshl_keeps (h := h) ..
  | vshr => exact execVshr_keeps (h := h) ..
  | vshra => exact execVshra_keeps (h := h) ..
  | vand => exact execVand_keeps (h := h) ..
  | vor => exact execVor_keeps (h := h) ..
  | vxor => exact execVxor_keeps (h := h) ..
  | vandn => exact execVandn_keeps (h := h) ..
  | vcmpEq => exact execVcmpEq_keeps (h := h) ..
  | vcmpNe => exact execVcmpNe_keeps (h := h) ..
  | vcmpLt => exact execVcmpLt_keeps (h := h) ..
  | vcmpLe => exact execVcmpLe_keeps (h := h) ..
  | vany => exact execVany_keeps (h := h) ..
  | vall => exact execVall_keeps (h := h) ..
  | vabs => exact execVabs_keeps (h := h) ..
  | vneg => exact execVneg_keeps (h := h) ..
  | vnot => exact execVnot_keeps (h := h) ..
  | vmov => exact execVmov_keeps (h := h) ..
  | vexp2 => exact execVexp2_keeps (h := h) ..
  | vlog2 => exact execVlog2_keeps (h := h) ..
  | vrcp => exact execVrcp_keeps (h := h) ..
  | vrsq => exact execVrsq_keeps (h := h) ..
  | vtanh => exact execVtanh_keeps (h := h) ..
  | vfma => exact execVfma_keeps (h := h) ..
  | vdot2 => exact execVdot2_keeps (h := h) ..
  | vsel => exact execVsel_keeps (h := h) ..
  | vcvt => exact execVcvt_keeps (h := h) ..
  | vcvtMx => exact execVcvtMx_keeps (h := h) ..
  | vcvtMxd => exact execVcvtMxd_keeps (h := h) ..
  | vbxExp => exact execVbxExp_keeps (h := h) ..
  | vbxCvt => exact execVbxCvt_keeps (h := h) ..
  | vbxDec => exact execVbxDec_keeps (h := h) ..
  | vrng => exact execVrng_keeps (h := h) ..
  | vrngU => exact execVrngU_keeps (h := h) ..
  | vrngSetc => exact execVrngSetc_keeps (h := h) ..
  | vrngGetc => exact execVrngGetc_keeps (h := h) ..
  | vrngT => exact execVrngT_keeps (h := h) ..
  | rsum => exact execRsum_keeps (h := h) ..
  | rssq => exact execRssq_keeps (h := h) ..
  | risum => exact execRisum_keeps (h := h) ..
  | rpsumI => exact execRpsumI_keeps (h := h) ..
  | rpsumE => exact execRpsumE_keeps (h := h) ..
  | rmax => exact execRmax_keeps (h := h) ..
  | rmin => exact execRmin_keeps (h := h) ..
  | rargmax => exact execRargmax_keeps (h := h) ..
  | rargmin => exact execRargmin_keeps (h := h) ..
  | rtopk => exact execRtopk_keeps (h := h) ..
  | loadw => exact execLoadw_keeps (h := h) ..
  | loadwComplete => exact execLoadwComplete_keeps (h := h) ..
  | swap => exact execSwap_keeps (h := h) ..
  | stream => exact execStream_keeps (h := h) ..
  | streamRowResult => exact execStreamRowResult_keeps (h := h) ..
  | accout => exact execAccout_keeps (h := h) ..
  | csadv => exact execCsadv_keeps (h := h) ..
  | dmaDesc => exact execDmaDesc_keeps (h := h) ..
  | dmaDescriptorRun => exact execDmaDescriptorRun_keeps (h := h) ..
  | dmaChainComplete => exact execDmaChainComplete_keeps (h := h) ..
  | dmaCopy => exact execDmaCopy_keeps (h := h) ..
  | ringAdv => exact execRingAdv_keeps (h := h) ..
  | ringRst => exact execRingRst_keeps (h := h) ..
  | winResv => exact execWinResv_keeps (h := h) ..
  | winRel => exact execWinRel_keeps (h := h) ..
  | windowReleaseComplete => exact execWindowReleaseComplete_keeps (h := h) ..
  | windowFillBegin => exact execWindowFillBegin_keeps (h := h) ..
  | windowArrival => exact execWindowArrival_keeps (h := h) ..
  | windowLate => exact execWindowLate_keeps (h := h) ..
  | ringQuarterFilled => exact execRingQuarterFilled_keeps (h := h) ..
  | runAheadFetch => exact execRunAheadFetch_keeps (h := h) ..
  | runAheadExpired => exact execRunAheadExpired_keeps (h := h) ..
  | taskBegin => exact execTaskBegin_keeps (h := h) ..
  | taskInputSatisfied => exact execTaskInputSatisfied_keeps (h := h) ..
  | taskEnd => exact execTaskEnd_keeps (h := h) ..
  | taskOutputSignal => exact execTaskOutputSignal_keeps (h := h) ..
  | speculativeResolve => exact execSpeculativeResolve_keeps (h := h) ..
  | verdictTimeout => exact execVerdictTimeout_keeps (h := h) ..
  | paddockDrain => exact execPaddockDrain_keeps (h := h) ..
  | fenceSignal => exact execFenceSignal_keeps (h := h) ..
  | fenceSignalI => exact execFenceSignalI_keeps (h := h) ..
  | fenceRead => exact execFenceRead_keeps (h := h) ..
  | fenceWait => exact execFenceWait_keeps (h := h) ..
  | fenceWaitSatisfied => exact execFenceWaitSatisfied_keeps (h := h) ..
  | sysNop => exact execSysNop_keeps (h := h) ..
  | sysIflush => exact execSysIflush_keeps (h := h) ..
  | sysSrkey => exact execSysSrkey_keeps (h := h) ..
  | sysFlags => exact execSysFlags_keeps (h := h) ..
  | sysId => exact execSysId_keeps (h := h) ..
  | sysTime => exact execSysTime_keeps (h := h) ..
  | fenceSignalApply => exact execFenceSignalApply_keeps (h := h) ..
  | memoryRequest => exact execMemoryRequest_keeps (h := h) ..
  | translationWalk => exact execTranslationWalk_keeps (h := h) ..
  | requestRetry => exact execRequestRetry_keeps (h := h) ..
  | accessTableSwap => exact execAccessTableSwap_keeps (h := h) ..
  | targetDrained => exact execTargetDrained_keeps (h := h) ..
  | drainTimeout => exact execDrainTimeout_keeps (h := h) ..
  | kvPromotion => exact execKvPromotion_keeps (h := h) ..
  | poolMove => exact execPoolMove_keeps (h := h) ..
  | poolMoveComplete => exact execPoolMoveComplete_keeps (h := h) ..
  | poolMoveAbort => exact execPoolMoveAbort_keeps (h := h) ..
  | bridleFlit a b c d => exact execBridleFlit_keeps a b c d h
  | query => exact execQuery_keeps (h := h) ..
  | ctxCreate => exact execCtxCreate_keeps (h := h) ..
  | ctxDestroy => exact execCtxDestroy_keeps (h := h) ..
  | abort => exact execAbort_keeps (h := h) ..
  | abortDrained => exact execAbortDrained_keeps (h := h) ..
  | granuleScrub => exact execGranuleScrub_keeps (h := h) ..
  | slotIn => exact execSlotIn_keeps (h := h) ..
  | slotOut => exact execSlotOut_keeps (h := h) ..
  | queueCreate => exact execQueueCreate_keeps (h := h) ..
  | ctxWdt => exact execCtxWdt_keeps (h := h) ..
  | ctxRekey => exact execCtxRekey_keeps (h := h) ..
  | fenceAlloc => exact execFenceAlloc_keeps (h := h) ..
  | fenceReset => exact execFenceReset_keeps (h := h) ..
  | fenceShare => exact execFenceShare_keeps (h := h) ..
  | fenceUnshare => exact execFenceUnshare_keeps (h := h) ..
  | devevtSet => exact execDevevtSet_keeps (h := h) ..
  | cntRead => exact execCntRead_keeps (h := h) ..
  | grant => exact execGrant_keeps (h := h) ..
  | map => exact execMap_keeps (h := h) ..
  | unmap => exact execUnmap_keeps (h := h) ..
  | protect => exact execProtect_keeps (h := h) ..
  | mapRequestComplete => exact execMapRequestComplete_keeps (h := h) ..
  | hwinSet => exact execHwinSet_keeps (h := h) ..
  | poolmapSet => exact execPoolmapSet_keeps (h := h) ..
  | donate => exact execDonate_keeps (h := h) ..
  | kvpoolSize => exact execKvpoolSize_keeps (h := h) ..
  | kvRegion => exact execKvRegion_keeps (h := h) ..
  | apertureMap => exact execApertureMap_keeps (h := h) ..
  | clusterMove => exact execClusterMove_keeps (h := h) ..
  | programLoad => exact execProgramLoad_keeps (h := h) ..
  | learnBind => exact execLearnBind_keeps (h := h) ..
  | learnSeal => exact execLearnSeal_keeps (h := h) ..
  | handoffOpen => exact execHandoffOpen_keeps (h := h) ..
  | handoffClose => exact execHandoffClose_keeps (h := h) ..
  | partitionSet => exact execPartitionSet_keeps (h := h) ..
  | nodeSet => exact execNodeSet_keeps (h := h) ..
  | admitSet => exact execAdmitSet_keeps (h := h) ..
  | portReset => exact execPortReset_keeps (h := h) ..
  | herdForm => exact execHerdForm_keeps (h := h) ..
  | herdJoin c reserved covered => exact execHerdJoin_keeps c reserved covered h
  | collBind => exact execCollBind_keeps (h := h) ..
  | collSwap => exact execCollSwap_keeps (h := h) ..
  | charterLoad => exact execCharterLoad_keeps (h := h) ..
  | charterUnload => exact execCharterUnload_keeps (h := h) ..
  | kslotQuery => exact execKslotQuery_keeps (h := h) ..
  | secStat => exact execSecStat_keeps (h := h) ..
  | objImport => exact execObjImport_keeps (h := h) ..
  | objImportComplete => exact execObjImportComplete_keeps (h := h) ..
  | objExport => exact execObjExport_keeps (h := h) ..
  | lcQuery => exact execLcQuery_keeps (h := h) ..
  | lcRetire => exact execLcRetire_keeps (h := h) ..
  | fwRevoke => exact execFwRevoke_keeps (h := h) ..
  | calWrite => exact execCalWrite_keeps (h := h) ..
  | calRead => exact execCalRead_keeps (h := h) ..
  | ckptStore => exact execCkptStore_keeps (h := h) ..
  | ckptWrite => exact execCkptWrite_keeps (h := h) ..
  | ckptRestore => exact execCkptRestore_keeps (h := h) ..
  | snapWrite => exact execSnapWrite_keeps (h := h) ..
  | snapRestore => exact execSnapRestore_keeps (h := h) ..
  | fieldtest => exact execFieldtest_keeps (h := h) ..
  | fieldtestLimit => exact execFieldtestLimit_keeps (h := h) ..
  | unitReset => exact execUnitReset_keeps (h := h) ..
  | mailboxBadCommand => exact execMailboxBadCommand_keeps (h := h) ..
  | nop => exact execNop_keeps (h := h) ..
  | launch => exact execLaunch_keeps (h := h) ..
  | stop => exact execStop_keeps (h := h) ..
  | copy => exact execCopy_keeps (h := h) ..
  | stamp => exact execStamp_keeps (h := h) ..
  | packetComplete => exact execPacketComplete_keeps (h := h) ..
  | queueTimeout => exact execQueueTimeout_keeps (h := h) ..
  | tail => exact execTail_keeps (h := h) ..
  | fsigv => exact execFsigv_keeps (h := h) ..
  | evhead => exact execEvhead_keeps (h := h) ..
  | msixMessage => exact execMsixMessage_keeps (h := h) ..
  | stepOpen => exact execStepOpen_keeps (h := h) ..
  | expmax => exact execExpmax_keeps (h := h) ..
  | collectiveRsum => exact execCollectiveRsum_keeps (h := h) ..
  | agather => exact execAgather_keeps (h := h) ..
  | allsum => exact execAllsum_keeps (h := h) ..
  | collectiveMessage => exact execCollectiveMessage_keeps (h := h) ..
  | collectiveAcknowledgement => exact execCollectiveAcknowledgement_keeps (h := h) ..
  | scalarRecord => exact execScalarRecord_keeps (h := h) ..
  | gateRecord => exact execGateRecord_keeps (h := h) ..
  | gateQuery => exact execGateQuery_keeps (h := h) ..
  | gateTimeout => exact execGateTimeout_keeps (h := h) ..
  | blockArrival => exact execBlockArrival_keeps (h := h) ..
  | recordGroupRead => exact execRecordGroupRead_keeps (h := h) ..
  | slotDrain => exact execSlotDrain_keeps (h := h) ..
  | recordGroupWritten => exact execRecordGroupWritten_keeps (h := h) ..
  | ballastPark => exact execBallastPark_keeps (h := h) ..
  | groupFence => exact execGroupFence_keeps (h := h) ..
  | factorFinalise => exact execFactorFinalise_keeps (h := h) ..
  | commitFence => exact execCommitFence_keeps (h := h) ..
  | rootDigest => exact execRootDigest_keeps (h := h) ..
  | digestDecide => exact execDigestDecide_keeps (h := h) ..
  | herdAnnounce => exact execHerdAnnounce_keeps (h := h) ..
  | formationTimeout => exact execFormationTimeout_keeps (h := h) ..
  | membershipRecord => exact execMembershipRecord_keeps (h := h) ..
  | membershipSwap => exact execMembershipSwap_keeps (h := h) ..
  | livenessReport => exact execLivenessReport_keeps (h := h) ..
  | memberMissing => exact execMemberMissing_keeps (h := h) ..
  | withdraw => exact execWithdraw_keeps (h := h) ..
  | herdBeacon => exact execHerdBeacon_keeps (h := h) ..
  | bellwetherTakeover => exact execBellwetherTakeover_keeps (h := h) ..
  | joinTransfer => exact execJoinTransfer_keeps (h := h) ..
  | joinAbandon => exact execJoinAbandon_keeps (h := h) ..
  | slotTableSwap => exact execSlotTableSwap_keeps (h := h) ..
  | tetherBeacon => exact execTetherBeacon_keeps (h := h) ..
  | timeExchange role port t2 t3 asym => exact execTimeExchange_keeps role port t2 t3 asym h
  | holdoverExpiry => exact execHoldoverExpiry_keeps (h := h) ..
  | masterLoss => exact execMasterLoss_keeps (h := h) ..
  | unlockedWithdrawal => exact execUnlockedWithdrawal_keeps (h := h) ..
  | syncIn => exact execSyncIn_keeps (h := h) ..
  | syncInMissing => exact execSyncInMissing_keeps (h := h) ..
  | syncOut => exact execSyncOut_keeps (h := h) ..
  | ptmDialog => exact execPtmDialog_keeps (h := h) ..
  | handoffRecord => exact execHandoffRecord_keeps (h := h) ..
  | rfidReturn => exact execRfidReturn_keeps (h := h) ..
  | train => exact execTrain_keeps (h := h) ..
  | hello => exact execHello_keeps (h := h) ..
  | attest => exact execAttest_keeps (h := h) ..
  | keyx => exact execKeyx_keeps (h := h) ..
  | bringUpTimeout => exact execBringUpTimeout_keeps (h := h) ..
  | portRetry => exact execPortRetry_keeps (h := h) ..
  | bringUp => exact execBringUp_keeps (h := h) ..
  | flitTransmit => exact execFlitTransmit_keeps (h := h) ..
  | data => exact execData_keeps (h := h) ..
  | lctl => exact execLctl_keeps (h := h) ..
  | idle => exact execIdle_keeps (h := h) ..
  | lctlTimer => exact execLctlTimer_keeps (h := h) ..
  | acknowledgementTimer => exact execAcknowledgementTimer_keeps (h := h) ..
  | retrainTimer => exact execRetrainTimer_keeps (h := h) ..
  | fastRetrainComplete => exact execFastRetrainComplete_keeps (h := h) ..
  | peerDown => exact execPeerDown_keeps (h := h) ..
  | rekey => exact execRekey_keeps (h := h) ..
  | rekeySwitch => exact execRekeySwitch_keeps (h := h) ..
  | rekeyTimeout => exact execRekeyTimeout_keeps (h := h) ..
  | prd => exact execPrd_keeps (h := h) ..
  | pbrd => exact execPbrd_keeps (h := h) ..
  | pwr => exact execPwr_keeps (h := h) ..
  | pbwr => exact execPbwr_keeps (h := h) ..
  | patom => exact execPatom_keeps (h := h) ..
  | poolResponse => exact execPoolResponse_keeps (h := h) ..
  | poolResponseTimeout => exact execPoolResponseTimeout_keeps (h := h) ..
  | configurationRequest => exact execConfigurationRequest_keeps (h := h) ..
  | bar0Access => exact execBar0Access_keeps (h := h) ..
  | registerWrite => exact execRegisterWrite_keeps (h := h) ..
  | badRegisterAccess => exact execBadRegisterAccess_keeps (h := h) ..
  | counterClr => exact execCounterClr_keeps (h := h) ..
  | dumpack => exact execDumpack_keeps (h := h) ..
  | logData => exact execLogData_keeps (h := h) ..
  | tetherNsRead => exact execTetherNsRead_keeps (h := h) ..
  | ptmhRead => exact execPtmhRead_keeps (h := h) ..
  | portCfgWrite => exact execPortCfgWrite_keeps (h := h) ..
  | msixTableAccess => exact execMsixTableAccess_keeps (h := h) ..
  | bar2ReservedAccess => exact execBar2ReservedAccess_keeps (h := h) ..
  | apertureAccess => exact execApertureAccess_keeps (h := h) ..
  | completion => exact execCompletion_keeps (h := h) ..
  | completionTimeout => exact execCompletionTimeout_keeps (h := h) ..
  | perst => exact execPerst_keeps (h := h) ..
  | hotReset => exact execHotReset_keeps (h := h) ..
  | dlDown => exact execDlDown_keeps (h := h) ..
  | doeObject => exact execDoeObject_keeps (h := h) ..
  | getMeasurements => exact execGetMeasurements_keeps (h := h) ..
  | keyExchange => exact execKeyExchange_keeps (h := h) ..
  | quote => exact execQuote_keeps (h := h) ..
  | krBegin => exact execKrBegin_keeps (h := h) ..
  | krWrap => exact execKrWrap_keeps (h := h) ..
  | nonce => exact execNonce_keeps (h := h) ..
  | revoke => exact execRevoke_keeps (h := h) ..
  | report => exact execReport_keeps (h := h) ..
  | kSetGo => exact execKSetGo_keeps (h := h) ..
  | ideFailure => exact execIdeFailure_keeps (h := h) ..
  | mctpControl => exact execMctpControl_keeps (h := h) ..
  | pldmSensor => exact execPldmSensor_keeps (h := h) ..
  | requestUpdate => exact execRequestUpdate_keeps (h := h) ..
  | updateAgentIdle => exact execUpdateAgentIdle_keeps (h := h) ..
  | imageWrite => exact execImageWrite_keeps (h := h) ..
  | keyRemask => exact execKeyRemask_keeps (h := h) ..
  | remaskRetry => exact execRemaskRetry_keeps (h := h) ..
  | remaskStarvation => exact execRemaskStarvation_keeps (h := h) ..
  | slotSweep => exact execSlotSweep_keeps (h := h) ..
  | ephemExpiry => exact execEphemExpiry_keeps (h := h) ..
  | drbgReseed => exact execDrbgReseed_keeps (h := h) ..
  | entropyFailure => exact execEntropyFailure_keeps (h := h) ..
  | rekeyLine => exact execRekeyLine_keeps (h := h) ..
  | rekeyJobComplete => exact execRekeyJobComplete_keeps (h := h) ..
  | patrol => exact execPatrol_keeps (h := h) ..
  | integrityHalt => exact execIntegrityHalt_keeps (h := h) ..
  | slotRebuild => exact execSlotRebuild_keeps (h := h) ..
  | resendTimeout => exact execResendTimeout_keeps (h := h) ..
  | redundancyMismatch => exact execRedundancyMismatch_keeps (h := h) ..
  | coreReset => exact execCoreReset_keeps (h := h) ..
  | clusterReset => exact execClusterReset_keeps (h := h) ..
  | cdieReset => exact execCdieReset_keeps (h := h) ..
  | mdieReset => exact execMdieReset_keeps (h := h) ..
  | resetFenceExpiry => exact execResetFenceExpiry_keeps (h := h) ..
  | unitReady => exact execUnitReady_keeps (h := h) ..
  | mdieReady => exact execMdieReady_keeps (h := h) ..
  | resetEscalation => exact execResetEscalation_keeps (h := h) ..
  | integrityWritebackTimeout => exact execIntegrityWritebackTimeout_keeps (h := h) ..
  | progressWatchdog => exact execProgressWatchdog_keeps (h := h) ..
  | noProgress => exact execNoProgress_keeps (h := h) ..
  | heartbeat => exact execHeartbeat_keeps (h := h) ..
  | heartbeatMissed => exact execHeartbeatMissed_keeps (h := h) ..
  | lockstepMismatch => exact execLockstepMismatch_keeps (h := h) ..
  | start => exact execStart_keeps (h := h) ..
  | startTimerExpiry => exact execStartTimerExpiry_keeps (h := h) ..
  | trainingRecordSeal => exact execTrainingRecordSeal_keeps (h := h) ..
  | lcAdvance => exact execLcAdvance_keeps (h := h) ..
  | mainSupplyRise => exact execMainSupplyRise_keeps (h := h) ..
  | supplyFault => exact execSupplyFault_keeps (h := h) ..
  | auxSupplyRise => exact execAuxSupplyRise_keeps (h := h) ..
  | auxSupplyFall => exact execAuxSupplyFall_keeps (h := h) ..
  | powerCapTick => exact execPowerCapTick_keeps (h := h) ..
  | operatingPointChange => exact execOperatingPointChange_keeps (h := h) ..
  | pwrBrakeAssert => exact execPwrBrakeAssert_keeps (h := h) ..
  | pwrBrakeDeassert => exact execPwrBrakeDeassert_keeps (h := h) ..
  | thermalSample => exact execThermalSample_keeps (h := h) ..
  | thermalThrottleTick => exact execThermalThrottleTick_keeps (h := h) ..
  | thermalHalt => exact execThermalHalt_keeps (h := h) ..
  | fabRefclkLoss => exact execFabRefclkLoss_keeps (h := h) ..
  | fabRefclkRecovery => exact execFabRefclkRecovery_keeps (h := h) ..
  | checkpointCapture => exact execCheckpointCapture_keeps (h := h) ..
  | checkpointFlip => exact execCheckpointFlip_keeps (h := h) ..
  | checkpointTimeout => exact execCheckpointTimeout_keeps (h := h) ..
  | streamSegment => exact execStreamSegment_keeps (h := h) ..
  | unassignedMajorOpcode => exact execUnassignedMajorOpcode_keeps (h := h) ..
  | instructionFetchFault => exact execInstructionFetchFault_keeps (h := h) ..
  | pcieLinkUp => exact execPcieLinkUp_keeps (h := h) ..
  | testAccessPortInstruction => exact execTestAccessPortInstruction_keeps (h := h) ..
  | correctedErrorHour => exact execCorrectedErrorHour_keeps (h := h) ..
  | objExportComplete => exact execObjExportComplete_keeps (h := h) ..
  | clusterMoveTimeout => exact execClusterMoveTimeout_keeps (h := h) ..
  | slotOutTimeout => exact execSlotOutTimeout_keeps (h := h) ..
  | fieldTestComplete => exact execFieldTestComplete_keeps (h := h) ..
  | refreshIntervalBoundary => exact execRefreshIntervalBoundary_keeps (h := h) ..

end Sys2Proof.Machine
end

