-- ==== Sys2Proof/Laws/Request.lean ====
section
/-! SUPPORT. What a request that reaches its target can do there. -/

namespace Sys2Proof.Machine

/-- A request that its target takes in: it does not come through the aperture of a context that is LOST or ABORTING, no unit that
resets, no move of its page and no earlier access of its line holds it, and it is no write that encryption hides. It is denied,
refused, or checked. -/
theorem atTarget_arrives {s : State} {x : Refused} {h : Health} {i : Nat} (e : s.severed x.req = false) (a : s.downAt x.req.da = false)
    (b : s.moving x.req = false) (c : s.ordered x.req = true) (d : s.veiled x.req = true → x.req.write = false) :
    s.atTarget x h i =
      if !s.admits x.req.init x.req.ctx x.req.da x.req.write x.req.walk || !s.listed x.req then
        s.denyOutcome x.req.init x.req.ctx x.req.da
      else if !s.room x then (s.refuse x).1.holdAt i (s.refuse x).2
      else match s.check x.req.init x.req.acts x.req.da x.req.size x.req.write x.req.walk with
        | .ok s () => s.leave x h i
        | .lost s cause => s.requestLost x.req h cause
        | .wait s => s.holdAt i x := by
  have hv : (s.veiled x.req && x.req.write) = false := by
    cases hv : s.veiled x.req <;> simp [d, hv]
  unfold State.atTarget
  simp only [e, a, b, c, hv]
  rfl

/-- A request outside register space is launched. -/
theorem request_launch {s : State} {x : Refused} {older : List Refused} {h : Health} {i : Nat}
    (hs : s.space x.req.da ≠ .regs) : s.request x older h i = s.launch x older h i := by
  have hb : (s.space x.req.da == .regs) = false := beq_eq_false_iff_ne.2 hs
  unfold State.request
  simp only [hb, Bool.false_and, Bool.false_eq_true, if_false]

end Sys2Proof.Machine
end

