-- ==== Sys2Proof/Laws/State.lean ====
section
/-! SUPPORT. What each named update of the state does to each of its fields. -/

namespace Sys2Proof.Machine

variable (s : State)

/-! ### `setCore` -/

@[simp] theorem State.setCore_pending (n : Nat) (k : Core) : (s.setCore n k).pending = s.pending := rfl
@[simp] theorem State.setCore_freeCtr (n : Nat) (k : Core) : (s.setCore n k).freeCtr = s.freeCtr := rfl
@[simp] theorem State.setCore_code (n : Nat) (k : Core) : (s.setCore n k).code = s.code := rfl
@[simp] theorem State.setCore_dev (n : Nat) (k : Core) : (s.setCore n k).dev = s.dev := rfl
@[simp] theorem State.setCore_cores (n : Nat) (k : Core) : (s.setCore n k).cores = Tab.set {} s.cores n k := rfl
@[simp] theorem State.setCore_clusters (n : Nat) (k : Core) : (s.setCore n k).clusters = s.clusters := rfl
@[simp] theorem State.setCore_runAhead (n : Nat) (k : Core) : (s.setCore n k).runAhead = s.runAhead := rfl
@[simp] theorem State.setCore_mem (n : Nat) (k : Core) : (s.setCore n k).mem = s.mem := rfl
@[simp] theorem State.setCore_major (n : Nat) (k : Core) : (s.setCore n k).major = s.major := rfl
@[simp] theorem State.setCore_lines (n : Nat) (k : Core) : (s.setCore n k).lines = s.lines := rfl
@[simp] theorem State.setCore_versions (n : Nat) (k : Core) : (s.setCore n k).versions = s.versions := rfl
@[simp] theorem State.setCore_integ (n : Nat) (k : Core) : (s.setCore n k).integ = s.integ := rfl
@[simp] theorem State.setCore_dirty (n : Nat) (k : Core) : (s.setCore n k).dirty = s.dirty := rfl
@[simp] theorem State.setCore_intCache (n : Nat) (k : Core) : (s.setCore n k).intCache = s.intCache := rfl
@[simp] theorem State.setCore_targets (n : Nat) (k : Core) : (s.setCore n k).targets = s.targets := rfl
@[simp] theorem State.setCore_retry (n : Nat) (k : Core) : (s.setCore n k).retry = s.retry := rfl
@[simp] theorem State.setCore_dramQ (n : Nat) (k : Core) : (s.setCore n k).dramQ = s.dramQ := rfl
@[simp] theorem State.setCore_dramOut (n : Nat) (k : Core) : (s.setCore n k).dramOut = s.dramOut := rfl
@[simp] theorem State.setCore_reqNum (n : Nat) (k : Core) : (s.setCore n k).reqNum = s.reqNum := rfl
@[simp] theorem State.setCore_movWaits (n : Nat) (k : Core) : (s.setCore n k).movWaits = s.movWaits := rfl
@[simp] theorem State.setCore_routes (n : Nat) (k : Core) : (s.setCore n k).routes = s.routes := rfl
@[simp] theorem State.setCore_bridle (n : Nat) (k : Core) : (s.setCore n k).bridle = s.bridle := rfl
@[simp] theorem State.setCore_resp (n : Nat) (k : Core) : (s.setCore n k).resp = s.resp := rfl
@[simp] theorem State.setCore_hwins (n : Nat) (k : Core) : (s.setCore n k).hwins = s.hwins := rfl
@[simp] theorem State.setCore_hostPages (n : Nat) (k : Core) : (s.setCore n k).hostPages = s.hostPages := rfl
@[simp] theorem State.setCore_hwBase (n : Nat) (k : Core) : (s.setCore n k).hwBase = s.hwBase := rfl
@[simp] theorem State.setCore_poolMap (n : Nat) (k : Core) : (s.setCore n k).poolMap = s.poolMap := rfl
@[simp] theorem State.setCore_donations (n : Nat) (k : Core) : (s.setCore n k).donations = s.donations := rfl
@[simp] theorem State.setCore_coord (n : Nat) (k : Core) : (s.setCore n k).coord = s.coord := rfl
@[simp] theorem State.setCore_lineMeta (n : Nat) (k : Core) : (s.setCore n k).lineMeta = s.lineMeta := rfl
@[simp] theorem State.setCore_pages (n : Nat) (k : Core) : (s.setCore n k).pages = s.pages := rfl
@[simp] theorem State.setCore_poolSize (n : Nat) (k : Core) : (s.setCore n k).poolSize = s.poolSize := rfl
@[simp] theorem State.setCore_moves (n : Nat) (k : Core) : (s.setCore n k).moves = s.moves := rfl
@[simp] theorem State.setCore_promos (n : Nat) (k : Core) : (s.setCore n k).promos = s.promos := rfl
@[simp] theorem State.setCore_pressure (n : Nat) (k : Core) : (s.setCore n k).pressure = s.pressure := rfl
@[simp] theorem State.setCore_rekeyJobs (n : Nat) (k : Core) : (s.setCore n k).rekeyJobs = s.rekeyJobs := rfl
@[simp] theorem State.setCore_rekeyQ (n : Nat) (k : Core) : (s.setCore n k).rekeyQ = s.rekeyQ := rfl
@[simp] theorem State.setCore_scrubQ (n : Nat) (k : Core) : (s.setCore n k).scrubQ = s.scrubQ := rfl
@[simp] theorem State.setCore_aperture (n : Nat) (k : Core) : (s.setCore n k).aperture = s.aperture := rfl
@[simp] theorem State.setCore_hostMem (n : Nat) (k : Core) : (s.setCore n k).hostMem = s.hostMem := rfl
@[simp] theorem State.setCore_poolMem (n : Nat) (k : Core) : (s.setCore n k).poolMem = s.poolMem := rfl
@[simp] theorem State.setCore_ctxs (n : Nat) (k : Core) : (s.setCore n k).ctxs = s.ctxs := rfl
@[simp] theorem State.setCore_slots (n : Nat) (k : Core) : (s.setCore n k).slots = s.slots := rfl
@[simp] theorem State.setCore_fences (n : Nat) (k : Core) : (s.setCore n k).fences = s.fences := rfl
@[simp] theorem State.setCore_sigQ (n : Nat) (k : Core) : (s.setCore n k).sigQ = s.sigQ := rfl
@[simp] theorem State.setCore_turn (n : Nat) (k : Core) : (s.setCore n k).turn = s.turn := rfl
@[simp] theorem State.setCore_devRing (n : Nat) (k : Core) : (s.setCore n k).devRing = s.devRing := rfl
@[simp] theorem State.setCore_mbx (n : Nat) (k : Core) : (s.setCore n k).mbx = s.mbx := rfl
@[simp] theorem State.setCore_mbxQ (n : Nat) (k : Core) : (s.setCore n k).mbxQ = s.mbxQ := rfl
@[simp] theorem State.setCore_regs (n : Nat) (k : Core) : (s.setCore n k).regs = s.regs := rfl
@[simp] theorem State.setCore_ctxCnt (n : Nat) (k : Core) : (s.setCore n k).ctxCnt = s.ctxCnt := rfl
@[simp] theorem State.setCore_pcie (n : Nat) (k : Core) : (s.setCore n k).pcie = s.pcie := rfl
@[simp] theorem State.setCore_learn (n : Nat) (k : Core) : (s.setCore n k).learn = s.learn := rfl
@[simp] theorem State.setCore_upd (n : Nat) (k : Core) : (s.setCore n k).upd = s.upd := rfl
@[simp] theorem State.setCore_markers (n : Nat) (k : Core) : (s.setCore n k).markers = s.markers := rfl
@[simp] theorem State.setCore_ports (n : Nat) (k : Core) : (s.setCore n k).ports = s.ports := rfl
@[simp] theorem State.setCore_node (n : Nat) (k : Core) : (s.setCore n k).node = s.node := rfl
@[simp] theorem State.setCore_admitList (n : Nat) (k : Core) : (s.setCore n k).admitList = s.admitList := rfl
@[simp] theorem State.setCore_poolReqs (n : Nat) (k : Core) : (s.setCore n k).poolReqs = s.poolReqs := rfl
@[simp] theorem State.setCore_poolGot (n : Nat) (k : Core) : (s.setCore n k).poolGot = s.poolGot := rfl
@[simp] theorem State.setCore_colls (n : Nat) (k : Core) : (s.setCore n k).colls = s.colls := rfl
@[simp] theorem State.setCore_slotTab (n : Nat) (k : Core) : (s.setCore n k).slotTab = s.slotTab := rfl
@[simp] theorem State.setCore_slotShadow (n : Nat) (k : Core) : (s.setCore n k).slotShadow = s.slotShadow := rfl
@[simp] theorem State.setCore_slotSwap (n : Nat) (k : Core) : (s.setCore n k).slotSwap = s.slotSwap := rfl
@[simp] theorem State.setCore_tet (n : Nat) (k : Core) : (s.setCore n k).tet = s.tet := rfl
@[simp] theorem State.setCore_herds (n : Nat) (k : Core) : (s.setCore n k).herds = s.herds := rfl
@[simp] theorem State.setCore_ctlOut (n : Nat) (k : Core) : (s.setCore n k).ctlOut = s.ctlOut := rfl
@[simp] theorem State.setCore_handoffs (n : Nat) (k : Core) : (s.setCore n k).handoffs = s.handoffs := rfl
@[simp] theorem State.setCore_keys (n : Nat) (k : Core) : (s.setCore n k).keys = s.keys := rfl
@[simp] theorem State.setCore_charters (n : Nat) (k : Core) : (s.setCore n k).charters = s.charters := rfl
@[simp] theorem State.setCore_xfers (n : Nat) (k : Core) : (s.setCore n k).xfers = s.xfers := rfl
@[simp] theorem State.setCore_stores (n : Nat) (k : Core) : (s.setCore n k).stores = s.stores := rfl
@[simp] theorem State.setCore_ckpts (n : Nat) (k : Core) : (s.setCore n k).ckpts = s.ckpts := rfl
@[simp] theorem State.setCore_dstream (n : Nat) (k : Core) : (s.setCore n k).dstream = s.dstream := rfl
@[simp] theorem State.setCore_lc (n : Nat) (k : Core) : (s.setCore n k).lc = s.lc := rfl
@[simp] theorem State.setCore_ras (n : Nat) (k : Core) : (s.setCore n k).ras = s.ras := rfl
@[simp] theorem State.setCore_boot (n : Nat) (k : Core) : (s.setCore n k).boot = s.boot := rfl
@[simp] theorem State.setCore_pw (n : Nat) (k : Core) : (s.setCore n k).pw = s.pw := rfl

/-! ### `updCore` -/

@[simp] theorem State.updCore_pending (n : Nat) (f : Core → Core) : (s.updCore n f).pending = s.pending := rfl
@[simp] theorem State.updCore_freeCtr (n : Nat) (f : Core → Core) : (s.updCore n f).freeCtr = s.freeCtr := rfl
@[simp] theorem State.updCore_code (n : Nat) (f : Core → Core) : (s.updCore n f).code = s.code := rfl
@[simp] theorem State.updCore_dev (n : Nat) (f : Core → Core) : (s.updCore n f).dev = s.dev := rfl
@[simp] theorem State.updCore_cores (n : Nat) (f : Core → Core) : (s.updCore n f).cores = Tab.set {} s.cores n (f (s.core n)) := rfl
@[simp] theorem State.updCore_clusters (n : Nat) (f : Core → Core) : (s.updCore n f).clusters = s.clusters := rfl
@[simp] theorem State.updCore_runAhead (n : Nat) (f : Core → Core) : (s.updCore n f).runAhead = s.runAhead := rfl
@[simp] theorem State.updCore_mem (n : Nat) (f : Core → Core) : (s.updCore n f).mem = s.mem := rfl
@[simp] theorem State.updCore_major (n : Nat) (f : Core → Core) : (s.updCore n f).major = s.major := rfl
@[simp] theorem State.updCore_lines (n : Nat) (f : Core → Core) : (s.updCore n f).lines = s.lines := rfl
@[simp] theorem State.updCore_versions (n : Nat) (f : Core → Core) : (s.updCore n f).versions = s.versions := rfl
@[simp] theorem State.updCore_integ (n : Nat) (f : Core → Core) : (s.updCore n f).integ = s.integ := rfl
@[simp] theorem State.updCore_dirty (n : Nat) (f : Core → Core) : (s.updCore n f).dirty = s.dirty := rfl
@[simp] theorem State.updCore_intCache (n : Nat) (f : Core → Core) : (s.updCore n f).intCache = s.intCache := rfl
@[simp] theorem State.updCore_targets (n : Nat) (f : Core → Core) : (s.updCore n f).targets = s.targets := rfl
@[simp] theorem State.updCore_retry (n : Nat) (f : Core → Core) : (s.updCore n f).retry = s.retry := rfl
@[simp] theorem State.updCore_dramQ (n : Nat) (f : Core → Core) : (s.updCore n f).dramQ = s.dramQ := rfl
@[simp] theorem State.updCore_dramOut (n : Nat) (f : Core → Core) : (s.updCore n f).dramOut = s.dramOut := rfl
@[simp] theorem State.updCore_reqNum (n : Nat) (f : Core → Core) : (s.updCore n f).reqNum = s.reqNum := rfl
@[simp] theorem State.updCore_movWaits (n : Nat) (f : Core → Core) : (s.updCore n f).movWaits = s.movWaits := rfl
@[simp] theorem State.updCore_routes (n : Nat) (f : Core → Core) : (s.updCore n f).routes = s.routes := rfl
@[simp] theorem State.updCore_bridle (n : Nat) (f : Core → Core) : (s.updCore n f).bridle = s.bridle := rfl
@[simp] theorem State.updCore_resp (n : Nat) (f : Core → Core) : (s.updCore n f).resp = s.resp := rfl
@[simp] theorem State.updCore_hwins (n : Nat) (f : Core → Core) : (s.updCore n f).hwins = s.hwins := rfl
@[simp] theorem State.updCore_hostPages (n : Nat) (f : Core → Core) : (s.updCore n f).hostPages = s.hostPages := rfl
@[simp] theorem State.updCore_hwBase (n : Nat) (f : Core → Core) : (s.updCore n f).hwBase = s.hwBase := rfl
@[simp] theorem State.updCore_poolMap (n : Nat) (f : Core → Core) : (s.updCore n f).poolMap = s.poolMap := rfl
@[simp] theorem State.updCore_donations (n : Nat) (f : Core → Core) : (s.updCore n f).donations = s.donations := rfl
@[simp] theorem State.updCore_coord (n : Nat) (f : Core → Core) : (s.updCore n f).coord = s.coord := rfl
@[simp] theorem State.updCore_lineMeta (n : Nat) (f : Core → Core) : (s.updCore n f).lineMeta = s.lineMeta := rfl
@[simp] theorem State.updCore_pages (n : Nat) (f : Core → Core) : (s.updCore n f).pages = s.pages := rfl
@[simp] theorem State.updCore_poolSize (n : Nat) (f : Core → Core) : (s.updCore n f).poolSize = s.poolSize := rfl
@[simp] theorem State.updCore_moves (n : Nat) (f : Core → Core) : (s.updCore n f).moves = s.moves := rfl
@[simp] theorem State.updCore_promos (n : Nat) (f : Core → Core) : (s.updCore n f).promos = s.promos := rfl
@[simp] theorem State.updCore_pressure (n : Nat) (f : Core → Core) : (s.updCore n f).pressure = s.pressure := rfl
@[simp] theorem State.updCore_rekeyJobs (n : Nat) (f : Core → Core) : (s.updCore n f).rekeyJobs = s.rekeyJobs := rfl
@[simp] theorem State.updCore_rekeyQ (n : Nat) (f : Core → Core) : (s.updCore n f).rekeyQ = s.rekeyQ := rfl
@[simp] theorem State.updCore_scrubQ (n : Nat) (f : Core → Core) : (s.updCore n f).scrubQ = s.scrubQ := rfl
@[simp] theorem State.updCore_aperture (n : Nat) (f : Core → Core) : (s.updCore n f).aperture = s.aperture := rfl
@[simp] theorem State.updCore_hostMem (n : Nat) (f : Core → Core) : (s.updCore n f).hostMem = s.hostMem := rfl
@[simp] theorem State.updCore_poolMem (n : Nat) (f : Core → Core) : (s.updCore n f).poolMem = s.poolMem := rfl
@[simp] theorem State.updCore_ctxs (n : Nat) (f : Core → Core) : (s.updCore n f).ctxs = s.ctxs := rfl
@[simp] theorem State.updCore_slots (n : Nat) (f : Core → Core) : (s.updCore n f).slots = s.slots := rfl
@[simp] theorem State.updCore_fences (n : Nat) (f : Core → Core) : (s.updCore n f).fences = s.fences := rfl
@[simp] theorem State.updCore_sigQ (n : Nat) (f : Core → Core) : (s.updCore n f).sigQ = s.sigQ := rfl
@[simp] theorem State.updCore_turn (n : Nat) (f : Core → Core) : (s.updCore n f).turn = s.turn := rfl
@[simp] theorem State.updCore_devRing (n : Nat) (f : Core → Core) : (s.updCore n f).devRing = s.devRing := rfl
@[simp] theorem State.updCore_mbx (n : Nat) (f : Core → Core) : (s.updCore n f).mbx = s.mbx := rfl
@[simp] theorem State.updCore_mbxQ (n : Nat) (f : Core → Core) : (s.updCore n f).mbxQ = s.mbxQ := rfl
@[simp] theorem State.updCore_regs (n : Nat) (f : Core → Core) : (s.updCore n f).regs = s.regs := rfl
@[simp] theorem State.updCore_ctxCnt (n : Nat) (f : Core → Core) : (s.updCore n f).ctxCnt = s.ctxCnt := rfl
@[simp] theorem State.updCore_pcie (n : Nat) (f : Core → Core) : (s.updCore n f).pcie = s.pcie := rfl
@[simp] theorem State.updCore_learn (n : Nat) (f : Core → Core) : (s.updCore n f).learn = s.learn := rfl
@[simp] theorem State.updCore_upd (n : Nat) (f : Core → Core) : (s.updCore n f).upd = s.upd := rfl
@[simp] theorem State.updCore_markers (n : Nat) (f : Core → Core) : (s.updCore n f).markers = s.markers := rfl
@[simp] theorem State.updCore_ports (n : Nat) (f : Core → Core) : (s.updCore n f).ports = s.ports := rfl
@[simp] theorem State.updCore_node (n : Nat) (f : Core → Core) : (s.updCore n f).node = s.node := rfl
@[simp] theorem State.updCore_admitList (n : Nat) (f : Core → Core) : (s.updCore n f).admitList = s.admitList := rfl
@[simp] theorem State.updCore_poolReqs (n : Nat) (f : Core → Core) : (s.updCore n f).poolReqs = s.poolReqs := rfl
@[simp] theorem State.updCore_poolGot (n : Nat) (f : Core → Core) : (s.updCore n f).poolGot = s.poolGot := rfl
@[simp] theorem State.updCore_colls (n : Nat) (f : Core → Core) : (s.updCore n f).colls = s.colls := rfl
@[simp] theorem State.updCore_slotTab (n : Nat) (f : Core → Core) : (s.updCore n f).slotTab = s.slotTab := rfl
@[simp] theorem State.updCore_slotShadow (n : Nat) (f : Core → Core) : (s.updCore n f).slotShadow = s.slotShadow := rfl
@[simp] theorem State.updCore_slotSwap (n : Nat) (f : Core → Core) : (s.updCore n f).slotSwap = s.slotSwap := rfl
@[simp] theorem State.updCore_tet (n : Nat) (f : Core → Core) : (s.updCore n f).tet = s.tet := rfl
@[simp] theorem State.updCore_herds (n : Nat) (f : Core → Core) : (s.updCore n f).herds = s.herds := rfl
@[simp] theorem State.updCore_ctlOut (n : Nat) (f : Core → Core) : (s.updCore n f).ctlOut = s.ctlOut := rfl
@[simp] theorem State.updCore_handoffs (n : Nat) (f : Core → Core) : (s.updCore n f).handoffs = s.handoffs := rfl
@[simp] theorem State.updCore_keys (n : Nat) (f : Core → Core) : (s.updCore n f).keys = s.keys := rfl
@[simp] theorem State.updCore_charters (n : Nat) (f : Core → Core) : (s.updCore n f).charters = s.charters := rfl
@[simp] theorem State.updCore_xfers (n : Nat) (f : Core → Core) : (s.updCore n f).xfers = s.xfers := rfl
@[simp] theorem State.updCore_stores (n : Nat) (f : Core → Core) : (s.updCore n f).stores = s.stores := rfl
@[simp] theorem State.updCore_ckpts (n : Nat) (f : Core → Core) : (s.updCore n f).ckpts = s.ckpts := rfl
@[simp] theorem State.updCore_dstream (n : Nat) (f : Core → Core) : (s.updCore n f).dstream = s.dstream := rfl
@[simp] theorem State.updCore_lc (n : Nat) (f : Core → Core) : (s.updCore n f).lc = s.lc := rfl
@[simp] theorem State.updCore_ras (n : Nat) (f : Core → Core) : (s.updCore n f).ras = s.ras := rfl
@[simp] theorem State.updCore_boot (n : Nat) (f : Core → Core) : (s.updCore n f).boot = s.boot := rfl
@[simp] theorem State.updCore_pw (n : Nat) (f : Core → Core) : (s.updCore n f).pw = s.pw := rfl

/-! ### `updCluster` -/

@[simp] theorem State.updCluster_pending (n : Nat) (f : Cluster → Cluster) : (s.updCluster n f).pending = s.pending := rfl
@[simp] theorem State.updCluster_freeCtr (n : Nat) (f : Cluster → Cluster) : (s.updCluster n f).freeCtr = s.freeCtr := rfl
@[simp] theorem State.updCluster_code (n : Nat) (f : Cluster → Cluster) : (s.updCluster n f).code = s.code := rfl
@[simp] theorem State.updCluster_dev (n : Nat) (f : Cluster → Cluster) : (s.updCluster n f).dev = s.dev := rfl
@[simp] theorem State.updCluster_cores (n : Nat) (f : Cluster → Cluster) : (s.updCluster n f).cores = s.cores := rfl
@[simp] theorem State.updCluster_clusters (n : Nat) (f : Cluster → Cluster) : (s.updCluster n f).clusters = Tab.upd {} s.clusters n f := rfl
@[simp] theorem State.updCluster_runAhead (n : Nat) (f : Cluster → Cluster) : (s.updCluster n f).runAhead = s.runAhead := rfl
@[simp] theorem State.updCluster_mem (n : Nat) (f : Cluster → Cluster) : (s.updCluster n f).mem = s.mem := rfl
@[simp] theorem State.updCluster_major (n : Nat) (f : Cluster → Cluster) : (s.updCluster n f).major = s.major := rfl
@[simp] theorem State.updCluster_lines (n : Nat) (f : Cluster → Cluster) : (s.updCluster n f).lines = s.lines := rfl
@[simp] theorem State.updCluster_versions (n : Nat) (f : Cluster → Cluster) : (s.updCluster n f).versions = s.versions := rfl
@[simp] theorem State.updCluster_integ (n : Nat) (f : Cluster → Cluster) : (s.updCluster n f).integ = s.integ := rfl
@[simp] theorem State.updCluster_dirty (n : Nat) (f : Cluster → Cluster) : (s.updCluster n f).dirty = s.dirty := rfl
@[simp] theorem State.updCluster_intCache (n : Nat) (f : Cluster → Cluster) : (s.updCluster n f).intCache = s.intCache := rfl
@[simp] theorem State.updCluster_targets (n : Nat) (f : Cluster → Cluster) : (s.updCluster n f).targets = s.targets := rfl
@[simp] theorem State.updCluster_retry (n : Nat) (f : Cluster → Cluster) : (s.updCluster n f).retry = s.retry := rfl
@[simp] theorem State.updCluster_dramQ (n : Nat) (f : Cluster → Cluster) : (s.updCluster n f).dramQ = s.dramQ := rfl
@[simp] theorem State.updCluster_dramOut (n : Nat) (f : Cluster → Cluster) : (s.updCluster n f).dramOut = s.dramOut := rfl
@[simp] theorem State.updCluster_reqNum (n : Nat) (f : Cluster → Cluster) : (s.updCluster n f).reqNum = s.reqNum := rfl
@[simp] theorem State.updCluster_movWaits (n : Nat) (f : Cluster → Cluster) : (s.updCluster n f).movWaits = s.movWaits := rfl
@[simp] theorem State.updCluster_routes (n : Nat) (f : Cluster → Cluster) : (s.updCluster n f).routes = s.routes := rfl
@[simp] theorem State.updCluster_bridle (n : Nat) (f : Cluster → Cluster) : (s.updCluster n f).bridle = s.bridle := rfl
@[simp] theorem State.updCluster_resp (n : Nat) (f : Cluster → Cluster) : (s.updCluster n f).resp = s.resp := rfl
@[simp] theorem State.updCluster_hwins (n : Nat) (f : Cluster → Cluster) : (s.updCluster n f).hwins = s.hwins := rfl
@[simp] theorem State.updCluster_hostPages (n : Nat) (f : Cluster → Cluster) : (s.updCluster n f).hostPages = s.hostPages := rfl
@[simp] theorem State.updCluster_hwBase (n : Nat) (f : Cluster → Cluster) : (s.updCluster n f).hwBase = s.hwBase := rfl
@[simp] theorem State.updCluster_poolMap (n : Nat) (f : Cluster → Cluster) : (s.updCluster n f).poolMap = s.poolMap := rfl
@[simp] theorem State.updCluster_donations (n : Nat) (f : Cluster → Cluster) : (s.updCluster n f).donations = s.donations := rfl
@[simp] theorem State.updCluster_coord (n : Nat) (f : Cluster → Cluster) : (s.updCluster n f).coord = s.coord := rfl
@[simp] theorem State.updCluster_lineMeta (n : Nat) (f : Cluster → Cluster) : (s.updCluster n f).lineMeta = s.lineMeta := rfl
@[simp] theorem State.updCluster_pages (n : Nat) (f : Cluster → Cluster) : (s.updCluster n f).pages = s.pages := rfl
@[simp] theorem State.updCluster_poolSize (n : Nat) (f : Cluster → Cluster) : (s.updCluster n f).poolSize = s.poolSize := rfl
@[simp] theorem State.updCluster_moves (n : Nat) (f : Cluster → Cluster) : (s.updCluster n f).moves = s.moves := rfl
@[simp] theorem State.updCluster_promos (n : Nat) (f : Cluster → Cluster) : (s.updCluster n f).promos = s.promos := rfl
@[simp] theorem State.updCluster_pressure (n : Nat) (f : Cluster → Cluster) : (s.updCluster n f).pressure = s.pressure := rfl
@[simp] theorem State.updCluster_rekeyJobs (n : Nat) (f : Cluster → Cluster) : (s.updCluster n f).rekeyJobs = s.rekeyJobs := rfl
@[simp] theorem State.updCluster_rekeyQ (n : Nat) (f : Cluster → Cluster) : (s.updCluster n f).rekeyQ = s.rekeyQ := rfl
@[simp] theorem State.updCluster_scrubQ (n : Nat) (f : Cluster → Cluster) : (s.updCluster n f).scrubQ = s.scrubQ := rfl
@[simp] theorem State.updCluster_aperture (n : Nat) (f : Cluster → Cluster) : (s.updCluster n f).aperture = s.aperture := rfl
@[simp] theorem State.updCluster_hostMem (n : Nat) (f : Cluster → Cluster) : (s.updCluster n f).hostMem = s.hostMem := rfl
@[simp] theorem State.updCluster_poolMem (n : Nat) (f : Cluster → Cluster) : (s.updCluster n f).poolMem = s.poolMem := rfl
@[simp] theorem State.updCluster_ctxs (n : Nat) (f : Cluster → Cluster) : (s.updCluster n f).ctxs = s.ctxs := rfl
@[simp] theorem State.updCluster_slots (n : Nat) (f : Cluster → Cluster) : (s.updCluster n f).slots = s.slots := rfl
@[simp] theorem State.updCluster_fences (n : Nat) (f : Cluster → Cluster) : (s.updCluster n f).fences = s.fences := rfl
@[simp] theorem State.updCluster_sigQ (n : Nat) (f : Cluster → Cluster) : (s.updCluster n f).sigQ = s.sigQ := rfl
@[simp] theorem State.updCluster_turn (n : Nat) (f : Cluster → Cluster) : (s.updCluster n f).turn = s.turn := rfl
@[simp] theorem State.updCluster_devRing (n : Nat) (f : Cluster → Cluster) : (s.updCluster n f).devRing = s.devRing := rfl
@[simp] theorem State.updCluster_mbx (n : Nat) (f : Cluster → Cluster) : (s.updCluster n f).mbx = s.mbx := rfl
@[simp] theorem State.updCluster_mbxQ (n : Nat) (f : Cluster → Cluster) : (s.updCluster n f).mbxQ = s.mbxQ := rfl
@[simp] theorem State.updCluster_regs (n : Nat) (f : Cluster → Cluster) : (s.updCluster n f).regs = s.regs := rfl
@[simp] theorem State.updCluster_ctxCnt (n : Nat) (f : Cluster → Cluster) : (s.updCluster n f).ctxCnt = s.ctxCnt := rfl
@[simp] theorem State.updCluster_pcie (n : Nat) (f : Cluster → Cluster) : (s.updCluster n f).pcie = s.pcie := rfl
@[simp] theorem State.updCluster_learn (n : Nat) (f : Cluster → Cluster) : (s.updCluster n f).learn = s.learn := rfl
@[simp] theorem State.updCluster_upd (n : Nat) (f : Cluster → Cluster) : (s.updCluster n f).upd = s.upd := rfl
@[simp] theorem State.updCluster_markers (n : Nat) (f : Cluster → Cluster) : (s.updCluster n f).markers = s.markers := rfl
@[simp] theorem State.updCluster_ports (n : Nat) (f : Cluster → Cluster) : (s.updCluster n f).ports = s.ports := rfl
@[simp] theorem State.updCluster_node (n : Nat) (f : Cluster → Cluster) : (s.updCluster n f).node = s.node := rfl
@[simp] theorem State.updCluster_admitList (n : Nat) (f : Cluster → Cluster) : (s.updCluster n f).admitList = s.admitList := rfl
@[simp] theorem State.updCluster_poolReqs (n : Nat) (f : Cluster → Cluster) : (s.updCluster n f).poolReqs = s.poolReqs := rfl
@[simp] theorem State.updCluster_poolGot (n : Nat) (f : Cluster → Cluster) : (s.updCluster n f).poolGot = s.poolGot := rfl
@[simp] theorem State.updCluster_colls (n : Nat) (f : Cluster → Cluster) : (s.updCluster n f).colls = s.colls := rfl
@[simp] theorem State.updCluster_slotTab (n : Nat) (f : Cluster → Cluster) : (s.updCluster n f).slotTab = s.slotTab := rfl
@[simp] theorem State.updCluster_slotShadow (n : Nat) (f : Cluster → Cluster) : (s.updCluster n f).slotShadow = s.slotShadow := rfl
@[simp] theorem State.updCluster_slotSwap (n : Nat) (f : Cluster → Cluster) : (s.updCluster n f).slotSwap = s.slotSwap := rfl
@[simp] theorem State.updCluster_tet (n : Nat) (f : Cluster → Cluster) : (s.updCluster n f).tet = s.tet := rfl
@[simp] theorem State.updCluster_herds (n : Nat) (f : Cluster → Cluster) : (s.updCluster n f).herds = s.herds := rfl
@[simp] theorem State.updCluster_ctlOut (n : Nat) (f : Cluster → Cluster) : (s.updCluster n f).ctlOut = s.ctlOut := rfl
@[simp] theorem State.updCluster_handoffs (n : Nat) (f : Cluster → Cluster) : (s.updCluster n f).handoffs = s.handoffs := rfl
@[simp] theorem State.updCluster_keys (n : Nat) (f : Cluster → Cluster) : (s.updCluster n f).keys = s.keys := rfl
@[simp] theorem State.updCluster_charters (n : Nat) (f : Cluster → Cluster) : (s.updCluster n f).charters = s.charters := rfl
@[simp] theorem State.updCluster_xfers (n : Nat) (f : Cluster → Cluster) : (s.updCluster n f).xfers = s.xfers := rfl
@[simp] theorem State.updCluster_stores (n : Nat) (f : Cluster → Cluster) : (s.updCluster n f).stores = s.stores := rfl
@[simp] theorem State.updCluster_ckpts (n : Nat) (f : Cluster → Cluster) : (s.updCluster n f).ckpts = s.ckpts := rfl
@[simp] theorem State.updCluster_dstream (n : Nat) (f : Cluster → Cluster) : (s.updCluster n f).dstream = s.dstream := rfl
@[simp] theorem State.updCluster_lc (n : Nat) (f : Cluster → Cluster) : (s.updCluster n f).lc = s.lc := rfl
@[simp] theorem State.updCluster_ras (n : Nat) (f : Cluster → Cluster) : (s.updCluster n f).ras = s.ras := rfl
@[simp] theorem State.updCluster_boot (n : Nat) (f : Cluster → Cluster) : (s.updCluster n f).boot = s.boot := rfl
@[simp] theorem State.updCluster_pw (n : Nat) (f : Cluster → Cluster) : (s.updCluster n f).pw = s.pw := rfl

/-! ### `updCtx` -/

@[simp] theorem State.updCtx_pending (c : Nat) (f : Ctx → Ctx) : (s.updCtx c f).pending = s.pending := rfl
@[simp] theorem State.updCtx_freeCtr (c : Nat) (f : Ctx → Ctx) : (s.updCtx c f).freeCtr = s.freeCtr := rfl
@[simp] theorem State.updCtx_code (c : Nat) (f : Ctx → Ctx) : (s.updCtx c f).code = s.code := rfl
@[simp] theorem State.updCtx_dev (c : Nat) (f : Ctx → Ctx) : (s.updCtx c f).dev = s.dev := rfl
@[simp] theorem State.updCtx_cores (c : Nat) (f : Ctx → Ctx) : (s.updCtx c f).cores = s.cores := rfl
@[simp] theorem State.updCtx_clusters (c : Nat) (f : Ctx → Ctx) : (s.updCtx c f).clusters = s.clusters := rfl
@[simp] theorem State.updCtx_runAhead (c : Nat) (f : Ctx → Ctx) : (s.updCtx c f).runAhead = s.runAhead := rfl
@[simp] theorem State.updCtx_mem (c : Nat) (f : Ctx → Ctx) : (s.updCtx c f).mem = s.mem := rfl
@[simp] theorem State.updCtx_major (c : Nat) (f : Ctx → Ctx) : (s.updCtx c f).major = s.major := rfl
@[simp] theorem State.updCtx_lines (c : Nat) (f : Ctx → Ctx) : (s.updCtx c f).lines = s.lines := rfl
@[simp] theorem State.updCtx_versions (c : Nat) (f : Ctx → Ctx) : (s.updCtx c f).versions = s.versions := rfl
@[simp] theorem State.updCtx_integ (c : Nat) (f : Ctx → Ctx) : (s.updCtx c f).integ = s.integ := rfl
@[simp] theorem State.updCtx_dirty (c : Nat) (f : Ctx → Ctx) : (s.updCtx c f).dirty = s.dirty := rfl
@[simp] theorem State.updCtx_intCache (c : Nat) (f : Ctx → Ctx) : (s.updCtx c f).intCache = s.intCache := rfl
@[simp] theorem State.updCtx_targets (c : Nat) (f : Ctx → Ctx) : (s.updCtx c f).targets = s.targets := rfl
@[simp] theorem State.updCtx_retry (c : Nat) (f : Ctx → Ctx) : (s.updCtx c f).retry = s.retry := rfl
@[simp] theorem State.updCtx_dramQ (c : Nat) (f : Ctx → Ctx) : (s.updCtx c f).dramQ = s.dramQ := rfl
@[simp] theorem State.updCtx_dramOut (c : Nat) (f : Ctx → Ctx) : (s.updCtx c f).dramOut = s.dramOut := rfl
@[simp] theorem State.updCtx_reqNum (c : Nat) (f : Ctx → Ctx) : (s.updCtx c f).reqNum = s.reqNum := rfl
@[simp] theorem State.updCtx_movWaits (c : Nat) (f : Ctx → Ctx) : (s.updCtx c f).movWaits = s.movWaits := rfl
@[simp] theorem State.updCtx_routes (c : Nat) (f : Ctx → Ctx) : (s.updCtx c f).routes = s.routes := rfl
@[simp] theorem State.updCtx_bridle (c : Nat) (f : Ctx → Ctx) : (s.updCtx c f).bridle = s.bridle := rfl
@[simp] theorem State.updCtx_resp (c : Nat) (f : Ctx → Ctx) : (s.updCtx c f).resp = s.resp := rfl
@[simp] theorem State.updCtx_hwins (c : Nat) (f : Ctx → Ctx) : (s.updCtx c f).hwins = s.hwins := rfl
@[simp] theorem State.updCtx_hostPages (c : Nat) (f : Ctx → Ctx) : (s.updCtx c f).hostPages = s.hostPages := rfl
@[simp] theorem State.updCtx_hwBase (c : Nat) (f : Ctx → Ctx) : (s.updCtx c f).hwBase = s.hwBase := rfl
@[simp] theorem State.updCtx_poolMap (c : Nat) (f : Ctx → Ctx) : (s.updCtx c f).poolMap = s.poolMap := rfl
@[simp] theorem State.updCtx_donations (c : Nat) (f : Ctx → Ctx) : (s.updCtx c f).donations = s.donations := rfl
@[simp] theorem State.updCtx_coord (c : Nat) (f : Ctx → Ctx) : (s.updCtx c f).coord = s.coord := rfl
@[simp] theorem State.updCtx_lineMeta (c : Nat) (f : Ctx → Ctx) : (s.updCtx c f).lineMeta = s.lineMeta := rfl
@[simp] theorem State.updCtx_pages (c : Nat) (f : Ctx → Ctx) : (s.updCtx c f).pages = s.pages := rfl
@[simp] theorem State.updCtx_poolSize (c : Nat) (f : Ctx → Ctx) : (s.updCtx c f).poolSize = s.poolSize := rfl
@[simp] theorem State.updCtx_moves (c : Nat) (f : Ctx → Ctx) : (s.updCtx c f).moves = s.moves := rfl
@[simp] theorem State.updCtx_promos (c : Nat) (f : Ctx → Ctx) : (s.updCtx c f).promos = s.promos := rfl
@[simp] theorem State.updCtx_pressure (c : Nat) (f : Ctx → Ctx) : (s.updCtx c f).pressure = s.pressure := rfl
@[simp] theorem State.updCtx_rekeyJobs (c : Nat) (f : Ctx → Ctx) : (s.updCtx c f).rekeyJobs = s.rekeyJobs := rfl
@[simp] theorem State.updCtx_rekeyQ (c : Nat) (f : Ctx → Ctx) : (s.updCtx c f).rekeyQ = s.rekeyQ := rfl
@[simp] theorem State.updCtx_scrubQ (c : Nat) (f : Ctx → Ctx) : (s.updCtx c f).scrubQ = s.scrubQ := rfl
@[simp] theorem State.updCtx_aperture (c : Nat) (f : Ctx → Ctx) : (s.updCtx c f).aperture = s.aperture := rfl
@[simp] theorem State.updCtx_hostMem (c : Nat) (f : Ctx → Ctx) : (s.updCtx c f).hostMem = s.hostMem := rfl
@[simp] theorem State.updCtx_poolMem (c : Nat) (f : Ctx → Ctx) : (s.updCtx c f).poolMem = s.poolMem := rfl
@[simp] theorem State.updCtx_ctxs (c : Nat) (f : Ctx → Ctx) : (s.updCtx c f).ctxs = Tab.upd {} s.ctxs c f := rfl
@[simp] theorem State.updCtx_slots (c : Nat) (f : Ctx → Ctx) : (s.updCtx c f).slots = s.slots := rfl
@[simp] theorem State.updCtx_fences (c : Nat) (f : Ctx → Ctx) : (s.updCtx c f).fences = s.fences := rfl
@[simp] theorem State.updCtx_sigQ (c : Nat) (f : Ctx → Ctx) : (s.updCtx c f).sigQ = s.sigQ := rfl
@[simp] theorem State.updCtx_turn (c : Nat) (f : Ctx → Ctx) : (s.updCtx c f).turn = s.turn := rfl
@[simp] theorem State.updCtx_devRing (c : Nat) (f : Ctx → Ctx) : (s.updCtx c f).devRing = s.devRing := rfl
@[simp] theorem State.updCtx_mbx (c : Nat) (f : Ctx → Ctx) : (s.updCtx c f).mbx = s.mbx := rfl
@[simp] theorem State.updCtx_mbxQ (c : Nat) (f : Ctx → Ctx) : (s.updCtx c f).mbxQ = s.mbxQ := rfl
@[simp] theorem State.updCtx_regs (c : Nat) (f : Ctx → Ctx) : (s.updCtx c f).regs = s.regs := rfl
@[simp] theorem State.updCtx_ctxCnt (c : Nat) (f : Ctx → Ctx) : (s.updCtx c f).ctxCnt = s.ctxCnt := rfl
@[simp] theorem State.updCtx_pcie (c : Nat) (f : Ctx → Ctx) : (s.updCtx c f).pcie = s.pcie := rfl
@[simp] theorem State.updCtx_learn (c : Nat) (f : Ctx → Ctx) : (s.updCtx c f).learn = s.learn := rfl
@[simp] theorem State.updCtx_upd (c : Nat) (f : Ctx → Ctx) : (s.updCtx c f).upd = s.upd := rfl
@[simp] theorem State.updCtx_markers (c : Nat) (f : Ctx → Ctx) : (s.updCtx c f).markers = s.markers := rfl
@[simp] theorem State.updCtx_ports (c : Nat) (f : Ctx → Ctx) : (s.updCtx c f).ports = s.ports := rfl
@[simp] theorem State.updCtx_node (c : Nat) (f : Ctx → Ctx) : (s.updCtx c f).node = s.node := rfl
@[simp] theorem State.updCtx_admitList (c : Nat) (f : Ctx → Ctx) : (s.updCtx c f).admitList = s.admitList := rfl
@[simp] theorem State.updCtx_poolReqs (c : Nat) (f : Ctx → Ctx) : (s.updCtx c f).poolReqs = s.poolReqs := rfl
@[simp] theorem State.updCtx_poolGot (c : Nat) (f : Ctx → Ctx) : (s.updCtx c f).poolGot = s.poolGot := rfl
@[simp] theorem State.updCtx_colls (c : Nat) (f : Ctx → Ctx) : (s.updCtx c f).colls = s.colls := rfl
@[simp] theorem State.updCtx_slotTab (c : Nat) (f : Ctx → Ctx) : (s.updCtx c f).slotTab = s.slotTab := rfl
@[simp] theorem State.updCtx_slotShadow (c : Nat) (f : Ctx → Ctx) : (s.updCtx c f).slotShadow = s.slotShadow := rfl
@[simp] theorem State.updCtx_slotSwap (c : Nat) (f : Ctx → Ctx) : (s.updCtx c f).slotSwap = s.slotSwap := rfl
@[simp] theorem State.updCtx_tet (c : Nat) (f : Ctx → Ctx) : (s.updCtx c f).tet = s.tet := rfl
@[simp] theorem State.updCtx_herds (c : Nat) (f : Ctx → Ctx) : (s.updCtx c f).herds = s.herds := rfl
@[simp] theorem State.updCtx_ctlOut (c : Nat) (f : Ctx → Ctx) : (s.updCtx c f).ctlOut = s.ctlOut := rfl
@[simp] theorem State.updCtx_handoffs (c : Nat) (f : Ctx → Ctx) : (s.updCtx c f).handoffs = s.handoffs := rfl
@[simp] theorem State.updCtx_keys (c : Nat) (f : Ctx → Ctx) : (s.updCtx c f).keys = s.keys := rfl
@[simp] theorem State.updCtx_charters (c : Nat) (f : Ctx → Ctx) : (s.updCtx c f).charters = s.charters := rfl
@[simp] theorem State.updCtx_xfers (c : Nat) (f : Ctx → Ctx) : (s.updCtx c f).xfers = s.xfers := rfl
@[simp] theorem State.updCtx_stores (c : Nat) (f : Ctx → Ctx) : (s.updCtx c f).stores = s.stores := rfl
@[simp] theorem State.updCtx_ckpts (c : Nat) (f : Ctx → Ctx) : (s.updCtx c f).ckpts = s.ckpts := rfl
@[simp] theorem State.updCtx_dstream (c : Nat) (f : Ctx → Ctx) : (s.updCtx c f).dstream = s.dstream := rfl
@[simp] theorem State.updCtx_lc (c : Nat) (f : Ctx → Ctx) : (s.updCtx c f).lc = s.lc := rfl
@[simp] theorem State.updCtx_ras (c : Nat) (f : Ctx → Ctx) : (s.updCtx c f).ras = s.ras := rfl
@[simp] theorem State.updCtx_boot (c : Nat) (f : Ctx → Ctx) : (s.updCtx c f).boot = s.boot := rfl
@[simp] theorem State.updCtx_pw (c : Nat) (f : Ctx → Ctx) : (s.updCtx c f).pw = s.pw := rfl

/-! ### `updFence` -/

@[simp] theorem State.updFence_pending (i : Nat) (f : Fence → Fence) : (s.updFence i f).pending = s.pending := rfl
@[simp] theorem State.updFence_freeCtr (i : Nat) (f : Fence → Fence) : (s.updFence i f).freeCtr = s.freeCtr := rfl
@[simp] theorem State.updFence_code (i : Nat) (f : Fence → Fence) : (s.updFence i f).code = s.code := rfl
@[simp] theorem State.updFence_dev (i : Nat) (f : Fence → Fence) : (s.updFence i f).dev = s.dev := rfl
@[simp] theorem State.updFence_cores (i : Nat) (f : Fence → Fence) : (s.updFence i f).cores = s.cores := rfl
@[simp] theorem State.updFence_clusters (i : Nat) (f : Fence → Fence) : (s.updFence i f).clusters = s.clusters := rfl
@[simp] theorem State.updFence_runAhead (i : Nat) (f : Fence → Fence) : (s.updFence i f).runAhead = s.runAhead := rfl
@[simp] theorem State.updFence_mem (i : Nat) (f : Fence → Fence) : (s.updFence i f).mem = s.mem := rfl
@[simp] theorem State.updFence_major (i : Nat) (f : Fence → Fence) : (s.updFence i f).major = s.major := rfl
@[simp] theorem State.updFence_lines (i : Nat) (f : Fence → Fence) : (s.updFence i f).lines = s.lines := rfl
@[simp] theorem State.updFence_versions (i : Nat) (f : Fence → Fence) : (s.updFence i f).versions = s.versions := rfl
@[simp] theorem State.updFence_integ (i : Nat) (f : Fence → Fence) : (s.updFence i f).integ = s.integ := rfl
@[simp] theorem State.updFence_dirty (i : Nat) (f : Fence → Fence) : (s.updFence i f).dirty = s.dirty := rfl
@[simp] theorem State.updFence_intCache (i : Nat) (f : Fence → Fence) : (s.updFence i f).intCache = s.intCache := rfl
@[simp] theorem State.updFence_targets (i : Nat) (f : Fence → Fence) : (s.updFence i f).targets = s.targets := rfl
@[simp] theorem State.updFence_retry (i : Nat) (f : Fence → Fence) : (s.updFence i f).retry = s.retry := rfl
@[simp] theorem State.updFence_dramQ (i : Nat) (f : Fence → Fence) : (s.updFence i f).dramQ = s.dramQ := rfl
@[simp] theorem State.updFence_dramOut (i : Nat) (f : Fence → Fence) : (s.updFence i f).dramOut = s.dramOut := rfl
@[simp] theorem State.updFence_reqNum (i : Nat) (f : Fence → Fence) : (s.updFence i f).reqNum = s.reqNum := rfl
@[simp] theorem State.updFence_movWaits (i : Nat) (f : Fence → Fence) : (s.updFence i f).movWaits = s.movWaits := rfl
@[simp] theorem State.updFence_routes (i : Nat) (f : Fence → Fence) : (s.updFence i f).routes = s.routes := rfl
@[simp] theorem State.updFence_bridle (i : Nat) (f : Fence → Fence) : (s.updFence i f).bridle = s.bridle := rfl
@[simp] theorem State.updFence_resp (i : Nat) (f : Fence → Fence) : (s.updFence i f).resp = s.resp := rfl
@[simp] theorem State.updFence_hwins (i : Nat) (f : Fence → Fence) : (s.updFence i f).hwins = s.hwins := rfl
@[simp] theorem State.updFence_hostPages (i : Nat) (f : Fence → Fence) : (s.updFence i f).hostPages = s.hostPages := rfl
@[simp] theorem State.updFence_hwBase (i : Nat) (f : Fence → Fence) : (s.updFence i f).hwBase = s.hwBase := rfl
@[simp] theorem State.updFence_poolMap (i : Nat) (f : Fence → Fence) : (s.updFence i f).poolMap = s.poolMap := rfl
@[simp] theorem State.updFence_donations (i : Nat) (f : Fence → Fence) : (s.updFence i f).donations = s.donations := rfl
@[simp] theorem State.updFence_coord (i : Nat) (f : Fence → Fence) : (s.updFence i f).coord = s.coord := rfl
@[simp] theorem State.updFence_lineMeta (i : Nat) (f : Fence → Fence) : (s.updFence i f).lineMeta = s.lineMeta := rfl
@[simp] theorem State.updFence_pages (i : Nat) (f : Fence → Fence) : (s.updFence i f).pages = s.pages := rfl
@[simp] theorem State.updFence_poolSize (i : Nat) (f : Fence → Fence) : (s.updFence i f).poolSize = s.poolSize := rfl
@[simp] theorem State.updFence_moves (i : Nat) (f : Fence → Fence) : (s.updFence i f).moves = s.moves := rfl
@[simp] theorem State.updFence_promos (i : Nat) (f : Fence → Fence) : (s.updFence i f).promos = s.promos := rfl
@[simp] theorem State.updFence_pressure (i : Nat) (f : Fence → Fence) : (s.updFence i f).pressure = s.pressure := rfl
@[simp] theorem State.updFence_rekeyJobs (i : Nat) (f : Fence → Fence) : (s.updFence i f).rekeyJobs = s.rekeyJobs := rfl
@[simp] theorem State.updFence_rekeyQ (i : Nat) (f : Fence → Fence) : (s.updFence i f).rekeyQ = s.rekeyQ := rfl
@[simp] theorem State.updFence_scrubQ (i : Nat) (f : Fence → Fence) : (s.updFence i f).scrubQ = s.scrubQ := rfl
@[simp] theorem State.updFence_aperture (i : Nat) (f : Fence → Fence) : (s.updFence i f).aperture = s.aperture := rfl
@[simp] theorem State.updFence_hostMem (i : Nat) (f : Fence → Fence) : (s.updFence i f).hostMem = s.hostMem := rfl
@[simp] theorem State.updFence_poolMem (i : Nat) (f : Fence → Fence) : (s.updFence i f).poolMem = s.poolMem := rfl
@[simp] theorem State.updFence_ctxs (i : Nat) (f : Fence → Fence) : (s.updFence i f).ctxs = s.ctxs := rfl
@[simp] theorem State.updFence_slots (i : Nat) (f : Fence → Fence) : (s.updFence i f).slots = s.slots := rfl
@[simp] theorem State.updFence_fences (i : Nat) (f : Fence → Fence) : (s.updFence i f).fences = Tab.upd {} s.fences i f := rfl
@[simp] theorem State.updFence_sigQ (i : Nat) (f : Fence → Fence) : (s.updFence i f).sigQ = s.sigQ := rfl
@[simp] theorem State.updFence_turn (i : Nat) (f : Fence → Fence) : (s.updFence i f).turn = s.turn := rfl
@[simp] theorem State.updFence_devRing (i : Nat) (f : Fence → Fence) : (s.updFence i f).devRing = s.devRing := rfl
@[simp] theorem State.updFence_mbx (i : Nat) (f : Fence → Fence) : (s.updFence i f).mbx = s.mbx := rfl
@[simp] theorem State.updFence_mbxQ (i : Nat) (f : Fence → Fence) : (s.updFence i f).mbxQ = s.mbxQ := rfl
@[simp] theorem State.updFence_regs (i : Nat) (f : Fence → Fence) : (s.updFence i f).regs = s.regs := rfl
@[simp] theorem State.updFence_ctxCnt (i : Nat) (f : Fence → Fence) : (s.updFence i f).ctxCnt = s.ctxCnt := rfl
@[simp] theorem State.updFence_pcie (i : Nat) (f : Fence → Fence) : (s.updFence i f).pcie = s.pcie := rfl
@[simp] theorem State.updFence_learn (i : Nat) (f : Fence → Fence) : (s.updFence i f).learn = s.learn := rfl
@[simp] theorem State.updFence_upd (i : Nat) (f : Fence → Fence) : (s.updFence i f).upd = s.upd := rfl
@[simp] theorem State.updFence_markers (i : Nat) (f : Fence → Fence) : (s.updFence i f).markers = s.markers := rfl
@[simp] theorem State.updFence_ports (i : Nat) (f : Fence → Fence) : (s.updFence i f).ports = s.ports := rfl
@[simp] theorem State.updFence_node (i : Nat) (f : Fence → Fence) : (s.updFence i f).node = s.node := rfl
@[simp] theorem State.updFence_admitList (i : Nat) (f : Fence → Fence) : (s.updFence i f).admitList = s.admitList := rfl
@[simp] theorem State.updFence_poolReqs (i : Nat) (f : Fence → Fence) : (s.updFence i f).poolReqs = s.poolReqs := rfl
@[simp] theorem State.updFence_poolGot (i : Nat) (f : Fence → Fence) : (s.updFence i f).poolGot = s.poolGot := rfl
@[simp] theorem State.updFence_colls (i : Nat) (f : Fence → Fence) : (s.updFence i f).colls = s.colls := rfl
@[simp] theorem State.updFence_slotTab (i : Nat) (f : Fence → Fence) : (s.updFence i f).slotTab = s.slotTab := rfl
@[simp] theorem State.updFence_slotShadow (i : Nat) (f : Fence → Fence) : (s.updFence i f).slotShadow = s.slotShadow := rfl
@[simp] theorem State.updFence_slotSwap (i : Nat) (f : Fence → Fence) : (s.updFence i f).slotSwap = s.slotSwap := rfl
@[simp] theorem State.updFence_tet (i : Nat) (f : Fence → Fence) : (s.updFence i f).tet = s.tet := rfl
@[simp] theorem State.updFence_herds (i : Nat) (f : Fence → Fence) : (s.updFence i f).herds = s.herds := rfl
@[simp] theorem State.updFence_ctlOut (i : Nat) (f : Fence → Fence) : (s.updFence i f).ctlOut = s.ctlOut := rfl
@[simp] theorem State.updFence_handoffs (i : Nat) (f : Fence → Fence) : (s.updFence i f).handoffs = s.handoffs := rfl
@[simp] theorem State.updFence_keys (i : Nat) (f : Fence → Fence) : (s.updFence i f).keys = s.keys := rfl
@[simp] theorem State.updFence_charters (i : Nat) (f : Fence → Fence) : (s.updFence i f).charters = s.charters := rfl
@[simp] theorem State.updFence_xfers (i : Nat) (f : Fence → Fence) : (s.updFence i f).xfers = s.xfers := rfl
@[simp] theorem State.updFence_stores (i : Nat) (f : Fence → Fence) : (s.updFence i f).stores = s.stores := rfl
@[simp] theorem State.updFence_ckpts (i : Nat) (f : Fence → Fence) : (s.updFence i f).ckpts = s.ckpts := rfl
@[simp] theorem State.updFence_dstream (i : Nat) (f : Fence → Fence) : (s.updFence i f).dstream = s.dstream := rfl
@[simp] theorem State.updFence_lc (i : Nat) (f : Fence → Fence) : (s.updFence i f).lc = s.lc := rfl
@[simp] theorem State.updFence_ras (i : Nat) (f : Fence → Fence) : (s.updFence i f).ras = s.ras := rfl
@[simp] theorem State.updFence_boot (i : Nat) (f : Fence → Fence) : (s.updFence i f).boot = s.boot := rfl
@[simp] theorem State.updFence_pw (i : Nat) (f : Fence → Fence) : (s.updFence i f).pw = s.pw := rfl

/-! ### `updTarget` -/

@[simp] theorem State.updTarget_pending (i : Nat) (f : Target → Target) : (s.updTarget i f).pending = s.pending := rfl
@[simp] theorem State.updTarget_freeCtr (i : Nat) (f : Target → Target) : (s.updTarget i f).freeCtr = s.freeCtr := rfl
@[simp] theorem State.updTarget_code (i : Nat) (f : Target → Target) : (s.updTarget i f).code = s.code := rfl
@[simp] theorem State.updTarget_dev (i : Nat) (f : Target → Target) : (s.updTarget i f).dev = s.dev := rfl
@[simp] theorem State.updTarget_cores (i : Nat) (f : Target → Target) : (s.updTarget i f).cores = s.cores := rfl
@[simp] theorem State.updTarget_clusters (i : Nat) (f : Target → Target) : (s.updTarget i f).clusters = s.clusters := rfl
@[simp] theorem State.updTarget_runAhead (i : Nat) (f : Target → Target) : (s.updTarget i f).runAhead = s.runAhead := rfl
@[simp] theorem State.updTarget_mem (i : Nat) (f : Target → Target) : (s.updTarget i f).mem = s.mem := rfl
@[simp] theorem State.updTarget_major (i : Nat) (f : Target → Target) : (s.updTarget i f).major = s.major := rfl
@[simp] theorem State.updTarget_lines (i : Nat) (f : Target → Target) : (s.updTarget i f).lines = s.lines := rfl
@[simp] theorem State.updTarget_versions (i : Nat) (f : Target → Target) : (s.updTarget i f).versions = s.versions := rfl
@[simp] theorem State.updTarget_integ (i : Nat) (f : Target → Target) : (s.updTarget i f).integ = s.integ := rfl
@[simp] theorem State.updTarget_dirty (i : Nat) (f : Target → Target) : (s.updTarget i f).dirty = s.dirty := rfl
@[simp] theorem State.updTarget_intCache (i : Nat) (f : Target → Target) : (s.updTarget i f).intCache = s.intCache := rfl
@[simp] theorem State.updTarget_targets (i : Nat) (f : Target → Target) : (s.updTarget i f).targets = Tab.upd {} s.targets i f := rfl
@[simp] theorem State.updTarget_retry (i : Nat) (f : Target → Target) : (s.updTarget i f).retry = s.retry := rfl
@[simp] theorem State.updTarget_dramQ (i : Nat) (f : Target → Target) : (s.updTarget i f).dramQ = s.dramQ := rfl
@[simp] theorem State.updTarget_dramOut (i : Nat) (f : Target → Target) : (s.updTarget i f).dramOut = s.dramOut := rfl
@[simp] theorem State.updTarget_reqNum (i : Nat) (f : Target → Target) : (s.updTarget i f).reqNum = s.reqNum := rfl
@[simp] theorem State.updTarget_movWaits (i : Nat) (f : Target → Target) : (s.updTarget i f).movWaits = s.movWaits := rfl
@[simp] theorem State.updTarget_routes (i : Nat) (f : Target → Target) : (s.updTarget i f).routes = s.routes := rfl
@[simp] theorem State.updTarget_bridle (i : Nat) (f : Target → Target) : (s.updTarget i f).bridle = s.bridle := rfl
@[simp] theorem State.updTarget_resp (i : Nat) (f : Target → Target) : (s.updTarget i f).resp = s.resp := rfl
@[simp] theorem State.updTarget_hwins (i : Nat) (f : Target → Target) : (s.updTarget i f).hwins = s.hwins := rfl
@[simp] theorem State.updTarget_hostPages (i : Nat) (f : Target → Target) : (s.updTarget i f).hostPages = s.hostPages := rfl
@[simp] theorem State.updTarget_hwBase (i : Nat) (f : Target → Target) : (s.updTarget i f).hwBase = s.hwBase := rfl
@[simp] theorem State.updTarget_poolMap (i : Nat) (f : Target → Target) : (s.updTarget i f).poolMap = s.poolMap := rfl
@[simp] theorem State.updTarget_donations (i : Nat) (f : Target → Target) : (s.updTarget i f).donations = s.donations := rfl
@[simp] theorem State.updTarget_coord (i : Nat) (f : Target → Target) : (s.updTarget i f).coord = s.coord := rfl
@[simp] theorem State.updTarget_lineMeta (i : Nat) (f : Target → Target) : (s.updTarget i f).lineMeta = s.lineMeta := rfl
@[simp] theorem State.updTarget_pages (i : Nat) (f : Target → Target) : (s.updTarget i f).pages = s.pages := rfl
@[simp] theorem State.updTarget_poolSize (i : Nat) (f : Target → Target) : (s.updTarget i f).poolSize = s.poolSize := rfl
@[simp] theorem State.updTarget_moves (i : Nat) (f : Target → Target) : (s.updTarget i f).moves = s.moves := rfl
@[simp] theorem State.updTarget_promos (i : Nat) (f : Target → Target) : (s.updTarget i f).promos = s.promos := rfl
@[simp] theorem State.updTarget_pressure (i : Nat) (f : Target → Target) : (s.updTarget i f).pressure = s.pressure := rfl
@[simp] theorem State.updTarget_rekeyJobs (i : Nat) (f : Target → Target) : (s.updTarget i f).rekeyJobs = s.rekeyJobs := rfl
@[simp] theorem State.updTarget_rekeyQ (i : Nat) (f : Target → Target) : (s.updTarget i f).rekeyQ = s.rekeyQ := rfl
@[simp] theorem State.updTarget_scrubQ (i : Nat) (f : Target → Target) : (s.updTarget i f).scrubQ = s.scrubQ := rfl
@[simp] theorem State.updTarget_aperture (i : Nat) (f : Target → Target) : (s.updTarget i f).aperture = s.aperture := rfl
@[simp] theorem State.updTarget_hostMem (i : Nat) (f : Target → Target) : (s.updTarget i f).hostMem = s.hostMem := rfl
@[simp] theorem State.updTarget_poolMem (i : Nat) (f : Target → Target) : (s.updTarget i f).poolMem = s.poolMem := rfl
@[simp] theorem State.updTarget_ctxs (i : Nat) (f : Target → Target) : (s.updTarget i f).ctxs = s.ctxs := rfl
@[simp] theorem State.updTarget_slots (i : Nat) (f : Target → Target) : (s.updTarget i f).slots = s.slots := rfl
@[simp] theorem State.updTarget_fences (i : Nat) (f : Target → Target) : (s.updTarget i f).fences = s.fences := rfl
@[simp] theorem State.updTarget_sigQ (i : Nat) (f : Target → Target) : (s.updTarget i f).sigQ = s.sigQ := rfl
@[simp] theorem State.updTarget_turn (i : Nat) (f : Target → Target) : (s.updTarget i f).turn = s.turn := rfl
@[simp] theorem State.updTarget_devRing (i : Nat) (f : Target → Target) : (s.updTarget i f).devRing = s.devRing := rfl
@[simp] theorem State.updTarget_mbx (i : Nat) (f : Target → Target) : (s.updTarget i f).mbx = s.mbx := rfl
@[simp] theorem State.updTarget_mbxQ (i : Nat) (f : Target → Target) : (s.updTarget i f).mbxQ = s.mbxQ := rfl
@[simp] theorem State.updTarget_regs (i : Nat) (f : Target → Target) : (s.updTarget i f).regs = s.regs := rfl
@[simp] theorem State.updTarget_ctxCnt (i : Nat) (f : Target → Target) : (s.updTarget i f).ctxCnt = s.ctxCnt := rfl
@[simp] theorem State.updTarget_pcie (i : Nat) (f : Target → Target) : (s.updTarget i f).pcie = s.pcie := rfl
@[simp] theorem State.updTarget_learn (i : Nat) (f : Target → Target) : (s.updTarget i f).learn = s.learn := rfl
@[simp] theorem State.updTarget_upd (i : Nat) (f : Target → Target) : (s.updTarget i f).upd = s.upd := rfl
@[simp] theorem State.updTarget_markers (i : Nat) (f : Target → Target) : (s.updTarget i f).markers = s.markers := rfl
@[simp] theorem State.updTarget_ports (i : Nat) (f : Target → Target) : (s.updTarget i f).ports = s.ports := rfl
@[simp] theorem State.updTarget_node (i : Nat) (f : Target → Target) : (s.updTarget i f).node = s.node := rfl
@[simp] theorem State.updTarget_admitList (i : Nat) (f : Target → Target) : (s.updTarget i f).admitList = s.admitList := rfl
@[simp] theorem State.updTarget_poolReqs (i : Nat) (f : Target → Target) : (s.updTarget i f).poolReqs = s.poolReqs := rfl
@[simp] theorem State.updTarget_poolGot (i : Nat) (f : Target → Target) : (s.updTarget i f).poolGot = s.poolGot := rfl
@[simp] theorem State.updTarget_colls (i : Nat) (f : Target → Target) : (s.updTarget i f).colls = s.colls := rfl
@[simp] theorem State.updTarget_slotTab (i : Nat) (f : Target → Target) : (s.updTarget i f).slotTab = s.slotTab := rfl
@[simp] theorem State.updTarget_slotShadow (i : Nat) (f : Target → Target) : (s.updTarget i f).slotShadow = s.slotShadow := rfl
@[simp] theorem State.updTarget_slotSwap (i : Nat) (f : Target → Target) : (s.updTarget i f).slotSwap = s.slotSwap := rfl
@[simp] theorem State.updTarget_tet (i : Nat) (f : Target → Target) : (s.updTarget i f).tet = s.tet := rfl
@[simp] theorem State.updTarget_herds (i : Nat) (f : Target → Target) : (s.updTarget i f).herds = s.herds := rfl
@[simp] theorem State.updTarget_ctlOut (i : Nat) (f : Target → Target) : (s.updTarget i f).ctlOut = s.ctlOut := rfl
@[simp] theorem State.updTarget_handoffs (i : Nat) (f : Target → Target) : (s.updTarget i f).handoffs = s.handoffs := rfl
@[simp] theorem State.updTarget_keys (i : Nat) (f : Target → Target) : (s.updTarget i f).keys = s.keys := rfl
@[simp] theorem State.updTarget_charters (i : Nat) (f : Target → Target) : (s.updTarget i f).charters = s.charters := rfl
@[simp] theorem State.updTarget_xfers (i : Nat) (f : Target → Target) : (s.updTarget i f).xfers = s.xfers := rfl
@[simp] theorem State.updTarget_stores (i : Nat) (f : Target → Target) : (s.updTarget i f).stores = s.stores := rfl
@[simp] theorem State.updTarget_ckpts (i : Nat) (f : Target → Target) : (s.updTarget i f).ckpts = s.ckpts := rfl
@[simp] theorem State.updTarget_dstream (i : Nat) (f : Target → Target) : (s.updTarget i f).dstream = s.dstream := rfl
@[simp] theorem State.updTarget_lc (i : Nat) (f : Target → Target) : (s.updTarget i f).lc = s.lc := rfl
@[simp] theorem State.updTarget_ras (i : Nat) (f : Target → Target) : (s.updTarget i f).ras = s.ras := rfl
@[simp] theorem State.updTarget_boot (i : Nat) (f : Target → Target) : (s.updTarget i f).boot = s.boot := rfl
@[simp] theorem State.updTarget_pw (i : Nat) (f : Target → Target) : (s.updTarget i f).pw = s.pw := rfl

/-! ### `updPort` -/

@[simp] theorem State.updPort_pending (p : Nat) (f : Port → Port) : (s.updPort p f).pending = s.pending := rfl
@[simp] theorem State.updPort_freeCtr (p : Nat) (f : Port → Port) : (s.updPort p f).freeCtr = s.freeCtr := rfl
@[simp] theorem State.updPort_code (p : Nat) (f : Port → Port) : (s.updPort p f).code = s.code := rfl
@[simp] theorem State.updPort_dev (p : Nat) (f : Port → Port) : (s.updPort p f).dev = s.dev := rfl
@[simp] theorem State.updPort_cores (p : Nat) (f : Port → Port) : (s.updPort p f).cores = s.cores := rfl
@[simp] theorem State.updPort_clusters (p : Nat) (f : Port → Port) : (s.updPort p f).clusters = s.clusters := rfl
@[simp] theorem State.updPort_runAhead (p : Nat) (f : Port → Port) : (s.updPort p f).runAhead = s.runAhead := rfl
@[simp] theorem State.updPort_mem (p : Nat) (f : Port → Port) : (s.updPort p f).mem = s.mem := rfl
@[simp] theorem State.updPort_major (p : Nat) (f : Port → Port) : (s.updPort p f).major = s.major := rfl
@[simp] theorem State.updPort_lines (p : Nat) (f : Port → Port) : (s.updPort p f).lines = s.lines := rfl
@[simp] theorem State.updPort_versions (p : Nat) (f : Port → Port) : (s.updPort p f).versions = s.versions := rfl
@[simp] theorem State.updPort_integ (p : Nat) (f : Port → Port) : (s.updPort p f).integ = s.integ := rfl
@[simp] theorem State.updPort_dirty (p : Nat) (f : Port → Port) : (s.updPort p f).dirty = s.dirty := rfl
@[simp] theorem State.updPort_intCache (p : Nat) (f : Port → Port) : (s.updPort p f).intCache = s.intCache := rfl
@[simp] theorem State.updPort_targets (p : Nat) (f : Port → Port) : (s.updPort p f).targets = s.targets := rfl
@[simp] theorem State.updPort_retry (p : Nat) (f : Port → Port) : (s.updPort p f).retry = s.retry := rfl
@[simp] theorem State.updPort_dramQ (p : Nat) (f : Port → Port) : (s.updPort p f).dramQ = s.dramQ := rfl
@[simp] theorem State.updPort_dramOut (p : Nat) (f : Port → Port) : (s.updPort p f).dramOut = s.dramOut := rfl
@[simp] theorem State.updPort_reqNum (p : Nat) (f : Port → Port) : (s.updPort p f).reqNum = s.reqNum := rfl
@[simp] theorem State.updPort_movWaits (p : Nat) (f : Port → Port) : (s.updPort p f).movWaits = s.movWaits := rfl
@[simp] theorem State.updPort_routes (p : Nat) (f : Port → Port) : (s.updPort p f).routes = s.routes := rfl
@[simp] theorem State.updPort_bridle (p : Nat) (f : Port → Port) : (s.updPort p f).bridle = s.bridle := rfl
@[simp] theorem State.updPort_resp (p : Nat) (f : Port → Port) : (s.updPort p f).resp = s.resp := rfl
@[simp] theorem State.updPort_hwins (p : Nat) (f : Port → Port) : (s.updPort p f).hwins = s.hwins := rfl
@[simp] theorem State.updPort_hostPages (p : Nat) (f : Port → Port) : (s.updPort p f).hostPages = s.hostPages := rfl
@[simp] theorem State.updPort_hwBase (p : Nat) (f : Port → Port) : (s.updPort p f).hwBase = s.hwBase := rfl
@[simp] theorem State.updPort_poolMap (p : Nat) (f : Port → Port) : (s.updPort p f).poolMap = s.poolMap := rfl
@[simp] theorem State.updPort_donations (p : Nat) (f : Port → Port) : (s.updPort p f).donations = s.donations := rfl
@[simp] theorem State.updPort_coord (p : Nat) (f : Port → Port) : (s.updPort p f).coord = s.coord := rfl
@[simp] theorem State.updPort_lineMeta (p : Nat) (f : Port → Port) : (s.updPort p f).lineMeta = s.lineMeta := rfl
@[simp] theorem State.updPort_pages (p : Nat) (f : Port → Port) : (s.updPort p f).pages = s.pages := rfl
@[simp] theorem State.updPort_poolSize (p : Nat) (f : Port → Port) : (s.updPort p f).poolSize = s.poolSize := rfl
@[simp] theorem State.updPort_moves (p : Nat) (f : Port → Port) : (s.updPort p f).moves = s.moves := rfl
@[simp] theorem State.updPort_promos (p : Nat) (f : Port → Port) : (s.updPort p f).promos = s.promos := rfl
@[simp] theorem State.updPort_pressure (p : Nat) (f : Port → Port) : (s.updPort p f).pressure = s.pressure := rfl
@[simp] theorem State.updPort_rekeyJobs (p : Nat) (f : Port → Port) : (s.updPort p f).rekeyJobs = s.rekeyJobs := rfl
@[simp] theorem State.updPort_rekeyQ (p : Nat) (f : Port → Port) : (s.updPort p f).rekeyQ = s.rekeyQ := rfl
@[simp] theorem State.updPort_scrubQ (p : Nat) (f : Port → Port) : (s.updPort p f).scrubQ = s.scrubQ := rfl
@[simp] theorem State.updPort_aperture (p : Nat) (f : Port → Port) : (s.updPort p f).aperture = s.aperture := rfl
@[simp] theorem State.updPort_hostMem (p : Nat) (f : Port → Port) : (s.updPort p f).hostMem = s.hostMem := rfl
@[simp] theorem State.updPort_poolMem (p : Nat) (f : Port → Port) : (s.updPort p f).poolMem = s.poolMem := rfl
@[simp] theorem State.updPort_ctxs (p : Nat) (f : Port → Port) : (s.updPort p f).ctxs = s.ctxs := rfl
@[simp] theorem State.updPort_slots (p : Nat) (f : Port → Port) : (s.updPort p f).slots = s.slots := rfl
@[simp] theorem State.updPort_fences (p : Nat) (f : Port → Port) : (s.updPort p f).fences = s.fences := rfl
@[simp] theorem State.updPort_sigQ (p : Nat) (f : Port → Port) : (s.updPort p f).sigQ = s.sigQ := rfl
@[simp] theorem State.updPort_turn (p : Nat) (f : Port → Port) : (s.updPort p f).turn = s.turn := rfl
@[simp] theorem State.updPort_devRing (p : Nat) (f : Port → Port) : (s.updPort p f).devRing = s.devRing := rfl
@[simp] theorem State.updPort_mbx (p : Nat) (f : Port → Port) : (s.updPort p f).mbx = s.mbx := rfl
@[simp] theorem State.updPort_mbxQ (p : Nat) (f : Port → Port) : (s.updPort p f).mbxQ = s.mbxQ := rfl
@[simp] theorem State.updPort_regs (p : Nat) (f : Port → Port) : (s.updPort p f).regs = s.regs := rfl
@[simp] theorem State.updPort_ctxCnt (p : Nat) (f : Port → Port) : (s.updPort p f).ctxCnt = s.ctxCnt := rfl
@[simp] theorem State.updPort_pcie (p : Nat) (f : Port → Port) : (s.updPort p f).pcie = s.pcie := rfl
@[simp] theorem State.updPort_learn (p : Nat) (f : Port → Port) : (s.updPort p f).learn = s.learn := rfl
@[simp] theorem State.updPort_upd (p : Nat) (f : Port → Port) : (s.updPort p f).upd = s.upd := rfl
@[simp] theorem State.updPort_markers (p : Nat) (f : Port → Port) : (s.updPort p f).markers = s.markers := rfl
@[simp] theorem State.updPort_ports (p : Nat) (f : Port → Port) : (s.updPort p f).ports = Tab.upd {} s.ports p f := rfl
@[simp] theorem State.updPort_node (p : Nat) (f : Port → Port) : (s.updPort p f).node = s.node := rfl
@[simp] theorem State.updPort_admitList (p : Nat) (f : Port → Port) : (s.updPort p f).admitList = s.admitList := rfl
@[simp] theorem State.updPort_poolReqs (p : Nat) (f : Port → Port) : (s.updPort p f).poolReqs = s.poolReqs := rfl
@[simp] theorem State.updPort_poolGot (p : Nat) (f : Port → Port) : (s.updPort p f).poolGot = s.poolGot := rfl
@[simp] theorem State.updPort_colls (p : Nat) (f : Port → Port) : (s.updPort p f).colls = s.colls := rfl
@[simp] theorem State.updPort_slotTab (p : Nat) (f : Port → Port) : (s.updPort p f).slotTab = s.slotTab := rfl
@[simp] theorem State.updPort_slotShadow (p : Nat) (f : Port → Port) : (s.updPort p f).slotShadow = s.slotShadow := rfl
@[simp] theorem State.updPort_slotSwap (p : Nat) (f : Port → Port) : (s.updPort p f).slotSwap = s.slotSwap := rfl
@[simp] theorem State.updPort_tet (p : Nat) (f : Port → Port) : (s.updPort p f).tet = s.tet := rfl
@[simp] theorem State.updPort_herds (p : Nat) (f : Port → Port) : (s.updPort p f).herds = s.herds := rfl
@[simp] theorem State.updPort_ctlOut (p : Nat) (f : Port → Port) : (s.updPort p f).ctlOut = s.ctlOut := rfl
@[simp] theorem State.updPort_handoffs (p : Nat) (f : Port → Port) : (s.updPort p f).handoffs = s.handoffs := rfl
@[simp] theorem State.updPort_keys (p : Nat) (f : Port → Port) : (s.updPort p f).keys = s.keys := rfl
@[simp] theorem State.updPort_charters (p : Nat) (f : Port → Port) : (s.updPort p f).charters = s.charters := rfl
@[simp] theorem State.updPort_xfers (p : Nat) (f : Port → Port) : (s.updPort p f).xfers = s.xfers := rfl
@[simp] theorem State.updPort_stores (p : Nat) (f : Port → Port) : (s.updPort p f).stores = s.stores := rfl
@[simp] theorem State.updPort_ckpts (p : Nat) (f : Port → Port) : (s.updPort p f).ckpts = s.ckpts := rfl
@[simp] theorem State.updPort_dstream (p : Nat) (f : Port → Port) : (s.updPort p f).dstream = s.dstream := rfl
@[simp] theorem State.updPort_lc (p : Nat) (f : Port → Port) : (s.updPort p f).lc = s.lc := rfl
@[simp] theorem State.updPort_ras (p : Nat) (f : Port → Port) : (s.updPort p f).ras = s.ras := rfl
@[simp] theorem State.updPort_boot (p : Nat) (f : Port → Port) : (s.updPort p f).boot = s.boot := rfl
@[simp] theorem State.updPort_pw (p : Nat) (f : Port → Port) : (s.updPort p f).pw = s.pw := rfl

/-! ### `updColl` -/

@[simp] theorem State.updColl_pending (c : Nat) (f : Coll → Coll) : (s.updColl c f).pending = s.pending := rfl
@[simp] theorem State.updColl_freeCtr (c : Nat) (f : Coll → Coll) : (s.updColl c f).freeCtr = s.freeCtr := rfl
@[simp] theorem State.updColl_code (c : Nat) (f : Coll → Coll) : (s.updColl c f).code = s.code := rfl
@[simp] theorem State.updColl_dev (c : Nat) (f : Coll → Coll) : (s.updColl c f).dev = s.dev := rfl
@[simp] theorem State.updColl_cores (c : Nat) (f : Coll → Coll) : (s.updColl c f).cores = s.cores := rfl
@[simp] theorem State.updColl_clusters (c : Nat) (f : Coll → Coll) : (s.updColl c f).clusters = s.clusters := rfl
@[simp] theorem State.updColl_runAhead (c : Nat) (f : Coll → Coll) : (s.updColl c f).runAhead = s.runAhead := rfl
@[simp] theorem State.updColl_mem (c : Nat) (f : Coll → Coll) : (s.updColl c f).mem = s.mem := rfl
@[simp] theorem State.updColl_major (c : Nat) (f : Coll → Coll) : (s.updColl c f).major = s.major := rfl
@[simp] theorem State.updColl_lines (c : Nat) (f : Coll → Coll) : (s.updColl c f).lines = s.lines := rfl
@[simp] theorem State.updColl_versions (c : Nat) (f : Coll → Coll) : (s.updColl c f).versions = s.versions := rfl
@[simp] theorem State.updColl_integ (c : Nat) (f : Coll → Coll) : (s.updColl c f).integ = s.integ := rfl
@[simp] theorem State.updColl_dirty (c : Nat) (f : Coll → Coll) : (s.updColl c f).dirty = s.dirty := rfl
@[simp] theorem State.updColl_intCache (c : Nat) (f : Coll → Coll) : (s.updColl c f).intCache = s.intCache := rfl
@[simp] theorem State.updColl_targets (c : Nat) (f : Coll → Coll) : (s.updColl c f).targets = s.targets := rfl
@[simp] theorem State.updColl_retry (c : Nat) (f : Coll → Coll) : (s.updColl c f).retry = s.retry := rfl
@[simp] theorem State.updColl_dramQ (c : Nat) (f : Coll → Coll) : (s.updColl c f).dramQ = s.dramQ := rfl
@[simp] theorem State.updColl_dramOut (c : Nat) (f : Coll → Coll) : (s.updColl c f).dramOut = s.dramOut := rfl
@[simp] theorem State.updColl_reqNum (c : Nat) (f : Coll → Coll) : (s.updColl c f).reqNum = s.reqNum := rfl
@[simp] theorem State.updColl_movWaits (c : Nat) (f : Coll → Coll) : (s.updColl c f).movWaits = s.movWaits := rfl
@[simp] theorem State.updColl_routes (c : Nat) (f : Coll → Coll) : (s.updColl c f).routes = s.routes := rfl
@[simp] theorem State.updColl_bridle (c : Nat) (f : Coll → Coll) : (s.updColl c f).bridle = s.bridle := rfl
@[simp] theorem State.updColl_resp (c : Nat) (f : Coll → Coll) : (s.updColl c f).resp = s.resp := rfl
@[simp] theorem State.updColl_hwins (c : Nat) (f : Coll → Coll) : (s.updColl c f).hwins = s.hwins := rfl
@[simp] theorem State.updColl_hostPages (c : Nat) (f : Coll → Coll) : (s.updColl c f).hostPages = s.hostPages := rfl
@[simp] theorem State.updColl_hwBase (c : Nat) (f : Coll → Coll) : (s.updColl c f).hwBase = s.hwBase := rfl
@[simp] theorem State.updColl_poolMap (c : Nat) (f : Coll → Coll) : (s.updColl c f).poolMap = s.poolMap := rfl
@[simp] theorem State.updColl_donations (c : Nat) (f : Coll → Coll) : (s.updColl c f).donations = s.donations := rfl
@[simp] theorem State.updColl_coord (c : Nat) (f : Coll → Coll) : (s.updColl c f).coord = s.coord := rfl
@[simp] theorem State.updColl_lineMeta (c : Nat) (f : Coll → Coll) : (s.updColl c f).lineMeta = s.lineMeta := rfl
@[simp] theorem State.updColl_pages (c : Nat) (f : Coll → Coll) : (s.updColl c f).pages = s.pages := rfl
@[simp] theorem State.updColl_poolSize (c : Nat) (f : Coll → Coll) : (s.updColl c f).poolSize = s.poolSize := rfl
@[simp] theorem State.updColl_moves (c : Nat) (f : Coll → Coll) : (s.updColl c f).moves = s.moves := rfl
@[simp] theorem State.updColl_promos (c : Nat) (f : Coll → Coll) : (s.updColl c f).promos = s.promos := rfl
@[simp] theorem State.updColl_pressure (c : Nat) (f : Coll → Coll) : (s.updColl c f).pressure = s.pressure := rfl
@[simp] theorem State.updColl_rekeyJobs (c : Nat) (f : Coll → Coll) : (s.updColl c f).rekeyJobs = s.rekeyJobs := rfl
@[simp] theorem State.updColl_rekeyQ (c : Nat) (f : Coll → Coll) : (s.updColl c f).rekeyQ = s.rekeyQ := rfl
@[simp] theorem State.updColl_scrubQ (c : Nat) (f : Coll → Coll) : (s.updColl c f).scrubQ = s.scrubQ := rfl
@[simp] theorem State.updColl_aperture (c : Nat) (f : Coll → Coll) : (s.updColl c f).aperture = s.aperture := rfl
@[simp] theorem State.updColl_hostMem (c : Nat) (f : Coll → Coll) : (s.updColl c f).hostMem = s.hostMem := rfl
@[simp] theorem State.updColl_poolMem (c : Nat) (f : Coll → Coll) : (s.updColl c f).poolMem = s.poolMem := rfl
@[simp] theorem State.updColl_ctxs (c : Nat) (f : Coll → Coll) : (s.updColl c f).ctxs = s.ctxs := rfl
@[simp] theorem State.updColl_slots (c : Nat) (f : Coll → Coll) : (s.updColl c f).slots = s.slots := rfl
@[simp] theorem State.updColl_fences (c : Nat) (f : Coll → Coll) : (s.updColl c f).fences = s.fences := rfl
@[simp] theorem State.updColl_sigQ (c : Nat) (f : Coll → Coll) : (s.updColl c f).sigQ = s.sigQ := rfl
@[simp] theorem State.updColl_turn (c : Nat) (f : Coll → Coll) : (s.updColl c f).turn = s.turn := rfl
@[simp] theorem State.updColl_devRing (c : Nat) (f : Coll → Coll) : (s.updColl c f).devRing = s.devRing := rfl
@[simp] theorem State.updColl_mbx (c : Nat) (f : Coll → Coll) : (s.updColl c f).mbx = s.mbx := rfl
@[simp] theorem State.updColl_mbxQ (c : Nat) (f : Coll → Coll) : (s.updColl c f).mbxQ = s.mbxQ := rfl
@[simp] theorem State.updColl_regs (c : Nat) (f : Coll → Coll) : (s.updColl c f).regs = s.regs := rfl
@[simp] theorem State.updColl_ctxCnt (c : Nat) (f : Coll → Coll) : (s.updColl c f).ctxCnt = s.ctxCnt := rfl
@[simp] theorem State.updColl_pcie (c : Nat) (f : Coll → Coll) : (s.updColl c f).pcie = s.pcie := rfl
@[simp] theorem State.updColl_learn (c : Nat) (f : Coll → Coll) : (s.updColl c f).learn = s.learn := rfl
@[simp] theorem State.updColl_upd (c : Nat) (f : Coll → Coll) : (s.updColl c f).upd = s.upd := rfl
@[simp] theorem State.updColl_markers (c : Nat) (f : Coll → Coll) : (s.updColl c f).markers = s.markers := rfl
@[simp] theorem State.updColl_ports (c : Nat) (f : Coll → Coll) : (s.updColl c f).ports = s.ports := rfl
@[simp] theorem State.updColl_node (c : Nat) (f : Coll → Coll) : (s.updColl c f).node = s.node := rfl
@[simp] theorem State.updColl_admitList (c : Nat) (f : Coll → Coll) : (s.updColl c f).admitList = s.admitList := rfl
@[simp] theorem State.updColl_poolReqs (c : Nat) (f : Coll → Coll) : (s.updColl c f).poolReqs = s.poolReqs := rfl
@[simp] theorem State.updColl_poolGot (c : Nat) (f : Coll → Coll) : (s.updColl c f).poolGot = s.poolGot := rfl
@[simp] theorem State.updColl_colls (c : Nat) (f : Coll → Coll) : (s.updColl c f).colls = Tab.upd {} s.colls c f := rfl
@[simp] theorem State.updColl_slotTab (c : Nat) (f : Coll → Coll) : (s.updColl c f).slotTab = s.slotTab := rfl
@[simp] theorem State.updColl_slotShadow (c : Nat) (f : Coll → Coll) : (s.updColl c f).slotShadow = s.slotShadow := rfl
@[simp] theorem State.updColl_slotSwap (c : Nat) (f : Coll → Coll) : (s.updColl c f).slotSwap = s.slotSwap := rfl
@[simp] theorem State.updColl_tet (c : Nat) (f : Coll → Coll) : (s.updColl c f).tet = s.tet := rfl
@[simp] theorem State.updColl_herds (c : Nat) (f : Coll → Coll) : (s.updColl c f).herds = s.herds := rfl
@[simp] theorem State.updColl_ctlOut (c : Nat) (f : Coll → Coll) : (s.updColl c f).ctlOut = s.ctlOut := rfl
@[simp] theorem State.updColl_handoffs (c : Nat) (f : Coll → Coll) : (s.updColl c f).handoffs = s.handoffs := rfl
@[simp] theorem State.updColl_keys (c : Nat) (f : Coll → Coll) : (s.updColl c f).keys = s.keys := rfl
@[simp] theorem State.updColl_charters (c : Nat) (f : Coll → Coll) : (s.updColl c f).charters = s.charters := rfl
@[simp] theorem State.updColl_xfers (c : Nat) (f : Coll → Coll) : (s.updColl c f).xfers = s.xfers := rfl
@[simp] theorem State.updColl_stores (c : Nat) (f : Coll → Coll) : (s.updColl c f).stores = s.stores := rfl
@[simp] theorem State.updColl_ckpts (c : Nat) (f : Coll → Coll) : (s.updColl c f).ckpts = s.ckpts := rfl
@[simp] theorem State.updColl_dstream (c : Nat) (f : Coll → Coll) : (s.updColl c f).dstream = s.dstream := rfl
@[simp] theorem State.updColl_lc (c : Nat) (f : Coll → Coll) : (s.updColl c f).lc = s.lc := rfl
@[simp] theorem State.updColl_ras (c : Nat) (f : Coll → Coll) : (s.updColl c f).ras = s.ras := rfl
@[simp] theorem State.updColl_boot (c : Nat) (f : Coll → Coll) : (s.updColl c f).boot = s.boot := rfl
@[simp] theorem State.updColl_pw (c : Nat) (f : Coll → Coll) : (s.updColl c f).pw = s.pw := rfl

/-! ### `updHandoff` -/

@[simp] theorem State.updHandoff_pending (c : Nat) (f : Handoff → Handoff) : (s.updHandoff c f).pending = s.pending := rfl
@[simp] theorem State.updHandoff_freeCtr (c : Nat) (f : Handoff → Handoff) : (s.updHandoff c f).freeCtr = s.freeCtr := rfl
@[simp] theorem State.updHandoff_code (c : Nat) (f : Handoff → Handoff) : (s.updHandoff c f).code = s.code := rfl
@[simp] theorem State.updHandoff_dev (c : Nat) (f : Handoff → Handoff) : (s.updHandoff c f).dev = s.dev := rfl
@[simp] theorem State.updHandoff_cores (c : Nat) (f : Handoff → Handoff) : (s.updHandoff c f).cores = s.cores := rfl
@[simp] theorem State.updHandoff_clusters (c : Nat) (f : Handoff → Handoff) : (s.updHandoff c f).clusters = s.clusters := rfl
@[simp] theorem State.updHandoff_runAhead (c : Nat) (f : Handoff → Handoff) : (s.updHandoff c f).runAhead = s.runAhead := rfl
@[simp] theorem State.updHandoff_mem (c : Nat) (f : Handoff → Handoff) : (s.updHandoff c f).mem = s.mem := rfl
@[simp] theorem State.updHandoff_major (c : Nat) (f : Handoff → Handoff) : (s.updHandoff c f).major = s.major := rfl
@[simp] theorem State.updHandoff_lines (c : Nat) (f : Handoff → Handoff) : (s.updHandoff c f).lines = s.lines := rfl
@[simp] theorem State.updHandoff_versions (c : Nat) (f : Handoff → Handoff) : (s.updHandoff c f).versions = s.versions := rfl
@[simp] theorem State.updHandoff_integ (c : Nat) (f : Handoff → Handoff) : (s.updHandoff c f).integ = s.integ := rfl
@[simp] theorem State.updHandoff_dirty (c : Nat) (f : Handoff → Handoff) : (s.updHandoff c f).dirty = s.dirty := rfl
@[simp] theorem State.updHandoff_intCache (c : Nat) (f : Handoff → Handoff) : (s.updHandoff c f).intCache = s.intCache := rfl
@[simp] theorem State.updHandoff_targets (c : Nat) (f : Handoff → Handoff) : (s.updHandoff c f).targets = s.targets := rfl
@[simp] theorem State.updHandoff_retry (c : Nat) (f : Handoff → Handoff) : (s.updHandoff c f).retry = s.retry := rfl
@[simp] theorem State.updHandoff_dramQ (c : Nat) (f : Handoff → Handoff) : (s.updHandoff c f).dramQ = s.dramQ := rfl
@[simp] theorem State.updHandoff_dramOut (c : Nat) (f : Handoff → Handoff) : (s.updHandoff c f).dramOut = s.dramOut := rfl
@[simp] theorem State.updHandoff_reqNum (c : Nat) (f : Handoff → Handoff) : (s.updHandoff c f).reqNum = s.reqNum := rfl
@[simp] theorem State.updHandoff_movWaits (c : Nat) (f : Handoff → Handoff) : (s.updHandoff c f).movWaits = s.movWaits := rfl
@[simp] theorem State.updHandoff_routes (c : Nat) (f : Handoff → Handoff) : (s.updHandoff c f).routes = s.routes := rfl
@[simp] theorem State.updHandoff_bridle (c : Nat) (f : Handoff → Handoff) : (s.updHandoff c f).bridle = s.bridle := rfl
@[simp] theorem State.updHandoff_resp (c : Nat) (f : Handoff → Handoff) : (s.updHandoff c f).resp = s.resp := rfl
@[simp] theorem State.updHandoff_hwins (c : Nat) (f : Handoff → Handoff) : (s.updHandoff c f).hwins = s.hwins := rfl
@[simp] theorem State.updHandoff_hostPages (c : Nat) (f : Handoff → Handoff) : (s.updHandoff c f).hostPages = s.hostPages := rfl
@[simp] theorem State.updHandoff_hwBase (c : Nat) (f : Handoff → Handoff) : (s.updHandoff c f).hwBase = s.hwBase := rfl
@[simp] theorem State.updHandoff_poolMap (c : Nat) (f : Handoff → Handoff) : (s.updHandoff c f).poolMap = s.poolMap := rfl
@[simp] theorem State.updHandoff_donations (c : Nat) (f : Handoff → Handoff) : (s.updHandoff c f).donations = s.donations := rfl
@[simp] theorem State.updHandoff_coord (c : Nat) (f : Handoff → Handoff) : (s.updHandoff c f).coord = s.coord := rfl
@[simp] theorem State.updHandoff_lineMeta (c : Nat) (f : Handoff → Handoff) : (s.updHandoff c f).lineMeta = s.lineMeta := rfl
@[simp] theorem State.updHandoff_pages (c : Nat) (f : Handoff → Handoff) : (s.updHandoff c f).pages = s.pages := rfl
@[simp] theorem State.updHandoff_poolSize (c : Nat) (f : Handoff → Handoff) : (s.updHandoff c f).poolSize = s.poolSize := rfl
@[simp] theorem State.updHandoff_moves (c : Nat) (f : Handoff → Handoff) : (s.updHandoff c f).moves = s.moves := rfl
@[simp] theorem State.updHandoff_promos (c : Nat) (f : Handoff → Handoff) : (s.updHandoff c f).promos = s.promos := rfl
@[simp] theorem State.updHandoff_pressure (c : Nat) (f : Handoff → Handoff) : (s.updHandoff c f).pressure = s.pressure := rfl
@[simp] theorem State.updHandoff_rekeyJobs (c : Nat) (f : Handoff → Handoff) : (s.updHandoff c f).rekeyJobs = s.rekeyJobs := rfl
@[simp] theorem State.updHandoff_rekeyQ (c : Nat) (f : Handoff → Handoff) : (s.updHandoff c f).rekeyQ = s.rekeyQ := rfl
@[simp] theorem State.updHandoff_scrubQ (c : Nat) (f : Handoff → Handoff) : (s.updHandoff c f).scrubQ = s.scrubQ := rfl
@[simp] theorem State.updHandoff_aperture (c : Nat) (f : Handoff → Handoff) : (s.updHandoff c f).aperture = s.aperture := rfl
@[simp] theorem State.updHandoff_hostMem (c : Nat) (f : Handoff → Handoff) : (s.updHandoff c f).hostMem = s.hostMem := rfl
@[simp] theorem State.updHandoff_poolMem (c : Nat) (f : Handoff → Handoff) : (s.updHandoff c f).poolMem = s.poolMem := rfl
@[simp] theorem State.updHandoff_ctxs (c : Nat) (f : Handoff → Handoff) : (s.updHandoff c f).ctxs = s.ctxs := rfl
@[simp] theorem State.updHandoff_slots (c : Nat) (f : Handoff → Handoff) : (s.updHandoff c f).slots = s.slots := rfl
@[simp] theorem State.updHandoff_fences (c : Nat) (f : Handoff → Handoff) : (s.updHandoff c f).fences = s.fences := rfl
@[simp] theorem State.updHandoff_sigQ (c : Nat) (f : Handoff → Handoff) : (s.updHandoff c f).sigQ = s.sigQ := rfl
@[simp] theorem State.updHandoff_turn (c : Nat) (f : Handoff → Handoff) : (s.updHandoff c f).turn = s.turn := rfl
@[simp] theorem State.updHandoff_devRing (c : Nat) (f : Handoff → Handoff) : (s.updHandoff c f).devRing = s.devRing := rfl
@[simp] theorem State.updHandoff_mbx (c : Nat) (f : Handoff → Handoff) : (s.updHandoff c f).mbx = s.mbx := rfl
@[simp] theorem State.updHandoff_mbxQ (c : Nat) (f : Handoff → Handoff) : (s.updHandoff c f).mbxQ = s.mbxQ := rfl
@[simp] theorem State.updHandoff_regs (c : Nat) (f : Handoff → Handoff) : (s.updHandoff c f).regs = s.regs := rfl
@[simp] theorem State.updHandoff_ctxCnt (c : Nat) (f : Handoff → Handoff) : (s.updHandoff c f).ctxCnt = s.ctxCnt := rfl
@[simp] theorem State.updHandoff_pcie (c : Nat) (f : Handoff → Handoff) : (s.updHandoff c f).pcie = s.pcie := rfl
@[simp] theorem State.updHandoff_learn (c : Nat) (f : Handoff → Handoff) : (s.updHandoff c f).learn = s.learn := rfl
@[simp] theorem State.updHandoff_upd (c : Nat) (f : Handoff → Handoff) : (s.updHandoff c f).upd = s.upd := rfl
@[simp] theorem State.updHandoff_markers (c : Nat) (f : Handoff → Handoff) : (s.updHandoff c f).markers = s.markers := rfl
@[simp] theorem State.updHandoff_ports (c : Nat) (f : Handoff → Handoff) : (s.updHandoff c f).ports = s.ports := rfl
@[simp] theorem State.updHandoff_node (c : Nat) (f : Handoff → Handoff) : (s.updHandoff c f).node = s.node := rfl
@[simp] theorem State.updHandoff_admitList (c : Nat) (f : Handoff → Handoff) : (s.updHandoff c f).admitList = s.admitList := rfl
@[simp] theorem State.updHandoff_poolReqs (c : Nat) (f : Handoff → Handoff) : (s.updHandoff c f).poolReqs = s.poolReqs := rfl
@[simp] theorem State.updHandoff_poolGot (c : Nat) (f : Handoff → Handoff) : (s.updHandoff c f).poolGot = s.poolGot := rfl
@[simp] theorem State.updHandoff_colls (c : Nat) (f : Handoff → Handoff) : (s.updHandoff c f).colls = s.colls := rfl
@[simp] theorem State.updHandoff_slotTab (c : Nat) (f : Handoff → Handoff) : (s.updHandoff c f).slotTab = s.slotTab := rfl
@[simp] theorem State.updHandoff_slotShadow (c : Nat) (f : Handoff → Handoff) : (s.updHandoff c f).slotShadow = s.slotShadow := rfl
@[simp] theorem State.updHandoff_slotSwap (c : Nat) (f : Handoff → Handoff) : (s.updHandoff c f).slotSwap = s.slotSwap := rfl
@[simp] theorem State.updHandoff_tet (c : Nat) (f : Handoff → Handoff) : (s.updHandoff c f).tet = s.tet := rfl
@[simp] theorem State.updHandoff_herds (c : Nat) (f : Handoff → Handoff) : (s.updHandoff c f).herds = s.herds := rfl
@[simp] theorem State.updHandoff_ctlOut (c : Nat) (f : Handoff → Handoff) : (s.updHandoff c f).ctlOut = s.ctlOut := rfl
@[simp] theorem State.updHandoff_handoffs (c : Nat) (f : Handoff → Handoff) : (s.updHandoff c f).handoffs = Tab.upd {} s.handoffs c f := rfl
@[simp] theorem State.updHandoff_keys (c : Nat) (f : Handoff → Handoff) : (s.updHandoff c f).keys = s.keys := rfl
@[simp] theorem State.updHandoff_charters (c : Nat) (f : Handoff → Handoff) : (s.updHandoff c f).charters = s.charters := rfl
@[simp] theorem State.updHandoff_xfers (c : Nat) (f : Handoff → Handoff) : (s.updHandoff c f).xfers = s.xfers := rfl
@[simp] theorem State.updHandoff_stores (c : Nat) (f : Handoff → Handoff) : (s.updHandoff c f).stores = s.stores := rfl
@[simp] theorem State.updHandoff_ckpts (c : Nat) (f : Handoff → Handoff) : (s.updHandoff c f).ckpts = s.ckpts := rfl
@[simp] theorem State.updHandoff_dstream (c : Nat) (f : Handoff → Handoff) : (s.updHandoff c f).dstream = s.dstream := rfl
@[simp] theorem State.updHandoff_lc (c : Nat) (f : Handoff → Handoff) : (s.updHandoff c f).lc = s.lc := rfl
@[simp] theorem State.updHandoff_ras (c : Nat) (f : Handoff → Handoff) : (s.updHandoff c f).ras = s.ras := rfl
@[simp] theorem State.updHandoff_boot (c : Nat) (f : Handoff → Handoff) : (s.updHandoff c f).boot = s.boot := rfl
@[simp] theorem State.updHandoff_pw (c : Nat) (f : Handoff → Handoff) : (s.updHandoff c f).pw = s.pw := rfl

/-! ### `updChan` -/

@[simp] theorem State.updChan_pending (c : Nat) (f : MbxChan → MbxChan) : (s.updChan c f).pending = s.pending := rfl
@[simp] theorem State.updChan_freeCtr (c : Nat) (f : MbxChan → MbxChan) : (s.updChan c f).freeCtr = s.freeCtr := rfl
@[simp] theorem State.updChan_code (c : Nat) (f : MbxChan → MbxChan) : (s.updChan c f).code = s.code := rfl
@[simp] theorem State.updChan_dev (c : Nat) (f : MbxChan → MbxChan) : (s.updChan c f).dev = s.dev := rfl
@[simp] theorem State.updChan_cores (c : Nat) (f : MbxChan → MbxChan) : (s.updChan c f).cores = s.cores := rfl
@[simp] theorem State.updChan_clusters (c : Nat) (f : MbxChan → MbxChan) : (s.updChan c f).clusters = s.clusters := rfl
@[simp] theorem State.updChan_runAhead (c : Nat) (f : MbxChan → MbxChan) : (s.updChan c f).runAhead = s.runAhead := rfl
@[simp] theorem State.updChan_mem (c : Nat) (f : MbxChan → MbxChan) : (s.updChan c f).mem = s.mem := rfl
@[simp] theorem State.updChan_major (c : Nat) (f : MbxChan → MbxChan) : (s.updChan c f).major = s.major := rfl
@[simp] theorem State.updChan_lines (c : Nat) (f : MbxChan → MbxChan) : (s.updChan c f).lines = s.lines := rfl
@[simp] theorem State.updChan_versions (c : Nat) (f : MbxChan → MbxChan) : (s.updChan c f).versions = s.versions := rfl
@[simp] theorem State.updChan_integ (c : Nat) (f : MbxChan → MbxChan) : (s.updChan c f).integ = s.integ := rfl
@[simp] theorem State.updChan_dirty (c : Nat) (f : MbxChan → MbxChan) : (s.updChan c f).dirty = s.dirty := rfl
@[simp] theorem State.updChan_intCache (c : Nat) (f : MbxChan → MbxChan) : (s.updChan c f).intCache = s.intCache := rfl
@[simp] theorem State.updChan_targets (c : Nat) (f : MbxChan → MbxChan) : (s.updChan c f).targets = s.targets := rfl
@[simp] theorem State.updChan_retry (c : Nat) (f : MbxChan → MbxChan) : (s.updChan c f).retry = s.retry := rfl
@[simp] theorem State.updChan_dramQ (c : Nat) (f : MbxChan → MbxChan) : (s.updChan c f).dramQ = s.dramQ := rfl
@[simp] theorem State.updChan_dramOut (c : Nat) (f : MbxChan → MbxChan) : (s.updChan c f).dramOut = s.dramOut := rfl
@[simp] theorem State.updChan_reqNum (c : Nat) (f : MbxChan → MbxChan) : (s.updChan c f).reqNum = s.reqNum := rfl
@[simp] theorem State.updChan_movWaits (c : Nat) (f : MbxChan → MbxChan) : (s.updChan c f).movWaits = s.movWaits := rfl
@[simp] theorem State.updChan_routes (c : Nat) (f : MbxChan → MbxChan) : (s.updChan c f).routes = s.routes := rfl
@[simp] theorem State.updChan_bridle (c : Nat) (f : MbxChan → MbxChan) : (s.updChan c f).bridle = s.bridle := rfl
@[simp] theorem State.updChan_resp (c : Nat) (f : MbxChan → MbxChan) : (s.updChan c f).resp = s.resp := rfl
@[simp] theorem State.updChan_hwins (c : Nat) (f : MbxChan → MbxChan) : (s.updChan c f).hwins = s.hwins := rfl
@[simp] theorem State.updChan_hostPages (c : Nat) (f : MbxChan → MbxChan) : (s.updChan c f).hostPages = s.hostPages := rfl
@[simp] theorem State.updChan_hwBase (c : Nat) (f : MbxChan → MbxChan) : (s.updChan c f).hwBase = s.hwBase := rfl
@[simp] theorem State.updChan_poolMap (c : Nat) (f : MbxChan → MbxChan) : (s.updChan c f).poolMap = s.poolMap := rfl
@[simp] theorem State.updChan_donations (c : Nat) (f : MbxChan → MbxChan) : (s.updChan c f).donations = s.donations := rfl
@[simp] theorem State.updChan_coord (c : Nat) (f : MbxChan → MbxChan) : (s.updChan c f).coord = s.coord := rfl
@[simp] theorem State.updChan_lineMeta (c : Nat) (f : MbxChan → MbxChan) : (s.updChan c f).lineMeta = s.lineMeta := rfl
@[simp] theorem State.updChan_pages (c : Nat) (f : MbxChan → MbxChan) : (s.updChan c f).pages = s.pages := rfl
@[simp] theorem State.updChan_poolSize (c : Nat) (f : MbxChan → MbxChan) : (s.updChan c f).poolSize = s.poolSize := rfl
@[simp] theorem State.updChan_moves (c : Nat) (f : MbxChan → MbxChan) : (s.updChan c f).moves = s.moves := rfl
@[simp] theorem State.updChan_promos (c : Nat) (f : MbxChan → MbxChan) : (s.updChan c f).promos = s.promos := rfl
@[simp] theorem State.updChan_pressure (c : Nat) (f : MbxChan → MbxChan) : (s.updChan c f).pressure = s.pressure := rfl
@[simp] theorem State.updChan_rekeyJobs (c : Nat) (f : MbxChan → MbxChan) : (s.updChan c f).rekeyJobs = s.rekeyJobs := rfl
@[simp] theorem State.updChan_rekeyQ (c : Nat) (f : MbxChan → MbxChan) : (s.updChan c f).rekeyQ = s.rekeyQ := rfl
@[simp] theorem State.updChan_scrubQ (c : Nat) (f : MbxChan → MbxChan) : (s.updChan c f).scrubQ = s.scrubQ := rfl
@[simp] theorem State.updChan_aperture (c : Nat) (f : MbxChan → MbxChan) : (s.updChan c f).aperture = s.aperture := rfl
@[simp] theorem State.updChan_hostMem (c : Nat) (f : MbxChan → MbxChan) : (s.updChan c f).hostMem = s.hostMem := rfl
@[simp] theorem State.updChan_poolMem (c : Nat) (f : MbxChan → MbxChan) : (s.updChan c f).poolMem = s.poolMem := rfl
@[simp] theorem State.updChan_ctxs (c : Nat) (f : MbxChan → MbxChan) : (s.updChan c f).ctxs = s.ctxs := rfl
@[simp] theorem State.updChan_slots (c : Nat) (f : MbxChan → MbxChan) : (s.updChan c f).slots = s.slots := rfl
@[simp] theorem State.updChan_fences (c : Nat) (f : MbxChan → MbxChan) : (s.updChan c f).fences = s.fences := rfl
@[simp] theorem State.updChan_sigQ (c : Nat) (f : MbxChan → MbxChan) : (s.updChan c f).sigQ = s.sigQ := rfl
@[simp] theorem State.updChan_turn (c : Nat) (f : MbxChan → MbxChan) : (s.updChan c f).turn = s.turn := rfl
@[simp] theorem State.updChan_devRing (c : Nat) (f : MbxChan → MbxChan) : (s.updChan c f).devRing = s.devRing := rfl
@[simp] theorem State.updChan_mbx (c : Nat) (f : MbxChan → MbxChan) : (s.updChan c f).mbx = Tab.upd {} s.mbx c f := rfl
@[simp] theorem State.updChan_mbxQ (c : Nat) (f : MbxChan → MbxChan) : (s.updChan c f).mbxQ = s.mbxQ := rfl
@[simp] theorem State.updChan_regs (c : Nat) (f : MbxChan → MbxChan) : (s.updChan c f).regs = s.regs := rfl
@[simp] theorem State.updChan_ctxCnt (c : Nat) (f : MbxChan → MbxChan) : (s.updChan c f).ctxCnt = s.ctxCnt := rfl
@[simp] theorem State.updChan_pcie (c : Nat) (f : MbxChan → MbxChan) : (s.updChan c f).pcie = s.pcie := rfl
@[simp] theorem State.updChan_learn (c : Nat) (f : MbxChan → MbxChan) : (s.updChan c f).learn = s.learn := rfl
@[simp] theorem State.updChan_upd (c : Nat) (f : MbxChan → MbxChan) : (s.updChan c f).upd = s.upd := rfl
@[simp] theorem State.updChan_markers (c : Nat) (f : MbxChan → MbxChan) : (s.updChan c f).markers = s.markers := rfl
@[simp] theorem State.updChan_ports (c : Nat) (f : MbxChan → MbxChan) : (s.updChan c f).ports = s.ports := rfl
@[simp] theorem State.updChan_node (c : Nat) (f : MbxChan → MbxChan) : (s.updChan c f).node = s.node := rfl
@[simp] theorem State.updChan_admitList (c : Nat) (f : MbxChan → MbxChan) : (s.updChan c f).admitList = s.admitList := rfl
@[simp] theorem State.updChan_poolReqs (c : Nat) (f : MbxChan → MbxChan) : (s.updChan c f).poolReqs = s.poolReqs := rfl
@[simp] theorem State.updChan_poolGot (c : Nat) (f : MbxChan → MbxChan) : (s.updChan c f).poolGot = s.poolGot := rfl
@[simp] theorem State.updChan_colls (c : Nat) (f : MbxChan → MbxChan) : (s.updChan c f).colls = s.colls := rfl
@[simp] theorem State.updChan_slotTab (c : Nat) (f : MbxChan → MbxChan) : (s.updChan c f).slotTab = s.slotTab := rfl
@[simp] theorem State.updChan_slotShadow (c : Nat) (f : MbxChan → MbxChan) : (s.updChan c f).slotShadow = s.slotShadow := rfl
@[simp] theorem State.updChan_slotSwap (c : Nat) (f : MbxChan → MbxChan) : (s.updChan c f).slotSwap = s.slotSwap := rfl
@[simp] theorem State.updChan_tet (c : Nat) (f : MbxChan → MbxChan) : (s.updChan c f).tet = s.tet := rfl
@[simp] theorem State.updChan_herds (c : Nat) (f : MbxChan → MbxChan) : (s.updChan c f).herds = s.herds := rfl
@[simp] theorem State.updChan_ctlOut (c : Nat) (f : MbxChan → MbxChan) : (s.updChan c f).ctlOut = s.ctlOut := rfl
@[simp] theorem State.updChan_handoffs (c : Nat) (f : MbxChan → MbxChan) : (s.updChan c f).handoffs = s.handoffs := rfl
@[simp] theorem State.updChan_keys (c : Nat) (f : MbxChan → MbxChan) : (s.updChan c f).keys = s.keys := rfl
@[simp] theorem State.updChan_charters (c : Nat) (f : MbxChan → MbxChan) : (s.updChan c f).charters = s.charters := rfl
@[simp] theorem State.updChan_xfers (c : Nat) (f : MbxChan → MbxChan) : (s.updChan c f).xfers = s.xfers := rfl
@[simp] theorem State.updChan_stores (c : Nat) (f : MbxChan → MbxChan) : (s.updChan c f).stores = s.stores := rfl
@[simp] theorem State.updChan_ckpts (c : Nat) (f : MbxChan → MbxChan) : (s.updChan c f).ckpts = s.ckpts := rfl
@[simp] theorem State.updChan_dstream (c : Nat) (f : MbxChan → MbxChan) : (s.updChan c f).dstream = s.dstream := rfl
@[simp] theorem State.updChan_lc (c : Nat) (f : MbxChan → MbxChan) : (s.updChan c f).lc = s.lc := rfl
@[simp] theorem State.updChan_ras (c : Nat) (f : MbxChan → MbxChan) : (s.updChan c f).ras = s.ras := rfl
@[simp] theorem State.updChan_boot (c : Nat) (f : MbxChan → MbxChan) : (s.updChan c f).boot = s.boot := rfl
@[simp] theorem State.updChan_pw (c : Nat) (f : MbxChan → MbxChan) : (s.updChan c f).pw = s.pw := rfl

/-! ### `updUnit` -/

@[simp] theorem State.updUnit_pending (m : Nat) (f : Upd → Upd) : (s.updUnit m f).pending = s.pending := rfl
@[simp] theorem State.updUnit_freeCtr (m : Nat) (f : Upd → Upd) : (s.updUnit m f).freeCtr = s.freeCtr := rfl
@[simp] theorem State.updUnit_code (m : Nat) (f : Upd → Upd) : (s.updUnit m f).code = s.code := rfl
@[simp] theorem State.updUnit_dev (m : Nat) (f : Upd → Upd) : (s.updUnit m f).dev = s.dev := rfl
@[simp] theorem State.updUnit_cores (m : Nat) (f : Upd → Upd) : (s.updUnit m f).cores = s.cores := rfl
@[simp] theorem State.updUnit_clusters (m : Nat) (f : Upd → Upd) : (s.updUnit m f).clusters = s.clusters := rfl
@[simp] theorem State.updUnit_runAhead (m : Nat) (f : Upd → Upd) : (s.updUnit m f).runAhead = s.runAhead := rfl
@[simp] theorem State.updUnit_mem (m : Nat) (f : Upd → Upd) : (s.updUnit m f).mem = s.mem := rfl
@[simp] theorem State.updUnit_major (m : Nat) (f : Upd → Upd) : (s.updUnit m f).major = s.major := rfl
@[simp] theorem State.updUnit_lines (m : Nat) (f : Upd → Upd) : (s.updUnit m f).lines = s.lines := rfl
@[simp] theorem State.updUnit_versions (m : Nat) (f : Upd → Upd) : (s.updUnit m f).versions = s.versions := rfl
@[simp] theorem State.updUnit_integ (m : Nat) (f : Upd → Upd) : (s.updUnit m f).integ = s.integ := rfl
@[simp] theorem State.updUnit_dirty (m : Nat) (f : Upd → Upd) : (s.updUnit m f).dirty = s.dirty := rfl
@[simp] theorem State.updUnit_intCache (m : Nat) (f : Upd → Upd) : (s.updUnit m f).intCache = s.intCache := rfl
@[simp] theorem State.updUnit_targets (m : Nat) (f : Upd → Upd) : (s.updUnit m f).targets = s.targets := rfl
@[simp] theorem State.updUnit_retry (m : Nat) (f : Upd → Upd) : (s.updUnit m f).retry = s.retry := rfl
@[simp] theorem State.updUnit_dramQ (m : Nat) (f : Upd → Upd) : (s.updUnit m f).dramQ = s.dramQ := rfl
@[simp] theorem State.updUnit_dramOut (m : Nat) (f : Upd → Upd) : (s.updUnit m f).dramOut = s.dramOut := rfl
@[simp] theorem State.updUnit_reqNum (m : Nat) (f : Upd → Upd) : (s.updUnit m f).reqNum = s.reqNum := rfl
@[simp] theorem State.updUnit_movWaits (m : Nat) (f : Upd → Upd) : (s.updUnit m f).movWaits = s.movWaits := rfl
@[simp] theorem State.updUnit_routes (m : Nat) (f : Upd → Upd) : (s.updUnit m f).routes = s.routes := rfl
@[simp] theorem State.updUnit_bridle (m : Nat) (f : Upd → Upd) : (s.updUnit m f).bridle = s.bridle := rfl
@[simp] theorem State.updUnit_resp (m : Nat) (f : Upd → Upd) : (s.updUnit m f).resp = s.resp := rfl
@[simp] theorem State.updUnit_hwins (m : Nat) (f : Upd → Upd) : (s.updUnit m f).hwins = s.hwins := rfl
@[simp] theorem State.updUnit_hostPages (m : Nat) (f : Upd → Upd) : (s.updUnit m f).hostPages = s.hostPages := rfl
@[simp] theorem State.updUnit_hwBase (m : Nat) (f : Upd → Upd) : (s.updUnit m f).hwBase = s.hwBase := rfl
@[simp] theorem State.updUnit_poolMap (m : Nat) (f : Upd → Upd) : (s.updUnit m f).poolMap = s.poolMap := rfl
@[simp] theorem State.updUnit_donations (m : Nat) (f : Upd → Upd) : (s.updUnit m f).donations = s.donations := rfl
@[simp] theorem State.updUnit_coord (m : Nat) (f : Upd → Upd) : (s.updUnit m f).coord = s.coord := rfl
@[simp] theorem State.updUnit_lineMeta (m : Nat) (f : Upd → Upd) : (s.updUnit m f).lineMeta = s.lineMeta := rfl
@[simp] theorem State.updUnit_pages (m : Nat) (f : Upd → Upd) : (s.updUnit m f).pages = s.pages := rfl
@[simp] theorem State.updUnit_poolSize (m : Nat) (f : Upd → Upd) : (s.updUnit m f).poolSize = s.poolSize := rfl
@[simp] theorem State.updUnit_moves (m : Nat) (f : Upd → Upd) : (s.updUnit m f).moves = s.moves := rfl
@[simp] theorem State.updUnit_promos (m : Nat) (f : Upd → Upd) : (s.updUnit m f).promos = s.promos := rfl
@[simp] theorem State.updUnit_pressure (m : Nat) (f : Upd → Upd) : (s.updUnit m f).pressure = s.pressure := rfl
@[simp] theorem State.updUnit_rekeyJobs (m : Nat) (f : Upd → Upd) : (s.updUnit m f).rekeyJobs = s.rekeyJobs := rfl
@[simp] theorem State.updUnit_rekeyQ (m : Nat) (f : Upd → Upd) : (s.updUnit m f).rekeyQ = s.rekeyQ := rfl
@[simp] theorem State.updUnit_scrubQ (m : Nat) (f : Upd → Upd) : (s.updUnit m f).scrubQ = s.scrubQ := rfl
@[simp] theorem State.updUnit_aperture (m : Nat) (f : Upd → Upd) : (s.updUnit m f).aperture = s.aperture := rfl
@[simp] theorem State.updUnit_hostMem (m : Nat) (f : Upd → Upd) : (s.updUnit m f).hostMem = s.hostMem := rfl
@[simp] theorem State.updUnit_poolMem (m : Nat) (f : Upd → Upd) : (s.updUnit m f).poolMem = s.poolMem := rfl
@[simp] theorem State.updUnit_ctxs (m : Nat) (f : Upd → Upd) : (s.updUnit m f).ctxs = s.ctxs := rfl
@[simp] theorem State.updUnit_slots (m : Nat) (f : Upd → Upd) : (s.updUnit m f).slots = s.slots := rfl
@[simp] theorem State.updUnit_fences (m : Nat) (f : Upd → Upd) : (s.updUnit m f).fences = s.fences := rfl
@[simp] theorem State.updUnit_sigQ (m : Nat) (f : Upd → Upd) : (s.updUnit m f).sigQ = s.sigQ := rfl
@[simp] theorem State.updUnit_turn (m : Nat) (f : Upd → Upd) : (s.updUnit m f).turn = s.turn := rfl
@[simp] theorem State.updUnit_devRing (m : Nat) (f : Upd → Upd) : (s.updUnit m f).devRing = s.devRing := rfl
@[simp] theorem State.updUnit_mbx (m : Nat) (f : Upd → Upd) : (s.updUnit m f).mbx = s.mbx := rfl
@[simp] theorem State.updUnit_mbxQ (m : Nat) (f : Upd → Upd) : (s.updUnit m f).mbxQ = s.mbxQ := rfl
@[simp] theorem State.updUnit_regs (m : Nat) (f : Upd → Upd) : (s.updUnit m f).regs = s.regs := rfl
@[simp] theorem State.updUnit_ctxCnt (m : Nat) (f : Upd → Upd) : (s.updUnit m f).ctxCnt = s.ctxCnt := rfl
@[simp] theorem State.updUnit_pcie (m : Nat) (f : Upd → Upd) : (s.updUnit m f).pcie = s.pcie := rfl
@[simp] theorem State.updUnit_learn (m : Nat) (f : Upd → Upd) : (s.updUnit m f).learn = s.learn := rfl
@[simp] theorem State.updUnit_upd (m : Nat) (f : Upd → Upd) : (s.updUnit m f).upd = Tab.upd {} s.upd m f := rfl
@[simp] theorem State.updUnit_markers (m : Nat) (f : Upd → Upd) : (s.updUnit m f).markers = s.markers := rfl
@[simp] theorem State.updUnit_ports (m : Nat) (f : Upd → Upd) : (s.updUnit m f).ports = s.ports := rfl
@[simp] theorem State.updUnit_node (m : Nat) (f : Upd → Upd) : (s.updUnit m f).node = s.node := rfl
@[simp] theorem State.updUnit_admitList (m : Nat) (f : Upd → Upd) : (s.updUnit m f).admitList = s.admitList := rfl
@[simp] theorem State.updUnit_poolReqs (m : Nat) (f : Upd → Upd) : (s.updUnit m f).poolReqs = s.poolReqs := rfl
@[simp] theorem State.updUnit_poolGot (m : Nat) (f : Upd → Upd) : (s.updUnit m f).poolGot = s.poolGot := rfl
@[simp] theorem State.updUnit_colls (m : Nat) (f : Upd → Upd) : (s.updUnit m f).colls = s.colls := rfl
@[simp] theorem State.updUnit_slotTab (m : Nat) (f : Upd → Upd) : (s.updUnit m f).slotTab = s.slotTab := rfl
@[simp] theorem State.updUnit_slotShadow (m : Nat) (f : Upd → Upd) : (s.updUnit m f).slotShadow = s.slotShadow := rfl
@[simp] theorem State.updUnit_slotSwap (m : Nat) (f : Upd → Upd) : (s.updUnit m f).slotSwap = s.slotSwap := rfl
@[simp] theorem State.updUnit_tet (m : Nat) (f : Upd → Upd) : (s.updUnit m f).tet = s.tet := rfl
@[simp] theorem State.updUnit_herds (m : Nat) (f : Upd → Upd) : (s.updUnit m f).herds = s.herds := rfl
@[simp] theorem State.updUnit_ctlOut (m : Nat) (f : Upd → Upd) : (s.updUnit m f).ctlOut = s.ctlOut := rfl
@[simp] theorem State.updUnit_handoffs (m : Nat) (f : Upd → Upd) : (s.updUnit m f).handoffs = s.handoffs := rfl
@[simp] theorem State.updUnit_keys (m : Nat) (f : Upd → Upd) : (s.updUnit m f).keys = s.keys := rfl
@[simp] theorem State.updUnit_charters (m : Nat) (f : Upd → Upd) : (s.updUnit m f).charters = s.charters := rfl
@[simp] theorem State.updUnit_xfers (m : Nat) (f : Upd → Upd) : (s.updUnit m f).xfers = s.xfers := rfl
@[simp] theorem State.updUnit_stores (m : Nat) (f : Upd → Upd) : (s.updUnit m f).stores = s.stores := rfl
@[simp] theorem State.updUnit_ckpts (m : Nat) (f : Upd → Upd) : (s.updUnit m f).ckpts = s.ckpts := rfl
@[simp] theorem State.updUnit_dstream (m : Nat) (f : Upd → Upd) : (s.updUnit m f).dstream = s.dstream := rfl
@[simp] theorem State.updUnit_lc (m : Nat) (f : Upd → Upd) : (s.updUnit m f).lc = s.lc := rfl
@[simp] theorem State.updUnit_ras (m : Nat) (f : Upd → Upd) : (s.updUnit m f).ras = s.ras := rfl
@[simp] theorem State.updUnit_boot (m : Nat) (f : Upd → Upd) : (s.updUnit m f).boot = s.boot := rfl
@[simp] theorem State.updUnit_pw (m : Nat) (f : Upd → Upd) : (s.updUnit m f).pw = s.pw := rfl

/-! ### `updKslot` -/

@[simp] theorem State.updKslot_pending (k : Nat) (f : KSlot → KSlot) : (s.updKslot k f).pending = s.pending := rfl
@[simp] theorem State.updKslot_freeCtr (k : Nat) (f : KSlot → KSlot) : (s.updKslot k f).freeCtr = s.freeCtr := rfl
@[simp] theorem State.updKslot_code (k : Nat) (f : KSlot → KSlot) : (s.updKslot k f).code = s.code := rfl
@[simp] theorem State.updKslot_dev (k : Nat) (f : KSlot → KSlot) : (s.updKslot k f).dev = s.dev := rfl
@[simp] theorem State.updKslot_cores (k : Nat) (f : KSlot → KSlot) : (s.updKslot k f).cores = s.cores := rfl
@[simp] theorem State.updKslot_clusters (k : Nat) (f : KSlot → KSlot) : (s.updKslot k f).clusters = s.clusters := rfl
@[simp] theorem State.updKslot_runAhead (k : Nat) (f : KSlot → KSlot) : (s.updKslot k f).runAhead = s.runAhead := rfl
@[simp] theorem State.updKslot_mem (k : Nat) (f : KSlot → KSlot) : (s.updKslot k f).mem = s.mem := rfl
@[simp] theorem State.updKslot_major (k : Nat) (f : KSlot → KSlot) : (s.updKslot k f).major = s.major := rfl
@[simp] theorem State.updKslot_lines (k : Nat) (f : KSlot → KSlot) : (s.updKslot k f).lines = s.lines := rfl
@[simp] theorem State.updKslot_versions (k : Nat) (f : KSlot → KSlot) : (s.updKslot k f).versions = s.versions := rfl
@[simp] theorem State.updKslot_integ (k : Nat) (f : KSlot → KSlot) : (s.updKslot k f).integ = s.integ := rfl
@[simp] theorem State.updKslot_dirty (k : Nat) (f : KSlot → KSlot) : (s.updKslot k f).dirty = s.dirty := rfl
@[simp] theorem State.updKslot_intCache (k : Nat) (f : KSlot → KSlot) : (s.updKslot k f).intCache = s.intCache := rfl
@[simp] theorem State.updKslot_targets (k : Nat) (f : KSlot → KSlot) : (s.updKslot k f).targets = s.targets := rfl
@[simp] theorem State.updKslot_retry (k : Nat) (f : KSlot → KSlot) : (s.updKslot k f).retry = s.retry := rfl
@[simp] theorem State.updKslot_dramQ (k : Nat) (f : KSlot → KSlot) : (s.updKslot k f).dramQ = s.dramQ := rfl
@[simp] theorem State.updKslot_dramOut (k : Nat) (f : KSlot → KSlot) : (s.updKslot k f).dramOut = s.dramOut := rfl
@[simp] theorem State.updKslot_reqNum (k : Nat) (f : KSlot → KSlot) : (s.updKslot k f).reqNum = s.reqNum := rfl
@[simp] theorem State.updKslot_movWaits (k : Nat) (f : KSlot → KSlot) : (s.updKslot k f).movWaits = s.movWaits := rfl
@[simp] theorem State.updKslot_routes (k : Nat) (f : KSlot → KSlot) : (s.updKslot k f).routes = s.routes := rfl
@[simp] theorem State.updKslot_bridle (k : Nat) (f : KSlot → KSlot) : (s.updKslot k f).bridle = s.bridle := rfl
@[simp] theorem State.updKslot_resp (k : Nat) (f : KSlot → KSlot) : (s.updKslot k f).resp = s.resp := rfl
@[simp] theorem State.updKslot_hwins (k : Nat) (f : KSlot → KSlot) : (s.updKslot k f).hwins = s.hwins := rfl
@[simp] theorem State.updKslot_hostPages (k : Nat) (f : KSlot → KSlot) : (s.updKslot k f).hostPages = s.hostPages := rfl
@[simp] theorem State.updKslot_hwBase (k : Nat) (f : KSlot → KSlot) : (s.updKslot k f).hwBase = s.hwBase := rfl
@[simp] theorem State.updKslot_poolMap (k : Nat) (f : KSlot → KSlot) : (s.updKslot k f).poolMap = s.poolMap := rfl
@[simp] theorem State.updKslot_donations (k : Nat) (f : KSlot → KSlot) : (s.updKslot k f).donations = s.donations := rfl
@[simp] theorem State.updKslot_coord (k : Nat) (f : KSlot → KSlot) : (s.updKslot k f).coord = s.coord := rfl
@[simp] theorem State.updKslot_lineMeta (k : Nat) (f : KSlot → KSlot) : (s.updKslot k f).lineMeta = s.lineMeta := rfl
@[simp] theorem State.updKslot_pages (k : Nat) (f : KSlot → KSlot) : (s.updKslot k f).pages = s.pages := rfl
@[simp] theorem State.updKslot_poolSize (k : Nat) (f : KSlot → KSlot) : (s.updKslot k f).poolSize = s.poolSize := rfl
@[simp] theorem State.updKslot_moves (k : Nat) (f : KSlot → KSlot) : (s.updKslot k f).moves = s.moves := rfl
@[simp] theorem State.updKslot_promos (k : Nat) (f : KSlot → KSlot) : (s.updKslot k f).promos = s.promos := rfl
@[simp] theorem State.updKslot_pressure (k : Nat) (f : KSlot → KSlot) : (s.updKslot k f).pressure = s.pressure := rfl
@[simp] theorem State.updKslot_rekeyJobs (k : Nat) (f : KSlot → KSlot) : (s.updKslot k f).rekeyJobs = s.rekeyJobs := rfl
@[simp] theorem State.updKslot_rekeyQ (k : Nat) (f : KSlot → KSlot) : (s.updKslot k f).rekeyQ = s.rekeyQ := rfl
@[simp] theorem State.updKslot_scrubQ (k : Nat) (f : KSlot → KSlot) : (s.updKslot k f).scrubQ = s.scrubQ := rfl
@[simp] theorem State.updKslot_aperture (k : Nat) (f : KSlot → KSlot) : (s.updKslot k f).aperture = s.aperture := rfl
@[simp] theorem State.updKslot_hostMem (k : Nat) (f : KSlot → KSlot) : (s.updKslot k f).hostMem = s.hostMem := rfl
@[simp] theorem State.updKslot_poolMem (k : Nat) (f : KSlot → KSlot) : (s.updKslot k f).poolMem = s.poolMem := rfl
@[simp] theorem State.updKslot_ctxs (k : Nat) (f : KSlot → KSlot) : (s.updKslot k f).ctxs = s.ctxs := rfl
@[simp] theorem State.updKslot_slots (k : Nat) (f : KSlot → KSlot) : (s.updKslot k f).slots = s.slots := rfl
@[simp] theorem State.updKslot_fences (k : Nat) (f : KSlot → KSlot) : (s.updKslot k f).fences = s.fences := rfl
@[simp] theorem State.updKslot_sigQ (k : Nat) (f : KSlot → KSlot) : (s.updKslot k f).sigQ = s.sigQ := rfl
@[simp] theorem State.updKslot_turn (k : Nat) (f : KSlot → KSlot) : (s.updKslot k f).turn = s.turn := rfl
@[simp] theorem State.updKslot_devRing (k : Nat) (f : KSlot → KSlot) : (s.updKslot k f).devRing = s.devRing := rfl
@[simp] theorem State.updKslot_mbx (k : Nat) (f : KSlot → KSlot) : (s.updKslot k f).mbx = s.mbx := rfl
@[simp] theorem State.updKslot_mbxQ (k : Nat) (f : KSlot → KSlot) : (s.updKslot k f).mbxQ = s.mbxQ := rfl
@[simp] theorem State.updKslot_regs (k : Nat) (f : KSlot → KSlot) : (s.updKslot k f).regs = s.regs := rfl
@[simp] theorem State.updKslot_ctxCnt (k : Nat) (f : KSlot → KSlot) : (s.updKslot k f).ctxCnt = s.ctxCnt := rfl
@[simp] theorem State.updKslot_pcie (k : Nat) (f : KSlot → KSlot) : (s.updKslot k f).pcie = s.pcie := rfl
@[simp] theorem State.updKslot_learn (k : Nat) (f : KSlot → KSlot) : (s.updKslot k f).learn = s.learn := rfl
@[simp] theorem State.updKslot_upd (k : Nat) (f : KSlot → KSlot) : (s.updKslot k f).upd = s.upd := rfl
@[simp] theorem State.updKslot_markers (k : Nat) (f : KSlot → KSlot) : (s.updKslot k f).markers = s.markers := rfl
@[simp] theorem State.updKslot_ports (k : Nat) (f : KSlot → KSlot) : (s.updKslot k f).ports = s.ports := rfl
@[simp] theorem State.updKslot_node (k : Nat) (f : KSlot → KSlot) : (s.updKslot k f).node = s.node := rfl
@[simp] theorem State.updKslot_admitList (k : Nat) (f : KSlot → KSlot) : (s.updKslot k f).admitList = s.admitList := rfl
@[simp] theorem State.updKslot_poolReqs (k : Nat) (f : KSlot → KSlot) : (s.updKslot k f).poolReqs = s.poolReqs := rfl
@[simp] theorem State.updKslot_poolGot (k : Nat) (f : KSlot → KSlot) : (s.updKslot k f).poolGot = s.poolGot := rfl
@[simp] theorem State.updKslot_colls (k : Nat) (f : KSlot → KSlot) : (s.updKslot k f).colls = s.colls := rfl
@[simp] theorem State.updKslot_slotTab (k : Nat) (f : KSlot → KSlot) : (s.updKslot k f).slotTab = s.slotTab := rfl
@[simp] theorem State.updKslot_slotShadow (k : Nat) (f : KSlot → KSlot) : (s.updKslot k f).slotShadow = s.slotShadow := rfl
@[simp] theorem State.updKslot_slotSwap (k : Nat) (f : KSlot → KSlot) : (s.updKslot k f).slotSwap = s.slotSwap := rfl
@[simp] theorem State.updKslot_tet (k : Nat) (f : KSlot → KSlot) : (s.updKslot k f).tet = s.tet := rfl
@[simp] theorem State.updKslot_herds (k : Nat) (f : KSlot → KSlot) : (s.updKslot k f).herds = s.herds := rfl
@[simp] theorem State.updKslot_ctlOut (k : Nat) (f : KSlot → KSlot) : (s.updKslot k f).ctlOut = s.ctlOut := rfl
@[simp] theorem State.updKslot_handoffs (k : Nat) (f : KSlot → KSlot) : (s.updKslot k f).handoffs = s.handoffs := rfl
@[simp] theorem State.updKslot_keys (k : Nat) (f : KSlot → KSlot) : (s.updKslot k f).keys = { s.keys with slots := Tab.upd {} s.keys.slots k f } := rfl
@[simp] theorem State.updKslot_charters (k : Nat) (f : KSlot → KSlot) : (s.updKslot k f).charters = s.charters := rfl
@[simp] theorem State.updKslot_xfers (k : Nat) (f : KSlot → KSlot) : (s.updKslot k f).xfers = s.xfers := rfl
@[simp] theorem State.updKslot_stores (k : Nat) (f : KSlot → KSlot) : (s.updKslot k f).stores = s.stores := rfl
@[simp] theorem State.updKslot_ckpts (k : Nat) (f : KSlot → KSlot) : (s.updKslot k f).ckpts = s.ckpts := rfl
@[simp] theorem State.updKslot_dstream (k : Nat) (f : KSlot → KSlot) : (s.updKslot k f).dstream = s.dstream := rfl
@[simp] theorem State.updKslot_lc (k : Nat) (f : KSlot → KSlot) : (s.updKslot k f).lc = s.lc := rfl
@[simp] theorem State.updKslot_ras (k : Nat) (f : KSlot → KSlot) : (s.updKslot k f).ras = s.ras := rfl
@[simp] theorem State.updKslot_boot (k : Nat) (f : KSlot → KSlot) : (s.updKslot k f).boot = s.boot := rfl
@[simp] theorem State.updKslot_pw (k : Nat) (f : KSlot → KSlot) : (s.updKslot k f).pw = s.pw := rfl

/-! ### `updHerd` -/

@[simp] theorem State.updHerd_pending (hid : Nat) (f : Herd → Herd) : (s.updHerd hid f).pending = s.pending := rfl
@[simp] theorem State.updHerd_freeCtr (hid : Nat) (f : Herd → Herd) : (s.updHerd hid f).freeCtr = s.freeCtr := rfl
@[simp] theorem State.updHerd_code (hid : Nat) (f : Herd → Herd) : (s.updHerd hid f).code = s.code := rfl
@[simp] theorem State.updHerd_dev (hid : Nat) (f : Herd → Herd) : (s.updHerd hid f).dev = s.dev := rfl
@[simp] theorem State.updHerd_cores (hid : Nat) (f : Herd → Herd) : (s.updHerd hid f).cores = s.cores := rfl
@[simp] theorem State.updHerd_clusters (hid : Nat) (f : Herd → Herd) : (s.updHerd hid f).clusters = s.clusters := rfl
@[simp] theorem State.updHerd_runAhead (hid : Nat) (f : Herd → Herd) : (s.updHerd hid f).runAhead = s.runAhead := rfl
@[simp] theorem State.updHerd_mem (hid : Nat) (f : Herd → Herd) : (s.updHerd hid f).mem = s.mem := rfl
@[simp] theorem State.updHerd_major (hid : Nat) (f : Herd → Herd) : (s.updHerd hid f).major = s.major := rfl
@[simp] theorem State.updHerd_lines (hid : Nat) (f : Herd → Herd) : (s.updHerd hid f).lines = s.lines := rfl
@[simp] theorem State.updHerd_versions (hid : Nat) (f : Herd → Herd) : (s.updHerd hid f).versions = s.versions := rfl
@[simp] theorem State.updHerd_integ (hid : Nat) (f : Herd → Herd) : (s.updHerd hid f).integ = s.integ := rfl
@[simp] theorem State.updHerd_dirty (hid : Nat) (f : Herd → Herd) : (s.updHerd hid f).dirty = s.dirty := rfl
@[simp] theorem State.updHerd_intCache (hid : Nat) (f : Herd → Herd) : (s.updHerd hid f).intCache = s.intCache := rfl
@[simp] theorem State.updHerd_targets (hid : Nat) (f : Herd → Herd) : (s.updHerd hid f).targets = s.targets := rfl
@[simp] theorem State.updHerd_retry (hid : Nat) (f : Herd → Herd) : (s.updHerd hid f).retry = s.retry := rfl
@[simp] theorem State.updHerd_dramQ (hid : Nat) (f : Herd → Herd) : (s.updHerd hid f).dramQ = s.dramQ := rfl
@[simp] theorem State.updHerd_dramOut (hid : Nat) (f : Herd → Herd) : (s.updHerd hid f).dramOut = s.dramOut := rfl
@[simp] theorem State.updHerd_reqNum (hid : Nat) (f : Herd → Herd) : (s.updHerd hid f).reqNum = s.reqNum := rfl
@[simp] theorem State.updHerd_movWaits (hid : Nat) (f : Herd → Herd) : (s.updHerd hid f).movWaits = s.movWaits := rfl
@[simp] theorem State.updHerd_routes (hid : Nat) (f : Herd → Herd) : (s.updHerd hid f).routes = s.routes := rfl
@[simp] theorem State.updHerd_bridle (hid : Nat) (f : Herd → Herd) : (s.updHerd hid f).bridle = s.bridle := rfl
@[simp] theorem State.updHerd_resp (hid : Nat) (f : Herd → Herd) : (s.updHerd hid f).resp = s.resp := rfl
@[simp] theorem State.updHerd_hwins (hid : Nat) (f : Herd → Herd) : (s.updHerd hid f).hwins = s.hwins := rfl
@[simp] theorem State.updHerd_hostPages (hid : Nat) (f : Herd → Herd) : (s.updHerd hid f).hostPages = s.hostPages := rfl
@[simp] theorem State.updHerd_hwBase (hid : Nat) (f : Herd → Herd) : (s.updHerd hid f).hwBase = s.hwBase := rfl
@[simp] theorem State.updHerd_poolMap (hid : Nat) (f : Herd → Herd) : (s.updHerd hid f).poolMap = s.poolMap := rfl
@[simp] theorem State.updHerd_donations (hid : Nat) (f : Herd → Herd) : (s.updHerd hid f).donations = s.donations := rfl
@[simp] theorem State.updHerd_coord (hid : Nat) (f : Herd → Herd) : (s.updHerd hid f).coord = s.coord := rfl
@[simp] theorem State.updHerd_lineMeta (hid : Nat) (f : Herd → Herd) : (s.updHerd hid f).lineMeta = s.lineMeta := rfl
@[simp] theorem State.updHerd_pages (hid : Nat) (f : Herd → Herd) : (s.updHerd hid f).pages = s.pages := rfl
@[simp] theorem State.updHerd_poolSize (hid : Nat) (f : Herd → Herd) : (s.updHerd hid f).poolSize = s.poolSize := rfl
@[simp] theorem State.updHerd_moves (hid : Nat) (f : Herd → Herd) : (s.updHerd hid f).moves = s.moves := rfl
@[simp] theorem State.updHerd_promos (hid : Nat) (f : Herd → Herd) : (s.updHerd hid f).promos = s.promos := rfl
@[simp] theorem State.updHerd_pressure (hid : Nat) (f : Herd → Herd) : (s.updHerd hid f).pressure = s.pressure := rfl
@[simp] theorem State.updHerd_rekeyJobs (hid : Nat) (f : Herd → Herd) : (s.updHerd hid f).rekeyJobs = s.rekeyJobs := rfl
@[simp] theorem State.updHerd_rekeyQ (hid : Nat) (f : Herd → Herd) : (s.updHerd hid f).rekeyQ = s.rekeyQ := rfl
@[simp] theorem State.updHerd_scrubQ (hid : Nat) (f : Herd → Herd) : (s.updHerd hid f).scrubQ = s.scrubQ := rfl
@[simp] theorem State.updHerd_aperture (hid : Nat) (f : Herd → Herd) : (s.updHerd hid f).aperture = s.aperture := rfl
@[simp] theorem State.updHerd_hostMem (hid : Nat) (f : Herd → Herd) : (s.updHerd hid f).hostMem = s.hostMem := rfl
@[simp] theorem State.updHerd_poolMem (hid : Nat) (f : Herd → Herd) : (s.updHerd hid f).poolMem = s.poolMem := rfl
@[simp] theorem State.updHerd_ctxs (hid : Nat) (f : Herd → Herd) : (s.updHerd hid f).ctxs = s.ctxs := rfl
@[simp] theorem State.updHerd_slots (hid : Nat) (f : Herd → Herd) : (s.updHerd hid f).slots = s.slots := rfl
@[simp] theorem State.updHerd_fences (hid : Nat) (f : Herd → Herd) : (s.updHerd hid f).fences = s.fences := rfl
@[simp] theorem State.updHerd_sigQ (hid : Nat) (f : Herd → Herd) : (s.updHerd hid f).sigQ = s.sigQ := rfl
@[simp] theorem State.updHerd_turn (hid : Nat) (f : Herd → Herd) : (s.updHerd hid f).turn = s.turn := rfl
@[simp] theorem State.updHerd_devRing (hid : Nat) (f : Herd → Herd) : (s.updHerd hid f).devRing = s.devRing := rfl
@[simp] theorem State.updHerd_mbx (hid : Nat) (f : Herd → Herd) : (s.updHerd hid f).mbx = s.mbx := rfl
@[simp] theorem State.updHerd_mbxQ (hid : Nat) (f : Herd → Herd) : (s.updHerd hid f).mbxQ = s.mbxQ := rfl
@[simp] theorem State.updHerd_regs (hid : Nat) (f : Herd → Herd) : (s.updHerd hid f).regs = s.regs := rfl
@[simp] theorem State.updHerd_ctxCnt (hid : Nat) (f : Herd → Herd) : (s.updHerd hid f).ctxCnt = s.ctxCnt := rfl
@[simp] theorem State.updHerd_pcie (hid : Nat) (f : Herd → Herd) : (s.updHerd hid f).pcie = s.pcie := rfl
@[simp] theorem State.updHerd_learn (hid : Nat) (f : Herd → Herd) : (s.updHerd hid f).learn = s.learn := rfl
@[simp] theorem State.updHerd_upd (hid : Nat) (f : Herd → Herd) : (s.updHerd hid f).upd = s.upd := rfl
@[simp] theorem State.updHerd_markers (hid : Nat) (f : Herd → Herd) : (s.updHerd hid f).markers = s.markers := rfl
@[simp] theorem State.updHerd_ports (hid : Nat) (f : Herd → Herd) : (s.updHerd hid f).ports = s.ports := rfl
@[simp] theorem State.updHerd_node (hid : Nat) (f : Herd → Herd) : (s.updHerd hid f).node = s.node := rfl
@[simp] theorem State.updHerd_admitList (hid : Nat) (f : Herd → Herd) : (s.updHerd hid f).admitList = s.admitList := rfl
@[simp] theorem State.updHerd_poolReqs (hid : Nat) (f : Herd → Herd) : (s.updHerd hid f).poolReqs = s.poolReqs := rfl
@[simp] theorem State.updHerd_poolGot (hid : Nat) (f : Herd → Herd) : (s.updHerd hid f).poolGot = s.poolGot := rfl
@[simp] theorem State.updHerd_colls (hid : Nat) (f : Herd → Herd) : (s.updHerd hid f).colls = s.colls := rfl
@[simp] theorem State.updHerd_slotTab (hid : Nat) (f : Herd → Herd) : (s.updHerd hid f).slotTab = s.slotTab := rfl
@[simp] theorem State.updHerd_slotShadow (hid : Nat) (f : Herd → Herd) : (s.updHerd hid f).slotShadow = s.slotShadow := rfl
@[simp] theorem State.updHerd_slotSwap (hid : Nat) (f : Herd → Herd) : (s.updHerd hid f).slotSwap = s.slotSwap := rfl
@[simp] theorem State.updHerd_tet (hid : Nat) (f : Herd → Herd) : (s.updHerd hid f).tet = s.tet := rfl
@[simp] theorem State.updHerd_herds (hid : Nat) (f : Herd → Herd) : (s.updHerd hid f).herds = s.herds.map fun h => if h.hid = hid then f h else h := rfl
@[simp] theorem State.updHerd_ctlOut (hid : Nat) (f : Herd → Herd) : (s.updHerd hid f).ctlOut = s.ctlOut := rfl
@[simp] theorem State.updHerd_handoffs (hid : Nat) (f : Herd → Herd) : (s.updHerd hid f).handoffs = s.handoffs := rfl
@[simp] theorem State.updHerd_keys (hid : Nat) (f : Herd → Herd) : (s.updHerd hid f).keys = s.keys := rfl
@[simp] theorem State.updHerd_charters (hid : Nat) (f : Herd → Herd) : (s.updHerd hid f).charters = s.charters := rfl
@[simp] theorem State.updHerd_xfers (hid : Nat) (f : Herd → Herd) : (s.updHerd hid f).xfers = s.xfers := rfl
@[simp] theorem State.updHerd_stores (hid : Nat) (f : Herd → Herd) : (s.updHerd hid f).stores = s.stores := rfl
@[simp] theorem State.updHerd_ckpts (hid : Nat) (f : Herd → Herd) : (s.updHerd hid f).ckpts = s.ckpts := rfl
@[simp] theorem State.updHerd_dstream (hid : Nat) (f : Herd → Herd) : (s.updHerd hid f).dstream = s.dstream := rfl
@[simp] theorem State.updHerd_lc (hid : Nat) (f : Herd → Herd) : (s.updHerd hid f).lc = s.lc := rfl
@[simp] theorem State.updHerd_ras (hid : Nat) (f : Herd → Herd) : (s.updHerd hid f).ras = s.ras := rfl
@[simp] theorem State.updHerd_boot (hid : Nat) (f : Herd → Herd) : (s.updHerd hid f).boot = s.boot := rfl
@[simp] theorem State.updHerd_pw (hid : Nat) (f : Herd → Herd) : (s.updHerd hid f).pw = s.pw := rfl

/-! ### `setReg` -/

@[simp] theorem State.setReg_pending (off : Nat) (v : W64) : (s.setReg off v).pending = s.pending := rfl
@[simp] theorem State.setReg_freeCtr (off : Nat) (v : W64) : (s.setReg off v).freeCtr = s.freeCtr := rfl
@[simp] theorem State.setReg_code (off : Nat) (v : W64) : (s.setReg off v).code = s.code := rfl
@[simp] theorem State.setReg_dev (off : Nat) (v : W64) : (s.setReg off v).dev = s.dev := rfl
@[simp] theorem State.setReg_cores (off : Nat) (v : W64) : (s.setReg off v).cores = s.cores := rfl
@[simp] theorem State.setReg_clusters (off : Nat) (v : W64) : (s.setReg off v).clusters = s.clusters := rfl
@[simp] theorem State.setReg_runAhead (off : Nat) (v : W64) : (s.setReg off v).runAhead = s.runAhead := rfl
@[simp] theorem State.setReg_mem (off : Nat) (v : W64) : (s.setReg off v).mem = s.mem := rfl
@[simp] theorem State.setReg_major (off : Nat) (v : W64) : (s.setReg off v).major = s.major := rfl
@[simp] theorem State.setReg_lines (off : Nat) (v : W64) : (s.setReg off v).lines = s.lines := rfl
@[simp] theorem State.setReg_versions (off : Nat) (v : W64) : (s.setReg off v).versions = s.versions := rfl
@[simp] theorem State.setReg_integ (off : Nat) (v : W64) : (s.setReg off v).integ = s.integ := rfl
@[simp] theorem State.setReg_dirty (off : Nat) (v : W64) : (s.setReg off v).dirty = s.dirty := rfl
@[simp] theorem State.setReg_intCache (off : Nat) (v : W64) : (s.setReg off v).intCache = s.intCache := rfl
@[simp] theorem State.setReg_targets (off : Nat) (v : W64) : (s.setReg off v).targets = s.targets := rfl
@[simp] theorem State.setReg_retry (off : Nat) (v : W64) : (s.setReg off v).retry = s.retry := rfl
@[simp] theorem State.setReg_dramQ (off : Nat) (v : W64) : (s.setReg off v).dramQ = s.dramQ := rfl
@[simp] theorem State.setReg_dramOut (off : Nat) (v : W64) : (s.setReg off v).dramOut = s.dramOut := rfl
@[simp] theorem State.setReg_reqNum (off : Nat) (v : W64) : (s.setReg off v).reqNum = s.reqNum := rfl
@[simp] theorem State.setReg_movWaits (off : Nat) (v : W64) : (s.setReg off v).movWaits = s.movWaits := rfl
@[simp] theorem State.setReg_routes (off : Nat) (v : W64) : (s.setReg off v).routes = s.routes := rfl
@[simp] theorem State.setReg_bridle (off : Nat) (v : W64) : (s.setReg off v).bridle = s.bridle := rfl
@[simp] theorem State.setReg_resp (off : Nat) (v : W64) : (s.setReg off v).resp = s.resp := rfl
@[simp] theorem State.setReg_hwins (off : Nat) (v : W64) : (s.setReg off v).hwins = s.hwins := rfl
@[simp] theorem State.setReg_hostPages (off : Nat) (v : W64) : (s.setReg off v).hostPages = s.hostPages := rfl
@[simp] theorem State.setReg_hwBase (off : Nat) (v : W64) : (s.setReg off v).hwBase = s.hwBase := rfl
@[simp] theorem State.setReg_poolMap (off : Nat) (v : W64) : (s.setReg off v).poolMap = s.poolMap := rfl
@[simp] theorem State.setReg_donations (off : Nat) (v : W64) : (s.setReg off v).donations = s.donations := rfl
@[simp] theorem State.setReg_coord (off : Nat) (v : W64) : (s.setReg off v).coord = s.coord := rfl
@[simp] theorem State.setReg_lineMeta (off : Nat) (v : W64) : (s.setReg off v).lineMeta = s.lineMeta := rfl
@[simp] theorem State.setReg_pages (off : Nat) (v : W64) : (s.setReg off v).pages = s.pages := rfl
@[simp] theorem State.setReg_poolSize (off : Nat) (v : W64) : (s.setReg off v).poolSize = s.poolSize := rfl
@[simp] theorem State.setReg_moves (off : Nat) (v : W64) : (s.setReg off v).moves = s.moves := rfl
@[simp] theorem State.setReg_promos (off : Nat) (v : W64) : (s.setReg off v).promos = s.promos := rfl
@[simp] theorem State.setReg_pressure (off : Nat) (v : W64) : (s.setReg off v).pressure = s.pressure := rfl
@[simp] theorem State.setReg_rekeyJobs (off : Nat) (v : W64) : (s.setReg off v).rekeyJobs = s.rekeyJobs := rfl
@[simp] theorem State.setReg_rekeyQ (off : Nat) (v : W64) : (s.setReg off v).rekeyQ = s.rekeyQ := rfl
@[simp] theorem State.setReg_scrubQ (off : Nat) (v : W64) : (s.setReg off v).scrubQ = s.scrubQ := rfl
@[simp] theorem State.setReg_aperture (off : Nat) (v : W64) : (s.setReg off v).aperture = s.aperture := rfl
@[simp] theorem State.setReg_hostMem (off : Nat) (v : W64) : (s.setReg off v).hostMem = s.hostMem := rfl
@[simp] theorem State.setReg_poolMem (off : Nat) (v : W64) : (s.setReg off v).poolMem = s.poolMem := rfl
@[simp] theorem State.setReg_ctxs (off : Nat) (v : W64) : (s.setReg off v).ctxs = s.ctxs := rfl
@[simp] theorem State.setReg_slots (off : Nat) (v : W64) : (s.setReg off v).slots = s.slots := rfl
@[simp] theorem State.setReg_fences (off : Nat) (v : W64) : (s.setReg off v).fences = s.fences := rfl
@[simp] theorem State.setReg_sigQ (off : Nat) (v : W64) : (s.setReg off v).sigQ = s.sigQ := rfl
@[simp] theorem State.setReg_turn (off : Nat) (v : W64) : (s.setReg off v).turn = s.turn := rfl
@[simp] theorem State.setReg_devRing (off : Nat) (v : W64) : (s.setReg off v).devRing = s.devRing := rfl
@[simp] theorem State.setReg_mbx (off : Nat) (v : W64) : (s.setReg off v).mbx = s.mbx := rfl
@[simp] theorem State.setReg_mbxQ (off : Nat) (v : W64) : (s.setReg off v).mbxQ = s.mbxQ := rfl
@[simp] theorem State.setReg_regs (off : Nat) (v : W64) : (s.setReg off v).regs = Tab.set 0 s.regs off v := rfl
@[simp] theorem State.setReg_ctxCnt (off : Nat) (v : W64) : (s.setReg off v).ctxCnt = s.ctxCnt := rfl
@[simp] theorem State.setReg_pcie (off : Nat) (v : W64) : (s.setReg off v).pcie = s.pcie := rfl
@[simp] theorem State.setReg_learn (off : Nat) (v : W64) : (s.setReg off v).learn = s.learn := rfl
@[simp] theorem State.setReg_upd (off : Nat) (v : W64) : (s.setReg off v).upd = s.upd := rfl
@[simp] theorem State.setReg_markers (off : Nat) (v : W64) : (s.setReg off v).markers = s.markers := rfl
@[simp] theorem State.setReg_ports (off : Nat) (v : W64) : (s.setReg off v).ports = s.ports := rfl
@[simp] theorem State.setReg_node (off : Nat) (v : W64) : (s.setReg off v).node = s.node := rfl
@[simp] theorem State.setReg_admitList (off : Nat) (v : W64) : (s.setReg off v).admitList = s.admitList := rfl
@[simp] theorem State.setReg_poolReqs (off : Nat) (v : W64) : (s.setReg off v).poolReqs = s.poolReqs := rfl
@[simp] theorem State.setReg_poolGot (off : Nat) (v : W64) : (s.setReg off v).poolGot = s.poolGot := rfl
@[simp] theorem State.setReg_colls (off : Nat) (v : W64) : (s.setReg off v).colls = s.colls := rfl
@[simp] theorem State.setReg_slotTab (off : Nat) (v : W64) : (s.setReg off v).slotTab = s.slotTab := rfl
@[simp] theorem State.setReg_slotShadow (off : Nat) (v : W64) : (s.setReg off v).slotShadow = s.slotShadow := rfl
@[simp] theorem State.setReg_slotSwap (off : Nat) (v : W64) : (s.setReg off v).slotSwap = s.slotSwap := rfl
@[simp] theorem State.setReg_tet (off : Nat) (v : W64) : (s.setReg off v).tet = s.tet := rfl
@[simp] theorem State.setReg_herds (off : Nat) (v : W64) : (s.setReg off v).herds = s.herds := rfl
@[simp] theorem State.setReg_ctlOut (off : Nat) (v : W64) : (s.setReg off v).ctlOut = s.ctlOut := rfl
@[simp] theorem State.setReg_handoffs (off : Nat) (v : W64) : (s.setReg off v).handoffs = s.handoffs := rfl
@[simp] theorem State.setReg_keys (off : Nat) (v : W64) : (s.setReg off v).keys = s.keys := rfl
@[simp] theorem State.setReg_charters (off : Nat) (v : W64) : (s.setReg off v).charters = s.charters := rfl
@[simp] theorem State.setReg_xfers (off : Nat) (v : W64) : (s.setReg off v).xfers = s.xfers := rfl
@[simp] theorem State.setReg_stores (off : Nat) (v : W64) : (s.setReg off v).stores = s.stores := rfl
@[simp] theorem State.setReg_ckpts (off : Nat) (v : W64) : (s.setReg off v).ckpts = s.ckpts := rfl
@[simp] theorem State.setReg_dstream (off : Nat) (v : W64) : (s.setReg off v).dstream = s.dstream := rfl
@[simp] theorem State.setReg_lc (off : Nat) (v : W64) : (s.setReg off v).lc = s.lc := rfl
@[simp] theorem State.setReg_ras (off : Nat) (v : W64) : (s.setReg off v).ras = s.ras := rfl
@[simp] theorem State.setReg_boot (off : Nat) (v : W64) : (s.setReg off v).boot = s.boot := rfl
@[simp] theorem State.setReg_pw (off : Nat) (v : W64) : (s.setReg off v).pw = s.pw := rfl

/-! ### `bumpCtx` -/

@[simp] theorem State.bumpCtx_pending (kind c st n : Nat) : (s.bumpCtx kind c st n).pending = s.pending := rfl
@[simp] theorem State.bumpCtx_freeCtr (kind c st n : Nat) : (s.bumpCtx kind c st n).freeCtr = s.freeCtr := rfl
@[simp] theorem State.bumpCtx_code (kind c st n : Nat) : (s.bumpCtx kind c st n).code = s.code := rfl
@[simp] theorem State.bumpCtx_dev (kind c st n : Nat) : (s.bumpCtx kind c st n).dev = s.dev := rfl
@[simp] theorem State.bumpCtx_cores (kind c st n : Nat) : (s.bumpCtx kind c st n).cores = s.cores := rfl
@[simp] theorem State.bumpCtx_clusters (kind c st n : Nat) : (s.bumpCtx kind c st n).clusters = s.clusters := rfl
@[simp] theorem State.bumpCtx_runAhead (kind c st n : Nat) : (s.bumpCtx kind c st n).runAhead = s.runAhead := rfl
@[simp] theorem State.bumpCtx_mem (kind c st n : Nat) : (s.bumpCtx kind c st n).mem = s.mem := rfl
@[simp] theorem State.bumpCtx_major (kind c st n : Nat) : (s.bumpCtx kind c st n).major = s.major := rfl
@[simp] theorem State.bumpCtx_lines (kind c st n : Nat) : (s.bumpCtx kind c st n).lines = s.lines := rfl
@[simp] theorem State.bumpCtx_versions (kind c st n : Nat) : (s.bumpCtx kind c st n).versions = s.versions := rfl
@[simp] theorem State.bumpCtx_integ (kind c st n : Nat) : (s.bumpCtx kind c st n).integ = s.integ := rfl
@[simp] theorem State.bumpCtx_dirty (kind c st n : Nat) : (s.bumpCtx kind c st n).dirty = s.dirty := rfl
@[simp] theorem State.bumpCtx_intCache (kind c st n : Nat) : (s.bumpCtx kind c st n).intCache = s.intCache := rfl
@[simp] theorem State.bumpCtx_targets (kind c st n : Nat) : (s.bumpCtx kind c st n).targets = s.targets := rfl
@[simp] theorem State.bumpCtx_retry (kind c st n : Nat) : (s.bumpCtx kind c st n).retry = s.retry := rfl
@[simp] theorem State.bumpCtx_dramQ (kind c st n : Nat) : (s.bumpCtx kind c st n).dramQ = s.dramQ := rfl
@[simp] theorem State.bumpCtx_dramOut (kind c st n : Nat) : (s.bumpCtx kind c st n).dramOut = s.dramOut := rfl
@[simp] theorem State.bumpCtx_reqNum (kind c st n : Nat) : (s.bumpCtx kind c st n).reqNum = s.reqNum := rfl
@[simp] theorem State.bumpCtx_movWaits (kind c st n : Nat) : (s.bumpCtx kind c st n).movWaits = s.movWaits := rfl
@[simp] theorem State.bumpCtx_routes (kind c st n : Nat) : (s.bumpCtx kind c st n).routes = s.routes := rfl
@[simp] theorem State.bumpCtx_bridle (kind c st n : Nat) : (s.bumpCtx kind c st n).bridle = s.bridle := rfl
@[simp] theorem State.bumpCtx_resp (kind c st n : Nat) : (s.bumpCtx kind c st n).resp = s.resp := rfl
@[simp] theorem State.bumpCtx_hwins (kind c st n : Nat) : (s.bumpCtx kind c st n).hwins = s.hwins := rfl
@[simp] theorem State.bumpCtx_hostPages (kind c st n : Nat) : (s.bumpCtx kind c st n).hostPages = s.hostPages := rfl
@[simp] theorem State.bumpCtx_hwBase (kind c st n : Nat) : (s.bumpCtx kind c st n).hwBase = s.hwBase := rfl
@[simp] theorem State.bumpCtx_poolMap (kind c st n : Nat) : (s.bumpCtx kind c st n).poolMap = s.poolMap := rfl
@[simp] theorem State.bumpCtx_donations (kind c st n : Nat) : (s.bumpCtx kind c st n).donations = s.donations := rfl
@[simp] theorem State.bumpCtx_coord (kind c st n : Nat) : (s.bumpCtx kind c st n).coord = s.coord := rfl
@[simp] theorem State.bumpCtx_lineMeta (kind c st n : Nat) : (s.bumpCtx kind c st n).lineMeta = s.lineMeta := rfl
@[simp] theorem State.bumpCtx_pages (kind c st n : Nat) : (s.bumpCtx kind c st n).pages = s.pages := rfl
@[simp] theorem State.bumpCtx_poolSize (kind c st n : Nat) : (s.bumpCtx kind c st n).poolSize = s.poolSize := rfl
@[simp] theorem State.bumpCtx_moves (kind c st n : Nat) : (s.bumpCtx kind c st n).moves = s.moves := rfl
@[simp] theorem State.bumpCtx_promos (kind c st n : Nat) : (s.bumpCtx kind c st n).promos = s.promos := rfl
@[simp] theorem State.bumpCtx_pressure (kind c st n : Nat) : (s.bumpCtx kind c st n).pressure = s.pressure := rfl
@[simp] theorem State.bumpCtx_rekeyJobs (kind c st n : Nat) : (s.bumpCtx kind c st n).rekeyJobs = s.rekeyJobs := rfl
@[simp] theorem State.bumpCtx_rekeyQ (kind c st n : Nat) : (s.bumpCtx kind c st n).rekeyQ = s.rekeyQ := rfl
@[simp] theorem State.bumpCtx_scrubQ (kind c st n : Nat) : (s.bumpCtx kind c st n).scrubQ = s.scrubQ := rfl
@[simp] theorem State.bumpCtx_aperture (kind c st n : Nat) : (s.bumpCtx kind c st n).aperture = s.aperture := rfl
@[simp] theorem State.bumpCtx_hostMem (kind c st n : Nat) : (s.bumpCtx kind c st n).hostMem = s.hostMem := rfl
@[simp] theorem State.bumpCtx_poolMem (kind c st n : Nat) : (s.bumpCtx kind c st n).poolMem = s.poolMem := rfl
@[simp] theorem State.bumpCtx_ctxs (kind c st n : Nat) : (s.bumpCtx kind c st n).ctxs = s.ctxs := rfl
@[simp] theorem State.bumpCtx_slots (kind c st n : Nat) : (s.bumpCtx kind c st n).slots = s.slots := rfl
@[simp] theorem State.bumpCtx_fences (kind c st n : Nat) : (s.bumpCtx kind c st n).fences = s.fences := rfl
@[simp] theorem State.bumpCtx_sigQ (kind c st n : Nat) : (s.bumpCtx kind c st n).sigQ = s.sigQ := rfl
@[simp] theorem State.bumpCtx_turn (kind c st n : Nat) : (s.bumpCtx kind c st n).turn = s.turn := rfl
@[simp] theorem State.bumpCtx_devRing (kind c st n : Nat) : (s.bumpCtx kind c st n).devRing = s.devRing := rfl
@[simp] theorem State.bumpCtx_mbx (kind c st n : Nat) : (s.bumpCtx kind c st n).mbx = s.mbx := rfl
@[simp] theorem State.bumpCtx_mbxQ (kind c st n : Nat) : (s.bumpCtx kind c st n).mbxQ = s.mbxQ := rfl
@[simp] theorem State.bumpCtx_regs (kind c st n : Nat) : (s.bumpCtx kind c st n).regs = s.regs := rfl
@[simp] theorem State.bumpCtx_ctxCnt (kind c st n : Nat) : (s.bumpCtx kind c st n).ctxCnt =
    let v := (Tab.get 0 s.ctxCnt (cntKey kind c st)).toNat + n
    let t := Tab.set 0 s.ctxCnt (cntKey kind c st) (w64 v)
    if v < 2 ^ 64 then t else Tab.set 0 t (cntKey 63 c 0) 1 := rfl
@[simp] theorem State.bumpCtx_pcie (kind c st n : Nat) : (s.bumpCtx kind c st n).pcie = s.pcie := rfl
@[simp] theorem State.bumpCtx_learn (kind c st n : Nat) : (s.bumpCtx kind c st n).learn = s.learn := rfl
@[simp] theorem State.bumpCtx_upd (kind c st n : Nat) : (s.bumpCtx kind c st n).upd = s.upd := rfl
@[simp] theorem State.bumpCtx_markers (kind c st n : Nat) : (s.bumpCtx kind c st n).markers = s.markers := rfl
@[simp] theorem State.bumpCtx_ports (kind c st n : Nat) : (s.bumpCtx kind c st n).ports = s.ports := rfl
@[simp] theorem State.bumpCtx_node (kind c st n : Nat) : (s.bumpCtx kind c st n).node = s.node := rfl
@[simp] theorem State.bumpCtx_admitList (kind c st n : Nat) : (s.bumpCtx kind c st n).admitList = s.admitList := rfl
@[simp] theorem State.bumpCtx_poolReqs (kind c st n : Nat) : (s.bumpCtx kind c st n).poolReqs = s.poolReqs := rfl
@[simp] theorem State.bumpCtx_poolGot (kind c st n : Nat) : (s.bumpCtx kind c st n).poolGot = s.poolGot := rfl
@[simp] theorem State.bumpCtx_colls (kind c st n : Nat) : (s.bumpCtx kind c st n).colls = s.colls := rfl
@[simp] theorem State.bumpCtx_slotTab (kind c st n : Nat) : (s.bumpCtx kind c st n).slotTab = s.slotTab := rfl
@[simp] theorem State.bumpCtx_slotShadow (kind c st n : Nat) : (s.bumpCtx kind c st n).slotShadow = s.slotShadow := rfl
@[simp] theorem State.bumpCtx_slotSwap (kind c st n : Nat) : (s.bumpCtx kind c st n).slotSwap = s.slotSwap := rfl
@[simp] theorem State.bumpCtx_tet (kind c st n : Nat) : (s.bumpCtx kind c st n).tet = s.tet := rfl
@[simp] theorem State.bumpCtx_herds (kind c st n : Nat) : (s.bumpCtx kind c st n).herds = s.herds := rfl
@[simp] theorem State.bumpCtx_ctlOut (kind c st n : Nat) : (s.bumpCtx kind c st n).ctlOut = s.ctlOut := rfl
@[simp] theorem State.bumpCtx_handoffs (kind c st n : Nat) : (s.bumpCtx kind c st n).handoffs = s.handoffs := rfl
@[simp] theorem State.bumpCtx_keys (kind c st n : Nat) : (s.bumpCtx kind c st n).keys = s.keys := rfl
@[simp] theorem State.bumpCtx_charters (kind c st n : Nat) : (s.bumpCtx kind c st n).charters = s.charters := rfl
@[simp] theorem State.bumpCtx_xfers (kind c st n : Nat) : (s.bumpCtx kind c st n).xfers = s.xfers := rfl
@[simp] theorem State.bumpCtx_stores (kind c st n : Nat) : (s.bumpCtx kind c st n).stores = s.stores := rfl
@[simp] theorem State.bumpCtx_ckpts (kind c st n : Nat) : (s.bumpCtx kind c st n).ckpts = s.ckpts := rfl
@[simp] theorem State.bumpCtx_dstream (kind c st n : Nat) : (s.bumpCtx kind c st n).dstream = s.dstream := rfl
@[simp] theorem State.bumpCtx_lc (kind c st n : Nat) : (s.bumpCtx kind c st n).lc = s.lc := rfl
@[simp] theorem State.bumpCtx_ras (kind c st n : Nat) : (s.bumpCtx kind c st n).ras = s.ras := rfl
@[simp] theorem State.bumpCtx_boot (kind c st n : Nat) : (s.bumpCtx kind c st n).boot = s.boot := rfl
@[simp] theorem State.bumpCtx_pw (kind c st n : Nat) : (s.bumpCtx kind c st n).pw = s.pw := rfl

/-! ### `msgDue` -/

@[simp] theorem State.msgDue_pending (v : Nat) : (s.msgDue v).pending = s.pending := rfl
@[simp] theorem State.msgDue_freeCtr (v : Nat) : (s.msgDue v).freeCtr = s.freeCtr := rfl
@[simp] theorem State.msgDue_code (v : Nat) : (s.msgDue v).code = s.code := rfl
@[simp] theorem State.msgDue_dev (v : Nat) : (s.msgDue v).dev = s.dev := rfl
@[simp] theorem State.msgDue_cores (v : Nat) : (s.msgDue v).cores = s.cores := rfl
@[simp] theorem State.msgDue_clusters (v : Nat) : (s.msgDue v).clusters = s.clusters := rfl
@[simp] theorem State.msgDue_runAhead (v : Nat) : (s.msgDue v).runAhead = s.runAhead := rfl
@[simp] theorem State.msgDue_mem (v : Nat) : (s.msgDue v).mem = s.mem := rfl
@[simp] theorem State.msgDue_major (v : Nat) : (s.msgDue v).major = s.major := rfl
@[simp] theorem State.msgDue_lines (v : Nat) : (s.msgDue v).lines = s.lines := rfl
@[simp] theorem State.msgDue_versions (v : Nat) : (s.msgDue v).versions = s.versions := rfl
@[simp] theorem State.msgDue_integ (v : Nat) : (s.msgDue v).integ = s.integ := rfl
@[simp] theorem State.msgDue_dirty (v : Nat) : (s.msgDue v).dirty = s.dirty := rfl
@[simp] theorem State.msgDue_intCache (v : Nat) : (s.msgDue v).intCache = s.intCache := rfl
@[simp] theorem State.msgDue_targets (v : Nat) : (s.msgDue v).targets = s.targets := rfl
@[simp] theorem State.msgDue_retry (v : Nat) : (s.msgDue v).retry = s.retry := rfl
@[simp] theorem State.msgDue_dramQ (v : Nat) : (s.msgDue v).dramQ = s.dramQ := rfl
@[simp] theorem State.msgDue_dramOut (v : Nat) : (s.msgDue v).dramOut = s.dramOut := rfl
@[simp] theorem State.msgDue_reqNum (v : Nat) : (s.msgDue v).reqNum = s.reqNum := rfl
@[simp] theorem State.msgDue_movWaits (v : Nat) : (s.msgDue v).movWaits = s.movWaits := rfl
@[simp] theorem State.msgDue_routes (v : Nat) : (s.msgDue v).routes = s.routes := rfl
@[simp] theorem State.msgDue_bridle (v : Nat) : (s.msgDue v).bridle = s.bridle := rfl
@[simp] theorem State.msgDue_resp (v : Nat) : (s.msgDue v).resp = s.resp := rfl
@[simp] theorem State.msgDue_hwins (v : Nat) : (s.msgDue v).hwins = s.hwins := rfl
@[simp] theorem State.msgDue_hostPages (v : Nat) : (s.msgDue v).hostPages = s.hostPages := rfl
@[simp] theorem State.msgDue_hwBase (v : Nat) : (s.msgDue v).hwBase = s.hwBase := rfl
@[simp] theorem State.msgDue_poolMap (v : Nat) : (s.msgDue v).poolMap = s.poolMap := rfl
@[simp] theorem State.msgDue_donations (v : Nat) : (s.msgDue v).donations = s.donations := rfl
@[simp] theorem State.msgDue_coord (v : Nat) : (s.msgDue v).coord = s.coord := rfl
@[simp] theorem State.msgDue_lineMeta (v : Nat) : (s.msgDue v).lineMeta = s.lineMeta := rfl
@[simp] theorem State.msgDue_pages (v : Nat) : (s.msgDue v).pages = s.pages := rfl
@[simp] theorem State.msgDue_poolSize (v : Nat) : (s.msgDue v).poolSize = s.poolSize := rfl
@[simp] theorem State.msgDue_moves (v : Nat) : (s.msgDue v).moves = s.moves := rfl
@[simp] theorem State.msgDue_promos (v : Nat) : (s.msgDue v).promos = s.promos := rfl
@[simp] theorem State.msgDue_pressure (v : Nat) : (s.msgDue v).pressure = s.pressure := rfl
@[simp] theorem State.msgDue_rekeyJobs (v : Nat) : (s.msgDue v).rekeyJobs = s.rekeyJobs := rfl
@[simp] theorem State.msgDue_rekeyQ (v : Nat) : (s.msgDue v).rekeyQ = s.rekeyQ := rfl
@[simp] theorem State.msgDue_scrubQ (v : Nat) : (s.msgDue v).scrubQ = s.scrubQ := rfl
@[simp] theorem State.msgDue_aperture (v : Nat) : (s.msgDue v).aperture = s.aperture := rfl
@[simp] theorem State.msgDue_hostMem (v : Nat) : (s.msgDue v).hostMem = s.hostMem := rfl
@[simp] theorem State.msgDue_poolMem (v : Nat) : (s.msgDue v).poolMem = s.poolMem := rfl
@[simp] theorem State.msgDue_ctxs (v : Nat) : (s.msgDue v).ctxs = s.ctxs := rfl
@[simp] theorem State.msgDue_slots (v : Nat) : (s.msgDue v).slots = s.slots := rfl
@[simp] theorem State.msgDue_fences (v : Nat) : (s.msgDue v).fences = s.fences := rfl
@[simp] theorem State.msgDue_sigQ (v : Nat) : (s.msgDue v).sigQ = s.sigQ := rfl
@[simp] theorem State.msgDue_turn (v : Nat) : (s.msgDue v).turn = s.turn := rfl
@[simp] theorem State.msgDue_devRing (v : Nat) : (s.msgDue v).devRing = s.devRing := rfl
@[simp] theorem State.msgDue_mbx (v : Nat) : (s.msgDue v).mbx = s.mbx := rfl
@[simp] theorem State.msgDue_mbxQ (v : Nat) : (s.msgDue v).mbxQ = s.mbxQ := rfl
@[simp] theorem State.msgDue_regs (v : Nat) : (s.msgDue v).regs = s.regs := rfl
@[simp] theorem State.msgDue_ctxCnt (v : Nat) : (s.msgDue v).ctxCnt = s.ctxCnt := rfl
@[simp] theorem State.msgDue_pcie (v : Nat) : (s.msgDue v).pcie = { s.pcie with msix := Tab.upd {} s.pcie.msix v fun e => { e with due := true } } := rfl
@[simp] theorem State.msgDue_learn (v : Nat) : (s.msgDue v).learn = s.learn := rfl
@[simp] theorem State.msgDue_upd (v : Nat) : (s.msgDue v).upd = s.upd := rfl
@[simp] theorem State.msgDue_markers (v : Nat) : (s.msgDue v).markers = s.markers := rfl
@[simp] theorem State.msgDue_ports (v : Nat) : (s.msgDue v).ports = s.ports := rfl
@[simp] theorem State.msgDue_node (v : Nat) : (s.msgDue v).node = s.node := rfl
@[simp] theorem State.msgDue_admitList (v : Nat) : (s.msgDue v).admitList = s.admitList := rfl
@[simp] theorem State.msgDue_poolReqs (v : Nat) : (s.msgDue v).poolReqs = s.poolReqs := rfl
@[simp] theorem State.msgDue_poolGot (v : Nat) : (s.msgDue v).poolGot = s.poolGot := rfl
@[simp] theorem State.msgDue_colls (v : Nat) : (s.msgDue v).colls = s.colls := rfl
@[simp] theorem State.msgDue_slotTab (v : Nat) : (s.msgDue v).slotTab = s.slotTab := rfl
@[simp] theorem State.msgDue_slotShadow (v : Nat) : (s.msgDue v).slotShadow = s.slotShadow := rfl
@[simp] theorem State.msgDue_slotSwap (v : Nat) : (s.msgDue v).slotSwap = s.slotSwap := rfl
@[simp] theorem State.msgDue_tet (v : Nat) : (s.msgDue v).tet = s.tet := rfl
@[simp] theorem State.msgDue_herds (v : Nat) : (s.msgDue v).herds = s.herds := rfl
@[simp] theorem State.msgDue_ctlOut (v : Nat) : (s.msgDue v).ctlOut = s.ctlOut := rfl
@[simp] theorem State.msgDue_handoffs (v : Nat) : (s.msgDue v).handoffs = s.handoffs := rfl
@[simp] theorem State.msgDue_keys (v : Nat) : (s.msgDue v).keys = s.keys := rfl
@[simp] theorem State.msgDue_charters (v : Nat) : (s.msgDue v).charters = s.charters := rfl
@[simp] theorem State.msgDue_xfers (v : Nat) : (s.msgDue v).xfers = s.xfers := rfl
@[simp] theorem State.msgDue_stores (v : Nat) : (s.msgDue v).stores = s.stores := rfl
@[simp] theorem State.msgDue_ckpts (v : Nat) : (s.msgDue v).ckpts = s.ckpts := rfl
@[simp] theorem State.msgDue_dstream (v : Nat) : (s.msgDue v).dstream = s.dstream := rfl
@[simp] theorem State.msgDue_lc (v : Nat) : (s.msgDue v).lc = s.lc := rfl
@[simp] theorem State.msgDue_ras (v : Nat) : (s.msgDue v).ras = s.ras := rfl
@[simp] theorem State.msgDue_boot (v : Nat) : (s.msgDue v).boot = s.boot := rfl
@[simp] theorem State.msgDue_pw (v : Nat) : (s.msgDue v).pw = s.pw := rfl

/-! ### `free` -/

@[simp] theorem State.free_pending (w : Nat) : (s.free w).2.pending = s.pending := rfl
@[simp] theorem State.free_freeCtr (w : Nat) : (s.free w).2.freeCtr = s.freeCtr + 1 := rfl
@[simp] theorem State.free_code (w : Nat) : (s.free w).2.code = s.code := rfl
@[simp] theorem State.free_dev (w : Nat) : (s.free w).2.dev = s.dev := rfl
@[simp] theorem State.free_cores (w : Nat) : (s.free w).2.cores = s.cores := rfl
@[simp] theorem State.free_clusters (w : Nat) : (s.free w).2.clusters = s.clusters := rfl
@[simp] theorem State.free_runAhead (w : Nat) : (s.free w).2.runAhead = s.runAhead := rfl
@[simp] theorem State.free_mem (w : Nat) : (s.free w).2.mem = s.mem := rfl
@[simp] theorem State.free_major (w : Nat) : (s.free w).2.major = s.major := rfl
@[simp] theorem State.free_lines (w : Nat) : (s.free w).2.lines = s.lines := rfl
@[simp] theorem State.free_versions (w : Nat) : (s.free w).2.versions = s.versions := rfl
@[simp] theorem State.free_integ (w : Nat) : (s.free w).2.integ = s.integ := rfl
@[simp] theorem State.free_dirty (w : Nat) : (s.free w).2.dirty = s.dirty := rfl
@[simp] theorem State.free_intCache (w : Nat) : (s.free w).2.intCache = s.intCache := rfl
@[simp] theorem State.free_targets (w : Nat) : (s.free w).2.targets = s.targets := rfl
@[simp] theorem State.free_retry (w : Nat) : (s.free w).2.retry = s.retry := rfl
@[simp] theorem State.free_dramQ (w : Nat) : (s.free w).2.dramQ = s.dramQ := rfl
@[simp] theorem State.free_dramOut (w : Nat) : (s.free w).2.dramOut = s.dramOut := rfl
@[simp] theorem State.free_reqNum (w : Nat) : (s.free w).2.reqNum = s.reqNum := rfl
@[simp] theorem State.free_movWaits (w : Nat) : (s.free w).2.movWaits = s.movWaits := rfl
@[simp] theorem State.free_routes (w : Nat) : (s.free w).2.routes = s.routes := rfl
@[simp] theorem State.free_bridle (w : Nat) : (s.free w).2.bridle = s.bridle := rfl
@[simp] theorem State.free_resp (w : Nat) : (s.free w).2.resp = s.resp := rfl
@[simp] theorem State.free_hwins (w : Nat) : (s.free w).2.hwins = s.hwins := rfl
@[simp] theorem State.free_hostPages (w : Nat) : (s.free w).2.hostPages = s.hostPages := rfl
@[simp] theorem State.free_hwBase (w : Nat) : (s.free w).2.hwBase = s.hwBase := rfl
@[simp] theorem State.free_poolMap (w : Nat) : (s.free w).2.poolMap = s.poolMap := rfl
@[simp] theorem State.free_donations (w : Nat) : (s.free w).2.donations = s.donations := rfl
@[simp] theorem State.free_coord (w : Nat) : (s.free w).2.coord = s.coord := rfl
@[simp] theorem State.free_lineMeta (w : Nat) : (s.free w).2.lineMeta = s.lineMeta := rfl
@[simp] theorem State.free_pages (w : Nat) : (s.free w).2.pages = s.pages := rfl
@[simp] theorem State.free_poolSize (w : Nat) : (s.free w).2.poolSize = s.poolSize := rfl
@[simp] theorem State.free_moves (w : Nat) : (s.free w).2.moves = s.moves := rfl
@[simp] theorem State.free_promos (w : Nat) : (s.free w).2.promos = s.promos := rfl
@[simp] theorem State.free_pressure (w : Nat) : (s.free w).2.pressure = s.pressure := rfl
@[simp] theorem State.free_rekeyJobs (w : Nat) : (s.free w).2.rekeyJobs = s.rekeyJobs := rfl
@[simp] theorem State.free_rekeyQ (w : Nat) : (s.free w).2.rekeyQ = s.rekeyQ := rfl
@[simp] theorem State.free_scrubQ (w : Nat) : (s.free w).2.scrubQ = s.scrubQ := rfl
@[simp] theorem State.free_aperture (w : Nat) : (s.free w).2.aperture = s.aperture := rfl
@[simp] theorem State.free_hostMem (w : Nat) : (s.free w).2.hostMem = s.hostMem := rfl
@[simp] theorem State.free_poolMem (w : Nat) : (s.free w).2.poolMem = s.poolMem := rfl
@[simp] theorem State.free_ctxs (w : Nat) : (s.free w).2.ctxs = s.ctxs := rfl
@[simp] theorem State.free_slots (w : Nat) : (s.free w).2.slots = s.slots := rfl
@[simp] theorem State.free_fences (w : Nat) : (s.free w).2.fences = s.fences := rfl
@[simp] theorem State.free_sigQ (w : Nat) : (s.free w).2.sigQ = s.sigQ := rfl
@[simp] theorem State.free_turn (w : Nat) : (s.free w).2.turn = s.turn := rfl
@[simp] theorem State.free_devRing (w : Nat) : (s.free w).2.devRing = s.devRing := rfl
@[simp] theorem State.free_mbx (w : Nat) : (s.free w).2.mbx = s.mbx := rfl
@[simp] theorem State.free_mbxQ (w : Nat) : (s.free w).2.mbxQ = s.mbxQ := rfl
@[simp] theorem State.free_regs (w : Nat) : (s.free w).2.regs = s.regs := rfl
@[simp] theorem State.free_ctxCnt (w : Nat) : (s.free w).2.ctxCnt = s.ctxCnt := rfl
@[simp] theorem State.free_pcie (w : Nat) : (s.free w).2.pcie = s.pcie := rfl
@[simp] theorem State.free_learn (w : Nat) : (s.free w).2.learn = s.learn := rfl
@[simp] theorem State.free_upd (w : Nat) : (s.free w).2.upd = s.upd := rfl
@[simp] theorem State.free_markers (w : Nat) : (s.free w).2.markers = s.markers := rfl
@[simp] theorem State.free_ports (w : Nat) : (s.free w).2.ports = s.ports := rfl
@[simp] theorem State.free_node (w : Nat) : (s.free w).2.node = s.node := rfl
@[simp] theorem State.free_admitList (w : Nat) : (s.free w).2.admitList = s.admitList := rfl
@[simp] theorem State.free_poolReqs (w : Nat) : (s.free w).2.poolReqs = s.poolReqs := rfl
@[simp] theorem State.free_poolGot (w : Nat) : (s.free w).2.poolGot = s.poolGot := rfl
@[simp] theorem State.free_colls (w : Nat) : (s.free w).2.colls = s.colls := rfl
@[simp] theorem State.free_slotTab (w : Nat) : (s.free w).2.slotTab = s.slotTab := rfl
@[simp] theorem State.free_slotShadow (w : Nat) : (s.free w).2.slotShadow = s.slotShadow := rfl
@[simp] theorem State.free_slotSwap (w : Nat) : (s.free w).2.slotSwap = s.slotSwap := rfl
@[simp] theorem State.free_tet (w : Nat) : (s.free w).2.tet = s.tet := rfl
@[simp] theorem State.free_herds (w : Nat) : (s.free w).2.herds = s.herds := rfl
@[simp] theorem State.free_ctlOut (w : Nat) : (s.free w).2.ctlOut = s.ctlOut := rfl
@[simp] theorem State.free_handoffs (w : Nat) : (s.free w).2.handoffs = s.handoffs := rfl
@[simp] theorem State.free_keys (w : Nat) : (s.free w).2.keys = s.keys := rfl
@[simp] theorem State.free_charters (w : Nat) : (s.free w).2.charters = s.charters := rfl
@[simp] theorem State.free_xfers (w : Nat) : (s.free w).2.xfers = s.xfers := rfl
@[simp] theorem State.free_stores (w : Nat) : (s.free w).2.stores = s.stores := rfl
@[simp] theorem State.free_ckpts (w : Nat) : (s.free w).2.ckpts = s.ckpts := rfl
@[simp] theorem State.free_dstream (w : Nat) : (s.free w).2.dstream = s.dstream := rfl
@[simp] theorem State.free_lc (w : Nat) : (s.free w).2.lc = s.lc := rfl
@[simp] theorem State.free_ras (w : Nat) : (s.free w).2.ras = s.ras := rfl
@[simp] theorem State.free_boot (w : Nat) : (s.free w).2.boot = s.boot := rfl
@[simp] theorem State.free_pw (w : Nat) : (s.free w).2.pw = s.pw := rfl

/-! ### Counters: every field but the registers -/

@[simp] theorem State.bumpAt_pending (c off n : Nat) : (s.bumpAt c off n).pending = s.pending := by unfold State.bumpAt; dsimp only; split <;> rfl
@[simp] theorem State.bumpAt_freeCtr (c off n : Nat) : (s.bumpAt c off n).freeCtr = s.freeCtr := by unfold State.bumpAt; dsimp only; split <;> rfl
@[simp] theorem State.bumpAt_code (c off n : Nat) : (s.bumpAt c off n).code = s.code := by unfold State.bumpAt; dsimp only; split <;> rfl
@[simp] theorem State.bumpAt_dev (c off n : Nat) : (s.bumpAt c off n).dev = s.dev := by unfold State.bumpAt; dsimp only; split <;> rfl
@[simp] theorem State.bumpAt_cores (c off n : Nat) : (s.bumpAt c off n).cores = s.cores := by unfold State.bumpAt; dsimp only; split <;> rfl
@[simp] theorem State.bumpAt_clusters (c off n : Nat) : (s.bumpAt c off n).clusters = s.clusters := by unfold State.bumpAt; dsimp only; split <;> rfl
@[simp] theorem State.bumpAt_runAhead (c off n : Nat) : (s.bumpAt c off n).runAhead = s.runAhead := by unfold State.bumpAt; dsimp only; split <;> rfl
@[simp] theorem State.bumpAt_mem (c off n : Nat) : (s.bumpAt c off n).mem = s.mem := by unfold State.bumpAt; dsimp only; split <;> rfl
@[simp] theorem State.bumpAt_major (c off n : Nat) : (s.bumpAt c off n).major = s.major := by unfold State.bumpAt; dsimp only; split <;> rfl
@[simp] theorem State.bumpAt_lines (c off n : Nat) : (s.bumpAt c off n).lines = s.lines := by unfold State.bumpAt; dsimp only; split <;> rfl
@[simp] theorem State.bumpAt_versions (c off n : Nat) : (s.bumpAt c off n).versions = s.versions := by unfold State.bumpAt; dsimp only; split <;> rfl
@[simp] theorem State.bumpAt_integ (c off n : Nat) : (s.bumpAt c off n).integ = s.integ := by unfold State.bumpAt; dsimp only; split <;> rfl
@[simp] theorem State.bumpAt_dirty (c off n : Nat) : (s.bumpAt c off n).dirty = s.dirty := by unfold State.bumpAt; dsimp only; split <;> rfl
@[simp] theorem State.bumpAt_intCache (c off n : Nat) : (s.bumpAt c off n).intCache = s.intCache := by unfold State.bumpAt; dsimp only; split <;> rfl
@[simp] theorem State.bumpAt_targets (c off n : Nat) : (s.bumpAt c off n).targets = s.targets := by unfold State.bumpAt; dsimp only; split <;> rfl
@[simp] theorem State.bumpAt_retry (c off n : Nat) : (s.bumpAt c off n).retry = s.retry := by unfold State.bumpAt; dsimp only; split <;> rfl
@[simp] theorem State.bumpAt_dramQ (c off n : Nat) : (s.bumpAt c off n).dramQ = s.dramQ := by unfold State.bumpAt; dsimp only; split <;> rfl
@[simp] theorem State.bumpAt_dramOut (c off n : Nat) : (s.bumpAt c off n).dramOut = s.dramOut := by unfold State.bumpAt; dsimp only; split <;> rfl
@[simp] theorem State.bumpAt_reqNum (c off n : Nat) : (s.bumpAt c off n).reqNum = s.reqNum := by unfold State.bumpAt; dsimp only; split <;> rfl
@[simp] theorem State.bumpAt_movWaits (c off n : Nat) : (s.bumpAt c off n).movWaits = s.movWaits := by unfold State.bumpAt; dsimp only; split <;> rfl
@[simp] theorem State.bumpAt_routes (c off n : Nat) : (s.bumpAt c off n).routes = s.routes := by unfold State.bumpAt; dsimp only; split <;> rfl
@[simp] theorem State.bumpAt_bridle (c off n : Nat) : (s.bumpAt c off n).bridle = s.bridle := by unfold State.bumpAt; dsimp only; split <;> rfl
@[simp] theorem State.bumpAt_resp (c off n : Nat) : (s.bumpAt c off n).resp = s.resp := by unfold State.bumpAt; dsimp only; split <;> rfl
@[simp] theorem State.bumpAt_hwins (c off n : Nat) : (s.bumpAt c off n).hwins = s.hwins := by unfold State.bumpAt; dsimp only; split <;> rfl
@[simp] theorem State.bumpAt_hostPages (c off n : Nat) : (s.bumpAt c off n).hostPages = s.hostPages := by unfold State.bumpAt; dsimp only; split <;> rfl
@[simp] theorem State.bumpAt_hwBase (c off n : Nat) : (s.bumpAt c off n).hwBase = s.hwBase := by unfold State.bumpAt; dsimp only; split <;> rfl
@[simp] theorem State.bumpAt_poolMap (c off n : Nat) : (s.bumpAt c off n).poolMap = s.poolMap := by unfold State.bumpAt; dsimp only; split <;> rfl
@[simp] theorem State.bumpAt_donations (c off n : Nat) : (s.bumpAt c off n).donations = s.donations := by unfold State.bumpAt; dsimp only; split <;> rfl
@[simp] theorem State.bumpAt_coord (c off n : Nat) : (s.bumpAt c off n).coord = s.coord := by unfold State.bumpAt; dsimp only; split <;> rfl
@[simp] theorem State.bumpAt_lineMeta (c off n : Nat) : (s.bumpAt c off n).lineMeta = s.lineMeta := by unfold State.bumpAt; dsimp only; split <;> rfl
@[simp] theorem State.bumpAt_pages (c off n : Nat) : (s.bumpAt c off n).pages = s.pages := by unfold State.bumpAt; dsimp only; split <;> rfl
@[simp] theorem State.bumpAt_poolSize (c off n : Nat) : (s.bumpAt c off n).poolSize = s.poolSize := by unfold State.bumpAt; dsimp only; split <;> rfl
@[simp] theorem State.bumpAt_moves (c off n : Nat) : (s.bumpAt c off n).moves = s.moves := by unfold State.bumpAt; dsimp only; split <;> rfl
@[simp] theorem State.bumpAt_promos (c off n : Nat) : (s.bumpAt c off n).promos = s.promos := by unfold State.bumpAt; dsimp only; split <;> rfl
@[simp] theorem State.bumpAt_pressure (c off n : Nat) : (s.bumpAt c off n).pressure = s.pressure := by unfold State.bumpAt; dsimp only; split <;> rfl
@[simp] theorem State.bumpAt_rekeyJobs (c off n : Nat) : (s.bumpAt c off n).rekeyJobs = s.rekeyJobs := by unfold State.bumpAt; dsimp only; split <;> rfl
@[simp] theorem State.bumpAt_rekeyQ (c off n : Nat) : (s.bumpAt c off n).rekeyQ = s.rekeyQ := by unfold State.bumpAt; dsimp only; split <;> rfl
@[simp] theorem State.bumpAt_scrubQ (c off n : Nat) : (s.bumpAt c off n).scrubQ = s.scrubQ := by unfold State.bumpAt; dsimp only; split <;> rfl
@[simp] theorem State.bumpAt_aperture (c off n : Nat) : (s.bumpAt c off n).aperture = s.aperture := by unfold State.bumpAt; dsimp only; split <;> rfl
@[simp] theorem State.bumpAt_hostMem (c off n : Nat) : (s.bumpAt c off n).hostMem = s.hostMem := by unfold State.bumpAt; dsimp only; split <;> rfl
@[simp] theorem State.bumpAt_poolMem (c off n : Nat) : (s.bumpAt c off n).poolMem = s.poolMem := by unfold State.bumpAt; dsimp only; split <;> rfl
@[simp] theorem State.bumpAt_ctxs (c off n : Nat) : (s.bumpAt c off n).ctxs = s.ctxs := by unfold State.bumpAt; dsimp only; split <;> rfl
@[simp] theorem State.bumpAt_slots (c off n : Nat) : (s.bumpAt c off n).slots = s.slots := by unfold State.bumpAt; dsimp only; split <;> rfl
@[simp] theorem State.bumpAt_fences (c off n : Nat) : (s.bumpAt c off n).fences = s.fences := by unfold State.bumpAt; dsimp only; split <;> rfl
@[simp] theorem State.bumpAt_sigQ (c off n : Nat) : (s.bumpAt c off n).sigQ = s.sigQ := by unfold State.bumpAt; dsimp only; split <;> rfl
@[simp] theorem State.bumpAt_turn (c off n : Nat) : (s.bumpAt c off n).turn = s.turn := by unfold State.bumpAt; dsimp only; split <;> rfl
@[simp] theorem State.bumpAt_devRing (c off n : Nat) : (s.bumpAt c off n).devRing = s.devRing := by unfold State.bumpAt; dsimp only; split <;> rfl
@[simp] theorem State.bumpAt_mbx (c off n : Nat) : (s.bumpAt c off n).mbx = s.mbx := by unfold State.bumpAt; dsimp only; split <;> rfl
@[simp] theorem State.bumpAt_mbxQ (c off n : Nat) : (s.bumpAt c off n).mbxQ = s.mbxQ := by unfold State.bumpAt; dsimp only; split <;> rfl
@[simp] theorem State.bumpAt_ctxCnt (c off n : Nat) : (s.bumpAt c off n).ctxCnt = s.ctxCnt := by unfold State.bumpAt; dsimp only; split <;> rfl
@[simp] theorem State.bumpAt_pcie (c off n : Nat) : (s.bumpAt c off n).pcie = s.pcie := by unfold State.bumpAt; dsimp only; split <;> rfl
@[simp] theorem State.bumpAt_learn (c off n : Nat) : (s.bumpAt c off n).learn = s.learn := by unfold State.bumpAt; dsimp only; split <;> rfl
@[simp] theorem State.bumpAt_upd (c off n : Nat) : (s.bumpAt c off n).upd = s.upd := by unfold State.bumpAt; dsimp only; split <;> rfl
@[simp] theorem State.bumpAt_markers (c off n : Nat) : (s.bumpAt c off n).markers = s.markers := by unfold State.bumpAt; dsimp only; split <;> rfl
@[simp] theorem State.bumpAt_ports (c off n : Nat) : (s.bumpAt c off n).ports = s.ports := by unfold State.bumpAt; dsimp only; split <;> rfl
@[simp] theorem State.bumpAt_node (c off n : Nat) : (s.bumpAt c off n).node = s.node := by unfold State.bumpAt; dsimp only; split <;> rfl
@[simp] theorem State.bumpAt_admitList (c off n : Nat) : (s.bumpAt c off n).admitList = s.admitList := by unfold State.bumpAt; dsimp only; split <;> rfl
@[simp] theorem State.bumpAt_poolReqs (c off n : Nat) : (s.bumpAt c off n).poolReqs = s.poolReqs := by unfold State.bumpAt; dsimp only; split <;> rfl
@[simp] theorem State.bumpAt_poolGot (c off n : Nat) : (s.bumpAt c off n).poolGot = s.poolGot := by unfold State.bumpAt; dsimp only; split <;> rfl
@[simp] theorem State.bumpAt_colls (c off n : Nat) : (s.bumpAt c off n).colls = s.colls := by unfold State.bumpAt; dsimp only; split <;> rfl
@[simp] theorem State.bumpAt_slotTab (c off n : Nat) : (s.bumpAt c off n).slotTab = s.slotTab := by unfold State.bumpAt; dsimp only; split <;> rfl
@[simp] theorem State.bumpAt_slotShadow (c off n : Nat) : (s.bumpAt c off n).slotShadow = s.slotShadow := by unfold State.bumpAt; dsimp only; split <;> rfl
@[simp] theorem State.bumpAt_slotSwap (c off n : Nat) : (s.bumpAt c off n).slotSwap = s.slotSwap := by unfold State.bumpAt; dsimp only; split <;> rfl
@[simp] theorem State.bumpAt_tet (c off n : Nat) : (s.bumpAt c off n).tet = s.tet := by unfold State.bumpAt; dsimp only; split <;> rfl
@[simp] theorem State.bumpAt_herds (c off n : Nat) : (s.bumpAt c off n).herds = s.herds := by unfold State.bumpAt; dsimp only; split <;> rfl
@[simp] theorem State.bumpAt_ctlOut (c off n : Nat) : (s.bumpAt c off n).ctlOut = s.ctlOut := by unfold State.bumpAt; dsimp only; split <;> rfl
@[simp] theorem State.bumpAt_handoffs (c off n : Nat) : (s.bumpAt c off n).handoffs = s.handoffs := by unfold State.bumpAt; dsimp only; split <;> rfl
@[simp] theorem State.bumpAt_keys (c off n : Nat) : (s.bumpAt c off n).keys = s.keys := by unfold State.bumpAt; dsimp only; split <;> rfl
@[simp] theorem State.bumpAt_charters (c off n : Nat) : (s.bumpAt c off n).charters = s.charters := by unfold State.bumpAt; dsimp only; split <;> rfl
@[simp] theorem State.bumpAt_xfers (c off n : Nat) : (s.bumpAt c off n).xfers = s.xfers := by unfold State.bumpAt; dsimp only; split <;> rfl
@[simp] theorem State.bumpAt_stores (c off n : Nat) : (s.bumpAt c off n).stores = s.stores := by unfold State.bumpAt; dsimp only; split <;> rfl
@[simp] theorem State.bumpAt_ckpts (c off n : Nat) : (s.bumpAt c off n).ckpts = s.ckpts := by unfold State.bumpAt; dsimp only; split <;> rfl
@[simp] theorem State.bumpAt_dstream (c off n : Nat) : (s.bumpAt c off n).dstream = s.dstream := by unfold State.bumpAt; dsimp only; split <;> rfl
@[simp] theorem State.bumpAt_lc (c off n : Nat) : (s.bumpAt c off n).lc = s.lc := by unfold State.bumpAt; dsimp only; split <;> rfl
@[simp] theorem State.bumpAt_ras (c off n : Nat) : (s.bumpAt c off n).ras = s.ras := by unfold State.bumpAt; dsimp only; split <;> rfl
@[simp] theorem State.bumpAt_boot (c off n : Nat) : (s.bumpAt c off n).boot = s.boot := by unfold State.bumpAt; dsimp only; split <;> rfl
@[simp] theorem State.bumpAt_pw (c off n : Nat) : (s.bumpAt c off n).pw = s.pw := by unfold State.bumpAt; dsimp only; split <;> rfl
@[simp] theorem State.bump_pending (b i n : Nat) : (s.bump b i n).pending = s.pending := s.bumpAt_pending _ _ _
@[simp] theorem State.bump_freeCtr (b i n : Nat) : (s.bump b i n).freeCtr = s.freeCtr := s.bumpAt_freeCtr _ _ _
@[simp] theorem State.bump_code (b i n : Nat) : (s.bump b i n).code = s.code := s.bumpAt_code _ _ _
@[simp] theorem State.bump_dev (b i n : Nat) : (s.bump b i n).dev = s.dev := s.bumpAt_dev _ _ _
@[simp] theorem State.bump_cores (b i n : Nat) : (s.bump b i n).cores = s.cores := s.bumpAt_cores _ _ _
@[simp] theorem State.bump_clusters (b i n : Nat) : (s.bump b i n).clusters = s.clusters := s.bumpAt_clusters _ _ _
@[simp] theorem State.bump_runAhead (b i n : Nat) : (s.bump b i n).runAhead = s.runAhead := s.bumpAt_runAhead _ _ _
@[simp] theorem State.bump_mem (b i n : Nat) : (s.bump b i n).mem = s.mem := s.bumpAt_mem _ _ _
@[simp] theorem State.bump_major (b i n : Nat) : (s.bump b i n).major = s.major := s.bumpAt_major _ _ _
@[simp] theorem State.bump_lines (b i n : Nat) : (s.bump b i n).lines = s.lines := s.bumpAt_lines _ _ _
@[simp] theorem State.bump_versions (b i n : Nat) : (s.bump b i n).versions = s.versions := s.bumpAt_versions _ _ _
@[simp] theorem State.bump_integ (b i n : Nat) : (s.bump b i n).integ = s.integ := s.bumpAt_integ _ _ _
@[simp] theorem State.bump_dirty (b i n : Nat) : (s.bump b i n).dirty = s.dirty := s.bumpAt_dirty _ _ _
@[simp] theorem State.bump_intCache (b i n : Nat) : (s.bump b i n).intCache = s.intCache := s.bumpAt_intCache _ _ _
@[simp] theorem State.bump_targets (b i n : Nat) : (s.bump b i n).targets = s.targets := s.bumpAt_targets _ _ _
@[simp] theorem State.bump_retry (b i n : Nat) : (s.bump b i n).retry = s.retry := s.bumpAt_retry _ _ _
@[simp] theorem State.bump_dramQ (b i n : Nat) : (s.bump b i n).dramQ = s.dramQ := s.bumpAt_dramQ _ _ _
@[simp] theorem State.bump_dramOut (b i n : Nat) : (s.bump b i n).dramOut = s.dramOut := s.bumpAt_dramOut _ _ _
@[simp] theorem State.bump_reqNum (b i n : Nat) : (s.bump b i n).reqNum = s.reqNum := s.bumpAt_reqNum _ _ _
@[simp] theorem State.bump_movWaits (b i n : Nat) : (s.bump b i n).movWaits = s.movWaits := s.bumpAt_movWaits _ _ _
@[simp] theorem State.bump_routes (b i n : Nat) : (s.bump b i n).routes = s.routes := s.bumpAt_routes _ _ _
@[simp] theorem State.bump_bridle (b i n : Nat) : (s.bump b i n).bridle = s.bridle := s.bumpAt_bridle _ _ _
@[simp] theorem State.bump_resp (b i n : Nat) : (s.bump b i n).resp = s.resp := s.bumpAt_resp _ _ _
@[simp] theorem State.bump_hwins (b i n : Nat) : (s.bump b i n).hwins = s.hwins := s.bumpAt_hwins _ _ _
@[simp] theorem State.bump_hostPages (b i n : Nat) : (s.bump b i n).hostPages = s.hostPages := s.bumpAt_hostPages _ _ _
@[simp] theorem State.bump_hwBase (b i n : Nat) : (s.bump b i n).hwBase = s.hwBase := s.bumpAt_hwBase _ _ _
@[simp] theorem State.bump_poolMap (b i n : Nat) : (s.bump b i n).poolMap = s.poolMap := s.bumpAt_poolMap _ _ _
@[simp] theorem State.bump_donations (b i n : Nat) : (s.bump b i n).donations = s.donations := s.bumpAt_donations _ _ _
@[simp] theorem State.bump_coord (b i n : Nat) : (s.bump b i n).coord = s.coord := s.bumpAt_coord _ _ _
@[simp] theorem State.bump_lineMeta (b i n : Nat) : (s.bump b i n).lineMeta = s.lineMeta := s.bumpAt_lineMeta _ _ _
@[simp] theorem State.bump_pages (b i n : Nat) : (s.bump b i n).pages = s.pages := s.bumpAt_pages _ _ _
@[simp] theorem State.bump_poolSize (b i n : Nat) : (s.bump b i n).poolSize = s.poolSize := s.bumpAt_poolSize _ _ _
@[simp] theorem State.bump_moves (b i n : Nat) : (s.bump b i n).moves = s.moves := s.bumpAt_moves _ _ _
@[simp] theorem State.bump_promos (b i n : Nat) : (s.bump b i n).promos = s.promos := s.bumpAt_promos _ _ _
@[simp] theorem State.bump_pressure (b i n : Nat) : (s.bump b i n).pressure = s.pressure := s.bumpAt_pressure _ _ _
@[simp] theorem State.bump_rekeyJobs (b i n : Nat) : (s.bump b i n).rekeyJobs = s.rekeyJobs := s.bumpAt_rekeyJobs _ _ _
@[simp] theorem State.bump_rekeyQ (b i n : Nat) : (s.bump b i n).rekeyQ = s.rekeyQ := s.bumpAt_rekeyQ _ _ _
@[simp] theorem State.bump_scrubQ (b i n : Nat) : (s.bump b i n).scrubQ = s.scrubQ := s.bumpAt_scrubQ _ _ _
@[simp] theorem State.bump_aperture (b i n : Nat) : (s.bump b i n).aperture = s.aperture := s.bumpAt_aperture _ _ _
@[simp] theorem State.bump_hostMem (b i n : Nat) : (s.bump b i n).hostMem = s.hostMem := s.bumpAt_hostMem _ _ _
@[simp] theorem State.bump_poolMem (b i n : Nat) : (s.bump b i n).poolMem = s.poolMem := s.bumpAt_poolMem _ _ _
@[simp] theorem State.bump_ctxs (b i n : Nat) : (s.bump b i n).ctxs = s.ctxs := s.bumpAt_ctxs _ _ _
@[simp] theorem State.bump_slots (b i n : Nat) : (s.bump b i n).slots = s.slots := s.bumpAt_slots _ _ _
@[simp] theorem State.bump_fences (b i n : Nat) : (s.bump b i n).fences = s.fences := s.bumpAt_fences _ _ _
@[simp] theorem State.bump_sigQ (b i n : Nat) : (s.bump b i n).sigQ = s.sigQ := s.bumpAt_sigQ _ _ _
@[simp] theorem State.bump_turn (b i n : Nat) : (s.bump b i n).turn = s.turn := s.bumpAt_turn _ _ _
@[simp] theorem State.bump_devRing (b i n : Nat) : (s.bump b i n).devRing = s.devRing := s.bumpAt_devRing _ _ _
@[simp] theorem State.bump_mbx (b i n : Nat) : (s.bump b i n).mbx = s.mbx := s.bumpAt_mbx _ _ _
@[simp] theorem State.bump_mbxQ (b i n : Nat) : (s.bump b i n).mbxQ = s.mbxQ := s.bumpAt_mbxQ _ _ _
@[simp] theorem State.bump_ctxCnt (b i n : Nat) : (s.bump b i n).ctxCnt = s.ctxCnt := s.bumpAt_ctxCnt _ _ _
@[simp] theorem State.bump_pcie (b i n : Nat) : (s.bump b i n).pcie = s.pcie := s.bumpAt_pcie _ _ _
@[simp] theorem State.bump_learn (b i n : Nat) : (s.bump b i n).learn = s.learn := s.bumpAt_learn _ _ _
@[simp] theorem State.bump_upd (b i n : Nat) : (s.bump b i n).upd = s.upd := s.bumpAt_upd _ _ _
@[simp] theorem State.bump_markers (b i n : Nat) : (s.bump b i n).markers = s.markers := s.bumpAt_markers _ _ _
@[simp] theorem State.bump_ports (b i n : Nat) : (s.bump b i n).ports = s.ports := s.bumpAt_ports _ _ _
@[simp] theorem State.bump_node (b i n : Nat) : (s.bump b i n).node = s.node := s.bumpAt_node _ _ _
@[simp] theorem State.bump_admitList (b i n : Nat) : (s.bump b i n).admitList = s.admitList := s.bumpAt_admitList _ _ _
@[simp] theorem State.bump_poolReqs (b i n : Nat) : (s.bump b i n).poolReqs = s.poolReqs := s.bumpAt_poolReqs _ _ _
@[simp] theorem State.bump_poolGot (b i n : Nat) : (s.bump b i n).poolGot = s.poolGot := s.bumpAt_poolGot _ _ _
@[simp] theorem State.bump_colls (b i n : Nat) : (s.bump b i n).colls = s.colls := s.bumpAt_colls _ _ _
@[simp] theorem State.bump_slotTab (b i n : Nat) : (s.bump b i n).slotTab = s.slotTab := s.bumpAt_slotTab _ _ _
@[simp] theorem State.bump_slotShadow (b i n : Nat) : (s.bump b i n).slotShadow = s.slotShadow := s.bumpAt_slotShadow _ _ _
@[simp] theorem State.bump_slotSwap (b i n : Nat) : (s.bump b i n).slotSwap = s.slotSwap := s.bumpAt_slotSwap _ _ _
@[simp] theorem State.bump_tet (b i n : Nat) : (s.bump b i n).tet = s.tet := s.bumpAt_tet _ _ _
@[simp] theorem State.bump_herds (b i n : Nat) : (s.bump b i n).herds = s.herds := s.bumpAt_herds _ _ _
@[simp] theorem State.bump_ctlOut (b i n : Nat) : (s.bump b i n).ctlOut = s.ctlOut := s.bumpAt_ctlOut _ _ _
@[simp] theorem State.bump_handoffs (b i n : Nat) : (s.bump b i n).handoffs = s.handoffs := s.bumpAt_handoffs _ _ _
@[simp] theorem State.bump_keys (b i n : Nat) : (s.bump b i n).keys = s.keys := s.bumpAt_keys _ _ _
@[simp] theorem State.bump_charters (b i n : Nat) : (s.bump b i n).charters = s.charters := s.bumpAt_charters _ _ _
@[simp] theorem State.bump_xfers (b i n : Nat) : (s.bump b i n).xfers = s.xfers := s.bumpAt_xfers _ _ _
@[simp] theorem State.bump_stores (b i n : Nat) : (s.bump b i n).stores = s.stores := s.bumpAt_stores _ _ _
@[simp] theorem State.bump_ckpts (b i n : Nat) : (s.bump b i n).ckpts = s.ckpts := s.bumpAt_ckpts _ _ _
@[simp] theorem State.bump_dstream (b i n : Nat) : (s.bump b i n).dstream = s.dstream := s.bumpAt_dstream _ _ _
@[simp] theorem State.bump_lc (b i n : Nat) : (s.bump b i n).lc = s.lc := s.bumpAt_lc _ _ _
@[simp] theorem State.bump_ras (b i n : Nat) : (s.bump b i n).ras = s.ras := s.bumpAt_ras _ _ _
@[simp] theorem State.bump_boot (b i n : Nat) : (s.bump b i n).boot = s.boot := s.bumpAt_boot _ _ _
@[simp] theorem State.bump_pw (b i n : Nat) : (s.bump b i n).pw = s.pw := s.bumpAt_pw _ _ _
@[simp] theorem State.bumpCore_pending (c i n : Nat) : (s.bumpCore c i n).pending = s.pending := s.bump_pending _ _ _
@[simp] theorem State.bumpCore_freeCtr (c i n : Nat) : (s.bumpCore c i n).freeCtr = s.freeCtr := s.bump_freeCtr _ _ _
@[simp] theorem State.bumpCore_code (c i n : Nat) : (s.bumpCore c i n).code = s.code := s.bump_code _ _ _
@[simp] theorem State.bumpCore_dev (c i n : Nat) : (s.bumpCore c i n).dev = s.dev := s.bump_dev _ _ _
@[simp] theorem State.bumpCore_cores (c i n : Nat) : (s.bumpCore c i n).cores = s.cores := s.bump_cores _ _ _
@[simp] theorem State.bumpCore_clusters (c i n : Nat) : (s.bumpCore c i n).clusters = s.clusters := s.bump_clusters _ _ _
@[simp] theorem State.bumpCore_runAhead (c i n : Nat) : (s.bumpCore c i n).runAhead = s.runAhead := s.bump_runAhead _ _ _
@[simp] theorem State.bumpCore_mem (c i n : Nat) : (s.bumpCore c i n).mem = s.mem := s.bump_mem _ _ _
@[simp] theorem State.bumpCore_major (c i n : Nat) : (s.bumpCore c i n).major = s.major := s.bump_major _ _ _
@[simp] theorem State.bumpCore_lines (c i n : Nat) : (s.bumpCore c i n).lines = s.lines := s.bump_lines _ _ _
@[simp] theorem State.bumpCore_versions (c i n : Nat) : (s.bumpCore c i n).versions = s.versions := s.bump_versions _ _ _
@[simp] theorem State.bumpCore_integ (c i n : Nat) : (s.bumpCore c i n).integ = s.integ := s.bump_integ _ _ _
@[simp] theorem State.bumpCore_dirty (c i n : Nat) : (s.bumpCore c i n).dirty = s.dirty := s.bump_dirty _ _ _
@[simp] theorem State.bumpCore_intCache (c i n : Nat) : (s.bumpCore c i n).intCache = s.intCache := s.bump_intCache _ _ _
@[simp] theorem State.bumpCore_targets (c i n : Nat) : (s.bumpCore c i n).targets = s.targets := s.bump_targets _ _ _
@[simp] theorem State.bumpCore_retry (c i n : Nat) : (s.bumpCore c i n).retry = s.retry := s.bump_retry _ _ _
@[simp] theorem State.bumpCore_dramQ (c i n : Nat) : (s.bumpCore c i n).dramQ = s.dramQ := s.bump_dramQ _ _ _
@[simp] theorem State.bumpCore_dramOut (c i n : Nat) : (s.bumpCore c i n).dramOut = s.dramOut := s.bump_dramOut _ _ _
@[simp] theorem State.bumpCore_reqNum (c i n : Nat) : (s.bumpCore c i n).reqNum = s.reqNum := s.bump_reqNum _ _ _
@[simp] theorem State.bumpCore_movWaits (c i n : Nat) : (s.bumpCore c i n).movWaits = s.movWaits := s.bump_movWaits _ _ _
@[simp] theorem State.bumpCore_routes (c i n : Nat) : (s.bumpCore c i n).routes = s.routes := s.bump_routes _ _ _
@[simp] theorem State.bumpCore_bridle (c i n : Nat) : (s.bumpCore c i n).bridle = s.bridle := s.bump_bridle _ _ _
@[simp] theorem State.bumpCore_resp (c i n : Nat) : (s.bumpCore c i n).resp = s.resp := s.bump_resp _ _ _
@[simp] theorem State.bumpCore_hwins (c i n : Nat) : (s.bumpCore c i n).hwins = s.hwins := s.bump_hwins _ _ _
@[simp] theorem State.bumpCore_hostPages (c i n : Nat) : (s.bumpCore c i n).hostPages = s.hostPages := s.bump_hostPages _ _ _
@[simp] theorem State.bumpCore_hwBase (c i n : Nat) : (s.bumpCore c i n).hwBase = s.hwBase := s.bump_hwBase _ _ _
@[simp] theorem State.bumpCore_poolMap (c i n : Nat) : (s.bumpCore c i n).poolMap = s.poolMap := s.bump_poolMap _ _ _
@[simp] theorem State.bumpCore_donations (c i n : Nat) : (s.bumpCore c i n).donations = s.donations := s.bump_donations _ _ _
@[simp] theorem State.bumpCore_coord (c i n : Nat) : (s.bumpCore c i n).coord = s.coord := s.bump_coord _ _ _
@[simp] theorem State.bumpCore_lineMeta (c i n : Nat) : (s.bumpCore c i n).lineMeta = s.lineMeta := s.bump_lineMeta _ _ _
@[simp] theorem State.bumpCore_pages (c i n : Nat) : (s.bumpCore c i n).pages = s.pages := s.bump_pages _ _ _
@[simp] theorem State.bumpCore_poolSize (c i n : Nat) : (s.bumpCore c i n).poolSize = s.poolSize := s.bump_poolSize _ _ _
@[simp] theorem State.bumpCore_moves (c i n : Nat) : (s.bumpCore c i n).moves = s.moves := s.bump_moves _ _ _
@[simp] theorem State.bumpCore_promos (c i n : Nat) : (s.bumpCore c i n).promos = s.promos := s.bump_promos _ _ _
@[simp] theorem State.bumpCore_pressure (c i n : Nat) : (s.bumpCore c i n).pressure = s.pressure := s.bump_pressure _ _ _
@[simp] theorem State.bumpCore_rekeyJobs (c i n : Nat) : (s.bumpCore c i n).rekeyJobs = s.rekeyJobs := s.bump_rekeyJobs _ _ _
@[simp] theorem State.bumpCore_rekeyQ (c i n : Nat) : (s.bumpCore c i n).rekeyQ = s.rekeyQ := s.bump_rekeyQ _ _ _
@[simp] theorem State.bumpCore_scrubQ (c i n : Nat) : (s.bumpCore c i n).scrubQ = s.scrubQ := s.bump_scrubQ _ _ _
@[simp] theorem State.bumpCore_aperture (c i n : Nat) : (s.bumpCore c i n).aperture = s.aperture := s.bump_aperture _ _ _
@[simp] theorem State.bumpCore_hostMem (c i n : Nat) : (s.bumpCore c i n).hostMem = s.hostMem := s.bump_hostMem _ _ _
@[simp] theorem State.bumpCore_poolMem (c i n : Nat) : (s.bumpCore c i n).poolMem = s.poolMem := s.bump_poolMem _ _ _
@[simp] theorem State.bumpCore_ctxs (c i n : Nat) : (s.bumpCore c i n).ctxs = s.ctxs := s.bump_ctxs _ _ _
@[simp] theorem State.bumpCore_slots (c i n : Nat) : (s.bumpCore c i n).slots = s.slots := s.bump_slots _ _ _
@[simp] theorem State.bumpCore_fences (c i n : Nat) : (s.bumpCore c i n).fences = s.fences := s.bump_fences _ _ _
@[simp] theorem State.bumpCore_sigQ (c i n : Nat) : (s.bumpCore c i n).sigQ = s.sigQ := s.bump_sigQ _ _ _
@[simp] theorem State.bumpCore_turn (c i n : Nat) : (s.bumpCore c i n).turn = s.turn := s.bump_turn _ _ _
@[simp] theorem State.bumpCore_devRing (c i n : Nat) : (s.bumpCore c i n).devRing = s.devRing := s.bump_devRing _ _ _
@[simp] theorem State.bumpCore_mbx (c i n : Nat) : (s.bumpCore c i n).mbx = s.mbx := s.bump_mbx _ _ _
@[simp] theorem State.bumpCore_mbxQ (c i n : Nat) : (s.bumpCore c i n).mbxQ = s.mbxQ := s.bump_mbxQ _ _ _
@[simp] theorem State.bumpCore_ctxCnt (c i n : Nat) : (s.bumpCore c i n).ctxCnt = s.ctxCnt := s.bump_ctxCnt _ _ _
@[simp] theorem State.bumpCore_pcie (c i n : Nat) : (s.bumpCore c i n).pcie = s.pcie := s.bump_pcie _ _ _
@[simp] theorem State.bumpCore_learn (c i n : Nat) : (s.bumpCore c i n).learn = s.learn := s.bump_learn _ _ _
@[simp] theorem State.bumpCore_upd (c i n : Nat) : (s.bumpCore c i n).upd = s.upd := s.bump_upd _ _ _
@[simp] theorem State.bumpCore_markers (c i n : Nat) : (s.bumpCore c i n).markers = s.markers := s.bump_markers _ _ _
@[simp] theorem State.bumpCore_ports (c i n : Nat) : (s.bumpCore c i n).ports = s.ports := s.bump_ports _ _ _
@[simp] theorem State.bumpCore_node (c i n : Nat) : (s.bumpCore c i n).node = s.node := s.bump_node _ _ _
@[simp] theorem State.bumpCore_admitList (c i n : Nat) : (s.bumpCore c i n).admitList = s.admitList := s.bump_admitList _ _ _
@[simp] theorem State.bumpCore_poolReqs (c i n : Nat) : (s.bumpCore c i n).poolReqs = s.poolReqs := s.bump_poolReqs _ _ _
@[simp] theorem State.bumpCore_poolGot (c i n : Nat) : (s.bumpCore c i n).poolGot = s.poolGot := s.bump_poolGot _ _ _
@[simp] theorem State.bumpCore_colls (c i n : Nat) : (s.bumpCore c i n).colls = s.colls := s.bump_colls _ _ _
@[simp] theorem State.bumpCore_slotTab (c i n : Nat) : (s.bumpCore c i n).slotTab = s.slotTab := s.bump_slotTab _ _ _
@[simp] theorem State.bumpCore_slotShadow (c i n : Nat) : (s.bumpCore c i n).slotShadow = s.slotShadow := s.bump_slotShadow _ _ _
@[simp] theorem State.bumpCore_slotSwap (c i n : Nat) : (s.bumpCore c i n).slotSwap = s.slotSwap := s.bump_slotSwap _ _ _
@[simp] theorem State.bumpCore_tet (c i n : Nat) : (s.bumpCore c i n).tet = s.tet := s.bump_tet _ _ _
@[simp] theorem State.bumpCore_herds (c i n : Nat) : (s.bumpCore c i n).herds = s.herds := s.bump_herds _ _ _
@[simp] theorem State.bumpCore_ctlOut (c i n : Nat) : (s.bumpCore c i n).ctlOut = s.ctlOut := s.bump_ctlOut _ _ _
@[simp] theorem State.bumpCore_handoffs (c i n : Nat) : (s.bumpCore c i n).handoffs = s.handoffs := s.bump_handoffs _ _ _
@[simp] theorem State.bumpCore_keys (c i n : Nat) : (s.bumpCore c i n).keys = s.keys := s.bump_keys _ _ _
@[simp] theorem State.bumpCore_charters (c i n : Nat) : (s.bumpCore c i n).charters = s.charters := s.bump_charters _ _ _
@[simp] theorem State.bumpCore_xfers (c i n : Nat) : (s.bumpCore c i n).xfers = s.xfers := s.bump_xfers _ _ _
@[simp] theorem State.bumpCore_stores (c i n : Nat) : (s.bumpCore c i n).stores = s.stores := s.bump_stores _ _ _
@[simp] theorem State.bumpCore_ckpts (c i n : Nat) : (s.bumpCore c i n).ckpts = s.ckpts := s.bump_ckpts _ _ _
@[simp] theorem State.bumpCore_dstream (c i n : Nat) : (s.bumpCore c i n).dstream = s.dstream := s.bump_dstream _ _ _
@[simp] theorem State.bumpCore_lc (c i n : Nat) : (s.bumpCore c i n).lc = s.lc := s.bump_lc _ _ _
@[simp] theorem State.bumpCore_ras (c i n : Nat) : (s.bumpCore c i n).ras = s.ras := s.bump_ras _ _ _
@[simp] theorem State.bumpCore_boot (c i n : Nat) : (s.bumpCore c i n).boot = s.boot := s.bump_boot _ _ _
@[simp] theorem State.bumpCore_pw (c i n : Nat) : (s.bumpCore c i n).pw = s.pw := s.bump_pw _ _ _

/-! ### Reads after updates -/

@[simp] theorem State.core_setCore {n : Nat} (k : Core) (h : Tab.wf {} s.cores = true) : (s.setCore n k).core n = k :=
  Tab.get_set_self _ _ _ h
@[simp] theorem State.core_bumpCore (c i n m : Nat) : (s.bumpCore c i n).core m = s.core m := by
  unfold State.core; rw [State.bumpCore_cores]
@[simp] theorem State.core_setReg (off : Nat) (v : W64) (m : Nat) : (s.setReg off v).core m = s.core m := rfl
@[simp] theorem State.ctx_bumpCore (c i n m : Nat) : (s.bumpCore c i n).ctx m = s.ctx m := by
  unfold State.ctx; rw [State.bumpCore_ctxs]
@[simp] theorem State.ctx_updCore (n : Nat) (f : Core → Core) (m : Nat) : (s.updCore n f).ctx m = s.ctx m := rfl
@[simp] theorem State.core_updCtx (c : Nat) (f : Ctx → Ctx) (m : Nat) : (s.updCtx c f).core m = s.core m := rfl
@[simp] theorem State.reg_updCtx (c : Nat) (f : Ctx → Ctx) (off : Nat) : (s.updCtx c f).reg off = s.reg off := rfl
@[simp] theorem State.now_bumpCore (c i n : Nat) : (s.bumpCore c i n).now = s.now := by
  unfold State.now; rw [State.bumpCore_tet]

end Sys2Proof.Machine
end

