-- ==== Sys2Proof/WellFormed.lean ====
section
/-! DEFINITION. Which commands are well formed: the bounds that the manual states for what crosses
the edge of the block and that the operand types do not already hold. -/

namespace Sys2Proof

/-- At most the 30 argument words of a channel and the two words before them (`25` R565). -/
def MbxCall.wf (c : MbxCall) : Bool := c.args.length ≤ 32
/-- A packet is eight words (`14` R352). -/
def Pkt.wf (p : Pkt) : Bool := p.w.length == 8
/-- A read names bytes, a write brings them, and a walk reads (`07` R164, R168). -/
def MemOp.wf (r : MemOp) : Bool :=
  let n := if r.write then r.data.length else r.len
  (if r.write then r.len == 0 && !r.data.isEmpty && !r.walk else r.data.isEmpty && 0 < r.len) &&
    decide (n ≤ 256) && (r.da.toNat < 0x100000000000 || 0x120000000000 ≤ r.da.toNat || decide (r.da.toNat % 128 + n ≤ 128))
/-- A flit is 256 bytes (`11` R263). -/
def FlitIn.wf (f : FlitIn) : Bool := f.wire.length == 256
/-- FREED for all sixteen classes (`11` R273). -/
def LctlIn.wf (l : LctlIn) : Bool := l.freed.length == 16
/-- At most 8,192 lines, 144 B each (`11` R278). -/
def PoolMsg.wf (m : PoolMsg) : Bool := m.nl ≤ 8192 && m.data.length ≤ 144 * 8192
/-- One of the four data rates, 52 fuse triplets, and 72 channels and interfaces
(`15` R366, `22` R510, `23` R520). -/
def StartIn.wf (i : StartIn) : Bool :=
  [9600, 10667, 12800, 14400].contains i.rate && i.trip ≤ 52 && i.fallback ≤ 72
/-- A reading for every sensor (`23` R520). -/
def TempIn.wf (t : TempIn) : Bool :=
  t.tj.length == 8 && t.td.length == 8 && t.mtj.length == 4 && t.lp.length == 32
/-- Wide sums are 1,024 bits, and contributors stand in index order (`12` R302, R303). -/
def GateRec.wf (g : GateRec) : Bool :=
  g.wall < 2 ^ 1024 && g.wclip < 2 ^ 1024 &&
    g.wself.all (fun p => p.1 < 4096 && p.2 < 2 ^ 1024) && decide (g.wself.Pairwise fun a b => a.1 < b.1)
/-- A message that the manual lists, or one of the codes of log 29, of a channel and a member; a unit has at most 772 bytes
(`12` R299, R304). -/
def CollMsg.wf (m : CollMsg) : Bool :=
  (0x20 ≤ m.opc && m.opc ≤ 0x23 || 0x30 ≤ m.opc && m.opc ≤ 0x35 || 0x40 ≤ m.opc && m.opc ≤ 0x4A) && m.ch < 16 && m.src < 4096 &&
    (0x23 ≤ m.opc || m.data.length ≤ 772)
/-- Live members ascend, and the Bellwether is one of them (`12` R288, R291); the record of a herd that has ended has none
(log 29). -/
def MemRec.wf (r : MemRec) : Bool :=
  r.epoch < 2 ^ 32 && decide (r.live.Pairwise (· < ·)) && r.live.all (· < 4096) && (r.live.isEmpty || r.live.contains r.bell)
/-- A kind of unit that the field test runs and one of its units (`20` R474). -/
def unitOk (kind i : Nat) : Bool :=
  match kind with
  | 0 | 1 | 2 | 3 => i < 512
  | 6 => i < 4
  | 7 => i == 0
  | _ => false
/-- Of a unit that the field test runs. -/
def FailRec.wf (f : FailRec) : Bool := unitOk f.ukind f.uidx && f.row < 2 ^ 16 && f.col < 2 ^ 16
/-- A command that crosses the edge of the block as the manual forms it: what the types of the
operands leave open. The device answers every command; an ill-formed one is no input that the
manual describes. -/
def Instr.wf : Instr → Bool
  | .add _ _ _ _ => true
  | .sub _ _ _ _ => true
  | .and _ _ _ _ => true
  | .or _ _ _ _ => true
  | .xor _ _ _ _ => true
  | .andn _ _ _ _ => true
  | .shl _ _ _ _ => true
  | .shr _ _ _ _ => true
  | .sra _ _ _ _ => true
  | .min _ _ _ _ => true
  | .minu _ _ _ _ => true
  | .max _ _ _ _ => true
  | .maxu _ _ _ _ => true
  | .mul _ _ _ _ => true
  | .mulh _ _ _ _ => true
  | .mulhu _ _ _ _ => true
  | .div _ _ _ _ => true
  | .divu _ _ _ _ => true
  | .salui _ _ _ _ _ => true
  | .movi _ _ _ => true
  | .movhi _ _ _ => true
  | .cmp _ _ _ _ _ => true
  | .cmpi _ _ _ _ _ => true
  | .pand _ _ _ _ => true
  | .por _ _ _ _ => true
  | .pxor _ _ _ _ => true
  | .pandn _ _ _ _ => true
  | .pmov _ _ _ _ => true
  | .pnot _ _ _ _ => true
  | .ld _ _ _ _ _ _ _ => true
  | .st _ _ _ _ _ _ _ => true
  | .scalarLoadReturn _ _ => true
  | .br _ _ _ => true
  | .brl _ _ _ => true
  | .brr _ _ _ => true
  | .brrl _ _ _ => true
  | .vadd _ _ => true
  | .vsub _ _ => true
  | .vmulLo _ _ => true
  | .vmulHi _ _ => true
  | .vmul _ _ => true
  | .vmin _ _ => true
  | .vmax _ _ => true
  | .vshl _ _ => true
  | .vshr _ _ => true
  | .vshra _ _ => true
  | .vand _ _ => true
  | .vor _ _ => true
  | .vxor _ _ => true
  | .vandn _ _ => true
  | .vcmpEq _ _ => true
  | .vcmpNe _ _ => true
  | .vcmpLt _ _ => true
  | .vcmpLe _ _ => true
  | .vany _ _ => true
  | .vall _ _ => true
  | .vabs _ _ => true
  | .vneg _ _ => true
  | .vnot _ _ => true
  | .vmov _ _ => true
  | .vexp2 _ _ => true
  | .vlog2 _ _ => true
  | .vrcp _ _ => true
  | .vrsq _ _ => true
  | .vtanh _ _ => true
  | .vfma _ _ _ => true
  | .vdot2 _ _ _ => true
  | .vsel _ _ _ => true
  | .vcvt _ _ => true
  | .vcvtMx _ _ => true
  | .vcvtMxd _ _ => true
  | .vbxExp _ _ => true
  | .vbxCvt _ _ => true
  | .vbxDec _ _ => true
  | .vrng _ _ => true
  | .vrngU _ _ => true
  | .vrngSetc _ _ => true
  | .vrngGetc _ _ => true
  | .vrngT _ _ => true
  | .rsum _ _ => true
  | .rssq _ _ => true
  | .risum _ _ => true
  | .rpsumI _ _ => true
  | .rpsumE _ _ => true
  | .rmax _ _ => true
  | .rmin _ _ => true
  | .rargmax _ _ => true
  | .rargmin _ _ => true
  | .rtopk _ _ _ => true
  | .loadw _ _ => true
  | .loadwComplete _ => true
  | .swap _ => true
  | .stream _ _ _ => true
  | .streamRowResult _ => true
  | .accout _ _ _ _ => true
  | .csadv _ _ => true
  | .dmaDesc _ _ => true
  | .dmaDescriptorRun _ => true
  | .dmaChainComplete _ _ => true
  | .dmaCopy _ _ => true
  | .ringAdv _ _ => true
  | .ringRst _ _ => true
  | .winResv _ _ => true
  | .winRel _ _ => true
  | .windowReleaseComplete _ _ => true
  | .windowFillBegin _ _ => true
  | .windowArrival _ _ => true
  | .windowLate _ _ => true
  | .ringQuarterFilled _ _ => true
  | .runAheadFetch _ _ => true
  | .runAheadExpired _ _ => true
  | .taskBegin _ _ => true
  | .taskInputSatisfied _ => true
  | .taskEnd _ => true
  | .taskOutputSignal _ _ => true
  | .speculativeResolve _ _ => true
  | .verdictTimeout _ _ => true
  | .paddockDrain _ _ => true
  | .fenceSignal _ _ => true
  | .fenceSignalI _ _ _ => true
  | .fenceRead _ _ => true
  | .fenceWait _ _ => true
  | .fenceWaitSatisfied _ => true
  | .sysNop _ _ _ => true
  | .sysIflush _ _ _ => true
  | .sysSrkey _ _ _ => true
  | .sysFlags _ _ _ => true
  | .sysId _ _ _ => true
  | .sysTime _ _ _ => true
  | .fenceSignalApply => true
  | .memoryRequest r => r.wf
  | .translationWalk _ _ _ => true
  | .requestRetry _ _ => true
  | .accessTableSwap _ => true
  | .targetDrained _ => true
  | .drainTimeout _ => true
  | .kvPromotion _ _ _ => true
  | .poolMove _ _ _ => true
  | .poolMoveComplete _ _ => true
  | .poolMoveAbort _ _ => true
  | .bridleFlit _ _ f _ => f.src != f.dst
  | .query c => c.wf
  | .ctxCreate c => c.wf
  | .ctxDestroy c => c.wf
  | .abort _ => true
  | .abortDrained _ => true
  | .granuleScrub _ => true
  | .slotIn c => c.wf
  | .slotOut c => c.wf
  | .queueCreate c => c.wf
  | .ctxWdt c => c.wf
  | .ctxRekey c => c.wf
  | .fenceAlloc c => c.wf
  | .fenceReset c => c.wf
  | .fenceShare c => c.wf
  | .fenceUnshare c => c.wf
  | .devevtSet c => c.wf
  | .cntRead c => c.wf
  | .grant c => c.wf
  | .map c => c.wf
  | .unmap c => c.wf
  | .protect c => c.wf
  | .mapRequestComplete _ => true
  | .hwinSet c => c.wf
  | .poolmapSet c => c.wf
  | .donate c => c.wf
  | .kvpoolSize c => c.wf
  | .kvRegion c => c.wf
  | .apertureMap c => c.wf
  | .clusterMove c => c.wf
  | .programLoad c => c.wf
  | .learnBind c => c.wf
  | .learnSeal c => c.wf
  | .handoffOpen c => c.wf
  | .handoffClose c => c.wf
  | .partitionSet c => c.wf
  | .nodeSet c => c.wf
  | .admitSet c => c.wf
  | .portReset c => c.wf
  | .herdForm c => c.wf
  | .herdJoin c _ _ => c.wf
  | .collBind c => c.wf
  | .collSwap c => c.wf
  | .charterLoad c _ => c.wf
  | .charterUnload c => c.wf
  | .kslotQuery c => c.wf
  | .secStat c => c.wf
  | .objImport c => c.wf
  | .objImportComplete _ _ => true
  | .objExport c => c.wf
  | .lcQuery c => c.wf
  | .lcRetire c => c.wf
  | .fwRevoke c => c.wf
  | .calWrite c => c.wf
  | .calRead c => c.wf
  | .ckptStore c => c.wf
  | .ckptWrite c => c.wf
  | .ckptRestore c _ => c.wf
  | .snapWrite c => c.wf
  | .snapRestore c _ => c.wf
  | .fieldtest c => c.wf
  | .fieldtestLimit hung => hung.all fun u => unitOk u.1 u.2
  | .unitReset c => c.wf
  | .mailboxBadCommand _ _ => true
  | .nop p => p.wf
  | .launch p => p.wf
  | .stop p => p.wf
  | .copy p => p.wf
  | .stamp p => p.wf
  | .packetComplete _ _ _ => true
  | .queueTimeout _ _ => true
  | .tail _ _ _ _ => true
  | .fsigv _ _ _ => true
  | .evhead _ _ _ => true
  | .msixMessage _ => true
  | .stepOpen _ => true
  | .expmax _ => true
  | .collectiveRsum _ => true
  | .agather _ => true
  | .allsum _ => true
  | .collectiveMessage m => m.wf
  | .collectiveAcknowledgement _ _ _ => true
  | .scalarRecord _ _ rec => rec.wf
  | .gateRecord rec => rec.wf
  | .gateQuery => true
  | .gateTimeout => true
  | .blockArrival _ bytes => bytes.length == 193
  | .recordGroupRead _ _ => true
  | .slotDrain _ => true
  | .recordGroupWritten _ => true
  | .ballastPark _ => true
  | .groupFence _ => true
  | .factorFinalise _ => true
  | .commitFence => true
  | .rootDigest _ => true
  | .digestDecide _ _ => true
  | .herdAnnounce _ _ _ _ => true
  | .formationTimeout _ => true
  | .membershipRecord _ rec => rec.wf
  | .membershipSwap _ => true
  | .livenessReport _ _ => true
  | .memberMissing _ _ => true
  | .withdraw _ _ => true
  | .herdBeacon _ _ => true
  | .bellwetherTakeover _ _ => true
  | .joinTransfer _ _ _ => true
  | .joinAbandon _ => true
  | .slotTableSwap => true
  | .tetherBeacon recv => (match recv with | some b => b.hops < 4096 | none => true)
  | .timeExchange _ _ _ _ _ => true
  | .holdoverExpiry => true
  | .masterLoss => true
  | .unlockedWithdrawal => true
  | .syncIn _ => true
  | .syncInMissing => true
  | .syncOut => true
  | .ptmDialog _ _ => true
  | .handoffRecord _ _ => true
  | .rfidReturn _ _ => true
  | .train _ _ => true
  | .hello _ _ _ => true
  | .attest _ _ _ _ _ => true
  | .keyx _ _ _ => true
  | .bringUpTimeout _ => true
  | .portRetry _ => true
  | .bringUp _ w => w.all fun b => b.length == 256
  | .flitTransmit _ => true
  | .data f => f.wf
  | .lctl f l => f.wf && l.wf
  | .idle f => f.wf
  | .lctlTimer _ => true
  | .acknowledgementTimer _ => true
  | .retrainTimer _ => true
  | .fastRetrainComplete _ => true
  | .peerDown _ => true
  | .rekey _ => true
  | .rekeySwitch _ _ _ => true
  | .rekeyTimeout _ => true
  | .prd m => m.wf
  | .pbrd m => m.wf
  | .pwr m => m.wf
  | .pbwr m => m.wf
  | .patom m => m.wf
  | .poolResponse _ _ _ _ => true
  | .poolResponseTimeout _ => true
  | .configurationRequest _ _ _ _ => true
  | .bar0Access write _ len bytes => if write then len == bytes.length else bytes.isEmpty && 0 < len
  | .registerWrite _ _ _ _ => true
  | .badRegisterAccess _ _ len => 0 < len && len ≤ 4096
  | .counterClr _ _ => true
  | .dumpack _ => true
  | .logData => true
  | .tetherNsRead => true
  | .ptmhRead => true
  | .portCfgWrite _ _ => true
  | .msixTableAccess _ _ size _ => 0 < size && size ≤ 4096
  | .bar2ReservedAccess _ _ size => 0 < size && size ≤ 4096
  | .apertureAccess write _ len bytes => if write then len == bytes.length else bytes.isEmpty && 0 < len
  | .completion _ _ _ => true
  | .completionTimeout _ => true
  | .perst _ => true
  | .hotReset => true
  | .dlDown => true
  | .doeObject _ _ => true
  | .getMeasurements _ => true
  | .keyExchange _ peer => peer.length == 64
  | .quote _ _ _ => true
  | .krBegin _ _ _ _ => true
  | .krWrap _ _ _ _ _ sig => sig.length == 64
  | .nonce _ _ => true
  | .revoke _ _ _ _ _ sig => sig.length == 64
  | .report _ _ _ _ sig => sig.length == 64
  | .kSetGo _ _ _ => true
  | .ideFailure _ => true
  | .mctpControl _ _ _ _ => true
  | .pldmSensor _ _ _ => true
  | .requestUpdate _ => true
  | .updateAgentIdle => true
  | .imageWrite _ _ => true
  | .keyRemask => true
  | .remaskRetry => true
  | .remaskStarvation => true
  | .slotSweep _ => true
  | .ephemExpiry _ => true
  | .drbgReseed _ => true
  | .entropyFailure => true
  | .rekeyLine _ _ => true
  | .rekeyJobComplete _ => true
  | .patrol _ _ => true
  | .integrityHalt _ _ _ => true
  | .slotRebuild _ _ _ => true
  | .resendTimeout _ => true
  | .redundancyMismatch _ _ => true
  | .coreReset _ => true
  | .clusterReset _ => true
  | .cdieReset _ => true
  | .mdieReset _ => true
  | .resetFenceExpiry _ _ => true
  | .unitReady _ _ => true
  | .mdieReady _ => true
  | .resetEscalation _ _ => true
  | .integrityWritebackTimeout _ => true
  | .progressWatchdog _ => true
  | .noProgress _ _ => true
  | .heartbeat _ => true
  | .heartbeatMissed => true
  | .lockstepMismatch => true
  | .start i => i.wf
  | .startTimerExpiry => true
  | .trainingRecordSeal => true
  | .lcAdvance => true
  | .mainSupplyRise => true
  | .supplyFault _ _ _ => true
  | .auxSupplyRise => true
  | .auxSupplyFall => true
  | .powerCapTick _ => true
  | .operatingPointChange _ => true
  | .pwrBrakeAssert _ => true
  | .pwrBrakeDeassert => true
  | .thermalSample t => t.wf
  | .thermalThrottleTick => true
  | .thermalHalt _ => true
  | .fabRefclkLoss => true
  | .fabRefclkRecovery => true
  | .checkpointCapture _ => true
  | .checkpointFlip _ _ => true
  | .checkpointTimeout => true
  | .streamSegment _ => true
  | .unassignedMajorOpcode _ _ => true
  | .instructionFetchFault _ => true
  | .pcieLinkUp _ _ _ => true
  | .testAccessPortInstruction _ _ _ => true
  | .correctedErrorHour => true
  | .objExportComplete _ _ => true
  | .clusterMoveTimeout _ => true
  | .slotOutTimeout _ => true
  | .fieldTestComplete fails _ => fails.all FailRec.wf
  | .refreshIntervalBoundary _ => true

end Sys2Proof
end

