-- ==== Sys2Proof/Tests/Slice0.lean ====
section
/-! SUPPORT. Tests: the checks of well-formedness, words written out, and for each statement a state and operands that
meet its hypotheses. -/

open Sys2Proof Sys2Proof.Machine

namespace Sys2Proof.Tests

section
/- One test after the other: a `decide +kernel` waits for the declarations before it, and a thread waits for each. -/
set_option Elab.async false

/-! ### Small states -/

/-- An instruction of core 0. -/
def h0 : Issue := { core := 0 }
/-- A core that runs at 0x40, with g1 a mapped address, g2 and g3 small multiples of 128 and 64. -/
def tK : Core := { run := .running, pc := 0x40, g := [(1, 0x100000), (2, 0x80), (3, 0x40), (5, 1)] }
/-- Cluster 0, held by context 1, with a page of the alias of core 1 in its TLB. -/
def tC : Cluster :=
  { held := true, ctx := 1, tlb := [{ vpn := 0x10, da := 0xF00000800000, r := true, w := true, x := true }] }
/-- Words at an address. -/
def tPut (st : Tab Byte) (a : Nat) (ws : List Nat) : Tab Byte := putBytes st a (ws.flatMap fun w => leBytes 8 w)
/-- Access tables that admit the initiators of context 1. -/
def tT (own : Tab (BitVec 16)) : Target :=
  { initA := [0, 512, 704, 724, 725, 726, 727, 739, 747].map fun i => (i, { v := true, r := true, w := true, ctx := 1 }), ownA := own }
/-- Page tables of context 1 in granule 1: 0x100000 is the alias of core 1, and 0x200000 granule 2. -/
def tP : Tab Byte := tPut (tPut (tPut (tPut [] 0x200000 [0x201001]) 0x201000 [0x202001]) 0x202000 [0x203001, 0x40003B])
  0x203080 [0xF0000080003B]
/-- A ready device whose context 1 is RESIDENT in slot 0 with cluster 0 and core 0, with keys and fences 7 and 8. -/
def tS (k : Core) : State := { State.reset with
  dev := .ready, cores := [(0, k)], clusters := [(0, tC)], slots := [(0, some 1)], mem := tP
  ctxs := [(1, { st := .resident, slot := some 0, root := some 0x200000, keySlot := some (5, 0) })]
  keys := { slots := [(3, { st := .valid, use := 3 }), (5, { st := .valid, parent := 3, use := 3 })] }
  fences := [(7, { v := true, val := 5, owner := some 1 }), (8, { v := true, val := 5, owner := some 1 })]
  targets := [(0, tT [(1, 0x2001), (2, 1)]), (8, tT [(0x800000, 1)]), (12, tT [])] }
/-- A core instruction executes, as a check. -/
def exe (s : State) (u : Uses) (h : Issue := h0) : Bool :=
  s.coreCtx h.core.val == some 1 && s.issues h.core.val 1 && !(s.core h.core.val).stopReq &&
    (s.core h.core.val).pc.toNat % 8 == 0 && !h.rsv && !(s.core h.core.val).awaitsP h.pred &&
    (s.core h.core.val).pr h.pred != h.pneg && (s.core h.core.val).ready u
/-- The check is sound. -/
theorem exe_sound {s : State} {u : Uses} {h : Issue} (e : exe s u h = true) : s.Executes h 1 u := by
  simp only [exe, Bool.and_eq_true, beq_iff_eq, Bool.not_eq_true', bne_iff_ne, ne_eq] at e
  obtain ⟨⟨⟨⟨⟨⟨⟨a, b⟩, c⟩, d⟩, f⟩, g⟩, i⟩, j⟩ := e
  exact ⟨a, b, c, d, f, g, i, j⟩
/-- An access completes. -/
def good {α : Type} (r : Res α) (f : State → α → Bool := fun _ _ => true) : Bool :=
  match r with
  | .ok s a => f s a
  | _ => false

/-! ### Hypotheses of the statements about core instructions are met -/

theorem test_hyp_scalarOperations : exe (tS tK) { regs := [4, 1, 3] } ∧ exe (tS tK) { regs := [4, 1] } ∧
    exe (tS tK) { regs := [4] } ∧ (63 : BitVec 32).toNat < 64 ∧ 12 < (13 : BitVec 6).toNat ∧
    17 * 2 ^ 48 + 31 * 2 ^ 43 < 18 * 2 ^ 48 ∧ (17 * 2 ^ 48 + 31 * 2 ^ 43) % 2 ^ 33 = 0 := by decide +kernel
theorem test_hyp_issuing : (tS tK).Issuing h0 1 :=
  ⟨by decide +kernel, by decide +kernel, by decide +kernel, by decide +kernel⟩
theorem test_hyp_executes : (tS tK).Executes h0 1 { regs := [4, 1, 3], preds := [2] } := exe_sound (by decide +kernel)
theorem test_hyp_movesAndPredicates : exe (tS tK) { regs := [4] } ∧ exe (tS tK) { regs := [1, 2], preds := [3] } ∧
    exe (tS tK) { regs := [1], preds := [3] } ∧ exe (tS tK) { preds := [3, 1, 2] } ∧ exe (tS tK) { preds := [3, 1, 0] } := by
  decide +kernel
theorem test_hyp_branches : exe (tS tK) {} ∧ exe (tS tK) { regs := [4] } ∧ exe (tS tK) { regs := [4, 1] } ∧
    ((tK).rd 1).toNat < 2 ^ 48 := by decide +kernel
theorem test_hyp_localLoadStore : exe (tS tK) { regs := [4, 2] } ∧
    ((tK.rd 2) + (0x47FF78 : BitVec 32).signExtend 64).toNat + 8 = localEnd ∧ (localEnd - 8) % 8 = 0 ∧
    (tS tK).lockedNow 0 { r := [(localEnd - 8, 8)] } = false ∧ (tS tK).lockedNow 0 { w := [(localEnd - 8, 8)] } = false := by
  decide +kernel
theorem test_hyp_contextLoadStore : exe (tS tK) { regs := [4, 1] } ∧ (tK.loads.length < 16) ∧ 0x100000 % 8 = 0 ∧
    (tS tK).lineLocked 0 0 { r := [(0x100000, 8)] } = false ∧ (tS tK).lineLocked 0 0 { w := [(0x100000, 8)] } = false ∧
    good ((tS tK).aim 0 1 0x100000 8 .read) (fun t da => good (t.readHeld 0 (t.core 0).taskNow da 8)) ∧
    good ((tS tK).aim 0 1 0x100000 8 .write) (fun t da => good (t.writeHeld 0 (t.core 0).taskNow da (leBytes 8 7))) ∧
    assigned 0x0A = false ∧ (tS tK).coreCtx 0 = some 1 ∧ (tS tK).issues 0 1 := by decide +kernel
theorem test_hyp_scalarLoadReturn :
    ((((tS { tK with loads := [{ rd := 4, val := 9 }] }).core 0).loads[0]?).map fun l => (l.rd, l.pred)) = some (4, none) := by
  decide +kernel
theorem test_hyp_loadsInFlightAndDivision :
    exe (tS { tK with loads := List.replicate 16 { rd := 9, val := 0 } }) { regs := [4, 1] } ∧
    16 ≤ (List.replicate 16 ({ rd := 9, val := 0 } : Load)).length ∧ exe (tS tK) { regs := [4, 1, 0] } ∧ tK.rd 0 = 0 := by
  decide +kernel

/-! ### Vector instructions -/

/-- One slot of 32-bit integers to the last slot. -/
def tV : VOp := { d := 2047, a := 0, b := 1, n1 := 0, incA := false, incB := false, breg := false, ty := 2, x := false, sat := false }
/-- The largest run, from a broadcast register. -/
def tW : VOp := { d := 1792, a := 0, b := 31, n1 := 255, incA := true, incB := false, breg := true, ty := 3, x := false, sat := false }
/-- A one-source run. -/
def tU : VUn := { d := 2047, a := 0, n1 := 0, incA := false, ty := 3, sat := false }

theorem test_hyp_vectorArithmetic : (tS tK).VopRuns h0 1 (fun _ => True) True True { tV with x := true, sat := true } ∧
    (tS tK).VopRuns h0 1 (· ≤ 2) False True tV ∧ (tS tK).VopRuns h0 1 (3 ≤ ·) False True tW ∧
    (tS tK).VopRuns h0 1 (fun _ => True) False False tW := by
  refine ⟨⟨exe_sound ?_, ?_, ?_, ?_, ?_, ?_, ?_, ?_, ?_⟩, ⟨exe_sound ?_, ?_, ?_, ?_, ?_, ?_, ?_, ?_, ?_⟩,
    ⟨exe_sound ?_, ?_, ?_, ?_, ?_, ?_, ?_, ?_, ?_⟩, ⟨exe_sound ?_, ?_, ?_, ?_, ?_, ?_, ?_, ?_, ?_⟩⟩ <;> decide +kernel
theorem test_hyp_vectorBits : (tS tK).VopRuns h0 1 (· = 2) False True tV ∧ exe (tS tK) { preds := [7] } ∧ (7 : BitVec 11).toNat ≤ 7 ∧
    (tS tK).lockedNow 0 { r := [slotRange (runOf 1792 true 256)] } = false ∧ tK.unit 1 = [] := by
  refine ⟨⟨exe_sound ?_, ?_, ?_, ?_, ?_, ?_, ?_, ?_, ?_⟩, ?_⟩ <;> decide +kernel
/-- A vector instruction that waits in its unit's queue. -/
def tDis : Dispatched := { num := 3, pc := 0x38, ins := .vadd h0 tV, g := [], srstep := 0, task := none, ext := (vopWork tV).ext
                           pd := none, cur := none }
/-- A core whose vector unit holds it. -/
def tBusy : Core := { tK with units := [(1, [tDis])], disp := 4 }
theorem test_hyp_vectorQueue : exe (tS tBusy) {} ∧ vopCause tyAll true true tV = none ∧ tBusy.unit 1 = [tDis] ∧ 1 < unitDepth 1 ∧
    (tS tBusy).locked 0 tDis.num tDis.ext = false ∧ good (vectorWork tDis.ins 0 1 tDis (tS tBusy)) ∧
    (tS tBusy).locked 0 4 { w := [slotRange (2047, 1)] } = true := by decide +kernel
theorem test_hyp_vectorOneSource : (tS tK).VunRuns h0 1 (fun _ => True) True { tU with ty := 0, sat := true } ∧
    (tS tK).VunRuns h0 1 (3 ≤ ·) False tU ∧ (tS tK).VunRuns h0 1 (· = 2) False { tU with ty := 2 } ∧
    (tS tK).VunRuns h0 1 (· = 3) False tU := by
  refine ⟨⟨exe_sound ?_, ?_, ?_, ?_, ?_, ?_, ?_⟩, ⟨exe_sound ?_, ?_, ?_, ?_, ?_, ?_, ?_⟩,
    ⟨exe_sound ?_, ?_, ?_, ?_, ?_, ?_, ?_⟩, ⟨exe_sound ?_, ?_, ?_, ?_, ?_, ?_, ?_⟩⟩ <;> decide +kernel

/-- Three-source fields: N in g5, which holds 1. -/
def tX : V3 := { d := 2047, a := 0, b := 31, c := 2, gn := 5, incA := true, incB := false, incC := false, rnd := true, breg := true }
theorem test_hyp_vectorThreeSource : (tS tK).V3Runs h0 1 True tX 1 ∧ (tS tK).V3Runs h0 1 False { tX with rnd := false } 1 := by
  refine ⟨⟨exe_sound ?_, ?_, ?_, ?_, ?_, ?_, ?_, ?_, ?_⟩, ⟨exe_sound ?_, ?_, ?_, ?_, ?_, ?_, ?_, ?_, ?_⟩⟩ <;> decide +kernel
theorem test_hyp_slotResult : Tab.wf 0 (tK.store) = true ∧ (List.replicate 64 (7, 1)).length = 2048 / 32 ∧
    (List.replicate 256 (7, 1)).length = 2048 / 8 := by decide +kernel
theorem test_hyp_integerSaturation : (8 = 8 ∨ 8 = 16 ∨ 8 = 32) ∧ (intSat true true 8 128).1 = 127 ∧ (intSat true true 8 128).2 ≠ 0 ∧
    (intSat true true 8 (-128)).2 = 0 := by decide +kernel

theorem test_hyp_unitsIdle : tK.unit 1 = [] ∧ tK.unit 2 = [] ∧ tK.unit 3 = [] ∧ tK.mx.ops.length < 8 ∧ tK.mx.ops = [] ∧
    8 ≤ ({ ops := List.replicate 8 (0, .swap) } : Matrix).ops.length := by decide +kernel
theorem test_hyp_vectorConversions : exe (tS tK) { regs := [1] } ∧ cvtCode 0 = true ∧ cvtCode 11 = true ∧
    2046 + (cvtSlots 0 11 2).1 ≤ 2048 ∧ (cvtSlots 0 11 2).2 ≤ 2048 ∧
    (tS tK).lockedNow 0 { r := [slotRange (2046, (cvtSlots 0 11 2).1)], w := [slotRange (0, (cvtSlots 0 11 2).2)] } = false ∧
    (let m : VMx := { d := 0, a := 2047, s := 9, n1 := 0, fmx := 5, rule := false, blk := 2, rnd := 3, gidx := 1 }
     (mxSlots m).1 ≤ 2048 ∧ 9 + (mxSlots m).2 ≤ 2048 ∧
     (tS tK).lockedNow 0 { r := [slotRange (2047, 1)], w := [slotRange (0, (mxSlots m).1), slotRange (9, (mxSlots m).2)] } = false ∧
     (tS tK).lockedNow 0 { r := [slotRange (0, (mxSlots m).1), slotRange (9, (mxSlots m).2)], w := [slotRange (2047, 1)] } = false) := by
  decide +kernel
theorem test_hyp_bfxInstructions : exe (tS tK) {} ∧ exe (tS tK) { regs := [2] } ∧ (tK.rd 2).toNat + 386 * 256 ≤ tileEnd ∧
    1792 + 256 ≤ 2048 ∧ bxSlots 256 ≤ 2048 ∧
    (tS tK).lockedNow 0 { r := [slotRange (1792, 256)], w := [slotRange (0, bxSlots 256)] } = false ∧
    (tS tK).lockedNow 0 { r := [slotRange (1792, 256), slotRange (0, bxSlots 256)], w := [(0x80, 386 * 256)] } = false ∧
    (tS tK).lockedNow 0 { r := [(0x80, 386 * 256)], w := [slotRange (1792, 256)] } = false := by decide +kernel
/-- A charter image with one entry, for one context, and the byte 97 of that entry. -/
def tImg (b : Byte) (n : Nat := 900) : List Byte := ([0, 0, 0, 0, 0, 1] ++ List.replicate (64 + 64 + 97 - 6) 0 ++ [b, 0, 1] ++ List.replicate n 0)
/-- Context 1 runs under it. -/
def tN (b : Byte) (s : State) : State := { s with
  charters := [{ chd := 5, image := tImg b }], ctxs := Tab.upd {} s.ctxs 1 fun k => { k with chd := 5, entry := some 0 } }
theorem test_hyp_laneGenerators : exe (tS tK) {} ∧ exe (tS tK) { regs := [1, 5] } ∧ 2046 + 2 ≤ 2048 ∧
    (tS tK).lockedNow 0 { w := [slotRange (2046, 2)] } = false ∧ exe (tN 2 (tS tK)) {} ∧ (tN 2 (tS tK)).nondet 1 = true ∧
    ∃ t, sampleSlots 0 2047 1 (tN 2 (tS tK)) = some t :=
  ⟨by decide +kernel, by decide +kernel, by decide, by decide +kernel, by decide +kernel, by decide +kernel, _, rfl⟩

/-- A run of one slot to the last. -/
def tR (ty : BitVec 3) (src dst : BitVec 11) : RFmt :=
  { src := src, n1 := 0, dst := dst, accs := 2047, init := false, save := false, ty := ty, gidx := 0 }
theorem test_hyp_sums : (tS tK).RedRuns h0 1 [3, 4, 5] 1 false false (tR 5 0 2046) {} ∧
    (tS tK).RedRuns h0 1 [3, 4, 5] 1 false true (tR 3 2046 0) {} ∧ (tS tK).RedRuns h0 1 [2] 1 false false (tR 2 0 2046) {} := by
  refine ⟨⟨exe_sound ?_, ?_, ?_, ?_, ?_, ?_, ?_, ?_, ?_, ?_, ?_⟩, ⟨exe_sound ?_, ?_, ?_, ?_, ?_, ?_, ?_, ?_, ?_, ?_, ?_⟩,
    ⟨exe_sound ?_, ?_, ?_, ?_, ?_, ?_, ?_, ?_, ?_, ?_, ?_⟩⟩ <;> first | decide +kernel | rfl
theorem test_hyp_prefixSums : (tS tK).RedRuns h0 1 [2, 3] 1 true false (tR 2 2046 2046) {} ∧
    ({} : Red).count + 64 * 1 ≤ 2 ^ 42 ∧ ({} : Red).spec.testBit 3 = false := by
  refine ⟨⟨exe_sound ?_, ?_, ?_, ?_, ?_, ?_, ?_, ?_, ?_, ?_, ?_⟩, ?_⟩ <;> first | decide +kernel | rfl
theorem test_hyp_extremes : exe (tS tK) {} ∧ exe (tS tK) { regs := [1] } ∧ 0 + 256 ≤ 2048 ∧
    (tS tK).lockedNow 0 { r := [slotRange (0, 256)], w := [slotRange (2047, 1)] } = false ∧ 2 + 1 ≤ 2046 ∧ 2046 + 2 ≤ 2048 ∧
    (tS tK).lockedNow 0 { r := slotRange (2, 1) :: [slotRange (2046, 2)], w := [slotRange (2046, 2)] } = false := by decide +kernel
theorem test_hyp_sumsAreExact : ([.fin false 1 0, .fin true 3 0] : List FVal).Perm [.fin true 3 0, .fin false 1 0] ∧
    ({} : Red).count + 2 ≤ 2 ^ 42 := ⟨List.Perm.swap .., by decide⟩

/-- The last word of a STREAM that accumulates. -/
def tO : OutW := { fmt := 0, srule := 0, blk := 0, dst := 0, go := 0, gos := 0, k0 := 0, rnd := 0, gidx := 0 }
/-- A STREAM of one row. -/
def tStream (mode : BitVec 2) (acc : BitVec 8) : StreamF :=
  { fmtA := 11, sclA := false, blkA := 0, ga := 2, gsa := 0, ring := 0, mode := mode, acc := acc, m1 := 0 }
theorem test_hyp_matrixDispatch : exe (tS tK) {} ∧ exe (tS tK) { regs := [2, 2] } ∧ isArray 1 = true ∧ isArray 12 = true ∧
    sclLegal 3 true = true ∧ sclLegal 1 false = true ∧ (tK.rd 2).toNat % 128 = 0 ∧ 0x80 + statBytes 3 ≤ tileEnd ∧ 0x80 + 1024 ≤ tileEnd ∧
    exe (tS tK) { regs := [2] } ∧ streamBad (tStream 1 255) tO = false ∧ pairs 11 tK.mx.fmtNow = true ∧
    0x80 + 128 * stepBytes 11 ≤ tileEnd ∧ exe (tS tK) { regs := 2 :: outRegs tO } ∧ streamBad (tStream 0 0) tO = false ∧
    (outRead tO tK).cause 1 = none := by decide +kernel
theorem test_hyp_accoutAndCsadv : exe (tS tK) { regs := outRegs tO } ∧ outBad tO = false ∧ 255 + 1 ≤ 256 ∧
    (outRead tO tK).cause 1 = none ∧ tK.mx.ops = [] ∧
    (tS tK).lockedNow 0 { w := (outRead tO tK).regions 0 1 } = false ∧ exe (tS tK) { regs := [2, 5] } ∧
    exe (tS tK) { regs := [1, 5] } ∧ (tK.rd 5).toNat = 1 ∧ 0x80 % 4 = 0 ∧ exe (tS tK) { regs := [2, 0] } ∧ (tK.rd 0).toNat = 0 ∧
    (tS tK).lockedNow 0 { r := [(0x80, 4)], w := [(0x80, 4)] } = false := by decide +kernel
/-- A core whose array holds one instruction. -/
def tOp (o : MxOp) : Core := { tK with mx := { ops := [(0, o)] }, disp := 1 }
theorem test_hyp_matrixSteps : (tS (tOp (.accout 255 1 (outRead tO tK)))).locked 0 0 { w := (outRead tO tK).regions 0 1 } = false ∧
    (let s := tS (tOp (.csadv false 0x100000 1 1 none 0x40))
     s.locked 0 0 (MxOp.ext (.csadv false 0x100000 1 1 none 0x40)) = false ∧
       good (s.advanceTable 0 1 0 false 0x100000 1 1 none) = true) := by decide +kernel
/-- A core with a LOADW and a STREAM in flight. -/
def tM : Core := { tK with mx := { ops := [(7, .loadw true 11 false 16 0 0), (8, .stream false 11 false 16 0x4000 0 0 1 0 1 {} 0 none [])] } }
theorem test_hyp_matrixEvents : (tS tM).works 0 = some 1 ∧
    tM.mx.ops.find? (fun o => o.2.isLoad) = some (7, .loadw true 11 false 16 0 0) ∧
    (tM.mx.ops.any fun o => o.1 < 7 && o.2.uses true) = false ∧ (tS tM).locked 0 7 (MxOp.ext (.loadw true 11 false 16 0 0)) = false ∧
    tM.mx.ops.find? (fun o => o.2.isRows) = some (8, .stream false 11 false 16 0x4000 0 0 1 0 1 {} 0 none []) ∧
    (tM.mx.ops.any fun o => o.1 < 8 && o.2.loads false) = false ∧
    (tS tM).locked 0 8 { r := stepReads 11 false 0x4000 0 0 0 0 } = false ∧ (tS tM).locked 0 8 { w := [] } = false := by decide +kernel
theorem test_hyp_bankElements : 63 < 64 ∧ 255 < kOf 12 ∧ 255 / 16 < 16 ∧ fmtWidth 12 ≤ 16 ∧ 63 < kOf 1 ∧ 63 / 16 < 16 ∧ fmtWidth 1 ≤ 16 := by
  decide +kernel

/-- A descriptor at 0x80 that moves 64 bytes within the stores. -/
def tD : Core := { tK with store := tPut [] 0x80 [2 ^ 51 + 2 ^ 50 + 2 ^ 48, 0, 0x200, 0x400, 64] }
/-- A chain of engine 0 that is about to run it. -/
def tE (cur : Option DescRef) (fence : Option (Nat × W64)) : State := { tS tD with
  clusters := [(0, { tC with dma := [(0, [{ core := 0, num := 3, ctx := 1, cur := cur, fence := fence }])] })] }
theorem test_hyp_dmaInstructions : exe (tS tD) { regs := [2, 2] } ∧ (tD.rd 2).toNat % 64 = 0 ∧ 0x80 + 64 ≤ localEnd ∧
    (tS tD).maySignal 1 7 = true ∧ exe (tS tD) { regs := [1, 2, 3] } ∧ (tD.rd 1).toNat % 64 = 0 ∧ (tD.rd 3).toNat % 64 = 0 ∧
    (tD.rd 3).toNat + 0x80 ≤ localEnd ∧ tD.rd 3 ≠ 0 ∧ exe (tS { tD with g := [(1, 0x100000), (2, 0x80)] }) { regs := [1, 2, 3] } ∧
    exe (tS tD) {} ∧ tD.ringWin = false ∧ (((tS tD).chainsOf 0 tD.disp).any fun ch => (tS tD).chainTile 0 ch.1 ch.2) = false ∧
    (tD.mx.ops.any fun o => o.1 < tD.disp && o.2.rings) = false := by decide +kernel
/-- A chain whose descriptor writes 64 bytes of context memory at 0x100000. -/
def tLk : State := { tS { tK with store := tPut [] 0x80 [2 ^ 51 + 2 ^ 48, 0, 0x200, 0x100000, 64], disp := 4 } with
  clusters := [(0, { tC with dma := [(0, [{ core := 0, num := 3, ctx := 1, cur := some (.at_ 0x80 true) }])] })] }
theorem test_hyp_linesLocked : exe tLk { regs := [4, 1] } ∧ tLk.lineLocked 0 4 { r := [(0x100000, 8)] } = true ∧
    tLk.lineLocked 0 4 { w := [(0x100000, 8)] } = true := by decide +kernel
theorem test_hyp_dmaEngines :
    (let p := DescRef.at_ 0x80 true
     let s := tE (some p) none
     let act : Actor := { init := dmaInit 0 0, core := 0, ctx := 1, fill := false, task := none, ahead := [] }
     s.works 0 = some 1 ∧ s.locked 0 3 { r := p.place true } = false ∧ s.lineLocked 0 3 { r := p.place false } = false ∧
     good (act.desc s p) fun t d => d.cause == none && !t.locked 0 3 { r := d.reads, w := d.writes } &&
       !t.lineLocked 0 3 { r := d.sources, w := d.remote } && good (d.run act t)) ∧
    (tE none none).chains 0 0 = [{ core := 0, num := 3, ctx := 1, cur := none, fence := none }] ∧
    (tE none (some (7, 6))).works 0 = some 1 ∧ ((tE none (some (7, 6))).signalHeld 0 none 7 6 0).isSome = true := by decide +kernel

/-- A T window of 0x2000 to 0x2080 in the header at 0x80, filled by the chain at 0x100 from context memory; its next
window's header is its own. -/
def tH : Core := { tK with
  store := tPut (tPut [] 0x80 [2 ^ 62 + 2 ^ 57 + 2 ^ 56 + 7 * 2 ^ 16, 6, 0, 0x100, 0x2000, 0x80, 0x80, 0])
    0x100 [2 ^ 50 + 2 ^ 48, 0, 0x100000, 0x2000, 64] }
/-- The window of that header. -/
def tWin : Window := windowOf 0x80 (tH.bytes 0x80 64) 0
/-- A core that holds it. -/
def tL (f : Window → Window) : State := tS { tH with wins := [f tWin] }
theorem test_hyp_windowCommands : exe (tS tH) { regs := [2] } ∧ 0x80 + 64 ≤ tileEnd ∧
    (tS tH).lockedNow 0 { r := [(0x80, 64)] } = false ∧ windowClean (tH.bytes 0x80 64) = true ∧ tWin.cause = none ∧
    (tS tH).owns 1 tWin.afid = true ∧ tWin.wv = false ∧ (tS tH).admitWin 0 1 tWin = .take ∧
    exe (tL id) { regs := [2] } ∧ ((tL id).core 0).winFrom 0x80 = some 0 ∧
    (let w := { tWin with rel := true, relNum := 1 }
     exe (tL fun _ => w) { regs := [2] } ∧ (tL fun _ => w).admitWin 0 1 tWin = .wait) := by decide +kernel
theorem test_hyp_windows : (tL id).works 0 = some 1 ∧ ((tL id).core 0).wins[0]? = some tWin ∧
    (tL fun w => { w with rel := true }).winFree 0 1 { tWin with rel := true } = true ∧
    (tWin.filling = false ∧ tWin.rel = false ∧ tWin.wv = false ∧ tWin.kind = 1 ∧ tWin.arrived = false ∧ tWin.late = false ∧ tWin.cur = none) ∧
    (((tS { tH with stall := .fence 7 6, wins := [tWin] }).ctxCores 1).any fun n =>
      (tS { tH with stall := .fence 7 6, wins := [tWin] }).waitsOn n 7 6) = true := by decide +kernel
theorem test_hyp_fillsAndRunAhead :
    (let p := DescRef.at_ 0x100 true
     let w := { tWin with filling := true, cur := some p }
     let s := tL fun _ => w
     let act := fillActor 0 1 w none
     s.works 0 = some 1 ∧ (s.core 0).wins[0]? = some w ∧ (s.aheadOf 0 1 w).isNone = true ∧
     (good (act.desc s p) fun t d => d.cause == none && w.holds d && w.kind != 2 &&
       !t.locked 0 w.num { r := d.reads, w := d.writes } && good (d.run act t)) ∧
     w.ra = true ∧ w.rel = false ∧ w.nextw + 64 ≤ tileEnd ∧ good (s.aheadEntry 0 1 w) = true ∧
     (({ s with runAhead := [(0, [{ ctx := 1 }])] } : State).runAhead.head?.map fun e => e.2.length) = some 1) := by decide +kernel

/-! ### Tasks, fences and SYS -/

/-- A core with a task header at 0x80: one input, fence 7 at a value. -/
def tQ (v : Nat) : Core := { tK with store := tPut [] 0x80 [1, 0, 0, 7, 0, v] }
/-- A speculative task of C = 5, bound to nothing. -/
def tJ : Task := { id := 2, hdr := { spec := true, c := 5, vto := 1 } }
/-- A core with tasks. -/
def tZ (l : List Task) : State := tS { tQ 5 with tasks := l }
theorem test_hyp_tasks : exe (tZ []) { regs := [2] } ∧ (tQ 5).openTask = none ∧ (tK.rd 2).toNat % 128 = 0 ∧ 0x80 + 128 ≤ tileEnd ∧
    (tZ []).lockedNow 0 { r := [(0x80, 128)] } = false ∧ hdrBad ((tQ 5).bytes 0x80 128) = false ∧
    (tZ []).hdrRights 1 (hdrOf ((tQ 5).bytes 0x80 128)) = true ∧ (tZ []).inputsReached (hdrOf ((tQ 5).bytes 0x80 128)) = true ∧
    (tQ 5).room (hdrOf ((tQ 5).bytes 0x80 128)) = true ∧
    (tS (tQ 6)).inputsReached (hdrOf ((tQ 6).bytes 0x80 128)) = false ∧ exe (tS (tQ 6)) { regs := [2] } ∧
    (let k := (tZ (List.replicate 8 { tJ with isOpen := false })).core 0
     exe (tZ (List.replicate 8 { tJ with isOpen := false })) { regs := [2] } ∧ k.openTask = none ∧ k.room {} = false) ∧
    exe (tZ [tJ]) { regs := [2] } ∧ ((tZ [tJ]).core 0).openTask = some tJ := by decide +kernel
theorem test_hyp_taskEvents : (tZ [tJ]).works 0 = some 1 ∧
    (let x : TaskHdr := { ins := [(7, 5)] }
     let s := tS { tK with stall := .task x none }
     s.works 0 = some 1 ∧ (s.core 0).stall = .task x none ∧ (s.core 0).stopReq = false ∧ s.inputsReached x = true ∧ (s.core 0).room x = true) ∧
    (let t : Task := { tJ with isOpen := false, verdict := .discard }
     ((tZ [t]).core 0).tasks[7 - 7]? = some t ∧ (tZ [t]).outputsDue 0 t = true) := by decide +kernel
theorem test_hyp_verdicts : (tZ [{ tJ with first := some 5 }]).works 0 = some 1 ∧ tJ.unresolved = true ∧
    ((tZ [{ tJ with first := some 5 }]).core 0).tasks[0]? = some { tJ with first := some 5 } ∧ tJ.hdr.c.toNat ≤ 5 ∧ 4 < tJ.hdr.c.toNat ∧
    tJ.first = none ∧ tJ.hdr.vto ≠ 0 ∧ (tZ [{ tJ with verdict := .commit }]).works 0 = some 1 ∧
    ((tZ [{ tJ with verdict := .commit }]).core 0).drains { tJ with verdict := .commit } = true ∧
    ((tZ []).core 0).pad.all (tZ []).landable = true ∧ (tZ []).landable { line := 0x10000, task := 2, bytes := [] } = true := by
  decide +kernel
theorem test_hyp_discardClears : Tab.wf {} (tZ [tJ]).cores = true := by decide +kernel

/-- FENCE fields of fence 7 with the value in g2. -/
def tFn : FenceF := { fid := 7, idr := false, gi := 0, gv := 3, gd := 0, pd := 0 }
theorem test_hyp_fenceInstructions : exe (tS tK) (fenceUses tFn false) ∧ fenceId tFn tK = 7 ∧ (tS tK).maySignal 1 7 = true ∧
    ((tS tK).signalHeld 0 none 7 0x40 0).isSome = true ∧ (tS tK).mayWait 1 7 = true ∧ (tS tK).reached 7 5 = true ∧
    (tS tK).reached 7 (tK.rd 3) = false ∧ exe (tS tK) (fenceUses { tFn with gv := 0, gd := 31, pd := 7 } true) ∧ tK.loads.length < 16 ∧
    exe (tS tK) {} ∧ (tS { tK with stall := .fence 7 5 }).works 0 = some 1 := by decide +kernel
theorem test_hyp_fenceUnit : (({ tS tK with sigQ := [{ fid := 7, val := 6 }, { fid := 7, val := 5 }] } : State).fence 7).owner = some 1 ∧
    ((tS tK).fence 7).v = true ∧ ((tS tK).fence 7).val.toNat < 6 ∧ 5 ≤ ((tS tK).fence 7).val.toNat := by decide +kernel
theorem test_hyp_sysInstructions : exe (tS tK) {} ∧ tK.pad = [] ∧ exe (tS tK) { regs := [2] } ∧ exe (tS tK) { regs := [31, 2] } ∧
    tK.mx.ops = [] ∧ tK.loads.length < 16 := by decide +kernel

/-! ### Memory -/

theorem test_hyp_memoryBytes : Memory.wf (tS tK).mem = true ∧ (tS tK).space 0xBFFFFFFFFF = .d 7 ∧ (tS tK).space 0x11FFFFFFFFFF = .l 3 := by
  decide +kernel
/-- A request of core 0 to the alias of core 1. -/
def tO1 : MemOp := { init := 0, ctx := 1, da := 0xF00000800000, write := true, walk := false, len := 0, data := [1], health := .clean, issued := 0, returned := 0 }
/-- The same as a request with a tag of its cluster's reserve. -/
def tO2 : MemReq := { init := 0, ctx := 1, da := 0xF00000800000, write := true, walk := false, len := 0, data := [1], acts := 1, tag := 1 }
/-- A read of a line of granule 2, of stack 0. -/
def tO3 : MemReq := { init := 0, ctx := 1, da := 0x400000, len := 64, acts := 1, tag := 1 }
/-- As many requests as a pseudo-channel admits wait at one place. -/
def tFull (n : Nat) : State := { tS tK with dramQ := List.replicate n tO3 }
theorem test_hyp_memoryRequests : (tS tK).dev = .ready ∧ (tS tK).workFor 0 1 = true ∧ (tS tK).queued 0 < 64 ∧
    (tS tK).issueDram 0xF00000800000 0 = tS tK ∧ (tS tK).space 0xF00000800000 ≠ .regs ∧
    { (tS tK).reqOf tO1 with tag := 1 } = tO2 ∧ (tS tK).behind (tS tK).retry { req := tO2 } = false ∧ (tS tK).takeTag 0 1 = some 1 ∧
    (tS tK).severed tO2 = false ∧ (tS tK).downAt 0xF00000800000 = false ∧ (tS tK).moving tO2 = false ∧ (tS tK).ordered tO2 = true ∧
    (tS tK).veiled tO2 = false ∧ (tS tK).admits 0 1 0xF00000800000 true false = true ∧ (tS tK).listed tO2 = true ∧
    (tS tK).room { req := tO2 } = true ∧ good ((tS tK).check 0 1 0xF00000800000 1 true false) ∧
    (tS tK).admits 8 1 0xF00000800000 true false = false := by decide +kernel
theorem test_hyp_requestsWait :
    (let s : State := { tS tK with retry := [{ req := tO2 }] }
     s.behind s.retry { req := { tO2 with tag := 0 } } = true ∧ s.queued 0 < 64) ∧
    ({ tS tK with code := .s7x2t0f16 0 } : State).takeTag 0 1 = none ∧
    (tFull 32).room { req := tO3 } = false ∧ (tFull 32).admits 0 1 0x400000 false false = true ∧ (tFull 32).listed tO3 = true ∧
    (let s : State := { tS tK with targets := [(97, { initA := [(725, { v := true, any := true, r := true, w := true })] })] }
     s.space 0xFF0000000000 = .regs ∧ s.admits 725 0 0xFF0000000000 false false = true ∧ s.workFor 725 0 = true) := by decide +kernel
theorem test_hyp_requestRetried :
    (let s : State := { tS tK with retry := [{ req := tO2, n := 4 }] }
     let e : State := { s.issueDram 0xF00000800000 0 with retry := s.retry.eraseIdx 0 }
     s.retry[0]? = some { req := tO2, n := 4 } ∧ tO2.init ≠ 724 ∧ ({ req := tO2, own := true } : Refused).own = true ∧ e.space 0xF00000800000 ≠ .regs ∧ e.behind (s.retry.take 0) { req := tO2, n := 4 } = false ∧
       e.room { req := tO2, n := 4 } = true ∧ good (e.check 0 1 0xF00000800000 1 true false)) ∧
    (let e : State := { (tFull 32).issueDram 0x400000 0 with retry := [] }
     e.room { req := tO3 } = false ∧ e.admits 0 1 0x400000 false false = true) := by decide +kernel
theorem test_hyp_tags : tagDie 0 = some 0 ∧ (tS tK).dieFitted 0 = true ∧ initCluster 0 = some 0 ∧ (tS tK).reserveFree 0 = true ∧
    tagDie 739 = some 0 ∧ (tS tK).tagFree 0 1 2 2048 = true ∧ (tS tK).tagFree 0 1 3 2048 = true := by decide +kernel
theorem test_hyp_tagsTaken : (tFull 512).reserveFree 0 = false ∧ (tFull 512).tagFree 0 1 3 2048 = true ∧
    ({ tS tK with dramQ := List.replicate 512 tO3 ++ List.replicate 2048 { tO3 with tag := 3 } } : State).tagFree 0 1 3 2048 = false := by
  decide +kernel
theorem test_hyp_controllers : (tS tK).controller 0x400000 = some 0 ∧ tO3.da = 0x400000 ∧ (tS tK).dramQ = [] ∧ (tS tK).pw.strict = false ∧
    256 ≤ (tFull 256).waiting 1 (fun r => (tFull 256).chanOf r.da == (tFull 256).chanOf 0x400000) ∧
    32 ≤ (tFull 32).waiting 1 (fun r => (tFull 32).dramBank r.da == (tFull 32).dramBank 0x400000) ∧ (tS tK).space 0x400000 = .d 0 ∧
    ((tS tK).dramBank 0x400000).isSome = true := by decide +kernel
theorem test_hyp_walksAndSwaps : (tS tK).works 0 = some 1 ∧ good ((tS tK).xlate 0 1 (some 0) 0x100000 .fetch) ∧
    good ((tS tK).xlate 0 1 (some 0) 0x3FFFFF .read) ∧
    (match (tS tK).xlate 0 1 (some 0) 0x400000 .read with | .lost _ c => c | _ => 0) = 0x09 ∧
    (tS tK).fetches 0 1 0x400000 = false ∧ (tS { tK with pc := 0x400000 }).fetches 0 1 0x400000 = true ∧
    (match (tS { tK with pc := 0x400000 }).xlate 0 1 (some 0) 0x400000 .fetch with | .lost _ c => c | _ => 0) = 0x03 ∧ (tS tK).undrained 80 = false ∧
    (({ tS tK with pcie := { (tS tK).pcie with reqs := [{}] }, targets := [(80, { swapNum := 1 })] } : State).undrained 80) = true ∧
    (({ tS tK with targets := [(96, { draining := true })] } : State).target 96).draining = true := by decide +kernel
/-- A page of the D-pool of die 0, one of the H-tier that context 1 holds with a promotion posted, and a free frame. -/
def tPg : State := { tS tK with
  pages := [(0x30, { owner := some 1, vpn := 0x10 }), (0x100000000, { owner := some 1, vpn := 0x11 })]
  promos := [((1, 0x11, 0), 2)] }
theorem test_hyp_pagesAndMoves : tPg.dev = .ready ∧ tPg.promos.find? (fun e => e.1 == (1, 0x11, 0)) = some ((1, 0x11, 0), 2) ∧
    tPg.pages.find? (fun e => e.2.owner == some 1 && e.2.vpn == 0x11) = some (0x100000000, { owner := some 1, vpn := 0x11 }) ∧
    tPg.pageTier 0x100000000 ≠ 0 ∧ tPg.movable 0x100000000 = true ∧ tPg.promotion 1 0x100000000 0 = none ∧
    (({ tPg with targets := [(0, tT [(3, 0x4000)])], ctxs := Tab.upd {} tPg.ctxs 1 fun k => { k with kv := { dc := 2 } } } :
      State).promotion 1 0x100000000 0).isSome = true ∧
    (let m : PoolMove := { ctx := 1, vpn := 0x10, src := 0x30, dst := 0x100000001 }
     let s : State := { tPg with moves := [m], mem := tPut tP 0x203080 [0xF000008000BB] }
     s.settled 0x30 = true ∧ s.pageInUse m = false ∧
       ({ s with pcie := { s.pcie with reqs := [{ da := 0x300000 }] } } : State).pageInUse { m with num := 1 } = true ∧
     s.moves.findIdx? (fun m => m.mover.isNone && m.ctx == 1 && m.vpn == 0x10) = some 0 ∧ (Tab.get {} s.pages m.dst).owner = none ∧
       s.leafAt 1 0x100000 = some 0x203080 ∧ (leNat (s.readDa 0x203080 8)).testBit 7 = true ∧
       ((tS tK).leafAt 1 0x100000).isSome = true ∧ (leNat ((tS tK).readDa 0x203080 8)).testBit 7 = false ∧
       s.majorEnd (2 ^ 16 * m.dst) (2 ^ 16) (if s.pageTier m.dst = 2 then 2 ^ 40 - 1 else 2 ^ 64 - 1) = false ∧ (s.checkLine (2 ^ 16 * m.src) 1 .clean).1 = true) := by decide +kernel
/-- A request message from C-die 0 to M-die 2: it goes to C-die 4 and never to the X-die (the example of R17). -/
def tBf : BridleIn := { cls := 0, src := 0, dst := 10, w := 7 }
theorem test_hyp_bridleFlits :
    (let s : State := { tS tK with routes := [(10, bridleHop 0 10), (16 * 4 + 10, bridleHop 4 10)], bridle := [(0, 0, 10, 4, 7)] }
     s.dev = .ready ∧ bridleEnds 0 = (0, 4) ∧ bridleEnds 10 = (4, 10) ∧ s.bridleFront tBf 0 = some 7 ∧ s.bridleFront tBf 4 = some 7 ∧
       s.bridleFront tBf 1 = none ∧ Tab.get 13 s.routes 10 = 4 ∧ Tab.get 13 s.routes (16 * 4 + 10) = 10 ∧
       bridleKeyOf 0 false tBf = 10 ∧ s.bridleCount 0 false tBf < 2 ^ 64 - 1 ∧ Tab.get 0 s.ras.bridleRun 10 < 8 ∧
       8 ≤ Tab.get 0 ({ s.ras with bridleRun := [(10, 8)] } : Ras).bridleRun 10 ∧
       2 ^ 64 - 1 ≤ ({ s with ras := { s.ras with bridleOk := [(0, 2 ^ 64 - 1)] } } : State).bridleCount 0 false tBf) := by
  decide +kernel
/-- M-die 0 reaches M-die 2 through C-dies 0 and 4, and no C-die of another column than 0 reaches the X-die through its row
(the example and the table of R17). -/
theorem test_bridleRoutes : bridleHop 8 10 = 0 ∧ bridleHop 0 10 = 4 ∧ bridleDist 8 10 = 3 ∧ bridleHop 1 12 = 8 ∧ bridleHop 5 12 = 10 ∧
    bridleHop 2 12 = 1 := by decide +kernel
theorem test_hyp_scrubsAndRekeys : ({ tS tK with scrubQ := [(2, 1)] } : State).scrubQ.find? (fun e => e.1 == 2) = some (2, 1) ∧
    ((tS tK).drawKey 128).isSome = true ∧ ((tS tK).checkLine 0x400000 1 .clean).1 = true ∧
    (let s : State := { tS tK with rekeyJobs := [(0, { act := true, ctx := 1, b := 0x400000 }), (12, { act := true, ctx := 1, b := 2 ^ 48 })] }
     (Tab.get {} s.rekeyJobs 0).act = true ∧ (Tab.get {} s.rekeyJobs 0).b < 2 ^ 48 ∧ (Tab.get {} s.rekeyJobs 12).act = true ∧
       2 ^ 48 ≤ (Tab.get {} s.rekeyJobs 12).b) :=
  ⟨rfl, rfl, by decide +kernel, by decide +kernel⟩

/-! ### Mailbox commands -/

/-- The quote of a module with a charter of digest 5 admitted, under a measurement and a root of zero. -/
def tQt : QuoteIn := { quote := List.replicate 5 0 ++ digBytes 5 ++ [1] ++ List.replicate 150 0 }
/-- A command of channel 0, with that quote of a peer. -/
def c0 : MbxCall := { chan := 0, seq := 9, args := [], peer := tQt }
/-- Channel 0 holds a command with these argument words. -/
def tB (opc : Nat) (args : List Nat) (s : State := tS tK) : State := { s with
  mbx := [(0, { active := true, opc := opc, seq := 9, arg := args.zipIdx.foldl (fun t e => Tab.set 0 t e.2 (w64 e.1)) [] })], mbxQ := [0] }
/-- Yorek takes the command, as a check. -/
def adm (s : State) (opc : Nat) (masks : List W64) (names : List (Nat × Nat)) (ctxs : List Nat) : Bool :=
  s.dev == .ready && !s.ras.yorekHeld && !s.pcie.d3hot && (s.chan 0).active && (s.chan 0).opc == opc && (s.chan 0).seq == 9 &&
    s.mbxQ.head? == some 0 && !argRsv (s.argsOf c0) masks && !s.taken.held 0 names &&
    ctxs.all fun i => (s.ctx i).st == .idle || (s.ctx i).st == .resident
/-- The check is sound. -/
theorem adm_sound {s : State} {opc : Nat} {masks : List W64} {names : List (Nat × Nat)} {ctxs : List Nat}
    (e : adm s opc masks names ctxs = true) : s.Admits c0 opc masks names ctxs := by
  simp only [adm, Bool.and_eq_true, beq_iff_eq, Bool.not_eq_true', List.all_eq_true, Bool.or_eq_true] at e
  obtain ⟨⟨⟨⟨⟨⟨⟨⟨⟨a, b⟩, h⟩, c⟩, d⟩, f⟩, g⟩, i⟩, j⟩, k⟩ := e
  exact ⟨⟨a, b, h, c, d, f, g⟩, i, j, k⟩
theorem test_hyp_admits : (tB 0x04 [1]).Admits c0 0x04 [lowMask 12] [(0, 1)] [1] := adm_sound (by decide +kernel)

/-- A charter whose digest is zero. -/
def tCh (s : State) : State := { s with charters := [{ chd := 0, image := tImg 0 }] }
/-- A state whose context 1 is changed. -/
def tI (f : Ctx → Ctx) (s : State := tS tK) : State := { s with ctxs := Tab.upd {} s.ctxs 1 f }
theorem test_hyp_contextCommands :
    (let s := tB 0x02 [0, 0, 0, 0, 0, 0, 32 + 2 ^ 6 + 16 * 2 ^ 22 + 16 * 2 ^ 27, 0, 0] (tCh (tS tK))
     adm s 0x02 [allMask, allMask, allMask, allMask, allMask, allMask, lowMask 38, allMask, allMask] [] [] = true ∧
       (let l := argAt (s.argsOf c0) 6
        fld l 5 0 = 32 ∧ fld l 21 6 = 1 ∧ fld l 26 22 = 16 ∧ fld l 37 27 = 16) ∧
       (s.charter? (argDig (s.argsOf c0) 0)).isSome = true ∧ chFlag (tImg 0) 1 = false ∧ chFlag (tImg 0) 2 = false ∧
       firstOf (fun i => !s.ctxLive i) 4096 0 = some 0 ∧ s.taken.emptySlot = some 6) ∧
    (let s := tB 0x04 [1] (tI (fun k => { k with st := .idle, slot := none }))
     adm s 0x04 [lowMask 12] [(0, 1)] [1] = true ∧ (s.ctx 1).st = .idle ∧
       firstOf (fun j => (Tab.get none s.slots j).isNone) 48 0 = some 1) ∧
    (let s := tB 0x05 [1] { tS tK with clusters := [] }
     adm s 0x05 [lowMask 12] [(0, 1)] [1] = true ∧ (s.ctx 1).st = .resident ∧ s.tied 1 = false) ∧
    (let s := tB 0x06 [1 + 15 * 2 ^ 12 + 16 * 2 ^ 16, 0x1000]
     adm s 0x06 [lowMask 39, allMask] [(0, 1)] [1] = true ∧ ((s.ctx 1).queue 15).v = false) ∧
    adm (tB 0x07 [1 + 2 ^ 12]) 0x07 [lowMask 28] [(0, 1)] [1] = true ∧
    adm (tB 0x08 [1] (tI fun k => { k with epoch := 2 ^ 32 - 2 })) 0x08 [lowMask 12] [(0, 1)] [1] = true := by decide +kernel
theorem test_hyp_aborts : adm (tB 0x03 [1]) 0x03 [lowMask 12] [] [] = true ∧ ((tS tK).ctx 1).st ≠ .free ∧
    (tI fun k => { k with st := .aborting, abort := 5 }).dev = .ready ∧ ((tI fun k => { k with st := .lost, abort := 4 }).ctx 1).st = .lost ∧
    ((tI fun k => { k with st := .aborting, abort := 3 }).targets.any fun t => t.2.draining) = false := by decide +kernel
theorem test_hyp_fenceCommands : adm (tB 0x09 [1]) 0x09 [lowMask 13] [(0, 1)] [1] = true ∧ (tB 0x09 [1]).freeFence = some 1 ∧
    (tS tK).fenceOwner 7 = [1] ∧ adm (tB 0x0A [7]) 0x0A [lowMask 16] [(1, 7), (0, 1)] [1] = true ∧ (tB 0x0A [7]).waited 7 = false ∧
    adm (tB 0x0B [7 + 2 ^ 16]) 0x0B [lowMask 30] [(1, 7), (0, 1), (0, 1)] [1] = true ∧ (tS tK).ctxLive 1 = true ∧
    (((tS tK).fence 7).grants.filter fun x => x.ctx != 1).length < 4 ∧
    (let s := tB 0x0C [7 + 2 ^ 16] { tS tK with fences := [(7, { v := true, owner := some 1, grants := [{ ctx := 1 }] })] }
     adm s 0x0C [lowMask 28] [(1, 7), (0, 1)] [] = true ∧ ((s.fence 7).grants.any fun x => x.ctx == 1) = true) := by decide +kernel
theorem test_hyp_queries : adm (tB 0x01 [1]) 0x01 [0x0FFF00FF, allMask, allMask] [] [] = true ∧
    adm (tB 0x01 [0x0B + 2 ^ 16]) 0x01 [0x0FFF00FF, allMask, allMask] [(0, 1)] [] = true ∧
    adm (tB 0x01 [9]) 0x01 [0x0FFF00FF, allMask, allMask] [(3, 0)] [] = true ∧
    adm (tB 0x01 [0x0A, 7]) 0x01 [0x0FFF00FF, allMask, allMask] [(1, 7)] [] = true ∧
    (tS tK).ctxLive 1 = true ∧ (tS tK).ctxLive 0 = false ∧ ((tS tK).fence 7).v = true ∧ (((tI fun k => k.updQueue 15 fun _ => { v := true }).ctx 1).queue 15).v = true ∧
    (let s : State := { tS tK with handoffs := [(0, { isOpen := true })] }
     (s.handoff 0).isOpen = true ∧ (s.handoff 0).broken = none) ∧
    adm (tB 0x0D [6 * 2 ^ 4, 0x1000]) 0x0D [lowMask 9, allMask] [] [] = true ∧
    ([0, 1, 2, 3].all fun n => adm (tB 0x0E [1 + n * 2 ^ 12]) 0x0E [lowMask 24] [(0, 1)] [1]) = true := by decide +kernel
theorem test_hyp_mailboxSubmission : (tS tK).dev = .ready ∧ (tS tK).ras.yorekHeld = false ∧ ((tB 1 []).chan 0).active = true ∧
    (tS tK).pcie.d3hot = false ∧ ((tS tK).chan 7).active = false ∧ knownOpc 0x0F = false ∧ knownOpc 0x56 = true ∧
    fld (1 : W64) 39 0 ≠ 0 ∧ fld (2 ^ 40 : W64) 39 0 = 0 := by decide +kernel

/-- The words of MAP, UNMAP and PROTECT of context 1 at a page, one page. -/
def tMap (opc w0 va da n : Nat) : State := tB opc (if opc = 0x12 then [w0, va, n] else if opc = 0x13 then [w0, va, 0, n] else [w0, va, da, n])
theorem test_hyp_mapCommands :
    (let s := tB 0x10 [1 + 11 * 2 ^ 12, 2]
     adm s 0x10 [lowMask 17, allMask] [(0, 1)] [1] = true ∧ fld (argAt (s.argsOf c0) 0) 15 12 = 11 ∧ (s.freeRun 11 2).isSome = true ∧
       s.dieFitted 7 = true) := by and_intros <;> decide +kernel
theorem test_hyp_map :
    (let s := tMap 0x11 (1 + 2 ^ 13 + 2 ^ 14) 0x110000 0x400000 1
     adm s 0x11 [lowMask 16, allMask, allMask, allMask] [(0, 1)] [1] = true ∧ rangeBad 0x110000 1 false = false ∧
       s.mapped 1 false 0x110000 = false ∧ s.confBad 1 0x110000 (pageSize false) true false false false = false ∧
       s.inKv 1 0x110000 = false ∧ s.mayMap 1 0x400000 (pageSize false) = true ∧
       (State.putLeaves 1 false ([0x110000].zip [0x400000 + 24 + 3]) s.taken).isSome = true) := by decide +kernel
/-- A page of the KV region is mapped. -/
def tKv : State := tB 0x11 [1 + 2 ^ 13, 0x110000, 0, 1] (tI (fun k => { k with kv := { v := true, va := 0x110000, pages := 1, df := 1, dc := 1 } })
  { tS tK with targets := [(0, tT [(1, 0x2001), (2, 1), (3, 0x4000)])] })
/-- The 65,536 zeros that the frame takes first are left out of the evaluation. -/
theorem test_hyp_kvFrame : tKv.inKv 1 0x110000 = true ∧ tKv.taken.kvFrame 1 = some 96 ∧
    (State.putLeaves 1 false [(0x110000, 2 ^ 16 * 96 + 8 + 0x43)] tKv.taken).isSome = true := by
  and_intros <;> decide +kernel
theorem test_hyp_unmapAndProtect :
    (let s := tMap 0x12 1 0x100000 0 1
     adm s 0x12 [lowMask 13, allMask, allMask] [(0, 1)] [1] = true ∧ s.mappedAs 1 false 0x100000 = true ∧
       s.confBad 1 0x100000 (pageSize false) false false false true = false ∧ s.specTasks 1 = []) ∧
    (let s := tMap 0x12 (1 + 2 ^ 12) 0x200000 0 1
     adm s 0x12 [lowMask 13, allMask, allMask] [(0, 1)] [1] = true ∧ s.mappedAs 1 true 0x200000 = true) ∧
    (tZ [{ tJ with verdict := .commit }]).specTasks 1 = [(0, 2)] ∧
    (let s := tMap 0x13 (1 + 2 ^ 13) 0x100000 0 1
     adm s 0x13 [lowMask 16, allMask, 0, allMask] [(0, 1)] [1] = true ∧ s.mappedAs 1 false 0x100000 = true ∧
       (s.taken.setPerms 1 8 [0x100000]).specTasks 1 = []) ∧
    (tS tK).tasksDone [(0, 2)] = true := by decide +kernel
theorem test_hyp_windowsAndPools :
    (let s := tB 0x14 [7, 2 ^ 63 + 36 * 2 ^ 54 + 2 ^ 42 + 0x40000000, 0x1000]
     let h : HWin := { w0 := argAt (s.argsOf c0) 1, w1 := argAt (s.argsOf c0) 2 }
     adm s 0x14 [lowMask 12, allMask, allMask] [(2, 7), (0, h.ctx)] [h.ctx] = true ∧ h.v = true ∧ fld h.w0 41 32 = 0 ∧ h.size = 36 ∧
       s.hwinBad 7 h = false) ∧
    adm (tB 0x14 [7, 0, 0]) 0x14 [lowMask 12, allMask, allMask] [(2, 7)] [] = true ∧ (Tab.get {} (tS tK).hwins 7).v = false ∧
    (let s := tB 0x15 [2 ^ 58 + 2 ^ 8 + 46 * 2 ^ 20, 0x800000000000, 2 ^ 48 - 1]
     adm s 0x15 [lowMask 59, allMask, allMask] [(0, 1)] [1] = true ∧ 0x800000000000 % 2 ^ 46 = 0 ∧ 0x800000000000 + 2 ^ 46 ≤ 0xC00000000000 ∧
       s.poolMap = []) ∧
    adm (tB 0x15 [0, 0, 0]) 0x15 [lowMask 59, allMask, allMask] [] [] = true ∧
    (let s := tB 0x16 [15 + 3 * 2 ^ 4, 0, 1, 2]
     adm s 0x16 [lowMask 9, allMask, allMask, allMask] [] [] = true ∧ (Tab.get {} s.donations 15).v = false ∧
       (s.grantable 11).1 + 1 ≤ (s.grantable 11).2 ∧ s.granuleFree 11 (s.grantable 11).1 = true) ∧
    adm (tB 0x17 [11, 0]) 0x17 [lowMask 4, allMask] [] [] = true ∧ Tab.get 0 (tS tK).poolSize 11 = 0 ∧
    (let s := tB 0x18 [1, 2 ^ 48 - 2 ^ 16, 1, 2 ^ 32 + 1, 0, 0] { tS tK with poolSize := [(0, 1)] }
     adm s 0x18 [lowMask 12, allMask, allMask, allMask, allMask, allMask] [(0, 1)] [1] = true ∧
       s.kvBad 1 { v := true, va := 2 ^ 48 - 2 ^ 16, pages := 1, df := 1, dc := 1 } = false ∧ s.pages = []) ∧
    adm (tB 0x19 [0, 0]) 0x19 [lowMask 19, allMask] [] [] = true := by decide +kernel
/-- Context 1 owns every granule of the GiB at 0x40000000. -/
def tAp : State := tB 0x19 [2 ^ 18 + 2 ^ 6 + 63, 0x40000000] { tS tK with
  targets := [(0, tT ((List.range 512).map fun j => (0x200 + j, 1)))] }
theorem tAp_granules : tAp.granulesOf 1 = (List.range 512).map fun j => (0x200 + j, 1) := by decide +kernel
theorem test_hyp_apertureMap : adm tAp 0x19 [lowMask 19, allMask] [(0, 1)] [1] = true ∧ 0x40000000 % 2 ^ 30 = 0 ∧
    tAp.space 0x40000000 = .d 0 ∧
    ((List.range 512).all fun j => (tAp.granulesOf 1).any fun e => e.1 == 0x40000000 / 2 ^ 21 + j) = true := by
  refine ⟨by decide +kernel, by decide +kernel, by decide +kernel, ?_⟩
  rw [tAp_granules]
  exact List.all_eq_true.2 fun j hj => List.any_eq_true.2 ⟨(0x200 + j, 1), List.mem_map.2 ⟨j, hj, rfl⟩, by simp⟩
theorem test_hyp_clusterCommands :
    (let s := tB 0x20 [2 ^ 63, 1]
     adm s 0x20 [allMask, lowMask 14] [(0, 1)] [1] = true ∧ (maskBits (argAt (s.argsOf c0) 0)) = [63] ∧ s.dieFitted 7 = true ∧
       (s.ctx 1).st = .resident ∧ ((s.ctxClusters 1).any fun k => (s.cluster k).red != false) = false) ∧
    (let s := tB 0x20 [2, 2 ^ 13]
     adm s 0x20 [allMask, lowMask 14] [] [] = true ∧ [1].all s.clusterIdle = true) ∧
    adm (tB 0x26 [0]) 0x26 [lowMask 12] [] [] = true ∧
    (let s := tB 0x26 [1 + 6 * 2 + 2 ^ 4 + 64 * 2 ^ 5] { tS tK with clusters := [] }
     adm s 0x26 [lowMask 12] [] [] = true ∧ (s.clusters.any fun e => e.2.held) = false ∧ fld (argAt (s.argsOf c0) 0) 11 5 = 64) := by
  decide +kernel
/-- A core that stands still, so that an image may be bound: the big page at 0x200000 holds it. -/
def tBind : State := tB 0x21 [1, 0x200000, 0x10000] (tI (fun k => { k with chd := 5 })
  { tS { tK with run := .idle } with charters := [{ chd := 5, image := tImg 0 }, { chd := 0, image := tImg 0 }] })
/-- The charter's entry 0 names a program that this is: then every hypothesis of PROGRAM.LOAD is met. -/
theorem test_hyp_programLoad :
    adm tBind 0x21 [lowMask 20, allMask, allMask] [(0, 1)] [1] = true ∧ 0 < chNctx (tBind.charterOf 1) ∧ (tBind.ctx 1).entry = none ∧
    ((tBind.ctxCores 1).any fun n => (tBind.core n).run == .running) = false ∧
    ((pagesOf 0x200000 1 false).all fun v => match tBind.rawLeaf 1 v with
      | some (_, e, _) => e.testBit 5
      | none => false) = true ∧ tBind.specTasks 1 = [] ∧
    (tBind.ctxs.filter fun k => k.2.st != .free && k.2.chd == (tBind.ctx 1).chd && k.2.entry == some 0).length <
      imgByte (tBind.charterOf 1) (chEntry (tBind.charterOf 1) 0 + 99) := by decide +kernel
theorem test_hyp_bindImage (s : State) (h : Config.sm3 (leBytes 8 0x200000 ++ leBytes 8 0x10000 ++ s.yorekRead 1 0x200000 0x10000) =
    digOf (((s.charterOf 1).drop (chEntry (s.charterOf 1) 0)).take 32)) : (s.bindImage 1 0 0x200000 0x10000).2 = ok := by
  simp only [State.bindImage, h, if_true]

/-! ### Learning -/

/-- Context 1 with an SCB at 0x200000 and one group of 128 parameters at 0x200100; STAGE and STATE in M-die 0 at 0x400000,
a window of the H-tier at 0x600000. -/
def tLm : Tab Byte := tPut (tPut (tPut (tPut tP 0x202010 [0x10000000003B, 0x40000000003B])
  0x400000 [7 * 2 ^ 48 + 7 * 2 ^ 32 + 7 * 2 ^ 16 + 7, 7 * 2 ^ 48 + 4 * 2 ^ 36 + 2 ^ 27 + 2 ^ 24 + 6 * 2 ^ 16, 0, 0, 0, 0x200100, 0x480000, 0x400000])
  0x400100 [2 ^ 56, 128]) 0x400128 [0x200200]
/-- The member of a herd of one, for context 1. -/
def tHd : Herd := { hid := 9, ctx := 1, nodes := [3], inits := [0], phase := .live, rcd := { epoch := 4, live := [0] } }
/-- A module whose learning binding is as given. -/
def tS2 (l : Learn) : State := { tS { tK with run := .idle } with
  learn := l, herds := [tHd], mem := tLm, hwins := [(0, { w0 := w64 (2 ^ 63 + 21 * 2 ^ 54 + 2 ^ 42 + 0x40000000) })] }
/-- The binding's group. -/
def tGr : Group := groupOfBytes (bytesAt tLm 0x400100 64)
/-- A binding with an open step 3. -/
def tLn : Learn := { bound := true, ctx := 1, scbVa := 0x200000, scb := { stateVa := 0x480000, bbase := 0x200000, cfid := 7 }, groups := [tGr]
                     t := 3, final := false, committed := false, trs := 1 }
/-- Context 1 runs under a charter whose entry gives it the learner role. -/
def tRole (s : State) : State := { tN 0 s with charters := [{ chd := 5, image := (tImg 0).set 224 4 }] }
theorem test_hyp_learnBind : adm (tB 0x22 [1, 0x200040] (tRole (tS2 {}))) 0x22 [lowMask 12, allMask] [(0, 1)] [1] = true ∧
    (tRole (tS2 {})).learn.bound = false ∧ (tRole (tS2 {})).role 1 2 = true := by decide +kernel
/-- A binding with no step open. -/
def tL0 (sealed : Bool) (t : Nat) : Learn := { bound := true, ctx := 1, scbVa := 0x200000, sealed := sealed, t := t }
theorem test_hyp_learnSealAndStepOpen :
    adm (tB 0x23 [1] (tS2 (tL0 false 0))) 0x23 [lowMask 12] [(0, 1)] [1] = true ∧ (tL0 false 0).committed = true ∧
    ((tS2 (tL0 false 0)).readScb.1.map fun x => (x.2.length, x.1.stateVa)) = some (1, 0x480000) ∧
    good ((tS2 (tL0 false 0)).sealPairs { tLn with scb := { stateVa := 0x480000 } } 1 0) ∧
    ({ tLn with scb := { stateVa := 0x480000 } } : Learn).params / 128 = 1 := by and_intros <;> decide +kernel
theorem test_hyp_stepOpen :
    (let s := tS2 (tL0 true 0)
     s.dev = .ready ∧ (s.ctx 1).st = .resident ∧ ((s.readScb.1.map fun x => x.1.ofid) = some 7) ∧ 1 ≤ (s.readScb.2.fence 7).val.toNat ∧
       (tL0 true 0).nextOpen = none ∧ (tL0 true 0).sealed = true ∧ s.readScb.2.fencesBad {} [] = true ∧
       s.readScb.2.fencesHost { ofid := 7, vfid := 7, cfid := 7, lfid := 7, rfid := 7 } = false ∧
       ({ s with fences := Tab.upd {} s.fences 7 fun f => { f with host := true } } : State).fencesHost { ofid := 7 } = true) ∧
    (tL0 true 2).t + 1 = 3 ∧ (tL0 true 2).final = true ∧ ({ tS2 (tL0 true 0) with mem := tP } : State).readScb.1 = none := by
  decide +kernel
theorem test_hyp_gate : (tS2 tLn).dev = .ready ∧ (tS2 tLn).bindHerd = some tHd ∧ tLn.final = false ∧ tHd.rcd.epoch = 4 ∧ tHd.next = none ∧
    ((tS2 tLn).gateDown { epoch := 4, t := 3 }).bindHerd = some tHd ∧ ((tS2 tLn).gateDown { epoch := 4, t := 3 }).learn = tLn ∧
    tLn.trs ≠ 0 := by decide +kernel
/-- The same state in the H-tier, and so parked on C-die 0. -/
def tLh : Learn := { tLn with scb := { tLn.scb with stateVa := 0x600000 } }
/-- A state whose X-die holds block 3, and whose update units admit the collective engine. -/
def tBk (l : Learn) : State := { tS2 { l with agBuf := [(3, [1])] } with
  targets := (tS2 l).targets ++ [(76, { initA := [(726, { v := true, w := true })] })] }
theorem test_hyp_blockArrival : (tBk tLn).stepRuns = true ∧ 1 < (tBk tLn).learn.recs ∧ (tBk tLn).homeOf 1 = some (0, false) ∧
    good ((tBk tLn).heldBlock 3) (fun _ x => x == some [1]) = true ∧ (tBk tLn).updAdmits 0 = true ∧
    (((tBk tLn).unit 0).slotIn 1 ((tBk tLn).stateDa 1) true [1]).isSome = true ∧ (tBk tLh).stepRuns = true ∧
    (tBk tLh).homeOf 1 = some (0, true) ∧ (tBk tLh).updAdmits 0 = true ∧ ((tBk tLh).unit 0).parks.find? (fun k => k.rg == 1) = none ∧
    (tBk tLh).parkPlace = none ∧
    (let s := tBk { tLh with scb := { tLh.scb with bmib := 1 } }
     s.homeOf 1 = some (0, true) ∧ s.parkPlace = some 0 ∧ good (s.writeVa 704 1 (s.learn.parkVa 0 + 193) [1]) = true) := by
  and_intros <;> decide +kernel
theorem test_hyp_noSlot : ∀ n, n = 32768 → ({ slots := List.replicate n {} } : Upd).slotIn 1 0 true [] = none := by
  intro n h
  simp [Upd.slotIn, h.symm.le, List.any_replicate]
/-- A park with both blocks, and a slot whose state lies at the start of STATE. -/
def tPk : Park := { rg := 1, has0 := true, has1 := true }
/-- The slot. -/
def tSl : Slot := { rg := 0, b0 := some [], b1 := some [], da := (tS2 tLn).stateDa 0 }
theorem test_hyp_slots :
    (let s := { tS2 tLn with upd := [(0, { parks := [tPk], slots := [tSl] })] }
     s.stepRuns = true ∧ (s.unit 0).parks.find? (fun k => k.rg == 1) = some tPk ∧ (s.unit 0).slots.length < 32767 ∧
       tLn.groupOf 1 = some (0, tGr) ∧ good (s.readVa 704 1 (tLn.parkVa 0) 386) = true ∧
       good (s.readVa 704 1 (tLn.recVa 1) tGr.recSize) (fun t _ => (t.unit 0).slots.length < 32767) = true ∧ s.resetting 3 0 = false ∧
       (s.unit 0).slots[0]? = some tSl ∧ tLn.groupOf 0 = some (0, tGr) ∧ tLn.recVa 0 = 0x480000 ∧
       good (s.readSlot 0 tSl tGr.recSize) = true ∧ (Tab.get [] s.ras.issued 0).contains 0 = false ∧
       good (s.factored 704 tGr tLn.kNow 0 [])) := by and_intros <;> decide +kernel
/-- Each outcome of the check of a record group has bytes that give it; those of good and written carry its digest. -/
theorem test_hyp_recCheck (b : List Byte) (h : leAt b 8 2 = 0) (p : leAt b 16 8 = 0) (d : (b.drop 32).take 16 = recDig b) :
    (leAt b 0 8 = 2 → recCheck 3 0 0 b = .good) ∧ (leAt b 0 8 = 3 → recCheck 3 0 0 b = .written) ∧
      recCheck 3 1 0 b = .torn := by
  simp +contextual [recCheck, h, p, d]
/-- The step's verdict is COMMIT. -/
def tLc : Learn := { tLn with vcode := .commit, final := true, acks := [(0, 2)], kcount := 1, scb := { tLn.scb with ds := false } }
theorem test_hyp_drainable : ({ slots := [{ rg := 0, result := some [0] }, { rg := 1, skip := true }] } : Upd).drainable =
    some [{ rg := 0, result := some [0] }, { rg := 1, skip := true }] := by
  simp [Upd.drainable, List.mergeSort]
theorem test_hyp_commit :
    (let s := { tS2 tLc with upd := [(0, { slots := [{ rg := 0, result := some [0] }, { rg := 1, skip := true }] })] }
     s.stepRuns = true ∧ tLc.taken = true ∧ s.resetting 3 0 = false ∧
       tLc.groupOf 0 = some (0, tGr) ∧
       good (s.putPair 0 tGr [{ rg := 0, result := some [0], da := (tS2 tLn).stateDa 0 }]) = true ∧ tLc.scb.ds = false ∧
       (s.unit 0).slots[0]? = some { rg := 0, result := some [0] } ∧ tLc.groupSwept 0 = true ∧ tLc.groups[0]? = some tGr ∧
       tLc.groupsDone.contains 0 = false ∧ tGr.rule ≠ 7) ∧
    (let s := { tS2 { tLc with groupsDone := [0], leaves := [(0, 0)].map fun e => (e.1, e.2 + 1) } with
       upd := [(0, { slots := [{ rg := 0, result := some [0], writing := true }] })] }
     (s.unit 0).slots.find? (·.writing) = some { rg := 0, result := some [0], writing := true } ∧ s.learn.groupsDone.length = s.learn.groups.length ∧
       s.learn.leaves.length = ceilDiv s.learn.recs 64 ∧ s.ras.resend = [] ∧ s.learn.nextOpen = none) := by
  and_intros <;> decide +kernel
/-- A group of rule 7 whose factors lie at 0x200400. -/
def tG7 : Group := { tGr with rule := 7, frows := 8, fbase := 0x200400 }
theorem test_hyp_factorsAndResends :
    (let s := tS2 { tLc with groups := [tG7] }
     s.learn.groupSwept 0 = true ∧ s.learn.factorsDone.contains 0 = false ∧ s.learn.kNow ≠ 0 ∧
       good (s.readF32 (s.factorInit tG7) 1 ((List.range 24).map fun i => tG7.fbase + 4 * i)) ∧
       good (s.readVa (s.factorInit tG7) 1 tG7.accAt (40 * 24)) ∧
       good (s.writeVa (s.factorInit tG7) 1 tG7.fbase (List.replicate 1088 0))) ∧
    (let s := tS2 tLc
     (({ s with ras := { s.ras with resend := [(0, 1)] } } : State).ras.resend.any fun e => e.1 == 0) = true) ∧
    (let s := { tS2 tLc with ras := { resets := [{ kind := 3, idx := 0 }] } }
     s.resetting 3 0 = true ∧ (s.unitReady 3 0).stepRuns = true) := by and_intros <;> decide +kernel

/-! ### Handoff, the fabric pool and the ports -/

/-- A charter of one entry and one channel, both of whose ends are entry 0, with a measurement and a root of zero. -/
def tChan : List Byte := ([0, 0, 0, 0, 0, 1, 1, 1, 1] ++ List.replicate (256 - 9) 0 ++ List.replicate 144 0)
/-- Port 15 is UP to node 5, and context 1 runs under that charter. -/
def tUp (f : Port → Port := id) (s : State := tS tK) : State := { s with
  charters := [{ chd := 5, image := tChan }], ctxs := Tab.upd {} s.ctxs 1 fun k => { k with chd := 5, entry := some 0 }
  ports := [(15, f { st := .up, peer := 5 })], node := 3 }
/-- A channel. -/
def tHc : Handoff := { isOpen := true, prod := 1, cons := 1, entry := 0, pfid := 7, sfid := 7, afid := 8, rfid := 8 }
theorem test_hyp_handoffChannels :
    (let s := tB 0x24 [1 + 5 * 2 ^ 32, 0, 0, 16 + 16 * 2 ^ 5, 7 + 7 * 2 ^ 16] (tUp)
     let o := openArgs (s.argsOf c0) 0 0
     adm s 0x24 [lowMask 49, allMask, allMask, lowMask 10, allMask] (o.ctxs.map fun i => (0, i)) o.ctxs = true ∧ o.ns = 16 ∧ o.nk = 16 ∧
       s.openBad o c0.peer = false ∧ (s.portTo o.peer).isSome = true ∧ firstOf (fun i => !(s.handoff i).isOpen) 256 0 = some 0) ∧
    (let s := tB 0x25 [255] { tUp with handoffs := [(255, tHc)] }
     adm s 0x25 [lowMask 8] [(3, 255)] [] = true ∧ (s.handoff 255).isOpen = true) ∧
    (tS tK).barred { tHc with sent := 4 } 5 = .clear ∧ (tS tK).barred { tHc with sent := 5 } 6 = .unposted ∧
    tHc.prodEnd = true ∧ ({ tHc with consEnd := false } : Handoff).consEnd = false ∧
    (let h := { tHc with prodEnd := false, dstVa := 0x200000 }
     let s := { tUp with handoffs := [(255, h)] }
     headerBad h none 1 (List.replicate 8 0 ++ [1] ++ List.replicate 55 0) = false ∧ headerBad h none 1 [] = true ∧
       good (s.deliver 255 1 (List.replicate 128 0)) = true) := by and_intros <;> decide +kernel

/-- A pool message at port 15. -/
def tPm (nl addr : Nat) (data : List Byte := []) : PoolMsg :=
  { port := 15, tag := 0, nl := nl, addr := w64 addr, reqn := 5, opnd := 1, strm := false, data := data, bad := false }
theorem test_hyp_poolRequests : tUp.dev = .ready ∧ (tUp.port 15).st = .up ∧ (w64 (2 ^ 47)).toNat % 128 = 0 ∧ tUp.place (2 ^ 47) (128 * 8192) = .none ∧
    (tUp.port 15).old.contains (2, PoolMsg.bytes (tPm 1 0) 1) = false ∧
    ((tUp fun k => { k with old := [(2, PoolMsg.bytes (tPm 1 0) 1)] }).port 15).old.contains (2, PoolMsg.bytes (tPm 1 0) 1) = true ∧
    tUp.place coordBase (128 * 17) = .coord ∧ tUp.place (2 ^ 48 - 8) 8 = .coord ∧ (2 ^ 48 - 8) % 8 = 0 ∧
    (let s := { tUp with donations := [(0, { v := true, r := true, first := 0, n := 1, nodes := [5] })] }
     s.place 0 (128 * 16) = .region 0 (2 ^ 21 * (s.grantable 8).1) ∧ s.donated (tPm 16 0) 0 (2 ^ 21 * (s.grantable 8).1) true = false) := by
  and_intros <;> decide +kernel
theorem test_hyp_poolDonated :
    (let s := { tUp with donations := [(0, { v := true, r := true, w := true, first := 0, n := 1, nodes := [5] })]
                         targets := [(8, { initA := [(723, { v := true, r := true, w := true })], ownA := [(0x800000, 0x1000)] })] }
     s.donated (tPm 16 0) 0 (2 ^ 21 * (s.grantable 8).1) false = true ∧ s.donated (tPm 17 0) 0 (2 ^ 21 * (s.grantable 8).1) true = true) := by
  and_intros <;> decide +kernel
theorem test_hyp_poolResponses :
    (let r : PoolReq := { tag := 16383, opc := 1, port := 15, ctx := 1, da := 0x400000 }
     let w : PoolReq := { r with opc := 3 }
     r.dead = false ∧ w.store = none ∧ ({ tUp with poolReqs := [r] } : State).poolReqs.find? (fun r => r.tag == 16383 && r.waits == 0) = some r ∧
       (({ tUp with poolReqs := [] } : State).checkLine r.da r.ctx .clean).1 = true ∧
       ({ tUp with poolReqs := [w] } : State).poolReqs.find? (fun r => r.tag == 16383 && r.waits == 0 && !r.dead) = some w) := by
  and_intros <;> decide +kernel

theorem test_hyp_linkBringUp :
    (let s := tB 0x30 [0xFFFE] { tS tK with ports := [(15, { st := .admitFail })] }
     adm s 0x30 [lowMask 16] [] [] = true ∧ fld (argAt (s.argsOf c0) 0) 15 0 ≠ 0xFFFF ∧
       (List.range 16).all (fun p => !s.portFitted p || (s.port p).st == .down || (s.port p).st == .admitFail || (s.port p).st == .absent) = true) ∧
    adm (tB 0x31 [63 + 2 ^ 7, 0, 0, 0, 0]) 0x31 [lowMask 8, allMask, allMask, allMask, allMask] [] [] = true ∧
    adm (tB 0x32 [15]) 0x32 [lowMask 4] [] [] = true ∧
    ((tUp fun k => { k with st := .train }).port 15).st = .train ∧ ((tUp fun k => { k with st := .hello }).port 15).st = .hello ∧
    (let s := { tUp (fun k => { k with st := .attest }) with admitList := [(0, some (false, 1)), (63, some (true, 2))] }
     s.admitted false 1 = true ∧ s.admitted true 2 = true ∧ s.peerFree 15 0 = true) ∧
    ((tUp fun k => { k with st := .keyx }).drawFresh 256).isSome = true ∧ PortState.rising .keyx = true ∧
    (let s := tUp (fun k => { k with st := .down })
     s.portsRun = true ∧ s.portFitted 15 = true ∧ s.node ≠ 0) := by
  and_intros <;> decide +kernel
/-- A flit for port 15, and as it arrives, sealed under the port's key with its tag mapped by `g`. -/
def tFw (kind seq : Nat) : Flit := { kind := kind, vc := 5, som := true, eom := true, plen := 224, seq := seq, srcn := 5, dstn := 3 }
/-- Its bytes 0–247. -/
def tFb (g : Byte → Byte) (f : Flit) : List Byte :=
  f.head ++ (xorBytes (fitTo 224 []) (flitStream 0 (f.iv 0) f.head) ++ (flitTag 0 (f.iv 0) f.head (fitTo 224 [])).map g)
/-- As it arrives. -/
def tFl (g : Byte → Byte) (f : Flit) : FlitIn := { port := 15, resp := true, wire := closeFlit (tFb g f), fec := [some 3], lost := false }
theorem tFl_good (g : Byte → Byte) (f : Flit) : crcGood (tFl g f).wire = true := by
  apply crcGood_closeFlit
  simp [tFb, Flit.head, wordBytes]
/-- Its header as it is read. -/
def tFh (g : Byte → Byte) (kind seq : Nat) : Flit := Flit.ofWire true (tFl g (tFw kind seq)).wire
theorem tFh_unseal (g : Byte → Byte) (kind seq : Nat) (h : (tFh g kind seq).iv 0 = (tFw kind seq).iv 0) :
    (tFh g kind seq).unseal 0 0 = if flitTag 0 ((tFw kind seq).iv 0) (tFw kind seq).head (fitTo 224 []) ==
      (flitTag 0 ((tFw kind seq).iv 0) (tFw kind seq).head (fitTo 224 [])).map g then some (fitTo 224 []) else none := by
  rw [unseal_wire (tFh g kind seq) 0 0 (tFw kind seq).head (fitTo 224 [])
    ((flitTag 0 ((tFw kind seq).iv 0) (tFw kind seq).head (fitTo 224 [])).map g) (leBytes 8 (crc64 (tFb g (tFw kind seq))).toNat)
    (by simp [Flit.head, wordBytes]) (by simp) (by simp) (by rw [h]; simp [tFh, Flit.ofWire, tFl, closeFlit, tFb]), h]
theorem test_hyp_flitsReceived : (tUp.port 15).st = .up ∧ (tUp.port 15).peer = 5 ∧ tUp.node = 3 ∧ (tUp.port 15).rxKey 0 = some (0, 0) ∧
    (tUp.port 15).rxKey 1 = none ∧ (tFh id 1 0).kind = 1 ∧ (tFh id 1 0).kep = 0 ∧ (tFh id 1 0).rsv = 0 ∧ (tFh id 1 0).srcn = 5 ∧
    (tFh id 1 0).dstn = 3 ∧ (tFh id 1 0).seq = 0 ∧ (tFh id 1 0).plen = 224 ∧ (tFh id 2 0).kind = 2 ∧ (tFh id 1 1).seq = 1 ∧
    (let x := ((tUp.countFec 15 [some 3]).updPort 15 fun k => k.enterEpoch 0).port 15
     x.rxSeq = 0 ∧ x.rxCtl = none) ∧
    (((tUp fun k => { k with rxSeq := 1 }).updPort 15 fun k => k.enterEpoch 0).port 15).rxSeq = 1 := by and_intros <;> rfl
theorem test_hyp_flitOpens : (tFh id 1 0).unseal 0 0 = some (fitTo 224 []) ∧ (tFh id 2 0).unseal 0 0 = some (fitTo 224 []) := by
  rw [tFh_unseal id 1 0 rfl, tFh_unseal id 2 0 rfl]
  simp only [List.map_id, beq_self_eq_true, if_true, and_self]
theorem map_not_ne (l : List Byte) (h : l.length = 8) : (l == l.map (~~~ ·)) = false := by
  have x : ∀ b : Byte, b ≠ ~~~b := by decide +kernel
  cases l with
  | nil => cases h
  | cons b l => simp [x b]
/-- A flit whose tag is inverted does not open. -/
theorem test_hyp_badTag : (tFh (~~~ ·) 1 0).kind = 1 ∧ (tFh (~~~ ·) 1 0).unseal 0 0 = none := by
  refine ⟨rfl, ?_⟩
  have h := tFh_unseal (~~~ ·) 1 0 rfl
  generalize hl : flitTag 0 ((tFw 1 0).iv 0) (tFw 1 0).head (fitTo 224 []) = l at h
  have n : l.length = 8 := hl ▸ flitTag_length _ _ _ _
  rw [h, map_not_ne l n, if_neg Bool.false_ne_true]
/-- Bytes with a good CRC, and bytes with a bad one, that bring a message up. -/
theorem test_hyp_bringUpFlits : crcGood (bringFlit 3 5 [1]).wire = true ∧ (Flit.ofWire false (bringFlit 3 5 [1]).wire).kind = 3 ∧
    crcGood [1] = false :=
  ⟨crcGood_closeFlit _ (by simp [Flit.head, wordBytes]), rfl, by decide +kernel⟩
/-- The check value of the CRC-64 of ECMA-182, reflected and inverted: that of the digits 1 to 9. -/
theorem test_crc : crc64 (ascii "123456789") = 0x995DC9BBDF1939FA := by decide +kernel
theorem test_hyp_linkTimers :
    (tUp.port 15).tx.next = none ∧
    (let s := tUp fun k => { k with replay := [{}], replayN := 1 }
     (s.port 15).st = .up ∧ (s.port 15).retraining = false ∧ (s.port 15).replayN = 0 + 1 ∧ (s.port 15).replay[(s.port 15).replayAt]? = some {} ∧
       (s.port 15).replay ≠ []) ∧
    (tUp.port 15).replayN = 0 ∧ ((tUp fun k => { k with retraining := true }).port 15).retraining = true ∧ (tUp.port 15).tx.rekeying = false ∧
    (tUp.drawFresh 256).isSome = true ∧ ({ tUp with keys := { tUp.keys with failed := true } } : State).drawFresh 256 = none ∧
    (let s := tUp fun k => { k with tx := { k.tx with rekeying := true, epoch := 2 ^ 32 - 2 } }
     (s.port 15).tx.rekeying = true ∧ (s.port 15).tx.epoch < 2 ^ 32 - 1 ∧ (s.port 15).replay = []) := by
  and_intros <;> decide +kernel

/-! ### Herds and collectives -/

/-- A plan of two members at 0x200800, its member table at 0x200900 and its ring at 0x200A00; `two` is whether both are INIT. -/
def tPlan (two : Bool) : Tab Byte := tPut (tPut (tPut tP 0x400800 [9 * 2 ^ 32 + 2 * 2 ^ 16 + 2 ^ 12 + 4 * 2 ^ 5, 2 ^ 52, 0, 0, 0, 0, 0, 0, 0, 0, 0x200900, 0x200A00])
  0x400900 [3 + 2 ^ 16, 4 + if two then 2 ^ 16 else 0]) 0x400A00 [0x10000]
/-- A member 1 of that plan. -/
def tPl (opc : Nat) (args : List Nat) (two : Bool) : State := tB opc args { tS tK with node := 4, mem := tPlan two }
theorem test_hyp_herdPlans :
    (let s := tPl 0x33 [1, 0x200800] true
     adm s 0x33 [lowMask 12, allMask] [(0, 1)] [1] = true ∧ good (s.taken.readPlan 1 0x200800) (fun t x =>
       !t.planBad x.1 x.2.1 x.2.2 && t.herds.isEmpty && x.1.firstBell != x.1.nodes.idxOf t.node) = true) ∧
    (let s := tPl 0x34 [1, 0x200800, 1] false
     adm s 0x34 [lowMask 12, allMask, lowMask 12] [(0, 1)] [1] = true ∧ good (s.taken.readPlan 1 0x200800) (fun t x =>
       !t.planBad x.1 x.2.1 x.2.2 && x.1.nodes.idxOf t.node == 1 && !x.1.inits.contains 1) = true) := by
  and_intros <;> decide +kernel
/-- Herds of the node 3, member 0 of two. -/
def tH2 (f : Herd → Herd := id) : Herd := f { hid := 9, ctx := 1, nodes := [3, 4], inits := [0, 1], phase := .live, rings := [[0, 1]]
                                              rcd := { epoch := 4, live := [0, 1], links := [(0, 15, 1), (1, 2, 0)] } }
/-- A state with one herd. -/
def tS3 (f : Herd → Herd := id) : State := { tS tK with herds := [tH2 f], node := 3, ports := [(15, { st := .up, peer := 4 })] }
theorem test_hyp_herdFormation : (tS3).dev = .ready ∧ (tS3).herd? 9 = some tH2 ∧
    (let h := tH2 fun h => { h with phase := .forming }
     h.phase = .forming ∧ h.self = h.firstBell ∧ h.inits.contains 1 = true ∧ h.nmin ≤ [0].length) ∧ tH2.ends [(5, 3)] = [(5, 0)] ∧
    (1, 5, 0) ∉ tH2.latest.links ∧
    (tH2 fun h => { h with phase := .joining }).phase = .joining ∧ tH2.phase ≠ .joining ∧
    (tH2 fun h => { h with join := some (1, 3) }).join.isSome = true ∧
    (let h := tH2 fun h => { h with rcd := { h.rcd with live := [0] } }
     h.join = none ∧ h.runs = true ∧ h.latest.live.contains 1 = false ∧ 1 < h.nodes.length ∧ h.rcd.bell = h.self ∧ h.root = 0) := by
  decide +kernel
/-- The herd under the charter that `tQt` shows admitted. -/
def tHq (f : Herd → Herd := id) : Herd := tH2 fun h => f { h with chd := 5 }
theorem test_hyp_herdQuotes :
    (let s : State := { tUp with herds := [tHq fun h => { h with phase := .forming }] }
     s.dev = .ready ∧ s.herd? 9 = some (tHq fun h => { h with phase := .forming }) ∧ s.quoteGood 5 (tHq.nodeOf 1) tQt = true ∧
       s.quoteGood 5 (tHq.nodeOf 1) {} = false ∧ tHq.self = tHq.firstBell ∧ tHq.inits.contains 1 = true) ∧
    (let h := tHq fun h => { h with phase := .forming, self := 1 }
     h.self ≠ h.firstBell ∧ 0 ≠ h.self ∧ h.heard.contains 0 = false) ∧
    tHq.runs = true ∧ tHq.latest.bell = tHq.self ∧ tHq.latest.live.contains 1 = true ∧ tHq.rcd.epoch = 4 ∧ tHq.rcd.epoch ≠ 3 := by
  decide +kernel
theorem test_hyp_herdJoins :
    (let s : State := { tPl 0x34 [1, 0x200800, 1] false with
       stores := [{ name := 9, pmask := 2 ^ 15 }], ports := [(15, { st := .up, peer := 3 })] }
     good (s.taken.readPlan 1 0x200800) (fun t x => (t.store? x.1.chd 0 (w64 x.1.hid)).isSome && (t.storePort (2 ^ 15)).isSome) = true ∧
       good ((tPl 0x34 [1, 0x200800, 1] false).taken.readPlan 1 0x200800) (fun t x => (t.store? x.1.chd 0 (w64 x.1.hid)).isNone) = true) ∧
    (let h := tH2 fun h => { h with phase := .joining }
     ({ tS2 tLn with herds := [h] } : State).herd? 9 = some h ∧ good (({ tS2 tLn with herds := [h] } : State).rootOf 3) = true) ∧
    (let h := tH2 fun h => { h with join := some (1, 3) }
     h.phase ≠ .joining ∧ h.join = some (1, 3) ∧ h.root = 0 ∧ h.rcd.bell = h.self ∧ ({ h with self := 1 } : Herd).rcd.bell ≠ 1) ∧
    (let h := tH2 fun h => { h with rcd := { h.rcd with live := [0] }, self := 1 }
     h.join = none ∧ h.runs = true ∧ h.rcd.bell ≠ h.self) := by and_intros <;> decide +kernel
theorem test_hyp_herdMembership :
    ((tH2 fun h => { h with phase := .forming }).phase = .forming ∧ tH2.phase ≠ .forming ∧ 4 ≤ tH2.rcd.epoch ∧ tH2.rcd.epoch < 5 ∧
      ({ mep := 4, epoch := 5, live := [0, 1] } : MemRec).mep = tH2.rcd.epoch ∧ ({ epoch := 5 } : MemRec).mep ≠ tH2.rcd.epoch) ∧
    (let h := tH2 fun h => { h with next := some { epoch := 5, live := [0, 1] } }
     h.next = some { epoch := 5, live := [0, 1] } ∧ [0, 1] = h.rcd.live ∧ h.phase ≠ .joining) ∧ tH2.runs = true ∧
    treeParent tH2.rcd 1 = some 0 ∧ tH2.latest.bell = tH2.self ∧ 1 ≠ tH2.self ∧ tH2.latest.live.contains 1 = true ∧
    3 ≤ Tab.get 0 (tH2 fun h => { h with missing := [(1, 3)] }).missing 1 ∧
    (tH2 fun h => { h with self := 1 }).rcd.bell ≠ 1 := by decide +kernel
theorem test_hyp_herdDigests :
    (let s := { tS2 { tLn with rootDue := some (3, 4, 1) } with herds := [{ tHd with digests := [(0, 4, 7)] }] }
     s.dev = .ready ∧ (s.bindHerd.map (·.hid)) = some 9 ∧ s.learn.rootDue = some (3, 4, 1) ∧ 4 % tHd.k = 0 ∧ 5 % tHd.k ≠ 0 ∧ tHd.runs = true ∧
       tHd.rcd.bell = tHd.self ∧ majority tHd.rcd.live.length [(0, 7)] = some 7) ∧ (tH2 fun h => { h with self := 1 }).rcd.bell ≠ 1 := by
  and_intros <;> decide +kernel
/-- A channel of that herd, with a producer fence at 5 and a ring of descriptors at 0x200000. -/
def tCo : Coll := { bound := true, ctx := 1, hid := 9, qva := 0x200000, pf := 7 }
theorem test_hyp_collBind :
    (let s := tB 0x35 [15 + 2 ^ 4 + 2 ^ 16, 9, 0x200000, 7] tS3
     adm s 0x35 [lowMask 17, lowMask 32, allMask, lowMask 16] [(3, 15), (0, 1)] [1] = true ∧ s.herd? 9 = some tH2 ∧
       (s.coll 15).bound = false ∧ tH2.chd = (s.ctx 1).chd) ∧
    adm (tB 0x35 [15, 0, 0, 0]) 0x35 [lowMask 17, lowMask 32, allMask, lowMask 16] [(3, 15)] [] = true ∧
    adm (tB 0x36 [1000000]) 0x36 [allMask] [] [] = true ∧ 1000000 < 0 + 1000000 + 1 ∧ ({ tS3 with slotSwap := 1 } : State).slotSwap ≠ 0 := by
  and_intros <;> decide +kernel
/-- A descriptor of one unit for an operation. -/
def tS4 (op : Nat) : State := { tS3 with colls := [(15, tCo)], slotTab := [(0, 15)], mem := tPut tP 0x400040 [op * 2 ^ 60, 1, 0x200000, 0x200000, 8 * 2 ^ 48] }
theorem test_hyp_collDescriptors : ((tS4 0).collHerd 15).isSome = true ∧ (tS4 0).mayWait 1 7 = true ∧ 1 ≤ ((tS4 0).fence 7).val.toNat ∧
    ([0, 1, 2, 3].all fun op => good ((tS4 op).readVa 726 1 (0x200000 + 64) 64) fun t b =>
      !t.collBad 1 (collDesc 1 b) b && (collDesc 1 b).op == op && !(collDesc 1 b).lrn && !t.expHeld 15 tH2 &&
        t.maySignal 1 (collDesc 1 b).fid && t.meetRoom (collDesc 1 b)) = true ∧
    good (({ tS4 0 with mem := tP } : State).readVa 726 1 (0x200000 + 64) 64) (fun t b => t.collBad 1 (collDesc 1 b) b) = true := by
  and_intros <;> decide +kernel
theorem test_hyp_collMessages : (tS4 0).collHerd 15 = some tH2 ∧ (tS4 0).msgHerd { opc := 0x20, ch := 15, mep := 4, src := 1 } = some tH2 ∧
    tH2.forWhom { opc := 0x20, ch := 15, mep := 4, src := 1 } = 0 ∧ (tS4 0).slotNow = 15 ∧
    (tS4 0).msgHerd { opc := 0x40, mep := 4, unit := 1, data := leBytes 8 9 } = some tH2 ∧
    tH2.forWhom { opc := 0x40, mep := 4, unit := 1 } = 1 ∧ tH2.forWhom { opc := 0x40, mep := 4, unit := 0 } = 0 ∧
    (let s : State := { tS4 0 with learn := tLn }
     s.isShard 15 { opc := 0x22, ch := 15, lrn := true, step := 3 } = true ∧ s.learn.agFull = false ∧ s.holdRoom = true) ∧ 0 < Tab.get 0 ({ tCo with rxSeq := [(1, 1)] } : Coll).rxSeq 1 ∧
    Tab.get 0 ((tS4 0).coll 15).rxSeq 1 ≤ 0 ∧ (tS4 0).isShard 15 { ch := 15, mep := 4, src := 1 } = false ∧
    (tS4 0).named 15 { ch := 15, mep := 4, src := 1 } = none ∧ onColl { opc := 0x47, ch := 15 } = true ∧
    onColl { opc := 0x23, ch := 15 } = true ∧
    (let h := tH2 fun h => { h with phase := .joining }
     ({ tS3 with herds := [h] } : State).msgHerd { opc := 0x43, data := leBytes 8 9 } = some h ∧ h.phase = .joining) := by
  decide +kernel
theorem test_hyp_scalarRecords :
    (let l : Learn := { tLn with scb := { tLn.scb with lfid := 7 } }
     let s := { tS2 l with herds := [tH2], colls := [(15, tCo)] }
     s.collHerd 15 = some tH2 ∧ l.bound = true ∧ l.ctx = 1 ∧ l.t ≠ 0 ∧ l.final = false ∧ (s.coll 15).scalHeard.contains 1 = false ∧
       ({ l with loss := some 0 } : Learn).ownRecord tH2 ≠ none ∧ s.holdRoom (512 + 130 * 2) = true ∧ s.slotNow ≠ 15 ∧
       ({ s with slotTab := [(0, 15)] } : State).slotNow = 15 ∧ (s.coll 15).rxBuf = [] ∧
       (let w : CollMsg := { opc := 0x23, ch := 15, src := 1, step := 3 }
        ({ tCo with rxBuf := [w] } : Coll).rxBuf.find? (fun m => m.opc == 0x23 && m.src == 1 && m.step == 3 && m.rnd == 0) = some w) ∧
       (treeChildren tH2.rcd 0).contains 1 = true ∧ tH2.self = 0) := by and_intros <;> decide +kernel

/-! ### Charters and keys -/

/-- A charter of one owner, one key that is also CKEY, one entry, exports to its owner, and snapshots. -/
def tCw : List Byte := [1, 0, 0, 0, 1, 1, 0, 1, 1] ++ List.replicate (64 - 9 + 64) 0 ++ [3] ++ List.replicate 7 0 ++ [0, 3, 0, 0, 1, 0, 0, 0] ++
  (List.replicate 7 [0xFF, 0, 0, 0, 0, 0, 0, 0]).flatten ++ List.replicate 99 0 ++ [1] ++ List.replicate 28 0 ++
  [2, 0xFF, 1, 0, 1, 0, 0, 0, 9, 0, 0, 0, 0, 3] ++ List.replicate (18 + 32 + 32 + 64) 0
/-- Context 1 runs under it, with its owner's key, a nonce and a session. -/
def tK1 (s : State := tS { tK with run := .idle }) : State := { s with
  charters := [{ chd := 5, image := tCw }], ctxs := Tab.upd {} s.ctxs 1 fun k => { k with chd := 5, entry := some 0 }
  keys := { slots := [(3, { st := .valid, use := 3 }), (5, { st := .valid, parent := 3, use := 3 }),
                      (6, { st := .valid, kind := 5, parent := 3, use := 3, chd := 5 }), (7, { st := .valid, kind := 7, parent := 3, use := 1, chd := 5 }),
                      (8, { st := .valid, kind := 6, parent := 6, use := 8, chd := 5 })]
            nonces := [{ val := 3, chd := 5, eph := some (8, 0) }] }
  pcie := { s.pcie with sessions := [{}] } }
/-- The checks of the six that no opaque function decides. -/
theorem test_charterForm : charterForm tCw = true ∧ charterNames tCw = true ∧ charterEnds tCw = true := by decide +kernel
/-- With a valid signature and the module's production root, the charter passes all six checks. -/
theorem test_hyp_charterGood (p : charterPubs tCw = true) (g : charterSigs tCw = true) (r : Config.rootDigest = 0) :
    (tS tK).charterCheck tCw = 0 := by
  have u : (tS tK).charterUnit tCw = true := by
    simp only [State.charterUnit, r]
    decide +kernel
  have e := test_charterForm
  simp [State.charterCheck, e.1, e.2.1, e.2.2, p, g, u]
theorem test_hyp_charterRequests : adm (tB 0x40 [0, 4]) 0x40 [allMask, allMask] [] [] = true ∧ (tS tK).charter? (chDigest []) = none ∧
    ({ tS tK with charters := [{ chd := chDigest [], image := [] }] } : State).charter? (chDigest []) = some { chd := chDigest [], image := [] } ∧
    (tS tK).charterCheck [] = 1 ∧ (tS tK).charters.length < 32 ∧
    adm (tB 0x41 [0, 0, 0, 5 * 2 ^ 56] tK1) 0x41 [allMask, allMask, allMask, allMask] [] [] = true ∧
    ((tB 0x41 [0, 0, 0, 5 * 2 ^ 56] tK1).charter? (argDig ((tB 0x41 [0, 0, 0, 5 * 2 ^ 56] tK1).argsOf c0) 0)).isSome = true ∧
    tK1.owners true true = true ∧ (tK1.newNonce 5 none).isSome = true ∧ (tK1.useNonce 5 2).1 = none ∧ (tK1.useNonce 5 3).1.isSome = true ∧
    (tK1.charter? 5).isSome = true := by
  refine ⟨by decide +kernel, rfl, ?_, by decide +kernel, by decide +kernel, by decide +kernel, by decide +kernel, by decide +kernel, rfl,
    by decide +kernel, by decide +kernel, by decide +kernel⟩
  simp [State.charter?]
theorem test_hyp_keyRelease : tK1.owners true true = true ∧ tK1.jobSlot 5 = some 6 ∧ tK1.emptySlot = some 9 ∧ (tK1.drawFresh 320).isSome = true ∧
    (tK1.useNonce 5 2).1 = none ∧ (tK1.useNonce 5 3).1 = some { val := 3, chd := 5, eph := some (8, 0) } ∧ (tK1.charter? 5).isSome = true ∧
    chOfl tCw (chOwn tCw 0) 1 = true ∧ chOwn tCw 0 < chNown tCw :=
  ⟨by decide +kernel, by decide +kernel, by decide +kernel, rfl, by decide +kernel, by decide +kernel, by decide +kernel, by decide +kernel,
    by decide +kernel⟩
/-- A request whose signature verifies is signed by the owner. -/
theorem test_hyp_ownerSigned (req sig : List Byte) (h : Config.sm2verify (chPub tCw 0) (ascii "STRELNO CHARTER") req sig = true) :
    ownerSigned tCw 0 req sig = true := by
  have n : 0 < chNown tCw := by decide +kernel
  simp [ownerSigned, n, h]
/-- The same with a page of the H-tier at 0x600000 and the memory of the learning tests. -/
def tK2 : State := { tK1 with mem := tPut tLm 0x400400 [0x200000, 64], hwins := (tS2 {}).hwins }
theorem test_hyp_objects :
    (let s := tB 0x44 [1 + 7 * 2 ^ 20, 0x600000, 0x200000, 6] tK2
     adm s 0x44 [lowMask 36, allMask, allMask, allMask] [(0, 1)] [1] = true ∧ s.taken.mayUse 1 0 = true ∧ s.taken.outer 1 0x600000 = true ∧
       s.taken.maySignal 1 7 = true ∧ (s.taken.ownerKey 1 0).isSome = true) ∧
    (let s := tB 0x45 [1 + 7 * 2 ^ 15, 0x600000, 6] tK2
     adm s 0x45 [lowMask 31, allMask, allMask] [(0, 1)] [1] = true ∧ (s.taken.charter? (s.taken.ctx 1).chd).isSome = true ∧
       (s.taken.ctx 1).entry = some 0 ∧ (chExport tCw).1 = 2 ∧ (chExport tCw).2.2.2.1.testBit 0 = true ∧ 0 < (chExport tCw).2.2.2.2) :=
  ⟨by and_intros <;> decide +kernel, by and_intros <;> decide +kernel⟩
theorem test_hyp_transfers :
    (let s := { tK2 with xfers := [{ ctx := 1, keyid := 0, dst := 0x200000, fid := 7, val := 6 }, { exp := true, ctx := 1, keyid := 0xFF, src := 0x200000, dst := 0x200100, len := 64, fid := 7, val := 6 }] }
     s.dev = .ready ∧ s.xfers.length = 2 ∧ (s.ownerKey 1 0).isSome = true ∧ s.ownerKey 1 1 = none ∧
       good (s.readVa 747 1 0x208000 64) (fun t head => !objBad (t.ctx 1).chd 64 head && objBad (t.ctx 1).chd 65 head &&
         good (t.readVa 747 1 0x208040 0) fun t o => good (t.writeVa 747 1 0x200000 head) fun t _ =>
           leAt head 8 8 == 0 && good (t.importChunks 1 0 head 1 0 (leAt head 8 8) 0x200040 o)) = true ∧
       (match s.readVa 747 1 0x800000 64 with | .lost _ c => c == 9 | _ => false) = true ∧
       (match ({ s with dramQ := List.replicate 32 tO3 } : State).readVa 747 1 0x200000 64 with | .wait _ => true | _ => false) = true ∧
       good (s.readVa 747 1 0x200000 64) = true ∧ good (s.writeVa 747 1 0x200100 (List.replicate 160 0)) = true) :=
  by and_intros <;> decide +kernel
theorem test_hyp_keysAndLifeCycle : adm (tB 0x42 [63]) 0x42 [lowMask 6] [] [] = true ∧ adm (tB 0x43 []) 0x43 [] [] [] = true ∧
    (tS tK).keysUp = true ∧ (tK1.kslot 8).st = .valid ∧ (tK1.kslot 8).kind = 6 ∧ (tS tK).dev ≠ .off ∧ (tS tK).dev ≠ .auxOnly ∧
    (tS tK).keys.failed = false ∧ adm (tB 0x46 []) 0x46 [] [] [] = true ∧
    adm { tB 0x47 [] with ctxs := [], lc := { (tS tK).lc with retire := false } } 0x47 (List.replicate 8 allMask) [] [] = true ∧
    (tS tK).powered = true ∧
    (let l : LifeCycle := { lcm := 0xFFFF, lcp := 0, dies := 0, tap := [(12, 3)] }
     l.die 0 = 0 ∧ l.die 12 = 0 ∧ l.wired 12 = true ∧ ({ l with lcm := 0 } : LifeCycle).wired 0 = true ∧ l.retiring = false ∧ l.enrolling = false ∧ l.master = some 1) := by
  and_intros <;> decide +kernel

/-! ### Checkpoints, starts and tests -/

/-- A bound store of the herd of the learning tests, and one of snapshots; both are of the charter. -/
def tSt (l : Learn) (w : List CkptWrite := []) : State := { tK2 with
  learn := l, herds := [tHd], ckpts := w
  stores := [{ chd := 5, name := 9, segn := 1, coord := 0xFFFF00000000 }, { chd := 5, cls := 1, name := 4, coord := 0xFFFF00000000 },
             { chd := 0, name := 9, segn := 1, coord := 0xFFFF00000000 }] }
theorem test_hyp_checkpointCommands :
    (let s := tB 0x50 [1 + 2 ^ 12, 4, 0x200700] { tK2 with mem := tPut tP 0x400738 [0xFFFF00000000] }
     adm s 0x50 [lowMask 13, allMask, allMask] [(0, 1)] [1] = true ∧
       good (s.taken.readVa 725 1 0x200700 64) (fun t b => !storeBad (storeOf (t.ctx 1).chd 1 4 b) b) = true) ∧
    (let s := tB 0x51 [1 + 7 * 2 ^ 13, 3, 6, 0x200400] (tSt tLn)
     adm s 0x51 [lowMask 29, allMask, allMask, allMask] [(0, 1)] [1] = true ∧ s.taken.bindHerd = some tHd ∧ s.taken.learn.ctx = 1 ∧
       (s.taken.store? (s.taken.ctx 1).chd 0 (w64 tHd.hid)).isSome = true ∧ s.taken.mayCkpt 1 = true ∧ s.taken.maySignal 1 7 = true ∧
       (s.taken.ckey 1).isSome = true ∧ good (s.taken.readVa 725 1 0x200400 256) (fun _ b =>
         extentsOf b == [(0x200000, 64)] && decide (((extentsOf b).map Prod.snd).sum ≤ 2 ^ 26)) = true) ∧
    (let s := tB 0x53 [1, 4] (tSt {})
     adm s 0x53 [lowMask 12, allMask] [(0, 1)] [1] = true ∧ (s.taken.store? (s.taken.ctx 1).chd 1 4).isSome = true ∧ s.taken.mayCkpt 1 = true ∧
       chCkfl (s.taken.charterOf 1) 1 = true ∧ (s.taken.ckey 1).isSome = true ∧ s.taken.snapBusy 1 = false) := by
  and_intros <;> decide +kernel
/-- A model write at its capture. -/
def tWr : CkptWrite := { ctx := 1, name := 9, s := some 0, g := 6 }
/-- A snapshot write. -/
def tSn : CkptWrite := { ctx := 1, cls := 1, name := 4, g := 6 }
theorem test_hyp_checkpointWrites :
    (let s := tSt (tL0 true 0) [tWr]
     s.dev = .ready ∧ s.nextWrite = some tWr ∧ (s.store? (s.ctx 1).chd 0 9).isSome = true ∧ (s.ckey 1).isSome = true ∧ s.bindHerd = some tHd ∧
       s.atCapture tWr tHd = true) ∧
    (tSt {} [{ tSn with formed := true }]).nextWrite = some { tSn with formed := true } ∧ (tSt {} [tSn]).nextWrite = some tSn ∧
    (let h : Herd := { tHd with nodes := [4, 3], self := 1, rcd := { epoch := 4, live := [0, 1] } }
     ({ tSt (tL0 true 0) [tWr] with herds := [h] } : State).bindHerd = some h ∧ h.rcd.bell ≠ h.self ∧ h.rcd.epoch = 4 ∧
       (tSt (tL0 true 0) [tWr]).atCapture tWr h = true) ∧
    (let w : CkptWrite := { tWr with formed := true, reported := true }
     let s := tSt (tL0 true 0) [w]
     s.ckpts.find? (fun w => w.cls < 2 && w.formed && w.g == 6) = some w ∧ s.bindHerd = some tHd ∧ tHd.rcd.bell = tHd.self ∧
       (tHd.digests.any fun d => d.1 == tHd.self) = false ∧ s.ckpts.find? (fun w => w.cls == 0 && w.s.isSome) = some w) ∧
    (let w : CkptWrite := { tWr with cls := 2 }
     (tSt (tL0 true 0) [w]).ckpts.find? (fun w => w.cls == 2) = some w ∧
       ((tSt (tL0 true 0) [w]).store? tHd.chd 0 (w64 tHd.hid)).isSome = true) ∧
    (tSt { tL0 true 0 with segDue := [(3, false)] }).learn.segDue = [(3, false)] ∧ (tSt (tL0 true 0)).ckpts.find? (fun w => w.cls == 2) = none := by
  and_intros <;> decide +kernel
/-- What a restore finds: nothing, or a snapshot of zeros. -/
def tRe (ok : Bool) : RestoreIn := { manifest := ok, shards := ok, rolls := false, prev := false, cur := (3, 1, []), old := (2, 1, []), memberRec := [] }
theorem test_hyp_restores :
    (let s := tB 0x52 [1] (tSt (tL0 true 0))
     adm s 0x52 [lowMask 24] [(0, 1)] [1] = true ∧ s.taken.learn.bound = true ∧ s.taken.learn.committed = true ∧
       (s.taken.ckey 1).isSome = true ∧ s.taken.readScb.1.isSome = true ∧ (s.taken.readScb.2.ckey 1).isSome = true ∧
       (s.taken.readScb.2.stores.any fun x => x.chd == (s.taken.readScb.2.ctx 1).chd && x.cls == 0) = true) ∧
    restoreChoice (tRe false) = none ∧ restoreChoice (tRe true) = some (3, 1, []) ∧
    ({ tB 0x52 [1] (tSt (tL0 true 0)) with herds := [] } : State).taken.readScb.2.bindHerd = none ∧
    (let s := tB 0x54 [1, 4] (tSt {})
     adm s 0x54 [lowMask 12, allMask] [(0, 1)] [1] = true ∧ (s.taken.ctx 1).st = .resident ∧ (s.taken.ctx 1).entry.isSome = true ∧
       ((s.taken.ctxCores 1).any fun n => (s.taken.core n).run == .running) = false ∧ (s.taken.ckey 1).isSome = true ∧
       (s.taken.store? (s.taken.ctx 1).chd 1 4).isSome = true ∧ snapWord [] 12 ≤ (s.taken.ctxCores 1).length ∧ snapFences [] = [] ∧
       (snapKv []).v = false ∧ snapLeaves [] = [] ∧ (State.mapPages 1 (snapLeaves []) none s.taken).isSome = true) := by
  and_intros <;> decide +kernel
/-- The record groups of a model go to pages that can be written. -/
theorem test_hyp_putModel : good ((tS2 (tL0 true 0)).writeVa 725 1 (tLn.recVa 1) (List.replicate 832 0)) = true ∧
    leAt (List.replicate 16 0 ++ [128] ++ List.replicate 7 0 ++ [1]) 16 8 = tLn.params ∧
    leAt (List.replicate 16 0 ++ [128] ++ List.replicate 7 0 ++ [1]) 24 8 = tLn.groups.length := by and_intros <;> decide +kernel
/-- A good image. -/
def tIm (ok : Bool) : ImageIn := { formOk := ok, key := 0, pubOk := ok, romOk := ok, svn := 1, bodyOk := ok, sigOk := ok, fwm := 0 }
theorem test_hyp_startUp : State.reset.dev = .starting ∧ ({ State.reset with lc := { lcm := 0xFFFFFFFFFFFF } } : State).lc.master = some 3 ∧
    (let b : Boot := { recov := true }
     b.recov = true ∧ b.checkIn (tIm false) true ≠ 0 ∧ b.checkIn (tIm true) true = 0) ∧
    adm (tB 0x48 [3]) 0x48 (lowMask 2 :: List.replicate 8 allMask) [] [] = true ∧
    (let s := tB 0x49 [2, 2600]
     adm s 0x49 [lowMask 16, allMask] [] [] = true ∧ calBad (s.argsOf c0) = false ∧ s.taken.boot.writing = false) ∧
    adm (tB 0x4A [2]) 0x4A [lowMask 16] [] [] = true ∧ (tS tK).boot.user 2 0 = none ∧
    (let b : Boot := { cal := [(2 ^ 12 * 2, 2000)] }
     b.user 2 0 = some 2000) ∧ ({ sealDue := true } : Boot).writing = false := by and_intros <;> decide +kernel
theorem test_hyp_fieldTests : adm (tB 0x55 []) 0x55 [] [] [] = true ∧ (tB 0x55 []).taken.ras.fieldTest = 0 ∧ (tB 0x55 []).taken.stepUnheld = false ∧
    (tB 0x55 [] (tS2 tLn)).taken.stepUnheld = true ∧ ({ (tS tK).ras with fieldTest := 1 } : Ras).fieldTest ≠ 0 ∧
    adm (tB 0x56 [3 + 3 * 8]) 0x56 [lowMask 12] [] [] = true ∧ (tS tK).unitFitted 3 3 = true ∧ (tS tK).ras.ftHerd = none ∧
    (let s := { tS tK with clusters := [(0, { tC with red := true })] }
     s.coreCtx 0 = some 1 ∧ (s.cluster 0).red = true ∧ s.dev = .ready ∧ s.resident 1 = true) := by and_intros <;> decide +kernel

/-! ### Packets, doorbells, Tether, PCIe, resets and supplies -/

/-- The packet at the HEAD of a queue starts, as a check. -/
def sta (s : State) (p : Pkt) (c opc : Nat) (unused : List Nat) : Bool :=
  let q := (s.ctx c).queue p.queue
  s.dev == .ready && s.slotCtx p.slot == some c && s.resident c && !s.leaving c && (s.ctx c).st != .lost && q.v &&
    q.head != q.tail && decide (q.prog.length < 4) && !s.outranked c p.queue && !s.packetBad c opc p.w unused &&
    !s.packetWaits q (argAt p.w 0) (argAt p.w 1) && !s.snapping c
/-- The check is sound. -/
theorem sta_sound {s : State} {p : Pkt} {c opc : Nat} {unused : List Nat} (e : sta s p c opc unused = true) :
    s.Starts p c opc unused := by
  simp only [sta, Bool.and_eq_true, beq_iff_eq, Bool.not_eq_true', bne_iff_ne, ne_eq, decide_eq_true_eq] at e
  obtain ⟨⟨⟨⟨⟨⟨⟨⟨⟨⟨⟨a, b⟩, c⟩, d⟩, f⟩, g⟩, i⟩, j⟩, k⟩, l⟩, m⟩, n⟩ := e
  exact ⟨a, b, c, d, f, g, i, j, k, l, m, n⟩
/-- Context 1 with a queue 15 of 16 packets, of which one waits; its ring is changed as said. -/
def tQu (f : Queue → Queue := id) (s : State := tS {}) : State :=
  tI (fun k => k.updQueue 15 fun _ => f { v := true, qlog := 4, ring := 0x1000, tail := 1 }) s
/-- A packet of queue 15 with this opcode. -/
def tPc (opc : Nat) (w : List Nat) : Pkt := { slot := 0, queue := 15, w := w64 (opc * 2 ^ 56) :: w.map w64 }
theorem test_hyp_starts : tQu.Starts (tPc 1 [0, 0, 0, 0x40, 0, 0, 1]) 1 1 [] := sta_sound (by decide +kernel)
theorem test_hyp_packets : sta tQu (tPc 0 [0, 0, 0, 0, 0, 0, 0]) 1 0 [4, 5, 6, 7] = true ∧
    (let p := tPc 0 [0, 0, 0, 0, 0, 0, 0]
     ((((tQu.begin 1 p.queue 0 p.w []).ctx 1).queue p.queue).prog[0]?).isSome = true) ∧
    (let p := tPc 1 [0, 0, 0, 0x40, 0, 0, 1]
     sta tQu p 1 1 [] = true ∧ tQu.maskBad 1 (argAt p.w 7) = false ∧
       ((tQu.maskCores (argAt p.w 7)).any fun n => (tQu.core n).run == .running) = false ∧ (argAt p.w 4).toNat < 2 ^ 48 ∧
       tQu.confidential 1 = false) ∧
    (let p := tPc 2 [0, 0, 0, 0, 0, 0, 1]
     sta tQu p 1 2 [4, 5, 6] = true ∧ tQu.maskBad 1 (argAt p.w 7) = false) ∧
    (let p := tPc 3 [0, 0, 0, 0x200000, 0x200040, 64, 0]
     sta tQu p 1 3 [7] = true ∧ (argAt p.w 4).toNat % 64 = 0 ∧ (argAt p.w 5).toNat % 64 = 0 ∧ (argAt p.w 6).toNat % 64 = 0) ∧
    (let p := tPc 4 [0, 0, 0, 0x200000, 0, 0, 0]
     sta tQu p 1 4 [5, 6, 7] = true ∧ (argAt p.w 4).toNat % 8 = 0) := by and_intros <;> decide +kernel
theorem test_hyp_packetEnds : tQu.slotCtx 0 = some 1 ∧ tQu.dev = .ready ∧ tQu.resident 1 = true ∧
    (let x : Packet := { opc := 2, cores := [0] }
     let s := tQu fun q => { q with prog := [x] }
     ((s.ctx 1).queue 15).prog[0]? = some x ∧ ((x.cores.foldl State.tryStop s).packetEnd 1 x).isSome = true) ∧
    (let x : Packet := { opc := 1, cores := [0] }
     let s := tQu (fun q => { q with prog := [x, x, x, x] })
     ((s.ctx 1).queue 15).prog[3]? = some x ∧ x.opc ≠ 2 ∧
       (match s.packetEnd 1 x with | some r => good r | none => false) = true ∧
       (tQu (fun q => { q with prog := [x] }) (tS { fresh := true })).packetEnd 1 x = none) ∧
    (let s := tQu fun q => { q with qto := 1, since := some 0 }
     ((s.ctx 1).queue 15).v = true ∧ ((s.ctx 1).queue 15).qto ≠ 0 ∧ ((s.ctx 1).queue 15).since.isSome = true) := by
  and_intros <;> decide +kernel
theorem test_hyp_doorbells : tQu.slotCtx 0 = some 1 ∧ tQu.dev = .ready ∧ tQu.resident 1 = true ∧ ((tQu.ctx 1).queue 0).v = false ∧
    (w64 (2 ^ 32 - 1)).toNat < 2 ^ 32 ∧
    (let q := (tQu.ctx 1).queue 15
     q.v = true ∧ (1 : BitVec 32) = q.tail ∧ (17 : BitVec 32) ≠ q.tail ∧ 2 ^ q.qlog < ((17 : BitVec 32) - q.head).toNat ∧
       (q.tail - q.head).toNat ≤ ((16 : BitVec 32) - q.head).toNat ∧ ((16 : BitVec 32) - q.head).toNat ≤ 2 ^ q.qlog) ∧
    ({ due := true } : MsixEntry).due = true ∧ ({ pend := true } : MsixEntry).pend = true ∧ tQu.dev ≠ .sentinel ∧
    (let s := { tQu with dev := .sentinel, pcie := { tQu.pcie with msixEn := true, msix := [(15, { due := true, unmasked := true })] } }
     (Tab.get ({} : MsixEntry) s.pcie.msix 15).due = true ∧ s.pcie.msixEn = true ∧ s.pcie.msixMask = false ∧
       (Tab.get ({} : MsixEntry) s.pcie.msix 15).unmasked = true) := by and_intros <;> decide +kernel
/-- A state with a herd of domain 0 and this Tether. -/
def tTe (t : Tether) (f : Herd → Herd := id) : State := { tS3 f with
  tet := t, pcie := { (tS tK).pcie with up := true, ptmEn := true }, ports := [(15, { st := .up })] }
theorem test_hyp_tether : (tTe {}).dev = .ready ∧ (tTe {}).masterHerd = some (tH2) ∧
    (let b : Beacon := { port := 15, tdom := 0, node := 1, hid := 8, hops := 0 }
     ((tTe {}).port b.port).st = .up ∧ b.tdom.toNat = (tTe {}).tet.domain ∧ b.hid.toNat < tH2.hid ∧
       (tTe { mast := true }).masterHerd = some tH2 ∧ ({ tTe {} with herds := [] } : State).masterHerd = none) ∧
    (let s := tTe { mast := false, hasParent := true, pport := 15 }
     s.tet.mast = false ∧ s.tet.hasParent = true ∧ (s.port s.tet.pport).st = .up) ∧
    (tTe { st := .holdover }).tet.st = .holdover ∧ (tTe { best := some (8, 0, 1, 0) }).tet.best.isSome = true ∧
    (let s := tTe { st := .locked, best := some (8, 0, 1, 0) }
     let u := { s with tet := { s.tet with best := none, hasParent := false, st := TetState.holdover } }
     u.tet.st = .holdover ∧ u.masterHerd.isSome = true) ∧
    (tTe {}).tet.st ≠ .locked ∧ (tTe {}).tet.st ≠ .holdover ∧ (tTe { mast := true }).tet.phi = none ∧
    (tTe {}).pcie.up = true ∧ (tTe {}).pcie.ptmEn = true := by and_intros <;> decide +kernel
/-- A request of the host in flight. -/
def tRq : HostReq := { tag := 16383, host := 0x1000, len := 64 }
/-- A state with a configured link and an aperture window. -/
def tPx : State := { tS tK with pcie := { (tS tK).pcie with rrs := false, reqs := [tRq] }, aperture := [(63, some (1, 0x400000))] }
theorem test_hyp_pcieRequests : tPx.powered = true ∧ tPx.pcie.rrs = false ∧ (tS tK).pcie.rrs = true ∧ tPx.barsUp = true ∧ 64 < 65 ∧
    (blkAt (0x10000 : BitVec 26).toNat).1.counted = true ∧ (blkAt (0x10000 : BitVec 26).toNat).2 = 0 ∧ tPx.reduced = false ∧
    (1 : BitVec 26).toNat % 8 ≠ 0 ∧ inMsix 0x300000 = false ∧ inMsix 0 = false ∧ (Tab.get none tPx.aperture 0) = none ∧
    Tab.get none tPx.aperture (((2 ^ 36 - 1 : Nat)) / 2 ^ 30) = some (1, 0x400000) ∧ tPx.pcie.reqs.find? (fun r => r.tag == 16383) = some tRq ∧
    tPx.pcie.reqs.find? (fun r => r.tag == 0) = none ∧ tRq.dead = false ∧ (List.replicate 64 (0 : Byte)).length = tRq.len ∧
    CplStatus.ur ≠ .ok := by and_intros <;> decide +kernel
theorem test_hyp_badRegister : (8 : BitVec 26).toNat % 8 = 0 ∧ (tPx.silent 0 true || tPx.silent 8 true || tPx.silent 0xFFF8 true) = false ∧
    (({ tPx with dev := .sentinel } : State).silent 0 true || ({ tPx with dev := .sentinel } : State).silent 8 true) = true ∧
    tPx.reg? 0xFFF8 = none ∧ tPx.silent (8 * (regYmbx / 8)) true = false ∧
    ({ tPx with dev := .sentinel } : State).silent regYmbx true = false := by decide +kernel
theorem test_hyp_pageAndAperture : inMsix 0x110 = false ∧ (tI fun k => { k with fid := 7 }).slotCtx 0 = some 1 ∧
    (tI fun k => { k with fid := 7 }).mayWait 1 ((tI fun k => { k with fid := 7 }).ctx 1).fid = true ∧
    (let at_ (s : State) (da : Nat) := s.atTarget { req := { init := 724, ctx := 1, da := da, len := 8, acts := 1 } } .clean s.retry.length
     (at_ tPx 0x400000).retry.length = 0 ∧ (at_ tPx 0x400000).resp.length = 8 ∧ (at_ tPx 0x800000).retry.length = 0 ∧
       (at_ tPx 0x800000).resp.length ≠ 8 ∧ (at_ { tPx with dramQ := List.replicate 32 tO3 } 0x400000).retry.length = 1) := by
  and_intros <;> decide +kernel
theorem test_hyp_completions : tPx.ideDrops tRq = false ∧ tPx.ideDrops { tRq with lost := true } = true ∧ 0 + 64 = tRq.len ∧
    (let r : HostReq := { tRq with len := 128 }
     r.recv + 64 < r.len ∧ (r.host + (r.recv + 64)) % 64 = 0 ∧ r.recv + 4 < r.len ∧ (r.host + (r.recv + 4)) % 64 ≠ 0) := by decide +kernel
theorem test_hyp_pcieEvents : (tS tK).powered = true ∧ (tS tK).dev ≠ .starting ∧ State.reset.dev = .starting ∧ State.reset.powered = true ∧
    (6 : Fin 7) ≠ 0 ∧ (tS tK).agentsUp = true ∧ ((tS tK).sessionsOf true).length < 4 ∧
    (let s := { tS tK with pcie := { (tS tK).pcie with sessions := List.replicate 4 {} } }
     4 ≤ (s.sessionsOf true).length ∧ s.sessionsOf true ≠ []) ∧ ((tS tK).drawKey 256).isSome = true ∧
    (let s := { tS tK with pcie := { (tS tK).pcie with ide := [(3, { secure := true })], agent := some 0, up := true }
                           pw := { (tS tK).pw with aux := true } }
     (s.ideOf 3).secure = true ∧ s.bindingUp true = true ∧ s.bindingUp false = true ∧ (s.sensor 20).isSome = true ∧ s.dev ≠ .auxOnly ∧
       s.pcie.agent = some 0 ∧ s.pcie.i3cAddr = none ∧ ({ s.pcie with i3cAddr := some 8 } : Pcie).i3cAddr.isSome = true) ∧
    (tS tK).pcie.agent = none ∧ (tS tK).pcie.doeWait = [] ∧ ({ doeWait := [(1, [])] } : Pcie).doeWait = [(1, [])] ∧
    ({ keys := [(1, some 0)] } : Ide).loaded true = true ∧ ({} : Ide).loaded true = false ∧
    ({ up := true, speed := 6, width := 16, flit := true } : Pcie).narrows 6 8 true = true ∧ (tS tK).pcie.narrows 6 8 true = false := by
  and_intros <;> decide +kernel
/-- A point of the peer that is on the curve is the other hypothesis of the key exchange. -/
theorem test_hyp_keyExchange (peer : List Byte) (h : Config.sm2point peer = true) :
    ((tS tK).sessionsOf false).length < 4 ∧ Config.sm2point peer = true ∧ ∃ d t, (tS tK).drawKey 256 = some (d, t) := by
  have n : ((tS tK).drawKey 256).isSome = true := by decide +kernel
  obtain ⟨x, e⟩ := Option.isSome_iff_exists.1 n
  exact ⟨by decide +kernel, h, x.1, x.2, e⟩
theorem test_hyp_unitResets : (tS tK).dev = .ready ∧ (tS tK).unitFitted 1 63 = true ∧ (tS tK).resetting 1 63 = false ∧
    ([0, 1, 2, 3].all fun k => ({ tS tK with ras := { (tS tK).ras with resets := [{ kind := k, idx := 3 }] } } : State).resetting k 3) = true ∧
    (tS tK).works 0 = some 1 ∧ ((tS tK).core 0).run = .running ∧ (tS tK).engineBusy 2 0 = true := by and_intros <;> decide +kernel
theorem test_hyp_haltsAndTrips : (tS tK).dev = .ready ∧ (tS tK).space 0 = .d 0 ∧ (tS tK).yorekRuns = true ∧ (tS tK).dev ≠ .auxOnly ∧
    (tS tK).ras.tripped = false ∧ ({ tS tK with ras := { (tS tK).ras with tripped := true } } : State).yorekRuns = true := by
  and_intros <;> decide +kernel
theorem test_hyp_powerAndThermal : ({ State.reset with pw := { State.reset.pw with main := false, aux := false } } : State).pw.main = false ∧
    (tS tK).dieFitted 7 = true ∧ (tS tK).powered = true ∧ (3 : Fin 4) ≠ 0 ∧ (tS tK).pw.brake = false ∧ (tS tK).dev ≠ .sentinel ∧
    8 ≤ (11 : Fin 13).val ∧ (11 : Fin 13).val < 12 ∧ (∀ q < 16, ((tS tK).port q).st = .absent ∨ ((tS tK).port q).st = .down) := by
  and_intros <;> decide +kernel
/-! ### The whole machine -/

/-- The state after reset has no command and steps. -/
theorem test_hyp_stepRunsFront : State.reset.pending = [] := rfl
/-- A command waits, and its step answers a next state. -/
theorem test_hyp_steps : ∃ t, step { State.reset with pending := [.pwrBrakeAssert false] } = .next t := ⟨_, rfl⟩
theorem test_hyp_canonical : State.reset.Canonical ∧ Memory.wf [(3, 7), (9, 1)] = true ∧ Tab.wf {} (tS tK).cores = true := by
  refine ⟨⟨?_, ?_, ?_, ?_, ?_⟩, ?_, ?_⟩ <;> decide +kernel
theorem test_hyp_words : (Instr.spelt (.add { core := 3 } 31 30 29) = true ∧ (encodeWord (.add { core := 3 } 31 30 29)).isSome = true) ∧
    (decodeWord 3 (5 * 2 ^ 43) 0).isSome = true ∧ 0x3F * 2 ^ 58 + (2 ^ 58 - 1) < 2 ^ 64 := by and_intros <;> decide +kernel
theorem test_hyp_scalarFrame : exe (tS tK) { regs := [4, 1, 3] } ∧ exe (tS tK) { regs := [4, 1] } ∧ exe (tS tK) { regs := [4] } ∧
    Tab.wf {} (tS tK).cores = true ∧ (12 : BitVec 6).toNat ≤ 12 ∧ (63 : BitVec 32).toNat < 64 := by and_intros <;> decide +kernel
theorem test_hyp_vectorFrame : Tab.wf {} (tS tK).cores = true ∧
    exec (.vmov h0 { tU with ty := 2 }) (tS tK) = .next ((tS tK).vunNext h0 { tU with ty := 2 } (fun x => (x, 0))) ∧
    exec (.vand h0 tV) (tS tK) = .next ((tS tK).vopNext h0 tV (fun a b => ((a &&& b) % 2 ^ 32, 0))) := by
  refine ⟨by decide +kernel, rfl, rfl⟩

/-! ### Words written out from the encoding tables (`06` R132–R153) -/

/-- An instruction of core 3 under p0. -/
def h3 : Issue := { core := 3 }
/-- A first word: opcode and fields. -/
def tWd (op : Nat) (fields : List (Nat × Nat)) : Nat := op * 2 ^ 58 + (fields.map fun f => f.1 * 2 ^ f.2).sum
/-- SALU: DIVU g31, g30, g29; and a set bit of [32:0] is a reserved one (R136, R137). -/
theorem test_decode_salu : decodeWord 3 (tWd 0 [(17, 48), (31, 43), (30, 38), (29, 33)]) 0 = some (.divu h3 31 30 29) ∧
    decodeWord 3 (tWd 0 [(17, 48), (31, 43), (30, 38), (29, 33), (1, 32)]) 0 = some (.divu { h3 with rsv := true } 31 30 29) := by
  decide +kernel
/-- SALUI, MOVI, CMP and CMPI (R136–R138). -/
theorem test_decode_scalar : decodeWord 3 (tWd 1 [(8, 48), (4, 43), (5, 38), (63, 0)]) 0 = some (.salui h3 8 4 5 63) ∧
    decodeWord 3 (tWd 2 [(1, 48), (4, 43), (0xDEADBEEF, 0)]) 0 = some (.movhi h3 4 0xDEADBEEF) ∧
    decodeWord 3 (tWd 3 [(4, 48), (7, 45), (5, 38), (6, 33)]) 0 = some (.cmp h3 4 7 5 6) ∧
    decodeWord 3 (tWd 4 [(5, 48), (6, 45), (5, 38), (9, 0)]) 0 = some (.cmpi h3 5 6 5 9) := by decide +kernel
/-- PLOG, MEM, BR and BRR (R136, R138–R140); PNEG is bit 54 and PRED [57:55]. -/
theorem test_decode_control : decodeWord 3 (tWd 5 [(3, 48), (7, 45), (6, 42), (5, 39)]) 0 = some (.pandn h3 7 6 5) ∧
    decodeWord 3 (tWd 7 [(1, 51), (2, 48), (9, 43), (8, 38), (4, 0)]) 0 = some (.st h3 true false 2 9 8 4) ∧
    decodeWord 3 (tWd 8 [(5, 55), (1, 54), (2 ^ 32 - 2, 0)]) 0 = some (.br { h3 with pred := 5, pneg := true } 0 (2 ^ 32 - 2)) ∧
    decodeWord 3 (tWd 9 [(1, 48), (31, 43), (30, 38)]) 0 = some (.brrl h3 31 30) := by decide +kernel
/-- VOP: VCMP.LT of BF16×2, and VUN: VRSQ (R142, R143). -/
theorem test_decode_vop :
    decodeWord 3 (tWd 0x10 [(2047, 43), (1024, 32), (31, 21), (255, 13), (1, 12), (1, 10), (15, 5), (4, 2)]) 0 =
      some (.vcmpLt h3 { d := 2047, a := 1024, b := 31, n1 := 255, incA := true, incB := false, breg := true, ty := 4, x := false, sat := false }) ∧
    decodeWord 3 (tWd 0x11 [(5, 43), (6, 32), (7, 13), (1, 12), (7, 5), (3, 2)]) 0 =
      some (.vrsq h3 { d := 5, a := 6, n1 := 7, incA := true, ty := 3, sat := false }) := by decide +kernel
/-- V3: VFMA.BF16, VDOT2.FP16 and VSEL.32 (R135, R142). -/
theorem test_decode_v3 :
    decodeWord 3 (tWd 0x18 [(1, 43), (2, 32), (3, 21), (4, 10), (5, 5), (1, 4), (1, 1)]) 0 =
      some (.vfma h3 1 { d := 1, a := 2, b := 3, c := 4, gn := 5, incA := true, incB := false, incC := false, rnd := true, breg := false }) ∧
    decodeWord 3 (tWd 0x1B [(1, 43), (2, 32), (3, 21), (4, 10), (5, 5), (1, 3)]) 0 =
      some (.vdot2 h3 true { d := 1, a := 2, b := 3, c := 4, gn := 5, incA := false, incB := true, incC := false, rnd := false, breg := false }) ∧
    decodeWord 3 (tWd 0x1E [(1, 43), (2, 32), (3, 21), (4, 10), (5, 5), (1, 2), (1, 0)]) 0 =
      some (.vsel h3 2 { d := 1, a := 2, b := 3, c := 4, gn := 5, incA := false, incB := false, incC := true, rnd := false, breg := true }) := by
  decide +kernel
/-- VCVT, VCVT.MX, VBX.CVT and VRNG.SETC (R142, R145). -/
theorem test_decode_convert :
    decodeWord 3 (tWd 0x12 [(1, 43), (2, 32), (3, 24), (14, 20), (11, 16), (3, 14), (9, 9)]) 0 =
      some (.vcvt h3 { d := 1, a := 2, n1 := 3, sfmt := 14, dfmt := 11, rnd := 3, gidx := 9 }) ∧
    decodeWord 3 (tWd 0x13 [(1, 43), (2, 32), (3, 21), (4, 13), (5, 10), (1, 9), (2, 7), (3, 5), (9, 0)]) 0 =
      some (.vcvtMx h3 { d := 1, a := 2, s := 3, n1 := 4, fmx := 5, rule := true, blk := 2, rnd := 3, gidx := 9 }) ∧
    decodeWord 3 (tWd 0x15 [(1, 52), (1, 41), (2, 30), (3, 19), (4, 11), (5, 6)]) 0 =
      some (.vbxCvt h3 { d := 1, a := 2, s := 3, n1 := 4, gt := 5 }) ∧
    decodeWord 3 (tWd 0x16 [(2, 51), (4, 27), (5, 22)]) 0 = some (.vrngSetc h3 { d := 0, n1 := 0, ga := 4, gb := 5 }) := by decide +kernel
/-- RPSUM.E, RARGMIN and RTOPK.I32 (R146). -/
theorem test_decode_reduce :
    decodeWord 3 (tWd 0x20 [(1, 43), (2, 35), (3, 24), (4, 13), (1, 12), (2, 8), (4, 5)]) 0 =
      some (.rpsumE h3 { src := 1, n1 := 2, dst := 3, accs := 4, init := true, save := false, ty := 2, gidx := 0 }) ∧
    decodeWord 3 (tWd 0x21 [(1, 43), (2, 35), (3, 24), (2047, 13), (3, 8), (3, 6), (9, 1)]) 0 =
      some (.rargmin h3 { src := 1, n1 := 2, dst := 3, accs := 2047, init := false, save := false, ty := 3, gidx := 9 }) ∧
    decodeWord 3 (tWd 0x23 [(1, 43), (2, 35), (3, 24), (2047, 13), (1, 12), (63, 5), (9, 0)]) 0 =
      some (.rtopk h3 true { src := 1, n1 := 2, dst := 3, accs := 2047, init := true, save := false, k1 := 63, gidx := 9 }) := by
  decide +kernel
/-- The worked example of R148, word for word, and the same with bit 54 of word 1. -/
theorem test_decode_stream :
    (let a : StreamF := { fmtA := 5, sclA := true, blkA := 1, ga := 4, gsa := 5, ring := 0, mode := 0, acc := 0, m1 := 255 }
     let o : OutW := { fmt := 5, srule := 2, blk := 1, dst := 0, go := 6, gos := 7, k0 := 0, rnd := 0, gidx := 0 }
     decodeWord 3 0xA81690A0000007F8 0x590C700000000000 = some (.stream h3 a o) ∧
       decodeWord 3 0xA85690A0000007F8 0x590C700000000000 = some (.stream { h3 with pneg := true } a o)) := by decide +kernel
/-- LOADW, ACCOUT and CSADV (R148, R149). -/
theorem test_decode_matrix :
    decodeWord 3 (tWd 0x28 [(7, 50), (1, 49), (3, 47), (4, 42), (5, 37)]) 0 =
      some (.loadw h3 { fmt := 7, scl := true, blk := 3, gd := 4, gs := 5 }) ∧
    decodeWord 3 (tWd 0x2B [(200, 46), (55, 38)]) (3 * 2 ^ 60 + 2 ^ 54 + 6 * 2 ^ 49 + 2 * 2 ^ 42 + 3 * 2 ^ 40 + 9 * 2 ^ 35) =
      some (.accout h3 200 55 { fmt := 3, srule := 0, blk := 0, dst := 1, go := 6, gos := 0, k0 := 2, rnd := 3, gidx := 9 }) ∧
    decodeWord 3 (tWd 0x2C [(1, 53), (4, 48), (5, 43), (65535, 27)]) 0 = some (.csadv h3 { loc := true, gt := 4, gn := 5, h := 65535 }) := by
  decide +kernel
/-- DMA.DESC, DMA.COPY, RING and WIN (R150). -/
theorem test_decode_dma :
    decodeWord 3 (tWd 0x30 [(2, 52), (1, 51), (4, 46)]) (2 ^ 63 + 0xABCD * 2 ^ 47 + 5 * 2 ^ 42) =
      some (.dmaDesc h3 { eng := 2, loc := true, gd := 4, fen := true, fid := 0xABCD, gv := 5 }) ∧
    decodeWord 3 (tWd 0x31 [(1, 49), (2, 44), (3, 39), (1, 37)]) 0 =
      some (.dmaCopy h3 { gdst := 1, gsrc := 2, glen := 3, dl := false, sl := true }) ∧
    decodeWord 3 (tWd 0x32 [(255, 45)]) 0 = some (.ringAdv h3 255) ∧
    decodeWord 3 (tWd 0x33 [(1, 53), (7, 48)]) 0 = some (.winRel h3 7) := by decide +kernel
/-- TASK.BEGIN, TASK.END, FENCE.READ, SYS.FLAGS and an unassigned major opcode (R135, R152, R153). -/
theorem test_decode_system : decodeWord 3 (tWd 0x38 [(7, 49)]) 0 = some (.taskBegin h3 7) ∧ decodeWord 3 (tWd 0x39 []) 0 = some (.taskEnd h3) ∧
    decodeWord 3 (tWd 0x3A [(1, 52), (9, 36), (1, 35), (4, 30), (6, 20), (3, 17)]) 0 =
      some (.fenceRead h3 { fid := 9, idr := true, gi := 4, gv := 0, gd := 6, pd := 3 }) ∧
    decodeWord 3 (tWd 0x3C [(3, 48), (4, 43), (5, 38)]) 0 = some (.sysFlags h3 4 5) ∧
    (match decodeWord 3 (tWd 0x24 []) 0 with | some (.unassignedMajorOpcode h o) => h.core == 3 && o == 0x24 | _ => false) = true := by
  decide +kernel

/-! ### Each check of well-formedness refuses an ill-formed command -/

/-- A mailbox command with too many words, and a packet of seven. -/
theorem test_wf_calls : Instr.wf (.slotIn { chan := 0, seq := 0, args := List.replicate 33 0 }) = false ∧
    Instr.wf (.nop { slot := 0, queue := 0, w := List.replicate 7 0 }) = false := by decide +kernel
/-- A write without bytes, a write that walks, and a read of nothing. -/
theorem test_wf_memory :
    (let r : MemOp := { init := 0, ctx := 0, da := 0, write := true, walk := false, len := 0, data := [], health := .clean, issued := 0, returned := 0 }
     Instr.wf (.memoryRequest r) = false ∧ Instr.wf (.memoryRequest { r with data := List.replicate 257 0 }) = false ∧
       Instr.wf (.memoryRequest { r with da := 0x10000000007F, data := [1, 2] }) = false ∧ Instr.wf (.memoryRequest { r with data := [1], walk := true }) = false ∧
       Instr.wf (.memoryRequest { r with data := [1], len := 1 }) = false ∧ Instr.wf (.memoryRequest { r with write := false }) = false ∧
       Instr.wf (.memoryRequest { r with write := false, len := 1, data := [1] }) = false) := by decide +kernel
/-- A flit that has not 256 bytes, FREED for fifteen classes, and a pool message of too many lines. -/
theorem test_wf_link :
    (let f : FlitIn := { port := 0, resp := false, wire := List.replicate 255 0, fec := [], lost := false }
     let m : PoolMsg := { port := 0, tag := 0, nl := 8193, addr := 0, reqn := 0, opnd := 0, strm := false, data := [], bad := false }
     Instr.wf (.data f) = false ∧ Instr.wf (.idle { f with wire := List.replicate 257 0 }) = false ∧
       Instr.wf (.lctl { f with wire := List.replicate 256 0 } { ack := 0, nak := none, freed := List.replicate 15 0 }) = false ∧
       Instr.wf (.prd m) = false) := by
  and_intros <;> decide +kernel
/-- A pool message of more bytes than 8,192 lines. -/
theorem test_wf_poolBytes (m : PoolMsg) (h : m.data.length = 144 * 8192 + 1) : Instr.wf (.pbwr m) = false := by
  simp [Instr.wf, PoolMsg.wf, h]
/-- A data rate that memory does not have, too many triplets or fallbacks, and a sample without a die. -/
theorem test_wf_start :
    (let i : StartIn := { selfOk := true, trip := 52, pufOk := true, norOk := true, factoryOk := true, trngOk := true, trainOk := true
                          tempOk := true, fallback := 72, bad := [], rate := 9600, calOk := true, ms := 0 }
     let z (n : Nat) : List (BitVec 16) := List.replicate n 0
     Instr.wf (.start { i with rate := 9601 }) = false ∧ Instr.wf (.start { i with trip := 53 }) = false ∧
       Instr.wf (.start { i with fallback := 73 }) = false ∧
       Instr.wf (.thermalSample { tj := z 7, td := z 8, mtj := z 4, xtj := 0, inlet := 0, lp := z 32 }) = false ∧
       Instr.wf (.thermalSample { tj := z 8, td := z 7, mtj := z 4, xtj := 0, inlet := 0, lp := z 32 }) = false ∧
       Instr.wf (.thermalSample { tj := z 8, td := z 8, mtj := z 5, xtj := 0, inlet := 0, lp := z 32 }) = false ∧
       Instr.wf (.thermalSample { tj := z 8, td := z 8, mtj := z 4, xtj := 0, inlet := 0, lp := z 31 }) = false) := by decide +kernel
/-- Sums wider than 1,024 bits, contributors out of order, a message that no channel has, and records without their Bellwether. -/
theorem test_wf_records : Instr.wf (.gateRecord { wall := 2 ^ 1024 }) = false ∧ Instr.wf (.gateRecord { wclip := 2 ^ 1024 }) = false ∧
    Instr.wf (.scalarRecord 0 0 { wself := [(4096, 0)] }) = false ∧ Instr.wf (.gateRecord { wself := [(0, 2 ^ 1024)] }) = false ∧
    Instr.wf (.gateRecord { wself := [(1, 0), (1, 0)] }) = false ∧ Instr.wf (.collectiveMessage { opc := 0x24 }) = false ∧
    Instr.wf (.collectiveMessage { opc := 0x20, ch := 16 }) = false ∧ Instr.wf (.collectiveMessage { opc := 0x20, src := 4096 }) = false ∧
    Instr.wf (.collectiveMessage { opc := 0x20, data := List.replicate 773 0 }) = false ∧
    Instr.wf (.membershipRecord 0 { live := [1], bell := 0 }) = false ∧ Instr.wf (.membershipRecord 0 { live := [1, 0] }) = false ∧
    Instr.wf (.membershipRecord 0 { live := [0, 4096] }) = false ∧ Instr.wf (.membershipRecord 0 { live := [0], epoch := 2 ^ 32 }) = false := by
  decide +kernel
/-- Units that the field test does not run, a block of the wrong length, and a beacon from too far. -/
theorem test_wf_units :
    (let f : FailRec := { ver := 1, ukind := 6, uidx := 4, test := 0, row := 0, col := 0, expect := 0, got := 0, flags := (0, 0) }
     Instr.wf (.fieldTestComplete [f] []) = false ∧ Instr.wf (.fieldTestComplete [{ f with uidx := 3, row := 2 ^ 16 }] []) = false ∧
       Instr.wf (.fieldTestComplete [{ f with uidx := 3, col := 2 ^ 16 }] []) = false ∧ Instr.wf (.fieldtestLimit [(4, 0)]) = false ∧
       Instr.wf (.fieldtestLimit [(3, 512)]) = false ∧ Instr.wf (.fieldtestLimit [(7, 1)]) = false ∧
       Instr.wf (.blockArrival 0 (List.replicate 192 0)) = false ∧
       Instr.wf (.tetherBeacon (some { port := 0, tdom := 0, node := 0, hid := 0, hops := 4096 })) = false) := by decide +kernel
/-- Accesses whose length is not that of their bytes, or is none, or is more than a request's. -/
theorem test_wf_pcie : Instr.wf (.bar0Access true 0 1 []) = false ∧ Instr.wf (.bar0Access false 0 0 []) = false ∧
    Instr.wf (.bar0Access false 0 1 [1]) = false ∧ Instr.wf (.apertureAccess true 0 1 []) = false ∧
    Instr.wf (.apertureAccess false 0 0 []) = false ∧ Instr.wf (.apertureAccess false 0 1 [1]) = false ∧
    Instr.wf (.badRegisterAccess true 0 0) = false ∧ Instr.wf (.badRegisterAccess true 0 4097) = false ∧
    Instr.wf (.msixTableAccess true 0 0 0) = false ∧ Instr.wf (.msixTableAccess true 0 4097 0) = false ∧
    Instr.wf (.bar2ReservedAccess true 0 0) = false ∧ Instr.wf (.bar2ReservedAccess true 0 4097) = false := by decide +kernel
/-- Points and signatures of SM2 are 64 bytes. -/
theorem test_wf_keys : Instr.wf (.keyExchange true []) = false ∧ Instr.wf (.krWrap true 0 0 0 [] (List.replicate 63 0)) = false ∧
    Instr.wf (.revoke true 0 0 true 0 (List.replicate 65 0)) = false ∧ Instr.wf (.report true 0 0 0 []) = false := by decide +kernel

end
end Sys2Proof.Tests
end

section
/-! The loads that a core holds in flight, and division by zero. -/

open Sys2Proof

namespace Sys2Proof.Machine

/-- An aligned range whose address has 48 bits is no cause at the address check of a scalar access (`02` R35). -/
theorem contextAccess_none {s : State} {n c a bytes : Nat} {acc : Acc} (aligned : a % bytes = 0) (below : a < 2 ^ 48) :
    s.contextAccess n c a bytes acc = none := by
  unfold State.contextAccess
  rw [if_neg (not_not.2 aligned), if_neg (Nat.not_le.2 below)]

/-- With 16 loads in flight the next load of context memory waits, and has changed nothing. -/
theorem loadContext_full {s : State} {n c a bytes : Nat} {sx : Bool} {rd : BitVec 5} (aligned : a % bytes = 0)
    (below : a < 2 ^ 48) (full : 16 ≤ (s.core n).loads.length) : loadContext n c sx rd a bytes s = .wait s := by
  unfold loadContext
  rw [contextAccess_none aligned below, decide_eq_true full, Bool.true_or]
  rfl

/-- With room among the loads in flight and no chain that holds the line, a load whose translation and read complete goes
out. -/
theorem loadContext_room {s t u : State} {n c a bytes da : Nat} {sx : Bool} {rd : BitVec 5} {b : List Byte}
    (aligned : a % bytes = 0) (below : a < 2 ^ 48) (room : (s.core n).loads.length < 16)
    (unlocked : s.lineLocked n (s.core n).disp { r := [(a, bytes)] } = false) (aims : s.aim n c a bytes .read = .ok t da)
    (reads : t.readHeld n (t.core n).taskNow da bytes = .ok u b) :
    loadContext n c sx rd a bytes s =
      .ok ((u.touched n c a da).loadOut n (loadOf u n c rd (extend sx b) a da bytes)) none := by
  unfold loadContext
  rw [contextAccess_none aligned below, decide_eq_false (Nat.not_le.2 room), unlocked, aims]
  simp only [orLost, Res.bind, reads, Bool.or_self, Bool.false_eq_true, if_false]

section ContextLoad

variable {s t : State} {h : Issue} {c : Nat} {sx : Bool} {size : BitVec 2} {rd ra : BitVec 5} {imm : BitVec 32}

/-- An LD of context memory that waits leaves what its wait says. -/
theorem exec_ld_of_wait (e : s.Executes h c { regs := [rd, ra] })
    (waits : loadContext h.core.val c sx rd ((s.core h.core.val).rd ra + imm.signExtend 64).toNat (2 ^ size.toNat) s =
      .wait t) : exec (.ld h false sx size rd ra imm) s = .next t :=
  congrArg Host.Outcome.next (issue_wait (fenceOp := false) e nofun rfl waits)

/-- An LD of context memory that completes retires. -/
theorem exec_ld_of_ok (e : s.Executes h c { regs := [rd, ra] })
    (completes : loadContext h.core.val c sx rd ((s.core h.core.val).rd ra + imm.signExtend 64).toNat (2 ^ size.toNat) s =
      .ok t none) : exec (.ld h false sx size rd ra imm) s = .next (t.retired h.core.val (s.pcAfter h 1)) :=
  congrArg Host.Outcome.next (issue_ok (words := 1) (fenceOp := false) (x := none) e nofun rfl completes)

end ContextLoad

/-- A SALU instruction that executes writes its result, and does nothing else but retire. -/
theorem salu_executes {s : State} {h : Issue} {c : Nat} {rd ra rb : BitVec 5} (f : W64 → W64 → W64)
    (e : s.Executes h c { regs := [rd, ra, rb] }) :
    salu f h rd ra rb s = .next (s.after h fun k => k.wr rd (f (k.rd ra) (k.rd rb))) :=
  congrArg Host.Outcome.next (issue_onCore e)

/-- A SALU instruction whose operation gives one value `v` for every dividend when g[RB] is zero writes `v`. -/
theorem salu_of_zero {s : State} {h : Issue} {c : Nat} {rd ra rb : BitVec 5} {f : W64 → W64 → W64} {v : W64}
    (hf : ∀ a, f a 0 = v) (e : s.Executes h c { regs := [rd, ra, rb] }) (zero : (s.core h.core.val).rd rb = 0) :
    salu f h rd ra rb s = .next (s.after h fun k => k.wr rd v) := by
  rw [salu_executes f e]
  exact congrArg Host.Outcome.next (after_congr (by rw [zero, hf]))

/-- A signed quotient by zero is all ones. -/
@[simp] theorem aluDiv_zero (a : W64) : aluDiv a 0 = BitVec.allOnes 64 := by
  unfold aluDiv divS; rw [if_pos rfl]
/-- An unsigned quotient by zero is all ones. -/
@[simp] theorem aluDivu_zero (a : W64) : aluDivu a 0 = BitVec.allOnes 64 := by
  unfold aluDivu divU; rw [if_pos rfl]

end Sys2Proof.Machine

open Sys2Proof.Machine

/-- Settles O6: a load at issue either finds 16 in flight and waits, or goes out; the quotients by zero are all ones. -/
theorem loadsInFlightAndDivision : Obligations.LoadsInFlightAndDivision := by
  unfold Obligations.LoadsInFlightAndDivision
  intro s t u h c rd ra rb imm sx size da b n a
  refine ⟨fun e aligned below => ⟨fun full => ?_, fun room unlocked aims reads => ?_⟩, fun e zero => ⟨?_, ?_⟩⟩
  · exact exec_ld_of_wait e (loadContext_full aligned below full)
  · exact exec_ld_of_ok e (loadContext_room aligned below room unlocked aims reads)
  · rw [exec_div]
    exact salu_of_zero aluDiv_zero e zero
  · rw [exec_divu]
    exact salu_of_zero aluDivu_zero e zero
end

section
/-! Scalar operations, moves and compares: what each instruction that executes writes (`06` R137, R138). -/

open Sys2Proof

namespace Sys2Proof.Machine

/-- An instruction of one word whose encoding is legal, and that executes and changes its core alone, does what its body
does to that core. -/
theorem issue_gives {s : State} {h : Issue} {c : Nat} {bad : Option Nat} {u : Uses} {f g : Core → Core}
    (e : s.Executes h c u) (legal : bad = none) (value : f (s.core h.core.val) = g (s.core h.core.val)) :
    issue h 1 false bad u s (fun _ s => onCore h.core.val f s) = s.after h g :=
  (issue_ok (words := 1) (fenceOp := false) (x := none) e nofun legal rfl).trans (after_congr value)

/-- An illegal encoding on a core that is about to issue loses the context with its cause, whatever the predicate and the
registers in flight (`06` R156). -/
theorem issue_illegal {s : State} {h : Issue} {c words cause : Nat} {bad : Option Nat} {u : Uses}
    {body : Nat → State → Res (Option W48)} (e : s.Issuing h c) (plain : h.rsv = false) (illegal : bad = some cause) :
    issue h words false bad u s body = s.lose c cause (some h.core.val) (s.core h.core.val).pc := by
  unfold issue
  simp only [e.holds, e.issues, e.going, e.aligned, plain, illegal, Bool.not_true, Bool.false_and, Bool.false_eq_true,
    Option.isSome_some, Option.getD_some, Bool.false_or, ne_eq, not_true_eq_false, if_false, if_true]

/-! ### Values of the operations (`06` R137, R138) -/

/-- A shift amount is the operand's low six bits. -/
theorem fld_low_six (y : W64) : fld y 5 0 = y.toNat % 64 := rfl
/-- MIN is the lesser of two signed values. -/
theorem aluMin_eq (x y : W64) : aluMin x y = if x.toInt < y.toInt then x else y := by
  simp only [aluMin, BitVec.slt_iff_toInt_lt]
/-- MINU is the lesser of two unsigned values. -/
theorem aluMinu_eq (x y : W64) : aluMinu x y = if x.toNat < y.toNat then x else y := by
  simp only [aluMinu, BitVec.ult_iff_lt, BitVec.lt_def]
/-- MAX is the greater of two signed values. -/
theorem aluMax_eq (x y : W64) : aluMax x y = if x.toInt < y.toInt then y else x := by
  simp only [aluMax, BitVec.slt_iff_toInt_lt]
/-- MAXU is the greater of two unsigned values. -/
theorem aluMaxu_eq (x y : W64) : aluMaxu x y = if x.toNat < y.toNat then y else x := by
  simp only [aluMaxu, BitVec.ult_iff_lt, BitVec.lt_def]

/-- An immediate below 64 is the shift amount that it spells. -/
theorem fld_imm32 {imm : BitVec 32} (small : imm.toNat < 64) : fld (imm32 imm) 5 0 = imm.toNat := by
  have positive : imm.msb = false := by
    rw [BitVec.msb_eq_decide]; exact decide_eq_false (by omega)
  rw [fld_low_six, imm32, BitVec.signExtend_eq_setWidth_of_msb_false positive, BitVec.toNat_setWidth]
  omega

/-- What the six conditions say of two values, by their code (`06` R138). -/
def condResults (x y : W64) : List Bool :=
  [x == y, x != y, decide (x.toInt < y.toInt), decide (x.toInt ≤ y.toInt),
    decide (x.toNat < y.toNat), decide (x.toNat ≤ y.toNat)]

/-- COND selects the condition. -/
theorem condOf_eq (i : Fin 6) (x y : W64) : condOf (BitVec.ofNat 6 i).toNat x y = (condResults x y).getD i false :=
  match i with
  | 0 | 1 | 2 | 3 | 4 | 5 => rfl

/-- The six codes of COND are legal. -/
theorem cond_legal (i : Fin 6) : ill (decide (5 < (BitVec.ofNat 6 i).toNat)) = none :=
  match i with
  | 0 | 1 | 2 | 3 | 4 | 5 => rfl

/-! ### What an instruction that executes writes -/

section Writes

variable {s : State} {h : Issue} {c : Nat} {rd ra rb : BitVec 5} {imm : BitVec 32} {pd pa pb : BitVec 3}
  {i : Instr} {v : W64} {b : Bool}

/-- A SALU instruction writes the value of its operation. -/
theorem exec_salu {f : W64 → W64 → W64} (means : exec i s = salu f h rd ra rb s) (e : s.Executes h c { regs := [rd, ra, rb] })
    (value : f ((s.core h.core.val).rd ra) ((s.core h.core.val).rd rb) = v) :
    exec i s = .next (s.after h fun k => k.wr rd v) := by
  rw [means, ← value]
  exact congrArg Host.Outcome.next (issue_gives e rfl rfl)

/-- SALUI with a legal code writes the value of the operation that it selects, of g[RA] and the sign-extended immediate. -/
theorem exec_salui_legal {sub : BitVec 6} (e : s.Executes h c { regs := [rd, ra] }) (legal : saluiBad sub imm = false)
    (value : aluOf sub.toNat ((s.core h.core.val).rd ra) (imm32 imm) = v) :
    exec (.salui h sub rd ra imm) s = .next (s.after h fun k => k.wr rd v) := by
  rw [exec_salui, ← value]
  exact congrArg Host.Outcome.next (issue_gives e (by rw [legal]; rfl) rfl)

/-- SALUI with a code above 12, or a shift by more than 63, loses the context with cause 0x02. -/
theorem exec_salui_illegal {sub : BitVec 6} (e : s.Issuing h c) (plain : h.rsv = false) (illegal : saluiBad sub imm = true) :
    exec (.salui h sub rd ra imm) s = .next (s.lose c 0x02 (some h.core.val) (s.core h.core.val).pc) := by
  rw [exec_salui]
  exact congrArg Host.Outcome.next (issue_illegal e plain (by rw [illegal]; rfl))

/-- MOVI writes the sign-extended immediate. -/
theorem exec_movi_executes (e : s.Executes h c { regs := [rd] }) :
    exec (.movi h rd imm) s = .next (s.after h fun k => k.wr rd (imm.signExtend 64)) :=
  congrArg Host.Outcome.next (issue_gives e rfl rfl)

/-- MOVHI replaces the upper half of its register. -/
theorem exec_movhi_executes (e : s.Executes h c { regs := [rd] }) :
    exec (.movhi h rd imm) s = .next (s.after h fun k => k.wr rd (imm ++ ((s.core h.core.val).rd rd).truncate 32)) :=
  congrArg Host.Outcome.next (issue_gives e rfl rfl)

/-- CMP writes the result of its condition. -/
theorem exec_cmp_executes (code : Fin 6) (e : s.Executes h c { regs := [ra, rb], preds := [pd] }) :
    exec (.cmp h (BitVec.ofNat 6 code) pd ra rb) s =
      .next (s.after h fun k =>
        k.pw pd ((condResults ((s.core h.core.val).rd ra) ((s.core h.core.val).rd rb)).getD code false)) := by
  rw [exec_cmp, ← condOf_eq]
  exact congrArg Host.Outcome.next (issue_gives e (cond_legal code) rfl)

/-- CMPI writes the result of its condition, of g[RA] and the sign-extended immediate. -/
theorem exec_cmpi_executes (code : Fin 6) (e : s.Executes h c { regs := [ra], preds := [pd] }) :
    exec (.cmpi h (BitVec.ofNat 6 code) pd ra imm) s =
      .next (s.after h fun k => k.pw pd ((condResults ((s.core h.core.val).rd ra) (imm.signExtend 64)).getD code false)) := by
  rw [exec_cmpi, ← condOf_eq]
  exact congrArg Host.Outcome.next (issue_gives e (cond_legal code) rfl)

/-- A PLOG instruction writes the value of its operation; one that leaves PB unused has zero there. -/
theorem exec_plog {f : Bool → Bool → Bool} {one : Bool} (means : exec i s = plog f one h pd pa pb s)
    (e : s.Executes h c { preds := [pd, pa, pb] }) (legal : (one && pb != 0) = false)
    (value : f ((s.core h.core.val).pr pa) ((s.core h.core.val).pr pb) = b) :
    exec i s = .next (s.after h fun k => k.pw pd b) := by
  rw [means, ← value]
  exact congrArg Host.Outcome.next (issue_gives e (by rw [legal]; rfl) rfl)

end Writes

/-! ### SALU words -/

/-- A SALU word of a listed SUB with its reserved bits zero decodes to the operation of that SUB (`06` R136, R137). -/
theorem decodeOp_salu (g : Bool → Issue) (x y : Nat) (listed : x < 18 * 2 ^ 48) (rsv : x % 2 ^ 33 = 0) :
    decodeOp g 0 x y = some (([.add, .sub, .and, .or, .xor, .andn, .shl, .shr, .sra, .min, .minu, .max, .maxu, .mul, .mulh,
      .mulhu, .div, .divu] : List (Issue → BitVec 5 → BitVec 5 → BitVec 5 → Instr)).getD (x / 2 ^ 48) .add (g false)
      (BitVec.ofNat 5 (x / 2 ^ 43)) (BitVec.ofNat 5 (x / 2 ^ 38)) (BitVec.ofNat 5 (x / 2 ^ 33))) := by
  have field (n : Nat) : bv 5 (n % 2 ^ 5) = BitVec.ofNat 5 n := BitVec.eq_of_toNat_eq (by simp)
  have sub : x / 2 ^ 48 % 2 ^ 6 = x / 2 ^ 48 := Nat.mod_eq_of_lt (by omega)
  have legal : (x / 2 ^ 0 % 2 ^ 33 != 0 || decide (17 < x / 2 ^ 48)) = false := by
    simp only [pow_zero, Nat.div_one, rsv, bne_self_eq_false, Bool.false_or, decide_eq_false_iff_not]
    omega
  rw [← field (x / 2 ^ 43), ← field (x / 2 ^ 38), ← field (x / 2 ^ 33), ← legal, ← sub]
  rfl

end Sys2Proof.Machine

open Sys2Proof.Machine

/-- Settles O1: SALU's words by their SUB field, then the value of each operation, and SALUI's illegal codes. -/
theorem scalarOperations : Obligations.ScalarOperations := by
  unfold Obligations.ScalarOperations
  refine ⟨fun g x => decodeOp_salu g x 0, fun s h c rd ra rb e => ?salu, fun s h c rd ra imm e w => ?salui,
    fun s h c sub rd ra imm e plain bad => exec_salui_illegal e plain ?illegal⟩
  case salu =>
    exact ⟨exec_salu (exec_add ..) e rfl, exec_salu (exec_sub ..) e rfl, exec_salu (exec_and ..) e rfl,
      exec_salu (exec_or ..) e rfl, exec_salu (exec_xor ..) e rfl, exec_salu (exec_andn ..) e rfl,
      exec_salu (exec_shl ..) e rfl, exec_salu (exec_shr ..) e rfl, exec_salu (exec_sra ..) e rfl,
      exec_salu (exec_min ..) e (aluMin_eq ..), exec_salu (exec_minu ..) e (aluMinu_eq ..),
      exec_salu (exec_max ..) e (aluMax_eq ..), exec_salu (exec_maxu ..) e (aluMaxu_eq ..),
      exec_salu (exec_mul ..) e rfl, exec_salu (exec_mulh ..) e rfl, exec_salu (exec_mulhu ..) e rfl,
      exec_salu (exec_div ..) e rfl, exec_salu (exec_divu ..) e rfl⟩
  case salui =>
    refine ⟨exec_movi_executes w, exec_movhi_executes w, exec_salui_legal e rfl rfl, exec_salui_legal e rfl rfl,
      exec_salui_legal e rfl rfl, exec_salui_legal e rfl rfl, exec_salui_legal e rfl rfl, exec_salui_legal e rfl rfl,
      fun small => ?shifts, exec_salui_legal e rfl (aluMin_eq ..), exec_salui_legal e rfl (aluMinu_eq ..),
      exec_salui_legal e rfl (aluMax_eq ..), exec_salui_legal e rfl (aluMaxu_eq ..)⟩
    have legal : decide (63 < imm.toNat) = false := decide_eq_false (by omega)
    exact ⟨exec_salui_legal e legal (congrArg (_ <<< ·) (fld_imm32 small)),
      exec_salui_legal e legal (congrArg (_ >>> ·) (fld_imm32 small)),
      exec_salui_legal e legal (congrArg (BitVec.sshiftRight _) (fld_imm32 small))⟩
  case illegal => simpa [saluiBad, and_assoc] using bad

/-- Settles O2: the value that each instruction writes, and the write and the read of g0 and p0. -/
theorem movesAndPredicates : Obligations.MovesAndPredicates := by
  unfold Obligations.MovesAndPredicates
  intro s h c rd ra rb imm pd pa pb k cond gives
  refine ⟨fun e => ⟨exec_movi_executes e, exec_movhi_executes e⟩,
    fun code => ⟨exec_cmp_executes code, exec_cmpi_executes code⟩, fun e => ?two, fun e => ?one,
    fun k v b => ⟨rfl, rfl, rfl, rfl⟩⟩
  case two =>
    exact ⟨exec_plog (exec_pand ..) e rfl rfl, exec_plog (exec_por ..) e rfl rfl, exec_plog (exec_pxor ..) e rfl rfl,
      exec_plog (exec_pandn ..) e rfl rfl⟩
  case one => exact ⟨exec_plog (exec_pmov ..) e rfl rfl, exec_plog (exec_pnot ..) e rfl rfl⟩
end

section
/-! Major opcodes: those that are listed decode to their instruction, every other loses the context (`06` R135). -/

open Sys2Proof

namespace Sys2Proof.Machine

/-- A decoder answers an instruction, and it is not the one of an unassigned opcode. -/
def Ordinary (d : Option Instr) : Prop := ∃ i, d = some i ∧ ∀ h o, i ≠ .unassignedMajorOpcode h o

/-- A field that selects a constructor from a list, or the first one where the list has no entry, selects an ordinary
instruction when each of them is one. -/
theorem ordinary_getD {β : Type} {l : List β} {d : β} (build : β → Instr) (n : Nat)
    (all : ∀ f ∈ d :: l, ∀ h o, build f ≠ .unassignedMajorOpcode h o) : Ordinary (some (build (l.getD n d))) := by
  refine ⟨_, rfl, all _ ?_⟩
  rcases Nat.lt_or_ge n l.length with inside | outside
  · rw [List.getD_eq_getElem _ _ inside]; exact List.mem_cons_of_mem _ (List.getElem_mem inside)
  · rw [List.getD_eq_default _ _ outside]; exact List.mem_cons_self

/-- A field that selects one of two constructors. -/
theorem ordinary_ite {β : Type} {p : Prop} [Decidable p] {f g : β} (build : β → Instr)
    (left : ∀ h o, build f ≠ .unassignedMajorOpcode h o) (right : ∀ h o, build g ≠ .unassignedMajorOpcode h o) :
    Ordinary (some (build (if p then f else g))) := by
  split
  · exact ⟨_, rfl, left⟩
  · exact ⟨_, rfl, right⟩

section Formats

/-! The formats whose SUB field selects the constructor. -/

variable (g : Bool → Issue) (x : Nat)

theorem dSalu_ordinary : Ordinary (dSalu g x) :=
  ordinary_getD (fun f : Issue → BitVec 5 → BitVec 5 → BitVec 5 → Instr => f _ _ _ _) _ (by simp)
theorem dMovi_ordinary : Ordinary (dMovi g x) :=
  ordinary_ite (fun f : Issue → BitVec 5 → BitVec 32 → Instr => f _ _ _) (by simp) (by simp)
theorem dPlog_ordinary : Ordinary (dPlog g x) :=
  ordinary_getD (fun f : Issue → BitVec 3 → BitVec 3 → BitVec 3 → Instr => f _ _ _ _) _ (by simp)
theorem dBr_ordinary : Ordinary (dBr g x) :=
  ordinary_ite (fun f : Issue → BitVec 5 → BitVec 32 → Instr => f _ _ _) (by simp) (by simp)
theorem dBrr_ordinary : Ordinary (dBrr g x) :=
  ordinary_ite (fun f : Issue → BitVec 5 → BitVec 5 → Instr => f _ _ _) (by simp) (by simp)
theorem dVop_ordinary : Ordinary (dVop g x) := by
  simp only [dVop, unpack, fVop]
  split
  · exact ordinary_ite (fun f : Issue → VOp → Instr => f _ _) (by simp) (by simp)
  · exact ordinary_getD (fun f : Issue → VOp → Instr => f _ _) _ (by simp)
theorem dVun_ordinary : Ordinary (dVun g x) :=
  ordinary_getD (fun f : Issue → VUn → Instr => f _ _) _ (by simp)
theorem dVbx_ordinary : Ordinary (dVbx g x) :=
  ordinary_getD (fun f : Issue → VBx → Instr => f _ _) _ (by simp)
theorem dVrng_ordinary : Ordinary (dVrng g x) :=
  ordinary_getD (fun f : Issue → VRng → Instr => f _ _) _ (by simp)
theorem dRsum_ordinary : Ordinary (dRsum g x) :=
  ordinary_getD (fun f : Issue → RFmt → Instr => f _ _) _ (by simp)
theorem dRsel_ordinary : Ordinary (dRsel g x) :=
  ordinary_getD (fun f : Issue → RFmt → Instr => f _ _) _ (by simp)
theorem dRing_ordinary : Ordinary (dRing g x) :=
  ordinary_ite (fun f : Issue → BitVec 8 → Instr => f _ _) (by simp) (by simp)
theorem dWin_ordinary : Ordinary (dWin g x) :=
  ordinary_ite (fun f : Issue → BitVec 5 → Instr => f _ _) (by simp) (by simp)
theorem dFence_ordinary : Ordinary (dFence g x) :=
  ordinary_getD (fun f : Issue → FenceF → Instr => f _ _) _ (by simp)
theorem dSys_ordinary : Ordinary (dSys g x) :=
  ordinary_getD (fun f : Issue → BitVec 5 → BitVec 5 → Instr => f _ _ _) _ (by simp)

end Formats

/-- The arms of the decoder are those of the listed opcodes, each of them ordinary, and the last one for the rest. -/
theorem decodeOp_cases (g : Bool → Issue) (op x y : Nat) :
    assigned op = true ∧ Ordinary (decodeOp g op x y) ∨
      assigned op = false ∧ decodeOp g op x y = some (.unassignedMajorOpcode (g false) (bv 6 op)) := by
  unfold decodeOp
  split
  case h_44 =>
    refine .inr ⟨?_, rfl⟩
    simp only [assigned, imp_false, Bool.or_eq_false_iff, Bool.and_eq_false_iff, decide_eq_false_iff_not] at *
    omega
  all_goals refine .inl ⟨rfl, ?_⟩
  case h_1 => exact dSalu_ordinary g x
  case h_3 => exact dMovi_ordinary g x
  case h_6 => exact dPlog_ordinary g x
  case h_9 => exact dBr_ordinary g x
  case h_10 => exact dBrr_ordinary g x
  case h_11 => exact dVop_ordinary g x
  case h_12 => exact dVun_ordinary g x
  case h_16 => exact dVbx_ordinary g x
  case h_17 => exact dVrng_ordinary g x
  case h_26 => exact dRsum_ordinary g x
  case h_27 => exact dRsel_ordinary g x
  case h_37 => exact dRing_ordinary g x
  case h_38 => exact dWin_ordinary g x
  case h_41 => exact dFence_ordinary g x
  case h_43 => exact dSys_ordinary g x
  all_goals exact ⟨_, rfl, nofun⟩

/-- The common fields of an instruction, from its first word and whether an illegal bit is set (`06` R132). -/
def commonFields (core : Fin 512) (x : Nat) (rsv : Bool) : Issue :=
  { core := core, pred := bv 3 (x / 2 ^ 55 % 2 ^ 3), pneg := bb (x / 2 ^ 54 % 2 ^ 1), rsv := rsv }

/-- A first word is its major opcode, its common fields and the bits of its format (`06` R132). -/
theorem decodeWord_eq (core : Fin 512) {x : Nat} (y : Nat) (word : x < 2 ^ 64) :
    decodeWord core x y = decodeOp (commonFields core x) (x / 2 ^ 58) (x % 2 ^ 54) y := by
  have opcode : x / 2 ^ 58 % 2 ^ 6 = x / 2 ^ 58 := Nat.mod_eq_of_lt (by omega)
  have bits : x / 2 ^ 0 % 2 ^ 54 = x % 2 ^ 54 := by rw [pow_zero, Nat.div_one]
  rw [← opcode, ← bits]
  rfl

/-- A word with an unassigned opcode loses the context with cause 0x01 on a core that is about to issue (`06` R135). -/
theorem exec_unassigned {s : State} {h : Issue} {c : Nat} {op : BitVec 6} (e : s.Issuing h c) (free : assigned op.toNat = false) :
    exec (.unassignedMajorOpcode h op) s = .next (s.lose c 0x01 (some h.core.val) (s.core h.core.val).pc) := by
  rw [exec_unassignedMajorOpcode]
  unfold execUnassignedMajorOpcode badWord
  simp only [free, e.aligned, e.holds, e.issues, Bool.false_eq_true, if_false, if_true]

end Sys2Proof.Machine

open Sys2Proof.Machine

/-- Settles O58: the decoder's arms, listed or not, and the loss that a word of the last arm brings. -/
theorem majorOpcodes : Obligations.MajorOpcodes := by
  unfold Obligations.MajorOpcodes
  intro core x y word op listed
  have listed_iff : assigned op = true ↔ listed := by simp [assigned, listed, or_assoc]
  rw [decodeWord_eq core y word, ← listed_iff]
  rcases decodeOp_cases (commonFields core x) op (x % 2 ^ 54) y with
    ⟨isListed, i, decoded, ordinary⟩ | ⟨unlisted, decoded⟩
  · exact ⟨i, decoded, fun _ => ordinary, fun un => absurd isListed un⟩
  · refine ⟨_, decoded, fun isListed => absurd isListed (by simp [unlisted]), fun _ => ⟨_, rfl, rfl, fun s c e => ?_⟩⟩
    have opcode : (bv 6 op).toNat = op := Nat.mod_eq_of_lt (by omega)
    exact exec_unassigned e (by rw [opcode, unlisted])
end

section
/-! What every step keeps, and memories in canonical form. -/

open Sys2Proof

namespace Sys2Proof.Machine

/-- Every step answers, and keeps the canonical form and what only advances of the state with its command taken. -/
theorem step_keeps (s : State) : ∃ t, step s = .next t ∧ Keeps { s with pending := s.pending.tail } t := by
  unfold step
  cases waiting : s.pending with
  | nil =>
    refine ⟨_, rfl, State.tick_keeps ?_⟩
    have same : { s with pending := [] } = s := by rw [← waiting]
    exact same ▸ Keeps.refl s
  | cons c rest => exact exec_keeps c (Keeps.refl { s with pending := rest })

/-- What a step from `s` to `t` keeps. -/
theorem keeps_of_step {s t : State} (stepped : step s = .next t) : Keeps { s with pending := s.pending.tail } t := by
  obtain ⟨u, answered, keeps⟩ := step_keeps s
  cases answered.symm.trans stepped
  exact keeps

/-- The canonical form speaks of memories and registers alone, whatever waits in the queue. -/
theorem canonical_of_pending {s : State} (queue : List Instr) (c : s.Canonical) : { s with pending := queue }.Canonical :=
  ⟨c.mem, c.host, c.pool, c.coord, c.cores⟩

end Sys2Proof.Machine

open Sys2Proof.Machine

/-- Settles O52: what a step keeps, from the lemmas of every command. -/
theorem stepsKeepCanonicalForm : Obligations.StepsKeepCanonicalForm := by
  unfold Obligations.StepsKeepCanonicalForm
  intro s t canonical stepped
  exact (keeps_of_step stepped).canonical (canonical_of_pending _ canonical)

/-- Settles O53: what a step keeps, from the lemmas of every command. -/
theorem nothingGoesBack : Obligations.NothingGoesBack := by
  unfold Obligations.NothingGoesBack
  intro s t stepped
  exact (keeps_of_step stepped).oneWay

/-- Settles O49: every command answers a next state, and so does the step without one. -/
theorem everyStepAnswers : Obligations.EveryStepAnswers := by
  unfold Obligations.EveryStepAnswers State.runs
  intro s
  obtain ⟨t, answered, -⟩ := step_keeps s
  exact ⟨t, answered⟩

/-- Settles O54: canonical tables that read alike are the same data. -/
theorem canonicalMemoriesAreEqual : Obligations.CanonicalMemoriesAreEqual := by
  unfold Obligations.CanonicalMemoriesAreEqual Memory.wf
  exact Tab.ext

/-- Settles O48: the two arms of a step. -/
theorem stepRunsFront : Obligations.StepRunsFront := by
  unfold Obligations.StepRunsFront
  refine fun s c rest => ⟨rfl, fun idle => ?_⟩
  unfold step
  rw [idle]

end

section
/-! The state after reset, and words written out. -/

open Sys2Proof Sys2Proof.Machine

/-- Settles O51: the memories and the table of cores are empty. -/
theorem resetIsCanonical : Obligations.ResetIsCanonical := by
  unfold Obligations.ResetIsCanonical
  exact ⟨rfl, rfl, rfl, rfl, fun _ listed => absurd listed List.not_mem_nil⟩

/-- Settles O50: each part as `State.reset` writes it; a table without entries reads as its default. -/
theorem resetValues : Obligations.ResetValues := by
  unfold Obligations.ResetValues
  refine ⟨rfl, rfl, fun n => ⟨rfl, rfl, rfl, rfl⟩, fun n => rfl, fun n => rfl, fun n => rfl, fun n => rfl, fun n => rfl, rfl, rfl,
    rfl, rfl, rfl, fun a n => ?_, fun n => rfl, rfl⟩
  rw [show State.reset.mem = [] from rfl]
  simp [bytesAt]

/-- Settles O57: the decoder computes each instruction. -/
theorem wordsWrittenOut : Obligations.WordsWrittenOut := by
  unfold Obligations.WordsWrittenOut
  exact ⟨rfl, rfl, rfl, rfl, rfl, rfl⟩
end

section
/-! Bytes of the memories: what a write in the D- or L-tier and a scrub change, and what they leave. -/

open Sys2Proof

namespace Sys2Proof.Machine

/-! ### Writes of the D- and L-tier (`07` R158, R174) -/

/-- The memories, the cores with their stores, and the ordering code, which says what a device address reaches. -/
def State.data (s : State) : Tab Byte × Tab Byte × Tab Byte × Tab Core × OrdCode :=
  (s.mem, s.hostMem, s.poolMem, s.cores, s.code)

/-- A fold of an operation that leaves the data. -/
theorem data_foldl {α : Type} {f : State → α → State} (leaves : ∀ s x, (f s x).data = s.data) (l : List α) (s : State) :
    (l.foldl f s).data = s.data := by
  induction l generalizing s with
  | nil => rfl
  | cons x l ih => exact (ih (f s x)).trans (leaves s x)

@[simp] theorem data_bumpAt (s : State) (ctl off n : Nat) : (s.bumpAt ctl off n).data = s.data := by rw [bumpAt_eq]; rfl
@[simp] theorem data_bump (s : State) (base i n : Nat) : (s.bump base i n).data = s.data := data_bumpAt ..
@[simp] theorem data_dropRun (s : State) (da n : Nat) : (s.dropRun da n).data = s.data := by
  unfold State.dropRun; split <;> rfl
@[simp] theorem data_dropHost (s : State) (da n : Nat) : (s.dropHost da n).data = s.data := by
  unfold State.dropHost; split <;> rfl
@[simp] theorem data_startJob (s : State) (t : Nat) : (s.startJob t).data = s.data := by
  unfold State.startJob; split
  · rfl
  · split <;> rfl
@[simp] theorem data_queueRekey (s : State) (c : Nat) : (s.queueRekey c).data = s.data := by
  unfold State.queueRekey
  simp only
  split
  · rfl
  · split
    · rfl
    · split
      · rfl
      · exact data_foldl data_startJob _ _
@[simp] theorem data_majorDue (s : State) (page : Nat) (m : Option Nat) : (s.majorDue page m).data = s.data := by
  unfold State.majorDue
  split
  · rfl
  · split
    · exact data_queueRekey ..
    · rfl
@[simp] theorem data_countLine (s : State) (line : Nat) (m : Option Nat) : (s.countLine line m).data = s.data := by
  unfold State.countLine
  simp only
  split
  · rfl
  · cases m with
    | none => exact data_majorDue ..
    | some m => exact (data_majorDue ..).trans (data_bump ..)
@[simp] theorem data_countLines (s : State) (da n : Nat) (m : Option Nat) : (s.countLines da n m).data = s.data :=
  data_foldl (fun _ _ => data_countLine ..) _ _
@[simp] theorem data_writeBack (s : State) (m u : Nat) : (s.writeBack m u).data = s.data := by
  unfold State.writeBack State.storeUnit
  simp only
  split <;> rfl
@[simp] theorem data_holdUnit (m k u : Nat) (s : State) : (State.holdUnit m k s u).data = s.data := by
  induction k generalizing s u with
  | zero => rfl
  | succ k ih =>
    unfold State.holdUnit
    simp only
    have missed : ((State.holdUnit m k s (parentUnit u)).bump (regMcry m) 4 1).data = s.data :=
      (data_bump ..).trans (ih ..)
    split
    · rfl
    · split
      · rfl
      · split
        · exact missed
        · split
          · exact (data_writeBack ..).trans ((ih ..).trans missed)
          · exact missed
@[simp] theorem data_holdLines (s : State) (m o n : Nat) : (s.holdLines m o n).data = s.data :=
  data_foldl (fun _ _ => data_holdUnit ..) _ _
@[simp] theorem data_markDirty (s : State) (m o n : Nat) : (s.markDirty m o n).data = s.data := data_holdLines s m o n

/-- A write of the D- or L-tier changes the bytes of its memory, and no other data. -/
theorem data_writeDa {s : State} {da : Nat} (b : List Byte) (tier : (∃ c, s.space da = .d c) ∨ ∃ m, s.space da = .l m) :
    (s.writeDa da b).data = ({ s with mem := putBytes s.mem da b } : State).data := by
  unfold State.writeDa
  simp only
  split
  · next empty => rw [List.length_eq_zero_iff.1 empty]; rfl
  · rcases tier with ⟨c, tier⟩ | ⟨m, tier⟩ <;> simp only [tier]
    · rw [data_foldl (fun _ _ => data_bumpAt ..), data_dropHost, data_dropRun]
    · rw [data_foldl (fun _ _ => data_bumpAt ..), data_markDirty, data_countLines, data_dropHost, data_dropRun]

/-- What a device address reaches rests on the ordering code alone. -/
theorem space_of_code {s t : State} (same : t.code = s.code) (da : Nat) : t.space da = s.space da := by
  unfold State.space State.dieFitted State.lSize
  rw [same]

/-- A read of the D- or L-tier is of the bytes of its memory. -/
theorem readDa_tier {s : State} {da : Nat} (n : Nat) (tier : (∃ c, s.space da = .d c) ∨ ∃ m, s.space da = .l m) :
    s.readDa da n = bytesAt s.mem da n := by
  unfold State.readDa
  rcases tier with ⟨c, tier⟩ | ⟨m, tier⟩ <;> simp only [tier]

/-! ### Scrubs (`16` R403) -/

/-- What a key reads as once the keys for which `p` holds are gone. -/
theorem get_drop {α : Type} (d : α) (t : Tab α) (p : Nat → Bool) (k : Nat) :
    Tab.get d (Tab.drop t p) k = if p k then d else Tab.get d t k := by
  unfold Tab.drop
  induction t with
  | nil => simp
  | cons e t ih =>
    obtain ⟨a, v⟩ := e
    rw [List.filter_cons, Tab.get]
    by_cases same : a = k
    · subst same
      cases dropped : p a <;> simp [Tab.get, ih, dropped]
    · cases dropped : p a <;> simp [Tab.get, ih, same]

end Sys2Proof.Machine

open Sys2Proof.Machine

/-- Settles O21: the write changes the bytes of the tier's memory alone, and these read as they were put. -/
theorem memoryBytes : Obligations.MemoryBytes := by
  unfold Obligations.MemoryBytes
  intro s da x b canonical tier t
  have changed : t.data = _ := data_writeDa b tier
  simp only [State.data, Prod.mk.injEq] at changed
  obtain ⟨mem, host, pool, cores, code⟩ := changed
  have tier' : (∃ c, t.space da = .d c) ∨ ∃ m, t.space da = .l m := by rwa [space_of_code code]
  refine ⟨?_, fun outside => ?_, host, pool, cores, ?_⟩
  · rw [readDa_tier _ tier', mem]
    exact bytesAt_putBytes _ _ _ canonical
  · rw [mem]
    exact get_putBytes_outside _ _ _ _ outside
  · rw [mem]
    exact wf_putBytes _ _ _ canonical

/-- Settles O24: the addresses of the granules are those whose entries go. -/
theorem scrubIsZero : Obligations.ScrubIsZero := by
  unfold Obligations.ScrubIsZero State.wipeBytes
  intro s g n x
  simp [get_drop]
end

section
/-! Elements of the slots of a core: what a slot written with results reads as, and how integer results saturate. -/

open Sys2Proof

namespace Sys2Proof.Machine

/-! ### Packed elements (`05` R114) -/

/-- The bits of elements of `w` bits, element 0 lowest. -/
def packed (w : Nat) (l : List Nat) : Nat := Nat.ofDigits (2 ^ w) (l.map (· % 2 ^ w))

theorem packed_digit_lt {w : Nat} {l : List Nat} : ∀ x ∈ l.map (· % 2 ^ w), x < 2 ^ w := by
  simp only [List.mem_map]
  rintro _ ⟨y, -, rfl⟩
  exact Nat.mod_lt _ (Nat.two_pow_pos w)

/-- The fold that packs the elements from place `j` on adds their bits at that place. -/
theorem packFold_eq (w : Nat) (l : List Nat) (j a : Nat) :
    (l.zipIdx j).foldl (fun a p => a + p.1 % 2 ^ w * 2 ^ (w * p.2)) a = a + 2 ^ (w * j) * packed w l := by
  induction l generalizing j a with
  | nil => simp [packed]
  | cons x l ih =>
    have next : 2 ^ (w * (j + 1)) = 2 ^ (w * j) * 2 ^ w := by rw [Nat.mul_succ, pow_add]
    rw [List.zipIdx_cons, List.foldl_cons, ih, next]
    simp only [packed, List.map_cons, Nat.ofDigits_cons]
    ring

/-- The bits of the elements fit their places. -/
theorem packed_lt {w : Nat} (wide : 0 < w) (l : List Nat) : packed w l < 2 ^ (w * l.length) := by
  have := Nat.ofDigits_lt_base_pow_length (Nat.one_lt_two_pow wide.ne') (packed_digit_lt (w := w) (l := l))
  rwa [List.length_map, ← pow_mul] at this

/-- Element `i` of the packed bits. -/
theorem packed_elem (w : Nat) (l : List Nat) {i : Nat} (inside : i < l.length) :
    packed w l / 2 ^ (w * i) % 2 ^ w = l[i] % 2 ^ w := by
  rw [packed, pow_mul, Nat.ofDigits_div_pow_eq_ofDigits_drop _ (Nat.two_pow_pos w) _ packed_digit_lt,
    List.drop_eq_getElem_cons (by simpa using inside), Nat.ofDigits_cons]
  simp

/-- The number of the bytes that elements are packed into. -/
theorem leNat_packElems {w : Nat} (wide : 0 < w) (l : List Nat) : leNat (packElems w l) = packed w l := by
  unfold packElems
  rw [packFold_eq, leNat_leBytes]
  have fits : packed w l < 256 ^ ((w * l.length + 7) / 8) := by
    rw [show 256 = 2 ^ 8 from rfl, ← pow_mul]
    exact (packed_lt wide l).trans_le (Nat.pow_le_pow_right (by norm_num) (by omega))
  simpa using Nat.mod_eq_of_lt fits

/-- Elements packed into whole bytes read as they were, modulo their width. -/
theorem elems_packElems {w n : Nat} {l : List Nat} (wide : 0 < w) (whole : w * l.length = 8 * n) :
    elems w (packElems w l) = l.map (· % 2 ^ w) := by
  have bytes : (packElems w l).length = n := by rw [packElems, leBytes_length]; omega
  have count : 8 * n / w = l.length := by rw [← whole]; exact Nat.mul_div_cancel_left _ wide
  unfold elems
  simp only [leNat_packElems wide, bytes, count]
  exact List.ext_getElem (by simp) fun i inside _ => by
    simpa using packed_elem w l (i := i) (by simpa using inside)

/-! ### Slots (`02` R34) -/

@[simp] theorem bytesAt_length (t : Tab Byte) (a n : Nat) : (bytesAt t a n).length = n := by simp [bytesAt]

/-- A range of a memory that a write does not touch reads as before. -/
theorem bytesAt_putBytes_apart (t : Tab Byte) (a o n : Nat) (b : List Byte) (apart : o + n ≤ a ∨ a + b.length ≤ o) :
    bytesAt (putBytes t a b) o n = bytesAt t o n := by
  refine List.map_congr_left fun i inside => get_putBytes_outside _ _ _ _ ?_
  have := List.mem_range.1 inside
  omega

/-- A slot written whole reads as its elements. -/
theorem slot_putSlot_self {k : Core} {w : Nat} (d : Nat) {l : List Nat} (canonical : Tab.wf 0 k.store = true) (wide : 0 < w)
    (whole : w * l.length = 2048) : (k.putSlot w d l).slot w d = l.map (· % 2 ^ w) := by
  have bytes : (packElems w l).length = 256 := by rw [packElems, leBytes_length]; omega
  have back : (k.putSlot w d l).bytes (slotOff d) 256 = packElems w l := by
    rw [← bytes]; exact bytesAt_putBytes _ _ _ canonical
  rw [Core.slot, back]
  exact elems_packElems (n := 256) wide (by omega)

/-- The other slots read as before, in elements of any width. -/
theorem slot_putSlot_ne {k : Core} {w d e : Nat} (v : Nat) {l : List Nat} (whole : w * l.length ≤ 2048) (other : e ≠ d) :
    (k.putSlot w d l).slot v e = k.slot v e := by
  have bytes : (packElems w l).length ≤ 256 := by rw [packElems, leBytes_length]; omega
  unfold Core.slot
  refine congrArg (elems v) (bytesAt_putBytes_apart _ _ _ _ _ ?_)
  unfold slotOff
  omega

/-! ### Integer results (`05` R117) -/

/-- The bits of an integer are its remainder. -/
theorem ofIntBits_eq (w : Nat) (x : Int) : (ofIntBits w x : Int) = x % 2 ^ w := by
  have := Int.emod_nonneg x (b := ((2 ^ w : Nat) : Int)) (by simp)
  unfold ofIntBits
  rw [Int.toNat_of_nonneg this, Nat.cast_pow, Nat.cast_ofNat]

theorem ofIntBits_lt (w : Nat) (x : Int) : ofIntBits w x < 2 ^ w := by
  have := Int.emod_lt_of_pos x (b := ((2 ^ w : Nat) : Int)) (by simp)
  unfold ofIntBits
  omega

/-- The least value of an integer type. -/
def intLeast (sg : Bool) (w : Nat) : Int := if sg then -(2 ^ (w - 1)) else 0
/-- The greatest value of an integer type. -/
def intMost (sg : Bool) (w : Nat) : Int := if sg then 2 ^ (w - 1) - 1 else 2 ^ w - 1

/-- A value of the type reads back from its bits. -/
theorem readInt_ofIntBits {sg : Bool} {w : Nat} {x : Int} (wide : 0 < w) (least : intLeast sg w ≤ x) (most : x ≤ intMost sg w) :
    readInt sg w (ofIntBits w x) = x := by
  obtain ⟨v, rfl⟩ : ∃ v, w = v + 1 := ⟨w - 1, by omega⟩
  have double : (2 : Int) ^ (v + 1) = 2 ^ v + 2 ^ v := by ring
  have positive : (0 : Int) < 2 ^ v := by positivity
  cases sg with
  | false =>
    simp only [intLeast, intMost, Bool.false_eq_true, if_false] at least most
    rw [readInt, if_neg (by simp), ofIntBits_eq, Int.emod_eq_of_lt least (by omega)]
  | true =>
    simp only [intLeast, intMost, if_true, Nat.add_sub_cancel] at least most
    have bits := ofIntBits_eq (v + 1) x
    rw [readInt, if_pos rfl, toInt, Nat.mod_eq_of_lt (ofIntBits_lt _ _), Nat.add_sub_cancel]
    rcases Int.lt_or_le x 0 with negative | positive
    · have : x % 2 ^ (v + 1) = x + 2 ^ (v + 1) := by
        rw [← Int.add_emod_right, Int.emod_eq_of_lt (by omega) (by omega)]
      rw [this] at bits
      have high : ¬ ofIntBits (v + 1) x < 2 ^ v := by zify; omega
      rw [if_neg high]
      push_cast
      omega
    · rw [Int.emod_eq_of_lt positive (by omega)] at bits
      have low : ofIntBits (v + 1) x < 2 ^ v := by zify; omega
      rw [if_pos low, bits]

theorem intLeast_le_intMost (sg : Bool) (w : Nat) : intLeast sg w ≤ intMost sg w := by
  have half : (0 : Int) < 2 ^ (w - 1) := by positivity
  have whole : (0 : Int) < 2 ^ w := by positivity
  cases sg <;> simp only [intLeast, intMost, Bool.false_eq_true, if_true, if_false] <;> omega

/-- A saturating result by its place among the values of its type. -/
theorem intSat_true (sg : Bool) (w : Nat) (x : Int) : intSat sg true w x =
    if x < intLeast sg w then (ofIntBits w (intLeast sg w), vfl fSAT)
    else if intMost sg w < x then (ofIntBits w (intMost sg w), vfl fSAT) else (ofIntBits w x, 0) := by
  unfold intSat intLeast intMost
  push_cast
  simp

end Sys2Proof.Machine

open Sys2Proof.Machine

/-- Settles O9: 2,048 bits fill the slot that is written, and no byte of another. -/
theorem slotResult : Obligations.SlotResult := by
  unfold Obligations.SlotResult
  intro k w d l canonical width count
  have wide : 0 < w := by omega
  have whole : w * (l.map (·.1)).length = 2048 := by
    rw [List.length_map, count]
    rcases width with rfl | rfl | rfl <;> rfl
  refine ⟨?_, fun e v other => slot_putSlot_ne v whole.le other, rfl, rfl⟩
  have := slot_putSlot_self d canonical wide whole
  rwa [List.map_map] at this

/-- Settles O10: below the type's values, above them, or among them. -/
theorem integerSaturation : Obligations.IntegerSaturation := by
  unfold Obligations.IntegerSaturation
  intro sg w x width
  have wide : 0 < w := by omega
  have nearest : readInt sg w (intSat sg true w x).1 = max (intLeast sg w) (min (intMost sg w) x) ∧
      (intSat sg true w x).2 = if intLeast sg w ≤ x ∧ x ≤ intMost sg w then 0 else vfl fSAT := by
    have range := intLeast_le_intMost sg w
    rw [intSat_true]
    split
    · next below =>
      rw [readInt_ofIntBits wide le_rfl range, if_neg (by omega)]
      exact ⟨by omega, rfl⟩
    · split
      · next above =>
        rw [readInt_ofIntBits wide range le_rfl, if_neg (by omega)]
        exact ⟨by omega, rfl⟩
      · rw [readInt_ofIntBits wide (by omega) (by omega), if_pos (by omega)]
        exact ⟨by omega, rfl⟩
  exact ⟨ofIntBits_lt w x, rfl, ofIntBits_eq w x, nearest⟩
end

section
/-! A sum of squares that its result passes: the exact sum does not stay in ACC. -/

open Sys2Proof

namespace Sys2Proof.Machine

/-- 2¹²⁷, a value of FP32. -/
def hugeTerm : FVal := .fin false 1 127

/-- The square of the term in units of the window of squares, 2⁻¹⁴⁶. -/
theorem units_of_hugeTerm : inUnits (winExp 1) (redTerm 1 hugeTerm).1 = 2 ^ 400 := by decide +kernel

/-- A sum of squares that its result passes uses a free value for what ACC then holds (`05` R124, log 46). -/
theorem redWide_of_le {r : Red} {s : State} (wide : 2 ^ 319 ≤ r.acc) : (redWide 1 r s).2 = (s.free 318).2 := by
  unfold redWide; rw [if_pos ⟨rfl, wide⟩]

/-- The sum of that square from the empty state is above what a result can be. -/
theorem freeCtr_redRun_hugeTerm (s : State) : (redRun 1 {} [hugeTerm] s).2.1.freeCtr = s.freeCtr + 1 := by
  have wide : (2 : Int) ^ 319 ≤ (Red.add {} 1 (redTerm 1 hugeTerm).1).acc := by
    simp only [Red.add, units_of_hugeTerm, Int.zero_add]
    exact pow_le_pow_right₀ (by decide) (by decide)
  have within : ¬ 2 ^ 42 < ({} : Red).count + [hugeTerm].length := by decide
  unfold redRun
  rw [if_neg within]
  exact congrArg State.freeCtr (redWide_of_le wide)

end Sys2Proof.Machine

open Sys2Proof.Machine

/-- Refutes O13: with window 1 the square of 2¹²⁷, 2⁴⁰⁰ units, lies above the greatest result, and the model takes a free
value for what ACC then holds; the state after the sum is not the state before it. -/
theorem not_sumsAreExactInAnyOrder : ¬ Obligations.SumsAreExactInAnyOrder := by
  unfold Obligations.SumsAreExactInAnyOrder
  rintro ⟨-, exact_sum⟩
  obtain ⟨-, -, same⟩ := exact_sum 1 {} [hugeTerm] State.reset (by decide)
  have counted := freeCtr_redRun_hugeTerm State.reset
  rw [same] at counted
  exact absurd counted (Nat.succ_ne_self _).symm
end

section
/-! What a discard leaves in the paddock of its core (`02` R48, R49, R51). -/

open Sys2Proof

namespace Sys2Proof.Machine

/-- The tasks that a discard takes with it include those that it began from. -/
theorem mem_dependents {id : Nat} (ts : List Task) {d : List Nat} (listed : id ∈ d) : id ∈ dependents ts d := by
  induction ts generalizing d with
  | nil => exact listed
  | cons t ts ih =>
    unfold dependents
    refine ih ?_
    split
    · exact List.mem_append_left _ listed
    · exact listed

@[simp] theorem data_bumpCtx (s : State) (kind ctx stream n : Nat) : (s.bumpCtx kind ctx stream n).data = s.data := rfl
@[simp] theorem data_countDraft (s : State) (n : Nat) (h : TaskHdr) : (s.countDraft n h).data = s.data := by
  unfold State.countDraft
  simp only
  split
  · rfl
  · split
    · exact (data_bumpCtx ..).trans ((data_bumpCtx ..).trans (data_bumpCtx ..))
    · exact data_bumpCtx ..
@[simp] theorem data_countToken (s : State) (n : Nat) (h : TaskHdr) (accepted : Bool) :
    (s.countToken n h accepted).data = s.data := by
  unfold State.countToken
  split
  · rfl
  · exact data_bumpCtx ..

/-- A core with the tasks `d` discarded (R48, R49, R51, R55). -/
def Core.discarding (k : Core) (d : List Nat) : Core :=
  { k with
    tasks := k.tasks.map fun t => if d.contains t.id then { t with verdict := .discard } else t
    pad := k.pad.filter fun e => !d.contains e.task
    held := k.held.filter fun e => !d.contains e.task }

/-- What a discard of the tasks `d` of core `n` counts. -/
def State.discardCounts (s : State) (n : Nat) (d : List Nat) : State :=
  ((((s.core n).tasks.filter fun t => d.contains t.id && t.hdr.spec).foldl (fun s t =>
    (if t.verdict == .none then s.countDraft n t.hdr else s).countToken n t.hdr false) s).bumpCore n 4 d.length).bumpCore n 6
      (d.length - 1)

@[simp] theorem data_discardCounts (s : State) (n : Nat) (d : List Nat) : (s.discardCounts n d).data = s.data := by
  unfold State.discardCounts State.bumpCore
  rw [data_bump, data_bump]
  refine data_foldl (fun s t => ?_) _ s
  rw [data_countToken]
  split
  · exact data_countDraft ..
  · rfl

/-- A discard counts, and changes its core. -/
theorem discardTask_eq (s : State) (n id : Nat) : s.discardTask n id =
    let d := dependents (s.core n).tasks [id]
    (s.discardCounts n d).updCore n fun k => k.discarding d := rfl

/-- States with the same data have the same cores. -/
theorem cores_of_data {s t : State} (same : t.data = s.data) : t.cores = s.cores := by
  simp only [State.data, Prod.mk.injEq] at same
  exact same.2.2.2.1
theorem core_of_data {s t : State} (same : t.data = s.data) (n : Nat) : t.core n = s.core n := by
  unfold State.core
  rw [cores_of_data same]

/-- The core of a discard. -/
theorem core_discardTask {s : State} (n id : Nat) (canonical : Tab.wf {} s.cores = true) :
    (s.discardTask n id).core n = (s.core n).discarding (dependents (s.core n).tasks [id]) := by
  have same := data_discardCounts s n (dependents (s.core n).tasks [id])
  rw [discardTask_eq, State.updCore, State.core_setCore _ _ (cores_of_data same ▸ canonical), core_of_data same]

end Sys2Proof.Machine

open Sys2Proof.Machine

/-- Settles O19: the filters of the discard, over the tasks bound to the discarded one. -/
theorem discardClears : Obligations.DiscardClears := by
  unfold Obligations.DiscardClears
  intro s n id canonical d k
  have core : k = (s.core n).discarding d := core_discardTask n id canonical
  rw [core]
  refine ⟨mem_dependents _ List.mem_cons_self, fun e listed => ?_, fun e listed => ?_, fun t listed member => ?_, rfl, rfl⟩
  · simpa using (List.mem_filter.1 listed).2
  · simpa using (List.mem_filter.1 listed).2
  · obtain ⟨u, -, rfl⟩ := List.mem_map.1 listed
    by_cases taken : d.contains u.id
    · rw [if_pos taken]
    · rw [if_neg taken] at member
      exact absurd member (by simpa using taken)
end

section
/-! What a scalar instruction that writes a register leaves (`02` R29, `06` R137, R138). -/

open Sys2Proof

namespace Sys2Proof.Machine

/-- A count leaves the registers but its counter and the word of its wrap bit. -/
theorem reg_bumpAt_ne (s : State) {ctl off n a : Nat} (notCtl : a ≠ ctl) (notOff : a ≠ off) :
    (s.bumpAt ctl off n).reg a = s.reg a := by
  unfold State.bumpAt
  simp only
  split
  · exact Tab.get_set_ne _ _ _ _ notOff
  · exact (Tab.get_set_ne _ _ _ _ notCtl).trans (Tab.get_set_ne _ _ _ _ notOff)

/-- A register write leaves every other register. -/
theorem rd_wr_ne (k : Core) {rd r : BitVec 5} (v : W64) (other : r ≠ rd) : (k.wr rd v).rd r = k.rd r := by
  have apart : r.toNat ≠ rd.toNat := fun same => other (BitVec.eq_of_toNat_eq same)
  unfold Core.wr Core.rd
  split
  · rfl
  · split
    · rfl
    · exact Tab.get_set_ne _ _ _ _ apart

/-- A register write changes the registers alone. -/
theorem wr_eq (k : Core) (rd : BitVec 5) (v : W64) : k.wr rd v = { k with g := (k.wr rd v).g } := by
  unfold Core.wr; split <;> rfl

/-- The other cores stay as they were while one of them executes. -/
theorem core_after_ne {s : State} {h : Issue} {f : Core → Core} {m : Nat} (canonical : Tab.wf {} s.cores = true)
    (other : m ≠ h.core.val) : (s.after h f).core m = s.core m := by
  rw [after_eq _ _ _ canonical]
  exact (Tab.get_set_ne _ _ _ _ other).trans (Tab.get_set_ne _ _ _ _ other)

/-- The core that executed. -/
theorem core_after_self {s : State} {h : Issue} {f : Core → Core} (canonical : Tab.wf {} s.cores = true) :
    (s.after h f).core h.core.val = { f (s.core h.core.val) with pc := s.pcAfter h 1, fresh := false } := by
  rw [after_eq _ _ _ canonical]
  exact Tab.get_set_self _ _ _ (Tab.wf_set _ _ _ canonical)

section Frame

variable {s t : State} {h : Issue} {rd : BitVec 5}

/-- A state after an instruction that has written g[RD] and retired. -/
structure OnlyWrites (s t : State) (h : Issue) (rd : BitVec 5) : Prop where
  others : ∀ m, m ≠ h.core.val → t.core m = s.core m
  registers : ∀ r, r ≠ rd → (t.core h.core.val).rd r = (s.core h.core.val).rd r
  core : t.core h.core.val = { s.core h.core.val with g := (t.core h.core.val).g, pc := s.pcAfter h 1, fresh := false }
  rest : t = { s with cores := t.cores, regs := t.regs }
  counters : ∀ a, a ≠ regCore h.core.val → a ≠ regCore h.core.val + 0x100 → t.reg a = s.reg a

/-- The write of one register, and retirement. -/
theorem onlyWrites_after (v : W64) (canonical : Tab.wf {} s.cores = true) :
    OnlyWrites s (s.after h fun k => k.wr rd v) h rd := by
  have self := core_after_self (h := h) (f := fun k => k.wr rd v) canonical
  refine ⟨fun m other => core_after_ne canonical other, fun r other => ?_, ?_, ?_, fun a notCtl notOff => ?_⟩
  · rw [self]
    exact rd_wr_ne _ v other
  · rw [self, wr_eq]
  · rw [after_eq _ _ _ canonical]
  · rw [after_eq _ _ _ canonical]
    exact reg_bumpAt_ne s notCtl notOff

/-- An instruction that is known to write one register. -/
theorem onlyWrites_of_exec {i : Instr} {v : W64} (canonical : Tab.wf {} s.cores = true)
    (does : exec i s = .next (s.after h fun k => k.wr rd v)) (answers : exec i s = .next t) : OnlyWrites s t h rd := by
  cases does.symm.trans answers
  exact onlyWrites_after v canonical

/-- A SALU instruction writes one register. -/
theorem onlyWrites_of_salu {i : Instr} {c : Nat} {ra rb : BitVec 5} {f : W64 → W64 → W64} (canonical : Tab.wf {} s.cores = true)
    (e : s.Executes h c { regs := [rd, ra, rb] }) (means : exec i s = salu f h rd ra rb s) (answers : exec i s = .next t) :
    OnlyWrites s t h rd :=
  onlyWrites_of_exec canonical (exec_salu means e rfl) answers

end Frame

end Sys2Proof.Machine

open Sys2Proof.Machine

/-- Settles O59: each instruction writes one value to g[RD] and retires. -/
theorem scalarFrame : Obligations.ScalarFrame := by
  unfold Obligations.ScalarFrame
  intro s t h c rd ra rb imm sub n only canonical
  have frame : OnlyWrites s t h rd → only := fun ⟨others, registers, core, rest, counters⟩ =>
    ⟨others, registers, core, rest, counters⟩
  refine ⟨fun e i listed answers => frame ?salu, fun e code small answers => frame ?salui,
    fun e i listed answers => frame ?moves⟩
  case salu =>
    simp only [List.mem_cons, List.not_mem_nil, or_false] at listed
    rcases listed with rfl | rfl | rfl | rfl | rfl | rfl | rfl | rfl | rfl | rfl | rfl | rfl | rfl | rfl | rfl | rfl | rfl | rfl
    · exact onlyWrites_of_salu canonical e (exec_add ..) answers
    · exact onlyWrites_of_salu canonical e (exec_sub ..) answers
    · exact onlyWrites_of_salu canonical e (exec_and ..) answers
    · exact onlyWrites_of_salu canonical e (exec_or ..) answers
    · exact onlyWrites_of_salu canonical e (exec_xor ..) answers
    · exact onlyWrites_of_salu canonical e (exec_andn ..) answers
    · exact onlyWrites_of_salu canonical e (exec_shl ..) answers
    · exact onlyWrites_of_salu canonical e (exec_shr ..) answers
    · exact onlyWrites_of_salu canonical e (exec_sra ..) answers
    · exact onlyWrites_of_salu canonical e (exec_min ..) answers
    · exact onlyWrites_of_salu canonical e (exec_minu ..) answers
    · exact onlyWrites_of_salu canonical e (exec_max ..) answers
    · exact onlyWrites_of_salu canonical e (exec_maxu ..) answers
    · exact onlyWrites_of_salu canonical e (exec_mul ..) answers
    · exact onlyWrites_of_salu canonical e (exec_mulh ..) answers
    · exact onlyWrites_of_salu canonical e (exec_mulhu ..) answers
    · exact onlyWrites_of_salu canonical e (exec_div ..) answers
    · exact onlyWrites_of_salu canonical e (exec_divu ..) answers
  case salui =>
    have legal : saluiBad sub imm = false := by
      unfold saluiBad
      simp only [Bool.or_eq_false_iff, Bool.and_eq_false_iff, decide_eq_false_iff_not]
      omega
    exact onlyWrites_of_exec canonical (exec_salui_legal e legal rfl) answers
  case moves =>
    simp only [List.mem_cons, List.not_mem_nil, or_false] at listed
    rcases listed with rfl | rfl
    · exact onlyWrites_of_exec canonical (exec_movi_executes e) answers
    · exact onlyWrites_of_exec canonical (exec_movhi_executes e) answers
end

section
/-! Words of core instructions: decoding an encoded instruction, and encoding a decoded one (`06` R131–R153). -/

open Sys2Proof

namespace Sys2Proof.Machine

/-- A word of fields fits their widths. -/
theorem pack_lt (ws fs : List Nat) : pack ws fs < 2 ^ ws.sum := by
  induction ws generalizing fs with
  | nil => simp [pack]
  | cons w ws ih =>
    cases fs with
    | nil => simp [pack]
    | cons f fs =>
      have top := Nat.mod_lt f (Nat.two_pow_pos w)
      calc pack (w :: ws) (f :: fs) = f % 2 ^ w * 2 ^ ws.sum + pack ws fs := rfl
        _ < (f % 2 ^ w + 1) * 2 ^ ws.sum := by rw [Nat.add_mul, Nat.one_mul]; exact Nat.add_lt_add_left (ih fs) _
        _ ≤ 2 ^ w * 2 ^ ws.sum := Nat.mul_le_mul_right _ top
        _ = 2 ^ (w :: ws).sum := by rw [List.sum_cons, pow_add]

/-- Bits above the fields are not read. -/
theorem unpack_add (ws : List Nat) (a n : Nat) : unpack ws (a * 2 ^ ws.sum + n) = unpack ws n := by
  induction ws generalizing a with
  | nil => rfl
  | cons w ws ih =>
    have split : a * 2 ^ (w :: ws).sum + n = a * 2 ^ w * 2 ^ ws.sum + n := by rw [List.sum_cons, pow_add, Nat.mul_assoc]
    rw [split, unpack, unpack, ih]
    congr 1
    rw [Nat.add_comm, Nat.add_mul_div_right _ _ (Nat.two_pow_pos _), Nat.add_mul_mod_self_right]

/-- The fields of a packed word, each at its width. -/
theorem unpack_pack {ws fs : List Nat} (count : fs.length = ws.length) :
    unpack ws (pack ws fs) = List.zipWith (fun w f => f % 2 ^ w) ws fs := by
  induction ws generalizing fs with
  | nil => simp [unpack]
  | cons w ws ih =>
    cases fs with
    | nil => simp at count
    | cons f fs =>
      rw [pack, unpack, unpack_add, ih (by simpa using count), List.zipWith_cons_cons, Nat.add_comm,
        Nat.add_mul_div_right _ _ (Nat.two_pow_pos _), Nat.div_eq_of_lt (pack_lt ws fs), Nat.zero_add, Nat.mod_mod]

/-- Packing the fields of a word gives its low bits. -/
theorem pack_unpack (ws : List Nat) (n : Nat) : pack ws (unpack ws n) = n % 2 ^ ws.sum := by
  induction ws with
  | nil => simp [pack, Nat.mod_one]
  | cons w ws ih =>
    rw [unpack, pack, ih, Nat.mod_mod, List.sum_cons, Nat.add_comm w, pow_add, Nat.mod_mul, Nat.mul_comm, Nat.add_comm]

/-- A field of a register, an immediate or a slot reads back. -/
@[simp] theorem bv_field {w : Nat} (x : BitVec w) : bv w (x.toNat % 2 ^ w) = x := by simp
/-- A field of one bit reads back. -/
@[simp] theorem bb_field (b : Bool) : bb (b2n b % 2 ^ 1) = b := by cases b <;> rfl


@[simp] theorem bb_bit (b : Bool) : bb (b2n b % 2) = b := bb_field b
/-- A field of a bit vector's width. -/
@[simp] theorem toNat_field (w n : Nat) : (bv w (n % 2 ^ w)).toNat = n % 2 ^ w := by simp
/-- A field of one bit. -/
@[simp] theorem b2n_field (n : Nat) : b2n (bb (n % 2 ^ 1)) = n % 2 ^ 1 := by
  rcases Nat.mod_two_eq_zero_or_one n with bit | bit <;> simp [bit, b2n]

/-! ### The common fields (`06` R132) -/

/-- A first word: its opcode, common fields and format bits. -/
def firstWord (op : Nat) (h : Issue) (x : Nat) : Nat := pack [6, 3, 1, 54] [op, h.pred.toNat, b2n h.pneg, x]

/-- A word is its opcode, its common fields and its format bits. -/
theorem firstWord_commonFields (core : Fin 512) {x : Nat} (r : Bool) (word : x < 2 ^ 64) :
    firstWord (x / 2 ^ 58) (commonFields core x r) (x % 2 ^ 54) = x := by
  have opcode : x / 2 ^ 58 = x / 2 ^ [3, 1, 54].sum % 2 ^ 6 := (Nat.mod_eq_of_lt (by simp; omega)).symm
  have bits : x % 2 ^ 54 = x / 2 ^ [].sum % 2 ^ 54 := by simp
  have fields : [x / 2 ^ 58, (commonFields core x r).pred.toNat, b2n (commonFields core x r).pneg, x % 2 ^ 54] =
      unpack [6, 3, 1, 54] x := by
    rw [opcode, bits]
    simp only [unpack, commonFields, toNat_field, b2n_field]
    rfl
  rw [firstWord, fields, pack_unpack]
  exact Nat.mod_eq_of_lt word

/-- Encoding is of instructions without a reserved bit, into the common fields and those of the format. -/
theorem enc_eq_some {h : Issue} {op y : Nat} {ws fs : List Nat} {w : Nat × Nat} (encoded : enc op h ws fs y = some w) :
    h.rsv = false ∧ w = (firstWord op h (pack ws fs), y) := by
  unfold enc at encoded
  split at encoded
  · cases encoded
  · next plain => exact ⟨Bool.eq_false_iff.2 plain, (Option.some.inj encoded).symm⟩

/-! ### Decoding an encoded instruction -/

/-- The words `w` decode to `i`, on some core. -/
def Decodes (i : Instr) (w : Nat × Nat) : Prop := w.1 < 2 ^ 64 ∧ w.2 < 2 ^ 64 ∧ ∃ core, decodeWord core w.1 w.2 = some i

/-- An instruction whose format fields its opcode's decoder reads back decodes from its words. -/
theorem decodes_of_enc {make : Issue → Instr} {h : Issue} {op y : Nat} {ws fs : List Nat} {w : Nat × Nat}
    (encoded : enc op h ws fs y = some w) (opcode : op < 2 ^ 6) (second : y < 2 ^ 64) (wide : ws.sum ≤ 54)
    (reads : ∀ g : Bool → Issue, decodeOp g op (pack ws fs) y = some (make (g false))) : Decodes (make h) w := by
  obtain ⟨plain, rfl⟩ := enc_eq_some encoded
  have format : pack ws fs < 2 ^ 54 := (pack_lt ws fs).trans_le (Nat.pow_le_pow_right (by decide) wide)
  have code : op % 2 ^ 6 = op := Nat.mod_eq_of_lt opcode
  refine ⟨pack_lt [6, 3, 1, 54] _, second, h.core, ?_⟩
  rw [decodeWord, firstWord, unpack_pack]
  · simp only [List.zipWith_cons_cons, List.zipWith_nil_left, bv_field, bb_field, code, Nat.mod_eq_of_lt format, -Nat.reducePow]
    rw [reads, ← plain]
  · rfl

/-! ### Operations by their SUB field -/

/-- SALU (`06` R137). -/
def saluOps : List (Issue → BitVec 5 → BitVec 5 → BitVec 5 → Instr) :=
  [.add, .sub, .and, .or, .xor, .andn, .shl, .shr, .sra, .min, .minu, .max, .maxu, .mul, .mulh, .mulhu, .div, .divu]
/-- PLOG (`06` R138). -/
def plogOps : List (Issue → BitVec 3 → BitVec 3 → BitVec 3 → Instr) :=
  [.pand, .por, .pxor, .pandn, .pmov, .pnot]
/-- VOP, VMUL.LO and VMUL apart (`06` R143). -/
def vopOps : List (Issue → VOp → Instr) :=
  [.vadd, .vsub, .vadd, .vmulHi, .vmin, .vmax, .vshl, .vshr, .vshra, .vand, .vor, .vxor, .vandn, .vcmpEq, .vcmpNe, .vcmpLt,
    .vcmpLe, .vany, .vall]
/-- VUN (`06` R143). -/
def vunOps : List (Issue → VUn → Instr) :=
  [.vabs, .vneg, .vnot, .vmov, .vexp2, .vlog2, .vrcp, .vrsq, .vtanh]
/-- VBX (`06` R145). -/
def vbxOps : List (Issue → VBx → Instr) :=
  [.vbxExp, .vbxCvt, .vbxDec]
/-- VRNG (`06` R145). -/
def vrngOps : List (Issue → VRng → Instr) :=
  [.vrng, .vrngU, .vrngSetc, .vrngGetc, .vrngT]
/-- RSUM (`06` R146). -/
def rsumOps : List (Issue → RFmt → Instr) :=
  [.rsum, .rssq, .risum, .rpsumI, .rpsumE]
/-- RSEL (`06` R146). -/
def rselOps : List (Issue → RFmt → Instr) :=
  [.rmax, .rmin, .rargmax, .rargmin]
/-- FENCE (`06` R152). -/
def fenceOps : List (Issue → FenceF → Instr) :=
  [.fenceSignal, .fenceRead, .fenceWait]
/-- SYS (`06` R153). -/
def sysOps : List (Issue → BitVec 5 → BitVec 5 → Instr) :=
  [.sysNop, .sysIflush, .sysSrkey, .sysFlags, .sysId, .sysTime]
/-- SUB 2 of VOP is VMUL for a float type and VMUL.LO otherwise (`06` R143). -/
def vopOf (sub : Nat) (ty : Nat) : Issue → VOp → Instr :=
  if sub = 2 then (if 3 ≤ ty ∧ ty ≤ 5 then .vmul else .vmulLo) else vopOps.getD sub .vadd

theorem vopOf_two_int {ty : Nat} (int : ¬ (3 ≤ ty ∧ ty ≤ 5)) : vopOf 2 ty = .vmulLo := by
  rw [vopOf, if_pos rfl, if_neg int]
theorem vopOf_two_float {ty : Nat} (float : 3 ≤ ty ∧ ty ≤ 5) : vopOf 2 ty = .vmul := by
  rw [vopOf, if_pos rfl, if_pos float]

section Decodes

variable {i : Instr} {h : Issue} {w : Nat × Nat}

/-- A code fits its field. -/
theorem code_field {m n : Nat} (sub : Fin m) (fits : m ≤ 2 ^ n) : sub.val % 2 ^ n = sub.val := Nat.mod_eq_of_lt (by omega)
/-- A code of a table is legal. -/
theorem code_legal {m k : Nat} (sub : Fin m) (top : m ≤ k + 1) : decide (k < sub.val) = false := decide_eq_false (by omega)

theorem salu_decodes {rd ra rb : BitVec 5} (sub : Fin 18) (encoded : encSalu h sub rd ra rb = some w)
    (named : saluOps.getD sub .add h rd ra rb = i) : Decodes i w := by
  subst named
  refine decodes_of_enc (make := fun h => saluOps.getD sub .add h rd ra rb) encoded (by decide) (by decide) (by decide) fun g => ?_
  change dSalu g _ = _
  simp [dSalu, unpack_pack, fSalu, saluOps, -Nat.reducePow, code_field sub (n := 6) (by decide), code_legal sub (k := 17) (by decide)]
theorem plog_decodes {pd pa pb : BitVec 3} (sub : Fin 6) (encoded : encPlog h sub pd pa pb = some w)
    (named : plogOps.getD sub .pand h pd pa pb = i) : Decodes i w := by
  subst named
  refine decodes_of_enc (make := fun h => plogOps.getD sub .pand h pd pa pb) encoded (by decide) (by decide) (by decide) fun g => ?_
  change dPlog g _ = _
  simp [dPlog, unpack_pack, fPlog, plogOps, -Nat.reducePow, code_field sub (n := 6) (by decide), code_legal sub (k := 5) (by decide)]
theorem vop_decodes {f : VOp} (sub : Fin 19) (encoded : encVop h sub f = some w)
    (named : vopOf sub f.ty.toNat h f = i) : Decodes i w := by
  subst named
  refine decodes_of_enc (make := fun h => vopOf sub f.ty.toNat h f) encoded (by decide) (by decide) (by decide) fun g => ?_
  change dVop g _ = _
  simp [dVop, unpack_pack, fVop, vopOf, vopOps, -Nat.reducePow, code_field sub (n := 5) (by decide), code_legal sub (k := 18) (by decide)]
theorem vun_decodes {f : VUn} (sub : Fin 9) (encoded : encVun h sub f = some w)
    (named : vunOps.getD sub .vabs h f = i) : Decodes i w := by
  subst named
  refine decodes_of_enc (make := fun h => vunOps.getD sub .vabs h f) encoded (by decide) (by decide) (by decide) fun g => ?_
  change dVun g _ = _
  simp [dVun, unpack_pack, fVun, vunOps, -Nat.reducePow, code_field sub (n := 5) (by decide), code_legal sub (k := 8) (by decide)]
theorem vbx_decodes {f : VBx} (sub : Fin 3) (encoded : encVbx h sub f = some w)
    (named : vbxOps.getD sub .vbxExp h f = i) : Decodes i w := by
  subst named
  refine decodes_of_enc (make := fun h => vbxOps.getD sub .vbxExp h f) encoded (by decide) (by decide) (by decide) fun g => ?_
  change dVbx g _ = _
  simp [dVbx, unpack_pack, fVbx, vbxOps, -Nat.reducePow, code_field sub (n := 2) (by decide), code_legal sub (k := 2) (by decide)]
theorem vrng_decodes {f : VRng} (sub : Fin 5) (encoded : encVrng h sub f = some w)
    (named : vrngOps.getD sub .vrng h f = i) : Decodes i w := by
  subst named
  refine decodes_of_enc (make := fun h => vrngOps.getD sub .vrng h f) encoded (by decide) (by decide) (by decide) fun g => ?_
  change dVrng g _ = _
  simp [dVrng, unpack_pack, fVrng, vrngOps, -Nat.reducePow, code_field sub (n := 3) (by decide), code_legal sub (k := 4) (by decide)]
theorem rsum_decodes {f : RFmt} (sub : Fin 5) (encoded : encRsum h sub f = some w)
    (named : rsumOps.getD sub .rsum h { f with gidx := 0 } = i) : Decodes i w := by
  subst named
  refine decodes_of_enc (make := fun h => rsumOps.getD sub .rsum h { f with gidx := 0 }) encoded (by decide) (by decide) (by decide) fun g => ?_
  change dRsum g _ = _
  simp [dRsum, unpack_pack, fRsum, rsumOps, -Nat.reducePow, code_field sub (n := 3) (by decide), code_legal sub (k := 4) (by decide)]
theorem rsel_decodes {f : RFmt} (sub : Fin 4) (encoded : encRsel h sub f = some w)
    (named : rselOps.getD sub .rmax h f = i) : Decodes i w := by
  subst named
  refine decodes_of_enc (make := fun h => rselOps.getD sub .rmax h f) encoded (by decide) (by decide) (by decide) fun g => ?_
  change dRsel g _ = _
  simp [dRsel, unpack_pack, fRsel, rselOps, -Nat.reducePow, code_field sub (n := 2) (by decide)]
theorem fence_decodes {f : FenceF} (sub : Fin 3) (encoded : encFence h sub f = some w)
    (named : fenceOps.getD sub .fenceSignal h f = i) : Decodes i w := by
  have legal : (sub.val == 3) = false := beq_eq_false_iff_ne.2 (by omega)
  subst named
  refine decodes_of_enc (make := fun h => fenceOps.getD sub .fenceSignal h f) encoded (by decide) (by decide) (by decide) fun g => ?_
  change dFence g _ = _
  simp [dFence, unpack_pack, fFence, fenceOps, -Nat.reducePow, code_field sub (n := 2) (by decide), legal]
theorem sys_decodes {gd ga : BitVec 5} (sub : Fin 6) (encoded : encSys h sub gd ga = some w)
    (named : sysOps.getD sub .sysNop h gd ga = i) : Decodes i w := by
  subst named
  refine decodes_of_enc (make := fun h => sysOps.getD sub .sysNop h gd ga) encoded (by decide) (by decide) (by decide) fun g => ?_
  change dSys g _ = _
  simp [dSys, unpack_pack, fSys, sysOps, -Nat.reducePow, code_field sub (n := 6) (by decide), code_legal sub (k := 5) (by decide)]

/-! The decoders of the other formats read packed fields back. -/

section Packed

variable (g : Bool → Issue)

theorem dSalui_pack (sub : BitVec 6) (rd ra : BitVec 5) (imm : BitVec 32) :
    dSalui g (pack fSalui [sub.toNat, rd.toNat, ra.toNat, 0, imm.toNat]) = some (.salui (g false) sub rd ra imm) := by
  simp [dSalui, unpack_pack, fSalui, -Nat.reducePow]
theorem dMovi_pack (sub : Fin 2) (rd : BitVec 5) (imm : BitVec 32) :
    dMovi g (pack fMovi [sub, rd.toNat, 0, imm.toNat]) =
      some ((if sub.val = 1 then Instr.movhi else .movi) (g false) rd imm) := by
  simp [dMovi, unpack_pack, fMovi, -Nat.reducePow, code_field sub (n := 6) (by decide), code_legal sub (k := 1) (by decide)]
theorem dCmp_pack (c : BitVec 6) (pd : BitVec 3) (ra rb : BitVec 5) :
    dCmp g (pack fCmp [c.toNat, pd.toNat, 0, ra.toNat, rb.toNat, 0]) = some (.cmp (g false) c pd ra rb) := by
  simp [dCmp, unpack_pack, fCmp, -Nat.reducePow]
theorem dCmpi_pack (c : BitVec 6) (pd : BitVec 3) (ra : BitVec 5) (imm : BitVec 32) :
    dCmpi g (pack fCmpi [c.toNat, pd.toNat, 0, ra.toNat, 0, imm.toNat]) = some (.cmpi (g false) c pd ra imm) := by
  simp [dCmpi, unpack_pack, fCmpi, -Nat.reducePow]
theorem dLd_pack (loc sx : Bool) (size : BitVec 2) (rd ra : BitVec 5) (imm : BitVec 32) :
    dLd g (pack fMem [0, b2n loc, b2n sx, size.toNat, rd.toNat, ra.toNat, 0, imm.toNat]) =
      some (.ld (g false) loc sx size rd ra imm) := by
  simp [dLd, unpack_pack, fMem, -Nat.reducePow]
theorem dSt_pack (loc sx : Bool) (size : BitVec 2) (rs ra : BitVec 5) (imm : BitVec 32) :
    dSt g (pack fMem [0, b2n loc, b2n sx, size.toNat, rs.toNat, ra.toNat, 0, imm.toNat]) =
      some (.st (g false) loc sx size rs ra imm) := by
  simp [dSt, unpack_pack, fMem, -Nat.reducePow]
theorem dBr_pack (sub : Fin 2) (rd : BitVec 5) (imm : BitVec 32) :
    dBr g (pack fMovi [sub, rd.toNat, 0, imm.toNat]) =
      some ((if sub.val = 1 then Instr.brl else .br) (g false) rd imm) := by
  simp [dBr, unpack_pack, fMovi, -Nat.reducePow, code_field sub (n := 6) (by decide), code_legal sub (k := 1) (by decide)]
theorem dBrr_pack (sub : Fin 2) (rd ra : BitVec 5) :
    dBrr g (pack fBrr [sub, rd.toNat, ra.toNat, 0, 0]) =
      some ((if sub.val = 1 then Instr.brrl else .brr) (g false) rd ra) := by
  simp [dBrr, unpack_pack, fBrr, -Nat.reducePow, code_field sub (n := 6) (by decide), code_legal sub (k := 1) (by decide)]
theorem dVcvt_pack (f : VCvt) :
    dVcvt g (pack fVcvt [f.d.toNat, f.a.toNat, f.n1.toNat, f.sfmt.toNat, f.dfmt.toNat, f.rnd.toNat, f.gidx.toNat, 0]) =
      some (.vcvt (g false) f) := by
  simp [dVcvt, unpack_pack, fVcvt, -Nat.reducePow]
theorem dLoadw_pack (f : LoadW) :
    dLoadw g (pack fLoadw [f.fmt.toNat, b2n f.scl, f.blk.toNat, f.gd.toNat, f.gs.toNat, 0]) = some (.loadw (g false) f) := by
  simp [dLoadw, unpack_pack, fLoadw, -Nat.reducePow]
theorem outOf_encOut (o : OutW) : outOf (encOut o) = some (o, 0) := by
  simp [outOf, encOut, unpack_pack, fOut, -Nat.reducePow]
theorem dStream_pack (f : StreamF) (o : OutW) :
    dStream g (pack fStream [f.fmtA.toNat, b2n f.sclA, f.blkA.toNat, f.ga.toNat, f.gsa.toNat, f.ring.toNat, f.mode.toNat,
      f.acc.toNat, f.m1.toNat, 0]) (encOut o) = some (.stream (g false) f o) := by
  simp [dStream, unpack_pack, fStream, outOf_encOut, -Nat.reducePow]
theorem dAccout_pack (e j : BitVec 8) (o : OutW) :
    dAccout g (pack fAccout [e.toNat, j.toNat, 0]) (encOut o) = some (.accout (g false) e j o) := by
  simp [dAccout, unpack_pack, fAccout, outOf_encOut, -Nat.reducePow]
theorem dCsadv_pack (f : CsAdv) :
    dCsadv g (pack fCsadv [b2n f.loc, f.gt.toNat, f.gn.toNat, f.h.toNat, 0]) = some (.csadv (g false) f) := by
  simp [dCsadv, unpack_pack, fCsadv, -Nat.reducePow]
theorem dDma_pack (f : DmaF) :
    dDma g (pack fDma1 [f.eng.toNat, b2n f.loc, f.gd.toNat, 0]) (pack fDma2 [b2n f.fen, f.fid.toNat, f.gv.toNat, 0]) =
      some (.dmaDesc (g false) f) := by
  simp [dDma, unpack_pack, fDma1, fDma2, -Nat.reducePow]
theorem dCopy_pack (f : DmaCopyF) :
    dCopy g (pack fCopy [f.gdst.toNat, f.gsrc.toNat, f.glen.toNat, b2n f.dl, b2n f.sl, 0]) = some (.dmaCopy (g false) f) := by
  simp [dCopy, unpack_pack, fCopy, -Nat.reducePow]
theorem dRing_pack (sub : Fin 2) (q : BitVec 8) :
    dRing g (pack fRing [sub, q.toNat, 0]) = some ((if sub.val = 1 then Instr.ringRst else .ringAdv) (g false) q) := by
  simp [dRing, unpack_pack, fRing, -Nat.reducePow, Nat.mod_eq_of_lt sub.isLt]
theorem dWin_pack (sub : Fin 2) (r : BitVec 5) :
    dWin g (pack fWin [sub, r.toNat, 0]) = some ((if sub.val = 1 then Instr.winRel else .winResv) (g false) r) := by
  simp [dWin, unpack_pack, fWin, -Nat.reducePow, Nat.mod_eq_of_lt sub.isLt]
theorem dTask_pack (r : BitVec 5) : dTask g (pack fTask [r.toNat, 0]) = some (.taskBegin (g false) r) := by
  simp [dTask, unpack_pack, fTask, -Nat.reducePow]
theorem dFenceI_pack (fid : BitVec 16) (val : W64) :
    dFenceI g (pack fFenceI [fid.toNat, 0]) val.toNat = some (.fenceSignalI (g false) fid val) := by
  simp [dFenceI, unpack_pack, fFenceI, -Nat.reducePow]
theorem v3Of_pack (f : V3) :
    v3Of (pack fV3 [f.d.toNat, f.a.toNat, f.b.toNat, f.c.toNat, f.gn.toNat, b2n f.incA, b2n f.incB, b2n f.incC, b2n f.rnd,
      b2n f.breg]) = some f := by
  simp [v3Of, unpack_pack, fV3, -Nat.reducePow]
theorem vmxOf_pack (f : VMx) :
    vmxOf (pack fVmx [f.d.toNat, f.a.toNat, f.s.toNat, f.n1.toNat, f.fmx.toNat, b2n f.rule, f.blk.toNat, f.rnd.toNat,
      f.gidx.toNat]) = some f := by
  simp [vmxOf, unpack_pack, fVmx, -Nat.reducePow]
theorem rtopkOf_pack (f : RTopk) :
    rtopkOf (pack fRtopk [f.src.toNat, f.n1.toNat, f.dst.toNat, f.accs.toNat, b2n f.init, b2n f.save, f.k1.toNat,
      f.gidx.toNat]) = some f := by
  simp [rtopkOf, unpack_pack, fRtopk, -Nat.reducePow]

end Packed

/-! The opcodes whose number holds an operand. -/

theorem decodeOp_vfma (ty : Fin 3) (g : Bool → Issue) (x : Nat) :
    decodeOp g (0x17 + ty.val) x 0 = (v3Of x).map fun f => .vfma (g false) ty f := by fin_cases ty <;> rfl
theorem decodeOp_vdot2 (fp16 : Bool) (g : Bool → Issue) (x : Nat) :
    decodeOp g (0x1A + b2n fp16) x 0 = (v3Of x).map fun f => .vdot2 (g false) fp16 f := by cases fp16 <;> rfl
theorem decodeOp_vsel (n : Fin 3) (g : Bool → Issue) (x : Nat) :
    decodeOp g (0x1C + n.val) x 0 = (v3Of x).map fun f => .vsel (g false) n f := by fin_cases n <;> rfl
theorem decodeOp_rtopk (i32 : Bool) (g : Bool → Issue) (x : Nat) :
    decodeOp g (0x22 + b2n i32) x 0 = (rtopkOf x).map fun f => .rtopk (g false) i32 f := by cases i32 <;> rfl

/-- An opcode with the fields of V3. -/
theorem v3_decodes {op : Nat} {f : V3} {make : Issue → V3 → Instr} (opcode : op < 2 ^ 6) (encoded : encV3 h op f = some w)
    (arm : ∀ g x, decodeOp g op x 0 = (v3Of x).map fun f => make (g false) f) : Decodes (make h f) w := by
  refine decodes_of_enc (make := fun h => make h f) encoded opcode (by decide) (by decide) fun g => ?_
  rw [arm, v3Of_pack]
  rfl
/-- An opcode with the fields of VCVT.MX. -/
theorem vmx_decodes {op : Nat} {f : VMx} {make : Issue → VMx → Instr} (opcode : op < 2 ^ 6) (encoded : encVmx h op f = some w)
    (arm : ∀ g x, decodeOp g op x 0 = (vmxOf x).map fun f => make (g false) f) : Decodes (make h f) w := by
  refine decodes_of_enc (make := fun h => make h f) encoded opcode (by decide) (by decide) fun g => ?_
  rw [arm, vmxOf_pack]
  rfl
/-- An opcode with the fields of RTOPK. -/
theorem rtopk_decodes {op : Nat} {f : RTopk} {make : Issue → RTopk → Instr} (opcode : op < 2 ^ 6)
    (encoded : encRtopk h op f = some w) (arm : ∀ g x, decodeOp g op x 0 = (rtopkOf x).map fun f => make (g false) f) :
    Decodes (make h f) w := by
  refine decodes_of_enc (make := fun h => make h f) encoded opcode (by decide) (by decide) fun g => ?_
  rw [arm, rtopkOf_pack]
  rfl

end Decodes

/-- An instruction of RSUM that its words can spell has no gIDX. -/
theorem rfmt_of_spelt {f : RFmt} (spelt : (f.gidx == 0) = true) : { f with gidx := 0 } = f := by
  rw [← eq_of_beq spelt]

/-- An encoded core instruction decodes from its words, where these can spell its operands. -/
theorem decodes_of_encodeWord {i : Instr} {w : Nat × Nat} (spelt : i.spelt = true) (encoded : encodeWord i = some w) :
    Decodes i w := by
  cases i with
  | add h rd ra rb => exact salu_decodes 0 encoded rfl
  | sub h rd ra rb => exact salu_decodes 1 encoded rfl
  | and h rd ra rb => exact salu_decodes 2 encoded rfl
  | or h rd ra rb => exact salu_decodes 3 encoded rfl
  | xor h rd ra rb => exact salu_decodes 4 encoded rfl
  | andn h rd ra rb => exact salu_decodes 5 encoded rfl
  | shl h rd ra rb => exact salu_decodes 6 encoded rfl
  | shr h rd ra rb => exact salu_decodes 7 encoded rfl
  | sra h rd ra rb => exact salu_decodes 8 encoded rfl
  | min h rd ra rb => exact salu_decodes 9 encoded rfl
  | minu h rd ra rb => exact salu_decodes 10 encoded rfl
  | max h rd ra rb => exact salu_decodes 11 encoded rfl
  | maxu h rd ra rb => exact salu_decodes 12 encoded rfl
  | mul h rd ra rb => exact salu_decodes 13 encoded rfl
  | mulh h rd ra rb => exact salu_decodes 14 encoded rfl
  | mulhu h rd ra rb => exact salu_decodes 15 encoded rfl
  | div h rd ra rb => exact salu_decodes 16 encoded rfl
  | divu h rd ra rb => exact salu_decodes 17 encoded rfl
  | salui h sub rd ra imm =>
    exact decodes_of_enc (make := (.salui · sub rd ra imm)) encoded (by decide) (by decide) (by decide) (dSalui_pack · sub rd ra imm)
  | movi h rd imm =>
    exact decodes_of_enc (make := (.movi · rd imm)) encoded (by decide) (by decide) (by decide) (dMovi_pack · 0 rd imm)
  | movhi h rd imm =>
    exact decodes_of_enc (make := (.movhi · rd imm)) encoded (by decide) (by decide) (by decide) (dMovi_pack · 1 rd imm)
  | cmp h c pd ra rb =>
    exact decodes_of_enc (make := (.cmp · c pd ra rb)) encoded (by decide) (by decide) (by decide) (dCmp_pack · c pd ra rb)
  | cmpi h c pd ra imm =>
    exact decodes_of_enc (make := (.cmpi · c pd ra imm)) encoded (by decide) (by decide) (by decide) (dCmpi_pack · c pd ra imm)
  | pand h pd pa pb => exact plog_decodes 0 encoded rfl
  | por h pd pa pb => exact plog_decodes 1 encoded rfl
  | pxor h pd pa pb => exact plog_decodes 2 encoded rfl
  | pandn h pd pa pb => exact plog_decodes 3 encoded rfl
  | pmov h pd pa pb => exact plog_decodes 4 encoded rfl
  | pnot h pd pa pb => exact plog_decodes 5 encoded rfl
  | ld h loc sx size rd ra imm =>
    exact decodes_of_enc (make := (.ld · loc sx size rd ra imm)) encoded (by decide) (by decide) (by decide) (dLd_pack · loc sx size rd ra imm)
  | st h loc sx size rs ra imm =>
    exact decodes_of_enc (make := (.st · loc sx size rs ra imm)) encoded (by decide) (by decide) (by decide) (dSt_pack · loc sx size rs ra imm)
  | br h rd imm =>
    exact decodes_of_enc (make := (.br · rd imm)) encoded (by decide) (by decide) (by decide) (dBr_pack · 0 rd imm)
  | brl h rd imm =>
    exact decodes_of_enc (make := (.brl · rd imm)) encoded (by decide) (by decide) (by decide) (dBr_pack · 1 rd imm)
  | brr h rd ra =>
    exact decodes_of_enc (make := (.brr · rd ra)) encoded (by decide) (by decide) (by decide) (dBrr_pack · 0 rd ra)
  | brrl h rd ra =>
    exact decodes_of_enc (make := (.brrl · rd ra)) encoded (by decide) (by decide) (by decide) (dBrr_pack · 1 rd ra)
  | vadd h f => exact vop_decodes 0 encoded rfl
  | vsub h f => exact vop_decodes 1 encoded rfl
  | vmulLo h f => exact vop_decodes 2 encoded (congrFun₂ (vopOf_two_int (by simp [Instr.spelt] at spelt; omega)) h f)
  | vmul h f => exact vop_decodes 2 encoded (congrFun₂ (vopOf_two_float (by simpa [Instr.spelt] using spelt)) h f)
  | vmulHi h f => exact vop_decodes 3 encoded rfl
  | vmin h f => exact vop_decodes 4 encoded rfl
  | vmax h f => exact vop_decodes 5 encoded rfl
  | vshl h f => exact vop_decodes 6 encoded rfl
  | vshr h f => exact vop_decodes 7 encoded rfl
  | vshra h f => exact vop_decodes 8 encoded rfl
  | vand h f => exact vop_decodes 9 encoded rfl
  | vor h f => exact vop_decodes 10 encoded rfl
  | vxor h f => exact vop_decodes 11 encoded rfl
  | vandn h f => exact vop_decodes 12 encoded rfl
  | vcmpEq h f => exact vop_decodes 13 encoded rfl
  | vcmpNe h f => exact vop_decodes 14 encoded rfl
  | vcmpLt h f => exact vop_decodes 15 encoded rfl
  | vcmpLe h f => exact vop_decodes 16 encoded rfl
  | vany h f => exact vop_decodes 17 encoded rfl
  | vall h f => exact vop_decodes 18 encoded rfl
  | vabs h f => exact vun_decodes 0 encoded rfl
  | vneg h f => exact vun_decodes 1 encoded rfl
  | vnot h f => exact vun_decodes 2 encoded rfl
  | vmov h f => exact vun_decodes 3 encoded rfl
  | vexp2 h f => exact vun_decodes 4 encoded rfl
  | vlog2 h f => exact vun_decodes 5 encoded rfl
  | vrcp h f => exact vun_decodes 6 encoded rfl
  | vrsq h f => exact vun_decodes 7 encoded rfl
  | vtanh h f => exact vun_decodes 8 encoded rfl
  | vfma h ty f => exact v3_decodes (make := (.vfma · ty ·)) (by omega) encoded (decodeOp_vfma ty)
  | vdot2 h fp16 f => exact v3_decodes (make := (.vdot2 · fp16 ·)) (by cases fp16 <;> decide) encoded (decodeOp_vdot2 fp16)
  | vsel h n f => exact v3_decodes (make := (.vsel · n ·)) (by omega) encoded (decodeOp_vsel n)
  | vcvt h f =>
    exact decodes_of_enc (make := (.vcvt · f)) encoded (by decide) (by decide) (by decide) (dVcvt_pack · f)
  | vcvtMx h f => exact vmx_decodes (make := .vcvtMx) (by decide) encoded fun _ _ => rfl
  | vcvtMxd h f => exact vmx_decodes (make := .vcvtMxd) (by decide) encoded fun _ _ => rfl
  | vbxExp h f => exact vbx_decodes 0 encoded rfl
  | vbxCvt h f => exact vbx_decodes 1 encoded rfl
  | vbxDec h f => exact vbx_decodes 2 encoded rfl
  | vrng h f => exact vrng_decodes 0 encoded rfl
  | vrngU h f => exact vrng_decodes 1 encoded rfl
  | vrngSetc h f => exact vrng_decodes 2 encoded rfl
  | vrngGetc h f => exact vrng_decodes 3 encoded rfl
  | vrngT h f => exact vrng_decodes 4 encoded rfl
  | rsum h f => exact rsum_decodes 0 encoded (congrArg (Instr.rsum h) (rfmt_of_spelt spelt))
  | rssq h f => exact rsum_decodes 1 encoded (congrArg (Instr.rssq h) (rfmt_of_spelt spelt))
  | risum h f => exact rsum_decodes 2 encoded (congrArg (Instr.risum h) (rfmt_of_spelt spelt))
  | rpsumI h f => exact rsum_decodes 3 encoded (congrArg (Instr.rpsumI h) (rfmt_of_spelt spelt))
  | rpsumE h f => exact rsum_decodes 4 encoded (congrArg (Instr.rpsumE h) (rfmt_of_spelt spelt))
  | rmax h f => exact rsel_decodes 0 encoded rfl
  | rmin h f => exact rsel_decodes 1 encoded rfl
  | rargmax h f => exact rsel_decodes 2 encoded rfl
  | rargmin h f => exact rsel_decodes 3 encoded rfl
  | rtopk h i32 f =>
    exact rtopk_decodes (make := (.rtopk · i32 ·)) (by cases i32 <;> decide) encoded (decodeOp_rtopk i32)
  | loadw h f =>
    exact decodes_of_enc (make := (.loadw · f)) encoded (by decide) (by decide) (by decide) (dLoadw_pack · f)
  | swap h =>
    exact decodes_of_enc (make := .swap) encoded (by decide) (by decide) (by decide) fun g => rfl
  | stream h f o =>
    exact decodes_of_enc (make := (.stream · f o)) encoded (by decide) (pack_lt fOut _) (by decide) (dStream_pack · f o)
  | accout h e j o =>
    exact decodes_of_enc (make := (.accout · e j o)) encoded (by decide) (pack_lt fOut _) (by decide) (dAccout_pack · e j o)
  | csadv h f =>
    exact decodes_of_enc (make := (.csadv · f)) encoded (by decide) (by decide) (by decide) (dCsadv_pack · f)
  | dmaDesc h f =>
    exact decodes_of_enc (make := (.dmaDesc · f)) encoded (by decide) (pack_lt fDma2 _) (by decide) (dDma_pack · f)
  | dmaCopy h f =>
    exact decodes_of_enc (make := (.dmaCopy · f)) encoded (by decide) (by decide) (by decide) (dCopy_pack · f)
  | ringAdv h q =>
    exact decodes_of_enc (make := (.ringAdv · q)) encoded (by decide) (by decide) (by decide) (dRing_pack · 0 q)
  | ringRst h q =>
    exact decodes_of_enc (make := (.ringRst · q)) encoded (by decide) (by decide) (by decide) (dRing_pack · 1 q)
  | winResv h r =>
    exact decodes_of_enc (make := (.winResv · r)) encoded (by decide) (by decide) (by decide) (dWin_pack · 0 r)
  | winRel h r =>
    exact decodes_of_enc (make := (.winRel · r)) encoded (by decide) (by decide) (by decide) (dWin_pack · 1 r)
  | taskBegin h r =>
    exact decodes_of_enc (make := (.taskBegin · r)) encoded (by decide) (by decide) (by decide) (dTask_pack · r)
  | taskEnd h =>
    exact decodes_of_enc (make := .taskEnd) encoded (by decide) (by decide) (by decide) fun g => rfl
  | fenceSignal h f => exact fence_decodes 0 encoded rfl
  | fenceRead h f => exact fence_decodes 1 encoded rfl
  | fenceWait h f => exact fence_decodes 2 encoded rfl
  | fenceSignalI h fid val =>
    exact decodes_of_enc (make := (.fenceSignalI · fid val)) encoded (by decide) val.isLt (by decide) (dFenceI_pack · fid val)
  | sysNop h gd ga => exact sys_decodes 0 encoded rfl
  | sysIflush h gd ga => exact sys_decodes 1 encoded rfl
  | sysSrkey h gd ga => exact sys_decodes 2 encoded rfl
  | sysFlags h gd ga => exact sys_decodes 3 encoded rfl
  | sysId h gd ga => exact sys_decodes 4 encoded rfl
  | sysTime h gd ga => exact sys_decodes 5 encoded rfl
  | _ => cases encoded

end Sys2Proof.Machine

open Sys2Proof.Machine

/-- Settles O55: each format's decoder reads the packed fields back. -/
theorem wordsDecodeToTheirInstruction : Obligations.WordsDecodeToTheirInstruction := by
  unfold Obligations.WordsDecodeToTheirInstruction
  exact fun i w spelt encoded => decodes_of_encodeWord spelt encoded
end

section
/-! Words of core instructions: encoding a decoded instruction gives its words back (`06` R131–R153). -/

open Sys2Proof

namespace Sys2Proof.Machine

/-- The words of an instruction that a table names by its code, or by the first code where the table has no entry. -/
theorem encode_table {β : Type} {table : List β} {first : β} (build : β → Instr) (code : Nat → Option (Nat × Nat)) (top sub : Nat)
    (codes : table.map (fun f => encodeWord (build f)) = (List.range (top + 1)).map code)
    (head : encodeWord (build first) = code 0) :
    encodeWord (build (table.getD sub first)) = code (if top < sub then 0 else sub) := by
  have count : table.length = top + 1 := by simpa using congrArg List.length codes
  split
  · next outside => rw [List.getD_eq_default _ _ (by omega), head]
  · next inside =>
    have named := congrArg (·[sub]?) codes
    have low : sub < table.length := by omega
    have low' : sub < top + 1 := by omega
    simpa [low, low'] using named

/-- The words of an instruction whose code tells two operations apart. -/
theorem encode_pair {β : Type} {second first : β} (build : β → Instr) (code : Nat → Option (Nat × Nat)) (sub : Nat)
    (one : encodeWord (build second) = code 1) (zero : encodeWord (build first) = code 0) :
    encodeWord (build (if sub = 1 then second else first)) = code (if 1 < sub then 0 else sub) := by
  rcases Nat.lt_trichotomy sub 1 with low | rfl | high
  · rw [if_neg (by omega), if_neg (by omega), zero, Nat.lt_one_iff.1 low]
  · rw [if_pos rfl, if_neg (by omega), one]
  · rw [if_neg (by omega), if_pos high, zero]

/-- The words of an encoded instruction whose fields are those of the bits `x`. -/
theorem word_of_enc {core : Fin 512} {z x op y : Nat} {r : Bool} {ws fs : List Nat} {w : Nat × Nat}
    (encoded : enc op (commonFields core z r) ws fs y = some w) (total : ws.sum = 54) (fields : r = false → fs = unpack ws x) :
    w = (firstWord op (commonFields core z false) (x % 2 ^ 54), y) := by
  obtain ⟨plain, rfl⟩ := enc_eq_some encoded
  rw [fields plain, pack_unpack, total]
  rfl

/-- A code of one bit is one of two. -/
theorem code_one_bit (n : Nat) : (if 1 < n % 2 ^ 1 then 0 else n % 2 ^ 1) = n % 2 ^ 1 := if_neg (by omega)
/-- A code of two bits is one of four. -/
theorem code_two_bits (n : Nat) : (if 3 < n % 2 ^ 2 then 0 else n % 2 ^ 2) = n % 2 ^ 2 := if_neg (by omega)
/-- A code of two bits that is not 3 is one of three. -/
theorem code_below_three {n : Nat} (low : (n % 2 ^ 2 == 3) = false) : (if 2 < n % 2 ^ 2 then 0 else n % 2 ^ 2) = n % 2 ^ 2 := by
  have := ne_of_beq_false low
  exact if_neg (by omega)

/-! The words of an instruction by its SUB. -/

section Codes

variable (sub : Nat) (h : Issue)

theorem encode_salu (rd ra rb : BitVec 5) :
    encodeWord (saluOps.getD sub .add h rd ra rb) = encSalu h (if 17 < sub then 0 else sub) rd ra rb :=
  encode_table (fun f : Issue → BitVec 5 → BitVec 5 → BitVec 5 → Instr => f h rd ra rb) (encSalu h · rd ra rb) 17 sub rfl rfl
theorem encode_plog (pd pa pb : BitVec 3) :
    encodeWord (plogOps.getD sub .pand h pd pa pb) = encPlog h (if 5 < sub then 0 else sub) pd pa pb :=
  encode_table (fun f : Issue → BitVec 3 → BitVec 3 → BitVec 3 → Instr => f h pd pa pb) (encPlog h · pd pa pb) 5 sub rfl rfl
theorem encode_vop (ty : Nat) (f : VOp) :
    encodeWord (vopOf sub ty h f) = encVop h (if 18 < sub then 0 else sub) f := by
  unfold vopOf
  split
  · next two => subst two; split <;> rfl
  · next other =>
    have listed : vopOps.getD sub .vadd = (vopOps.set 2 .vmulLo).getD sub .vadd := by
      simp [List.getElem?_set_ne (Ne.symm other)]
    rw [listed]
    exact encode_table (fun op : Issue → VOp → Instr => op h f) (encVop h · f) 18 sub rfl rfl
theorem encode_vun (f : VUn) : encodeWord (vunOps.getD sub .vabs h f) = encVun h (if 8 < sub then 0 else sub) f :=
  encode_table (fun op : Issue → VUn → Instr => op h f) (encVun h · f) 8 sub rfl rfl
theorem encode_vbx (f : VBx) : encodeWord (vbxOps.getD sub .vbxExp h f) = encVbx h (if 2 < sub then 0 else sub) f :=
  encode_table (fun op : Issue → VBx → Instr => op h f) (encVbx h · f) 2 sub rfl rfl
theorem encode_vrng (f : VRng) : encodeWord (vrngOps.getD sub .vrng h f) = encVrng h (if 4 < sub then 0 else sub) f :=
  encode_table (fun op : Issue → VRng → Instr => op h f) (encVrng h · f) 4 sub rfl rfl
theorem encode_rsum (f : RFmt) : encodeWord (rsumOps.getD sub .rsum h f) = encRsum h (if 4 < sub then 0 else sub) f :=
  encode_table (fun op : Issue → RFmt → Instr => op h f) (encRsum h · f) 4 sub rfl rfl
theorem encode_rsel (f : RFmt) : encodeWord (rselOps.getD sub .rmax h f) = encRsel h (if 3 < sub then 0 else sub) f :=
  encode_table (fun op : Issue → RFmt → Instr => op h f) (encRsel h · f) 3 sub rfl rfl
theorem encode_fence (f : FenceF) :
    encodeWord (fenceOps.getD sub .fenceSignal h f) = encFence h (if 2 < sub then 0 else sub) f :=
  encode_table (fun op : Issue → FenceF → Instr => op h f) (encFence h · f) 2 sub rfl rfl
theorem encode_sys (gd ga : BitVec 5) :
    encodeWord (sysOps.getD sub .sysNop h gd ga) = encSys h (if 5 < sub then 0 else sub) gd ga :=
  encode_table (fun f : Issue → BitVec 5 → BitVec 5 → Instr => f h gd ga) (encSys h · gd ga) 5 sub rfl rfl
theorem encode_movi (rd : BitVec 5) (imm : BitVec 32) :
    encodeWord ((if sub = 1 then Instr.movhi else .movi) h rd imm) =
      enc 0x02 h fMovi [if 1 < sub then 0 else sub, rd.toNat, 0, imm.toNat] :=
  encode_pair (fun f : Issue → BitVec 5 → BitVec 32 → Instr => f h rd imm) (fun n => enc 0x02 h fMovi [n, rd.toNat, 0, imm.toNat]) sub rfl rfl
theorem encode_br (rd : BitVec 5) (imm : BitVec 32) :
    encodeWord ((if sub = 1 then Instr.brl else .br) h rd imm) =
      enc 0x08 h fMovi [if 1 < sub then 0 else sub, rd.toNat, 0, imm.toNat] :=
  encode_pair (fun f : Issue → BitVec 5 → BitVec 32 → Instr => f h rd imm) (fun n => enc 0x08 h fMovi [n, rd.toNat, 0, imm.toNat]) sub rfl rfl
theorem encode_brr (rd ra : BitVec 5) :
    encodeWord ((if sub = 1 then Instr.brrl else .brr) h rd ra) =
      enc 0x09 h fBrr [if 1 < sub then 0 else sub, rd.toNat, ra.toNat, 0, 0] :=
  encode_pair (fun f : Issue → BitVec 5 → BitVec 5 → Instr => f h rd ra) (fun n => enc 0x09 h fBrr [n, rd.toNat, ra.toNat, 0, 0]) sub rfl rfl
theorem encode_ring (q : BitVec 8) :
    encodeWord ((if sub = 1 then Instr.ringRst else .ringAdv) h q) =
      enc 0x32 h fRing [if 1 < sub then 0 else sub, q.toNat, 0] :=
  encode_pair (fun f : Issue → BitVec 8 → Instr => f h q) (fun n => enc 0x32 h fRing [n, q.toNat, 0]) sub rfl rfl
theorem encode_win (r : BitVec 5) :
    encodeWord ((if sub = 1 then Instr.winRel else .winResv) h r) =
      enc 0x33 h fWin [if 1 < sub then 0 else sub, r.toNat, 0] :=
  encode_pair (fun f : Issue → BitVec 5 → Instr => f h r) (fun n => enc 0x33 h fWin [n, r.toNat, 0]) sub rfl rfl

end Codes

section Words

variable {core : Fin 512} {z x y : Nat} {i : Instr} {w : Nat × Nat}

theorem dSalu_word (decoded : dSalu (commonFields core z) x = some i) (encoded : encodeWord i = some w) :
    w = (firstWord 0x00 (commonFields core z false) (x % 2 ^ 54), 0) := by
  obtain rfl := Option.some.inj decoded
  refine word_of_enc ((encode_salu ..).symm.trans encoded) rfl fun plain => ?_
  simp only [Bool.or_eq_false_iff, bne_eq_false_iff_eq, decide_eq_false_iff_not] at plain
  simp only [unpack, fSalu, toNat_field, plain, if_false]
theorem dSalui_word (decoded : dSalui (commonFields core z) x = some i) (encoded : encodeWord i = some w) :
    w = (firstWord 0x01 (commonFields core z false) (x % 2 ^ 54), 0) := by
  obtain rfl := Option.some.inj decoded
  refine word_of_enc encoded rfl fun plain => ?_
  simp only [bne_eq_false_iff_eq] at plain
  simp only [unpack, fSalui, toNat_field, plain]
theorem dMovi_word (decoded : dMovi (commonFields core z) x = some i) (encoded : encodeWord i = some w) :
    w = (firstWord 0x02 (commonFields core z false) (x % 2 ^ 54), 0) := by
  obtain rfl := Option.some.inj decoded
  refine word_of_enc ((encode_movi ..).symm.trans encoded) rfl fun plain => ?_
  simp only [Bool.or_eq_false_iff, bne_eq_false_iff_eq, decide_eq_false_iff_not] at plain
  simp only [unpack, fMovi, toNat_field, plain, if_false]
theorem dCmp_word (decoded : dCmp (commonFields core z) x = some i) (encoded : encodeWord i = some w) :
    w = (firstWord 0x03 (commonFields core z false) (x % 2 ^ 54), 0) := by
  obtain rfl := Option.some.inj decoded
  refine word_of_enc encoded rfl fun plain => ?_
  simp only [Bool.or_eq_false_iff, bne_eq_false_iff_eq] at plain
  simp only [unpack, fCmp, toNat_field, plain]
theorem dCmpi_word (decoded : dCmpi (commonFields core z) x = some i) (encoded : encodeWord i = some w) :
    w = (firstWord 0x04 (commonFields core z false) (x % 2 ^ 54), 0) := by
  obtain rfl := Option.some.inj decoded
  refine word_of_enc encoded rfl fun plain => ?_
  simp only [Bool.or_eq_false_iff, bne_eq_false_iff_eq] at plain
  simp only [unpack, fCmpi, toNat_field, plain]
theorem dPlog_word (decoded : dPlog (commonFields core z) x = some i) (encoded : encodeWord i = some w) :
    w = (firstWord 0x05 (commonFields core z false) (x % 2 ^ 54), 0) := by
  obtain rfl := Option.some.inj decoded
  refine word_of_enc ((encode_plog ..).symm.trans encoded) rfl fun plain => ?_
  simp only [Bool.or_eq_false_iff, bne_eq_false_iff_eq, decide_eq_false_iff_not] at plain
  simp only [unpack, fPlog, toNat_field, plain, if_false]
theorem dLd_word (decoded : dLd (commonFields core z) x = some i) (encoded : encodeWord i = some w) :
    w = (firstWord 0x06 (commonFields core z false) (x % 2 ^ 54), 0) := by
  obtain rfl := Option.some.inj decoded
  refine word_of_enc encoded rfl fun plain => ?_
  simp only [Bool.or_eq_false_iff, bne_eq_false_iff_eq] at plain
  simp only [unpack, fMem, toNat_field, b2n_field, plain]
theorem dSt_word (decoded : dSt (commonFields core z) x = some i) (encoded : encodeWord i = some w) :
    w = (firstWord 0x07 (commonFields core z false) (x % 2 ^ 54), 0) := by
  obtain rfl := Option.some.inj decoded
  refine word_of_enc encoded rfl fun plain => ?_
  simp only [Bool.or_eq_false_iff, bne_eq_false_iff_eq] at plain
  simp only [unpack, fMem, toNat_field, b2n_field, plain]
theorem dBr_word (decoded : dBr (commonFields core z) x = some i) (encoded : encodeWord i = some w) :
    w = (firstWord 0x08 (commonFields core z false) (x % 2 ^ 54), 0) := by
  obtain rfl := Option.some.inj decoded
  refine word_of_enc ((encode_br ..).symm.trans encoded) rfl fun plain => ?_
  simp only [Bool.or_eq_false_iff, bne_eq_false_iff_eq, decide_eq_false_iff_not] at plain
  simp only [unpack, fMovi, toNat_field, plain, if_false]
theorem dBrr_word (decoded : dBrr (commonFields core z) x = some i) (encoded : encodeWord i = some w) :
    w = (firstWord 0x09 (commonFields core z false) (x % 2 ^ 54), 0) := by
  obtain rfl := Option.some.inj decoded
  refine word_of_enc ((encode_brr ..).symm.trans encoded) rfl fun plain => ?_
  simp only [Bool.or_eq_false_iff, bne_eq_false_iff_eq, decide_eq_false_iff_not] at plain
  simp only [unpack, fBrr, toNat_field, plain, if_false]
theorem dVop_word (decoded : dVop (commonFields core z) x = some i) (encoded : encodeWord i = some w) :
    w = (firstWord 0x10 (commonFields core z false) (x % 2 ^ 54), 0) := by
  obtain rfl := Option.some.inj decoded
  refine word_of_enc ((encode_vop ..).symm.trans encoded) rfl fun plain => ?_
  simp only [decide_eq_false_iff_not] at plain
  simp only [unpack, fVop, toNat_field, b2n_field, plain, if_false]
theorem dVun_word (decoded : dVun (commonFields core z) x = some i) (encoded : encodeWord i = some w) :
    w = (firstWord 0x11 (commonFields core z false) (x % 2 ^ 54), 0) := by
  obtain rfl := Option.some.inj decoded
  refine word_of_enc ((encode_vun ..).symm.trans encoded) rfl fun plain => ?_
  simp only [Bool.or_eq_false_iff, bne_eq_false_iff_eq, decide_eq_false_iff_not] at plain
  simp only [unpack, fVun, toNat_field, b2n_field, plain, if_false]
theorem dVcvt_word (decoded : dVcvt (commonFields core z) x = some i) (encoded : encodeWord i = some w) :
    w = (firstWord 0x12 (commonFields core z false) (x % 2 ^ 54), 0) := by
  obtain rfl := Option.some.inj decoded
  refine word_of_enc encoded rfl fun plain => ?_
  simp only [bne_eq_false_iff_eq] at plain
  simp only [unpack, fVcvt, toNat_field, plain]
theorem dVbx_word (decoded : dVbx (commonFields core z) x = some i) (encoded : encodeWord i = some w) :
    w = (firstWord 0x15 (commonFields core z false) (x % 2 ^ 54), 0) := by
  obtain rfl := Option.some.inj decoded
  refine word_of_enc ((encode_vbx ..).symm.trans encoded) rfl fun plain => ?_
  simp only [Bool.or_eq_false_iff, bne_eq_false_iff_eq, decide_eq_false_iff_not] at plain
  simp only [unpack, fVbx, toNat_field, plain, if_false]
theorem dVrng_word (decoded : dVrng (commonFields core z) x = some i) (encoded : encodeWord i = some w) :
    w = (firstWord 0x16 (commonFields core z false) (x % 2 ^ 54), 0) := by
  obtain rfl := Option.some.inj decoded
  refine word_of_enc ((encode_vrng ..).symm.trans encoded) rfl fun plain => ?_
  simp only [Bool.or_eq_false_iff, bne_eq_false_iff_eq, decide_eq_false_iff_not] at plain
  simp only [unpack, fVrng, toNat_field, plain, if_false]
theorem dRsum_word (decoded : dRsum (commonFields core z) x = some i) (encoded : encodeWord i = some w) :
    w = (firstWord 0x20 (commonFields core z false) (x % 2 ^ 54), 0) := by
  obtain rfl := Option.some.inj decoded
  refine word_of_enc ((encode_rsum ..).symm.trans encoded) rfl fun plain => ?_
  simp only [Bool.or_eq_false_iff, bne_eq_false_iff_eq, decide_eq_false_iff_not] at plain
  simp only [unpack, fRsum, toNat_field, b2n_field, plain, if_false]
theorem dRsel_word (decoded : dRsel (commonFields core z) x = some i) (encoded : encodeWord i = some w) :
    w = (firstWord 0x21 (commonFields core z false) (x % 2 ^ 54), 0) := by
  obtain rfl := Option.some.inj decoded
  refine word_of_enc ((encode_rsel ..).symm.trans encoded) rfl fun plain => ?_
  simp only [bne_eq_false_iff_eq] at plain
  simp only [unpack, fRsel, toNat_field, b2n_field, plain, code_two_bits]
theorem dLoadw_word (decoded : dLoadw (commonFields core z) x = some i) (encoded : encodeWord i = some w) :
    w = (firstWord 0x28 (commonFields core z false) (x % 2 ^ 54), 0) := by
  obtain rfl := Option.some.inj decoded
  refine word_of_enc encoded rfl fun plain => ?_
  simp only [bne_eq_false_iff_eq] at plain
  simp only [unpack, fLoadw, toNat_field, b2n_field, plain]
theorem dCsadv_word (decoded : dCsadv (commonFields core z) x = some i) (encoded : encodeWord i = some w) :
    w = (firstWord 0x2C (commonFields core z false) (x % 2 ^ 54), 0) := by
  obtain rfl := Option.some.inj decoded
  refine word_of_enc encoded rfl fun plain => ?_
  simp only [bne_eq_false_iff_eq] at plain
  simp only [unpack, fCsadv, toNat_field, b2n_field, plain]
theorem dCopy_word (decoded : dCopy (commonFields core z) x = some i) (encoded : encodeWord i = some w) :
    w = (firstWord 0x31 (commonFields core z false) (x % 2 ^ 54), 0) := by
  obtain rfl := Option.some.inj decoded
  refine word_of_enc encoded rfl fun plain => ?_
  simp only [bne_eq_false_iff_eq] at plain
  simp only [unpack, fCopy, toNat_field, b2n_field, plain]
theorem dRing_word (decoded : dRing (commonFields core z) x = some i) (encoded : encodeWord i = some w) :
    w = (firstWord 0x32 (commonFields core z false) (x % 2 ^ 54), 0) := by
  obtain rfl := Option.some.inj decoded
  refine word_of_enc ((encode_ring ..).symm.trans encoded) rfl fun plain => ?_
  simp only [bne_eq_false_iff_eq] at plain
  simp only [unpack, fRing, toNat_field, plain, code_one_bit]
theorem dWin_word (decoded : dWin (commonFields core z) x = some i) (encoded : encodeWord i = some w) :
    w = (firstWord 0x33 (commonFields core z false) (x % 2 ^ 54), 0) := by
  obtain rfl := Option.some.inj decoded
  refine word_of_enc ((encode_win ..).symm.trans encoded) rfl fun plain => ?_
  simp only [bne_eq_false_iff_eq] at plain
  simp only [unpack, fWin, toNat_field, plain, code_one_bit]
theorem dTask_word (decoded : dTask (commonFields core z) x = some i) (encoded : encodeWord i = some w) :
    w = (firstWord 0x38 (commonFields core z false) (x % 2 ^ 54), 0) := by
  obtain rfl := Option.some.inj decoded
  refine word_of_enc encoded rfl fun plain => ?_
  simp only [bne_eq_false_iff_eq] at plain
  simp only [unpack, fTask, toNat_field, plain]
theorem dFence_word (decoded : dFence (commonFields core z) x = some i) (encoded : encodeWord i = some w) :
    w = (firstWord 0x3A (commonFields core z false) (x % 2 ^ 54), 0) := by
  obtain rfl := Option.some.inj decoded
  refine word_of_enc ((encode_fence ..).symm.trans encoded) rfl fun plain => ?_
  rw [Bool.or_eq_false_iff, bne_eq_false_iff_eq] at plain
  obtain ⟨reserved, code⟩ := plain
  simp only [unpack, fFence, toNat_field, b2n_field, reserved, code_below_three code]
theorem dSys_word (decoded : dSys (commonFields core z) x = some i) (encoded : encodeWord i = some w) :
    w = (firstWord 0x3C (commonFields core z false) (x % 2 ^ 54), 0) := by
  obtain rfl := Option.some.inj decoded
  refine word_of_enc ((encode_sys ..).symm.trans encoded) rfl fun plain => ?_
  simp only [Bool.or_eq_false_iff, bne_eq_false_iff_eq, decide_eq_false_iff_not] at plain
  simp only [unpack, fSys, toNat_field, plain, if_false]

/-! Formats without a code, and words with a second one. -/

/-- An opcode with the fields of V3. -/
theorem v3_word {op : Nat} {make : V3 → Instr} (decoded : (v3Of x).map make = some i)
    (encodes : ∀ f, encodeWord (make f) = encV3 (commonFields core z false) op f) (encoded : encodeWord i = some w) :
    w = (firstWord op (commonFields core z false) (x % 2 ^ 54), 0) := by
  obtain rfl := Option.some.inj decoded
  refine word_of_enc ((encodes _).symm.trans encoded) rfl fun _ => ?_
  simp only [unpack, fV3, toNat_field, b2n_field]
/-- An opcode with the fields of VCVT.MX. -/
theorem vmx_word {op : Nat} {make : VMx → Instr} (decoded : (vmxOf x).map make = some i)
    (encodes : ∀ f, encodeWord (make f) = encVmx (commonFields core z false) op f) (encoded : encodeWord i = some w) :
    w = (firstWord op (commonFields core z false) (x % 2 ^ 54), 0) := by
  obtain rfl := Option.some.inj decoded
  refine word_of_enc ((encodes _).symm.trans encoded) rfl fun _ => ?_
  simp only [unpack, fVmx, toNat_field, b2n_field]
/-- An opcode with the fields of RTOPK. -/
theorem rtopk_word {op : Nat} {make : RTopk → Instr} (decoded : (rtopkOf x).map make = some i)
    (encodes : ∀ f, encodeWord (make f) = encRtopk (commonFields core z false) op f) (encoded : encodeWord i = some w) :
    w = (firstWord op (commonFields core z false) (x % 2 ^ 54), 0) := by
  obtain rfl := Option.some.inj decoded
  refine word_of_enc ((encodes _).symm.trans encoded) rfl fun _ => ?_
  simp only [unpack, fRtopk, toNat_field, b2n_field]

/-- The fields of word 2 of STREAM and ACCOUT, where its reserved bits are zero. -/
theorem encOut_of_outOf {o : OutW × Nat} (decoded : outOf y = some o) (plain : o.2 = 0) (word : y < 2 ^ 64) :
    encOut o.1 = y := by
  obtain rfl := Option.some.inj decoded
  have whole : pack fOut (unpack fOut y) = y := (pack_unpack fOut y).trans (Nat.mod_eq_of_lt word)
  simp only at plain
  refine Eq.trans ?_ whole
  simp only [encOut, unpack, fOut, toNat_field, plain]

theorem dStream_word (word : y < 2 ^ 64) (decoded : dStream (commonFields core z) x y = some i) (encoded : encodeWord i = some w) :
    w = (firstWord 0x2A (commonFields core z false) (x % 2 ^ 54), y) := by
  obtain rfl := Option.some.inj decoded
  have plain := (enc_eq_some encoded).1
  simp only [commonFields, Bool.or_eq_false_iff, bne_eq_false_iff_eq] at plain
  have both := word_of_enc (x := x) encoded rfl fun _ => by simp only [unpack, fStream, toNat_field, b2n_field, plain]
  rw [both]
  exact Prod.ext rfl (encOut_of_outOf (o := (_, _)) rfl plain.2 word)
theorem dAccout_word (word : y < 2 ^ 64) (decoded : dAccout (commonFields core z) x y = some i) (encoded : encodeWord i = some w) :
    w = (firstWord 0x2B (commonFields core z false) (x % 2 ^ 54), y) := by
  obtain rfl := Option.some.inj decoded
  have plain := (enc_eq_some encoded).1
  simp only [commonFields, Bool.or_eq_false_iff, bne_eq_false_iff_eq] at plain
  have both := word_of_enc (x := x) encoded rfl fun _ => by simp only [unpack, fAccout, toNat_field, plain]
  rw [both]
  exact Prod.ext rfl (encOut_of_outOf (o := (_, _)) rfl plain.2 word)
theorem dDma_word (word : y < 2 ^ 64) (decoded : dDma (commonFields core z) x y = some i) (encoded : encodeWord i = some w) :
    w = (firstWord 0x30 (commonFields core z false) (x % 2 ^ 54), y) := by
  obtain rfl := Option.some.inj decoded
  have plain := (enc_eq_some encoded).1
  simp only [commonFields, Bool.or_eq_false_iff, bne_eq_false_iff_eq] at plain
  have second : pack fDma2 (unpack fDma2 y) = y := (pack_unpack fDma2 y).trans (Nat.mod_eq_of_lt word)
  have both := word_of_enc (x := x) encoded rfl fun _ => by simp only [unpack, fDma1, toNat_field, b2n_field, plain]
  rw [both]
  refine Prod.ext rfl (Eq.trans ?_ second)
  simp only [unpack, fDma2, toNat_field, b2n_field, plain]
theorem dFenceI_word (word : y < 2 ^ 64) (decoded : dFenceI (commonFields core z) x y = some i) (encoded : encodeWord i = some w) :
    w = (firstWord 0x3B (commonFields core z false) (x % 2 ^ 54), y) := by
  obtain rfl := Option.some.inj decoded
  have both := word_of_enc (x := x) encoded rfl fun plain => by
    rw [bne_eq_false_iff_eq] at plain
    simp only [unpack, fFenceI, toNat_field, plain]
  rw [both]
  exact Prod.ext rfl (Nat.mod_eq_of_lt word)
/-- An instruction without fields. -/
theorem bare_word {op : Nat} {make : Issue → Instr} (encodes : ∀ h, encodeWord (make h) = enc op h [] [])
    (encoded : encodeWord (make (commonFields core z (rsvAll x))) = some w) :
    w = (firstWord op (commonFields core z false) (x % 2 ^ 54), 0) := by
  obtain ⟨plain, rfl⟩ := enc_eq_some ((encodes _).symm.trans encoded)
  have zero : x % 2 ^ 54 = 0 := by simpa [commonFields, rsvAll] using plain
  rw [zero]
  rfl

/-- The words that a decoded instruction is encoded in: its first word, and its second where it has one. -/
theorem word_of_decodeOp {op : Nat} (word : y < 2 ^ 64) (decoded : decodeOp (commonFields core z) op x y = some i)
    (encoded : encodeWord i = some w) :
    w = (firstWord op (commonFields core z false) (x % 2 ^ 54), if op ∈ [0x2A, 0x2B, 0x30, 0x3B] then y else 0) := by
  unfold decodeOp at decoded
  split at decoded
  case h_1 => exact dSalu_word decoded encoded
  case h_2 => exact dSalui_word decoded encoded
  case h_3 => exact dMovi_word decoded encoded
  case h_4 => exact dCmp_word decoded encoded
  case h_5 => exact dCmpi_word decoded encoded
  case h_6 => exact dPlog_word decoded encoded
  case h_7 => exact dLd_word decoded encoded
  case h_8 => exact dSt_word decoded encoded
  case h_9 => exact dBr_word decoded encoded
  case h_10 => exact dBrr_word decoded encoded
  case h_11 => exact dVop_word decoded encoded
  case h_12 => exact dVun_word decoded encoded
  case h_13 => exact dVcvt_word decoded encoded
  case h_14 => exact vmx_word decoded (fun _ => rfl) encoded
  case h_15 => exact vmx_word decoded (fun _ => rfl) encoded
  case h_16 => exact dVbx_word decoded encoded
  case h_17 => exact dVrng_word decoded encoded
  case h_18 => exact v3_word decoded (fun _ => rfl) encoded
  case h_19 => exact v3_word decoded (fun _ => rfl) encoded
  case h_20 => exact v3_word decoded (fun _ => rfl) encoded
  case h_21 => exact v3_word decoded (fun _ => rfl) encoded
  case h_22 => exact v3_word decoded (fun _ => rfl) encoded
  case h_23 => exact v3_word decoded (fun _ => rfl) encoded
  case h_24 => exact v3_word decoded (fun _ => rfl) encoded
  case h_25 => exact v3_word decoded (fun _ => rfl) encoded
  case h_26 => exact dRsum_word decoded encoded
  case h_27 => exact dRsel_word decoded encoded
  case h_28 => exact rtopk_word decoded (fun _ => rfl) encoded
  case h_29 => exact rtopk_word decoded (fun _ => rfl) encoded
  case h_30 => exact dLoadw_word decoded encoded
  case h_31 => obtain rfl := Option.some.inj decoded; exact bare_word (fun _ => rfl) encoded
  case h_32 => exact dStream_word word decoded encoded
  case h_33 => exact dAccout_word word decoded encoded
  case h_34 => exact dCsadv_word decoded encoded
  case h_35 => exact dDma_word word decoded encoded
  case h_36 => exact dCopy_word decoded encoded
  case h_37 => exact dRing_word decoded encoded
  case h_38 => exact dWin_word decoded encoded
  case h_39 => exact dTask_word decoded encoded
  case h_40 => obtain rfl := Option.some.inj decoded; exact bare_word (fun _ => rfl) encoded
  case h_41 => exact dFence_word decoded encoded
  case h_42 => exact dFenceI_word word decoded encoded
  case h_43 => exact dSys_word decoded encoded
  case h_44 => obtain rfl := Option.some.inj decoded; cases encoded

end Words

end Sys2Proof.Machine

open Sys2Proof.Machine

/-- Settles O56: the fields that a decoder reads are those that its format packs, and no reserved bit is set. -/
theorem encodingGivesTheWordBack : Obligations.EncodingGivesTheWordBack := by
  unfold Obligations.EncodingGivesTheWordBack
  intro core x y i w first second decoded encoded
  rw [decodeWord_eq core y first] at decoded
  have words := word_of_decodeOp second decoded encoded
  rw [Nat.mod_mod, firstWord_commonFields core _ first] at words
  exact ⟨congrArg Prod.fst words, congrArg Prod.snd words⟩
end

section
/-! Branches, and loads and stores of the local stores and of context memory (`06` R139, R140). -/

open Sys2Proof

namespace Sys2Proof.Machine

/-- What an update does to its core matters at that core alone. -/
theorem updCore_congr {s : State} {n : Nat} {f g : Core → Core} (same : f (s.core n) = g (s.core n)) :
    s.updCore n f = s.updCore n g := by
  unfold State.updCore; rw [same]

/-- A register within the 48-bit virtual addresses is a target. -/
theorem toRegister_of_lt {n : Nat} {t : W64} (f : Core → Core) (s : State) (below : t.toNat < 2 ^ 48) :
    toRegister n t f s = .ok (s.updCore n f) (some (t.truncate 48)) := by
  unfold toRegister
  rw [if_neg (Nat.not_le.2 below)]

/-- An aligned range within the stores is no cause. -/
theorem localAccess_none {a n : Nat} (inside : a + n ≤ localEnd) (aligned : a % n = 0) : localAccess a n = none := by
  unfold localAccess
  rw [if_neg (Nat.not_lt.2 inside), if_neg (not_not.2 aligned)]

/-- What nothing conflicts with goes on. -/
theorem interlocked_of_clear {s : State} {n : Nat} {x : Ext} (k : Res (Option W48)) (clear : s.lockedNow n x = false) :
    interlocked s n x k = k := by
  unfold interlocked; rw [clear]; rfl

section Local

variable {s : State} {n a : Nat}

/-- A load of the local stores that nothing conflicts with writes its register. -/
theorem loadLocal_clear {bytes : Nat} (sx : Bool) (rd : BitVec 5) (inside : a + bytes ≤ localEnd) (aligned : a % bytes = 0)
    (clear : s.lockedNow n { r := [(a, bytes)] } = false) :
    loadLocal n sx rd a bytes s = onCore n (fun k => k.wr rd (extend sx (k.bytes a bytes))) s := by
  unfold loadLocal
  rw [localAccess_none inside aligned]
  exact interlocked_of_clear _ clear
/-- A store to the local stores that nothing conflicts with writes its bytes. -/
theorem storeLocal_clear {b : List Byte} (inside : a + b.length ≤ localEnd) (aligned : a % b.length = 0)
    (clear : s.lockedNow n { w := [(a, b.length)] } = false) : storeLocal n a b s = onCore n (fun k => k.put a b) s := by
  unfold storeLocal
  rw [localAccess_none inside aligned]
  exact interlocked_of_clear _ clear

end Local

section Context

variable {s t u : State} {n c a da : Nat}

/-- A load whose line an earlier chain or table of the core holds waits. -/
theorem loadContext_locked {bytes : Nat} {sx : Bool} {rd : BitVec 5} (aligned : a % bytes = 0) (below : a < 2 ^ 48)
    (held : s.lineLocked n (s.core n).disp { r := [(a, bytes)] } = true) : loadContext n c sx rd a bytes s = .wait s := by
  unfold loadContext
  rw [contextAccess_none aligned below, held, Bool.or_true]
  rfl
/-- A store whose line an earlier chain or table of the core holds waits. -/
theorem storeContext_locked {b : List Byte} (aligned : a % b.length = 0) (below : a < 2 ^ 48)
    (held : s.lineLocked n (s.core n).disp { w := [(a, b.length)] } = true) : storeContext n c a b s = .wait s := by
  unfold storeContext
  rw [contextAccess_none aligned below, held]
  rfl
/-- A store that no chain holds back, and whose translation and write complete, is made. -/
theorem storeContext_of_ok {b : List Byte} (aligned : a % b.length = 0) (below : a < 2 ^ 48)
    (free : s.lineLocked n (s.core n).disp { w := [(a, b.length)] } = false) (aims : s.aim n c a b.length .write = .ok t da)
    (writes : t.writeHeld n (t.core n).taskNow da b = .ok u ()) : storeContext n c a b s = .ok (u.touched n c a da) none := by
  unfold storeContext
  rw [contextAccess_none aligned below, free, aims]
  simp only [orLost, Res.bind, writes, Bool.false_eq_true, if_false]

end Context

section Exec

variable {s t : State} {h : Issue} {c : Nat} {size : BitVec 2} {rs ra : BitVec 5} {imm : BitVec 32}

/-- An ST of context memory that waits leaves what its wait says. -/
theorem exec_st_of_wait (e : s.Executes h c { regs := [rs, ra] })
    (waits : storeContext h.core.val c ((s.core h.core.val).rd ra + imm.signExtend 64).toNat
      (leBytes (2 ^ size.toNat) ((s.core h.core.val).rd rs).toNat) s = .wait t) :
    exec (.st h false false size rs ra imm) s = .next t :=
  congrArg Host.Outcome.next (issue_wait (fenceOp := false) e nofun rfl waits)

/-- An ST of context memory that completes retires. -/
theorem exec_st_of_ok (e : s.Executes h c { regs := [rs, ra] })
    (completes : storeContext h.core.val c ((s.core h.core.val).rd ra + imm.signExtend 64).toNat
      (leBytes (2 ^ size.toNat) ((s.core h.core.val).rd rs).toNat) s = .ok t none) :
    exec (.st h false false size rs ra imm) s = .next (t.retired h.core.val (s.pcAfter h 1)) :=
  congrArg Host.Outcome.next (issue_ok (words := 1) (fenceOp := false) (x := none) e nofun rfl completes)

/-- An LD of the local stores that completes retires. -/
theorem exec_ld_local {sx : Bool} (e : s.Executes h c { regs := [rs, ra] })
    (completes : loadLocal h.core.val sx rs ((s.core h.core.val).rd ra + imm.signExtend 64).toNat (2 ^ size.toNat) s =
      .ok t none) : exec (.ld h true sx size rs ra imm) s = .next (t.retired h.core.val (s.pcAfter h 1)) :=
  congrArg Host.Outcome.next (issue_ok (words := 1) (fenceOp := false) (x := none) e nofun rfl completes)

/-- An ST of the local stores that completes retires. -/
theorem exec_st_local (e : s.Executes h c { regs := [rs, ra] })
    (completes : storeLocal h.core.val ((s.core h.core.val).rd ra + imm.signExtend 64).toNat
      (leBytes (2 ^ size.toNat) ((s.core h.core.val).rd rs).toNat) s = .ok t none) :
    exec (.st h true false size rs ra imm) s = .next (t.retired h.core.val (s.pcAfter h 1)) :=
  congrArg Host.Outcome.next (issue_ok (words := 1) (fenceOp := false) (x := none) e nofun rfl completes)

/-- A word that cannot be run loses the context of a core that issues. -/
theorem badWord_issues {n cause : Nat} (holds : s.coreCtx n = some c) (issues : s.issues n c = true) :
    badWord n cause s = s.lose c cause (some n) (s.core n).pc := by
  unfold badWord
  simp only [holds, issues, if_true]

/-- A load in flight that carries no predicate writes its register. -/
theorem loadReturn_of_none {k : Core} {i : Nat} {l : Load} (flies : k.loads[i]? = some l) (bare : l.pred = none) :
    k.loadReturn i = { k with loads := k.loads.eraseIdx i }.wr (BitVec.ofNat 5 l.rd) l.val := by
  unfold Core.loadReturn
  simp only [flies, bare]

end Exec

end Sys2Proof.Machine

open Sys2Proof.Machine

/-- Settles O3: each branch that executes retires at its target, with its link written. -/
theorem branches : Obligations.Branches := by
  unfold Obligations.Branches
  intro s h c rd ra imm n k link target
  refine ⟨fun e => ?_, fun e => ?_, fun e below => ?_, fun e below => ?_⟩
  · exact congrArg Host.Outcome.next (issue_ok (words := 1) (x := some target) e nofun rfl rfl)
  · rw [exec_brl, ← updCore_congr (f := fun k => k.wr rd (linkOf k.pc)) (g := fun k => k.wr rd link) rfl]
    exact congrArg Host.Outcome.next (issue_ok (words := 1) (x := some target) e nofun rfl rfl)
  · exact congrArg Host.Outcome.next (issue_ok (words := 1) (fenceOp := false) (x := some ((k.rd ra).truncate 48)) e nofun rfl
      (toRegister_of_lt id s below))
  · rw [exec_brrl, ← updCore_congr (f := fun k => k.wr rd (linkOf k.pc)) (g := fun k => k.wr rd link) rfl]
    exact congrArg Host.Outcome.next (issue_ok (words := 1) (fenceOp := false) (x := some ((k.rd ra).truncate 48)) e nofun rfl
      (toRegister_of_lt _ s below))

/-- Settles O4: an access of the local stores that nothing conflicts with, and the bytes that a write leaves. -/
theorem localLoadStore : Obligations.LocalLoadStore := by
  unfold Obligations.LocalLoadStore
  refine ⟨?access, fun k a x b outside => bytesAt_putBytes_apart _ _ _ _ _ (by omega)⟩
  intro s h c rd ra imm sx size e n a z inside aligned
  refine ⟨fun clear => ?_, fun clear => ?_⟩
  · exact exec_ld_local e (loadLocal_clear sx rd inside aligned clear)
  · have bytes : (leBytes z ((s.core n).rd rd).toNat).length = z := leBytes_length ..
    exact exec_st_local e (storeLocal_clear (by rwa [bytes]) (by rwa [bytes]) (by rwa [bytes]))

/-- Settles O5: loads and stores of context memory that wait or complete, a load that returns, and words that lose. -/
theorem contextLoadStore : Obligations.ContextLoadStore := by
  unfold Obligations.ContextLoadStore
  refine ⟨?access, fun s h core i l c op => ?words⟩
  case access =>
    intro s t u h c rd ra imm sx size da b e n a z aligned below
    have bytes : (leBytes z ((s.core n).rd rd).toNat).length = z := leBytes_length ..
    refine ⟨fun room free aims reads => ?_, fun free aims writes => ?_, fun held => ?_, fun held => ?_⟩
    · exact exec_ld_of_ok e (loadContext_room aligned below room free aims reads)
    · exact exec_st_of_ok e (storeContext_of_ok (by rwa [bytes]) below (by rwa [bytes]) (by rwa [bytes]) writes)
    · exact exec_ld_of_wait e (loadContext_locked aligned below held)
    · exact exec_st_of_wait e (storeContext_locked (by rwa [bytes]) below (by rwa [bytes]))
  case words =>
    refine ⟨fun flies bare => ?_, fun holds issues free aligned => ?_, fun holds issues => ?_⟩
    · exact congrArg Host.Outcome.next (updCore_congr (loadReturn_of_none flies bare))
    · rw [exec_unassignedMajorOpcode, execUnassignedMajorOpcode, free, if_pos aligned]
      exact congrArg Host.Outcome.next (badWord_issues holds issues)
    · exact congrArg Host.Outcome.next (badWord_issues holds issues)
end

section
/-! Dispatch to the units, and the instructions of the vector unit (`05` R114–R121, `06` R141–R145). -/

open Sys2Proof

namespace Sys2Proof.Machine

/-! ### Dispatch (`02` R31, R36, `06` R155) -/

section Dispatch

variable {s t : State} {h : Issue} {n c u : Nat} {i : Instr} {w : Work} {p : Perform}

/-- An instruction whose unit is idle, and that nothing earlier conflicts with, is performed at its dispatch. -/
theorem dispatch_performs (idle : (s.core n).unit u = []) (clear : s.lockedNow n w.ext = false)
    (does : p n c (s.dispatched n i w) s = .ok t ()) : dispatch u i w p n c s = .ok (t.updCore n Core.numbered) none := by
  unfold dispatch
  have clear' : s.locked n (s.dispatched n i w).num w.ext = false := clear
  simp only [idle, clear', does, List.isEmpty_nil, Bool.not_false, Bool.and_self, if_true]

/-- One whose unit is busy, or that earlier work conflicts with, goes into its unit's queue where that has room. -/
theorem dispatch_enqueues (busy : (s.core n).unit u ≠ [] ∨ s.locked n (s.core n).disp w.ext = true)
    (room : ((s.core n).unit u).length < unitDepth u) :
    dispatch u i w p n c s = .ok (s.updCore n fun k => { k with
      units := Tab.upd [] k.units u fun l => l ++ [s.dispatched n i w] }.numbered) none := by
  have waits : (((s.core n).unit u).isEmpty && !s.locked n (s.dispatched n i w).num w.ext) = false := by
    rcases busy with busy | locked
    · simp [busy]
    · rw [show s.locked n (s.dispatched n i w).num w.ext = true from locked, Bool.not_true, Bool.and_false]
  unfold dispatch State.enqueue
  simp only [waits, Bool.false_eq_true, if_false]
  rw [if_neg (Nat.not_le.2 room)]

/-- A unit performs the first instruction of its queue once nothing earlier conflicts with it. -/
theorem unitStep_performs {q : Instr → Perform} {d : Dispatched} {rest : List Dispatched} (front : (s.core n).unit u = d :: rest)
    (clear : s.locked n d.num d.ext = false) (does : q d.ins n c d s = .ok t ()) :
    s.unitStep q u n c = t.updCore n fun k => { k with units := Tab.upd [] k.units u (·.drop 1) } := by
  unfold State.unitStep
  simp only [front, clear, does, Bool.false_eq_true, if_false]

/-- An instruction that executes, and that its unit performs at its dispatch on its core alone. -/
theorem issue_performs {bad : Option Nat} {x : Uses} {f : Core → Core} (e : s.Executes h c x) (legal : bad = none)
    (idle : (s.core h.core.val).unit u = []) (clear : s.lockedNow h.core.val w.ext = false)
    (does : p h.core.val c (s.dispatched h.core.val i w) s = .ok (s.updCore h.core.val f) ()) :
    issue h 1 false bad x s (fun c s => dispatch u i w p h.core.val c s) = s.performed h 1 f :=
  issue_ok (words := 1) (fenceOp := false) (x := none) e nofun legal (dispatch_performs idle clear does)

/-- A core that dispatches now has the register values of the dispatch. -/
theorem asDispatched_dispatched : (s.core n).asDispatched (s.dispatched n i w) = s.core n := rfl

end Dispatch

/-! ### Format VOP (`06` R143) -/

section Vop

variable {s : State} {h : Issue} {c : Nat} {f : VOp} {tys : Nat → Prop} {satOk xOk : Prop}

/-- A VOP instruction that executes has no cause. -/
theorem vopCause_none {types : Nat → Bool} {sat x : Bool} (e : s.VopRuns h c tys satOk xOk f)
    (typed : ∀ t, t ≤ 5 → tys t → types t = true) (sats : satOk → sat = true) (xs : xOk → x = true) :
    vopCause types sat x f = none := by
  have legal : vopBad types sat x f = false := by
    have type := typed _ e.ty.1 e.ty.2
    have inType := e.ty.1
    have saturates := e.sat
    have breg := e.bIn
    have signed := e.x
    unfold vopBad
    simp only [type, Bool.or_eq_false_iff, Bool.and_eq_false_iff, decide_eq_false_iff_not, Bool.not_eq_false', Bool.not_true,
      Bool.and_eq_true, decide_eq_true_eq]
    refine ⟨⟨⟨⟨by omega, trivial⟩, ?_⟩, ?_⟩, ?_⟩
    · rcases Bool.eq_false_or_eq_true f.sat with on | off
      · exact .inr ⟨sats (saturates on).1, (saturates on).2⟩
      · exact .inl off
    · rcases Bool.eq_false_or_eq_true f.breg with on | off
      · rw [if_pos on] at breg; exact .inr (by omega)
      · exact .inl off
    · rcases Bool.eq_false_or_eq_true f.x with on | off
      · rcases signed on with ok | int
        · exact .inl (.inl (xs ok))
        · exact .inl (.inr (by omega))
      · exact .inr off
  unfold vopCause
  rw [legal]
  refine slotCause_none fun r run => ?_
  rcases List.mem_append.1 run with own | source
  · simp only [List.mem_cons, List.not_mem_nil, or_false] at own
    rcases own with rfl | rfl
    · exact e.dIn
    · exact e.aIn
  · have b := e.bIn
    split at source
    · cases source
    · next slots =>
      rw [if_neg slots] at b
      cases List.mem_singleton.1 source
      exact b

/-- A VOP instruction that executes is performed, element by element. -/
theorem vop_performs {types : Nat → Bool} {sat x : Bool} {op : Elem2} {i : Instr} {g : Nat → Nat → Nat × Nat}
    (e : s.VopRuns h c tys satOk xOk f) (means : exec i s = vop op types sat x i h f s)
    (typed : ∀ t, t ≤ 5 → tys t → types t = true) (sats : satOk → sat = true) (xs : xOk → x = true)
    (elem : ∀ a b, op f.ty.toNat f.x f.sat a b = g a b) : exec i s = .next (s.vopNext h f g) := by
  obtain rfl : op f.ty.toNat f.x f.sat = g := funext₂ elem
  rw [means]
  exact congrArg Host.Outcome.next
    (issue_performs e.exe (vopCause_none e typed sats xs) e.idle e.clear rfl)

end Vop

/-- An operation of integer and float types. -/
theorem elem2_eq {i : (sg sat : Bool) → (w a b : Nat) → Nat × Nat} {g : (code : Nat) → (r : Rnd) → (a b : Nat) → Nat × Nat}
    {ty : Nat} (typed : ty ≤ 5) (x sat : Bool) (a b : Nat) :
    elem2 i g ty x sat a b = if ty ≤ 2 then i x sat (tyWidth ty) a b else g (tyFmt ty) (rnd1 x) a b := by
  unfold elem2 tyFloat
  split <;> split <;> simp_all <;> omega

theorem tyFloat_of_le {t : Nat} (typed : t ≤ 5) (float : 3 ≤ t) : tyFloat t = true := by
  unfold tyFloat; simp; omega

/-- An operation on the bits of 32-bit lanes. -/
theorem elemBits_lane {g : (w a b : Nat) → Nat} {ty : Nat} (lane : ty = 2) (x sat : Bool) (a b : Nat) :
    elemBits g ty x sat a b = (g 32 a b % 2 ^ 32, 0) := by
  subst lane; rfl

/-- A compare of two elements (`05` R118). -/
theorem opVcmp_eq {i : Int → Int → Bool} {g : FVal → FVal → Bool} {nan sig : Bool} {ty : Nat} (typed : ty ≤ 5) (x sat : Bool)
    (a b : Nat) : opVcmp i g nan sig ty x sat a b =
      if ty ≤ 2 then (mask (tyWidth ty) (i (readInt x (tyWidth ty) a) (readInt x (tyWidth ty) b)), 0)
      else fltCmp g nan sig (tyFmt ty) a b :=
  elem2_eq typed x sat a b

/-! ### VANY and VALL (`06` R143) -/

/-- VANY or VALL that executes writes its predicate. -/
theorem vpred_performs {s : State} {h : Issue} {c : Nat} {f : VOp} {q : (Nat → Bool) → List Nat → Bool} {i : Instr}
    (means : exec i s = vpred q i h f s)
    (e : s.Executes h c { preds := [BitVec.ofNat 3 f.d.toNat] }) (pd : f.d.toNat ≤ 7) (b : f.b = 0) (incB : f.incB = false)
    (breg : f.breg = false) (sat : f.sat = false) (ty : f.ty.toNat ≤ 5)
    (run : f.a.toNat + (if f.incA then f.n1.toNat + 1 else 1) ≤ 2048)
    (clear : s.lockedNow h.core.val { r := [slotRange (runOf f.a.toNat f.incA (f.n1.toNat + 1))] } = false)
    (idle : (s.core h.core.val).unit 1 = []) :
    exec i s = .next (s.performed h 1 fun k => k.pw (BitVec.ofNat 3 f.d.toNat)
      (q (nonZero f.ty.toNat) (runElems (tyWidth f.ty.toNat) f.a.toNat f.incA (f.n1.toNat + 1) k))) := by
  have legal : (decide (7 < f.d.toNat) || f.b != 0 || f.incB || f.breg || f.sat || decide (5 < f.ty.toNat)) = false := by
    simp [b, incB, breg, sat, pd, ty]
  have slots : slotCause [runOf f.a.toNat f.incA (f.n1.toNat + 1)] = none :=
    slotCause_none fun r listed => by cases List.mem_singleton.1 listed; exact run
  rw [means]
  refine congrArg Host.Outcome.next (issue_performs e ?_ idle clear rfl)
  rw [legal]
  exact slots

end Sys2Proof.Machine

open Sys2Proof.Machine

/-- Settles O7: each operation on an element, performed at dispatch; otherwise the queue of the unit, and its step. -/
theorem vectorTwoSource : Obligations.VectorTwoSource := by
  unfold Obligations.VectorTwoSource
  refine ⟨?arithmetic, ?bits, ?compares, ?queues⟩
  case arithmetic =>
    intro s h c f w r wide
    refine ⟨fun e => ⟨?_, ?_⟩, fun e => ⟨?_, ?_⟩, fun e => ?_, fun e => ⟨?_, ?_⟩⟩
    · exact vop_performs e (exec_vadd ..) (fun _ _ _ => rfl) (fun _ => rfl) (fun _ => rfl) (elem2_eq e.ty.1 _ _)
    · exact vop_performs e (exec_vsub ..) (fun _ _ _ => rfl) (fun _ => rfl) (fun _ => rfl) (elem2_eq e.ty.1 _ _)
    · exact vop_performs e (exec_vmulLo ..) (fun _ _ => decide_eq_true) False.elim (fun _ => rfl) fun _ _ => rfl
    · exact vop_performs e (exec_vmulHi ..) (fun _ _ => decide_eq_true) False.elim (fun _ => rfl) fun _ _ => rfl
    · exact vop_performs e (exec_vmul ..) (fun _ => tyFloat_of_le) False.elim (fun _ => rfl) fun _ _ => rfl
    · exact vop_performs e (exec_vmin ..) (fun _ _ _ => rfl) False.elim False.elim (elem2_eq e.ty.1 _ _)
    · exact vop_performs e (exec_vmax ..) (fun _ _ _ => rfl) False.elim False.elim (elem2_eq e.ty.1 _ _)
  case bits =>
    intro s h c f w
    refine ⟨fun e => ⟨?_, ?_, ?_⟩, fun e => ⟨?_, ?_, ?_, ?_⟩⟩
    · exact vop_performs e (exec_vshl ..) (fun _ _ => decide_eq_true) False.elim (fun _ => rfl) fun _ _ => rfl
    · exact vop_performs e (exec_vshr ..) (fun _ _ => decide_eq_true) False.elim (fun _ => rfl) fun _ _ => rfl
    · exact vop_performs e (exec_vshra ..) (fun _ _ => decide_eq_true) False.elim (fun _ => rfl) fun _ _ => rfl
    · exact vop_performs e (exec_vand ..) (fun _ _ => beq_iff_eq.2) False.elim (fun _ => rfl) (elemBits_lane e.ty.2 _ _)
    · exact vop_performs e (exec_vor ..) (fun _ _ => beq_iff_eq.2) False.elim (fun _ => rfl) (elemBits_lane e.ty.2 _ _)
    · exact vop_performs e (exec_vxor ..) (fun _ _ => beq_iff_eq.2) False.elim (fun _ => rfl) (elemBits_lane e.ty.2 _ _)
    · exact vop_performs e (exec_vandn ..) (fun _ _ => beq_iff_eq.2) False.elim (fun _ => rfl) (elemBits_lane e.ty.2 _ _)
  case compares =>
    intro s h c f w code n cmp
    refine ⟨fun e => ⟨?_, ?_, ?_, ?_⟩, fun e pd b incB breg sat ty run clear idle => ⟨?_, ?_⟩⟩
    · exact vop_performs e (exec_vcmpEq ..) (fun _ _ _ => rfl) False.elim False.elim (opVcmp_eq e.ty.1 _ _)
    · exact vop_performs e (exec_vcmpNe ..) (fun _ _ _ => rfl) False.elim False.elim (opVcmp_eq e.ty.1 _ _)
    · exact vop_performs e (exec_vcmpLt ..) (fun _ _ _ => rfl) False.elim False.elim (opVcmp_eq e.ty.1 _ _)
    · exact vop_performs e (exec_vcmpLe ..) (fun _ _ _ => rfl) False.elim False.elim (opVcmp_eq e.ty.1 _ _)
    · exact vpred_performs (q := anyOf) (exec_vany ..) e pd b incB breg sat ty run clear idle
    · exact vpred_performs (q := allOf) (exec_vall ..) e pd b incB breg sat ty run clear idle
  case queues =>
    intro s t h c u n f i w p q d rest
    refine ⟨fun e legal busy room => ?_, fun busy room => dispatch_enqueues busy room,
      fun front clear does => unitStep_performs front clear does⟩
    exact congrArg Host.Outcome.next (issue_ok (words := 1) (fenceOp := false) (x := none) e nofun legal
      (dispatch_enqueues (.inl busy) room))
end

section
/-! One- and three-source instructions of the vector unit (`05` R118, R120, `06` R144). -/

open Sys2Proof

namespace Sys2Proof.Machine

section Vun

variable {s : State} {h : Issue} {c : Nat} {f : VUn} {tys : Nat → Prop} {satOk : Prop}

/-- A VUN instruction that executes is performed, element by element. -/
theorem vun_performs {types : Nat → Bool} {sat : Bool} {op : Elem1} {i : Instr} {g : Nat → Nat × Nat}
    (e : s.VunRuns h c tys satOk f) (means : exec i s = vun op types sat i h f s)
    (typed : ∀ t, t ≤ 5 → tys t → types t = true) (sats : satOk → sat = true)
    (elem : ∀ x, op f.ty.toNat f.sat x = g x) : exec i s = .next (s.vunNext h f g) := by
  have legal : (decide (5 < f.ty.toNat) || !types f.ty.toNat || (f.sat && !(sat && decide (f.ty.toNat ≤ 2)))) = false := by
    have saturates := e.sat
    rw [typed _ e.ty.1 e.ty.2, decide_eq_false (Nat.not_lt.2 e.ty.1)]
    cases on : f.sat
    · rfl
    · obtain ⟨ok, int⟩ := saturates on
      rw [sats ok, decide_eq_true int]
      rfl
  have slots : slotCause [(f.d.toNat, f.n1.toNat + 1), runOf f.a.toNat f.incA (f.n1.toNat + 1)] = none := by
    refine slotCause_none fun r run => ?_
    simp only [List.mem_cons, List.not_mem_nil, or_false] at run
    rcases run with rfl | rfl
    · exact e.dIn
    · exact e.aIn
  obtain rfl : op f.ty.toNat f.sat = g := funext elem
  rw [means]
  refine congrArg Host.Outcome.next (issue_performs e.exe ?_ e.idle e.clear rfl)
  rw [legal]
  exact slots

end Vun

/-- VABS of an integer or of a float. -/
theorem opVabs_eq {ty : Nat} (typed : ty ≤ 5) (sat : Bool) (x : Nat) : opVabs ty sat x =
    if ty ≤ 2 then intSat true sat (tyWidth ty) (toInt (tyWidth ty) x).natAbs
    else fltSign (fun w x => x % 2 ^ (w - 1)) ty x := by
  unfold opVabs
  rcases Nat.lt_or_ge 2 ty with float | int
  · rw [if_pos (tyFloat_of_le typed float), if_neg (Nat.not_le.2 float)]
  · rw [if_neg (by unfold tyFloat; simp; omega), if_pos int]

section V3

variable {s : State} {h : Issue} {c n : Nat} {f : V3} {rndOk : Prop}

/-- A V3 instruction that executes is performed, slot by slot. -/
theorem v3_performs {w wc : Nat} {rnd : Bool} {op : Elem3} {i : Instr} {g : List Nat → List Nat → List Nat → List (Nat × Nat)}
    (e : s.V3Runs h c rndOk f n) (means : exec i s = v3 w wc op rnd i h f s) (rounds : rndOk → rnd = true)
    (elem : op (rnd1 f.rnd) = g) : exec i s = .next (s.v3Next h f n w wc g) := by
  have legal : ((f.breg && decide (31 < f.b.toNat)) || (f.rnd && !rnd)) = false := by
    have breg := e.bIn
    have round := e.rnd
    rw [Bool.or_eq_false_iff]
    constructor
    · cases on : f.breg
      · rfl
      · rw [if_pos on] at breg
        exact decide_eq_false (by omega)
    · cases on : f.rnd
      · rfl
      · rw [rounds (round on)]
        rfl
  have slots : slotCause ([(f.d.toNat, n), runOf f.a.toNat f.incA n, runOf f.c.toNat f.incC n] ++
      if f.breg then [] else [runOf f.b.toNat f.incB n]) = none := by
    refine slotCause_none fun r run => ?_
    rcases List.mem_append.1 run with own | source
    · simp only [List.mem_cons, List.not_mem_nil, or_false] at own
      rcases own with rfl | rfl | rfl
      · exact e.dIn
      · exact e.aIn
      · exact e.cIn
    · have b := e.bIn
      split at source
      · cases source
      · next slot =>
        rw [if_neg slot] at b
        cases List.mem_singleton.1 source
        exact b
  obtain ⟨count, least, most⟩ := e.num
  have cause : (if n = 0 || 256 < n then some 0x02 else slotCause ([(f.d.toNat, n), runOf f.a.toNat f.incA n,
      runOf f.c.toNat f.incC n] ++ if f.breg then [] else [runOf f.b.toNat f.incB n])) = none := by
    rw [if_neg (by simp; omega), slots]
  subst elem
  rw [means]
  refine congrArg Host.Outcome.next (issue_ok (words := 1) (fenceOp := false) (x := none) e.exe nofun (by rw [legal]; rfl)
    (t := (s.updCore h.core.val _).updCore h.core.val Core.numbered) ?_)
  simp only [count, cause, orLost]
  refine dispatch_performs e.idle e.clear ?_
  unfold v3Run
  simp only [asDispatched_dispatched, count]

end V3

end Sys2Proof.Machine

open Sys2Proof.Machine

/-- Settles O8: each operation on an element, performed at dispatch. -/
theorem vectorOneAndThreeSource : Obligations.VectorOneAndThreeSource := by
  unfold Obligations.VectorOneAndThreeSource
  refine ⟨?one, ?three⟩
  case one =>
    intro s h c f w sign
    refine ⟨fun e => ?_, fun e => ?_, fun e => ⟨?_, ?_⟩, fun e => ⟨?_, ?_, ?_, ?_, ?_⟩⟩
    · exact vun_performs e (exec_vabs ..) (fun _ _ _ => rfl) (fun _ => rfl) (opVabs_eq e.ty.1 _)
    · exact vun_performs e (exec_vneg ..) (fun _ => tyFloat_of_le) False.elim fun _ => rfl
    · exact vun_performs e (exec_vnot ..) (fun _ _ => beq_iff_eq.2) False.elim fun _ => rfl
    · exact vun_performs e (exec_vmov ..) (fun _ _ => beq_iff_eq.2) False.elim fun _ => rfl
    · exact vun_performs e (exec_vexp2 ..) (fun _ _ => beq_iff_eq.2) False.elim fun _ => rfl
    · exact vun_performs e (exec_vlog2 ..) (fun _ _ => beq_iff_eq.2) False.elim fun _ => rfl
    · exact vun_performs e (exec_vrcp ..) (fun _ _ => beq_iff_eq.2) False.elim fun _ => rfl
    · exact vun_performs e (exec_vrsq ..) (fun _ _ => beq_iff_eq.2) False.elim fun _ => rfl
    · exact vun_performs e (exec_vtanh ..) (fun _ _ => beq_iff_eq.2) False.elim fun _ => rfl
  case three =>
    intro s h c n f ty w fp16
    refine ⟨fun e => ⟨?_, ?_⟩, fun e => ?_⟩
    · exact v3_performs e (exec_vfma ..) (fun _ => rfl) rfl
    · exact v3_performs e (exec_vdot2 ..) (fun _ => rfl) rfl
    · exact v3_performs e (exec_vsel ..) False.elim rfl
end

section
/-! The reduction unit (`05` R122–R124, `06` R146, R147). -/

open Sys2Proof

namespace Sys2Proof.Machine

/-- What an instruction does at its dispatch matters at its core alone. -/
theorem performed_congr {s : State} {h : Issue} {words : Nat} {f g : Core → Core}
    (same : f (s.core h.core.val) = g (s.core h.core.val)) : s.performed h words f = s.performed h words g := by
  unfold State.performed; rw [updCore_congr same]

section Sums

variable {s t : State} {h : Issue} {c dn : Nat} {tys : List Nat} {pre sq : Bool} {f : RFmt} {r0 : Red} {i : Instr}

/-- A reduction that executes has no cause. -/
theorem rsumCause_none (e : s.RedRuns h c tys dn pre sq f r0) : rsumCause tys dn pre f = none := by
  have typed : (!tys.contains f.ty.toNat) = false := by simpa using e.ty
  have bare : (!f.init && !f.save && f.accs.toNat != 2047) = false := by
    cases init : f.init <;> cases save : f.save <;> simp [e.none, *]
  have apart : ((f.init || f.save) &&
      (decide (f.src.toNat ≤ f.accs.toNat) && decide (f.accs.toNat < f.src.toNat + (f.n1.toNat + 1)) ||
        decide (f.dst.toNat ≤ f.accs.toNat) && decide (f.accs.toNat < f.dst.toNat + dn))) = false := by
    have outside := e.apart
    rw [← Bool.or_eq_true] at outside
    rcases Bool.eq_false_or_eq_true (f.init || f.save) with used | unused
    · have := outside used
      simp only [Bool.and_eq_false_iff, Bool.or_eq_false_iff, decide_eq_false_iff_not]
      omega
    · rw [unused, Bool.false_and]
  have placed : (pre && f.dst.toNat != f.src.toNat && decide (f.dst.toNat < f.src.toNat + (f.n1.toNat + 1)) &&
      decide (f.src.toNat < f.dst.toNat + (f.n1.toNat + 1))) = false := by
    have place := e.place
    cases pre
    · rfl
    · simp only [Bool.true_and, Bool.and_eq_false_iff, bne_eq_false_iff_eq, decide_eq_false_iff_not]
      rcases place rfl with same | below | above
      · exact .inl (.inl (congrArg _ same))
      · exact .inr (by omega)
      · exact .inl (.inr (by omega))
  unfold rsumCause
  simp only [typed, e.idx, bare, apart, placed, bne_self_eq_false, Bool.or_self, Bool.false_eq_true, if_false]
  refine slotCause_none fun r run => ?_
  simp only [List.mem_cons, List.not_mem_nil, or_false] at run
  rcases run with rfl | rfl
  · exact e.srcIn
  · exact e.dstIn

/-- A reduction that executes is performed at its dispatch. -/
theorem reduction_performs {p : Perform} (e : s.RedRuns h c tys dn pre sq f r0)
    (means : exec i s = .next (issue h 1 false (rsumCause tys dn pre f) {} s fun c s =>
      dispatch 2 i { ext := redExt f dn } p h.core.val c s))
    (does : p h.core.val c (s.dispatched h.core.val i { ext := redExt f dn }) s = .ok t ()) :
    exec i s = .next ((t.updCore h.core.val Core.numbered).retired h.core.val (s.pcAfter h 1)) := by
  rw [means]
  exact congrArg Host.Outcome.next (issue_ok (words := 1) (fenceOp := false) (x := none) e.exe nofun (rsumCause_none e)
    (dispatch_performs e.idle e.clear does))

/-- A sum adds the elements to the exact state, and finishes. -/
theorem redSumRun_ok {n : Nat} {int : Bool} {fin : Finish} {d : Dispatched}
    (start : redStart f (winOf sq f.ty.toNat) (s.core n) = some r0) :
    let win := winOf sq f.ty.toNat
    let x := redRun win r0 (redAll f (s.core n) (f.n1.toNat + 1)) s
    let y := redFree int x.1 x.2.1
    redSumRun sq int fin f n c d s =
      .ok (y.2.updCore n fun k => redSave f win x.1 (fin y.1 x.1 win (k.raise x.2.2))) () := by
  unfold redSumRun
  simp only [start]

/-- Prefix sums within the term limit. -/
theorem rpsumRun_ok {n : Nat} {incl : Bool} {d : Dispatched}
    (start : redStart f (winOf false f.ty.toNat) (s.core n) = some r0) (within : r0.count + 64 * (f.n1.toNat + 1) ≤ 2 ^ 42)
    (valued : r0.spec.testBit 3 = false) :
    rpsumRun incl f n c d s = .ok (s.updCore n fun k =>
      let x := prefixRun incl (f.ty == 2) (winOf false f.ty.toNat) f.src.toNat f.dst.toNat 0 (f.n1.toNat + 1) r0 k
      redSave f (winOf false f.ty.toNat) x.1 x.2) () := by
  have inLimit : (decide (2 ^ 42 < r0.count + 64 * (f.n1.toNat + 1)) || (f.ty == 2 && r0.spec.testBit 3)) = false := by
    rw [valued, Bool.and_false, Bool.or_false]
    exact decide_eq_false (Nat.not_lt.2 within)
  unfold rpsumRun
  simp only [start, inLimit, Bool.false_eq_true, if_false]

end Sums

/-- RSEL's legal encodings. -/
theorem rselCause_none {f : RFmt} (accs : f.accs = 2047) (save : f.save = false) (init : f.init = false)
    (ty : f.ty = 2 ∨ f.ty = 3) (src : f.src.toNat + (f.n1.toNat + 1) ≤ 2048) : rselCause f = none := by
  have legal : (f.accs != 2047 || f.save || f.init || (f.ty != 2 && f.ty != 3)) = false := by
    rcases ty with ty | ty <;> simp [accs, save, init, ty]
  unfold rselCause
  rw [legal]
  exact slotCause_none fun r run => by cases List.mem_singleton.1 run; exact src

/-- RTOPK's legal encodings. -/
theorem rtopkCause_none {f : RTopk} (accs : f.accs = 2047) (save : f.save = false)
    (apart : f.dst.toNat + 2 ≤ f.src.toNat ∨ f.src.toNat + (f.n1.toNat + 1) ≤ f.dst.toNat)
    (src : f.src.toNat + (f.n1.toNat + 1) ≤ 2048) (dst : f.dst.toNat + 2 ≤ 2048) :
    (if f.accs != 2047 || f.save || (decide (f.src.toNat ≤ f.dst.toNat) && decide (f.dst.toNat < f.src.toNat + (f.n1.toNat + 1))) ||
        (decide (f.src.toNat ≤ f.dst.toNat + 1) && decide (f.dst.toNat + 1 < f.src.toNat + (f.n1.toNat + 1))) then some 0x02
      else slotCause [(f.src.toNat, f.n1.toNat + 1), (f.dst.toNat, 2)]) = none := by
  have legal : (f.accs != 2047 || f.save ||
      (decide (f.src.toNat ≤ f.dst.toNat) && decide (f.dst.toNat < f.src.toNat + (f.n1.toNat + 1))) ||
      (decide (f.src.toNat ≤ f.dst.toNat + 1) && decide (f.dst.toNat + 1 < f.src.toNat + (f.n1.toNat + 1)))) = false := by
    simp only [accs, save, bne_self_eq_false, Bool.false_or, Bool.or_eq_false_iff, Bool.and_eq_false_iff, decide_eq_false_iff_not]
    omega
  rw [legal]
  refine slotCause_none fun r run => ?_
  simp only [List.mem_cons, List.not_mem_nil, or_false] at run
  rcases run with rfl | rfl
  · exact src
  · exact dst

/-- An extreme that executes writes its lanes. -/
theorem rsel_performs {s : State} {h : Issue} {c : Nat} {f : RFmt} {idx : Bool} {lt : Bool → Cand → Cand → Bool} {out : Lanes}
    {i : Instr} {lanes : Core → List Nat} (means : exec i s = rsel idx lt out i h f s)
    (e : s.Executes h c { regs := if idx then [f.gidx] else [] }) (legal : rselCause f = none)
    (idle : (s.core h.core.val).unit 2 = [])
    (clear : s.lockedNow h.core.val { r := [slotRange (f.src.toNat, f.n1.toNat + 1)], w := [slotRange (f.dst.toNat, 1)] } = false)
    (value : ∀ k, out (f.ty == 2) (k.rd f.gidx) (firstBy (lt (f.ty == 2)) (candidates k f.src.toNat (f.n1.toNat + 1))) = lanes k) :
    exec i s = .next (s.performed h 1 fun k => k.put (slotOff f.dst.toNat) (packElems 32 (lanes k))) := by
  rw [means]
  refine congrArg Host.Outcome.next ((issue_performs e legal idle clear rfl).trans (performed_congr ?_))
  exact congrArg (fun l => (s.core h.core.val).put (slotOff f.dst.toNat) (packElems 32 l)) (value _)

end Sys2Proof.Machine

open Sys2Proof.Machine

/-- Settles O12: sums and running sums from their exact state; extremes and RTOPK by their order. -/
theorem reductions : Obligations.Reductions := by
  unfold Obligations.Reductions
  refine ⟨?sums, ?prefixes, ?extremes⟩
  case sums =>
    intro s h c f r0 n gives
    refine ⟨fun e => ?_, fun e => ?_, fun e => ?_⟩
    · exact reduction_performs e (exec_rsum ..) (redSumRun_ok e.start)
    · exact reduction_performs e (exec_rssq ..) (redSumRun_ok e.start)
    · exact reduction_performs e (exec_risum ..) (redSumRun_ok e.start)
  case prefixes =>
    intro s h c f r0 n win e within valued gives
    refine ⟨?_, ?_⟩
    · exact reduction_performs e (exec_rpsumI ..) (rpsumRun_ok e.start within valued)
    · exact reduction_performs e (exec_rpsumE ..) (rpsumRun_ok e.start within valued)
  case extremes =>
    intro s h c f g i32 n first gives idle
    refine ⟨fun accs save init ty src clear => ?_, ?_⟩
    · have legal := rselCause_none accs save init ty src
      refine ⟨fun e => ⟨?_, ?_⟩, fun e => ⟨?_, ?_⟩⟩
      · exact rsel_performs (exec_rmax ..) e legal idle clear fun _ => rfl
      · exact rsel_performs (exec_rmin ..) e legal idle clear fun _ => rfl
      · exact rsel_performs (exec_rargmax ..) e legal idle clear fun _ => rfl
      · exact rsel_performs (exec_rargmin ..) e legal idle clear fun _ => rfl
    · intro m src dst e accs save apart srcIn dstIn clear
      exact congrArg Host.Outcome.next ((issue_performs e (rtopkCause_none accs save apart srcIn dstIn) idle clear rfl).trans
        (performed_congr rfl))
end

section
/-! Conversions and the lane generators (`05` R119, R125–R130, `06` R142, R145). -/

open Sys2Proof

namespace Sys2Proof.Machine

section Issue

variable {s t : State} {h : Issue} {c u : Nat} {i : Instr} {w : Work} {p : Perform} {bad : Option Nat} {x : Uses}

/-- An instruction that executes, and that its unit performs at its dispatch. -/
theorem issue_dispatches {body : Nat → State → Res (Option W48)} (e : s.Executes h c x) (legal : bad = none)
    (idle : (s.core h.core.val).unit u = []) (clear : s.lockedNow h.core.val w.ext = false)
    (means : body c s = dispatch u i w p h.core.val c s)
    (does : p h.core.val c (s.dispatched h.core.val i w) s = .ok t ()) :
    issue h 1 false bad x s body = (t.updCore h.core.val Core.numbered).retired h.core.val (s.pcAfter h 1) :=
  issue_ok (words := 1) (fenceOp := false) (x := none) e nofun legal (means.trans (dispatch_performs idle clear does))

end Issue

/-- No cause: the operands are legal, and every run of slots lies within the operand cache. -/
theorem cause_none {bad : Bool} {cause : Nat} {runs : List (Nat × Nat)} (legal : bad = false) (inside : ∀ r ∈ runs, r.1 + r.2 ≤ 2048) :
    (if bad then some cause else slotCause runs) = none := by
  rw [legal, if_neg Bool.false_ne_true, slotCause_none inside]

/-- What an instruction that rounds under SR uses. -/
theorem rndUses_eq {rnd : BitVec 2} {g : BitVec 5} :
    ({ regs := if rnd == 3 then [g] else [] } : Uses) = { regs := if rnd = 3 then [g] else [] } := by
  simp only [beq_iff_eq]

/-- The element-index base (`05` R119). -/
theorem idxOf_eq (rnd : BitVec 2) (g : BitVec 5) (k : Core) : idxOf rnd g k = if rnd = 3 then k.rd g else 0 := by
  simp only [idxOf, beq_iff_eq]

/-- The element index is used under SR alone. -/
theorem idxUnused {rnd : BitVec 2} {g : BitVec 5} (plain : rnd ≠ 3 → g = 0) : (rnd != 3 && g != 0) = false := by
  by_cases sr : rnd = 3
  · simp [sr]
  · simp [plain sr]

/-- An instruction that touches no store conflicts with nothing. -/
theorem lockedNow_empty (s : State) (n : Nat) : s.lockedNow n {} = false := rfl

/-- A BFX48 range within the tile store. -/
theorem bxCause_none {t n : Nat} (inside : t + 386 * n ≤ tileEnd) : bxCause t n = none := by
  have inStores : t + 386 * n ≤ localEnd := inside.trans (by decide)
  unfold bxCause tileCause
  simp [Nat.not_lt.2 inside, Nat.not_lt.2 inStores]

end Sys2Proof.Machine

open Sys2Proof.Machine

/-- Settles O11: conversions, the BFX48 instructions and the lane generators, each performed at its dispatch. -/
theorem conversions : Obligations.Conversions := by
  unfold Obligations.Conversions
  refine ⟨?converts, ?bfx, ?lanes⟩
  case converts =>
    intro s h c f m n cs idx step idle
    refine ⟨fun e src dst plain aIn dIn clear => ?_, fun fmx blk aIn dIn sIn e rnd plain clear => ?_,
      fun fmx blk dIn aIn sIn e rule rnd gidx clear => ?_⟩
    · have legal : (!cvtCode f.sfmt.toNat || !cvtCode f.dfmt.toNat || (f.rnd != 3 && f.gidx != 0)) = false := by
        rw [src, dst, idxUnused plain]; rfl
      rw [exec_vcvt]
      refine congrArg Host.Outcome.next ?_
      rw [rndUses_eq]
      refine (issue_dispatches e (cause_none legal fun r run => ?_) idle clear rfl rfl).trans ?_
      · simp only [List.mem_cons, List.not_mem_nil, or_false] at run
        rcases run with rfl | rfl
        · exact aIn
        · exact dIn
      · rw [asDispatched_dispatched, idxOf_eq]; rfl
    · have legal : (decide (5 < m.fmx.toNat) || m.blk == 3 || m.rnd == 2 || (m.rnd != 3 && m.gidx != 0)) = false := by
        rw [idxUnused plain, beq_eq_false_iff_ne.2 blk, beq_eq_false_iff_ne.2 rnd, decide_eq_false (Nat.not_lt.2 fmx)]; rfl
      rw [exec_vcvtMx]
      refine congrArg Host.Outcome.next ?_
      rw [rndUses_eq]
      refine (issue_dispatches e (cause_none legal fun r run => ?_) idle clear rfl rfl).trans ?_
      · simp only [List.mem_cons, List.not_mem_nil, or_false] at run
        rcases run with rfl | rfl | rfl
        · exact sIn
        · exact aIn
        · exact dIn
      · rw [asDispatched_dispatched, idxOf_eq]; rfl
    · have legal : (decide (5 < m.fmx.toNat) || m.blk == 3 || m.rule || m.rnd != 0 || m.gidx != 0) = false := by
        rw [beq_eq_false_iff_ne.2 blk, decide_eq_false (Nat.not_lt.2 fmx), rule, rnd, gidx]; rfl
      rw [exec_vcvtMxd]
      refine congrArg Host.Outcome.next (issue_dispatches e (cause_none legal fun r run => ?_) idle clear rfl rfl)
      simp only [List.mem_cons, List.not_mem_nil, or_false] at run
      rcases run with rfl | rfl | rfl
      · exact sIn
      · exact aIn
      · exact dIn
  case bfx =>
    intro s h c f n i t idle
    refine ⟨fun e unusedS unusedT aIn dIn clear => ?_, fun e tIn unused aIn sIn clear => ?_,
      fun e tIn unusedA unusedS dIn clear => ?_⟩
    · have legal : (f.s != 0 || f.gt != 0) = false := by simp [unusedS, unusedT]
      rw [exec_vbxExp]
      refine congrArg Host.Outcome.next (issue_dispatches e (cause_none legal fun r run => ?_) idle clear rfl rfl)
      simp only [List.mem_cons, List.not_mem_nil, or_false] at run
      rcases run with rfl | rfl
      · exact aIn
      · exact dIn
    · have legal : (f.d != 0) = false := by simp [unused]
      have inTiles : bxCause t (f.n1.toNat + 1) = none := bxCause_none tIn
      rw [exec_vbxCvt]
      refine congrArg Host.Outcome.next (issue_dispatches (p := vbxCvtRun f) (w := vbxCvtWork f t) e (cause_none legal fun r run => ?_) idle clear
        (congrArg (orLost s · _) inTiles) rfl)
      simp only [List.mem_cons, List.not_mem_nil, or_false] at run
      rcases run with rfl | rfl
      · exact aIn
      · exact sIn
    · have legal : (f.a != 0 || f.s != 0) = false := by simp [unusedA, unusedS]
      have inTiles : bxCause t (f.n1.toNat + 1) = none := bxCause_none tIn
      rw [exec_vbxDec]
      refine congrArg Host.Outcome.next (issue_dispatches (p := vbxDecRun f) (w := vbxDecWork f t) e (cause_none legal fun r run => ?_) idle clear
        (congrArg (orLost s · _) inTiles) rfl)
      cases List.mem_singleton.1 run
      exact dIn
  case lanes =>
    intro s t h c f n i d draw idle
    have unused (a : f.ga = 0) (b : f.gb = 0) : (f.ga != 0 || f.gb != 0) = false := by simp [a, b]
    have inside {m : Nat} (dIn : d + m ≤ 2048) : ∀ r ∈ [(f.d.toNat, m)], r.1 + r.2 ≤ 2048 :=
      fun r run => by cases List.mem_singleton.1 run; exact dIn
    refine ⟨fun e a b dIn clear => ⟨?_, ?_, fun permits drawn => ?_⟩, fun e d0 n0 => ?_, fun e n0 a b dIn clear => ?_⟩
    · rw [exec_vrng]
      exact congrArg Host.Outcome.next (issue_dispatches e (cause_none (unused a b) (inside dIn)) idle clear rfl rfl)
    · rw [exec_vrngU]
      exact congrArg Host.Outcome.next (issue_dispatches e (cause_none (unused a b) (inside dIn)) idle clear rfl rfl)
    · rw [exec_vrngT]
      refine congrArg Host.Outcome.next (issue_dispatches (i := .vrngT h f) (p := vrngTRun f) (w := vrngWork f i) e
        (cause_none (unused a b) (inside dIn)) idle clear ?_ ?_)
      · simp only [permits, Bool.not_true, Bool.false_eq_true, if_false]; rfl
      · unfold vrngTRun; rw [show sampleSlots h.core.val f.d.toNat (f.n1.toNat + 1) s = some t from drawn]
    · have dz : f.d = 0 := BitVec.eq_of_toNat_eq d0
      have legal : ill (f.d != 0 || f.n1 != 0) = none := by simp [dz, n0, ill]
      rw [exec_vrngSetc]
      exact congrArg Host.Outcome.next ((issue_performs e legal idle (lockedNow_empty s _) rfl).trans (performed_congr rfl))
    · have legal : (f.n1 != 0 || f.ga != 0 || f.gb != 0) = false := by simp [n0, a, b]
      rw [exec_vrngGetc]
      refine congrArg Host.Outcome.next ((issue_performs e (cause_none legal (inside dIn)) idle clear rfl).trans
        (performed_congr ?_))
      simp only [fld, Nat.shiftRight_eq_div_pow, Nat.pow_zero, Nat.div_one]
      rfl
end

section
/-! Tasks, the FENCE instructions and the fence unit, and the SYS instructions (`02` R38–R55, `06` R152–R155). -/

open Sys2Proof

namespace Sys2Proof.Machine

/-! ### An instruction that loses its context, and one that retires -/

section Issue

variable {s t : State} {h : Issue} {c words cause : Nat} {fenceOp : Bool} {bad : Option Nat} {x : Uses}
  {body : Nat → State → Res (Option W48)}

/-- A body that loses the context records its core and its program counter (`02` R58). -/
theorem issue_lost (e : s.Executes h c x) (plain : fenceOp = true → h.pred = 0 ∧ h.pneg = false) (legal : bad = none)
    (loses : body c s = .lost s cause) :
    issue h words fenceOp bad x s body = s.lose c cause (some h.core.val) (s.core h.core.val).pc := by
  have pass : ((s.core h.core.val).pr h.pred == h.pneg) = false := by simpa using e.pass
  have fence : (fenceOp && (h.pred != 0 || h.pneg)) = false := by
    cases fenceOp
    · rfl
    · obtain ⟨pred, pneg⟩ := plain rfl
      simp [pred, pneg]
  unfold issue
  simp only [e.holds, e.issues, e.going, e.aligned, e.legal, e.known, e.ready, pass, fence, legal, loses, Bool.not_true,
    Bool.false_and, Bool.false_eq_true, Option.isSome_none, Bool.or_self, ne_eq, not_true_eq_false, if_false]

/-- A body that completes without a branch retires. -/
theorem issue_retires (e : s.Executes h c x) (plain : fenceOp = true → h.pred = 0 ∧ h.pneg = false) (legal : bad = none)
    (completes : body c s = .ok t none) :
    issue h words fenceOp bad x s body = t.retired h.core.val (s.pcAfter h words) :=
  issue_ok (words := words) (fenceOp := fenceOp) (x := none) e plain legal completes

/-- A place in the 16 loads in flight is taken. -/
theorem inFlight_room {n : Nat} {l : Load} (room : (s.core n).loads.length < 16) :
    inFlight n l s = .ok (s.updCore n fun k => { k with loads := k.loads ++ [l] }) none := by
  unfold inFlight
  rw [if_neg (Nat.not_le.2 room)]
  rfl

end Issue

/-! ### Tasks -/

/-- A header's place that is a line of the tile store. -/
theorem hdrCause_none {a : Nat} (aligned : a % 128 = 0) (inside : a + 128 ≤ tileEnd) : hdrCause a = none := by
  have inStores : a + 128 ≤ localEnd := inside.trans (by decide)
  unfold hdrCause
  rw [if_neg (Nat.not_lt.2 inStores), if_neg (by omega)]

section Begin

variable {s : State} {h : Issue} {c : Nat} {gh : BitVec 5} {x : TaskHdr}

/-- What TASK.BEGIN does once its header is read, and passes its checks. -/
def State.begins (s : State) (n : Nat) (x : TaskHdr) : Res (Option W48) :=
  if !s.inputsReached x then .wait ((s.bumpCore n 1 1).updCore n fun k => { k with stall := .task x none })
  else if (s.core n).room x then .ok (s.openTask n x (s.propDiscard x)) none
  else .wait (s.updCore n fun k => { k with stall := .task x (some (s.propDiscard x)) })

/-- TASK.BEGIN outside a task, with a header that passes its checks. -/
def taskBeginBody (h : Issue) (gh : BitVec 5) (c : Nat) (s : State) : Res (Option W48) :=
  let n := h.core.val
  let k := s.core n
  let a := (k.rd gh).toNat
  if k.openTask.isSome then .lost s 0x04
  else orLost s (hdrCause a) (interlocked s n { r := [(a, 128)] } (
    let b := k.bytes a 128
    if hdrBad b then .lost s 0x05
    else if !s.hdrRights c (hdrOf b) then .lost s 0x06
    else s.begins n (hdrOf b)))

theorem exec_taskBegin_body : exec (.taskBegin h gh) s = .next (issue h 1 true none { regs := [gh] } s (taskBeginBody h gh)) := rfl

/-- Outside a task, a header that is in its place, legal and permitted is taken. -/
theorem taskBeginBody_begins (outside : (s.core h.core.val).openTask = none)
    (aligned : ((s.core h.core.val).rd gh).toNat % 128 = 0) (inside : ((s.core h.core.val).rd gh).toNat + 128 ≤ tileEnd)
    (clear : s.lockedNow h.core.val { r := [(((s.core h.core.val).rd gh).toNat, 128)] } = false)
    (formed : hdrBad ((s.core h.core.val).bytes ((s.core h.core.val).rd gh).toNat 128) = false)
    (header : x = hdrOf ((s.core h.core.val).bytes ((s.core h.core.val).rd gh).toNat 128)) (permitted : s.hdrRights c x = true) :
    taskBeginBody h gh c s = s.begins h.core.val x := by
  subst header
  unfold taskBeginBody
  simp only [outside, hdrCause_none aligned inside, orLost, interlocked_of_clear _ clear, formed, permitted, Option.isSome_none,
    Bool.false_eq_true, Bool.not_true, if_false]
/-- Inside a task, a TASK.BEGIN loses the context. -/
theorem taskBeginBody_inside {t : Task} (opened : (s.core h.core.val).openTask = some t) :
    taskBeginBody h gh c s = .lost s 0x04 := by
  unfold taskBeginBody
  simp only [opened, Option.isSome_some, if_true]

variable {n : Nat}

/-- A task whose inputs are reached, and for which the table has room, opens. -/
theorem begins_room (reached : s.inputsReached x = true) (room : (s.core n).room x = true) :
    s.begins n x = .ok (s.openTask n x (s.propDiscard x)) none := by
  unfold State.begins
  simp only [reached, room, Bool.not_true, Bool.false_eq_true, if_false, if_true]
/-- One whose inputs are not reached stalls with its header. -/
theorem begins_waits (waits : s.inputsReached x = false) :
    s.begins n x = .wait ((s.bumpCore n 1 1).updCore n fun k => { k with stall := .task x none }) := by
  unfold State.begins
  simp only [waits, Bool.not_false, if_true]
/-- One for which the table has no room stalls with its header and the discard status of its inputs. -/
theorem begins_full (reached : s.inputsReached x = true) (full : (s.core n).room x = false) :
    s.begins n x = .wait (s.updCore n fun k => { k with stall := .task x (some (s.propDiscard x)) }) := by
  unfold State.begins
  simp only [reached, full, Bool.not_true, Bool.false_eq_true, if_false]

end Begin

/-! ### FENCE instructions -/

/-- A FENCE instruction whose unused fields are zero. -/
theorem fenceBad_none {f : FenceF} {read : Bool} (place : f.idr = true → f.fid = 0) (unplaced : f.idr = false → f.gi = 0)
    (unused : (if read then f.gv != 0 else f.gd != 0 || f.pd != 0) = false) : ill (fenceBad f read) = none := by
  have legal : fenceBad f read = false := by
    unfold fenceBad
    rw [unused]
    cases named : f.idr
    · simp [unplaced named]
    · simp [place named]
  rw [legal]
  rfl

/-- A signal that its context may send goes on its way, through its task or held by it. -/
theorem signalBody_ok {s t : State} {n c fid : Nat} {v : W64} (may : s.maySignal c fid = true)
    (held : s.signalHeld n (s.core n).taskNow fid v (s.core n).disp = some t) : signalBody n c fid v s = .ok t none := by
  unfold signalBody
  simp only [may, held, Bool.not_true, Bool.false_eq_true, if_false]

end Sys2Proof.Machine

open Sys2Proof.Machine

/-- Settles O18: TASK.BEGIN by what its header finds, and the events of a task by the case that each names. -/
theorem tasks : Obligations.Tasks := by
  unfold Obligations.Tasks
  refine ⟨?begins, ?verdicts, ?drained⟩
  case begins =>
    intro s h c gh t x core i n k a
    refine ⟨fun pred pneg => ?_, fun works => ?_⟩
    · have plain : true = true → h.pred = 0 ∧ h.pneg = false := fun _ => ⟨pred, pneg⟩
      refine ⟨fun e outside aligned inside clear formed header permitted => ?_, fun e opened => ?_, fun e outside => ?_,
        fun e opened => ?_⟩
      · have body := taskBeginBody_begins outside aligned inside clear formed header permitted
        refine ⟨fun reached room => ?_, fun waits => ?_, fun reached full => ?_⟩
        · exact congrArg Host.Outcome.next (issue_retires e plain rfl (body.trans (begins_room reached room)))
        · exact congrArg Host.Outcome.next (issue_wait e plain rfl (body.trans (begins_waits waits)))
        · exact congrArg Host.Outcome.next (issue_wait e plain rfl (body.trans (begins_full reached full)))
      · exact congrArg Host.Outcome.next (issue_lost e plain rfl (taskBeginBody_inside opened))
      · refine congrArg Host.Outcome.next (issue_lost e plain rfl ?_)
        simp only [show (s.core h.core.val).openTask = none from outside]
      · refine congrArg Host.Outcome.next (issue_retires e plain rfl ?_)
        simp only [show (s.core h.core.val).openTask = some t from opened]
        rfl
    · refine ⟨fun met stalls going reached room => ?_, fun listed due => ?_⟩
      · rw [exec_taskInputSatisfied]
        simp only [execTaskInputSatisfied, works, stalls, going, reached, room, Bool.false_and, Bool.and_self,
          Bool.false_eq_true, if_false, if_true]
      · rw [exec_taskOutputSignal]
        simp only [execTaskOutputSignal, works, listed, due, Bool.not_true, Bool.false_eq_true, if_false, b2n, beq_iff_eq]
  case verdicts =>
    intro s c core i t v
    dsimp only
    intro works listed
    refine ⟨fun unresolved first => ⟨fun commits => ?_, fun discards => ?_⟩, fun unresolved first timed => ?_,
      fun drains lands => ?_⟩
    · rw [exec_speculativeResolve]
      simp only [execSpeculativeResolve, works, listed, unresolved, first, commits, if_true]
    · rw [exec_speculativeResolve]
      simp only [execSpeculativeResolve, works, listed, unresolved, first, Nat.not_le.2 discards, if_false]
    · rw [exec_verdictTimeout]
      simp only [execVerdictTimeout, works, listed, unresolved, first, bne_iff_ne.2 timed, Option.isNone_none, Bool.and_self, if_true]
    · rw [exec_paddockDrain]
      simp only [execPaddockDrain, works, listed, drains, lands, Bool.not_true, Bool.or_self, Bool.false_eq_true, if_false]
  case drained =>
    intro k id d
    refine ⟨fun e kept => ?_, fun e kept => ?_, ?_, fun t listed same => ?_, fun r kept => ?_, fun e held same => ?_, rfl, rfl⟩
    · exact bne_iff_ne.1 (List.mem_filter.1 kept).2
    · exact bne_iff_ne.1 (List.mem_filter.1 kept).2
    · simp only [d, Core.drainTask, List.map_map]
      refine List.map_congr_left fun t _ => ?_
      simp only [Function.comp_apply]
      split <;> rfl
    · obtain ⟨u, _, rfl⟩ := List.mem_map.1 listed
      by_cases this : (u.id == id) = true
      · rw [if_pos this]
      · rw [if_neg this] at same
        exact absurd (beq_iff_eq.2 same) this
    · exact List.mem_append_left _ kept
    · exact List.mem_append_right _ (List.mem_map.2 ⟨e, List.mem_filter.2 ⟨held, beq_iff_eq.2 same⟩, rfl⟩)

/-- Settles O20: the FENCE instructions and SYS by their bodies, and the fence unit by its first signal. -/
theorem fenceAndSysCommands : Obligations.FenceAndSysCommands := by
  unfold Obligations.FenceAndSysCommands
  refine ⟨?fences, ?unit, ?sys⟩
  case fences =>
    intro s t h c f fid val core
    dsimp only
    refine ⟨fun pred pneg place unplaced => ?_, fun pred pneg e may held => ?_, fun y v works stalls going reached => ?_⟩
    · have plain : true = true → h.pred = 0 ∧ h.pneg = false := fun _ => ⟨pred, pneg⟩
      refine ⟨fun e gd pd => ?_, fun e gv may room => ?_⟩
      · have legal : ill (fenceBad f false) = none := fenceBad_none place unplaced (by simp [gd, pd])
        refine ⟨fun may held => ?_, fun may reached => ?_, fun may waits => ?_⟩
        · exact congrArg Host.Outcome.next (issue_retires e plain legal (signalBody_ok may held))
        · refine congrArg Host.Outcome.next (issue_retires e plain legal ?_)
          simp only [may, reached, Bool.not_true, Bool.false_eq_true, if_false, if_true]
        · refine congrArg Host.Outcome.next (issue_wait e plain legal ?_)
          simp only [may, waits, Bool.not_true, Bool.false_eq_true, if_false]
      · have legal : ill (fenceBad f true) = none := fenceBad_none place unplaced (by simp [gv])
        refine congrArg Host.Outcome.next (issue_retires e plain legal ?_)
        simp only [may, inFlight_room room, Bool.not_true, Bool.false_eq_true, if_false]
    · exact congrArg Host.Outcome.next (issue_retires e (fun _ => ⟨pred, pneg⟩) rfl (signalBody_ok may held))
    · rw [exec_fenceWaitSatisfied]
      simp only [execFenceWaitSatisfied, works, stalls, going, reached, Bool.false_and, Bool.false_eq_true, if_false, if_true]
  case unit =>
    intro s g rest o front valid owned
    dsimp only
    have valid' : (({ s with sigQ := rest } : State).fence g.fid).v = true := valid
    have owned' : (({ s with sigQ := rest } : State).fence g.fid).owner = some o := owned
    refine ⟨fun above => ?_, fun stale => ?_⟩
    · rw [exec_fenceSignalApply]
      unfold execFenceSignalApply State.applySig
      simp only [front, valid', owned']
      rw [if_pos (show (({ s with sigQ := rest } : State).fence g.fid).val.toNat < g.val.toNat from above)]
    · rw [exec_fenceSignalApply]
      unfold execFenceSignalApply State.applySig
      simp only [front, valid', owned']
      rw [if_neg (show ¬ (({ s with sigQ := rest } : State).fence g.fid).val.toNat < g.val.toNat from Nat.not_lt.2 stale)]
  case sys =>
    intro s h c gd ga
    dsimp only
    refine ⟨fun e => ⟨?_, fun drained => ?_⟩, fun e => ?_, fun e arrayIdle vectorIdle reductionIdle => ?_,
      fun e => ⟨?_, fun room => ?_⟩⟩
    · exact congrArg Host.Outcome.next (issue_retires (fenceOp := false) e nofun rfl rfl)
    · refine congrArg Host.Outcome.next (issue_retires (fenceOp := false) e nofun rfl
        (t := s.updCore h.core.val fun k => { k with iflush := k.iflush + 1 }) ?_)
      simp only [drained, List.isEmpty_nil, Bool.not_true, Bool.false_eq_true, if_false]
      rfl
    · exact congrArg Host.Outcome.next (issue_retires (fenceOp := false) e nofun rfl rfl)
    · refine congrArg Host.Outcome.next (issue_retires (fenceOp := false) e nofun rfl
        (t := s.updCore h.core.val fun k => { k with flags := clearFlags k.flags (k.rd ga) }.wr gd (k.flags.setWidth 64)) ?_)
      simp only [arrayIdle, vectorIdle, reductionIdle, List.isEmpty_nil, Bool.and_self, Bool.not_true, Bool.false_eq_true,
        if_false]
      rfl
    · refine (congrArg Host.Outcome.next (issue_retires (fenceOp := false) e nofun rfl rfl)).trans ?_
      unfold State.after
      simp only [at64, w64, Nat.shiftLeft_eq]
    · exact congrArg Host.Outcome.next (issue_retires (fenceOp := false) e nofun rfl (inFlight_room room))
end

section
/-! Events of the array, the banks, and the DMA engines (`03` R63–R84, `06` R150, R151, `08` R190–R202). -/

open Sys2Proof

namespace Sys2Proof.Machine

/-- A table listed from a function reads as the function at the keys listed. -/
theorem Tab.get_listed {α : Type} [DecidableEq α] (d : α) (f : Nat → α) (keys : List Nat) (j : Nat) :
    Tab.get d (keys.filterMap fun i => if f i = d then none else some (i, f i)) j = if j ∈ keys then f j else d := by
  induction keys with
  | nil => rfl
  | cons i keys ih =>
    by_cases same : i = j
    · subst same
      by_cases bare : f i = d
      · simp [bare, ih]
      · simp [bare, Tab.get]
    · by_cases bare : f i = d
      · simp [bare, ih, Ne.symm same]
      · simp [bare, ih, same, Ne.symm same, Tab.get]

/-- Bits that fit a word read as they are. -/
theorem bitsAt_lt (st : Tab Byte) (b w : Nat) : bitsAt st b w < 2 ^ w := Nat.mod_lt _ (Nat.two_pow_pos w)

section Bank

variable {st : Tab Byte} {fmt : Nat} {scl : Bool} {blk base sbase k n : Nat}

/-- The element that a bank holds at (k, n). -/
theorem bankOf_elem (col : n < 64) (row : k < kOf fmt) : Tab.get 0 (bankOf st fmt scl blk base sbase).elem (64 * k + n) =
    BitVec.ofNat 16 (bitsAt st (8 * base + statBit fmt k n) (fmtWidth fmt)) := by
  have listed : 64 * k + n ∈ List.range (64 * kOf fmt) := List.mem_range.2 (by omega)
  have value := Tab.get_listed (0 : BitVec 16) (fun i =>
    BitVec.ofNat 16 (bitsAt st (8 * base + statBit fmt (i / 64) (i % 64)) (fmtWidth fmt))) (List.range (64 * kOf fmt)) (64 * k + n)
  rw [if_pos listed, show (64 * k + n) / 64 = k by omega, show (64 * k + n) % 64 = n by omega] at value
  exact value

/-- A bank reads as its operand's element in the stationary layout. -/
theorem bankOf_value (col : n < 64) (row : k < kOf fmt) (narrow : fmtWidth fmt ≤ 16) :
    (bankOf st fmt scl blk base sbase).value k n =
      valueOf fmt (bitsAt st (8 * base + statBit fmt k n) (fmtWidth fmt)) := by
  have fits : bitsAt st (8 * base + statBit fmt k n) (fmtWidth fmt) < 2 ^ 16 :=
    (bitsAt_lt _ _ _).trans_le (Nat.pow_le_pow_right (by decide) narrow)
  unfold Bank.value
  rw [bankOf_elem col row, BitVec.toNat_ofNat, Nat.mod_eq_of_lt fits]
  rfl

/-- A bank's scale byte is that of the element's block. -/
theorem bankOf_scaleOf (col : n < 64) (block : k / blk < 16) : (bankOf st fmt scl blk base sbase).scaleOf k n =
    if scl then (Tab.get 0 st (sbase + (16 * n + k / blk))).toNat else 0x7F := by
  cases scl
  · rfl
  · have listed : 16 * n + k / blk ∈ List.range 1024 := List.mem_range.2 (by omega)
    have value := Tab.get_listed (0 : Byte) (fun i => Tab.get 0 st (sbase + i)) (List.range 1024) (16 * n + k / blk)
    rw [if_pos listed] at value
    unfold Bank.scaleOf bankOf
    simp only [if_true, value]

end Bank

/-- A DMA.COPY whose addresses and length are aligned, with its local ranges within the stores. -/
theorem copyCause_none {f : DmaCopyF} {dst src len : Nat} (dstAligned : dst % 64 = 0) (srcAligned : src % 64 = 0)
    (lenAligned : len % 64 = 0) (dstIn : f.dl = true → dst + len ≤ localEnd) (srcIn : f.sl = true → src + len ≤ localEnd) :
    copyCause f dst src len = none := by
  have dstBelow : (f.dl && decide (localEnd < dst + len)) = false := by
    cases stores : f.dl
    · rfl
    · exact decide_eq_false (Nat.not_lt.2 (dstIn stores))
  have srcBelow : (f.sl && decide (localEnd < src + len)) = false := by
    cases stores : f.sl
    · rfl
    · exact decide_eq_false (Nat.not_lt.2 (srcIn stores))
  unfold copyCause
  simp only [dstAligned, srcAligned, lenAligned, dstBelow, srcBelow, ne_eq, not_true_eq_false, decide_false, Bool.or_self,
    Bool.and_false, Bool.false_eq_true, if_false]

end Sys2Proof.Machine

open Sys2Proof.Machine

/-- Settles O15: the events of the array by the operation that each finds, and a bank element by element. -/
theorem matrixEvents : Obligations.MatrixEvents := by
  unfold Obligations.MatrixEvents
  refine ⟨?events, fun st fmt scl blk base sbase k n col row block narrow =>
    ⟨bankOf_value col row narrow, bankOf_scaleOf col block⟩⟩
  intro s core c num
  dsimp only
  intro works
  refine ⟨fun bank fmt scl blk base sbase first unused clear => ?_,
    fun bank fmt scl blk base sbase ring mode acc m out row use0 buf first loaded filled readable writable => ?_⟩
  · rw [exec_loadwComplete]
    simp only [execLoadwComplete, works, State.loadBank, first, unused, clear, Bool.false_eq_true, if_false]
  · have rung : (decide (ring ≠ 0) && decide (((s.core core.val).mx.fill - use0.getD (s.core core.val).mx.use).toNat <
        (row + 127) / 2 ^ (ring - 2) + 1)) = false := by
      rw [Bool.and_eq_false_iff, decide_eq_false_iff_not, decide_eq_false_iff_not, Nat.not_lt]
      exact or_iff_not_imp_left.2 fun rings => filled (not_not.1 rings)
    rw [exec_streamRowResult]
    simp only [execStreamRowResult, works, State.streamRow, first, loaded, rung, readable, writable, Bool.false_eq_true, if_false]

/-- Settles O16: the DMA instructions are performed at their dispatch, and an engine runs its first chain. -/
theorem dmaCommands : Obligations.DmaCommands := by
  unfold Obligations.DmaCommands
  refine ⟨?instructions, ?engines⟩
  case instructions =>
    intro s h c f g q
    dsimp only
    intro idle
    refine ⟨fun e unused aligned inside may => ?_, fun e dstAligned srcAligned lenAligned dstIn srcIn => ⟨fun zero => ?_, fun some => ?_⟩,
      fun e outside => ⟨fun nonzero still => ?_, fun unrung => ?_⟩⟩
    · have legal : ill (!f.fen && (f.fid != 0 || f.gv != 0)) = none := by
        cases fence : f.fen
        · simp [unused fence, ill]
        · rfl
      have inStores : (f.loc && decide (localEnd < ((s.core h.core.val).rd f.gd).toNat + 64)) = false := by
        cases stores : f.loc
        · rfl
        · exact decide_eq_false (Nat.not_lt.2 (inside stores))
      have permitted : (f.fen && !s.maySignal c f.fid.toNat) = false := by
        cases fence : f.fen
        · rfl
        · rw [may fence]; rfl
      refine congrArg Host.Outcome.next (issue_retires (fenceOp := false) e nofun legal ?_)
      simp only [aligned, inStores, permitted, ne_eq, not_true_eq_false, Bool.false_eq_true, if_false]
      exact dispatch_performs idle (lockedNow_empty s _) rfl
    · refine congrArg Host.Outcome.next (issue_retires (fenceOp := false) e nofun rfl ?_)
      simp only [copyCause_none dstAligned srcAligned lenAligned dstIn srcIn, orLost]
      exact if_pos zero
    · refine congrArg Host.Outcome.next (issue_retires (fenceOp := false) e nofun rfl ?_)
      simp only [copyCause_none dstAligned srcAligned lenAligned dstIn srcIn, orLost, some, if_false]
      exact dispatch_performs idle (lockedNow_empty s _) rfl
    · have legal : ill (q == 0) = none := by rw [beq_eq_false_iff_ne.2 nonzero]; rfl
      refine congrArg Host.Outcome.next (issue_performs e legal idle (lockedNow_empty s _) ?_)
      unfold ringAdvRun
      simp only [outside, Bool.false_eq_true, if_false]
      exact if_neg (Bool.eq_false_iff.1 still)
    · refine congrArg Host.Outcome.next (issue_performs e rfl idle (lockedNow_empty s _) ?_)
      unfold ringRstRun
      simp only [outside, unrung, Bool.or_self, Bool.false_eq_true, if_false]
  case engines =>
    intro s t u cl e ch rest c p d
    dsimp only
    intro first works
    refine ⟨fun next clear lineClear reads legal apart lineApart runs => ?_, fun ended => ⟨fun silent => ?_, fun fid v fence held => ?_⟩⟩
    · rw [exec_dmaDescriptorRun]
      simp only [execDmaDescriptorRun, first, works, State.runDesc, next, clear, lineClear, reads, legal, apart, lineApart, runs,
        Res.bind, Bool.or_self, Bool.false_eq_true, if_false] <;> rfl
    · rw [exec_dmaChainComplete]
      simp only [execDmaChainComplete, first, works, State.chainDone, ended, silent, Option.isSome_none, Bool.false_eq_true, if_false]
    · rw [exec_dmaChainComplete]
      simp only [execDmaChainComplete, first, works, State.chainDone, ended, fence, held, Option.isSome_none, Bool.false_eq_true,
        if_false]
end

section
/-! Layer windows, their fills, and run-ahead (`08` R197–R206). -/

open Sys2Proof

namespace Sys2Proof.Machine

/-! ### A value that is not the default reads back in any table -/

section Tab

variable {α : Type} [DecidableEq α] {d v : α}

/-- A value written that is not the default reads back, whatever the order of the table. -/
theorem Tab.get_set_listed (t : Tab α) (k : Nat) (listed : v ≠ d) : Tab.get d (Tab.set d t k v) k = v := by
  induction t with
  | nil => simp [Tab.set, Tab.get, listed]
  | cons e t ih =>
    obtain ⟨a, w⟩ := e
    unfold Tab.set
    split
    · simp [Tab.get]
    · split
      · simp [Tab.get]
      · next other => simp [Tab.get, Ne.symm other, ih]

/-- A write over a value that is not the default replaces it, whatever the order of the table. -/
theorem Tab.set_set_listed (t : Tab α) (k : Nat) (w : α) (listed : v ≠ d) :
    Tab.set d (Tab.set d t k v) k w = Tab.set d t k w := by
  induction t with
  | nil => simp [Tab.set, listed]
  | cons e t ih =>
    obtain ⟨a, x⟩ := e
    by_cases below : k < a
    · simp [Tab.set, below, listed]
    · by_cases same : k = a
      · subst same
        simp [Tab.set, listed]
      · simp [Tab.set, below, same, ih]

end Tab

/-- A core that runs is listed. -/
theorem listed_of_running {k : Core} (running : k.run = .running) : k ≠ {} := fun bare => by
  rw [bare] at running
  exact absurd running (by decide)

/-- A core that executes runs. -/
theorem running_of_issues {s : State} {n c : Nat} (issues : s.issues n c = true) : (s.core n).run = .running := by
  unfold State.issues at issues
  simp only [Bool.and_eq_true, beq_iff_eq] at issues
  exact issues.1.1.1.1.2

/-- A core changed, when it still runs. -/
theorem core_updCore_running {s : State} {n : Nat} {f : Core → Core} (running : (f (s.core n)).run = .running) :
    (s.updCore n f).core n = f (s.core n) := Tab.get_set_listed _ _ (listed_of_running running)

/-! ### Windows -/

/-- A descriptor's place in the tile store. -/
theorem winOffset_eq {s : State} {n : Nat} {gw : BitVec 5} (inside : ((s.core n).rd gw).toNat + 64 ≤ tileEnd) :
    winOffset s n gw = (((s.core n).rd gw).toNat, none) := by
  have inStores : ((s.core n).rd gw).toNat + 64 ≤ localEnd := inside.trans (by decide)
  unfold winOffset tileCause
  simp [Nat.not_lt.2 inside, Nat.not_lt.2 inStores]

/-- A core whose reservation waits differs by the count of its waits. -/
theorem core_resvWait {s : State} {n num : Nat} (running : (s.core n).run = .running) :
    (s.resvWait n num).core n = s.core n ∨ (s.resvWait n num).core n =
      { s.core n with resvWaits := (s.core n).resvWaits + 1, resvLast := some num } := by
  have updated := core_updCore_running (s := s) (n := n)
    (f := fun k => { k with resvWaits := k.resvWaits + 1, resvLast := some num }) running
  unfold State.resvWait
  simp only
  split
  · exact .inl rfl
  · split <;> exact .inr updated

section Waits

variable {s : State} {n num : Nat} {h : Issue} {i : Instr} {x : Work}

/-- A count of a wait leaves the queues of the core. -/
theorem resvWait_unit {u : Nat} (running : (s.core n).run = .running) :
    ((s.resvWait n num).core n).unit u = (s.core n).unit u := by
  rcases core_resvWait (num := num) running with same | counted
  · rw [same]
  · rw [counted]; rfl

/-- It leaves what an instruction dispatched takes with it. -/
theorem dispatched_resvWait (running : (s.core n).run = .running) : (s.resvWait n num).dispatched n i x = s.dispatched n i x := by
  unfold State.dispatched
  rcases core_resvWait (num := num) running with same | counted
  · rw [same]
  · rw [counted]; rfl

/-- It leaves the program counter. -/
theorem pcAfter_resvWait {words : Nat} (running : (s.core h.core.val).run = .running) :
    (s.resvWait h.core.val num).pcAfter h words = s.pcAfter h words := by
  unfold State.pcAfter
  rcases core_resvWait (num := num) running with same | counted
  · rw [same]
  · rw [counted]

end Waits

section Reserve

variable {s : State} {n c : Nat} {gw : BitVec 5} {w : Window} {i : Instr} {x : Work}

/-- A legal reservation, of fences that its context owns, is decided by the live windows. -/
theorem winResvRun_eq (clean : windowClean ((s.core n).bytes ((s.core n).rd gw).toNat 64) = true)
    (read : w = { windowOf ((s.core n).rd gw).toNat ((s.core n).bytes ((s.core n).rd gw).toNat 64) s.now with
      num := (s.core n).disp }) (legal : w.cause = none) (arrival : s.owns c w.afid = true)
    (wait : w.wv = true → s.owns c w.wfid = true) : winResvRun gw n c (s.dispatched n i x) s = match s.admitWin n c w with
      | .lost => .lost s 0x02
      | .wait => .wait (s.resvWait n (s.core n).disp)
      | .take => .ok (s.updCore n fun k => { k with wins := k.wins ++ [w] }) () := by
  have owned : (!s.owns c w.afid || (w.wv && !s.owns c w.wfid)) = false := by
    rw [arrival]
    cases waits : w.wv
    · rfl
    · rw [wait waits]; rfl
  subst read
  unfold winResvRun
  simp only [asDispatched_dispatched, clean, Bool.not_true, Bool.false_eq_true, if_false]
  simp only [show (s.dispatched n i x).num = (s.core n).disp from rfl, legal, owned, Bool.false_eq_true, if_false] <;>
    cases s.admitWin n c _ <;> rfl

end Reserve

/-- A unit's instruction that has to wait goes into its queue, with the state that its wait leaves. -/
theorem dispatch_waits {s t : State} {n c u : Nat} {i : Instr} {w : Work} {p : Perform} (idle : (s.core n).unit u = [])
    (clear : s.lockedNow n w.ext = false) (waits : p n c (s.dispatched n i w) s = .wait t) :
    dispatch u i w p n c s = t.enqueue n u (s.dispatched n i w) := by
  unfold dispatch
  have clear' : s.locked n (s.dispatched n i w).num w.ext = false := clear
  simp only [idle, clear', waits, List.isEmpty_nil, Bool.not_false, Bool.and_self, if_true]

/-- A descriptor at an address is the first of a window's chain. -/
theorem first_iff {a x : W64} {loc l : Bool} : (DescRef.at_ a loc = .at_ x l) ↔ (a == x && loc == l) = true := by
  rw [DescRef.at_.injEq, Bool.and_eq_true, beq_iff_eq, beq_iff_eq]

/-- A window that runs ahead, is filling and names a window whose wait fence has reached its value is due for its fetch. -/
theorem aheadDue {s : State} {w x : Window} (ahead : w.ra = true) (filling : w.filling = true) (held : w.rel = false)
    (inside : w.nextw + 64 ≤ tileEnd) (reached : x.wv = true → s.reached x.wfid x.wval = true) :
    (!w.ra || !w.filling || w.rel || decide (tileEnd < w.nextw + 64) || (x.wv && !s.reached x.wfid x.wval)) = false := by
  rw [decide_eq_false (Nat.not_lt.2 inside), ahead, filling, held]
  cases waits : x.wv
  · rfl
  · rw [reached waits]; rfl

end Sys2Proof.Machine

open Sys2Proof.Machine

/-- Settles O17: reservations and releases at their dispatch, and each event of a window by the case that it names. -/
theorem streamingEngine : Obligations.StreamingEngine := by
  unfold Obligations.StreamingEngine
  refine ⟨?windows, ?fills⟩
  case windows =>
    intro s h c gw w core i
    dsimp only
    refine ⟨fun e inside idle => ⟨fun clear clean read legal arrival wait => ?_, fun j live => ?_⟩, fun works listed => ?_⟩
    · have decided := fun (i : Instr) (x : Work) => winResvRun_eq (i := i) (x := x) clean read legal arrival wait
      refine ⟨fun takes => ?_, fun waits => ?_⟩
      · refine congrArg Host.Outcome.next (issue_retires (fenceOp := false) e nofun rfl ?_)
        simp only [winOffset_eq inside, orLost]
        refine dispatch_performs idle clear ?_
        rw [decided, takes]
      · have running := running_of_issues e.issues
        refine congrArg Host.Outcome.next ((issue_retires (fenceOp := false) e nofun rfl
          (t := (s.resvWait h.core.val (s.core h.core.val).disp).updCore h.core.val fun k => { k with
            units := Tab.upd [] k.units 3 fun l => l ++ [s.dispatched h.core.val (.winResv h gw)
              { ext := { r := [(((s.core h.core.val).rd gw).toNat, 64)] } }] }.numbered) ?_).trans ?_)
        · simp only [winOffset_eq inside, orLost]
          refine (dispatch_waits idle clear ((decided _ _).trans (by rw [waits]))).trans ?_
          unfold State.enqueue
          rw [resvWait_unit running, idle]
          rfl
        · unfold State.enqueued
          rw [dispatched_resvWait running, pcAfter_resvWait running]
    · refine congrArg Host.Outcome.next (issue_retires (fenceOp := false) e nofun rfl ?_)
      simp only [winOffset_eq inside, orLost]
      refine dispatch_performs idle (lockedNow_empty s _) ?_
      unfold winRelRun
      simp only [asDispatched_dispatched, live]
      rfl
    · refine ⟨fun released free => ?_, fun unfilled held reached level => ?_, fun filling going held ended whole => ?_,
        fun going early late => ?_⟩
      · rw [exec_windowReleaseComplete]
        simp only [execWindowReleaseComplete, works, listed, released, free, Bool.not_true, Bool.or_self, Bool.false_eq_true,
          if_false]
      · have mayFill : (w.wv && !s.reached w.wfid w.wval) = false := by
          cases waits : w.wv
          · rfl
          · rw [reached waits]; rfl
        have ring : (w.kind == 2 && (s.core core.val).mx.fill != (s.core core.val).mx.use) = false := by
          by_cases ring : w.kind = 2
          · simp [ring, level ring]
          · simp [ring]
        rw [exec_windowFillBegin]
        simp only [execWindowFillBegin, works, listed, unfilled, held, mayFill, ring, Bool.or_self, Bool.false_eq_true, if_false]
      · have all : (w.kind == 2 && decide (w.quarters < w.total)) = false := by
          by_cases ring : w.kind = 2
          · simp [ring, whole ring]
          · simp [ring]
        rw [exec_windowArrival]
        simp only [execWindowArrival, works, listed, filling, going, held, ended, all, Option.isSome_none, Bool.not_true,
          Bool.or_self, Bool.false_eq_true, if_false]
      · have due : (!((s.ctxCores c).any fun n => s.waitsOn n w.afid w.aval) &&
            !(w.kind == 2 && w.filling && (s.core core.val).ringEmpty)) = false := by
          rcases late with waits | ⟨ring, filling, empty⟩
          · rw [waits]; rfl
          · simp [ring, filling, empty]
        rw [exec_windowLate]
        simp only [execWindowLate, works, listed, going, early, due, Bool.or_self, Bool.false_eq_true, if_false]
  case fills =>
    intro s t u core i c w a loc d b die j e
    dsimp only
    refine ⟨fun works listed => ⟨fun next reads legal holds => ⟨fun ring kept => ?_, fun other apart runs => ?_⟩,
      fun ring filling held ended more room gathered => ?_, fun ahead filling held inside reached =>
        ⟨fun entry => ?_, fun cause lost => ?_⟩⟩, fun entry => ?_⟩
    · rw [exec_dmaDescriptorRun]
      simp only [execDmaDescriptorRun, works, listed, State.runFill, next, first_iff, reads, legal, holds, ring, kept, Res.bind,
        Bool.not_true, Bool.false_eq_true, if_false, if_true, Option.toList]
    · rw [exec_dmaDescriptorRun]
      simp only [execDmaDescriptorRun, works, listed, State.runFill, next, first_iff, reads, legal, holds, other, apart, runs,
        Res.bind, Bool.not_true, Bool.false_eq_true, if_false, Option.toList]
    · have due : (w.kind != 2 || !w.filling || w.rel || w.cur.isSome || decide (w.total ≤ w.quarters) ||
          decide (4 ≤ ((s.core core.val).mx.fill - (s.core core.val).mx.use).toNat)) = false := by
        rw [decide_eq_false (Nat.not_le.2 more), decide_eq_false (Nat.not_le.2 room), ring, filling, held, ended]
        rfl
      rw [exec_ringQuarterFilled]
      simp only [execRingQuarterFilled, works, listed, due, gathered, Bool.false_eq_true, if_false]
    · rw [exec_runAheadFetch]
      simp only [execRunAheadFetch, works, listed, aheadDue ahead filling held inside reached, entry, Bool.false_eq_true, if_false]
    · rw [exec_runAheadFetch]
      simp only [execRunAheadFetch, works, listed, aheadDue ahead filling held inside reached, lost, Bool.false_eq_true, if_false]
    · rw [exec_runAheadExpired]
      simp only [execRunAheadExpired, entry]
end

section
/-! A state in which an ACCOUT that nothing conflicts with is not performed at its dispatch (`03` R77, `02` R31, R36). -/

open Sys2Proof

namespace Sys2Proof.Machine

/-- Core 1, whose stores hold the LINEAR descriptor of an empty chain: the last of its chain. -/
def emptyChainCore : Core := { store := putBytes [] 0 (leBytes 8 (2 ^ 48)) }

/-- The translation of 0x100000 to the SRAM address of core 1. -/
def aliasEntry : TlbEntry := { vpn := 0x10, da := 0xF00000800000, r := true, w := true, x := true }

/-- Core 0, running, with that translation, whose loads in flight hold half of the tags of its cluster reserve and half of the shared ones. -/
def halfTaggedCore : Core :=
  { run := .running, disp := 1, utlb := [aliasEntry]
    loads := List.replicate 256 { tag := 1 } ++ List.replicate 1024 { tag := 3 } }

/-- Cluster 0, held by context 1, with a chain of core 0 whose descriptor lies in the stores of core 1. -/
def chainedCluster : Cluster :=
  { held := true, ctx := 1
    dma := [(0, [{ core := 0, num := 0, ctx := 1, cur := some (.at_ 0x100000 false) }])] }

/-- Core 0 is listed after core 1: a write of it goes before, and what was listed stays, so that its loads are listed twice
from then on. The next read of the descriptor finds no tag, and a chain that cannot be read is taken to touch everything. -/
def unorderedCores : State := { State.reset with
  dev := .ready, cores := [(1, emptyChainCore), (0, halfTaggedCore)], clusters := [(0, chainedCluster)]
  slots := [(0, some 1)], ctxs := [(1, { st := .resident, slot := some 0 })]
  targets := [(12, { initA := [(0, { v := true, r := true, w := true, ctx := 1 })] })] }

/-- The output fields of an ACCOUT to offset 0 of the stores. -/
def plainOut : OutW := { fmt := 0, srule := 0, blk := 0, dst := 0, go := 0, gos := 0, k0 := 0, rnd := 0, gidx := 0 }

/-- The instructions that the array of core 0 holds after a step. -/
def arrayHolds : Out → Nat
  | .next s => (s.core 0).mx.ops.length
  | _ => 0

end Sys2Proof.Machine

open Sys2Proof.Machine

/-- Refutes O14: in `unorderedCores`, whose table of cores is not in ascending order, an ACCOUT that nothing conflicts with
before its dispatch waits in the array, since its dispatch itself leaves no tag to read a chain's descriptor with. -/
theorem not_matrixInstructions : ¬ Obligations.MatrixInstructions := by
  unfold Obligations.MatrixInstructions
  intro holds
  obtain ⟨-, accout, -⟩ := holds
  have executes : unorderedCores.Executes { core := 0 } 1 { regs := outRegs plainOut } :=
    ⟨by decide +kernel, by decide +kernel, by decide +kernel, by decide +kernel, by decide +kernel, by decide +kernel,
      by decide +kernel, by decide +kernel⟩
  have clear : unorderedCores.lockedNow 0 { w := (outRead plainOut (unorderedCores.core 0)).regions 0 1 } = false := by
    decide +kernel
  have performed := ((accout unorderedCores _ { core := 0 } 1 255 0 plainOut { loc := true, gt := 0, gn := 0, h := 1 }
    (by decide +kernel)).1 executes (by decide +kernel) (by decide +kernel) (by decide +kernel)).2 rfl clear rfl
  have waits : arrayHolds (exec (.accout { core := 0 } 255 0 plainOut) unorderedCores) = 1 := by decide +kernel
  have leaves := congrArg arrayHolds performed
  rw [waits] at leaves
  exact absurd leaves (by decide +kernel)
end

section
/-! Key slots, the key DRBGs, and the life cycle (`15` R373–R383, `18` R428–R437). -/

open Sys2Proof

namespace Sys2Proof.Machine

/-- An instruction of the test access port by number. -/
theorem tapSelects (n : Fin 8) (opened perst : Bool) (d : Nat) :
    (decide (n.val ≤ 2) || (opened && (n.val != 6 || decide (d < 8))) || (n.val == 3 && perst)) = true ↔
      n ≤ 2 ∨ (opened = true ∧ (n ≠ 6 ∨ d < 8)) ∨ (n = 3 ∧ perst = true) := by
  simp only [Bool.or_eq_true, Bool.and_eq_true, decide_eq_true_eq, bne_iff_ne, beq_iff_eq, or_assoc, Fin.le_def, ne_eq, Fin.ext_iff]
  rfl

/-- LC.RETIRE as the mailbox takes it: in every state of the device, with no reserved argument bit. -/
def lcRetireCmd (_ : List W64) : Cmd :=
  { opc := 0x47, masks := List.replicate 8 allMask, names := [], ctxs := [], always := true, bad := false, free := true }

/-- What LC.RETIRE does once it is taken. -/
def lcRetireBody (a : List W64) (s : State) : State × Reply :=
  if !lifeSigned (lifeMsg (ascii "STRELNO EOL")) (wordBytes (a.take 8)) then
    ({ s with lc := { s.lc with refused := s.lc.refused + 1 } }, .done stAuth [])
  else if s.dev == .ready && s.ctxs.any (fun e => e.2.st != .free) then (s, .done stBusy [])
  else ({ s with lc := { s.lc.mark 7 with retire := true } }, ok)

/-- A request that is signed, while every context is FREE, begins the transition to End-of-life. -/
theorem lcRetireBody_accepts {a : List W64} {s : State}
    (signed : lifeSigned (lifeMsg (ascii "STRELNO EOL")) (wordBytes (a.take 8)) = true)
    (none : (s.ctxs.any fun e => e.2.st != .free) = false) :
    lcRetireBody a s = ({ s with lc := { s.lc.mark 7 with retire := true } }, ok) := by
  unfold lcRetireBody
  simp only [signed, none, Bool.not_true, Bool.and_false, Bool.false_eq_true, if_false]

end Sys2Proof.Machine

open Sys2Proof.Machine

/-- Settles O37: each command by its answer, each event by its guard. -/
theorem keysAndLifeCycle : Obligations.KeysAndLifeCycle := by
  unfold Obligations.KeysAndLifeCycle
  intro s t c i die n perst f
  dsimp only
  refine ⟨fun e => ?_, fun e => ?_, fun up => ⟨?_, ?_⟩, fun ready => ?_, fun valid => ⟨?_, fun ephemeral => ?_⟩, rfl, rfl,
    fun on aux sound drawn => ?_, fun e => ?_, fun e signed none => ?_, fun powered => ⟨?_, fun wired => ⟨fun other => ?_,
      fun blank kept settled early => ?_⟩⟩⟩
  · exact congrArg Host.Outcome.next (mailbox_done e rfl rfl rfl rfl rfl rfl)
  · exact congrArg Host.Outcome.next (mailbox_done e rfl rfl rfl rfl rfl rfl)
  · exact congrArg Host.Outcome.next (if_pos up)
  · exact congrArg Host.Outcome.next (if_pos up)
  · exact congrArg Host.Outcome.next (if_pos (beq_iff_eq.2 ready))
  · rw [exec_slotSweep, execSlotSweep, valid]
    cases s.usable 4 i <;> rfl
  · rw [exec_ephemExpiry, execEphemExpiry, valid, ephemeral]
    rfl
  · have fails : (s.dev == .off || s.dev == .auxOnly || s.keys.failed) = false := by
      rw [beq_eq_false_iff_ne.2 on, beq_eq_false_iff_ne.2 aux, sound]; rfl
    rw [exec_entropyFailure]
    simp only [execEntropyFailure, fails, drawn, Bool.false_eq_true, if_false]
  · exact congrArg Host.Outcome.next (mailbox_done e rfl rfl rfl rfl rfl rfl)
  · have answered := mailbox_done (k := lcRetireCmd)
      (body := lcRetireBody) e rfl rfl rfl rfl rfl (lcRetireBody_accepts signed none)
    refine (congrArg (fun r : State => Host.Outcome.next (if r.lc.retire then r.packageReset 4 else r)) answered).trans ?_
    exact congrArg Host.Outcome.next (if_pos (by simp only [State.answers, State.complete, State.irq, State.msgDue_lc, State.setReg_lc, State.updChan_lc]))
  · rw [exec_lcAdvance]
    simp only [execLcAdvance, powered, Bool.not_true, Bool.false_eq_true, if_false, Bool.and_eq_true, beq_iff_eq]
  · have number : ¬ n.val = 7 := fun seven => other (Fin.ext seven)
    rw [exec_testAccessPortInstruction]
    simp only [execTestAccessPortInstruction, powered, wired, number, tapSelects, Bool.not_true, Bool.or_self,
      Bool.false_eq_true, if_false]
  · have ready : (s.lc.die die.val == 0 && !s.lc.retiring && !s.lc.enrolling &&
        (s.lc.master == some 0 || s.lc.master == some 1)) = true := by
      rw [blank, kept, settled]
      rcases early with early | early <;> rw [early] <;> rfl
    rw [exec_testAccessPortInstruction]
    simp only [execTestAccessPortInstruction, powered, wired, ready, Bool.not_true, Bool.or_self, Bool.false_eq_true, if_false]
    rfl
end

section
/-! A record of a later conformance version at the end of a field test (`20` R474, `04` R113). -/

open Sys2Proof

namespace Sys2Proof.Machine

/-- A state in which a field test runs. -/
def fieldTesting : State := { State.reset with ras := { State.reset.ras with fieldTest := 1 } }

/-- A failing record of core 0, of version 2 of the conformance set. -/
def laterRecord : FailRec := 
  { ver := 2, ukind := 0, uidx := 0, test := 0, row := 0, col := 0, expect := 0, got := 0, flags := (0, 0) }

/-- The units that a step leaves as failing. -/
def failingUnits : Out → List (Nat × Nat)
  | .next s => s.ras.ftFail
  | _ => []

end Sys2Proof.Machine

open Sys2Proof.Machine

/-- Refutes O40: a record of a version above that of the device is skipped at the end of the test, and its unit is none of
those that failed. -/
theorem not_fieldTests : ¬ Obligations.FieldTests := by
  unfold Obligations.FieldTests
  intro holds
  obtain ⟨-, -, ends, -⟩ := holds fieldTesting { chan := 0, seq := 0, args := [] } [] [laterRecord] [] 0 0 0
  obtain ⟨-, completes⟩ := ends (by decide +kernel)
  have counted := congrArg failingUnits (completes (by decide +kernel))
  have skipped : failingUnits (exec (.fieldTestComplete [laterRecord] []) fieldTesting) = [] := by decide +kernel
  rw [skipped] at counted
  exact absurd counted (by decide +kernel)
end

section
/-! Starts, images and calibration; unit resets; halts and trips (`20` R462–R464, `21` R479–R494, `22` R498–R510). -/

open Sys2Proof Sys2Proof.Machine

/-- Settles O39: each event by its guard, each command by its answer. -/
theorem startUp : Obligations.StartUp := by
  unfold Obligations.StartUp
  intro s t c i x ends v
  dsimp only
  refine ⟨fun starting => ⟨?_, fun notBlank notTest => ?_⟩, fun free hold recovers => ⟨fun fails => ?_, fun passes => ⟨?_, ?_⟩⟩,
    fun e => ⟨fun unsigned => ?_, fun signed => ?_⟩, fun e item still => ⟨fun outside => ?_, fun fits => ?_⟩,
    fun e item => ⟨fun written => ?_, fun unwritten drawn => ?_⟩, fun ready due still => ?_⟩
  · exact congrArg Host.Outcome.next (if_pos (beq_iff_eq.2 starting))
  · refine congrArg Host.Outcome.next (if_pos ?_)
    rw [starting, bne_iff_ne.2 notBlank, bne_iff_ne.2 notTest]; rfl
  · rw [exec_imageWrite]
    simp only [execImageWrite, hold, recovers, free, bne_iff_ne.2 fails, beq_self_eq_true, Bool.and_self, Bool.true_or, Bool.not_true,
      Bool.or_self, Bool.false_eq_true, if_false, if_true]
  · rw [exec_imageWrite]
    simp only [execImageWrite, hold, recovers, free, passes, beq_self_eq_true, Bool.and_self, Bool.true_or, Bool.not_true,
      Bool.or_self, Bool.false_eq_true, if_false, if_true, bne_self_eq_false, Bool.not_false]
  · rw [exec_imageWrite]
    simp only [execImageWrite, hold, recovers, free, passes, beq_self_eq_true, Bool.and_self, Bool.true_or, Bool.not_true,
      Bool.or_self, Bool.false_eq_true, if_false, if_true, bne_self_eq_false]
  · refine congrArg Host.Outcome.next (mailbox_done e rfl rfl rfl rfl rfl ?_)
    simp only [unsigned, Bool.not_false, if_true]
  · by_cases last : s.taken.boot.revoked ||| BitVec.ofNat 4 (2 ^ fld (argAt (s.argsOf c) 0) 1 0) = 15
    · rw [if_pos last]
      refine congrArg Host.Outcome.next (mailbox_done e rfl rfl rfl rfl rfl ?_)
      simp only [signed, Bool.not_true, Bool.false_eq_true, if_false]
      exact if_pos last
    · rw [if_neg last]
      refine congrArg Host.Outcome.next (mailbox_done e rfl rfl rfl rfl rfl ?_)
      simp only [signed, Bool.not_true, Bool.false_eq_true, if_false]
      exact if_neg last
  · refine congrArg Host.Outcome.next (mailbox_refused e rfl rfl rfl rfl item ?_)
    simp only [still, outside, Bool.not_false, Bool.false_eq_true, if_false, if_true]
  · refine congrArg Host.Outcome.next (mailbox_done e rfl rfl rfl rfl item ?_)
    simp only [still, fits, Bool.not_true, Bool.false_eq_true, if_false]
    rfl
  · refine congrArg Host.Outcome.next (mailbox_done e rfl rfl rfl rfl item ?_)
    simp only [written]
  · refine congrArg Host.Outcome.next (mailbox_done e rfl rfl rfl rfl item ?_)
    simp only [unwritten, drawn]
  · refine congrArg Host.Outcome.next (if_pos ?_)
    rw [ready, due, still]; rfl

/-- Settles O45: a reset and its end by the unit's kind, a hang by the engine that shows it. -/
theorem unitResets : Obligations.UnitResets := by
  unfold Obligations.UnitResets
  intro s core cluster die m kind i e j c f t
  refine ⟨rfl, rfl, rfl, rfl, fun ready fitted idle => ?_, rfl, fun resets => ⟨fun other => ?_, fun drawn => ⟨fun die => ?_,
    fun mdie => ?_, fun core => ?_⟩⟩, fun resets => congrArg Host.Outcome.next (if_pos resets), fun works running => ?_,
    fun ready busy => ?_⟩
  · have begins : (s.dev != .ready || !s.unitFitted 1 cluster || s.resetting 1 cluster) = false := by
      rw [ready, fitted, idle]; rfl
    rw [exec_clusterReset, execClusterReset, State.resetUnit, begins]
    rfl
  · rw [exec_unitReady]
    simp only [execUnitReady, State.unitReady, other, resets, Bool.not_true, Bool.false_eq_true, if_false]
  · subst die
    rw [exec_resetEscalation]
    simp only [execResetEscalation, resets, drawn, Bool.not_true, Bool.false_eq_true, if_false]
    rfl
  · subst mdie
    rw [exec_resetEscalation]
    simp only [execResetEscalation, resets, drawn, Bool.not_true, Bool.false_eq_true, if_false]
  · subst core
    rw [exec_resetEscalation]
    simp only [execResetEscalation, resets, drawn, Bool.not_true, Bool.false_eq_true, if_false]
    rfl
  · rw [exec_progressWatchdog]
    simp only [execProgressWatchdog, works, running, beq_self_eq_true, if_true]
  · have acts : (s.dev != .ready || !s.engineBusy e j) = false := by rw [ready, busy]; rfl
    rw [exec_noProgress]
    simp only [execNoProgress, acts, Bool.false_eq_true, if_false]
    fin_cases e <;> rfl

/-- Settles O46: the patrol by tier, the integrity halt, and each trip by whether Sheepdog has tripped. -/
theorem haltsAndTrips : Obligations.HaltsAndTrips := by
  unfold Obligations.HaltsAndTrips
  intro s da h cls ukind uidx w
  refine ⟨fun ready dram => ?_, fun ready => ?_, rfl, fun runs => congrArg Host.Outcome.next (if_pos runs),
    fun runs main => ⟨fun tripped => ?_, fun untripped => ?_⟩⟩
  · rw [exec_patrol]
    rcases dram with ⟨c, space⟩ | ⟨m, space⟩ <;>
      simp only [execPatrol, ready, space, bne_self_eq_false, Bool.false_eq_true, if_false]
  · rw [exec_integrityHalt]
    simp only [execIntegrityHalt, State.halt, ready, beq_self_eq_true, Bool.true_or, if_true]
    rfl
  · have trips (code : Nat) : s.trip code = { s with ras := { s.ras with yorekHeld := true } } := by
      unfold State.trip
      simp only [runs, tripped, beq_eq_false_iff_ne.2 main, Bool.not_true, Bool.or_self, Bool.false_eq_true, if_false, if_true]
    exact ⟨congrArg Host.Outcome.next (trips 2), congrArg Host.Outcome.next (trips 3)⟩
  · have acts : (!s.yorekRuns || s.dev == .auxOnly) = false := by
      rw [runs, beq_eq_false_iff_ne.2 main]; rfl
    refine ⟨congrArg Host.Outcome.next ?_, congrArg Host.Outcome.next ?_⟩ <;>
      simp only [State.trip, acts, untripped, Bool.false_eq_true, if_false]
end

section
/-! Tether, command packets, doorbells and MSI-X messages (`12` R305–R310, `13` R333, R336, `14` R350–R360). -/

open Sys2Proof

namespace Sys2Proof.Machine

/-- A vector that is due or pending is looked at. -/
theorem vectorDue {due pend : Bool} (set : due = true ∨ pend = true) : (due || pend) = true := by
  rw [Bool.or_eq_true]; exact set

/-- Outside Sentinel mode every vector fires, and in it the first 16 (`13` R333). -/
theorem vectorAwake {dev : Dev} {v : Nat} (fires : dev ≠ .sentinel ∨ v < 16) : (dev == .sentinel && decide (16 ≤ v)) = false := by
  rcases fires with running | low
  · rw [beq_eq_false_iff_ne.2 running]; rfl
  · rw [decide_eq_false (Nat.not_le.2 low), Bool.and_false]

end Sys2Proof.Machine

open Sys2Proof.Machine

/-- Settles O42: each event by its guard. -/
theorem tether : Obligations.Tether := by
  unfold Obligations.Tether
  intro s b h port t1 t2 t3 asym host
  dsimp only
  refine ⟨fun ready => ⟨fun masters => ?_, fun up domain heeds => ?_, fun up => ⟨?_, fun follows parent mine => ⟨?_, fun asked => ?_⟩⟩,
    fun holds => ?_, fun follows heard => ?_, fun unlocked free => ?_, fun masters => ⟨fun first => ?_, ?_, ?_⟩,
    fun up enabled => ⟨?_, ?_⟩⟩, rfl⟩
  · rw [exec_tetherBeacon]
    simp only [execTetherBeacon, ready, masters, bne_self_eq_false, Bool.false_eq_true, if_false]
  · have taken : ((s.port b.port).st != .up || b.tdom.toNat != s.tet.domain) = false := by
      rw [up, domain, bne_self_eq_false, bne_self_eq_false]; rfl
    rw [exec_tetherBeacon]
    simp only [execTetherBeacon, ready, taken, bne_self_eq_false, Bool.false_eq_true, if_false]
    rcases heeds with follows | none | ⟨masters, lower⟩
    · simp only [follows]
    · simp only [none]
      cases s.tet.mast <;> rfl
    · simp only [masters]
      cases s.tet.mast
      · rfl
      · exact congrArg Host.Outcome.next (if_pos lower)
  · rw [exec_timeExchange]
    simp only [execTimeExchange, ready, up, bne_self_eq_false, Bool.or_self, Bool.false_eq_true, if_false]
  · rw [exec_timeExchange]
    simp only [execTimeExchange, ready, up, follows, parent, mine, bne_self_eq_false, Bool.or_self, Bool.false_eq_true, if_false,
      Bool.not_false, beq_self_eq_true, Bool.and_self, if_true]
  · rw [exec_timeExchange]
    simp only [execTimeExchange, ready, up, follows, parent, mine, asked, bne_self_eq_false, Bool.or_self, Bool.false_eq_true,
      if_false, Bool.not_false, beq_self_eq_true, Bool.and_self]
  · refine congrArg Host.Outcome.next (if_pos ?_)
    rw [ready, holds]; rfl
  · have silent : (s.dev != .ready || s.tet.mast || s.tet.best.isNone) = false := by
      rw [ready, follows, Option.isNone_eq_false_iff.2 heard]; rfl
    rw [exec_masterLoss]
    simp only [execMasterLoss, silent, Bool.false_eq_true, if_false, Bool.and_eq_true, Bool.or_eq_true, beq_iff_eq]
  · refine congrArg Host.Outcome.next (if_neg ?_)
    rw [ready, beq_eq_false_iff_ne.2 unlocked, beq_eq_false_iff_ne.2 free]; decide
  · rw [exec_syncIn]
    simp only [execSyncIn, ready, masters, first, bne_self_eq_false, Bool.not_true, Bool.or_self, Bool.false_eq_true, if_false]
    rfl
  · rw [exec_syncIn]
    simp only [execSyncIn, Bool.not_false, Bool.or_true, Bool.true_or, if_true]
  · refine congrArg Host.Outcome.next (if_pos ?_)
    rw [ready, masters]; rfl
  · rw [exec_ptmDialog]
    simp only [execPtmDialog, ready, up, enabled, bne_self_eq_false, Bool.not_true, Bool.or_self, Bool.false_eq_true, if_false, if_true]
  · rw [exec_ptmDialog]
    simp only [execPtmDialog, ready, up, enabled, bne_self_eq_false, Bool.not_true, Bool.or_self, Bool.false_eq_true, if_false]

/-- Settles O41: packets that start and those that end, and each doorbell by the value written. -/
theorem packetsAndDoorbells : Obligations.PacketsAndDoorbells := by
  unfold Obligations.PacketsAndDoorbells
  refine ⟨?packets, ?doorbells⟩
  case packets =>
    intro s t p c x slot queue i
    dsimp only
    refine ⟨fun e listed => ?_, fun e held idle entry charter => ?_, fun e held => ?_, fun e a b d => ?_, fun e a => ?_,
      fun holds ready => ⟨fun resident listed => ⟨fun stop ended => ?_, fun other ended => ?_, fun other waits => ?_⟩,
        fun valid timed due => ?_⟩⟩
    · refine congrArg Host.Outcome.next ((packet_starts e rfl).trans ?_)
      simp only [listed]
    · refine congrArg Host.Outcome.next (packet_starts e ?_)
      have point : (s.confidential c && !s.entryPoint c (argAt p.w 4)) = false := by
        rcases charter with plain | listed
        · rw [plain]; rfl
        · rw [listed, Bool.not_true, Bool.and_false]
      simp only [held, idle, point, decide_eq_false (Nat.not_le.2 entry), Bool.or_self]
    · exact congrArg Host.Outcome.next (packet_starts e held)
    · refine congrArg Host.Outcome.next (packet_starts e ?_)
      simp only [aligned, a, b, d, beq_self_eq_true, Bool.not_true, Bool.or_self]
    · refine congrArg Host.Outcome.next (packet_starts e ?_)
      simp only [aligned, a, beq_self_eq_true, Bool.not_true]
    · rw [exec_packetComplete]
      simp only [execPacketComplete, holds, listed, ready, resident, stop, ended, State.settle, bne_self_eq_false, Bool.not_true,
        Bool.or_self, Bool.false_eq_true, if_false, if_true]
    · rw [exec_packetComplete]
      simp only [execPacketComplete, holds, listed, ready, resident, other, ended, State.settle, bne_self_eq_false, Bool.not_true,
        Bool.or_self, Bool.false_eq_true, if_false]
    · rw [exec_packetComplete]
      simp only [execPacketComplete, holds, listed, ready, resident, other, waits, bne_self_eq_false, Bool.not_true,
        Bool.or_self, Bool.false_eq_true, if_false]
    · rw [exec_queueTimeout]
      simp only [execQueueTimeout, holds, ready, valid, bne_iff_ne.2 timed, due, beq_self_eq_true, Bool.and_self, if_true]
  case doorbells =>
    intro s c slot queue val v
    dsimp only
    refine ⟨fun holds ready resident => ⟨fun short => ⟨fun unused => ?_, fun used same => ?_, fun used other past => ?_,
      fun used other advances inside => ?_, ?_⟩, ?_⟩, fun due open_ => ⟨fun sends => ?_, fun held => ?_⟩⟩
    · refine congrArg Host.Outcome.next ((doorbell_takes holds ready resident short).trans ?_)
      simp only [unused, Bool.not_false, if_true]
    · refine congrArg Host.Outcome.next ((doorbell_takes holds ready resident short).trans ?_)
      simp only [used, same, Bool.not_true, Bool.false_eq_true, if_false, if_true]
    · refine congrArg Host.Outcome.next ((doorbell_takes holds ready resident short).trans ?_)
      simp only [used, other, past, Bool.not_true, Bool.false_eq_true, if_false, if_true]
    · refine congrArg Host.Outcome.next ((doorbell_takes holds ready resident short).trans ?_)
      simp only [used, other, Nat.not_lt.2 inside, Nat.not_lt.2 advances, Bool.not_true, Bool.false_eq_true, if_false]
    · exact congrArg Host.Outcome.next (doorbell_takes holds ready resident short)
    · rw [exec_fsigv]
      simp only [execFsigv, holds, ready, resident, ne_eq, not_true_eq_false, bne_self_eq_false, Bool.not_true, Bool.or_self,
        Bool.false_eq_true, if_false]
    · obtain ⟨enabled, plain, unmasked⟩ := sends
      rw [exec_msixMessage]
      simp only [execMsixMessage, vectorDue due, vectorAwake open_, enabled, plain, unmasked, Bool.not_true, Bool.not_false,
        Bool.and_self, Bool.false_eq_true, if_false, if_true]
    · have masked : (s.pcie.msixEn && !s.pcie.msixMask && (Tab.get {} s.pcie.msix v).unmasked) = false := by
        rw [Bool.eq_false_iff]
        intro sends
        simp only [Bool.and_eq_true, Bool.not_eq_true'] at sends
        obtain ⟨⟨enabled, plain⟩, unmasked⟩ := sends
        exact held ⟨enabled, plain, unmasked⟩
      rw [exec_msixMessage]
      simp only [execMsixMessage, vectorDue due, masked, Bool.false_and, Bool.not_true, Bool.false_eq_true, if_false]
end

section
/-! Contexts, slots, queues, fences and queries (`14` R345–R365, `25` R566). -/

open Sys2Proof

namespace Sys2Proof.Machine

/-- An aligned number passes its check. -/
theorem not_aligned_of_mod {n a : Nat} (multiple : n % a = 0) : (!aligned n a) = false := by
  simp [aligned, multiple]

/-- What a charter demands holds. -/
theorem demand_met {flag have_ : Bool} (met : flag = true → have_ = true) : (flag && !have_) = false := by
  cases flag
  · rfl
  · rw [met rfl]; rfl

end Sys2Proof.Machine

open Sys2Proof.Machine

/-- Settles O25: each command by its answer, and the abort by its step. -/
theorem contextCommands : Obligations.ContextCommands := by
  unfold Obligations.ContextCommands
  refine ⟨?commands, ?abort⟩
  case commands =>
    intro s t c i j k x chan
    dsimp only
    refine ⟨fun e scale delta small large page charter vector strict static first job => ?_, fun e idle free => ?_,
      fun e resident untied => ?_, fun e small large page unused => ?_, fun e wdt => ?_, fun e early => ?_, fun active waits => ?_⟩
    · have first' : firstOf (fun i => !s.taken.ctxLive i) 4096 0 = some i := first
      have charter' : s.taken.charter? (argDig (s.argsOf c) 0) = some x := charter
      have demands : (chFlag x.image 1 && !s.taken.pw.strict || chFlag x.image 2 && !s.taken.pw.sStatic) = false := by
        rw [Bool.or_eq_false_iff]; exact ⟨demand_met strict, demand_met static⟩
      refine congrArg Host.Outcome.next (mailbox_done e rfl rfl rfl rfl ?_ ?_)
      · simp only [decide_eq_false (Nat.not_lt.2 scale), beq_eq_false_iff_ne.2 delta, decide_eq_false (Nat.not_lt.2 small),
          decide_eq_false (Nat.not_lt.2 large), not_aligned_of_mod page, Bool.or_self]
      · simp only [charter', Nat.not_lt.2 vector, demands, first', job, Bool.false_eq_true, if_false]
        rfl
    · have idle' : (s.taken.ctx (argCtx (s.argsOf c) 0)).st = .idle := idle
      have free' : firstOf (fun j => (Tab.get none s.taken.slots j).isNone) 48 0 = some j := free
      refine congrArg Host.Outcome.next (mailbox_done e rfl rfl rfl rfl rfl ?_)
      simp only [idle', free', bne_self_eq_false, Bool.false_eq_true, if_false]
      rfl
    · have resident' : (s.taken.ctx (argCtx (s.argsOf c) 0)).st = .resident := resident
      have untied' : s.taken.tied (argCtx (s.argsOf c) 0) = false := untied
      cases open_ : s.packetsOpen (argCtx (s.argsOf c) 0)
      · refine congrArg Host.Outcome.next (mailbox_done e rfl rfl rfl rfl rfl ?_)
        simp only [resident', untied', show s.taken.packetsOpen _ = false from open_, bne_self_eq_false, Bool.false_eq_true, if_false]
      · refine congrArg Host.Outcome.next (mailbox_waits e rfl rfl rfl rfl rfl ?_)
        simp only [resident', untied', show s.taken.packetsOpen _ = true from open_, bne_self_eq_false, Bool.false_eq_true, if_false,
          if_true]
    · refine congrArg Host.Outcome.next (mailbox_done e rfl rfl rfl rfl ?_ ?_)
      · simp only [decide_eq_false (Nat.not_lt.2 small), decide_eq_false (Nat.not_lt.2 large), not_aligned_of_mod page, Bool.or_self]
      · exact if_neg (Bool.eq_false_iff.1 unused)
    · exact congrArg Host.Outcome.next (mailbox_done e rfl rfl rfl rfl (beq_eq_false_iff_ne.2 wdt) rfl)
    · exact congrArg Host.Outcome.next (mailbox_done e rfl rfl rfl rfl rfl (if_neg (Nat.not_le.2 early)))
    · rw [exec_slotOutTimeout]
      simp only [execSlotOutTimeout, active, waits]
  case abort =>
    intro s c ctx
    dsimp only
    refine ⟨fun e held => congrArg Host.Outcome.next (mailbox_done e rfl rfl rfl rfl rfl (if_neg held)), fun ready ends =>
      ⟨fun first => ?_, fun drains all => ?_, fun aborting fenced => ?_, fun lost drained => ?_⟩⟩
    · have runs : (s.dev != .ready || ((s.ctx ctx.val).st != .lost && (s.ctx ctx.val).st != .aborting)) = false := by
        rw [ready]; rcases ends with st | st <;> rw [st] <;> rfl
      rw [exec_abort]
      simp only [execAbort, runs, first, Bool.false_eq_true, if_false, if_true]
    · refine congrArg Host.Outcome.next (if_pos ?_)
      rw [ready, drains, all]; rfl
    · rw [exec_abort]
      simp only [execAbort, ready, aborting, fenced, bne_self_eq_false, Bool.and_false, Bool.or_self, Bool.false_eq_true, if_false,
        OfNat.ofNat_ne_zero, beq_self_eq_true, Bool.and_true, decide_true, if_true, Nat.reduceEqDiff]
    · rw [exec_abort]
      simp only [execAbort, ready, lost, drained, bne_self_eq_false, Bool.false_and, Bool.or_self, Bool.false_eq_true, if_false,
        OfNat.ofNat_ne_zero, if_true, show (CtxState.lost == CtxState.aborting) = false from rfl, Bool.and_false]

/-- Settles O26: the fence commands and QUERY by their answers, and a CMD write by the state of its channel. -/
theorem fencesAndQueries : Obligations.FencesAndQueries := by
  unfold Obligations.FencesAndQueries
  refine ⟨?fences, ?queries, ?writes⟩
  case fences =>
    intro s c i o
    dsimp only
    refine ⟨fun e free => ?_, fun owner => ⟨fun e free => ?_, fun e live related room => ?_⟩, fun e valid granted => ?_⟩
    · have free' : s.taken.freeFence = some i := free
      refine congrArg Host.Outcome.next (mailbox_done e rfl rfl rfl rfl rfl ?_)
      simp only [free']
      rfl
    · have owner' : s.taken.fenceOwner (fld (argAt (s.argsOf c) 0) 15 0) = [o] := owner
      refine congrArg Host.Outcome.next (mailbox_done e rfl rfl (by simp only [owner]; rfl) owner rfl ?_)
      simp only [owner', show s.taken.waited (fld (argAt (s.argsOf c) 0) 15 0) = false from free, List.isEmpty_cons,
        Bool.false_eq_true, if_false]
      rfl
    · have owner' : s.taken.fenceOwner (fld (argAt (s.argsOf c) 0) 15 0) = [o] := owner
      have live' : s.taken.ctxLive (fld (argAt (s.argsOf c) 0) 27 16) = true := live
      have apart : ((s.taken.ctx o).chd != (s.taken.ctx (fld (argAt (s.argsOf c) 0) 27 16)).chd &&
          !s.taken.declared (s.taken.ctx o).chd (s.taken.ctx (fld (argAt (s.argsOf c) 0) 27 16)).chd) = false := by
        rcases related with same | declared
        · rw [show (s.taken.ctx o).chd = (s.taken.ctx (fld (argAt (s.argsOf c) 0) 27 16)).chd from same, bne_self_eq_false]; rfl
        · rw [show s.taken.declared (s.taken.ctx o).chd (s.taken.ctx (fld (argAt (s.argsOf c) 0) 27 16)).chd = true from declared,
            Bool.not_true, Bool.and_false]
      refine congrArg Host.Outcome.next (mailbox_done e rfl rfl (by simp only [owner]; rfl) owner rfl ?_)
      simp only [owner', live', apart, Bool.not_true, Bool.false_eq_true, if_false]
      exact if_neg (Nat.not_le.2 room)
    · have granted' : (!(s.taken.fence (fld (argAt (s.argsOf c) 0) 15 0)).v ||
          !((s.taken.fence (fld (argAt (s.argsOf c) 0) 15 0)).grants.any fun x => x.ctx == fld (argAt (s.argsOf c) 0) 27 16)) =
            false := by
        rw [show (s.taken.fence (fld (argAt (s.argsOf c) 0) 15 0)).v = true from valid,
          show ((s.taken.fence (fld (argAt (s.argsOf c) 0) 15 0)).grants.any fun x =>
            x.ctx == fld (argAt (s.argsOf c) 0) 27 16) = true from granted]
        rfl
      exact congrArg Host.Outcome.next (mailbox_done e rfl rfl rfl rfl rfl (if_neg (Bool.eq_false_iff.1 granted')))
  case queries =>
    intro s c
    dsimp only
    refine ⟨fun e least most => ?_, fun e small large page => ?_, fun e set => ?_⟩
    · have answered (t : State) (st : Nat) (res : List W64) (body : s.taken.query (fld (argAt (s.argsOf c) 0) 7 0)
          (fld (argAt (s.argsOf c) 0) 27 16) (argAt (s.argsOf c) 1) (argAt (s.argsOf c) 2) = (t, .done st res)) :
          exec (.query c) s = .next (t.answers c st res) := by
        refine congrArg Host.Outcome.next (mailbox_done e rfl rfl rfl rfl ?_ body)
        show (fld (argAt (s.argsOf c) 0) 7 0 == 0 || decide (0x0B < fld (argAt (s.argsOf c) 0) 7 0)) = false
        rw [beq_eq_false_iff_ne.2 (Nat.one_le_iff_ne_zero.1 least), decide_eq_false (Nat.not_lt.2 most)]; rfl
      clear e
      generalize fld (argAt (s.argsOf c) 0) 7 0 = code at *
      generalize fld (argAt (s.argsOf c) 0) 27 16 = k at *
      interval_cases code
      · refine ⟨_, _, answered _ _ _ rfl, ?_⟩
        simp only [Nat.reduceEqDiff, false_implies, forall_const, or_false, and_true, true_and]
        rfl
      · refine ⟨_, _, answered _ _ _ rfl, ?_⟩
        simp only [Nat.reduceEqDiff, false_implies, forall_const, or_false, and_true, true_and]
        exact List.take_left' rfl
      · refine ⟨_, _, answered _ _ _ rfl, ?_⟩
        simp only [Nat.reduceEqDiff, false_implies, forall_const, or_false, and_true, true_and]
        rfl
      · refine ⟨_, _, answered _ _ _ rfl, ?_⟩
        simp only [Nat.reduceEqDiff, false_implies, forall_const, or_false, and_true, true_and]
        rfl
      · refine ⟨_, _, answered _ _ _ rfl, ?_⟩
        simp only [Nat.reduceEqDiff, false_implies, forall_const, or_false, and_true, true_and]
        rfl
      · cases live : s.ctxLive k
        · refine ⟨_, _, answered s.taken _ _ (congrArg (Prod.mk s.taken) (if_neg (Bool.eq_false_iff.1 live))), ?_⟩
          simp only [Nat.reduceEqDiff, false_implies, forall_const, or_false, and_true, true_and]
          exact fun dead => absurd dead Bool.false_ne_true
        · refine ⟨_, _, answered s.taken _ _ (congrArg (Prod.mk s.taken) (if_pos live)), ?_⟩
          simp only [Nat.reduceEqDiff, false_implies, forall_const, or_false, and_true, true_and]
          exact ⟨nofun, rfl⟩
      · cases live : s.ctxLive k
        · refine ⟨_, _, answered s.taken _ _ (congrArg (Prod.mk s.taken) (if_pos (by rw [show s.taken.ctxLive k = false from live]; rfl))), ?_⟩
          simp only [Nat.reduceEqDiff, false_implies, forall_const, false_or, and_true, true_and]
          exact fun dead => absurd dead Bool.false_ne_true
        · refine ⟨_, _, answered s.taken _ _ (congrArg (Prod.mk s.taken) (if_neg (by rw [show s.taken.ctxLive k = true from live]; decide))), ?_⟩
          simp only [Nat.reduceEqDiff, false_implies, forall_const, false_or, and_true, true_and]
          exact ⟨nofun, rfl, rfl⟩
      · by_cases outside : (argAt (s.argsOf c) 2).toNat < 1 ∨ 4096 < (argAt (s.argsOf c) 2).toNat
        · refine ⟨_, _, answered s.taken _ _ (congrArg (Prod.mk s.taken) (if_pos outside)), ?_⟩
          simp only [Nat.reduceEqDiff, false_implies, forall_const, or_false, and_true, true_and]
          exact fun least most => absurd outside (by omega)
        · refine ⟨_, _, answered s.taken _ _ (congrArg (Prod.mk s.taken) (if_neg outside)), ?_⟩
          simp only [Nat.reduceEqDiff, false_implies, forall_const, or_false, and_true, true_and]
          exact fun _ _ => rfl
      · cases none : !(s.handoff k).isOpen && (s.handoff k).broken.isNone
        · refine ⟨_, _, answered s.taken _ _ (congrArg (Prod.mk s.taken) (if_neg (Bool.eq_false_iff.1 none))), ?_⟩
          simp only [Nat.reduceEqDiff, false_implies, forall_const, or_false, and_true, true_and]
          intro _ whole
          rw [show (s.taken.handoff k).broken = Option.none from whole]
          exact rfl
        · refine ⟨_, _, answered s.taken _ _ (congrArg (Prod.mk s.taken) (if_pos none)), ?_⟩
          simp only [Nat.reduceEqDiff, false_implies, forall_const, or_false, and_true, true_and]
          intro isOpen
          rw [isOpen] at none
          exact absurd none Bool.false_ne_true
      · cases valid : (s.fence (fld (argAt (s.argsOf c) 1) 15 0)).v
        · refine ⟨_, _, answered s.taken _ _ (congrArg (Prod.mk s.taken) (if_neg (Bool.eq_false_iff.1 valid))), ?_⟩
          simp only [Nat.reduceEqDiff, false_implies, forall_const, or_false, and_true, true_and]
          exact nofun
        · refine ⟨_, _, answered s.taken _ _ (congrArg (Prod.mk s.taken) (if_pos valid)), ?_⟩
          simp only [Nat.reduceEqDiff, false_implies, forall_const, or_false, and_true, true_and]
          rfl
      · cases live : s.ctxLive k && ((s.ctx k).queue (fld (argAt (s.argsOf c) 1) 3 0)).v
        · refine ⟨_, _, answered s.taken _ _ (congrArg (Prod.mk s.taken) (if_neg (Bool.eq_false_iff.1 live))), ?_⟩
          simp only [Nat.reduceEqDiff, false_implies, forall_const, or_false, and_true, true_and]
          intro ctx queue
          rw [ctx, queue] at live
          exact absurd live.symm Bool.false_ne_true
        · refine ⟨_, _, answered s.taken _ _ (congrArg (Prod.mk s.taken) (if_pos live)), ?_⟩
          simp only [Nat.reduceEqDiff, false_implies, forall_const, or_false, true_and]
          exact fun _ _ => rfl
    · refine congrArg Host.Outcome.next (mailbox_done e rfl rfl rfl rfl ?_ rfl)
      simp only [decide_eq_false (Nat.not_lt.2 small), decide_eq_false (Nat.not_lt.2 large), not_aligned_of_mod page, Bool.or_self]
    · refine congrArg Host.Outcome.next (mailbox_done e rfl rfl rfl rfl (decide_eq_false (Nat.not_lt.2 set)) ?_)
      dsimp only
      generalize fld (argAt (s.argsOf c) 0) 15 12 = n at set
      interval_cases n <;> rfl
  case writes =>
    intro s chan cmd ready free d0
    dsimp only
    have up : s.mailboxUp = true := by
      unfold State.mailboxUp; rw [ready, free, d0]; rfl
    have same : (if fld cmd 39 0 = 0 then s else s.rsvWrite).chan = s.chan := by split <;> rfl
    have queue : (if fld cmd 39 0 = 0 then s else s.rsvWrite).mbxQ = s.mbxQ := by split <;> rfl
    have device : (if fld cmd 39 0 = 0 then s else s.rsvWrite).dev = .ready := by split <;> exact ready
    refine ⟨fun active => ?_, fun idle known plain => ?_, fun idle bad => ?_⟩
    · rw [exec_mailboxBadCommand]
      simp only [execMailboxBadCommand, up, same, active, Bool.not_true, Bool.false_eq_true, if_false, if_true]
    · rw [exec_mailboxBadCommand]
      simp only [execMailboxBadCommand, up, idle, known, plain, beq_self_eq_true, Bool.and_self, Bool.not_true,
        Bool.false_eq_true, if_false, if_true]
    · have refused : (knownOpc (fld cmd 63 56) && fld cmd 39 0 == 0) = false := by
        rcases bad with unknown | reserved
        · rw [unknown]; rfl
        · rw [beq_eq_false_iff_ne.2 reserved, Bool.and_false]
      rw [exec_mailboxBadCommand]
      simp only [execMailboxBadCommand, up, same, queue, device, idle, refused, Bool.not_true, Bool.false_eq_true, if_false, if_true]
end

section
/-! O31: handoff channels. -/
open Sys2Proof
namespace Sys2Proof.Machine

/-- An end of a channel has a legal ring where it has one at all. -/
theorem ring_legal {here : Bool} {n : Nat} (h : here = true → 1 ≤ n ∧ n ≤ 16) :
    (here && (n == 0 || decide (16 < n))) = false := by
  cases here
  · rfl
  · obtain ⟨least, most⟩ := h rfl
    rw [beq_eq_false_iff_ne.2 (Nat.one_le_iff_ne_zero.1 least), decide_eq_false (Nat.not_lt.2 most)]; rfl

end Sys2Proof.Machine
open Sys2Proof.Machine

/-- Settles O31: each handoff instruction, case by case along its definition. -/
theorem handoffChannels : Obligations.HandoffChannels := by
  unfold Obligations.HandoffChannels
  intro s t c k ch b q z
  dsimp only
  refine ⟨fun e prod cons good reach free => ?_, fun e isOpen => ?_, fun ready isOpen => ⟨fun prod below => ?_, fun away below => ⟨fun bad => ?_, fun good delivered => ?_⟩, fun apart => ⟨fun broken => ?_, fun whole => ⟨fun prod => ?_, fun away => ?_⟩⟩⟩⟩
  · refine congrArg Host.Outcome.next (mailbox_done e rfl rfl rfl rfl ?_ ?_)
    · dsimp only
      rw [ring_legal prod, ring_legal cons]; rfl
    · have good' : s.taken.openBad (openArgs (s.argsOf c) 0 0) c.peer = false := good
      have free' : firstOf (fun i => !(s.taken.handoff i).isOpen) 256 0 = some k := free
      have reach' : (openArgs (s.argsOf c) 0 0).peer = 0 ∨ (s.taken.portTo (openArgs (s.argsOf c) 0 0).peer).isSome = true := reach
      have linked : ((openArgs (s.argsOf c) 0 0).peer != 0 && (s.taken.portTo (openArgs (s.argsOf c) 0 0).peer).isNone) = false := by
        rcases reach' with here | port
        · rw [here]; rfl
        · rw [Option.isNone_eq_false_iff.2 port, Bool.and_false]
      simp only [good', free', linked, Bool.or_self, Bool.false_eq_true, if_false]
      rfl
  · refine congrArg Host.Outcome.next (mailbox_done e rfl rfl rfl rfl rfl ?_)
    exact if_pos isOpen
  · rw [exec_handoffRecord]
    simp only [execHandoffRecord, ready, isOpen, prod, bne_self_eq_false, Bool.not_true, Bool.or_self, Bool.false_eq_true,
      if_false, if_true, Nat.not_le.2 below] <;> rfl
  · rw [exec_handoffRecord]
    simp only [execHandoffRecord, ready, isOpen, away, bad, bne_self_eq_false, Bool.not_true, Bool.or_self, Bool.false_eq_true,
      if_false, if_true, Nat.not_le.2 below]
  · rw [exec_handoffRecord]
    simp only [execHandoffRecord, ready, isOpen, away, good, delivered, bne_self_eq_false, Bool.not_true, Bool.or_self,
      Bool.false_eq_true, if_false, Nat.not_le.2 below]
  all_goals
    have split : ((s.handoff ch).prodEnd && (s.handoff ch).consEnd) = false := Bool.and_eq_false_iff.2 apart
    rw [exec_rfidReturn]
  · simp only [execRfidReturn, ready, isOpen, split, broken, bne_self_eq_false, Bool.not_true, Bool.or_self,
      Bool.false_eq_true, if_false]
  · simp only [execRfidReturn, ready, isOpen, split, whole, bne_self_eq_false, Bool.not_true, Bool.or_self,
      Bool.false_eq_true, if_false]
    simp only [prod, Bool.not_true, Bool.false_eq_true, if_false]
  · simp only [execRfidReturn, ready, isOpen, split, whole, bne_self_eq_false, Bool.not_true, Bool.or_self,
      Bool.false_eq_true, if_false]
    simp only [away, Bool.not_false, if_true]
end

section
/-! O28: the learning binding and the gate. -/
open Sys2Proof
namespace Sys2Proof.Machine

/-- A step that has a herd is bound. -/
theorem bound_of_bindHerd {s : State} {h : Herd} (e : s.bindHerd = some h) : s.learn.bound = true := by
  unfold State.bindHerd at e
  split at e
  · assumption
  · exact absurd e (by simp)

/-- A gate record of the epoch goes down the tree and changes nothing here unless it is of the open step and round. -/
theorem takeGate_current {s : State} {r : GateRec} {h : Herd} (herd : s.bindHerd = some h) (epoch : r.epoch = h.rcd.epoch)
    (opened : s.learn.final = false) :
    s.takeGate r = if r.t = s.learn.t ∧ r.round = s.learn.round then s.judgeStep h r else s := by
  unfold State.takeGate
  simp only [herd, epoch, opened, bne_self_eq_false, Bool.false_eq_true, if_false, Bool.false_or]
  by_cases step : r.t = s.learn.t
  · by_cases round : r.round = s.learn.round
    · simp only [step, round, bne_self_eq_false, Bool.or_self, Bool.false_eq_true, if_false, and_self, if_true]
    · simp only [step, bne_iff_ne.2 round, round, bne_self_eq_false, Bool.false_or, if_true, and_false, if_false]
  · simp only [bne_iff_ne.2 step, step, Bool.true_or, if_true, false_and, if_false]

end Sys2Proof.Machine
open Sys2Proof.Machine

/-- Settles O28: binding and opening case by case, and the gate by `takeGate_current`. -/
theorem learningBinding : Obligations.LearningBinding := by
  unfold Obligations.LearningBinding
  refine ⟨?binding, ?gate⟩
  case binding =>
    intro s t t' c w b g
    dsimp only
    refine ⟨fun e page free role => ?_, fun e bound ctx done read sealed => ?_, fun ready bound resident => ⟨fun broken => ?_, fun read due => ⟨fun idle small device legal => ?_, fun idle bad => ?_, fun waiting other => ?_⟩⟩⟩
    · have free' : s.taken.learn.bound = false := free
      have role' : s.taken.role (argCtx (s.argsOf c) 0) 2 = true := role
      refine congrArg Host.Outcome.next (mailbox_done e rfl rfl rfl rfl ?_ ?_)
      · dsimp only
        rw [not_aligned_of_mod page]
      · simp only [free', role', Bool.not_true, Bool.or_self, Bool.false_eq_true, if_false]
        rfl
    · have bound' : s.taken.learn.bound = true := bound
      have ctx' : s.taken.learn.ctx = argCtx (s.argsOf c) 0 := ctx
      have done' : s.taken.learn.committed = true := done
      refine congrArg Host.Outcome.next (mailbox_done e rfl rfl rfl rfl rfl ?_)
      simp only [bound', ctx', done', read, sealed, bne_self_eq_false, Bool.not_true, Bool.or_self, Bool.false_eq_true, if_false]
      rfl
    all_goals rw [exec_stepOpen]
    · simp only [execStepOpen, ready, bound, resident, broken, bne_self_eq_false, Bool.not_true, Bool.or_self,
        Bool.false_eq_true, if_false]
    · have allowed : (w.toNat == 1 && s.learn.t == 0 && s.learn.sealed ||
          decide (0 < s.learn.t) && w.toNat == s.learn.t + 1 && s.learn.final) = true := by
        split at legal
        · next first => rw [first.1, first.2, legal]; rfl
        · rw [decide_eq_true legal.1, legal.2.1, legal.2.2, beq_self_eq_true, Bool.true_and, Bool.true_and, Bool.or_true]
      simp only [execStepOpen, ready, bound, resident, read, idle, allowed, device, Nat.not_lt.2 due, Nat.not_le.2 small,
        decide_false, Option.isSome_none, Bool.false_and, bne_self_eq_false, Bool.not_true, Bool.or_self, Bool.false_eq_true,
        if_false]
    · have refused : (decide (2 ^ 60 ≤ w.toNat) || s.learn.nextOpen.isSome ||
          !(w.toNat == 1 && s.learn.t == 0 && s.learn.sealed ||
            decide (0 < s.learn.t) && w.toNat == s.learn.t + 1 && s.learn.final) || t.fencesHost b) = true := by
        rw [idle]
        rcases bad with large | host | other | ⟨later, opened⟩ | ⟨first, unsealed⟩
        · rw [decide_eq_true large]; rfl
        · rw [host, Bool.or_true]
        · have no1 : (w.toNat == 1 && s.learn.t == 0) = false := by
            rw [Bool.and_eq_false_iff, beq_eq_false_iff_ne, beq_eq_false_iff_ne]; omega
          rw [no1, beq_eq_false_iff_ne.2 other]; simp
        · rw [beq_eq_false_iff_ne.2 later, opened]; simp
        · rw [first, unsealed]; simp
      simp only [execStepOpen, ready, bound, resident, read, Nat.not_lt.2 due, decide_false, idle, Option.isSome_none,
        Bool.false_and, bne_self_eq_false, Bool.not_true, Bool.or_self, Bool.false_eq_true, if_false]
      rw [idle, Option.isSome_none] at refused
      exact congrArg Host.Outcome.next (if_pos refused)
    · simp only [execStepOpen, ready, bound, resident, read, Nat.not_lt.2 due, decide_false, waiting, beq_eq_false_iff_ne.2 other,
        Bool.and_false, bne_self_eq_false, Bool.not_true, Bool.or_self, Bool.or_true, Bool.true_or, Bool.false_eq_true,
        if_false, if_true]
  case gate =>
    intro s r h ready herd opened
    refine ⟨fun epoch kept same => ?_, fun other => ?_, fun started => ?_⟩
    · rw [exec_gateRecord, ← same]
      simp only [execGateRecord, ready, bne_self_eq_false, Bool.false_eq_true, if_false]
      exact congrArg Host.Outcome.next (takeGate_current kept epoch (same ▸ opened))
    · have stays : s.gateDown r = s := by
        simp only [State.gateDown, herd, bne_iff_ne.2 other, if_true]
      rw [exec_gateRecord]
      simp only [execGateRecord, ready, stays, State.takeGate, herd, bne_iff_ne.2 other, bne_self_eq_false,
        Bool.false_eq_true, if_false, if_true]
    · have waits : s.gateOpen = true := by
        simp only [State.gateOpen, ready, bound_of_bindHerd herd, opened, bne_iff_ne.2 started]; rfl
      refine ⟨?_, fun none same => ?_⟩
      · rw [exec_gateQuery]
        simp only [execGateQuery, waits, herd]
      · rw [exec_gateTimeout]
        simp only [execGateTimeout, waits, herd, none, same, Option.isSome_none, bne_self_eq_false, Bool.or_self,
          Bool.false_eq_true, if_false]
end

section
/-! O29: blocks, parks, slots and the record groups that they read. -/
open Sys2Proof
namespace Sys2Proof.Machine

/-- An update unit whose change leaves it some slot reads as it was changed, whatever the table holds. -/
theorem unit_updUnit_slots {s : State} {m : Nat} {f : Upd → Upd} (some : (f (s.unit m)).slots ≠ []) :
    (s.updUnit m f).unit m = f (s.unit m) :=
  Tab.get_set_listed s.upd m fun empty => some (congrArg Upd.slots (show f (s.unit m) = {} from empty))

/-- A block of another record group's half that the X-die holds goes to the unit of its home. -/
theorem exec_blockArrival_held {s t : State} {block : BitVec 40} {data : List Byte} {held : Option (List Byte)}
    (runs : s.stepRuns = true) (inside : block.toNat / 2 < s.learn.recs) (read : s.heldBlock block.toNat = .ok t held) :
    exec (.blockArrival block data) s = .next (if held = some data then t.blockTo block.toNat data else t) := by
  rw [exec_blockArrival]
  simp only [execBlockArrival, runs, decide_eq_false (Nat.not_le.2 inside), read, State.settle, Bool.not_true, Bool.or_self,
    Bool.false_eq_true, if_false]

end Sys2Proof.Machine
open Sys2Proof.Machine

/-- Settles O29: each event along the branches of its definition. -/
theorem blocksAndSlots : Obligations.BlocksAndSlots := by
  unfold Obligations.BlocksAndSlots
  intro s t t1 t2 block data held m i n gi u pk p k b0 b1 bs old g vh
  dsimp only
  intro runs
  refine ⟨fun inside read => ⟨fun other => ?_, fun own home admits => ⟨fun full => ?_, fun room below => ?_⟩,
    fun own home admits fresh => ⟨fun full => ?_, fun q place written => ?_⟩⟩, fun found first second room group parked state below => ?_,
    fun up slot half0 half1 group idle kept still read => ⟨fun torn => ?_, fun done none => ?_, fun good factored => ?_⟩⟩
  · rw [exec_blockArrival_held runs inside read, if_neg other]
  · rw [exec_blockArrival_held runs inside read, if_pos own]
    simp only [State.blockTo, home, admits, State.slotBlock, full, Bool.not_true, Bool.false_eq_true, if_false]
  · rw [exec_blockArrival_held runs inside read, if_pos own]
    simp only [State.blockTo, home, admits, State.slotBlock, room, Nat.ne_of_lt below, Bool.not_true, Bool.false_eq_true, if_false]
  · rw [exec_blockArrival_held runs inside read, if_pos own]
    simp only [State.blockTo, home, admits, State.parkBlock, fresh, full, Bool.not_true, Bool.false_eq_true, if_false, if_true]
  · rw [exec_blockArrival_held runs inside read, if_pos own]
    simp only [State.blockTo, home, admits, State.parkBlock, fresh, place, written, State.settle, Bool.not_true,
      Bool.false_eq_true, if_false, if_true]
  · rw [exec_ballastPark]
    simp only [execBallastPark, runs, found, first, second, decide_eq_false (show ¬32768 ≤ (s.unit pk.die).slots.length by omega),
      group, parked, state, State.settle, Bool.not_true, Bool.or_self, Bool.false_eq_true, if_false]
    rw [unit_updUnit_slots (List.append_ne_nil_of_right_ne_nil _ (List.cons_ne_nil _ _))]
    refine congrArg Host.Outcome.next (if_neg ?_)
    rw [List.length_append, List.length_singleton]
    exact fun full => absurd below (by omega)
  all_goals
    rw [exec_recordGroupRead]
    simp only [execRecordGroupRead, runs, up, slot, half0, half1, group, idle, kept, still, read, State.settle,
      Option.isSome_none, Bool.not_false, Bool.and_self, Bool.or_self, Bool.false_eq_true, if_false]
  · rw [torn]
  · rw [done]
    simp only [none, Bool.not_false, if_true]
  · rw [good]
    simp only [factored]
end

section
/-! O30: commit of a step, resends and rebuilds. -/
open Sys2Proof.Machine

/-- Settles O30: each event along the branches of its definition. -/
theorem commitAndRebuild : Obligations.CommitAndRebuild := by

  unfold Obligations.CommitAndRebuild
  intro s t t2 t3 m i j gi ps k ks x acc t0 old g
  dsimp only
  intro runs
  refine ⟨fun taken => ⟨fun up drains live group => ⟨fun streams own dry => ?_, fun credit put => ?_⟩,
    fun writing result group plain finite quiet => ?_,
    fun swept entry => ⟨fun fresh rule read accs table trailer => ?_, fun fresh ready => ?_⟩,
    fun groups leaves resent idle => ?_⟩, fun slot still => ?_, fun due => ?_, fun reset ready => ?_⟩
  · rw [exec_slotDrain]
    simp only [execSlotDrain, runs, taken, up, drains, live, group, streams, own, dry, Bool.not_true, Bool.not_false,
      Bool.or_self, Bool.and_self, Bool.false_eq_true, if_false, if_true]
  · have flows : (s.learn.scb.ds && ((k :: ks).any fun x => s.ownsUnit x.rg) && !s.streamCredit) = false := by
      rcases credit with none | some
      · rw [none]; rfl
      · rw [some, Bool.not_true, Bool.and_false]
    rw [exec_slotDrain]
    simp only [execSlotDrain, runs, taken, up, drains, live, group, flows, put, State.settle, Bool.not_true,
      Bool.or_self, Bool.false_eq_true, if_false]
  · rw [exec_recordGroupWritten]
    simp only [execRecordGroupWritten, runs, taken, writing, result, group, finite, quiet, State.addFactors, bne_iff_ne.2 plain,
      State.settle, Bool.and_self, Bool.false_and, Bool.false_eq_true, if_false, if_true]
    rfl
  · rw [exec_factorFinalise]
    simp only [execFactorFinalise, runs, taken, swept, fresh, entry, rule, read, accs, table, trailer, State.settle,
      bne_self_eq_false, Bool.not_false, Bool.and_self, Bool.false_eq_true, if_false] <;> rfl
  · have formed : (g.rule == 7 && !s.learn.factorsDone.contains j.val) = false := by
      rcases ready with plain | done
      · rw [beq_eq_false_iff_ne.2 plain]; rfl
      · rw [done]; exact Bool.and_false _
    rw [exec_groupFence]
    simp only [execGroupFence, runs, taken, swept, fresh, entry, formed, Bool.not_false, Bool.and_self, Bool.false_eq_true,
      if_false] <;> rfl
  · have whole : (s.learn.leaves.length != Sys2Proof.ceilDiv s.learn.recs 64) = false := by rw [leaves]; exact bne_self_eq_false _
    rw [exec_commitFence]
    simp only [execCommitFence, runs, taken, groups, whole, resent, idle, List.isEmpty_nil, bne_self_eq_false, Bool.not_true,
      Bool.or_self, Bool.false_eq_true, if_false]
    rfl
  · rw [exec_slotRebuild]
    simp only [execSlotRebuild, runs, slot, still, Option.filter_some, Bool.not_false, if_true, Option.map_some,
      Bool.false_eq_true, if_false] <;> rfl
  · rw [exec_resendTimeout]
    simp only [execResendTimeout, runs, due, Bool.not_true, Bool.or_self, Bool.false_eq_true, if_false] <;> rfl
  · rw [exec_mdieReady]
    simp only [execMdieReady, reset, ready, Bool.not_true, Bool.false_eq_true, if_false] <;> rfl
end

section
/-! O32: pool requests as home and as node, and their responses. -/
open Sys2Proof
namespace Sys2Proof.Machine

section Serve

variable {s : State} {m : PoolMsg} {opc vc lo hi : Nat} {write : Bool} {f : State → State × Nat × List Byte}

/-- A request at a port that is UP leaves the receive buffer, and its answer leaves the port. -/
theorem servePool_up (ready : s.dev = .ready) (up : (s.port m.port).st = .up)
    (fresh : (s.port m.port).old.contains (2 * vc, PoolMsg.bytes m opc) = false) :
    s.servePool m opc vc f =
      let x := f (s.updPort m.port fun k => k.take (2 * vc) (PoolMsg.bytes m opc))
      x.1.respond m opc vc x.2.1 x.2.2 := by
  unfold State.servePool
  simp only [ready, up, fresh, bne_self_eq_false, Bool.false_eq_true, if_false]

/-- A request that came before its port went down is served, and not answered. -/
theorem servePool_old (ready : s.dev = .ready)
    (old : (s.port m.port).old.contains (2 * vc, PoolMsg.bytes m opc) = true) :
    s.servePool m opc vc f =
      (f (s.updPort m.port fun k => { k with old := k.old.erase (2 * vc, PoolMsg.bytes m opc) })).1 := by
  unfold State.servePool
  simp only [ready, old, bne_self_eq_false, Bool.false_eq_true, if_false, if_true]

/-- A request of lines whose NL is in its range is served by `poolLines`. -/
theorem serveLines_inside (least : lo ≤ m.nl) (most : m.nl ≤ hi) :
    s.serveLines m opc vc lo hi write = s.servePool m opc vc fun s => s.poolLines m write :=
  if_neg (by rw [decide_eq_false (Nat.not_lt.2 least), decide_eq_false (Nat.not_lt.2 most)]; exact Bool.false_ne_true)

/-- One whose NL is not is a protocol error of a port that is UP. -/
theorem serveLines_outside (ready : s.dev = .ready) (up : (s.port m.port).st = .up) (outside : m.nl < lo ∨ hi < m.nl) :
    s.serveLines m opc vc lo hi write = s.protocolError m.port := by
  unfold State.serveLines
  rw [if_pos (by rw [Bool.or_eq_true, decide_eq_true_iff, decide_eq_true_iff]; exact outside), ready, up]; rfl

end Serve

section Lines

variable {s : State} {m : PoolMsg} {write : Bool}

/-- An address inside a line is UNMAPPED. -/
theorem poolLines_unaligned (off : m.addr.toNat % 128 ≠ 0) : s.poolLines m write = (s, 2, []) := by
  have skew : aligned m.addr.toNat 128 = false := beq_eq_false_iff_ne.2 off
  unfold State.poolLines
  simp only [skew, Bool.not_false, if_true]

/-- A whole line is served at its place. -/
theorem poolLines_aligned (whole : m.addr.toNat % 128 = 0) :
    s.poolLines m write = match s.place m.addr.toNat (128 * m.nl) with
      | .none => (s, 2, [])
      | .coord => if write then (s.linesIn true m.nl m.addr.toNat m.data, 0, []) else (s, 0, s.linesOut true m.nl m.addr.toNat)
      | .region r da =>
          if !s.donated m r da write then
            ((s.bump (regPort m.port) 14 1).updTarget (8 + (Tab.get {} s.donations r).m) fun t =>
              { t with denials := t.denials + 1 }, 1, [])
          else if m.bad then (s.lineLost da, 3, [])
          else if write then (s.linesIn false m.nl da m.data, 0, [])
          else (s, 0, s.linesOut false m.nl da) := by
  unfold State.poolLines
  rw [if_neg (by rw [not_aligned_of_mod whole]; exact Bool.false_ne_true)] <;> rfl

end Lines
end Sys2Proof.Machine
open Sys2Proof.Machine

/-- Settles O32: requests by `servePool_up`, `servePool_old` and `serveLines_outside`, lines by their place, and responses
along the branches of their definition. -/
theorem poolTransport : Obligations.PoolTransport := by
  unfold Obligations.PoolTransport
  refine ⟨?requests, ?places, ?responses⟩
  case requests =>
    intro s m
    dsimp only
    intro ready
    refine ⟨fun up => ⟨fun least most => ⟨fun fresh => ?_, fun fresh => ?_⟩, fun least most => ⟨fun fresh => ?_, fun fresh => ?_⟩,
      fun none fresh => ?_, fun bad => ⟨?_, ?_⟩, fun bad => ⟨?_, ?_⟩, fun some => ?_⟩,
      fun least most => ⟨fun old => ?_, fun old => ?_⟩, fun least most => ⟨fun old => ?_, fun old => ?_⟩⟩
    · exact congrArg Host.Outcome.next ((serveLines_inside least most).trans (servePool_up ready up fresh))
    · exact congrArg Host.Outcome.next ((serveLines_inside least most).trans (servePool_up ready up fresh))
    · exact congrArg Host.Outcome.next ((serveLines_inside least most).trans (servePool_up ready up fresh))
    · exact congrArg Host.Outcome.next ((serveLines_inside least most).trans (servePool_up ready up fresh))
    · rw [exec_patom]
      simp only [execPatom, none, bne_self_eq_false, Bool.false_eq_true, if_false]
      exact congrArg Host.Outcome.next (servePool_up ready up fresh)
    · exact congrArg Host.Outcome.next (serveLines_outside ready up (by omega))
    · exact congrArg Host.Outcome.next (serveLines_outside ready up (by omega))
    · exact congrArg Host.Outcome.next (serveLines_outside ready up bad)
    · exact congrArg Host.Outcome.next (serveLines_outside ready up bad)
    · rw [exec_patom]
      simp only [execPatom, bne_iff_ne.2 some, ready, up, beq_self_eq_true, Bool.and_self, if_true]
    all_goals exact congrArg Host.Outcome.next ((serveLines_inside least most).trans (servePool_old ready old))
  case places =>
    intro s m write r da
    dsimp only
    refine ⟨fun outside => ?_, fun whole coord => ?_, fun whole region => ⟨fun denied => ?_, fun admitted bad => ?_, fun admitted good => ?_⟩,
      fun whole coord known => ?_, fun whole region => ?_, fun outside => ?_⟩
    · by_cases whole : m.addr.toNat % 128 = 0
      · rw [poolLines_aligned whole, outside.resolve_left fun skew => skew whole]
      · exact poolLines_unaligned whole
    · rw [poolLines_aligned whole, coord]
    · rw [poolLines_aligned whole, region]
      simp only [denied, Bool.not_false, if_true]
    · rw [poolLines_aligned whole, region]
      simp only [admitted, bad, Bool.not_true, Bool.false_eq_true, if_false, if_true]
    · rw [poolLines_aligned whole, region]
      simp only [admitted, good, Bool.not_true, Bool.false_eq_true, if_false]
    all_goals unfold State.atom
    · simp only [not_aligned_of_mod whole, coord, Nat.not_lt.2 known, Bool.false_eq_true, if_false]
    · simp only [not_aligned_of_mod whole, region, Bool.false_eq_true, if_false]
    · by_cases whole : m.addr.toNat % 8 = 0
      · simp only [not_aligned_of_mod whole, outside.resolve_left fun skew => skew whole, Bool.false_eq_true, if_false]
      · have skew : aligned m.addr.toNat 8 = false := beq_eq_false_iff_ne.2 whole
        simp only [skew, Bool.not_false, if_true]
  case responses =>
    intro s t tag data hl r d
    dsimp only
    refine ⟨fun found => ⟨fun alive => ⟨fun read checked => ?_, fun no1 no2 => ⟨fun home => ?_, fun store plain => ?_, fun store atom => ?_⟩, ?_⟩,
      fun dead => ?_⟩, fun found => ?_⟩
    · rw [exec_poolResponse]
      simp [execPoolResponse, found, alive, read, checked]
    · rw [exec_poolResponse]
      simp [execPoolResponse, found, alive, no1, no2, home]
    · rw [exec_poolResponse]
      simp [execPoolResponse, found, alive, no1, no2, store, plain]
    · rw [exec_poolResponse]
      simp [execPoolResponse, found, alive, store, atom]
    · rw [exec_poolResponse]
      simp [execPoolResponse, found, alive]
    · rw [exec_poolResponse]
      simp only [execPoolResponse, found, dead, if_true]
    · rw [exec_poolResponseTimeout]
      simp only [execPoolResponseTimeout, found]
end

section
/-! O43: configuration requests, BAR accesses and completions. -/
open Sys2Proof
namespace Sys2Proof.Machine

/-- An access to a BAR of a function that is up is answered. -/
theorem onBar_up {s : State} {f : State → State} (up : s.barsUp = true) : s.onBar f = f (s.answered 0 0 []) := if_pos up

/-- An aligned access of 8 B touches one unit. -/
theorem unitsOf_aligned {n : Nat} (unit : n % 8 = 0) : unitsOf n 8 = [n / 8] := by
  unfold unitsOf
  rw [show max 1 8 = 8 from rfl, show (n + 8 + 7) / 8 - n / 8 = 1 by omega]; rfl

/-- A misaligned one touches two. -/
theorem unitsOf_misaligned {n : Nat} (off : n % 8 ≠ 0) : unitsOf n 8 = [n / 8, n / 8 + 1] := by
  unfold unitsOf
  rw [show max 1 8 = 8 from rfl, show (n + 8 + 7) / 8 - n / 8 = 2 by omega]; rfl

/-- It covers that unit. -/
theorem wholeUnit_aligned {n : Nat} (unit : n % 8 = 0) : wholeUnit n 8 (n / 8) = true := by
  unfold wholeUnit
  rw [Bool.and_eq_true, decide_eq_true_iff, decide_eq_true_iff]; omega

/-- A misaligned one covers neither. -/
theorem wholeUnit_misaligned {n : Nat} (off : n % 8 ≠ 0) : wholeUnit n 8 (n / 8) = false ∧ wholeUnit n 8 (n / 8 + 1) = false := by
  unfold wholeUnit
  rw [Bool.and_eq_false_iff, Bool.and_eq_false_iff, decide_eq_false_iff_not, decide_eq_false_iff_not, decide_eq_false_iff_not,
    decide_eq_false_iff_not]
  omega

/-- A word written to its own unit of 8 B writes the register there. -/
theorem writeUnits_word {s : State} {n : Nat} {v : W64} (unit : n % 8 = 0) :
    s.writeUnits n (leBytes 8 v.toNat) [n / 8] = s.unitWrite n v := by
  have place : 8 * (n / 8) = n := by omega
  have size : (leBytes 8 v.toNat).length = 8 := leBytes_length 8 v.toNat
  have word : w64 (leAt (leBytes 8 v.toNat) (n - n) 8) = v := by
    unfold leAt
    rw [Nat.sub_self, List.drop_zero, List.take_of_length_le size.le, leNat_leBytes]
    rw [show (256 : Nat) ^ 8 = 2 ^ 64 from rfl, Nat.mod_eq_of_lt v.isLt]
    exact BitVec.eq_of_toNat_eq (Nat.mod_eq_of_lt v.isLt)
  simp only [State.writeUnits, size, wholeUnit_aligned unit, place, word, if_true]

/-- A completion with data of a request fills its range, and ends the request where it is the last. -/
theorem hostData_good {s : State} {r : HostReq} {data : List Byte} (some : data ≠ []) (inside : r.recv + data.length ≤ r.len)
    (boundary : r.recv + data.length < r.len → (r.host + (r.recv + data.length)) % 64 = 0) :
    s.hostData r data =
      let x : State := if r.dead then s else { s with hostMem := putBytes s.hostMem (r.host + r.recv) data }
      if r.recv + data.length = r.len then (if r.dead then x.dropReq r.tag else x.hostDone r)
      else { x with pcie := { x.pcie with reqs := x.pcie.reqs.map fun y =>
        if y = r then { r with recv := r.recv + data.length } else y } } := by
  have legal : (data.isEmpty || decide (r.len < r.recv + data.length) ||
      (decide (r.recv + data.length < r.len) && (r.host + (r.recv + data.length)) % 64 != 0)) = false := by
    rw [List.isEmpty_eq_false_iff.2 some, decide_eq_false (Nat.not_lt.2 inside)]
    by_cases part : r.recv + data.length < r.len
    · rw [boundary part, bne_self_eq_false, Bool.and_false]; rfl
    · rw [decide_eq_false part]; rfl
  unfold State.hostData
  simp only [legal, Bool.false_eq_true, if_false]

/-- One without data, past the end of its request or that ends off a boundary is malformed. -/
theorem hostData_bad {s : State} {r : HostReq} {data : List Byte}
    (bad : data = [] ∨ r.len < r.recv + data.length ∨
      (r.recv + data.length < r.len ∧ (r.host + (r.recv + data.length)) % 64 ≠ 0)) :
    s.hostData r data = s.hostError r 4 0x40000 :=
  if_pos (by
    rcases bad with none | beyond | ⟨part, off⟩
    · rw [none]; rfl
    · rw [decide_eq_true beyond, Bool.or_true, Bool.true_or]
    · rw [decide_eq_true part, bne_iff_ne.2 off, Bool.and_self, Bool.or_true])

/-- A completion of an outstanding request on a stream that is whole. -/
theorem exec_completion_found {s : State} {tag : BitVec 14} {st : CplStatus} {data : List Byte} {r : HostReq}
    (powered : s.powered = true) (found : s.pcie.reqs.find? (fun r => r.tag == tag.toNat) = some r) (whole : s.ideDrops r = false) :
    exec (.completion tag st data) s =
      .next (if st = .ok then s.hostData r data else s.hostError r (cplKind st).1 (cplKind st).2) := by
  rw [exec_completion]
  simp only [execCompletion, powered, found, whole, Bool.not_true, Bool.false_eq_true, if_false]
  cases st <;> rfl

/-- A write of the aperture has no completion. -/
theorem apertureGive_write {s : State} {r : MemReq} {held : Nat} (write : r.write = true) : s.apertureGive r held = s :=
  if_pos (by rw [write]; rfl)

/-- A read of it that waits has none yet. -/
theorem apertureGive_held {s : State} {r : MemReq} {held : Nat} (waits : held < s.retry.length) : s.apertureGive r held = s :=
  if_pos (by rw [decide_eq_true waits, Bool.or_true])

/-- A read that has been served, or refused, gives its bytes, or all ones. -/
theorem apertureGive_read {s : State} {r : MemReq} {held : Nat} (read : r.write = false) (served : s.retry.length ≤ held) :
    s.apertureGive r held =
      s.answered 0 (w64 (leNat ((if s.resp.length = r.len then s.resp else List.replicate r.len 0xFF).take 8)))
        (if s.resp.length = r.len then s.resp else List.replicate r.len 0xFF) :=
  if_neg (by rw [read, decide_eq_false (Nat.not_lt.2 served)]; exact Bool.false_ne_true)

/-- FVAL of a doorbell page gives the fence that its context may wait on. -/
theorem pageRead_fval {s : State} {slot c : Nat} (holds : s.slotCtx slot = some c) (wait : s.mayWait c (s.ctx c).fid = true) :
    s.pageRead slot 0x110 8 = s.answered 0 (s.fence (s.ctx c).fid).val (leBytes 8 (s.fence (s.ctx c).fid).val.toNat) := by
  have value : s.pageReg slot 0x110 = some (s.fence (s.ctx c).fid).val := by
    show some (if s.mayWait ((s.slotCtx slot).getD 4096) (s.ctx ((s.slotCtx slot).getD 4096)).fid then
      (s.fence (s.ctx ((s.slotCtx slot).getD 4096)).fid).val else 0) = _
    rw [holds, Option.getD_some, if_pos wait]
  unfold State.pageRead
  rw [value]; rfl

end Sys2Proof.Machine
open Sys2Proof.Machine

/-- Settles O43: BAR accesses by `onBar_up` and the units that they touch, completions by `exec_completion_found`. -/
theorem pcieRequests : Obligations.PcieRequests := by
  unfold Obligations.PcieRequests
  intro s write off be val o o2 oa len data v size p tag st r t c base
  dsimp only
  refine ⟨fun powered retry => ?_, fun powered ended => ⟨?_, ?_⟩, fun up => ?bars, fun powered => ⟨fun none => ?_, fun found =>
    ⟨fun drops => ?_, fun whole => ⟨fun ok some last => ?_, fun ok some part boundary => ?_, fun ok bad => ?_, fun failed => ?_⟩⟩⟩,
    fun found => ?_⟩
  case bars =>
    refine ⟨?_, fun long => ?_, fun short => ?_, fun counted ctl => ?_, ?_, ?_, ?_, ?_, ?_, ?_, ?_, fun skew loud0 loud1 => ?_,
      fun unit loud none => ?_, fun unit => ?_, fun table page full => ?_, fun table => ?_, fun high table => ⟨?_, ?_⟩,
      fun low table => ⟨?_, fun fval slot wait => ?_⟩, fun full none => ?_, fun full entry => ⟨fun served => ?_, fun waits => ?_,
        fun done bytes => ?_, fun done bytes => ?_⟩⟩
    · exact congrArg Host.Outcome.next (onBar_up up)
    · exact congrArg Host.Outcome.next ((onBar_up up).trans (if_pos long))
    · exact congrArg Host.Outcome.next ((onBar_up up).trans (if_neg (Nat.not_lt.2 short)))
    · rw [exec_counterClr]
      simp only [execCounterClr, counted, ctl, beq_self_eq_true, Bool.and_self, if_true, onBar_up up]
    · exact congrArg Host.Outcome.next (onBar_up up)
    · exact congrArg Host.Outcome.next (onBar_up up)
    · exact congrArg Host.Outcome.next (onBar_up up)
    · exact congrArg Host.Outcome.next (onBar_up up)
    · exact congrArg Host.Outcome.next (onBar_up up)
    · exact congrArg Host.Outcome.next (onBar_up up)
    · exact congrArg Host.Outcome.next (onBar_up up)
    · have first : (s.answered 0 0 []).silent (8 * (o.toNat / 8)) true = false := loud0
      have second : (s.answered 0 0 []).badAcc.silent (8 * (o.toNat / 8 + 1)) true = false := loud1
      refine congrArg Host.Outcome.next ((onBar_up up).trans ?_)
      simp only [if_true, unitsOf_misaligned skew, List.foldl_cons, List.foldl_nil, State.badUnit, wholeUnit_misaligned skew,
        Bool.false_and, Bool.false_eq_true, if_false, State.badUnitAt, first, second]
    · have place : 8 * (o.toNat / 8) = o.toNat := by omega
      have silent : (s.answered 0 0 []).silent o.toNat true = false := loud
      have absent : (s.answered 0 0 []).reg? o.toNat = Option.none := none
      refine congrArg Host.Outcome.next ((onBar_up up).trans ?_)
      simp only [if_true, unitsOf_aligned unit, List.foldl_cons, List.foldl_nil, State.badUnit, place, absent, Option.isSome_none,
        Bool.and_false, Bool.false_eq_true, if_false, State.badUnitAt, silent]
    · refine congrArg Host.Outcome.next ((onBar_up up).trans ?_)
      exact (congrArg (State.writeUnits _ o.toNat _) (unitsOf_aligned unit)).trans (writeUnits_word unit)
    · have full' : (s.answered 0 0 []).reduced = false := full
      refine congrArg Host.Outcome.next ((onBar_up up).trans ?_)
      simp only [table, page, full', Bool.not_true, Bool.false_eq_true, if_false, if_true]
    · exact congrArg Host.Outcome.next ((onBar_up up).trans (if_pos table))
    · refine congrArg Host.Outcome.next ((onBar_up up).trans ?_)
      simp only [table, high, State.bar2Reserved, Bool.false_eq_true, if_false, if_true]
    · refine congrArg Host.Outcome.next ((onBar_up up).trans ?_)
      simp only [table, high, State.bar2Reserved, Bool.false_eq_true, if_false, if_true]
    · refine congrArg Host.Outcome.next ((onBar_up up).trans ?_)
      simp only [table, Nat.not_le.2 low, Bool.false_eq_true, if_false]
    · refine congrArg Host.Outcome.next ((onBar_up up).trans ?_)
      simp only [table, Nat.not_le.2 low, Bool.false_eq_true, if_false, fval]
      exact pageRead_fval (s := s.answered 0 0 []) slot wait
    all_goals
      rw [exec_apertureAccess]
      refine congrArg Host.Outcome.next ((onBar_up up).trans ?_)
      refine (if_neg (Bool.eq_false_iff.1 full)).trans ?_
    · have absent : Tab.get Option.none (s.answered 0 0 []).aperture (oa.toNat / 2 ^ 30) = Option.none := none
      simp only [absent]
      exact apertureGive_write rfl
    all_goals
      have window : Tab.get Option.none (s.answered 0 0 []).aperture (oa.toNat / 2 ^ 30) = some (c, base) := entry
      simp only [window]
    · rw [served]
      exact apertureGive_write rfl
    · exact apertureGive_held waits
    · exact (apertureGive_read rfl done).trans (by rw [if_pos bytes])
    · exact (apertureGive_read rfl done).trans (by rw [if_neg bytes])
  · rw [exec_configurationRequest]
    simp only [execConfigurationRequest, powered, retry, Bool.not_true, Bool.false_eq_true, if_false, if_true]
  · rw [exec_configurationRequest]
    simp only [execConfigurationRequest, powered, ended, Bool.not_true, Bool.false_eq_true, if_false, if_true]
  · rw [exec_configurationRequest]
    simp only [execConfigurationRequest, powered, ended, Bool.not_true, Bool.false_eq_true, if_false]
  · rw [exec_completion]
    simp only [execCompletion, powered, none, Bool.not_true, Bool.false_eq_true, if_false]
  · rw [exec_completion]
    simp only [execCompletion, powered, found, drops, Bool.not_true, Bool.false_eq_true, if_false, if_true]
  · rw [exec_completion_found powered found whole, if_pos ok, hostData_good some last.le fun below => absurd last below.ne]
    dsimp only
    rw [if_pos last]
    split <;> rfl
  · rw [exec_completion_found powered found whole, if_pos ok, hostData_good some part.le fun _ => boundary]
    exact congrArg Host.Outcome.next (if_neg part.ne)
  · rw [exec_completion_found powered found whole, if_pos ok, hostData_bad bad]
  · rw [exec_completion_found powered found whole, if_neg failed]
  · rw [exec_completionTimeout]
    simp only [execCompletionTimeout, found]
end

section
/-! O44: PCIe resets and the link, DOE, SPDM, IDE, MCTP and PLDM. -/
open Sys2Proof
namespace Sys2Proof.Machine

section Binding

variable {s : State} {pcie : Bool} {f : State → State}

/-- A request on a binding whose target has its address is served. -/
theorem onBinding_up (up : s.bindingUp pcie = true) (addressed : pcie = true ∨ s.pcie.i3cAddr.isSome = true) :
    s.onBinding pcie f = f s := by
  unfold State.onBinding
  rw [if_neg (by rw [up]; exact Bool.false_ne_true), if_pos (by rw [Bool.or_eq_true]; exact addressed)]

/-- The first request on I3C finds the target with a new address. -/
theorem onBinding_first {t : State} {a : BitVec 7} (up : s.bindingUp false = true) (none : s.pcie.i3cAddr = none)
    (address : s.free 7 = (a, t)) : s.onBinding false f = f { t with pcie := { t.pcie with i3cAddr := some a } } := by
  unfold State.onBinding
  rw [if_neg (by rw [up]; exact Bool.false_ne_true), if_neg (by rw [none]; exact Bool.false_ne_true), address]

/-- The widths that a link can come up with. -/
theorem width_legal {w : Fin 17} (legal : w = 1 ∨ w = 4 ∨ w = 8 ∨ w = 16) :
    (w.val == 1 || w.val == 4 || w.val == 8 || w.val == 16) = true := by
  rcases legal with rfl | rfl | rfl | rfl <;> rfl

end Binding

section Pldm

variable {s : State} {pcie : Bool} {n : Fin 256}

/-- A PLDM request of a device that has started. -/
theorem exec_pldmSensor_started {typ : BitVec 8} (up : s.bindingUp pcie = true)
    (addressed : pcie = true ∨ s.pcie.i3cAddr.isSome = true) (powered : s.dev ≠ .auxOnly) (started : s.dev ≠ .starting)
    (known : typ = 0 ∨ typ = 2 ∨ typ = 5) :
    exec (.pldmSensor pcie typ n) s = .next (if typ == 0 then s.pldmBase n else if typ == 5 then s.pldmUpdate pcie n
      else match s.sensor n with
        | none => s.answerWith [0x80]
        | some (v, s) => State.answerWith { s with pcie := { s.pcie with rdata := v } } (0 :: leBytes 8 v.toNat)) := by
  have listed : (typ == 0 || typ == 2 || typ == 5) = true := by rcases known with rfl | rfl | rfl <;> rfl
  rw [exec_pldmSensor]
  unfold execPldmSensor
  rw [onBinding_up up addressed]
  simp only [listed, beq_eq_false_iff_ne.2 powered, beq_eq_false_iff_ne.2 started, Bool.not_true, Bool.or_self, Bool.false_and,
    Bool.false_eq_true, if_false] <;> rfl

/-- A device that is Ready has started, and takes updates. -/
theorem started_of_ready (ready : s.dev = .ready) : s.dev ≠ .auxOnly ∧ s.dev ≠ .starting ∧ s.updates = true := by
  unfold State.updates
  rw [ready]
  exact ⟨nofun, nofun, rfl⟩

/-- RequestUpdate as a request of PLDM Type 5. -/
theorem pldmUpdate_request (updates : s.updates = true) : s.pldmUpdate pcie 0x10 = s.requestUpdate pcie :=
  if_neg (by rw [updates]; exact Bool.false_ne_true)

/-- CancelUpdate by the binding that holds the agent. -/
theorem pldmUpdate_cancel (updates : s.updates = true) (mine : s.pcie.agent = some (b2n pcie)) :
    s.pldmUpdate pcie 0x1D = State.answerWith { s with pcie := { s.pcie with agent := none } } (List.replicate 10 0) :=
  (if_neg (by rw [updates]; exact Bool.false_ne_true)).trans (if_neg (by rw [mine, bne_self_eq_false]; exact Bool.false_ne_true))

end Pldm
end Sys2Proof.Machine
open Sys2Proof.Machine

/-- Settles O44: each event along the branches of its definition; MCTP and PLDM by `onBinding_up`. -/
theorem pcieEventsAndManagement : Obligations.PcieEventsAndManagement := by
  unfold Obligations.PcieEventsAndManagement
  refine ⟨?link, ?agents⟩
  case link =>
    intro s speed width flit powered
    dsimp only
    refine ⟨?_, fun idle => ?_, fun starting => ?_, ?_, ?_, fun some legal => ⟨fun same => ?_, fun new => ?_⟩⟩
    · rw [exec_perst]
      simp only [execPerst, powered, Bool.not_true, Bool.not_false, Bool.false_eq_true, if_false, if_true]
    · rw [exec_perst]
      simp only [execPerst, powered, beq_eq_false_iff_ne.2 idle, Bool.not_true, Bool.false_eq_true, if_false]
    · rw [exec_perst]
      simp only [execPerst, powered, starting, beq_self_eq_true, Bool.not_true, Bool.false_eq_true, if_false, if_true]
    · exact congrArg Host.Outcome.next (if_pos powered)
    · exact congrArg Host.Outcome.next (if_pos powered)
    all_goals
      rw [exec_pcieLinkUp]
    · simp only [execPcieLinkUp, powered, decide_eq_false some, width_legal legal, same, Bool.not_true, Bool.or_self,
        Bool.false_eq_true, if_false, if_true]
    · simp only [execPcieLinkUp, powered, decide_eq_false some, width_legal legal, new, Bool.not_true, Bool.or_self,
        Bool.false_eq_true, if_false, Bool.and_eq_true, beq_iff_eq]
  case agents =>
    intro s t object peer doe pcie set d i eid mtu n v a proto x l ad
    dsimp only
    refine ⟨fun up size => ⟨fun none => ⟨?_, ?_, ?_⟩, fun waiting => ⟨fun other => ?_, fun own served => ?_⟩⟩,
      fun up => ⟨fun full => ?_, fun room point drawn => ?_, fun secured => ⟨fun loaded => ?_, fun empty => ?_⟩⟩, fun secure => ?_,
      fun up fresh address => ?_, fun up addressed => ⟨fun zero broadcast => ?_, fun some => ?_, fun aux starting value => ?_, ?_,
        fun ready => ⟨?_, ?_, fun mine => ?_, fun idle => ?_, fun taken => ?_⟩⟩, ?_⟩
    · rw [exec_doeObject]
      simp only [execDoeObject, up, none, decide_eq_false (Nat.not_lt.2 size), Bool.not_true, Bool.or_self, Bool.false_eq_true,
        if_false]
      rfl
    · rw [exec_doeObject]
      simp only [execDoeObject, up, none, decide_eq_false (Nat.not_lt.2 size), Bool.not_true, Bool.or_self, Bool.false_eq_true,
        if_false]
      rfl
    · rw [exec_doeObject]
      simp only [execDoeObject, up, none, decide_eq_false (Nat.not_lt.2 size), Bool.not_true, Bool.or_self, Bool.false_eq_true,
        if_false]
      rfl
    · rw [exec_doeObject]
      simp only [execDoeObject, up, waiting, bne_iff_ne.2 other, decide_eq_false (Nat.not_lt.2 size), Bool.not_true, Bool.or_self,
        Bool.false_eq_true, if_false, if_true]
    · rw [exec_doeObject]
      simp only [execDoeObject, up, waiting, own, served, bne_self_eq_false, decide_eq_false (Nat.not_lt.2 size), Bool.not_true,
        Bool.or_self, Bool.false_eq_true, if_false]
    · rw [exec_keyExchange]
      simp only [execKeyExchange, up, full, Bool.not_true, Bool.false_eq_true, if_false, if_true]
    · rw [exec_keyExchange]
      simp only [execKeyExchange, up, Nat.not_le.2 room, point, drawn, Bool.not_true, Bool.false_eq_true, if_false]
    · rw [exec_kSetGo]
      simp only [execKSetGo, State.setGo, up, List.isEmpty_eq_false_iff.2 secured, loaded, Bool.not_true, Bool.or_self,
        Bool.false_eq_true, if_false]
    · rw [exec_kSetGo]
      simp only [execKSetGo, State.setGo, up, List.isEmpty_eq_false_iff.2 secured, empty, Bool.not_true, Bool.not_false, Bool.or_self,
        Bool.false_eq_true, if_false, if_true]
    · rw [exec_ideFailure]
      simp only [execIdeFailure, secure, Bool.not_true, Bool.false_eq_true, if_false]
    · exact congrArg Host.Outcome.next (onBinding_first up fresh address)
    · refine congrArg Host.Outcome.next ((onBinding_up up addressed).trans ?_)
      exact if_neg (by rw [decide_eq_false zero, decide_eq_false broadcast]; exact Bool.false_ne_true)
    · refine congrArg Host.Outcome.next ((onBinding_up up addressed).trans ?_)
      simp only [if_neg some]
      rfl
    · rw [exec_pldmSensor_started up addressed aux starting (Or.inr (Or.inl rfl)), value]; rfl
    · exact congrArg Host.Outcome.next (onBinding_up up addressed)
    · obtain ⟨aux, starting, -⟩ := started_of_ready ready
      rw [exec_pldmSensor_started up addressed aux starting (Or.inl rfl)]; rfl
    · obtain ⟨aux, starting, updates⟩ := started_of_ready ready
      rw [exec_pldmSensor_started up addressed aux starting (Or.inr (Or.inr rfl))]
      exact congrArg Host.Outcome.next (pldmUpdate_request updates)
    · obtain ⟨aux, starting, updates⟩ := started_of_ready ready
      rw [exec_pldmSensor_started up addressed aux starting (Or.inr (Or.inr rfl))]
      exact congrArg Host.Outcome.next (pldmUpdate_cancel updates mine)
    · obtain ⟨-, -, updates⟩ := started_of_ready ready
      refine congrArg Host.Outcome.next ((onBinding_up up addressed).trans ?_)
      simp only [updates, State.requestUpdate, idle, Bool.not_true, Bool.false_eq_true, if_false]
    · obtain ⟨-, -, updates⟩ := started_of_ready ready
      refine congrArg Host.Outcome.next ((onBinding_up up addressed).trans ?_)
      simp only [updates, State.requestUpdate, taken, Bool.not_true, Bool.false_eq_true, if_false]
    · rfl
end

section
/-! O36: charters, attestation, key release, and objects in and out. -/
open Sys2Proof
namespace Sys2Proof.Machine

/-- A device that serves owners in a secured session is Ready. -/
theorem ready_of_owners {s : State} (up : s.owners true true = true) : s.dev = .ready := by
  unfold State.owners at up
  rw [Bool.and_eq_true] at up
  exact eq_of_beq up.1

section Owners

variable {s : State} {chd nonce : BitVec 256} {keyid : Fin 256} {kill : Bool} {wrapped sig : List Byte}

/-- KR_WRAP of a nonce that is not valid is EXPIRED. -/
theorem exec_krWrap_expired {t : State} (up : s.owners true true = true) (used : s.useNonce chd nonce = (none, t)) :
    exec (.krWrap true chd keyid nonce wrapped sig) s = .next (t.answerOwner (relAnswer relExpired [])) := by
  rw [exec_krWrap]
  simp only [execKrWrap, up, used, Bool.not_true, Bool.false_eq_true, if_false]

/-- KR_WRAP of a nonce that is valid, signed by the owner of the key, answers with the outcome of its release. -/
theorem exec_krWrap_signed {t t2 : State} {n : Nonce} {x : Charter} {e st : Nat} {b : List Byte} (up : s.owners true true = true)
    (used : s.useNonce chd nonce = (some n, t)) (charter : t.charter? chd = some x) (eph : n.eph = some (e, keyid.val))
    (listed : keyid.val < 8)
    (signed : ownerSigned x.image (chOwn x.image keyid) (ownerReq 3 (digBytes chd ++ leBytes 1 keyid ++ digBytes nonce ++ wrapped)) sig =
      true) (outcome : t.release chd x.image keyid n e wrapped = ((st, b), t2)) :
    exec (.krWrap true chd keyid nonce wrapped sig) s = .next ((t2.endRelease n e).answerOwner (relAnswer st b)) := by
  rw [exec_krWrap]
  simp only [execKrWrap, up, used, eph, charter, signed, outcome, decide_eq_true listed, bne_self_eq_false, Bool.and_self,
    Bool.not_true, Bool.false_eq_true, if_false]

end Owners

section Objects

variable {s : State} {k size : Nat} {y : Xfer}

/-- The event that an import is over, of one that is listed. -/
theorem exec_objImportComplete_listed (ready : s.dev = .ready) (listed : s.xfers[k]? = some y) (import_ : y.exp = false) :
    exec (.objImportComplete k size) s =
      .next (let v : State := { s with xfers := s.xfers.eraseIdx k }
        match v.ownerKey y.ctx y.keyid with
        | none => v.loseKey y.ctx
        | some key => match v.importObject y key size with
          | .ok t good => t.signal y.fid y.val (if good then 0 else 2)
          | .lost t cause => t.lose y.ctx cause
          | .wait t => t.again k y) := by
  rw [exec_objImportComplete]
  simp only [execObjImportComplete, ready, listed, import_, beq_self_eq_true, Bool.false_eq_true, if_false] <;> rfl

end Objects
end Sys2Proof.Machine
open Sys2Proof.Machine

/-- Settles O36: charters and attestation along their definitions, key release and objects by the lemmas above. -/
theorem chartersAndKeyRelease : Obligations.ChartersAndKeyRelease := by
  unfold Obligations.ChartersAndKeyRelease
  refine ⟨?charters, ?keys⟩
  case charters =>
    intro s t c image req sig index chd nonce v first owner n x
    dsimp only
    refine ⟨fun e => ⟨fun admitted => ?_, fun fresh => ⟨fun passes room => ?_, fun fails => ?_⟩⟩, fun e admitted => ?_,
      fun ready => ⟨?_, ?_, fun up => ⟨fun drawn => ?_, fun used => ?_, fun used charter asked => ?_⟩⟩⟩
    · exact congrArg Host.Outcome.next (mailbox_done e rfl rfl rfl rfl rfl (if_pos admitted))
    · refine congrArg Host.Outcome.next (mailbox_done e rfl rfl rfl rfl rfl ?_)
      simp only [fresh, passes, Nat.not_le.2 room, Option.isSome_none, Bool.false_eq_true, if_false]
      rfl
    · refine congrArg Host.Outcome.next (mailbox_refused e rfl rfl rfl rfl rfl ?_)
      simp only [fresh, Option.isSome_none, Bool.false_eq_true, if_false]
    · have held : (s.taken.charter? (argDig (s.argsOf c) 0)).isNone = false := Option.isNone_eq_false_iff.2 admitted
      split
      · next used =>
        refine congrArg Host.Outcome.next (mailbox_done e rfl rfl rfl rfl rfl ?_)
        simp only [held, used, Bool.false_eq_true, if_false, if_true]
      · next idle =>
        refine congrArg Host.Outcome.next (mailbox_done e rfl rfl rfl rfl rfl ?_)
        simp only [held, idle, Bool.false_eq_true, if_false]
        rfl
    · rw [exec_getMeasurements]
      simp only [execGetMeasurements, ready, bne_self_eq_false, Bool.false_eq_true, if_false]
    · have serves : s.owners false false = true := by unfold State.owners; rw [ready]; rfl
      rw [exec_quote]
      simp only [execQuote, serves, Bool.not_true, Bool.false_eq_true, if_false]
      rfl
    · rw [exec_nonce]
      simp only [execNonce, up, drawn, Bool.not_true, Bool.false_eq_true, if_false]
    · rw [exec_report]
      simp only [execReport, up, used, Bool.not_true, Bool.false_eq_true, if_false]
    · rw [exec_report]
      simp only [execReport, up, used, charter, Bool.not_true, Bool.false_eq_true, if_false]
      rw [← asked]
      by_cases signed : chOfl x.image owner 0 = true ∧ ownerSigned x.image owner req sig = true
      · rw [if_pos signed, signed.1, signed.2]; rfl
      · rw [if_neg signed, if_pos (by
          rw [Bool.not_eq_true', ← Bool.not_eq_true, Bool.and_eq_true]; exact signed)]
  case keys =>
    intro s t t2 t3 t4 c chd nonce v keyid i j k e st r n x wrapped sig b kill ok good y key size cause
    dsimp only
    refine ⟨fun up => ⟨fun job slot drawn fresh => ?_, fun used => ⟨?_, ?_⟩, fun used charter => ⟨fun eph listed signed outcome => ?_,
      fun listed signed allowed => ?_⟩⟩, fun adm use outer signal key => ?_,
      fun adm charter entry mode source count outer signal read some_ inside => ?_,
      fun ready listed => ⟨fun import_ none => ?_, fun import_ own => ⟨fun lost => ?_, fun waits => ?_, fun head o read =>
        ⟨fun bad => ?_, fun good_ rest header chunks => ?_⟩⟩, fun export_ => ?_, fun export_ good_ q bl own read written => ?_⟩⟩
    · rw [exec_krBegin]
      simp only [execKrBegin, up, job, slot, drawn, fresh, Bool.not_true, Bool.false_eq_true, if_false]
    · exact exec_krWrap_expired up used
    · rw [exec_revoke]
      simp only [execRevoke, up, used, Bool.not_true, Bool.false_eq_true, if_false] <;> rfl
    · exact exec_krWrap_signed up used charter eph listed signed outcome
    · have power : (!kill || chOfl x.image (chOwn x.image keyid) 1) = true := by
        rcases allowed with off | may
        · rw [off]; rfl
        · rw [may, Bool.or_true]
      rw [exec_revoke]
      simp only [execRevoke, up, used, charter, signed, power, decide_eq_true listed, Bool.and_self, Bool.not_true,
        Bool.false_eq_true, if_false] <;> rfl
    · refine congrArg Host.Outcome.next (mailbox_done adm rfl rfl rfl rfl rfl ?_)
      simp only [use, outer, signal, Option.isNone_eq_false_iff.2 key, Bool.not_true, Bool.or_self, Bool.false_eq_true, if_false]
      rfl
    · refine congrArg Host.Outcome.next (mailbox_done adm rfl rfl rfl rfl rfl ?_)
      simp only [charter, entry, mode, source, outer, signal, read, decide_eq_false (Nat.not_le.2 count),
        decide_eq_false (Nat.not_lt.2 inside), decide_eq_false some_]
      rfl
    · rw [exec_objImportComplete_listed ready listed import_]
      simp only [none]
      rfl
    · rw [exec_objImportComplete_listed ready listed import_]
      simp only [own, State.importObject, lost, Res.bind]
    · rw [exec_objImportComplete_listed ready listed import_]
      simp only [own, State.importObject, waits, Res.bind]
      rfl
    · rw [exec_objImportComplete_listed ready listed import_]
      simp only [own, State.importObject, read, bad, Res.bind, if_true, Bool.false_eq_true, if_false]
    · rw [exec_objImportComplete_listed ready listed import_]
      simp only [own, State.importObject, read, good_, rest, header, chunks, Res.bind, Bool.false_eq_true, if_false]
    · have up : (s.dev == .ready) = true := by rw [ready]; rfl
      rw [exec_objExportComplete]
      simp only [execObjExportComplete, up, listed, export_, Bool.not_true, Bool.not_false, Bool.false_eq_true, if_false, if_true]
      rfl
    · have up : (s.dev == .ready) = true := by rw [ready]; rfl
      rw [exec_objExportComplete]
      simp only [execObjExportComplete, up, listed, export_, good_, own, read, written, Bool.not_true, Bool.false_eq_true, if_false]
      rfl
end

section
/-! O38: checkpoint and snapshot writes, and restores. -/
open Sys2Proof
namespace Sys2Proof.Machine

/-- A message of the epoch in force is taken. -/
theorem ofEpoch_current {s : State} {h : Herd} {e : Nat} {f : State → State} (current : e = h.rcd.epoch) : s.ofEpoch h e f = f s :=
  if_pos (by rw [current]; exact beq_self_eq_true _)

/-- One of another epoch is dropped, whatever it would do. -/
theorem ofEpoch_other {s : State} {h : Herd} {e : Nat} {f : State → State} (other : e ≠ h.rcd.epoch) :
    s.ofEpoch h e f = s.ofEpoch h e id := by
  unfold State.ofEpoch
  rw [if_neg (by rw [beq_iff_eq]; exact other), if_neg (by rw [beq_iff_eq]; exact other)]

section Writes

variable {s : State} {g : GenFrom} {w : CkptWrite} {x : Store} {key : BitVec 256} {h : Herd}

/-- A write that has work to do, and has not been formed, of a context whose key is held. -/
theorem exec_checkpointCapture_new (ready : s.dev = .ready) (next : s.nextWrite = some w)
    (store : s.store? (s.ctx w.ctx).chd w.cls w.name = some x) (fresh : w.formed = false) (own : s.ckey w.ctx = some key) :
    exec (.checkpointCapture g) s = .next (if w.cls = 1 then
        let w' : CkptWrite := { w with g := s.coordWord x 0 % 2 ^ 48 + 1 }
        (s.setWrite w w').formSnap w' x key
      else match s.bindHerd with
        | none => s
        | some h =>
            let w' : CkptWrite := { w with
              g := if h.rcd.bell = h.self then s.coordWord x 0 % 2 ^ 48 + 1 else g.g.toNat % 2 ^ 48 }
            if h.rcd.bell != h.self && g.epoch.toNat != h.rcd.epoch then s.ofEpoch h g.epoch.toNat id
            else if s.atCapture w h then (s.setWrite w w').formModel w' x h key else s) := by
  rw [exec_checkpointCapture]
  simp only [execCheckpointCapture, ready, next, store, fresh, own, bne_self_eq_false, Bool.false_eq_true, if_false] <;> rfl

/-- The end of a write that has been formed and reported, of a context whose key is held. -/
theorem exec_checkpointFlip_reported (ready : s.dev = .ready)
    (found : s.ckpts.find? (fun w => w.cls < 2 && w.formed && w.g == g.g.toNat) = some w)
    (store : s.store? (s.ctx w.ctx).chd w.cls w.name = some x) (reported : w.reported = true) (once : w.flip = false)
    (own : s.ckey w.ctx = some key) :
    exec (.checkpointFlip g .ok) s = .next (if w.cls = 1 then s.flip w x key none
      else match s.bindHerd with
        | none => (s.loseKey w.ctx).endWrite w .store
        | some h =>
            if h.rcd.bell != h.self then s.ofEpoch h g.epoch.toNat fun s => (s.knowCoord x.node x.coord w.g).endWrite w .ok
            else if h.digests.any fun d => d.1 == h.self then s
            else s.flip w x key (some h)) := by
  have up : (s.dev == .ready) = true := by rw [ready]; rfl
  rw [exec_checkpointFlip]
  simp only [execCheckpointFlip, up, found, store, reported, once, own, Bool.not_true, Bool.or_self, Bool.false_eq_true, if_false]
  cases s.bindHerd <;> rfl

end Writes

end Sys2Proof.Machine
open Sys2Proof.Machine

/-- Settles O38: the commands along their definitions, capture and flip by the lemmas above. -/
theorem checkpoints : Obligations.Checkpoints := by
  unfold Obligations.Checkpoints
  refine ⟨?writes, ?restores⟩
  case writes =>
    intro s t c g b h x w key how ok whole n l
    dsimp only
    refine ⟨fun e read store => ?_, fun e herd own store may plain signal held read small => ?_,
      fun e store may allowed held idle => ?_, fun ready => ⟨fun next store => ⟨fun formed => ?_, fun fresh held =>
        ⟨fun snap => ?_, fun model herd => ⟨fun member other => ?_, fun current capture => ?_⟩⟩⟩,
        fun found => ⟨fun failed => ?_, fun store reported once held => ⟨fun snap => ?_, fun model herd decided => ?_⟩⟩,
        fun found => ?_, fun herd => ⟨fun found store => ?_, fun none store due broken => ?_⟩⟩⟩
    · split
      · next bad =>
        refine congrArg Host.Outcome.next (mailbox_refused e rfl rfl rfl rfl rfl ?_)
        simp only [read]
        rw [← store] at bad
        exact if_pos bad
      · next good =>
        refine congrArg Host.Outcome.next (mailbox_done e rfl rfl rfl rfl rfl ?_)
        simp only [read]
        rw [← store] at good ⊢
        exact if_neg good
    · refine congrArg Host.Outcome.next (mailbox_done e rfl rfl rfl rfl rfl ?_)
      simp only [herd, own, store, may, signal, held, read, show bit (argAt (s.argsOf c) 0) 12 = false from plain,
        Nat.not_lt.2 small, bne_self_eq_false, Option.isNone_some, Bool.not_true, Bool.false_and, Bool.or_self, Bool.false_eq_true,
        if_false]
      rfl
    · refine congrArg Host.Outcome.next (mailbox_done e rfl rfl rfl rfl rfl ?_)
      simp only [store, may, allowed, held, idle, Option.isNone_some, Bool.not_true, Bool.or_self, Bool.false_eq_true, if_false]
      rfl
    · rw [exec_checkpointCapture]
      simp only [execCheckpointCapture, ready, next, store, formed, bne_self_eq_false, Bool.false_eq_true, if_false, if_true]
    · rw [exec_checkpointCapture_new ready next store fresh held, if_pos snap]
    · rw [exec_checkpointCapture_new ready next store fresh held, if_neg model, herd]
      exact congrArg Host.Outcome.next (if_pos (by rw [bne_iff_ne.2 member, bne_iff_ne.2 other]; rfl))
    · have taken : (h.rcd.bell != h.self && g.epoch.toNat != h.rcd.epoch) = false := by
        rcases current with bell | epoch
        · rw [bell, bne_self_eq_false]; rfl
        · rw [epoch, bne_self_eq_false, Bool.and_false]
      rw [exec_checkpointCapture_new ready next store fresh held, if_neg model, herd]
      simp only [taken, capture, Bool.false_eq_true, if_false, if_true]
    · have up : (s.dev == .ready) = true := by rw [ready]; rfl
      rw [exec_checkpointFlip]
      simp only [execCheckpointFlip, up, found]
      cases how with
      | ok => exact absurd rfl failed
      | _ => rfl
    · rw [exec_checkpointFlip_reported ready found store reported once held, if_pos snap]
    · rw [exec_checkpointFlip_reported ready found store reported once held, if_neg model, herd]
      by_cases bell : h.rcd.bell = h.self
      · rw [if_pos bell]
        simp only [bell, decided bell, bne_self_eq_false, Bool.false_eq_true, if_false]
      · rw [if_neg bell]
        simp only [bne_iff_ne.2 bell, if_true]
        split
        · next current => rw [ofEpoch_current current]
        · next other => rw [ofEpoch_other other]
    · have up : (s.dev == .ready) = true := by rw [ready]; rfl
      rw [exec_checkpointTimeout]
      simp only [execCheckpointTimeout, up, found]
    · have up : (s.dev == .ready) = true := by rw [ready]; rfl
      rw [exec_streamSegment]
      simp only [execStreamSegment, up, herd, found, store]
    · have up : (s.dev == .ready) = true := by rw [ready]; rfl
      rw [exec_streamSegment]
      simp only [execStreamSegment, up, herd, none, store, due]
      refine congrArg Host.Outcome.next (if_pos ?_)
      rcases broken with failed | partial_
      · rw [failed]; rfl
      · rw [partial_]; simp
  case restores =>
    intro s t t' c r b g n chain key plain das x
    dsimp only
    refine ⟨fun e bound own done held scb still stored => ⟨fun none alone => ?_, fun chosen params groups put => ?_⟩,
      fun e resident entry idle held store => ⟨fun none => ?_, fun chosen cores fences region free mapped => ?_⟩⟩
    · refine congrArg Host.Outcome.next (mailbox_done e rfl rfl rfl rfl rfl ?_)
      simp only [bound, own, done, held, scb, still, stored, none, alone, bne_self_eq_false, Option.isNone_some, Option.isSome_some,
        Bool.not_true, Bool.and_false, Bool.and_self, Bool.or_self, Bool.false_eq_true, if_false, if_true]
    · refine congrArg Host.Outcome.next (mailbox_done e rfl rfl rfl rfl rfl ?_)
      simp only [bound, own, done, held, scb, still, stored, chosen, params, groups, put, bne_self_eq_false, Option.isNone_some,
        Option.isSome_some, Bool.not_true, Bool.and_false, Bool.and_self, Bool.or_self, Bool.false_eq_true, if_false, if_true]
      rfl
    · refine congrArg Host.Outcome.next (mailbox_done e rfl rfl rfl rfl rfl ?_)
      simp only [resident, Option.isNone_eq_false_iff.2 entry, idle, held, store, none, bne_self_eq_false, Option.isNone_some,
        Option.isSome_some, Bool.and_false, Bool.and_self, Bool.or_self, Bool.false_eq_true, if_false, if_true]
    · refine congrArg Host.Outcome.next (mailbox_done e rfl rfl rfl rfl rfl ?_)
      simp only [resident, Option.isNone_eq_false_iff.2 entry, idle, held, store, chosen, fences, region, free, mapped,
        Nat.not_lt.2 cores, bne_self_eq_false, Option.isNone_some, Option.isSome_some, Bool.and_false, Bool.false_and, Bool.and_self,
        Bool.or_self, Bool.false_eq_true, if_false, if_true]
      rfl
end

section
/-! O27: a PROTECT whose page tables lie in pool memory. -/
open Sys2Proof
namespace Sys2Proof.Machine

/-- First address of the pool-map entry of the counterexample. -/
def tablePage : Nat := 0x800000000000

/-- A context whose only table lies in its pool memory: its one entry points to the table itself, and is the leaf of a readable
page of 2 MiB. PROTECT of that page, without any permission, is the next command. -/
def pooledTables : State := { State.reset with
  dev := .ready,
  ctxs := [(0, { st := .resident, root := some tablePage })],
  poolMap := [(0, { v := true, ctx := 0, size := 30, base := tablePage, node := 0, ports := 0, nbase := 0 })],
  poolMem := putBytes [] 0 (leBytes 8 (tablePage + 0xB)),
  mbx := [(0, { active := true, opc := 0x13, arg := [(0, 0x1000), (3, 1)] })],
  mbxQ := [0] }

/-- The call of that PROTECT. -/
def protectCall : MbxCall := { chan := 0, seq := 0, args := [] }

/-- It is the next command, and passes its checks. -/
theorem pooledTables_admits : pooledTables.Admits protectCall 0x13 [lowMask 16, allMask, 0, allMask]
    [(0, argCtx (pooledTables.argsOf protectCall) 0)] [argCtx (pooledTables.argsOf protectCall) 0] where
  takes := by constructor <;> decide +kernel
  plain := by decide +kernel
  unheld := by decide +kernel
  live := by decide +kernel

/-- The command of the channel is still active. -/
def stillActive : Out → Bool
  | .next s => (s.chan 0).active
  | _ => false

end Sys2Proof.Machine
open Sys2Proof.Machine

/-- Refutes O27: rewriting a leaf in pool memory posts a write there (`11` R280), so that the removal waits for a request that
the state before the command did not number; the statement asks for the requests numbered before alone. -/
theorem not_tableCommands : ¬ Obligations.TableCommands := by
  unfold Obligations.TableCommands
  intro holds
  obtain ⟨commands, -⟩ := holds
  obtain ⟨-, -, -, protect, -⟩ := commands pooledTables pooledTables protectCall 0 0 [] [] ok
  have completes := congrArg stillActive (protect pooledTables_admits (by decide +kernel) (by decide +kernel) (by decide +kernel)
    (by decide +kernel) (by decide +kernel) (by decide +kernel))
  have waits : stillActive (exec (.protect protectCall) pooledTables) = true := by decide +kernel
  rw [waits] at completes
  exact absurd completes (by decide +kernel)
end

section
/-! O22: requests at their targets, tags, controllers, walks, swaps and drains. -/
open Sys2Proof
namespace Sys2Proof.Machine

section Arrival

variable {s t : State} {x : Refused} {h : Health} {i : Nat}

/-- A request arrives at its target: nothing on the way holds it back. -/
def State.arrives (s : State) (q : MemReq) : Prop :=
  s.severed q = false ∧ s.downAt q.da = false ∧ s.moving q = false ∧ s.ordered q = true ∧ (s.veiled q = true → q.write = false)

/-- One that is admitted, listed and checked, with room, leaves for its tier. -/
theorem atTarget_served (arrives : s.arrives x.req)
    (admitted : s.admits x.req.init x.req.ctx x.req.da x.req.write x.req.walk = true) (listed : s.listed x.req = true)
    (room : s.room x = true)
    (checked : s.check x.req.init x.req.acts x.req.da x.req.size x.req.write x.req.walk = .ok t ()) :
    s.atTarget x h i = t.leave x h i := by
  obtain ⟨severed, down, moving, ordered, veiled⟩ := arrives
  rw [atTarget_arrives severed down moving ordered veiled]
  simp only [admitted, listed, room, checked, Bool.not_true, Bool.or_self, Bool.false_eq_true, if_false]

/-- One without room is refused, and held. -/
theorem atTarget_refused (arrives : s.arrives x.req)
    (admitted : s.admits x.req.init x.req.ctx x.req.da x.req.write x.req.walk = true) (listed : s.listed x.req = true)
    (full : s.room x = false) : s.atTarget x h i = (s.refuse x).1.holdAt i (s.refuse x).2 := by
  obtain ⟨severed, down, moving, ordered, veiled⟩ := arrives
  rw [atTarget_arrives severed down moving ordered veiled]
  simp only [admitted, listed, full, Bool.not_true, Bool.not_false, Bool.or_self, Bool.false_eq_true, if_false, if_true]

/-- One that is not admitted is denied. -/
theorem atTarget_denied (arrives : s.arrives x.req)
    (denied : s.admits x.req.init x.req.ctx x.req.da x.req.write x.req.walk = false) :
    s.atTarget x h i = s.denyOutcome x.req.init x.req.ctx x.req.da := by
  obtain ⟨severed, down, moving, ordered, veiled⟩ := arrives
  rw [atTarget_arrives severed down moving ordered veiled]
  simp only [denied, Bool.not_false, Bool.true_or, if_true]

end Arrival

section Launch

variable {s : State} {x : Refused} {older : List Refused} {h : Health} {i : Nat}

/-- A request behind an older one is held. -/
theorem launch_behind (behind : s.behind older x = true) : s.launch x older h i = s.holdAt i x := if_pos behind

/-- One that has a tag goes to its target. -/
theorem launch_tagged (clear : s.behind older x = false) (tagged : x.req.tag ≠ 0) : s.launch x older h i = s.atTarget x h i := by
  unfold State.launch
  rw [if_neg (Bool.eq_false_iff.1 clear), if_pos (bne_iff_ne.2 tagged)]

/-- One that has none waits while no tag is free. -/
theorem launch_waits (clear : s.behind older x = false) (untagged : x.req.tag = 0) (none : s.takeTag x.req.init x.req.acts = none) :
    s.launch x older h i = (s.tagWait x.req.init x.req.acts).holdAt i x := by
  unfold State.launch
  rw [if_neg (Bool.eq_false_iff.1 clear), if_neg (by rw [untagged, bne_self_eq_false]; exact Bool.false_ne_true), none]

/-- One that takes a tag goes to its target. -/
theorem launch_takes {p : Nat} (clear : s.behind older x = false) (untagged : x.req.tag = 0)
    (tag : s.takeTag x.req.init x.req.acts = some p) :
    s.launch x older h i = s.atTarget { x with req := { x.req with tag := p } } h i := by
  unfold State.launch
  rw [if_neg (Bool.eq_false_iff.1 clear), if_neg (by rw [untagged, bne_self_eq_false]; exact Bool.false_ne_true), tag]

/-- A memory request of an initiator with work and room in its issue queue. -/
theorem exec_memoryRequest_made {o : MemOp} (ready : s.dev = .ready) (work : s.workFor o.init o.ctx = true) (below : s.queued o.init < 64) :
    exec (.memoryRequest o) s = .next
      (State.request { s.dram o.da.toNat o.issued o.returned with reqNum := (s.dram o.da.toNat o.issued o.returned).reqNum + 1 }
        { req := (s.dram o.da.toNat o.issued o.returned).reqOf o } (s.dram o.da.toNat o.issued o.returned).retry o.health
        (s.dram o.da.toNat o.issued o.returned).retry.length) := by
  rw [exec_memoryRequest]
  unfold execMemoryRequest
  rw [if_neg]
  rw [ready, work, decide_eq_false (Nat.not_le.2 below)]
  exact Bool.false_ne_true

/-- The retry of a held request that is not the work of an engine, and not of BAR4. -/
theorem exec_requestRetry_held {r : RetryIn} (ready : s.dev = .ready) (held : s.retry[i]? = some x) (free : x.own = false)
    (bar4 : x.req.init ≠ 724) :
    exec (.requestRetry i r) s = .next
      (State.request { s.dram x.req.da r.issued r.returned with retry := (s.dram x.req.da r.issued r.returned).retry.eraseIdx i } x
        ((s.dram x.req.da r.issued r.returned).retry.take i) r.health i) := by
  rw [exec_requestRetry]
  simp only [execRequestRetry, held, ready, free, State.retryAt, bar4, bne_self_eq_false, Bool.false_eq_true, if_false]

end Launch

section Tags

variable {s : State} {init c d k : Nat}

/-- The pools that an initiator of a C-die tries in turn. -/
theorem takeTag_of_die (die : tagDie init = some d) (fitted : s.dieFitted d = true) :
    s.takeTag init c = if ((initCluster init).any s.reserveFree) then some 1
      else if 739 ≤ init ∧ s.tagFree d c 2 2048 = true then some 2
      else if s.tagFree d c 3 2048 then some 3 else none := by
  unfold State.takeTag
  simp only [die, fitted, Bool.not_true, Bool.false_eq_true, if_false, Bool.and_eq_true, decide_eq_true_eq]
  cases initCluster init <;> rfl

/-- An initiator past the DMA engines belongs to no cluster. -/
theorem initCluster_none (past : 704 ≤ init) : initCluster init = none := by
  unfold initCluster
  rw [if_neg (by omega), if_neg (by omega)]

end Tags

section Dram

variable {s : State} {x : Refused} {da : Nat}

/-- Counting at a controller leaves what the controllers hold. -/
theorem bumpQuota_keeps (s : State) (da i : Nat) : (s.bumpQuota da i).code = s.code ∧ (s.bumpQuota da i).retry = s.retry ∧
    (s.bumpQuota da i).dramQ = s.dramQ ∧ (s.bumpQuota da i).dramOut = s.dramOut := by
  unfold State.bumpQuota
  split <;> simp

/-- The controller of an address is that of its space. -/
theorem controller_of_code {s t : State} (same : t.code = s.code) (da : Nat) : t.controller da = s.controller da := by
  unfold State.controller
  rw [space_of_code same]

/-- So is its bank. -/
theorem dramBank_of_code {s t : State} (same : t.code = s.code) (da : Nat) : t.dramBank da = s.dramBank da := by
  unfold State.dramBank
  rw [space_of_code same]

/-- A request that waits at its controller joins the queue, and nothing that is out returns. -/
theorem await_keeps (some : (s.controller x.req.da).isSome = true) : (s.await x).code = s.code ∧
    (s.await x).dramQ = s.dramQ ++ [{ x.req with len := x.req.size, data := [] }] ∧ (s.await x).dramOut = s.dramOut := by
  obtain ⟨t, controlled⟩ := Option.isSome_iff_exists.1 some
  obtain ⟨code, -, -, out⟩ := bumpQuota_keeps s x.req.da 1
  unfold State.await
  rw [controlled]
  dsimp only
  split
  · exact ⟨code, rfl, out⟩
  · exact ⟨rfl, rfl, rfl⟩

/-- Whether the queues of a controller leave room depends on their quotas. -/
theorem room_of_quota (some : (s.controller x.req.da).isSome = true) (loose : s.pw.strict = false)
    (full : 256 ≤ s.waiting x.req.acts (fun r => s.chanOf r.da == s.chanOf x.req.da) ∨
      32 ≤ s.waiting x.req.acts (fun r => s.dramBank r.da == s.dramBank x.req.da)) : s.room x = false := by
  obtain ⟨t, controlled⟩ := Option.isSome_iff_exists.1 some
  have quota (n : Nat) : s.quota t n = n := by unfold State.quota; rw [loose]; rfl
  unfold State.room
  rw [controlled]
  simp only [quota]
  rcases full with channel | bank
  · rw [decide_eq_false (Nat.not_lt.2 channel), Bool.and_false, Bool.false_and]
  · rw [decide_eq_false (Nat.not_lt.2 bank), Bool.and_false]

end Dram

end Sys2Proof.Machine
open Sys2Proof.Machine

/-- Settles O22: requests by the lemmas on `atTarget` and `launch`, tags by `takeTag_of_die`, controllers by `await_keeps`. -/
theorem memoryRequests : Obligations.MemoryRequests := by
  unfold Obligations.MemoryRequests
  refine ⟨?requests, ?tags, ?walks⟩
  case requests =>
    intro s t o i p r x
    dsimp only
    intro ready
    refine ⟨fun work below => ⟨fun regs admitted => ?_, fun memory behind => ?_, fun memory clear => ⟨fun none => ?_, fun tag arrives =>
      ⟨fun admitted listed room checked => ?_, fun admitted listed full => ?_, fun denied => ?_⟩⟩⟩, fun held own => ?_,
      fun held free bar4 memory tagged clear arrives admitted listed => ⟨fun full => ?_, fun room checked => ?_⟩⟩
    · rw [exec_memoryRequest_made ready work below]
      exact congrArg Host.Outcome.next (if_pos (by rw [Bool.and_eq_true, beq_iff_eq]; exact ⟨regs, admitted⟩))
    · rw [exec_memoryRequest_made ready work below, request_launch memory]
      exact congrArg Host.Outcome.next (launch_behind behind)
    · rw [exec_memoryRequest_made ready work below, request_launch memory]
      exact congrArg Host.Outcome.next (launch_waits clear rfl none)
    · rw [exec_memoryRequest_made ready work below, request_launch memory]
      exact congrArg Host.Outcome.next ((launch_takes clear rfl tag).trans (atTarget_served arrives admitted listed room checked))
    · rw [exec_memoryRequest_made ready work below, request_launch memory]
      exact congrArg Host.Outcome.next ((launch_takes clear rfl tag).trans (atTarget_refused arrives admitted listed full))
    · rw [exec_memoryRequest_made ready work below, request_launch memory]
      exact congrArg Host.Outcome.next ((launch_takes clear rfl tag).trans (atTarget_denied arrives denied))
    · rw [exec_requestRetry]
      simp only [execRequestRetry, held, ready, own, bne_self_eq_false, Bool.false_eq_true, if_false, if_true]
    · rw [exec_requestRetry_held ready held free bar4, request_launch memory, launch_tagged clear tagged]
      exact congrArg Host.Outcome.next (atTarget_refused arrives admitted listed full)
    · rw [exec_requestRetry_held ready held free bar4, request_launch memory, launch_tagged clear tagged]
      exact congrArg Host.Outcome.next (atTarget_served arrives admitted listed room checked)
  case tags =>
    intro s x h init c d k i n da p
    refine ⟨fun die fitted => ⟨fun cluster free => ?_, fun cluster full small shared => ?_, fun streaming free => ?_,
      fun small full cluster shared => ?_⟩, fun some => ⟨?_, fun empty same => ⟨?_, ?_, ?_⟩, fun r out same => ?_, fun loose full => ?_,
        fun loose full => ?_, fun tier => ?_⟩, fun third none bank few => ?_, fun early none => ?_⟩
    · rw [takeTag_of_die die fitted, cluster]
      exact if_pos free
    · rw [takeTag_of_die die fitted, cluster, if_neg (by rw [Option.any_some, full]; exact Bool.false_ne_true), if_neg (by omega),
        if_pos shared]
    · rw [takeTag_of_die die fitted, initCluster_none (by omega), if_neg (by rw [Option.any_none]; exact Bool.false_ne_true),
        if_pos ⟨streaming, free⟩]
    · rw [takeTag_of_die die fitted, cluster, if_neg (by rw [Option.any_some, full]; exact Bool.false_ne_true), if_neg (by omega),
        if_neg (Bool.eq_false_iff.1 shared)]
    · exact (await_keeps some).2.1
    · obtain ⟨code, queue, -⟩ := await_keeps some
      unfold State.issueDram
      simp only [queue, empty, List.nil_append, dropFirst, controller_of_code code, same, beq_self_eq_true, if_true]
      cases n <;> rfl
    · exact dropFirst.eq_1 _ _
    · obtain ⟨code, queue, out_⟩ := await_keeps some
      unfold State.issueDram
      simp only [queue, empty, out_, List.nil_append, controller_of_code code, same, beq_self_eq_true, List.filter_cons,
        List.filter_nil, if_true, List.take_succ_cons, List.take_nil]
    · unfold State.returnDram
      simp only [out, dropFirst, same, beq_self_eq_true, if_true]
      cases n <;> rfl
    · exact room_of_quota some loose (Or.inl full)
    · exact room_of_quota some loose (Or.inr full)
    · unfold State.leave
      rcases tier with d | l
      · simp only [d]
      · simp only [l]
    · obtain ⟨code, retry, -, -⟩ := bumpQuota_keeps s x.req.da 0
      unfold State.refuse
      simp only [retry, dramBank_of_code code, third, none, decide_eq_true few, bank]
      exact ⟨rfl, trivial⟩
    · unfold State.refuse
      have few : ¬4 ≤ x.n + 1 := by omega
      simp only [none, few, decide_false, Bool.and_false, Bool.false_and, Bool.false_eq_true, if_false]
  case walks =>
    intro s t core va acc k c e cause
    dsimp only
    refine ⟨fun works => ⟨fun found => ?_, fun lost => ⟨fun reached => ?_, fun fetch ahead => ?_⟩⟩, fun listed => ?_, fun drained => ?_,
      fun open_ => ?_, fun draining => ?_⟩
    · rw [exec_translationWalk]
      simp only [execTranslationWalk, works, found]
    · have kept : (decide (acc = 0) && !s.fetches core.val c va.toNat) = false := by
        rcases reached with other | reached
        · rw [decide_eq_false other]; rfl
        · rw [reached, Bool.not_true, Bool.and_false]
      rw [exec_translationWalk]
      simp only [execTranslationWalk, works, lost, kept, Bool.false_eq_true, if_false]
    · subst fetch
      rw [if_pos rfl] at lost
      rw [exec_translationWalk]
      simp only [execTranslationWalk, works, lost, ahead, decide_true, Bool.not_false, Bool.and_self, if_true]
    · rw [exec_accessTableSwap]
      exact congrArg Host.Outcome.next (if_pos listed)
    · rw [exec_targetDrained]
      exact congrArg Host.Outcome.next (if_neg (Bool.eq_false_iff.1 drained))
    · rw [exec_targetDrained]
      exact congrArg Host.Outcome.next (if_pos open_)
    · rw [exec_drainTimeout]
      exact congrArg Host.Outcome.next (if_pos draining)
end

section
/-! O23: page moves, bridle flits and their routes, scrubs and rekeys. -/
open Sys2Proof
namespace Sys2Proof.Machine

section Bridle

variable {s : State} {link : Fin 18} {dir : Bool} {f : BridleIn} {w : W64}

/-- The die that a link's direction leaves. -/
def bridleFrom (link : Fin 18) (dir : Bool) : Nat := if dir then (bridleEnds link.val).2 else (bridleEnds link.val).1

/-- The die that it reaches. -/
def bridleTo (link : Fin 18) (dir : Bool) : Nat := if dir then (bridleEnds link.val).1 else (bridleEnds link.val).2

/-- What a flit on its link leaves of the counts. -/
theorem bridleSend_eq (s : State) (link : Nat) (dir : Bool) (f : BridleIn) (w : W64) :
    s.bridleSend link dir f w = { s with ras := { s.ras with
      bridleWire := Tab.set 0 s.ras.bridleWire (2 * link + b2n dir) (s.bridleSeal link dir (s.bridleCount link dir f) w)
      bridleSent := Tab.set 0 s.ras.bridleSent (bridleKeyOf link dir f) (s.bridleCount link dir f)
      bridleOk := if Tab.get 0 s.ras.bridleRun (bridleKeyOf link dir f) = 0
        then Tab.set 0 s.ras.bridleOk (2 * link + b2n dir) (s.bridleCount link dir f + 1) else s.ras.bridleOk } } := by
  unfold State.bridleSend
  simp only [beq_iff_eq]

/-- A flit on its route with a message to carry and a count that has not ended: it moves on, is kept, or halts the module. -/
theorem exec_bridleFlit_carries (ready : s.dev = .ready) (front : s.bridleFront f (bridleFrom link dir) = some w)
    (route : Tab.get 13 s.routes (16 * bridleFrom link dir + f.dst.val) = bridleTo link dir)
    (count : s.bridleCount link.val dir f < 2 ^ 64 - 1) (crc : Bool) :
    exec (.bridleFlit link dir f crc) s = .next (
      if crc then ((s.bridleSend link dir f w).setRun (bridleKeyOf link.val dir f) 0).bridleMove f (bridleFrom link dir) (bridleTo link dir) w
      else if Tab.get 0 s.ras.bridleRun (bridleKeyOf link.val dir f) < 8 then
        let t := ((s.bridleSend link dir f w).setRun (bridleKeyOf link.val dir f)
          (Tab.get 0 s.ras.bridleRun (bridleKeyOf link.val dir f) + 1)).bridleKeep f (bridleFrom link dir) w
        { t with ras := { t.ras with bridleRetry := Tab.upd 0 t.ras.bridleRetry (bridleTo link dir) (· + 1) } }
      else s.halt 0x03 8 link) := by
  have up : (s.dev == .ready) = true := by rw [ready]; rfl
  have below : ¬2 ^ 64 - 1 ≤ s.bridleCount link.val dir f := Nat.not_le.2 count
  rw [exec_bridleFlit]
  unfold bridleFrom at front route
  unfold bridleTo at route
  unfold execBridleFlit bridleFrom bridleTo
  simp only [front, bne, up, route, beq_self_eq_true, Bool.not_true, Bool.or_self, Bool.false_eq_true, if_false, below]

/-- A flit count at its end halts the module. -/
theorem exec_bridleFlit_ended (ready : s.dev = .ready) (front : s.bridleFront f (bridleFrom link dir) = some w)
    (route : Tab.get 13 s.routes (16 * bridleFrom link dir + f.dst.val) = bridleTo link dir)
    (count : 2 ^ 64 - 1 ≤ s.bridleCount link.val dir f) (crc : Bool) :
    exec (.bridleFlit link dir f crc) s = .next (s.halt 0x03 8 link.val) := by
  have up : (s.dev == .ready) = true := by rw [ready]; rfl
  rw [exec_bridleFlit]
  unfold bridleFrom at front route
  unfold bridleTo at route
  unfold execBridleFlit
  simp only [front, bne, up, route, beq_self_eq_true, Bool.not_true, Bool.or_self, Bool.false_eq_true, if_false, count, if_true]

/-- A message kept stands at the sending die once. -/
theorem bridleKeep_eq (s : State) (f : BridleIn) (send : Nat) (w : W64) : s.bridleKeep f send w = { s with
    bridle := if s.bridle.any (bridleAt f send) then s.bridle else s.bridle ++ [(f.cls.val, f.src.val, f.dst.val, send, w)] } := by
  unfold State.bridleKeep
  split <;> rfl

/-- Every hop is a link. The dies are few, and each pair is tried. -/
theorem bridleHop_linked : ∀ a < 13, ∀ b < 13, a ≠ b →
    ∃ l < 18, bridleEnds l = (a, bridleHop a b) ∨ bridleEnds l = (bridleHop a b, a) := by
  decide +kernel

/-- A hop goes to the X-die only to end there. -/
theorem bridleHop_inner : ∀ a < 13, ∀ b < 12, a ≠ b → bridleHop a b ≠ 12 := by
  decide +kernel

/-- A hop lies on a shortest path. -/
theorem bridleHop_shortest : ∀ a < 13, ∀ b < 13, a ≠ b → bridleHop a b ≠ b →
    bridleDist (bridleHop a b) b + 1 = bridleDist a b := by
  decide +kernel

/-- A C-die's hop is across its own column where that is as short. -/
theorem bridleHop_column : ∀ a < 8, ∀ b < 12,
    (a ≠ b ∧ ∃ l < 18, bridleEnds l = (a, (a + 4) % 8) ∨ bridleEnds l = ((a + 4) % 8, a)) ∧
      bridleDist ((a + 4) % 8) b + 1 = bridleDist a b → bridleHop a b = (a + 4) % 8 := by
  decide +kernel

/-- Another die's hop is the lowest neighbour that is as short. -/
theorem bridleHop_lowest : ∀ a < 13, ∀ b < 13, a ≠ b → 8 ≤ a → ∀ n ∈ bridleNbrs (b == 12) a,
    bridleDist n b + 1 = bridleDist a b → bridleHop a b ≤ n := by
  decide +kernel

end Bridle

end Sys2Proof.Machine
open Sys2Proof.Machine

/-- Settles O23: moves, scrubs and rekeys by their branches, flits by `exec_bridleFlit_carries`, routes by `bridleHop_routes`. -/
theorem pagesAndGranules : Obligations.PagesAndGranules := by
  unfold Obligations.PagesAndGranules
  refine ⟨?pages, ?flits, fun a b ha hb other => ⟨bridleHop_linked a ha b hb other, fun inner => bridleHop_inner a ha b (by omega) other,
    bridleHop_shortest a ha b hb other, fun die inner link short =>
      bridleHop_column a die b (by omega) ⟨⟨other, link⟩, short⟩, bridleHop_lowest a ha b hb other⟩, ?granules⟩
  case pages =>
    intro s t ctx vpn die p i w y g ms mover m a hl r ready
    have up : (s.dev == .ready) = true := by rw [ready]; rfl
    dsimp only
    refine ⟨fun posted page tier movable => ⟨fun planned => ?_, fun victimless => ?_⟩, fun place move vacant few settled leaf => ?_,
      fun move begun => ⟨fun used => ?_, fun free major checked => ?_, ?_⟩⟩
    · rw [exec_kvPromotion]
      simp only [execKvPromotion, up, posted, page, tier, movable, planned, Bool.not_true, Bool.false_eq_true, if_false]
    · rw [exec_kvPromotion]
      simp only [execKvPromotion, up, posted, page, tier, movable, victimless, Bool.not_true, Bool.false_eq_true, if_false]
    · have room : ¬4 ≤ (s.moves.filter fun x => x.mover == some mover.val).length := Nat.not_le.2 few
      rw [exec_poolMove]
      simp only [execPoolMove, place, move, bne, up, vacant, settled, room, leaf, Option.isSome_none, Bool.not_true, Bool.or_self,
        decide_false, Bool.false_eq_true, if_false]
      rfl
    · rw [exec_poolMoveComplete]
      simp only [execPoolMoveComplete, move, used, Bool.or_true, if_true]
    · have named : m.mover.isNone = false := by rw [← Option.not_isSome, begun]; rfl
      rw [exec_poolMoveComplete]
      simp only [execPoolMoveComplete, move, bne, up, named, free, major, checked, Bool.not_true, Bool.or_self, Bool.false_eq_true, if_false]
    · have named : m.mover.isNone = false := by rw [← Option.not_isSome, begun]; rfl
      rw [exec_poolMoveAbort]
      simp only [execPoolMoveAbort, move, named, Bool.false_eq_true, if_false]
  case flits =>
    intro s link dir f w
    dsimp only
    intro ready front route
    refine ⟨rfl, fun count => ⟨?_, fun few => ?_, fun many => ?_⟩, fun ended crc => exec_bridleFlit_ended ready front route ended crc⟩
    · rw [exec_bridleFlit_carries ready front route count, if_pos rfl, bridleSend_eq]
      rfl
    · rw [exec_bridleFlit_carries ready front route count, if_neg Bool.false_ne_true, if_pos few, bridleSend_eq,
        bridleKeep_eq]
      rfl
    · rw [exec_bridleFlit_carries ready front route count, if_neg Bool.false_ne_true, if_neg (Nat.not_lt.2 many)]
  case granules =>
    intro s t u g c x k hl
    dsimp only
    intro ready
    have up : (s.dev == .ready) = true := by rw [ready]; rfl
    refine ⟨fun queued own key => ?_, fun active inside checked moved => ?_, fun active passed => ?_⟩
    · rw [exec_granuleScrub]
      simp only [execGranuleScrub, queued, bne, up, key, own, Bool.not_true, Bool.false_eq_true, if_false, if_true]
    · subst moved
      have below : ¬2 ^ 48 ≤ (Tab.get {} s.rekeyJobs k.val).b := Nat.not_le.2 inside
      rw [exec_rekeyLine]
      refine congrArg Host.Outcome.next ((if_neg ?_).trans ?_)
      · rw [bne, up, active, decide_eq_false below]
        exact Bool.false_ne_true
      · rw [checked]
        dsimp only
        by_cases last : k.val = 12
        · have stored : ¬(!(true && k.val == 12)) = true := by rw [beq_iff_eq.2 last]; exact Bool.false_ne_true
          rw [if_neg stored, if_pos last, if_neg (not_not.2 last)]
          exact if_congr bne_iff_ne rfl rfl
        · have dropped : (!(true && k.val == 12)) = true := by rw [beq_eq_false_iff_ne.2 last]; rfl
          rw [if_pos dropped, if_pos last]
    · rw [exec_rekeyJobComplete]
      refine congrArg Host.Outcome.next ((if_neg ?_).trans ?_)
      · rw [active, decide_eq_false (Nat.not_lt.2 passed)]
        exact Bool.false_ne_true
      · exact congrArg (State.startJob · k.val) (if_congr Option.isNone_iff_eq_none rfl rfl)
end

section
/-! O33: the ports of Acnor Link: bring-up, flits received and sent, timers, keys, and the flit on the wire. -/
open Sys2Proof
namespace Sys2Proof.Machine

/-- What an update does to its port matters at that port alone. -/
theorem updPort_congr {s : State} {p : Nat} {f g : Port → Port} (same : f (s.port p) = g (s.port p)) :
    s.updPort p f = s.updPort p g := by
  unfold State.updPort Tab.upd
  exact congrArg (fun k => { s with ports := Tab.set {} s.ports p k }) same

section Receive

variable {s : State} {f : FlitIn} {take : Flit → State → State} {key : BitVec 128} {epoch : Nat} {b : List Byte}

/-- A flit that is lost or whose CRC fails asks for a NAK. -/
theorem receive_bad (up : (s.port f.port).st = .up) (bad : f.lost = true ∨ crcGood f.wire = false) :
    s.receive f take = ((s.countFec f.port f.fec).bump (regPort f.port) 3 1).updPort f.port fun k =>
      k.askNak (s.countFec f.port f.fec).now := by
  unfold State.receive
  rcases bad with lost | crc
  · simp only [up, lost, bne_self_eq_false, Bool.true_or, Bool.false_eq_true, if_false, if_true]
  · simp only [up, crc, bne_self_eq_false, Bool.not_false, Bool.or_true, Bool.false_eq_true, if_false, if_true]

/-- A good flit of kind 0 is IDLE: without its zeros it is a protocol error. -/
theorem receive_idle (up : (s.port f.port).st = .up) (whole : f.lost = false) (crc : crcGood f.wire = true)
    (kind : (Flit.ofWire f.resp f.wire).kind = 0) :
    s.receive f take = if (Flit.ofWire f.resp f.wire).rsv ≠ 0 ∨ (Flit.ofWire f.resp f.wire).srcn ≠ 0 ∨ (Flit.ofWire f.resp f.wire).dstn ≠ 0
      then (s.countFec f.port f.fec).protocolError f.port else take (Flit.ofWire f.resp f.wire) (s.countFec f.port f.fec) := by
  unfold State.receive
  simp only [up, whole, crc, kind, bne_self_eq_false, Bool.not_true, Bool.or_self, Bool.false_eq_true, if_false, if_true,
    Nat.reduceEqDiff, Bool.or_eq_true, bne_iff_ne, or_assoc]

/-- A good flit of kind 1 or 2 opens under a key of the port, for the nodes at its ends. -/
theorem receive_sealed (up : (s.port f.port).st = .up) (whole : f.lost = false) (crc : crcGood f.wire = true)
    (kind : (Flit.ofWire f.resp f.wire).kind = 1 ∨ (Flit.ofWire f.resp f.wire).kind = 2) :
    s.receive f take = match (s.port f.port).rxKey (Flit.ofWire f.resp f.wire).kep with
      | none => (s.countFec f.port f.fec).protocolError f.port
      | some (key, epoch) => match (Flit.ofWire f.resp f.wire).unseal key epoch with
        | none => (s.countFec f.port f.fec).halt 0x03 9 f.port
        | some b =>
            if (Flit.ofWire f.resp f.wire).rsv != 0 || (Flit.ofWire f.resp f.wire).srcn != (s.port f.port).peer ||
                (Flit.ofWire f.resp f.wire).dstn != (s.countFec f.port f.fec).node then (s.countFec f.port f.fec).protocolError f.port
            else take { Flit.ofWire f.resp f.wire with data := b }
              ((s.countFec f.port f.fec).updPort f.port fun k => k.enterEpoch (Flit.ofWire f.resp f.wire).kep) := by
  unfold State.receive
  rw [if_neg (by rw [up, bne_self_eq_false]; exact Bool.false_ne_true)]
  refine (if_neg (by rw [whole, crc]; exact Bool.false_ne_true)).trans ?_
  exact (if_neg (by omega)).trans ((if_neg (by omega)).trans (if_neg (by omega)))

/-- One that no key of the port fits is a protocol error. -/
theorem receive_unkeyed (up : (s.port f.port).st = .up) (whole : f.lost = false) (crc : crcGood f.wire = true)
    (kind : (Flit.ofWire f.resp f.wire).kind = 1 ∨ (Flit.ofWire f.resp f.wire).kind = 2)
    (unkeyed : (s.port f.port).rxKey (Flit.ofWire f.resp f.wire).kep = none) :
    s.receive f take = (s.countFec f.port f.fec).protocolError f.port := by
  rw [receive_sealed up whole crc kind, unkeyed]

/-- One with a bad tag halts the module. -/
theorem receive_forged (up : (s.port f.port).st = .up) (whole : f.lost = false) (crc : crcGood f.wire = true)
    (kind : (Flit.ofWire f.resp f.wire).kind = 1 ∨ (Flit.ofWire f.resp f.wire).kind = 2)
    (keyed : (s.port f.port).rxKey (Flit.ofWire f.resp f.wire).kep = some (key, epoch))
    (forged : (Flit.ofWire f.resp f.wire).unseal key epoch = none) :
    s.receive f take = (s.countFec f.port f.fec).halt 0x03 9 f.port := by
  rw [receive_sealed up whole crc kind, keyed]
  dsimp only
  rw [forged]

/-- One of other nodes is a protocol error. -/
theorem receive_foreign (up : (s.port f.port).st = .up) (whole : f.lost = false) (crc : crcGood f.wire = true)
    (kind : (Flit.ofWire f.resp f.wire).kind = 1 ∨ (Flit.ofWire f.resp f.wire).kind = 2)
    (keyed : (s.port f.port).rxKey (Flit.ofWire f.resp f.wire).kep = some (key, epoch))
    (opened : (Flit.ofWire f.resp f.wire).unseal key epoch = some b)
    (foreign : (Flit.ofWire f.resp f.wire).rsv ≠ 0 ∨ (Flit.ofWire f.resp f.wire).srcn ≠ (s.port f.port).peer ∨
      (Flit.ofWire f.resp f.wire).dstn ≠ (s.countFec f.port f.fec).node) :
    s.receive f take = (s.countFec f.port f.fec).protocolError f.port := by
  rw [receive_sealed up whole crc kind, keyed]
  dsimp only
  rw [opened]
  refine if_pos ?_
  rw [Bool.or_eq_true, Bool.or_eq_true, bne_iff_ne, bne_iff_ne, bne_iff_ne, or_assoc]
  exact foreign

/-- One of the peer is taken, in the epoch that its key enters. -/
theorem receive_opened (up : (s.port f.port).st = .up) (whole : f.lost = false) (crc : crcGood f.wire = true)
    (kind : (Flit.ofWire f.resp f.wire).kind = 1 ∨ (Flit.ofWire f.resp f.wire).kind = 2)
    (keyed : (s.port f.port).rxKey (Flit.ofWire f.resp f.wire).kep = some (key, epoch))
    (opened : (Flit.ofWire f.resp f.wire).unseal key epoch = some b) (clear : (Flit.ofWire f.resp f.wire).rsv = 0)
    (source : (Flit.ofWire f.resp f.wire).srcn = (s.port f.port).peer)
    (here : (Flit.ofWire f.resp f.wire).dstn = (s.countFec f.port f.fec).node) :
    s.receive f take = take { Flit.ofWire f.resp f.wire with data := b }
      ((s.countFec f.port f.fec).updPort f.port fun k => k.enterEpoch (Flit.ofWire f.resp f.wire).kep) := by
  rw [receive_sealed up whole crc kind, keyed]
  dsimp only
  rw [opened]
  refine if_neg ?_
  rw [clear, source, here, bne_self_eq_false, bne_self_eq_false, bne_self_eq_false]
  exact Bool.false_ne_true

/-- A control flit later than the last is not behind it. -/
theorem not_behind {last : Option Nat} {seq : Nat} (later : ∀ q, last = some q → q < seq) :
    (match (generalizing := false) last with | some q => decide (seq ≤ q) | none => false) = false := by
  cases last with
  | none => rfl
  | some q => exact decide_eq_false (Nat.not_le.2 (later q rfl))

end Receive

section Wire

/-- A field placed below a word whose bits stand above it. -/
theorem toNat_or_at64 {x : W64} {m n lo width : Nat} (above : x.toNat = m * 2 ^ (lo + width)) (small : n < 2 ^ width)
    (fits : lo + width ≤ 64) : (x ||| at64 n lo).toNat = (m * 2 ^ width + n) * 2 ^ lo := by
  have inside : n <<< lo < 2 ^ 64 := by
    rw [Nat.shiftLeft_eq]
    calc n * 2 ^ lo < 2 ^ width * 2 ^ lo := Nat.mul_lt_mul_of_pos_right small (Nat.two_pow_pos lo)
      _ = 2 ^ (lo + width) := by rw [← Nat.pow_add, Nat.add_comm]
      _ ≤ 2 ^ 64 := Nat.pow_le_pow_right (by decide) fits
  have shifted : m * 2 ^ (lo + width) = (m <<< width) <<< lo := by
    rw [Nat.shiftLeft_eq, Nat.shiftLeft_eq, Nat.mul_assoc, ← Nat.pow_add, Nat.add_comm]
  rw [BitVec.toNat_or, above, shifted, at64, BitVec.toNat_ofNat, Nat.mod_eq_of_lt inside, ← Nat.shiftLeft_or_distrib,
    ← Nat.shiftLeft_add_eq_or_of_lt small, Nat.shiftLeft_eq, Nat.shiftLeft_eq]

/-- The first word of a header is its fields, one below the other. -/
theorem word0_toNat (f : Flit) : f.word0.toNat = (((((((f.kind % 16) * 2 ^ 3 + f.vc % 8) * 2 + b2n f.som) * 2 + b2n f.eom) * 2 ^ 8 +
    f.plen % 256) * 2 ^ 15 + f.kep % 256) * 2 ^ 32 + f.seq % 2 ^ 32) := by
  have kind : (at64 (f.kind % 16) 60).toNat = (f.kind % 16) * 2 ^ (57 + 3) := by
    rw [at64, BitVec.toNat_ofNat, Nat.shiftLeft_eq]
    omega
  have som : b2n f.som < 2 ^ 1 := by cases f.som <;> decide
  have eom : b2n f.eom < 2 ^ 1 := by cases f.eom <;> decide
  have vc := toNat_or_at64 kind (Nat.mod_lt f.vc (by decide : 8 > 0)) (by decide)
  have ends := toNat_or_at64 (lo := 55) (toNat_or_at64 (lo := 56) vc som (by decide)) eom (by decide)
  have plen := toNat_or_at64 (lo := 47) (width := 8) ends (Nat.mod_lt f.plen (by decide)) (by decide)
  have kep := toNat_or_at64 (lo := 32) (width := 15) plen (Nat.lt_trans (Nat.mod_lt f.kep (by decide)) (by decide : 256 < 2 ^ 15)) (by decide)
  have seq := toNat_or_at64 (lo := 0) (width := 32) kep (Nat.mod_lt f.seq (by decide)) (by decide)
  exact seq.trans (Nat.mul_one _)

/-- The second word of a header is the two nodes. -/
theorem word1_toNat (f : Flit) : f.word1.toNat = ((f.srcn % 65536) * 2 ^ 16 + f.dstn % 65536) * 2 ^ 32 := by
  have srcn : (at64 (f.srcn % 65536) 48).toNat = (f.srcn % 65536) * 2 ^ (32 + 16) := by
    rw [at64, BitVec.toNat_ofNat, Nat.shiftLeft_eq]
    omega
  exact toNat_or_at64 srcn (Nat.mod_lt f.dstn (by decide)) (by decide)

/-- The header takes 16 bytes. -/
theorem head_length (f : Flit) : f.head.length = 16 := by simp [Flit.head, wordBytes]

/-- Bytes that begin with a header begin with its words. -/
theorem wordAt_head (f : Flit) (rest : List Byte) : wordAt (f.head ++ rest) 0 = f.word0 ∧ wordAt (f.head ++ rest) 1 = f.word1 := by
  have whole (x : W64) : w64 (leNat (leBytes 8 x.toNat)) = x := by
    rw [leNat_leBytes]
    exact BitVec.eq_of_toNat_eq (by rw [w64, BitVec.toNat_ofNat]; omega)
  have head : f.head ++ rest = leBytes 8 f.word0.toNat ++ (leBytes 8 f.word1.toNat ++ rest) := by simp [Flit.head, wordBytes]
  constructor
  · rw [wordAt, head, Nat.mul_zero, List.drop_zero, List.take_left' (leBytes_length 8 _), whole]
  · rw [wordAt, head, Nat.mul_one, List.drop_left' (leBytes_length 8 _), List.take_left' (leBytes_length 8 _), whole]

/-- A field of a word is the word's number, divided and cut. -/
theorem fld_eq (x : W64) (hi lo : Nat) : fld x hi lo = x.toNat / 2 ^ lo % 2 ^ (hi + 1 - lo) := by
  rw [fld, Nat.shiftRight_eq_div_pow]

/-- A bit of a word is a field of one bit. -/
theorem bit_eq (x : W64) (i : Nat) : bit x i = decide (x.toNat / 2 ^ i % 2 = 1) := Nat.testBit_eq_decide_div_mod_eq

/-- The first word of a header within its fields reads back. -/
theorem word0_fields {f : Flit} (kind : f.kind < 16) (vc : f.vc < 8) (plen : f.plen < 256) (kep : f.kep < 256) (seq : f.seq < 2 ^ 32) :
    fld f.word0 63 60 = f.kind ∧ fld f.word0 59 57 = f.vc ∧ bit f.word0 56 = f.som ∧ bit f.word0 55 = f.eom ∧
      fld f.word0 54 47 = f.plen ∧ fld f.word0 46 40 = 0 ∧ fld f.word0 39 32 = f.kep ∧ fld f.word0 31 0 = f.seq := by
  have word := word0_toNat f
  have som : f.som = decide (b2n f.som = 1) := by cases f.som <;> rfl
  have eom : f.eom = decide (b2n f.eom = 1) := by cases f.eom <;> rfl
  have low : b2n f.som < 2 ∧ b2n f.eom < 2 := by cases f.som <;> cases f.eom <;> decide
  refine ⟨?_, ?_, ?_, ?_, ?_, ?_, ?_, ?_⟩
  · rw [fld_eq, word]; omega
  · rw [fld_eq, word]; omega
  · exact (bit_eq _ _).trans ((decide_eq_decide.2 (by rw [word]; omega)).trans som.symm)
  · exact (bit_eq _ _).trans ((decide_eq_decide.2 (by rw [word]; omega)).trans eom.symm)
  · rw [fld_eq, word]; omega
  · rw [fld_eq, word]; omega
  · rw [fld_eq, word]; omega
  · rw [fld_eq, word]; omega

/-- So does the second. -/
theorem word1_fields {f : Flit} (srcn : f.srcn < 65536) (dstn : f.dstn < 65536) :
    fld f.word1 63 48 = f.srcn ∧ fld f.word1 47 32 = f.dstn ∧ fld f.word1 31 0 = 0 := by
  have word := word1_toNat f
  refine ⟨?_, ?_, ?_⟩
  · rw [fld_eq, word]; omega
  · rw [fld_eq, word]; omega
  · rw [fld_eq, word]; omega

/-- A header within its fields reads back (R264). -/
theorem ofWire_head {f : Flit} (rest : List Byte) (kind : f.kind < 16) (vc : f.vc < 8) (plen : f.plen < 256) (kep : f.kep < 256)
    (seq : f.seq < 2 ^ 32) (srcn : f.srcn < 65536) (dstn : f.dstn < 65536) :
    Flit.ofWire f.resp (f.head ++ rest) = { f with rsv := 0, data := [], wire := f.head ++ rest } := by
  obtain ⟨first, second⟩ := wordAt_head f rest
  obtain ⟨kind_, vc_, som_, eom_, plen_, low_, kep_, seq_⟩ := word0_fields kind vc plen kep seq
  obtain ⟨srcn_, dstn_, zero_⟩ := word1_fields srcn dstn
  unfold Flit.ofWire
  simp only [first, second, kind_, vc_, som_, eom_, plen_, low_, kep_, seq_, srcn_, dstn_, zero_, Nat.zero_mul, Nat.add_zero]

/-- What a sealed flit is before its CRC: header, payload and tag. -/
theorem sealed_parts (f : Flit) (key : BitVec 128) (epoch : Nat) : f.sealed key epoch = f.head ++
    (xorBytes (fitTo 224 f.data) (flitStream key (f.iv epoch) f.head) ++ (flitTag key (f.iv epoch) f.head (fitTo 224 f.data) ++
      leBytes 8 (crc64 (f.head ++ xorBytes (fitTo 224 f.data) (flitStream key (f.iv epoch) f.head) ++
        flitTag key (f.iv epoch) f.head (fitTo 224 f.data))).toNat)) := by
  unfold Flit.sealed closeFlit
  simp only [List.append_assoc]

/-- A sealed flit takes 256 bytes and its CRC is good. -/
theorem sealed_good (f : Flit) (key : BitVec 128) (epoch : Nat) :
    (f.sealed key epoch).length = 256 ∧ crcGood (f.sealed key epoch) = true := by
  constructor
  · rw [sealed_parts]
    simp [head_length]
  · exact crcGood_closeFlit _ (by simp [head_length])

end Wire

end Sys2Proof.Machine
open Sys2Proof.Machine

/-- Settles O33: bring-up, timers and keys by their branches, received flits by the lemmas on `receive`, the wire by `ofWire_head`
and `sealed_parts`. -/
theorem linkPorts : Obligations.LinkPorts := by
  unfold Obligations.LinkPorts
  refine ⟨?bringUp, ?received, ?sent, ?wire⟩
  case bringUp =>
    intro s t c p ok peer root fwm ident e z b w
    dsimp only
    refine ⟨fun admits nonzero unicast idle => ?_, fun admits => ?_, fun admits => ?_, fun train => ?_, fun hello => ?_, fun attest => ?_,
      fun keyx drawn => ?_, fun rising => ⟨?_, fun bad => ?_, fun good kind => ⟨fun waits => ?_, fun heard last => ?_⟩, fun waits last => ?_⟩,
      fun run fitted named down => ?_⟩
    · rw [exec_nodeSet]
      refine congrArg Host.Outcome.next (mailbox_done admits rfl rfl rfl rfl ?_ ?_)
      · exact Bool.or_eq_false_iff.2 ⟨beq_eq_false_iff_ne.2 nonzero, beq_eq_false_iff_ne.2 unicast⟩
      · refine if_pos (List.all_eq_true.2 fun p listed => ?_)
        have quiet := idle p (List.mem_range.1 listed)
        simp only [Bool.or_eq_true, Bool.not_eq_true', beq_iff_eq, or_assoc]
        exact quiet
    · rw [exec_admitSet]
      exact congrArg Host.Outcome.next (mailbox_done admits rfl rfl rfl rfl rfl rfl)
    · rw [exec_portReset]
      exact congrArg Host.Outcome.next (mailbox_done admits rfl rfl rfl rfl rfl rfl)
    · rw [exec_train]
      exact congrArg Host.Outcome.next (if_neg (by rw [train, bne_self_eq_false]; exact Bool.false_ne_true))
    · rw [exec_hello]
      refine congrArg Host.Outcome.next ((if_neg (by rw [hello, bne_self_eq_false]; exact Bool.false_ne_true)).trans (if_congr ?_ rfl rfl))
      rw [Bool.and_eq_true, Bool.and_eq_true, bne_iff_ne, bne_iff_ne, and_assoc]
    · rw [exec_attest]
      refine congrArg Host.Outcome.next ((if_neg (by rw [attest, bne_self_eq_false]; exact Bool.false_ne_true)).trans (if_congr ?_ rfl rfl))
      rw [Bool.and_eq_true, Bool.and_eq_true, Bool.and_eq_true, and_assoc, and_assoc]
    · rw [exec_keyx]
      unfold execKeyx
      rw [if_neg (by rw [keyx, bne_self_eq_false]; exact Bool.false_ne_true), drawn]
      cases ok <;> rfl
    · rw [exec_bringUpTimeout]
      exact congrArg Host.Outcome.next (if_pos rising)
    · rw [exec_bringUp]
      simp only [execBringUp, rising, bad, Bool.not_true, Bool.not_false, Bool.false_eq_true, if_false, if_true]
    · rw [exec_bringUp]
      simp only [execBringUp, rising, good, kind, bne_self_eq_false, Bool.not_true, Bool.false_eq_true, if_false]
      exact congrArg Host.Outcome.next (updPort_congr (if_pos waits))
    · rw [exec_bringUp]
      simp only [execBringUp, rising, good, kind, bne_self_eq_false, Bool.not_true, Bool.false_eq_true, if_false]
      refine congrArg Host.Outcome.next (updPort_congr ((if_neg (Bool.eq_false_iff.1 heard)).trans ?_))
      unfold Port.sayAgain
      simp only [last]
      rfl
    · rw [exec_bringUp]
      simp only [execBringUp, rising, Bool.not_true, Bool.false_eq_true, if_false]
      refine congrArg Host.Outcome.next (updPort_congr ((if_pos waits).trans ?_))
      unfold Port.sayAgain
      simp only [last]
    · rw [exec_portRetry]
      refine congrArg Host.Outcome.next (if_pos ?_)
      rw [run, fitted, bne_iff_ne.2 named, down]
      rfl
  case received =>
    intro s f l key epoch b
    dsimp only
    intro up
    refine ⟨fun bad => ⟨?_, ?_, ?_⟩, fun whole crc => ⟨fun kind => ⟨fun rsv srcn dstn => ?_, fun marked => ?_⟩, fun kind =>
      ⟨fun unkeyed => ⟨?_, ?_⟩, fun keyed => ⟨fun forged => ⟨?_, ?_⟩, fun opened => ⟨fun foreign => ⟨?_, ?_⟩, fun clear source here =>
        ⟨fun data some short => ⟨fun due => ?_, fun old => ?_, fun gap => ?_⟩, fun lctl => ⟨fun later => ?_, fun q last stale => ?_⟩⟩⟩⟩⟩⟩⟩
    · rw [exec_data]
      exact congrArg Host.Outcome.next (receive_bad up bad)
    · rw [exec_lctl]
      exact congrArg Host.Outcome.next (receive_bad up bad)
    · rw [exec_idle]
      exact congrArg Host.Outcome.next (receive_bad up bad)
    · rw [exec_idle]
      exact congrArg Host.Outcome.next ((receive_idle up whole crc kind).trans (if_neg (by omega)))
    · rw [exec_idle]
      exact congrArg Host.Outcome.next ((receive_idle up whole crc kind).trans (if_pos marked))
    · rw [exec_data]
      exact congrArg Host.Outcome.next (receive_unkeyed up whole crc kind unkeyed)
    · rw [exec_lctl]
      exact congrArg Host.Outcome.next (receive_unkeyed up whole crc kind unkeyed)
    · rw [exec_data]
      exact congrArg Host.Outcome.next (receive_forged up whole crc kind keyed forged)
    · rw [exec_lctl]
      exact congrArg Host.Outcome.next (receive_forged up whole crc kind keyed forged)
    · rw [exec_data]
      exact congrArg Host.Outcome.next (receive_foreign up whole crc kind keyed opened foreign)
    · rw [exec_lctl]
      exact congrArg Host.Outcome.next (receive_foreign up whole crc kind keyed opened foreign)
    · rw [exec_data]
      refine congrArg Host.Outcome.next ((receive_opened up whole crc kind keyed opened clear source here).trans ?_)
      refine (if_neg (by rw [bne_iff_ne]; exact not_not.2 data)).trans ((if_neg ?_).trans ((if_pos due).trans (if_congr ?_ rfl rfl)))
      · rw [Bool.or_eq_true, decide_eq_true_eq, decide_eq_true_eq]
        dsimp only
        omega
      · rw [Bool.and_eq_true, Bool.and_eq_true, Bool.and_eq_true, decide_eq_true_eq, decide_eq_true_eq, and_assoc, and_assoc]
        exact Iff.rfl
    · rw [exec_data]
      refine congrArg Host.Outcome.next ((receive_opened up whole crc kind keyed opened clear source here).trans ?_)
      refine (if_neg (by rw [bne_iff_ne]; exact not_not.2 data)).trans ((if_neg ?_).trans ((if_neg (Nat.ne_of_lt old)).trans (if_pos old)))
      rw [Bool.or_eq_true, decide_eq_true_eq, decide_eq_true_eq]
      dsimp only
      omega
    · rw [exec_data]
      refine congrArg Host.Outcome.next ((receive_opened up whole crc kind keyed opened clear source here).trans ?_)
      refine (if_neg (by rw [bne_iff_ne]; exact not_not.2 data)).trans ((if_neg ?_).trans ((if_neg (Nat.ne_of_gt gap)).trans
        (if_neg (Nat.not_lt.2 (Nat.le_of_lt gap)))))
      rw [Bool.or_eq_true, decide_eq_true_eq, decide_eq_true_eq]
      dsimp only
      omega
    · rw [exec_lctl]
      refine congrArg Host.Outcome.next ((receive_opened up whole crc kind keyed opened clear source here).trans ?_)
      exact (if_neg (by rw [bne_iff_ne]; exact not_not.2 lctl)).trans (if_neg (Bool.eq_false_iff.1 (not_behind later)))
    · rw [exec_lctl]
      refine congrArg Host.Outcome.next ((receive_opened up whole crc kind keyed opened clear source here).trans ?_)
      refine (if_neg (by rw [bne_iff_ne]; exact not_not.2 lctl)).trans (if_pos ?_)
      rw [last]
      exact decide_eq_true stale
  case sent =>
    intro s t p n x d z
    dsimp only
    intro up
    have open_ : ((s.port p).st != .up) = false := by rw [up]; rfl
    refine ⟨fun training => ⟨fun replays flit => ?_, fun fresh => ?_, fun fresh => ?_, fun replays => ?_⟩, fun unacked => ⟨?_, ?_⟩,
      fun training => ?_, ?_, fun single => ⟨fun drawn => ?_, fun dry => ?_⟩, fun drawn => ?_, fun dry => ?_,
      fun exchange => ⟨fun unset => ?_, fun set_ => ?_, fun room => ?_⟩⟩
    · rw [exec_flitTransmit]
      simp only [execFlitTransmit, open_, training, replays, flit, Bool.or_self, Bool.false_eq_true, if_false]
    · rw [exec_flitTransmit]
      simp only [execFlitTransmit, open_, training, fresh, Bool.or_self, Bool.false_eq_true, if_false]
      exact congrArg Host.Outcome.next (if_congr (by simp only [Bool.or_eq_true, decide_eq_true_eq, or_assoc]) rfl rfl)
    · rw [exec_lctlTimer]
      simp only [execLctlTimer, open_, training, fresh, Bool.or_self, Bool.false_eq_true, if_false, if_true]
    · rw [exec_lctlTimer]
      simp only [execLctlTimer, open_, training, replays, Bool.or_self, Bool.false_eq_true, if_false]
    · rw [exec_acknowledgementTimer]
      exact congrArg Host.Outcome.next (if_neg (by rw [open_, List.isEmpty_eq_false_iff.2 unacked]; exact Bool.false_ne_true))
    · rw [exec_retrainTimer]
      exact congrArg Host.Outcome.next (if_neg (by rw [open_, List.isEmpty_eq_false_iff.2 unacked]; exact Bool.false_ne_true))
    · rw [exec_fastRetrainComplete]
      exact congrArg Host.Outcome.next (if_neg (by rw [open_, training]; exact Bool.false_ne_true))
    · rw [exec_peerDown]
      exact congrArg Host.Outcome.next (if_pos up)
    · rw [exec_rekey]
      simp only [execRekey, open_, single, drawn, Bool.or_self, Bool.false_eq_true, if_false]
    · rw [exec_rekey]
      simp only [execRekey, open_, single, dry, Bool.or_self, Bool.false_eq_true, if_false]
    · rw [exec_rekeySwitch]
      simp only [execRekeySwitch, open_, drawn, Bool.false_eq_true, if_false, if_true]
    · rw [exec_rekeySwitch]
      simp only [execRekeySwitch, open_, dry, Bool.false_eq_true, if_false, if_true]
    · rw [exec_rekeyTimeout]
      exact congrArg Host.Outcome.next (if_pos (by rw [up, exchange, unset]; rfl))
    · rw [exec_rekeyTimeout]
      exact congrArg Host.Outcome.next (if_neg (by rw [← Option.not_isSome, set_, Bool.not_true, Bool.and_false]; exact Bool.false_ne_true))
    · rw [exec_rekeySwitch]
      have below : ¬2 ^ 32 - 1 ≤ (s.port p).tx.epoch := Nat.not_le.2 room
      simp only [execRekeySwitch, open_, exchange, below, Bool.not_true, Bool.false_eq_true, if_false]
      by_cases empty : (s.port p).replay = []
      · rw [if_pos empty, empty]
        rfl
      · rw [if_neg empty, List.isEmpty_eq_false_iff.2 empty]
        rfl
  case wire =>
    intro f key epoch
    dsimp only
    intro kind vc plen kep seq srcn dstn
    obtain ⟨length, good⟩ := sealed_good f key epoch
    have header : Flit.ofWire f.resp (f.sealed key epoch) = { f with rsv := 0, data := [], wire := f.sealed key epoch } := by
      rw [sealed_parts]
      exact ofWire_head _ kind vc plen kep seq srcn dstn
    refine ⟨length, good, header, ?_⟩
    rw [header, unseal_wire _ key epoch f.head (fitTo 224 f.data) (flitTag key (f.iv epoch) f.head (fitTo 224 f.data)) _
      (head_length f) (fitTo_length 224 _) (flitTag_length _ _ _ _) (sealed_parts f key epoch)]
    exact if_pos (beq_self_eq_true _)
end

section
/-! What a pool request that leaves keeps of a module's herds and of its own quote. -/
open Sys2Proof
namespace Sys2Proof.Machine

/-- The state is as before to a herd's announcement: the module's quote, and the peers at its ports. -/
structure SameQuote (s t : State) : Prop where
  code : t.code = s.code
  boot : t.boot = s.boot
  lc : t.lc = s.lc
  pw : t.pw = s.pw
  charters : t.charters = s.charters
  ctxs : t.ctxs = s.ctxs
  keys : t.keys = s.keys
  peers : ∀ p, (t.port p).st = (s.port p).st ∧ (t.port p).peer = (s.port p).peer

namespace SameQuote

variable {s t u : State}

/-- Nothing done changes nothing. -/
theorem refl (s : State) : SameQuote s s := ⟨rfl, rfl, rfl, rfl, rfl, rfl, rfl, fun _ => ⟨rfl, rfl⟩⟩

/-- One change after another. -/
theorem trans (first : SameQuote s t) (second : SameQuote t u) : SameQuote s u where
  code := second.code.trans first.code
  boot := second.boot.trans first.boot
  lc := second.lc.trans first.lc
  pw := second.pw.trans first.pw
  charters := second.charters.trans first.charters
  ctxs := second.ctxs.trans first.ctxs
  keys := second.keys.trans first.keys
  peers p := ⟨(second.peers p).1.trans (first.peers p).1, (second.peers p).2.trans (first.peers p).2⟩

/-- A count changes neither. -/
theorem bump (s : State) (b i n : Nat) : SameQuote s (s.bump b i n) where
  code := by simp
  boot := by simp
  lc := by simp
  pw := by simp
  charters := by simp
  ctxs := by simp
  keys := by simp
  peers p := by simp [State.port]

/-- Flits join the ones that wait. -/
theorem segment_ne (vc : Nat) (resp : Bool) (n : Nat) (som : Bool) (b : List Byte) : segment vc resp (n + 1) som b ≠ [] := by
  unfold segment
  exact List.cons_ne_nil _ _

/-- A table that is given an entry is not empty. -/
theorem set_ne_nil {α : Type} [DecidableEq α] {d v : α} (t : Tab α) (k : Nat) (listed : v ≠ d) : Tab.set d t k v ≠ [] := by
  intro empty
  have read := Tab.get_set_listed t k listed
  rw [empty] at read
  exact listed read.symm

/-- A port with a message to send is not one at reset. -/
theorem enqueue_listed (p : Port) (vc : Nat) (resp : Bool) (b : List Byte) : p.enqueue vc resp b ≠ {} := by
  intro same
  have empty : (p.enqueue vc resp b).txQ = [] := by rw [same]
  refine set_ne_nil _ _ ?_ empty
  rw [Ne, List.append_eq_nil_iff, not_and_or]
  exact Or.inr (segment_ne vc resp _ true b)

/-- A message given to a port changes neither. -/
theorem sendMsg (s : State) (p vc : Nat) (resp : Bool) (b : List Byte) : SameQuote s (s.sendMsg p vc resp b) where
  code := rfl
  boot := rfl
  lc := rfl
  pw := rfl
  charters := rfl
  ctxs := rfl
  keys := rfl
  peers q := by
    by_cases same : q = p
    · subst same
      have read : (s.sendMsg q vc resp b).port q = (s.port q).enqueue vc resp b :=
        Tab.get_set_listed _ _ (enqueue_listed _ _ _ _)
      rw [read]
      exact ⟨rfl, rfl⟩
    · have read : (s.sendMsg p vc resp b).port q = s.port q := Tab.get_set_ne _ _ _ _ same
      rw [read]
      exact ⟨rfl, rfl⟩

/-- A pool request that leaves changes neither. -/
theorem poolSend (s : State) (r : PoolReq) : SameQuote s (s.poolSend r) := (bump s _ _ _).trans (sendMsg _ _ _ _ _)

/-- The requests under way, and their number, are neither. -/
theorem requests (s : State) (l : List PoolReq) (n : Nat) : SameQuote s { s with poolReqs := l, reqNum := n } :=
  ⟨rfl, rfl, rfl, rfl, rfl, rfl, rfl, fun _ => ⟨rfl, rfl⟩⟩

/-- Neither do those that leave once they can. -/
theorem unpark (s : State) : SameQuote s s.unpark := by
  unfold State.unpark
  generalize s.poolReqs.filter (fun r => r.waits != 0) = waiting
  induction waiting generalizing s with
  | nil => exact refl s
  | cons r rest ih =>
    rw [List.foldl_cons]
    refine SameQuote.trans ?_ (ih _)
    cases s.leaveTag r with
    | some tag => exact (requests s _ s.reqNum).trans (poolSend _ _)
    | none =>
      dsimp only
      split
      · exact ⟨rfl, rfl, rfl, rfl, rfl, rfl, rfl, fun _ => ⟨rfl, rfl⟩⟩
      · exact refl s

/-- A word of a store asked for changes neither. -/
theorem reserve (s : State) (x : Store) (ctx hid m old : Nat) : SameQuote s (s.reserve x ctx hid m old) := by
  unfold State.reserve State.patom
  split
  · exact refl s
  · exact (requests s _ _).trans (unpark _)

/-- The peers at the ports are the same. -/
theorem portPeers (same : SameQuote s t) : t.portPeers = s.portPeers := by
  unfold State.portPeers
  simp only [(same.peers _).1, (same.peers _).2]

/-- The quote is the same. -/
theorem ownQuote (same : SameQuote s t) (chd : BitVec 256) : t.ownQuote chd = s.ownQuote chd := by
  have charter (chd : BitVec 256) : t.charter? chd = s.charter? chd := by unfold State.charter?; rw [same.charters]
  have ctx (c : Nat) : t.ctx c = s.ctx c := by unfold State.ctx; rw [same.ctxs]
  have image (c : Nat) : t.charterOf c = s.charterOf c := by unfold State.charterOf; rw [ctx, charter]
  have quoted : t.quoteCtx = s.quoteCtx := by funext c; unfold State.quoteCtx; rw [ctx, image]
  have bound : t.boundFrom chd 0 = s.boundFrom chd 0 := by unfold State.boundFrom State.ctxLive; simp only [same.ctxs, ctx]
  have configured : t.configWord = s.configWord := by unfold State.configWord; rw [same.pw, same.code]
  have measured : t.measure = s.measure := by
    funext i
    unfold State.measure
    rw [configured, same.boot, same.lc, same.charters]
  have body : t.quoteBody chd 0 0 = s.quoteBody chd 0 0 := by
    unfold State.quoteBody
    rw [charter, bound, quoted, measured]
  unfold State.ownQuote State.devSig State.kslot
  rw [body, same.keys]

end SameQuote

end Sys2Proof.Machine
end

section
/-! O34: herds: forming, joining, membership records, liveness and digests. -/
open Sys2Proof
namespace Sys2Proof.Machine

/-- A joining member of a herd reserves its index in the store and announces itself. -/
def State.joins (t : State) (h : Herd) (x : Store) (y : Nat) : State :=
  let w : Herd := { h with self := y, phase := .joining, chain := h.chain0 }
  let u : State := { t with herds := t.herds ++ [w] }
  (u.reserve x h.ctx h.hid y (u.coordWord x (2 + y / 64))).announce w y u.portPeers (u.ownQuote h.chd)

/-- It announces what it is once the request has left, too. -/
theorem joins_eq (t : State) (h : Herd) (x : Store) (y : Nat) : t.joins h x y =
    (let w : Herd := { h with self := y, phase := .joining, chain := h.chain0 }
     let u : State := { t with herds := t.herds ++ [w] }
     let v := u.reserve x h.ctx h.hid y (u.coordWord x (2 + y / 64))
     v.announce w y v.portPeers (v.ownQuote h.chd)) := by
  have same := SameQuote.reserve { t with herds := t.herds ++ [{ h with self := y, phase := .joining, chain := h.chain0 }] } x h.ctx h.hid y
    (State.coordWord { t with herds := t.herds ++ [{ h with self := y, phase := .joining, chain := h.chain0 }] } x (2 + y / 64))
  dsimp only
  rw [same.portPeers, same.ownQuote]
  rfl

section Phases

variable {s t : State} {hid : BitVec 32} {m : HerdFrom} {h : Herd} {qt : QuoteIn} {peers : List (Nat × Nat)}

/-- A herd that runs neither forms nor joins. -/
theorem not_forming_of_runs (runs : h.runs = true) : (h.phase == .forming) = false := by
  unfold Herd.runs at runs
  cases phase : h.phase with
  | forming => rw [phase] at runs; exact absurd runs (by decide)
  | joining => rfl
  | live => rfl
  | holding => rfl
  | ended => rfl

/-- An announcement whose quote fails a check changes nothing. -/
theorem exec_herdAnnounce_absent (known : s.herd? hid.toNat = some h) (bad : s.quoteGood h.chd (h.nodeOf m.m) qt = false) :
    exec (.herdAnnounce hid m qt peers) s = .next s := by
  rw [exec_herdAnnounce]
  simp only [execHerdAnnounce, known, bad, Bool.not_false, Bool.or_true, if_true]

/-- One that a forming herd's Bellwether hears of an INIT member. -/
theorem exec_herdAnnounce_heard (ready : s.dev = .ready) (known : s.herd? hid.toNat = some h) (forming : h.phase = .forming)
    (good : s.quoteGood h.chd (h.nodeOf m.m) qt = true) (bell : h.self = h.firstBell) (init : h.inits.contains m.m.val = true) :
    exec (.herdAnnounce hid m qt peers) s = .next (s.hear hid.toNat m.m peers) := by
  rw [exec_herdAnnounce]
  simp only [execHerdAnnounce, known, ready, good, forming, bell, init, bne_self_eq_false, beq_self_eq_true, Bool.not_true,
    Bool.or_self, Bool.and_self, Bool.false_eq_true, if_false, if_true]

/-- One that another member of a forming herd has not heard: it is passed on. -/
theorem exec_herdAnnounce_passed (ready : s.dev = .ready) (known : s.herd? hid.toNat = some h) (forming : h.phase = .forming)
    (good : s.quoteGood h.chd (h.nodeOf m.m) qt = true) (bell : h.self ≠ h.firstBell) (other : m.m.val ≠ h.self)
    (fresh : h.heard.contains m.m.val = false) :
    exec (.herdAnnounce hid m qt peers) s =
      .next ((s.updHerd h.hid fun h => { h with heard := h.heard ++ [m.m.val] }).announce h m.m peers qt.quote) := by
  rw [exec_herdAnnounce]
  simp only [execHerdAnnounce, known, ready, good, forming, beq_eq_false_iff_ne.2 bell, bne_iff_ne.2 bell, bne_iff_ne.2 other, fresh,
    bne_self_eq_false, beq_self_eq_true, Bool.not_true, Bool.not_false, Bool.or_self, Bool.and_self, Bool.and_false, Bool.false_and,
    Bool.false_eq_true, if_false, if_true]

/-- In a herd that runs an announcement is a report of ports, or a joiner's. -/
theorem exec_herdAnnounce_runs (ready : s.dev = .ready) (known : s.herd? hid.toNat = some h) (runs : h.runs = true)
    (good : s.quoteGood h.chd (h.nodeOf m.m) qt = true) :
    exec (.herdAnnounce hid m qt peers) s = .next
      (if h.latest.live.contains m.m.val || decide (h.nodes.length ≤ m.m.val) then
        s.ofEpoch h m.epoch.toNat fun s => s.portReport h m.m peers else s.hearJoiner h m.m peers qt.quote) := by
  rw [exec_herdAnnounce]
  simp only [execHerdAnnounce, known, ready, good, not_forming_of_runs runs, runs, bne_self_eq_false, Bool.not_true, Bool.or_self,
    Bool.false_and, Bool.false_eq_true, if_false, if_true]

/-- A port that no link of the latest record lists is news to the Bellwether. -/
theorem portReport_news {j : Nat} (bell : h.latest.bell = h.self) (live : h.latest.live.contains j = true)
    (news : ∃ e ∈ h.ends peers, ∀ l ∈ h.latest.links, l ≠ (j, e.1, e.2)) :
    s.portReport h j peers = s.newLinks h.hid (h.relink j (h.ends peers)) := by
  obtain ⟨e, listed, unlinked⟩ := news
  have unknown : ((h.ends peers).all ((h.latest.links.filter fun l => l.1 == j).map fun l => l.2).contains) = false := by
    refine Bool.eq_false_iff.2 fun all => ?_
    obtain ⟨l, kept, same⟩ := List.mem_map.1 (List.contains_iff_mem.1 (List.all_eq_true.1 all e listed))
    obtain ⟨linked, own⟩ := List.mem_filter.1 kept
    exact unlinked l linked (by rw [← same, ← beq_iff_eq.1 own])
  unfold State.portReport
  simp only [bell, live, unknown, bne_self_eq_false, Bool.not_true, Bool.false_and, Bool.or_self, Bool.false_eq_true, if_false]

/-- A join with a good plan: what the driver says is covered, then the store. -/
theorem exec_herdJoin_planned {c : MbxCall} {b memb : List Byte} {reserved covered : Bool}
    (admits : s.Admits c 0x34 [lowMask 12, allMask, lowMask 12] [(0, argCtx (s.argsOf c) 0)] [argCtx (s.argsOf c) 0])
    (plan : s.taken.readPlan (argCtx (s.argsOf c) 0) (argAt (s.argsOf c) 1).toNat = .ok t (h, b, memb)) (good : t.planBad h b memb = false)
    (named : h.nodes.idxOf t.node = fld (argAt (s.argsOf c) 2) 11 0) (new : h.inits.contains (fld (argAt (s.argsOf c) 2) 11 0) = false)
    (room : t.herds.length < 4) :
    exec (.herdJoin c reserved covered) s = .next (if !covered then t.answers c stNocover []
      else match (t.store? h.chd 0 (w64 h.hid)).filter fun x => (t.storePort x.pmask).isSome with
        | none => t.refuses c 0
        | some x => (t.joins h x (fld (argAt (s.argsOf c) 2) 11 0)).waits c (.join h.hid) [(0, argCtx (s.argsOf c) 0)]) := by
  have fits : ¬(t.planBad h b memb || h.nodes.idxOf t.node != fld (argAt (s.argsOf c) 2) 11 0 ||
      h.inits.contains (fld (argAt (s.argsOf c) 2) 11 0)) = true := by
    rw [good, named, new, bne_self_eq_false]
    exact Bool.false_ne_true
  rw [exec_herdJoin]
  refine congrArg Host.Outcome.next ?_
  cases covered with
  | false =>
      refine mailbox_done admits rfl rfl rfl rfl rfl ?_
      dsimp only
      rw [plan]
      dsimp only
      rw [if_neg fits, if_neg (Nat.not_le.2 room)]
      rfl
  | true =>
      rw [if_neg (by decide)]
      cases store : (t.store? h.chd 0 (w64 h.hid)).filter fun x => (t.storePort x.pmask).isSome with
      | none =>
          refine mailbox_refused admits rfl rfl rfl rfl rfl ?_
          dsimp only
          rw [plan]
          dsimp only
          rw [if_neg fits, if_neg (Nat.not_le.2 room), store]
          rfl
      | some x =>
          refine mailbox_waits admits rfl rfl rfl rfl rfl ?_
          dsimp only
          rw [plan]
          dsimp only
          rw [if_neg fits, if_neg (Nat.not_le.2 room), store]
          rfl

/-- A transfer at a member of a herd that does not join. -/
theorem exec_joinTransfer_member (ready : s.dev = .ready) (known : s.herd? hid.toNat = some h) (member : h.phase ≠ .joining)
    (root : Option (BitVec 256)) :
    exec (.joinTransfer hid m root) s = .next (match root, h.join with
      | none, none =>
          if !h.runs || h.latest.live.contains m.m.val || decide (h.nodes.length ≤ m.m.val) then s
          else s.ofEpoch h m.epoch.toNat fun s =>
            let t := s.learn.t + b2n s.learn.committed
            let links := s.linksTo h m.m
            let s := s.nameJoin h.hid m.m t (h.donorsOf m.m links) links
            if h.rcd.bell = h.self then
              (match s.herd? h.hid with
              | some x => ((x.rcd.live.filter (· != x.self)) ++ [m.m.val]).foldl (fun s d => s.toMember x d (joinOrder x m.m t)) s
              | none => s)
            else s
      | some r, some (j, _) =>
          if j != m.m.val then s
          else s.ofEpoch h m.epoch.toNat fun s => if r == h.root then
            (if h.rcd.bell = h.self then
              s.newRecord h.hid ((List.range h.nodes.length).filter fun x => x == j || h.latest.live.contains x)
                (h.reached h.latest.live h.latest.links) (h.latest.links ++ s.linksTo h j)
            else s)
          else s.endJoin h
      | _, _ => s) := by
  rw [exec_joinTransfer]
  unfold execJoinTransfer
  rw [known]
  dsimp only
  exact congrArg Host.Outcome.next ((if_neg (by rw [ready, bne_self_eq_false]; exact Bool.false_ne_true)).trans
    (if_neg (by rw [beq_iff_eq]; exact member)))

end Phases

section Records

variable {s : State} {hid : BitVec 32} {r : MemRec} {h : Herd}

/-- A record at a member that neither forms nor joins. -/
theorem exec_membershipRecord_member (ready : s.dev = .ready) (known : s.herd? hid.toNat = some h) (formed : h.phase ≠ .forming)
    (member : h.phase ≠ .joining) :
    exec (.membershipRecord hid r) s = .next (
      if r.live.isEmpty && r.mep == h.rcd.epoch && r.epoch == h.rcd.epoch then s.leaveHerd hid.toNat
      else if r.mep != h.rcd.epoch || decide (r.epoch ≤ h.rcd.epoch) then
        s.updHerd hid.toNat fun h => { h with staleMsgs := h.staleMsgs + 1 }
      else if !r.live.contains h.self then s.leaveHerd hid.toNat
      else if r.live.length < h.nmin then s.leaveHerd hid.toNat
      else if r.swap < s.now.toNat + 1000000 then s.quitHerd hid.toNat
      else s.updHerd hid.toNat fun h => { h with next := some { r with mep := 0 } }) := by
  rw [exec_membershipRecord]
  simp only [execMembershipRecord, known, ready, beq_eq_false_iff_ne.2 formed, beq_eq_false_iff_ne.2 member, bne_iff_ne.2 member,
    bne_self_eq_false, Bool.true_and, Bool.false_eq_true, if_false]

/-- One of a later epoch, sent under the epoch in force. -/
theorem exec_membershipRecord_later (ready : s.dev = .ready) (known : s.herd? hid.toNat = some h) (formed : h.phase ≠ .forming)
    (member : h.phase ≠ .joining) (current : r.mep = h.rcd.epoch) (later : h.rcd.epoch < r.epoch) :
    exec (.membershipRecord hid r) s = .next (
      if !r.live.contains h.self then s.leaveHerd hid.toNat
      else if r.live.length < h.nmin then s.leaveHerd hid.toNat
      else if r.swap < s.now.toNat + 1000000 then s.quitHerd hid.toNat
      else s.updHerd hid.toNat fun h => { h with next := some { r with mep := 0 } }) := by
  have ended : ¬(r.live.isEmpty && r.mep == h.rcd.epoch && r.epoch == h.rcd.epoch) = true := by
    rw [beq_eq_false_iff_ne.2 (Nat.ne_of_gt later), Bool.and_false]
    exact Bool.false_ne_true
  have old : ¬(r.mep != h.rcd.epoch || decide (r.epoch ≤ h.rcd.epoch)) = true := by
    rw [current, bne_self_eq_false, decide_eq_false (Nat.not_le.2 later)]
    exact Bool.false_ne_true
  rw [exec_membershipRecord_member ready known formed member, if_neg ended, if_neg old]

end Records

end Sys2Proof.Machine
open Sys2Proof.Machine

/-- Settles O34: plans and joins by the mailbox's rule, announcements, records and transfers by the lemmas above, the rest by their
branches. -/
theorem herds : Obligations.Herds := by
  unfold Obligations.Herds
  refine ⟨?forming, ?records, ?digests⟩
  case forming =>
    intro s t c hid m h x b memb peers root given j k k1 qt z
    dsimp only
    refine ⟨fun admits plan good room other => ?_, fun admits plan good named new room => ⟨?_, fun none => ?_, fun some up => ?_⟩,
      fun ready known => ⟨fun forming => ⟨fun quote => ⟨fun bell init => ?_, fun member other fresh => ?_⟩, ?_⟩, fun bad => ?_,
        fun runs quote => ⟨fun current bell live news => ?_, fun live stale => ?_, fun joiner listed => ?_⟩,
        fun joining => ⟨?_, ?_, fun rooted => ?_⟩, fun member joins other => ?_, fun member idle runs joiner listed current =>
          ⟨fun other => ?_, fun bell found => ?_⟩, fun member joins same current => ⟨fun differs => ?_, fun agrees bell => ?_⟩⟩⟩
    · rw [exec_herdForm]
      refine congrArg Host.Outcome.next (mailbox_waits admits rfl rfl rfl rfl rfl ?_)
      have follows : ¬(decide (Herd.firstBell { h with self := h.nodes.idxOf t.node } = h.nodes.idxOf t.node) &&
          h.inits.contains (h.nodes.idxOf t.node)) = true := by
        rw [decide_eq_false other]
        exact Bool.false_ne_true
      dsimp only
      rw [plan]
      dsimp only
      rw [if_neg (Bool.eq_false_iff.1 good), if_neg (Nat.not_le.2 room), if_neg follows]
      rfl
    · rw [exec_herdJoin_planned admits plan good named new room]
      rfl
    · rw [exec_herdJoin_planned admits plan good named new room, none]
      rfl
    · rw [exec_herdJoin_planned admits plan good named new room, some, Option.filter_some, if_pos up]
      exact congrArg (fun v => Host.Outcome.next (State.waits v c _ _)) (joins_eq t h z _)
    · exact exec_herdAnnounce_heard ready known forming quote bell init
    · exact exec_herdAnnounce_passed ready known forming quote member other fresh
    · rw [exec_formationTimeout]
      simp only [execFormationTimeout, known, ready, forming, bne_self_eq_false, Bool.or_self, Bool.false_eq_true, if_false]
      exact congrArg Host.Outcome.next (if_congr (by rw [Bool.and_eq_true, beq_iff_eq, decide_eq_true_eq]) rfl rfl)
    · exact exec_herdAnnounce_absent known bad
    · rw [exec_herdAnnounce_runs ready known runs quote, if_pos (by rw [live]; rfl), ofEpoch_current current, portReport_news bell live news]
    · rw [exec_herdAnnounce_runs ready known runs quote, if_pos (by rw [live]; rfl)]
      exact congrArg Host.Outcome.next (if_neg (by rw [beq_iff_eq]; exact stale))
    · rw [exec_herdAnnounce_runs ready known runs quote, if_neg (by rw [joiner, decide_eq_false (Nat.not_le.2 listed)]; exact Bool.false_ne_true)]
    · rw [exec_joinAbandon]
      simp only [execJoinAbandon, known, ready, joining, bne_self_eq_false, beq_self_eq_true, Bool.false_eq_true, if_false, if_true]
    · rw [exec_joinTransfer]
      simp only [execJoinTransfer, known, ready, joining, bne_self_eq_false, beq_self_eq_true, Bool.false_eq_true, if_false, if_true]
    · rw [exec_joinTransfer]
      simp only [execJoinTransfer, known, ready, joining, rooted, State.settle, bne_self_eq_false, beq_self_eq_true, Bool.false_eq_true,
        if_false, if_true]
    · rw [exec_joinAbandon]
      simp only [execJoinAbandon, known, ready, beq_eq_false_iff_ne.2 member, joins, State.endJoin, other, bne_self_eq_false,
        Bool.false_eq_true, if_false, if_true]
      rfl
    · rw [exec_joinTransfer_member ready known member, idle]
      have joiner_ : ¬(!h.runs || h.latest.live.contains m.m.val || decide (h.nodes.length ≤ m.m.val)) = true := by
        rw [runs, joiner, decide_eq_false (Nat.not_le.2 listed)]
        exact Bool.false_ne_true
      exact congrArg Host.Outcome.next ((if_neg joiner_).trans ((ofEpoch_current current).trans (if_neg other)))
    · rw [exec_joinTransfer_member ready known member, idle]
      have joiner_ : ¬(!h.runs || h.latest.live.contains m.m.val || decide (h.nodes.length ≤ m.m.val)) = true := by
        rw [runs, joiner, decide_eq_false (Nat.not_le.2 listed)]
        exact Bool.false_ne_true
      refine congrArg Host.Outcome.next ((if_neg joiner_).trans ((ofEpoch_current current).trans ((if_pos bell).trans ?_)))
      unfold State.nameJoin
      rw [found]
    · rw [exec_joinTransfer_member ready known member, joins]
      refine congrArg Host.Outcome.next ((if_neg (by rw [same, bne_self_eq_false]; exact Bool.false_ne_true)).trans
        ((ofEpoch_current current).trans (if_neg (by rw [beq_iff_eq]; exact differs))))
    · rw [exec_joinTransfer_member ready known member, joins]
      exact congrArg Host.Outcome.next ((if_neg (by rw [same, bne_self_eq_false]; exact Bool.false_ne_true)).trans
        ((ofEpoch_current current).trans ((if_pos (by rw [beq_iff_eq]; exact agrees)).trans (if_pos bell))))
  case records =>
    intro s hid m b src h r reached e p
    dsimp only
    intro ready known
    have up : (s.dev == .ready) = true := by rw [ready]; rfl
    refine ⟨fun forming => ?_, fun formed member => ⟨fun stale => ?_, fun current none same => ?_, fun current later =>
      ⟨fun out => ?_, fun in_ => ?_⟩⟩, fun next live member => ?_, fun runs => ⟨fun current => ?_, fun stale => ?_, fun parent => ?_,
        fun bell other live => ⟨fun missing => ?_, fun own current => ?_⟩, fun bell => ?_, fun other current named => ?_,
        fun other above => ?_⟩⟩
    · rw [exec_membershipRecord]
      simp only [execMembershipRecord, known, ready, forming, bne_self_eq_false, beq_self_eq_true, Bool.false_eq_true, if_false, if_true]
    · have ended : (r.live.isEmpty && r.mep == h.rcd.epoch && r.epoch == h.rcd.epoch) = false := by
        rcases stale with mep | older | ⟨-, members⟩
        · rw [beq_eq_false_iff_ne.2 mep, Bool.and_false, Bool.false_and]
        · rw [beq_eq_false_iff_ne.2 (Nat.ne_of_lt older), Bool.and_false]
        · rw [List.isEmpty_eq_false_iff.2 members, Bool.false_and, Bool.false_and]
      have old : (r.mep != h.rcd.epoch || decide (r.epoch ≤ h.rcd.epoch)) = true := by
        rcases stale with mep | older | ⟨same, -⟩
        · rw [bne_iff_ne.2 mep, Bool.true_or]
        · rw [decide_eq_true (Nat.le_of_lt older), Bool.or_true]
        · rw [decide_eq_true (Nat.le_of_eq same), Bool.or_true]
      rw [exec_membershipRecord_member ready known formed member, if_neg (Bool.eq_false_iff.1 ended), if_pos old]
    · rw [exec_membershipRecord_member ready known formed member, if_pos (by rw [none, current, same]; simp)]
    · rw [exec_membershipRecord_later ready known formed member current later, if_pos (by rw [out]; rfl)]
    · rw [exec_membershipRecord_later ready known formed member current later, if_neg (by rw [in_]; decide)]
    · have stays : (h.phase == .joining) = false := beq_eq_false_iff_ne.2 member
      rw [exec_membershipSwap]
      simp only [execMembershipSwap, known, up, next, stays, live, Bool.not_false, Bool.and_true, Bool.or_false, Bool.false_eq_true,
        decide_true, if_false, if_true]
    · rw [exec_livenessReport]
      simp only [execLivenessReport, known, ready, runs, bne_self_eq_false, Bool.not_true, Bool.or_self, Bool.false_eq_true, if_false]
      exact congrArg Host.Outcome.next (ofEpoch_current current)
    · rw [exec_livenessReport]
      simp only [execLivenessReport, known, ready, runs, bne_self_eq_false, Bool.not_true, Bool.or_self, Bool.false_eq_true, if_false]
      exact congrArg Host.Outcome.next (if_neg (by rw [beq_iff_eq]; exact stale))
    · rw [exec_livenessReport]
      simp only [execLivenessReport, known, ready, runs, parent, bne_self_eq_false, Bool.not_true, Bool.or_self, Bool.false_eq_true, if_false]
    · rw [exec_memberMissing]
      simp only [execMemberMissing, known, up, runs, bell, bne_iff_ne.2 other, live, decide_eq_true missing, beq_self_eq_true, Bool.and_self,
        if_true]
    · rw [exec_withdraw]
      simp only [execWithdraw, known, up, runs, bell, own, bne_iff_ne.2 other, live, beq_self_eq_true, Bool.and_self, if_true]
      exact congrArg Host.Outcome.next (ofEpoch_current current)
    · rw [exec_herdBeacon]
      simp only [execHerdBeacon, known, ready, runs, bell, bne_self_eq_false, Bool.not_true, Bool.or_self, Bool.false_eq_true, if_false,
        if_true]
    · rw [exec_herdBeacon]
      simp only [execHerdBeacon, known, ready, runs, bne_self_eq_false, Bool.not_true, Bool.or_self, Bool.false_eq_true, if_false]
      refine congrArg Host.Outcome.next ((ofEpoch_current current).trans (if_neg ?_))
      rw [named, bne_self_eq_false, beq_eq_false_iff_ne.2 other]
      exact Bool.false_ne_true
    · have lowest : (reached.any fun m => decide (m < h.self)) = false :=
        List.any_eq_false.2 fun m listed => by rw [decide_eq_true_eq]; exact Nat.not_lt.2 (above m listed)
      rw [exec_bellwetherTakeover]
      simp only [execBellwetherTakeover, known, ready, runs, beq_eq_false_iff_ne.2 other, lowest, bne_self_eq_false, Bool.not_true,
        Bool.or_self, Bool.false_eq_true, if_false]
  case digests =>
    intro s hid h vals t kc root v
    dsimp only
    intro ready
    refine ⟨fun bound due named => ⟨fun between => ?_, fun turn other => ?_⟩, fun known runs bell own most => ?_⟩
    · rw [exec_rootDigest]
      simp only [execRootDigest, bound, due, ready, named, between, bne_self_eq_false, Bool.or_self, Bool.false_eq_true, if_false, ne_eq,
        not_false_eq_true, if_true]
    · rw [exec_rootDigest]
      simp only [execRootDigest, bound, due, ready, named, turn, other, bne_self_eq_false, Bool.or_self, Bool.false_eq_true, if_false, ne_eq,
        not_true_eq_false]
    · have given : (h.digests.all fun d => d.1 != h.self) = false := by
        obtain ⟨d, listed, mine⟩ := own
        exact Bool.eq_false_iff.2 fun all => bne_iff_ne.1 (List.all_eq_true.1 all d listed) mine
      rw [exec_digestDecide]
      simp only [execDigestDecide, known, ready, runs, bell, given, most, bne_self_eq_false, Bool.not_true, Bool.or_self, Bool.false_eq_true,
        if_false]
end

section
/-! O35: collective channels: binding, descriptors, messages, acknowledgements and scalar records. -/
open Sys2Proof
namespace Sys2Proof.Machine

section Descriptors

variable {s t : State} {ch op : Nat} {h : Herd} {b : List Byte}

/-- With no descriptor in progress a message names none, and every message that waits goes on waiting. -/
theorem meetWaiting_idle (idle : (s.coll ch).prog = []) (ms : List CollMsg) : s.meetWaiting ch h ms = s := by
  induction ms with
  | nil => rfl
  | cons m ms ih =>
    have unnamed : s.named ch m = none := by unfold State.named; rw [idle]; rfl
    unfold State.meetWaiting
    rw [unnamed]
    exact ih

/-- What an idle channel does in its entry once its fence has reached the next descriptor: the descriptor, as it is read. -/
theorem takeDesc_read (runs : s.collHerd ch = some h) (entry : s.slotNow = ch) (idle : (s.coll ch).prog = [])
    (may : s.mayWait (s.coll ch).ctx (s.coll ch).pf = true)
    (reached : (s.coll ch).taken + 1 ≤ (s.fence (s.coll ch).pf).val.toNat)
    (read : s.readVa 726 (s.coll ch).ctx ((s.coll ch).qva + 64 * (((s.coll ch).taken + 1) % 256)) 64 = .ok t b) :
    s.takeDesc ch op =
      (let k := s.coll ch
       let q := k.taken + 1
       let d := collDesc q b
       if t.collBad k.ctx d b then t.lose k.ctx 0x02
       else if d.op != op || (op == 0 && t.expHeld ch h) then t.collSettle ch h
       else if d.lrn && (t.learn.t == 0 || t.learn.final || t.nextStep d || t.learn.expDue || t.captureHeld) then t.collSettle ch h
       else if !t.maySignal k.ctx d.fid then t.lose k.ctx 0x06
       else if !t.meetRoom d then t.collSettle ch h
       else
         let s := t.updColl ch fun k => { k with taken := q, prog := k.prog ++ [d] }
         let s := if op = 0 && s.learn.bound && s.learn.ctx == k.ctx then s.updLearn fun l => { l with expDue := false } else s
         let s := if op = 3 then s.startSums ch h d else s.startUnits ch h q d.units
         (s.meetWaiting ch h (s.coll ch).rxBuf).collSettle ch h) := by
  have here : (s.collHerd ch).filter (fun _ => s.slotNow == ch) = some h := by
    rw [runs, Option.filter_some, if_pos (beq_iff_eq.2 entry)]
  unfold State.takeDesc
  rw [here]
  dsimp only
  rw [meetWaiting_idle idle, idle, List.foldl_nil, idle, if_neg (by decide), if_neg (by rw [may]; decide),
    if_neg (Nat.not_lt.2 reached), read]
  rfl

/-- A legal one that no pass, fence or hold keeps back is taken, and its units start. -/
theorem takeDesc_taken (runs : s.collHerd ch = some h) (entry : s.slotNow = ch) (idle : (s.coll ch).prog = [])
    (may : s.mayWait (s.coll ch).ctx (s.coll ch).pf = true)
    (reached : (s.coll ch).taken + 1 ≤ (s.fence (s.coll ch).pf).val.toNat)
    (read : s.readVa 726 (s.coll ch).ctx ((s.coll ch).qva + 64 * (((s.coll ch).taken + 1) % 256)) 64 = .ok t b)
    (legal : t.collBad (s.coll ch).ctx (collDesc ((s.coll ch).taken + 1) b) b = false)
    (row : (collDesc ((s.coll ch).taken + 1) b).op = op) (plain : (collDesc ((s.coll ch).taken + 1) b).lrn = false)
    (free : t.expHeld ch h = false) (signal : t.maySignal (s.coll ch).ctx (collDesc ((s.coll ch).taken + 1) b).fid = true)
    (room : t.meetRoom (collDesc ((s.coll ch).taken + 1) b) = true) :
    s.takeDesc ch op =
      (let k := s.coll ch
       let q := k.taken + 1
       let d := collDesc q b
       let v := t.updColl ch fun k => { k with taken := q, prog := k.prog ++ [d] }
       let v := if op = 0 ∧ v.learn.bound = true ∧ v.learn.ctx = k.ctx then v.updLearn fun l => { l with expDue := false } else v
       let v := if op = 3 then v.startSums ch h d else v.startUnits ch h q d.units
       (v.meetWaiting ch h (v.coll ch).rxBuf).collSettle ch h) := by
  have due : ¬((collDesc ((s.coll ch).taken + 1) b).op != op || (op == 0 && t.expHeld ch h)) = true := by
    rw [row, free, bne_self_eq_false, Bool.and_false]
    decide
  rw [takeDesc_read runs entry idle may reached read]
  dsimp only
  rw [if_neg (Bool.eq_false_iff.1 legal), if_neg due, if_neg (by rw [plain, Bool.false_and]; decide), if_neg (by rw [signal]; decide),
    if_neg (by rw [room]; decide)]
  simp only [Bool.and_eq_true, decide_eq_true_eq, beq_iff_eq, and_assoc]

/-- Each row takes the next descriptor of its operation, where no unit waits for an all-gather. -/
theorem exec_collRow {ch : Fin 16} (op : Fin 4) (runs : s.collHerd ch = some h) (gathered : (s.coll ch).ag = []) :
    (if op = 0 then exec (.expmax ch) s else if op = 1 then exec (.collectiveRsum ch) s
      else if op = 2 then exec (.agather ch) s else exec (.allsum ch) s) = .next (s.takeDesc ch op.val) := by
  have gather : exec (.agather ch) s = .next (s.takeDesc ch 2) := by
    rw [exec_agather]
    unfold execAgather
    rw [runs]
    dsimp only
    rw [gathered]
    rfl
  match op with
  | 0 => rfl
  | 1 => rfl
  | 2 => exact gather
  | 3 => rfl

end Descriptors

section Messages

variable {s : State} {m : CollMsg} {h : Herd}

/-- A message of the epoch for this member, on a channel that runs, arrives there. -/
theorem exec_collectiveMessage_arrives (named : s.msgHerd m = some h) (member : h.phase ≠ .joining) (current : m.mep = h.rcd.epoch)
    (own : h.forWhom m = h.self) (coll : onColl m = true) (runs : (s.collHerd m.ch).isSome = true) :
    exec (.collectiveMessage m) s = .next (s.collArrive h m) := by
  rw [exec_collectiveMessage]
  unfold execCollectiveMessage
  rw [named]
  dsimp only
  rw [if_neg (by rw [beq_iff_eq]; exact member), ofEpoch_current current, if_neg (by rw [own, bne_self_eq_false]; decide), if_pos coll,
    if_pos runs]

/-- One that is not a duplicate: by its code. -/
theorem collArrive_new (new : Tab.get 0 (s.coll m.ch).rxSeq m.src ≤ m.seq) :
    s.collArrive h m = if m.opc = 0x23 then s
      else if m.opc = 0x47 then (if s.learn.agFull then s else (s.collTake h m).takeResent m)
      else if s.isShard m.ch m then (if s.learn.agFull || !s.holdRoom then s else (s.collTake h m).shardUnit m.ch h m)
      else match (s.named m.ch m).filter fun _ => s.slotNow == m.ch with
        | some d => if !s.meetRoom d then s else ((s.collTake h m).meet m.ch h d m).collSettle m.ch h
        | none => if s.waitRoom m.ch m then (s.collTake h m).updColl m.ch fun k => { k with rxBuf := k.rxBuf ++ [m] } else s := by
  unfold State.collArrive
  rw [if_neg (Nat.not_lt.2 new)] <;> rfl

/-- A unit of the learning shard is of the all-gather's code. -/
theorem opc_of_isShard {ch : Nat} (shard : s.isShard ch m = true) : m.opc = 0x22 := by
  unfold State.isShard at shard
  simp only [Bool.and_eq_true, beq_iff_eq] at shard
  exact shard.1.1.1.1.1

end Messages

section Scalars

variable {s : State} {ch : Fin 16} {src : Fin 4096} {h : Herd} {r : GateRec}

/-- A scalar record that the channel can take: this member's own, or that of a child. -/
theorem exec_scalarRecord_due (runs : s.collHerd ch = some h) (bound : s.learn.bound = true) (binding : s.learn.ctx = (s.coll ch).ctx)
    (open_ : s.learn.t ≠ 0) (judged : s.learn.final = false) (fresh : (s.coll ch).scalHeard.contains src.val = false)
    (room : s.holdRoom (512 + 130 * h.nodes.length) = true) :
    exec (.scalarRecord ch src r) s = .next (if src.val = h.self then
        (match s.learn.ownRecord h with
        | none => s
        | some own => if s.slotNow == ch.val then s.addRecord ch h h.self own else s)
      else s.ofEpoch h r.epoch fun s' =>
        if r.t != s.learn.t || r.round != s.learn.round || !(treeChildren h.rcd h.self).contains src.val then s'
        else match (s'.coll ch).rxBuf.find? fun m => m.opc == 0x23 && m.src == src.val && m.step == r.t && m.rnd == r.round with
          | some m =>
              if s'.slotNow == ch.val then (s'.updColl ch fun k => { k with rxBuf := k.rxBuf.erase m }).addRecord ch h src r else s'
          | none =>
              let n := Tab.get 0 (s'.coll ch).rxSeq src
              let m : CollMsg := { opc := 0x23, ch := ch, rnd := r.round, src := src, mep := r.epoch, step := r.t, seq := n, lrn := true
                                   data := GateRec.scalarBytes r }
              if s'.slotNow == ch.val then (s'.collTake h m).addRecord ch h src r
              else if s'.waitRoom ch m then (s'.collTake h m).updColl ch fun k => { k with rxBuf := k.rxBuf ++ [m] } else s') := by
  rw [exec_scalarRecord]
  unfold execScalarRecord
  rw [runs]
  dsimp only
  refine congrArg Host.Outcome.next (if_neg ?_)
  rw [bound, binding, bne_self_eq_false, beq_eq_false_iff_ne.2 open_, judged, fresh, room]
  decide

/-- A record of the open step and round, of a child, is due. -/
theorem scalar_due (step : r.t = s.learn.t) (round : r.round = s.learn.round)
    (below : (treeChildren h.rcd h.self).contains src.val = true) :
    ¬(r.t != s.learn.t || r.round != s.learn.round || !(treeChildren h.rcd h.self).contains src.val) = true := by
  rw [step, round, below, bne_self_eq_false, bne_self_eq_false]
  decide

end Scalars

end Sys2Proof.Machine
open Sys2Proof.Machine

/-- Settles O35: descriptors by `takeDesc_taken`, messages by `collArrive_new`, records by `exec_scalarRecord_due`. -/
theorem collectives : Obligations.Collectives := by
  unfold Obligations.Collectives
  refine ⟨?channels, ?scalars⟩
  case channels =>
    intro s t c ch op h b m succ seq
    dsimp only
    refine ⟨fun admits set_ known free charter => ?_, fun admits clear => ?_, fun admits => ?_, fun ready due => ?_,
      fun runs entry idle gathered may reached read => ⟨fun bad => ?_, fun legal row plain held signal room => ?_⟩,
      fun named joining => ?_, fun named member => ⟨fun stale => ?_, fun current => ⟨fun other => ?_, fun own coll runs =>
        ⟨fun old => ?_, fun new => ⟨fun shard => ?_, fun resent => ?_, fun scalar => ?_, fun code plain unnamed => ?_⟩⟩,
        fun own query => ?_⟩⟩, fun bound known current => ?_⟩
    · rw [exec_collBind]
      refine congrArg Host.Outcome.next (mailbox_done admits rfl rfl ?_ ?_ rfl ?_)
      · exact congrArg (List.cons _) (if_pos set_)
      · exact if_pos set_
      · have set' : bit (argAt (s.argsOf c) 0) 16 = true := set_
        have known' : s.taken.herd? (argAt (s.argsOf c) 1).toNat = some h := known
        have fits : ¬((s.taken.coll (fld (argAt (s.argsOf c) 0) 3 0)).bound ||
            h.chd != (s.taken.ctx (fld (argAt (s.argsOf c) 0) 15 4)).chd) = true := by
          have free' : (s.taken.coll (fld (argAt (s.argsOf c) 0) 3 0)).bound = false := free
          have charter' : h.chd = (s.taken.ctx (fld (argAt (s.argsOf c) 0) 15 4)).chd := charter
          rw [free', charter', bne_self_eq_false]
          decide
        dsimp only
        rw [set', if_neg (by decide), known']
        exact if_neg fits
    · rw [exec_collBind]
      refine congrArg Host.Outcome.next (mailbox_done admits rfl rfl ?_ ?_ rfl ?_)
      · exact congrArg (List.cons _) (if_neg (Bool.eq_false_iff.1 clear))
      · exact if_neg (Bool.eq_false_iff.1 clear)
      · have clear' : bit (argAt (s.argsOf c) 0) 16 = false := clear
        dsimp only
        rw [clear', if_pos (by decide)]
        rfl
    · rw [exec_collSwap]
      by_cases soon : (argAt (s.argsOf c) 0).toNat < s.now.toNat + 1000000
      · rw [if_pos soon]
        exact congrArg Host.Outcome.next (mailbox_refused admits rfl rfl rfl rfl rfl (if_pos soon))
      · rw [if_neg soon]
        exact congrArg Host.Outcome.next (mailbox_done admits rfl rfl rfl rfl rfl (if_neg soon))
    · rw [exec_slotTableSwap]
      exact congrArg Host.Outcome.next (if_neg (by rw [ready, bne_self_eq_false, beq_eq_false_iff_ne.2 due]; decide))
    · rw [exec_collRow op runs gathered, takeDesc_read runs entry idle may reached read]
      exact congrArg Host.Outcome.next (if_pos bad)
    · rw [exec_collRow op runs gathered, takeDesc_taken runs entry idle may reached read legal row plain held signal room]
    · rw [exec_collectiveMessage]
      simp only [execCollectiveMessage, named, joining, beq_self_eq_true, if_true]
    · rw [exec_collectiveMessage]
      simp only [execCollectiveMessage, named, beq_eq_false_iff_ne.2 member, Bool.false_eq_true, if_false]
      exact congrArg Host.Outcome.next (if_neg (by rw [beq_iff_eq]; exact stale))
    · rw [exec_collectiveMessage]
      simp only [execCollectiveMessage, named, beq_eq_false_iff_ne.2 member, Bool.false_eq_true, if_false]
      exact congrArg Host.Outcome.next ((ofEpoch_current current).trans (if_pos (bne_iff_ne.2 other)))
    · rw [exec_collectiveMessage_arrives named member current own coll runs]
      exact congrArg Host.Outcome.next (if_pos old)
    · have code := opc_of_isShard shard
      rw [exec_collectiveMessage_arrives named member current own coll runs, collArrive_new new, if_neg (by omega), if_neg (by omega),
        if_pos shard]
      exact congrArg Host.Outcome.next (if_congr (by rw [Bool.or_eq_true, Bool.not_eq_true']) rfl rfl)
    · rw [exec_collectiveMessage_arrives named member current own coll runs, collArrive_new new, if_neg (by omega), if_pos resent]
    · rw [exec_collectiveMessage_arrives named member current own coll runs, collArrive_new new, if_pos scalar]
    · have waits : (s.named m.ch m).filter (fun _ => s.slotNow == m.ch) = none := by
        rcases unnamed with none | outside
        · rw [none]; rfl
        · rw [beq_eq_false_iff_ne.2 outside]
          cases s.named m.ch m <;> rfl
      rw [exec_collectiveMessage_arrives named member current own coll runs, collArrive_new new, if_neg (by omega), if_neg (by omega),
        if_neg (Bool.eq_false_iff.1 plain), waits]
      exact congrArg Host.Outcome.next (if_congr decide_eq_true_iff rfl rfl)
    · have control : onColl m = false := by unfold onColl; rw [query]; rfl
      rw [exec_collectiveMessage]
      simp only [execCollectiveMessage, named, beq_eq_false_iff_ne.2 member, control, own, bne_self_eq_false, Bool.false_eq_true, if_false]
      refine congrArg Host.Outcome.next ((ofEpoch_current current).trans ?_)
      unfold State.control
      rw [query]
      rfl
    · rw [exec_collectiveAcknowledgement]
      unfold execCollectiveAcknowledgement
      rw [if_pos bound, known]
      exact congrArg Host.Outcome.next (ofEpoch_current current)
  case scalars =>
    intro s ch src h r own w
    dsimp only
    intro runs bound binding open_ judged fresh room
    refine ⟨fun self record => ?_, fun child => ⟨fun stale => ?_, fun current step round below => ⟨fun none => ?_, fun waits entry => ?_⟩⟩⟩
    · rw [exec_scalarRecord_due runs bound binding open_ judged fresh room, if_pos self, record]
      exact congrArg Host.Outcome.next (if_congr beq_iff_eq rfl rfl)
    · rw [exec_scalarRecord_due runs bound binding open_ judged fresh room, if_neg child]
      exact congrArg Host.Outcome.next (if_neg (by rw [beq_iff_eq]; exact stale))
    · rw [exec_scalarRecord_due runs bound binding open_ judged fresh room, if_neg child, ofEpoch_current current,
        if_neg (scalar_due step round below), none]
      exact congrArg Host.Outcome.next (if_congr beq_iff_eq rfl rfl)
    · rw [exec_scalarRecord_due runs bound binding open_ judged fresh room, if_neg child, ofEpoch_current current,
        if_neg (scalar_due step round below), waits]
      exact congrArg Host.Outcome.next (if_pos (beq_iff_eq.2 entry))
end
